-- ==== Sys2Proof/Word.lean ====
section
/-! DEFINITION. The word types of the model and the plainest arithmetic on them (00 Table 0.2). -/

namespace Sys2Proof

/-- A byte of memory. -/
abbrev Byte := BitVec 8
/-- A 32-bit register or word. -/
abbrev W32 := BitVec 32
/-- A 48-bit core mask (R91, R359). -/
abbrev Mask48 := BitVec 48
/-- A 64-bit register, address or word. -/
abbrev W64 := BitVec 64

/-- A 64-bit word from a natural number, keeping the low 64 bits. -/
def w64 (n : Nat) : W64 := BitVec.ofNat 64 n

/-- A 32-bit word from a natural number, keeping the low 32 bits. -/
def w32 (n : Nat) : W32 := BitVec.ofNat 32 n

/-- A byte from a natural number, keeping the low 8 bits. -/
def byteOf (n : Nat) : Byte := BitVec.ofNat 8 n

end Sys2Proof
end

