-- ==== Sys2Proof/Syntax.lean ====
section
/-! DEFINITION. The commands of the block: one constructor for each row of spec/opcode_table.json, with the operands this model gives
the row (the table gives none). Units are numbered as Table 0.2 numbers them. -/

namespace Sys2Proof

/-- Compute die 0 or 1. -/
abbrev DieId := Fin 2
/-- Core 0 to 47 of the package. -/
abbrev CoreId := Fin 48
/-- Scalar context 0 to 7 of a core. -/
abbrev CtxId := Fin 8
/-- Stack 0 to 7. -/
abbrev StackId := Fin 8
/-- Stack channel 0 to 255, numbered stack × 32 + ch. -/
abbrev ChanId := Fin 256
/-- DMA channel 0 to 15 of a core. -/
abbrev DmaId := Fin 16
/-- Link 0 to 17. -/
abbrev LinkId := Fin 18
/-- Ring 0 to 8,191 of a die. -/
abbrev RingId := Fin 8192
/-- Stream of the package: MX, VX, DX of core c are 3c, 3c + 1, 3c + 2; CE of die d is 144 + d; SE of stack s is 146 + s. -/
abbrev StreamId := Fin 154
/-- Scalar register number x0 to x31. -/
abbrev RegNo := Fin 32

/-- A weather message of two words, Table 2.1. -/
structure WMsg where
  w0 : W64
  w1 : W64
  deriving DecidableEq, Repr

/-- A weather message as it comes over one of the links (R34, R493). -/
structure Heard where
  link : LinkId
  msg : WMsg
  deriving DecidableEq, Repr

/-- Where a packet reaches the module: a link, or the gateway (R490, R495). -/
inductive Port where
  | link (l : LinkId)
  | gateway
  deriving DecidableEq, Repr

/-- A fabric packet: its two header words (Table 14.2) and its payload. -/
structure Packet where
  h0 : W64
  h1 : W64
  data : List Byte
  deriving DecidableEq, Repr

/-- The counts of one statistics report, the fields of Table 7.2. -/
structure Stats where
  count : Nat := 0
  zeros : Nat := 0
  flushed : Nat := 0
  sat : Nat := 0
  nonfinite : Nat := 0
  amax : W32 := 0#32
  blkSat : Nat := 0
  deriving DecidableEq, Repr

/-- A granule task for a channel engine (R426, R433): its access to one granule. -/
inductive EngTask where
  | write (off : Nat) (data : List Byte)
  | copy (dst src : Nat)
  | fill (dst : Nat) (pattern : W64)
  | atomic (op off : Nat) (data : List Byte)
  | merge (record : Nat) (st : Stats)
  | version (record : Nat) (data : Nat)
  deriving DecidableEq, Repr

/-- Requesters, numbered as R617 and R676 number them. -/
abbrev Requester := Nat

/-- Times of the exchange of two control flits with the master, in units of 1/16 ns: sent and received by the link, sent and received by the
master (R478). -/
structure Stamps where
  t1 : Nat
  t2 : Nat
  t3 : Nat
  t4 : Nat
  deriving DecidableEq, Repr

/-- The operations of the A extension that SCALAR_AMO executes (R280). -/
inductive AmoOp where
  | lr | sc | swap | add | xor | and | or | min | max | minu | maxu
  deriving DecidableEq, Repr

/-- Why a lane is failing (R414): parity errors on it, at these times in nanoseconds, or a margin that training found too small. -/
inductive LaneWhy where
  | parity (ns : List Nat)
  | margin
  deriving DecidableEq, Repr

/-- A lane of a channel whose margin training at start-up finds below the controller's limit (R414). -/
structure WeakLane where
  ch : ChanId
  isCa : Bool
  group : Nat
  lane : Nat
  deriving DecidableEq, Repr

/-- What training of the stacks finds: the channels that fail, and the weak lanes (R414, R417). -/
structure TrainFound where
  failed : List ChanId
  weak : List WeakLane
  deriving DecidableEq, Repr

/-- Why a channel retrains unscheduled (R412). -/
inductive RetrainCause where
  | due
  | lane (isCa : Bool) (group lane : Nat) (why : LaneWhy)
  | drift
  deriving DecidableEq, Repr

/-- What Forzoevo's test of a core found (R567). -/
inductive TestResult where
  | passed
  | column (physical : Nat)
  | bank (b : Fin 64) (col : Fin 580)
  deriving DecidableEq, Repr

/-- The binding a management message arrives on (R621). -/
inductive Binding where
  | rack
  | host
  deriving DecidableEq, Repr

/-- A firmware component (18, "Firmware"). -/
inductive Component where
  | mgmt
  | train
  deriving DecidableEq, Repr

/-- A firmware image as R627 describes its header; `keyOk` tells whether the SHA-256 of the signer's public key equals
the fused root key hash, `sigOk` what verifying the HSS signature gives; `digest` is the header's digest, `bodyDigest` the body's SHA-256. -/
structure Image where
  component : Component
  version : Nat
  svn : Nat
  keyOk : Bool
  digest : Nat
  bodyDigest : Nat
  sigOk : Bool
  deriving DecidableEq, Repr

/-- The commands, in the order of spec/opcode_table.json. -/
inductive Instr where
  | tick
  | samplePoint
  | masterCutOff
  | epochBoundary
  | doldrumsEnd
  | time (m : Heard)
  | freqReq (m : Heard)
  | late (m : Heard)
  | state (m : Heard)
  | lull (m : Heard)
  | doldrums (m : Heard)
  | freeze (m : Heard)
  | thaw (m : Heard)
  | masterThaw
  | frozenMessageTimer
  | timeHoldover
  | memberAbsent (chip : BitVec 14)
  | masterTakeover
  | fabTimeCfgWrite (d : DieId) (v : W32)
  | streamFetch (k : StreamId)
  | nop (k : StreamId)
  | mark (k : StreamId)
  | entryRetire (k : StreamId)
  | sourceFree (k : StreamId)
  | waitStall (k : StreamId)
  | faultCaptureEnd (d : DieId) (timed : Bool)
  | mmFwd (c : CoreId)
  | mmRev (c : CoreId)
  | mmWgt (c : CoreId)
  | mmDist (c : CoreId)
  | vEw (c : CoreId)
  | vRed (c : CoreId)
  | vRowexp (c : CoreId)
  | vTopk (c : CoreId)
  | vQuant (c : CoreId)
  | vStat (c : CoreId)
  | vScupd (c : CoreId)
  | vGather (c : CoreId)
  | vScatter (c : CoreId)
  | vDispatch (c : CoreId)
  | statMerge (d : DieId) (record : Nat) (st : Stats)
  | dmaCopy (c : CoreId)
  | burstIssue (c : CoreId) (n : DmaId)
  | burstReturn (c : CoreId) (n : DmaId) (b : Nat)
  | sealS0Return (c : CoreId) (n : DmaId)
  | sealS1Return (c : CoreId) (n : DmaId)
  | dmaEngClear (c : CoreId) (v : W32)
  | dmaRestart (c : CoreId) (n : DmaId) (v : W32)
  | dmaDrop (c : CoreId) (n : DmaId) (v : W32)
  | dmaReqWrite (c : CoreId) (n : Fin 64) (v : W32)
  | counterSignal (id : Fin 14336)
  | synCtrWrite (d : DieId) (n : Fin 7168) (v : W64)
  | counterWindowAccess (d : DieId) (off len : Nat) (write : Bool)
  | synBarMaskWrite (d : DieId) (u : Fin 16) (v : W64)
  | scalarRun (c : CoreId) (v : W32)
  | scalarStop (c : CoreId) (v : W32)
  | scalarLoad (c : CoreId) (x : CtxId) (rd rs1 : RegNo) (imm : BitVec 12) (size : Fin 4) (uns short : Bool)
  | scalarStore (c : CoreId) (x : CtxId) (rs2 rs1 : RegNo) (imm : BitVec 12) (size : Fin 4) (short : Bool)
  | scalarAmo (c : CoreId) (x : CtxId) (op : AmoOp) (rd rs1 rs2 : RegNo) (dbl : Bool)
  | csrRead (c : CoreId) (x : CtxId) (rd : RegNo) (csr : BitVec 12)
  | fence (c : CoreId) (x : CtxId)
  | ecall (c : CoreId) (x : CtxId) (word : W32)
  | scalarAccessReturn (c : CoreId) (x : CtxId)
  | twSig (c : CoreId) (x : CtxId) (rs1 : RegNo)
  | twWait (c : CoreId) (x : CtxId) (rs1 rs2 : RegNo)
  | twCtr (c : CoreId) (x : CtxId) (rd rs1 : RegNo)
  | twBara (c : CoreId) (x : CtxId) (rd rs1 : RegNo)
  | twBarw (c : CoreId) (x : CtxId) (rs1 rs2 : RegNo)
  | twHalt (c : CoreId) (x : CtxId)
  | twFlush (c : CoreId) (x : CtxId) (rs1 rs2 : RegNo)
  | twInv (c : CoreId) (x : CtxId) (rs1 rs2 : RegNo)
  | rgnAttrWrite (d : DieId) (n : Fin 256) (v : W32)
  | bridgeTransfer (d : DieId) (unit : Option StreamId) (bad : Bool)
  | atomicWrite (d : DieId) (req : Requester) (a : W64) (data : List Byte)
  | engineTask (ch : ChanId) (t : EngTask)
  | seFill (k : StackId)
  | seCopy (k : StackId)
  | seReduce (k : StackId)
  | seDigest (k : StackId)
  | seStat (k : StackId)
  | seScupd (k : StackId)
  | updAdamw (k : StackId)
  | updLion (k : StackId)
  | updSgdm (k : StackId)
  | updMicro (k : StackId)
  | updRednorm (k : StackId)
  | updWcopy (k : StackId)
  | versionAcq (d : DieId) (a : W64) (data : List Byte)
  | versionRel (d : DieId) (a : W64) (data : List Byte)
  | refreshWindow (d : DieId)
  | retrainWindow (d : DieId)
  | unscheduledRetrain (ch : ChanId) (cause : RetrainCause)
  | retrainEnd (ch : ChanId) (trained : Bool)
  | hbmMapCfgWrite (v : W32)
  | mapRebuildDone
  | hbmMaintWrite (v : W64)
  | write (d : DieId) (port : Port) (p : Packet)
  | read (d : DieId) (port : Port) (p : Packet)
  | readData (d : DieId) (port : Port) (p : Packet)
  | wack (d : DieId) (port : Port) (p : Packet)
  | error (d : DieId) (port : Port) (p : Packet)
  | chunkData (d : DieId) (port : Port) (p : Packet)
  | chunkDone (d : DieId) (port : Port) (p : Packet)
  | ackTimeout (d : DieId) (q : Nat)
  | ceSend (d : DieId)
  | ceRecv (d : DieId)
  | ceTolerated (d : DieId)
  | ceNorm (d : DieId)
  | ceFence (d : DieId)
  | laneFail (l : LinkId) (lane : Fin 4)
  | linkReplay (l : LinkId) (uncorrected good : Bool)
  | lnkCtlRetrain (l : LinkId) (v : W32)
  | lnkRxbufWrite (l : LinkId) (v : W64)
  | landClr (d : DieId) (v : W32)
  | gust (d : DieId)
  | pwrwarn (d : DieId)
  | pwrwarnDeassert (d : DieId)
  | pwrwarnHeld
  | squall (vin : Nat)
  | squallExit
  | chrysalisEntry (vin : Nat)
  | powerDip (vin : Nat)
  | inputTakesLoad (vin : Nat)
  | chrysalisExit (vin : Nat)
  | issueResume
  | rideThroughLost (duration : Nat)
  | bankUpdate (energy : Nat)
  | powerSample (watts : Nat)
  | fastLimiterExpiry
  | capControlInstant (projected pin pavg : Nat) (headroom quietWindow : Bool)
  | thermalSample (tj0 tj1 : Nat) (ts : Vector Nat 8)
  | energyInterval (measured : Nat)
  | pwrCapWrite (v : W32)
  | pwrCfgWrite (v : W32)
  | pwrEnergyClear (v : W32)
  | release (d : DieId) (v : W32)
  | coreTested (c : CoreId) (result : TestResult)
  | moultPoint
  | pageStaged (p : Nat)
  | tUpdate
  | saveDrainExpiry (d : DieId)
  | doorbell (d : DieId) (ring : RingId) (off len : Nat) (v : W64)
  | workNop (d : DieId) (ring : RingId)
  | load (d : DieId) (ring : RingId)
  | start (d : DieId) (ring : RingId)
  | resume (d : DieId) (ring : RingId)
  | abort (d : DieId) (ring : RingId)
  | unload (d : DieId) (ring : RingId)
  | copy (d : DieId) (ring : RingId)
  | moult (d : DieId) (ring : RingId)
  | moultAbort (d : DieId) (ring : RingId)
  | restore (d : DieId) (ring : RingId)
  | save (d : DieId) (ring : RingId)
  | restoreCtx (d : DieId) (ring : RingId)
  | ringError (d : DieId) (ring : RingId) (addr : W64)
  | hifRingCfgWrite (d : DieId) (n : RingId) (v : W64)
  | hifMmioWrite (d : DieId) (n : Fin 8) (v : W64)
  | bar4Access (d : DieId) (off : Nat) (len : Nat) (wr : Option (List Byte))
  | strmMarkClr (k : StreamId) (v : W64)
  | clrCount (c : CoreId) (v : W32)
  | registerWrite (d : DieId) (off len : Nat) (v : W64)
  | functionReset (d : DieId)
  | getIdent (b : Binding)
  | getPubkey (b : Binding)
  | attest (b : Binding) (nonce : List Byte) (recordOk : Bool)
  | getLog (b : Binding) (first count : Nat)
  | setRackCap (b : Binding) (v : Nat)
  | setStartOverride (b : Binding) (v : Nat)
  | setChip (b : Binding) (v : Nat)
  | retireChannel (b : Binding) (ch : Nat)
  | moduleReset (b : Binding)
  | mgmtReset (b : Binding) (slot : BitVec 7)
  | commitSvn (b : Binding)
  | firmwareUpdate (b : Binding) (img : Image)
  | sensorRead (b : Binding) (id : Nat)
  | sensorUpdate
  | treeBuildDone
  | auxUp (slot : BitVec 7)
  | auxLoss
  | vinApplied (vin : Nat)
  | inputQualified (vin : Nat)
  | bankCharge
  | fuseLoad (ok : Bool)
  | sramClear
  | stackTraining (found : TrainFound)
  | linkTraining (lanes : Vector (BitVec 4) 18) (stamps : Vector Stamps 18)
  | timeLockTimeout
  | hostDiscovery (ok : Bool)
  | startupSupplyLoss (vin : Nat)
  | coldReset
  | resetN
  | resetNHeld (slot : BitVec 7)
  | acquireDone (k : StreamId)
  | flushDone (c : CoreId) (x : CtxId)
  | refreshDue (ch : ChanId)
  | thermalCut125c
  | linkRetrainDone (l : LinkId) (lanes : Fin 5) (stamps : Stamps)
  | restorePageDone (p : Nat)
  | saveCopyDone (d : DieId)
  | restoreCtxCopyDone (d : DieId)
  | resetNRelease
  deriving DecidableEq, Repr

end Sys2Proof
end

