-- ==== Sys2Proof/Machine/Bits.lean ====
section
/-! DEFINITION. Bit fields, byte order and small arithmetic. -/

namespace Sys2Proof.Machine

/-- Bits [hi:lo] of a number. -/
def bits (n hi lo : Nat) : Nat := (n / 2 ^ lo) % 2 ^ (hi + 1 - lo)

/-- Bit i of a number. -/
def bit (n i : Nat) : Bool := (n / 2 ^ i) % 2 = 1

/-- Bits [hi:lo] of a word. -/
def fld (w : W64) (hi lo : Nat) : Nat := bits w.toNat hi lo

/-- Bit i of a word. -/
def fbit (w : W64) (i : Nat) : Bool := bit w.toNat i

/-- A truth value as 0 or 1. -/
def b2n (b : Bool) : Nat := if b then 1 else 0

/-- A signed reading of the low `n` bits. -/
def sext (v n : Nat) : Int := if v % 2 ^ n < 2 ^ (n - 1) then (v % 2 ^ n : Nat) else ((v % 2 ^ n : Nat) : Int) - (2 ^ n : Nat)

/-- A number as `n` bytes, least significant first. -/
def toBytes (n : Nat) : Nat → List Byte
  | 0 => []
  | k + 1 => byteOf n :: toBytes (n / 256) k

/-- The number bytes hold, least significant first. -/
def ofBytes : List Byte → Nat
  | [] => 0
  | b :: bs => b.toNat + 256 * ofBytes bs

/-- Words of eight bytes as bytes. -/
def wordsToBytes : List W64 → List Byte
  | [] => []
  | w :: ws => toBytes w.toNat 8 ++ wordsToBytes ws

/-- The first `n` 64-bit words of a byte list. -/
def bytesToWords : Nat → List Byte → List W64
  | 0, _ => []
  | n + 1, bs => w64 (ofBytes (bs.take 8)) :: bytesToWords n (bs.drop 8)

/-- Word i of a list, 0 beyond its end. -/
def wd (ws : List W64) (i : Nat) : W64 := ws.getD i 0#64

/-- Quotient rounded up. -/
def ceilDiv (a b : Nat) : Nat := (a + b - 1) / b

/-- A count that stops at a ceiling. -/
def satAdd (a b top : Nat) : Nat := min (a + b) top

/-- 0xFFFF_FFFF, the ceiling of the 32-bit counting fields. -/
def max32 : Nat := 4294967295

/-- Lowest and highest Int of a range applied to a value. -/
def clampI (lo hi x : Int) : Int := if x < lo then lo else if hi < x then hi else x

/-- Keep the elements that are some, in order. -/
def somes {α : Type} : List (Option α) → List α
  | [] => []
  | none :: r => somes r
  | some a :: r => a :: somes r

/-- Insert by a key, before the elements of equal key. -/
def insBy {α : Type} (key : α → Nat) (x : α) : List α → List α
  | [] => [x]
  | y :: r => if key x ≤ key y then x :: y :: r else y :: insBy key x r

/-- Stable sort by a key. -/
def sortBy {α : Type} (key : α → Nat) : List α → List α
  | [] => []
  | x :: r => insBy key x (sortBy key r)

/-- The bytes XORed or combined pairwise. -/
def zipB (f : Byte → Byte → Byte) : List Byte → List Byte → List Byte
  | a :: as, b :: bs => f a b :: zipB f as bs
  | [], _ => []
  | _ :: _, [] => []

/-- Apply a step n times. -/
def iter {α : Type} (f : α → α) : Nat → α → α
  | 0, a => a
  | n + 1, a => iter f n (f a)

/-- Fold a step over 0 … n−1 in rising order. -/
def forN {α : Type} (n : Nat) (a : α) (f : Nat → α → α) : α := (List.range n).foldl (fun acc i => f i acc) a

end Sys2Proof.Machine
end

