-- ==== Sys2Proof/Machine/Num.lean ====
section
/-! DEFINITION. Numbers: exact dyadic values, the element and scale formats, and the roundings of 06 and 07. -/

namespace Sys2Proof.Machine

/-- A value: a NaN (its sign matters only in Table 6.6), an infinity, or (−1)^neg × m × 2^e. -/
inductive Num where
  | nan (neg : Bool)
  | inf (neg : Bool)
  | fin (neg : Bool) (m : Nat) (e : Int)
  deriving DecidableEq, Repr

/-- How a format uses its topmost codes (Table 6.1). -/
inductive Specials where
  | ieee | e4m3 | none
  deriving DecidableEq, Repr

/-- A floating-point format of Table 6.1: exponent and mantissa widths, bias, specials. -/
structure Fmt where
  eb : Nat
  mb : Nat
  bias : Nat
  sp : Specials
  deriving DecidableEq, Repr

def fp4 : Fmt := ⟨2, 1, 1, .none⟩
def fp6m3 : Fmt := ⟨2, 3, 1, .none⟩
def fp6m2 : Fmt := ⟨3, 2, 3, .none⟩
def e4m3 : Fmt := ⟨4, 3, 7, .e4m3⟩
def e5m2 : Fmt := ⟨5, 2, 15, .ieee⟩
def bf16 : Fmt := ⟨8, 7, 127, .ieee⟩
def fp16 : Fmt := ⟨5, 10, 15, .ieee⟩
def fp32 : Fmt := ⟨8, 23, 127, .ieee⟩
def fp64 : Fmt := ⟨11, 52, 1023, .ieee⟩

/-- Width of a code. -/
def Fmt.width (f : Fmt) : Nat := 1 + f.eb + f.mb
/-- The exponent of the smallest subnormal. -/
def Fmt.qmin (f : Fmt) : Int := 1 - (f.bias : Int) - f.mb
/-- The largest exponent field of a finite code. -/
def Fmt.emax (f : Fmt) : Nat := if f.sp = .ieee then 2 ^ f.eb - 2 else 2 ^ f.eb - 1
/-- The largest finite code, without sign. -/
def Fmt.maxCode (f : Fmt) : Nat :=
  match f.sp with
  | .ieee => (2 ^ f.eb - 1) * 2 ^ f.mb - 1
  | .e4m3 => 2 ^ (f.eb + f.mb) - 2
  | .none => 2 ^ (f.eb + f.mb) - 1
/-- The code of infinity, without sign. -/
def Fmt.infCode (f : Fmt) : Nat := (2 ^ f.eb - 1) * 2 ^ f.mb
/-- The canonical NaN (R188). -/
def Fmt.nanCode (f : Fmt) : Nat :=
  match f.sp with
  | .ieee => f.infCode + 2 ^ (f.mb - 1)
  | .e4m3 => 127
  | .none => f.maxCode

/-- The value of a code (R187, R189). -/
def Fmt.decode (f : Fmt) (code : Nat) : Num :=
  let neg := bit code (f.eb + f.mb)
  let ef := bits code (f.eb + f.mb - 1) f.mb
  let mf := code % 2 ^ f.mb
  if f.sp = .ieee ∧ ef = 2 ^ f.eb - 1 then (if mf = 0 then .inf neg else .nan neg)
  else if f.sp = .e4m3 ∧ code % 128 = 127 then .nan neg
  else if ef = 0 then .fin neg mf f.qmin
  else .fin neg (2 ^ f.mb + mf) ((ef : Int) - f.bias - f.mb)

/-- The value of a finite code of a magnitude, for comparisons. -/
def Num.isNan : Num → Bool | .nan _ => true | .inf _ => false | .fin _ _ _ => false
def Num.isInf : Num → Bool | .inf _ => true | .nan _ => false | .fin _ _ _ => false
def Num.isFin : Num → Bool | .fin _ _ _ => true | .nan _ => false | .inf _ => false
def Num.isZero : Num → Bool | .fin _ m _ => m = 0 | .nan _ => false | .inf _ => false
def Num.neg? : Num → Bool | .nan n => n | .inf n => n | .fin n _ _ => n

/-- +0. -/
def Num.zero : Num := .fin false 0 0
/-- A whole number. -/
def Num.ofInt (i : Int) : Num := .fin (decide (i < 0)) i.natAbs 0
/-- 2^e. -/
def Num.pow2 (e : Int) : Num := .fin false 1 e

/-- m × 2^e at exponent q ≤ e. -/
def scaleTo (m : Nat) (e q : Int) : Nat := m * 2 ^ (e - q).toNat

/-- The signed numerator of a finite value at exponent q. -/
def Num.num (q : Int) : Num → Int
  | .fin n m e => if n then -((scaleTo m e q : Nat) : Int) else ((scaleTo m e q : Nat) : Int)
  | .nan _ => 0
  | .inf _ => 0

/-- Exponent of a finite value. -/
def Num.exp : Num → Int | .fin _ _ e => e | .nan _ => 0 | .inf _ => 0

/-- Compare two finite values: the sign of x − y. -/
def Num.cmpFin (x y : Num) : Int := let q := min x.exp y.exp; x.num q - y.num q

/-- Ordered comparison, NaN comparing false. -/
def Num.lt (x y : Num) : Bool :=
  match x, y with
  | .nan _, _ => false
  | _, .nan _ => false
  | .inf a, .inf b => a && !b
  | .inf a, _ => a
  | _, .inf b => !b
  | x, y => x.cmpFin y < 0
def Num.eqv (x y : Num) : Bool := !x.isNan && !y.isNan && !x.lt y && !y.lt x

def Num.negate : Num → Num | .nan n => .nan (!n) | .inf n => .inf (!n) | .fin n m e => .fin (!n) m e
def Num.abs : Num → Num | .nan _ => .nan false | .inf _ => .inf false | .fin _ m e => .fin false m e

/-- A NaN an operation forms. -/
def qnan : Num := .nan false

/-- Exact sum; an exact zero of opposite signs is +0. -/
def Num.add (x y : Num) : Num :=
  match x, y with
  | .nan _, _ => qnan
  | _, .nan _ => qnan
  | .inf a, .inf b => if a = b then .inf a else qnan
  | .inf a, _ => .inf a
  | _, .inf b => .inf b
  | .fin a m e, .fin b n f =>
    if m = 0 ∧ n = 0 then .fin (a && b) 0 0
    else
      let q := min e f
      let s := (Num.fin a m e).num q + (Num.fin b n f).num q
      .fin (decide (s < 0)) s.natAbs q

def Num.sub (x y : Num) : Num := x.add y.negate

/-- Exact product. -/
def Num.mul (x y : Num) : Num :=
  match x, y with
  | .nan _, _ => qnan
  | _, .nan _ => qnan
  | .inf a, .inf b => .inf (a != b)
  | .inf a, .fin b n _ => if n = 0 then qnan else .inf (a != b)
  | .fin a m _, .inf b => if m = 0 then qnan else .inf (a != b)
  | .fin a m e, .fin b n f => .fin (a != b) (m * n) (e + f)

/-- Bits of a number. -/
def bitLen (m : Nat) : Nat := if m = 0 then 0 else Nat.log2 m + 1

/-- Quotient to at least 80 bits, its lowest bit sticky: every rounding of it to fewer bits is the rounding of the exact quotient. -/
def Num.div (x y : Num) : Num :=
  match x, y with
  | .nan _, _ => qnan
  | _, .nan _ => qnan
  | .inf _, .inf _ => qnan
  | .inf a, .fin b _ _ => .inf (a != b)
  | .fin a _ _, .inf b => .fin (a != b) 0 0
  | .fin a m e, .fin b n f =>
    if n = 0 then (if m = 0 then qnan else .inf (a != b))
    else if m = 0 then .fin (a != b) 0 0
    else
      let k := 80 + bitLen n
      let q := m * 2 ^ k / n
      let st := if m * 2 ^ k % n = 0 then 0 else 1
      .fin (a != b) (2 * q + st) (e - f - k - 1)

/-- Integer square root, bit by bit from bit i down. -/
def isqrtGo (n : Nat) : Nat → Nat → Nat
  | 0, r => r
  | i + 1, r => let t := r + 2 ^ i; if t * t ≤ n then isqrtGo n i t else isqrtGo n i r

def isqrt (n : Nat) : Nat := isqrtGo n (bitLen n / 2 + 1) 0

/-- Square root to at least 80 bits, its lowest bit sticky; of a negative value NaN. -/
def Num.sqrt (x : Num) : Num :=
  match x with
  | .nan _ => qnan
  | .inf n => if n then qnan else .inf false
  | .fin n m e =>
    if m = 0 then .fin n 0 0
    else if n then qnan
    else
      let k : Nat := 162 + (if (e % 2 = 0) then 0 else 1)
      let r := isqrt (m * 2 ^ k)
      let st := if r * r = m * 2 ^ k then 0 else 1
      .fin false (2 * r + st) ((e - k) / 2 - 1)

/-- A rounded magnitude: r × 2^q, and whether anything was lost. -/
structure Rnd where
  r : Nat
  q : Int
  deriving DecidableEq, Repr

/-- The quantum exponent of a magnitude in a format, range unbounded above. -/
def Fmt.quantum (f : Fmt) (m : Nat) (e : Int) : Int := max (e + bitLen m - 1 - f.mb) f.qmin

/-- Round a magnitude to nearest even in a format's precision, range unbounded above. -/
def Fmt.rne (f : Fmt) (m : Nat) (e : Int) : Rnd :=
  let q := f.quantum m e
  if q ≤ e then ⟨scaleTo m e q, q⟩
  else
    let s := (q - e).toNat
    let hi := m / 2 ^ s
    let lo := m % 2 ^ s
    let up := decide (2 ^ s < 2 * lo) || (decide (2 * lo = 2 ^ s) && decide (hi % 2 = 1))
    ⟨hi + b2n up, q⟩

/-- Round a value of this sign and magnitude stochastically with 16 random bits: of its neighbours lo < hi it goes to hi when the bits are
below the fraction (x − lo) ÷ (hi − lo), so that of a negative value hi is the one nearer 0 (R247). -/
def Fmt.rsr (f : Fmt) (rand : Nat) (neg : Bool) (m : Nat) (e : Int) : Rnd :=
  let q := f.quantum m e
  if q ≤ e then ⟨scaleTo m e q, q⟩
  else
    let s := (q - e).toNat
    let near := m / 2 ^ s
    let part := m % 2 ^ s
    if part = 0 then ⟨near, q⟩
    else if neg then ⟨near + b2n (decide ((2 ^ s - part) * 65536 / 2 ^ s ≤ rand)), q⟩
    else ⟨near + b2n (decide (rand < part * 65536 / 2 ^ s)), q⟩

/-- The code of a rounded magnitude without sign, exponent unbounded: beyond maxCode it is out of range. -/
def Fmt.code (f : Fmt) (x : Rnd) : Nat :=
  if x.r < 2 ^ f.mb then x.r
  else
    let y := if x.r = 2 ^ (f.mb + 1) then (x.r / 2, x.q + 1) else (x.r, x.q)
    (y.2 + f.mb + f.bias).toNat * 2 ^ f.mb + (y.1 - 2 ^ f.mb)

/-- What a narrowing gave: the code, and the counts of a statistics report. -/
structure Narrowed where
  code : Nat
  sat : Bool := false
  deriving DecidableEq, Repr

/-- Sign bit of a code. -/
def Fmt.sgn (f : Fmt) (neg : Bool) : Nat := b2n neg * 2 ^ (f.eb + f.mb)

/-- Narrow a value: round by `rd`, then Table 6.6; `ieee` chooses the IEEE mode (R214). -/
def Fmt.narrowBy (f : Fmt) (rd : Bool → Nat → Int → Rnd) (ieee : Bool) (x : Num) : Narrowed :=
  match x with
  | .nan n => if f.sp = .none then { code := f.sgn n + f.maxCode } else { code := f.nanCode }
  | .inf n => if ieee ∧ f.sp = .ieee then { code := f.sgn n + f.infCode } else { code := f.sgn n + f.maxCode }
  | .fin n m e =>
    if m = 0 then { code := f.sgn n }
    else
      let c := f.code (rd n m e)
      if f.maxCode < c then
        (if ieee ∧ f.sp = .ieee then { code := f.sgn n + f.infCode, sat := true } else { code := f.sgn n + f.maxCode, sat := true })
      else { code := f.sgn n + c }

/-- Narrow to nearest even (R214). -/
def Fmt.narrow (f : Fmt) (ieee : Bool) (x : Num) : Narrowed := f.narrowBy (fun _ => f.rne) ieee x
/-- Narrow stochastically (R247). -/
def Fmt.narrowSr (f : Fmt) (rand : Nat) (ieee : Bool) (x : Num) : Narrowed := f.narrowBy (f.rsr rand) ieee x

/-- One IEEE rounding into a format: nearest even, overflow to infinity, canonical NaN (R204, R208). -/
def Fmt.enc (f : Fmt) (x : Num) : Nat := (f.narrow true x).code
/-- The value after one rounding. -/
def Fmt.rnd (f : Fmt) (x : Num) : Num := f.decode (f.enc x)

/-- One FP32 rounding of a value. -/
def rnd32 (x : Num) : Num := fp32.rnd x
def dec32 (n : Nat) : Num := fp32.decode n
def enc32 (x : Num) : Nat := fp32.enc x

/-- floor(log2 |x|) of a non-zero finite magnitude. -/
def ilog2 (m : Nat) (e : Int) : Int := e + bitLen m - 1

/-- Nearest integer, ties to even, of a finite value. -/
def roundInt (neg : Bool) (m : Nat) (e : Int) : Int :=
  let r : Nat := if 0 ≤ e then m * 2 ^ e.toNat
    else
      let s := (-e).toNat
      let hi := m / 2 ^ s
      let lo := m % 2 ^ s
      hi + b2n (decide (2 ^ s < 2 * lo) || (decide (2 * lo = 2 ^ s) && decide (hi % 2 = 1)))
  if neg then -(r : Int) else r

/-- Narrow to a two's-complement integer of w bits, saturating; NaN gives 0 (Table 6.6). The flag tells saturation of a finite value. -/
def narrowInt (w : Nat) (x : Num) : Int × Bool :=
  let lo : Int := -(2 ^ (w - 1) : Nat)
  let hi : Int := (2 ^ (w - 1) : Nat) - 1
  match x with
  | .nan _ => (0, false)
  | .inf n => (if n then lo else hi, false)
  | .fin n m e => let r := roundInt n m e; (clampI lo hi r, decide (r < lo) || decide (hi < r))

/-- Two's-complement code of an integer in w bits. -/
def intCode (w : Nat) (i : Int) : Nat := (i % (2 ^ w : Nat)).toNat

/-- E8M0 scale (R192). -/
def decE8m0 (x : Nat) : Num := if x % 256 = 255 then .nan false else .pow2 ((x % 256 : Nat) - 127 : Int)

/-- UE5M3 scale (R193). -/
def decUe5m3 (x : Nat) : Num :=
  let c := x % 256
  if c = 255 then .nan false
  else if c / 8 = 0 then .fin false (c % 8) (-17)
  else .fin false (8 + c % 8) ((c / 8 : Nat) - 18 : Int)

/-- Round a magnitude to UE5M3 to nearest even, saturated to 0xFE; 0 becomes 0x01 (Table 6.3). The flag tells saturation. -/
def encUe5m3 (m : Nat) (e : Int) : Nat × Bool :=
  let f : Fmt := ⟨5, 3, 15, .none⟩
  if m = 0 then (1, false)
  else
    let c := f.code (f.rne m e)
    if 254 < c then (254, true) else if c = 0 then (1, false) else (c, false)

/-- The larger magnitude of two finite values. -/
def maxAbs (x y : Num) : Num := if x.abs.lt y.abs then y.abs else x.abs

/-- Largest magnitude among finite values, +0.0 when there is none (Table 7.2). -/
def amaxOf (xs : List Num) : Num := xs.foldl (fun a x => if x.isFin then maxAbs a x else a) .zero

end Sys2Proof.Machine
end

