-- ==== Sys2Proof/Config.lean ====
section
/-! DEFINITION. What a part's fuses fix, and the free values: constants with no body, of which nothing can be proved. -/

namespace Sys2Proof.Config

/-- The n-th free value drawn: random bits of FREE mode (R243), the cycle and instret CSRs (R279), a replacement victim (R300, R301), a
log time (R626), and other values the spec leaves open (log entry 3). -/
opaque freeWord : Nat → W64

/-- What a result is that the spec does not give, as a function of the entry's operation and inputs: the same inputs give the same bits on
every run (R216, log entry 3). -/
opaque freeResult : List Nat → W64

/-- GLB_IDENT.STEP_MAJOR and STEP_MINOR, fused (Table 0.1). -/
opaque stepping : BitVec 8

/-- The module's serial number, fused (R622). -/
opaque serial : BitVec 128

/-- PWR_ECOEF(e) and PWR_SCOEF(d), fused (R553, Table 15.18). -/
opaque ecoef : Nat → W32
opaque scoef : Nat → W32

/-- The Forzoevo public key and Twirin's endorsement of it (R622, R632), as the bytes GET_PUBKEY answers. -/
opaque pubKey : List Byte

/-- The one-time signature of a report with the given index and content (R632). -/
opaque signature : Nat → List Byte → List Byte

/-- The status code of a ROUTE_DENIED check fault, which Table 14.7 names and no table encodes (log entry 15). -/
opaque routeDeniedCode : BitVec 8

/-- The fault cause of a CE entry whose read of a scratchpad is answered with an error, which no table encodes (log entry 98). -/
opaque ceBusCode : BitVec 8

/-- The status codes with which RESTORE_CTX is refused where R98 and R100 refuse a stale SHIFT_REF or a base in the past, for which
Table 16.12 has no code (log entry 15). -/
opaque staleShiftCode : BitVec 8
opaque startPastCode : BitVec 8

/-- The bytes of the flash configuration records that a report's digest covers, whose layout the spec does not give: soft repairs of
columns and of banks, spare assignments, retired channels and cores, chip number, RACK_CAP, start override (Table 18.5). -/
opaque flashBytes : List (List Nat) → List Byte

/-- Records that a sector of the attestation state log holds, less one (R634). -/
opaque attRoom : Nat

end Sys2Proof.Config
end

