-- ==== Sys2Proof/Machine/State.lean ====
section
/-! DEFINITION. The state of the MX6: plain data, every piece of state the spec names, each field's default its value at reset (01 R14
and the chapters cited). A `Tab` is a table keyed by a natural number that lists only the entries that differ from their default. -/

namespace Sys2Proof.Machine

/-- Why the machine could stop with a fault. -/
inductive Fault where
  /-- Raised by no command: the spec gives every command of its table an effect, a bus error and a refused access included (safe). -/
  | undefinedCommand
  deriving DecidableEq, Repr

/-- Why a command could be refused. -/
inductive Refusal where
  /-- A command whose meaning is not written yet; raised only by an arm of Dispatch (safe). -/
  | notModelled (mnemonic : String)
  deriving DecidableEq, Repr

/-- A table: pairs of a key and an entry, keys strictly rising, no entry equal to the table's default. -/
abbrev Tab (α : Type) := List (Nat × α)

/-- A byte memory in the form of Host.Cell: an unlisted address reads 0 (R308, R420; host memory: log entry 2). -/
abbrev Mem := List Host.Cell

/-! ### Fabric time (02) -/

/-- The registers each die's fabric time unit has of its own: Tables 2.9 to 2.11. -/
structure FtRegs where
  cfg : W32 := 0x14001010#32
  chips : W32 := 0#32
  step : Bool := false
  msgDrop : Bool := false
  deriving DecidableEq, Repr

/-- The module's timing unit, which die 1's unit follows (R32). -/
structure FabTime where
  now : Nat := 0
  shift : Nat := 0
  locked : Bool := false
  frozen : Bool := false
  dold : Bool := false
  level : Nat := 0
  masterActive : Bool := false
  holdover : Bool := false
  doldLeft : Nat := 0
  /-- LULL announced and not yet in effect: level and boundary (R62). -/
  annLull : Option (Nat × Nat) := none
  /-- DOLDRUMS announced and not yet in effect: count and boundary (R59). -/
  annDold : Option (Nat × Nat) := none
  /-- The Doldrums last applied: count and boundary (R677). -/
  lastDold : Option (Nat × Nat) := none
  /-- The freeze tick Tf of a FREEZE not yet reached (R65). -/
  freezeAt : Option Nat := none
  /-- The freeze tick of the present freeze (R677). -/
  tf : Option Nat := none
  /-- Has entered holdover since it locked: acts only on the standby chip's master types (R64). -/
  onStandby : Bool := false
  /-- Links of die 0 on which the master's messages have come (R34). -/
  heardOn : List Nat := []
  /-- STATE messages with FRESH still to send (R73). -/
  freshLeft : Nat := 4
  /-- The boundary whose sample point, cut-off, boundary step has taken place (log entry 4). -/
  sampledAt : Option Nat := none
  cutAt : Option Nat := none
  boundaryAt : Option Nat := none
  /-- The standing request last sent: level and reason (R49). -/
  reqSent : Nat × Nat := (0, 0)
  /-- The next TIME comes from a newly active master, on which FREQ_REQ is sent again (Table 2.2). -/
  newMaster : Bool := false
  deriving DecidableEq, Repr

/-- What the master keeps of a member (R55, R56, R70, R71, R73). -/
structure Member where
  known : Bool := false
  absent : Bool := false
  level : Nat := 0
  reason : Nat := 0
  /-- The STATE last taken showed Chrysalis (R68). -/
  chrysalis : Bool := false
  ready : Bool := false
  frozenCount : Option Nat := none
  /-- FRESH received since the last cut-off: present from the next one. -/
  rejoining : Bool := false
  deriving DecidableEq, Repr

/-- A LATE report held for a boundary (R55). -/
structure LateRep where
  boundary : Nat
  slip : Nat
  chip : Nat
  deriving DecidableEq, Repr

/-- The slice master's merge. -/
structure Master where
  members : Tab Member := []
  lates : List LateRep := []
  levelAnn : Nat := 0
  freezing : Option Nat := none
  /-- The pause of the last DOLDRUMS or thaw announced: its first and last boundary (Table 2.3). -/
  pause : Option (Nat × Nat) := none
  /-- The DOLDRUMS announced for the coming boundary: count and boundary. -/
  doldAnn : Option (Nat × Nat) := none
  deriving DecidableEq, Repr

/-! ### Schedules and streams (03, 16, 17, 19) -/

/-- The life of a schedule number of a die. -/
inductive SchedPhase where
  | none | loaded | running | stopped | saved
  deriving DecidableEq, Repr

/-- A work order taken whose completion is owed: its ring, index, tag and OP, and the DONE ring named when it was taken (R613, R616). -/
structure OrderRef where
  ring : Nat := 0
  index : Nat := 0
  tag : Nat := 0
  op : Nat := 0
  done : Nat := 0
  deriving DecidableEq, Repr

/-- A fetched entry: its index, its eight words, whether its read failed (R89), and whether its waits were taken before a context switch
(R585, R586). -/
structure Fetched where
  idx : Nat
  words : List W64
  bad : Nat := 0
  noWait : Bool := false
  /-- A byte of it in the schedule buffer has bad parity (R304). -/
  badParity : Bool := false
  deriving DecidableEq, Repr

/-- What a started entry still waits for before its operation is complete. -/
inductive FlightWait where
  | none
  /-- The DMA channel of the entry works on its descriptor (R376). -/
  | dma
  /-- The landing slot of a CE_RECV (R502). -/
  | recv
  /-- Every earlier send's acknowledgement, for a CE_FENCE (R508). -/
  | fence
  /-- Updates held for the version fence: the slots (R464). -/
  | version
  deriving DecidableEq, Repr

/-- An entry started and not retired (R77, R560, R562). -/
structure Flight where
  idx : Nat
  words : List W64
  wait : FlightWait := .none
  /-- The last byte of every source operand has been read (R87). -/
  srcDone : Bool := false
  sfSent : Bool := false
  withdrawn : Bool := false
  /-- The entry met an error or was cut short: it may have written part of its destination (Table 16.2). -/
  part : Bool := false
  /-- Progress as Table 16.9 counts it. -/
  prog : Nat := 0
  /-- Ticks of active count waited inside the entry, for STALL_LIMIT and TOLWAIT (R465, R502, R505). -/
  tol : Nat := 0
  /-- STEP an update entry read at its start, and its records: hyperparameters, the scale record's lower half, microcode (R446, R464);
  for a CE_FENCE, the packets its engine had sent before it. -/
  step : Nat := 0
  recs : List W64 := []
  /-- The entry holds its version slot: it set it DRAINING, or WRITING after that (R464). -/
  slot : Bool := false
  deriving DecidableEq, Repr

/-- A fault counted under R20 that no record describes yet: its number in order since the record was captured, its cause, the faulting
stream and entry, and the address of its DETAIL (R566). -/
structure LateFault where
  order : Nat
  cause : Nat
  strm : Option (Nat × Nat) := none
  detail : W64 := 0#64
  deriving DecidableEq, Repr

/-- A schedule of a die (R91 to R105, R569, R585). -/
structure Sched where
  phase : SchedPhase := .none
  /-- The phase a saved schedule returns to (R585, R586). -/
  was : SchedPhase := .none
  tag : Nat := 0
  context : Nat := 0
  coreMask : Mask48 := 0#48
  streams : List Nat := []
  base : Nat := 0
  /-- The largest release offset the count has reached in this start, plus 1; 0 before any (R41, R39). -/
  relTop : Nat := 0
  /-- The buffers the LOAD filled have not been used by a START yet (R103). -/
  first : Bool := false
  /-- A fault or ABORT has stopped it: no further entry starts (R105). -/
  halted : Bool := false
  status : Nat := 0
  /-- The order whose run completion is owed. -/
  run : Option OrderRef := none
  /-- The ABORT orders that wait for its end (R615). -/
  aborts : List OrderRef := []
  /-- A fault that waits for its LATE record (R566). -/
  late : Option LateFault := none
  deriving DecidableEq, Repr

/-- One stream: its descriptor, buffer, head and status (R76, R652). -/
structure Strm where
  loaded : Bool := false
  sched : Nat := 0
  base : W64 := 0#64
  count : Nat := 0
  slack : Nat := 0
  stallLimit : Nat := 0
  evtLate : Bool := false
  buf : List Fetched := []
  fetchNext : Nat := 0
  /-- Index of the oldest unstarted entry. -/
  next : Nat := 0
  lastRetired : Nat := 0
  noneRetired : Bool := true
  /-- The head entry has passed the checks of R89. -/
  checked : Bool := false
  /-- The head's waits have been tested once: its misused waits have set MISUSE (R352). -/
  tested : Bool := false
  /-- The head's waits were satisfied on a cycle and taken (R85). -/
  granted : Bool := false
  /-- The acquire of the granted head runs (R86). -/
  acquiring : Bool := false
  stall : Nat := 0
  flights : List Flight := []
  finished : Bool := false
  /-- An entry with HALT has started: no entry after it starts in this run (R102). -/
  haltSeen : Bool := false
  stopped : Bool := false
  lateFlag : Bool := false
  slipNow : Nat := 0
  slipMax : Nat := 0
  oob : Nat := 0
  drop : Nat := 0
  lastMark : W32 := 0#32
  deriving DecidableEq, Repr

/-! ### Cores (04, 07, 08, 09, 11) -/

/-- A line of a cache: its bytes, dirty, and the bytes of it whose parity is bad (R300, R304). -/
structure CLine where
  data : List Byte := []
  dirty : Bool := false
  bad : List Nat := []
  deriving DecidableEq, Repr

/-- The state of a scalar context (Table 8.17). -/
inductive CtxState where
  | idle | running | waiting | halted | faulted | stopped
  deriving DecidableEq, Repr

/-- What a descheduled context waits for (R282, R291). -/
inductive CtxWait where
  | none
  /-- A load of the hierarchy: address, size exponent, unsigned, destination, read past the caches or not to be kept (R290), next pc. -/
  | load (addr size : Nat) (uns : Bool) (rd : Nat) (bypass : Bool) (nextPc : W64)
  /-- A store that missed the L1: address, data, not to be kept, next pc. -/
  | store (addr : Nat) (data : List Byte) (drop : Bool) (nextPc : W64)
  /-- An atomic instruction whose line is not in the L1. -/
  | amo (addr : Nat) (op : AmoOp) (rd rs2 : Nat) (dbl drop : Bool) (nextPc : W64)
  /-- A write past the caches that has still to be made: address, data, then the register it sets (R291, R488). -/
  | put (addr : Nat) (data : List Byte) (rd : Nat) (val : W64) (nextPc : W64)
  /-- TW.WAIT: counter and amount. -/
  | counter (ctr amt : Nat) (nextPc : W64)
  /-- TW.BARW: unit and generation. -/
  | barrier (unit gen : Nat) (nextPc : W64)
  /-- TW.FLUSH or TW.INV, or a FENCE, running (R289, R336). -/
  | flush (nextPc : W64)
  | fence (nextPc : W64)
  deriving DecidableEq, Repr

/-- A scalar context (R281 to R291). -/
structure Ctx where
  pc : W64 := 0#64
  /-- The address at which it was last launched, which CORE_SCL_PC reads while it is busy (R293). -/
  launch : W64 := 0#64
  state : CtxState := .idle
  cause : Nat := 0
  regs : Tab W64 := []
  /-- The 64-byte line an LR reserved (R280). -/
  reservation : Option Nat := none
  wait : CtxWait := .none
  /-- Posted bypassing stores not acknowledged. -/
  posted : Nat := 0
  /-- STOP written: it stops at the next instruction boundary (R284). -/
  stopping : Bool := false
  deriving DecidableEq, Repr

/-- A DMA descriptor as queued on a channel (Tables 11.3, 17.19). -/
structure DmaDesc where
  words : List W64 := []
  /-- The DX entry's index, or the ring order. -/
  entry : Option Nat := none
  order : Option OrderRef := none
  deriving DecidableEq, Repr

/-- A read burst that holds a tag, by its transfer byte offset and length: from its issue until its bytes have been written (R372). -/
structure Burst where
  off : Nat
  len : Nat
  /-- Its bytes, once the source has returned them. -/
  got : Option (List Byte) := none
  /-- READ requests to another module not answered, and the bytes of those that were, by offset in the burst. -/
  waiting : Nat := 0
  pieces : List (Nat × List Byte) := []
  remote : Bool := false
  /-- Kind of its bus error (Table 11.9), 0 for none: it writes nothing further. -/
  bad : Nat := 0
  deriving DecidableEq, Repr

/-- What a DMA channel is doing (Table 11.11). -/
inductive DmaPhase where
  | idle | seal0 | moving | seal1 | stopped
  deriving DecidableEq, Repr

/-- A DMA channel (R371 to R396). -/
structure DmaChan where
  phase : DmaPhase := .idle
  lastStatus : Nat := 0
  /-- DMA_CHAN_BYTES: updated when the channel stops or completes. -/
  bytes : Nat := 0
  cur : DmaDesc := {}
  queue : List DmaDesc := []
  /-- Next byte of the transfer to ask for, and next to write. -/
  next : Nat := 0
  done : Nat := 0
  /-- First byte that a bus error left unwritten. -/
  hole : Option Nat := none
  bursts : List Burst := []
  /-- The first seal word read, and the second (R386). -/
  sealWord : Option W64 := none
  seal1 : Option W64 := none
  /-- The seal read in hand has issued and not returned; another module's answer to it (R386). -/
  sealAsked : Bool := false
  sealAns : Option (List Byte) := none
  /-- The mark has been written. -/
  marked : Bool := false
  /-- Rows a paced descriptor has taken requests for (R384). -/
  rowReq : Nat := 0
  /-- Transfer bytes sent to another module or held, not yet landed: offset, length. -/
  acks : List (Nat × Nat) := []
  /-- Its entry was withdrawn: it issues nothing further and ends when its bursts have (R560, R561). -/
  draining : Bool := false
  /-- The page its last demanded read entered (R323). -/
  page : Option Nat := none
  /-- RESTART (1) or DROP (2) was written: it takes effect once what was issued before the stop has completed (R392, R395). -/
  resume : Nat := 0
  deriving DecidableEq, Repr

/-- A DMA request line (Table 11.12). -/
structure ReqLine where
  kind : Nat := 0
  arg : Nat := 0
  ovf : Bool := false
  pending : Nat := 0
  deriving DecidableEq, Repr

/-- The DMA engine of a core (Tables 11.8 to 11.10). -/
structure DmaEng where
  ringChans : Nat := 0xC000
  stopped : Bool := false
  errChan : Nat := 0
  errKind : Nat := 0
  errAddr : W64 := 0#64
  chans : Tab DmaChan := []
  lines : Tab ReqLine := []
  deriving DecidableEq, Repr

/-- The tile held in a core's array (R125, R130, R166, R171): the entry that loaded it, the core's live rows along K and live columns,
the codes of its weights column by column, and its scale bytes. -/
structure Tile where
  valid : Bool := false
  words : List W64 := []
  kc : Nat := 0
  nc : Nat := 0
  codes : List Nat := []
  scales : List Nat := []
  deriving DecidableEq, Repr

/-- A bank of a scratchpad (Table 9.15). -/
structure BankSt where
  /-- Physical columns marked failed by test fuses or soft repair, ascending (R309, R310). -/
  marked : List Nat := []
  soft : Bool := false
  deriving DecidableEq, Repr

/-- One core. -/
structure Core where
  retired : Bool := false
  /-- Physical columns marked failed, fused or by soft repair (R158, R159). -/
  marked : List Nat := []
  softRepair : Bool := false
  accOverlap : Bool := false
  colParity : Bool := false
  lastCol : Nat := 0
  spad : Mem := []
  spadBad : List Nat := []
  acc : Tab W32 := []
  accBad : List Nat := []
  tile : Tile := {}
  l1 : Tab CLine := []
  l2 : Tab CLine := []
  rngMode : Bool := false
  /-- The mode the generators run in, taken from MODE when they were seeded (R242). -/
  rngFree : Bool := false
  seeded : Bool := false
  rngSeed : W64 := 0#64
  gens : Tab (BitVec 128) := []
  recBase : W64 := 0#64
  sclCode : W64 := 12#64
  ctxs : Tab Ctx := []
  spadParity : Bool := false
  accParity : Bool := false
  l1Lost : Bool := false
  corr : Bool := false
  corrCount : Nat := 0
  errAcc : Bool := false
  errAddr : Nat := 0
  banks : Tab BankSt := []
  dma : DmaEng := {}
  /-- Physical columns whose partial-sum path meets a parity error at its next use (R160). -/
  colBad : List Nat := []
  /-- A test of the core is due after a parity fault (R567). -/
  testDue : Bool := false
  deriving DecidableEq, Repr

/-! ### Sync counters and barriers (10) -/

/-- A sync counter (Table 10.6). -/
structure Ctr where
  value : Nat := 0
  kind : Nat := 0
  overflow : Bool := false
  misuse : Bool := false
  /-- Signals sent and not yet arrived (R349). -/
  transit : Nat := 0
  /-- Counters whose signal, fired on one cycle with one of these and named first, takes effect before it (R87). -/
  after : List Nat := []
  deriving DecidableEq, Repr

/-- A barrier unit (Tables 10.8 to 10.10). -/
structure Bar where
  mask : Mask48 := 0#48
  gen : Nat := 0
  arrived : Mask48 := 0#48
  sigId : Nat := 0
  sigEn : Bool := false
  deriving DecidableEq, Repr

/-- SYN_STATUS of a die (Table 10.7). -/
structure SynStat where
  badId : Bool := false
  misuseSeen : Bool := false
  overflowSeen : Bool := false
  lastId : Nat := 0
  deriving DecidableEq, Repr

/-! ### Region table (09) -/

/-- One region table entry: RGN_BASE and RGN_ATTR (Tables 9.4, 9.5). -/
structure Rgn where
  base : W64 := 0#64
  attr : W32 := 0#32
  deriving DecidableEq, Repr

/-- RGN_STATUS (Table 9.7). -/
structure RgnStat where
  err : Nat := 0
  errEntry : Nat := 0
  errValid : Bool := false
  deriving DecidableEq, Repr

/-! ### Stacks (12, 13) -/

/-- A stack channel (Table 12.15). -/
structure Chan where
  dqSpares : Nat := 0
  caSpares : Nat := 0
  retirePending : Bool := false
  failed : Bool := false
  retrains : Nat := 0
  corr : Nat := 0
  pathErr : Nat := 0
  trained : Bool := false
  retraining : Bool := false
  /-- Granule tasks that hold a slot of the channel engine's queue while the channel retrains, in arrival order (R413, R426). -/
  queue : List EngTask := []
  /-- Refreshes deferred (R410). -/
  deferred : Nat := 0
  deriving DecidableEq, Repr

/-- A stack (Tables 7.5, 12.12 to 12.14, 13.7). -/
structure Stack where
  trained : Bool := false
  hot : Bool := false
  selfRefresh : Bool := false
  temp : Nat := 0
  engWeight : Nat := 4
  qfull : Bool := false
  rngMode : Bool := false
  /-- The mode the generators run in, taken from MODE when they were seeded (R242). -/
  rngFree : Bool := false
  seeded : Bool := false
  rngSeed : W64 := 0#64
  skipSeen : Bool := false
  mismatchSeen : Bool := false
  vmisuseSeen : Bool := false
  skipped : Nat := 0
  holds : Nat := 0
  gens : Tab (BitVec 128) := []
  deriving DecidableEq, Repr

/-- A read from outside that waits for a map rebuild: an arriving packet, or the host's through BAR4 (R440). -/
inductive HeldRead where
  | packet (die : Nat) (port : Port) (p : Packet)
  | host (die off len : Nat)
  deriving DecidableEq, Repr

/-- The stacks of the module. -/
structure Hbm where
  mode : Nat := 0
  busy : Bool := false
  refused : Bool := false
  belowGuarantee : Bool := false
  /-- Channels out of the map (R402). -/
  retired : List Nat := []
  maint : W64 := 0x500020014#64
  maintWritten : W64 := 0x500020014#64
  mem : Mem := []
  /-- Grains on which an access meets a stack path error (R416). -/
  stkBad : List Nat := []
  /-- Grains on which the next access meets an error that the DRAM die corrects (R416). -/
  stkSoft : List Nat := []
  /-- Reads that wait for the fill of a map rebuild to end, in their order of arrival (R440). -/
  waiting : List HeldRead := []
  chans : Tab Chan := []
  stackRegs : Tab Stack := []
  deriving DecidableEq, Repr

/-! ### Moult, restore, context switch, fault record (16) -/

/-- Whose write is held: an entry of a stream, bytes of a DMA channel's transfer, a store of a scalar context, or an arriving packet
with its number of arrival. -/
inductive Owner where
  | entry (k idx : Nat)
  | dma (core chan off len : Nat)
  | ctx (core x : Nat)
  | packet (die : Nat) (port : Port) (p : Packet) (seq : Nat)
  deriving DecidableEq, Repr

/-- A write held for a stale page or while a map rebuild fills the stacks: the task, its requester, and whose it is (R573). -/
structure HeldWrite where
  task : EngTask
  req : Nat := 0
  owner : Option Owner := none
  deriving DecidableEq, Repr

/-- Moult and restore (R570 to R582; Tables 16.11 to 16.20). -/
structure Moult where
  active : Bool := false
  tBusy : Bool := false
  restoring : Bool := false
  pageErr : Bool := false
  g : Nat := 0
  rate : Nat := 32
  /-- Pages with T = 1, as disjoint rising ranges: first page, and the page after the last (R571). -/
  tracked : List (Nat × Nat) := []
  pgen : Tab Nat := []
  /-- The MOULT order in progress, its die, its image base, and the tick it waits for before its Moult point. -/
  order : Option OrderRef := none
  die : Nat := 0
  image : W64 := 0#64
  point : Option Nat := none
  /-- Tick count and chip number at the Moult point. -/
  tick : Nat := 0
  chip : Nat := 0
  /-- Pages copied, with their digests, in rising order; pages that could not be read. -/
  digests : Tab (List Byte) := []
  failed : Nat := 0
  /-- Pages asked for by a held write, oldest first; the writes held, oldest first (R573, R574). -/
  urgent : List Nat := []
  held : List HeldWrite := []
  /-- The RESTORE order in progress, its die, its words, the pages still to do, and those that failed. -/
  rOrder : Option OrderRef := none
  rDie : Nat := 0
  rWords : List W64 := []
  rPages : List Nat := []
  rFailed : List Nat := []
  deriving DecidableEq, Repr

/-- An entry of the in-flight table of a fault record (Table 16.8). -/
structure InFlightRec where
  w0 : W64
  w1 : W64
  w2 : W64
  w3 : W64
  deriving DecidableEq, Repr

/-- The fault record of a die and its capture (Tables 16.4 to 16.8). -/
structure FaultRec where
  valid : Bool := false
  pending : Bool := false
  late : Bool := false
  timed : Bool := false
  cause : Nat := 0
  overflow : Nat := 0
  schedTag : Nat := 0
  tick : Nat := 0
  kind : Nat := 0
  unit : Nat := 0
  hasStream : Bool := false
  entry : Nat := 0
  context : Nat := 0
  detail : W64 := 0#64
  nInflight : Nat := 0
  inflightFull : Bool := false
  streams : List (W64 × W64) := []
  dmaTab : List (W64 × W64) := []
  chunk : List W64 := []
  inflight : List InFlightRec := []
  /-- A capture is in progress (R561), the schedules it stopped, and the entries in flight at C0. -/
  capturing : Bool := false
  capScheds : List Nat := []
  /-- Schedule, stream and entry. -/
  snap : List (Nat × Nat × Flight) := []
  deriving DecidableEq, Repr

/-- A saved image of a context: its schedules, and what SAVE read of the units and RESTORE_CTX puts back (R584 to R588). The save area's
bytes hold the scratchpads and accumulators; how the rest is laid out there the spec does not give. -/
structure SavedCtx where
  scheds : List Nat := []
  strms : List (Nat × Strm) := []
  cores : List (Nat × Core) := []
  ctrs : List (Nat × Ctr) := []
  stackRegs : List (Nat × Stack) := []
  deriving DecidableEq, Repr

/-- What a context switch is doing. -/
inductive CtxBusy where
  | none | draining | saving | restoring
  deriving DecidableEq, Repr

/-- The context switch of a die (R583 to R589). GLB_CTX_STATE is read from the schedules. -/
structure CtxSw where
  area : Tab W64 := []
  drain : Nat := 10
  warm : Nat := 0
  /-- The SAVE or RESTORE_CTX in progress, its context, order and schedules. -/
  busy : CtxBusy := .none
  ctx : Nat := 0
  order : Option OrderRef := none
  scheds : List Nat := []
  images : Tab SavedCtx := []
  deriving DecidableEq, Repr

/-! ### Fabric (14) -/

/-- A landing slot (R498). -/
structure Land where
  used : Bool := false
  ctag : Nat := 0
  got : Nat := 0
  announced : Option Nat := none
  cc : Nat := 0
  sat : Nat := 0
  cfmt : Nat := 0
  atag : Nat := 0
  atagValid : Bool := false
  complete : Bool := false
  abandoned : Bool := false
  overrun : Bool := false
  deriving DecidableEq, Repr

/-- Why a request was sent. -/
inductive ReqPurpose where
  /-- A packet of a CE chunk: die, and how many the engine had sent before it (R508). -/
  | chunk (die seq : Nat)
  /-- A DMA read burst piece: core, channel, burst offset, piece offset. -/
  | dmaRead (core chan off piece : Nat)
  /-- A DMA write: core, channel, transfer bytes. -/
  | dmaWrite (core chan off len : Nat)
  /-- A scalar context's load or posted store. -/
  | sclLoad (core ctx : Nat)
  /-- With the address of the store instruction. -/
  | sclStore (core ctx : Nat) (pc : W64)
  | sealRead (core chan which : Nat)
  /-- Its asker waits for it no longer. -/
  | gone
  deriving DecidableEq, Repr

/-- A request sent to another module and not answered (R483, R484). -/
structure Req where
  chip : Nat
  /-- Sending unit (SUNIT), identity and offset, which the response echoes. -/
  sunit : Nat
  id : Nat
  off : Nat
  len : Nat
  write : Bool
  purpose : ReqPurpose
  /-- The link it was sent on, none for the gateway. -/
  link : Option Nat := none
  deriving DecidableEq, Repr

/-- The fabric registers of a die (Tables 14.11 to 14.16). -/
structure Fab where
  ackTimeout : Nat := 10
  denied : Bool := false
  inboundDenied : Bool := false
  misrouted : Bool := false
  noLink : Bool := false
  timeout : Bool := false
  overrun : Bool := false
  lateDiscards : Nat := 0
  tolerated : Nat := 0
  routes : Tab W32 := []
  land : Tab Land := []
  reqs : List Req := []
  nextId : Nat := 0
  /-- Failed arrivals of the bridge transfer in hand towards this die, by the stream of its destination unit plus 1, 0 for none (R157). -/
  bridgeFails : Tab Nat := []
  /-- The set of up links has changed: no request is issued until every outstanding write has been answered (R488). -/
  relink : Bool := false
  /-- Packets that have arrived for this die. -/
  arrivals : Nat := 0
  /-- Packets the collective engine has sent, and those of them that timed out since its last CE_FENCE: number and chip (R508). -/
  ceSent : Nat := 0
  ceLost : List (Nat × Nat) := []
  deriving DecidableEq, Repr

/-- A link (Tables 14.17 to 14.19). -/
structure Link where
  disable : Bool := false
  state : Nat := 0
  lanes : Nat := 0
  delay : Nat := 0
  retries : Nat := 0
  fecUncorr : Nat := 0
  laneFailed : Nat := 0
  rxSize : Nat := 12
  rxBlk : Nat := 12
  rxBase : Nat := 0
  rxEn : Bool := false
  bytes : Nat := 0
  replays : Nat := 0
  deriving DecidableEq, Repr

/-! ### Power (15) -/

/-- The power supervisor and the shells (Tables 15.10 to 15.19). -/
structure Pwr where
  starting : Bool := true
  squall : Bool := false
  chrysalis : Bool := false
  exiting : Bool := false
  tripped : Bool := false
  rails : Bool := false
  /-- PWRWARN as each die samples it. -/
  warn : Tab Bool := []
  warnHeld : Bool := false
  fast : Bool := false
  kc : Nat := 16
  memShare : Nat := 16
  linkShare : Nat := 16
  /-- Domains cut, one for each step, the last-cut first (R543). -/
  cuts : List Nat := []
  thermReq : Nat := 0
  capReq : Nat := 0
  squallReq : Nat := 0
  /-- PWR_CFG as written, and as it governs the control instants (R16). -/
  cfg : W32 := 0x91E#32
  cfgInForce : W32 := 0x91E#32
  hostCap : Nat := 56
  rackCap : Nat := 56
  win : Nat := 3
  unmet : Bool := false
  hostCapNext : Option (Nat × Nat) := none
  rackCapNext : Option Nat := none
  vin : Nat := 0
  pin : Nat := 0
  pavg : Nat := 0
  /-- Bank energy in mJ; charging; BANK_LOW (R537). -/
  energy : Nat := 0
  charging : Bool := false
  bankLow : Bool := true
  startOverride : Bool := false
  onBank : Bool := false
  tj : Tab Nat := []
  ts : Tab Nat := []
  tripSamples : Nat := 0
  countSquall : Nat := 0
  countChrysalis : Nat := 0
  countGust : Tab Nat := []
  /-- PWR_ENERGY: one entry a context, then the unattributed one, in the register's units. -/
  energyTab : Tab Nat := []
  deriving DecidableEq, Repr

/-! ### Host interface (17) -/

/-- An entry for a DONE or EVENT ring: its words but for PHASE (Tables 17.7, 17.8), and the ABORT orders that complete once it has been
written, each with word 2 of its completion (R615). -/
structure Owed where
  w0 : Nat
  w1 : Nat
  w2 : Nat
  w3 : Nat
  after : List (OrderRef × Nat) := []
  deriving DecidableEq, Repr

/-- A descriptor ring (R599 to R614). -/
structure Ring where
  base : W64 := 0#64
  cfg : W64 := 0#64
  shadow : W64 := 0#64
  index : Nat := 0
  bell : Nat := 0
  owed : List Owed := []
  /-- Orders taken whose completion on this ring has not been written (R614). -/
  due : Nat := 0
  /-- The order last taken has not been accepted or refused yet (R611). -/
  busy : Bool := false
  /-- Orders taken and not completed, for FENCE (R610). -/
  outstanding : Nat := 0
  deriving DecidableEq, Repr

/-- An event at a die's merger: M, SRC, code, arguments, and the count when it arose (R23, Table 17.8). -/
structure Arrival where
  mgmt : Bool
  src : Nat
  code : Nat
  a0 : Nat
  a1 : Nat
  tick : Nat
  deriving DecidableEq, Repr

/-- The host interface of a die. -/
structure Hif where
  /-- Events that have reached the merger and are not written yet (R23); none between two commands. -/
  arriving : List Arrival := []
  err : Nat := 0
  errValid : Bool := false
  errRing : Nat := 0
  evtLost : Nat := 0
  mmio : Tab W64 := []
  rings : Tab Ring := []
  evSeq : Nat := 0
  /-- First ring the next turn considers (R611). -/
  nextTurn : Nat := 0
  /-- The lower half last written to a 64-bit register, by its offset (R592). -/
  lowHalf : Tab W32 := []
  /-- The MSI-X table: a vector's message address, and its data with the vector control above it (PRESUMED, log entry 9). -/
  msixAddr : Tab W64 := []
  msixData : Tab W64 := []
  msixPend : List Nat := []
  deriving DecidableEq, Repr

/-! ### Messages sent -/

/-- A message the module has sent. -/
inductive OutMsg where
  /-- With the link it left on, the reference link of R34; none while die 0 has no trained link. -/
  | weather (m : WMsg) (link : Option Nat)
  | packet (port : Port) (p : Packet)
  | msix (die vec : Nat)
  /-- A Twirin response: command, then completion code and results. -/
  | mgmt (b : Binding) (code : Nat) (data : List Nat)
  /-- The answer to a BAR4 read: its bytes, or Completer Abort. -/
  | hostRead (die : Nat) (data : Option (List Byte))
  /-- A PLDM response, of type 2 or 5. -/
  | pldm (b : Binding) (type : Nat) (data : List Nat)
  deriving DecidableEq, Repr

/-- The device but for Forzoevo: the control and data planes and the power supervisor. -/
structure Dev where
  ft : FabTime := {}
  ftRegs : Tab FtRegs := []
  mst : Master := {}
  scheds : Tab Sched := []
  strms : Tab Strm := []
  cores : Tab Core := []
  ctrs : Tab Ctr := []
  bars : Tab Bar := []
  syn : Tab SynStat := []
  rgn : Tab Rgn := []
  rgnStat : Tab RgnStat := []
  hbm : Hbm := {}
  hostMem : Mem := []
  hostErr : List (Nat × Nat) := []
  moult : Moult := {}
  fault : Tab FaultRec := []
  ctxSw : Tab CtxSw := []
  chip : Nat := 0
  fab : Tab Fab := []
  links : Tab Link := []
  pwr : Pwr := {}
  hif : Tab Hif := []
  freeCtr : Nat := 0
  out : List OutMsg := []
  deriving DecidableEq, Repr

/-! ### Forzoevo (18) -/

/-- The images a module leaves the factory with (log entry 5): each in bank A of its component. -/
def factoryImage (c : Component) : Image := { component := c, version := 0, svn := 0, keyOk := true, digest := 0, bodyDigest := 0, sigOk := true }

/-- An attestation record of a flash sector (R631). -/
structure AttRec where
  next : Nat := 0
  valid : Bool := false
  deriving DecidableEq, Repr

/-- A log entry: code and arguments (Table 18.4). -/
structure LogEnt where
  index : Nat
  code : Nat
  boot : Nat
  ms : Nat
  a0 : Nat
  a1 : Nat
  deriving DecidableEq, Repr

/-- Forzoevo's reports on the module: it is below the guarantee and due for replacement, or it has failed (R423). -/
inductive ModReport where
  | replace
  | failed
  deriving DecidableEq, Repr

/-- Forzoevo: standby plane. -/
structure Mgmt where
  /-- The step of Table 18.7 that ended last; 0 while the module is OFF and waits for AUX or a reset. -/
  bootStep : Nat := 0
  aux : Bool := false
  /-- MGMT runs; otherwise Forzoevo is unpowered or in recovery. -/
  running : Bool := false
  recovery : Bool := false
  slot : Nat := 0
  chip : Nat := 0
  rackCap : Nat := 56
  startOverride : Bool := false
  /-- Retirements recorded in flash (R421, R424, R624). -/
  retiredChans : List Nat := []
  retiredCores : List Nat := []
  softCols : List (Nat × Nat) := []
  /-- Soft repairs of scratchpad banks: core, bank, physical column (R310). -/
  softBanks : List (Nat × Nat × Nat) := []
  laneSpares : Tab Chan := []
  fusedCols : List (Nat × Nat) := []
  /-- Columns of scratchpad banks that the test fuses mark: core, bank, physical column (R309). -/
  fusedBanks : List (Nat × Nat × Nat) := []
  /-- What Forzoevo has reported of the module at this start-up (R423). -/
  condition : Option ModReport := none
  /-- Banks: MGMT A and B are 0 and 1, TRAIN A and B are 2 and 3; the active bank of each component. -/
  banks : Tab (Option Image) := [(0, some (factoryImage .mgmt)), (2, some (factoryImage .train))]
  activeMgmt : Nat := 0
  activeTrain : Nat := 0
  /-- A verified image waits in the inactive bank (R628). -/
  pendMgmt : Bool := false
  pendTrain : Bool := false
  fusedSvn : Nat := 0
  bootCount : Nat := 0
  log : List LogEnt := []
  logNext : Nat := 0
  attNext : Nat := 0
  /-- The records of the attestation state log's sectors A and B, oldest first, and the active one (R631, R634). -/
  attA : List AttRec := []
  attB : List AttRec := []
  attOnB : Bool := false
  released : List Nat := []
  treeUpTo : Nat := 0
  stateLogFailed : Bool := false
  sigThisSecond : Nat := 0
  sensors : Tab Nat := []
  resetHold : Bool := false
  /-- A reset of a tripped module waits for T_j to fall to 90 °C (R551). -/
  resetDue : Bool := false
  deriving DecidableEq, Repr

/-- The machine: the commands that wait, Forzoevo, and the device. -/
structure State where
  pending : List Instr := []
  mgmt : Mgmt := {}
  dev : Dev := {}
  deriving DecidableEq, Repr

/-- The machine right after reset: supply off, Forzoevo waiting for AUX, every register at the value of its default above. -/
def State.reset : State := {}

end Sys2Proof.Machine
end

