-- ==== Sys2Proof/Machine/Table.lean ====
section
/-! DEFINITION. Tables and byte memories: reading, writing and the canonical form. -/

namespace Sys2Proof.Machine

/-- The entry at a key; the default where none is listed. -/
def tget {α : Type} (d : α) (t : Tab α) (k : Nat) : α :=
  match t with
  | [] => d
  | e :: r => if e.1 = k then e.2 else tget d r k

/-- The table without the key. -/
def terase {α : Type} (t : Tab α) (k : Nat) : Tab α :=
  match t with
  | [] => []
  | e :: r => if e.1 = k then terase r k else e :: terase r k

/-- Insert in key order a key the table does not list. -/
def tins {α : Type} (t : Tab α) (k : Nat) (v : α) : Tab α :=
  match t with
  | [] => [(k, v)]
  | e :: r => if k < e.1 then (k, v) :: e :: r else e :: tins r k v

/-- Set the entry at a key; an entry equal to the default is not listed. -/
def tset {α : Type} [DecidableEq α] (d : α) (t : Tab α) (k : Nat) (v : α) : Tab α :=
  if v = d then terase t k else tins (terase t k) k v

/-- Change the entry at a key. -/
def tmod {α : Type} [DecidableEq α] (d : α) (t : Tab α) (k : Nat) (f : α → α) : Tab α :=
  tset d t k (f (tget d t k))

/-- Every listed key lies above `lo`, keys rise, and no entry is the default. -/
def tabWfFrom {α : Type} [DecidableEq α] (d : α) (lo : Option Nat) : Tab α → Bool
  | [] => true
  | e :: r => (match lo with | none => true | some k => decide (k < e.1)) && decide (e.2 ≠ d) && tabWfFrom d (some e.1) r

/-- The canonical form of a table. -/
def tabWf {α : Type} [DecidableEq α] (d : α) (t : Tab α) : Bool := tabWfFrom d none t

/-- The canonical form of a byte memory: addresses strictly rising, no byte equal to the unlisted 0. -/
def Memory.wf (m : Mem) : Bool := tabWf 0#8 m

/-- One byte of a memory. -/
def mget (m : Mem) (a : Nat) : Byte := tget 0#8 m a

/-- Write one byte. -/
def mset (m : Mem) (a : Nat) (b : Byte) : Mem := tset 0#8 m a b

/-- `n` bytes from an address. -/
def mread (m : Mem) (a : Nat) : Nat → List Byte
  | 0 => []
  | n + 1 => mget m a :: mread m (a + 1) n

/-- Write bytes from an address on. -/
def mwrite (m : Mem) (a : Nat) : List Byte → Mem
  | [] => m
  | b :: bs => mwrite (mset m a b) (a + 1) bs

/-- The memory without the bytes of a range: they read 0. -/
def mclear (m : Mem) (lo n : Nat) : Mem := m.filter (fun e => decide (e.1 < lo) || decide (lo + n ≤ e.1))

end Sys2Proof.Machine
end

