-- ==== Sys2Proof/Machine/Ops.lean ====
section
/-! DEFINITION. The named operations over the state: one accessor and one update for each table of units. -/

namespace Sys2Proof.Machine

/-- The entry of `ftRegs` at k, of a die. -/
def Dev.ftReg (v : Dev) (k : Nat) : FtRegs := tget {} v.ftRegs k
/-- Change that entry. -/
def Dev.modFtReg (v : Dev) (k : Nat) (g : FtRegs → FtRegs) : Dev := { v with ftRegs := tmod {} v.ftRegs k g }

/-- The entry of `scheds` at k, numbered die × 256 + SCHED_ID. -/
def Dev.sched (v : Dev) (k : Nat) : Sched := tget {} v.scheds k
/-- Change that entry. -/
def Dev.modSched (v : Dev) (k : Nat) (g : Sched → Sched) : Dev := { v with scheds := tmod {} v.scheds k g }

/-- The entry of `strms` at k. -/
def Dev.strm (v : Dev) (k : Nat) : Strm := tget {} v.strms k
/-- Change that entry. -/
def Dev.modStrm (v : Dev) (k : Nat) (g : Strm → Strm) : Dev := { v with strms := tmod {} v.strms k g }

/-- The entry of `cores` at k. -/
def Dev.core (v : Dev) (k : Nat) : Core := tget {} v.cores k
/-- Change that entry. -/
def Dev.modCore (v : Dev) (k : Nat) (g : Core → Core) : Dev := { v with cores := tmod {} v.cores k g }

/-- The entry of `ctrs` at k. -/
def Dev.ctr (v : Dev) (k : Nat) : Ctr := tget {} v.ctrs k
/-- Change that entry. -/
def Dev.modCtr (v : Dev) (k : Nat) (g : Ctr → Ctr) : Dev := { v with ctrs := tmod {} v.ctrs k g }

/-- The entry of `bars` at k. -/
def Dev.bar (v : Dev) (k : Nat) : Bar := tget {} v.bars k
/-- Change that entry. -/
def Dev.modBar (v : Dev) (k : Nat) (g : Bar → Bar) : Dev := { v with bars := tmod {} v.bars k g }

/-- The entry of `syn` at k, of a die. -/
def Dev.synSt (v : Dev) (k : Nat) : SynStat := tget {} v.syn k
/-- Change that entry. -/
def Dev.modSynSt (v : Dev) (k : Nat) (g : SynStat → SynStat) : Dev := { v with syn := tmod {} v.syn k g }

/-- The entry of `rgn` at k, numbered die × 256 + n. -/
def Dev.rgnE (v : Dev) (k : Nat) : Rgn := tget {} v.rgn k
/-- Change that entry. -/
def Dev.modRgnE (v : Dev) (k : Nat) (g : Rgn → Rgn) : Dev := { v with rgn := tmod {} v.rgn k g }

/-- The entry of `rgnStat` at k, of a die. -/
def Dev.rgnSt (v : Dev) (k : Nat) : RgnStat := tget {} v.rgnStat k
/-- Change that entry. -/
def Dev.modRgnSt (v : Dev) (k : Nat) (g : RgnStat → RgnStat) : Dev := { v with rgnStat := tmod {} v.rgnStat k g }

/-- The entry of `fault` at k, of a die. -/
def Dev.flt (v : Dev) (k : Nat) : FaultRec := tget {} v.fault k
/-- Change that entry. -/
def Dev.modFlt (v : Dev) (k : Nat) (g : FaultRec → FaultRec) : Dev := { v with fault := tmod {} v.fault k g }

/-- The entry of `ctxSw` at k, of a die. -/
def Dev.ctxSwD (v : Dev) (k : Nat) : CtxSw := tget {} v.ctxSw k
/-- Change that entry. -/
def Dev.modCtxSwD (v : Dev) (k : Nat) (g : CtxSw → CtxSw) : Dev := { v with ctxSw := tmod {} v.ctxSw k g }

/-- The entry of `fab` at k, of a die. -/
def Dev.fabD (v : Dev) (k : Nat) : Fab := tget {} v.fab k
/-- Change that entry. -/
def Dev.modFabD (v : Dev) (k : Nat) (g : Fab → Fab) : Dev := { v with fab := tmod {} v.fab k g }

/-- The entry of `links` at k. -/
def Dev.linkN (v : Dev) (k : Nat) : Link := tget {} v.links k
/-- Change that entry. -/
def Dev.modLinkN (v : Dev) (k : Nat) (g : Link → Link) : Dev := { v with links := tmod {} v.links k g }

/-- The entry of `hif` at k, of a die. -/
def Dev.hifD (v : Dev) (k : Nat) : Hif := tget {} v.hif k
/-- Change that entry. -/
def Dev.modHifD (v : Dev) (k : Nat) (g : Hif → Hif) : Dev := { v with hif := tmod {} v.hif k g }

/-- Channel 0 to 255 of the stacks. -/
def Dev.chan (v : Dev) (k : Nat) : Chan := tget {} v.hbm.chans k
/-- Change a channel. -/
def Dev.modChan (v : Dev) (k : Nat) (g : Chan → Chan) : Dev := { v with hbm := { v.hbm with chans := tmod {} v.hbm.chans k g } }
/-- A stack's registers. -/
def Dev.stk (v : Dev) (k : Nat) : Stack := tget {} v.hbm.stackRegs k
/-- Change a stack's registers. -/
def Dev.modStk (v : Dev) (k : Nat) (g : Stack → Stack) : Dev := { v with hbm := { v.hbm with stackRegs := tmod {} v.hbm.stackRegs k g } }
/-- A ring of a die. -/
def Dev.ring (v : Dev) (die n : Nat) : Ring := tget {} (v.hifD die).rings n
/-- Change a ring. -/
def Dev.modRing (v : Dev) (die n : Nat) (g : Ring → Ring) : Dev := v.modHifD die (fun h => { h with rings := tmod {} h.rings n g })
/-- A scalar context of a core. -/
def Dev.ctx (v : Dev) (c x : Nat) : Ctx := tget {} (v.core c).ctxs x
/-- Change a scalar context. -/
def Dev.modCtx (v : Dev) (c x : Nat) (g : Ctx → Ctx) : Dev := v.modCore c (fun k => { k with ctxs := tmod {} k.ctxs x g })
/-- A DMA channel of a core. -/
def Dev.dmaCh (v : Dev) (c n : Nat) : DmaChan := tget {} (v.core c).dma.chans n
/-- Change a DMA channel. -/
def Dev.modDmaCh (v : Dev) (c n : Nat) (g : DmaChan → DmaChan) : Dev :=
  v.modCore c (fun k => { k with dma := { k.dma with chans := tmod {} k.dma.chans n g } })
/-- Change a DMA engine's registers. -/
def Dev.modDma (v : Dev) (c : Nat) (g : DmaEng → DmaEng) : Dev := v.modCore c (fun k => { k with dma := g k.dma })
/-- A landing slot of a die. -/
def Dev.land (v : Dev) (die n : Nat) : Land := tget {} (v.fabD die).land n
/-- Change a landing slot. -/
def Dev.modLand (v : Dev) (die n : Nat) (g : Land → Land) : Dev := v.modFabD die (fun f => { f with land := tmod {} f.land n g })
/-- A register of a scalar context; x0 reads 0. -/
def Ctx.reg (x : Ctx) (r : Nat) : W64 := if r = 0 then 0#64 else tget 0#64 x.regs r
/-- Write a register of a scalar context; a write of x0 is discarded. -/
def Ctx.setReg (x : Ctx) (r : Nat) (w : W64) : Ctx := if r = 0 then x else { x with regs := tset 0#64 x.regs r w }

/-- The one-way delay that an exchange of timestamped control flits with the master measures, rounded down (R478). -/
def stampDelay (s : Stamps) : Nat := ((((s.t4 : Int) - s.t1) - ((s.t3 : Int) - s.t2)) / 2).toNat

/-- Change the fabric time unit. -/
def Dev.modFt (v : Dev) (g : FabTime → FabTime) : Dev := { v with ft := g v.ft }
/-- Change the master's merge. -/
def Dev.modMst (v : Dev) (g : Master → Master) : Dev := { v with mst := g v.mst }
/-- Change the power state. -/
def Dev.modPwr (v : Dev) (g : Pwr → Pwr) : Dev := { v with pwr := g v.pwr }
/-- Change the Moult state. -/
def Dev.modMoult (v : Dev) (g : Moult → Moult) : Dev := { v with moult := g v.moult }
/-- Change the writes held and the pages they ask for. -/
def Dev.modHeld (v : Dev) (held : List HeldWrite → List HeldWrite) (urgent : List Nat → List Nat) : Dev :=
  v.modMoult (fun m => { m with held := held m.held, urgent := urgent m.urgent })
/-- Change the stacks' own state. -/
def Dev.modHbm (v : Dev) (g : Hbm → Hbm) : Dev := { v with hbm := g v.hbm }
/-- Send a message. -/
def Dev.send (v : Dev) (m : OutMsg) : Dev := { v with out := v.out ++ [m] }
/-- Draw a free value (log entry 3). -/
def Dev.draw (v : Dev) : W64 × Dev := (Config.freeWord v.freeCtr, { v with freeCtr := v.freeCtr + 1 })

/-- Pass n free values by: they have been drawn together. -/
def Dev.skipFree (v : Dev) (n : Nat) : Dev := { v with freeCtr := v.freeCtr + n }

/-- GLB_IDENT (Table 0.1). -/
def glbIdent : Nat := 0x7A310600 + Config.stepping.toNat

/-- Apply a change for each element in order. -/
def Dev.forAll {α : Type} (v : Dev) (xs : List α) (f : Dev → α → Dev) : Dev := xs.foldl f v

/-- Die of a core. -/
def coreDie (c : Nat) : Nat := c / 24
/-- Die of a stack. -/
def stkDie (s : Nat) : Nat := s / 4
/-- Die of a link. -/
def linkDie (l : Nat) : Nat := l / 9

/-- KIND code of a stream (Table 3.1). -/
def strmKind (k : Nat) : Nat := if k < 144 then k % 3 else if k < 146 then 3 else 4
/-- UNIT of a stream (Table 3.7). -/
def strmUnit (k : Nat) : Nat := if k < 144 then k / 3 else if k < 146 then k - 144 else k - 146
/-- The stream of a KIND and UNIT. -/
def strmOf (kind unit : Nat) : Nat := if kind < 3 then unit * 3 + kind else if kind = 3 then 144 + unit else 146 + unit
/-- Die of a stream. -/
def strmDie (k : Nat) : Nat := if k < 144 then coreDie (k / 3) else if k < 146 then k - 144 else stkDie (k - 146)
/-- Source unit number of a stream's unit (R617). -/
def strmSrc (k : Nat) : Nat := if k < 144 then k / 3 else if k < 146 then 74 + (k - 144) else 48 + (k - 146)
/-- STRM argument of an event: KIND, UNIT and entry index (R618). -/
def strmArg (k idx : Nat) : Nat := strmKind k + strmUnit k * 8 + idx * 65536
/-- The streams of the package in the order CE, SE, then cores' MX, VX, DX, restricted to a die. -/
def dieStreams (die : Nat) : List Nat :=
  [144 + die] ++ (List.range 4).map (fun i => 146 + die * 4 + i) ++ (List.range 72).map (fun i => die * 72 + i)
/-- Every stream of the package. -/
def allStreams : List Nat := List.range 154

end Sys2Proof.Machine
end

