-- ==== Sys2Proof/Machine/Rings.lean ====
section
/-! DEFINITION. The host interface's shared operations: host memory, ring entries, completions and events (17). -/

namespace Sys2Proof.Machine

/-- The host answers an access to these bytes with an error (R597). -/
def Dev.hostBad (v : Dev) (a n : Nat) : Bool := v.hostErr.any (fun r => decide (a < r.1 + r.2) && decide (r.1 < a + n))

/-- A global address names host memory: SPACE 0b10 and CHIP 0 (R595). -/
def isHost (a : W64) : Bool := fld a 63 62 = 2 && fld a 61 48 = 0

/-- OFFSET of a global address. -/
def offOf (a : W64) : Nat := fld a 47 0

/-- Read host memory. -/
def Dev.hostRead (v : Dev) (a n : Nat) : List Byte := mread v.hostMem a n

/-- Write host memory. -/
def Dev.hostWrite (v : Dev) (a : Nat) (bs : List Byte) : Dev := { v with hostMem := mwrite v.hostMem a bs }

/-- Clear host memory. -/
def Dev.hostClear (v : Dev) (a n : Nat) : Dev := { v with hostMem := mclear v.hostMem a n }

/-- HIF_RING_CFG fields (Table 17.15). -/
def Ring.en (r : Ring) : Bool := fbit r.cfg 0
def Ring.kind (r : Ring) : Nat := fld r.cfg 2 1
def Ring.size (r : Ring) : Nat := fld r.cfg 7 3
def Ring.doneRing (r : Ring) : Nat := fld r.cfg 28 16
def Ring.intEn (r : Ring) : Bool := fbit r.cfg 32
def Ring.vec (r : Ring) : Nat := fld r.cfg 43 33

/-- Entries a DONE or EVENT ring holds at or above its last doorbell head (R603, R608). -/
def Ring.held (r : Ring) : Nat := (r.index + 2 ^ 32 - r.bell) % 2 ^ 32

/-- The ring with EN cleared. -/
def Ring.stop (r : Ring) : Ring := { r with cfg := r.cfg &&& ~~~1#64 }

/-- PHASE of the entry at an index (R605). -/
def phaseOf (size index : Nat) : Nat := 1 - (index / 2 ^ size) % 2

/-- What writing an entry led to: written, entry refused, shadow refused (R680). -/
inductive PutRes where
  | ok | entryBad (addr : Nat) | shadowBad (addr : Nat)
  deriving DecidableEq, Repr

/-- Write the ring's device index to its shadow (R606). -/
def Dev.putShadow (v : Dev) (die n : Nat) : Dev × PutRes :=
  let r := v.ring die n
  if v.hostBad (offOf r.shadow) 8 then (v.modRing die n Ring.stop, .shadowBad r.shadow.toNat)
  else (v.hostWrite (offOf r.shadow) (toBytes r.index 8), .ok)

/-- A vector's mask bit, in the vector control word above its data (PRESUMED, log entry 9). -/
def Hif.masked (h : Hif) (vec : Nat) : Bool := fbit (tget (w64 (2 ^ 32)) h.msixData vec) 32
/-- Send an MSI-X vector; a masked one waits as pending (R608, Table 19.1). -/
def Dev.msi (v : Dev) (die vec : Nat) : Dev :=
  if (v.hifD die).masked vec then v.modHifD die (fun h => { h with msixPend := if h.msixPend.contains vec then h.msixPend else h.msixPend ++ [vec] })
  else v.send (.msix die vec)

/-- Write one 32-byte entry at the ring's device index, then its shadow, then send its interrupt (R605, R606, R608, R680). -/
def Dev.putEntry (v : Dev) (die n : Nat) (o : Owed) : Dev × PutRes :=
  let r := v.ring die n
  let a := r.base.toNat + (r.index % 2 ^ r.size) * 32
  if v.hostBad (offOf (w64 a)) 32 then (v.modRing die n Ring.stop, .entryBad a)
  else
    let bs := toBytes (o.w0 + phaseOf r.size r.index) 8 ++ toBytes o.w1 8 ++ toBytes o.w2 8 ++ toBytes o.w3 8
    let v1 := (v.hostWrite (offOf (w64 a)) bs).modRing die n (fun q => { q with index := (q.index + 1) % 2 ^ 32 })
    let (v2, res) := v1.putShadow die n
    match res with
    | .ok => (if r.intEn && r.held = 0 then v2.msi die r.vec else v2, .ok)
    | .entryBad x => (v2, .entryBad x)
    | .shadowBad x => (v2, .shadowBad x)

/-- The die's enabled EVENT ring (Table 17.3 allows one). -/
def Dev.eventRing (v : Dev) (die : Nat) : Option Nat :=
  ((v.hifD die).rings.find? (fun e => e.2.en && e.2.kind = 2)).map (fun e => e.1)

/-- Count an event as lost (R609). -/
def Dev.loseEvent (v : Dev) (die : Nat) : Dev := v.modHifD die (fun h => { h with evtLost := satAdd h.evtLost 1 max32 })

/-- Take the next event sequence number (R617). -/
def Dev.bumpSeq (v : Dev) (die : Nat) : Dev := v.modHifD die (fun h => { h with evSeq := (h.evSeq + 1) % 2 ^ 32 })

/-- The words of an event entry but for PHASE (Table 17.8). -/
def Dev.eventWords (v : Dev) (die : Nat) (a : Arrival) : Owed :=
  { w0 := b2n a.mgmt * 2 + a.src % 256 * 256 + a.code % 4096 * 65536 + (v.hifD die).evSeq * 2 ^ 32, w1 := a.tick % 2 ^ 64,
    w2 := a.a0 % 2 ^ 64, w3 := a.a1 % 2 ^ 64 }

/-- What follows a failed write to the EVENT ring: the RING_ERROR event is lost too (R680). -/
def Dev.eventPutDone (v : Dev) (die : Nat) (lostHere : Bool) : PutRes → Dev
  | .ok => v
  | .entryBad _ => ((if lostHere then v.loseEvent die else v).bumpSeq die).loseEvent die
  | .shadowBad _ => (v.bumpSeq die).loseEvent die

/-- Write an event to a die's EVENT ring, keeping one slot free for EVT_LOST, or count it as lost (R609, R617, R618; log entry 14). -/
def Dev.writeEvent (v : Dev) (die : Nat) (a : Arrival) : Dev :=
  let w := v.eventWords die a
  let v1 := v.bumpSeq die
  match v1.eventRing die with
  | none => v1.loseEvent die
  | some n =>
    let r := v1.ring die n
    if (v1.hifD die).evtLost = 0 ∧ r.held + 2 ≤ 2 ^ r.size then
      let (v2, res) := v1.putEntry die n w
      v2.eventPutDone die true res
    else v1.loseEvent die

/-- The merger's order: management events, then ascending SRC (R23). -/
def Arrival.rank (a : Arrival) : Nat := if a.mgmt then 0 else 1 + a.src

/-- An event reaches a die's merger (R23); those of one command reach it in one cycle of its clock (DESIGN CHOICE, log entry 90). -/
def Dev.post (v : Dev) (die : Nat) (mgmt : Bool) (src code a0 a1 : Nat) : Dev :=
  v.modHifD die (fun h => { h with arriving := h.arriving ++ [{ mgmt := mgmt, src := src, code := code, a0 := a0, a1 := a1, tick := v.ft.now }] })

/-- A die's merger writes the events that have reached it; events of one rank keep the order in which they arose (DESIGN CHOICE, log
entry 90). -/
def Dev.mergeDie (v : Dev) (die : Nat) : Dev :=
  (v.modHifD die (fun h => { h with arriving := [] })).forAll (sortBy Arrival.rank (v.hifD die).arriving) (fun u a => u.writeEvent die a)
/-- Both mergers. -/
def Dev.mergeAll (v : Dev) : Dev := (v.mergeDie 0).mergeDie 1
/-- The end of a command that found the device as `old`: the mergers write the events it has posted (R23). -/
def Dev.merged (old v : Dev) : Dev :=
  if (v.hifD 0).arriving = (old.hifD 0).arriving ∧ (v.hifD 1).arriving = (old.hifD 1).arriving then v else v.mergeAll

/-- A data-plane event of a unit of a die. -/
def Dev.ev (v : Dev) (die src code a0 a1 : Nat) : Dev := v.post die false src code a0 a1

/-- A management event goes to both dies (R22). -/
def Dev.evMgmt (v : Dev) (code a0 a1 : Nat) : Dev := (v.post 0 true 255 code a0 a1).post 1 true 255 code a0 a1

/-- An event of both dies' uncore, for what every fabric time unit posts (R32, R63). -/
def Dev.evBoth (v : Dev) (code a0 a1 : Nat) : Dev := (v.ev 0 74 code a0 a1).ev 1 75 code a0 a1

/-- Once space returns, one EVT_LOST entry carries the count (R609). -/
def Dev.drainLost (v : Dev) (die : Nat) : Dev :=
  match v.eventRing die with
  | none => v
  | some n =>
    let r := v.ring die n
    let lost := (v.hifD die).evtLost
    if lost = 0 ∨ 2 ^ r.size ≤ r.held then v
    else
      let w := v.eventWords die { mgmt := false, src := 74 + die, code := 0x070, a0 := lost, a1 := 0, tick := v.ft.now }
      let v1 := (v.bumpSeq die).modHifD die (fun h => { h with evtLost := 0 })
      let (v2, res) := v1.putEntry die n w
      match res with
      | .entryBad _ => ((v2.modHifD die (fun h => { h with evtLost := satAdd lost 1 max32 })).bumpSeq die).loseEvent die
      | .ok => v2
      | .shadowBad x => v2.eventPutDone die false (.shadowBad x)

/-- A completion entry (Table 17.7). -/
def completionOf (o : OrderRef) (status hst w2 w3 : Nat) (after : List (OrderRef × Nat)) : Owed :=
  { w0 := o.op % 256 * 256 + status % 256 * 65536 + hst % 16 * 2 ^ 24 + o.tag % 2 ^ 32 * 2 ^ 32,
    w1 := o.ring % 8192 + o.index % 2 ^ 32 * 2 ^ 32, w2 := w2 % 2 ^ 64, w3 := w3 % 2 ^ 64, after := after }

/-- A completion joins what its order's DONE ring is owed. -/
def Dev.owe (v : Dev) (die : Nat) (o : OrderRef) (e : Owed) : Dev :=
  (v.modRing die o.ring (fun r => { r with outstanding := r.outstanding - 1 })).modRing die o.done (fun r => { r with owed := r.owed ++ [e] })

/-- The order last taken from a ring is accepted or refused (R611). -/
def Dev.accept (v : Dev) (die n : Nat) : Dev := v.modRing die n (fun r => { r with busy := false })

/-- The first completion owed to a ring has been written: the ABORT orders that waited for it complete too (R614, R615). -/
def Dev.paid (v : Dev) (die n : Nat) (o : Owed) : Dev :=
  (v.modRing die n (fun q => { q with owed := q.owed.drop 1, due := q.due - 1 })).forAll o.after (fun u a =>
    (u.owe die a.1 (completionOf a.1 0 0 a.2 0 [])).accept die a.1.ring)

/-- Write completions owed to a DONE ring while it is enabled and not full (R609, R613, R680); `fuel` bounds their number. -/
def Dev.drainDoneN (v : Dev) (die n : Nat) : Nat → Dev
  | 0 => v
  | fuel + 1 =>
    let r := v.ring die n
    match r.owed with
    | [] => v
    | o :: _ =>
      if r.en && r.kind = 1 && decide (r.held < 2 ^ r.size) then
        let (v1, res) := v.putEntry die n o
        match res with
        | .ok => (v1.paid die n o).drainDoneN die n fuel
        | .entryBad a => v1.ev die (74 + die) 0x072 n a
        | .shadowBad a => (v1.paid die n o).ev die (74 + die) 0x072 n a
      else v

/-- Completions owed to a ring, and those that wait for them. -/
def Ring.owedAll (r : Ring) : Nat := r.owed.foldl (fun a e => a + 1 + e.after.length) 0
/-- Write what a DONE ring is owed, and then what the rings of the orders that waited for it are owed. -/
def Dev.drainDone (v : Dev) (die n : Nat) : Dev :=
  let r := v.ring die n
  (v.drainDoneN die n r.owedAll).forAll (r.owed.map (fun e => e.after.map (fun a => a.1.done))).flatten (fun u m => u.drainDoneN die m (u.ring die m).owedAll)

/-- Complete an order, and with it the orders that wait for its completion: they are written when their DONE ring has room (R613 to R616). -/
def Dev.completeThen (v : Dev) (die : Nat) (o : OrderRef) (status hst w2 w3 : Nat) (after : List (OrderRef × Nat)) : Dev :=
  (v.owe die o (completionOf o status hst w2 w3 after)).drainDone die o.done

/-- Complete an order (R613). -/
def Dev.complete (v : Dev) (die : Nat) (o : OrderRef) (status hst w2 w3 : Nat) : Dev := v.completeThen die o status hst w2 w3 []

/-- The end of a command that leaves the device `w`: the events it posted go to their rings (R23). -/
def State.ends (s : State) (w : Dev) : State := { s with dev := Dev.merged s.dev w }
/-- A command that changes only the device. -/
def State.onDev (s : State) (f : Dev → Dev) : Host.Outcome State Fault Refusal := .next (s.ends (f s.dev))

/-- A command that changes the device and Forzoevo. -/
def State.onBoth (s : State) (f : Mgmt → Dev → Mgmt × Dev) : Host.Outcome State Fault Refusal :=
  .next { s with mgmt := (f s.mgmt s.dev).1, dev := Dev.merged s.dev (f s.mgmt s.dev).2 }

end Sys2Proof.Machine
end

