-- ==== Sys2Proof/Machine/Memory.lean ====
section
/-! DEFINITION. Where an address lies and who may reach it: the stack map (12), the module offset map (14), the region table (09), and reads
and writes of the module's own memories with their errors, held writes and indivisible granule tasks. -/

namespace Sys2Proof.Machine

/-! ### The stack map -/

/-- First offset past stack memory (R399). -/
def stackEnd : Nat := 0x4800000000
/-- Base of pool 1 in DIE_LOCAL mode. -/
def pool1 : Nat := 0x2400000000
/-- Bytes of a channel, 1.125 GiB. -/
def chanBytes : Nat := 0x48000000

/-- Retired channels of a pool: the whole module in GLOBAL mode, die h's in DIE_LOCAL mode. -/
def Hbm.retiredIn (h : Hbm) (pool : Nat) : List Nat := if h.mode = 0 then h.retired else h.retired.filter (fun c => c / 128 = pool)
/-- Channels of a pool. -/
def Hbm.np (h : Hbm) : Nat := if h.mode = 0 then 256 else 128
/-- Pool of an offset (R401). -/
def Hbm.poolOf (h : Hbm) (a : Nat) : Nat := if h.mode = 0 then 0 else if a < pool1 then 0 else 1
/-- The stacks are mapped: at most 16 retired channels in a pool (R423). -/
def Hbm.mapped (h : Hbm) : Bool := (h.retiredIn 0).length ≤ 16 && (h.retiredIn 1).length ≤ 16
/-- First offset beyond a pool's usable part (R405). -/
def Hbm.top (h : Hbm) (pool : Nat) : Nat :=
  if h.mode = 0 then stackEnd - h.retired.length * chanBytes
  else pool * pool1 + pool1 - (h.retiredIn pool).length * chanBytes
/-- Every byte lies in usable stack memory (R405). -/
def Hbm.usable (h : Hbm) (a n : Nat) : Bool :=
  h.mapped && (if h.mode = 0 then decide (a + n ≤ h.top 0)
    else decide (a + n ≤ h.top 0) || (decide (pool1 ≤ a) && decide (a + n ≤ h.top 1)) ||
      (decide (h.top 0 = pool1) && decide (a + n ≤ h.top 1)))
/-- Bucket and bucket row of an offset (R400, R401). -/
def Hbm.bucketOf (h : Hbm) (a : Nat) : Nat × Nat :=
  if h.mode = 0 then (bits a 19 8 ^^^ bits a 31 20 ^^^ bits a 38 32, bits a 38 20)
  else
    let p := h.poolOf a
    let a' := a - p * pool1
    (2048 * p + (bits a' 18 8 ^^^ bits a' 29 19 ^^^ bits a' 37 30), bits a' 37 19)
/-- CHAN and own slot of a bucket (R402). -/
def Hbm.bucketChan (h : Hbm) (b : Nat) : Nat × Nat :=
  if h.mode = 0 then (b % 256, b / 256) else let p := b / 2048; let b' := b % 2048; (128 * p + b' % 128, b' / 128)
/-- Entry b of HBM_BUCKET: channel, SPILL, and slot or spill rank (R402). -/
def Hbm.bucket (h : Hbm) (b : Nat) : Nat × Bool × Nat :=
  let (c, s) := h.bucketChan b
  if c ∈ h.retired then
    let r := h.retiredIn (c / 128)
    (c, true, s * r.length + (r.filter (fun x => x < c)).length)
  else (c, false, s)
/-- Surviving channels of a pool, ascending (R404). -/
def Hbm.live (h : Hbm) (pool : Nat) : List Nat :=
  ((List.range h.np).map (fun i => pool * 128 + i)).filter (fun c => !(h.retired.contains c))
/-- Channel and local grain of an offset (R403, R404). -/
def Hbm.grain (h : Hbm) (a : Nat) : Nat × Nat :=
  let (b, u) := h.bucketOf a
  let (c, spill, slot) := h.bucket b
  if spill then
    let pool := h.poolOf a
    let nr := (h.retiredIn pool).length
    let keep := 294912 * (h.np - nr) / h.np
    let x := 16 * nr * u + slot
    ((h.live pool).getD (x % (h.np - nr)) c, 16 * keep + x / (h.np - nr))
  else (c, 16 * u + slot)
/-- Channel of an offset. -/
def Hbm.chanOf (h : Hbm) (a : Nat) : Nat := (h.grain a).1
/-- Pseudo-channel, bank, DRAM row and 128-byte column group of an offset (R406). -/
def Hbm.dramOf (h : Hbm) (a : Nat) : Nat × Nat × Nat × Nat :=
  let l := (h.grain a).2
  (bits a 6 6, bits l 5 0 ^^^ bits l 14 9, bits l 22 9, bits l 8 6)
/-- HBM_MAP_STATUS.CAP_PAGES (Table 12.16). -/
def Hbm.capPages (h : Hbm) : Nat := if h.mapped then (stackEnd - h.retired.length * chanBytes) / 65536 else 0

/-! ### Module offsets and regions -/

/-- What lies at a module offset (Table 14.4, R295). -/
inductive Place where
  | stack (a : Nat)
  | spad (c a : Nat)
  | hole
  | sync (a : Nat)
  | atomic (op a : Nat)
  | version (a : Nat)
  | none
  deriving DecidableEq, Repr

def spadBase : Nat := 0x10000000000
def spadBytes : Nat := 25165824
def syncBase : Nat := 0x18000000000
def atomBase : Nat := 0x20000000000
def atomStep : Nat := 0x8000000000
def verBase : Nat := 0xA0000000000

/-- Stack memory or a scratchpad. -/
def Place.isPlain (p : Place) : Bool :=
  match p with
  | .stack _ => true
  | .spad _ _ => true
  | .hole => false
  | .sync _ => false
  | .atomic _ _ => false
  | .version _ => false
  | .none => false
/-- An atomic window. -/
def Place.isAtomic (p : Place) : Bool :=
  match p with
  | .atomic _ _ => true
  | .stack _ => false
  | .spad _ _ => false
  | .hole => false
  | .sync _ => false
  | .version _ => false
  | .none => false

/-- The place of a module offset. -/
def placeOf (off : Nat) : Place :=
  if off < stackEnd then .stack off
  else if spadBase ≤ off ∧ off < spadBase + 48 * 0x2000000 then
    let r := off - spadBase
    if r % 0x2000000 < spadBytes then .spad (r / 0x2000000) (r % 0x2000000) else .hole
  else if syncBase ≤ off ∧ off < syncBase + 0x20000 then .sync (off - syncBase)
  else if atomBase ≤ off ∧ off < atomBase + 16 * atomStep then .atomic ((off - atomBase) / atomStep) ((off - atomBase) % atomStep)
  else if verBase ≤ off ∧ off < verBase + stackEnd then .version (off - verBase)
  else .none

def Rgn.en (r : Rgn) : Bool := bit r.attr.toNat 0
def Rgn.size (r : Rgn) : Nat := bits r.attr.toNat 6 1
def Rgn.rd (r : Rgn) : Bool := bit r.attr.toNat 7
def Rgn.wr (r : Rgn) : Bool := bit r.attr.toNat 8
def Rgn.cache (r : Rgn) : Bool := bit r.attr.toNat 9
def Rgn.runahead (r : Rgn) : Bool := bit r.attr.toNat 10
def Rgn.track (r : Rgn) : Bool := bit r.attr.toNat 11
def Rgn.remote (r : Rgn) : Bool := bit r.attr.toNat 12
/-- The region holds every byte (R312, R315). -/
def Rgn.covers (r : Rgn) (a n : Nat) : Bool := r.en && decide (r.base.toNat ≤ a) && decide (a + n ≤ r.base.toNat + 2 ^ r.size)

/-- The enabled region of a die that holds every byte of an access. -/
def Dev.rgnFind (v : Dev) (die a n : Nat) : Option Rgn :=
  (v.rgn.find? (fun e => decide (e.1 / 256 = die) && e.2.covers a n)).map (fun e => e.2)

/-- The access is permitted (R315); an access that arrives from another module needs REMOTE (R316). -/
def Dev.permits (v : Dev) (die a n : Nat) (wr remote : Bool) : Bool :=
  match v.rgnFind die a n with
  | none => false
  | some r => (if wr then r.wr else r.rd) && (!remote || r.remote)

/-- A host MMIO window covers some byte (R598). -/
def mmioHits (w : W64) (a n : Nat) : Bool :=
  let s := fld w 6 1
  fbit w 0 && decide (12 ≤ s) && decide (s ≤ 47) &&
    (let b := fld w 47 12 * 4096 / 2 ^ s * 2 ^ s; decide (a < b + 2 ^ s) && decide (b < a + n))
def Dev.inMmio (v : Dev) (die a n : Nat) : Bool := (v.hifD die).mmio.any (fun e => mmioHits e.2 a n)
/-- A global address lies in a host MMIO window. -/
def Dev.mmioAt (v : Dev) (die : Nat) (a : W64) (n : Nat) : Bool := isHost a && v.inMmio die (offOf a) n
/-- A run-ahead read of a page is issued by a requester that has entered a page, or none: it is that page, or it lies in a region with RD and
RUNAHEAD 1 and in no host MMIO window (R319, R321). -/
def Dev.pageAhead (v : Dev) (die : Nat) (entered : Option Nat) (p : Nat) : Bool :=
  decide (entered = some p) ||
  (!v.mmioAt die (w64 (p * 65536)) 65536 && (match v.rgnFind die (p * 65536) 65536 with | some r => r.rd && r.runahead | none => false))

/-! ### Reads and writes of the module's memories -/

/-- What an access gave: bytes, or an error of the kinds of Table 11.9 (1 region, 2 scratchpad parity, 3 error answer, 4 stack path). -/
inductive Acc where
  | ok (bs : List Byte)
  | err (kind : Nat)
  deriving DecidableEq, Repr

/-- The access gave bytes. -/
def Acc.isOk (a : Acc) : Bool :=
  match a with
  | .ok _ => true
  | .err _ => false

/-- First byte of an access that meets a stack path error (R405, R415, R416). -/
def Dev.pathAt (v : Dev) (a n : Nat) : Option Nat :=
  ((List.range ((a + n - 1) / 64 + 1 - a / 64)).map (fun i => max a ((a / 64 + i) * 64))).find? (fun x =>
    !v.hbm.usable x 1 || (v.chan (v.hbm.chanOf x)).failed || v.hbm.stkBad.contains (x / 64))

/-- Count and post a stack path error; the fault of the granule's cells is met once (R304, R417). -/
def Dev.pathError (v : Dev) (x req : Nat) : Dev :=
  let ch := v.hbm.chanOf x
  let v1 := v.modHbm (fun h => { h with stkBad := h.stkBad.erase (x / 64) })
  let v2 := v1.modChan ch (fun c => { c with pathErr := satAdd c.pathErr 1 65535 })
  v2.ev (ch / 128) (48 + ch / 32) 0x032 x (ch % 256 + req % 256 * 256)

/-- An access whose bytes meet errors that a DRAM die corrects: each counts once in CORR of its channel (R416, Table 12.15). -/
def Dev.softErrs (v : Dev) (a n : Nat) : Dev :=
  let gs := if n = 0 then [] else v.hbm.stkSoft.filter (fun g => decide (a / 64 ≤ g) && decide (g ≤ (a + n - 1) / 64))
  if gs.isEmpty then v
  else (v.modHbm (fun h => { h with stkSoft := h.stkSoft.filter (fun g => !gs.contains g) })).forAll gs (fun u g =>
    u.modChan (u.hbm.chanOf (g * 64)) (fun c => { c with corr := satAdd c.corr 1 65535 }))

/-- A stack access meets no path error. -/
def Dev.stackOk (v : Dev) (a n : Nat) : Bool := n = 0 || (v.pathAt a n).isNone

/-- Record a parity error of a core memory and post MEM_PARITY (R305). -/
def Dev.memParity (v : Dev) (c : Nat) (acc : Bool) (addr : Nat) : Dev :=
  let v1 := v.modCore c (fun k => { k with spadParity := k.spadParity || !acc, accParity := k.accParity || acc, errAcc := acc, errAddr := addr / 64 * 64 })
  v1.ev (coreDie c) c 0x015 c (b2n acc + addr / 64 * 64)

/-- A byte of a scratchpad range has a parity error. -/
def Core.spadBadIn (k : Core) (a n : Nat) : Option Nat := k.spadBad.find? (fun x => decide (a ≤ x) && decide (x < a + n))

/-- Read a scratchpad. -/
def Core.spadRead (k : Core) (a n : Nat) : List Byte := mread k.spad a n
/-- Write a scratchpad: each byte's parity is fresh (R304). -/
def Core.spadWrite (k : Core) (a : Nat) (bs : List Byte) : Core :=
  { k with spad := mwrite k.spad a bs, spadBad := k.spadBad.filter (fun x => !(decide (a ≤ x) && decide (x < a + bs.length))) }

/-- Wing w = core / 6 is no longer warm (R587). -/
def Dev.coolWing (v : Dev) (c : Nat) : Dev :=
  v.modCtxSwD (coreDie c) (fun s => { s with warm := if bit s.warm (8 * (c / 6 % 4) + 4) then s.warm - 2 ^ (8 * (c / 6 % 4) + 4) - bits s.warm (8 * (c / 6 % 4) + 3) (8 * (c / 6 % 4)) * 2 ^ (8 * (c / 6 % 4)) else s.warm })

/-- Send a signal to a counter; it arrives with a later COUNTER_SIGNAL (R349). -/
def Dev.sendSignal (v : Dev) (id : Nat) : Dev := v.modCtr id (fun c => { c with transit := c.transit + 1 })

/-- Signals of one entry that fire on one cycle: the second takes effect after the first (R87). -/
def Dev.sendSignals (v : Dev) (ids : List Nat) : Dev :=
  let v1 := v.forAll ids Dev.sendSignal
  match ids with
  | [a, b] => if a = b then v1 else v1.modCtr b (fun c => { c with after := c.after ++ [a] })
  | _ => v1

/-- Set a flag of a counter; when it changes from 0, post the event and update SYN_STATUS (R353). -/
def Dev.setMisuse (v : Dev) (id : Nat) : Dev :=
  let die := if id < 12288 then coreDie (id / 256) else (id - 12288) / 1024
  if (v.ctr id).misuse then v
  else
    let v1 := (v.modCtr id (fun c => { c with misuse := true })).modSynSt die (fun s => { s with misuseSeen := true, lastId := id })
    v1.ev die (if id < 12288 then id / 256 else 74 + die) 0x021 id 0
def Dev.setOverflow (v : Dev) (id : Nat) : Dev :=
  let die := if id < 12288 then coreDie (id / 256) else (id - 12288) / 1024
  if (v.ctr id).overflow then v
  else
    let v1 := (v.modCtr id (fun c => { c with overflow := true })).modSynSt die (fun s => { s with overflowSeen := true, lastId := id })
    v1.ev die (if id < 12288 then id / 256 else 74 + die) 0x020 id 0

/-- A bad access to the sync-counter window (R357). -/
def Dev.syncBad (v : Dev) (die off : Nat) : Dev :=
  (v.modSynSt die (fun s => { s with badId := true })).ev die (74 + die) 0x021 (off / 8) 0

/-- The access to the sync-counter window is an aligned 8-byte one at a counter (R356, R357). -/
def syncGood (off n : Nat) : Bool := off % 8 = 0 && n = 8 && decide (off / 8 < 14336)

/-! ### Granule tasks -/

/-- Bytes of an element: TYPE 0 FP32, 1 BF16, 2 INT32, 3 INT64, 4 FP64. -/
def elBytes (ty : Nat) : Nat := if ty = 0 ∨ ty = 2 then 4 else if ty = 1 then 2 else 8

/-- The floating-point format of a TYPE. -/
def elFmt (ty : Nat) : Fmt := if ty = 1 then bf16 else if ty = 4 then fp64 else fp32

/-- The code as it is written: a NaN as its canonical pattern (R188). -/
def canonEl (ty x : Nat) : Nat := if ty = 2 ∨ ty = 3 then x else if ((elFmt ty).decode x).isNan then (elFmt ty).nanCode else x
/-- One atomic or reduction on a stored element x with y: OP 0 ADD, 1 MAX, 2 MIN (Table 12.7). -/
def elOp (ty op x y : Nat) : Nat :=
  if ty = 2 ∨ ty = 3 then
    let w := 8 * elBytes ty
    let sx := sext x w
    let sy := sext y w
    if op = 0 then (x + y) % 2 ^ w else if op = 1 then (if sx < sy then y else x) else (if sy < sx then y else x)
  else
    let f := elFmt ty
    let a := f.decode x
    let b := f.decode y
    if op = 0 then f.enc (a.add b)
    else if a.isNan || b.isNan then f.nanCode
    else if op = 1 then (if a.lt b then y else x) else (if b.lt a then y else x)

/-- TYPE and OP of an atomic operation (Table 12.6); none where reserved. -/
def atomicKind (op : Nat) : Option (Nat × Nat) :=
  match op with
  | 0 => some (0, 0) | 1 => some (1, 0) | 2 => some (2, 0) | 3 => some (3, 0)
  | 4 => some (0, 1) | 5 => some (0, 2) | 6 => some (1, 1) | 7 => some (1, 2)
  | 8 => some (2, 1) | 9 => some (2, 2) | 10 => some (3, 1) | 11 => some (3, 2)
  | _ => none

/-- Combine element by element. -/
def elZip (ty op : Nat) : Nat → List Byte → List Byte → List Byte
  | 0, _, _ => []
  | n + 1, xs, ys =>
    let k := elBytes ty
    toBytes (elOp ty op (ofBytes (xs.take k)) (ofBytes (ys.take k))) k ++ elZip ty op n (xs.drop k) (ys.drop k)

/-- The form R429 asks of an atomic write. -/
def atomicGood (op a n : Nat) : Bool :=
  match atomicKind op with
  | none => false
  | some (ty, _) => decide (0 < n) && a % elBytes ty = 0 && n % elBytes ty = 0 && decide (a / 64 = (a + n - 1) / 64)

/-- Merge a statistics report into the eight words of a record (R229). -/
def mergeStats (ws : List W64) (st : Stats) : List W64 :=
  let top := 2 ^ 64 - 1
  let add (i n : Nat) : W64 := w64 (satAdd (wd ws i).toNat n top)
  let amax := max (fld (wd ws 5) 31 0) st.amax.toNat
  let blk := satAdd (fld (wd ws 5) 63 32) st.blkSat max32
  [add 0 st.count, add 1 st.zeros, add 2 st.flushed, add 3 st.sat, add 4 st.nonfinite, w64 (amax + blk * 2 ^ 32), wd ws 6, wd ws 7]

/-- Read stack bytes as they stand. -/
def Dev.stk8 (v : Dev) (a n : Nat) : List Byte := mread v.hbm.mem a n
/-- Write stack bytes. -/
def Dev.stkPut (v : Dev) (a : Nat) (bs : List Byte) : Dev := v.modHbm (fun h => { h with mem := mwrite h.mem a bs })
/-- The words of a record in stack memory. -/
def Dev.recWords (v : Dev) (a n : Nat) : List W64 := bytesToWords n (v.stk8 a (8 * n))

/-- Word of a version record slot: TAG, READERS, STATE, MISMATCH, MISUSE (Table 13.5). -/
structure VSlot where
  tag : Nat
  readers : Nat
  state : Nat
  mismatch : Bool
  misuse : Bool
  deriving DecidableEq, Repr

def decVSlot (w : W64) : VSlot := ⟨fld w 31 0, fld w 47 32, fld w 49 48, fbit w 50, fbit w 51⟩
def encVSlot (s : VSlot) : W64 := w64 (s.tag % 2 ^ 32 + s.readers % 65536 * 2 ^ 32 + s.state % 4 * 2 ^ 48 + b2n s.mismatch * 2 ^ 50 + b2n s.misuse * 2 ^ 51)
/-- Slot w of the version record at a. -/
def Dev.vslot (v : Dev) (a w : Nat) : VSlot := decVSlot (wd (v.recWords a 8) w)
def Dev.setVslot (v : Dev) (a w : Nat) (s : VSlot) : Dev := v.stkPut (a + 8 * w) (toBytes (encVSlot s).toNat 8)

/-- An ACQ or REL on a version record (R463). -/
def Dev.versionOp (v : Dev) (a data : Nat) : Dev :=
  let w := data % 4
  let acq := decide (data / 4 % 4 = 1)
  let tag := data / 2 ^ 32
  let s := v.vslot a w
  let ch := v.hbm.chanOf a
  let bad := decide (s.tag ≠ tag) || decide (s.state ≠ 1)
  let mis := if acq then decide (s.readers = 65535) else decide (s.readers = 0)
  let rd := if acq then satAdd s.readers 1 65535 else s.readers - 1
  let v1 := v.setVslot a w { s with readers := rd, mismatch := s.mismatch || bad, misuse := s.misuse || mis }
  let v2 := if bad then
      let n := satAdd (wd (v1.recWords a 8) 4).toNat 1 (2 ^ 64 - 1)
      ((v1.stkPut (a + 32) (toBytes n 8)).modStk (ch / 32) (fun k => { k with mismatchSeen := true })).ev (ch / 128) (48 + ch / 32) 0x03A a w
    else v1
  if mis then (v2.modStk (ch / 32) (fun k => { k with vmisuseSeen := true })).ev (ch / 128) (48 + ch / 32) 0x03B a w else v2

/-- First byte a task writes. -/
def taskDst : EngTask → Nat
  | .write off _ => off | .copy dst _ => dst | .fill dst _ => dst | .atomic _ off _ => off | .merge r _ => r | .version r _ => r

/-- The task's effect on its granule, indivisible (R331, R426, R430, R230). -/
def Dev.applyTask (v : Dev) : EngTask → Dev
  | .write off data => v.stkPut off data
  | .copy dst src => v.stkPut dst (v.stk8 src 64)
  | .fill dst pat => v.stkPut dst ((List.range 64).map (fun i => byteOf (pat.toNat / 256 ^ ((dst + i) % 8))))
  | .atomic op off data =>
    match atomicKind op with
    | none => v
    | some (ty, o) => v.stkPut off (elZip ty o (data.length / elBytes ty) (v.stk8 off data.length) data)
  | .merge r st => v.stkPut r (wordsToBytes (mergeStats (v.recWords r 8) st))
  | .version r d => v.versionOp r d

/-- Page p is tracked (R571). -/
def Moult.isTracked (m : Moult) (p : Nat) : Bool := m.tracked.any (fun r => decide (r.1 ≤ p) && decide (p < r.2))
/-- Page p is stale (R573). -/
def Moult.stale (m : Moult) (p : Nat) : Bool := m.active && m.isTracked p && decide (tget 0 m.pgen p ≠ m.g)

/-- Slots in use of a channel engine's queue: tasks that wait for its retrain, and held ones (R426, R573). -/
def Dev.slots (v : Dev) (ch : Nat) : Nat := (v.chan ch).queue.length + (v.moult.held.filter (fun h => decide (v.hbm.chanOf (taskDst h.task) = ch))).length
/-- A queue an extent's tasks would stand in is full, so that their requester waits (R426). -/
def Dev.queueFull (v : Dev) (a n : Nat) : Bool :=
  n ≠ 0 && (v.moult.held.length + (v.hbm.chans.map (fun e => e.2.queue.length)).foldl (fun x y => x + y) 0 ≥ 64) &&
  (List.range ((a + n - 1) / 64 + 1 - a / 64)).any (fun i => decide (64 ≤ v.slots (v.hbm.chanOf ((a / 64 + i) * 64))))
/-- A task takes a slot that it keeps; QFULL is set once all 64 are taken (R424, R426, Table 12.14). Tasks beyond the 64th stand with their
requesters, behind those in the queue. -/
def Dev.tookSlot (v : Dev) (ch : Nat) : Dev := if 64 ≤ v.slots ch then v.modStk (ch / 32) (fun k => { k with qfull := true }) else v
/-- A write is held: its page is stale, or a map rebuild fills the stacks (R440, R573). -/
def Dev.mustHold (v : Dev) (t : EngTask) : Bool := v.hbm.busy || v.moult.stale (taskDst t / 65536)
/-- A task arrives at its channel engine. One that must be held keeps its slot until then, and asks for its page at once; any other takes
effect, and keeps a slot while its channel retrains, which delays it but nothing else (R413, R426, R440, R573). -/
def Dev.submit (v : Dev) (t : EngTask) (req : Nat) (owner : Option Owner) : Dev :=
  let p := taskDst t / 65536
  let ch := v.hbm.chanOf (taskDst t)
  if v.mustHold t then
    (v.modHeld (fun hs => hs ++ [{ task := t, req := req, owner := owner }])
      (fun ps => if !v.moult.stale p || ps.contains p then ps else ps ++ [p])).tookSlot ch
  else if (v.chan ch).retraining then ((v.modChan ch (fun c => { c with queue := c.queue ++ [t] })).tookSlot ch).applyTask t
  else v.applyTask t

/-- Write stack bytes, granule by granule, each held or in effect (R573); `fuel` bounds the granules. -/
def Dev.stackWriteN (v : Dev) (a : Nat) (bs : List Byte) (req : Nat) (owner : Option Owner) : Nat → Dev
  | 0 => v
  | fuel + 1 =>
    if bs.isEmpty then v
    else
      let k := 64 - a % 64
      (v.submit (.write a (bs.take k)) req owner).stackWriteN (a + k) (bs.drop k) req owner fuel
def Dev.stackWrite (v : Dev) (a : Nat) (bs : List Byte) (req : Nat) (owner : Option Owner) : Dev :=
  if v.moult.active || v.hbm.busy || v.hbm.chans.any (fun e => e.2.retraining) then v.stackWriteN a bs req owner (bs.length / 64 + 2) else v.stkPut a bs

/-- Stack bytes as a read that arrives now returns them: a read is never held, and takes effect after every write that arrived at its
granule before it, the held ones too (R332, R573; DEDUCED, log entry 93). -/
def Dev.stkSeen (v : Dev) (a n : Nat) : List Byte := (v.forAll v.moult.held (fun u h => u.applyTask h.task)).stk8 a n

/-- The place an access wants lies in stack memory, which a map rebuild still fills: the access waits (R440). -/
def Dev.fillWait (v : Dev) (a : W64) : Bool :=
  v.hbm.busy && decide (fld a 63 62 = 0 ∧ fld a 61 48 = 0) && (match placeOf (offOf a) with
    | .stack _ => true | .atomic _ _ => true | .version _ => true | .spad _ _ => false | .hole => false | .sync _ => false | .none => false)
/-- A write held for a stale page of a range. -/
def Dev.heldIn (v : Dev) (a n : Nat) : Bool :=
  n ≠ 0 && v.moult.held.any (fun h => decide (a / 65536 ≤ taskDst h.task / 65536) && decide (taskDst h.task / 65536 ≤ (a + n - 1) / 65536))

/-- The write of this owner is still held. -/
def Dev.holds (v : Dev) (k idx : Nat) : Bool := v.moult.held.any (fun h => decide (h.owner = some (.entry k idx)))

/-! ### Accesses to module offsets -/

/-- Read n bytes at a module offset, for a requester, entering at a die. -/
def Dev.rdModule (v : Dev) (die off n req : Nat) : Acc × Dev :=
  match placeOf off with
  | .stack a => match (if n = 0 then none else v.pathAt a n) with
    | some x => (.err 4, v.pathError x req)
    | none => (.ok (v.stkSeen a n), v.softErrs a n)
  | .spad c a => if spadBytes < a + n then (.err 1, v) else
    match (v.core c).spadBadIn a n with
    | some x => (.err 2, v.memParity c false (spadBase + c * 0x2000000 + x))
    | none => (.ok ((v.core c).spadRead a n), v)
  | .hole => (.err 1, v)
  | .sync a => if syncGood a n then (.ok (toBytes (v.ctr (a / 8)).value 8), v) else (.ok (toBytes 0 n), v.syncBad die a)
  | .atomic _ _ => (.err 3, v.ev die (74 + die) 0x031 req off)
  | .version _ => (.err 3, v)
  | .none => (.err 3, v)

/-- Write bytes at a module offset. `chip` names another module the write arrived from, for ATOMIC_BAD. -/
def Dev.wrModule (v : Dev) (die off : Nat) (bs : List Byte) (req : Nat) (chip : Option Nat) (owner : Option Owner) : Option Nat × Dev :=
  match placeOf off with
  | .stack a => match (if bs.isEmpty then none else v.pathAt a bs.length) with
    | some x => (some 4, v.pathError x req)
    | none => (none, (v.softErrs a bs.length).stackWrite a bs req owner)
  | .spad c a => if spadBytes < a + bs.length then (some 1, v) else (none, (v.modCore c (fun k => k.spadWrite a bs)).coolWing c)
  | .hole => (some 1, v)
  | .sync a => if syncGood a bs.length then (none, v.sendSignal (a / 8)) else (none, v.syncBad die a)
  | .atomic op a =>
    if atomicGood op a bs.length then
      match v.pathAt a bs.length with
      | some x => (none, v.pathError x req)
      | none => (none, (v.softErrs a bs.length).submit (.atomic op a bs) req owner)
    else (some 3, v.ev die (74 + die) 0x031 (match chip with | none => req | some c => 2 ^ 63 + c) off)
  | .version a =>
    let d := ofBytes bs
    if a % 64 = 0 ∧ bs.length = 8 ∧ (bits d 3 2 = 1 ∨ bits d 3 2 = 2) ∧ bits d 31 4 = 0 then
      match v.pathAt a 64 with
      | some x => (none, v.pathError x req)
      | none => (none, (v.softErrs a 64).submit (.version a d) req owner)
    else (none, v.ev die (74 + die) 0x039 off 0)
  | .none => (some 3, v)

/-- A permitted read at a global address of SPACE 0b00 or 0b10 (R595, R597). -/
def Dev.rdIssued (v : Dev) (die : Nat) (a : W64) (n req : Nat) : Acc × Dev :=
  if fld a 63 62 = 2 then
    (if fld a 61 48 ≠ 0 ∨ v.hostBad (offOf a) n then (.err 3, v) else (.ok (v.hostRead (offOf a) n), v))
  else if fld a 63 62 = 0 ∧ fld a 61 48 = 0 then v.rdModule die (offOf a) n req
  else (.err 1, v)
/-- A read by a unit of a die: the region check, then the access (R315). -/
def Dev.rdGlobal (v : Dev) (die : Nat) (a : W64) (n req : Nat) : Acc × Dev :=
  if !v.permits die a.toNat n false false then (.err 1, v) else v.rdIssued die a n req

/-- A permitted write at a global address of SPACE 0b00 or 0b10. -/
def Dev.wrIssued (v : Dev) (die : Nat) (a : W64) (bs : List Byte) (req : Nat) (owner : Option Owner) : Option Nat × Dev :=
  if fld a 63 62 = 2 then
    (if fld a 61 48 ≠ 0 ∨ v.hostBad (offOf a) bs.length then (some 3, v) else (none, v.hostWrite (offOf a) bs))
  else if fld a 63 62 = 0 ∧ fld a 61 48 = 0 then v.wrModule die (offOf a) bs req none owner
  else (some 1, v)
/-- A write by a unit of a die: the region check, then the access. -/
def Dev.wrGlobal (v : Dev) (die : Nat) (a : W64) (bs : List Byte) (req : Nat) (owner : Option Owner) : Option Nat × Dev :=
  if !v.permits die a.toNat bs.length true false then (some 1, v) else v.wrIssued die a bs req owner

/-- Every byte of the extent lies in usable stack memory with SPACE 0b00, and in a region that grants the access. -/
def Dev.stackExtent (v : Dev) (die : Nat) (a : W64) (n : Nat) (wr : Bool) : Bool :=
  n = 0 || (decide (a.toNat < stackEnd) && v.hbm.usable a.toNat n && v.permits die a.toNat n wr false)

/-- A record in a readable and writable region of stack memory. -/
def Dev.recordOk (v : Dev) (die : Nat) (a n : Nat) : Bool :=
  a % n = 0 && decide (a < stackEnd) && v.hbm.usable a n && v.permits die a n false false && v.permits die a n true false

end Sys2Proof.Machine
end

