-- ==== Sys2Proof/Machine/Entry.lean ====
section
/-! DEFINITION. Entry fields (03), scale records (07), and the checks of DX, SE, update and CE entries (Tables 11.3, 12.10, 13.8, 14.7). -/

namespace Sys2Proof.Machine

/-- Header fields of Table 3.2. -/
def eOp (ws : List W64) : Nat := fld (wd ws 0) 7 0
def eKind (ws : List W64) : Nat := fld (wd ws 0) 10 8
def eEvt (ws : List W64) : Bool := fbit (wd ws 0) 11
def eHalt (ws : List W64) : Bool := fbit (wd ws 0) 12
def eDeadline (ws : List W64) : Nat := fld (wd ws 0) 31 16
def eRelease (ws : List W64) : Nat := fld (wd ws 0) 63 32
/-- Wait field i: ID, AMT, ACQ (Table 3.3). -/
def eWait (ws : List W64) (i : Nat) : Nat × Nat × Bool :=
  let f := fld (wd ws 1) (16 * i + 15) (16 * i)
  (bits f 10 0, bits f 14 11, bit f 15)
/-- Signal field i: ID and MODE (Table 3.4). -/
def eSig (ws : List W64) (i : Nat) : Nat × Nat := let f := fld (wd ws 1) (32 + 16 * i + 15) (32 + 16 * i); (bits f 13 0, bits f 15 14)

/-- Package identity of the counter a wait of stream k names (Table 3.3). -/
def waitCtr (k id : Nat) : Nat := if bit id 10 then 12288 + strmDie k * 1024 + id % 1024 else strmUnit k * 256 + id % 256
/-- The waits of an entry: counters and amounts, two on one counter as one (R85, R347). -/
def eWaits (k : Nat) (ws : List W64) : List (Nat × Nat) :=
  let (i0, a0, _) := eWait ws 0
  let (i1, a1, _) := eWait ws 1
  if a0 = 0 then (if a1 = 0 then [] else [(waitCtr k i1, a1)])
  else if a1 = 0 then [(waitCtr k i0, a0)]
  else if waitCtr k i0 = waitCtr k i1 then [(waitCtr k i0, a0 + a1)]
  else [(waitCtr k i0, a0), (waitCtr k i1, a1)]
/-- A wait that counts carries ACQ. -/
def eAcq (ws : List W64) : Bool := (eWait ws 0).2.2 && decide ((eWait ws 0).2.1 ≠ 0) || (eWait ws 1).2.2 && decide ((eWait ws 1).2.1 ≠ 0)
/-- Counters signalled in the modes of a test, SIG0 before SIG1 (R84, R87). -/
def eSigsBy (ws : List W64) (fires : Nat → Bool) : List Nat :=
  (if fires (eSig ws 0).2 then [(eSig ws 0).1] else []) ++ (if fires (eSig ws 1).2 then [(eSig ws 1).1] else [])
/-- Counters signalled in a MODE, SIG0 before SIG1. -/
def eSigs (ws : List W64) (mode : Nat) : List Nat := eSigsBy ws (fun m => m = mode)

/-- The opcode is defined for the stream kind (Tables 3.5, 5.1, 8.1, 11.2, 12.8, 13.1, 14.5). -/
def opDefined (kind op : Nat) : Bool :=
  op = 0 || op = 1 ||
  (match kind with
   | 0 => decide (0x10 ≤ op ∧ op ≤ 0x13)
   | 1 => decide (0x10 ≤ op ∧ op ≤ 0x19)
   | 2 => op = 0x10
   | 3 => decide (0x10 ≤ op ∧ op ≤ 0x13)
   | 4 => decide (0x10 ≤ op ∧ op ≤ 0x15) || decide (0x20 ≤ op ∧ op ≤ 0x25)
   | _ => false)

def stBadOpcode : Nat := 0x20
def stBadEntry : Nat := 0x21
def stOutOfMask : Nat := 0x22
def stWaitStall : Nat := 0x23
def stFetchError : Nat := 0x24
def stWindow : Nat := 0x25

/-- The header checks of R89 and R94; none where all pass. Of an entry that fails several, FETCH_ERROR, BAD_OPCODE and BAD_ENTRY come before
OUT_OF_MASK (the spec gives no order; DESIGN CHOICE, log entry 92). -/
def headerCheck (k : Nat) (mask : Mask48) (e : Fetched) : Option Nat :=
  let kind := strmKind k
  let ws := e.words
  let badWait (i : Nat) : Bool := let (id, amt, _) := eWait ws i; decide (amt ≠ 0) && !bit id 10 && (decide (2 < kind) || decide (bits id 9 8 ≠ 0))
  let badSig (i : Nat) : Bool := let (id, m) := eSig ws i; m = 3 || (decide (m ≠ 0) && decide (14335 < id))
  if e.bad ≠ 0 then some stFetchError
  else if !opDefined kind (eOp ws) then some stBadOpcode
  else if eKind ws ≠ kind then some stBadEntry
  else if badWait 0 || badWait 1 then some stBadEntry
  else if badSig 0 || badSig 1 then some stBadEntry
  else if kind ≤ 2 ∧ !bit mask.toNat (strmUnit k) then some stOutOfMask
  else none

/-! ### Formats and scale records -/

/-- The floating-point format of a code of Table 5.3. -/
def fmtOf (c : Nat) : Option Fmt :=
  match c with
  | 0 => some fp4 | 1 => some fp6m2 | 2 => some fp6m3 | 3 => some e4m3 | 4 => some e5m2 | 5 => some bf16 | 6 => some fp16 | _ => none
/-- Bits per element of a code of Table 5.3, 0 where reserved. -/
def fmtBits (c : Nat) : Nat :=
  match c with
  | 0 => 4 | 1 => 6 | 2 => 6 | 3 => 8 | 4 => 8 | 5 => 16 | 6 => 16 | 8 => 4 | 9 => 8 | _ => 0
/-- FMT and SCHEME form a combination of Table 7.1 (0 NONE, 1 MX, 2 S16). -/
def schemeOk (fmt scheme : Nat) : Bool :=
  match scheme with
  | 0 => decide (fmtBits fmt ≠ 0)
  | 1 => decide (fmt ≤ 4) || fmt = 9
  | 2 => decide (fmt ≤ 2)
  | _ => false
/-- Largest finite magnitude of a format code. -/
def fmtMax (fmt : Nat) : Num :=
  match fmtOf fmt with
  | some f => f.decode f.maxCode
  | none => if fmt = 8 then .ofInt 7 else .ofInt 127
/-- Qeff of Table 7.1; for MX, whose T is 1.0, none. -/
def qeff (fmt scheme : Nat) : Num := if scheme = 0 then fmtMax fmt else if scheme = 2 then (fmtMax fmt).mul (.ofInt 114688) else .zero

/-- A scale record's lower half (Table 7.3). -/
structure ScaleRec where
  fmt : Nat
  scheme : Nat
  policy : Nat
  headroom : Nat
  nfSeen : Bool
  backoff : Bool
  pos : Nat
  fill : Nat
  t : Nat
  tInit : Nat
  steps : Nat
  deriving DecidableEq, Repr

def decScaleRec (ws : List W64) : ScaleRec :=
  let w := wd ws 0
  ⟨fld w 3 0, fld w 5 4, fld w 7 6, fld w 11 8, fbit w 12, fbit w 13, fld w 19 16, fld w 24 20, fld w 63 32, fld (wd ws 1) 31 0, (wd ws 2).toNat⟩
/-- Word 0 of a scale record with the fields an update changes. -/
def encScaleW0 (old : W64) (r : ScaleRec) : W64 :=
  w64 (fld old 11 0 + b2n r.nfSeen * 4096 + b2n r.backoff * 8192 + fld old 15 14 * 16384 + r.pos * 65536 + r.fill * 2 ^ 20 +
    fld old 31 25 * 2 ^ 25 + r.t * 2 ^ 32)

/-- A power of two from 2^-126 to 2^127 as FP32. -/
def isPow2 (c : Nat) : Bool := c % 2 ^ 23 = 0 && decide (1 ≤ c / 2 ^ 23) && decide (c / 2 ^ 23 ≤ 254)
/-- A positive, finite, normal FP32 value. -/
def isPosNormal (c : Nat) : Bool := decide (1 ≤ c / 2 ^ 23) && decide (c / 2 ^ 23 ≤ 254)
/-- FP32 1.0. -/
def one32 : Nat := 0x3F800000

/-- R233: the record faults a stream that reads it. -/
def ScaleRec.bad (r : ScaleRec) : Bool :=
  !schemeOk r.fmt r.scheme || r.policy = 3 || (r.fmt = 5 && !(r.policy = 0 && r.t = one32)) ||
  (decide (r.policy ≠ 0) && (!isPow2 r.t || !isPow2 r.tInit)) || (r.policy = 0 && !isPosNormal r.t) ||
  (r.scheme = 1 && decide (r.t ≠ one32)) || decide (16 < r.fill)
/-- The tensor scale a quantising operation reads (R237). -/
def ScaleRec.tUsed (r : ScaleRec) : Nat := if r.policy = 1 ∧ r.fill = 0 then r.tInit else r.t
/-- The scale record at a stack offset. -/
def Dev.scaleRec (v : Dev) (a : Nat) : ScaleRec := decScaleRec (bytesToWords 8 (v.stkSeen a 64))

/-! ### DX entries (Table 11.3) -/

/-- Fields of DMA_COPY (Table 11.2). -/
structure DmaOps where
  src : W64
  dst : W64
  len : Nat
  rows : Nat
  chan : Nat
  compat : Bool
  seald : Bool
  reqEn : Bool
  line : Nat
  sw : Nat
  dw : Nat
  swrap : Nat
  dwrap : Nat
  spitch : Nat
  dpitch : Nat
  sealAddr : W64
  markAddr : W64
  deriving DecidableEq, Repr

def DmaOps.total (o : DmaOps) : Nat := o.len * o.rows
/-- Address of transfer byte t on one side (R376). -/
def dmaAddr (base pitch wrap len t : Nat) : W64 :=
  let a := base + t / len * pitch + t % len
  if wrap = 0 then w64 a else let blk := base / 2 ^ wrap * 2 ^ wrap; w64 (blk + (a - blk) % 2 ^ wrap)
def DmaOps.srcAt (o : DmaOps) (t : Nat) : W64 := dmaAddr o.src.toNat o.spitch o.swrap o.len t
def DmaOps.dstAt (o : DmaOps) (t : Nat) : W64 := dmaAddr o.dst.toNat o.dpitch o.dwrap o.len t

def decDma (ws : List W64) : DmaOps :=
  let w4 := wd ws 4
  let w5 := wd ws 5
  { src := wd ws 2, dst := wd ws 3, len := fld w4 31 0, rows := fld w4 47 32, chan := fld w4 51 48, compat := fbit w4 52, seald := fbit w4 53,
    reqEn := fbit w4 54, line := fld w4 60 55, sw := fld w5 2 0, dw := fld w5 5 3, swrap := fld w5 10 6, dwrap := fld w5 15 11,
    spitch := fld w5 39 16, dpitch := fld w5 63 40, sealAddr := wd ws 6, markAddr := wd ws 7 }

/-- A line of core c gives requests (R383, Table 11.5). -/
def lineGives (c : Nat) (l : ReqLine) : Bool :=
  (l.kind = 1 && decide (l.arg ≤ 12)) || (l.kind = 2 && decide (l.arg / 9 = coreDie c) && decide (l.arg < 18)) ||
  ((l.kind = 3 || l.kind = 4) && decide (l.arg / 24 = coreDie c) && decide (l.arg < 48))

/-- A condition of Table 11.3 holds; `ring` tells a work order from a DX entry. -/
def Dev.dmaBad (v : Dev) (c : Nat) (ring : Bool) (o : DmaOps) : Bool :=
  let e := (v.core c).dma
  let wbad (n : Nat) : Bool := decide (n ≠ 0) && (decide (n < 12) || decide (30 < n))
  let sp3 (a : W64) : Bool := fld a 63 62 = 3
  let s := 2 ^ o.sw
  let d := 2 ^ o.dw
  (bit e.ringChans o.chan != ring) || wbad o.swrap || wbad o.dwrap || (!o.compat && (o.sw = 7 || o.dw = 7)) ||
  sp3 o.src || sp3 o.dst || (o.seald && (sp3 o.sealAddr || sp3 o.markAddr)) ||
  (!o.compat && (decide (o.src.toNat % s ≠ 0) || decide (o.spitch % s ≠ 0) || decide (o.dst.toNat % d ≠ 0) ||
    decide (o.dpitch % d ≠ 0) || decide (o.len % max s d ≠ 0))) ||
  (decide (o.swrap ≠ 0) && decide (2 ^ o.swrap + o.spitch < o.rows * o.spitch + o.len)) ||
  (decide (o.dwrap ≠ 0) && decide (2 ^ o.dwrap + o.dpitch < o.rows * o.dpitch + o.len)) ||
  (o.seald && (decide (o.sealAddr.toNat % 8 ≠ 0) || decide (o.markAddr.toNat % 8 ≠ 0))) ||
  (o.reqEn && !lineGives c (tget {} e.lines o.line))

def Dev.checkDx (v : Dev) (k : Nat) (ws : List W64) : Option Nat :=
  if v.dmaBad (strmUnit k) false (decDma ws) then some stBadEntry else none

/-! ### SE and update entries (Tables 12.10, 13.8) -/

/-- Fields of an SE entry (Table 12.9). -/
structure SeOps where
  dst : W64
  src : W64
  n : Nat
  ty : Nat
  op : Nat
  flag : Bool
  statEn : Bool
  nsrc : Nat
  clog : Nat
  stride : Nat
  aux : W64
  statrec : W64
  deriving DecidableEq, Repr

def decSe (ws : List W64) : SeOps :=
  let w := wd ws 4
  { dst := wd ws 2, src := wd ws 3, n := fld w 39 0, ty := fld w 42 40, op := fld w 44 43, flag := fbit w 45, statEn := fbit w 46,
    nsrc := fld w 54 47, clog := fld w 59 55, stride := fld (wd ws 5) 39 0, aux := wd ws 6, statrec := wd ws 7 }

/-- Chunks of a digest. -/
def SeOps.chunks (o : SeOps) : Nat := ceilDiv o.n (2 ^ o.clog)

def overlap (a n b m : Nat) : Bool := decide (a < b + m) && decide (b < a + n) && decide (0 < n) && decide (0 < m)

def Dev.extentUsable (v : Dev) (a : W64) (n : Nat) : Bool := n = 0 || (decide (a.toNat < stackEnd) && v.hbm.usable a.toNat n)

/-- The checks of Table 12.10; UPD_REDNORM takes those of SE_REDUCE, of R459 and of Table 13.8. It has the operands of Table 12.9, whose W6 is
AUX, so no COMPACT bit is there to test (log entry 82). -/
def Dev.checkSe (v : Dev) (k : Nat) (ws : List W64) : Option Nat :=
  let o := decSe ws
  let op := eOp ws
  let die := strmDie k
  let red := decide (op = 0x12) || decide (op = 0x24)
  let eb := elBytes o.ty
  let srcs := (List.range o.nsrc).map (fun i => w64 (o.src.toNat + i * o.stride))
  let rdE : List (W64 × Nat) :=
    if op = 0x11 ∨ op = 0x13 then [(o.src, o.n)] else if red then srcs.map (fun a => (a, o.n * eb)) else if op = 0x14 then [(o.src, o.n * eb)] else []
  let wrE : List (W64 × Nat) :=
    if op = 0x10 ∨ op = 0x11 then [(o.dst, o.n)]
    else if op = 0x13 then [(o.aux, 32 * o.chunks + (if o.flag then (if o.n = 0 then 0 else 32) else 0))]
    else if red then [(o.dst, o.n * eb)] ++ (if op = 0x24 then [(o.aux, 8)] else [])
    else []
  let bad1 := (red && (decide (3 < o.ty) || o.op = 3)) || (op = 0x14 && decide (1 < o.ty)) || (op = 0x24 && (decide (o.ty ≠ 0) || decide (o.op ≠ 0) || decide (o.aux.toNat % 8 ≠ 0)))
  let bad2 := (red && o.nsrc = 0) || (op = 0x13 && (decide (o.clog < 12) || decide (30 < o.clog)))
  let bad3 :=
    (op = 0x10 && (decide (o.dst.toNat % 64 ≠ 0) || decide (o.n % 64 ≠ 0))) ||
    (op = 0x11 && (decide (o.dst.toNat % 64 ≠ 0) || decide (o.src.toNat % 64 ≠ 0) || decide (o.n % 64 ≠ 0))) ||
    (op = 0x13 && (decide (o.src.toNat % 64 ≠ 0) || decide (o.n % 64 ≠ 0) || decide (o.aux.toNat % 32 ≠ 0))) ||
    (red && (decide (o.dst.toNat % eb ≠ 0) || decide (o.src.toNat % eb ≠ 0) || decide (o.stride % eb ≠ 0))) ||
    (op = 0x14 && decide (o.src.toNat % eb ≠ 0))
  let bad4 := !((rdE ++ wrE).all (fun e => v.extentUsable e.1 e.2)) || (op = 0x11 && overlap o.src.toNat o.n o.dst.toNat o.n) ||
    (op = 0x24 &&
      (srcs.any (fun a => overlap a.toNat (o.n * eb) o.dst.toNat (o.n * eb) && !(o.nsrc = 1 && a = o.dst)) ||
        ((o.dst :: srcs).any (fun a => overlap o.aux.toNat 8 a.toNat (o.n * eb))) ||
        ((List.range o.nsrc).any (fun i => (List.range i).any (fun j =>
          overlap (srcs.getD i 0#64).toNat (o.n * eb) (srcs.getD j 0#64).toNat (o.n * eb))))))
  let recs := (red && o.statEn) || op = 0x14 || op = 0x15
  let bad5 := !(rdE.all (fun e => v.stackExtent die e.1 e.2 false)) || !(wrE.all (fun e => v.stackExtent die e.1 e.2 true)) ||
    (recs && !v.recordOk die o.statrec.toNat 64) ||
    ((op = 0x14 || op = 0x15) && (!v.recordOk die o.aux.toNat 128 || (v.scaleRec o.aux.toNat).bad))
  if bad1 || bad2 || bad3 || bad4 || bad5 then some stBadEntry else none

/-- Fields of an update entry (Table 13.2). -/
structure UpdOps where
  master : Nat
  grad : Nat
  mom1 : Nat
  mom2 : Nat
  wcopy : Nat
  wscale : Nat
  hyper : Nat
  vrec : Nat
  ngrp : Nat
  clip : Bool
  wcEn : Bool
  wcSr : Bool
  compact : Bool
  statEn : Bool
  vfEn : Bool
  vslot : Nat
  wcrec : Nat
  statrec : Nat
  deriving DecidableEq, Repr

def decUpd (ws : List W64) : UpdOps :=
  let a (i hi lo : Nat) : Nat := 256 * fld (wd ws i) hi lo
  let w := wd ws 6
  { master := a 2 31 0, grad := a 2 63 32, mom1 := a 3 31 0, mom2 := a 3 63 32, wcopy := a 4 31 0, wscale := a 4 63 32, hyper := a 5 31 0,
    vrec := a 5 63 32, ngrp := fld w 31 0, clip := fbit w 32, wcEn := fbit w 33 || eOp ws = 0x25, wcSr := fbit w 34, compact := fbit w 35,
    statEn := fbit w 36, vfEn := fbit w 37, vslot := fld w 39 38, wcrec := a 7 31 0, statrec := a 7 63 32 }

/-- Block length of a scheme. -/
def blockLen (scheme : Nat) : Nat := if scheme = 1 then 32 else 16

/-- The checks of Table 13.8 on opcodes 0x20 to 0x23 and 0x25. -/
def Dev.checkUpd (v : Dev) (k : Nat) (ws : List W64) : Option Nat :=
  let o := decUpd ws
  let op := eOp ws
  let die := strmDie k
  let n := 64 * o.ngrp
  let r := v.scaleRec o.wcrec
  let upd := decide (op ≠ 0x25)
  let two := decide (op = 0x20) || decide (op = 0x23)
  let rd := [(o.master, n * (if o.compact then 2 else 4))] ++ (if upd then [(o.grad, 4 * n), (o.mom1, 4 * n)] else []) ++ (if two then [(o.mom2, 4 * n)] else [])
  let wr := (if upd then [(o.master, n * (if o.compact then 2 else 4)), (o.mom1, 4 * n)] else []) ++ (if two then [(o.mom2, 4 * n)] else [])
  let wc := if o.wcEn then [(o.wcopy, n * fmtBits r.fmt / 8)] ++ (if r.scheme = 0 then [] else [(o.wscale, n / blockLen r.scheme)]) else []
  let ext := rd ++ wc
  let share := (List.range ext.length).any (fun i => (List.range i).any (fun j =>
    let x := ext.getD i (0, 0); let y := ext.getD j (0, 0); overlap x.1 x.2 y.1 y.2))
  let bad1 := o.wcEn && o.wcSr && !(decide (r.fmt ≤ 5))
  let bad2 := !(ext.all (fun e => v.extentUsable (w64 e.1) e.2)) || share
  let bad3 := !(rd.all (fun e => v.stackExtent die (w64 e.1) e.2 false)) || !((wr ++ wc).all (fun e => v.stackExtent die (w64 e.1) e.2 true)) ||
    (upd && !v.recordOk die o.hyper 64) || (o.vfEn && !v.recordOk die o.vrec 64) ||
    (o.wcEn && (!v.recordOk die o.wcrec 128 || r.bad)) || (o.wcEn && o.statEn && !v.recordOk die o.statrec 64)
  if bad1 || bad2 || bad3 then some stBadEntry else none

/-! ### CE entries (Table 14.7) -/

/-- Fields of CE_SEND and CE_RECV (Table 14.6). -/
structure CeOps where
  a : W64
  b : W64
  count : Nat
  ty : Nat
  cfmt : Nat
  lid : Nat
  op : Nat
  useSrc : Bool
  avg : Bool
  tol : Bool
  statEn : Bool
  ccOne : Bool
  ccaddr : Nat
  ccImm : Nat
  ccFrom : Bool
  land : W64
  tolwait : Nat
  tag : Nat
  statrec : Nat
  deriving DecidableEq, Repr

def decCe (ws : List W64) : CeOps :=
  let w := wd ws 4
  let w5 := wd ws 5
  let w7 := wd ws 7
  { a := wd ws 2, b := wd ws 3, count := fld w 39 0, ty := fld w 42 40, cfmt := fld w 45 43, lid := fld w 55 46, op := fld w 58 56, useSrc := fbit w 59,
    avg := fbit w 60, tol := fbit w 61, statEn := fbit w 62, ccOne := fbit w 63, ccaddr := 256 * fld w5 31 0, ccImm := fld w5 47 32, ccFrom := fbit w5 48,
    land := wd ws 6, tolwait := fld w7 7 0, tag := fld w7 31 16, statrec := 256 * fld w7 63 32 }

/-- Element bytes of a CE TYPE: 0 FP32, 1 BF16, 2 INT32, 3 FP64. -/
def ceBytes (ty : Nat) : Nat := if ty = 3 then 8 else if ty = 1 then 2 else 4
/-- Bytes of the packed elements, and of the scale plane, of a chunk (R500, R501). -/
def ceElems (o : CeOps) : Nat := if o.cfmt = 0 then o.count * ceBytes o.ty else if o.cfmt = 1 then 2 * o.count else o.count
def cePlane (o : CeOps) : Nat := if o.cfmt < 2 then 0 else ceilDiv o.count 32
/-- BYTES of a chunk. -/
def ceSent (o : CeOps) : Nat := ceElems o + cePlane o
/-- Offset of the scale plane in the landing buffer. -/
def cePlaneAt (o : CeOps) : Nat := ceilDiv (ceElems o) 64 * 64
/-- Bytes of the landing buffer. -/
def ceLandLen (o : CeOps) : Nat := if cePlane o = 0 then ceElems o else cePlaneAt o + cePlane o
/-- FAB_ROUTE(n) of a die. -/
def Dev.route (v : Dev) (die n : Nat) : W32 := tget 0#32 (v.fabD die).routes n

def Dev.checkCe (v : Dev) (k : Nat) (stall : Nat) (ws : List W64) : Option Nat :=
  let o := decCe ws
  let op := eOp ws
  let die := strmDie k
  let sr := decide (op = 0x10) || decide (op = 0x11)
  let rcv := decide (op = 0x11)
  let snd := decide (op = 0x10)
  let nrm := decide (op = 0x12)
  let loc (a : W64) : Bool := fld a 63 62 = 0
  let eb := ceBytes o.ty
  let bad1 := sr && (decide (3 < o.ty) || decide (3 < o.cfmt) || (rcv && decide (3 < o.op)))
  let bad2 := sr && ((decide (o.cfmt ≠ 0) && decide (o.ty ≠ 0)) || (rcv && o.ty = 3 && (o.op = 2 || o.op = 3)) ||
    (rcv && o.avg && (decide (o.ty ≠ 0) || decide (o.op ≠ 1))))
  let bad3 := (snd && (decide (fld o.b 63 62 ≠ 1) || !loc o.a)) || (rcv && (!loc o.a || (o.useSrc && !loc o.b) || !loc o.land)) || (nrm && (!loc o.a || !loc o.b))
  let bad4 := rcv && o.tol && (o.tolwait = 0 || (decide (stall ≠ 0) && decide (stall ≤ o.tolwait)))
  let bad5 := (snd && (decide (o.a.toNat % eb ≠ 0) || decide (o.b.toNat % 64 ≠ 0))) ||
    (rcv && (decide (o.a.toNat % eb ≠ 0) || (o.useSrc && decide (o.b.toNat % eb ≠ 0)) || decide (o.land.toNat % 64 ≠ 0))) ||
    (nrm && (decide (o.a.toNat % 8 ≠ 0) || decide (o.b.toNat % 8 ≠ 0)))
  let rdOk (a : W64) (n : Nat) : Bool := n = 0 || v.permits die a.toNat n false false
  let wrOk (a : W64) (n : Nat) : Bool := n = 0 || v.permits die a.toNat n true false
  let word (a : Nat) : Bool := v.permits die a 8 false false && v.permits die a 8 true false
  let bad6 := (snd && (!rdOk o.a (o.count * eb) || !wrOk o.b (ceLandLen o) || (o.ccFrom && !word o.ccaddr))) ||
    (rcv && (!wrOk o.a (o.count * eb) || (o.useSrc && !rdOk o.b (o.count * eb)) || !rdOk o.land (ceLandLen o) || !word o.ccaddr ||
      (o.statEn && !v.recordOk die o.statrec 64))) ||
    (nrm && (!rdOk o.b (8 * (o.count % 65536)) || !wrOk o.a 8))
  if bad1 || bad2 || bad3 || bad4 || bad5 || bad6 then some stBadEntry
  else if snd ∧ !bit (v.route die (fld o.b 61 48)).toNat 0 then some Config.routeDeniedCode.toNat
  else none

end Sys2Proof.Machine
end

