-- ==== Sys2Proof/Machine/CheckCore.lean ====
section
/-! DEFINITION. Fields and checks of MX entries (05) and VX entries (08), their extents and destinations. -/

namespace Sys2Proof.Machine

/-! ### MX entries (Tables 5.2, 5.5) -/

/-- Fields of a matrix entry. -/
structure MxOps where
  op : Nat
  m : Nat
  k : Nat
  n : Nat
  shape : Nat
  gmask : Nat
  wf : Nat
  af : Nat
  ws : Nat
  as : Nat
  acc : Bool
  reuse : Bool
  ttr : Bool
  dmode : Nat
  tile : Nat
  tsc : Nat
  strm : Nat
  ssc : Nat
  sp : Nat
  tp : Nat
  row : Nat
  deriving DecidableEq, Repr

def decMx (ws : List W64) : MxOps :=
  let w2 := wd ws 2
  let w3 := wd ws 3
  let w4 := wd ws 4
  { op := eOp ws, m := fld w2 12 0, k := fld w2 25 13, n := fld w2 35 26, shape := fld w2 38 36, gmask := fld w2 44 39, wf := fld w2 48 45,
    af := fld w2 52 49, ws := fld w2 54 53, as := fld w2 56 55, acc := fbit w2 57, reuse := fbit w2 58, ttr := fbit w2 59, dmode := fld w2 62 60,
    tile := 64 * fld w3 19 0, tsc := 64 * fld w3 39 20, strm := 64 * fld w3 59 40, ssc := 64 * fld w4 19 0, sp := 64 * fld w4 35 20,
    tp := 64 * fld w4 51 36, row := fld w4 63 52 }

/-- p and q of a SHAPE (Tables 4.7, 5.2). -/
def shapeOf (s : Nat) : Option (Nat × Nat) :=
  match s with
  | 0 => some (1, 1) | 1 => some (1, 2) | 2 => some (1, 3) | 3 => some (2, 1) | 4 => some (2, 2) | 5 => some (2, 3) | _ => none

/-- The core at place (r, c) of the gang whose top-left core is `core` (R147). -/
def gangCore (core r c : Nat) : Nat := core + 3 * r + c
/-- The block of a shape fits at the wing position of its top-left core (R170). -/
def gangFits (core p q : Nat) : Bool := decide (core % 6 / 3 + p ≤ 2) && decide (core % 3 + q ≤ 3)
/-- GANG_MASK of the block. -/
def gangMask (core p q : Nat) : Nat :=
  forN p 0 (fun r a => forN q a (fun c b => b + 2 ^ (3 * (core % 6 / 3 + r) + core % 3 + c)))
/-- Cores of a p × q gang, ascending. -/
def gangList (core p q : Nat) : List Nat := ((List.range p).map (fun r => (List.range q).map (fun c => gangCore core r c))).flatten

/-- v of Table 4.2; 0 where reserved. -/
def vWide (fmt : Nat) : Nat :=
  match fmt with
  | 0 => 8 | 8 => 8 | 1 => 4 | 2 => 4 | 3 => 4 | 4 => 4 | 9 => 4 | 5 => 2 | 6 => 2 | _ => 0
def isIntFmt (fmt : Nat) : Bool := fmt = 8 || fmt = 9 || fmt = 11
/-- Bytes of a PE's weights (Table 5.3). -/
def peBytes (fmt : Nat) : Nat := vWide fmt * fmtBits fmt / 8
/-- Block length of a scaling code: 32 for MX, 16 for S16. -/
def scaleLen (scl : Nat) : Nat := if scl = 2 then 16 else 32

/-- Live elements along K, live columns and live PE rows of a core part (R121). -/
def MxOps.kc (o : MxOps) (r : Nat) : Nat := min (o.k - 256 * vWide o.wf * r) (256 * vWide o.wf)
def MxOps.nc (o : MxOps) (c : Nat) : Nat := min (o.n - 256 * c) 256
def MxOps.peRows (o : MxOps) (r : Nat) : Nat := ceilDiv (o.kc r) (vWide o.wf)

/-- Scratchpad extents of the tile and its scale plane in a core, first bytes and lengths (R166, R168, R201; log entry 17). -/
def MxOps.tileExts (o : MxOps) : List (Nat × Nat) :=
  let kc := o.kc 0
  let nc := o.nc 0
  if o.reuse ∨ kc = 0 ∨ nc = 0 then [] else
    [(o.tile, if o.ttr then (kc - 1) * o.tp + ceilDiv (nc * fmtBits o.wf) 8 else (256 * (nc - 1) + o.peRows 0) * peBytes o.wf)] ++
    (if o.ws = 0 then [] else [(o.tsc, (nc - 1) * (256 * vWide o.wf / scaleLen o.ws) + ceilDiv kc (scaleLen o.ws))])
/-- Extents of the streamed source and its scale plane (R167, R201; log entry 17). -/
def MxOps.strmExts (o : MxOps) : List (Nat × Nat) :=
  let v := vWide o.wf
  let aw := fmtBits o.af
  let kc := o.kc 0
  let nc := o.nc 0
  if o.m = 0 then [] else
    if o.op = 0x11 then (if nc = 0 then [] else [(o.strm, (o.m - 1) * o.sp + ceilDiv (nc * aw) 8)] ++
      (if o.as = 0 then [] else [(o.ssc, (o.m - 1) * (256 / scaleLen o.as) + ceilDiv nc (scaleLen o.as))]))
    else if kc = 0 then []
    else [(o.strm, if o.op = 0x12 then (kc - 1) * o.sp + ceilDiv (o.m * aw) 8 else (o.m - 1) * o.sp + ceilDiv (kc * aw) 8)] ++
      (if o.as = 0 then [] else [(o.ssc, (o.m - 1) * (256 * v / scaleLen o.as) + ceilDiv kc (scaleLen o.as))])
/-- Cores that supply the streamed rows (Table 4.8). -/
def MxOps.suppliers (o : MxOps) (core p q : Nat) : List Nat :=
  if o.op = 0x11 then (List.range q).map (fun c => gangCore core (p - 1) c) else (List.range p).map (fun r => gangCore core r 0)

/-- The gang's cores hold a tile of an entry of this gang, WFMT and WSCL (Table 5.5, check 9). -/
def Dev.tileFits (v : Dev) (o : MxOps) (core p q : Nat) : Bool :=
  (gangList core p q).all (fun c =>
    let t := (v.core c).tile
    let u := decMx t.words
    t.valid && u.wf = o.wf && u.ws = o.ws && u.gmask = o.gmask)

/-- The scaling is permitted for the format by Table 5.3. -/
def scaleOk (fmt scl : Nat) : Bool := scl = 0 || (decide (scl < 3) && schemeOk fmt scl)

/-- The checks of Table 5.5, in order (R171). -/
def Dev.checkMx (v : Dev) (k : Nat) (ws : List W64) : Option (Nat × W64) :=
  let o := decMx ws
  let core := strmUnit k
  let dist := decide (o.op = 0x13)
  let mask := (v.sched (strmDie k * 256 + (v.strm k).sched)).coreMask.toNat
  let bad := some (stBadEntry, 0#64)
  if dist ∧ 4 < o.dmode then bad
  else match shapeOf o.shape with
  | none => bad
  | some (p, q) =>
    let vw := vWide o.wf
    if !gangFits core p q || decide (gangMask core p q ≠ o.gmask) then bad
    else if (gangList core p q).any (fun c => !bit mask c) then some (stOutOfMask, 0#64)
    else if vw = 0 ∨ vWide o.af ≠ vw ∨ isIntFmt o.wf ≠ isIntFmt o.af then bad
    else if !scaleOk o.wf o.ws || !scaleOk o.af o.as then bad
    else if dist && (!([3, 4, 5, 9].contains o.wf) || !([3, 4, 5, 9].contains o.af) || decide (o.ws ≠ 0) || decide (o.as ≠ 0) || decide (o.k % vw ≠ 0)) then bad
    else if 4096 < o.m ∨ 256 * vw * p < o.k ∨ 256 * q < o.n then bad
    else if o.ttr && decide (o.op ≠ 0x12) then bad
    else if o.reuse && !v.tileFits o core p q then bad
    else if 4096 < o.row + o.m * (if o.op = 0x11 then vw else 1) then bad
    else if (o.tileExts ++ o.strmExts).any (fun e => decide (spadBytes < e.1 + e.2)) then bad
    else none

/-- The cores of an MX entry's gang, given its mask and the stream it stands in, ascending; none for NOP and MARK. -/
def gangCoresOf (k : Nat) (ws : List W64) : List Nat :=
  if eOp ws < 0x10 then [] else
  match shapeOf (decMx ws).shape with
  | none => []
  | some (p, q) => gangList (strmUnit k) p q

/-- Nothing reaches the array and nothing is written (R179, R182). -/
def MxOps.empty (o : MxOps) : Bool := o.m = 0 || o.n = 0 || (o.op = 0x11 && o.k = 0)

/-- Cores whose accumulators receive results (R173, R174). -/
def MxOps.receivers (o : MxOps) (core : Nat) : List Nat :=
  match shapeOf o.shape with
  | none => []
  | some (p, q) =>
    if o.empty || (o.k = 0 && o.acc) then []
    else if o.op = 0x11 then ((List.range p).filter (fun r => decide (256 * vWide o.wf * r < o.k))).map (fun r => gangCore core r 0)
    else ((List.range q).filter (fun c => decide (256 * c < o.n))).map (fun c => gangCore core (p - 1) c)

/-- Accumulator rows an entry spans. -/
def MxOps.accRows (o : MxOps) : Nat := o.m * (if o.op = 0x11 then vWide o.wf else 1)

/-! ### VX entries (Tables 8.2, 8.7, 8.8, 8.9) -/

/-- Placement of an operand. -/
structure VOpd where
  addr : Nat
  pitch : Nat
  saddr : Nat
  deriving DecidableEq, Repr

/-- Fields of a vector entry with the layout of Table 8.2. -/
structure VxOps where
  op : Nat
  func : Nat
  af : Nat
  bf : Nat
  df : Nat
  rows : Nat
  cols : Nat
  brow : Bool
  sr : Bool
  ieee : Bool
  scl : Nat
  along : Bool
  pord : Bool
  aacc : Bool
  dacc : Bool
  a : VOpd
  b : VOpd
  d : VOpd
  stat : Nat
  statEn : Bool
  imm : Nat
  s0 : Nat
  s0En : Bool
  s1 : Nat
  s1En : Bool
  deriving DecidableEq, Repr

def decOpd (w : W64) : VOpd := ⟨fld w 19 0, fld w 35 20, 64 * fld w 55 36⟩
def decVx (ws : List W64) : VxOps :=
  let w := wd ws 2
  { op := eOp ws, func := fld w 7 0, af := fld w 11 8, bf := fld w 15 12, df := fld w 19 16, rows := fld w 35 20, cols := fld w 51 36, brow := fbit w 52,
    sr := fbit w 53, ieee := fbit w 54, scl := fld w 56 55, along := fbit w 57, pord := fbit w 58, aacc := fbit w 59, dacc := fbit w 60,
    a := decOpd (wd ws 3), b := decOpd (wd ws 4), d := decOpd (wd ws 5), stat := fld (wd ws 6) 23 0, statEn := fbit (wd ws 6) 24,
    imm := fld (wd ws 6) 63 32, s0 := fld (wd ws 7) 23 0, s0En := fbit (wd ws 7) 24, s1 := fld (wd ws 7) 55 32, s1En := fbit (wd ws 7) 56 }

/-- Bits of a vector format code: Table 5.3 with FP32 and INT32; 0 where reserved (R256). -/
def vBits (c : Nat) : Nat := if c = 10 ∨ c = 11 then 32 else fmtBits c

/-- V_EW functions that read B; functions Table 8.4 defines; functions integers may use (R259). -/
def ewBinary (f : Nat) : Bool := decide (1 ≤ f) && decide (f ≤ 6)
def ewDefined (f : Nat) : Bool := decide (f ≤ 0x0A) || (decide (0x10 ≤ f) && decide (f ≤ 0x13))
def ewInt (f : Nat) : Bool := decide (f ≤ 3) || (decide (5 ≤ f) && decide (f ≤ 8))

/-- Formats of the element operands an entry uses: A, B, D. -/
def VxOps.formats (o : VxOps) : List Nat :=
  if o.op = 0x10 then (if ewBinary o.func then [o.af, o.bf, o.df] else [o.af, o.df])
  else if o.op = 0x14 ∧ o.func = 3 then [o.af, o.bf, o.df]
  else if o.op = 0x16 then [] else [o.af, o.df]

/-- Quantising forms: QUANT, WCOPY and V_STAT. -/
def VxOps.quant (o : VxOps) : Bool := (o.op = 0x14 && (o.func = 0 || o.func = 2)) || o.op = 0x15
def VxOps.dequant (o : VxOps) : Bool := o.op = 0x14 && o.func = 1

/-- Rows and columns D has with the padding of R203. -/
def VxOps.padRows (o : VxOps) : Nat := if o.scl = 0 ∨ !o.along then o.rows else ceilDiv o.rows (scaleLen o.scl) * scaleLen o.scl
def VxOps.padCols (o : VxOps) : Nat := if o.scl = 0 ∨ o.along then o.cols else ceilDiv o.cols (scaleLen o.scl) * scaleLen o.scl
/-- Bytes of a scale plane of R203. -/
def VxOps.planeLen (o : VxOps) : Nat :=
  if o.scl = 0 then 0 else if o.along then ceilDiv o.rows (scaleLen o.scl) * o.cols else o.rows * ceilDiv o.cols (scaleLen o.scl)

/-- A scratchpad operand of r rows of n elements of w bits. -/
def spadExt (x : VOpd) (r n w : Nat) : List (Nat × Nat) := if r = 0 ∨ n = 0 then [] else [(64 * x.addr, (r - 1) * x.pitch * 64 + ceilDiv (n * w) 8)]
/-- The last accumulator row of such an operand, plus 1. -/
def accEnd (x : VOpd) (r n : Nat) : Nat := if r = 0 ∨ n = 0 then 0 else x.addr + (r - 1) * x.pitch + (n - 1) / 256 + 1

/-- Elements D holds per row, 0 where the opcode has no D. -/
def VxOps.dCols (o : VxOps) : Nat :=
  if o.op = 0x11 then 1 else if o.op = 0x13 then o.func else if o.op = 0x15 ∨ o.op = 0x16 then 0 else if o.quant then o.padCols else o.cols
def VxOps.dRows (o : VxOps) : Nat := if o.quant then o.padRows else o.rows

/-- The entry has no extent to work on (R276). -/
def VxOps.empty (o : VxOps) : Bool := o.op ≠ 0x16 && (o.rows = 0 || o.cols = 0)

/-- Scratchpad bytes the entry reads. -/
def VxOps.reads (o : VxOps) : List (Nat × Nat) :=
  if o.empty || o.op = 0x16 then [] else
  (if o.aacc then [] else spadExt o.a o.rows o.cols (vBits o.af)) ++
  (if o.op = 0x10 ∧ ewBinary o.func then spadExt o.b o.rows (if o.brow then 1 else o.cols) (vBits o.bf) else []) ++
  (if o.dequant ∧ o.scl ≠ 0 then [(o.a.saddr, o.planeLen)] else [])
/-- Scratchpad bytes the entry writes. -/
def VxOps.writes (o : VxOps) : List (Nat × Nat) :=
  if o.empty || o.op = 0x16 || o.op = 0x15 then [] else
  (if o.dacc then [] else spadExt o.d o.dRows o.dCols (vBits o.df)) ++
  (if o.op = 0x12 then spadExt o.b o.rows 2 32 else if o.op = 0x13 then spadExt o.b o.rows o.func 32
   else if o.op = 0x14 ∧ o.func = 3 then spadExt o.b o.rows o.cols 16 else []) ++
  (if o.op = 0x14 ∧ o.quant ∧ o.scl ≠ 0 then [(o.d.saddr, o.planeLen)] else [])

/-- Fields of V_GATHER and V_SCATTER (Table 8.7). -/
structure GatOps where
  rows : Nat
  esize : Nat
  idx : Nat
  data : Nat
  pitch : Nat
  wbase : W64
  wcount : Nat
  stride : Nat
  deriving DecidableEq, Repr

/-- ESIZE in bytes; addresses and pitch in bytes. -/
def decGat (ws : List W64) : GatOps :=
  let w3 := wd ws 3
  { rows := fld (wd ws 2) 35 20, esize := 4 * fld (wd ws 2) 51 36, idx := 64 * fld w3 19 0, data := 64 * fld w3 39 20, pitch := 64 * fld w3 55 40,
    wbase := wd ws 4, wcount := fld (wd ws 5) 31 0, stride := fld (wd ws 5) 63 32 }
def GatOps.span (g : GatOps) : Nat := g.stride * (g.wcount - 1) + g.esize
/-- A power of two from 1 to 2^30. -/
def pow2Count (n : Nat) : Bool := (List.range 31).any (fun i => n = 2 ^ i)
/-- A range of the module's offsets holds no byte of the holes of R295. -/
def noHole (a n : Nat) : Bool :=
  !(decide (a < spadBase + 48 * 0x2000000) && decide (spadBase < a + n)) || (decide (spadBase ≤ a) && decide ((a - spadBase) % 0x2000000 + n ≤ spadBytes))
/-- The window is well formed and its region grants the access (R109, R271). -/
def Dev.windowOk (v : Dev) (die : Nat) (g : GatOps) (wr : Bool) : Bool :=
  decide (0 < g.esize) && decide (g.esize ≤ 65536) && pow2Count g.wcount && g.stride % 4 = 0 && decide (g.esize ≤ g.stride) &&
  decide (64 ≤ g.span) && decide (g.span ≤ 2 ^ 30) && fld g.wbase 63 62 = 0 && v.permits die g.wbase.toNat g.span wr false && noHole g.wbase.toNat g.span
def GatOps.exts (g : GatOps) : List (Nat × Nat) :=
  if g.rows = 0 ∨ g.esize = 0 then [] else [(g.idx, 4 * g.rows), (g.data, (g.rows - 1) * g.pitch + g.esize)]

/-- Fields of V_DISPATCH (Table 8.8); addresses and pitches in bytes. -/
structure DisOps where
  k : Nat
  rows : Nat
  cols : Nat
  a : Nat
  ap : Nat
  slot : Nat
  tgt : Nat
  mask : Nat
  d : Nat
  dp : Nat
  cnt : Nat
  cap : Nat
  ntgt : Nat
  deriving DecidableEq, Repr

def decDis (ws : List W64) : DisOps :=
  let w2 := wd ws 2
  let w3 := wd ws 3
  let w4 := wd ws 4
  let w5 := wd ws 5
  { k := fld w2 4 0, rows := fld w2 35 20, cols := 64 * fld w2 51 36, a := 64 * fld w3 19 0, ap := 64 * fld w3 35 20, slot := 64 * fld w3 55 36,
    tgt := 64 * fld w4 19 0, mask := 64 * fld w4 55 36, d := 64 * fld w5 19 0, dp := 64 * fld w5 35 20, cnt := 64 * fld w5 55 36,
    cap := fld (wd ws 6) 15 0, ntgt := fld (wd ws 6) 31 16 }
def DisOps.reads (g : DisOps) : List (Nat × Nat) :=
  if g.rows = 0 then [] else (if g.cols = 0 then [] else [(g.a, (g.rows - 1) * g.ap + g.cols)]) ++ [(g.tgt, (g.rows - 1) * 64 + 4 * g.k)]
def DisOps.writes (g : DisOps) : List (Nat × Nat) :=
  (if g.rows = 0 then [] else [(g.slot, (g.rows - 1) * 64 + 4 * g.k)]) ++
  (if g.cols = 0 then [] else [(g.d, (g.ntgt * g.cap - 1) * g.dp + g.cols)]) ++ [(g.mask, ceilDiv (g.ntgt * g.cap) 8), (g.cnt, 4 * g.ntgt)]

/-- Address of record slot s of a core (R255). -/
def Dev.recSlot (v : Dev) (core s : Nat) : Nat := (v.core core).recBase.toNat / 128 * 128 + 64 * s

/-- A scale record a vector entry names is enabled, even, in a readable and writable region and not faulted (Table 8.9, check 4). -/
def Dev.scaleSlotOk (v : Dev) (core s : Nat) (en : Bool) : Bool :=
  en && s % 2 = 0 && v.recordOk (coreDie core) (v.recSlot core s) 128 && !(v.scaleRec (v.recSlot core s)).bad

/-- Check 4 of Table 8.9. -/
def Dev.vxRecordsOk (v : Dev) (core : Nat) (o : VxOps) : Bool :=
  let s0 := v.scaleSlotOk core o.s0 o.s0En
  let st := v.recordOk (coreDie core) (v.recSlot core o.stat) 64
  let r := v.scaleRec (v.recSlot core o.s0)
  (if o.op = 0x10 ∧ o.func = 0x0A then s0 && v.scaleSlotOk core o.s1 o.s1En
   else if o.quant then s0 && r.fmt = o.df && r.scheme = o.scl
   else if o.dequant || o.op = 0x16 then s0 else true) &&
  (if o.op = 0x15 ∨ o.op = 0x16 then o.statEn && st else (!o.statEn || st))

/-- The checks of Table 8.9 on an entry of Table 8.2's layout. -/
def Dev.checkVxMain (v : Dev) (core : Nat) (o : VxOps) : Bool :=
  let fs := o.formats
  let ints := fs.map isIntFmt
  let mixed := ints.any id && !ints.all id
  let bad1 := match o.op with
    | 0x10 => !ewDefined o.func
    | 0x11 => decide (4 < o.func)
    | 0x13 => decide (o.func = 0) || decide (16 < o.func)
    | 0x14 => decide (3 < o.func)
    | _ => decide (o.func ≠ 0)
  let bad2 := fs.any (fun f => vBits f = 0) || (mixed && !(o.op = 0x10 && o.func = 0)) || (o.op = 0x10 && ints.any id && !ewInt o.func) ||
    (o.op ≠ 0x16 && o.aacc && decide (o.af ≠ 10) && decide (o.af ≠ 11)) ||
    (o.op ≠ 0x16 && o.op ≠ 0x15 && o.dacc && decide (o.df ≠ 10) && decide (o.df ≠ 11)) ||
    (o.op = 0x14 && o.func = 3 && !(o.af = 10 && o.df = 5 && o.bf = 5))
  let bad3 := (o.quant && !scaleOk o.df o.scl) || (o.dequant && !scaleOk o.af o.scl) ||
    (o.sr && !(o.op = 0x14 && o.func = 2 && decide (o.df ≤ 5))) || (o.ieee && o.op ≠ 0x16 && decide (o.df ≤ 3))
  let bad7 := (o.reads ++ o.writes).any (fun e => decide (spadBytes < e.1 + e.2)) ||
    (!o.empty && o.op ≠ 0x16 && ((o.aacc && decide (4096 < accEnd o.a o.rows o.cols)) || (o.op ≠ 0x15 && o.dacc && decide (4096 < accEnd o.d o.dRows o.dCols))))
  bad1 || bad2 || bad3 || !v.vxRecordsOk core o || bad7

/-- The checks of Table 8.9, in order (R275). -/
def Dev.checkVx (v : Dev) (k : Nat) (ws : List W64) : Option (Nat × W64) :=
  let core := strmUnit k
  let op := eOp ws
  let bad := some (stBadEntry, 0#64)
  if op = 0x17 ∨ op = 0x18 then
    let g := decGat ws
    if fld (wd ws 2) 7 0 ≠ 0 then bad
    else if !v.windowOk (coreDie core) g (op = 0x18) then some (stWindow, 0#64)
    else if g.exts.any (fun e => decide (spadBytes < e.1 + e.2)) then bad else none
  else if op = 0x19 then
    let g := decDis ws
    if g.k = 0 ∨ 16 < g.k then bad
    else if g.cap = 0 ∨ g.ntgt = 0 ∨ 4096 < g.ntgt then bad
    else if (g.reads ++ g.writes).any (fun e => decide (spadBytes < e.1 + e.2)) then bad else none
  else if v.checkVxMain core (decVx ws) then bad else none

/-! ### Destinations and sources -/

/-- First byte and bytes to the last of a list of scratchpad extents of a core, as a global address. -/
def spadSpan (core : Nat) (es : List (Nat × Nat)) : Nat × Nat × Nat :=
  match es with
  | [] => (0, 0, 0)
  | e :: r =>
    let lo := r.foldl (fun a x => min a x.1) e.1
    let hi := r.foldl (fun a x => max a (x.1 + x.2)) (e.1 + e.2)
    (1, spadBase + core * 0x2000000 + lo, hi - lo)

/-- Destination of an MX or VX entry: DKIND, DEST_A, DEST_B (Table 16.8). -/
def destMxVx (v : Dev) (k : Nat) (ws : List W64) : Nat × Nat × Nat :=
  let core := strmUnit k
  let op := eOp ws
  if strmKind k = 0 then
    let o := decMx ws
    match o.receivers core with
    | [] => (0, 0, 0)
    | rs => (2, rs.foldl (fun a c => a + 2 ^ c) 0, o.row + o.accRows * 4096)
  else if op = 0x17 then let g := decGat ws; spadSpan core (g.exts.drop 1)
  else if op = 0x18 then let g := decGat ws; if g.rows = 0 then (0, 0, 0) else (1, g.wbase.toNat, g.span)
  else if op = 0x19 then spadSpan core (decDis ws).writes
  else
    let o := decVx ws
    if o.empty then (0, 0, 0)
    else if op = 0x16 then (1, v.recSlot core o.s0, 128)
    else if op = 0x15 then (1, v.recSlot core o.stat, 64)
    else if o.dacc then (2, 2 ^ core, o.d.addr + (accEnd o.d o.dRows o.dCols - o.d.addr) * 4096)
    else spadSpan core o.writes

/-- Accumulator words an entry writes in a core: pairs of a row and the number of its words from word 0 (R138). -/
def accWrites (k core : Nat) (ws : List W64) : List (Nat × Nat) :=
  if eOp ws < 0x10 then []
  else if strmKind k = 0 then
    let o := decMx ws
    let top := strmUnit k
    if !(o.receivers top).contains core then []
    else if o.op = 0x11 then
      let kc := o.kc ((core - top) / 3)
      ((List.range o.m).map (fun m => (List.range (ceilDiv kc 256)).map (fun i => (o.row + m * vWide o.wf + i, min 256 (kc - 256 * i))))).flatten
    else (List.range o.m).map (fun m => (o.row + m, o.nc ((core - top) % 3)))
  else if eOp ws ≤ 0x14 ∧ strmUnit k = core then
    let o := decVx ws
    if o.dacc && !o.empty then
      ((List.range o.dRows).map (fun r => (List.range (ceilDiv o.dCols 256)).map (fun i => (o.d.addr + r * o.d.pitch + i, min 256 (o.dCols - 256 * i))))).flatten
    else []
  else []

/-- Ranges of an acquire, as global addresses (Table 9.9); a DX entry's source extent with its wrap block is the caller's. -/
def acqRanges (k : Nat) (ws : List W64) : List (Nat × Nat) :=
  let core := strmUnit k
  let win (c : Nat) (e : Nat × Nat) : Nat × Nat := (spadBase + c * 0x2000000 + e.1, e.2)
  if eOp ws < 0x10 then []
  else if strmKind k = 0 then
    let o := decMx ws
    match shapeOf o.shape with
    | none => []
    | some (p, q) =>
      if o.empty then [] else ((gangList core p q).map (fun c => o.tileExts.map (win c))).flatten ++ ((o.suppliers core p q).map (fun c => o.strmExts.map (win c))).flatten
  else if strmKind k = 1 then
    (if eOp ws = 0x17 ∨ eOp ws = 0x18 then let g := decGat ws; [(g.wbase.toNat, g.span)]
     else if eOp ws = 0x19 then (decDis ws).reads.map (win core)
     else (decVx ws).reads.map (win core))
  else []

end Sys2Proof.Machine
end

