-- ==== Sys2Proof/Machine/Sync.lean ====
section
/-! DEFINITION. Sync counters: signals, waits and grants (10), and the order in which waiters are considered. -/

namespace Sys2Proof.Machine

/-- One signal arrives at a counter (R341, R352, R353). -/
def Dev.applySignal (v : Dev) (id : Nat) : Dev :=
  let c := v.ctr id
  match c.kind with
  | 1 => if c.value = max32 then v.setOverflow id else v.modCtr id (fun x => { x with value := x.value + 1 })
  | 2 => if c.value = 1 then v.setOverflow id else v.modCtr id (fun x => { x with value := 1 })
  | _ => v.setMisuse id

/-- A wait for amount a is satisfied (Table 10.1). -/
def Ctr.sat (c : Ctr) (a : Nat) : Bool :=
  match c.kind with
  | 1 => decide (a ≤ c.value)
  | 2 => c.value = 1 && a = 1
  | _ => false
/-- A wait for amount a misuses the counter (R352). -/
def Ctr.misused (c : Ctr) (a : Nat) : Bool :=
  match c.kind with
  | 1 => false
  | 2 => decide (a ≠ 1)
  | _ => true
/-- What a satisfied wait takes (Table 10.1). -/
def Ctr.take (c : Ctr) (a : Nat) : Ctr := if c.kind = 1 then { c with value := c.value - a } else { c with value := 0 }

/-- Issue is possible: not in Chrysalis or its exit, and not stopped by a trip (R527, R534, R550). -/
def Dev.issueOk (v : Dev) : Bool := !v.pwr.chrysalis && !v.pwr.exiting && !v.pwr.tripped

/-- The head entry of a stream, once fetched. -/
def Strm.headEntry (s : Strm) : Option Fetched := (s.buf.head?).bind (fun e => if e.idx = s.next then some e else none)

/-- An entry of a schedule is released (R41, R66). -/
def Sched.released (s : Sched) (ws : List W64) : Bool := decide (eRelease ws < s.relTop)

/-- The schedule of a stream. -/
def Dev.schedOf (v : Dev) (k : Nat) : Sched := v.sched (strmDie k * 256 + (v.strm k).sched)

/-- A stream may still start entries in this run. -/
def Dev.runs (v : Dev) (k : Nat) : Bool :=
  let s := v.strm k
  s.loaded && decide ((v.schedOf k).phase = .running) && !s.stopped && !s.finished && !s.haltSeen && decide (s.next < s.count)

/-- The arrays of core c are lent to a gang that another core's MX entry drives (R81). -/
def Dev.arrayLent (v : Dev) (c : Nat) : Bool :=
  (List.range 6).any (fun i =>
    let g := c / 6 * 6 + i
    decide (g ≠ c) && (v.strm (3 * g)).flights.any (fun f => !f.withdrawn && !f.part && (gangCoresOf (3 * g) f.words).contains c))

/-- An MX stream whose core's arrays are lent starts no entry (R81). -/
def Dev.lentOut (v : Dev) (k : Nat) : Bool := decide (strmKind k = 0) && v.arrayLent (strmUnit k)

/-- The head of stream k is tested now: checked, released, not yet granted (R42, R85). -/
def Dev.tests (v : Dev) (k : Nat) : Option (List W64) :=
  let s := v.strm k
  match s.headEntry with
  | none => none
  | some e =>
    if v.runs k && s.checked && !s.granted && v.issueOk && (v.schedOf k).released e.words && !v.lentOut k
    then some e.words else none

/-- A waiter of Table 10.2: a stream head, or a scalar context. -/
inductive Waiter where
  | stream (k : Nat)
  | ctx (c x : Nat)
  deriving DecidableEq, Repr

/-- Set MISUSE once for each misused wait of a head tested for the first time (R352). -/
def Dev.markMisused (v : Dev) (ws : List (Nat × Nat)) : Dev :=
  v.forAll ws (fun u w => if (u.ctr w.1).misused w.2 then u.setMisuse w.1 else u)

/-- Consider one waiter (R346, R347); an entry that started before a context switch does not wait again (R586). -/
def Dev.grantOne (v : Dev) : Waiter → Dev
  | .stream k =>
    match v.tests k with
    | none => v
    | some ws =>
      let waits := if ((v.strm k).headEntry.map (fun e => e.noWait)).getD false then [] else eWaits k ws
      let v1 := if (v.strm k).tested then v else (v.markMisused waits).modStrm k (fun s => { s with tested := true })
      if waits.all (fun w => (v1.ctr w.1).sat w.2) then
        (v1.forAll waits (fun u w => u.modCtr w.1 (fun c => c.take w.2))).modStrm k (fun s => { s with granted := true, acquiring := decide (strmKind k < 3) && eAcq ws })
      else v1
  | .ctx c x =>
    match (v.ctx c x).wait with
    | .counter ctr amt nextPc =>
      if decide ((v.ctx c x).state = .waiting) && v.issueOk && (v.ctr ctr).sat amt then
        (v.modCtr ctr (fun q => q.take amt)).modCtx c x (fun q => { q with state := .running, wait := .none, pc := nextPc })
      else v
    | .none => v
    | .load _ _ _ _ _ _ => v
    | .store _ _ _ _ => v
    | .amo _ _ _ _ _ _ _ => v
    | .put _ _ _ _ _ => v
    | .barrier _ _ _ => v
    | .flush _ => v
    | .fence _ => v

/-- Waiters of a die in the order of Table 10.2. -/
def waiters (die : Nat) : List Waiter :=
  [.stream (144 + die)] ++ (List.range 4).map (fun i => .stream (146 + 4 * die + i)) ++
  ((List.range 24).map (fun i =>
    let c := 24 * die + i
    [.stream (3 * c), .stream (3 * c + 1), .stream (3 * c + 2)] ++ (List.range 8).map (fun x => .ctx c x))).flatten

/-- Consider every waiter of both dies (R346 step 3). -/
def Dev.grantPass (v : Dev) : Dev := (v.forAll (waiters 0) Dev.grantOne).forAll (waiters 1) Dev.grantOne

end Sys2Proof.Machine
end

