-- ==== Sys2Proof/Machine/Streams.lean ====
section
/-! DEFINITION. Streams (03) and the fault capture (16): checking, starting, retiring and finishing entries, stopping schedules, slip. -/

namespace Sys2Proof.Machine

/-! ### Slip -/

/-- Entry i of a stream as its image in stack memory holds it (R92). -/
def Dev.imageEntry (v : Dev) (k i : Nat) : List W64 := bytesToWords 8 (v.stkSeen ((v.strm k).base.toNat + 64 * i) 64)
/-- Entries of the stream not fetched yet: index and words. -/
def Dev.unfetched (v : Dev) (k : Nat) : List (Nat × List W64) :=
  (List.range ((v.strm k).count - (v.strm k).fetchNext)).map (fun i => ((v.strm k).fetchNext + i, v.imageEntry k ((v.strm k).fetchNext + i)))
/-- The oldest unretired entry with a deadline: its index and words (R44). While the stream runs every entry counts; once it has finished,
or a fault or ABORT has stopped it, those in flight. -/
def Dev.dueEntry (v : Dev) (k : Nat) : Option (Nat × List W64) :=
  let s := v.strm k
  let due (e : Nat × List W64) : Bool := decide (eDeadline e.2 ≠ 0)
  let ended := s.finished || (v.schedOf k).halted || decide ((v.schedOf k).phase ≠ .running)
  let started := (s.flights.filter (fun f => !(ended && f.withdrawn))).map (fun f => (f.idx, f.words))
  let ahead := if ended then [] else (s.buf.filter (fun e => e.bad = 0)).map (fun e => (e.idx, e.words))
  match (sortBy (fun e => e.1) (started ++ ahead)).find? due with
  | some e => some e
  | none => if ended then none else (v.unfetched k).find? due
/-- The stream is that of a saved schedule: it keeps LATE and SLIP_NOW, and its STATE is not 0 (R47, R585, Table 19.7). -/
def Dev.strmSaved (v : Dev) (k : Nat) : Bool :=
  !(v.strm k).loaded && decide ((v.schedOf k).phase = .saved) && (v.schedOf k).streams.contains k
/-- Its words. -/
def Dev.oldestDue (v : Dev) (k : Nat) : Option (List W64) := (v.dueEntry k).map (fun e => e.2)

/-- SLIP_NOW of a stream as the count stands, in ticks, saturating (R43, R44, Table 19.8). -/
def Dev.slipOf (v : Dev) (k : Nat) : Nat :=
  match v.oldestDue k with
  | none => 0
  | some ws => min (v.ft.now - ((v.schedOf k).base + eRelease ws + eDeadline ws)) max32

/-- Recompute SLIP_NOW, SLIP_MAX and LATE of a stream, posting STREAM_LATE of the entry that is late when LATE sets (R44 to R46,
Table 3.7, log entry 16); while the unit is frozen SLIP_NOW does not grow (R66). -/
def Dev.reslip (v : Dev) (k : Nat) : Dev :=
  let s := v.strm k
  if !s.loaded then v
  else
    let n := if v.ft.frozen then min (v.slipOf k) s.slipNow else v.slipOf k
    let late := decide (s.slack < n)
    let v1 := v.modStrm k (fun q => { q with slipNow := n, slipMax := max q.slipMax n, lateFlag := late })
    if late && !s.lateFlag && s.evtLate then v1.ev (strmDie k) (strmSrc k) 0x011 (strmArg k (((v.dueEntry k).map (fun e => e.1)).getD s.next)) n else v1

/-- Recompute every stream, in ascending source number (R23). -/
def Dev.reslipAll (v : Dev) : Dev := (v.forAll (List.range 144) Dev.reslip).forAll [146, 147, 148, 149, 150, 151, 152, 153, 144, 145] Dev.reslip

/-! ### Stopping and withdrawing -/

/-- An SE stream's sequencer writes a version slot; on a stale page the write is held (R463, R573). -/
def Dev.putVslot (v : Dev) (k a w : Nat) (s : VSlot) : Dev := v.submit (.write (a + 8 * w) (toBytes (encVSlot s).toNat 8)) (strmSrc k) none

/-- The version slot an update entry holds returns when it faults or is aborted: from DRAINING to READY, from WRITING to EMPTY (R465). -/
def Dev.versionAbort (v : Dev) (k : Nat) (f : Flight) : Dev :=
  if f.slot then
    let o := decUpd f.words
    let s := v.vslot o.vrec o.vslot
    if s.state = 2 then v.putVslot k o.vrec o.vslot { s with state := 1 }
    else if s.state = 3 then v.putVslot k o.vrec o.vslot { s with state := 0 }
    else v
  else v

/-- The channel is about to begin a row of a paced descriptor that has taken no request. -/
def DmaChan.rowAsks (ch : DmaChan) : Bool :=
  let o := decDma ch.cur.words
  decide (ch.phase = .moving) && !ch.draining && o.reqEn && decide (ch.next < o.total) && decide (ch.rowReq ≤ ch.next / o.len)
/-- A paced descriptor of the channel waits for the request of its next row: the requests of a line go to the channels that ask in ascending
order (R384). -/
def Dev.dmaRowWaits (v : Dev) (c n : Nat) : Bool :=
  let e := (v.core c).dma
  let line := (decDma (v.dmaCh c n).cur.words).line
  (v.dmaCh c n).rowAsks &&
    decide ((tget ({} : ReqLine) e.lines line).pending ≤ (e.chans.filter (fun x => decide (x.1 < n) && x.2.rowAsks && decide ((decDma x.2.cur.words).line = line))).length)

/-- The landing slot a CE_RECV waits for is COMPLETE with its tag (R502). -/
def Dev.slotReady (v : Dev) (die : Nat) (ws : List W64) : Bool :=
  let o := decCe ws
  let l := v.land die o.lid
  l.used && l.complete && !l.abandoned && l.ctag = o.tag

/-- The entry waits inside its operation (R560). -/
def Dev.waitsInside (v : Dev) (k : Nat) (f : Flight) : Bool :=
  match f.wait with
  | .recv => !v.slotReady (strmDie k) f.words
  | .version => true
  | .dma =>
    let n := (decDma f.words).chan
    decide ((v.dmaCh (strmUnit k) n).cur.entry = some f.idx) && v.dmaRowWaits (strmUnit k) n
  | .none => false
  | .fence => false

/-- DONE_BYTES of R393: every byte below it has been written. -/
def DmaChan.doneBytes (ch : DmaChan) : Nat :=
  if ch.phase = .idle then ch.bytes else ch.acks.foldl (fun a x => min a x.1) (min ch.done (ch.hole.getD ch.done))

/-- Give a channel its next queued descriptor, or leave it idle (R371). -/
def DmaChan.advance (ch : DmaChan) : DmaChan :=
  let base : DmaChan := { lastStatus := ch.lastStatus, bytes := ch.bytes, page := ch.page }
  match ch.queue with
  | [] => base
  | d :: rest => { base with phase := if (decDma d.words).seald then .seal0 else .moving, cur := d, queue := rest }

/-- Change the flight of an entry. -/
def Dev.modFlight (v : Dev) (k idx : Nat) (g : Flight → Flight) : Dev :=
  v.modStrm k (fun s => { s with flights := s.flights.map (fun f => if f.idx = idx ∧ ¬f.withdrawn then g f else f) })

/-- A descriptor completes with a status of Table 11.13. -/
def Dev.dmaEnd (v : Dev) (c n status : Nat) : Dev :=
  let ch := v.dmaCh c n
  let done := ch.doneBytes
  let v1 := v.modDmaCh c n (fun q => { q with lastStatus := status, bytes := done })
  let v2 := match ch.cur.entry with
    | some e => v1.modFlight (3 * c + 2) e (fun f => { f with wait := .none, srcDone := true, prog := done, part := f.part || decide (status = 3) })
    | none => v1
  match ch.cur.order with
  | some o => v2.complete (coreDie c) o status 0 done 0
  | none => v2
/-- The descriptor a channel works on moves no byte (R389). -/
def DmaChan.empty (ch : DmaChan) : Bool := decide (ch.phase ≠ .idle) && decide ((decDma ch.cur.words).len * (decDma ch.cur.words).rows = 0)
/-- Take queued descriptors until one moves bytes: those that move none complete with status ZERO in their turn (R371, R389); `fuel` bounds
their number. -/
def Dev.dmaTake (v : Dev) (c n : Nat) : Nat → Dev
  | 0 => v
  | fuel + 1 =>
    let v1 := v.modDmaCh c n DmaChan.advance
    if (v1.dmaCh c n).empty then (v1.dmaEnd c n 1).dmaTake c n fuel else v1
/-- Take the next queued descriptor unless the engine is stopped, or issues nothing (R371, R394, R396). -/
def Dev.dmaAdvance (v : Dev) (c n : Nat) : Dev :=
  if (v.core c).dma.stopped || !v.issueOk then v.modDmaCh c n (fun ch => { lastStatus := ch.lastStatus, bytes := ch.bytes, page := ch.page, queue := ch.queue })
  else v.dmaTake c n ((v.dmaCh c n).queue.length + 1)
/-- Every burst issued has returned, and everything written has landed. -/
def DmaChan.quiet (ch : DmaChan) : Bool := ch.bursts.all (fun b => b.got.isSome || decide (b.bad ≠ 0)) && ch.acks.isEmpty
/-- Nothing of the channel is in flight, and no write of it waits for the link set to settle. -/
def Dev.dmaQuiet (v : Dev) (c n : Nat) : Bool := (v.dmaCh c n).quiet && !(v.fabD (coreDie c)).relink
/-- End a descriptor whose entry was withdrawn, once its bursts have ended. -/
def Dev.dmaDrain (v : Dev) (c n : Nat) : Dev :=
  if v.dmaQuiet c n then v.dmaAdvance c n else v.modDmaCh c n (fun q => { q with draining := true })
/-- Answers to the reads a channel has outstanding are dropped. -/
def Dev.dmaForget (v : Dev) (c n : Nat) : Dev :=
  let mine (r : Req) : Bool := match r.purpose with
    | .dmaRead a b _ _ => decide (a = c) && decide (b = n)
    | .sealRead a b _ => decide (a = c) && decide (b = n)
    | .chunk _ _ => false
    | .dmaWrite _ _ _ _ => false
    | .sclLoad _ _ => false
    | .sclStore _ _ _ => false
    | .gone => false
  v.modFabD (coreDie c) (fun f => { f with reqs := f.reqs.map (fun r => if mine r then { r with purpose := .gone } else r) })

/-- Withdraw one entry (R560, R561): it writes nothing more and sends no signal. -/
def Dev.withdrawOne (v : Dev) (k : Nat) (f : Flight) : Dev :=
  let prog := if strmKind k = 2 then (v.dmaCh (strmUnit k) (decDma f.words).chan).doneBytes else f.prog
  let v1 := v.modStrm k (fun s => { s with flights := s.flights.map (fun g => if g.idx = f.idx then { g with withdrawn := true, prog := prog } else g) })
  match f.wait with
  | .version => (v1.versionAbort k f).modStrm k (fun s => { s with flights := s.flights.map (fun g => if g.idx = f.idx then { g with slot := false } else g) })
  | .dma =>
    let n := (decDma f.words).chan
    if (v.dmaCh (strmUnit k) n).cur.entry = some f.idx then
      ((v1.dmaForget (strmUnit k) n).modDmaCh (strmUnit k) n (fun ch => { ch with bursts := [] })).dmaDrain (strmUnit k) n
    else v1.modDmaCh (strmUnit k) n (fun ch => { ch with queue := ch.queue.filter (fun d => decide (d.entry ≠ some f.idx)) })
  | .none => v1
  | .recv => v1
  | .fence => v1

/-- Withdraw the entries of a stream that wait inside their operation. -/
def Dev.withdrawWaiting (v : Dev) (k : Nat) : Dev :=
  v.forAll (v.strm k).flights (fun u f => if !f.withdrawn && u.waitsInside k f then u.withdrawOne k f else u)

/-- Stop a schedule's streams from starting further entries (R105); waits withdrawn change no counter (R345). -/
def Dev.stopSched (v : Dev) (id : Nat) : Dev :=
  let v1 := v.modSched id (fun s => { s with halted := true })
  let v2 := v1.forAll (v.sched id).streams (fun u k => u.modStrm k (fun s => { s with stopped := true, granted := false, acquiring := false, checked := false }))
  v2.forAll (v.sched id).streams Dev.withdrawWaiting

/-- A stream of a schedule, in the image of its context while it is saved. -/
def Dev.strmFor (v : Dev) (id k : Nat) : Strm :=
  let s := v.sched id
  if s.phase = .saved then ((tget {} (v.ctxSwD (id / 256)).images s.context).strms.find? (fun e => decide (e.1 = k))).elim {} (fun e => e.2)
  else v.strm k
/-- The entries of a schedule in flight: stream and flight. -/
def Dev.inFlight (v : Dev) (id : Nat) : List (Nat × Flight) := ((v.sched id).streams.map (fun k => (v.strmFor id k).flights.map (fun f => (k, f)))).flatten

/-- Stream table of the record at C0 (Table 16.5). -/
def Dev.streamTable (v : Dev) (die : Nat) (stopped : List Nat) : List (W64 × W64) :=
  ((List.range 72).map (fun i => die * 72 + i) ++ [144 + die] ++ (List.range 4).map (fun i => 146 + 4 * die + i)).map (fun k =>
    let s := v.strm k
    let sc := v.schedOf k
    (w64 (b2n s.loaded * 512 + b2n (s.loaded && stopped.contains (die * 256 + s.sched)) * 1024 + b2n s.noneRetired * 2048 + s.lastRetired * 65536),
     w64 (if s.loaded then sc.tag + s.slipNow * 2 ^ 32 else 0)))

/-- What a capture takes at its first cycle: the header, the streams' last retired entries and the entries in flight (R559, Tables 16.4 to
16.7). -/
def Dev.capHeader (v : Dev) (die cause : Nat) (at? : Option (Nat × Nat)) (detail : W64) (ids : List Nat) : Dev :=
  let first := v.sched (ids.headD 0)
  let kc := (v.strm (144 + die))
  v.modFlt die (fun r => { r with
    late := false, timed := false, cause := cause, overflow := 0, schedTag := if ids.isEmpty then 0 else first.tag, tick := v.ft.now,
    kind := (at?.map (fun p => strmKind p.1)).getD 0, unit := (at?.map (fun p => strmUnit p.1)).getD 0, hasStream := at?.isSome,
    entry := (at?.map (fun p => p.2)).getD 0, context := if ids.isEmpty then 0 else first.context, detail := detail,
    streams := v.streamTable die ids, capScheds := ids, snap := (ids.map (fun id => (v.inFlight id).map (fun p => (id, p)))).flatten,
    chunk := [w64 ((if kc.noneRetired then 0 else kc.lastRetired + 1) + b2n (kc.loaded && ids.contains (die * 256 + kc.sched)) * 2 ^ 25)] })

/-- Begin a capture at C0, and stop the schedules (R559, R560). -/
def Dev.beginCapture (v : Dev) (die cause : Nat) (at? : Option (Nat × Nat)) (detail : W64) (ids : List Nat) : Dev :=
  let v1 := (v.capHeader die cause at? detail ids).modFlt die (fun r => { r with capturing := true })
  let v2 := v1.forAll ids (fun u id => u.modSched id (fun s => { s with status := cause }))
  v2.forAll ids Dev.stopSched

/-- A fault on a die: it begins a capture, or, while a record is taken or held, counts and posts its own event (R20, R105, R557). -/
def Dev.dieFault (v : Dev) (die cause : Nat) (at? : Option (Nat × Nat)) (detail : W64) (ids : List Nat) : Dev :=
  let r := v.flt die
  if r.capturing || r.valid then
    let v1 := v.modFlt die (fun q => { q with overflow := satAdd q.overflow 1 65535 })
    let live := ids.filter (fun id => !(v.sched id).halted)
    let v2 := v1.forAll live (fun u id => (u.modSched id (fun s => { s with
      status := cause, late := some { order := (v1.flt die).overflow, cause := cause, strm := at?, detail := detail } })).stopSched id)
    let v3 := if live.isEmpty then v2 else v2.modFlt die (fun q => { q with pending := true })
    v3.ev die (74 + die) 0x019 cause (v3.flt die).overflow
  else v.beginCapture die cause at? detail ids

/-- A stream faults (R105). -/
def Dev.faultStream (v : Dev) (k cause idx : Nat) (detail : W64) : Dev :=
  v.dieFault (strmDie k) cause (some (k, idx)) detail [strmDie k * 256 + (v.strm k).sched]

/-! ### Head entry, start, retirement -/

/-- The kind's own checks of an entry, with the DETAIL of the fault. -/
def Dev.kindCheck (v : Dev) (k : Nat) (ws : List W64) : Option (Nat × W64) :=
  if eOp ws ≤ 1 then none
  else match strmKind k with
  | 0 => v.checkMx k ws
  | 1 => v.checkVx k ws
  | 2 => (v.checkDx k ws).map (fun c => (c, 0#64))
  | 3 => (v.checkCe k (v.strm k).stallLimit ws).map (fun c => (c, 0#64))
  | _ => (if eOp ws < 0x20 ∨ eOp ws = 0x24 then v.checkSe k ws else v.checkUpd k ws).map (fun c => (c, 0#64))

/-- A byte of a buffered entry of a core's stream has bad parity: MEM_PARITY, with the granule of the entry's image (R305; Table 9.13 has no
bit for it; DEDUCED, log entry 93). -/
def Dev.bufParity (v : Dev) (k idx : Nat) : Dev :=
  if k < 144 then
    let a := (v.strm k).base.toNat + 64 * idx
    (v.modCore (k / 3) (fun q => { q with errAcc := false, errAddr := a / 64 * 64 })).ev (coreDie (k / 3)) (k / 3) 0x015 (k / 3) (a / 64 * 64)
  else v

/-- Check the head once it is the oldest unstarted entry of a running stream and has been fetched (R89, R94). -/
def Dev.checkHead (v : Dev) (k : Nat) : Dev :=
  let s := v.strm k
  match s.headEntry with
  | none => v
  | some e =>
    if v.runs k && !s.checked then
      if e.badParity then (v.bufParity k e.idx).faultStream k stFetchError e.idx 0#64
      else match headerCheck k (v.schedOf k).coreMask e with
      | some c => v.faultStream k c e.idx 0#64
      | none =>
        match v.kindCheck k e.words with
        | some (c, d) => v.faultStream k c e.idx d
        | none => v.modStrm k (fun q => { q with checked := true })
    else v

/-- The head of stream k, when it may start an operation with this opcode: granted, its acquire done, issue possible. -/
def Dev.startable (v : Dev) (k op : Nat) : Option (List W64) :=
  let s := v.strm k
  match s.headEntry with
  | none => none
  | some e => if v.runs k && s.granted && !s.acquiring && v.issueOk && !v.lentOut k && decide (eOp e.words = op) then some e.words else none

/-- The head starts: it leaves the buffer and is in flight; a source-free signal of an entry without a source goes at once (R87, R114). -/
def Dev.started (v : Dev) (k : Nat) (f : Flight) (empty : Bool) : Dev :=
  let ws := f.words
  let v1 := v.modStrm k (fun s => { s with
    buf := s.buf.drop 1, next := ((s.buf.drop 1).head?.map (fun e => e.idx)).getD (max s.fetchNext (s.next + 1)), checked := false, tested := false, granted := false, acquiring := false, stall := 0,
    haltSeen := s.haltSeen || eHalt ws, flights := insBy (fun g => g.idx) { f with sfSent := f.sfSent || empty, srcDone := f.srcDone || empty } s.flights })
  if empty then v1.sendSignals (eSigs ws 2) else v1

/-- The head starts and meets an error: it is recorded PARTIAL with its progress, and its stream faults (R562). -/
def Dev.startFail (v : Dev) (k : Nat) (ws : List W64) (prog cause : Nat) (detail : W64) : Dev :=
  let idx := (v.strm k).next
  (v.started k { idx := idx, words := ws, part := true, prog := prog } false).faultStream k cause idx detail

/-- The head starts and meets a stack path error at an offset (Table 12.5). -/
def Dev.pathFail (v : Dev) (k : Nat) (ws : List W64) (x prog : Nat) : Dev := (v.pathError x (strmSrc k)).startFail k ws prog 0x45 (w64 x)

/-- A read of a core memory by the starting entry met a parity error: MEM_PARITY, then SPAD_PARITY or ACC_PARITY (R304, R305, R567).
The address is that of a scratchpad byte in the core, or 64 times the accumulator row. -/
def Dev.parityFail (v : Dev) (k : Nat) (ws : List W64) (c : Nat) (acc : Bool) (addr prog : Nat) : Dev :=
  let ga := if acc then addr else spadBase + c * 0x2000000 + addr
  ((v.memParity c acc ga).modCore c (fun q => { q with testDue := true })).startFail k ws prog (if acc then 0x41 else 0x40)
    (if acc then 0#64 else w64 (ga / 64 * 64))

/-- Entries of the other stream of core c in flight that write an accumulator row the starting entry also writes (R138): the row. -/
def Dev.accMeets (v : Dev) (other k c : Nat) (ws : List W64) : Option Nat :=
  let mine := accWrites k c ws
  if mine.isEmpty then none
  else ((v.strm other).flights.filter (fun f => !f.withdrawn && !f.part)).findSome? (fun f =>
    let theirs := accWrites other c f.words
    (mine.find? (fun x => decide (0 < x.2) && theirs.any (fun y => x.1 = y.1 && decide (0 < y.2)))).map (fun x => x.1))
/-- ACC_OVERLAP of core c as the entry starts: one event for each core, with the first row the two entries have in common, in whichever
other entry it is found first (the spec does not say which row; DESIGN CHOICE, log entry 92). -/
def Dev.overlapAt (v : Dev) (k c : Nat) (ws : List W64) : Dev :=
  let others := if strmKind k = 0 then [3 * c + 1] else (List.range 6).map (fun i => 3 * (c / 6 * 6 + i))
  match others.findSome? (fun o => v.accMeets o k c ws) with
  | none => v
  | some row => (v.modCore c (fun q => { q with accOverlap := true })).ev (coreDie c) c 0x012 c row

/-- After the head changed: check the new head, then consider the waiters. -/
def Dev.nextHead (v : Dev) (k : Nat) : Dev := (v.checkHead k).grantPass

/-- Send the source-free signals of an entry that has them to send (R87). -/
def Dev.sendSf (v : Dev) (k : Nat) (f : Flight) : Dev :=
  if f.sfSent then v else (v.modFlight k f.idx (fun g => { g with sfSent := true, srcDone := true })).sendSignals (eSigs f.words 2)

/-- Completion words of a schedule order: SCHED_TAG and SCHED_ID (Table 17.5). -/
def schedW2 (s : Sched) (id : Nat) : Nat := s.tag + id % 256 * 2 ^ 32

/-- Complete the run of a schedule (R102, R105, R613). -/
def Dev.endRun (v : Dev) (id status : Nat) : Dev :=
  let s := v.sched id
  let v1 := v.modSched id (fun q => { q with run := none })
  match s.run with
  | none => v1
  | some o => v1.complete (id / 256) o status 0 (schedW2 s id) v.ft.now

/-- Every stream of the schedule has finished: it is loaded again and its run completes (R102). -/
def Dev.finishSched (v : Dev) (id : Nat) : Dev :=
  let s := v.sched id
  if s.phase = .running ∧ !s.halted ∧ s.streams.all (fun k => (v.strm k).finished) then
    (v.modSched id (fun q => { q with phase := .loaded })).endRun id 0
  else v

/-- Add an event to the request lines of a die's cores of a kind and argument (R383). -/
def ReqLine.event (l : ReqLine) : ReqLine := if l.pending = 65535 then { l with ovf := true } else { l with pending := l.pending + 1 }
def Dev.reqEvent (v : Dev) (die kind : Nat) (argOk : Nat → Bool) : Dev :=
  v.forAll ((List.range 24).map (fun i => die * 24 + i)) (fun u c =>
    let ls := (u.core c).dma.lines
    u.modDma c (fun e => { e with lines := (ls.filter (fun x => decide (x.2.kind = kind) && argOk x.2.arg && lineGives c x.2)).foldl (fun t x => tmod {} t x.1 ReqLine.event) e.lines }))

/-- What retiring an entry does beyond its signals: MARK, the version slot, request lines (R88, R383, R464). -/
def Dev.retireEffect (v : Dev) (k : Nat) (f : Flight) : Dev :=
  let ws := f.words
  if eOp ws = 1 then v.modStrm k (fun s => { s with lastMark := w32 (fld (wd ws 2) 31 0) })
  else if strmKind k = 0 then v.reqEvent (strmDie k) 3 (fun a => a = strmUnit k)
  else if strmKind k = 1 then v.reqEvent (strmDie k) 4 (fun a => a = strmUnit k)
  else if f.slot then
    v.putVslot k (decUpd ws).vrec (decUpd ws).vslot { (v.vslot (decUpd ws).vrec (decUpd ws).vslot) with tag := f.step, state := 1 }
  else v

/-- MX and VX entries of opcode NOP and MARK retire in their streams too, and so drive the lines of R383. -/
def Dev.retireLines (v : Dev) (k : Nat) (f : Flight) : Dev :=
  if eOp f.words = 1 ∧ strmKind k = 0 then v.reqEvent (strmDie k) 3 (fun a => a = strmUnit k)
  else if eOp f.words = 1 ∧ strmKind k = 1 then v.reqEvent (strmDie k) 4 (fun a => a = strmUnit k)
  else v

/-- The oldest entry in flight, when it may retire: complete, and none of its writes held (R77, R78). -/
def Dev.retirable (v : Dev) (k : Nat) : Option Flight :=
  match (v.strm k).flights with
  | [] => none
  | f :: _ => if decide (f.wait = .none) && !f.withdrawn && !f.part && !v.holds k f.idx then some f else none

/-- Retire the oldest entry of a stream and send its signals, with the source-free ones where none has been sent yet (R77, R87, R102). -/
def Dev.retire (v : Dev) (k : Nat) : Dev :=
  match v.retirable k with
  | none => v
  | some f =>
    let ws := f.words
    let s := v.strm k
    let sid := strmDie k * 256 + s.sched
    let v1 := (v.retireEffect k f).retireLines k f
    let v2 := v1.modStrm k (fun q => { q with flights := q.flights.drop 1, lastRetired := f.idx, noneRetired := false })
    let v3 := v2.sendSignals (eSigsBy ws (fun m => m = 1 || (!f.sfSent && m = 2)))
    let v4 := if eEvt ws then v3.ev (strmDie k) (strmSrc k) 0x010 (strmArg k f.idx) (v.sched sid).tag else v3
    let v5 := if (f.idx + 1 = s.count ∨ eHalt ws) ∧ ¬(v.sched sid).halted then v4.modStrm k (fun q => { q with finished := true }) else v4
    (v5.reslip k).finishSched sid

/-! ### Fetching -/

/-- Buffer entries of a stream kind (Table 3.1). -/
def bufSize (kind : Nat) : Nat := match kind with | 0 => 1024 | 1 => 2048 | 2 => 1024 | _ => 512

/-- Fetch one entry into the buffer: its words, or the mark of a failed read (R89, R95, R417). -/
def Dev.fetchOne (v : Dev) (k : Nat) : Dev :=
  let s := v.strm k
  let a := s.base.toNat + 64 * s.fetchNext
  let (r, v1) := if v.permits (strmDie k) a 64 false false then v.rdModule (strmDie k) a 64 (strmSrc k) else (.err 1, v)
  let e : Fetched := match r with
    | .ok bs => { idx := s.fetchNext, words := bytesToWords 8 bs }
    | .err n => { idx := s.fetchNext, words := List.replicate 8 0#64, bad := n }
  v1.modStrm k (fun q => { q with buf := q.buf ++ [e], fetchNext := q.fetchNext + 1 })

/-- Entries the fetcher may take: room in the buffer, never beyond COUNT − 1 (R95). -/
def Dev.fetchRoom (v : Dev) (k : Nat) : Nat := min (bufSize (strmKind k) - (v.strm k).buf.length) ((v.strm k).count - (v.strm k).fetchNext)

/-- Refill the buffer, when half or more of it is free. -/
def Dev.refill (v : Dev) (k : Nat) : Dev :=
  if 2 * (v.strm k).buf.length ≤ bufSize (strmKind k) then forN (v.fetchRoom k) v (fun _ u => u.fetchOne k) else v

/-! ### The record -/

/-- State of an in-flight entry at the end of a capture (Table 16.2). -/
def Dev.flightState (v : Dev) (id k : Nat) (f0 : Flight) : Nat × Flight :=
  match (v.strmFor id k).flights.find? (fun g => g.idx = f0.idx) with
  | none => (3, f0)
  | some g =>
    if g.withdrawn then ((if g.prog = 0 then 0 else 1), g)
    else if g.part then (1, g)
    else if g.wait = .none ∧ ¬v.holds k g.idx then (2, g)
    else if g.wait = .recv ∨ g.wait = .version ∨ g.wait = .fence ∨ g.wait = .dma then (0, g)
    else (1, g)

/-- Lowest byte and bytes to the highest of a DMA destination (Table 16.8). -/
def dmaDest (o : DmaOps) : Nat × Nat :=
  if o.dwrap = 0 then (o.dst.toNat, (o.rows - 1) * o.dpitch + o.len) else
    let b := 2 ^ o.dwrap
    let blk := o.dst.toNat / b * b
    if o.dst.toNat - blk + ((o.rows - 1) * o.dpitch + o.len) ≤ b then (o.dst.toNat, (o.rows - 1) * o.dpitch + o.len) else (blk, b)

/-- Destination of an entry: DKIND, DEST_A, DEST_B. -/
def destOf (v : Dev) (k : Nat) (ws : List W64) : Nat × Nat × Nat :=
  let op := eOp ws
  if op ≤ 1 then (0, 0, 0)
  else match strmKind k with
  | 0 => destMxVx v k ws
  | 1 => destMxVx v k ws
  | 2 => let o := decDma ws; if o.len * o.rows = 0 then (0, 0, 0) else let (a, n) := dmaDest o; (1, a, n)
  | 3 => let o := decCe ws
    if op = 0x11 then (1, o.a.toNat, o.count * ceBytes o.ty) else if op = 0x12 then (1, o.a.toNat, 8) else if op = 0x10 then (1, o.b.toNat, ceLandLen o) else (0, 0, 0)
  | _ =>
    let o := decSe ws
    let u := decUpd ws
    if op = 0x10 ∨ op = 0x11 then (1, o.dst.toNat, o.n)
    else if op = 0x12 ∨ op = 0x24 then (1, o.dst.toNat, o.n * elBytes o.ty)
    else if op = 0x13 then (1, o.aux.toNat, 32 * o.chunks + b2n o.flag * 32)
    else if op = 0x14 then (1, o.statrec.toNat, 64)
    else if op = 0x15 then (1, o.aux.toNat, 128)
    else if op = 0x25 then (1, u.wcopy, 64 * u.ngrp)
    else (1, u.master, 64 * u.ngrp * (if u.compact then 2 else 4))

/-- The in-flight record of an entry (Table 16.8). -/
def Dev.flightRec (v : Dev) (id : Nat) (p : Nat × Flight) : InFlightRec :=
  let (st, f) := v.flightState id p.1 p.2
  let (dk, a, b) := destOf v p.1 f.words
  let prog := if strmKind p.1 = 2 ∧ ¬f.withdrawn ∧ st ≠ 3 then
      (let ch := v.dmaCh (strmUnit p.1) (decDma f.words).chan; if ch.cur.entry = some f.idx then ch.doneBytes else f.prog) else f.prog
  { w0 := w64 (strmKind p.1 + strmUnit p.1 * 8 + st * 512 + b2n f.sfSent * 2048 + b2n f.withdrawn * 4096 + eOp f.words * 65536 + dk * 2 ^ 24 + f.idx * 2 ^ 32),
    w1 := w64 a, w2 := w64 b, w3 := w64 prog }

/-- State code of DMA_CHAN_STAT (Table 11.11). -/
def Dev.dmaState (v : Dev) (c n : Nat) : Nat :=
  match (v.dmaCh c n).phase with
  | .idle => 0
  | .stopped => 3
  | .seal0 => if v.dmaRowWaits c n then 2 else 1
  | .moving => if v.dmaRowWaits c n then 2 else 1
  | .seal1 => if v.dmaRowWaits c n then 2 else 1

/-- DMA table of the record (Table 16.6). -/
def Dev.dmaTable (v : Dev) (die : Nat) : List (W64 × W64) :=
  (List.range 384).map (fun i =>
    let c := die * 24 + i / 16
    let ch := v.dmaCh c (i % 16)
    (w64 ch.doneBytes, w64 (v.dmaState c (i % 16) + b2n ch.cur.order.isSome * 4 + b2n ch.sealWord.isSome * 8 + ch.lastStatus * 16 + (ch.cur.entry.getD 0) * 2 ^ 32)))

/-- CE entries that have finished their chunk, as the bits of Table 16.7: those retired after C0 and those complete (R564). -/
def Dev.chunkBits (v : Dev) (die base : Nat) : Nat :=
  let s := v.strm (144 + die)
  let last := if s.noneRetired then 0 else s.lastRetired + 1
  let ret := (List.range (min 256 (last - base))).foldl (fun a i => a + 2 ^ i) 0
  s.flights.foldl (fun a f => if f.wait = .none ∧ ¬f.withdrawn ∧ ¬f.part ∧ eOp f.words ≠ 0x13 ∧ base ≤ f.idx ∧ f.idx < base + 256 then a + 2 ^ (f.idx - base) else a) ret

/-- Every other entry in flight has ended (R561). -/
def Dev.captureDone (v : Dev) (ids : List Nat) : Bool :=
  ids.all (fun id => (v.inFlight id).all (fun p => p.2.withdrawn || p.2.part || (decide (p.2.wait = .none) && !v.holds p.1 p.2.idx)))

/-- The entries still in flight of a stopped schedule leave it; update slots return (R465). Those of a saved one stay in its image. -/
def Dev.clearFlights (v : Dev) (id : Nat) : Dev :=
  if (v.sched id).phase = .saved then v else
  let v1 := v.forAll (v.inFlight id) (fun u p => if p.2.withdrawn then u else u.versionAbort p.1 p.2)
  v1.forAll (v.sched id).streams (fun u k => (u.modStrm k (fun s => { s with flights := [] })).reslip k)

/-- A stopped schedule's run ends: its completion, and after it that of each ABORT (R105, R615). -/
def Dev.endStopped (v : Dev) (id : Nat) : Dev :=
  let s := v.sched id
  let v1 := (v.clearFlights id).modSched id (fun q => { q with phase := if q.phase = .saved then .saved else .stopped, was := if q.phase = .saved then .stopped else .none, late := none, run := none, aborts := [] })
  match s.run with
  | none => v1
  | some o => v1.completeThen (id / 256) o s.status 0 (schedW2 s id) v.ft.now (s.aborts.map (fun a => (a, schedW2 s id)))

/-- Write the tables of the record and set VALID last (R18, R561, R563). -/
def Dev.writeRecord (v : Dev) (die : Nat) (timed : Bool) : Dev :=
  let r := v.flt die
  let recs := r.snap.map (fun p => v.flightRec p.1 p.2)
  let base := fld (wd r.chunk 0) 24 0
  let cb := if fbit (wd r.chunk 0) 25 then v.chunkBits die base else 0
  let v1 := v.modFlt die (fun q => { q with
    timed := timed, inflight := recs.take 768, nInflight := min 768 recs.length, inflightFull := decide (768 < recs.length), dmaTab := v.dmaTable die,
    chunk := [wd r.chunk 0, w64 (bits cb 63 0), w64 (bits cb 127 64), w64 (bits cb 191 128), w64 (bits cb 255 192)] })
  v1.modFlt die (fun q => { q with valid := true, capturing := false, snap := [] })

/-- Entries still at work are cut short: their units issue nothing further for them (R561). -/
def Dev.cutShort (v : Dev) (ids : List Nat) : Dev :=
  v.forAll ids (fun u id => u.forAll (u.inFlight id) (fun w p =>
    if p.2.withdrawn || p.2.part || decide (p.2.wait = .none) then w else
      let c := strmUnit p.1
      let n := (decDma p.2.words).chan
      if strmKind p.1 = 2 ∧ (w.dmaCh c n).cur.entry ≠ some p.2.idx then
        w.modDmaCh c n (fun ch => { ch with queue := ch.queue.filter (fun d => decide (d.entry ≠ some p.2.idx)) })
      else
        let w1 := w.modFlight p.1 p.2.idx (fun f => { f with part := true })
        if strmKind p.1 = 2 ∧ (w.dmaCh c n).phase ≠ .stopped then w1.dmaDrain c n else w1))

/-- The record is written, FAULT_CAPTURED posted, and the runs it stopped complete (R105, R561). -/
def Dev.closeRecord (v : Dev) (die : Nat) (timed late : Bool) : Dev :=
  let r := v.flt die
  let v1 := (v.writeRecord die timed).modFlt die (fun q => { q with late := late })
  let v2 := v1.ev die (74 + die) 0x018 r.cause r.schedTag
  (v2.forAll r.capScheds Dev.endStopped).modFlt die (fun q => { q with capScheds := [] })

/-- End a capture, at the limit of 1 ms or before (R105, R561). -/
def Dev.endCapture (v : Dev) (die : Nat) (timed : Bool) : Dev :=
  (if timed then v.cutShort (v.flt die).capScheds else v).closeRecord die timed false

end Sys2Proof.Machine
end

