-- ==== Sys2Proof/Machine/Fabric.lean ====
section
/-! DEFINITION. The fabric's shared operations (14): routing, packets, requests, arriving accesses and landing slots. -/

namespace Sys2Proof.Machine

/-! ### Routing (R487 to R489) -/

/-- What applying a route entry gives. -/
inductive RouteRes where
  | denied | gateway | noLink
  | link (l : Nat)
  deriving DecidableEq, Repr

/-- Links of a die named in a route entry that are up, ascending. -/
def Dev.upLinks (v : Dev) (die : Nat) (r : W32) : List Nat :=
  ((List.range 9).filter (fun i => bit r.toNat (4 + i) && decide ((v.linkN (9 * die + i)).state = 2))).map (fun i => 9 * die + i)
/-- Apply a die's own entry (R487). -/
def Dev.routeOn (v : Dev) (die n sunit off : Nat) : RouteRes :=
  let r := v.route die n
  if !bit r.toNat 0 then .denied
  else if bit r.toNat 1 then .gateway
  else match v.upLinks die r with
  | [] => .noLink
  | l :: ls => .link ((l :: ls).getD ((if bit r.toNat 2 then off / 256 else sunit + n) % (ls.length + 1)) l)
/-- Route a packet, over the bridge where this die has no link (R489); with the die whose entry decided. -/
def Dev.routeFor (v : Dev) (die n sunit off : Nat) : RouteRes × Nat :=
  match v.routeOn die n sunit off with
  | .noLink => (match v.routeOn (1 - die) n sunit off with | .noLink => (.noLink, die) | r => (r, 1 - die))
  | r => (r, die)

/-! ### Packets (Tables 14.2, 14.3) -/

def pKind (p : Packet) : Nat := fld p.h0 3 0
def pDchip (p : Packet) : Nat := fld p.h0 17 4
def pSchip (p : Packet) : Nat := fld p.h0 31 18
def pSdie (p : Packet) : Nat := fld p.h0 32 32
def pLen (p : Packet) : Nat := fld p.h0 41 33
def pSunit (p : Packet) : Nat := fld p.h0 49 42
def pId (p : Packet) : Nat := fld p.h0 61 50
def pLid (p : Packet) : Nat := fld p.h0 59 50
def pOff (p : Packet) : Nat := fld p.h1 47 0
def pCtag (p : Packet) : Nat := fld p.h1 63 48

/-- Build a packet. -/
def mkPacket (kind dchip schip sdie len sunit id off ctag : Nat) (data : List Byte) : Packet :=
  { h0 := w64 (kind + dchip % 16384 * 2 ^ 4 + schip % 16384 * 2 ^ 18 + sdie % 2 * 2 ^ 32 + len % 512 * 2 ^ 33 + sunit % 256 * 2 ^ 42 + id % 4096 * 2 ^ 50),
    h1 := w64 (off % 2 ^ 48 + ctag % 65536 * 2 ^ 48), data := data }

/-- A port for a link number. -/
def linkPort (l : Nat) : Port := .link (Fin.ofNat 18 l)

/-- What sending a request led to: sent, on a link or the gateway; answered with ERROR at once because the route denies it, or because no
link is up. -/
inductive SendRes where
  | sent (link : Option Nat) | denied | noLink
  deriving DecidableEq, Repr

def Dev.flagFab (v : Dev) (die : Nat) (g : Fab → Fab) (code chip : Nat) : Dev := (v.modFabD die g).ev die (74 + die) code chip 0

/-- Send a packet by the route of its destination (R487, R489). -/
def Dev.sendPacket (v : Dev) (die : Nat) (p : Packet) : SendRes × Dev :=
  let (r, d) := v.routeFor die (pDchip p) (pSunit p) (pOff p)
  match r with
  | .denied => (.denied, v.flagFab d (fun f => { f with denied := true }) 0x043 (pDchip p))
  | .noLink => (.noLink, v.flagFab d (fun f => { f with noLink := true }) 0x044 (pDchip p))
  | .gateway => (.sent none, v.send (.packet .gateway p))
  | .link l => (.sent (some l), v.send (.packet (linkPort l) p))

/-- A request of a unit: sent and noted until it is answered (R483, R484). The link set must not be changing (R488). -/
def Dev.sendReq (v : Dev) (die kind chip len sunit id off ctag : Nat) (data : List Byte) (purpose : ReqPurpose) : SendRes × Dev :=
  let (r, v1) := v.sendPacket die (mkPacket kind chip v.chip die len sunit id off ctag data)
  match r with
  | .sent l => (.sent l, v1.modFabD die (fun f => { f with
      reqs := f.reqs ++ [{ chip := chip, sunit := sunit, id := id % 4096, off := off, len := len, write := decide (kind ≠ 1), purpose := purpose, link := l }] }))
  | .denied => (.denied, v1)
  | .noLink => (.noLink, v1)

/-- A new READ identifier. -/
def Dev.newId (v : Dev) (die : Nat) : Nat × Dev := ((v.fabD die).nextId, v.modFabD die (fun f => { f with nextId := (f.nextId + 1) % 4096 }))

/-- After requests leave the outstanding list: the new link set is used once no write is left (R488). -/
def Dev.settleLinks (v : Dev) (die : Nat) : Dev := v.modFabD die (fun f => { f with relink := f.relink && f.reqs.any (fun r => r.write) })
/-- The set of up links of a die changes: it issues no request while a write of its own is outstanding, and the other die none while a write
it sent over those links is (R335, R488, R489). -/
def Dev.linksChanged (v : Dev) (die : Nat) : Dev :=
  let v1 := (v.modFabD die (fun f => { f with relink := true })).settleLinks die
  v1.modFabD (1 - die) (fun f => { f with relink := f.relink || f.reqs.any (fun r => r.write && r.link.any (fun l => linkDie l = die)) })

/-- FAB_CFG.ACK_TIMEOUT in ms. -/
def Fab.timeoutMs (f : Fab) : Nat := max 1 f.ackTimeout

/-! ### Arriving accesses (R316, R317) -/

/-- The die posts REGION_INBOUND. -/
def Dev.regionInbound (v : Dev) (die chip off : Nat) : Dev := v.ev die (74 + die) 0x030 chip off

/-- Read for an access arriving on a die; `away` where it comes from another module. -/
def Dev.arriveRead (v : Dev) (die off n chip req : Nat) (away : Bool) : Acc × Dev :=
  if !v.permits die off n false true then (.err 3, v.regionInbound die chip off)
  else if placeOf off = .none then (.err 3, v)
  else if away && (placeOf off).isAtomic then (.err 3, v.ev die (74 + die) 0x031 (2 ^ 63 + chip) off)
  else
    let (r, v1) := v.rdModule die off n req
    match r with
    | .ok bs => (.ok bs, v1)
    | .err e => (.err 3, if e = 1 then v1.regionInbound die chip off else v1)

/-- Write for an access arriving on a die; the flag tells an ERROR answer. -/
def Dev.arriveWrite (v : Dev) (die off : Nat) (bs : List Byte) (chip req : Nat) (away : Bool) (owner : Option Owner) : Bool × Dev :=
  if !v.permits die off bs.length true true then (true, v.regionInbound die chip off)
  else if placeOf off = .none then (true, v)
  else
    let (r, v1) := v.wrModule die off bs req (if away then some chip else none) owner
    match r with
    | none => (false, v1)
    | some e => (true, if e = 1 then v1.regionInbound die chip off else v1)

/-! ### Accesses by a unit at a global address -/

/-- A fabric address whose CHIP is the module's own (R486). -/
def Dev.ownFabric (v : Dev) (a : W64) : Bool := fld a 63 62 = 1 && fld a 61 48 = v.chip
/-- A fabric address of another module. -/
def Dev.otherModule (v : Dev) (a : W64) : Bool := fld a 63 62 = 1 && fld a 61 48 ≠ v.chip

/-- A permitted read by a unit, where no other module is asked (R486). -/
def Dev.rdAt (v : Dev) (die : Nat) (a : W64) (n req : Nat) : Acc × Dev :=
  if v.ownFabric a then v.arriveRead die (offOf a) n v.chip req false else v.rdIssued die a n req
/-- Read by a unit, where no other module is asked: the region check, then the access (R315). -/
def Dev.rdHere (v : Dev) (die : Nat) (a : W64) (n req : Nat) : Acc × Dev :=
  if !v.permits die a.toNat n false false then (.err 1, v) else v.rdAt die a n req
/-- A permitted write by a unit, where no other module is asked. -/
def Dev.wrAt (v : Dev) (die : Nat) (a : W64) (bs : List Byte) (req : Nat) (owner : Option Owner) : Option Nat × Dev :=
  if v.ownFabric a then
    (match v.arriveWrite die (offOf a) bs v.chip req false owner with | (true, v1) => (some 3, v1) | (false, v1) => (none, v1))
  else v.wrIssued die a bs req owner
/-- Write by a unit, where no other module is asked: the region check, then the access. -/
def Dev.wrHere (v : Dev) (die : Nat) (a : W64) (bs : List Byte) (req : Nat) (owner : Option Owner) : Option Nat × Dev :=
  if !v.permits die a.toNat bs.length true false then (some 1, v) else v.wrAt die a bs req owner

/-! ### Landing slots (R498, R499) -/

/-- What a landing slot does with a chunk packet. -/
inductive LandRes where
  /-- Counted: the slot has the tag. -/
  | mine
  /-- The abandoned tag: neither written nor counted. -/
  | stray
  /-- Another tag: written, not counted. -/
  | overrun
  deriving DecidableEq, Repr

/-- What the slot does with a packet of a tag. -/
def Land.judge (l : Land) (ctag : Nat) : LandRes :=
  if l.atagValid ∧ l.atag = ctag then .stray
  else if !l.used || l.abandoned then .mine
  else if l.ctag = ctag then .mine
  else .overrun
/-- A free or abandoned slot takes the tag of the packet. -/
def Land.adopt (l : Land) (ctag : Nat) : Land :=
  if l.abandoned then { used := true, ctag := ctag, atag := l.atag, atagValid := l.atagValid }
  else if !l.used then { used := true, ctag := ctag, atag := l.atag, atagValid := l.atagValid, overrun := l.overrun }
  else l
/-- COMPLETE: DONE, and the two byte counts equal. -/
def Land.settle (l : Land) : Land := { l with complete := decide (l.announced = some l.got) }
/-- Free a slot; its abandoned tag stays (R499), and OVERRUN, which software clears. -/
def Land.free (l : Land) : Land := { atag := l.atag, atagValid := l.atagValid, overrun := l.overrun }
/-- Free a slot and clear ATAG_VALID; ATAG stays until a slot is next abandoned (R499). -/
def Land.clear (l : Land) : Land := { atag := l.atag, overrun := l.overrun }

/-- A stray packet counts into LATE_DISCARDS. -/
def Dev.lateDiscard (v : Dev) (die : Nat) : Dev := v.modFabD die (fun f => { f with lateDiscards := satAdd f.lateDiscards 1 4095 })
/-- A packet of another tag sets OVERRUN. -/
def Dev.landOverrun (v : Dev) (die lid ctag : Nat) : Dev :=
  ((v.modLand die lid (fun l => { l with overrun := true })).modFabD die (fun f => { f with overrun := true })).ev die (74 + die) 0x047 lid ctag

/-- A CHUNK_DATA packet that has been written reaches its slot. -/
def Dev.landData (v : Dev) (die lid ctag len : Nat) : Dev :=
  match (v.land die lid).judge ctag with
  | .mine => v.modLand die lid (fun l => let a := l.adopt ctag; { a with got := a.got + len }.settle)
  | .stray => v.lateDiscard die
  | .overrun => v.landOverrun die lid ctag

/-- A CHUNK_DONE packet reaches its slot; the flag tells that it was recorded. -/
def Dev.landDone (v : Dev) (die lid ctag : Nat) (data : List Byte) : Bool × Dev :=
  let n := ofBytes data
  match (v.land die lid).judge ctag with
  | .mine => (true, v.modLand die lid (fun l =>
      { l.adopt ctag with announced := some (bits n 39 0), cc := bits n 55 40, cfmt := bits n 66 64, sat := bits n 95 80 }.settle))
  | .stray => (false, v.lateDiscard die)
  | .overrun => (false, v.landOverrun die lid ctag)

/-- The payload of a CHUNK_DONE. -/
def doneData (bytes cc cfmt sat : Nat) : List Byte := toBytes (bytes % 2 ^ 40 + cc % 65536 * 2 ^ 40 + cfmt % 8 * 2 ^ 64 + sat % 65536 * 2 ^ 80) 16

end Sys2Proof.Machine
end

