-- ==== Sys2Proof/Machine/Matrix.lean ====
section
/-! DEFINITION. Matrix entries (04, 05, 06): tile load, streamed rows, the steps of a PE, and the accumulator writes. Cycle counts are in Timing.lean. -/

namespace Sys2Proof.Machine

/-! ### The steps of a PE, on 32-bit partial sums -/

/-- An element of a format code with its scaling code: MXINT8 counts in units of 2^-6 (R187, R190, R195, R198). -/
def mxElem (fmt scl code : Nat) : Num :=
  match fmtOf fmt with
  | some f => f.decode code
  | none => let i := sext code (fmtBits fmt); if fmt = 9 ∧ scl = 1 then .fin (decide (i < 0)) i.natAbs (-6) else .ofInt i
/-- A scale byte of a scaling code (R192, R193, R198). -/
def mxScale (scl b : Nat) : Num := if scl = 0 then .fin false 1 0 else if scl = 1 then decE8m0 b else decUe5m3 b

/-- One floating-point step on the products of its pairs and the scale product (R194, R204 to R209). -/
def fpStep (p : Nat) (prods : List Num) (scale : Num) : Nat :=
  let pv := dec32 p
  if pv.isNan || scale.isNan || prods.any Num.isNan then fp32.nanCode
  else
    let s := prods.foldl Num.add .zero
    if s.isFin then
      let t := pv.add (s.mul scale)
      if t.isZero then (if pv.isZero && pv.neg? && prods.all (fun x => x.isZero && x.neg?) then 0x80000000 else 0) else enc32 t
    else enc32 (pv.add s)

/-- One integer step, modulo 2^32 (R210). -/
def intStep (p : Nat) (xs : List Int) : Nat := intCode 32 (sext p 32 + xs.foldl (fun a x => a + x) 0)

/-- The larger or smaller of two values, the earlier kept on a tie, NaN taking over (R177). -/
def pickNum (least : Bool) (old new : Num) : Num :=
  if old.isNan || new.isNan then qnan else if least then (if new.lt old then new else old) else (if old.lt new then new else old)
def pickInt (least : Bool) (old new : Int) : Int := if least then (if new < old then new else old) else (if old < new then new else old)

/-- One floating-point step of a distance mode (R211, Table 4.3). -/
def distFp (mode p : Nat) (prs : List (Num × Num)) : Nat :=
  match mode with
  | 0 => fpStep p (prs.map (fun x => let d := x.1.sub x.2; if d.isNan then qnan else d.abs)) (.fin false 1 0)
  | 1 => fpStep p (prs.map (fun x => let d := x.1.sub x.2; if d.isNan then qnan else d.abs.mul d.abs)) (.fin false 1 0)
  | 4 => intCode 32 (sext p 32 + ((prs.filter (fun x => x.1.eqv x.2)).length : Nat))
  | m =>
    match prs.map (fun x => x.1.add x.2) with
    | [] => p
    | s :: r => enc32 (pickNum (m = 3) (dec32 p) (rnd32 (r.foldl (pickNum (m = 3)) s)))
/-- One integer step of a distance mode. -/
def distInt (mode p : Nat) (prs : List (Int × Int)) : Nat :=
  match mode with
  | 0 => intStep p (prs.map (fun x => ((x.1 - x.2).natAbs : Int)))
  | 1 => intStep p (prs.map (fun x => (x.1 - x.2) * (x.1 - x.2)))
  | 4 => intStep p (prs.map (fun x => if x.1 = x.2 then 1 else 0))
  | m => intCode 32 ((prs.map (fun x => x.1 + x.2)).foldl (pickInt (m = 3)) (sext p 32))

/-- The entry's words are INT32 (R199, Table 5.6); EQCOUNT counts in INT32 whatever its operands. -/
def MxOps.int (o : MxOps) : Bool := isIntFmt o.wf && o.ws = 0 && o.as = 0
def MxOps.dist (o : MxOps) : Bool := o.op = 0x13
def MxOps.intWord (o : MxOps) : Bool := o.int || (o.dist && o.dmode = 4)

/-- The value that enters row 0 (R119, Table 4.3). -/
def MxOps.row0 (o : MxOps) : Nat :=
  if !o.dist then 0
  else if o.dmode = 2 then (if o.int then 0x80000000 else 0xFF800000)
  else if o.dmode = 3 then (if o.int then 0x7FFFFFFF else 0x7F800000)
  else 0

/-- What a write leaves in a word (R135, R175 to R177, Table 5.6). -/
def MxOps.combine (o : MxOps) (old new : Nat) : Nat :=
  if !o.acc then new
  else if o.dist ∧ (o.dmode = 2 ∨ o.dmode = 3) then
    (if o.intWord then intCode 32 (pickInt (o.dmode = 3) (sext old 32) (sext new 32)) else enc32 (pickNum (o.dmode = 3) (dec32 old) (dec32 new)))
  else if o.intWord then (old + new) % 2 ^ 32
  else enc32 ((dec32 old).add (dec32 new))

/-! ### Operands -/

/-- w bits of a scratchpad from a bit position (R191). -/
def Core.bitsAt (k : Core) (pos w : Nat) : Nat := ofBytes (k.spadRead (pos / 8) ((pos % 8 + w + 7) / 8)) / 2 ^ (pos % 8) % 2 ^ w
/-- The first byte with a parity error in a list of ranges. -/
def Core.badIn (k : Core) (es : List (Nat × Nat)) : Option Nat := if k.spadBad.isEmpty then none else es.findSome? (fun e => k.spadBadIn e.1 e.2)

/-- Blocks of a core part: G of R201. -/
def MxOps.gOf (o : MxOps) (scl : Nat) : Nat := 256 * vWide o.wf / scaleLen scl

/-- Ranges the tile loader and the scale port read for load word w of a core (R126, R143, R166, R168, R201): every PE row of columns 2w and
2w + 1, or in reverse flow every PE column of rows 255 − 2w and 254 − 2w, live or not (R121), with the scales of columns 2w and 2w + 1. That
the scales are read in this order in reverse flow too is DEDUCED (log entry 17). -/
def MxOps.wordRanges (o : MxOps) (w : Nat) : List (Nat × Nat) :=
  let b := peBytes o.wf
  (if o.op = 0x11 then [255 - 2 * w, 254 - 2 * w].flatMap (fun i => (List.range 256).map (fun j => (o.tile + (256 * j + i) * b, b)))
   else if o.ttr then (List.range (256 * vWide o.wf)).map (fun t => (o.tile + t * o.tp + 2 * w * fmtBits o.wf / 8, ceilDiv (2 * fmtBits o.wf + 2 * w * fmtBits o.wf % 8) 8))
   else [(o.tile + 512 * w * b, 512 * b)]) ++
  (if o.ws = 0 then [] else [(o.tsc + 2 * w * o.gOf o.ws, 2 * o.gOf o.ws)])

/-- The tile a core loads (R117, R166, R168). -/
def MxOps.loadTile (o : MxOps) (ws : List W64) (r c : Nat) (k : Core) : Tile :=
  let v := vWide o.wf
  let w := fmtBits o.wf
  let kc := o.kc r
  let nc := o.nc c
  { valid := true, words := ws, kc := kc, nc := nc,
    codes := ((List.range nc).map (fun j => (List.range kc).map (fun t =>
      k.bitsAt (if o.ttr then 8 * (o.tile + t * o.tp) + j * w else 8 * (o.tile + (256 * j + t / v) * peBytes o.wf) + w * (t % v)) w))).flatten,
    scales := if o.ws = 0 then [] else ((List.range nc).map (fun j => (List.range (ceilDiv kc (scaleLen o.ws))).map (fun b =>
      k.bitsAt (8 * (o.tsc + j * o.gOf o.ws + b)) 8))).flatten }

/-- A weight of a tile; beyond the live elements, zero (R121). -/
def Tile.weight (t : Tile) (o : MxOps) (r kk j : Nat) : Num :=
  if kk < o.kc r ∧ kk < t.kc ∧ j < t.nc then mxElem o.wf o.ws (t.codes.getD (j * t.kc + kk) 0) else .zero
/-- The scale that covers it. -/
def Tile.scale (t : Tile) (o : MxOps) (kk j : Nat) : Num := mxScale o.ws (t.scales.getD (j * ceilDiv t.kc (scaleLen o.ws) + kk / scaleLen o.ws) 0)
/-- PE row i of column j holds a live weight of the tile in place (R121). Where an entry that reuses a tile has a K or N above that of the
entry that left it, which R171 lets pass, the weights beyond the tile's own are not live: DESIGN CHOICE, log entry 17. -/
def Tile.live (t : Tile) (o : MxOps) (r i j : Nat) : Bool := decide (vWide o.wf * i < o.kc r) && decide (vWide o.wf * i < t.kc) && decide (j < t.nc)

/-- Rows in a slice of the transposing read: those whose elements fill a 64-byte word, at most 64 (R144, R681). -/
def MxOps.sliceRows (o : MxOps) : Nat := min 64 (512 / fmtBits o.af)
/-- The slice row m belongs to. -/
def MxOps.sliceOf (o : MxOps) (m : Nat) : Nat := m / o.sliceRows
/-- Ranges read to build a slice: the 64-byte words that hold its elements, of n token rows. Elements of 6 bits can end in a second word
(DEDUCED, log entry 17). -/
def MxOps.sliceRanges (o : MxOps) (n s : Nat) : List (Nat × Nat) :=
  let lo := s * o.sliceRows * fmtBits o.af / 512
  let hi := ((s + 1) * o.sliceRows * fmtBits o.af - 1) / 512
  (List.range n).map (fun t => (o.strm + t * o.sp + 64 * lo, 64 * (hi - lo + 1)))

/-- Ranges read for streamed row m by the supplying core at place i of Table 4.8 (R167, R201); those of MM_WGT build the slice of the row, so
they are met where its first row is read (R681). -/
def MxOps.rowRanges (o : MxOps) (i m : Nat) : List (Nat × Nat) :=
  let aw := fmtBits o.af
  if o.op = 0x11 then
    let nc := o.nc i
    if nc = 0 then [] else [(o.strm + m * o.sp, ceilDiv (nc * aw) 8)] ++ (if o.as = 0 then [] else [(o.ssc + m * (256 / scaleLen o.as), ceilDiv nc (scaleLen o.as))])
  else
    let n := o.peRows i * vWide o.wf
    if n = 0 then [] else
      (if o.op = 0x12 then o.sliceRanges n (o.sliceOf m)
       else [(o.strm + m * o.sp, ceilDiv (n * aw) 8)]) ++
      (if o.as = 0 then [] else [(o.ssc + m * o.gOf o.as, ceilDiv (o.kc i) (scaleLen o.as))])

/-- The reads of row m are demanded while row `next` is the next to enter the array: they are that row's, or, in a transposing read, build
its slice. All others are run-ahead reads (R320, R681). -/
def MxOps.demanded (o : MxOps) (next m : Nat) : Bool := if o.op = 0x12 then decide (o.sliceOf m = o.sliceOf next) else decide (m = next)
/-- The page the streamer has entered after a demanded read of its ranges: the last one it touched; a transposing read enters none (R323, R681). -/
def MxOps.entered (o : MxOps) (c : Nat) (rs : List (Nat × Nat)) : Option Nat :=
  if o.op = 0x12 then none else (rs.getLast?).map (fun r => (spadBase + c * 0x2000000 + r.1 + r.2 - 1) / 65536)
/-- The reads of row m by supplier c at place i issue while row `next` is the next to enter: demanded ones always; a run-ahead one where
every page it touches lets it or is the one entered (R320 to R322). A held-back read issues, with the same bytes, once it is demanded; the
invalid rows that this costs change no result (R120, R133), so an entry reads row after row as in `mxRows`. -/
def Dev.rowIssues (v : Dev) (o : MxOps) (c i : Nat) (page : Option Nat) (next m : Nat) : Bool :=
  o.demanded next m || (o.rowRanges i m).all (fun r =>
    let a := spadBase + c * 0x2000000 + r.1
    (List.range ((a + r.2 - 1) / 65536 - a / 65536 + 1)).all (fun x => v.pageAhead (coreDie c) page (a / 65536 + x)))

/-- Streamed element of row m: for forward flow element kk of the core's PE rows, for reverse flow column kk (R167). -/
def MxOps.elem (o : MxOps) (k : Core) (m kk : Nat) : Num :=
  let aw := fmtBits o.af
  mxElem o.af o.as (k.bitsAt (if o.op = 0x12 then 8 * (o.strm + kk * o.sp) + m * aw else 8 * (o.strm + m * o.sp) + kk * aw) aw)
/-- Its block scale (Table 6.4). -/
def MxOps.elemScale (o : MxOps) (k : Core) (m kk : Nat) : Num :=
  if o.as = 0 then mxScale 0 0
  else mxScale o.as (k.bitsAt (8 * (o.ssc + m * (if o.op = 0x11 then 256 / scaleLen o.as else o.gOf o.as) + kk / scaleLen o.as)) 8)

/-- The integer an element of an integer format holds. -/
def Num.toInt (x : Num) : Int := x.num 0

/-! ### Results -/

/-- One forward step of PE row i of the core row whose tile and streamed core are given (R119, R122). -/
def MxOps.fwdStep (o : MxOps) (t : Tile) (s : Core) (m r i j p : Nat) : Nat :=
  if !t.live o r i j then p
  else
    let v := vWide o.wf
    let prs := (List.range v).map (fun e => (o.elem s m (v * i + e), t.weight o r (v * i + e) j))
    if o.dist then
      (if o.int then distInt o.dmode p (prs.map (fun x => (x.1.toInt, x.2.toInt))) else distFp o.dmode p prs)
    else if o.int then intStep p (prs.map (fun x => x.1.toInt * x.2.toInt))
    else fpStep p (prs.map (fun x => x.1.mul x.2)) ((o.elemScale s m (v * i)).mul (t.scale o (v * i) j))

/-- Forward result of row m in column j of core column c: PE rows in ascending global order (R120). -/
def Dev.fwdResult (v : Dev) (o : MxOps) (core p m c j : Nat) : Nat :=
  forN p o.row0 (fun r a => forN (o.peRows r) a (fun i b =>
    o.fwdStep (v.core (gangCore core r c)).tile (v.core (gangCore core r 0)) m r i j b))

/-- Reverse result of row m for element kk of core row r: columns in descending global order (R140, R209). -/
def Dev.revResult (v : Dev) (o : MxOps) (core p m r kk : Nat) : Nat :=
  forN o.n 0 (fun i a =>
    let jj := o.n - 1 - i
    let c := jj / 256
    let j := jj % 256
    let t := (v.core (gangCore core r c)).tile
    let s := v.core (gangCore core (p - 1) c)
    if !t.live o r (kk / vWide o.wf) j then a
    else if o.int then intStep a [(o.elem s m j).toInt * (t.weight o r kk j).toInt]
    else fpStep a [(o.elem s m j).mul (t.weight o r kk j)] ((o.elemScale s m j).mul (t.scale o kk j)))

/-- The words row m writes: core, accumulator word (row × 256 + word), value (R139, R173, R174). -/
def Dev.mxRow (v : Dev) (o : MxOps) (core p q m : Nat) : List (Nat × Nat × Nat) :=
  if o.op = 0x11 then
    ((List.range p).map (fun r => (List.range (o.kc r)).map (fun kk =>
      (gangCore core r 0, (o.row + m * vWide o.wf + kk / 256) * 256 + kk % 256, v.revResult o core p m r kk)))).flatten
  else
    ((List.range q).map (fun c => (List.range (o.nc c)).map (fun j =>
      (gangCore core (p - 1) c, (o.row + m) * 256 + j, v.fwdResult o core p m c j)))).flatten

/-- Write one accumulator word; its parity is fresh. -/
def Core.accPut (k : Core) (w x : Nat) : Core := { k with acc := tset 0#32 k.acc w (w32 x), accBad := k.accBad.filter (fun b => decide (b ≠ w)) }
/-- Read one accumulator word. -/
def Core.accGet (k : Core) (w : Nat) : Nat := (tget 0#32 k.acc w).toNat
/-- One cycle of an accumulator: the words port B reads, as they stood before it, then the writes of port A and after them those of port B, so
that port B's stands where both write one word (R299). Every access to an accumulator by an entry goes through it. -/
def Core.accCycle (k : Core) (reads : List Nat) (portA portB : List (Nat × Nat)) : List Nat × Core :=
  (reads.map k.accGet, (portA ++ portB).foldl (fun q x => q.accPut x.1 x.2) k)

/-- Where a row met a parity error: core, whether in the accumulator, address as parityFail takes it, and the row. -/
structure RowErr where
  c : Nat
  acc : Bool
  addr : Nat
  row : Nat
  deriving DecidableEq, Repr

/-- Stream rows in order, writing each, up to the first that meets a parity error (R123, R304, R305). -/
def Dev.mxRows (v : Dev) (o : MxOps) (core p q : Nat) : List Nat → Dev × Option RowErr
  | [] => (v, none)
  | m :: ms =>
    let sup := o.suppliers core p q
    match (List.range sup.length).findSome? (fun i => ((v.core (sup.getD i 0)).badIn (o.rowRanges i m)).map (fun x => (sup.getD i 0, x))) with
    | some (c, x) => (v, some { c := c, acc := false, addr := x, row := m })
    | none =>
      let ws := v.mxRow o core p q m
      match (if o.acc then ws.find? (fun w => (v.core w.1).accBad.contains w.2.1) else none) with
      | some w => (v, some { c := w.1, acc := true, addr := w.2.1 / 256 * 64, row := m })
      | none => (v.forAll ws (fun u w => u.modCore w.1 (fun k =>
        let x := [(w.2.1, o.combine (k.accGet w.2.1) w.2.2)]
        (if o.op = 0x11 then k.accCycle [] [] x else k.accCycle [] x []).2))).mxRows o core p q ms

/-- Load every core's part of the tile, word by word in all cores of the gang, or the first parity error met (R125, R126, R143, R150; the
cores of one word ascending, log entry 17). -/
def Dev.mxLoad (v : Dev) (o : MxOps) (ws : List W64) (core p q : Nat) : Dev × Option RowErr :=
  let places := ((List.range p).map (fun r => (List.range q).map (fun c => (r, c)))).flatten
  match (List.range 128).findSome? (fun w => places.findSome? (fun x =>
    let c := gangCore core x.1 x.2
    ((v.core c).badIn (o.wordRanges w)).map (fun a => (c, a)))) with
  | some (c, a) => (v, some { c := c, acc := false, addr := a, row := 0 })
  | none => (v.forAll places (fun u x => u.modCore (gangCore core x.1 x.2) (fun k => { k with tile := o.loadTile ws x.1 x.2 k })), none)

/-- The physical column of logical column j of a core (R158, R679). -/
def Core.physical (k : Core) (j : Nat) : Nat := ((List.range 260).filter (fun c => !k.marked.contains c)).getD j 0
/-- The first column in use whose partial-sum path meets a parity error. All 256 columns of a gang's cores carry partial sums, whatever N the
entry has, and of several that err the lowest column of the first core is named: the spec does not say (DESIGN CHOICE, log entry 37). -/
def Core.colHit (k : Core) : Option Nat := ((List.range 256).map k.physical).find? (fun c => k.colBad.contains c)

/-- A column parity error (R160). -/
def Dev.colFail (v : Dev) (k : Nat) (ws : List W64) (c col : Nat) : Dev :=
  let v1 := v.modCore c (fun q => { q with colParity := true, lastCol := col, colBad := q.colBad.erase col, testDue := true })
  (v1.ev (coreDie c) c 0x013 c col).startFail k ws 0 0x42 0#64

/-- A matrix entry starts (R119 to R182). -/
def Dev.mxStart (v : Dev) (k op : Nat) : Dev :=
  match v.startable k op with
  | none => v
  | some ws =>
    let o := decMx ws
    let core := strmUnit k
    let fl : Flight := { idx := (v.strm k).next, words := ws, srcDone := true, prog := if o.k = 0 ∧ o.acc then 0 else o.m }
    match shapeOf o.shape with
    | none => v
    | some (p, q) =>
      if o.empty then (v.started k { fl with prog := 0 } true).nextHead k
      else if o.k = 0 ∧ o.acc then (v.started k fl true).nextHead k
      else
        let v0 := v.forAll (o.receivers core) (fun u c => u.overlapAt k c ws)
        match (if o.k = 0 then none else (gangList core p q).findSome? (fun c => (v0.core c).colHit.map (fun x => (c, x)))) with
        | some (c, col) => v0.colFail k ws c col
        | none =>
          let (v1, e1) := if o.k = 0 ∨ o.reuse then (v0, none) else v0.mxLoad o ws core p q
          match e1 with
          | some e => v1.parityFail k ws e.c e.acc e.addr e.row
          | none =>
            let (v2, e2) := v1.mxRows o core p q (List.range o.m)
            match e2 with
            | some e => v2.parityFail k ws e.c e.acc e.addr e.row
            | none => (v2.started k fl (o.k = 0)).nextHead k

/-- MM_FWD (R163, R173). -/
def execMmFwd (c : CoreId) (s : State) : Host.Outcome State Fault Refusal := s.onDev (fun v => v.mxStart (3 * c.val) 0x10)
/-- MM_REV (R140, R174). -/
def execMmRev (c : CoreId) (s : State) : Host.Outcome State Fault Refusal := s.onDev (fun v => v.mxStart (3 * c.val) 0x11)
/-- MM_WGT (R144, R173). -/
def execMmWgt (c : CoreId) (s : State) : Host.Outcome State Fault Refusal := s.onDev (fun v => v.mxStart (3 * c.val) 0x12)
/-- MM_DIST (R122, R177, R178). -/
def execMmDist (c : CoreId) (s : State) : Host.Outcome State Fault Refusal := s.onDev (fun v => v.mxStart (3 * c.val) 0x13)

end Sys2Proof.Machine
end

