-- ==== Sys2Proof/Machine/Scaling.lean ====
section
/-! DEFINITION. Scaling, statistics and stochastic rounding (07), the transcendental functions (R261), and the quantisation of a block. -/

namespace Sys2Proof.Machine

/-! ### Random generators -/

/-- Rotate a 64-bit word left. -/
def rotl64 (x : W64) (n : Nat) : W64 := x.rotateLeft n

/-- One advance: the output and the next state (R240). -/
def rngNext (st : BitVec 128) : W64 × BitVec 128 :=
  let s0 : W64 := st.extractLsb' 0 64
  let s1 : W64 := st.extractLsb' 64 64
  let out := rotl64 (s0 + s1) 17 + s0
  let t1 := s1 ^^^ s0
  let n0 := rotl64 s0 49 ^^^ t1 ^^^ (t1 <<< 21)
  let n1 := rotl64 t1 28
  (out, n1 ++ n0)

/-- φ and the mixing function of R241. -/
def rngPhi : W64 := 0x9E3779B97F4A7C15#64
def rngMix (z : W64) : W64 :=
  let a := (z ^^^ (z >>> 30)) * 0xBF58476D1CE4E5B9#64
  let b := (a ^^^ (a >>> 27)) * 0x94D049BB133111EB#64
  b ^^^ (b >>> 31)
/-- The state a seed and an identity give (R241). -/
def rngSeedOf (seed : W64) (l : Nat) : BitVec 128 :=
  let s0 := rngMix (seed + w64 l * rngPhi)
  let s1 := rngMix (s0 + rngPhi)
  (if s0 = 0#64 ∧ s1 = 0#64 then 1#64 else s1) ++ s0

/-- One use of a vector lane's generator (R243). -/
def Dev.coreUse (v : Dev) (c lane : Nat) : W64 × Dev :=
  if (v.core c).rngFree then v.draw
  else
    let (o, st) := rngNext (tget 0#128 (v.core c).gens lane)
    (o, v.modCore c (fun k => { k with gens := tset 0#128 k.gens lane st }))
/-- One use of generator s of a channel engine's lane (R239). -/
def Dev.stackUse (v : Dev) (s chan lane : Nat) : W64 × Dev :=
  if (v.stk s).rngFree then v.draw
  else
    let (o, st) := rngNext (tget 0#128 (v.stk s).gens (chan * 16 + lane))
    (o, v.modStk s (fun k => { k with gens := tset 0#128 k.gens (chan * 16 + lane) st }))
/-- Slice i of a use (R244). -/
def slice16 (o : W64) (i : Nat) : Nat := bits o.toNat (16 * i + 15) (16 * i)

/-- Seed the lanes of a core (R241). -/
def Core.seed (k : Core) (c : Nat) : Core :=
  { k with gens := forN 256 k.gens (fun i t => tset 0#128 t i (rngSeedOf k.rngSeed (c * 256 + i))), seeded := true, rngFree := k.rngMode }
/-- Seed generator s of every lane of every engine of a range of channels. -/
def Stack.seed (k : Stack) (lo n : Nat) : Stack :=
  { k with gens := forN (n * 16) k.gens (fun i t => tset 0#128 t (lo * 16 + i) (rngSeedOf k.rngSeed (12288 + lo * 16 + i))), seeded := true, rngFree := k.rngMode }

/-! ### Transcendental functions, correctly rounded -/

/-- ln 2 in units of 2^-256. -/
def ln2Fix : Nat := 80260960185991308862233904206310070533990667611589946606122867505419956976171

/-- e^r for r in [0, ln 2) in units of 2^-256: 64 terms. -/
def expFix (r : Nat) : Nat := (forN 64 (2 ^ 256, 2 ^ 256) (fun i a => let t := a.1 * r / 2 ^ 256 / (i + 1); (t, a.2 + t))).2

/-- e^x of an FP32 value, to more than 120 bits with a sticky bit; no finite FP32 other than 0 gives a tie (R261). -/
def expNum (x : Num) : Num :=
  match x with
  | .nan _ => qnan
  | .inf n => if n then .zero else .inf false
  | .fin _ m _ =>
    if m = 0 then .fin false 1 0
    else if (Num.ofInt 89).lt x then .inf false
    else if x.lt (.ofInt (-104)) then .zero
    else
      let i := x.num (-256)
      let n := i / (ln2Fix : Int)
      rnd32 (.fin false (2 * expFix (i - n * ln2Fix).toNat + 1) (n - 257))

/-- ln of an FP32 value, in the same way. -/
def logNum (x : Num) : Num :=
  match x with
  | .nan _ => qnan
  | .inf n => if n then qnan else .inf false
  | .fin n m e =>
    if m = 0 then .inf true
    else if n then qnan
    else if x.eqv (.ofInt 1) then .zero
    else
      let h := 2 ^ (bitLen m - 1)
      let z := (m - h) * 2 ^ 256 / (m + h)
      let z2 := z * z / 2 ^ 256
      let s := (forN 96 (z, 0) (fun i a => (a.1 * z2 / 2 ^ 256, a.2 + a.1 / (2 * i + 1)))).2
      let t : Int := (e + (bitLen m : Nat) - 1) * (ln2Fix : Int) + 2 * (s : Int)
      rnd32 (.fin (decide (t < 0)) (2 * t.natAbs + 1) (-257))

/-- 1 ÷ x (Table 8.5). -/
def recipNum (x : Num) : Num := rnd32 ((Num.ofInt 1).div x)
/-- 1 ÷ √x (Table 8.5). -/
def rsqrtNum (x : Num) : Num :=
  match x with
  | .nan _ => qnan
  | .inf n => if n then qnan else .zero
  | .fin n m _ => if m = 0 then .inf n else if n then qnan else rnd32 ((Num.ofInt 1).div x.sqrt)

/-! ### Statistics -/

/-- What one output element was formed from: the value narrowed, whether the output is zero, and whether it saturated. -/
structure Seen where
  x : Num
  zero : Bool
  sat : Bool := false
  deriving DecidableEq, Repr

/-- A statistics report (Table 7.2); `narrows` tells whether SAT and FLUSHED are counted (R228). -/
def statsOf (narrows : Bool) (blk : Nat) (xs : List Seen) : Stats :=
  { count := xs.length, zeros := (xs.filter (fun s => s.zero)).length,
    flushed := if narrows then (xs.filter (fun s => s.zero && s.x.isFin && !s.x.isZero)).length else 0,
    sat := if narrows then (xs.filter (fun s => s.sat)).length else 0,
    nonfinite := (xs.filter (fun s => !s.x.isFin)).length, amax := w32 (enc32 (amaxOf (xs.map (fun s => s.x)))), blkSat := blk }

/-- The sum of two reports. -/
def joinStats (a b : Stats) : Stats :=
  { count := a.count + b.count, zeros := a.zeros + b.zeros, flushed := a.flushed + b.flushed, sat := a.sat + b.sat,
    nonfinite := a.nonfinite + b.nonfinite, amax := if a.amax.toNat < b.amax.toNat then b.amax else a.amax, blkSat := a.blkSat + b.blkSat }

/-- Decode a code of Table 5.3 or 8.2's additions as a value. -/
def decCode (f code : Nat) : Num :=
  if f = 10 then dec32 code
  else match fmtOf f with
  | some g => g.decode code
  | none => .ofInt (sext code (if f = 8 then 4 else if f = 9 then 8 else 32))

/-- Narrow a value to a format code under R214; an FP32 target takes one IEEE rounding. -/
def narrowTo (f : Nat) (ieee : Bool) (rand : Option Nat) (x : Num) : Narrowed :=
  if f = 10 then { code := enc32 x }
  else match fmtOf f with
  | some g => (match rand with | none => g.narrow ieee x | some r => g.narrowSr r ieee x)
  | none => let w := if f = 8 then 4 else if f = 9 then 8 else 32; let (i, s) := narrowInt w x; { code := intCode w i, sat := s }

/-! ### Quantising a block -/

/-- E of Table 6.3. -/
def mxE (f : Nat) : Int := match f with | 0 => 2 | 1 => 4 | 2 => 2 | 3 => 8 | 4 => 15 | _ => 0

/-- A block's scale byte and whether it was saturated or clipped (R200, Table 6.3). -/
def blockScale (f scl : Nat) (t : Num) (xs : List Num) : Nat × Bool :=
  if scl = 0 then (0, false)
  else if xs.any (fun x => !x.isFin) then (255, false)
  else match amaxOf xs with
  | .fin _ m e =>
    if m = 0 then (0, false)
    else if scl = 1 then let x := ilog2 m e - mxE f; ((127 + clampI (-127) 127 x).toNat, decide (x < -127) || decide (127 < x))
    else match (Num.fin false m e).div (t.mul (fmtMax f)) with
      | .fin _ q g => encUe5m3 q g
      | .nan _ => (254, true)
      | .inf _ => (254, true)
  | .nan _ => (255, false)
  | .inf _ => (255, false)

/-- What an element is divided by: T, the MX scale, or T × b. -/
def blockDivisor (scl : Nat) (t : Num) (b : Nat) : Num := if scl = 0 then t else if scl = 1 then decE8m0 b else t.mul (decUe5m3 b)

/-- Encode one element (R200, R214, R247); the elements of a block of zeros stay zeros. The scale of a block that holds a NaN or an infinity is
itself NaN: an element over it is a NaN without sign, whatever the element's own sign (R200 does not give it; DESIGN CHOICE, log entry 18). -/
def quantElem (f scl : Nat) (ieee : Bool) (d : Num) (rand : Option Nat) (x : Num) : Narrowed :=
  let y := if d.isZero then x else if d.isNan then qnan else if x.isNan then x else x.div d
  narrowTo f (ieee && scl = 0) rand (if f = 9 ∧ scl = 1 then y.mul (.ofInt 64) else y)

/-- A quantised block: its scale byte, its codes, and what a statistics record counts. -/
structure QBlock where
  scale : Nat
  codes : List Nat
  seen : List Seen
  blkSat : Bool
  deriving DecidableEq, Repr

def quantBlock (f scl : Nat) (ieee : Bool) (t : Num) (xs : List Num) (rs : List (Option Nat)) : QBlock :=
  let (b, s) := blockScale f scl t xs
  let d := blockDivisor scl t b
  let ys := (xs.zip rs).map (fun p => (p.1, quantElem f scl ieee d p.2 p.1))
  { scale := b, codes := ys.map (fun y => y.2.code), seen := ys.map (fun y => { x := y.1, zero := (decCode f y.2.code).isZero, sat := y.2.sat && y.1.isFin }),
    blkSat := s }

/-- Report of a block, at most one block scale counted. -/
def blockStats (b : QBlock) : Stats := statsOf true (b2n b.blkSat) b.seen

/-! ### Updating the scale -/

/-- T = 2^e for A > 0: the smallest e with A ≤ Qeff × 2^(e − H), clipped (R226). -/
def scaleRule (q : Num) (h : Nat) (a : Num) : Num :=
  let ok (e : Int) : Bool := !(q.mul (.pow2 (e - h))).lt a
  .pow2 (((List.range 254).map (fun i => Int.ofNat i - 126)).find? ok |>.getD 127)

/-- History slot i of a scale record's words, as a code. -/
def histOf (ws : List W64) (i : Nat) : Nat := if i % 2 = 0 then fld (wd ws (8 + i / 2)) 31 0 else fld (wd ws (8 + i / 2)) 63 32
/-- The words with history slot i replaced. -/
def setHist (ws : List W64) (i code : Nat) : List W64 :=
  let w := wd ws (8 + i / 2)
  ws.set (8 + i / 2) (if i % 2 = 0 then w64 (fld w 63 32 * 2 ^ 32 + code) else w64 (code * 2 ^ 32 + fld w 31 0))
/-- The largest of the first n history entries. -/
def histMax (ws : List W64) (n : Nat) : Num := ((List.range n).map (fun i => dec32 (histOf ws i))).foldl (fun a x => if a.lt x then x else a) .zero
def numMax (a b : Num) : Num := if a.lt b then b else a
def numMin (a b : Num) : Num := if b.lt a then b else a

/-- The scale record's sixteen words after folding a report (R234); with scheme MX, T = 1.0 (Table 7.1). -/
def foldScale (st ws : List W64) : List W64 :=
  let r := decScaleRec ws
  if (wd st 0).toNat = 0 then ws
  else if (wd st 4).toNat ≠ 0 then ws.set 0 (encScaleW0 (wd ws 0) { r with nfSeen := true })
  else
    let delayed := decide (r.policy = 1)
    let used := dec32 r.tUsed
    let top := dec32 0x7F7FFFFF
    let corr := delayed && decide ((wd st 3).toNat ≠ 0)
    let amax := dec32 (fld (wd st 5) 31 0)
    let a := if corr then numMax amax (numMin ((Num.ofInt 2).mul (histMax ws r.fill)) top) else amax
    let ws1 := (setHist ws r.pos (enc32 a)).set 2 (w64 (r.steps + 1))
    let r1 := { r with pos := (r.pos + 1) % 16, fill := min 16 (r.fill + 1), backoff := corr }
    let amag := if delayed then histMax ws1 r1.fill else amax
    let t := if amag.isZero then used else scaleRule (qeff r.fmt r.scheme) r.headroom amag
    let t1 := if r.scheme = 1 then .ofInt 1 else if corr then numMin (numMax t ((Num.ofInt 2).mul used)) (.pow2 127) else t
    ws1.set 0 (encScaleW0 (wd ws 0) (if r.policy = 0 then r1 else { r1 with t := enc32 t1 }))

/-- The scale-update operation: the report is read and cleared, the record's upper half written before its lower half (R234). -/
def Dev.scaleUpdate (v : Dev) (stat rec req : Nat) (owner : Option Owner) : Dev :=
  let st := v.recWords stat 8
  let ws := v.recWords rec 16
  let nw := foldScale st ws
  let v1 := v.stackWrite stat (List.replicate 64 0#8) req owner
  if nw = ws then v1
  else (v1.stackWrite (rec + 64) (wordsToBytes (nw.drop 8)) req owner).stackWrite rec (wordsToBytes (nw.take 8)) req owner

end Sys2Proof.Machine
end

