-- ==== Sys2Proof/Machine/Updates.lean ====
section
/-! DEFINITION. Work of the SE streams on stack memory: how an entry starts, and the update programs, microcode, working copies and the
version fence (12, 13). -/

namespace Sys2Proof.Machine

/-! ### Starting an SE entry -/

/-- An entry of an SE stream starts: an empty one at once; one that touches pages with held writes waits; a stack path error faults its
stream; else its tasks take effect and it ends. One with no source operand sends its source-free signal as it starts, and so does an empty
one (R87, R114, R433, R438, R573, Table 12.5). -/
def Dev.seRun (v : Dev) (k op : Nat) (empty noSource : List W64 → Bool) (touch : List W64 → List (Nat × Nat)) (act : Dev → Nat → List W64 → Dev) : Dev :=
  match v.startable k op with
  | none => v
  | some ws =>
    let idx := (v.strm k).next
    let es := (touch ws).filter (fun e => decide (0 < e.2))
    if empty ws then (v.started k { idx := idx, words := ws } true).nextHead k
    else if v.hbm.busy || es.any (fun e => v.heldIn e.1 e.2 || v.queueFull e.1 e.2) then v
    else match es.findSome? (fun e => v.pathAt e.1 e.2) with
    | some x => v.pathFail k ws x 0
    | none => ((act (v.forAll es (fun u e => u.softErrs e.1 e.2)) idx ws).started k { idx := idx, words := ws, srcDone := true } (noSource ws)).nextHead k

/-! ### Reductions (R434, R459, R460) -/

/-- One source after the other combined into a running result. -/
def Dev.reduceFrom (v : Dev) (o : SeOps) (n : Nat) : List Nat → List Byte → List Byte
  | [], acc => acc
  | i :: is, acc => v.reduceFrom o n is (elZip o.ty o.op n acc (v.stk8 (o.src.toNat + i * o.stride) (n * elBytes o.ty)))
/-- Elements as they are written (R188). -/
def canonBytes (ty n : Nat) (bs : List Byte) : List Byte :=
  ((List.range n).map (fun i => toBytes (canonEl ty (ofBytes ((bs.drop (i * elBytes ty)).take (elBytes ty)))) (elBytes ty))).flatten
/-- The results of SE_REDUCE, read before any is written. -/
def Dev.reduced (v : Dev) (o : SeOps) : List Byte :=
  let n := o.n
  let len := n * elBytes o.ty
  if o.flag then canonBytes o.ty n (v.reduceFrom o n ((List.range o.nsrc).drop 1) (v.stk8 o.src.toNat len))
  else v.reduceFrom o n (List.range o.nsrc) (v.stk8 o.dst.toNat len)
/-- Elements of a type in a byte list, as values. -/
def elNums (ty n : Nat) (bs : List Byte) : List Num :=
  (List.range n).map (fun i =>
    let c := ofBytes ((bs.drop (i * elBytes ty)).take (elBytes ty))
    if ty = 2 ∨ ty = 3 then .ofInt (sext c (8 * elBytes ty)) else (elFmt ty).decode c)
/-- A report that counts written values as inputs, without SAT and FLUSHED (R228). -/
def plainStats (xs : List Num) : Stats := statsOf false 0 (xs.map (fun x => { x := x, zero := x.isZero }))

/-- Sum from +0.0 in order, each addition one FP64 rounding. -/
def sum64 (xs : List Num) : Num := xs.foldl (fun a x => fp64.rnd (a.add x)) .zero
/-- Blocks of 4,096 values; `fuel` bounds their number. -/
def blocksOf (xs : List Num) : Nat → List (List Num)
  | 0 => []
  | fuel + 1 => if xs.isEmpty then [] else xs.take 4096 :: blocksOf (xs.drop 4096) fuel
/-- The FP64 partial of a list of FP32 results (R460). -/
def normPartial (xs : List Num) : Num := sum64 ((blocksOf (xs.map (fun x => fp64.rnd (x.mul x))) (xs.length / 4096 + 1)).map sum64)

/-- SE_REDUCE, or UPD_REDNORM with its partial. -/
def Dev.seReduce (v : Dev) (norm : Bool) (k idx : Nat) (ws : List W64) : Dev :=
  let o := decSe ws
  let own := some (Owner.entry k idx)
  let rs := v.reduced o
  let v1 := v.stackWrite o.dst.toNat rs (strmSrc k) own
  let v2 := if norm then v1.stackWrite o.aux.toNat (toBytes (fp64.enc (normPartial (elNums 0 o.n rs))) 8) (strmSrc k) own else v1
  if o.statEn then v2.submit (.merge o.statrec.toNat (plainStats (elNums o.ty o.n rs))) (strmSrc k) own else v2
/-- Extents of a reduction. -/
def redTouch (norm : Bool) (ws : List W64) : List (Nat × Nat) :=
  let o := decSe ws
  let len := o.n * elBytes o.ty
  (List.range o.nsrc).map (fun i => (o.src.toNat + i * o.stride, len)) ++ [(o.dst.toNat, len)] ++ (if norm then [(o.aux.toNat, 8)] else []) ++
  (if o.statEn then [(o.statrec.toNat, 64)] else [])

/-- UPD_REDNORM; with N = 0 it reads nothing, so it writes +0.0 to AUX alone and is source-free at its start (R87, R114, R438, R460). -/
def Dev.rednorm (v : Dev) (k : Nat) : Dev :=
  v.seRun k 0x24 (fun _ => false) (fun ws => decide ((decSe ws).n = 0)) (fun ws => if (decSe ws).n = 0 then [((decSe ws).aux.toNat, 8)] else redTouch true ws) (fun u idx ws =>
    if (decSe ws).n = 0 then u.stackWrite (decSe ws).aux.toNat (List.replicate 8 0#8) (strmSrc k) (some (.entry k idx)) else u.seReduce true k idx ws)
def execUpdRednorm (s : StackId) (st : State) : Host.Outcome State Fault Refusal := st.onDev (fun v => v.rednorm (146 + s.val))

/-! ### The element programs (R447, R450 to R453) -/

/-- A hyperparameter record (Table 13.3). -/
structure Hyper where
  lr : Num
  wd : Num
  b1 : Num
  omb1 : Num
  b2 : Num
  omb2 : Num
  eps : Num
  bc1 : Num
  bc2 : Num
  maxnorm : Nat
  step : Nat
  normsq : Num
  ucode : W64
  deriving DecidableEq, Repr
def decHyper (ws : List W64) : Hyper :=
  let lo (i : Nat) : Num := dec32 (fld (wd ws i) 31 0)
  let hi (i : Nat) : Num := dec32 (fld (wd ws i) 63 32)
  { lr := lo 0, wd := hi 0, b1 := lo 1, omb1 := hi 1, b2 := lo 2, omb2 := hi 2, eps := lo 3, bc1 := hi 3, bc2 := lo 4,
    maxnorm := fld (wd ws 4) 63 32, step := fld (wd ws 5) 31 0, normsq := fp64.decode (wd ws 6).toNat, ucode := wd ws 7 }

/-- The clip factor; none where the update is skipped (R447). -/
def clipFactor (h : Hyper) : Option Num :=
  let s := h.normsq
  if s.isNan || (s.isInf && !s.neg?) then none
  else if s.isZero then some (.ofInt 1)
  else
    let q := fp64.rnd ((dec32 h.maxnorm).div (fp64.rnd s.sqrt))
    some (if !q.isNan && !q.lt (.ofInt 1) then .ofInt 1 else rnd32 q)

def mulR (x y : Num) : Num := rnd32 (x.mul y)
def addR (x y : Num) : Num := rnd32 (x.add y)
/-- sign(k) of R450. -/
def signNum (x : Num) : Num := if x.isNan then qnan else if x.isZero then .zero else if x.neg? then .ofInt (-1) else .ofInt 1

/-- An element's new state: the exact master before final, and both moments. -/
structure Elem where
  p : Num
  m : Num
  v : Num
  deriving DecidableEq, Repr

def adamw (h : Hyper) (c g : Num) (x : Elem) : Elem :=
  let g1 := mulR g c
  let m1 := addR (mulR h.b1 x.m) (mulR h.omb1 g1)
  let v1 := addR (mulR h.b2 x.v) (mulR h.omb2 (mulR g1 g1))
  let u := rnd32 ((mulR m1 h.bc1).div (addR (rnd32 (mulR v1 h.bc2).sqrt) h.eps))
  { p := x.p.sub (mulR h.lr (addR u (mulR h.wd x.p))), m := m1, v := v1 }
def lion (h : Hyper) (c g : Num) (x : Elem) : Elem :=
  let g1 := mulR g c
  let u := signNum (addR (mulR h.b1 x.m) (mulR h.omb1 g1))
  { x with
    p := x.p.sub (mulR h.lr (addR u (mulR h.wd x.p)))
    m := addR (mulR h.b2 x.m) (mulR h.omb2 g1) }
def sgdm (h : Hyper) (c g : Num) (x : Elem) : Elem :=
  let m1 := addR (mulR h.b1 x.m) (addR (mulR g c) (mulR h.wd x.p))
  { x with
    p := x.p.sub (mulR h.lr m1)
    m := m1 }

/-- Register i of a microcode program. -/
def fReg (fs : List Num) (i : Nat) : Num := fs.getD i .zero
/-- One microcode operation (Table 13.4). -/
def ucodeOp (op : Nat) (a b : Num) : Num :=
  match op with
  | 1 => addR a b
  | 2 => rnd32 (a.sub b)
  | 3 => mulR a b
  | 4 => rnd32 (a.div b)
  | 5 => rnd32 a.sqrt
  | 6 => rnd32 (pickNum true a b)
  | 7 => rnd32 (pickNum false a b)
  | 8 => signNum a
  | 9 => rnd32 a.abs
  | 10 => rnd32 a.negate
  | _ => a
/-- Run a program to its END or its last instruction. -/
def ucodeRun : List Nat → List Num → List Num
  | [], fs => fs
  | i :: is, fs =>
    let op := bits i 4 0
    if op = 0 then fs else ucodeRun is (fs.set (bits i 8 5) (ucodeOp op (fReg fs (bits i 12 9)) (fReg fs (bits i 16 13))))
/-- The program holds a reserved OP or a non-zero reserved bit before its first END (R453). -/
def ucodeBad : List Nat → Bool
  | [] => false
  | i :: is => if bits i 4 0 = 0 then false else decide (11 < bits i 4 0) || decide (bits i 31 17 ≠ 0) || ucodeBad is
/-- The 64 instructions of 32 words of microcode. -/
def ucodeOf (ws : List W64) : List Nat := (ws.map (fun w => [fld w 31 0, fld w 63 32])).flatten
def micro (prog : List Nat) (h : Hyper) (c g : Num) (x : Elem) : Elem :=
  let fs := ucodeRun prog ([x.p, x.m, x.v, mulR g c, h.lr, h.wd, h.b1, h.omb1, h.b2, h.omb2, h.eps, h.bc1, h.bc2] ++ List.replicate 3 Num.zero)
  { p := fReg fs 0, m := fReg fs 1, v := fReg fs 2 }

/-- The program of an opcode on one element; UPD_WCOPY changes nothing. -/
def updElem (op : Nat) (prog : List Nat) (h : Hyper) (c g : Num) (x : Elem) : Elem :=
  match op with
  | 0x20 => adamw h c g x
  | 0x21 => lion h c g x
  | 0x22 => sgdm h c g x
  | 0x23 => micro prog h c g x
  | _ => x

/-! ### Groups (R451, R455, R456) -/

/-- One draw of each of the 16 lanes of an engine, in lane order: the slices of 64 elements. -/
def Dev.groupDraw (v : Dev) (s chan : Nat) : List Nat × Dev :=
  (List.range 16).foldl (fun a l => let (w, u) := a.2.stackUse s chan l; (a.1 ++ (List.range 4).map (slice16 w), u)) ([], v)

/-- Codes of 64 elements of w bits at a stack offset. -/
def Dev.grp (v : Dev) (a w : Nat) : List Nat :=
  let n := ofBytes (v.stk8 a (8 * w))
  (List.range 64).map (fun i => bits n (w * i + w - 1) (w * i))
/-- Codes of w bits as bytes. -/
def codeBytes (w : Nat) (cs : List Nat) : List Byte := toBytes (cs.foldr (fun c a => c % 2 ^ w + 2 ^ w * a) 0) (cs.length * w / 8)

/-- Group k of an update entry: new master and moments, working copy and scales; with the report of its narrowing. -/
def Dev.updGroup (v : Dev) (st idx op : Nat) (o : UpdOps) (h : Hyper) (c : Num) (prog : List Nat) (r : ScaleRec) (k : Nat) : Dev × Stats :=
  let own := some (Owner.entry (146 + st) idx)
  let src := 48 + st
  let mw := if o.compact then 16 else 32
  let ma := o.master + 8 * mw * k
  let fm := if o.compact then bf16 else fp32
  let upd := decide (op ≠ 0x25)
  let two := decide (op = 0x20) || decide (op = 0x23)
  let ps := (v.grp ma mw).map fm.decode
  let ms := if upd then (v.grp (o.mom1 + 256 * k) 32).map dec32 else []
  let vs := if two then (v.grp (o.mom2 + 256 * k) 32).map dec32 else []
  let gs := if upd then (v.grp (o.grad + 256 * k) 32).map dec32 else []
  let chan := v.hbm.chanOf ma
  let (r1, v1) := if upd && o.compact then v.groupDraw st chan else (([] : List Nat), v)
  let es := (List.range 64).map (fun i => updElem op prog h c (gs.getD i .zero) { p := ps.getD i .zero, m := ms.getD i .zero, v := vs.getD i .zero })
  let pc := (List.range 64).map (fun i =>
    let x := (es.map (fun e => e.p)).getD i .zero
    if !upd then fm.enc x else if o.compact then (bf16.narrowSr (r1.getD i 0) false x).code else enc32 x)
  let v2 := if upd then (v1.stackWrite ma (codeBytes mw pc) src own).stackWrite (o.mom1 + 256 * k) (codeBytes 32 (es.map (fun e => enc32 e.m))) src own else v1
  let v3 := if two then v2.stackWrite (o.mom2 + 256 * k) (codeBytes 32 (es.map (fun e => enc32 e.v))) src own else v2
  if !o.wcEn then (v3, {})
  else
    let (r2, v4) := if o.wcSr then v3.groupDraw st chan else (([] : List Nat), v3)
    let xs := pc.map fm.decode
    let l := if r.scheme = 0 then 64 else blockLen r.scheme
    let w := fmtBits r.fmt
    let bs := (List.range (64 / l)).map (fun i =>
      quantBlock r.fmt r.scheme false (dec32 r.tUsed) ((xs.drop (i * l)).take l) ((List.range l).map (fun j => if o.wcSr then some (r2.getD (i * l + j) 0) else none)))
    let v5 := v4.stackWrite (o.wcopy + 8 * w * k) (codeBytes w (bs.map (fun b => b.codes)).flatten) src own
    let v6 := if r.scheme = 0 then v5 else v5.stackWrite (o.wscale + 64 / l * k) (bs.map (fun b => byteOf b.scale)) src own
    (v6, bs.foldl (fun a b => joinStats a (blockStats b)) {})

/-- Stack extents an update entry's tasks touch, records apart. -/
def updTouch (op : Nat) (o : UpdOps) (r : ScaleRec) : List (Nat × Nat) :=
  let n := 64 * o.ngrp
  let upd := decide (op ≠ 0x25)
  [(o.master, n * (if o.compact then 2 else 4))] ++ (if upd then [(o.grad, 4 * n), (o.mom1, 4 * n)] else []) ++
  (if op = 0x20 ∨ op = 0x23 then [(o.mom2, 4 * n)] else []) ++
  (if o.wcEn then [(o.wcopy, n * fmtBits r.fmt / 8)] ++ (if r.scheme = 0 then [] else [(o.wscale, n / blockLen r.scheme)]) else []) ++
  (if o.wcEn && o.statEn then [(o.statrec, 64)] else [])

/-- Records a flight carries: hyperparameters in words 0 to 7, the scale record's lower half in 8 to 15, microcode from 16 on. -/
def recHyper (f : Flight) : Hyper := decHyper (f.recs.take 8)
def recScale (f : Flight) : ScaleRec := decScaleRec ((f.recs.drop 8).take 8)
def recCode (f : Flight) : List Nat := ucodeOf (f.recs.drop 16)

/-- The tasks of an update entry take effect (R450 to R456). -/
def Dev.updTasks (v : Dev) (k : Nat) (f : Flight) : Dev :=
  let o := decUpd f.words
  let op := eOp f.words
  let h := recHyper f
  let c := if o.clip && decide (op ≠ 0x25) then (clipFactor h).getD (.ofInt 1) else .ofInt 1
  let (v1, st) := (List.range o.ngrp).foldl (fun a g =>
    let (u, s) := a.1.updGroup (k - 146) f.idx op o h c (recCode f) (recScale f) g
    (u, joinStats a.2 s)) (v, ({} : Stats))
  if o.wcEn && o.statEn then v1.submit (.merge o.statrec st) (strmSrc k) (some (.entry k f.idx)) else v1

/-! ### The version fence (R464, R465) -/

/-- Writes are held on pages the entry's tasks touch. -/
def Dev.updHeld (v : Dev) (f : Flight) : Bool := (updTouch (eOp f.words) (decUpd f.words) (recScale f)).any (fun e => v.heldIn e.1 e.2)

/-- A held entry whose slot has no reader left: WRITING, and its tasks are issued. One whose extents an earlier held entry of its stream
touches follows it (R433). -/
def Dev.releaseOne (v : Dev) (k : Nat) (f : Flight) : Dev :=
  let o := decUpd f.words
  let s := v.vslot o.vrec o.vslot
  let mine := updTouch (eOp f.words) o (recScale f)
  let behind := (v.strm k).flights.any (fun g => g.wait = .version && !g.withdrawn && !g.part && decide (g.idx < f.idx) &&
    (updTouch (eOp g.words) (decUpd g.words) (recScale g)).any (fun a => mine.any (fun b => overlap a.1 a.2 b.1 b.2)))
  if s.readers ≠ 0 ∨ s.state ≠ 2 ∨ behind ∨ v.updHeld f ∨ v.moult.stale (o.vrec / 65536) ∨ !v.issueOk ∨ v.hbm.busy ∨ mine.any (fun e => v.queueFull e.1 e.2) then v
  else
    match mine.findSome? (fun e => if e.2 = 0 then none else v.pathAt e.1 e.2) with
    | some x => ((v.pathError x (strmSrc k)).modFlight k f.idx (fun g => { g with part := true })).faultStream k 0x45 f.idx (w64 x)
    | none => (((v.forAll mine (fun u e => u.softErrs e.1 e.2)).setVslot o.vrec o.vslot { s with state := 3 }).updTasks k f).modFlight k f.idx (fun g => { g with wait := .none, srcDone := true })
/-- Release every held update whose slot has no reader left. -/
def Dev.releaseHeld (v : Dev) : Dev :=
  v.forAll (List.range 8) (fun u s => u.forAll ((u.strm (146 + s)).flights.filter (fun f => f.wait = .version && !f.withdrawn && !f.part))
    (fun w f => w.releaseOne (146 + s) f))

/-! ### Starting an update entry -/

/-- The update is skipped: it retires and signals as an empty entry (R114, R448). -/
def Dev.updSkip (v : Dev) (k idx : Nat) (ws : List W64) : Dev :=
  let st := k - 146
  let v1 := (v.modStk st (fun q => { q with skipSeen := true, skipped := satAdd q.skipped 1 65535 })).ev (stkDie st) (48 + st) 0x038 st idx
  (v1.started k { idx := idx, words := ws } true).nextHead k

/-- The microcode words of an entry, or what reading them met (R446, R452). -/
def Dev.updCode (v : Dev) (k : Nat) (h : Hyper) : Acc × Dev := v.rdGlobal (strmDie k) (w64 (h.ucode.toNat / 256 * 256)) 256 (strmSrc k)

/-- The entry, its records read, passes the checks of its start and issues its tasks or is held (R447 to R449, R453, R464). -/
def Dev.updGo (v : Dev) (k : Nat) (f : Flight) : Dev :=
  let ws := f.words
  let o := decUpd ws
  let upd := decide (eOp ws ≠ 0x25)
  let h := recHyper f
  let s := v.vslot o.vrec o.vslot
  if upd && o.clip && !isPosNormal h.maxnorm then v.faultStream k stBadEntry f.idx 0#64
  else if eOp ws = 0x23 ∧ ucodeBad (recCode f) then v.faultStream k stBadEntry f.idx 0#64
  else if upd && o.clip && (clipFactor h).isNone then v.updSkip k f.idx ws
  else if o.vfEn && (decide (s.state = 2) || decide (s.state = 3)) then v.faultStream k stBadEntry f.idx 0#64
  else if !o.vfEn then
    match (updTouch (eOp ws) o (recScale f)).findSome? (fun e => if e.2 = 0 then none else v.pathAt e.1 e.2) with
    | some x => v.pathFail k ws x 0
    | none => (((v.forAll (updTouch (eOp ws) o (recScale f)) (fun u e => u.softErrs e.1 e.2)).updTasks k f).started k { f with srcDone := true } false).nextHead k
  else
    let v1 := (v.setVslot o.vrec o.vslot { s with state := 2 }).modStk (k - 146) (fun q => if s.readers = 0 then q else { q with holds := satAdd q.holds 1 65535 })
    (v1.started k { f with wait := .version, slot := true } false).releaseHeld.nextHead k

/-- Record extents an update entry reads at its start, or writes a state into. -/
def updRecs (op : Nat) (o : UpdOps) : List (Nat × Nat) :=
  (if op = 0x25 then [] else [(o.hyper, 64)]) ++ (if o.wcEn then [(o.wcrec, 64)] else []) ++ (if o.vfEn then [(o.vrec, 64)] else [])

/-- An update entry starts. A version record on a stale page is asked for first (R573); UPD_WCOPY reads no STEP, so its tag is open. -/
def Dev.updStart (v : Dev) (k op : Nat) : Dev :=
  match v.startable k op with
  | none => v.releaseHeld
  | some ws =>
    let o := decUpd ws
    let idx := (v.strm k).next
    if o.ngrp = 0 then (v.started k { idx := idx, words := ws } true).nextHead k
    else if o.vfEn && v.moult.stale (o.vrec / 65536) then
      v.modHeld id (fun ps => if ps.contains (o.vrec / 65536) then ps else ps ++ [o.vrec / 65536])
    else if v.hbm.busy || (updRecs op o).any (fun e => v.heldIn e.1 e.2) then v
    else match (updRecs op o).findSome? (fun e => v.pathAt e.1 e.2) with
    | some x => v.pathFail k ws x 0
    | none =>
      let hw := if op = 0x25 then List.replicate 8 0#64 else v.recWords o.hyper 8
      let f : Flight := { idx := idx, words := ws, step := fld (wd hw 5) 31 0, recs := hw ++ v.recWords o.wcrec 8 }
      if v.updHeld f || (updTouch op o (recScale f)).any (fun e => v.queueFull e.1 e.2) then v
      else if op = 0x25 then (let (w, v1) := v.draw; v1.updGo k { f with step := w.toNat % 2 ^ 32 })
      else if op = 0x23 then
        match v.updCode k (decHyper hw) with
        | (.ok bs, v1) => v1.updGo k { f with recs := f.recs ++ bytesToWords 32 bs }
        | (.err 4, v1) => v1.startFail k ws 0 0x45 (w64 ((decHyper hw).ucode.toNat / 256 * 256))
        | (.err _, v1) => v1.faultStream k stBadEntry idx 0#64
      else v.updGo k f

/-- UPD_ADAMW (R450). -/
def execUpdAdamw (s : StackId) (st : State) : Host.Outcome State Fault Refusal := st.onDev (fun v => v.updStart (146 + s.val) 0x20)
/-- UPD_LION (R450). -/
def execUpdLion (s : StackId) (st : State) : Host.Outcome State Fault Refusal := st.onDev (fun v => v.updStart (146 + s.val) 0x21)
/-- UPD_SGDM (R450). -/
def execUpdSgdm (s : StackId) (st : State) : Host.Outcome State Fault Refusal := st.onDev (fun v => v.updStart (146 + s.val) 0x22)
/-- UPD_MICRO (R452, R453). -/
def execUpdMicro (s : StackId) (st : State) : Host.Outcome State Fault Refusal := st.onDev (fun v => v.updStart (146 + s.val) 0x23)
/-- UPD_WCOPY (R455, R458). -/
def execUpdWcopy (s : StackId) (st : State) : Host.Outcome State Fault Refusal := st.onDev (fun v => v.updStart (146 + s.val) 0x25)

/-! ### Version operations (R462, R463) -/

/-- A write into the version window reaches its record's owner; a held update whose slot has no reader left goes on. -/
def Dev.versionWrite (v : Dev) (die : Nat) (a : W64) (data : List Byte) (op : Nat) : Dev :=
  match placeOf a.toNat with
  | .version b =>
    if v.queueFull b 64 then v
    else if v.permits die a.toNat data.length true false && decide (bits (ofBytes data) 3 2 = op ∨ bits (ofBytes data) 3 2 = 0 ∨ bits (ofBytes data) 3 2 = 3) then
      (v.wrModule die a.toNat data (74 + die) none none).2.releaseHeld
    else v
  | .stack _ => v
  | .spad _ _ => v
  | .hole => v
  | .sync _ => v
  | .atomic _ _ => v
  | .none => v
/-- VERSION_ACQ, or a malformed write. -/
def execVersionAcq (d : DieId) (a : W64) (data : List Byte) (s : State) : Host.Outcome State Fault Refusal := s.onDev (fun v => v.versionWrite d.val a data 1)
/-- VERSION_REL, or a malformed write. -/
def execVersionRel (d : DieId) (a : W64) (data : List Byte) (s : State) : Host.Outcome State Fault Refusal := s.onDev (fun v => v.versionWrite d.val a data 2)

end Sys2Proof.Machine
end

