-- ==== Sys2Proof/Machine/Dma.lean ====
section
/-! DEFINITION. The DMA engines (11): descriptors, bursts, destination writes, seals, pacing, bus errors and stops. -/

namespace Sys2Proof.Machine

/-! ### Addresses and pieces -/

/-- Source bytes of the burst that begins at transfer byte t (R372). -/
def DmaOps.burstLen (o : DmaOps) (t : Nat) : Nat := min (o.len - t % o.len) (2048 - (o.srcAt t).toNat % 2048)

/-- Size of a compatibility piece at address a with `left` bytes left in its part (R381). -/
def pieceSize (a left : Nat) : Nat := ([32, 16, 8, 4, 2].find? (fun p => decide (p ≤ left) && a % p = 0)).getD 1
/-- Size of the destination access that begins at transfer byte t (R379, R381). -/
def DmaOps.pieceLen (o : DmaOps) (t : Nat) : Nat :=
  let x := t % o.len
  if !o.compat then min (2 ^ o.dw) (o.len - x)
  else
    let a0 := (o.dst.toNat + t / o.len * o.dpitch) % 64
    let h := min o.len ((64 - a0) % 64)
    if x < h then pieceSize (a0 + x) (h - x)
    else if 64 ≤ o.len - x then 64
    else pieceSize (a0 + x) (o.len - x)
/-- Width of a source access: SW, or a granule. -/
def DmaOps.srcWidth (o : DmaOps) : Nat := if o.compat then 64 else 2 ^ o.sw

/-- Source accesses of n bytes from address a: whole granules in compatibility mode, SW bytes natively. -/
def DmaOps.accesses (o : DmaOps) (a n : Nat) : List (Nat × Nat) :=
  let w := o.srcWidth
  (List.range (ceilDiv (a + n) w - a / w)).map (fun i => (a / w * w + i * w, w))

/-! ### Bus errors (R391, R392) -/

/-- The entry of the DX stream that a bus error of channel n faults, where the engine holds a started one: the channel's own, else the
oldest (R392; DEDUCED, log entry 97). -/
def Dev.dmaFaulty (v : Dev) (c n : Nat) : Option Nat :=
  let held := (v.strm (3 * c + 2)).flights.filter (fun f => decide (f.wait = .dma) && !f.withdrawn)
  match held.find? (fun f => decide ((v.dmaCh c n).cur.entry = some f.idx)) with
  | some f => some f.idx
  | none => held.head?.map (fun f => f.idx)

/-- Stop a channel that has a descriptor. -/
def DmaChan.halt (ch : DmaChan) : DmaChan := if ch.phase = .idle then ch else { ch with phase := .stopped, bytes := ch.doneBytes }

/-- A bus error of channel n: the first stops the engine and faults the DX stream, a later one posts its event only. -/
def Dev.dmaError (v : Dev) (c n kind : Nat) (a : W64) : Dev :=
  let post (u : Dev) : Dev := u.ev (coreDie c) c 0x029 (c + n * 256 + kind * 65536) a.toNat
  if (v.core c).dma.stopped then post v
  else
    let v1 := v.modDma c (fun e => { e with stopped := true, errChan := n, errKind := kind, errAddr := a, chans := e.chans.map (fun x => (x.1, x.2.halt)) })
    match v.dmaFaulty c n with
    | none => post v1
    | some e => ((post v1).modFlight (3 * c + 2) e (fun f => { f with part := true })).faultStream (3 * c + 2) 0x44 e a

/-! ### Completion -/

/-- A channel after a read in a page: a demanded read enters it, unless it lies in a host MMIO window, and a run-ahead read elsewhere leaves
the page entered (R319, R323). -/
def Dev.enterPage (v : Dev) (c : Nat) (ch : DmaChan) (demanded : Bool) (a : Nat) : DmaChan :=
  let p := a / 65536
  { ch with page := if demanded then (if v.mmioAt (coreDie c) (w64 (p * 65536)) 65536 then none else some p) else if ch.page = some p then ch.page else none }

/-- The seal read a channel is due issues: checked against the region table, asked of another module where the word is there; not while the
link set changes (R315, R386, R396, R488). -/
def Dev.dmaSealGo (v : Dev) (c n : Nat) : Dev :=
  let ch := v.dmaCh c n
  let a := (decDma ch.cur.words).sealAddr
  let die := coreDie c
  let due := decide (ch.phase = .seal0 ∨ (ch.phase = .seal1 ∧ ch.seal1 = none)) && !ch.sealAsked && ch.sealAns.isNone && !ch.draining
  let away := v.otherModule a
  if !due || !v.issueOk || (v.core c).dma.stopped || (away && (v.fabD die).relink) then v
  else
    let v1 := v.modDmaCh c n (fun q => { v.enterPage c q true a.toNat with sealAsked := true })
    let refused (u : Dev) (e : Nat) : Dev := (u.modDmaCh c n (fun q => { q with sealAsked := false })).dmaError c n e a
    if !v.permits die a.toNat 8 false false then refused v1 1
    else if away then
      let (id, v2) := v1.newId die
      match v2.sendReq die 1 (fld a 61 48) 8 c id (offOf a) 0 [] (.sealRead c n (b2n (decide (ch.phase = .seal1)))) with
      | (.sent _, v3) => v3
      | (.denied, v3) => refused v3 3
      | (.noLink, v3) => refused v3 3
    else v1

/-- A descriptor completes and the channel takes the next. -/
def Dev.dmaFinish (v : Dev) (c n status : Nat) : Dev := (((v.dmaForget c n).dmaEnd c n status).dmaAdvance c n).dmaSealGo c n

/-- Every burst has been asked for and has returned its data. -/
def DmaChan.allRead (ch : DmaChan) (o : DmaOps) : Bool := ch.next = o.total && ch.bursts.all (fun b => b.got.isSome || decide (b.bad ≠ 0))
/-- Every data write has landed. -/
def DmaChan.allLanded (ch : DmaChan) (o : DmaOps) : Bool := ch.done = o.total && ch.hole.isNone && ch.acks.isEmpty

/-- Write at an address for channel n: error kind, whether it has still to land, whether it could not be sent yet (R488). -/
inductive DmaWr where
  | done | pending | blocked
  | error (kind : Nat)
  deriving DecidableEq, Repr
def Dev.dmaWrite (v : Dev) (c n off : Nat) (a : W64) (bs : List Byte) : DmaWr × Dev :=
  let die := coreDie c
  if v.otherModule a then
    if !v.permits die a.toNat bs.length true false then (.error 1, v)
    else if (v.fabD die).relink then (.blocked, v)
    else match v.sendReq die 0 (fld a 61 48) bs.length c n (offOf a) 0 bs (.dmaWrite c n off bs.length) with
    | (.sent _, v1) => (.pending, v1)
    | (.denied, v1) => (.error 3, v1)
    | (.noLink, v1) => (.error 3, v1)
  else
    let owner := Owner.dma c n off bs.length
    match v.wrHere die a bs c (some owner) with
    | (some e, v1) => (.error e, v1)
    | (none, v1) => (if v1.moult.held.any (fun h => decide (h.owner = some owner)) then .pending else .done, v1)

/-- Write the mark once every data write has landed (R387). -/
def Dev.dmaMark (v : Dev) (c n : Nat) (o : DmaOps) (w : W64) : Dev :=
  match v.dmaWrite c n o.total o.markAddr (toBytes w.toNat 8) with
  | (.blocked, v1) => v1
  | (.done, v1) => v1.modDmaCh c n (fun ch => { ch with marked := true })
  | (.pending, v1) => v1.modDmaCh c n (fun ch => { ch with marked := true, acks := ch.acks ++ [(o.total, 8)] })
  | (.error e, v1) => v1.dmaError c n e o.markAddr

/-- What follows a change of a channel: a withdrawn descriptor ends; the sources are read; the seal decides; the descriptor completes. -/
def Dev.dmaSettle (v : Dev) (c n : Nat) : Dev :=
  let ch := v.dmaCh c n
  let o := decDma ch.cur.words
  if ch.draining then (if v.dmaQuiet c n then (v.dmaForget c n).dmaAdvance c n else v)
  else if ch.phase = .moving ∧ ch.allRead o then
    if o.seald then (v.modDmaCh c n (fun q => { q with phase := .seal1 })).dmaSealGo c n
    else
      let v1 := match ch.cur.entry with
        | some e => v.modFlight (3 * c + 2) e (fun f => { f with srcDone := true })
        | none => v
      if ch.allLanded o then v1.dmaFinish c n 0 else v1
  else if ch.phase = .seal1 then
    match ch.sealWord, ch.seal1 with
    | some s0, some s1 =>
      if !ch.allLanded o then v
      else if s0 ≠ s1 then v.dmaFinish c n 2
      else if ch.marked then v.dmaFinish c n 0
      else if !v.issueOk then v
      else
        let v1 := v.dmaMark c n o s0
        if (v1.dmaCh c n).marked && (v1.dmaCh c n).acks.isEmpty then v1.dmaFinish c n 0 else v1
    | none, _ => v
    | some _, none => v
  else v

/-- RESTART: the stopped descriptor goes on from DONE_BYTES, keeping S0 and the requests its rows took (R395). -/
def DmaChan.restart (ch : DmaChan) : DmaChan :=
  let o := decDma ch.cur.words
  let t := ch.doneBytes
  { ch with phase := if o.seald ∧ ch.sealWord = none then .seal0 else .moving, next := t, done := t, hole := none, bursts := [], seal1 := none,
            sealAsked := false, sealAns := none, resume := 0 }
/-- Settle; or, once everything a stopped descriptor had issued has completed, RESTART or DROP it as software has asked (R392, R394, R395). -/
def Dev.dmaResumed (v : Dev) (c n : Nat) : Dev :=
  let ch := v.dmaCh c n
  if ch.phase = .stopped ∧ ch.resume ≠ 0 ∧ v.dmaQuiet c n ∧ ¬(v.core c).dma.stopped then
    if ch.resume = 1 then (((v.dmaForget c n).modDmaCh c n DmaChan.restart).dmaSettle c n).dmaSealGo c n else v.dmaFinish c n 3
  else v.dmaSettle c n

/-! ### Destination writes in transfer order (R376, R381) -/

/-- Bursts all of whose bytes have been written, or will never be, give their tags back (R372). -/
def DmaChan.tidy (ch : DmaChan) : DmaChan :=
  { ch with bursts := ch.bursts.filter (fun b => decide (ch.done < b.off + b.len) || ch.acks.any (fun w => decide (w.1 < b.off + b.len) && decide (b.off < w.1 + w.2))) }
/-- Pass over the bytes to t. -/
def DmaChan.passTo (ch : DmaChan) (t : Nat) : DmaChan := { ch with done := t }.tidy
/-- Mark the bursts that hold bytes [t, t + p) bad. -/
def DmaChan.spoil (ch : DmaChan) (t p kind : Nat) : DmaChan :=
  { ch with hole := some (min (ch.hole.getD t) t), bursts := ch.bursts.map (fun b => if b.off < t + p ∧ t < b.off + b.len then { b with bad := kind } else b) }

/-- Write the next piece, when its bytes have all been returned; none where it must wait. -/
def Dev.dmaPiece (v : Dev) (c n : Nat) : Option Dev :=
  let ch := v.dmaCh c n
  let o := decDma ch.cur.words
  let t := ch.done
  let p := o.pieceLen t
  let bs := ch.bursts.filter (fun b => decide (b.off < t + p) && decide (t < b.off + b.len))
  if decide (ch.next ≤ t) || decide (ch.next < t + p) || bs.any (fun b => b.got.isNone && b.bad = 0) then none
  else if bs.any (fun b => decide (b.bad ≠ 0)) then some (v.modDmaCh c n (fun q => { q with hole := some (min (q.hole.getD t) t) }.passTo (t + p)))
  else
    let data := ((bs.map (fun b => b.got.getD [])).flatten.drop (t - (bs.map (fun b => b.off)).headD t)).take p
    match v.dmaWrite c n t (o.dstAt t) data with
    | (.blocked, _) => none
    | (.done, v1) => some (v1.modDmaCh c n (fun q => q.passTo (t + p)))
    | (.pending, v1) => some (v1.modDmaCh c n (fun q => { q with acks := q.acks ++ [(t, p)] }.passTo (t + p)))
    | (.error e, v1) => some ((v1.modDmaCh c n (fun q => (q.spoil t p e).passTo (t + p))).dmaError c n e (o.dstAt t))

/-- Write every piece whose bytes are there. -/
def Dev.dmaFlush (v : Dev) (c n : Nat) : Nat → Dev
  | 0 => v
  | fuel + 1 => match v.dmaPiece c n with | none => v | some u => u.dmaFlush c n fuel

/-- Write what can be written, then settle. -/
def Dev.dmaPush (v : Dev) (c n : Nat) : Dev :=
  let ch := v.dmaCh c n
  (v.dmaFlush c n (ch.bursts.foldl (fun a b => a + b.len) 1)).dmaResumed c n
/-- A channel goes on after what held it back: an idle one takes the descriptor that waits, another writes and settles (R394, R396, R488). -/
def Dev.dmaWake (v : Dev) (c n : Nat) : Dev :=
  if (v.dmaCh c n).phase = .idle then (if (v.dmaCh c n).queue.isEmpty then v else (v.dmaAdvance c n).dmaSealGo c n)
  else (v.dmaPush c n).dmaSealGo c n
/-- Every channel of a core goes on. -/
def Dev.dmaWakeAll (v : Dev) (c : Nat) : Dev := v.forAll (List.range 16) (fun u n => u.dmaWake c n)

/-! ### Reading bursts -/

/-- Read a burst's accesses, checked as it issued (R318), in order: its bytes from byte a on, or the error of the first access that meets one. -/
def Dev.dmaReadAll (v : Dev) (c : Nat) : List (Nat × Nat) → Acc × Nat × Dev
  | [] => (.ok [], 0, v)
  | x :: xs =>
    let (got, v1) := v.rdAt (coreDie c) (w64 x.1) x.2 c
    match got with
    | .err e => (.err e, x.1, v1)
    | .ok bs =>
      let (more, bad, v2) := v1.dmaReadAll c xs
      match more with
      | .ok r => (.ok (bs ++ r), 0, v2)
      | .err e => (.err e, bad, v2)
/-- Read n source bytes at address a. Accesses to host memory and to plain memory of the module may be read together. -/
def Dev.dmaRead (v : Dev) (c : Nat) (o : DmaOps) (a n : Nat) : Acc × Nat × Dev :=
  let w := o.srcWidth
  let lo := a / w * w
  let hi := ceilDiv (a + n) w * w
  let plain := fld (w64 a) 63 62 = 2 || (fld (w64 a) 63 62 = 0 && (placeOf (offOf (w64 a))).isPlain)
  let whole := v.rdAt (coreDie c) (w64 lo) (hi - lo) c
  let once : Acc × Nat × Dev := (whole.1, 0, whole.2)
  let (r, bad, v1) := if plain && whole.1.isOk then once else v.dmaReadAll c (o.accesses a n)
  match r with
  | .ok bs => (.ok ((bs.drop (a - lo)).take n), 0, v1)
  | .err e => (.err e, bad, v1)

/-- Address and length of what a burst reads, granules whole in compatibility mode. -/
def DmaOps.readSpan (o : DmaOps) (t n : Nat) : Nat × Nat :=
  let a := (o.srcAt t).toNat
  let w := o.srcWidth
  (a / w * w, ceilDiv (a + n) w * w - a / w * w)

/-- A run-ahead read of a page is issued (R319 to R323). -/
def Dev.runAhead (v : Dev) (c : Nat) (ch : DmaChan) (a : Nat) : Bool := v.pageAhead (coreDie c) ch.page (a / 65536)

/-- The READ requests of a burst of another module, one for each source access (log entry 20); an access refused answers with an error. -/
def Dev.dmaAsk (v : Dev) (c n t : Nat) (a0 : Nat) : List (Nat × Nat) → Option Nat × Dev
  | [] => (none, v)
  | x :: xs =>
    let die := coreDie c
    let (id, v1) := v.newId die
    let (r, v2) := v1.sendReq die 1 (fld (w64 x.1) 61 48) x.2 c id (offOf (w64 x.1)) 0 [] (.dmaRead c n t (x.1 - a0))
    match r with
    | .sent _ => v2.dmaAsk c n t a0 xs
    | .denied => (some x.1, v2)
    | .noLink => (some x.1, v2)

/-- The channel has a burst to issue: its next row has its request, and a tag is free (R372, R373, R384, R396). -/
def Dev.burstReady (v : Dev) (c n : Nat) : Bool :=
  let ch := v.dmaCh c n
  let o := decDma ch.cur.words
  v.issueOk && !(v.core c).dma.stopped && decide (ch.phase = .moving) && !ch.draining && decide (ch.next < o.total) && decide (ch.bursts.length < 128) &&
    decide ((v.core c).dma.chans.foldl (fun a x => a + x.2.bursts.length) 0 < 256) && !v.dmaRowWaits c n
/-- No earlier burst has still to return its data: the next is the demanded read (R374). -/
def DmaChan.demands (ch : DmaChan) : Bool := ch.bursts.all (fun b => b.got.isSome || decide (b.bad ≠ 0))
/-- It may issue: a run-ahead read only where that is allowed (R321), and none to another module while the link set changes (R488). -/
def Dev.burstCan (v : Dev) (c n : Nat) : Bool :=
  let ch := v.dmaCh c n
  let a := (decDma ch.cur.words).srcAt ch.next
  v.burstReady c n && (ch.demands || v.runAhead c ch a.toNat) && !(v.otherModule a && (v.fabD (coreDie c)).relink)
/-- Of the channels that may issue, the one that holds the fewest tags does, the lowest of those that hold as many (R373). -/
def Dev.burstTurn (v : Dev) (c n : Nat) : Bool :=
  let tags := (v.dmaCh c n).bursts.length
  v.burstCan c n && (v.core c).dma.chans.all (fun e => decide (e.1 = n) || decide (tags < e.2.bursts.length) ||
    (decide (tags = e.2.bursts.length) && decide (n < e.1)) || !v.burstCan c e.1)

/-- BURST_ISSUE (R315, R320 to R323, R372 to R374, R384). -/
def Dev.burstIssue (v : Dev) (c n : Nat) : Dev :=
  let ch := v.dmaCh c n
  let o := decDma ch.cur.words
  let t := ch.next
  let a := (o.srcAt t).toNat
  let m := o.burstLen t
  let away := v.otherModule (w64 a)
  if !v.burstTurn c n then v
  else
    let row := t / o.len
    let take := o.reqEn && decide (ch.rowReq ≤ row)
    let v1 := if take then v.modDma c (fun e => { e with lines := tmod {} e.lines o.line (fun l => { l with pending := l.pending - 1 }) }) else v
    let v2 := v1.modDmaCh c n (fun q => { v.enterPage c q ch.demands a with
      rowReq := (if take then row + 1 else q.rowReq)
      next := t + m
      bursts := q.bursts ++ [{ off := t, len := m, remote := away, waiting := if away then (o.accesses a m).length else 0 }] })
    let span := o.readSpan t m
    if ch.demands && !v.permits (coreDie c) span.1 span.2 false false then
      ((v2.modDmaCh c n (fun q => q.spoil t m 1)).dmaError c n 1 (w64 span.1)).dmaPush c n
    else if away then
      match v2.dmaAsk c n t span.1 (o.accesses a m) with
      | (none, v3) => v3
      | (some x, v3) => ((v3.modDmaCh c n (fun q => q.spoil t m 3)).dmaError c n 3 (w64 x)).dmaPush c n
    else v2
def execBurstIssue (c : CoreId) (n : DmaId) (s : State) : Host.Outcome State Fault Refusal := s.onDev (fun v => (v.burstIssue c.val n.val).releaseHeld)

/-- Bytes of a remote burst, in order of its accesses. -/
def Burst.assemble (b : Burst) (skip : Nat) : List Byte := (((sortBy (fun p => p.1) b.pieces).map (fun p => p.2)).flatten.drop skip).take b.len

/-- BURST_RETURN: burst i of the channel returns its data, which are written in transfer order (R372, R376, R380, R388). -/
def Dev.burstReturn (v : Dev) (c n i : Nat) : Dev :=
  let ch := v.dmaCh c n
  let o := decDma ch.cur.words
  match ch.bursts[i]? with
  | none => v
  | some b =>
    if v.pwr.tripped || v.fillWait (o.srcAt b.off) then v
    else if b.got.isSome || decide (b.bad ≠ 0) then v.dmaPush c n
    else
      let a := (o.srcAt b.off).toNat
      let put (u : Dev) (bs : List Byte) : Dev :=
        u.modDmaCh c n (fun q => { q with bursts := q.bursts.map (fun x => if x.off = b.off then { x with got := some bs } else x) })
      if b.remote then (if b.waiting = 0 then (put v (b.assemble (a % o.srcWidth))).dmaPush c n else v)
      else match v.dmaRead c o a b.len with
      | (.ok bs, _, v1) => (put v1 bs).dmaPush c n
      | (.err e, x, v1) => ((v1.modDmaCh c n (fun q => q.spoil b.off b.len e)).dmaError c n e (w64 x)).dmaPush c n
def execBurstReturn (c : CoreId) (n : DmaId) (i : Nat) (s : State) : Host.Outcome State Fault Refusal := s.onDev (fun v => (v.burstReturn c.val n.val i).releaseHeld)

/-! ### Answers of other modules -/

/-- A READ of a burst is answered. -/
def Dev.dmaAnswer (v : Dev) (c n t piece : Nat) (bs : List Byte) : Dev :=
  v.modDmaCh c n (fun q => { q with bursts := q.bursts.map (fun b =>
    if b.off = t ∧ b.remote ∧ b.got.isNone ∧ 0 < b.waiting then { b with waiting := b.waiting - 1, pieces := b.pieces ++ [(piece, bs)] } else b) })
/-- A READ of a burst is answered with ERROR, or times out (R391). -/
def Dev.dmaAnswerBad (v : Dev) (c n t : Nat) (a : W64) : Dev :=
  match (v.dmaCh c n).bursts.find? (fun b => b.off = t && b.bad = 0 && b.got.isNone) with
  | none => v
  | some b => ((v.modDmaCh c n (fun q => q.spoil t b.len 3)).dmaError c n 3 a).dmaPush c n
/-- A write of the channel has landed. -/
def Dev.dmaLanded (v : Dev) (c n off len : Nat) : Dev := (v.modDmaCh c n (fun q => { q with acks := q.acks.erase (off, len) }.tidy)).dmaPush c n
/-- A write of the channel is answered with ERROR. -/
def Dev.dmaWriteBad (v : Dev) (c n off len : Nat) (a : W64) : Dev :=
  if (v.dmaCh c n).acks.contains (off, len) then
    let mark := decide (off = (decDma (v.dmaCh c n).cur.words).total)
    ((v.modDmaCh c n (fun q => { q with
      acks := q.acks.erase (off, len)
      marked := q.marked && !mark
      hole := if mark then q.hole else some (min (q.hole.getD off) off) }.tidy)).dmaError c n 3 a).dmaPush c n
  else v

/-! ### Seals (R386, R387) -/

/-- The seal word of a channel whose read has issued, when it has come: read here, or another module's answer. -/
def Dev.sealRead (v : Dev) (c n : Nat) : Option Acc × Dev :=
  let ch := v.dmaCh c n
  let a := (decDma ch.cur.words).sealAddr
  match ch.sealAns with
  | some bs => (some (.ok bs), v)
  | none => if ch.sealAsked && !v.otherModule a then (let (r, v1) := v.rdAt (coreDie c) a 8 c; (some r, v1)) else (none, v)
/-- The seal read in hand is over. -/
def DmaChan.sealDone (ch : DmaChan) : DmaChan := { ch with sealAsked := false, sealAns := none }

/-- SEAL_S0_RETURN: the first seal read returns and the channel may begin its bursts. -/
def Dev.sealS0 (v : Dev) (c n : Nat) : Dev :=
  let v0 := v.dmaSealGo c n
  if (v0.dmaCh c n).phase = .seal0 ∧ !v.pwr.tripped then
    match v0.sealRead c n with
    | (none, v1) => v1
    | (some (.ok bs), v1) => v1.modDmaCh c n (fun q => { q.sealDone with phase := .moving, sealWord := some (w64 (ofBytes bs)) })
    | (some (.err e), v1) => (v1.modDmaCh c n DmaChan.sealDone).dmaError c n e (decDma (v.dmaCh c n).cur.words).sealAddr
  else v0
def execSealS0Return (c : CoreId) (n : DmaId) (s : State) : Host.Outcome State Fault Refusal := s.onDev (fun v => v.sealS0 c.val n.val)

/-- DMA_SOURCE_CHANGED (R387). -/
def Dev.sourceChanged (v : Dev) (c n : Nat) : Dev :=
  let d := (v.dmaCh c n).cur
  let ring := d.order.isSome
  v.ev (coreDie c) c 0x028 (c + n * 256 + b2n ring * 32768) (match d.order with | some o => o.ring + o.index * 2 ^ 32 | none => d.entry.getD 0)

/-- SEAL_S1_RETURN: the second seal read returns; the mark is written, or the source changed. -/
def Dev.sealS1 (v : Dev) (c n : Nat) : Dev :=
  let v0 := v.dmaSealGo c n
  let ch := v0.dmaCh c n
  if ch.phase = .seal1 ∧ ch.seal1 = none ∧ !v.pwr.tripped then
    match v0.sealRead c n with
    | (none, v1) => v1
    | (some (.ok bs), v1) =>
      let w := w64 (ofBytes bs)
      let v2 := v1.modDmaCh c n (fun q => { q.sealDone with seal1 := some w })
      let v3 := match ch.cur.entry with
        | some e => v2.modFlight (3 * c + 2) e (fun f => { f with srcDone := true })
        | none => v2
      ((if ch.sealWord = some w then v3 else v3.sourceChanged c n)).dmaSettle c n
    | (some (.err e), v1) => (v1.modDmaCh c n DmaChan.sealDone).dmaError c n e (decDma ch.cur.words).sealAddr
  else v0
def execSealS1Return (c : CoreId) (n : DmaId) (s : State) : Host.Outcome State Fault Refusal := s.onDev (fun v => (v.sealS1 c.val n.val).releaseHeld)

/-! ### Starting a descriptor -/

/-- A descriptor joins its channel's queue (R371). -/
def Dev.dmaJoin (v : Dev) (c n : Nat) (d : DmaDesc) : Dev :=
  let v1 := v.modDmaCh c n (fun ch => { ch with queue := ch.queue ++ [d] })
  if (v1.dmaCh c n).phase = .idle then (v1.dmaAdvance c n).dmaSealGo c n else v1
/-- DMA_COPY starts (R371, R376, R389). -/
def Dev.dmaStart (v : Dev) (c : Nat) : Dev :=
  let k := 3 * c + 2
  match v.startable k 0x10 with
  | none => v
  | some ws =>
    let o := decDma ws
    let idx := (v.strm k).next
    ((v.started k { idx := idx, words := ws, wait := .dma } (o.total = 0)).dmaJoin c o.chan { words := ws, entry := some idx }).nextHead k
def execDmaCopy (c : CoreId) (s : State) : Host.Outcome State Fault Refusal := s.onDev (fun v => v.dmaStart c.val)

/-! ### Registers (Tables 11.8 to 11.12) -/

/-- A loaded schedule claims core c (R97). -/
def Dev.coreClaimed (v : Dev) (c : Nat) : Bool :=
  v.scheds.any (fun e => decide (e.1 / 256 = coreDie c) && decide (e.2.phase = .loaded ∨ e.2.phase = .running ∨ e.2.phase = .stopped) && bit e.2.coreMask.toNat c)

/-- Write DMA_ENG_CTL: RING_CHANS unless the core is claimed, and CLEAR (R370, R394). -/
def Dev.dmaCtlWrite (v : Dev) (c : Nat) (x : W32) : Dev :=
  let claimed := v.coreClaimed c
  let v1 := v.modDma c (fun e => { e with ringChans := if claimed then e.ringChans else bits x.toNat 15 0 })
  if bit x.toNat 16 && (v1.core c).dma.stopped then
    (v1.modDma c (fun e => { e with stopped := false })).dmaWakeAll c
  else v1
def execDmaEngClear (c : CoreId) (v : W32) (s : State) : Host.Outcome State Fault Refusal := s.onDev (fun u => (u.dmaCtlWrite c.val v).releaseHeld)

/-- Write DMA_CHAN_STAT: RESTART or DROP of a stopped descriptor, once the engine's stop has ended; bursts issued before the stop complete first
(R392, R394, R395). -/
def Dev.dmaChanWrite (v : Dev) (c n : Nat) (x : W32) : Dev :=
  let restart := bit x.toNat 2
  let drop := bit x.toNat 3
  if (v.dmaCh c n).phase = .stopped && !(v.core c).dma.stopped && (restart != drop) then
    (v.modDmaCh c n (fun ch => { ch with resume := if restart then 1 else 2 })).dmaResumed c n
  else v
/-- DMA_RESTART (R395). -/
def execDmaRestart (c : CoreId) (n : DmaId) (v : W32) (s : State) : Host.Outcome State Fault Refusal := s.onDev (fun u => (u.dmaChanWrite c.val n.val v).releaseHeld)
/-- DMA_DROP (R395). -/
def execDmaDrop (c : CoreId) (n : DmaId) (v : W32) (s : State) : Host.Outcome State Fault Refusal := s.onDev (fun u => (u.dmaChanWrite c.val n.val v).releaseHeld)

/-- Write DMA_REQ(m): OVF is cleared by writing 1, and a change of KIND or ARG clears PENDING and OVF (R385). -/
def ReqLine.write (l : ReqLine) (x : W32) : ReqLine :=
  let k := bits x.toNat 2 0
  let a := bits x.toNat 13 8
  if k = l.kind ∧ a = l.arg then { l with ovf := l.ovf && !bit x.toNat 14 } else { kind := k, arg := a }
def execDmaReqWrite (c : CoreId) (n : Fin 64) (v : W32) (s : State) : Host.Outcome State Fault Refusal :=
  s.onDev (fun u => u.modDma c.val (fun e => { e with lines := tmod {} e.lines n.val (fun l => l.write v) }))

end Sys2Proof.Machine
end

