-- ==== Sys2Proof/Machine/Cache.lean ====
section
/-! DEFINITION. The L1 and L2 of a core (R300 to R305): lookup, fill, write-back and invalidation. A line is keyed by its global address ÷ 64. -/

namespace Sys2Proof.Machine

/-- The line is present. -/
def CLine.here (l : CLine) : Bool := !l.data.isEmpty
/-- A byte of n from place `off` of the line has bad parity (R304). -/
def CLine.badIn (l : CLine) (off n : Nat) : Bool := l.bad.any (fun i => decide (off ≤ i) && decide (i < off + n))
/-- Bytes written at a place of the line, with fresh parity (R304). -/
def CLine.put (l : CLine) (off : Nat) (bs : List Byte) : CLine :=
  { l with data := l.data.take off ++ bs ++ l.data.drop (off + bs.length), bad := l.bad.filter (fun i => !(decide (off ≤ i) && decide (i < off + bs.length))) }
def Core.l1Line (k : Core) (n : Nat) : CLine := tget {} k.l1 n
def Core.l2Line (k : Core) (n : Nat) : CLine := tget {} k.l2 n

/-- A clean line with bad parity is invalidated and counted (Table 9.2). -/
def Core.corrected (k : Core) : Core := { k with corr := true, corrCount := satAdd k.corrCount 1 255 }

/-- Place a line in the L2; a full set of 16 loses a line of free choice (R301; log entry 3). -/
def Dev.l2Fill (v : Dev) (c n : Nat) (bs : List Byte) : Dev :=
  let t := (v.core c).l2
  let set := (t.filter (fun e => e.1 % 2048 = n % 2048)).map (fun e => e.1)
  if set.length < 16 then v.modCore c (fun k => { k with l2 := tset {} k.l2 n { data := bs } })
  else
    let (w, v1) := v.draw
    v1.modCore c (fun k => { k with l2 := tset {} (terase k.l2 (set.getD (w.toNat % set.length) 0)) n { data := bs } })

/-- Drop an L2 line whose bytes read are bad, counting it (Table 9.2). -/
def Dev.l2Scrub (v : Dev) (c n off len : Nat) : Dev :=
  if ((v.core c).l2Line n).here && ((v.core c).l2Line n).badIn off len then v.modCore c (fun k => ({ k with l2 := terase k.l2 n }).corrected) else v

/-- Read `len` bytes from place `off` of a line through the L2, which gives the line; a line missed is kept when the region may be cached
(R301, R302). -/
def Dev.l2Read (v : Dev) (c n off len : Nat) (keep : Bool) (req : Nat) : Acc × Dev :=
  let v0 := v.l2Scrub c n off len
  let l := (v0.core c).l2Line n
  if l.here then (.ok l.data, v0)
  else match v0.rdModule (coreDie c) (64 * n) 64 req with
  | (.ok bs, v1) => (.ok bs, if keep then v1.l2Fill c n bs else v1)
  | (.err e, v1) => (.err e, v1)

/-- Update an L2 line that is present (R301). -/
def Core.l2Write (k : Core) (a : Nat) (bs : List Byte) : Core :=
  if (k.l2Line (a / 64)).here then { k with l2 := tset {} k.l2 (a / 64) ((k.l2Line (a / 64)).put (a % 64) bs) } else k

/-- Write bytes of one line through the L2 to memory, updating the L2 line when present; where memory refuses them the L2 keeps what memory
holds (R301). -/
def Dev.l2Through (v : Dev) (c a : Nat) (bs : List Byte) (owner : Option Owner) : Option Nat × Dev :=
  match v.wrModule (coreDie c) a bs c none owner with
  | (none, v1) => (none, v1.modCore c (fun k => k.l2Write a bs))
  | (some e, v1) => (some e, v1)

/-- A dirty L1 line lost to a parity error (Table 9.2). -/
def Dev.l1Drop (v : Dev) (c n : Nat) : Dev :=
  (v.modCore c (fun k => { k with l1 := terase k.l1 n, l1Lost := true, errAcc := false, errAddr := 64 * n })).ev (coreDie c) c 0x015 c (64 * n)

/-- Write back one dirty L1 line and mark it clean; a line with bad parity is lost (R301, Table 9.2). The flag tells a failure. -/
def Dev.writeBack (v : Dev) (c n : Nat) (owner : Option Owner) : Dev × Bool :=
  let l := (v.core c).l1Line n
  if !l.here || !l.dirty then (v, false)
  else if !l.bad.isEmpty then (v.l1Drop c n, true)
  else
    let v1 := v.modCore c (fun k => { k with l1 := tset {} k.l1 n { l with dirty := false } })
    match v1.l2Through c (64 * n) l.data owner with
    | (none, v2) => (v2, false)
    | (some _, v2) => (v2, true)

/-- Lines of the L1 in a range of global addresses. -/
def Core.l1In (k : Core) (a n : Nat) : List Nat := if n = 0 then [] else (k.l1.filter (fun e => decide (a / 64 ≤ e.1) && decide (e.1 ≤ (a + n - 1) / 64))).map (fun e => e.1)

/-- Write back the dirty L1 lines of a range (R288, R330); the flag tells a failure. -/
def Dev.flushRange (v : Dev) (c a n : Nat) (owner : Option Owner) : Dev × Bool :=
  ((v.core c).l1In a n).foldl (fun s l => let (w, b) := s.1.writeBack c l owner; (w, s.2 || b)) (v, false)
/-- A line of the range of n bytes at a. -/
def inRange (a n line : Nat) : Bool := decide (n ≠ 0) && decide (a / 64 ≤ line) && decide (line ≤ (a + n - 1) / 64)
/-- A miss outstanding in an invalidated range: what returns satisfies the instruction and is not kept (R290). -/
def CtxWait.unkept (w : CtxWait) (a n : Nat) : CtxWait :=
  match w with
  | .load x s u r b p => .load x s u r (b || inRange a n (x / 64)) p
  | .store x bs d p => .store x bs (d || inRange a n (x / 64)) p
  | .amo x op rd r2 dbl d p => .amo x op rd r2 dbl (d || inRange a n (x / 64)) p
  | .put x bs rd w p => .put x bs rd w p
  | .none => .none
  | .counter i m p => .counter i m p
  | .barrier u g p => .barrier u g p
  | .flush p => .flush p
  | .fence p => .fence p
/-- Invalidate the L2 lines of a range, and the L1 lines too where told (R282, R288, R330). -/
def Core.invalLines (k : Core) (a n : Nat) (l1 : Bool) : Core :=
  { k with l1 := if l1 then k.l1.filter (fun e => !inRange a n e.1) else k.l1, l2 := k.l2.filter (fun e => !inRange a n e.1),
           ctxs := k.ctxs.map (fun e => (e.1, { e.2 with wait := e.2.wait.unkept a n })) }
/-- Invalidate the L1 and L2 lines of a range (R288, R330). -/
def Core.invalRange (k : Core) (a n : Nat) : Core := if n = 0 then k else k.invalLines a n true
/-- Flush, then invalidate. A write-back held for a stale page has reached its channel engine: a read that arrives after it returns its bytes
(log entry 93). -/
def Dev.flushInval (v : Dev) (c a n : Nat) (owner : Option Owner) : Dev × Bool :=
  let (v1, b) := v.flushRange c a n owner
  (v1.modCore c (fun k => k.invalRange a n), b)

/-- Place a line in the L1; a full set of 4 gives up a line of free choice, written back first when dirty (R300; log entry 3). -/
def Dev.l1Fill (v : Dev) (c n : Nat) (bs : List Byte) : Dev :=
  let set := ((v.core c).l1.filter (fun e => e.1 % 256 = n % 256)).map (fun e => e.1)
  let v2 := if set.length < 4 then v else
    let (w, v1) := v.draw
    let x := set.getD (w.toNat % set.length) 0
    ((v1.writeBack c x none).1).modCore c (fun k => { k with l1 := terase k.l1 x })
  v2.modCore c (fun k => { k with l1 := tset {} k.l1 n { data := bs } })

end Sys2Proof.Machine
end

