-- ==== Sys2Proof/Machine/SyncCmd.lean ====
section
/-! DEFINITION. The commands of the sync counters and barrier units (10). -/

namespace Sys2Proof.Machine

/-- A signal of counter id takes effect: those fired with it and named after it may follow (R87). -/
def Dev.landed (v : Dev) (id : Nat) : Dev :=
  v.forAll (v.ctrs.filter (fun e => e.2.after.contains id)) (fun u e => u.modCtr e.1 (fun c => { c with after := c.after.erase id }))
/-- Signals on their way to counter id that a signal named before them does not hold back (R87). -/
def Dev.arrivable (v : Dev) (id : Nat) : Nat := (v.ctr id).transit - ((v.ctr id).after.filter (fun a => decide ((v.ctr a).transit ≠ 0))).length

/-- COUNTER_SIGNAL: a signal sent earlier arrives (R346, R349); the waiters are considered unless further signals arrive in its cycle. -/
def Dev.counterSignal (v : Dev) (id : Nat) (more : Bool) : Dev :=
  if v.arrivable id = 0 ∨ v.pwr.tripped then v
  else
    let v1 := ((v.modCtr id (fun c => { c with transit := c.transit - 1 })).landed id).applySignal id
    if more then v1 else v1.grantPass
/-- A counter command and the next that waits fall in one cycle: signals that wait one behind the other arrive in one cycle, after the
register writes that wait before them (R346; DESIGN CHOICE, log entry 92). -/
def sameCycle (write : Bool) : List Instr → Bool
  | .counterSignal _ :: _ => true
  | .synCtrWrite _ _ _ :: _ => write
  | _ => false
def execCounterSignal (id : Fin 14336) (s : State) : Host.Outcome State Fault Refusal := s.onDev (fun v => v.counterSignal id.val (sameCycle false s.pending))

/-- Package identity of local counter i of a die (R368). -/
def localCtr (die i : Nat) : Nat := if i < 6144 then die * 6144 + i else 12288 + die * 1024 + (i - 6144)

/-- SYN_CTR_WRITE: KIND and VALUE are set and the flags written with 1 cleared; a VALUE above 1 in an EVENT counter becomes 1 with MISUSE
(R346, R352, R354, Table 10.6). -/
def Dev.synCtrWrite (v : Dev) (die i : Nat) (w : W64) (more : Bool) : Dev :=
  let id := localCtr die i
  let kind := fld w 33 32
  let val := fld w 31 0
  let bad := decide (kind = 2) && decide (1 < val)
  let v1 := v.modCtr id (fun c => { c with kind := kind, value := if bad then 1 else val, overflow := c.overflow && !fbit w 34, misuse := c.misuse && !fbit w 35 })
  let v2 := if bad then v1.setMisuse id else v1
  if more then v2 else v2.grantPass
def execSynCtrWrite (d : DieId) (i : Fin 7168) (v : W64) (s : State) : Host.Outcome State Fault Refusal :=
  s.onDev (fun u => u.synCtrWrite d.val i.val v (sameCycle true s.pending))

/-- COUNTER_WINDOW_ACCESS by a unit of a die: the region check of the window's addresses (R315, R357); then an aligned 8-byte write signals,
an aligned 8-byte read changes nothing, and any other access is discarded as bad (R342, R356). -/
def Dev.windowAccess (v : Dev) (die off len : Nat) (write : Bool) : Dev :=
  if 131072 ≤ off ∨ !v.permits die (syncBase + off) len write false then v
  else if !syncGood off len then v.syncBad die off
  else if write then v.sendSignal (off / 8) else v
def execCounterWindowAccess (d : DieId) (off len : Nat) (write : Bool) (s : State) : Host.Outcome State Fault Refusal :=
  s.onDev (fun v => v.windowAccess d.val off len write)

/-- Contexts waiting in TW.BARW on unit u go on once its generation differs from theirs (R362). -/
def Dev.wakeBar (v : Dev) (u : Nat) : Dev :=
  v.forAll v.cores (fun w e => w.forAll e.2.ctxs (fun z x =>
    match x.2.wait with
    | .barrier n g p => if n = u ∧ (z.bar u).gen ≠ g then z.modCtx e.1 x.1 (fun q => { q with state := .running, wait := .none, pc := p }) else z
    | .none => z
    | .load _ _ _ _ _ _ => z
    | .store _ _ _ _ => z
    | .amo _ _ _ _ _ _ _ => z
    | .put _ _ _ _ _ => z
    | .counter _ _ _ => z
    | .flush _ => z
    | .fence _ => z))

/-- A unit whose ARRIVED equals its non-zero MASK completes (R361); a SIG_ID above 14,335 sets BAD_ID in both dies' SYN blocks. -/
def Dev.barComplete (v : Dev) (u : Nat) : Dev :=
  let b := v.bar u
  if b.mask ≠ 0#48 ∧ b.arrived = b.mask then
    let v1 := v.modBar u (fun x => { x with gen := (x.gen + 1) % 65536, arrived := 0#48 })
    let v2 := if !b.sigEn then v1
      else if b.sigId ≤ 14335 then v1.sendSignal b.sigId
      else (v1.modSynSt 0 (fun s => { s with badId := true })).modSynSt 1 (fun s => { s with badId := true })
    v2.wakeBar u
  else v

/-- Core c arrives at unit u (R360). -/
def Dev.barArrive (v : Dev) (u c : Nat) : Dev := (v.modBar u (fun b => { b with arrived := b.arrived ||| BitVec.ofNat 48 (2 ^ c) })).barComplete u

/-- SYN_BAR_MASK_WRITE (R364). -/
def execSynBarMaskWrite (d : DieId) (u : Fin 16) (v : W64) (s : State) : Host.Outcome State Fault Refusal :=
  s.onDev (fun w => w.modBar u.val (fun b => { b with mask := v.setWidth 48, arrived := 0#48 }))

/-- Retiring core c clears its bit in every unit; a unit then complete completes (R365). -/
def Dev.barRetire (v : Dev) (c : Nat) : Dev :=
  v.forAll (List.range 16) (fun w u =>
    (w.modBar u (fun b => { b with mask := b.mask &&& ~~~(BitVec.ofNat 48 (2 ^ c)), arrived := b.arrived &&& ~~~(BitVec.ofNat 48 (2 ^ c)) })).barComplete u)

end Sys2Proof.Machine
end

