-- ==== Sys2Proof/Machine/Scalar.lean ====
section
/-! DEFINITION. The scalar unit (08, 09): contexts, fetch, loads and stores through the caches or past them, atomics, CSRs and the two
extensions. -/

namespace Sys2Proof.Machine

def causeFetch : Nat := 1
def causeIllegal : Nat := 2
def causeBreak : Nat := 3
def causeLoadAlign : Nat := 4
def causeLoad : Nat := 5
def causeStoreAlign : Nat := 6
def causeStore : Nat := 7
def causeEcall : Nat := 11
def causeCounter : Nat := 24
def causeBarrier : Nat := 25

/-- The context is busy (Table 8.15). -/
def Ctx.busy (x : Ctx) : Bool := decide (x.state = .running ∨ x.state = .waiting)

/-- The context stops at an instruction with a cause and posts SCALAR_FAULT (R283). -/
def Dev.sclFault (v : Dev) (c x cause : Nat) (at? : W64) : Dev :=
  (v.modCtx c x (fun q => { q with state := .faulted, cause := cause, pc := at?, wait := .none, stopping := false })).ev (coreDie c) c 0x014 (c * 8 + x) at?.toNat

/-- The next instruction: a context that STOP named stops at this boundary instead (R284). -/
def Ctx.go (q : Ctx) (p : W64) : Ctx := { q with pc := p, wait := .none, state := if q.stopping then .stopped else .running, stopping := false }
def Dev.sclGo (v : Dev) (c x : Nat) (p : W64) : Dev := v.modCtx c x (fun q => q.go p)

/-! ### Fetch (R282) -/

/-- The code window of a core: first byte and size; none where SIZE makes every fetch fault (Table 8.16). -/
def Core.codeWindow (k : Core) : Option (Nat × Nat) :=
  let n := fld k.sclCode 4 0
  if 12 ≤ n ∧ n ≤ 24 then some (fld k.sclCode 63 12 * 4096 / 2 ^ n * 2 ^ n, 2 ^ n) else none
/-- The bytes lie in the code window. -/
def Core.inWindow (k : Core) (a n : Nat) : Bool := match k.codeWindow with | none => false | some w => decide (w.1 ≤ a) && decide (a + n ≤ w.1 + w.2)

/-- A line that may be kept in the caches: a cacheable region of SPACE 0b00, outside the host MMIO windows (R278, R319), over stack memory or
a scratchpad: a window holds no memory to keep, and atomics bypass the caches (R333; for the other windows DEDUCED, log entry 93). -/
def Dev.cacheable (v : Dev) (c a n : Nat) : Bool :=
  fld (w64 a) 63 62 = 0 && fld (w64 a) 61 48 = 0 && (placeOf a).isPlain && (match v.rgnFind (coreDie c) a n with | some r => r.cache | none => false)

/-- Fetch n instruction bytes through the L2: the access alone, for the command names the instruction. True where it faults. -/
def Dev.sclFetch (v : Dev) (c a n : Nat) : Bool × Dev :=
  if !(v.core c).inWindow a n || !v.permits (coreDie c) a n false false || decide (fld (w64 a) 63 48 ≠ 0) then (true, v)
  else
    let keep := v.cacheable c a n
    let one (u : Dev) (l : Nat) : Bool × Dev :=
      match (if keep then u.l2Read c l (max a (64 * l) - 64 * l) (min (a + n) (64 * l + 64) - max a (64 * l)) true c else u.rdModule (coreDie c) (max a (64 * l)) (min (a + n) (64 * l + 64) - max a (64 * l)) c) with
      | (.ok _, w) => (false, w)
      | (.err _, w) => (true, w)
    let (b, v1) := one v (a / 64)
    if b || a / 64 = (a + n - 1) / 64 then (b, v1) else one v1 ((a + n - 1) / 64)

/-- Run one instruction of n bytes of a running context (R291): its fetch, then its effect. -/
def Dev.sclRun (v : Dev) (c x n : Nat) (f : Dev → W64 → Dev) : Dev :=
  let q := v.ctx c x
  if decide (q.state = .running) && v.issueOk then
    let (b, v1) := v.sclFetch c q.pc.toNat n
    if b then v1.sclFault c x causeFetch q.pc else f v1 q.pc
  else v

/-! ### Launch and stop -/

/-- Launch context x: its L2 lines in the code window are invalidated, and misses outstanding there are not kept (R281, R282, R290). -/
def Dev.sclLaunch (v : Dev) (c x : Nat) : Dev :=
  let drop (k : Core) : Core := match k.codeWindow with
    | none => k
    | some w => k.invalLines w.1 w.2 false
  (v.modCore c drop).modCtx c x (fun q =>
    ({ pc := q.pc, launch := q.pc, state := .running, posted := q.posted : Ctx }.setReg 10 (w64 x)).setReg 11 (w64 c))
/-- Stop a busy context (R284): a wait on a counter or barrier is withdrawn; an access in progress completes first. -/
def Ctx.stopNow (q : Ctx) : Ctx :=
  if q.state = .running then { q with state := .stopped }
  else match q.wait with
  | .counter _ _ _ => { q with state := .stopped, wait := .none }
  | .barrier _ _ _ => { q with state := .stopped, wait := .none }
  | .none => { q with stopping := true }
  | .load _ _ _ _ _ _ => { q with stopping := true }
  | .store _ _ _ _ => { q with stopping := true }
  | .amo _ _ _ _ _ _ _ => { q with stopping := true }
  | .put _ _ _ _ _ => { q with stopping := true }
  | .flush _ => { q with stopping := true }
  | .fence _ => { q with stopping := true }
/-- Write CORE_SCL_CTL: contexts busy before the write may stop, the others may launch (Table 8.15). -/
def Dev.sclCtlWrite (v : Dev) (c : Nat) (x : W32) : Dev :=
  v.forAll (List.range 8) (fun u n =>
    if (v.ctx c n).busy then (if bit x.toNat (8 + n) then u.modCtx c n Ctx.stopNow else u)
    else if bit x.toNat n then u.sclLaunch c n else u)
/-- SCALAR_RUN (R281). -/
def execScalarRun (c : CoreId) (v : W32) (s : State) : Host.Outcome State Fault Refusal := s.onDev (fun u => u.sclCtlWrite c.val v)
/-- SCALAR_STOP (R284). -/
def execScalarStop (c : CoreId) (v : W32) (s : State) : Host.Outcome State Fault Refusal := s.onDev (fun u => u.sclCtlWrite c.val v)

/-! ### Lines of the L1 -/

/-- What a look-up of the L1 finds: present, absent, or a dirty line lost to a parity error (R300, Table 9.2). -/
inductive Look where
  | hit | miss | lost
  deriving DecidableEq, Repr
/-- Look up the line of n bytes at a. A store that only overwrites meets no parity error, for it reads no byte and writes fresh parity (R304;
DEDUCED, log entry 93). -/
def Dev.l1Look (v : Dev) (c a n : Nat) (reads : Bool) : Look × Dev :=
  let l := (v.core c).l1Line (a / 64)
  if !l.here then (.miss, v)
  else if !reads || !l.badIn (a % 64) n then (.hit, v)
  else if l.dirty then (.lost, v.l1Drop c (a / 64))
  else (.miss, v.modCore c (fun k => ({ k with l1 := terase k.l1 (a / 64) }).corrected))

/-- Bytes of a line that is present. -/
def Core.l1Read (k : Core) (a n : Nat) : List Byte := ((k.l1Line (a / 64)).data.drop (a % 64)).take n
/-- Write bytes of a line that is present: it becomes dirty. -/
def Core.l1Write (k : Core) (a : Nat) (bs : List Byte) : Core :=
  { k with l1 := tset {} k.l1 (a / 64) { (k.l1Line (a / 64)).put (a % 64) bs with dirty := true } }
/-- A write of a line by context x clears the other contexts' reservations of it (R280). -/
def Dev.clearRes (v : Dev) (c x line : Nat) : Dev :=
  v.modCore c (fun k => { k with ctxs := k.ctxs.map (fun e => if e.1 ≠ x ∧ e.2.reservation = some line then (e.1, { e.2 with reservation := none }) else e) })

/-- Why a context stops when a line cannot be brought: CAUSE 5 for a scratchpad parity error met by the fill, whatever the access (Table 9.2);
else the access's own. -/
def fillCause (e cause : Nat) : Nat := if e = 2 then causeLoad else cause
/-- Bring the line of n bytes at a into the L1 through the L2, unless another context has (R301, R302); the cause where it fails. -/
def Dev.l1Bring (v : Dev) (c a n : Nat) (reads : Bool) (cause : Nat) : Option Nat × Dev :=
  match v.l1Look c a n reads with
  | (.hit, v0) => (none, v0)
  | (.lost, v0) => (some cause, v0)
  | (.miss, v0) =>
    match v0.l2Read c (a / 64) 0 64 true c with
    | (.ok bs, v1) => (none, v1.l1Fill c (a / 64) bs)
    | (.err e, v1) => (some (fillCause e cause), v1)

/-! ### Loads -/

/-- The value a load writes. -/
def extLoad (bs : List Byte) (size : Nat) (uns : Bool) : W64 := if uns then w64 (ofBytes bs) else BitVec.ofInt 64 (sext (ofBytes bs) (8 * 2 ^ size))
def Dev.sclLoaded (v : Dev) (c x rd size : Nat) (uns : Bool) (bs : List Byte) (p : W64) : Dev :=
  v.modCtx c x (fun q => (q.setReg rd (extLoad bs size uns)).go p)

/-- Descheduled until the access returns (R291). -/
def Dev.sclWait (v : Dev) (c x : Nat) (w : CtxWait) : Dev := v.modCtx c x (fun q => { q with state := .waiting, wait := w })

/-- Ask another module for bytes a context reads; a request refused stops it. Where the link set is changing nothing happens yet (R488). -/
def Dev.sclAsk (v : Dev) (c x a n cause : Nat) (w : CtxWait) (pc : W64) : Dev :=
  let die := coreDie c
  if (v.fabD die).relink then v
  else
    let (id, v1) := v.newId die
    match v1.sendReq die 1 (fld (w64 a) 61 48) n (64 + c) id (offOf (w64 a)) 0 [] (.sclLoad c x) with
    | (.sent _, v2) => v2.sclWait c x w
    | (.denied, v2) => v2.sclFault c x cause pc
    | (.noLink, v2) => v2.sclFault c x cause pc

/-- A load of 2^size bytes at a (R278, R300): its region is checked as it issues (R318). -/
def Dev.sclLoad (v : Dev) (c x a size : Nat) (uns : Bool) (rd : Nat) (pc p : W64) : Dev :=
  let n := 2 ^ size
  if a % n ≠ 0 then v.sclFault c x causeLoadAlign pc
  else if !v.permits (coreDie c) a n false false then v.sclFault c x causeLoad pc
  else if v.cacheable c a n then
    match v.l1Look c a n true with
    | (.hit, v1) => v1.sclLoaded c x rd size uns ((v1.core c).l1Read a n) p
    | (.miss, v1) => v1.sclWait c x (.load a size uns rd false p)
    | (.lost, v1) => v1.sclFault c x causeLoad pc
  else if v.otherModule (w64 a) then v.sclAsk c x a n causeLoad (.load a size uns rd true p) pc
  else v.sclWait c x (.load a size uns rd true p)

/-- SCALAR_LOAD: LB to LD, LBU to LWU, and their compressed forms (R277, R278, R291). -/
def execScalarLoad (c : CoreId) (x : CtxId) (rd rs1 : RegNo) (imm : BitVec 12) (size : Fin 4) (uns short : Bool) (s : State) :
    Host.Outcome State Fault Refusal :=
  s.onDev (fun v => v.sclRun c.val x.val (if short then 2 else 4) (fun u pc =>
    u.sclLoad c.val x.val (((u.ctx c.val x.val).reg rs1.val + imm.signExtend 64).toNat) size.val uns rd.val pc (pc + if short then 2#64 else 4#64)))

/-! ### Stores -/

/-- Writes of a context held for a stale page. -/
def Dev.ctxHeld (v : Dev) (c x : Nat) : Nat := (v.moult.held.filter (fun h => decide (h.owner = some (.ctx c x)))).length
/-- Count as posted the writes of a context that became held since `old`. -/
def Dev.postHeld (v old : Dev) (c x : Nat) : Dev := v.modCtx c x (fun q => { q with posted := q.posted + (v.ctxHeld c x - old.ctxHeld c x) })

/-- Another context of the core has an atomic past the caches on this line in progress: an access of the line waits its turn, so that the
atomic is one operation among the core's contexts (R280). -/
def Dev.amoBusy (v : Dev) (c x a : Nat) : Bool :=
  (v.core c).ctxs.any (fun e => decide (e.1 ≠ x) && (match e.2.wait with
    | .amo b op _ _ _ _ _ => decide (b / 64 = a / 64) && decide (op ≠ .lr) && v.otherModule (w64 b)
    | .put b _ rd _ _ => decide (b / 64 = a / 64) && decide (rd ≠ 0) && v.otherModule (w64 b)
    | .none => false
    | .load _ _ _ _ _ _ => false
    | .store _ _ _ _ => false
    | .counter _ _ _ => false
    | .barrier _ _ _ => false
    | .flush _ => false
    | .fence _ => false))

/-- A write past the caches by context x, checked when it issued, then what follows it. Another module's is posted, and waits while the link
set changes (R334, R488); one to a stale page counts as posted until it lands (R336). An error stops the context. -/
def Dev.sclPut (v : Dev) (c x a : Nat) (bs : List Byte) (rd : Nat) (val pc p : W64) : Dev :=
  let die := coreDie c
  let fin (u : Dev) : Dev := (u.clearRes c x (a / 64)).modCtx c x (fun q => (q.setReg rd val).go p)
  if v.otherModule (w64 a) then
    if (v.fabD die).relink then v.sclWait c x (.put a bs rd val p)
    else match v.sendReq die 0 (fld (w64 a) 61 48) bs.length (64 + c) x (offOf (w64 a)) 0 bs (.sclStore c x pc) with
    | (.sent _, v1) => fin (v1.modCtx c x (fun q => { q with posted := q.posted + 1 }))
    | (.denied, v1) => v1.sclFault c x causeStore pc
    | (.noLink, v1) => v1.sclFault c x causeStore pc
  else
    match v.wrAt die (w64 a) bs c (some (.ctx c x)) with
    | (some _, v1) => v1.sclFault c x causeStore pc
    | (none, v1) => fin (v1.postHeld v c x)
/-- A write past the caches issues: to another module at once, for it is posted; else the context is descheduled until it returns (R291,
R334). -/
def Dev.sclBypass (v : Dev) (c x a : Nat) (bs : List Byte) (rd : Nat) (val pc p : W64) : Dev :=
  if v.amoBusy c x a then v
  else if v.otherModule (w64 a) then v.sclPut c x a bs rd val pc p
  else v.sclWait c x (.put a bs rd val p)

/-- A store of bytes at a (R278, R300, R303). -/
def Dev.sclStore (v : Dev) (c x a : Nat) (bs : List Byte) (pc p : W64) : Dev :=
  if a % bs.length ≠ 0 then v.sclFault c x causeStoreAlign pc
  else if !v.permits (coreDie c) a bs.length true false then v.sclFault c x causeStore pc
  else if v.cacheable c a bs.length then
    match v.l1Look c a bs.length false with
    | (.hit, v1) => ((v1.modCore c (fun k => k.l1Write a bs)).clearRes c x (a / 64)).sclGo c x p
    | (.miss, v1) => v1.sclWait c x (.store a bs false p)
    | (.lost, v1) => v1.sclFault c x causeStore pc
  else v.sclBypass c x a bs 0 0#64 pc p

/-- SCALAR_STORE: SB to SD and their compressed forms. -/
def execScalarStore (c : CoreId) (x : CtxId) (rs2 rs1 : RegNo) (imm : BitVec 12) (size : Fin 4) (short : Bool) (s : State) :
    Host.Outcome State Fault Refusal :=
  s.onDev (fun v => v.sclRun c.val x.val (if short then 2 else 4) (fun u pc =>
    u.sclStore c.val x.val (((u.ctx c.val x.val).reg rs1.val + imm.signExtend 64).toNat) (toBytes ((u.ctx c.val x.val).reg rs2.val).toNat (2 ^ size.val))
      pc (pc + if short then 2#64 else 4#64)))

/-! ### Atomics (R280) -/

/-- What an AMO stores, on w bits. -/
def amoNew (op : AmoOp) (w old src : Nat) : Nat :=
  match op with
  | .lr => old
  | .sc => src
  | .swap => src
  | .add => (old + src) % 2 ^ w
  | .xor => old ^^^ src
  | .and => old &&& src
  | .or => old ||| src
  | .min => if sext src w < sext old w then src else old
  | .max => if sext old w < sext src w then src else old
  | .minu => min old src
  | .maxu => max old src

/-- Whether the operation stores: an SC only with its reservation. -/
def Ctx.amoStores (q : Ctx) (op : AmoOp) (line : Nat) : Bool := if op = .lr then false else if op = .sc then decide (q.reservation = some line) else true
/-- The result register and the reservation after the operation on `old`. -/
def Ctx.amoDone (q : Ctx) (op : AmoOp) (rd w old line : Nat) : Ctx :=
  if op = .lr then { q.setReg rd (BitVec.ofInt 64 (sext old w)) with reservation := some line }
  else if op = .sc then { q.setReg rd (if q.reservation = some line then 0#64 else 1#64) with reservation := none }
  else q.setReg rd (BitVec.ofInt 64 (sext old w))

/-- The operation on bytes it has read: what it stores, where it stores. -/
def Ctx.amoBytes (q : Ctx) (op : AmoOp) (rs2 n : Nat) (old : List Byte) : List Byte :=
  toBytes (amoNew op (8 * n) (ofBytes old) ((q.reg rs2).toNat % 2 ^ (8 * n))) n

/-- Act on a line present in the L1. -/
def Dev.amoHit (v : Dev) (c x a : Nat) (op : AmoOp) (rd rs2 n : Nat) (p : W64) : Dev :=
  let q := v.ctx c x
  let old := (v.core c).l1Read a n
  let v1 := if q.amoStores op (a / 64) then (v.modCore c (fun k => k.l1Write a (q.amoBytes op rs2 n old))).clearRes c x (a / 64) else v
  v1.modCtx c x (fun z => (z.amoDone op rd (8 * n) (ofBytes old) (a / 64)).go p)
/-- Act on bytes read past the caches: the write follows in the same step, unless the link set is changing. -/
def Dev.amoPast (v : Dev) (c x a : Nat) (op : AmoOp) (rd rs2 n : Nat) (old : List Byte) (pc p : W64) : Dev :=
  let q := v.ctx c x
  if q.amoStores op (a / 64) then
    let bs := q.amoBytes op rs2 n old
    if op = .sc then (v.modCtx c x (fun z => { z with reservation := none })).sclPut c x a bs rd 0#64 pc p
    else v.sclPut c x a bs rd (BitVec.ofInt 64 (sext (ofBytes old) (8 * n))) pc p
  else v.modCtx c x (fun z => (z.amoDone op rd (8 * n) (ofBytes old) (a / 64)).go p)

/-- An LR, SC or AMO at a. -/
def Dev.sclAmo (v : Dev) (c x a : Nat) (op : AmoOp) (rd rs2 : Nat) (dbl : Bool) (pc p : W64) : Dev :=
  let n := if dbl then 8 else 4
  let lr := decide (op = .lr)
  let cause := if lr then causeLoad else causeStore
  let q := v.ctx c x
  let wait := CtxWait.amo a op rd rs2 dbl false p
  if a % n ≠ 0 then v.sclFault c x (if lr then causeLoadAlign else causeStoreAlign) pc
  else if (decide (op ≠ .sc) && !v.permits (coreDie c) a n false false) || (!lr && !v.permits (coreDie c) a n true false) then v.sclFault c x cause pc
  else if op = .sc ∧ q.reservation ≠ some (a / 64) then v.modCtx c x (fun z => (z.amoDone .sc rd (8 * n) 0 (a / 64)).go p)
  else if v.cacheable c a n then
    match v.l1Look c a n (decide (op ≠ .sc)) with
    | (.hit, v1) => v1.amoHit c x a op rd rs2 n p
    | (.miss, v1) => v1.sclWait c x wait
    | (.lost, v1) => v1.sclFault c x cause pc
  else if v.amoBusy c x a then v
  else if v.otherModule (w64 a) then (if op = .sc then v.amoPast c x a op rd rs2 n [] pc p else v.sclAsk c x a n cause wait pc)
  else v.sclWait c x wait

/-- SCALAR_AMO: LR, SC and the AMO instructions of .W and .D. -/
def execScalarAmo (c : CoreId) (x : CtxId) (op : AmoOp) (rd rs1 rs2 : RegNo) (dbl : Bool) (s : State) : Host.Outcome State Fault Refusal :=
  s.onDev (fun v => v.sclRun c.val x.val 4 (fun u pc =>
    u.sclAmo c.val x.val ((u.ctx c.val x.val).reg rs1.val).toNat op rd.val rs2.val dbl pc (pc + 4#64)))

/-! ### Returns (R290, R291) -/

/-- The miss of a store whose line was invalidated meanwhile: the line's data is not kept, so the bytes go on to memory (R290). -/
def Dev.storeUnkept (v : Dev) (c x a : Nat) (bs : List Byte) (pc : W64) (fin : Dev → Dev) : Dev :=
  match v.l2Through c a bs (some (.ctx c x)) with
  | (some _, v1) => v1.sclFault c x causeStore pc
  | (none, v1) => fin ((v1.clearRes c x (a / 64)).postHeld v c x)

/-- The load, store or atomic a context waits for returns (R318: its region was checked as it issued). None
does while a map rebuild fills the stacks (R440). The instruction's address is the
context's pc, which has not moved. -/
def Dev.accessReturn (v : Dev) (c x : Nat) : Dev :=
  let q := v.ctx c x
  let die := coreDie c
  if q.state ≠ .waiting ∨ v.pwr.tripped ∨ v.hbm.busy then v
  else match q.wait with
  | .load a size uns rd bypass p =>
    if v.otherModule (w64 a) then v
    else if bypass then
      match v.rdAt die (w64 a) (2 ^ size) c with
      | (.ok bs, v1) => v1.sclLoaded c x rd size uns bs p
      | (.err _, v1) => v1.sclFault c x causeLoad q.pc
    else match v.l1Bring c a (2 ^ size) true causeLoad with
    | (none, v1) => v1.sclLoaded c x rd size uns ((v1.core c).l1Read a (2 ^ size)) p
    | (some e, v1) => v1.sclFault c x e q.pc
  | .store a bs drop p =>
    if drop then
      match v.l2Read c (a / 64) 0 64 false c with
      | (.ok _, v1) => v1.storeUnkept c x a bs q.pc (fun u => u.sclGo c x p)
      | (.err e, v1) => v1.sclFault c x (fillCause e causeStore) q.pc
    else match v.l1Bring c a bs.length false causeStore with
    | (none, v1) => ((v1.modCore c (fun k => k.l1Write a bs)).clearRes c x (a / 64)).sclGo c x p
    | (some e, v1) => v1.sclFault c x e q.pc
  | .amo a op rd rs2 dbl drop p =>
    let n := if dbl then 8 else 4
    let cause := if op = .lr then causeLoad else causeStore
    if v.otherModule (w64 a) then v
    else if drop then
      match v.l2Read c (a / 64) 0 64 false c with
      | (.ok line, v1) =>
        let old := (line.drop (a % 64)).take n
        let fin (u : Dev) : Dev := u.modCtx c x (fun z => (z.amoDone op rd (8 * n) (ofBytes old) (a / 64)).go p)
        if q.amoStores op (a / 64) then v1.storeUnkept c x a (q.amoBytes op rs2 n old) q.pc fin else fin v1
      | (.err e, v1) => v1.sclFault c x (fillCause e cause) q.pc
    else if v.cacheable c a n then
      match v.l1Bring c a n (decide (op ≠ .sc)) cause with
      | (none, v1) => v1.amoHit c x a op rd rs2 n p
      | (some e, v1) => v1.sclFault c x e q.pc
    else if op = .sc then v.amoPast c x a op rd rs2 n [] q.pc p
    else match v.rdAt die (w64 a) n c with
    | (.ok bs, v1) => v1.amoPast c x a op rd rs2 n bs q.pc p
    | (.err _, v1) => v1.sclFault c x cause q.pc
  | .put a bs rd w p => v.sclPut c x a bs rd w q.pc p
  | .none => v
  | .counter _ _ _ => v
  | .barrier _ _ _ => v
  | .flush _ => v
  | .fence _ => v
/-- SCALAR_ACCESS_RETURN. A write of the version window may end a hold (R464). -/
def execScalarAccessReturn (c : CoreId) (x : CtxId) (s : State) : Host.Outcome State Fault Refusal :=
  s.onDev (fun v => (v.accessReturn c.val x.val).releaseHeld)

/-- READ_DATA for a context: the bytes of its load or atomic. -/
def Dev.sclAnswer (v : Dev) (c x : Nat) (bs : List Byte) : Dev :=
  let q := v.ctx c x
  match q.wait with
  | .load _ size uns rd _ p => v.sclLoaded c x rd size uns bs p
  | .amo a op rd rs2 dbl _ p => v.amoPast c x a op rd rs2 (if dbl then 8 else 4) bs q.pc p
  | .none => v
  | .store _ _ _ _ => v
  | .put _ _ _ _ _ => v
  | .counter _ _ _ => v
  | .barrier _ _ _ => v
  | .flush _ => v
  | .fence _ => v
/-- ERROR, or no answer, for a context's read (R484). -/
def Dev.sclAnswerBad (v : Dev) (c x : Nat) : Dev :=
  let q := v.ctx c x
  match q.wait with
  | .load _ _ _ _ _ _ => v.sclFault c x causeLoad q.pc
  | .amo _ op _ _ _ _ _ => v.sclFault c x (if op = .lr then causeLoad else causeStore) q.pc
  | .none => v
  | .store _ _ _ _ => v
  | .put _ _ _ _ _ => v
  | .counter _ _ _ => v
  | .barrier _ _ _ => v
  | .flush _ => v
  | .fence _ => v

/-- A store that bypasses the caches has landed: a FENCE that waits for the last ends (R336). -/
def Dev.sclLanded (v : Dev) (c x : Nat) : Dev :=
  v.modCtx c x (fun q =>
    let q1 := { q with posted := q.posted - 1 }
    match q1.wait with
    | .fence p => if q1.posted = 0 then q1.go p else q1
    | .none => q1
    | .load _ _ _ _ _ _ => q1
    | .store _ _ _ _ => q1
    | .amo _ _ _ _ _ _ _ => q1
    | .put _ _ _ _ _ => q1
    | .counter _ _ _ => q1
    | .barrier _ _ _ => q1
    | .flush _ => q1)
/-- A store is answered with ERROR, or not at all: the busy context stops with CAUSE 7 at the store's address (R484). -/
def Dev.sclStoreBad (v : Dev) (c x : Nat) (pc : W64) : Dev :=
  let v1 := v.modCtx c x (fun q => { q with posted := q.posted - 1 })
  if (v1.ctx c x).busy then v1.sclFault c x causeStore pc else v1

/-! ### CSRs and FENCE -/

/-- CSR_READ: mhartid, cycle, time, instret; any other CSR is an illegal instruction (R279). -/
def Dev.csrRead (v : Dev) (c x rd : Nat) (csr : Nat) (pc : W64) : Dev :=
  let put (u : Dev) (w : W64) : Dev := u.modCtx c x (fun q => (q.setReg rd w).go (pc + 4#64))
  if csr = 0xF14 then put v (w64 (c * 8 + x))
  else if csr = 0xC01 then put v (w64 v.ft.now)
  else if csr = 0xC00 ∨ csr = 0xC02 then put v.draw.2 v.draw.1
  else v.sclFault c x causeIllegal pc
def execCsrRead (c : CoreId) (x : CtxId) (rd : RegNo) (csr : BitVec 12) (s : State) : Host.Outcome State Fault Refusal :=
  s.onDev (fun v => v.sclRun c.val x.val 4 (fun u pc => u.csrRead c.val x.val rd.val csr.toNat pc))

/-- FENCE (R277, R336, R337). -/
def Dev.sclFence (v : Dev) (c x : Nat) (pc : W64) : Dev :=
  if (v.ctx c x).posted = 0 then v.sclGo c x (pc + 4#64) else v.sclWait c x (.fence (pc + 4#64))
def execFence (c : CoreId) (x : CtxId) (s : State) : Host.Outcome State Fault Refusal :=
  s.onDev (fun v => v.sclRun c.val x.val 4 (fun u pc => u.sclFence c.val x.val pc))

/-! ### Xtwsync and Xtwcache (R286 to R289) -/

/-- TW.SIG. -/
def Dev.twSig (v : Dev) (c x rs1 : Nat) (pc : W64) : Dev :=
  let id := ((v.ctx c x).reg rs1).toNat
  if 14335 < id then v.sclFault c x causeCounter pc else (v.sendSignal id).sclGo c x (pc + 4#64)
def execTwSig (c : CoreId) (x : CtxId) (rs1 : RegNo) (s : State) : Host.Outcome State Fault Refusal :=
  s.onDev (fun v => v.sclRun c.val x.val 4 (fun u pc => u.twSig c.val x.val rs1.val pc))

/-- A context of core c may wait on the counter: its core's, or its die's engine counters. -/
def waitable (c id : Nat) : Bool :=
  (decide (id < 12288) && decide (id / 256 = c)) || (decide (12288 ≤ id) && decide (id ≤ 14335) && decide ((id - 12288) / 1024 = coreDie c))
/-- TW.WAIT: a misused wait sets MISUSE when it is first tested (R286, R352). -/
def Dev.twWait (v : Dev) (c x rs1 rs2 : Nat) (pc : W64) : Dev :=
  let id := ((v.ctx c x).reg rs1).toNat
  let amt := fld ((v.ctx c x).reg rs2) 31 0
  if !waitable c id then v.sclFault c x causeCounter pc
  else if amt = 0 then v.sclGo c x (pc + 4#64)
  else ((v.markMisused [(id, amt)]).sclWait c x (.counter id amt (pc + 4#64))).grantPass
def execTwWait (c : CoreId) (x : CtxId) (rs1 rs2 : RegNo) (s : State) : Host.Outcome State Fault Refusal :=
  s.onDev (fun v => v.sclRun c.val x.val 4 (fun u pc => u.twWait c.val x.val rs1.val rs2.val pc))

/-- TW.CTR. -/
def Dev.twCtr (v : Dev) (c x rd rs1 : Nat) (pc : W64) : Dev :=
  let id := ((v.ctx c x).reg rs1).toNat
  if 14335 < id then v.sclFault c x causeCounter pc else v.modCtx c x (fun q => (q.setReg rd (w64 (v.ctr id).value)).go (pc + 4#64))
def execTwCtr (c : CoreId) (x : CtxId) (rd rs1 : RegNo) (s : State) : Host.Outcome State Fault Refusal :=
  s.onDev (fun v => v.sclRun c.val x.val 4 (fun u pc => u.twCtr c.val x.val rd.val rs1.val pc))

/-- The unit takes part of core c (R287). -/
def Dev.barOk (v : Dev) (c u : Nat) : Bool := decide (u ≤ 15) && bit (v.bar u).mask.toNat c
/-- TW.BARA: the generation of the arrival is read before it completes one (R360, R361). -/
def Dev.twBara (v : Dev) (c x rd rs1 : Nat) (pc : W64) : Dev :=
  let u := ((v.ctx c x).reg rs1).toNat
  if !v.barOk c u then v.sclFault c x causeBarrier pc
  else (v.modCtx c x (fun q => (q.setReg rd (w64 (v.bar u).gen)).go (pc + 4#64))).barArrive u c
def execTwBara (c : CoreId) (x : CtxId) (rd rs1 : RegNo) (s : State) : Host.Outcome State Fault Refusal :=
  s.onDev (fun v => v.sclRun c.val x.val 4 (fun u pc => u.twBara c.val x.val rd.val rs1.val pc))

/-- TW.BARW (R287, R362). -/
def Dev.twBarw (v : Dev) (c x rs1 rs2 : Nat) (pc : W64) : Dev :=
  let u := ((v.ctx c x).reg rs1).toNat
  let g := fld ((v.ctx c x).reg rs2) 15 0
  if !v.barOk c u then v.sclFault c x causeBarrier pc
  else if (v.bar u).gen ≠ g then v.sclGo c x (pc + 4#64)
  else v.sclWait c x (.barrier u g (pc + 4#64))
def execTwBarw (c : CoreId) (x : CtxId) (rs1 rs2 : RegNo) (s : State) : Host.Outcome State Fault Refusal :=
  s.onDev (fun v => v.sclRun c.val x.val 4 (fun u pc => u.twBarw c.val x.val rs1.val rs2.val pc))

/-- TW.HALT (R287). -/
def Dev.twHalt (v : Dev) (c x : Nat) : Dev := v.modCtx c x (fun q => { q with state := .halted, wait := .none })
def execTwHalt (c : CoreId) (x : CtxId) (s : State) : Host.Outcome State Fault Refusal :=
  s.onDev (fun v => v.sclRun c.val x.val 4 (fun u _ => u.twHalt c.val x.val))

/-- TW.FLUSH and TW.INV over a byte range, cut at 2^64: the write-backs and the invalidation, then the wait for their end (R288, R289). -/
def Dev.twRange (v : Dev) (inv : Bool) (c x rs1 rs2 : Nat) (pc : W64) : Dev :=
  let a := ((v.ctx c x).reg rs1).toNat
  let n := min ((v.ctx c x).reg rs2).toNat (2 ^ 64 - a)
  if n = 0 then v.sclGo c x (pc + 4#64)
  else
    let own := some (Owner.ctx c x)
    let (v1, bad) := if inv then v.flushInval c a n own else v.flushRange c a n own
    if bad then v1.sclFault c x causeStore pc else (v1.postHeld v c x).sclWait c x (.flush (pc + 4#64))
/-- TW.FLUSH. -/
def execTwFlush (c : CoreId) (x : CtxId) (rs1 rs2 : RegNo) (s : State) : Host.Outcome State Fault Refusal :=
  s.onDev (fun v => v.sclRun c.val x.val 4 (fun u pc => u.twRange false c.val x.val rs1.val rs2.val pc))
/-- TW.INV. -/
def execTwInv (c : CoreId) (x : CtxId) (rs1 rs2 : RegNo) (s : State) : Host.Outcome State Fault Refusal :=
  s.onDev (fun v => v.sclRun c.val x.val 4 (fun u pc => u.twRange true c.val x.val rs1.val rs2.val pc))

/-- FLUSH_DONE: a flush or invalidation ends once its write-backs have reached memory (R288, R573). -/
def Dev.flushDone (v : Dev) (c x : Nat) : Dev :=
  match (v.ctx c x).wait with
  | .flush p => if decide (0 < v.ctxHeld c x) || v.pwr.tripped then v else v.sclGo c x p
  | .none => v
  | .load _ _ _ _ _ _ => v
  | .store _ _ _ _ => v
  | .amo _ _ _ _ _ _ _ => v
  | .put _ _ _ _ _ => v
  | .counter _ _ _ => v
  | .barrier _ _ _ => v
  | .fence _ => v
def execFlushDone (c : CoreId) (x : CtxId) (s : State) : Host.Outcome State Fault Refusal := s.onDev (fun v => v.flushDone c.val x.val)

/-- CLR_COUNT: CORE_MEM_STATUS is written; its flags written with 1 are cleared, and CLR_COUNT clears CORR_COUNT (Table 9.13). -/
def Core.memStatusWrite (k : Core) (x : W32) : Core :=
  let b (i : Nat) : Bool := bit x.toNat i
  { k with spadParity := k.spadParity && !b 0, accParity := k.accParity && !b 1, l1Lost := k.l1Lost && !b 2, corr := k.corr && !b 3,
           corrCount := if b 16 then 0 else k.corrCount }
def execClrCount (c : CoreId) (v : W32) (s : State) : Host.Outcome State Fault Refusal := s.onDev (fun u => u.modCore c.val (fun k => k.memStatusWrite v))

end Sys2Proof.Machine
end

