-- ==== Sys2Proof/Machine/Packets.lean ====
section
/-! DEFINITION. Arriving packets, response timeouts and the links (14). -/

namespace Sys2Proof.Machine

/-! ### Admission (R490, R492, R495) -/

/-- The link a packet arrived on, 255 for the gateway. -/
def portNo : Port → Nat | .link l => l.val | .gateway => 255
/-- The requester an arriving access counts as (R676). -/
def portReq : Port → Nat | .link l => 56 + l.val | .gateway => 78
/-- The packet can arrive for this die: on an up link of it, or from the gateway for the die it names (R492, R495). -/
def Dev.portOpen (v : Dev) (die : Nat) (port : Port) (p : Packet) : Bool :=
  match port with
  | .link l => decide (linkDie l.val = die) && decide ((v.linkN l.val).state = 2)
  | .gateway => decide (pSdie p = die)
/-- The packet has the kind of the command and the payload its kind asks for (Tables 14.2, 14.3). -/
def packetGood (kind : Nat) (p : Packet) : Bool :=
  decide (pKind p = kind) && decide (pLen p ≤ 256) &&
  (match kind with
   | 0 => p.data.length = pLen p
   | 2 => p.data.length = pLen p
   | 5 => p.data.length = pLen p
   | 6 => p.data.length = 16
   | _ => p.data.isEmpty)

/-- Send a response: to the source chip, its unit, identity and offset echoed (R483). -/
def Dev.reply (v : Dev) (die kind : Nat) (p : Packet) (data : List Byte) : Dev :=
  (v.sendPacket die (mkPacket kind (pSchip p) v.chip die data.length (pSunit p) (pId p) (pOff p) 0 data)).2

/-- Why a packet is discarded on arrival, with the event and the flag of FAB_STATUS (R490). -/
inductive Inbound where
  | ok | misrouted | denied
  deriving DecidableEq, Repr
def Dev.inbound (v : Dev) (die : Nat) (port : Port) (p : Packet) : Inbound :=
  let r := (v.route die (pSchip p)).toNat
  if pDchip p ≠ v.chip then .misrouted
  else if !bit r 0 then .denied
  else if bit r 1 ≠ decide (port = .gateway) then .denied
  else .ok
/-- A packet that can arrive passes the checks and acts; a request discarded is answered with ERROR (R490). -/
def Dev.arrive (v : Dev) (kind die : Nat) (port : Port) (p : Packet) (request : Bool) (act : Dev → Dev) : Dev :=
  if !v.portOpen die port p || !packetGood kind p then v
  else
    let answer (u : Dev) : Dev := if request then u.reply die 4 p [] else u
    match v.inbound die port p with
    | .ok => act v
    | .misrouted => answer ((v.modFabD die (fun f => { f with misrouted := true })).ev die (74 + die) 0x045 (pDchip p) (portNo port))
    | .denied => answer ((v.modFabD die (fun f => { f with inboundDenied := true })).ev die (74 + die) 0x046 (pSchip p) (portNo port))

/-! ### Receive buffers (R479) -/

/-- The buffer is enabled, with SIZE and BLK in range (Table 14.19). -/
def Link.rxOn (l : Link) : Bool :=
  l.rxEn && decide (12 ≤ l.rxSize) && decide (l.rxSize ≤ 30) && decide (6 ≤ l.rxBlk) && decide (l.rxBlk ≤ l.rxSize)
/-- Bytes of [a, a + n) in the buffer. -/
def Link.rxIn (l : Link) (a n : Nat) : Nat :=
  let b := l.rxBase / 2 ^ l.rxSize * 2 ^ l.rxSize
  if l.rxOn then min (a + n) (b + 2 ^ l.rxSize) - max a b else 0
/-- Count landed bytes and raise an event for each block reached. -/
def Dev.rxCount (v : Dev) (port : Port) (a n : Nat) : Dev :=
  match port with
  | .gateway => v
  | .link l =>
    let k := v.linkN l.val
    let m := k.rxIn a n
    let v1 := v.modLinkN l.val (fun q => { q with bytes := q.bytes + m })
    iter (fun u => u.reqEvent (linkDie l.val) 2 (fun x => x = l.val)) ((k.bytes + m) / 2 ^ k.rxBlk - k.bytes / 2 ^ k.rxBlk) v1

/-! ### Requests that arrive -/

/-- The bytes of a WRITE or CHUNK_DATA have reached memory: counted, recorded by the landing slot, and acknowledged, with no packet where
the module sent it to itself (R479, R483, R486, R498). -/
def Dev.packetLanded (v : Dev) (die : Nat) (port : Port) (p : Packet) : Dev :=
  let v1 := v.rxCount port (pOff p) p.data.length
  let v2 := if pKind p = 5 then v1.landData (pSdie p) (pLid p % 1024) (pCtag p) p.data.length else v1
  (if pSchip p = v.chip then v2 else v2.reply die 3 p []).releaseHeld
/-- Write the bytes of a packet under R316; a write held for a stale page lands later (R573). -/
def Dev.packetWrite (v : Dev) (die : Nat) (port : Port) (p : Packet) : Dev :=
  let owner := Owner.packet die port p (v.fabD die).arrivals
  let v0 := v.modFabD die (fun f => { f with arrivals := f.arrivals + 1 })
  match v0.arriveWrite die (pOff p) p.data (pSchip p) (portReq port) true (some owner) with
  | (true, v1) => v1.reply die 4 p []
  | (false, v1) => if v1.moult.held.any (fun h => decide (h.owner = some owner)) then v1 else v1.packetLanded die port p

/-- WRITE (R316, R483, R490). -/
def execWrite (d : DieId) (port : Port) (p : Packet) (s : State) : Host.Outcome State Fault Refusal :=
  s.onDev (fun v => v.arrive 0 d.val port p true (fun u => u.packetWrite d.val port p))

/-- A READ is answered with READ_DATA or ERROR, once no map rebuild fills the stacks it reads (R440, R483). -/
def Dev.packetRead (v : Dev) (die : Nat) (port : Port) (p : Packet) : Dev :=
  if v.fillWait (w64 (pOff p)) then v.modHbm (fun h => { h with waiting := h.waiting ++ [.packet die port p] })
  else
  match v.arriveRead die (pOff p) (pLen p) (pSchip p) (portReq port) true with
  | (.ok bs, v1) => v1.reply die 2 p bs
  | (.err _, v1) => v1.reply die 4 p []
/-- READ (R316, R483, R490). -/
def execRead (d : DieId) (port : Port) (p : Packet) (s : State) : Host.Outcome State Fault Refusal :=
  s.onDev (fun v => v.arrive 1 d.val port p true (fun u => u.packetRead d.val port p))

/-- CHUNK_DATA: a packet of the slot's abandoned tag is discarded, any other is written (R492, R498). -/
def Dev.chunkData (v : Dev) (die : Nat) (port : Port) (p : Packet) : Dev :=
  if (v.land (pSdie p) (pLid p % 1024)).judge (pCtag p) = .stray then v.lateDiscard (pSdie p) else v.packetWrite die port p
def execChunkData (d : DieId) (port : Port) (p : Packet) (s : State) : Host.Outcome State Fault Refusal :=
  s.onDev (fun v => v.arrive 5 d.val port p true (fun u => u.chunkData d.val port p))

/-- CHUNK_DONE: acknowledged once the slot has recorded it (R483, R498). -/
def Dev.chunkDone (v : Dev) (die : Nat) (p : Packet) : Dev :=
  match v.landDone (pSdie p) (pLid p % 1024) (pCtag p) p.data with
  | (true, v1) => v1.reply die 3 p []
  | (false, v1) => v1
def execChunkDone (d : DieId) (port : Port) (p : Packet) (s : State) : Host.Outcome State Fault Refusal :=
  s.onDev (fun v => v.arrive 6 d.val port p true (fun u => u.chunkDone d.val p))

/-! ### Responses (R483, R484) -/

/-- The request a response answers: of its chip, unit and identity, the one at its offset, else the oldest. -/
def answers (p : Packet) (r : Req) : Bool := decide (r.chip = pSchip p) && decide (r.sunit = pSunit p) && decide (r.id = pId p)
def Fab.match? (f : Fab) (p : Packet) (ok : Req → Bool) : Option Req :=
  match f.reqs.find? (fun r => answers p r && ok r && decide (r.off = pOff p)) with
  | some r => some r
  | none => f.reqs.find? (fun r => answers p r && ok r)
/-- The die that waits for a response, this one first, and the request. -/
def Dev.match? (v : Dev) (die : Nat) (p : Packet) (ok : Req → Bool) : Option (Nat × Req) :=
  match (v.fabD die).match? p ok with
  | some r => some (die, r)
  | none => ((v.fabD (1 - die)).match? p ok).map (fun r => (1 - die, r))
/-- The link set of a die has settled: the writes that waited for it issue (R334, R488). -/
def Dev.linksSettled (v : Dev) (die : Nat) : Dev :=
  v.forAll ((List.range 24).map (fun i => die * 24 + i)) (fun u c => (u.dmaWakeAll c).forAll (List.range 8) (fun w x =>
    match (w.ctx c x).wait with
    | .put a _ _ _ _ => if w.otherModule (w64 a) then w.accessReturn c x else w
    | .none => w
    | .load _ _ _ _ _ _ => w
    | .store _ _ _ _ => w
    | .amo _ _ _ _ _ _ _ => w
    | .counter _ _ _ => w
    | .barrier _ _ _ => w
    | .flush _ => w
    | .fence _ => w))
/-- A request leaves the outstanding ones. -/
def Dev.dropReq (v : Dev) (die : Nat) (r : Req) : Dev :=
  let v1 := (v.modFabD die (fun f => { f with reqs := f.reqs.erase r })).settleLinks die
  if (v.fabD die).relink && !(v1.fabD die).relink then v1.linksSettled die else v1

/-- Data for a read. -/
def Dev.answered (v : Dev) (r : Req) (bs : List Byte) : Dev :=
  match r.purpose with
  | .dmaRead c n off piece => v.dmaAnswer c n off piece bs
  | .sclLoad c x => v.sclAnswer c x bs
  | .sealRead c n _ => v.modDmaCh c n (fun q => if q.sealAsked then { q with sealAns := some bs, sealAsked := false } else q)
  | .chunk _ _ => v
  | .dmaWrite _ _ _ _ => v
  | .sclStore _ _ _ => v
  | .gone => v
/-- An acknowledgement of a write. -/
def Dev.acked (v : Dev) (r : Req) : Dev :=
  match r.purpose with
  | .dmaWrite c n off len => v.dmaLanded c n off len
  | .sclStore c x _ => v.sclLanded c x
  | .chunk _ _ => v
  | .dmaRead _ _ _ _ => v
  | .sclLoad _ _ => v
  | .sealRead _ _ _ => v
  | .gone => v
/-- A request answered with ERROR, by the destination or on the timeout (R484); the engine's chunks act by R508. -/
def Dev.refusedReq (v : Dev) (r : Req) : Dev :=
  let a := w64 (2 ^ 62 + r.chip * 2 ^ 48 + r.off)
  match r.purpose with
  | .chunk _ _ => v
  | .dmaRead c n off _ => v.dmaAnswerBad c n off a
  | .dmaWrite c n off len => v.dmaWriteBad c n off len a
  | .sclLoad c x => v.sclAnswerBad c x
  | .sclStore c x pc => v.sclStoreBad c x pc
  | .sealRead c n _ => if (v.dmaCh c n).sealAsked then (v.modDmaCh c n (fun q => { q with sealAsked := false })).dmaError c n 3 a else v
  | .gone => v

/-- A response reaches the request it answers; one that answers none is dropped. -/
def Dev.respond (v : Dev) (die : Nat) (p : Packet) (ok : Req → Bool) (act : Dev → Req → Dev) : Dev :=
  match v.match? die p ok with
  | none => v
  | some (d, r) => (act (v.dropReq d r) r).releaseHeld
/-- READ_DATA (R483). -/
def execReadData (d : DieId) (port : Port) (p : Packet) (s : State) : Host.Outcome State Fault Refusal :=
  s.onDev (fun v => v.arrive 2 d.val port p false (fun u => u.respond d.val p (fun r => !r.write && decide (r.len = p.data.length)) (fun w r => w.answered r p.data)))
/-- WACK (R483, R508). -/
def execWack (d : DieId) (port : Port) (p : Packet) (s : State) : Host.Outcome State Fault Refusal :=
  s.onDev (fun v => v.arrive 3 d.val port p false (fun u => u.respond d.val p (fun r => r.write) (fun w r => w.acked r)))
/-- ERROR (R483, R484). -/
def execError (d : DieId) (port : Port) (p : Packet) (s : State) : Host.Outcome State Fault Refusal :=
  s.onDev (fun v => v.arrive 4 d.val port p false (fun u => u.respond d.val p (fun _ => true) (fun w r => w.refusedReq r)))

/-- The requester number of a sending unit (R676). -/
def sunitReq (die sunit : Nat) : Nat := if sunit < 64 then sunit else if sunit < 128 then sunit - 64 else 74 + die
/-- ACK_TIMEOUT: outstanding request i of the die has waited ACK_TIMEOUT; no time elapses while the unit is frozen (R484, R508, R532). -/
def Dev.ackTimeout (v : Dev) (die i : Nat) : Dev :=
  if v.ft.frozen then v
  else match (v.fabD die).reqs[i]? with
  | none => v
  | some r =>
    let lost (f : Fab) : Fab :=
      match r.purpose with
      | .chunk _ seq => { f with ceLost := f.ceLost ++ [(seq, r.chip)] }
      | .dmaRead _ _ _ _ => f
      | .dmaWrite _ _ _ _ => f
      | .sclLoad _ _ => f
      | .sclStore _ _ _ => f
      | .sealRead _ _ _ => f
      | .gone => f
    let v1 := (v.dropReq die r).modFabD die (fun f => lost { f with timeout := true })
    ((v1.ev die (74 + die) 0x042 r.chip (sunitReq die r.sunit)).refusedReq r).releaseHeld
def execAckTimeout (d : DieId) (i : Nat) (s : State) : Host.Outcome State Fault Refusal := s.onDev (fun v => v.ackTimeout d.val i)

/-! ### Links (R476 to R480, R488) -/

/-- An up link goes down through a failure. -/
def Dev.linkDown (v : Dev) (l : Nat) : Dev :=
  ((v.modLinkN l (fun k => { k with state := 0, lanes := 0, replays := 0 })).ev (linkDie l) (56 + l) 0x041 l 0).linksChanged (linkDie l)
/-- LANE_FAIL: the link moves to fewer lanes, or down below 2 (R476). -/
def Dev.laneFail (v : Dev) (l lane : Nat) : Dev :=
  let k := v.linkN l
  if bit k.laneFailed lane then v
  else
    let v1 := v.modLinkN l (fun q => { q with laneFailed := q.laneFailed + 2 ^ lane })
    if k.state ≠ 2 then v1
    else if k.lanes ≤ 2 then v1.linkDown l
    else (v1.modLinkN l (fun q => { q with lanes := q.lanes - 1 })).ev (linkDie l) (56 + l) 0x040 l (k.lanes - 1)
def execLaneFail (l : LinkId) (lane : Fin 4) (s : State) : Host.Outcome State Fault Refusal := s.onDev (fun v => v.laneFail l.val lane.val)

/-- LINK_REPLAY: a flit is replayed; the 32nd failed replay of one flit takes the link down (R480, Table 14.18). -/
def Dev.linkReplay (v : Dev) (l : Nat) (uncorrected good : Bool) : Dev :=
  if (v.linkN l).state ≠ 2 then v
  else
    let v1 := v.modLinkN l (fun k => { k with
      retries := satAdd k.retries 1 max32
      fecUncorr := satAdd k.fecUncorr (b2n uncorrected) 65535
      replays := if good then 0 else k.replays + 1 })
    if 32 ≤ (v1.linkN l).replays then v1.linkDown l else v1
def execLinkReplay (l : LinkId) (uncorrected good : Bool) (s : State) : Host.Outcome State Fault Refusal := s.onDev (fun v => v.linkReplay l.val uncorrected good)

/-- LNK_CTL written: DISABLE keeps the link down, RETRAIN retrains it, down for routing until it has (R477, R488). -/
def Dev.lnkCtlWrite (v : Dev) (l : Nat) (x : W32) : Dev :=
  let dis := bit x.toNat 1
  let k := v.linkN l
  let st := if dis then 0 else if bit x.toNat 0 then 1 else k.state
  let v1 := v.modLinkN l (fun q => { q with disable := dis, state := st, lanes := if st = 2 then q.lanes else 0, replays := if st = 2 then q.replays else 0 })
  if decide (k.state = 2) && decide (st ≠ 2) then v1.linksChanged (linkDie l) else v1
def execLnkCtlRetrain (l : LinkId) (v : W32) (s : State) : Host.Outcome State Fault Refusal := s.onDev (fun u => u.lnkCtlWrite l.val v)

/-- LINK_RETRAIN_DONE: the link is up on the lanes that trained, its delay measured, or down (R476 to R478). -/
def Dev.retrainDone (v : Dev) (l lanes delay : Nat) : Dev :=
  if (v.linkN l).state ≠ 1 then v
  else if lanes < 2 then v.linkDown l
  else (v.modLinkN l (fun k => { k with
    state := 2
    lanes := lanes
    delay := delay % 65536
    laneFailed := if lanes = 4 then 0 else k.laneFailed })).linksChanged (linkDie l)
def execLinkRetrainDone (l : LinkId) (lanes : Fin 5) (stamps : Stamps) (s : State) : Host.Outcome State Fault Refusal :=
  s.onDev (fun v => v.retrainDone l.val lanes.val (stampDelay stamps))

/-- LNK_RXBUF_WRITE: the buffer's fields are taken and BYTES is set to 0 (R479, Table 14.19). -/
def Dev.rxbufWrite (v : Dev) (l : Nat) (x : W64) : Dev :=
  v.modLinkN l (fun k => { k with rxEn := fbit x 0, rxSize := fld x 5 1, rxBlk := fld x 10 6, rxBase := fld x 47 12 * 4096, bytes := 0 })
def execLnkRxbufWrite (l : LinkId) (v : W64) (s : State) : Host.Outcome State Fault Refusal := s.onDev (fun u => u.rxbufWrite l.val v)

/-- LAND_CLR: every landing slot of the die is freed, unless a loaded schedule has its CE stream (Table 14.14, R499). -/
def Dev.landClr (v : Dev) (die : Nat) (x : W32) : Dev :=
  if bit x.toNat 0 && !(v.strm (144 + die)).loaded then v.modFabD die (fun f => { f with land := f.land.foldl (fun t e => tmod {} t e.1 Land.clear) f.land }) else v
def execLandClr (d : DieId) (v : W32) (s : State) : Host.Outcome State Fault Refusal := s.onDev (fun u => u.landClr d.val v)

end Sys2Proof.Machine
end

