-- ==== Sys2Proof/Machine/Collective.lean ====
section
/-! DEFINITION. The collective engines' route programs (14): CE_SEND, CE_RECV and its toleration, CE_NORM and CE_FENCE. -/

namespace Sys2Proof.Machine

/-! ### Local operands -/

/-- What an operand of a CE entry meets: a stack path error, a scratchpad parity error, or an address that takes no such access. -/
inductive CeBad where
  | path (x : Nat)
  | spad (c a : Nat)
  | refused
  deriving DecidableEq, Repr
def Dev.ceBad (v : Dev) (die : Nat) (a : W64) (n : Nat) (wr : Bool) : Option CeBad :=
  if n = 0 then none
  else if !v.permits die a.toNat n wr false then some .refused
  else match placeOf a.toNat with
  | .stack o => (v.pathAt o n).map CeBad.path
  | .spad c o => if spadBytes < o + n then some .refused else if wr then none else ((v.core c).spadBadIn o n).map (fun x => CeBad.spad c x)
  | .sync _ => none
  | .atomic _ _ => if wr then none else some .refused
  | .version _ => if wr then none else some .refused
  | .hole => some .refused
  | .none => some .refused
/-- The first of a list of operands that meets something: address, bytes, written. -/
def Dev.ceMeets (v : Dev) (die : Nat) (es : List (W64 × Nat × Bool)) : Option CeBad := es.findSome? (fun e => v.ceBad die e.1 e.2.1 e.2.2)
/-- An operand lies on a page with held writes. -/
def Dev.ceHeld (v : Dev) (es : List (W64 × Nat × Bool)) : Bool := es.any (fun e => decide (e.1.toNat < stackEnd) && v.heldIn e.1.toNat e.2.1)
/-- Bytes of a local operand. -/
def Dev.ceRead (v : Dev) (die : Nat) (a : W64) (n : Nat) : List Byte := match (v.rdGlobal die a n (74 + die)).1 with | .ok bs => bs | .err _ => []

/-- A read of a scratchpad by a collective engine goes through the core's window port and is answered with an error, which the engine takes as a
bus error (R304, R305, Table 9.2). No table gives a collective engine's bus error a fault cause, so the cause is a free value (log entry 98). -/
def Dev.ceSpadBad (v : Dev) (c a : Nat) : Dev := v.memParity c false (spadBase + c * 0x2000000 + a)
/-- The head of a CE stream meets an error as it starts (Table 12.5, R304, R511). -/
def Dev.ceStartBad (v : Dev) (k : Nat) (ws : List W64) : CeBad → Dev
  | .path x => v.pathFail k ws x 0
  | .spad c a => (v.ceSpadBad c a).startFail k ws 0 Config.ceBusCode.toNat (w64 ((spadBase + c * 0x2000000 + a) / 64 * 64))
  | .refused => v.faultStream k stBadEntry (v.strm k).next 0#64
/-- An entry in flight meets an error. -/
def Dev.ceFlightBad (v : Dev) (k idx : Nat) (b : CeBad) : Dev :=
  let v1 := v.modFlight k idx (fun f => { f with part := true })
  match b with
  | .path x => (v1.pathError x (strmSrc k)).faultStream k 0x45 idx (w64 x)
  | .spad c a => (v1.ceSpadBad c a).faultStream k Config.ceBusCode.toNat idx (w64 ((spadBase + c * 0x2000000 + a) / 64 * 64))
  | .refused => v1.faultStream k stBadEntry idx 0#64

/-- TYPE of a CE entry as the element types of Table 12.7. -/
def ceTy (ty : Nat) : Nat := if ty = 3 then 4 else ty
/-- Codes of n elements of w bytes. -/
def codesOf (w n : Nat) (bs : List Byte) : List Nat := (List.range n).map (fun i => ofBytes ((bs.drop (i * w)).take w))
/-- Codes as elements of w bytes. -/
def bytesOf (w : Nat) (cs : List Nat) : List Byte := (cs.map (fun c => toBytes c w)).flatten

/-! ### CE_SEND (R500, R501, R510) -/

/-- Blocks of 32 elements under MX. -/
def mxBlocks (f : Nat) (xs : List Num) : List QBlock :=
  (List.range (ceilDiv xs.length 32)).map (fun i =>
    let b := (xs.drop (32 * i)).take 32
    quantBlock f 1 false (.ofInt 1) b (b.map (fun _ => none)))
/-- The element bytes of a chunk, its scale plane, and its count of saturations. -/
def compress (o : CeOps) (bs : List Byte) : List Byte × List Byte × Nat :=
  let xs := (codesOf 4 o.count bs).map dec32
  match o.cfmt with
  | 0 => (bs, [], 0)
  | 1 =>
    let ys := xs.map (fun x => bf16.narrow false x)
    (bytesOf 2 (ys.map (fun y => y.code)), [], min 65535 ((xs.zip ys).filter (fun p => p.1.isFin && p.2.sat)).length)
  | f =>
    let bl := mxBlocks (f + 1) xs
    (bytesOf 1 (bl.map (fun b => b.codes)).flatten, bl.map (fun b => byteOf b.scale), min 65535 (bl.foldl (fun a b => a + (blockStats b).sat) 0))

/-- Cut bytes into packets, none of which leaves its 256-byte grain; `fuel` bounds them. -/
def cutPackets (off : Nat) (bs : List Byte) : Nat → List (Nat × List Byte)
  | 0 => []
  | fuel + 1 => if bs.isEmpty then [] else let n := 256 - off % 256; (off, bs.take n) :: cutPackets (off + n) (bs.drop n) fuel
/-- The packets of a chunk: kind, offset and payload (R500). -/
def cePackets (o : CeOps) (cc : Nat) (el pl : List Byte) (sat : Nat) : List (Nat × Nat × List Byte) :=
  let at0 := offOf o.b
  let cut (a : Nat) (bs : List Byte) : List (Nat × Nat × List Byte) := (cutPackets a bs (bs.length / 256 + 2)).map (fun p => (5, p.1, p.2))
  cut at0 el ++ cut (at0 + cePlaneAt o) pl ++ [(6, at0, doneData (el.length + pl.length) cc o.cfmt sat)]

/-- Deliver a packet the module sends to itself; a held write of it carries the engine's count of packets (R486, R508). -/
def Dev.deliver (v : Dev) (die : Nat) (p : Packet) : Dev :=
  if pKind p = 6 then (v.landDone die (pLid p % 1024) (pCtag p) p.data).2
  else if (v.land die (pLid p % 1024)).judge (pCtag p) = .stray then v.lateDiscard die
  else
    let owner := Owner.packet die .gateway p (v.fabD die).ceSent
    match v.arriveWrite die (pOff p) p.data v.chip (74 + die) false (some owner) with
    | (true, v1) => v1
    | (false, v1) => if v1.moult.held.any (fun h => decide (h.owner = some owner)) then v1 else v1.packetLanded die .gateway p

/-- Send the packets of a chunk; the cause where one finds no route or no link (R487, R489, R511). -/
def Dev.ceSendAll (v : Dev) (die chip lid tag : Nat) : List (Nat × Nat × List Byte) → Option Nat × Dev
  | [] => (none, v)
  | (kind, off, bs) :: ps =>
    if chip = v.chip then
      ((v.deliver die (mkPacket kind chip v.chip die bs.length 128 lid off tag bs)).modFabD die (fun f => { f with ceSent := f.ceSent + 1 })).ceSendAll die chip lid tag ps
    else match v.sendReq die kind chip bs.length 128 lid off tag bs (.chunk die (v.fabD die).ceSent) with
    | (.sent _, v1) => (v1.modFabD die (fun f => { f with ceSent := f.ceSent + 1 })).ceSendAll die chip lid tag ps
    | (.noLink, v1) => (some 0x48, v1)
    | (.denied, v1) => (some Config.routeDeniedCode.toNat, v1)

/-- CE_SEND starts: it reads its elements and sends its chunk; while the link set changes it waits (R488, R500). -/
def Dev.ceSend (v : Dev) (die : Nat) : Dev :=
  let k := 144 + die
  match v.startable k 0x10 with
  | none => v
  | some ws =>
    let o := decCe ws
    let n := o.count * ceBytes o.ty
    let chip := fld o.b 61 48
    let es := [(o.a, n, false)] ++ (if o.ccFrom then [(w64 o.ccaddr, 8, false)] else [])
    if v.ceHeld es || (decide (chip ≠ v.chip) && (v.fabD die).relink) then v
    else match v.ceMeets die es with
    | some b => v.ceStartBad k ws b
    | none =>
      let cc := if o.ccFrom then ofBytes (v.ceRead die (w64 o.ccaddr) 8) % 65536 else o.ccImm
      let c := compress o (v.ceRead die o.a n)
      match v.ceSendAll die chip o.lid o.tag (cePackets o cc c.1 c.2.1 c.2.2) with
      | (some e, v1) => v1.startFail k ws 0 e 0#64
      | (none, v1) => (v1.started k { idx := (v.strm k).next, words := ws, srcDone := true } (o.count = 0)).nextHead k
def execCeSend (d : DieId) (s : State) : Host.Outcome State Fault Refusal := s.onDev (fun v => v.ceSend d.val)

/-! ### CE_RECV (R502 to R506) -/

/-- Landed elements, widened, as codes of TYPE. -/
def Dev.ceLanded (v : Dev) (die : Nat) (o : CeOps) : List Nat :=
  let bs := v.ceRead die o.land (ceElems o)
  match o.cfmt with
  | 0 => codesOf (ceBytes o.ty) o.count bs
  | 1 => (codesOf 2 o.count bs).map (fun c => enc32 (bf16.decode c))
  | f =>
    let pl := v.ceRead die (w64 (o.land.toNat + cePlaneAt o)) (cePlane o)
    let cs := codesOf 1 o.count bs
    (List.range o.count).map (fun i =>
      enc32 (((if f = 2 then e4m3 else e5m2).decode (cs.getD i 0)).mul (decE8m0 (pl.getD (i / 32) 0#8).toNat)))
/-- Elements of SRC as codes. -/
def Dev.ceSource (v : Dev) (die : Nat) (o : CeOps) : List Nat := codesOf (ceBytes o.ty) o.count (v.ceRead die o.b (o.count * ceBytes o.ty))
/-- The local contributor count (R503). -/
def Dev.ccLoc (v : Dev) (die : Nat) (o : CeOps) : Nat :=
  if o.ccOne then 1 else if o.useSrc then ofBytes (v.ceRead die (w64 o.ccaddr) 8) % 65536 else 0
/-- One result as it is written, divided under AVG (R188, R502, R504). -/
def ceResult (o : CeOps) (cc r : Nat) : Nat := if o.avg && decide (cc ≠ 0) then enc32 ((dec32 r).div (.ofInt cc)) else canonEl (ceTy o.ty) r
/-- Landed element l combined with source element s; OP NONE takes the landed one. -/
def ceCombine (o : CeOps) (s l : Nat) : Nat := if o.useSrc && decide (o.op ≠ 0) then elOp (ceTy o.ty) (o.op - 1) s l else l

/-- Operands of a CE_RECV: the landing buffer where it combines, source, result, count word, record. -/
def recvTouch (o : CeOps) (landed : Bool) : List (W64 × Nat × Bool) :=
  let n := o.count * ceBytes o.ty
  (if landed then [(o.land, ceElems o, false), (w64 (o.land.toNat + cePlaneAt o), cePlane o, false)] else []) ++
  (if o.useSrc then [(o.b, n, false)] else []) ++ (if landed || o.useSrc then [(o.a, n, true)] else []) ++
  [(w64 o.ccaddr, 8, false), (w64 o.ccaddr, 8, true)] ++ (if o.statEn then [(w64 o.statrec, 64, true)] else [])

/-- Write the results, none where DST is not written, the count word and the report; the entry is then complete. -/
def Dev.ceFinish (v : Dev) (die : Nat) (f : Flight) (rs : Option (List Nat)) (cc sat : Nat) : Dev :=
  let k := 144 + die
  let o := decCe f.words
  let own := some (Owner.entry k f.idx)
  let bs := bytesOf (ceBytes o.ty) (rs.getD [])
  let v1 := if bs.isEmpty then v else (v.wrGlobal die o.a bs (74 + die) own).2
  let v2 := (v1.wrGlobal die (w64 o.ccaddr) (toBytes cc 8) (74 + die) own).2
  let v3 := if o.statEn && decide (o.count ≠ 0) then
      v2.submit (.merge o.statrec { plainStats (elNums (ceTy o.ty) (rs.getD []).length bs) with sat := sat }) (74 + die) own else v2
  v3.modFlight k f.idx (fun g => { g with wait := .none, srcDone := true })

/-- The chunk has landed: combine it, or fault where it is not the chunk expected (R502 to R504, R506). -/
def Dev.ceCombineNow (v : Dev) (die : Nat) (f : Flight) : Dev :=
  let k := 144 + die
  let o := decCe f.words
  let l := v.land die o.lid
  if l.cfmt ≠ o.cfmt ∨ l.announced ≠ some (ceSent o) then (v.modFlight k f.idx (fun g => { g with part := true })).faultStream k 0x46 f.idx 0#64
  else if v.ceHeld (recvTouch o true) then v
  else match v.ceMeets die (recvTouch o true) with
  | some b => v.ceFlightBad k f.idx b
  | none =>
    let cc := satAdd (v.ccLoc die o) l.cc 65535
    let ls := v.ceLanded die o
    let ss := if o.useSrc then v.ceSource die o else []
    let rs := (List.range o.count).map (fun i => ceResult o cc (ceCombine o (ss.getD i 0) (ls.getD i 0)))
    (v.ceFinish die f (some rs) cc l.sat).modLand die o.lid Land.free

/-- The entry in flight that waits for its slot. -/
def Dev.ceWaiting (v : Dev) (die : Nat) : Option Flight := (v.strm (144 + die)).flights.find? (fun f => decide (f.wait = .recv) && !f.withdrawn && !f.part)

/-- CE_RECV: the waiting entry's chunk has landed and is combined; with none waiting, the head starts (R502). -/
def Dev.ceRecv (v : Dev) (die : Nat) : Dev :=
  let k := 144 + die
  let go (u : Dev) (f : Flight) : Dev := if u.slotReady die f.words then u.ceCombineNow die f else u
  match v.ceWaiting die with
  | some f => go v f
  | none =>
    match v.startable k 0x11 with
    | none => v
    | some ws =>
      let f : Flight := { idx := (v.strm k).next, words := ws, wait := .recv }
      (go (v.started k f ((decCe ws).count = 0)) f).nextHead k
def execCeRecv (d : DieId) (s : State) : Host.Outcome State Fault Refusal := s.onDev (fun v => v.ceRecv d.val)

/-- CE_TOLERATED: TOLWAIT epochs of active count have passed and the entry proceeds without its chunk (R505). -/
def Dev.ceTolerated (v : Dev) (die : Nat) : Dev :=
  match v.ceWaiting die with
  | none => v
  | some f =>
    let o := decCe f.words
    if !o.tol || v.slotReady die f.words || decide (f.tol < o.tolwait * 4096) || v.ceHeld (recvTouch o false) then v
    else match v.ceMeets die (recvTouch o false) with
    | some b => v.ceFlightBad (144 + die) f.idx b
    | none =>
      let cc := v.ccLoc die o
      let rs := if o.useSrc then some ((v.ceSource die o).map (ceResult o cc)) else none
      let v1 := v.ceFinish die f rs cc (v.land die o.lid).sat
      let v2 := v1.modLand die o.lid (fun l => { l with abandoned := true, atag := o.tag, atagValid := true })
      (v2.modFabD die (fun q => { q with tolerated := satAdd q.tolerated 1 4095 })).ev die (74 + die) 0x048 (die + o.lid * 65536) o.tag
def execCeTolerated (d : DieId) (s : State) : Host.Outcome State Fault Refusal := s.onDev (fun v => v.ceTolerated d.val)

/-! ### CE_NORM (R507) and CE_FENCE (R508) -/

/-- CE_NORM: the sum of NLOC FP64 words in ascending address order. -/
def Dev.ceNorm (v : Dev) (die : Nat) : Dev :=
  let k := 144 + die
  match v.startable k 0x12 with
  | none => v
  | some ws =>
    let o := decCe ws
    let n := o.count % 65536
    let es := [(o.b, 8 * n, false), (o.a, 8, true)]
    if v.ceHeld es then v
    else match v.ceMeets die es with
    | some b => v.ceStartBad k ws b
    | none =>
      let sum := sum64 ((codesOf 8 n (v.ceRead die o.b (8 * n))).map fp64.decode)
      let idx := (v.strm k).next
      (((v.wrGlobal die o.a (toBytes (fp64.enc sum) 8) (74 + die) (some (.entry k idx))).2).started k { idx := idx, words := ws, srcDone := true } (n = 0)).nextHead k
def execCeNorm (d : DieId) (s : State) : Host.Outcome State Fault Refusal := s.onDev (fun v => v.ceNorm d.val)

/-- A packet of a chunk, sent before number n. -/
def ReqPurpose.chunkBefore (r : ReqPurpose) (n : Nat) : Bool :=
  match r with
  | .chunk _ q => decide (q < n)
  | .dmaRead _ _ _ _ => false
  | .dmaWrite _ _ _ _ => false
  | .sclLoad _ _ => false
  | .sclStore _ _ _ => false
  | .sealRead _ _ _ => false
  | .gone => false
/-- A held write of a packet that this module sent itself through the engine of a die, before number n. -/
def HeldWrite.ownBefore (h : HeldWrite) (die chip n : Nat) : Bool :=
  match h.owner with
  | some (.packet d _ p q) => decide (d = die) && decide (pSchip p = chip) && decide (q < n)
  | some (.entry _ _) => false
  | some (.dma _ _ _ _) => false
  | some (.ctx _ _) => false
  | none => false
/-- A packet of the engine sent before number n has not been acknowledged (R508). -/
def Dev.ceUnacked (v : Dev) (die n : Nat) : Bool :=
  (v.fabD die).reqs.any (fun r => r.purpose.chunkBefore n) || v.moult.held.any (fun h => h.ownBefore die v.chip n)
/-- The waiting fence ends once all it waits for is acknowledged or timed out; a loss faults the stream, or is posted under W4 [61]. -/
def Dev.fenceEnd (v : Dev) (die : Nat) (f : Flight) : Dev :=
  let k := 144 + die
  if v.ceUnacked die f.step then v
  else
    let lost := (v.fabD die).ceLost.filter (fun x => decide (x.1 < f.step))
    let v1 := v.modFabD die (fun q => { q with ceLost := q.ceLost.filter (fun x => !decide (x.1 < f.step)) })
    let done (u : Dev) : Dev := u.modFlight k f.idx (fun g => { g with wait := .none })
    match lost with
    | [] => done v1
    | x :: _ =>
      if (decCe f.words).tol then done ((v1.modFabD die (fun q => { q with timeout := true })).ev die (74 + die) 0x042 x.2 (74 + die))
      else (v1.modFlight k f.idx (fun g => { g with part := true })).faultStream k 0x47 f.idx 0#64
/-- CE_FENCE: the fence in flight ends, or the head starts. -/
def Dev.ceFence (v : Dev) (die : Nat) : Dev :=
  let k := 144 + die
  match (v.strm k).flights.find? (fun f => decide (f.wait = .fence) && !f.withdrawn && !f.part) with
  | some f => v.fenceEnd die f
  | none =>
    match v.startable k 0x13 with
    | none => v
    | some ws =>
      let f : Flight := { idx := (v.strm k).next, words := ws, wait := .fence, step := (v.fabD die).ceSent }
      ((v.started k f true).fenceEnd die f).nextHead k
def execCeFence (d : DieId) (s : State) : Host.Outcome State Fault Refusal := s.onDev (fun v => v.ceFence d.val)

end Sys2Proof.Machine
end

