-- ==== Sys2Proof/Machine/Sha.lean ====
section
/-! DEFINITION. SHA-256 of FIPS 180-4, which SE_DIGEST, the Moult copiers and Forzoevo use (R435, R574). Its constants are computed from
what they are by definition: the first 32 bits of the fractional parts of roots of primes. -/

namespace Sys2Proof.Machine

/-! ### Constants -/

/-- The largest r below 2^k above a part already found with r^e ≤ n, bit by bit. -/
def rootBelow (e n : Nat) : Nat → Nat → Nat
  | 0, r => r
  | k + 1, r => bif Nat.ble ((r + 2 ^ k) ^ e) n then rootBelow e n k (r + 2 ^ k) else rootBelow e n k r
/-- The first 32 bits of the fractional part of the e-th root of p, for roots below 32. -/
def rootFraction (e p : Nat) : W32 := w32 (rootBelow e (p * 2 ^ (32 * e)) 37 0)
/-- No number from 2 to below n divides n. -/
def isPrime (n : Nat) : Bool := Nat.ble 2 n && (List.range n).all (fun d => Nat.ble d 1 || !Nat.beq (n % d) 0)
/-- The first n primes, all below 312 where n is at most 64. -/
def primes (n : Nat) : List Nat := ((List.range 312).filter isPrime).take n
/-- The constant of each of the 64 rounds, from cube roots. -/
def roundConstants : List W32 := (primes 64).map (rootFraction 3)

/-- The eight chaining words. -/
structure Chain where
  a : W32
  b : W32
  c : W32
  d : W32
  e : W32
  f : W32
  g : W32
  h : W32
  deriving DecidableEq, Repr

/-- The chaining words before the first block, from square roots. -/
def Chain.start : Chain :=
  let w (p : Nat) : W32 := rootFraction 2 p
  ⟨w 2, w 3, w 5, w 7, w 11, w 13, w 17, w 19⟩
def Chain.words (s : Chain) : List W32 := [s.a, s.b, s.c, s.d, s.e, s.f, s.g, s.h]
/-- Word by word sum. -/
def Chain.plus (s t : Chain) : Chain := ⟨s.a + t.a, s.b + t.b, s.c + t.c, s.d + t.d, s.e + t.e, s.f + t.f, s.g + t.g, s.h + t.h⟩

/-! ### Rounds -/

/-- A word turned right by each of some amounts, the results combined by exclusive or; a last one shifted instead where `s` is not 0. -/
def mixTurns (rs : List Nat) (s : Nat) (x : W32) : W32 :=
  rs.foldl (fun acc r => acc ^^^ x.rotateRight r) (if s = 0 then 0#32 else x >>> s)
/-- Each bit from y where x has a 1, else from z. -/
def pickBits (x y z : W32) : W32 := z ^^^ (x &&& (y ^^^ z))
/-- Each bit as two of three have it. -/
def voteBits (x y z : W32) : W32 := (x &&& (y ||| z)) ||| (y &&& z)

/-- A round with the sum of its constant and message word. -/
def Chain.round (s : Chain) (kw : W32) : Chain :=
  let t := kw + pickBits s.e s.f s.g + mixTurns [6, 11, 25] 0 s.e + s.h
  ⟨t + voteBits s.a s.b s.c + mixTurns [2, 13, 22] 0 s.a, s.a, s.b, s.c, s.d + t, s.e, s.f, s.g⟩
/-- The message word sixteen places after the head of a window of sixteen. -/
def laterWord (win : List W32) : W32 :=
  let at' (i : Nat) : W32 := win.getD i 0#32
  at' 0 + at' 9 + mixTurns [7, 18] 3 (at' 1) + mixTurns [17, 19] 10 (at' 14)
/-- The rounds of a list of constants, over a window of message words that moves along. -/
def Chain.rounds (s : Chain) : List W32 → List W32 → Chain
  | [], _ => s
  | k :: ks, win => (s.round (k + win.headD 0#32)).rounds ks (win.tail ++ [laterWord win])

/-! ### Messages -/

/-- n words of a byte list, each most significant byte first. -/
def bigEndian : Nat → List Byte → List W32
  | 0, _ => []
  | n + 1, bs => w32 (ofBytes (bs.take 4).reverse) :: bigEndian n (bs.drop 4)
/-- The chaining words after one more block of 64 bytes. -/
def Chain.absorb (s : Chain) (block : List Byte) : Chain := s.plus (s.rounds roundConstants (bigEndian 16 block))
/-- The chaining words after n blocks. -/
def Chain.absorbAll (s : Chain) : Nat → List Byte → Chain
  | 0, _ => s
  | n + 1, bs => (s.absorb (bs.take 64)).absorbAll n (bs.drop 64)

/-- What follows a message of n bytes: a 1 bit, zeros up to 8 bytes before a block's end, and the length in bits. -/
def padding (n : Nat) : List Byte := 0x80#8 :: List.replicate ((119 - n % 64) % 64) 0#8 ++ (toBytes (8 * n) 8).reverse
/-- The digest's 32 bytes in standard output order. -/
def sha256 (bs : List Byte) : List Byte :=
  (Chain.start.absorbAll ((bs.length + 72) / 64) (bs ++ padding bs.length)).words.flatMap (fun w => (toBytes w.toNat 4).reverse)

end Sys2Proof.Machine
end

