-- ==== Sys2Proof/Machine/Stacks.lean ====
section
/-! DEFINITION. The stacks (12): the SE operations, atomics, tasks of the channel engines, refresh, retraining, the map and its registers. -/

namespace Sys2Proof.Machine

/-! ### SE operations (R431 to R438) -/

/-- The bytes SE_FILL writes from offset a: byte (x mod 8) of the pattern at offset x. -/
def fillBytes (pat : W64) (a n : Nat) : List Byte := (List.range n).map (fun i => byteOf (pat.toNat / 256 ^ ((a + i) % 8)))

/-- SE_FILL (Table 12.8); it has no source operand. -/
def Dev.seFill (v : Dev) (k : Nat) : Dev :=
  v.seRun k 0x10 (fun ws => (decSe ws).n = 0) (fun _ => true) (fun ws => [((decSe ws).dst.toNat, (decSe ws).n)]) (fun u idx ws =>
    let o := decSe ws
    u.stackWrite o.dst.toNat (fillBytes o.aux o.dst.toNat o.n) (strmSrc k) (some (.entry k idx)))
def execSeFill (k : StackId) (s : State) : Host.Outcome State Fault Refusal := s.onDev (fun v => v.seFill (146 + k.val))

/-- SE_COPY (Table 12.8); its extents share no byte. -/
def Dev.seCopy (v : Dev) (k : Nat) : Dev :=
  v.seRun k 0x11 (fun ws => (decSe ws).n = 0) (fun _ => false) (fun ws => [((decSe ws).src.toNat, (decSe ws).n), ((decSe ws).dst.toNat, (decSe ws).n)]) (fun u idx ws =>
    let o := decSe ws
    u.stackWrite o.dst.toNat (u.stk8 o.src.toNat o.n) (strmSrc k) (some (.entry k idx)))
def execSeCopy (k : StackId) (s : State) : Host.Outcome State Fault Refusal := s.onDev (fun v => v.seCopy (146 + k.val))

/-- SE_REDUCE (R434). -/
def execSeReduce (k : StackId) (s : State) : Host.Outcome State Fault Refusal :=
  s.onDev (fun v => v.seRun (146 + k.val) 0x12 (fun ws => (decSe ws).n = 0) (fun _ => false) (redTouch false) (fun u idx ws => u.seReduce false (146 + k.val) idx ws))

/-- The digests of SE_DIGEST, in the order they are written: each chunk's, then the root's where FLAG asks for it (R435). -/
def digestBytes (o : SeOps) (msg : List Byte) : List Byte :=
  let c := 2 ^ o.clog
  let ds := ((List.range o.chunks).map (fun i => sha256 ((msg.drop (i * c)).take c))).flatten
  if o.flag then ds ++ sha256 ds else ds
/-- SE_DIGEST (R435). -/
def Dev.seDigest (v : Dev) (k : Nat) : Dev :=
  v.seRun k 0x13 (fun ws => (decSe ws).n = 0) (fun _ => false)
    (fun ws => let o := decSe ws; [(o.src.toNat, o.n), (o.aux.toNat, 32 * o.chunks + 32 * b2n o.flag)]) (fun u idx ws =>
    let o := decSe ws
    u.stackWrite o.aux.toNat (digestBytes o (u.stk8 o.src.toNat o.n)) (strmSrc k) (some (.entry k idx)))
def execSeDigest (k : StackId) (s : State) : Host.Outcome State Fault Refusal := s.onDev (fun v => v.seDigest (146 + k.val))

/-- The report of SE_STAT: blocks of consecutive elements under the format and scheme of the scale record (R436). -/
def seStats (r : ScaleRec) (xs : List Num) : Stats :=
  let l := if r.scheme = 0 then xs.length else blockLen r.scheme
  (List.range (ceilDiv xs.length l)).foldl (fun a i =>
    let b := (xs.drop (i * l)).take l
    joinStats a (blockStats (quantBlock r.fmt r.scheme false (dec32 r.tUsed) b (b.map (fun _ => none))))) {}
/-- SE_STAT (R436). -/
def Dev.seStat (v : Dev) (k : Nat) : Dev :=
  v.seRun k 0x14 (fun ws => (decSe ws).n = 0) (fun _ => false)
    (fun ws => let o := decSe ws; [(o.src.toNat, o.n * elBytes o.ty), (o.statrec.toNat, 64), (o.aux.toNat, 128)]) (fun u idx ws =>
    let o := decSe ws
    u.submit (.merge o.statrec.toNat (seStats (u.scaleRec o.aux.toNat) (elNums o.ty o.n (u.stk8 o.src.toNat (o.n * elBytes o.ty)))))
      (strmSrc k) (some (.entry k idx)))
def execSeStat (k : StackId) (s : State) : Host.Outcome State Fault Refusal := s.onDev (fun v => v.seStat (146 + k.val))

/-- SE_SCUPD (R234, R436): it has no extent, and N is no field of it. -/
def Dev.seScupd (v : Dev) (k : Nat) : Dev :=
  v.seRun k 0x15 (fun _ => false) (fun _ => false) (fun ws => [((decSe ws).statrec.toNat, 64), ((decSe ws).aux.toNat, 128)]) (fun u idx ws =>
    u.scaleUpdate (decSe ws).statrec.toNat (decSe ws).aux.toNat (strmSrc k) (some (.entry k idx)))
def execSeScupd (k : StackId) (s : State) : Host.Outcome State Fault Refusal := s.onDev (fun v => v.seScupd (146 + k.val))

/-! ### Atomics and engine tasks (R426 to R430) -/

/-- A requester that is neither a link, the gateway nor the host (R676). -/
def ownRequester (req : Nat) : Bool := decide (req < 56) || req = 74 || req = 75

/-- A unit's write at an address in an atomic window; one that its region table refuses is discarded (R315, R427 to R430). -/
def Dev.atomicWrite (v : Dev) (die req : Nat) (a : W64) (data : List Byte) : Dev :=
  match placeOf a.toNat with
  | .atomic _ b => if v.queueFull b data.length then v else if ownRequester req && v.permits die a.toNat data.length true false then (v.wrModule die a.toNat data req none none).2 else v
  | _ => v
def execAtomicWrite (d : DieId) (req : Requester) (a : W64) (data : List Byte) (s : State) : Host.Outcome State Fault Refusal :=
  s.onDev (fun v => v.atomicWrite d.val req a data)

/-- The granules of stack memory a task touches. -/
def taskSpans : EngTask → List (Nat × Nat)
  | .write off data => [(off, data.length)]
  | .copy dst src => [(src, 64), (dst, 64)]
  | .fill dst _ => [(dst, 64)]
  | .atomic _ off data => [(off, data.length)]
  | .merge r _ => [(r, 64)]
  | .version r _ => [(r, 64)]

/-- The task has the form of its kind: one granule, an atomic as R429 asks, a version operation as R462 does. -/
def taskGood : EngTask → Bool
  | .write off data => !data.isEmpty && decide (off / 64 = (off + data.length - 1) / 64)
  | .copy dst src => dst % 64 = 0 && src % 64 = 0
  | .fill dst _ => dst % 64 = 0
  | .atomic op off data => atomicGood op off data.length
  | .merge r _ => r % 64 = 0
  | .version r d => r % 64 = 0 && decide (bits d 3 2 = 1 ∨ bits d 3 2 = 2) && decide (bits d 31 4 = 0)

/-- A granule task arrives at its channel's engine; while the queue is full its requester waits (R426, R332, R417, R573). -/
def Dev.engineTask (v : Dev) (ch : Nat) (t : EngTask) : Dev :=
  if !taskGood t || decide (stackEnd ≤ taskDst t) || decide (v.hbm.chanOf (taskDst t) ≠ ch) || decide (64 ≤ v.slots ch) then v
  else match (taskSpans t).findSome? (fun e => v.pathAt e.1 e.2) with
  | some x => v.pathError x (48 + ch / 32)
  | none => ((v.forAll (taskSpans t) (fun u e => u.softErrs e.1 e.2)).submit t (48 + ch / 32) none).releaseHeld
def execEngineTask (ch : ChanId) (t : EngTask) (s : State) : Host.Outcome State Fault Refusal := s.onDev (fun v => v.engineTask ch.val t)

/-! ### Maintenance (R409 to R415) -/

/-- HBM_MAINT fields in force (Table 12.17). -/
def Hbm.win (h : Hbm) : Bool := fbit h.maint 0
def Hbm.refPeriod (h : Hbm) : Nat := 4 * 2 ^ fld h.maint 2 1
def Hbm.refLen (h : Hbm) : Nat := fld h.maint 7 3
def Hbm.refOffset (h : Hbm) : Nat := fld h.maint 11 8
def Hbm.trnPeriod (h : Hbm) : Nat := fld h.maint 19 12
def Hbm.trnOffset (h : Hbm) : Nat := fld h.maint 31 20
def Hbm.trnLen (h : Hbm) : Nat := fld h.maint 39 32

/-- Maintenance keeps to windows (R409, R410). -/
def Dev.windowed (v : Dev) : Bool := v.hbm.win && v.ft.locked && !v.ft.frozen
/-- The count is at a refresh-window tick. -/
def Dev.inRefresh (v : Dev) : Bool :=
  let x := v.ft.now % v.hbm.refPeriod
  decide (v.hbm.refOffset ≤ x) && decide (x < v.hbm.refOffset + v.hbm.refLen)
/-- The count is in a retrain window. -/
def Dev.inRetrain (v : Dev) : Bool :=
  let x := v.ft.now % 4096
  v.ft.now / 4096 % v.hbm.trnPeriod = 0 && decide (v.hbm.trnOffset ≤ x) && decide (x < v.hbm.trnOffset + v.hbm.trnLen)
/-- Channels of a die. -/
def dieChans (die : Nat) : List Nat := (List.range 128).map (fun i => 128 * die + i)
/-- The channel carries data. -/
def Dev.chanLive (v : Dev) (ch : Nat) : Bool := !v.hbm.retired.contains ch && (v.chan ch).trained && !(v.chan ch).failed

/-- REFRESH_WINDOW: in a refresh-window tick the die's channels refresh, the deferred ones too (R410). -/
def Dev.refreshWindow (v : Dev) (die : Nat) : Dev :=
  if v.windowed && v.inRefresh then v.forAll (dieChans die) (fun u ch => u.modChan ch (fun c => { c with deferred := 0 })) else v
def execRefreshWindow (d : DieId) (s : State) : Host.Outcome State Fault Refusal := s.onDev (fun v => v.refreshWindow d.val)

/-- REFRESH_DUE: a refresh runs, or is deferred outside a window; one already deferred can be deferred no longer and runs (R409, R410). -/
def Dev.refreshDue (v : Dev) (ch : Nat) : Dev :=
  if v.windowed && !v.inRefresh then v.modChan ch (fun c => { c with deferred := if c.deferred = 0 then 1 else c.deferred - 1 }) else v
def execRefreshDue (ch : ChanId) (s : State) : Host.Outcome State Fault Refusal := s.onDev (fun v => v.refreshDue ch.val)

/-- RETRAIN_WINDOW: every channel of the die retrains at the first tick of a retrain window (R411). -/
def Dev.retrainWindow (v : Dev) (die : Nat) : Dev :=
  if v.windowed && v.inRetrain && decide (v.ft.now % 4096 = v.hbm.trnOffset) then
    v.forAll (dieChans die) (fun u ch => if u.chanLive ch then u.modChan ch (fun c => { c with retraining := true }) else u)
  else v
def execRetrainWindow (d : DieId) (s : State) : Host.Outcome State Fault Refusal := s.onDev (fun v => v.retrainWindow d.val)

/-- The spare a failing lane takes: a data lane's, or that of its command-address group (R414); none where none is left. `caSpares` holds
one bit for each command-address group. -/
def Chan.spare (c : Chan) (isCa : Bool) (group : Nat) : Option Chan :=
  if isCa then (if bit c.caSpares (group % 2) then none else some { c with caSpares := c.caSpares + 2 ^ (group % 2) })
  else (if c.dqSpares < 2 then some { c with dqSpares := c.dqSpares + 1 } else none)

/-- A channel retrains on its own: RETRAINS and HBM_RETRAIN (R412). -/
def Dev.retrain (v : Dev) (ch cause : Nat) : Dev :=
  (v.modChan ch (fun c => { c with retraining := true, retrains := satAdd c.retrains 1 255 })).ev (ch / 128) (48 + ch / 32) 0x033 ch cause

/-- A lane is failing (R414): 16 parity errors within one second, or a margin below the limit. -/
def laneFailing : LaneWhy → Bool
  | .margin => true
  | .parity ns =>
    let ts := sortBy id ns
    (ts.zip (ts.drop 15)).any (fun x => decide (x.2 - x.1 < 1000000000))
/-- A failing lane gives way to a spare, which Forzoevo keeps; with none left the channel sets RETIRE_PENDING (R414, R415). -/
def swapLane (ch : Nat) (isCa : Bool) (group lane : Nat) (m : Mgmt) (v : Dev) : Mgmt × Dev :=
  match (v.chan ch).spare isCa group with
  | some c => ({ m with laneSpares := tset {} m.laneSpares ch { dqSpares := c.dqSpares, caSpares := c.caSpares } }, v.modChan ch (fun _ => c))
  | none => (m, (v.modChan ch (fun c => { c with retirePending := true })).ev (ch / 128) (48 + ch / 32) 0x034 ch lane)
/-- A lane of a channel fails: where a spare is left, the channel retrains with it (R412, R414, R415). -/
def laneFails (ch : Nat) (isCa : Bool) (group lane : Nat) (m : Mgmt) (v : Dev) : Mgmt × Dev :=
  let r := swapLane ch isCa group lane m v
  (r.1, if ((v.chan ch).spare isCa group).isSome then r.2.retrain ch 1 else r.2)

/-- UNSCHEDULED_RETRAIN (R409, R411, R412, R414, R415). -/
def unscheduled (ch : Nat) (cause : RetrainCause) (m : Mgmt) (v : Dev) : Mgmt × Dev :=
  if !v.chanLive ch then (m, v)
  else match cause with
  | .due => (m, if v.windowed && v.inRetrain then v else v.retrain ch 0)
  | .drift => (m, v.retrain ch 2)
  | .lane isCa group lane why => if laneFailing why then laneFails ch isCa group lane m v else (m, v)
def execUnscheduledRetrain (ch : ChanId) (cause : RetrainCause) (s : State) : Host.Outcome State Fault Refusal := s.onBoth (unscheduled ch.val cause)

/-- RETRAIN_END: the waiting accesses proceed; a training that failed outright sets FAILED (R413, R415). -/
def Dev.retrainEnd (v : Dev) (ch : Nat) (trained : Bool) : Dev :=
  if !(v.chan ch).retraining then v
  else
    let v1 := v.modChan ch (fun c => { c with retraining := false, queue := [], trained := trained, failed := c.failed || !trained })
    if trained then v1 else v1.modStk (ch / 32) (fun k => { k with trained := false })
def execRetrainEnd (ch : ChanId) (trained : Bool) (s : State) : Host.Outcome State Fault Refusal := s.onDev (fun v => v.retrainEnd ch.val trained)

/-! ### The map and its registers (R440, R441) -/

/-- No schedule is loaded, no engine queue holds a task, those of a fill in progress included, and no DMA ring channel is running. -/
def Dev.mapQuiet (v : Dev) : Bool :=
  !v.hbm.busy && v.scheds.all (fun e => decide (e.2.phase = .none)) && v.hbm.chans.all (fun e => e.2.queue.isEmpty) && v.moult.held.isEmpty &&
  v.cores.all (fun e => e.2.dma.chans.all (fun x => !bit e.2.dma.ringChans x.1 || decide (x.2.phase = .idle) || decide (x.2.phase = .stopped)))

/-- HBM_MAP_CFG_WRITE: a change of MODE rebuilds the map and zero-fills the stacks (R440). -/
def Dev.mapCfgWrite (v : Dev) (x : W32) : Dev :=
  let m := bits x.toNat 0 0
  if !v.mapQuiet then v.modHbm (fun h => { h with refused := true })
  else if m = v.hbm.mode then v
  else v.modHbm (fun h => { h with mode := m, mem := [], stkBad := [], stkSoft := [], busy := true })
def execHbmMapCfgWrite (v : W32) (s : State) : Host.Outcome State Fault Refusal := s.onDev (fun u => u.mapCfgWrite v)

/-- A value HBM_MAINT refuses (R441). -/
def maintBad (x : W64) : Bool :=
  let p := 4 * 2 ^ fld x 2 1
  fld x 2 1 = 3 || decide (8 * fld x 7 3 < p) || decide (p < 2 * fld x 7 3) || decide (p < fld x 11 8 + fld x 7 3) || decide (fld x 39 32 < 5) ||
  decide (4096 < fld x 31 20 + fld x 39 32) || fld x 19 12 = 0
/-- HBM_MAINT_WRITE: a value taken governs from the next epoch boundary (R441). -/
def Dev.maintWrite (v : Dev) (x : W64) : Dev :=
  if maintBad x then v else v.modHbm (fun h => { h with maintWritten := x &&& 0xFFFFFFFFFF#64 })
def execHbmMaintWrite (v : W64) (s : State) : Host.Outcome State Fault Refusal := s.onDev (fun u => u.maintWrite v)

end Sys2Proof.Machine
end

