-- ==== Sys2Proof/Machine/Weather.lean ====
section
/-! DEFINITION. Fabric time, the master's merge and the weather messages (02), and the epoch's effect on running schedules. -/

namespace Sys2Proof.Machine

/-- Ticks of an epoch (R29). -/
def epoch : Nat := 4096

/-- Fields of FAB_TIME_CFG and FAB_TIME_CHIPS of the module's timing unit (R32, Tables 2.9, 2.10). -/
def Dev.role (v : Dev) : Nat := let r := bits (v.ftReg 0).cfg.toNat 1 0; if r = 3 then 0 else r
def Dev.thawDold (v : Dev) : Nat := max 1 (bits (v.ftReg 0).cfg.toNat 7 4)
def Dev.doldMax (v : Dev) : Nat := max 1 (bits (v.ftReg 0).cfg.toNat 15 8)
def Dev.masterChip (v : Dev) : Nat := bits (v.ftReg 0).chips.toNat 13 0
def Dev.standbyChip (v : Dev) : Nat := bits (v.ftReg 0).chips.toNat 29 16

/-- A weather message (Table 2.1). -/
def mkW (ty chip arg value : Nat) : WMsg := ⟨w64 (ty * 2 ^ 60 + chip % 16384 * 2 ^ 46 + arg % 2 ^ 32), w64 value⟩
def wTypeN (m : WMsg) : Nat := fld m.w0 63 60
def wChip (m : WMsg) : Nat := fld m.w0 59 46
def wArg (m : WMsg) : Nat := fld m.w0 31 0
def wVal (m : WMsg) : Nat := m.w1.toNat

/-- PWR_STATE.STATE (Table 15.1). -/
def Dev.pstate (v : Dev) : Nat :=
  if v.pwr.tripped then 4 else if v.pwr.starting then 5 else if v.pwr.chrysalis || v.pwr.exiting then 3 else if v.pwr.squall then 2
  else if v.ft.level ≠ 0 then 1 else 0
/-- POWER_STATE is posted when STATE has changed (R518). -/
def Dev.powerEdge (old v : Dev) : Dev :=
  if old.pstate = v.pstate then v else v.evMgmt 0x060 (old.pstate + v.pstate * 16 + v.ft.level * 256) 0

/-- The reference link: the lowest-numbered trained link of die 0 on which the master's messages have come, and before any has come the
lowest-numbered trained one; when it fails, the next, and the count does not step (R34; DEDUCED, log entry 91). -/
def Dev.refLink (v : Dev) : Option Nat :=
  let up := (List.range 9).filter (fun l => decide ((v.linkN l).state = 2))
  match up.find? (fun l => v.ft.heardOn.contains l) with
  | some l => some l
  | none => up.head?
/-- Send a weather message on the reference link (R493); a tripped module sends none (R550). -/
def Dev.sendW (v : Dev) (m : WMsg) : Dev := if v.pwr.tripped then v else v.send (.weather m v.refLink)

/-- READY of a STATE message (02, after Table 2.2). -/
def Dev.ready (v : Dev) : Bool := !v.pwr.chrysalis && !v.pwr.exiting

/-! ### The master's records -/

def Dev.member (v : Dev) (chip : Nat) : Member := tget {} v.mst.members chip
def Dev.modMember (v : Dev) (chip : Nat) (g : Member → Member) : Dev := v.modMst (fun m => { m with members := tmod {} m.members chip g })
/-- Members present (R70, R73): heard of, not absent, and past the next cut-off after a return. -/
def Dev.present (v : Dev) : List (Nat × Member) := v.mst.members.filter (fun e => e.2.known && !e.2.absent && !e.2.rejoining)

/-- The boundary a report is merged for (R55). -/
def Dev.reportFor (v : Dev) : Nat :=
  let e := (v.ft.now + 64 + epoch - 1) / epoch * epoch
  if v.ft.cutAt = some (e - 64) then e + epoch else e

/-- The freeze of a unit's count (R65). -/
def Dev.freezeNow (v : Dev) : Dev := v.modFt (fun f => { f with frozen := true, freezeAt := none })
/-- The lower of two freeze ticks: of two orders for one freeze, the earlier tick stops the count (DEDUCED, log entry 91). -/
def firstTf (t : Option Nat) (tf : Nat) : Nat := match t with
  | some a => min a tf
  | none => tf
/-- Freeze at tf, or at once when the count has reached it (R65). -/
def Dev.freezeTo (v : Dev) (tf : Nat) : Dev :=
  if tf ≤ v.ft.now then (v.modFt (fun f => { f with tf := some (firstTf f.tf tf) })).freezeNow
  else v.modFt (fun f => { f with tf := some (firstTf f.tf tf), freezeAt := (if f.frozen then none else some (firstTf f.freezeAt tf)) })

/-- The master orders a freeze (R68). An order given while the slice is already freezing keeps what the members have reported since. -/
def Dev.masterFreeze (v : Dev) (tf : Nat) : Dev :=
  let v1 := (v.sendW (mkW 7 v.chip 0 tf)).modMst (fun m => { m with
    freezing := some (firstTf m.freezing tf),
    members := if m.freezing.isSome then m.members else m.members.map (fun e => (e.1, { e.2 with ready := false, frozenCount := none })) })
  v1.freezeTo tf

/-- The master, or a standby that listens, takes a FREQ_REQ (R56). -/
def Dev.takeFreqReq (v : Dev) (chip arg : Nat) : Dev :=
  if (v.member chip).absent then v else v.modMember chip (fun m => { m with known := true, level := bits arg 2 0, reason := bits arg 6 4 })

/-- The master takes a LATE report (R55). -/
def Dev.takeLate (v : Dev) (chip arg : Nat) : Dev :=
  if (v.member chip).absent then v
  else (v.modMember chip (fun m => { m with known := true })).modMst (fun m => { m with lates := m.lates ++ [{ boundary := v.reportFor, slip := arg, chip := chip }] })

/-- The master takes a STATE (R68, R70, R73). A member's first STATE that shows Chrysalis has FREEZE sent; those that follow in the same
Chrysalis do not (DEDUCED from Table 2.7, log entry 91). -/
def Dev.takeState (v : Dev) (chip arg value : Nat) : Dev :=
  let m := v.member chip
  if m.absent then (if bit arg 6 then v.modMember chip (fun _ => { known := true, rejoining := true }) else v)
  else
    let chrys := decide (bits arg 3 0 = 3)
    let v1 := v.modMember chip (fun q => { q with known := true, chrysalis := chrys })
    let v2 := if v1.ft.masterActive && chrys && !m.chrysalis then
      v1.masterFreeze (if chip = v1.chip then v1.ft.now else v1.ft.now + 4) else v1
    if v2.mst.freezing.isSome then
      v2.modMember chip (fun q => { q with ready := bit arg 5, frozenCount := if bit arg 4 then some value else q.frozenCount })
    else v2

/-- A member message of this module: sent, and taken at once when it is itself the master. -/
def Dev.sendLate (v : Dev) (slip k : Nat) : Dev :=
  let v1 := v.sendW (mkW 3 v.chip slip (strmKind k * 8192 + strmUnit k * 128))
  if v1.ft.masterActive then v1.takeLate v1.chip slip else v1
def Dev.sendState (v : Dev) : Dev :=
  let fresh := v.ft.locked && decide (0 < v.ft.freshLeft)
  let arg := v.pstate + b2n v.ft.frozen * 16 + b2n v.ready * 32 + b2n fresh * 64
  let v1 := (v.sendW (mkW 4 v.chip arg v.ft.now)).modFt (fun f => { f with freshLeft := f.freshLeft - b2n fresh })
  if v1.ft.masterActive then v1.takeState v1.chip arg v1.ft.now else v1

/-- The standing request: the highest level asked for, with the lowest REASON at that level (R49, Table 15.7). -/
def Dev.standing (v : Dev) : Nat × Nat :=
  let l := max v.pwr.thermReq (max v.pwr.capReq v.pwr.squallReq)
  if l = 0 then (0, 0) else if v.pwr.thermReq = l then (l, 1) else if v.pwr.capReq = l then (l, 2) else (l, 3)
def Dev.sendFreqReq (v : Dev) : Dev :=
  let (l, r) := v.standing
  let v1 := (v.sendW (mkW 2 v.chip (l + r * 16) v.ft.now)).modFt (fun f => { f with reqSent := (l, r) })
  if v1.ft.masterActive then v1.takeFreqReq v1.chip (l + r * 16) else v1
/-- Send FREQ_REQ when the standing request has changed (R49). -/
def Dev.updateReq (v : Dev) : Dev := if v.standing.1 ≠ v.ft.reqSent.1 then v.sendFreqReq else v

/-! ### Running schedules and the count -/

/-- Add ticks to the base of every running schedule and to FAB_TIME_SHIFT (R59, R72, R101). -/
def Dev.shiftBases (v : Dev) (add sub : Nat) : Dev :=
  let v1 := v.forAll (v.scheds.filter (fun e => decide (e.2.phase = .running))) (fun u e => u.modSched e.1 (fun s => { s with base := (v.sched e.1).base + add - sub }))
  v1.modFt (fun f => { f with shift := f.shift + add - sub })

/-- Entries whose release tick the count has reached are released, and stay so (R39, R41); none while the unit is unlocked or frozen (R31,
R66). -/
def Dev.release (v : Dev) : Dev :=
  if !v.ft.locked || v.ft.frozen then v
  else v.forAll (v.scheds.filter (fun e => decide (e.2.phase = .running))) (fun u e => u.modSched e.1 (fun s => { s with relTop := max s.relTop (v.ft.now + 1 - s.base) }))

/-- After the count or the bases moved: grants and slip. -/
def Dev.settleTime (v : Dev) : Dev := v.grantPass.reslipAll

/-- A Doldrums of n epochs starts at boundary e (R59). -/
def Dev.startDold (v : Dev) (n e : Nat) : Dev :=
  ((v.shiftBases (n * epoch) 0).modFt (fun f => { f with dold := true, doldLeft := n, annDold := none, lastDold := some (n, e) })).evBoth 0x008 e n

/-- A level applies (R62, R63). -/
def Dev.applyLevel (v : Dev) (l e : Nat) : Dev :=
  let v1 := v.modFt (fun f => { f with level := l, annLull := none })
  if l = v.ft.level then v1 else Dev.powerEdge v (v1.evBoth 0x00B e l)

/-- The Doldrums and lull announced for boundary b: DOLDRUMS arises before LULL_CHANGE (DESIGN CHOICE, log entry 90). -/
def Dev.applyAnnounced (v : Dev) (b : Nat) : Dev :=
  let v1 := match v.ft.annDold with
    | some (n, e) => if e = b then v.startDold n e else v
    | none => v
  match v1.ft.annLull with
  | some (l, e) => if e = b then v1.applyLevel l e else v1
  | none => v1

/-- A unit's own step at boundary b: the pause counts down, the announced changes apply, HBM_MAINT is taken (R59, R62, R441). -/
def Dev.unitBoundary (v : Dev) (b : Nat) : Dev :=
  let v1 := (v.modFt (fun f => { f with doldLeft := f.doldLeft - 1, boundaryAt := some b })).modHbm (fun h => { h with maint := h.maintWritten })
  v1.applyAnnounced b

/-- The whole ticks that pass while a message crosses the path to link l: DELAY, in 1/16 ns (R36, R478), over a tick of 1,024 cycles of the
clock of a lull level, (12 − level)/8 GHz (Table 2.4). The part of a tick is phase, which a count of ticks does not show. -/
def Dev.pathTicks (v : Dev) (l level : Nat) : Nat := (v.linkN l).delay * (12 - level) / 131072

/-- TIME as the master sends it; a pause whose last epoch has ended is over (Table 2.2). -/
def Dev.timeMsg (v : Dev) : WMsg :=
  mkW 1 v.chip (v.ft.level + b2n (v.ft.dold && decide (0 < v.ft.doldLeft)) * 8 + b2n v.ft.frozen * 16 + v.ft.doldLeft % 256 * 256) v.ft.now

/-- A unit thaws, `path` ticks after Tr (R72, R677); of the events that arise, the thaw's comes after LULL_CHANGE (DESIGN CHOICE, log entry
90). -/
def Dev.thaw (v : Dev) (tr shift pause path : Nat) : Dev :=
  let tf := v.ft.tf
  let sub := match v.ft.lastDold, tf with
    | some (n, e), some t => if t < e ∧ e ≤ v.ft.now then n * epoch else 0
    | none, _ => 0
    | some _, none => 0
  let more := match v.ft.annDold, tf with
    | some (n, e), some t => if e ≤ t then n * epoch else 0
    | none, _ => 0
    | some _, none => 0
  let v1 := v.shiftBases (shift * epoch + more) sub
  let v2 := v1.modFt (fun f => { f with now := tr + path, frozen := false, holdover := false, dold := decide (0 < pause), doldLeft := pause, annDold := none,
                                        freezeAt := none, tf := none, boundaryAt := some tr, lastDold := none })
  let v3 := match v2.ft.annLull with
    | some (l, _) => v2.applyLevel l tr
    | none => v2
  (((v3.modHbm (fun h => { h with maint := h.maintWritten })).evBoth 0x00A tr (shift + pause * 256)).release).settleTime

/-- The unit locks (R36, R37): shift counts from here, and what is announced or frozen comes from what it locked from. A unit that locks
itself as master goes on at the level it last ran at, which FAB_TIME_STATUS.LEVEL shows while it is unlocked too (R37 and R513 give no
level; DESIGN CHOICE, log entry 91). -/
def Dev.lockAt (v : Dev) (n : Nat) (master frozen : Bool) : Dev :=
  (v.modFt (fun f => { f with now := n, shift := 0, locked := true, masterActive := master, frozen := frozen, onStandby := false, holdover := false,
                              dold := false, doldLeft := 0, annLull := none, annDold := none, lastDold := none, freezeAt := none, tf := none,
                              newMaster := false, reqSent := (0, 0) })).evBoth 0x001 n 0

/-! ### Receiving -/

/-- A message a unit drops, setting MSG_DROP: a reserved type, or LEVEL 7 (R53). -/
def wBad (m : WMsg) : Bool :=
  let t := wTypeN m
  t = 0 || decide (8 < t) || ((t = 1 || t = 2 || t = 5) && decide (bits (wArg m) 2 0 = 7))
/-- Each die's unit sets its own MSG_DROP (R493). -/
def Dev.dropMsg (v : Dev) (die : Nat) : Dev := v.modFtReg die (fun r => { r with msgDrop := true })

/-- A master type is acted on: from MASTER_CHIP, or, from holdover until the unit next locks, from STANDBY_CHIP; the active master itself
acts on none (R33, R54, R64). -/
def Dev.fromMaster (v : Dev) (chip : Nat) : Bool :=
  !v.ft.masterActive && decide (chip = if v.ft.onStandby then v.standbyChip else v.masterChip)

/-- Receive a message of type t on link l: the die's unit drops it under R53; another type it ignores, and die 1's unit, which follows die
0's, acts on none (R32). -/
def Dev.receive (v : Dev) (l t : Nat) (m : WMsg) (act : Dev → Dev) : Dev :=
  if wBad m then v.dropMsg (linkDie l) else if linkDie l = 0 ∧ wTypeN m = t then act v else v
/-- The link carries the master's messages (R34). -/
def Dev.heard (v : Dev) (l : Nat) : Dev := if v.ft.heardOn.contains l then v else v.modFt (fun f => { f with heardOn := f.heardOn ++ [l] })
/-- Receive a master type. -/
def Dev.receiveMaster (v : Dev) (l t : Nat) (m : WMsg) (act : Dev → Dev) : Dev :=
  v.receive l t m (fun u => if u.fromMaster (wChip m) then act (u.heard l) else u)

/-- The first lock of an unlocked unit (R36): its count is the message's, compensated by the path delay, or the frozen VALUE; it runs at the
message's level, and the boundary it loads governs HBM_MAINT (R441). -/
def Dev.lockFrom (v : Dev) (link : Nat) (m : WMsg) : Dev :=
  let a := wArg m
  let l := bits a 2 0
  let v1 := v.lockAt (if bit a 4 then wVal m else wVal m + v.pathTicks link l) false (bit a 4)
  let v2 := v1.modFt (fun f => { f with dold := bit a 3, doldLeft := if bit a 3 then bits a 15 8 else 0, boundaryAt := some (wVal m), level := l })
  let v3 := if wVal m % epoch = 0 then v2.modHbm (fun h => { h with maint := h.maintWritten }) else v2
  let v4 := Dev.powerEdge v (if l ≠ 0 then v3.evBoth 0x00B (wVal m) l else v3)
  v4.release.settleTime.updateReq

/-- The count steps to the master's value (R38, R39). -/
def Dev.timeStep (v : Dev) (n : Nat) : Dev :=
  let old := v.ft.now
  let v1 := ((v.modFt (fun f => { f with now := n })).modFtReg 0 (fun r => { r with step := true })).modFtReg 1 (fun r => { r with step := true })
  ((v1.evBoth 0x002 old n).release).settleTime

/-- What a unit that missed an announcement applies from TIME (R58). -/
def Dev.lateApply (v : Dev) (m : WMsg) : Dev :=
  let a := wArg m
  let missD := bit a 3 && decide (0 < bits a 15 8) && !(v.ft.dold && decide (v.ft.doldLeft = bits a 15 8))
  let missL := decide (bits a 2 0 ≠ v.ft.level)
  let v1 := if missD then v.startDold (bits a 15 8) (wVal m) else v
  let v2 := if missL then v1.applyLevel (bits a 2 0) (wVal m) else v1
  if missD || missL then (v2.evBoth 0x004 (wVal m) 0).settleTime else v2

/-- A locked unit receives TIME from the active master: the unit's count should be its VALUE and the path's ticks (R38, R58, R65). A frozen unit ignores a TIME without FROZEN, whatever its value (R38
does not say; DESIGN CHOICE, log entry 91). -/
def Dev.timeLocked (v : Dev) (link : Nat) (m : WMsg) : Dev :=
  let frozenBit := bit (wArg m) 4
  let v0 := if v.ft.newMaster then (v.modFt (fun f => { f with newMaster := false })).sendFreqReq else v
  if frozenBit then v0.freezeTo (wVal m)
  else if v0.ft.frozen then v0
  else
    let n := wVal m + v0.pathTicks link (bits (wArg m) 2 0)
    let v1 := if v0.ft.now = n then v0 else v0.timeStep n
    let v2 := if v1.ft.boundaryAt = some (wVal m) then v1 else (v1.unitBoundary (wVal m)).settleTime
    v2.lateApply m

/-- A unit acts on FREEZE (R65). -/
def Dev.actFreeze (v : Dev) (m : WMsg) : Dev := v.freezeTo (wVal m)
/-- A unit acts on THAW, at the level it held or was told (R72); an unlocked one holds its count (R31). -/
def Dev.actThaw (v : Dev) (link : Nat) (m : WMsg) : Dev :=
  let level := match v.ft.annLull with
    | some (l, _) => l
    | none => v.ft.level
  if v.ft.locked then v.thaw (wVal m) (bits (wArg m) 7 0) (bits (wArg m) 15 8) (v.pathTicks link level) else v

/-- A unit that takes member messages: the active master, or the standby, which hears them too (R493). -/
def Dev.listens (v : Dev) : Bool := v.ft.masterActive || decide (v.role = 2)

/-! ### The commands -/

/-- Stall and toleration counts of one tick of active count (R104, R465, R502, R505). -/
def Dev.countStalls (v : Dev) : Dev :=
  v.forAll allStreams (fun u k =>
    if !(u.strm k).loaded then u
    else
      let t := (u.tests k).isSome
      u.modStrm k (fun s => { s with
        stall := if t then s.stall + 1 else s.stall,
        flights := s.flights.map (fun f => if f.wait = .recv ∨ f.wait = .version then { f with tol := f.tol + 1 } else f) }))

/-- TICK (R28, R41, R65, R383). -/
def Dev.tick (v : Dev) : Dev :=
  if v.ft.locked && !v.ft.frozen then
    let v0 := if v.ft.dold && decide (v.ft.doldLeft = 0) then v.modFt (fun f => { f with dold := false }) else v
    let v1 := if v0.ft.dold then v0 else v0.countStalls
    let v2 := (v1.modFt (fun f => { f with now := f.now + 1 })).release
    let v3 := (v2.reqEvent 0 1 (fun a => v2.ft.now % 2 ^ a = 0)).reqEvent 1 1 (fun a => v2.ft.now % 2 ^ a = 0)
    let v4 := match v3.ft.freezeAt with
      | some t => if t ≤ v3.ft.now then v3.freezeNow else v3
      | none => v3
    v4.settleTime
  else v

def execTick (s : State) : Host.Outcome State Fault Refusal := s.onDev Dev.tick

/-- Streams of both dies, in LATE's order of choice between equal slips (log entry 11). -/
def Dev.worstLate (v : Dev) : Option (Nat × Nat) :=
  let loaded := allStreams.filter (fun k => (v.strm k).loaded || v.strmSaved k)
  if loaded.any (fun k => (v.strm k).lateFlag) then
    some (loaded.foldl (fun b k => if b.1 < (v.strm k).slipNow then ((v.strm k).slipNow, k) else b) ((v.strm (loaded.headD 0)).slipNow, loaded.headD 0))
  else none

/-- SAMPLE_POINT (R47, R48). -/
def Dev.samplePoint (v : Dev) : Dev :=
  if v.ft.locked && !v.ft.frozen && decide (v.ft.now % epoch = 3968) && decide (v.ft.sampledAt ≠ some v.ft.now) then
    let v1 := v.modFt (fun f => { f with sampledAt := some f.now })
    let v2 := match v1.worstLate with
      | some (slip, k) => v1.sendLate slip k
      | none => v1
    v2.sendState
  else v
def execSamplePoint (s : State) : Host.Outcome State Fault Refusal := s.onDev Dev.samplePoint

/-- MASTER_CUT_OFF (R55 to R57, Table 2.3). -/
def Dev.cutOff (v : Dev) : Dev :=
  if v.ft.masterActive && v.ft.locked && !v.ft.frozen && decide (v.ft.now % epoch = 4032) && decide (v.ft.cutAt ≠ some v.ft.now) then
    let e := v.ft.now + 64
    let v1 := (v.modFt (fun f => { f with cutAt := some f.now })).modMst (fun m => { m with members := m.members.map (fun x => (x.1, { x.2 with rejoining := false })) })
    let lvl := v1.present.foldl (fun a x => max a x.2.level) 0
    let v2 := if lvl = v1.mst.levelAnn then v1 else
      ((v1.sendW (mkW 5 v1.chip lvl e)).modMst (fun m => { m with levelAnn := lvl })).modFt (fun f => { f with annLull := some (lvl, e) })
    let held := v2.mst.lates.filter (fun l => decide (l.boundary ≤ e))
    let v3 := v2.modMst (fun m => { m with lates := m.lates.filter (fun l => decide (e < l.boundary)) })
    let inside := match v3.mst.pause with
      | some (a, b) => decide (a < e) && decide (e < b)
      | none => false
    if held.isEmpty || inside then v3
    else
      let n := ceilDiv (held.foldl (fun a l => max a l.slip) 0) epoch
      let v4 := if v3.doldMax < n then v3.ev 0 74 0x009 n v3.doldMax else v3
      let n' := min n v3.doldMax
      ((v4.sendW (mkW 6 v4.chip n' e)).modMst (fun m => { m with pause := some (e, e + n' * epoch), doldAnn := some (n', e) })).modFt
        (fun f => { f with annDold := some (n', e) })
  else v
def execMasterCutOff (s : State) : Host.Outcome State Fault Refusal := s.onDev Dev.cutOff

/-- EPOCH_BOUNDARY (R59, R62, R63, R441). -/
def Dev.epochBoundary (v : Dev) : Dev :=
  if v.ft.locked && !v.ft.frozen && decide (v.ft.now % epoch = 0) && decide (v.ft.boundaryAt ≠ some v.ft.now) then
    let v1 := v.unitBoundary v.ft.now
    (if v1.ft.masterActive then v1.sendW v1.timeMsg else v1).settleTime
  else v
def execEpochBoundary (s : State) : Host.Outcome State Fault Refusal := s.onDev Dev.epochBoundary

/-- DOLDRUMS_END: the pause count has run out (R59). -/
def Dev.doldEnd (v : Dev) : Dev :=
  if v.ft.dold && decide (v.ft.doldLeft = 0) then
    let v1 := v.modFt (fun f => { f with dold := false })
    match v1.ft.annDold with
    | some (n, e) => if e = v1.ft.now then (v1.startDold n e).settleTime else v1
    | none => v1
  else v
def execDoldrumsEnd (s : State) : Host.Outcome State Fault Refusal := s.onDev Dev.doldEnd

/-- TIME (R36, R38, R53, R54, R58, R65). -/
def execTime (m : Heard) (s : State) : Host.Outcome State Fault Refusal :=
  s.onDev (fun v => v.receiveMaster m.link.val 1 m.msg (fun u => if u.ft.locked then u.timeLocked m.link.val m.msg else u.lockFrom m.link.val m.msg))
/-- FREQ_REQ (R56). -/
def execFreqReq (m : Heard) (s : State) : Host.Outcome State Fault Refusal :=
  s.onDev (fun v => v.receive m.link.val 2 m.msg (fun u => if u.listens then u.takeFreqReq (wChip m.msg) (wArg m.msg) else u))
/-- LATE (R55). -/
def execLate (m : Heard) (s : State) : Host.Outcome State Fault Refusal :=
  s.onDev (fun v => v.receive m.link.val 3 m.msg (fun u => if u.ft.masterActive then u.takeLate (wChip m.msg) (wArg m.msg) else u))
/-- STATE (R68, R70, R73). -/
def execState (m : Heard) (s : State) : Host.Outcome State Fault Refusal :=
  s.onDev (fun v => v.receive m.link.val 4 m.msg (fun u => if u.listens then u.takeState (wChip m.msg) (wArg m.msg) (wVal m.msg) else u))
/-- LULL (R62). -/
def execLull (m : Heard) (s : State) : Host.Outcome State Fault Refusal :=
  s.onDev (fun v => v.receiveMaster m.link.val 5 m.msg (fun u => u.modFt (fun f => { f with annLull := some (bits (wArg m.msg) 2 0, wVal m.msg) })))
/-- DOLDRUMS: held for its boundary; one that comes after it waits for the TIME (R58, R59). -/
def execDoldrums (m : Heard) (s : State) : Host.Outcome State Fault Refusal :=
  s.onDev (fun v => v.receiveMaster m.link.val 6 m.msg (fun u => u.modFt (fun f => { f with annDold := some (bits (wArg m.msg) 7 0, wVal m.msg) })))
/-- FREEZE (R65). -/
def execFreeze (m : Heard) (s : State) : Host.Outcome State Fault Refusal := s.onDev (fun v => v.receiveMaster m.link.val 7 m.msg (fun u => u.actFreeze m.msg))
/-- THAW (R72, R677). -/
def execThaw (m : Heard) (s : State) : Host.Outcome State Fault Refusal := s.onDev (fun v => v.receiveMaster m.link.val 8 m.msg (fun u => u.actThaw m.link.val m.msg))

/-- Every member present is ready, and so is the master (R70). -/
def Dev.allReady (v : Dev) : Bool := v.ready && v.present.all (fun e => e.1 = v.chip || e.2.ready)

/-- MASTER_THAW (R70, R71); the boundary Tr has its TIME (Table 2.2). -/
def Dev.masterThaw (v : Dev) : Dev :=
  match v.mst.freezing with
  | none => v
  | some tf =>
    if v.ft.masterActive && v.ft.frozen && v.allReady then
      let counts := v.ft.now :: somes ((v.present.filter (fun e => decide (e.1 ≠ v.chip))).map (fun e => e.2.frozenCount))
      let tr := (counts.foldl max 0 / epoch + 1) * epoch
      let tmin := counts.foldl min v.ft.now
      let p := match v.mst.doldAnn with
        | some (n, e) => if tf < e then n else 0
        | none => 0
      let pause := min 255 (v.thawDold + p)
      let shift := min 255 (pause + ceilDiv (tr - tmin) epoch)
      let v1 := (v.sendW (mkW 8 v.chip (shift + pause * 256) tr)).modMst (fun m => { m with
        freezing := none, doldAnn := none, pause := some (tr, tr + pause * epoch), lates := m.lates.filter (fun l => decide (tr < l.boundary)) })
      let v2 := v1.thaw tr shift pause 0
      v2.sendW v2.timeMsg
    else v
def execMasterThaw (s : State) : Host.Outcome State Fault Refusal := s.onDev Dev.masterThaw

/-- FROZEN_MESSAGE_TIMER (R67, R69). -/
def Dev.frozenTimer (v : Dev) : Dev :=
  if v.ft.frozen || v.pwr.chrysalis then
    let v1 := if v.ft.masterActive && v.ft.frozen then v.sendW v.timeMsg else v
    if !v1.ft.masterActive || v1.pwr.chrysalis then v1.sendState else v1
  else v
def execFrozenMessageTimer (s : State) : Host.Outcome State Fault Refusal := s.onDev Dev.frozenTimer

/-- TIME_HOLDOVER (R64, R65). -/
def Dev.timeHoldover (v : Dev) : Dev :=
  if v.ft.locked && !v.ft.masterActive && !v.ft.holdover then
    ((v.modFt (fun f => { f with holdover := true, onStandby := true, newMaster := decide (v.standbyChip ≠ v.masterChip) })).freezeNow).evBoth 0x003 v.ft.now 0
  else v
def execTimeHoldover (s : State) : Host.Outcome State Fault Refusal := s.onDev Dev.timeHoldover

/-- MEMBER_ABSENT (R73, Table 2.3). -/
def Dev.memberAbsent (v : Dev) (chip : Nat) : Dev :=
  if v.ft.masterActive && (v.member chip).known && decide (chip ≠ v.chip) then
    (v.modMember chip (fun _ => { known := true, absent := true })).modMst (fun m => { m with lates := m.lates.filter (fun l => decide (l.chip ≠ chip)) })
  else v
def execMemberAbsent (chip : BitVec 14) (s : State) : Host.Outcome State Fault Refusal := s.onDev (fun v => v.memberAbsent chip.toNat)

/-- MASTER_TAKEOVER (R74): the new master's merge starts from the DOLDRUMS and LULL it has heard announced, and from its own standing
request. A standby that has not locked does not take over (R74 does not say; DESIGN CHOICE, log entry 91). -/
def Dev.takeover (v : Dev) : Dev :=
  if decide (v.role = 2) && v.ft.locked && !v.ft.masterActive then
    let v1 := v.modFt (fun f => { f with masterActive := true })
    let v2 := (v1.modMember v.masterChip (fun _ => { known := true, absent := true })).modMember v.chip (fun m =>
      { m with known := true, absent := false, level := v.standing.1, reason := v.standing.2 })
    let level := match v.ft.annLull with
      | some (l, _) => l
      | none => v.ft.level
    let v3 := (v2.modMst (fun m => { m with lates := [], doldAnn := v.ft.annDold, levelAnn := level, pause := none })).evBoth 0x006 v.ft.now 0
    v3.masterFreeze v.ft.now
  else v
def execMasterTakeover (s : State) : Host.Outcome State Fault Refusal := s.onDev Dev.takeover

/-- FAB_TIME_CFG_WRITE (R21, R32, R37). -/
def Dev.timeCfgWrite (v : Dev) (die : Nat) (x : W32) : Dev :=
  if v.ft.locked then v.ev die (74 + die) 0x005 0x00100000 x.toNat
  else
    let v1 := v.modFtReg die (fun r => { r with cfg := x })
    if die = 0 ∧ bits x.toNat 1 0 = 1 then ((v1.lockAt 0 true false).modMember v1.chip (fun m => { m with known := true, absent := false })).updateReq else v1
def execFabTimeCfgWrite (d : DieId) (v : W32) (s : State) : Host.Outcome State Fault Refusal := s.onDev (fun u => u.timeCfgWrite d.val v)

end Sys2Proof.Machine
end

