-- ==== Sys2Proof/Machine/Power.lean ====
section
/-! DEFINITION. Power states, the caps, the thermal limits and the energy counters (15). Voltages are in units of 10 mV, as PWR_INPUT.VIN. -/

namespace Sys2Proof.Machine

/-! ### Readings of the power registers -/

/-- The arithmetic clocks run: the rails are up, in neither CHRYSALIS nor TRIPPED (Table 15.3, R550). -/
def Dev.clocksRun (v : Dev) : Bool := v.pwr.rails && !v.pwr.chrysalis && !v.pwr.tripped
/-- A die samples PWRWARN asserted. -/
def Pwr.warned (p : Pwr) : Bool := tget false p.warn 0 || tget false p.warn 1
/-- The power of two that the halving sources divide issue by, as die `die` sees them (Table 15.2, R522). -/
def Pwr.halvings (p : Pwr) (die : Nat) : Nat := b2n p.squall + b2n (tget false p.warn die) + b2n p.fast
/-- k of R521 for a die; PWR_STATE.ISSUE_K shows die 0's. -/
def Pwr.issueK (p : Pwr) (die : Nat) : Nat := max 1 (p.kc / 2 ^ p.halvings die)
/-- A unit may issue on die cycle c (R520). -/
def issueAllowed (k c : Nat) : Bool := decide ((c % 16) * k % 16 < k)
/-- SQUALL_LEVEL and THERM_LEVEL in force: 0 is treated as 1, 7 as 6 (Table 15.12). -/
def clampLevel (l : Nat) : Nat := max 1 (min 6 l)
def Pwr.squallLevel (p : Pwr) : Nat := clampLevel (bits p.cfgInForce.toNat 2 0)
def Pwr.thermLevel (p : Pwr) : Nat := clampLevel (bits p.cfgInForce.toNat 5 3)
/-- The domains in the order they are cut. -/
def Pwr.cutOrder (p : Pwr) : List Nat := [bits p.cfgInForce.toNat 7 6, bits p.cfgInForce.toNat 9 8, bits p.cfgInForce.toNat 11 10]
/-- PWR_CAP.EFF_CAP, and the cap in W (R540). -/
def Pwr.effCap (p : Pwr) : Nat := min p.hostCap p.rackCap
def Pwr.capWatts (p : Pwr) : Nat := 1200 + 25 * p.effCap
/-- PWR_BANK.PCT and RESERVE_MS from the energy in mJ (R537). -/
def Pwr.pct (p : Pwr) : Nat := p.energy / 300
def Pwr.reserveMs (p : Pwr) : Nat := p.energy / 48
/-- Full charge of the bank, in mJ. -/
def bankFull : Nat := 30000

/-- The bank charges in STARTING, CALM and LULL until it is full; in STARTING not below 44.0 V (R538). -/
def Dev.recharge (v : Dev) : Dev :=
  let st := v.pstate
  v.modPwr (fun p => { p with
    charging := p.rails && decide (p.energy < bankFull) && (decide (st ≤ 1) || (decide (st = 5) && decide (4400 ≤ p.vin))) })
/-- What every change of power state brings: POWER_STATE, charging, and the standing request (R49, R518, R538). -/
def Dev.powerChanged (old v : Dev) : Dev := (Dev.powerEdge old v).recharge.updateReq
/-- The input voltage as last sampled. -/
def Dev.setVin (v : Dev) (vin : Nat) : Dev := v.modPwr (fun p => { p with vin := vin % 65536 })

/-! ### Gusts and PWRWARN -/

/-- GUST: the stretched cycle is counted; it changes no result (R519). -/
def Dev.gust (v : Dev) (die : Nat) : Dev :=
  if v.clocksRun then v.modPwr (fun p => { p with countGust := tmod 0 p.countGust die (fun n => satAdd n 1 max32) }) else v
def execGust (d : DieId) (s : State) : Host.Outcome State Fault Refusal := s.onDev (fun v => v.gust d.val)

/-- PWRWARN: a die samples it asserted; the event goes out on the first die's sample (R522, R523). While RESET_N holds the module the pin
has no effect (R667). -/
def pwrwarn (die : Nat) (m : Mgmt) (v : Dev) : Dev :=
  if m.resetHold || !v.clocksRun || tget false v.pwr.warn die then v
  else
    let v1 := v.modPwr (fun p => { p with warn := tset false p.warn die true })
    if v.pwr.warned then v1 else v1.evMgmt 0x062 0 0
def execPwrwarn (d : DieId) (s : State) : Host.Outcome State Fault Refusal := s.onBoth (fun m v => (m, pwrwarn d.val m v))

/-- PWRWARN_DEASSERT (R522). -/
def Dev.pwrwarnOff (v : Dev) (die : Nat) : Dev :=
  if v.clocksRun then v.modPwr (fun p => { p with warn := tset false p.warn die false }) else v
def execPwrwarnDeassert (d : DieId) (s : State) : Host.Outcome State Fault Refusal := s.onDev (fun v => v.pwrwarnOff d.val)

/-! ### Squall -/

/-- Enter SQUALL: the fraction, the request, the pause of charging, the count and the events (R524, R526), POWER_STATE before POWER_DIP
(DESIGN CHOICE, log entry 90). -/
def Dev.enterSquall (v : Dev) : Dev :=
  let v1 := v.modPwr (fun p => { p with squall := true, squallReq := p.squallLevel, charging := false, countSquall := satAdd p.countSquall 1 65535 })
  ((Dev.powerEdge v v1).evMgmt 0x061 v.pwr.vin 0).recharge.updateReq
/-- SQUALL may be entered: not in STARTING, CHRYSALIS or TRIPPED (R524, R538, Table 15.7). -/
def Dev.squallable (v : Dev) : Bool := v.clocksRun && !v.pwr.starting && !v.pwr.squall
/-- SQUALL (R524). -/
def Dev.squallAt (v : Dev) (vin : Nat) : Dev :=
  let v1 := v.setVin vin
  if v1.squallable && decide (vin < 4400) then v1.enterSquall else v1
def execSquall (vin : Nat) (s : State) : Host.Outcome State Fault Refusal := s.onDev (fun v => v.squallAt vin)

/-- PWRWARN_HELD: PWRWARN has stayed asserted for 1 ms (R523). -/
def Dev.warnHeldFor (v : Dev) : Dev :=
  if v.pwr.warned && v.clocksRun && !v.pwr.starting then
    let v1 := v.modPwr (fun p => { p with warnHeld := true })
    if v1.squallable then v1.enterSquall else v1
  else v
def execPwrwarnHeld (s : State) : Host.Outcome State Fault Refusal := s.onDev Dev.warnHeldFor

/-- SQUALL_EXIT: a Squall of PWRWARN ends only after its deassertion (R523, R525). -/
def Dev.squallExit (v : Dev) : Dev :=
  if v.pwr.squall && v.clocksRun && !(v.pwr.warnHeld && v.pwr.warned) then
    Dev.powerChanged v (v.modPwr (fun p => { p with squall := false, squallReq := 0, warnHeld := false }))
  else v
def execSquallExit (s : State) : Host.Outcome State Fault Refusal := s.onDev Dev.squallExit

/-! ### Chrysalis -/

/-- Signals sent within the package take effect before the counters reach retention voltage (R351). -/
def Dev.landSignals (v : Dev) : Dev :=
  v.forAll v.ctrs (fun u e => iter (fun w => w.applySignal e.1) e.2.transit (u.modCtr e.1 (fun c => { c with transit := 0 })))

/-- Every stack enters or leaves self-refresh (R419). -/
def Dev.selfRefresh (v : Dev) (on : Bool) : Dev := v.forAll (List.range 8) (fun u k => u.modStk k (fun s => { s with selfRefresh := on }))

/-- The input is outside 40.0 V to 63.0 V (R527). -/
def lostInput (vin : Nat) : Bool := decide (vin < 4000) || decide (6300 < vin)
/-- The input is within 46.0 V to 60.0 V (R533, R534). -/
def goodInput (vin : Nat) : Bool := decide (4600 ≤ vin) && decide (vin ≤ 6000)

/-- Enter CHRYSALIS (R65, R67, R351, R419, R527, Table 15.3). -/
def Dev.enterChrysalis (v : Dev) : Dev :=
  let v1 := v.landSignals.modPwr (fun p => { p with chrysalis := true, onBank := true, charging := false, countChrysalis := satAdd p.countChrysalis 1 65535 })
  let v2 := if v1.ft.locked && !v1.ft.frozen then v1.modFt (fun f => { f with frozen := true, freezeAt := none, tf := some (f.tf.getD f.now) }) else v1
  let v3 := Dev.powerEdge v (v2.selfRefresh true)
  v3.sendState

/-- CHRYSALIS_ENTRY: also stops an exit under way, and in TRIPPED only puts the bank on the bus (R527, R535, Table 15.7). -/
def Dev.chrysalisEntry (v : Dev) (vin : Nat) : Dev :=
  let v1 := v.setVin vin
  if !lostInput vin || !v1.pwr.rails || v1.pwr.starting then v1
  else if v1.pwr.tripped then (if vin < 4000 then v1.modPwr (fun p => { p with onBank := true }) else v1)
  else if v1.pwr.exiting then (v1.modPwr (fun p => { p with exiting := false, onBank := true })).selfRefresh true
  else if v1.pwr.chrysalis then v1.modPwr (fun p => { p with onBank := true })
  else v1.enterChrysalis
def execChrysalisEntry (vin : Nat) (s : State) : Host.Outcome State Fault Refusal := s.onDev (fun v => v.chrysalisEntry vin)

/-- POWER_DIP: the input rises above 60.0 V (R528). -/
def Dev.powerDip (v : Dev) (vin : Nat) : Dev := if v.pwr.rails && decide (6000 < vin) then (v.setVin vin).evMgmt 0x061 (vin % 65536) 0 else v.setVin vin
def execPowerDip (vin : Nat) (s : State) : Host.Outcome State Fault Refusal := s.onDev (fun v => v.powerDip vin)

/-- INPUT_TAKES_LOAD: the input supplies the load from 46.0 V to 60.0 V, the bank otherwise (R533). -/
def Dev.inputLoad (v : Dev) (vin : Nat) : Dev :=
  let v1 := v.setVin vin
  if v1.pwr.chrysalis || (v1.pwr.tripped && v1.pwr.onBank) then v1.modPwr (fun p => { p with onBank := !goodInput vin }) else v1
def execInputTakesLoad (vin : Nat) (s : State) : Host.Outcome State Fault Refusal := s.onDev (fun v => v.inputLoad vin)

/-- Every channel that carries data retrains, or has retrained, so that the tasks that waited proceed (R413, R419). -/
def Dev.retrainAll (v : Dev) (on : Bool) : Dev :=
  v.forAll (List.range 256) (fun u ch => if u.chanLive ch then u.modChan ch (fun c => { c with retraining := on, queue := if on then c.queue else [] }) else u)

/-- CHRYSALIS_EXIT: the exit begins (R534). -/
def Dev.chrysalisExit (v : Dev) (vin : Nat) : Dev :=
  let v1 := v.setVin vin
  if v1.pwr.chrysalis && !v1.pwr.exiting && !v1.pwr.tripped && goodInput vin then
    ((v1.modPwr (fun p => { p with exiting := true, onBank := false })).selfRefresh false).retrainAll true
  else v1
def execChrysalisExit (vin : Nat) (s : State) : Host.Outcome State Fault Refusal := s.onDev (fun v => v.chrysalisExit vin)

/-! ### The thermal trip -/

/-- T_j and T_s as last sampled (R548). -/
def Pwr.tjMax (p : Pwr) : Nat := max (tget 0 p.tj 0) (tget 0 p.tj 1)
def Pwr.tsMax (p : Pwr) : Nat := (List.range 8).foldl (fun a i => max a (tget 0 p.ts i)) 0

/-- Running schedules of a die. -/
def Dev.runningOf (v : Dev) (die : Nat) : List Nat := (v.scheds.filter (fun e => decide (e.1 / 256 = die) && decide (e.2.phase = .running))).map (fun e => e.1)

/-- A die captures THERMAL_TRIP; its capture ends at C0, for every clock stops there (R550, R557, R561). -/
def Dev.tripDie (v : Dev) (die : Nat) : Dev :=
  let r := v.flt die
  let v1 := v.dieFault die 0x49 none 0#64 (v.runningOf die)
  if r.capturing || r.valid then v1 else v1.endCapture die false

/-- The module trips (R550): POWER_STATE arises before THERMAL_TRIP (DESIGN CHOICE, log entry 90). -/
def Dev.trip (v : Dev) : Dev :=
  let v1 := (v.tripDie 0).tripDie 1
  let v2 := (v1.modPwr (fun p => { p with tripped := true, charging := false, tripSamples := 0 })).selfRefresh true
  (Dev.powerEdge v v2).evMgmt 0x066 v.pwr.tjMax v.pwr.tsMax

/-- ISSUE_RESUME: issue resumes, of the DMA engines too (R396), and STATE is sent with READY (15, after R535), or a trip found in Chrysalis takes place first (R419, R534, R525, Table 15.7). -/
def Dev.issueResume (v : Dev) : Dev :=
  if v.pwr.chrysalis && v.pwr.exiting && !v.pwr.tripped then
    if 2 ≤ v.pwr.tripSamples then v.trip
    else
      let v1 := (v.modPwr (fun p => { p with chrysalis := false, exiting := false, squall := false, squallReq := 0, warnHeld := false })).retrainAll false
      let v2 := (Dev.powerEdge v v1).recharge
      ((v2.sendState.updateReq.grantPass).forAll (List.range 48) Dev.dmaWakeAll).releaseHeld
  else v
/-- The trip's log entry, of Forzoevo (Table 18.4). -/
def Mgmt.logAdd (m : Mgmt) (ms code a0 a1 : Nat) : Mgmt :=
  let e : LogEnt := { index := m.logNext, code := code, boot := m.bootCount, ms := ms % 2 ^ 32, a0 := a0, a1 := a1 }
  let l := m.log ++ [e]
  { m with log := l.drop (l.length - 4096), logNext := m.logNext + 1 }
/-- Write a log entry; its MS is a free value (R626, log entry 3). -/
def logBoth (code a0 a1 : Nat) (mv : Mgmt × Dev) : Mgmt × Dev := (mv.1.logAdd mv.2.draw.1.toNat code a0 a1, mv.2.draw.2)
/-- Forzoevo logs a trip that a step brought about. -/
def logTrip (old : Dev) (m : Mgmt) (v : Dev) : Mgmt × Dev :=
  if !old.pwr.tripped && v.pwr.tripped && m.running then logBoth 0x02 v.pwr.tjMax v.pwr.tsMax (m, v) else (m, v)
def execIssueResume (s : State) : Host.Outcome State Fault Refusal := s.onBoth (fun m v => logTrip v m v.issueResume)

/-- HOT and TEMP of a stack (R408). -/
def Stack.warm (s : Stack) (t : Nat) : Stack := { s with temp := t % 256, hot := decide (85 < t) || (s.hot && decide (83 < t)) }
/-- The thermal request (R549). -/
def Pwr.thermNext (p : Pwr) : Nat :=
  let x := max p.tjMax (if 95 ≤ p.tsMax then p.tsMax + 5 else 0)
  if 100 ≤ x then min 6 (p.thermLevel + (x - 100) / 3)
  else if p.thermReq = 0 ∨ (p.tjMax ≤ 95 ∧ p.tsMax ≤ 90) then 0
  else p.thermLevel
/-- A sample at or above a trip limit (R550). -/
def Pwr.hotSample (p : Pwr) : Bool := decide (115 ≤ p.tjMax) || decide (105 ≤ p.tsMax)

/-- THERMAL_SAMPLE; the request is Forzoevo's policy and stands while it is not running (R408, R548 to R550, R644). -/
def Dev.thermalSample (v : Dev) (policy : Bool) (tj0 tj1 : Nat) (ts : List Nat) : Dev :=
  if !v.pwr.rails then v
  else
    let v1 := v.forAll (List.range 8) (fun u k => u.modStk k (fun s => s.warm (ts.getD k 0)))
    let v2 := v1.modPwr (fun p => { p with
      tj := tset 0 (tset 0 p.tj 0 tj0) 1 tj1
      ts := (List.range 8).foldl (fun t k => tset 0 t k (ts.getD k 0)) p.ts })
    if v2.pwr.tripped then v2
    else
      let v3 := v2.modPwr (fun p => { p with tripSamples := if p.hotSample then min 2 (p.tripSamples + 1) else 0, thermReq := if policy then p.thermNext else p.thermReq })
      let v4 := if v.pwr.thermReq = 0 ∧ v3.pwr.thermReq ≠ 0 then v3.evMgmt 0x065 v3.pwr.tjMax v3.pwr.tsMax else v3
      let v5 := v4.updateReq
      if 2 ≤ v5.pwr.tripSamples && !v5.pwr.chrysalis then v5.trip else v5
/-! ### The bank, power samples and the cap -/

/-- BANK_UPDATE: the energy, BANK_LOW below 80% and its event, charging (R537, R538). -/
def Dev.bankUpdate (v : Dev) (energy : Nat) : Dev :=
  let e := min energy bankFull
  let low := decide (e < 24000)
  let v1 := v.modPwr (fun p => { p with energy := e, bankLow := low })
  (if low && !v.pwr.bankLow && v.pwr.rails then v1.evMgmt 0x063 e 0 else v1).recharge
def execBankUpdate (energy : Nat) (s : State) : Host.Outcome State Fault Refusal := s.onDev (fun v => v.bankUpdate energy)

/-- POWER_SAMPLE: a sample above 3,200 W starts the fast limiter (Table 15.2, R541, R542). -/
def execPowerSample (watts : Nat) (s : State) : Host.Outcome State Fault Refusal :=
  s.onDev (fun v => if 3200 < watts && v.pwr.rails then v.modPwr (fun p => { p with fast := true }) else v)
/-- FAST_LIMITER_EXPIRY (R521). -/
def execFastLimiterExpiry (s : State) : Host.Outcome State Fault Refusal := s.onDev (fun v => v.modPwr (fun p => { p with fast := false }))

/-- Share and floor of a domain (Table 15.6). -/
def Pwr.share (p : Pwr) (d : Nat) : Nat := match d with | 0 => p.kc | 1 => p.memShare | _ => p.linkShare
def domainFloor (d : Nat) : Nat := match d with | 0 => 2 | 1 => 4 | _ => 8
/-- Set the share of a domain. -/
def Pwr.setShare (p : Pwr) (d n : Nat) : Pwr := match d with | 0 => { p with kc := n } | 1 => { p with memShare := n } | _ => { p with linkShare := n }
/-- The domain the next cut takes; none when each is at its floor (R543). -/
def Pwr.nextCut (p : Pwr) : Option Nat := p.cutOrder.find? (fun d => decide (domainFloor d < p.share d))
/-- Cut one step, or restore the last one. -/
def Pwr.cut (p : Pwr) (d : Nat) : Pwr := { (p.setShare d (p.share d - 1)) with cuts := d :: p.cuts }
def Pwr.restore (p : Pwr) : Pwr :=
  match p.cuts with
  | [] => p
  | d :: r => { (p.setShare d (p.share d + 1)) with cuts := r }

/-- What is handed to the supervisor is taken at its control instant (R16, R547). -/
def Pwr.takeWrites (p : Pwr) : Pwr :=
  { p with
    hostCap := (p.hostCapNext.map (fun x => x.1)).getD p.hostCap
    win := (p.hostCapNext.map (fun x => x.2)).getD p.win
    rackCap := p.rackCapNext.getD p.rackCap
    cfgInForce := p.cfg
    hostCapNext := none
    rackCapNext := none }

/-- Some stream of the module has SLIP_NOW above 0. -/
def Dev.anySlip (v : Dev) : Bool := allStreams.any (fun k => (v.strm k).loaded && decide (0 < (v.strm k).slipNow))

/-- The cap source's request after a control instant (R545). -/
def capReqNext (r : Nat) (rise quiet : Bool) : Nat :=
  let up := if rise then min 6 (r + 1) else r
  if quiet then up - 1 else up

/-- The controller runs: not in CHRYSALIS or TRIPPED (R546). -/
def Dev.capRuns (v : Dev) : Bool := v.pwr.rails && !v.pwr.chrysalis && !v.pwr.tripped

/-- CAP_CONTROL_INSTANT, with the projected window mean and the readings PIN and PAVG in W, whether the projected mean has headroom of a
step, and whether a whole window below 90% of the cap ends here (R543 to R547). -/
def Dev.capInstant (v : Dev) (projected pin pavg : Nat) (headroom quiet : Bool) : Dev :=
  if !v.capRuns then v
  else
    let v1 := v.modPwr (fun p => { p.takeWrites with pin := pin % 65536, pavg := pavg % 65536 })
    let above := decide (v1.pwr.capWatts < projected)
    let v2 := if above then
        (match v1.pwr.nextCut with
         | some d => v1.modPwr (fun p => p.cut d)
         | none => if v1.pwr.unmet then v1 else (v1.modPwr (fun p => { p with unmet := true })).evMgmt 0x064 v1.pwr.effCap (pavg % 65536))
      else if headroom then v1.modPwr Pwr.restore else v1
    (v2.modPwr (fun p => { p with capReq := capReqNext p.capReq (decide (p.kc < 16) && v2.anySlip) quiet })).updateReq
/-- The controller stands still while Forzoevo is not running (R644). -/
def execCapControlInstant (projected pin pavg : Nat) (headroom quietWindow : Bool) (s : State) : Host.Outcome State Fault Refusal :=
  s.onBoth (fun m v => (m, if m.running then v.capInstant projected pin pavg headroom quietWindow else v))

/-- PWR_CAP written: HOST_CAP and WIN wait for the control instant, UNMET is cleared by a 1 (R547, Table 15.13). -/
def Dev.pwrCapWrite (v : Dev) (x : W32) : Dev :=
  v.modPwr (fun p => { p with hostCapNext := some (min 56 (bits x.toNat 6 0), bits x.toNat 26 24), unmet := p.unmet && !bit x.toNat 27 })
def execPwrCapWrite (v : W32) (s : State) : Host.Outcome State Fault Refusal := s.onDev (fun u => u.pwrCapWrite v)

/-- The CUT fields name each domain once. -/
def cutsGood (x : W32) : Bool :=
  let a := bits x.toNat 7 6
  let b := bits x.toNat 9 8
  let c := bits x.toNat 11 10
  decide (a < 3) && decide (b < 3) && decide (c < 3) && decide (a ≠ b) && decide (b ≠ c) && decide (a ≠ c)
/-- PWR_CFG written; a write that names a domain twice or uses code 3 is ignored (R543, Table 15.12). -/
def Dev.pwrCfgWrite (v : Dev) (x : W32) : Dev := if cutsGood x then v.modPwr (fun p => { p with cfg := x &&& 0xFFF#32 }) else v
def execPwrCfgWrite (v : W32) (s : State) : Host.Outcome State Fault Refusal := s.onDev (fun u => u.pwrCfgWrite v)

/-! ### Energy -/

/-- The counted energy of each entry in the interval: free values, for the activity counts are left out (R553, log entry 3). -/
def Dev.drawCounts (v : Dev) : List Nat × Dev :=
  ((List.range 17).map (fun i => (Config.freeWord (v.freeCtr + i)).toNat % 2 ^ 32), v.skipFree 17)
/-- Share what the input energy leaves beyond the counted energy among the contexts, or charge it to entry 16 (R554). -/
def energyShare (counted : List Nat) (measured i : Nat) : Nat :=
  let all := counted.foldl (· + ·) 0
  let ctxs := (counted.take 16).foldl (· + ·) 0
  let rest := measured - all
  counted.getD i 0 + (if i < 16 then (if ctxs = 0 then 0 else rest * counted.getD i 0 / ctxs) else if ctxs = 0 then rest else 0)
/-- ENERGY_INTERVAL, with the measured input energy in µJ (R553, R554). -/
def Dev.energyInterval (v : Dev) (measured : Nat) : Dev :=
  if !v.pwr.rails then v
  else
    let (c, v1) := v.drawCounts
    v1.modPwr (fun p => { p with energyTab := (List.range 17).foldl (fun t i => tmod 0 t i (fun e => (e + energyShare c measured i) % 2 ^ 64)) p.energyTab })
def execEnergyInterval (measured : Nat) (s : State) : Host.Outcome State Fault Refusal := s.onDev (fun v => v.energyInterval measured)

/-- PWR_ENERGY_CTL written (Table 15.19). -/
def Dev.energyClear (v : Dev) (x : W32) : Dev := if bit x.toNat 0 then v.modPwr (fun p => { p with energyTab := [] }) else v
def execPwrEnergyClear (v : W32) (s : State) : Host.Outcome State Fault Refusal := s.onDev (fun u => u.energyClear v)

end Sys2Proof.Machine
end

