-- ==== Sys2Proof/Machine/Orders.lean ====
section
/-! DEFINITION. Taking work orders from WORK rings, and the orders of schedules and of copies (03, 17). -/

namespace Sys2Proof.Machine

/-! ### Taking an order (R610, R611) -/

/-- Host offset of the entry at a WORK ring's device index (R599). -/
def Ring.orderAt (r : Ring) : Nat := (offOf r.base + r.index % 2 ^ r.size * 64) % 2 ^ 48
/-- Word 0 of that entry. -/
def Dev.orderW0 (v : Dev) (die n : Nat) : W64 := w64 (ofBytes (v.hostRead (v.ring die n).orderAt 8))
/-- The die may take an order from ring n: one is ready, the last one was accepted, its DONE ring has room, its FENCE is met, and its
entry can be read. A SAVE or RESTORE_CTX waits for the context switch in progress. -/
def Dev.ringReady (v : Dev) (die n : Nat) : Bool :=
  let r := v.ring die n
  let d := v.ring die r.doneRing
  r.en && r.kind = 0 && !r.busy && decide (r.index ≠ r.bell) && d.en && d.kind = 1 && decide (d.held < 2 ^ d.size) &&
  !v.hostBad r.orderAt 64 && (!fbit (v.orderW0 die n) 8 || r.outstanding = 0) &&
  (decide ((v.ctxSwD die).busy = .none) || !(decide (fld (v.orderW0 die n) 7 0 = 0x14 ∨ fld (v.orderW0 die n) 7 0 = 0x15)))
/-- The ring whose turn it is (R611). -/
def Dev.turn (v : Dev) (die : Nat) : Option Nat :=
  let ready := ((v.hifD die).rings.map (fun e => e.1)).filter (v.ringReady die)
  (ready.find? (fun n => decide ((v.hifD die).nextTurn ≤ n))).orElse (fun _ => ready.head?)

/-- An order taken: its completion's header and its eight words. -/
structure Taken where
  o : OrderRef
  ws : List W64

/-- Take the order at ring n's index, when it is the ring's turn and the order's OP is one of these: the index moves and its shadow is
written (R606, R611, R614); an error answer to the shadow stops the ring (R680). None is taken in Chrysalis, where the host die is in
retention (Table 15.3). -/
def Dev.takeOrder (v : Dev) (die n : Nat) (ok : Nat → Bool) : Option (Taken × Dev) :=
  let r := v.ring die n
  let ws := bytesToWords 8 (v.hostRead r.orderAt 64)
  let op := fld (wd ws 0) 7 0
  if decide (v.turn die = some n) && ok op && !v.pwr.chrysalis && !v.pwr.starting then
    let o : OrderRef := { ring := n, index := r.index, tag := fld (wd ws 0) 63 32, op := op, done := r.doneRing }
    let v1 := (v.modRing die n (fun q => { q with index := (q.index + 1) % 2 ^ 32, busy := true, outstanding := q.outstanding + 1 })).modRing die r.doneRing
      (fun q => { q with due := q.due + 1 })
    let (v2, res) := (v1.modHifD die (fun h => { h with nextTurn := n + 1 })).putShadow die n
    some ({ o := o, ws := ws }, match res with | .shadowBad a => v2.ev die (74 + die) 0x072 n a | .ok => v2 | .entryBad _ => v2)
  else none
/-- Take an order of one OP and act on it. -/
def Dev.order (v : Dev) (die n op : Nat) (act : Dev → Taken → Dev) : Dev :=
  match v.takeOrder die n (fun x => x = op) with
  | none => v
  | some p => act p.2 p.1
/-- Complete an order that is accepted when it completes, or refused (R611). -/
def Dev.finish (v : Dev) (die : Nat) (o : OrderRef) (status hst w2 w3 : Nat) : Dev := (v.complete die o status hst w2 w3).accept die o.ring

/-- The OPs of Table 17.5 but for NOP. -/
def orderOps : List Nat := [1, 2, 3, 4, 5, 8, 0x10, 0x11, 0x12, 0x14, 0x15]
/-- WORK_NOP: NOP, and an order with a reserved OP, which is refused (Table 17.6). -/
def Dev.workNop (v : Dev) (die n : Nat) : Dev :=
  match v.takeOrder die n (fun x => !orderOps.contains x) with
  | none => v
  | some p => p.2.finish die p.1.o 0 (if p.1.o.op = 0 then 0 else 1) 0 0
def execWorkNop (d : DieId) (ring : RingId) (s : State) : Host.Outcome State Fault Refusal := s.onDev (fun v => v.workNop d.val ring.val)

/-- RING_ERROR: a work entry's read is answered with an error: the ring stops (Table 17.6). -/
def Dev.ringError (v : Dev) (die n : Nat) (a : W64) : Dev :=
  let r := v.ring die n
  if r.en && r.kind = 0 && decide (r.index ≠ r.bell) then (v.modRing die n Ring.stop).ev die (74 + die) 0x072 n a.toNat else v
def execRingError (d : DieId) (ring : RingId) (addr : W64) (s : State) : Host.Outcome State Fault Refusal := s.onDev (fun v => v.ringError d.val ring.val addr)

/-- Package number of the schedule an order of die d names. -/
def Taken.sid (t : Taken) (die : Nat) : Nat := die * 256 + fld (wd t.ws 1) 7 0
/-- Finish a schedule order with the words of Table 17.5: SCHED_TAG and SCHED_ID. -/
def Dev.finishSid (v : Dev) (die : Nat) (t : Taken) (status hst : Nat) : Dev := v.finish die t.o status hst (schedW2 (v.sched (t.sid die)) (t.sid die)) 0

/-! ### LOAD (R91 to R97, R678) -/

/-- A stream descriptor (Table 3.7). -/
structure StrmDesc where
  base : W64
  count : Nat
  kind : Nat
  unit : Nat
  slack : Nat
  stallLimit : Nat
  evtLate : Bool

def decStrmDesc (ws : List W64) : StrmDesc :=
  let w := wd ws 1
  { base := wd ws 0, count := fld w 24 0, kind := fld w 27 25, unit := fld w 37 32, slack := fld w 55 40, stallLimit := fld w 63 56, evtLate := fbit (wd ws 2) 0 }
/-- The stream a descriptor names. -/
def StrmDesc.strm (d : StrmDesc) : Nat := strmOf d.kind d.unit

/-- A refused LOAD: STATUS of Table 3.8, or a host status. -/
inductive LoadBad where
  | status (c : Nat)
  | host (h : Nat)

/-- Read a part of a schedule image; its error by the rule of R678 step 1. R92 places it in host memory or this module's stack memory, and no
status is named for another place in a readable region: it is read there too (DESIGN CHOICE, log entry 57). -/
def Dev.imageRead (v : Dev) (die : Nat) (a : W64) (n : Nat) : Except LoadBad (List Byte) × Dev :=
  match v.rdGlobal die a n (74 + die) with
  | (.ok bs, u) => (.ok bs, u)
  | (.err 1, u) => (.error (.status 0x0A), u)
  | (.err 3, u) => (.error (if fld a 63 62 = 2 then .host 5 else .status 0x24), u)
  | (.err _, u) => (.error (.status 0x24), u)

/-- Read n stream descriptors from an address. -/
def Dev.descRead (v : Dev) (die a : Nat) : Nat → Except LoadBad (List StrmDesc) × Dev
  | 0 => (.ok [], v)
  | n + 1 =>
    match v.imageRead die (w64 a) 32 with
    | (.error e, u) => (.error e, u)
    | (.ok bs, u) =>
      match u.descRead die (a + 32) n with
      | (.error e, w) => (.error e, w)
      | (.ok ds, w) => (.ok (decStrmDesc (bytesToWords 4 bs) :: ds), w)

/-- A stream descriptor of a list lies outside every readable region (R678 step 3, which puts that before what any of their reads meets). -/
def Dev.descOutside (v : Dev) (die a n : Nat) : Bool := (List.range n).any (fun i => !v.permits die (a + 32 * i) 32 false false)
/-- Every byte of a range lies in enabled regions of the die that grant read permission; `fuel` bounds the regions. -/
def Dev.readable (v : Dev) (die a n : Nat) : Nat → Bool
  | 0 => n = 0
  | fuel + 1 =>
    if n = 0 then true
    else match v.rgnFind die a 1 with
    | none => false
    | some r =>
      let stop := r.base.toNat + 2 ^ r.size
      r.rd && v.readable die stop (a + n - stop) fuel

/-- The checks on one stream descriptor (R92, R94, R678 step 4). -/
def Dev.descBad (v : Dev) (die : Nat) (mask : Mask48) (d : StrmDesc) : Option Nat :=
  let unitOk := match d.kind with
    | 3 => decide (d.unit = die)
    | 4 => decide (d.unit < 8) && decide (stkDie d.unit = die)
    | _ => decide (d.unit < 48) && decide (coreDie d.unit = die) && bit mask.toNat d.unit
  if 4 < d.kind || !unitOk || 16777216 < d.count || decide (d.base.toNat % 64 ≠ 0) || decide (fld d.base 63 62 ≠ 0) then some 4
  else if d.slack = 0 then some 5
  else if d.count ≠ 0 && !(decide (d.base.toNat + 64 * d.count ≤ stackEnd) && v.readable die d.base.toNat (64 * d.count) 257) then some 0x0A
  else none

/-- A core of the mask is retired. -/
def Dev.maskRetired (v : Dev) (mask : Mask48) : Bool := (List.range 48).any (fun c => bit mask.toNat c && (v.core c).retired)
/-- A unit or core is claimed by a loaded schedule (R97). -/
def Dev.unitsBusy (v : Dev) (mask : Mask48) (ks : List Nat) : Bool :=
  ks.any (fun k => (v.strm k).loaded) || (List.range 48).any (fun c => bit mask.toNat c && v.coreClaimed c)
/-- The first check of R678 that the descriptors fail. -/
def Dev.loadBad (v : Dev) (die : Nat) (mask : Mask48) (ds : List StrmDesc) : Option Nat :=
  let ks := ds.map StrmDesc.strm
  match ds.findSome? (v.descBad die mask) with
  | some c => some c
  | none =>
    if !decide ks.Nodup then some 6
    else if mask.toNat / 2 ^ (24 * (1 - die)) % 2 ^ 24 ≠ 0 then some 9
    else if v.maskRetired mask then some 8
    else if v.unitsBusy mask ks then some 7
    else none

/-- Wings that a schedule of a context claims stop being warm for any other context (R587). -/
def Dev.coolFor (v : Dev) (context : Nat) (mask : Mask48) : Dev :=
  v.forAll (List.range 48) (fun u c =>
    let s := u.ctxSwD (coreDie c)
    let i := c / 6 % 4
    if bit mask.toNat c && bit s.warm (8 * i + 4) && decide (bits s.warm (8 * i + 3) (8 * i) ≠ context) then u.coolWing c else u)

/-- Claim a stream for a schedule and fill its buffer (R96, R653). -/
def Dev.claimStrm (v : Dev) (id : Nat) (d : StrmDesc) : Dev :=
  let v1 := v.modStrm d.strm (fun _ => {
    loaded := true, sched := id % 256, base := d.base, count := d.count, slack := d.slack, stallLimit := d.stallLimit, evtLate := d.evtLate })
  v1.refill d.strm

/-- Claim every unit, fill every buffer, and hold the schedule (R96, R97). No entry of a start of it has left a tile yet, so none is in place
for a RESUME that no START came before either (R171, R569; DEDUCED, log entry 17). -/
def Dev.claim (v : Dev) (id : Nat) (w0 w1 : W64) (ds : List StrmDesc) : Dev :=
  let mask : Mask48 := w1.setWidth 48
  let v1 := v.modSched id (fun _ => {
    phase := .loaded, tag := fld w0 63 32, context := fld w0 19 16, coreMask := mask, streams := ds.map StrmDesc.strm, first := true })
  let v2 := v1.forAll ((List.range 48).filter (fun c => bit mask.toNat c)) (fun u c => u.modCore c (fun k => { k with tile := { k.tile with valid := false } }))
  (v2.coolFor (fld w0 19 16) mask).forAll ds (fun u d => u.claimStrm id d)

/-- LOAD (R96, R615, R678). -/
def Dev.loadOrder (v : Dev) (die n : Nat) : Dev :=
  if v.hbm.busy then v else v.order die n 1 (fun u t =>
    let id := t.sid die
    let a := wd t.ws 2
    if (u.sched id).phase ≠ .none then u.finishSid die t 0 2
    else
      let bad (w : Dev) : LoadBad → Dev
        | .status c => w.finishSid die t c 0
        | .host h => w.finishSid die t 0 h
      match u.imageRead die a 64 with
      | (.error e, w) => bad w e
      | (.ok bs, w) =>
        let ws := bytesToWords 8 bs
        let ns := fld (wd ws 0) 15 8
        if fld (wd ws 0) 7 0 ≠ 1 then w.finishSid die t 2 0
        else if ns = 0 then w.finishSid die t 3 0
        else if 77 < ns then w.finishSid die t 4 0
        else if w.descOutside die (a.toNat + 64) ns then w.finishSid die t 0x0A 0
        else match w.descRead die (a.toNat + 64) ns with
        | (.error e, x) => bad x e
        | (.ok ds, x) =>
          match x.loadBad die ((wd ws 1).setWidth 48) ds with
          | some c => x.finishSid die t c 0
          | none => (x.claim id (wd ws 0) (wd ws 1) ds).finishSid die t 0 0)
def execLoad (d : DieId) (ring : RingId) (s : State) : Host.Outcome State Fault Refusal := s.onDev (fun v => v.loadOrder d.val ring.val)

/-! ### START and RESUME (R98 to R103, R569) -/

/-- The effective base of an order (R98). -/
def Dev.baseOf (v : Dev) (base ref : W64) : Nat := base.toNat + v.ft.shift - ref.toNat
/-- The refusals of R100 that rest on time alone: STALE_SHIFT, then START_PAST, as the given codes. -/
def Dev.baseBad (v : Dev) (base ref : W64) (stale past : Nat) : Option Nat :=
  if v.ft.shift < ref.toNat then some stale else if v.baseOf base ref ≤ v.ft.now then some past else none
/-- The first refusal of R100. -/
def Dev.startBad (v : Dev) (t : Taken) (id : Nat) : Option Nat :=
  let p := (v.sched id).phase
  if !v.ft.locked then some 1
  else if p = .none ∨ p = .saved then some 0x0B
  else if p = .running then some 0x0C
  else v.baseBad (wd t.ws 2) (wd t.ws 3) 0x0D 0x0E

/-- A stream at entry `first` of a new run; its buffer is refetched unless the LOAD's is used (R102, R103, R569, R653). -/
def Dev.rewind (v : Dev) (keep : Bool) (k first : Nat) : Dev :=
  let v1 := v.modStrm k (fun s => { s with
    buf := if keep then s.buf else []
    fetchNext := if keep then s.fetchNext else first
    next := first
    lastRetired := 0
    noneRetired := true
    checked := false
    tested := false
    granted := false
    acquiring := false
    stall := 0
    flights := []
    finished := decide (s.count ≤ first)
    haltSeen := false
    stopped := false })
  if keep then v1 else v1.refill k
/-- A schedule runs from its base, each stream from its first entry; the order is accepted (R98, R101, R611). -/
def Dev.beginRun (v : Dev) (die id base : Nat) (o : OrderRef) (keep : Bool) (firsts : List Nat) : Dev :=
  let ks := (v.sched id).streams
  let v1 := v.modSched id (fun s => { s with phase := .running, base := base, relTop := 0, first := false, halted := false, status := 0, run := some o })
  let v2 := v1.forAll (ks.zip firsts) (fun u p => u.rewind keep p.1 p.2)
  v2.accept die o.ring
/-- The heads are checked, waits considered, slip recomputed; a schedule with nothing to run finishes (R89, R102). -/
def Dev.firstHeads (v : Dev) (id : Nat) : Dev :=
  let ks := (v.sched id).streams
  (((v.forAll ks Dev.checkHead).grantPass).forAll ks Dev.reslip).finishSched id

/-- What a START does to the units: generators are seeded, no tile is in place, request lines forget their counts (R171, R241, R385). -/
def Dev.freshUnits (v : Dev) (id : Nat) : Dev :=
  let s := v.sched id
  let v1 := v.forAll ((List.range 48).filter (fun c => bit s.coreMask.toNat c)) (fun u c => u.modCore c (fun k =>
    let k1 := k.seed c
    { k1 with tile := { k1.tile with valid := false }
              dma := { k1.dma with lines := k1.dma.lines.foldl (fun t e => tmod {} t e.1 (fun (l : ReqLine) => { l with pending := 0 })) k1.dma.lines } }))
  v1.forAll (s.streams.filter (fun k => strmKind k = 4)) (fun u k =>
    let st := strmUnit k
    u.modStk st (fun q => if u.hbm.mode = 0 then q.seed 0 256 else q.seed (128 * stkDie st) 128))

/-- START (R98, R100, R241, R385). -/
def Dev.startOrder (v : Dev) (die n : Nat) : Dev :=
  v.order die n 2 (fun u t =>
    let id := t.sid die
    match u.startBad t id with
    | some c => u.finishSid die t c 0
    | none =>
      let keep := (u.sched id).first
      ((u.freshUnits id).beginRun die id (u.baseOf (wd t.ws 2) (wd t.ws 3)) t.o keep ((u.sched id).streams.map (fun _ => 0))).firstHeads id)
def execStart (d : DieId) (ring : RingId) (s : State) : Host.Outcome State Fault Refusal := s.onDev (fun v => v.startOrder d.val ring.val)

/-- The first entries a RESUME's table names, one for each stream (R569). -/
def Dev.resumeTable (v : Dev) (id : Nat) (a : W64) : List Nat :=
  (bytesToWords (v.sched id).streams.length (v.hostRead (offOf a) (8 * (v.sched id).streams.length))).map (fun w => fld w 24 0)
/-- RESUME (R569, R615). -/
def Dev.resumeOrder (v : Dev) (die n : Nat) : Dev :=
  v.order die n 3 (fun u t =>
    let id := t.sid die
    let a := wd t.ws 4
    let ks := (u.sched id).streams
    let firsts := u.resumeTable id a
    match u.startBad t id with
    | some c => u.finishSid die t c 0
    | none =>
      if fld a 61 48 ≠ 0 || u.hostBad (offOf a) (8 * ks.length) then u.finishSid die t 0 5
      else if (ks.zip firsts).any (fun p => decide ((u.strm p.1).count < p.2)) then u.finishSid die t 4 0
      else (u.beginRun die id (u.baseOf (wd t.ws 2) (wd t.ws 3)) t.o false firsts).firstHeads id)
def execResume (d : DieId) (ring : RingId) (s : State) : Host.Outcome State Fault Refusal := s.onDev (fun v => v.resumeOrder d.val ring.val)

/-! ### ABORT and UNLOAD (R105, R613, R615) -/

/-- ABORT: the running schedule is stopped as by a fault with status ABORTED; the order completes after its run (R105, R615). -/
def Dev.abortOrder (v : Dev) (die n : Nat) : Dev :=
  v.order die n 4 (fun u t =>
    let id := t.sid die
    if (u.sched id).phase ≠ .running then u.finishSid die t 0 3
    else
      let v1 := u.modSched id (fun s => { s with aborts := s.aborts ++ [t.o] })
      if (u.sched id).halted then v1 else v1.dieFault die 0x0F none 0#64 [id])
def execAbort (d : DieId) (ring : RingId) (s : State) : Host.Outcome State Fault Refusal := s.onDev (fun v => v.abortOrder d.val ring.val)

/-- A schedule's streams are given up (R97, R653). -/
def Dev.dropStrms (v : Dev) (id : Nat) : Dev :=
  v.forAll (v.sched id).streams (fun u k =>
    if (u.strm k).loaded && decide (strmDie k * 256 + (u.strm k).sched = id) then
      u.modStrm k (fun s => { s with loaded := false, lateFlag := false, slipNow := 0, buf := [], flights := [], granted := false, acquiring := false, checked := false })
    else u)
/-- A schedule number is free again, and is no part of a saved image. -/
def Dev.forget (v : Dev) (id : Nat) : Dev :=
  let c := (v.sched id).context
  let keep (s : SavedCtx) : SavedCtx :=
    let r := s.scheds.erase id
    if r.isEmpty then {} else { s with scheds := r }
  ((v.dropStrms id).modSched id (fun _ => {})).modCtxSwD (id / 256) (fun s => { s with images := tmod {} s.images c keep })
/-- UNLOAD: a run still saved completes with ABORTED first (R613). -/
def Dev.unloadOrder (v : Dev) (die n : Nat) : Dev :=
  v.order die n 5 (fun u t =>
    let id := t.sid die
    let s := u.sched id
    if s.phase = .none then u.finishSid die t 0x0B 0
    else if s.phase = .running then u.finishSid die t 0x0C 0
    else ((u.endRun id 0x0F).forget id).finish die t.o 0 0 (schedW2 s id) 0)
def execUnload (d : DieId) (ring : RingId) (s : State) : Host.Outcome State Fault Refusal := s.onDev (fun v => v.unloadOrder d.val ring.val)

/-! ### COPY (R370, R371, R378, R389) -/

/-- COPY: the descriptor joins its channel's queue, or is refused. -/
def Dev.copyOrder (v : Dev) (die n : Nat) : Dev :=
  v.order die n 8 (fun u t =>
    let c := fld (wd t.ws 1) 5 0
    let o := decDma t.ws
    if 48 ≤ c || decide (coreDie c ≠ die) then u.finish die t.o 0 4 0 0
    else if u.dmaBad c true o then u.finish die t.o 4 0 0 0
    else (u.accept die t.o.ring).dmaJoin c o.chan { words := t.ws, order := some t.o })
def execCopy (d : DieId) (ring : RingId) (s : State) : Host.Outcome State Fault Refusal := s.onDev (fun v => v.copyOrder d.val ring.val)

end Sys2Proof.Machine
end

