-- ==== Sys2Proof/Machine/Context.lean ====
section
/-! DEFINITION. Context switches (16): SAVE, its drain and its copy, and RESTORE_CTX. -/

namespace Sys2Proof.Machine

/-! ### Save areas (R583, R584) -/

/-- Bytes of a save area. -/
def areaLen : Nat := 0x30100000
/-- GLB_CTX_AREA(n) of a die. -/
def Dev.area (v : Dev) (die n : Nat) : Nat := (tget 0#64 (v.ctxSwD die).area n).toNat
/-- The save area does not lie in usable stack memory (R584). -/
def Dev.areaBad (v : Dev) (die n : Nat) : Bool := !(decide (v.area die n < stackEnd) && v.hbm.usable (v.area die n) areaLen)
/-- Offset of a core's state. -/
def coreArea (c : Nat) : Nat := c % 24 * 0x2000000
/-- The bytes of a memory in a range, with their addresses moved. -/
def cellsAt (m : Mem) (lo n dst : Nat) : List Host.Cell := (m.filter (fun e => decide (lo ≤ e.1) && decide (e.1 < lo + n))).map (fun e => (e.1 - lo + dst, e.2))
/-- A range of a memory replaced by the given listed bytes. -/
def mpaste (m : Mem) (lo n : Nat) (cs : List Host.Cell) : Mem :=
  (cs.filter (fun e => decide (lo ≤ e.1) && decide (e.1 < lo + n))).foldl (fun q e => mset q e.1 e.2) (mclear m lo n)
/-- Granules of a range of usable stack memory on which an access meets a stack path error, in rising order (R415, R416). -/
def Dev.errGrains (v : Dev) (lo n : Nat) : List Nat :=
  let dead := if v.hbm.chans.any (fun e => e.2.failed) then ((List.range (n / 64)).map (fun i => lo / 64 + i)).filter (fun g => (v.chan (v.hbm.chanOf (64 * g))).failed) else []
  sortBy id ((v.hbm.stkBad.filter (fun g => decide (lo / 64 ≤ g) && decide (g < (lo + n) / 64) && !dead.contains g)) ++ dead)
/-- Each is counted and posted; the copy goes on with the others, for Table 12.5 names no outcome (R417, log entry 64). -/
def Dev.pathErrors (v : Dev) (gs : List Nat) (req : Nat) : Dev := v.forAll gs (fun u g => u.pathError (64 * g) req)
/-- A listing in which the granules named keep the bytes of another. -/
def spliced (cs old : List Host.Cell) (gs : List Nat) : Mem :=
  (old.filter (fun e => gs.contains (e.1 / 64))).foldl (fun q e => mset q e.1 e.2) (cs.filter (fun e => !gs.contains (e.1 / 64)))
/-- Write a range of stack memory given by its listed bytes: at once, or granule by granule where a page of it is stale (R573). A granule that
meets a path error keeps its bytes (R417). -/
def Dev.areaWrite (v : Dev) (die lo n : Nat) (cs : List Host.Cell) : Dev :=
  let bad := v.errGrains lo n
  let put := spliced cs (cellsAt v.hbm.mem lo n lo) bad
  let v1 := if v.moult.active then v.stackWrite lo (mread put lo n) (74 + die) none
    else v.modHbm (fun h => { h with mem := mpaste h.mem lo n put })
  v1.pathErrors bad (74 + die)
/-- Accumulator words as listed bytes at an address, and back. -/
def accCells (t : Tab W32) (dst : Nat) : List Host.Cell :=
  (t.map (fun e => ((List.range 4).map (fun i => (dst + 4 * e.1 + i, byteOf (e.2.toNat / 256 ^ i)))).filter (fun c => decide (c.2 ≠ 0#8)))).flatten
def accOf (m : Mem) (lo : Nat) : Tab W32 :=
  ((m.filter (fun e => decide (lo ≤ e.1) && decide (e.1 < lo + 0x400000))).map (fun e => (e.1 - lo) / 4)).eraseDups.map (fun w =>
    (w, w32 (ofBytes (mread m (lo + 4 * w) 4))))
/-- Bytes whose values the spec does not give: the other state and the die-wide state of a save area (log entry 3). -/
def Dev.freeCells (v : Dev) (lo n : Nat) : List Host.Cell × Dev :=
  (((List.range n).map (fun i => (lo + i, byteOf (Config.freeWord (v.freeCtr + i)).toNat))).filter (fun c => decide (c.2 ≠ 0#8)), v.skipFree n)

/-! ### SAVE (R585) -/

/-- Schedules of a context that a die holds loaded. -/
def Dev.ctxScheds (v : Dev) (die n : Nat) : List Nat :=
  (v.scheds.filter (fun e => decide (e.1 / 256 = die) && decide (e.2.context = n) && decide (e.2.phase = .loaded ∨ e.2.phase = .running ∨ e.2.phase = .stopped))).map (fun e => e.1)
/-- Streams and cores of a list of schedules. -/
def Dev.strmsOf (v : Dev) (ids : List Nat) : List Nat := (ids.map (fun id => (v.sched id).streams)).flatten
def Dev.coresOf (v : Dev) (ids : List Nat) : List Nat := (List.range 48).filter (fun c => ids.any (fun id => bit (v.sched id).coreMask.toNat c))
/-- A running schedule starts no further entry, and its waiting entries are withdrawn; what its heads have taken stays taken. -/
def Dev.pauseSched (v : Dev) (id : Nat) : Dev :=
  if (v.sched id).phase = .running ∧ ¬(v.sched id).halted then
    (v.forAll (v.sched id).streams (fun u k => u.modStrm k (fun s => { s with stopped := true }))).forAll (v.sched id).streams Dev.withdrawWaiting
  else v
/-- SAVE (R584, R585). -/
def Dev.saveOrder (v : Dev) (die n : Nat) : Dev :=
  v.order die n 0x14 (fun u t =>
    let x := fld (wd t.ws 1) 3 0
    let ids := u.ctxScheds die x
    if ids.isEmpty then u.finish die t.o 0x0C 0 x 0
    else if u.areaBad die x then u.finish die t.o 0x0D 0 x 0
    else (u.modCtxSwD die (fun s => { s with busy := .draining, ctx := x, order := some t.o, scheds := ids })).forAll ids Dev.pauseSched)
def execSave (d : DieId) (ring : RingId) (s : State) : Host.Outcome State Fault Refusal := s.onDev (fun v => v.saveOrder d.val ring.val)

/-- PARTIAL entries are recorded with cause ABORTED; while a record is held they are counted (R20, R585). -/
def Dev.recordCut (v : Dev) (die : Nat) (ids : List Nat) : Dev :=
  let parts := (ids.map (fun id => ((v.inFlight id).filter (fun p => p.2.part)).map (fun p => (id, p)))).flatten
  let r := v.flt die
  if parts.isEmpty then v
  else if r.capturing || r.valid then
    let v1 := v.modFlt die (fun q => { q with overflow := satAdd q.overflow 1 65535 })
    v1.ev die (74 + die) 0x019 0x0F (v1.flt die).overflow
  else
    let v1 := ((v.capHeader die 0x0F none 0#64 ids).modFlt die (fun q => { q with snap := parts, capScheds := [] })).writeRecord die false
    v1.ev die (74 + die) 0x018 0x0F (v1.flt die).schedTag
/-- SAVE_DRAIN_EXPIRY: the entries still at work are cut short and recorded (R561, R585). -/
def Dev.drainExpiry (v : Dev) (die : Nat) : Dev :=
  let s := v.ctxSwD die
  if s.busy = .draining then
    let old := s.scheds.filter (fun id => !(v.sched id).halted)
    ((v.cutShort old).recordCut die old).modCtxSwD die (fun q => { q with busy := .saving })
  else v
def execSaveDrainExpiry (d : DieId) (s : State) : Host.Outcome State Fault Refusal := s.onDev (fun v => v.drainExpiry d.val)

/-- Every started entry has ended, none can still retire, no capture runs, and the channels of the context's cores issue nothing. -/
def Dev.drained (v : Dev) (die : Nat) (ids : List Nat) : Bool :=
  v.captureDone ids && !(v.flt die).capturing && (v.strmsOf ids).all (fun k => (v.retirable k).isNone) &&
  (v.coresOf ids).all (fun c => (v.core c).dma.chans.all (fun e => !e.2.draining))

/-- Write a core's scratchpad, accumulator and other state to the save area (R583). -/
def Dev.saveCore (v : Dev) (base : Nat) (c : Nat) : Dev :=
  let a := base + coreArea c
  let k := v.core c
  let v1 := v.areaWrite (coreDie c) a spadBytes (cellsAt k.spad 0 spadBytes a)
  let v2 := v1.areaWrite (coreDie c) (a + 0x1800000) 0x400000 (accCells k.acc (a + 0x1800000))
  let (o, v3) := v2.freeCells (a + 0x1C00000) 65536
  v3.areaWrite (coreDie c) (a + 0x1C00000) 65536 o
/-- Dirty L1 lines are written back and every line invalidated (Table 16.13). -/
def Dev.emptyCaches (v : Dev) (c : Nat) : Dev :=
  (v.forAll (v.core c).l1 (fun u e => (u.writeBack c e.1 none).1)).modCore c (fun k => { k with l1 := [], l2 := [] })
/-- A context that waits for an access gives the access up: the instruction, at which its pc still stands, issues again when the context runs
on (R291; DEDUCED, log entry 64). -/
def Ctx.reissue (x : Ctx) : Ctx :=
  match x.wait with
  | .load _ _ _ _ _ _ => { x with state := .running, wait := .none }
  | .store _ _ _ _ => { x with state := .running, wait := .none }
  | .amo _ _ _ _ _ _ _ => { x with state := .running, wait := .none }
  | .put _ _ _ _ _ => { x with state := .running, wait := .none }
  | .flush _ => { x with state := .running, wait := .none }
  | .fence _ => { x with state := .running, wait := .none }
  | .counter _ _ _ => x
  | .barrier _ _ _ => x
  | .none => x
/-- What reads of other modules the contexts of these cores have outstanding finds them gone. -/
def Dev.dropLoads (v : Dev) (die : Nat) (cs : List Nat) : Dev :=
  v.modFabD die (fun f => { f with reqs := f.reqs.map (fun r => match r.purpose with
    | .sclLoad c _ => if cs.contains c then { r with purpose := .gone } else r
    | .chunk _ _ => r
    | .dmaRead _ _ _ _ => r
    | .dmaWrite _ _ _ _ => r
    | .sclStore _ _ _ => r
    | .sealRead _ _ _ => r
    | .gone => r) })
/-- A core with what a context takes with it taken away: its contexts idle, its DX channels empty (Table 16.13). -/
def Core.vacated (k : Core) : Core :=
  { k with
    ctxs := k.ctxs.foldl (fun t e => tmod {} t e.1 (fun (x : Ctx) => { x with state := .idle, cause := 0, wait := .none, reservation := none, stopping := false })) k.ctxs
    dma := { k.dma with chans := k.dma.chans.filter (fun e => bit k.dma.ringChans e.1) } }
/-- Engine counters of a die (Table 10.1), and counters of a core. -/
def engineCtrs (die : Nat) : List Nat := (List.range 1024).map (fun i => 12288 + die * 1024 + i)
def coreCtrs (c : Nat) : List Nat := (List.range 256).map (fun i => c * 256 + i)
/-- What RESTORE_CTX will put back (Table 16.13). -/
def Dev.imageOf (v : Dev) (die : Nat) (ids : List Nat) : SavedCtx :=
  let ks := v.strmsOf ids
  let cs := v.coresOf ids
  let ctrs := (cs.map coreCtrs).flatten ++ (if ks.any (fun k => decide (3 ≤ strmKind k)) then engineCtrs die else [])
  { scheds := ids
    strms := ks.map (fun k => (k, v.strm k))
    cores := cs.map (fun c => (c, v.core c))
    ctrs := ctrs.map (fun i => (i, v.ctr i))
    stackRegs := (ks.filter (fun k => strmKind k = 4)).map (fun k => (strmUnit k, v.stk (strmUnit k))) }
/-- The wing of a core is warm for a context (R587). -/
def warmWing (warm i n : Nat) : Nat := warm - bits warm (8 * i + 4) (8 * i) * 2 ^ (8 * i) + (n + 16) * 2 ^ (8 * i)
/-- SAVE_COPY_DONE: the state is in the save area, the schedules are saved and their units free (R585, R587). -/
def Dev.saveCopied (v : Dev) (die : Nat) : Dev :=
  let s := v.ctxSwD die
  if (s.busy = .draining ∨ s.busy = .saving) ∧ v.drained die s.scheds ∧ v.issueOk then
    let base := v.area die s.ctx
    let cs := v.coresOf s.scheds
    let v1 := (v.forAll cs Dev.emptyCaches).forAll cs (fun u c => u.saveCore base c)
    let (o, v2) := v1.freeCells (base + 0x30000000) 0x100000
    let v3 := v2.areaWrite die (base + 0x30000000) 0x100000 o
    let img := v3.imageOf die s.scheds
    let v4 := (v3.forAll cs (fun u c => u.modCore c Core.vacated)).dropLoads die cs
    let v5 := v4.forAll (v4.strmsOf s.scheds) (fun u k => u.modStrm k (fun q => { q with loaded := false, buf := [], flights := [] }))
    let v6 := v5.forAll s.scheds (fun u id => u.modSched id (fun q => { q with phase := .saved, was := q.phase }))
    let v7 := v6.modCtxSwD die (fun q => { q with
      busy := .none
      order := none
      scheds := []
      images := tset {} q.images s.ctx img
      warm := cs.foldl (fun w c => warmWing w (c / 6 % 4) s.ctx) q.warm })
    match s.order with
    | none => v7
    | some o => v7.finish die o 0 0 s.ctx 0
  else v
def execSaveCopyDone (d : DieId) (s : State) : Host.Outcome State Fault Refusal := s.onDev (fun v => v.saveCopied d.val)

/-! ### RESTORE_CTX (R586, R587) -/

/-- A unit of the context's saved schedules is claimed. -/
def Dev.ctxUnitsBusy (v : Dev) (ids : List Nat) : Bool := ids.any (fun id => v.unitsBusy (v.sched id).coreMask (v.sched id).streams)
/-- A saved schedule takes up its phase again; one that was running runs on at a new base. -/
def Sched.comeBack (base : Nat) (q : Sched) : Sched :=
  if q.was = .running ∧ ¬q.halted then { q with phase := q.was, was := .none, base := base, relTop := 0 } else { q with phase := q.was, was := .none }
/-- RESTORE_CTX: the units are claimed, what ran runs at its new base, and the copy begins; its streams start nothing until it ends (R98,
R100, R101, R586, R611). -/
def Dev.restoreCtxOrder (v : Dev) (die n : Nat) : Dev :=
  if v.hbm.busy then v else v.order die n 0x15 (fun u t =>
    let x := fld (wd t.ws 1) 3 0
    let img : SavedCtx := tget {} (u.ctxSwD die).images x
    let base := u.baseOf (wd t.ws 2) (wd t.ws 3)
    if img.scheds.isEmpty then u.finish die t.o 0x0C 0 x 0
    else if u.areaBad die x then u.finish die t.o 0x0D 0 x 0
    else if u.ctxUnitsBusy img.scheds then u.finish die t.o 0x0E 0 x 0
    else if !u.ft.locked then u.finish die t.o 1 0 x 0
    else match u.baseBad (wd t.ws 2) (wd t.ws 3) Config.staleShiftCode.toNat Config.startPastCode.toNat with
    | some c => u.finish die t.o c 0 x 0
    | none =>
      let v1 := u.forAll img.scheds (fun w id => w.coolFor x (w.sched id).coreMask)
      let mine := v1.strmsOf img.scheds
      let v2 := v1.forAll (img.strms.filter (fun e => mine.contains e.1)) (fun w e => w.modStrm e.1 (fun _ => { e.2 with stopped := true, checked := false }))
      let v3 := v2.forAll img.scheds (fun w id => w.modSched id (Sched.comeBack base))
      ((v3.modCtxSwD die (fun s => { s with busy := .restoring, ctx := x, order := some t.o, scheds := img.scheds })).release.settleTime).accept die t.o.ring)
def execRestoreCtx (d : DieId) (ring : RingId) (s : State) : Host.Outcome State Fault Refusal := s.onDev (fun v => v.restoreCtxOrder d.val ring.val)

/-- A core's scratchpad and accumulator come back from the save area; a granule that meets a path error delivers nothing (R417, R583, R587). -/
def Dev.fillCore (v : Dev) (base c : Nat) : Dev :=
  let a := base + coreArea c
  let k := v.core c
  let bad := v.errGrains a spadBytes
  let badAcc := v.errGrains (a + 0x1800000) 0x400000
  let spad := spliced (cellsAt v.hbm.mem a spadBytes a) (cellsAt k.spad 0 spadBytes a) bad
  let acc := spliced (cellsAt v.hbm.mem (a + 0x1800000) 0x400000 (a + 0x1800000)) (accCells k.acc (a + 0x1800000)) badAcc
  (v.modCore c (fun k => { k with spad := cellsAt spad a spadBytes 0, spadBad := [], acc := accOf acc (a + 0x1800000), accBad := [] })).pathErrors
    (bad ++ badAcc ++ v.errGrains (a + 0x1C00000) 65536) (74 + coreDie c)
/-- A wing is warm for a context. -/
def warmFor (warm c n : Nat) : Bool := bit warm (8 * (c / 6 % 4) + 4) && decide (bits warm (8 * (c / 6 % 4) + 3) (8 * (c / 6 % 4)) = n)
/-- What a core gets back beside its memories (Table 16.13), and the tile in its array: the table does not name it, but a REUSE entry after the
switch has the same result as without one (R216; DEDUCED, log entry 63). -/
def Core.putBack (k old : Core) : Core :=
  { k with
    gens := old.gens
    seeded := old.seeded
    rngFree := old.rngFree
    ctxs := old.ctxs.map (fun e => (e.1, { e.2.reissue with posted := (tget ({} : Ctx) k.ctxs e.1).posted, reservation := none }))
    tile := old.tile
    dma := { k.dma with
      chans := old.dma.chans.foldl (fun t e => if bit k.dma.ringChans e.1 then t else tset {} t e.1 e.2) k.dma.chans
      lines := old.dma.lines.foldl (fun t e => tmod {} t e.1 (fun (l : ReqLine) => { l with pending := e.2.pending })) k.dma.lines } }
/-- Fetch one entry again. -/
def Dev.refetchAt (v : Dev) (k i : Nat) (noWait : Bool) : Dev :=
  let v1 := (v.modStrm k (fun s => { s with fetchNext := i })).fetchOne k
  if noWait then v1.modStrm k (fun s => { s with buf := s.buf.map (fun e => if e.idx = i then { e with noWait := true } else e) }) else v1
/-- A stream goes on: entries withdrawn or cut short start again from their start without waiting again, and the buffer is refetched; behind
an entry with HALT that has started nothing else does (R102, R586). -/
def Dev.continueStrm (v : Dev) (k : Nat) : Dev :=
  let s := v.strm k
  let again := (s.flights.filter (fun f => f.withdrawn || f.part)).map (fun f => f.idx)
  let taken := again ++ (s.buf.filter (fun e => e.noWait)).map (fun e => e.idx) ++ (if s.granted then [s.next] else [])
  let idxs := sortBy id (again ++ (if s.haltSeen then [] else s.buf.map (fun e => e.idx)))
  let rest := if s.haltSeen then s.count else s.fetchNext
  let v1 := v.modStrm k (fun q => { q with
    buf := []
    next := idxs.headD rest
    flights := q.flights.filter (fun f => !f.withdrawn && !f.part)
    checked := false
    tested := false
    granted := false
    acquiring := false
    stall := 0
    stopped := false
    haltSeen := false })
  let v2 := v1.forAll idxs (fun u i => u.refetchAt k i (taken.contains i))
  (v2.modStrm k (fun q => { q with fetchNext := rest })).refill k
/-- A schedule goes on, or stays as it was when it did not run. -/
def Dev.continueSched (v : Dev) (id : Nat) : Dev :=
  let s := v.sched id
  if s.phase = .running ∧ ¬s.halted then (v.forAll s.streams Dev.continueStrm).firstHeads id
  else if s.phase = .loaded then v.forAll s.streams (fun u k => (u.modStrm k (fun q => { q with stopped := false, buf := [], fetchNext := q.next })).refill k)
  else v
/-- RESTORE_CTX_COPY_DONE: the state is back, and every stream goes on from its saved position (R586, R587). -/
def Dev.ctxCopied (v : Dev) (die : Nat) : Dev :=
  let s := v.ctxSwD die
  if s.busy = .restoring ∧ v.issueOk then
    let img : SavedCtx := tget {} s.images s.ctx
    let base := v.area die s.ctx
    let cs := v.coresOf s.scheds
    let v1 := v.forAll cs (fun u c => if warmFor s.warm c s.ctx then u else u.fillCore base c)
    let v2 := v1.forAll (img.cores.filter (fun e => cs.contains e.1)) (fun u e =>
      u.modCore e.1 (fun k => k.putBack e.2))
    let v3 := v2.forAll img.ctrs (fun u e => u.modCtr e.1 (fun c => { e.2 with transit := c.transit }))
    let v4 := v3.forAll img.stackRegs (fun u e => u.modStk e.1 (fun q => { q with gens := e.2.gens, seeded := e.2.seeded, rngFree := e.2.rngFree }))
    let v5 := (v4.pathErrors (v4.errGrains (base + 0x30000000) 0x100000) (74 + die)).modCtxSwD die (fun q => { q with busy := .none, order := none, scheds := [], images := tset {} q.images s.ctx {} })
    let v6 := v5.forAll s.scheds (fun u id => u.continueSched id)
    match s.order with
    | none => v6
    | some o => v6.complete die o 0 0 s.ctx 0
  else v
def execRestoreCtxCopyDone (d : DieId) (s : State) : Host.Outcome State Fault Refusal := s.onDev (fun v => v.ctxCopied d.val)

end Sys2Proof.Machine
end

