-- ==== Sys2Proof/Machine/Faults.lean ====
section
/-! DEFINITION. The release of a fault record, and Forzoevo's tests and repairs of cores (16, 04, 09). -/

namespace Sys2Proof.Machine

/-- The schedules of a die that wait for a LATE record, the earliest fault first (R566). -/
def Dev.lateScheds (v : Dev) (die : Nat) : List (Nat × LateFault) :=
  sortBy (fun e => e.2.order) (somes (v.scheds.map (fun e => if e.1 / 256 = die then e.2.late.map (fun f => (e.1, f)) else none)))

/-- RELEASE: VALID is cleared; faults not yet described are captured in a LATE record, with the states as they stand (R566). -/
def Dev.releaseRecord (v : Dev) (die : Nat) (x : W32) : Dev :=
  if !bit x.toNat 0 || !(v.flt die).valid then v
  else
    let v1 := v.modFlt die (fun r => { r with valid := false, pending := false })
    match v1.lateScheds die with
    | [] => v1
    | e :: rest =>
      let ids := (e :: rest).map (fun x => x.1)
      ((v1.cutShort ids).capHeader die e.2.cause e.2.strm e.2.detail ids).closeRecord die false true
def execRelease (d : DieId) (v : W32) (s : State) : Host.Outcome State Fault Refusal := s.onDev (fun u => u.releaseRecord d.val v)

/-! ### Tests and repairs (R159 to R161, R309 to R311, R567) -/

/-- A core is retired (R161, R172, R311, R365). -/
def Dev.retireCore (v : Dev) (c : Nat) : Dev :=
  let v1 := v.modCore c (fun k => { k with retired := true })
  (v1.forAll v1.scheds (fun u e => u.modSched e.1 (fun s => { s with coreMask := s.coreMask &&& ~~~(BitVec.ofNat 48 (2 ^ c)) }))).barRetire c
/-- Forzoevo records and logs a core's retirement. -/
def retireCoreFor (c arg : Nat) (mv : Mgmt × Dev) : Mgmt × Dev :=
  logBoth 0x04 c arg ({ mv.1 with retiredCores := if mv.1.retiredCores.contains c then mv.1.retiredCores else mv.1.retiredCores ++ [c] }, mv.2.retireCore c)

/-- A column marked in an array by soft repair (R159, R587, R679). -/
def Dev.repairColumn (v : Dev) (c col : Nat) : Dev :=
  (v.modCore c (fun k => { k with marked := insBy id col k.marked, softRepair := true })).coolWing c
/-- The physical column of bit column j of a bank, 0 to 575: the columns not marked, in order (R309). -/
def BankSt.physical (t : BankSt) (j : Nat) : Nat := ((List.range 580).filter (fun c => !t.marked.contains c)).getD j 0
/-- A bank's state with one more column marked. -/
def BankSt.mark (soft : Bool) (col : Nat) (t : BankSt) : BankSt := { marked := insBy id col t.marked, soft := t.soft || soft }
/-- A column marked in a bank: every row of the bank is zero after it (R310, R587). -/
def Core.repairBank (k : Core) (b col : Nat) : Core :=
  { k with
    banks := tmod {} k.banks b (BankSt.mark true col)
    spad := k.spad.filter (fun e => decide (e.1 / 64 % 64 ≠ b))
    spadBad := k.spadBad.filter (fun a => decide (a / 64 % 64 ≠ b)) }

/-- CORE_TESTED: what the test of a core found, repaired or retired (R567). The event's outcome is 0 passed, 1 repaired, 2 retired. -/
def coreTested (c : Nat) (result : TestResult) (m : Mgmt) (v : Dev) : Mgmt × Dev :=
  if !m.running || !(v.core c).testDue || v.coreClaimed c then (m, v)
  else
    let v1 := v.modCore c (fun k => { k with testDue := false })
    let done (n : Nat) (mv : Mgmt × Dev) : Mgmt × Dev := (mv.1, mv.2.evMgmt 0x069 c n)
    match result with
    | .passed => done 0 (m, v1)
    | .column col =>
      if 260 ≤ col ∨ (v1.core c).marked.contains col then (m, v)
      else if (v1.core c).marked.length < 4 then
        done 1 (logBoth 0x05 c col ({ m with softCols := m.softCols ++ [(c, col)] }, v1.repairColumn c col))
      else done 2 (retireCoreFor c col (m, v1))
    | .bank b col =>
      let had := (tget ({} : BankSt) (v1.core c).banks b.val).marked
      if had.contains col.val then (m, v)
      else if had.length < 4 then
        done 1 (logBoth 0x05 c col.val ({ m with softBanks := m.softBanks ++ [(c, b.val, col.val)] }, (v1.modCore c (fun k => k.repairBank b.val col.val)).coolWing c))
      else done 2 (retireCoreFor c col.val (m, v1))
def execCoreTested (c : CoreId) (result : TestResult) (s : State) : Host.Outcome State Fault Refusal := s.onBoth (coreTested c.val result)

end Sys2Proof.Machine
end

