-- ==== Sys2Proof/Machine/Startup.lean ====
section
/-! DEFINITION. Start-up and the cold, module and management resets (18), with the pins of 20 that bear on them. -/

namespace Sys2Proof.Machine

/-! ### The main rails -/

/-- The main rails go off: every memory and register of the control and data planes returns to its value at reset, and a Moult ends (R308,
R420, R579, Table 18.9). What stays is outside them: the input, the bank, the host's memory (log entry 2) and the model's own records; events
that have reached the mergers are written first. -/
def Dev.railsOff (v : Dev) : Dev :=
  { hostMem := v.mergeAll.hostMem
    hostErr := v.hostErr
    freeCtr := v.freeCtr
    out := v.mergeAll.out
    pwr := { vin := v.pwr.vin, energy := v.pwr.energy, bankLow := v.pwr.bankLow } }

/-- A TRAIN image that passed its check becomes active at a module reset (R628). -/
def activateTrain (mv : Mgmt × Dev) : Mgmt × Dev :=
  if mv.1.pendTrain then
    let b := 1 - mv.1.activeTrain
    logBoth 0x06 1 b ({ mv.1 with activeTrain := b, pendTrain := false }, mv.2)
  else mv

/-- A module reset: the rails go off, and start-up resumes at step 2 (R642, R645). Forzoevo stays as it is. -/
def moduleReset (m : Mgmt) (v : Dev) : Mgmt × Dev :=
  activateTrain ({ m with bootStep := if m.running then 1 else 0, resetDue := false }, v.railsOff)

/-- THERMAL_SAMPLE: with the trip's log entry, and the reset that waits for a tripped module to cool (R551). -/
def thermalStep (tj0 tj1 : Nat) (ts : List Nat) (m : Mgmt) (v : Dev) : Mgmt × Dev :=
  let r := logTrip v m (v.thermalSample m.running tj0 tj1 ts)
  if r.1.resetDue && r.1.running && decide (r.2.pwr.tjMax ≤ 90) then moduleReset r.1 r.2 else r
def execThermalSample (tj0 tj1 : Nat) (ts : Vector Nat 8) (s : State) : Host.Outcome State Fault Refusal := s.onBoth (thermalStep tj0 tj1 ts.toList)

/-! ### Forzoevo's start -/

/-- An image is valid (R627). -/
def Image.valid (img : Image) (fused : Nat) : Bool :=
  img.keyOk && img.sigOk && decide (img.digest = img.bodyDigest) && decide (fused ≤ img.svn) && decide (img.svn ≤ 32)
/-- The image of a bank passes. -/
def Mgmt.bankOk (m : Mgmt) (i : Nat) : Bool := match tget none m.banks i with | some img => Image.valid img m.fusedSvn | none => false
/-- NEXT from the records whose CRC is correct (R631). -/
def Mgmt.nextOfRecords (m : Mgmt) : Nat := ((m.attA ++ m.attB).filter (fun r => r.valid)).foldl (fun a r => max a r.next) 0

/-- The ROM checks the bank last activated, then the other, and runs the first that passes, or stays in recovery (R630, R631, R668). -/
def romStart (slot : Nat) (mv : Mgmt × Dev) : Mgmt × Dev :=
  let m := { mv.1 with slot := slot, attNext := mv.1.nextOfRecords, sensors := [], running := false, recovery := false }
  let a := m.activeMgmt
  if m.bankOk a then ({ m with running := true }, mv.2)
  else
    let (m1, v1) := logBoth 0x07 0 a (m, mv.2)
    if m1.bankOk (1 - a) then ({ m1 with running := true, activeMgmt := 1 - a }, v1)
    else
      let (m2, v2) := logBoth 0x07 0 (1 - a) (m1, v1)
      ({ m2 with recovery := true }, v2)

/-- A MGMT image that passed its check becomes active at a management reset (R628). -/
def activateMgmt (mv : Mgmt × Dev) : Mgmt × Dev :=
  if mv.1.pendMgmt then
    let b := 1 - mv.1.activeMgmt
    logBoth 0x06 0 b ({ mv.1 with activeMgmt := b, pendMgmt := false }, mv.2)
  else mv

/-- A management reset: the ROM runs again, the main rails untouched (R642, R644). Start-up goes on at step 2 where it waited for Forzoevo. -/
def mgmtRestart (slot : Nat) (mv : Mgmt × Dev) : Mgmt × Dev :=
  let r := romStart slot (activateMgmt mv)
  if r.1.running ∧ r.1.bootStep = 0 then ({ r.1 with bootStep := 1 }, r.2) else r

/-- AUX_UP: step 1 of start-up; once Forzoevo runs, AUX only takes over its supply (R620, R630, R639, R663). -/
def auxUp (slot : Nat) (m : Mgmt) (v : Dev) : Mgmt × Dev :=
  if m.running ∨ m.recovery then ({ m with aux := true }, v)
  else
    let r := romStart slot ({ m with aux := true, bootCount := m.bootCount + 1 }, v)
    ({ r.1 with bootStep := if r.1.running then 1 else 0 }, r.2)
def execAuxUp (slot : BitVec 7) (s : State) : Host.Outcome State Fault Refusal := s.onBoth (auxUp slot.toNat)

/-- AUX_LOSS: the internal bus or the bank carries Forzoevo while the main rails are up; without them it stops (R530, R620). -/
def auxLoss (m : Mgmt) (v : Dev) : Mgmt × Dev :=
  if v.pwr.rails then ({ m with aux := false }, v)
  else ({ m with aux := false, running := false, recovery := false, sensors := [], bootStep := 0 }, v)
def execAuxLoss (s : State) : Host.Outcome State Fault Refusal := s.onBoth auxLoss

/-- VIN_APPLIED: the input stage charges; the rails wait for boot step 2 (R662, R663). -/
def execVinApplied (vin : Nat) (s : State) : Host.Outcome State Fault Refusal := s.onDev (fun v => v.setVin vin)

/-! ### The steps of Table 18.7 -/

/-- The step after one that has ended begins (R639). -/
def atStep (n : Nat) (m : Mgmt) (v : Dev) (f : Mgmt → Dev → Mgmt × Dev) : Mgmt × Dev :=
  if m.bootStep = n ∧ m.running then f { m with bootStep := n + 1 } v else (m, v)

/-- INPUT_QUALIFIED: step 2, the rails come up; not while RESET_N holds them off (R639, R663, R667). -/
def inputQualified (vin : Nat) (m : Mgmt) (v : Dev) : Mgmt × Dev :=
  let v1 := v.setVin vin
  if goodInput vin && m.aux && !m.resetHold then atStep 1 m v1 (fun n u => (n, (u.modPwr (fun p => { p with rails := true, starting := true })).recharge))
  else (m, v1)
def execInputQualified (vin : Nat) (s : State) : Host.Outcome State Fault Refusal := s.onBoth (inputQualified vin)

/-- BANK_CHARGE: step 3 ends at 90%, or at once under the start override (R539). -/
def bankCharge (m : Mgmt) (v : Dev) : Mgmt × Dev :=
  if 27000 ≤ v.pwr.energy ∨ m.startOverride then
    atStep 2 m v (fun n u => (n, u.modPwr (fun p => { p with startOverride := decide (p.energy < 27000) })))
  else (m, v)
def execBankCharge (s : State) : Host.Outcome State Fault Refusal := s.onBoth bankCharge

/-- The physical columns of a core marked by fuse or soft repair, ascending (R158, R159, R679). -/
def Mgmt.columnsOf (m : Mgmt) (c : Nat) : List Nat := ((m.fusedCols ++ m.softCols).filter (fun x => x.1 = c)).map (fun x => x.2)
/-- A core's array and banks as fuses and flash give them. -/
def Core.fused (m : Mgmt) (c : Nat) (k : Core) : Core :=
  let mine (soft : Bool) (xs : List (Nat × Nat × Nat)) (t : Tab BankSt) : Tab BankSt :=
    (xs.filter (fun x => x.1 = c)).foldl (fun t x => tmod {} t x.2.1 (BankSt.mark soft x.2.2)) t
  { k with
    retired := m.retiredCores.contains c
    marked := sortBy id (m.columnsOf c)
    softRepair := m.softCols.any (fun x => decide (x.1 = c))
    banks := mine true m.softBanks (mine false m.fusedBanks []) }
/-- FAB_CHIP (Table 14.11) takes the chip number. -/
def Dev.setChip (v : Dev) (n : Nat) : Dev := { v with chip := n }
/-- FUSE_LOAD: step 4; fuses, then the flash records, are loaded into both dies, or the step fails and is logged (R158, R159, R309, R310,
R414, R639). RACK_CAP is handed over as R547 states. -/
def fuseLoad (ok : Bool) (m : Mgmt) (v : Dev) : Mgmt × Dev :=
  if !ok then (if m.bootStep = 3 ∧ m.running then logBoth 0x09 4 0 (m, v) else (m, v))
  else atStep 3 m v (fun n u =>
    let u1 := u.forAll (List.range 48) (fun w c => w.modCore c (Core.fused n c))
    let u2 := u1.forAll n.laneSpares (fun w e => w.modChan e.1 (fun c => { c with dqSpares := e.2.dqSpares, caSpares := e.2.caSpares }))
    (n, (u2.modPwr (fun p => { p with rackCapNext := some n.rackCap })).setChip n.chip))
def execFuseLoad (ok : Bool) (s : State) : Host.Outcome State Fault Refusal := s.onBoth (fuseLoad ok)

/-- Sync counters, fault records and schedule buffers are cleared. -/
def Dev.clearRams (v : Dev) : Dev := { v with ctrs := [], fault := [], strms := v.strms.map (fun e => (e.1, { e.2 with buf := [] })) }
/-- SRAM_CLEAR: step 5; scratchpads, accumulators, caches, schedule buffers, sync counters and fault records are cleared (R308, R556). -/
def Dev.sramClear (v : Dev) : Dev :=
  let v1 := v.forAll (List.range 48) (fun u c => u.modCore c (fun k => { k with spad := [], acc := [], l1 := [], l2 := [], spadBad := [], accBad := [] }))
  v1.clearRams
def execSramClear (s : State) : Host.Outcome State Fault Refusal := s.onBoth (fun m v => atStep 4 m v (fun n u => (n, u.sramClear)))

/-- Forzoevo records a channel as retired and logs it (R421, R640). -/
def retireRecord (log : Bool) (ch : Nat) (mv : Mgmt × Dev) : Mgmt × Dev :=
  if mv.1.retiredChans.contains ch then mv
  else
    let r := ({ mv.1 with retiredChans := mv.1.retiredChans ++ [ch] }, mv.2)
    if log then logBoth 0x03 ch 0 r else r
/-- The stacks as training leaves them: the list in force, every other channel trained, memory zero-filled (R402, R420, R423). -/
def Dev.trainStacks (v : Dev) (retired : List Nat) : Dev :=
  let v1 := v.modHbm (fun h => { h with retired := sortBy id retired, mem := [], stkBad := [], stkSoft := [], belowGuarantee := decide (5 < retired.length) })
  let v2 := v1.forAll (List.range 256) (fun u ch => u.modChan ch (fun c => { c with trained := !retired.contains ch, failed := false, retraining := false, queue := [] }))
  v2.forAll (List.range 8) (fun u k => u.modStk k (fun s => { s with trained := true, selfRefresh := false }))
/-- A lane that training finds failing: a spare of its group takes its place and Forzoevo keeps it, else the channel sets RETIRE_PENDING (R414,
R415). -/
def trainLane (mv : Mgmt × Dev) (w : WeakLane) : Mgmt × Dev :=
  if mv.1.retiredChans.contains w.ch.val then mv else swapLane w.ch.val w.isCa w.group w.lane mv.1 mv.2
/-- What Forzoevo reports of the retirements (R423): more than 16 in a pool, or more than 5. How it reports, the spec does not say (log entry
96). -/
def reportOf (h : Hbm) : Option ModReport := if !h.mapped then some .failed else if 5 < h.retired.length then some .replace else none
/-- STACK_TRAINING: step 6, with the channels that failed it with no spare left and the lanes of others found failing (R414, R421, R423,
R640). -/
def stackTraining (failed : List Nat) (weak : List WeakLane) (m : Mgmt) (v : Dev) : Mgmt × Dev :=
  atStep 5 m v (fun n u =>
    let r := failed.foldl (fun a ch => retireRecord true ch a) (n, u)
    let w := weak.foldl trainLane (r.1, r.2.trainStacks r.1.retiredChans)
    ({ w.1 with condition := reportOf w.2.hbm }, w.2))
def execStackTraining (found : TrainFound) (s : State) : Host.Outcome State Fault Refusal :=
  s.onBoth (stackTraining (found.failed.map (fun c => c.val)) found.weak)

/-- Working lanes of a mask of four. -/
def laneCount (mask : Nat) : Nat := b2n (bit mask 0) + b2n (bit mask 1) + b2n (bit mask 2) + b2n (bit mask 3)
/-- A link trains on its working lanes and measures its delay, degraded below four, down below two (R476, R478, R658). -/
def Dev.trainLink (v : Dev) (l mask delay : Nat) : Dev :=
  let n := laneCount mask
  let v1 := v.modLinkN l (fun k => { k with
    state := if 2 ≤ n then 2 else 0
    lanes := if 2 ≤ n then n else 0
    delay := if 2 ≤ n then delay % 65536 else k.delay
    laneFailed := 15 - mask % 16 })
  if n = 2 ∨ n = 3 then v1.ev (linkDie l) (56 + l) 0x040 l n else v1
/-- LINK_TRAINING: step 7, with the lanes that train on each link and its delay; each link is up or has failed (R478, R639). -/
def Dev.trainLinks (v : Dev) (lanes : List Nat) (stamps : List Stamps) : Dev :=
  v.forAll (List.range 18) (fun u l => u.trainLink l (lanes.getD l 0) (((stamps[l]?).map stampDelay).getD 0))
def execLinkTraining (lanes : Vector (BitVec 4) 18) (stamps : Vector Stamps 18) (s : State) : Host.Outcome State Fault Refusal :=
  s.onBoth (fun m v => atStep 6 m v (fun n u => (n, u.trainLinks (lanes.toList.map (fun b => b.toNat)) stamps.toList)))

/-- TIME_LOCK_TIMEOUT: step 8 ends, on lock or after 2 s (R639). -/
def execTimeLockTimeout (s : State) : Host.Outcome State Fault Refusal := s.onBoth (fun m v => atStep 7 m v (fun n u => (n, u)))

/-- LINK_DOWN for each link that failed its training, in ascending order (Table 18.7, step 7). -/
def Dev.postDownLinks (v : Dev) : Dev :=
  v.forAll (List.range 18) (fun u l => if (u.linkN l).state = 0 then u.ev (linkDie l) (56 + l) 0x041 l 0 else u)
/-- HOST_DISCOVERY: step 9; both functions answer and STATE leaves STARTING, or the step fails and is logged (R639). -/
def hostDiscovery (ok : Bool) (m : Mgmt) (v : Dev) : Mgmt × Dev :=
  if !ok then (if m.bootStep = 8 ∧ m.running then logBoth 0x09 9 0 (m, v) else (m, v))
  else atStep 8 m v (fun n u => (n, (Dev.powerChanged u (u.modPwr (fun p => { p with starting := false }))).postDownLinks))
def execHostDiscovery (ok : Bool) (s : State) : Host.Outcome State Fault Refusal := s.onBoth (hostDiscovery ok)

/-- STARTUP_SUPPLY_LOSS: the rails go off and start-up resumes at step 2 (R527, R641). -/
def startupLoss (vin : Nat) (m : Mgmt) (v : Dev) : Mgmt × Dev :=
  let v1 := v.setVin vin
  if lostInput vin && decide (2 ≤ m.bootStep) && decide (m.bootStep ≤ 8) then ({ m with bootStep := 1 }, v1.railsOff) else (m, v1)
def execStartupSupplyLoss (vin : Nat) (s : State) : Host.Outcome State Fault Refusal := s.onBoth (startupLoss vin)

/-! ### Resets -/

/-- Forzoevo and the module lose every supply; flash and fuses stay (Table 18.9). -/
def coldReset (m : Mgmt) (v : Dev) : Mgmt × Dev :=
  ({ m with aux := false, running := false, recovery := false, sensors := [], bootStep := 0, resetDue := false }, v.railsOff)
def execColdReset (s : State) : Host.Outcome State Fault Refusal := s.onBoth coldReset

/-- RIDE_THROUGH_LOST: the bank is empty, the loss is logged and the module is OFF; with AUX it starts again at step 2 (R536, R642). -/
def rideThroughLost (duration : Nat) (m : Mgmt) (v : Dev) : Mgmt × Dev :=
  if decide (v.pwr.energy = 0) && v.pwr.onBank && (v.pwr.chrysalis || v.pwr.tripped) then
    let r := logBoth 0x01 duration 0 (m, v)
    if r.1.aux then moduleReset r.1 r.2 else coldReset r.1 r.2
  else (m, v)
def execRideThroughLost (duration : Nat) (s : State) : Host.Outcome State Fault Refusal := s.onBoth (rideThroughLost duration)

/-- THERMAL_CUT_125C: the front end removes the main rails; the module is OFF (R551). -/
def execThermalCut125c (s : State) : Host.Outcome State Fault Refusal :=
  s.onBoth (fun m v => if v.pwr.rails then ({ m with bootStep := 0 }, v.railsOff) else (m, v))

/-- RESET_N: the tenth low sample resets the module and holds the rails off (R667). -/
def execResetN (s : State) : Host.Outcome State Fault Refusal := s.onBoth (fun m v => moduleReset { m with resetHold := true } v)
/-- RESET_N_HELD: 5,000,000 low samples also reset Forzoevo, which reads SLOT_ID (R642, R667, R668). -/
def execResetNHeld (slot : BitVec 7) (s : State) : Host.Outcome State Fault Refusal :=
  s.onBoth (fun m v => if m.resetHold && (m.running || m.recovery) then mgmtRestart slot.toNat (m, v) else (m, v))
/-- RESET_N_RELEASE: start-up may resume at step 2 (R667). -/
def execResetNRelease (s : State) : Host.Outcome State Fault Refusal := s.onBoth (fun m v => ({ m with resetHold := false }, v))

end Sys2Proof.Machine
end

