-- ==== Sys2Proof/Machine/Mgmt.lean ====
section
/-! DEFINITION. Forzoevo's messages: the Twirin commands, PLDM, the attestation key (18). A response's results are listed as numbers, one for
each field in the order Table 18.1 gives them; byte strings are listed byte by byte. -/

namespace Sys2Proof.Machine

/-! ### Answering (R621 to R623, Table 18.2) -/

/-- Answer a Twirin message with a completion code and results. -/
def answer (b : Binding) (cmd cc : Nat) (data : List Nat) (mv : Mgmt × Dev) : Mgmt × Dev := (mv.1, mv.2.send (.mgmt b cmd (cc :: data)))
/-- A message to a running Forzoevo; no answer while it does not run. A rack manager's command from the host is not permitted (R623, R644). -/
def ask (b : Binding) (cmd : Nat) (rackOnly : Bool) (m : Mgmt) (v : Dev) (f : Mgmt → Dev → Mgmt × Dev) : Mgmt × Dev :=
  if !m.running then (m, v)
  else if rackOnly && decide (b = .host) then answer b cmd 2 [] (m, v)
  else f m v

/-- The active image of a component. -/
def Mgmt.active (m : Mgmt) (c : Component) : Image :=
  (match c with | .mgmt => tget none m.banks m.activeMgmt | .train => tget none m.banks (2 + m.activeTrain)).getD (factoryImage c)

/-! ### Identity, log and settings -/

/-- GET_IDENT, answered in recovery too (R630, Table 18.1). -/
def getIdent (b : Binding) (m : Mgmt) (v : Dev) : Mgmt × Dev :=
  if m.running ∨ m.recovery then
    let g := m.active .mgmt
    let t := m.active .train
    answer b 0x01 0 [glbIdent, m.chip, m.slot, Config.serial.toNat, g.version, g.svn, t.version, t.svn, m.fusedSvn] (m, v)
  else (m, v)
def execGetIdent (b : Binding) (s : State) : Host.Outcome State Fault Refusal := s.onBoth (getIdent b)

/-- GET_PUBKEY (Table 18.1). -/
def execGetPubkey (b : Binding) (s : State) : Host.Outcome State Fault Refusal :=
  s.onBoth (fun m v => ask b 0x02 false m v (fun n u => answer b 0x02 0 (Config.pubKey.map (fun x => x.toNat)) (n, u)))

/-- The fields of a log entry (Table 18.4). -/
def LogEnt.fields (e : LogEnt) : List Nat := [e.index, e.boot, e.ms, e.code, e.a0, e.a1]
/-- GET_LOG (R626, Table 18.1). -/
def getLog (b : Binding) (first count : Nat) (m : Mgmt) (v : Dev) : Mgmt × Dev :=
  ask b 0x04 false m v (fun n u =>
    if count = 0 ∨ 32 < count then answer b 0x04 3 [] (n, u)
    else answer b 0x04 0 ((n.log.filter (fun e => decide (first ≤ e.index) && decide (e.index < first + count))).map LogEnt.fields).flatten (n, u))
def execGetLog (b : Binding) (first count : Nat) (s : State) : Host.Outcome State Fault Refusal := s.onBoth (getLog b first count)

/-- SET_RACK_CAP: stored in flash and taken at the next control instant (R540, R547). -/
def setRackCap (b : Binding) (x : Nat) (m : Mgmt) (v : Dev) : Mgmt × Dev :=
  ask b 0x10 true m v (fun n u =>
    if 56 < x then answer b 0x10 3 [] (n, u)
    else answer b 0x10 0 [] ({ n with rackCap := x }, u.modPwr (fun p => { p with rackCapNext := some x })))
def execSetRackCap (b : Binding) (v : Nat) (s : State) : Host.Outcome State Fault Refusal := s.onBoth (setRackCap b v)

/-- SET_START_OVERRIDE (R539). -/
def setStartOverride (b : Binding) (x : Nat) (m : Mgmt) (v : Dev) : Mgmt × Dev :=
  ask b 0x11 true m v (fun n u =>
    if 1 < x then answer b 0x11 3 [] (n, u) else answer b 0x11 0 [] ({ n with startOverride := decide (x = 1) }, u))
def execSetStartOverride (b : Binding) (v : Nat) (s : State) : Host.Outcome State Fault Refusal := s.onBoth (setStartOverride b v)

/-- No schedule is loaded on either die. -/
def Dev.noSched (v : Dev) : Bool := v.scheds.all (fun e => decide (e.2.phase = .none))
/-- No ring is enabled on either die. -/
def Dev.noRing (v : Dev) : Bool := v.hif.all (fun h => h.2.rings.all (fun e => !e.2.en))

/-- An accepted write of FAB_CHIP_ID: the time units unlock, the landing slots are freed, CHIP_CHANGED is posted (R73, R499, R513). What a
unit has beside its lock stands until it locks again: its count (R31), the chip whose master types it acts on (R64), LEVEL (log entry 91). -/
def Dev.chipWritten (v : Dev) (x : Nat) : Dev :=
  let v1 := ((v.setChip x).modFt (fun f => { f with locked := false, masterActive := false, freshLeft := 4 })).modMst (fun _ => {})
  let free (f : Fab) : Fab := { f with land := f.land.foldl (fun t e => tmod {} t e.1 Land.clear) f.land }
  ((v1.modFabD 0 free).modFabD 1 free).evMgmt 0x068 v.chip x
/-- SET_CHIP: refused when it would change the chip number of a module with a schedule loaded (R513). With one loaded, the number it has is
not written again (R16; that it is answered OK, log entry 91). -/
def setChip (b : Binding) (x : Nat) (m : Mgmt) (v : Dev) : Mgmt × Dev :=
  ask b 0x12 true m v (fun n u =>
    if 16384 ≤ x then answer b 0x12 3 [] (n, u)
    else if decide (x ≠ n.chip) && !u.noSched then answer b 0x12 6 [] (n, u)
    else if !u.noSched then answer b 0x12 0 [] (n, u)
    else
      let r := logBoth 0x08 x 0 ({ n with chip := x }, if u.pwr.rails then u.chipWritten x else u)
      answer b 0x12 0 [] r)
def execSetChip (b : Binding) (v : Nat) (s : State) : Host.Outcome State Fault Refusal := s.onBoth (setChip b v)

/-! ### Resets by message -/

/-- RETIRE_CHANNEL: refused while a schedule is loaded or a ring enabled; else recorded, answered, and the module resets (R624). -/
def retireChannel (b : Binding) (ch : Nat) (m : Mgmt) (v : Dev) : Mgmt × Dev :=
  ask b 0x13 false m v (fun n u =>
    if 256 ≤ ch then answer b 0x13 3 [] (n, u)
    else if !u.noSched || !u.noRing then answer b 0x13 4 [] (n, u)
    else
      let r := answer b 0x13 0 [] (retireRecord false ch (n, u))
      moduleReset r.1 r.2)
def execRetireChannel (b : Binding) (ch : Nat) (s : State) : Host.Outcome State Fault Refusal := s.onBoth (retireChannel b ch)

/-- MODULE_RESET: a tripped module is reset only once T_j is at or below 90 °C (R551, R642). -/
def moduleResetMsg (b : Binding) (m : Mgmt) (v : Dev) : Mgmt × Dev :=
  ask b 0x14 false m v (fun n u =>
    let r := answer b 0x14 0 [] (n, u)
    if u.pwr.tripped && decide (90 < u.pwr.tjMax) then ({ r.1 with resetDue := true }, r.2) else moduleReset r.1 r.2)
def execModuleReset (b : Binding) (s : State) : Host.Outcome State Fault Refusal := s.onBoth (moduleResetMsg b)

/-- MGMT_RESET: answered, then Forzoevo starts again from its ROM and reads SLOT_ID (R644, R668). -/
def mgmtResetMsg (b : Binding) (slot : Nat) (m : Mgmt) (v : Dev) : Mgmt × Dev :=
  ask b 0x15 true m v (fun n u => mgmtRestart slot (answer b 0x15 0 [] (n, u)))
def execMgmtReset (b : Binding) (slot : BitVec 7) (s : State) : Host.Outcome State Fault Refusal := s.onBoth (mgmtResetMsg b slot.toNat)

/-! ### Firmware -/

/-- COMMIT_SVN: the fused SVN rises to the lowest active SVN, and never falls (R629). -/
def commitSvn (b : Binding) (m : Mgmt) (v : Dev) : Mgmt × Dev :=
  ask b 0x16 true m v (fun n u =>
    let f := max n.fusedSvn (min (n.active .mgmt).svn (n.active .train).svn)
    answer b 0x16 0 [] (logBoth 0x0A f 0 ({ n with fusedSvn := f }, u)))
def execCommitSvn (b : Binding) (s : State) : Host.Outcome State Fault Refusal := s.onBoth (commitSvn b)

/-- The inactive bank of a component. -/
def Mgmt.idleBank (m : Mgmt) (c : Component) : Nat := match c with | .mgmt => 1 - m.activeMgmt | .train => 2 + (1 - m.activeTrain)
/-- Note whether the idle bank of a component holds an image that waits for its reset. -/
def Mgmt.setPending (m : Mgmt) (c : Component) (p : Bool) : Mgmt := match c with | .mgmt => { m with pendMgmt := p } | .train => { m with pendTrain := p }
/-- FIRMWARE_UPDATE: the inactive bank is written and checked; a failed image is reported and logged (R627, R628). Answered in recovery too
(R630). The result is 0, or 1 for a verify failure. -/
def firmwareUpdate (b : Binding) (img : Image) (m : Mgmt) (v : Dev) : Mgmt × Dev :=
  if m.running ∨ m.recovery then
    let i := m.idleBank img.component
    let ok := Image.valid img m.fusedSvn
    let n := { m with banks := tset none m.banks i (some img) }.setPending img.component ok
    let r := if ok then (n, v) else logBoth 0x07 (i / 2) (i % 2) (n, v)
    (r.1, r.2.send (.pldm b 5 [b2n !ok]))
  else (m, v)
def execFirmwareUpdate (b : Binding) (img : Image) (s : State) : Host.Outcome State Fault Refusal := s.onBoth (firmwareUpdate b img)

/-! ### Sensors (R625) -/

/-- The quantities of Table 18.3; sensor 9 holds STATE in its low four bits and LEVEL above them. -/
def Dev.sensor (v : Dev) (id : Nat) : Nat :=
  match id with
  | 1 => v.pwr.vin
  | 2 => v.pwr.pin
  | 3 => v.pwr.pavg
  | 4 => v.pwr.energy
  | 5 => v.pwr.reserveMs
  | 6 => tget 0 v.pwr.tj 0
  | 7 => tget 0 v.pwr.tj 1
  | 8 => v.pwr.tsMax
  | 9 => v.pstate + 16 * v.ft.level
  | 10 => v.hbm.capPages
  | 11 => (v.cores.filter (fun e => e.2.retired)).length
  | _ => (v.pwr.energyTab.foldl (fun a e => a + e.2) 0) / 1000000
/-- SENSOR_UPDATE (R625). -/
def sensorUpdate (m : Mgmt) (v : Dev) : Mgmt × Dev :=
  if m.running then ({ m with sensors := (List.range 12).foldl (fun t i => tset 0 t (i + 1) (v.sensor (i + 1))) m.sensors }, v) else (m, v)
def execSensorUpdate (s : State) : Host.Outcome State Fault Refusal := s.onBoth sensorUpdate
/-- SENSOR_READ: the value last updated; a sensor Table 18.3 does not list is answered as invalid. -/
def sensorRead (b : Binding) (id : Nat) (m : Mgmt) (v : Dev) : Mgmt × Dev :=
  if !m.running then (m, v)
  else if 1 ≤ id ∧ id ≤ 12 then (m, v.send (.pldm b 2 [0, tget 0 m.sensors id])) else (m, v.send (.pldm b 2 [1]))
def execSensorRead (b : Binding) (id : Nat) (s : State) : Host.Outcome State Fault Refusal := s.onBoth (sensorRead b id)

/-! ### The attestation key (R631 to R638) -/

/-- The active sector has room for another record (R634). -/
def Mgmt.attHasRoom (m : Mgmt) : Bool := decide ((if m.attOnB then m.attB else m.attA).length ≤ Config.attRoom)
/-- Append the record of NEXT = n; when the active sector is full, it goes to the other sector, which becomes active once the record reads
back, and the full sector is erased (R632, R634). -/
def Mgmt.appendRecord (m : Mgmt) (n : Nat) (ok : Bool) : Mgmt :=
  let r : AttRec := { next := n, valid := ok }
  if m.attHasRoom then (if m.attOnB then { m with attB := m.attB ++ [r] } else { m with attA := m.attA ++ [r] })
  else if m.attOnB then (if ok then { m with attA := [r], attB := [], attOnB := false } else { m with attA := [r] })
  else (if ok then { m with attB := [r], attA := [], attOnB := true } else { m with attB := [r] })

/-- The flash configuration records a report covers. -/
def Mgmt.flashLists (m : Mgmt) : List (List Nat) :=
  [(m.softCols.map (fun x => [x.1, x.2])).flatten, (m.softBanks.map (fun x => [x.1, x.2.1, x.2.2])).flatten,
   (m.laneSpares.map (fun e => [e.1, e.2.dqSpares, e.2.caSpares])).flatten, m.retiredChans, m.retiredCores, [m.chip], [m.rackCap], [b2n m.startOverride]]
/-- The attestation report with index n (Table 18.5). -/
def Mgmt.report (m : Mgmt) (nonce : List Byte) (n : Nat) : List Byte :=
  toBytes 1 4 ++ toBytes glbIdent 4 ++ toBytes (m.chip % 16384) 2 ++ toBytes m.slot 1 ++ toBytes m.fusedSvn 1 ++ toBytes Config.serial.toNat 16 ++
  toBytes m.bootCount 4 ++ nonce ++ (toBytes (m.active .mgmt).digest 32).reverse ++ (toBytes (m.active .train).digest 32).reverse ++
  sha256 (Config.flashBytes m.flashLists) ++ toBytes n 8 ++ List.replicate 88 0#8

/-- Sign with index NEXT: the record of NEXT + 1 is written and read back before the signature is released (R632, R635, R638). -/
def signNext (b : Binding) (nonce : List Byte) (ok : Bool) (m : Mgmt) (v : Dev) : Mgmt × Dev :=
  let n := m.attNext
  let m1 := m.appendRecord (n + 1) ok
  if !ok then answer b 0x03 7 [] ({ m1 with stateLogFailed := true }, v)
  else
    let rep := m.report nonce n
    answer b 0x03 0 ((rep ++ Config.signature n rep).map (fun x => x.toNat))
      ({ m1 with attNext := n + 1, released := m1.released ++ [n], sigThisSecond := m1.sigThisSecond + 1 }, v)
/-- Sixteen signatures were released and no second has passed since: BUSY. Whether one has is a free value (R636). -/
def secondFull (m : Mgmt) (v : Dev) : Bool × Mgmt × Dev :=
  if m.sigThisSecond < 16 then (false, m, v)
  else if v.draw.1 = 0#64 then (true, m, v.draw.2) else (false, { m with sigThisSecond := 0 }, v.draw.2)
/-- ATTEST, and whether its record verifies (R632 to R638). -/
def attest (b : Binding) (nonce : List Byte) (ok : Bool) (m : Mgmt) (v : Dev) : Mgmt × Dev :=
  ask b 0x03 false m v (fun n u =>
    if nonce.length ≠ 32 then answer b 0x03 3 [] (n, u)
    else if 2 ^ 40 ≤ n.attNext ∨ n.stateLogFailed then answer b 0x03 7 [] (n, u)
    else if n.treeUpTo < n.attNext / 2 ^ 20 then answer b 0x03 5 [] (n, u)
    else
      let (full, n1, u1) := secondFull n u
      if full then answer b 0x03 5 [] (n1, u1) else signNext b nonce ok n1 u1)
def execAttest (b : Binding) (nonce : List Byte) (recordOk : Bool) (s : State) : Host.Outcome State Fault Refusal := s.onBoth (attest b nonce recordOk)

/-- TREE_BUILD_DONE: the tree that NEXT needs, or the next one once NEXT is half through its own (R637). -/
def treeDone (m : Mgmt) (v : Dev) : Mgmt × Dev :=
  let q1 := m.attNext / 2 ^ 20
  let q2 := m.attNext % 2 ^ 20
  if !m.running then (m, v)
  else if m.treeUpTo < q1 then ({ m with treeUpTo := q1 }, v)
  else if 2 ^ 19 ≤ q2 ∧ m.treeUpTo = q1 then ({ m with treeUpTo := q1 + 1 }, v) else (m, v)
def execTreeBuildDone (s : State) : Host.Outcome State Fault Refusal := s.onBoth treeDone

end Sys2Proof.Machine
end

