-- ==== Sys2Proof/Machine/Moult.lean ====
section
/-! DEFINITION. Moult and restore (16): the Moult point, the copiers, held writes, aborts, and the restore of an image. -/

namespace Sys2Proof.Machine

/-! ### Tracked pages (R570, R571) -/

/-- Disjoint rising ranges that cover the same pages as sorted ranges. -/
def mergeRanges : List (Nat × Nat) → List (Nat × Nat)
  | [] => []
  | x :: r =>
    match mergeRanges r with
    | [] => [x]
    | y :: t => if y.1 ≤ x.2 then (x.1, max x.2 y.2) :: t else x :: y :: t
/-- Pages that lie in an enabled TRACK region of either die. -/
def Dev.trackRanges (v : Dev) : List (Nat × Nat) :=
  mergeRanges (sortBy (fun r => r.1) ((v.rgn.filter (fun e => e.2.en && e.2.track)).map (fun e =>
    (e.2.base.toNat / 65536, (e.2.base.toNat + 2 ^ e.2.size) / 65536))))
/-- Every page of a list of ranges. -/
def pagesOf (rs : List (Nat × Nat)) : List Nat := (rs.map (fun r => (List.range (r.2 - r.1)).map (fun i => r.1 + i))).flatten
/-- Tracked pages that are stale. -/
def Moult.stalePages (m : Moult) : List Nat := (pagesOf m.tracked).filter m.stale
/-- HBM_MOULT_STATUS.LEFT (Table 16.20). -/
def Moult.left (m : Moult) : Nat := if m.active then m.stalePages.length else if m.restoring then m.rPages.length else m.rFailed.length

/-! ### Held writes (R573, R574) -/

/-- A write held for this owner remains. -/
def Dev.ownerHeld (v : Dev) (o : Owner) : Bool := v.moult.held.any (fun h => decide (h.owner = some o))
/-- A held write takes effect, and what waited for it goes on. -/
def Dev.letGo (v : Dev) (h : HeldWrite) : Dev :=
  let v1 := (v.modHeld (fun hs => hs.erase h) id).applyTask h.task
  match h.owner with
  | none => v1
  | some (.entry _ _) => v1
  | some (.ctx c x) => v1.sclLanded c x
  | some (.dma c n off len) => if v1.ownerHeld (.dma c n off len) then v1 else v1.dmaLanded c n off len
  | some (.packet die port p q) => if v1.ownerHeld (.packet die port p q) then v1 else v1.packetLanded die port p
/-- Writes that need be held no longer take effect, in their order of arrival. -/
def Dev.releaseWrites (v : Dev) : Dev :=
  (v.forAll (v.moult.held.filter (fun h => !v.mustHold h.task)) Dev.letGo).releaseHeld

/-! ### The end of a Moult (R577 to R580) -/

/-- ACTIVE returns to 0 and the MOULT order completes (R578); one that still waits for its point leaves its ring (R611). -/
def Dev.endMoult (v : Dev) (status : Nat) : Dev :=
  let m := v.moult
  let v1 := v.modMoult (fun q => { q with active := false, order := none, point := none, urgent := [] })
  let v2 := v1.releaseWrites
  match m.order with
  | none => v2
  | some o =>
    let v3 := v2.complete m.die o status 0 m.digests.length m.g
    if m.point.isSome then v3.accept m.die o.ring else v3
/-- Every tracked page whose PGEN is not G takes G − 1, so that it is stale in a later Moult (R580). -/
def Dev.ageUncopied (v : Dev) : Dev :=
  v.modMoult (fun m => { m with pgen := ((pagesOf m.tracked).filter (fun p => decide (tget 0 m.pgen p ≠ m.g))).foldl (fun t p => tset 0 t p ((m.g + 65535) % 65536)) m.pgen })
/-- A Moult in progress, or one that waits for its point, ends without a header (R579, R580). -/
def Dev.cutMoult (v : Dev) (status : Nat) : Dev := if v.moult.active then (v.endMoult status).ageUncopied else v.endMoult status

/-- Bytes are written to the image in host memory, or the host answers with an error (R574, R597). -/
def Dev.imageWrite (v : Dev) (a : Nat) (bs : List Byte) : Bool × Dev :=
  let b := v.moult.image
  if fld b 61 48 ≠ 0 || v.hostBad (offOf b + a) bs.length then (false, v) else (true, v.hostWrite (offOf b + a) bs)
/-- The digests of the pages copied, concatenated in rising order. -/
def Moult.digestBytes (m : Moult) : List Byte := (m.digests.map (fun e => e.2)).flatten
/-- The image header (Table 16.11). -/
def Moult.header (m : Moult) : List Byte :=
  wordsToBytes [w64 (1 + b2n (m.failed = 0) * 256 + m.g * 65536 + glbIdent * 2 ^ 32), w64 (m.chip % 16384), w64 m.tick, w64 m.digests.length] ++ sha256 m.digestBytes
/-- Once no page is stale, the header is written and the order completes (R577, R578). -/
def Dev.closeMoult (v : Dev) : Dev :=
  if !v.moult.active || !v.moult.stalePages.isEmpty then v
  else match v.imageWrite 0 v.moult.header with
  | (false, u) => u.cutMoult 6
  | (true, u) => u.endMoult (if u.moult.failed = 0 then 0 else 5)

/-! ### T_UPDATE (R571) -/

/-- T_UPDATE: the tracked bits follow the region tables; a page newly tracked has PGEN set to G. -/
def Dev.tUpdate (v : Dev) : Dev :=
  if !v.moult.tBusy then v
  else
    let rs := v.trackRanges
    let v1 := v.modMoult (fun m => { m with
      tBusy := false
      tracked := rs
      pgen := ((pagesOf rs).filter (fun p => !m.isTracked p)).foldl (fun t p => tset 0 t p m.g) m.pgen })
    v1.releaseWrites.closeMoult
def execTUpdate (s : State) : Host.Outcome State Fault Refusal := s.onDev Dev.tUpdate

/-! ### The Moult point (R572) -/

/-- The bitmap's bytes, from B + 0x1000. -/
def bitmapLen : Nat := 589824
/-- G rises, ACTIVE is set and every tracked page is stale at once; the image starts with no page in its bitmap (R572, R577). -/
def Dev.moultStart (v : Dev) : Dev :=
  let b := v.moult.image
  let v1 := v.modMoult (fun m => { m with
    active := true, g := (m.g + 1) % 65536, point := none, tick := v.ft.now, chip := v.chip, digests := [], failed := 0, urgent := [], rFailed := [] })
  let v2 := match v.moult.order with
    | none => v1
    | some o => v1.accept v.moult.die o.ring
  if fld b 61 48 ≠ 0 || v2.hostBad (offOf b + 0x1000) bitmapLen then v2.cutMoult 6
  else (v2.hostClear (offOf b + 0x1000) bitmapLen).closeMoult
/-- MOULT_POINT: the first tick at or after TM, as release ticks are taken (R41, R66, R572). -/
def Dev.moultPoint (v : Dev) : Dev :=
  match v.moult.point with
  | none => v
  | some t => if v.ft.locked && !v.ft.frozen && decide (t ≤ v.ft.now) then v.moultStart else v
def execMoultPoint (s : State) : Host.Outcome State Fault Refusal := s.onDev Dev.moultPoint

/-- An image base keeps its rule: SPACE 0b10, aligned to 1 GiB (R572). -/
def imageBad (b : W64) : Bool := decide (fld b 63 62 ≠ 2) || decide (fld b 29 0 ≠ 0)
/-- MOULT (R572). -/
def Dev.moultOrder (v : Dev) (die n : Nat) : Dev :=
  v.order die n 0x10 (fun u t =>
    let b := wd t.ws 2
    let tm := (wd t.ws 3).toNat
    if u.moult.active || u.moult.restoring || u.moult.order.isSome then u.finish die t.o 2 0 0 0
    else if u.moult.tBusy then u.finish die t.o 3 0 0 0
    else if imageBad b then u.finish die t.o 4 0 0 0
    else if decide (tm ≠ 0) && !u.ft.locked then u.finish die t.o 1 0 0 0
    else
      let v1 := u.modMoult (fun m => { m with order := some t.o, die := die, image := b, point := if tm = 0 then none else some tm })
      if tm = 0 then v1.moultStart else v1)
def execMoult (d : DieId) (ring : RingId) (s : State) : Host.Outcome State Fault Refusal := s.onDev (fun v => v.moultOrder d.val ring.val)

/-- MOULT_ABORT: the MOULT order completes with ABORTED, then this order (R580). -/
def Dev.abortMoult (v : Dev) (die n : Nat) : Dev :=
  v.order die n 0x11 (fun u t => (if u.moult.order.isSome then u.cutMoult 7 else u).finish die t.o 0 0 0 0)
def execMoultAbort (d : DieId) (ring : RingId) (s : State) : Host.Outcome State Fault Refusal := s.onDev (fun v => v.abortMoult d.val ring.val)

/-! ### The copiers (R570, R574, R579) -/

/-- Page p may be the next its copier stages: the urgent page it was asked for first, or the lowest stale page of its walk (R574). -/
def Moult.mayStage (m : Moult) (p : Nat) : Bool :=
  let mine (q : Nat) : Bool := decide (q % 8 = p % 8) && m.stale q
  m.stale p && (m.urgent.find? mine = some p || (m.stalePages.filter (fun q => !m.urgent.contains q)).find? mine = some p)
/-- The page has been staged: PGEN becomes G, which releases its held writes. -/
def Dev.staged (v : Dev) (p : Nat) : Dev := (v.modMoult (fun m => { m with pgen := tset 0 m.pgen p m.g, urgent := m.urgent.erase p })).releaseWrites
/-- Parts of the image are written one after another, until the host answers one with an error. -/
def Dev.imageParts (v : Dev) : List (Nat × List Byte) → Bool × Dev
  | [] => (true, v)
  | x :: r => match v.imageWrite x.1 x.2 with
    | (false, u) => (false, u)
    | (true, u) => u.imageParts r
/-- The page's bytes, digest and bitmap byte go to the image (R574 steps 3 and 4). -/
def Dev.copyPage (v : Dev) (p : Nat) (bs : List Byte) : Bool × Dev :=
  let d := sha256 bs
  let old := (mget v.hostMem (offOf v.moult.image + (0x1000 + p / 8))).toNat
  let new := byteOf (if bit old (p % 8) then old else old + 2 ^ (p % 8))
  match v.imageParts [(0x40000000 + p * 65536, bs), (0x100000 + 32 * p, d), (0x1000 + p / 8, [new])] with
  | (false, u) => (false, u)
  | (true, u) => (true, u.modMoult (fun m => { m with digests := tset [] m.digests p d }))
/-- PAGE_STAGED: a copier stages a page and copies it, or meets a path error on it (R574, R579). -/
def Dev.pageStaged (v : Dev) (p : Nat) : Dev :=
  if !v.moult.mayStage p || !v.issueOk || v.hbm.busy then v
  else match v.pathAt (p * 65536) 65536 with
  | some x =>
    let s := p % 8
    let v1 := (v.pathError x (48 + s)).modMoult (fun m => { m with pageErr := true, failed := m.failed + 1 })
    ((v1.ev (stkDie s) (48 + s) 0x035 p 0).staged p).closeMoult
  | none =>
    let bs := v.stk8 (p * 65536) 65536
    let v1 := v.staged p
    match v1.copyPage p bs with
    | (false, v2) => v2.cutMoult 6
    | (true, v2) => v2.closeMoult
def execPageStaged (p : Nat) (s : State) : Host.Outcome State Fault Refusal := s.onDev (fun v => v.pageStaged p)

/-! ### Restore (R581, R582) -/

/-- No schedule is loaded on either die, ACTIVE is 0 and no engine queue holds a task (R581). -/
def Dev.quiet (v : Dev) : Bool :=
  v.noSched && !v.hbm.busy && !v.moult.active && !v.moult.restoring && v.moult.held.isEmpty && v.hbm.chans.all (fun e => e.2.queue.isEmpty)
/-- Pages whose bit is set in the bitmap at a host address, rising. -/
def Dev.bitmapPages (v : Dev) (a : Nat) : List Nat :=
  ((v.hostMem.filter (fun c => decide (a ≤ c.1) && decide (c.1 < a + bitmapLen))).map (fun c =>
    ((List.range 8).filter (fun i => bit c.2.toNat i)).map (fun i => (c.1 - a) * 8 + i))).flatten
/-- Stored digest of a page of the image at a host address. -/
def Dev.imageDigest (v : Dev) (b p : Nat) : List Byte := v.hostRead (b + 0x100000 + 32 * p) 32
/-- What a restore checks before any page: none where the image passes, and its pages (R582 steps 1 and 2). -/
def Dev.imageCheck (v : Dev) (b : W64) : Except Nat (List Nat) :=
  let o := offOf b
  if imageBad b then .error 4
  else if fld b 61 48 ≠ 0 || v.hostBad o 64 then .error 6
  else
    let ws := bytesToWords 4 (v.hostRead o 32)
    if fld (wd ws 0) 7 0 ≠ 1 || !fbit (wd ws 0) 8 || decide (fld (wd ws 0) 63 40 ≠ glbIdent / 256) then .error 4
    else if v.hostBad (o + 0x1000) bitmapLen then .error 6
    else
      let ps := v.bitmapPages (o + 0x1000)
      if ps.any (fun p => !v.hbm.usable (p * 65536) 65536) then .error 9
      else if ps.any (fun p => v.hostBad (o + 0x100000 + 32 * p) 32) then .error 6
      else if sha256 ((ps.map (v.imageDigest o)).flatten) ≠ v.hostRead (o + 32) 32 then .error 0x0A
      else .ok ps
/-- The restore completes, with the number of pages that failed (R582 step 4). -/
def Dev.endRestore (v : Dev) (status : Nat) : Dev :=
  let m := v.moult
  let v1 := v.modMoult (fun q => { q with restoring := false, rOrder := none, rPages := [], rWords := [] })
  match m.rOrder with
  | none => v1
  | some o => v1.finish m.rDie o status 0 m.rFailed.length 0
/-- The restore completes once no page is left. -/
def Dev.closeRestore (v : Dev) : Dev :=
  if v.moult.restoring && v.moult.rPages.isEmpty then v.endRestore (if v.moult.rFailed.isEmpty then 0 else 0x0B) else v
/-- RESTORE (R581, R582). -/
def Dev.restoreOrder (v : Dev) (die n : Nat) : Dev :=
  v.order die n 0x12 (fun u t =>
    if !u.quiet then u.finish die t.o 8 0 0 0
    else match u.imageCheck (wd t.ws 2) with
    | .error c => u.finish die t.o c 0 0 0
    | .ok ps => (u.modMoult (fun m => { m with restoring := true, rOrder := some t.o, rDie := die, rWords := t.ws, rPages := ps, rFailed := [] })).closeRestore)
def execRestore (d : DieId) (ring : RingId) (s : State) : Host.Outcome State Fault Refusal := s.onDev (fun v => v.restoreOrder d.val ring.val)

/-- A page that failed joins the mismatch list while it has room; none where the host answers with an error. -/
def Dev.listPage (v : Dev) (p : Nat) : Option Dev :=
  let m := v.moult
  let i := m.rFailed.length
  let l := wd m.rWords 3
  let v1 := v.modMoult (fun q => { q with rFailed := q.rFailed ++ [p] })
  if fld (wd m.rWords 4) 31 0 ≤ i then some v1
  else if fld l 61 48 ≠ 0 || v.hostBad (offOf l + 4 * i) 4 then none
  else some (v1.hostWrite (offOf l + 4 * i) (toBytes p 4))
/-- RESTORE_PAGE_DONE: a page whose digest matches is written and its PGEN set to G; any other joins the list (R582 step 3). -/
def Dev.restorePage (v : Dev) (p : Nat) : Dev :=
  let m := v.moult
  let o := offOf (wd m.rWords 2)
  if !m.restoring || !m.rPages.contains p || !v.issueOk || v.hbm.busy then v
  else if v.hostBad (o + 0x40000000 + p * 65536) 65536 then v.endRestore 6
  else
    let bs := v.hostRead (o + 0x40000000 + p * 65536) 65536
    let v1 := v.modMoult (fun q => { q with rPages := q.rPages.erase p })
    if sha256 bs = v.imageDigest o p then
      match v1.pathAt (p * 65536) 65536 with
      | none => ((v1.stkPut (p * 65536) bs).modMoult (fun q => { q with pgen := tset 0 q.pgen p q.g })).closeRestore
      | some x =>
        match (v1.pathError x (48 + p % 8)).listPage p with
        | none => v1.endRestore 6
        | some v2 => v2.closeRestore
    else match v1.listPage p with
    | none => v1.endRestore 6
    | some v2 => v2.closeRestore
def execRestorePageDone (p : Nat) (s : State) : Host.Outcome State Fault Refusal := s.onDev (fun v => v.restorePage p)

end Sys2Proof.Machine
end

