-- ==== Sys2Proof/Machine/HostCmd.lean ====
section
/-! DEFINITION. What the host does beside its work orders: doorbells, ring set-up, MMIO windows, BAR4 accesses; and the function reset (17, 18). -/

namespace Sys2Proof.Machine

/-! ### Doorbells (R603, R604) -/

/-- A doorbell that leaves an empty DONE or EVENT ring holding an entry again interrupts (R608). -/
def Dev.bellMsi (v : Dev) (die n : Nat) (before : Ring) : Dev :=
  let r := v.ring die n
  if before.held = 0 && decide (r.held ≠ 0) && r.intEn then v.msi die r.vec else v
/-- A doorbell is taken: a tail of a WORK ring, or a head of a DONE or EVENT ring, which frees space there (R603, R608, R609). -/
def Dev.bellTaken (v : Dev) (die n index : Nat) : Dev :=
  let r := v.ring die n
  let v1 := v.modRing die n (fun q => { q with bell := index })
  match r.kind with
  | 1 => (v1.bellMsi die n r).drainDone die n
  | 2 => let v2 := v1.bellMsi die n r; if (v2.ring die n).held < r.held then v2.drainLost die else v2
  | _ => v1
/-- The INDEX lies within the ring's size of its device index (R604). -/
def Ring.bellOk (r : Ring) (index : Nat) : Bool :=
  if r.kind = 0 then decide ((index + 2 ^ 32 - r.index) % 2 ^ 32 ≤ 2 ^ r.size) else decide ((r.index + 2 ^ 32 - index) % 2 ^ 32 ≤ 2 ^ r.size)
/-- DOORBELL: a write of `len` bytes at an offset of ring n's BAR2 page (R603, R604). -/
def Dev.doorbell (v : Dev) (die n off len : Nat) (x : W64) : Dev :=
  let r := v.ring die n
  if off = 0 ∧ len = 8 ∧ fld x 63 32 = 0 ∧ r.en ∧ r.bellOk (fld x 31 0) then v.bellTaken die n (fld x 31 0)
  else v.ev die (74 + die) 0x071 n x.toNat
def execDoorbell (d : DieId) (ring : RingId) (off len : Nat) (v : W64) (s : State) : Host.Outcome State Fault Refusal :=
  s.onDev (fun u => u.doorbell d.val ring.val off len v)

/-! ### Ring set-up (R599 to R602, R682, Table 17.3) -/

/-- The writable bits of HIF_RING_CFG. -/
def cfgBits : W64 := 0xFFF1FFF00FF#64
/-- A refused or ignored ring write (R600). -/
def Dev.ringRefuse (v : Dev) (die n code : Nat) : Dev := v.modHifD die (fun h => { h with err := code, errValid := true, errRing := n })
/-- A ring's or shadow's address is not SPACE 0b10 with CHIP 0, or it lies partly in a host MMIO window. -/
def Dev.ringAddrBad (v : Dev) (die : Nat) (a : W64) (n : Nat) : Bool := !isHost a || v.inMmio die (offOf a) n
/-- Bytes of a ring. -/
def Ring.bytes (r : Ring) : Nat := 2 ^ r.size * (if r.kind = 0 then 64 else 32)
/-- The check of Table 17.3 that fails first. -/
def Dev.ringCheck (v : Dev) (die n : Nat) (r : Ring) : Option Nat :=
  let d := v.ring die r.doneRing
  if r.size = 0 then some 1
  else if r.size < 4 ∨ 20 < r.size then some 2
  else if r.kind = 3 then some 3
  else if v.ringAddrBad die r.base r.bytes ∨ v.ringAddrBad die r.shadow 8 then some 4
  else if r.kind = 0 ∧ ¬(d.en ∧ d.kind = 1) then some 5
  else if r.kind = 2 ∧ (v.hifD die).rings.any (fun e => decide (e.1 ≠ n) && e.2.en && decide (e.2.kind = 2)) then some 6
  else none
/-- A DONE ring that an enabled WORK ring names, or that is owed a completion (R602, R614). -/
def Dev.ringInUse (v : Dev) (die n : Nat) : Bool :=
  decide ((v.ring die n).kind = 1) &&
  (decide ((v.ring die n).due ≠ 0) || (v.hifD die).rings.any (fun e => e.2.en && decide (e.2.kind = 0) && decide (e.2.doneRing = n)))
/-- A ring is enabled with its device index, and its doorbell, at 0; what it is owed is written (R601, R680). -/
def Dev.ringEnable (v : Dev) (die n : Nat) (cfg : W64) : Dev :=
  let v1 := v.modRing die n (fun q => { q with cfg := cfg, index := 0, bell := 0 })
  (v1.drainDone die n).drainLost die
/-- HIF_RING_CFG_WRITE (R600 to R602, R682). -/
def Dev.ringCfgWrite (v : Dev) (die n : Nat) (x : W64) : Dev :=
  let r := v.ring die n
  let new := x &&& cfgBits
  if r.en then
    if new = r.cfg then v
    else if new ≠ r.stop.cfg then v.ringRefuse die n 7
    else if v.ringInUse die n then v.ringRefuse die n 8
    else v.modRing die n Ring.stop
  else
    let v1 := v.modRing die n (fun q => { q with cfg := new &&& ~~~1#64 })
    if !fbit new 0 then v1
    else match v.ringCheck die n { r with cfg := new } with
    | some c => v1.ringRefuse die n c
    | none => v1.ringEnable die n new
def execHifRingCfgWrite (d : DieId) (n : RingId) (v : W64) (s : State) : Host.Outcome State Fault Refusal := s.onDev (fun u => u.ringCfgWrite d.val n.val v)

/-- HIF_RING_BASE and HIF_RING_SHADOW written: ignored while the ring is enabled (R600). -/
def Dev.ringBaseWrite (v : Dev) (die n : Nat) (x : W64) : Dev :=
  if (v.ring die n).en then v.ringRefuse die n 7 else v.modRing die n (fun r => { r with base := x &&& ~~~0xFFF#64 })
def Dev.ringShadowWrite (v : Dev) (die n : Nat) (x : W64) : Dev :=
  if (v.ring die n).en then v.ringRefuse die n 7 else v.modRing die n (fun r => { r with shadow := x &&& ~~~7#64 })

/-- HIF_MMIO_WRITE (R598, Table 17.13). -/
def Dev.mmioWrite (v : Dev) (die n : Nat) (x : W64) : Dev := v.modHifD die (fun h => { h with mmio := tset 0#64 h.mmio n (x &&& 0xFFFFFFFFF07F#64) })
def execHifMmioWrite (d : DieId) (n : Fin 8) (v : W64) (s : State) : Host.Outcome State Fault Refusal := s.onDev (fun u => u.mmioWrite d.val n.val v)

/-! ### BAR4 (R593, R594, Table 17.2) -/

/-- The module offset of a BAR4 access, all of whose bytes lie in one row of Table 17.2. -/
def bar4Map (off len : Nat) : Option Nat :=
  if off + len ≤ stackEnd then some off
  else if 0x4800000000 ≤ off ∧ off + len ≤ 0x4860000000 then some (spadBase + (off - 0x4800000000))
  else if 0x4900000000 ≤ off ∧ off + len ≤ 0x4900020000 then some (syncBase + (off - 0x4900000000))
  else none
/-- HOST_ACCESS_BAD; a read is answered with Completer Abort (R594). -/
def Dev.hostBadAccess (v : Dev) (die off : Nat) (wr : Bool) : Dev :=
  let v1 := v.ev die (74 + die) 0x073 off (b2n wr)
  if wr then v1 else v1.send (.hostRead die none)
/-- A BAR4 access of a die's function (R594): a write of these bytes, or a read of `len`. -/
def Dev.bar4 (v : Dev) (die off len : Nat) (wr : Option (List Byte)) : Dev :=
  match wr with
  | some bs =>
    (match bar4Map off bs.length with
     | none => v.hostBadAccess die off true
     | some a =>
       match v.wrModule die a bs (76 + die) none none with
       | (some 1, u) => u.hostBadAccess die off true
       | (_, u) => u.releaseHeld)
  | none =>
    match bar4Map off len with
    | none => v.hostBadAccess die off false
    | some a =>
      if v.fillWait (w64 a) then v.modHbm (fun h => { h with waiting := h.waiting ++ [.host die off len] })
      else match v.rdModule die a len (76 + die) with
      | (.ok bs, u) => u.send (.hostRead die (some bs))
      | (.err 1, u) => u.hostBadAccess die off false
      | (.err _, u) => u.send (.hostRead die none)
def execBar4Access (d : DieId) (off : Nat) (len : Nat) (wr : Option (List Byte)) (s : State) : Host.Outcome State Fault Refusal :=
  s.onDev (fun v => v.bar4 d.val off len wr)

/-! ### The end of a map rebuild (R440) -/

/-- A read that waited for the fill goes on. -/
def Dev.readNow (v : Dev) : HeldRead → Dev
  | .packet die port p => v.packetRead die port p
  | .host die off len => v.bar4 die off len none
/-- MAP_REBUILD_DONE: BUSY returns to 0 and the accesses that waited take place, writes before reads. A read returns what the writes that
arrived before it left, and none that arrived after it to its granule while the fill ran (R332; log entry 96). -/
def Dev.rebuildDone (v : Dev) : Dev :=
  let rs := v.hbm.waiting
  ((v.modHbm (fun h => { h with busy := false, waiting := [] })).releaseWrites).forAll rs Dev.readNow
def execMapRebuildDone (s : State) : Host.Outcome State Fault Refusal := s.onDev Dev.rebuildDone

/-! ### Function reset (R643, Table 18.9) -/

/-- The schedules of a die stop and are unloaded, without completion or record. -/
def Dev.dropScheds (v : Dev) (die : Nat) : Dev :=
  let ids := (v.scheds.filter (fun e => decide (e.1 / 256 = die))).map (fun e => e.1)
  let v1 := v.modFlt die (fun r => { r with capturing := false, capScheds := [], snap := [] })
  let v2 := (v1.forAll ids Dev.stopSched).cutShort ids
  let v3 := v2.forAll ids (fun u id => (u.clearFlights id).forget id)
  v3.forAll (dieStreams die) (fun u k => u.modStrm k (fun _ => {}))
/-- A core's set-up registers at their reset values; its memories, repairs and retirement stay. -/
def Core.functionReset (k : Core) : Core :=
  { retired := k.retired
    marked := k.marked
    softRepair := k.softRepair
    spad := k.spad
    spadBad := k.spadBad
    acc := k.acc
    accBad := k.accBad
    l1 := k.l1
    l2 := k.l2
    gens := k.gens
    banks := k.banks
    colBad := k.colBad
    testDue := k.testDue }
/-- A stack's registers at their reset values; its DRAM's state stays. -/
def Stack.functionReset (k : Stack) : Stack := { trained := k.trained, hot := k.hot, selfRefresh := k.selfRefresh, temp := k.temp, gens := k.gens }
/-- A channel's counts are cleared; the state of its lanes stays. -/
def Chan.functionReset (c : Chan) : Chan := { c with retrains := 0, corr := 0, pathErr := 0 }
/-- A Moult ordered through the die is aborted, a restore goes on; their completions go nowhere. -/
def Dev.dropImages (v : Dev) (die : Nat) : Dev :=
  let v1 := if v.moult.order.isSome ∧ v.moult.die = die then (v.modMoult (fun m => { m with order := none })).cutMoult 7 else v
  if v1.moult.rDie = die then v1.modMoult (fun m => { m with rOrder := none }) else v1
/-- The die's region table is emptied. -/
def Dev.dropRegions (v : Dev) (die : Nat) : Dev := { v with rgn := v.rgn.filter (fun e => decide (e.1 / 256 ≠ die)) }
/-- The die's registers return to their reset values, but for those that Table 18.9 keeps. -/
def Dev.resetRegs (v : Dev) (die : Nat) : Dev :=
  let tracks := v.rgn.any (fun e => decide (e.1 / 256 = die) && e.2.en && e.2.track)
  let v1 := (((v.modHifD die (fun _ => {})).modSynSt die (fun _ => {})).modRgnSt die (fun _ => {})).modCtxSwD die (fun _ => {})
  let v2 := (v1.dropRegions die).modMoult (fun m => { m with tBusy := m.tBusy || tracks })
  let v3 := v2.forAll ((List.range 24).map (fun i => die * 24 + i)) (fun u c => u.modCore c Core.functionReset)
  let v4 := v3.forAll ((List.range 4).map (fun i => die * 4 + i)) (fun u k => u.modStk k Stack.functionReset)
  v4.forAll (dieChans die) (fun u ch => u.modChan ch Chan.functionReset)
/-- What the die's scalar contexts and DMA channels had outstanding finds them gone. -/
def Dev.dropAskers (v : Dev) (die : Nat) : Dev :=
  let gone (r : Req) : Req := match r.purpose with
    | .chunk _ _ => r
    | .dmaRead _ _ _ _ => { r with purpose := .gone }
    | .dmaWrite _ _ _ _ => { r with purpose := .gone }
    | .sclLoad _ _ => { r with purpose := .gone }
    | .sclStore _ _ _ => { r with purpose := .gone }
    | .sealRead _ _ _ => { r with purpose := .gone }
    | .gone => r
  let orphan (h : HeldWrite) : HeldWrite := match h.owner with
    | some (.ctx c _) => if coreDie c = die then { h with owner := none } else h
    | some (.dma c _ _ _) => if coreDie c = die then { h with owner := none } else h
    | some (.entry _ _) => h
    | some (.packet _ _ _ _) => h
    | none => h
  (v.modFabD die (fun f => { f with reqs := f.reqs.map gone })).modHeld (fun hs => hs.map orphan) id
/-- FUNCTION_RESET (R643). -/
def Dev.functionReset (v : Dev) (die : Nat) : Dev :=
  let v1 := ((v.dropScheds die).dropImages die).dropAskers die
  ((v1.modFabD die (fun f => { f with land := f.land.foldl (fun t e => tmod {} t e.1 Land.clear) f.land })).mergeDie die).resetRegs die
def execFunctionReset (d : DieId) (s : State) : Host.Outcome State Fault Refusal := s.onDev (fun v => v.functionReset d.val)

end Sys2Proof.Machine
end

