-- ==== Sys2Proof/Machine/Insn.lean ====
section
/-! DEFINITION. The instructions of the scalar unit (R277, R285): the words of RV64IMAC and Zicsr, of the standard the spec names (log entry
49), and of the two extensions (Table 8.10), and what the one an ECALL command names does. -/

namespace Sys2Proof.Machine

/-- The register operations of the I and M extensions. -/
inductive AluOp where
  | add | sub | sll | slt | sltu | xor | srl | sra | or | and | mul | mulh | mulhsu | mulhu | div | divu | rem | remu
  deriving DecidableEq, Repr
/-- The conditions of the branches. -/
inductive Cond where
  | eq | ne | lt | ge | ltu | geu
  deriving DecidableEq, Repr

/-- An instruction of a context. Offsets of jumps and branches are from the instruction's address. -/
inductive Insn where
  | alu (op : AluOp) (narrow : Bool) (rd rs1 rs2 : Nat)
  | alui (op : AluOp) (narrow : Bool) (rd rs1 : Nat) (imm : W64)
  | lui (rd : Nat) (imm : W64)
  | auipc (rd : Nat) (imm : W64)
  | jal (rd : Nat) (off : W64)
  | jalr (rd rs1 : Nat) (off : W64)
  | branch (cond : Cond) (rs1 rs2 : Nat) (off : W64)
  | load (rd rs1 : Nat) (imm : W64) (size : Nat) (uns : Bool)
  | store (rs2 rs1 : Nat) (imm : W64) (size : Nat)
  | amo (op : AmoOp) (rd rs1 rs2 : Nat) (dbl : Bool)
  | fence
  | csr (rd csr : Nat) (writes : Bool)
  | wfi
  | ecall
  | ebreak
  | twSig (rs1 : Nat)
  | twWait (rs1 rs2 : Nat)
  | twCtr (rd rs1 : Nat)
  | twBara (rd rs1 : Nat)
  | twBarw (rs1 rs2 : Nat)
  | twHalt
  | twFlush (rs1 rs2 : Nat)
  | twInv (rs1 rs2 : Nat)
  | illegal
  deriving DecidableEq, Repr

/-! ### The words -/

/-- The low n bits of a number as a signed word. -/
def simm (v n : Nat) : W64 := BitVec.ofInt 64 (sext v n)
/-- The immediates of a 32-bit word: I, S, B, U and J. -/
def immI (w : Nat) : W64 := simm (bits w 31 20) 12
def immS (w : Nat) : W64 := simm (bits w 31 25 * 32 + bits w 11 7) 12
def immB (w : Nat) : W64 := simm (bits w 31 31 * 4096 + bits w 7 7 * 2048 + bits w 30 25 * 32 + bits w 11 8 * 2) 13
def immU (w : Nat) : W64 := simm (bits w 31 12 * 4096) 32
def immJ (w : Nat) : W64 := simm (bits w 31 31 * 1048576 + bits w 19 12 * 4096 + bits w 20 20 * 2048 + bits w 30 21 * 2) 21

/-- The operation of a register instruction, by funct7 and funct3. -/
def aluOf (f7 f3 : Nat) : Option AluOp :=
  if f7 = 0 then [AluOp.add, .sll, .slt, .sltu, .xor, .srl, .or, .and][f3]?
  else if f7 = 1 then [AluOp.mul, .mulh, .mulhsu, .mulhu, .div, .divu, .rem, .remu][f3]?
  else if f7 = 32 ∧ f3 = 0 then some .sub
  else if f7 = 32 ∧ f3 = 5 then some .sra
  else none
/-- The operations that have a form on words. -/
def AluOp.hasNarrow (op : AluOp) : Bool := [AluOp.add, .sub, .sll, .srl, .sra, .mul, .div, .divu, .rem, .remu].contains op
def condOf (f3 : Nat) : Option Cond :=
  if f3 = 0 then some .eq else if f3 = 1 then some .ne else if f3 = 4 then some .lt else if f3 = 5 then some .ge
  else if f3 = 6 then some .ltu else if f3 = 7 then some .geu else none
/-- The atomic of a funct5. -/
def amoOf (f5 : Nat) : Option AmoOp :=
  if f5 = 2 then some .lr else if f5 = 3 then some .sc else if f5 = 1 then some .swap else if f5 = 0 then some .add
  else if f5 = 4 then some .xor else if f5 = 12 then some .and else if f5 = 8 then some .or else if f5 = 16 then some .min
  else if f5 = 20 then some .max else if f5 = 24 then some .minu else if f5 = 28 then some .maxu else none
/-- An immediate operation: a shift takes its amount from the low bits and its kind from those above them. -/
def aluiOf (narrow : Bool) (w : Nat) : Insn :=
  let rd := bits w 11 7
  let rs1 := bits w 19 15
  let f3 := bits w 14 12
  let kind := if narrow then bits w 31 25 else bits w 31 26 * 2
  let amount := if narrow then bits w 24 20 else bits w 25 20
  if f3 = 1 then (if kind = 0 then .alui .sll narrow rd rs1 (w64 amount) else .illegal)
  else if f3 = 5 then
    if kind = 0 then .alui .srl narrow rd rs1 (w64 amount)
    else if kind = 32 then .alui .sra narrow rd rs1 (w64 amount)
    else .illegal
  else if narrow then (if f3 = 0 then .alui .add true rd rs1 (immI w) else .illegal)
  else match aluOf 0 f3 with
    | some op => .alui op false rd rs1 (immI w)
    | none => .illegal
/-- A register operation. -/
def aluInsn (narrow : Bool) (w : Nat) : Insn :=
  match aluOf (bits w 31 25) (bits w 14 12) with
  | some op => if narrow && !op.hasNarrow then .illegal else .alu op narrow (bits w 11 7) (bits w 19 15) (bits w 24 20)
  | none => .illegal
/-- A SYSTEM word. A CSR instruction that sets or clears no bit only reads. -/
def systemInsn (w : Nat) : Insn :=
  let f3 := bits w 14 12
  if w = 0x00000073 then .ecall
  else if w = 0x00100073 then .ebreak
  else if w = 0x10500073 then .wfi
  else if f3 = 0 ∨ f3 = 4 then .illegal
  else .csr (bits w 11 7) (bits w 31 20) (decide (f3 = 1 ∨ f3 = 5) || decide (bits w 19 15 ≠ 0))
/-- A word of Xtwsync or Xtwcache, where Table 8.10 states it (R285). -/
def xtwInsn (w : Nat) : Insn :=
  let f3 := bits w 14 12
  let rd := bits w 11 7
  let rs1 := bits w 19 15
  let rs2 := bits w 24 20
  if bits w 31 25 ≠ 0 then .illegal
  else if bits w 6 0 = 0x0B then
    if f3 = 0 ∧ rd = 0 ∧ rs2 = 0 then .twSig rs1
    else if f3 = 1 ∧ rd = 0 then .twWait rs1 rs2
    else if f3 = 2 ∧ rs2 = 0 then .twCtr rd rs1
    else if f3 = 3 ∧ rs2 = 0 then .twBara rd rs1
    else if f3 = 4 ∧ rd = 0 then .twBarw rs1 rs2
    else if f3 = 7 ∧ rd = 0 ∧ rs1 = 0 ∧ rs2 = 0 then .twHalt
    else .illegal
  else if f3 = 0 ∧ rd = 0 then .twFlush rs1 rs2
  else if f3 = 1 ∧ rd = 0 then .twInv rs1 rs2
  else .illegal

/-- The instruction of a 32-bit word. -/
def insn32 (w : Nat) : Insn :=
  let op := bits w 6 0
  let f3 := bits w 14 12
  let rd := bits w 11 7
  let rs1 := bits w 19 15
  let rs2 := bits w 24 20
  if op = 0x37 then .lui rd (immU w)
  else if op = 0x17 then .auipc rd (immU w)
  else if op = 0x6F then .jal rd (immJ w)
  else if op = 0x67 then (if f3 = 0 then .jalr rd rs1 (immI w) else .illegal)
  else if op = 0x63 then (match condOf f3 with | some k => .branch k rs1 rs2 (immB w) | none => .illegal)
  else if op = 0x03 then (if f3 = 7 then .illegal else .load rd rs1 (immI w) (f3 % 4) (decide (4 ≤ f3)))
  else if op = 0x23 then (if f3 < 4 then .store rs2 rs1 (immS w) f3 else .illegal)
  else if op = 0x13 then aluiOf false w
  else if op = 0x1B then aluiOf true w
  else if op = 0x33 then aluInsn false w
  else if op = 0x3B then aluInsn true w
  else if op = 0x2F then
    match amoOf (bits w 31 27) with
    | some k => if (f3 = 2 ∨ f3 = 3) ∧ (k = .lr → rs2 = 0) then .amo k rd rs1 rs2 (decide (f3 = 3)) else .illegal
    | none => .illegal
  else if op = 0x0F then (if f3 = 0 then .fence else .illegal)
  else if op = 0x73 then systemInsn w
  else if op = 0x0B ∨ op = 0x2B then xtwInsn w
  else .illegal

/-- The register a three-bit field of a 16-bit word names. -/
def creg (v : Nat) : Nat := 8 + v
/-- The signed six-bit immediate of a 16-bit word. -/
def cimm (h : Nat) : W64 := simm (bits h 12 12 * 32 + bits h 6 2) 6
/-- The offsets of the 16-bit loads and stores of a word and of a double word, from a register and from the stack pointer. -/
def offW (h : Nat) : W64 := w64 (bits h 5 5 * 64 + bits h 12 10 * 8 + bits h 6 6 * 4)
def offD (h : Nat) : W64 := w64 (bits h 6 5 * 64 + bits h 12 10 * 8)
def offLwsp (h : Nat) : W64 := w64 (bits h 3 2 * 64 + bits h 12 12 * 32 + bits h 6 4 * 4)
def offLdsp (h : Nat) : W64 := w64 (bits h 4 2 * 64 + bits h 12 12 * 32 + bits h 6 5 * 8)
def offSwsp (h : Nat) : W64 := w64 (bits h 8 7 * 64 + bits h 12 9 * 4)
def offSdsp (h : Nat) : W64 := w64 (bits h 9 7 * 64 + bits h 12 10 * 8)
/-- The offsets of C.J and of C.BEQZ and C.BNEZ. -/
def offCj (h : Nat) : W64 :=
  simm (bits h 12 12 * 2048 + bits h 8 8 * 1024 + bits h 10 9 * 256 + bits h 6 6 * 128 + bits h 7 7 * 64 + bits h 2 2 * 32 + bits h 11 11 * 16
    + bits h 5 3 * 2) 12
def offCb (h : Nat) : W64 := simm (bits h 12 12 * 256 + bits h 6 5 * 64 + bits h 2 2 * 32 + bits h 11 10 * 8 + bits h 4 3 * 2) 9

/-- Quadrant 0: C.ADDI4SPN, C.LW, C.LD, C.SW, C.SD. -/
def insn16q0 (h : Nat) : Insn :=
  let f3 := bits h 15 13
  let a := creg (bits h 9 7)
  let b := creg (bits h 4 2)
  let spn := bits h 10 7 * 64 + bits h 12 11 * 16 + bits h 5 5 * 8 + bits h 6 6 * 4
  if f3 = 0 then (if spn = 0 then .illegal else .alui .add false b 2 (w64 spn))
  else if f3 = 2 then .load b a (offW h) 2 false
  else if f3 = 3 then .load b a (offD h) 3 false
  else if f3 = 6 then .store b a (offW h) 2
  else if f3 = 7 then .store b a (offD h) 3
  else .illegal
/-- The register operations of quadrant 1. -/
def insn16alu (h : Nat) : Insn :=
  let a := creg (bits h 9 7)
  let b := creg (bits h 4 2)
  let amount := w64 (bits h 12 12 * 32 + bits h 6 2)
  let f2 := bits h 11 10
  let k := bits h 12 12 * 4 + bits h 6 5
  if f2 = 0 then .alui .srl false a a amount
  else if f2 = 1 then .alui .sra false a a amount
  else if f2 = 2 then .alui .and false a a (cimm h)
  else if k = 0 then .alu .sub false a a b
  else if k = 1 then .alu .xor false a a b
  else if k = 2 then .alu .or false a a b
  else if k = 3 then .alu .and false a a b
  else if k = 4 then .alu .sub true a a b
  else if k = 5 then .alu .add true a a b
  else .illegal
/-- Quadrant 1. -/
def insn16q1 (h : Nat) : Insn :=
  let f3 := bits h 15 13
  let rd := bits h 11 7
  let sp16 := simm (bits h 12 12 * 512 + bits h 4 3 * 128 + bits h 5 5 * 64 + bits h 2 2 * 32 + bits h 6 6 * 16) 10
  if f3 = 0 then .alui .add false rd rd (cimm h)
  else if f3 = 1 then (if rd = 0 then .illegal else .alui .add true rd rd (cimm h))
  else if f3 = 2 then .lui rd (cimm h)
  else if f3 = 3 then
    if cimm h = 0#64 then .illegal
    else if rd = 2 then .alui .add false 2 2 sp16
    else .lui rd (cimm h <<< 12)
  else if f3 = 4 then insn16alu h
  else if f3 = 5 then .jal 0 (offCj h)
  else if f3 = 6 then .branch .eq (creg (bits h 9 7)) 0 (offCb h)
  else .branch .ne (creg (bits h 9 7)) 0 (offCb h)
/-- Quadrant 2. -/
def insn16q2 (h : Nat) : Insn :=
  let f3 := bits h 15 13
  let rd := bits h 11 7
  let rs2 := bits h 6 2
  if f3 = 0 then .alui .sll false rd rd (w64 (bits h 12 12 * 32 + rs2))
  else if f3 = 2 then (if rd = 0 then .illegal else .load rd 2 (offLwsp h) 2 false)
  else if f3 = 3 then (if rd = 0 then .illegal else .load rd 2 (offLdsp h) 3 false)
  else if f3 = 4 then
    if bits h 12 12 = 0 then
      if rs2 ≠ 0 then .alu .add false rd 0 rs2
      else if rd = 0 then .illegal
      else .jalr 0 rd 0#64
    else if rs2 ≠ 0 then .alu .add false rd rd rs2
    else if rd = 0 then .ebreak
    else .jalr 1 rd 0#64
  else if f3 = 6 then .store rs2 2 (offSwsp h) 2
  else if f3 = 7 then .store rs2 2 (offSdsp h) 3
  else .illegal

/-- The instruction's bytes: 2 where its low two bits are not both set, else 4. -/
def insnLen (w : Nat) : Nat := if w % 4 = 3 then 4 else 2
/-- The instruction of the word at an address; its upper half counts only in a 32-bit one. -/
def decodeInsn (w : Nat) : Insn :=
  let h := w % 65536
  if w % 4 = 3 then insn32 w
  else if w % 4 = 0 then insn16q0 h
  else if w % 4 = 1 then insn16q1 h
  else insn16q2 h

/-! ### Their effects -/

/-- A word's low 32 bits, signed. -/
def lowS (a : W64) : W64 := simm (a.toNat % 2 ^ 32) 32
/-- The result of an operation. Division by 0 gives all ones and the dividend as remainder. -/
def AluOp.run (op : AluOp) (a b : W64) : W64 :=
  let sh := b.toNat % 64
  match op with
  | .add => a + b
  | .sub => a - b
  | .sll => a <<< sh
  | .slt => w64 (b2n (decide (a.toInt < b.toInt)))
  | .sltu => w64 (b2n (decide (a.toNat < b.toNat)))
  | .xor => a ^^^ b
  | .srl => a >>> sh
  | .sra => a.sshiftRight sh
  | .or => a ||| b
  | .and => a &&& b
  | .mul => a * b
  | .mulh => BitVec.ofInt 64 (a.toInt * b.toInt / 2 ^ 64)
  | .mulhsu => BitVec.ofInt 64 (a.toInt * (b.toNat : Int) / 2 ^ 64)
  | .mulhu => w64 (a.toNat * b.toNat / 2 ^ 64)
  | .div => if b = 0#64 then BitVec.allOnes 64 else BitVec.ofInt 64 (a.toInt.tdiv b.toInt)
  | .divu => if b = 0#64 then BitVec.allOnes 64 else w64 (a.toNat / b.toNat)
  | .rem => if b = 0#64 then a else BitVec.ofInt 64 (a.toInt.tmod b.toInt)
  | .remu => if b = 0#64 then a else w64 (a.toNat % b.toNat)
/-- The forms on words act on the low 32 bits, as signed or unsigned as the operation, and extend the sign of their result. -/
def AluOp.runW (op : AluOp) (a b : W64) : W64 :=
  let ua := w64 (a.toNat % 2 ^ 32)
  let ub := w64 (b.toNat % 2 ^ 32)
  let sh := w64 (b.toNat % 32)
  lowS (match op with
  | .sll => a <<< (b.toNat % 32)
  | .srl => AluOp.run .srl ua sh
  | .sra => AluOp.run .sra (lowS a) sh
  | .divu => AluOp.run .divu ua ub
  | .remu => AluOp.run .remu ua ub
  | .div => AluOp.run .div (lowS a) (lowS b)
  | .rem => AluOp.run .rem (lowS a) (lowS b)
  | .add => a + b
  | .sub => a - b
  | .mul => a * b
  | .slt => 0#64
  | .sltu => 0#64
  | .xor => a ^^^ b
  | .or => a ||| b
  | .and => a &&& b
  | .mulh => 0#64
  | .mulhsu => 0#64
  | .mulhu => 0#64)
/-- The operation in the form of an instruction. -/
def AluOp.result (op : AluOp) (narrow : Bool) (a b : W64) : W64 := if narrow then op.runW a b else op.run a b
/-- The condition holds. -/
def Cond.holds (k : Cond) (a b : W64) : Bool :=
  match k with
  | .eq => decide (a = b)
  | .ne => decide (a ≠ b)
  | .lt => decide (a.toInt < b.toInt)
  | .ge => decide (b.toInt ≤ a.toInt)
  | .ltu => decide (a.toNat < b.toNat)
  | .geu => decide (b.toNat ≤ a.toNat)

/-- Write a register and go on at p. -/
def Dev.sclSet (v : Dev) (c x rd : Nat) (val p : W64) : Dev := v.modCtx c x (fun q => (q.setReg rd val).go p)

/-- What an instruction does at pc, p being the address of the next (R277 to R289). -/
def Dev.sclExec (v : Dev) (c x : Nat) (i : Insn) (pc p : W64) : Dev :=
  let r (n : Nat) : W64 := (v.ctx c x).reg n
  match i with
  | .alu op narrow rd rs1 rs2 => v.sclSet c x rd (op.result narrow (r rs1) (r rs2)) p
  | .alui op narrow rd rs1 imm => v.sclSet c x rd (op.result narrow (r rs1) imm) p
  | .lui rd imm => v.sclSet c x rd imm p
  | .auipc rd imm => v.sclSet c x rd (pc + imm) p
  | .jal rd off => v.sclSet c x rd p (pc + off)
  | .jalr rd rs1 off => v.sclSet c x rd p ((r rs1 + off) &&& ~~~1#64)
  | .branch k rs1 rs2 off => v.sclGo c x (if k.holds (r rs1) (r rs2) then pc + off else p)
  | .load rd rs1 imm size uns => v.sclLoad c x (r rs1 + imm).toNat size uns rd pc p
  | .store rs2 rs1 imm size => v.sclStore c x (r rs1 + imm).toNat (toBytes (r rs2).toNat (2 ^ size)) pc p
  | .amo op rd rs1 rs2 dbl => v.sclAmo c x (r rs1).toNat op rd rs2 dbl pc p
  | .fence => v.sclFence c x pc
  | .csr rd csr writes => if writes then v.sclFault c x causeIllegal pc else v.csrRead c x rd csr pc
  | .wfi => v.sclGo c x p
  | .ecall => v.sclFault c x causeEcall pc
  | .ebreak => v.sclFault c x causeBreak pc
  | .twSig rs1 => v.twSig c x rs1 pc
  | .twWait rs1 rs2 => v.twWait c x rs1 rs2 pc
  | .twCtr rd rs1 => v.twCtr c x rd rs1 pc
  | .twBara rd rs1 => v.twBara c x rd rs1 pc
  | .twBarw rs1 rs2 => v.twBarw c x rs1 rs2 pc
  | .twHalt => v.twHalt c x
  | .twFlush rs1 rs2 => v.twRange false c x rs1 rs2 pc
  | .twInv rs1 rs2 => v.twRange true c x rs1 rs2 pc
  | .illegal => v.sclFault c x causeIllegal pc

/-- The exception an instruction takes whatever the state; none for one that has an effect of its own. -/
def sclTrap (w : Nat) : Option Nat :=
  match decodeInsn w with
  | .ecall => some causeEcall
  | .ebreak => some causeBreak
  | .illegal => some causeIllegal
  | .csr _ csr writes => if writes || !(csr = 0xF14 || csr = 0xC00 || csr = 0xC01 || csr = 0xC02) then some causeIllegal else none
  | _ => none

/-- ECALL: the context runs the instruction of a word: ECALL, EBREAK and a word that is no instruction stop it (R283); of the others it does
what that instruction does, for the rows of the table name only some of them (log entry 49). -/
def execEcall (c : CoreId) (x : CtxId) (word : W32) (s : State) : Host.Outcome State Fault Refusal :=
  s.onDev (fun v => v.sclRun c.val x.val (insnLen word.toNat) (fun u pc =>
    u.sclExec c.val x.val (decodeInsn word.toNat) pc (pc + w64 (insnLen word.toNat))))

end Sys2Proof.Machine
end

