-- ==== Sys2Proof/Machine/Region.lean ====
section
/-! DEFINITION. The region table's writes (09) and the die bridge (04). -/

namespace Sys2Proof.Machine

/-- SPACE and CHIP of a base permit SIZE; TRACK and REMOTE fit the place (Table 9.6, code 2). -/
def rgnBadAttr (base : W64) (attr : W32) : Bool :=
  let r : Rgn := { base := base, attr := attr }
  let sp := fld base 63 62
  decide (62 < r.size) || sp = 3 || ((sp = 0 || sp = 2) && (decide (48 < r.size) || decide (fld base 61 48 ≠ 0))) ||
  (r.track && !(sp = 0 && decide (base.toNat + 2 ^ r.size ≤ stackEnd))) || (r.remote && decide (sp ≠ 0))

/-- The check of Table 9.6 that fails first on enabling entry n of a die. -/
def Dev.rgnCheck (v : Dev) (die n : Nat) (base : W64) (attr : W32) : Option Nat :=
  let sz := bits attr.toNat 6 1
  if sz < 16 then some 1
  else if rgnBadAttr base attr then some 2
  else if base.toNat % 2 ^ sz ≠ 0 then some 3
  else if v.rgn.any (fun e => decide (e.1 / 256 = die) && decide (e.1 % 256 ≠ n) && e.2.en && overlap e.2.base.toNat (2 ^ e.2.size) base.toNat (2 ^ sz)) then some 4
  else none

/-- Record a refused write (R314). -/
def Dev.rgnRefuse (v : Dev) (die n code : Nat) : Dev := v.modRgnSt die (fun _ => { err := code, errEntry := n, errValid := true })
/-- A change of EN on a TRACK region starts an update of the tracked bits (R571). -/
def Dev.rgnTouch (v : Dev) (old new : Rgn) : Dev :=
  if old.en ≠ new.en ∧ (old.track ∨ new.track) then v.modMoult (fun m => { m with tBusy := true }) else v

/-- RGN_ATTR_WRITE (R313, R314, R318). -/
def Dev.rgnAttrWrite (v : Dev) (die n : Nat) (x : W32) : Dev :=
  let k := die * 256 + n
  let old := v.rgnE k
  let x := w32 (bits x.toNat 12 0)
  let new : Rgn := { old with attr := x }
  if old.en ∧ (new.size ≠ old.size ∨ new.track ≠ old.track) then v.rgnRefuse die n 5
  else if new.en ∧ ¬old.en then
    match v.rgnCheck die n old.base x with
    | some c => (v.modRgnE k (fun r => { r with attr := x &&& ~~~1#32 })).rgnRefuse die n c
    | none => (v.modRgnE k (fun _ => new)).rgnTouch old new
  else (v.modRgnE k (fun _ => new)).rgnTouch old new
def execRgnAttrWrite (d : DieId) (n : Fin 256) (v : W32) (s : State) : Host.Outcome State Fault Refusal := s.onDev (fun u => u.rgnAttrWrite d.val n.val v)

/-- Write RGN_BASE(n): ignored while EN is 1 (R318). -/
def Dev.rgnBaseWrite (v : Dev) (die n : Nat) (x : W64) : Dev :=
  let k := die * 256 + n
  if (v.rgnE k).en then v.rgnRefuse die n 5 else v.modRgnE k (fun r => { r with base := w64 (x.toNat / 65536 * 65536) })

/-- The schedules of a die that claim a unit: the one whose stream it runs, or the one whose CORE_MASK names its core (R97). -/
def Dev.claimedBy (v : Dev) (die k : Nat) : List Nat :=
  (v.scheds.filter (fun e => decide (e.1 / 256 = die) && decide (e.2.phase ≠ .none) && decide (e.2.phase ≠ .saved) &&
    (e.2.streams.contains k || (decide (k < 144) && bit e.2.coreMask.toNat (k / 3))))).map (fun e => e.1)
/-- Key of a destination unit in `bridgeFails`. -/
def bridgeKey (unit : Option Nat) : Nat := match unit with
  | some k => k + 1
  | none => 0
/-- BRIDGE_TRANSFER: a transfer for a unit arrives on a die; one with a parity error is resent, and its ninth failure raises BRIDGE_PARITY for
the schedule that claims the unit, or for none (R157). Transfers for one unit arrive in order (R156), so the failures of one follow each
other. The record names no stream and its DETAIL is 0 (DESIGN CHOICE, log entry 37). -/
def Dev.bridgeTransfer (v : Dev) (die : Nat) (unit : Option Nat) (bad : Bool) : Dev :=
  let n := tget 0 (v.fabD die).bridgeFails (bridgeKey unit)
  let count (x : Nat) (u : Dev) : Dev := u.modFabD die (fun f => { f with bridgeFails := tset 0 f.bridgeFails (bridgeKey unit) x })
  if !bad then count 0 v
  else if n < 8 then count (n + 1) v
  else (count 0 v).dieFault die 0x43 none 0#64 (match unit with
    | some k => v.claimedBy die k
    | none => [])
def execBridgeTransfer (d : DieId) (unit : Option StreamId) (bad : Bool) (s : State) : Host.Outcome State Fault Refusal :=
  s.onDev (fun v => v.bridgeTransfer d.val (unit.map (fun k => k.val)) bad)

end Sys2Proof.Machine
end

