-- ==== Sys2Proof/Machine/Registers.lean ====
section
/-! DEFINITION. The BAR0 map (19): what a write to each register does, access sizes, and the registers with no behaviour of their own. -/

namespace Sys2Proof.Machine

/-! ### Registers with no behaviour of their own (R648) -/

/-- STRM_MARK written: CLR sets SLIP_MAX, OOB_COUNT and DROP_COUNT to 0 (Table 19.9). -/
def Dev.markWrite (v : Dev) (k : Nat) (x : W64) : Dev := if fbit x 32 then v.modStrm k (fun s => { s with slipMax := 0, oob := 0, drop := 0 }) else v
def execStrmMarkClr (k : StreamId) (v : W64) (s : State) : Host.Outcome State Fault Refusal := s.onDev (fun u => u.markWrite k.val v)

/-- A W1C bit: it stays unless 1 is written. -/
def w1c (old : Bool) (x i : Nat) : Bool := old && !bit x i

/-- GLB registers of a die (Table 19.2). -/
def Dev.glbWrite (v : Dev) (die off x : Nat) : Dev :=
  if off = 0x104 then v.releaseRecord die (w32 x)
  else if off = 0x2C4 then v.modCtxSwD die (fun s => { s with drain := bits x 7 0 })
  else if off = 0x418 then v.markWrite (144 + die) (w64 x)
  else if 0x200 ≤ off ∧ off < 0x280 then v.modCtxSwD die (fun s => { s with area := tset 0#64 s.area ((off - 0x200) / 8) (w64 (x / 65536 * 65536)) })
  else v
/-- HIF registers (Table 17.12). -/
def Dev.hifWrite (v : Dev) (die off x : Nat) : Dev :=
  if off = 0x10000 then v.modHifD die (fun h => { h with errValid := w1c h.errValid x 4 })
  else if off < 0x20000 then v.mmioWrite die ((off - 0x10100) / 8) (w64 x)
  else
    let n := (off - 0x20000) / 32
    match (off - 0x20000) % 32 with
    | 0 => v.ringBaseWrite die n (w64 x)
    | 8 => v.ringCfgWrite die n (w64 x)
    | _ => v.ringShadowWrite die n (w64 x)
/-- The MSI-X table, in words of 32 bits: address, upper address, data, vector control (PRESUMED, log entry 9). Clearing the mask sends a
pending vector. -/
def Dev.msixWrite (v : Dev) (die off x : Nat) : Dev :=
  let n := (off - 0x80000) / 16
  let lo (w : W64) : W64 := w64 (fld w 63 32 * 2 ^ 32 + x)
  let hi (w : W64) : W64 := w64 (fld w 31 0 + x * 2 ^ 32)
  let v1 := v.modHifD die (fun h =>
    match (off - 0x80000) / 4 % 4 with
    | 0 => { h with msixAddr := tmod 0#64 h.msixAddr n lo }
    | 1 => { h with msixAddr := tmod 0#64 h.msixAddr n hi }
    | 2 => { h with msixData := tmod (w64 (2 ^ 32)) h.msixData n lo }
    | _ => { h with msixData := tmod (w64 (2 ^ 32)) h.msixData n hi })
  if (v1.hifD die).msixPend.contains n && !(v1.hifD die).masked n then (v1.modHifD die (fun h => { h with msixPend := h.msixPend.erase n })).msi die n else v1
/-- FAB_TIME_CHIPS written: ignored while the unit is locked (R21). -/
def Dev.timeChipsWrite (v : Dev) (die x : Nat) : Dev :=
  if v.ft.locked then v.ev die (74 + die) 0x005 0x00100004 x else v.modFtReg die (fun r => { r with chips := w32 x })
/-- FAB registers (Tables 2.8, 14.9). -/
def Dev.fabWrite (v : Dev) (die off x : Nat) : Dev :=
  if off = 0x100000 then v.timeCfgWrite die (w32 x)
  else if off = 0x100004 then v.timeChipsWrite die x
  else if off = 0x100010 then v.modFtReg die (fun r => { r with step := w1c r.step x 16, msgDrop := w1c r.msgDrop x 17 })
  else if off = 0x100104 then v.modFabD die (fun f => { f with ackTimeout := bits x 7 0 })
  else if off = 0x100108 then v.modFabD die (fun f => { f with
    denied := w1c f.denied x 0, inboundDenied := w1c f.inboundDenied x 1, misrouted := w1c f.misrouted x 2, noLink := w1c f.noLink x 3,
    timeout := w1c f.timeout x 4, overrun := w1c f.overrun x 5 })
  else if off = 0x100110 then v.landClr die (w32 x)
  else if off < 0x120000 then v.modFabD die (fun f => { f with routes := tset 0#32 f.routes ((off - 0x110000) / 4) (w32 x &&& 0x1FF7#32) })
  else v.modLand die ((off - 0x120000) / 8) (fun l => { l with overrun := w1c l.overrun x 35 })
/-- STK registers of a stack (Tables 7.5, 12.11, 13.7, 19.5). -/
def Dev.stkWrite (v : Dev) (s off x : Nat) : Dev :=
  match off with
  | 0x10 => v.modStk s (fun k => { k with engWeight := bits x 4 0 })
  | 0x18 => v.modStk s (fun k => { k with qfull := w1c k.qfull x 1 })
  | 0x20 => v.modStk s (fun k => { k with skipSeen := w1c k.skipSeen x 0, mismatchSeen := w1c k.mismatchSeen x 1, vmisuseSeen := w1c k.vmisuseSeen x 2 })
  | 0x58 => v.markWrite (146 + s) (w64 x)
  | 0x110 => v.modStk s (fun k => { k with rngMode := bit x 0 })
  | _ => v.modStk s (fun k => { k with rngSeed := w64 x })
/-- HBM registers (Tables 12.11, 16.14). -/
def Dev.hbmWrite (v : Dev) (off x : Nat) : Dev :=
  match off with
  | 0x340000 => v.mapCfgWrite (w32 x)
  | 0x340008 => v.modHbm (fun h => { h with refused := w1c h.refused x 1 })
  | 0x340010 => v.maintWrite (w64 x)
  | 0x348000 => v.modMoult (fun m => { m with rate := bits x 6 0 })
  | _ => v.modMoult (fun m => { m with pageErr := w1c m.pageErr x 3 })
/-- PWR registers (Table 15.9). -/
def Dev.pwrWrite (v : Dev) (off x : Nat) : Dev :=
  match off with
  | 0x200008 => v.pwrCfgWrite (w32 x)
  | 0x200010 => v.pwrCapWrite (w32 x)
  | _ => v.energyClear (w32 x)
/-- LNK registers of a link (Table 14.10). -/
def Dev.lnkWrite (v : Dev) (l off x : Nat) : Dev := if off = 0 then v.lnkCtlWrite l (w32 x) else v.rxbufWrite l (w64 x)
/-- CORE registers of a core (Tables 4.10, 7.5, 8.13, 9.12, 11.7, 19.5). -/
def Dev.coreWrite (v : Dev) (c off x : Nat) : Dev :=
  if off < 0x60 then v.markWrite (3 * c + off / 0x20) (w64 x)
  else if off = 0x100 then v.modCore c (fun k => { k with accOverlap := w1c k.accOverlap x 5, colParity := w1c k.colParity x 6 })
  else if off = 0x110 then v.modCore c (fun k => { k with rngMode := bit x 0 })
  else if off = 0x118 then v.modCore c (fun k => { k with rngSeed := w64 x })
  else if off = 0x120 then v.modCore c (fun k => { k with recBase := w64 (x / 128 * 128) })
  else if off = 0x140 then v.sclCtlWrite c (w32 x)
  else if off = 0x148 then v.modCore c (fun k => { k with sclCode := w64 x })
  else if off < 0x1C0 then v.modCtx c ((off - 0x180) / 8) (fun q => if q.busy then q else { q with pc := w64 x })
  else if off = 0x200 then v.modCore c (fun k => k.memStatusWrite (w32 x))
  else if off = 0x800 then (v.dmaCtlWrite c (w32 x)).releaseHeld
  else if off < 0xA00 then (v.dmaChanWrite c ((off - 0x900) / 16) (w32 x)).releaseHeld
  else v.modDma c (fun e => { e with lines := tmod {} e.lines ((off - 0xA00) / 4) (fun (l : ReqLine) => l.write (w32 x)) })
/-- SYN registers of a die (Table 10.5). -/
def Dev.synWrite (v : Dev) (die off x : Nat) : Dev :=
  if off < 0xC10000 then v.synCtrWrite die ((off - 0xC00000) / 8) (w64 x) false
  else if off = 0xC10000 then v.modSynSt die (fun s => { s with badId := w1c s.badId x 0, misuseSeen := w1c s.misuseSeen x 1, overflowSeen := w1c s.overflowSeen x 2 })
  else
    let u := (off - 0xC10100) / 16
    if off % 16 = 0 then v.modBar u (fun b => { b with mask := BitVec.ofNat 48 x, arrived := 0#48 })
    else v.modBar u (fun b => { b with sigId := bits x 29 16, sigEn := bit x 30 })
/-- RGN registers of a die (Table 9.3). -/
def Dev.rgnWrite (v : Dev) (die off x : Nat) : Dev :=
  if off = 0xE01000 then v.modRgnSt die (fun s => { s with errValid := w1c s.errValid x 16 })
  else if off % 16 = 0 then v.rgnBaseWrite die ((off - 0xE00000) / 16) (w64 x)
  else v.rgnAttrWrite die ((off - 0xE00000) / 16) (w32 x)

/-! ### The BAR0 map (R592, R646) -/

/-- A register lies at every multiple of a step from an offset, and this offset is one of the first n. -/
def among (off base step n : Nat) : Bool := decide (base ≤ off) && decide (off < base + step * n) && decide ((off - base) % step = 0)

/-- Width in bytes of the register at an offset whose writes have an effect; 0 where there is none. -/
def regWidth (off : Nat) : Nat :=
  let core := (off - 0x800000) % 0x10000
  let stk := (off - 0x300000) % 0x10000
  let lnk := (off - 0x400000) % 0x4000
  if off < 0x10000 then
    if off = 0x104 ∨ off = 0x2C4 then 4 else if off = 0x418 ∨ among off 0x200 8 16 then 8 else 0
  else if off < 0x80000 then
    if off = 0x10000 || among off 0x10100 8 8 || among off 0x20000 32 8192 || among off 0x20008 32 8192 || among off 0x20010 32 8192 then 8 else 0
  else if off < 0x88000 then (if off % 4 = 0 then 4 else 0)
  else if off < 0x100000 then 0
  else if off < 0x200000 then
    if [0x100000, 0x100004, 0x100010, 0x100104, 0x100108, 0x100110].contains off || among off 0x110000 4 16384 then 4
    else if among off 0x120000 8 1024 then 8 else 0
  else if off < 0x300000 then (if [0x200008, 0x200010, 0x200300].contains off then 4 else 0)
  else if off < 0x340000 then
    if [0x10, 0x18, 0x110].contains stk then 4 else if [0x20, 0x58, 0x118].contains stk then 8 else 0
  else if off < 0x350000 then
    if off = 0x340000 ∨ off = 0x348000 then 4 else if [0x340008, 0x340010, 0x348008].contains off then 8 else 0
  else if 0x400000 ≤ off ∧ off < 0x424000 then (if lnk = 0 then 4 else if lnk = 0x10 then 8 else 0)
  else if 0x800000 ≤ off ∧ off < 0x980000 then
    if [0x100, 0x110, 0x140, 0x200, 0x800].contains core || among core 0x908 16 16 || among core 0xA00 4 64 then 4
    else if [0x18, 0x38, 0x58, 0x118, 0x120, 0x148].contains core || among core 0x180 8 8 then 8 else 0
  else if among off 0xC00000 8 7168 || among off 0xC10100 16 16 then 8
  else if off = 0xC10000 || among off 0xC10108 16 16 then 4
  else if among off 0xE00000 16 256 then 8
  else if off = 0xE01000 || among off 0xE00008 16 256 then 4
  else 0

/-- A write of a whole register of die d's function. -/
def Dev.regWrite (v : Dev) (die off x : Nat) : Dev :=
  if off < 0x10000 then v.glbWrite die off x
  else if off < 0x80000 then v.hifWrite die off x
  else if off < 0x100000 then v.msixWrite die off x
  else if off < 0x200000 then v.fabWrite die off x
  else if off < 0x300000 then v.pwrWrite off x
  else if off < 0x340000 then v.stkWrite (4 * die + (off - 0x300000) / 0x10000) ((off - 0x300000) % 0x10000) x
  else if off < 0x400000 then v.hbmWrite off x
  else if off < 0x800000 then v.lnkWrite (9 * die + (off - 0x400000) / 0x4000) ((off - 0x400000) % 0x4000) x
  else if off < 0xC00000 then v.coreWrite (24 * die + (off - 0x800000) / 0x10000) ((off - 0x800000) % 0x10000) x
  else if off < 0xE00000 then v.synWrite die off x
  else v.rgnWrite die off x

/-- A 4-byte write: a 32-bit register; a half of a 64-bit one, which takes effect with its upper half (R592). -/
def Dev.write4 (v : Dev) (die off x : Nat) : Dev :=
  if regWidth off = 4 then v.regWrite die off x
  else if regWidth off = 8 then v.modHifD die (fun h => { h with lowHalf := tset 0#32 h.lowHalf off (w32 x) })
  else if 4 ≤ off ∧ regWidth (off - 4) = 8 then v.regWrite die (off - 4) ((tget 0#32 (v.hifD die).lowHalf (off - 4)).toNat + x * 2 ^ 32)
  else v
/-- Two 32-bit registers written by one access of 8 bytes. FAB_TIME_CHIPS is taken before the FAB_TIME_CFG written with it, for an unlocked
unit locks at the end of the cycle in which both take effect (R21, R37). -/
def Dev.pairWrite (v : Dev) (die off : Nat) (x : W64) : Dev :=
  let low (u : Dev) : Dev := if regWidth off = 4 then u.regWrite die off (fld x 31 0) else u
  let high (u : Dev) : Dev := if regWidth (off + 4) = 4 then u.regWrite die (off + 4) (fld x 63 32) else u
  if off = 0x100000 ∧ !v.ft.locked then low (high v) else high (low v)
/-- REGISTER_WRITE: a write of `len` bytes at a BAR0 offset; 8 bytes over two 32-bit registers write both (R592, R646 to R648). -/
def Dev.bar0Write (v : Dev) (die off len : Nat) (x : W64) : Dev :=
  if len = 4 ∧ off % 4 = 0 ∧ off < 0x1000000 then v.write4 die off (fld x 31 0)
  else if len = 8 ∧ off % 8 = 0 ∧ off < 0x1000000 then (if regWidth off = 8 then v.regWrite die off x.toNat else v.pairWrite die off x)
  else v
def execRegisterWrite (d : DieId) (off len : Nat) (v : W64) (s : State) : Host.Outcome State Fault Refusal := s.onDev (fun u => u.bar0Write d.val off len v)

end Sys2Proof.Machine
end

