-- ==== Sys2Proof/Machine/StreamCmd.lean ====
section
/-! DEFINITION. The commands of every stream (03): fetch, NOP and MARK, retirement, source free, wait stall, and the end of a capture (16). -/

namespace Sys2Proof.Machine

/-- STREAM_FETCH: the fetcher of a running stream refills its buffer once half of it is free; the head is checked once fetched (R89, R95). -/
def Dev.streamFetch (v : Dev) (k : Nat) : Dev :=
  let s := v.strm k
  if s.loaded && decide ((v.schedOf k).phase = .running) && !s.stopped && !s.finished && v.issueOk then (v.refill k).nextHead k else v
def execStreamFetch (k : StreamId) (s : State) : Host.Outcome State Fault Refusal := s.onDev (fun v => v.streamFetch k.val)

/-- An entry whose operation is empty starts, complete from its start (R88, R114). -/
def Dev.startEmpty (v : Dev) (k op : Nat) : Dev :=
  match v.startable k op with
  | none => v
  | some ws => (v.started k { idx := (v.strm k).next, words := ws } true).nextHead k

/-- NOP (R88, R114). -/
def execNop (k : StreamId) (s : State) : Host.Outcome State Fault Refusal := s.onDev (fun v => v.startEmpty k.val 0)
/-- MARK: LAST_MARK is written when it retires (R88). -/
def execMark (k : StreamId) (s : State) : Host.Outcome State Fault Refusal := s.onDev (fun v => v.startEmpty k.val 1)

/-- ENTRY_RETIRE: the oldest entry in flight retires; a gang's arrays are given back, so waiters are considered (R77, R81, R87, R102). -/
def Dev.entryRetire (v : Dev) (k : Nat) : Dev := match v.retirable k with | none => v | some _ => (v.retire k).nextHead k
def execEntryRetire (k : StreamId) (s : State) : Host.Outcome State Fault Refusal := s.onDev (fun v => v.entryRetire k.val)

/-- SOURCE_FREE: the oldest entry that has read all its sources sends its source-free signals (R87). -/
def Dev.sourceFree (v : Dev) (k : Nat) : Dev :=
  match (v.strm k).flights.find? (fun f => f.srcDone && !f.sfSent && !f.withdrawn && !f.part) with
  | none => v
  | some f => v.sendSf k f
def execSourceFree (k : StreamId) (s : State) : Host.Outcome State Fault Refusal := s.onDev (fun v => v.sourceFree k.val)

/-- The entry of stream k whose stall, or whose wait inside a version update, has reached STALL_LIMIT (R104, R465). -/
def Dev.stalled (v : Dev) (k : Nat) : Option Nat :=
  let s := v.strm k
  if s.stallLimit = 0 then none
  else match s.flights.find? (fun f => !f.withdrawn && decide (f.wait = .recv ∨ f.wait = .version) && decide (s.stallLimit * 4096 ≤ f.tol)) with
    | some f => some f.idx
    | none => if (v.tests k).isSome && decide (s.stallLimit * 4096 ≤ s.stall) then some s.next else none

/-- WAIT_STALL (R104, R465, R502). -/
def Dev.waitStall (v : Dev) (k : Nat) : Dev :=
  match v.stalled k with
  | none => v
  | some idx => v.faultStream k stWaitStall idx 0#64
def execWaitStall (k : StreamId) (s : State) : Host.Outcome State Fault Refusal := s.onDev (fun v => v.waitStall k.val)

/-- FAULT_CAPTURE_END: the capture ends when every started entry has ended, or at C0 + 1 ms (R105, R561). -/
def Dev.faultCaptureEnd (v : Dev) (die : Nat) (timed : Bool) : Dev :=
  let r := v.flt die
  if r.capturing && (v.captureDone r.capScheds || timed) then v.endCapture die (!v.captureDone r.capScheds) else v
def execFaultCaptureEnd (d : DieId) (timed : Bool) (s : State) : Host.Outcome State Fault Refusal := s.onDev (fun v => v.faultCaptureEnd d.val timed)

end Sys2Proof.Machine
end

