-- ==== Sys2Proof/Machine/Vector.lean ====
section
/-! DEFINITION. Vector entries (08): element-wise work, reductions, quantisation, gathers, scatters and dispatch. Cycle counts are in Timing.lean. -/

namespace Sys2Proof.Machine

/-! ### Operands -/

/-- First accumulator word, or first scratchpad byte, of row r. -/
def VOpd.word (x : VOpd) (r c : Nat) : Nat := (x.addr + r * x.pitch + c / 256) * 256 + c % 256
def VOpd.byte (x : VOpd) (r : Nat) : Nat := 64 * (x.addr + r * x.pitch)

/-- The codes of n elements of row r (R252). -/
def Core.rowCodes (k : Core) (x : VOpd) (acc : Bool) (f r n : Nat) : List Nat :=
  if acc then (k.accCycle ((List.range n).map (x.word r)) [] []).1
  else (List.range n).map (fun c => k.bitsAt (8 * x.byte r + c * vBits f) (vBits f))
/-- The parity error a read of that row meets: whether in the accumulator, and the address as parityFail takes it. -/
def Core.rowBad (k : Core) (x : VOpd) (acc : Bool) (f r n : Nat) : Option (Bool × Nat) :=
  if acc then ((List.range n).find? (fun c => k.accBad.contains (x.word r c))).map (fun c => (true, x.word r c / 256 * 64))
  else (k.spadBadIn (x.byte r) (ceilDiv (n * vBits f) 8)).map (fun a => (false, a))

/-- Codes of w bits packed least significant first (R191). -/
def packCodes (w : Nat) (cs : List Nat) : Nat := cs.foldr (fun c a => c % 2 ^ w + 2 ^ w * a) 0
/-- Write packed bits from a byte on; bits of the last byte beyond them are kept. -/
def Core.putBits (k : Core) (a w : Nat) (cs : List Nat) : Core :=
  let n := cs.length * w
  let nb := ceilDiv n 8
  k.spadWrite a (toBytes (ofBytes (k.spadRead a nb) / 2 ^ n * 2 ^ n + packCodes w cs) nb)
/-- Write row r of an operand. -/
def Core.putRow (k : Core) (x : VOpd) (acc : Bool) (f r : Nat) (cs : List Nat) : Core :=
  if acc then (k.accCycle [] [] ((List.range cs.length).map (fun c => (x.word r c, cs.getD c 0)))).2
  else if cs.isEmpty then k else k.putBits (x.byte r) (vBits f) cs

/-- Process rows in order, up to the first whose reads meet a parity error. -/
def Dev.vRows (v : Dev) (c : Nat) (bad : Core → Nat → Option (Bool × Nat)) (act : Dev → Nat → Dev × Stats) :
    List Nat → Stats → Dev × Stats × Option (Nat × Bool × Nat)
  | [], st => (v, st, none)
  | r :: rs, st =>
    match bad (v.core c) r with
    | some e => (v, st, some (r, e.1, e.2))
    | none => let (v1, s1) := act v r; v1.vRows c bad act rs (joinStats st s1)

/-! ### V_EW (R258 to R261, R267) -/

/-- A result before its narrowing into D. -/
def ewFloat (f : Nat) (imm a b : Num) : Num :=
  match f with
  | 1 => rnd32 (a.add b)
  | 2 => rnd32 (a.sub b)
  | 3 => rnd32 (a.mul b)
  | 4 => rnd32 ((a.mul imm).add b)
  | 5 => rnd32 (pickNum false a b)
  | 6 => rnd32 (pickNum true a b)
  | 7 => rnd32 a.abs
  | 8 => rnd32 a.negate
  | 9 => rnd32 (a.mul imm)
  | 0x0A => rnd32 (a.mul imm)
  | 0x10 => expNum a
  | 0x11 => logNum a
  | 0x12 => recipNum a
  | 0x13 => rsqrtNum a
  | _ => a
/-- An integer result, as an INT32 (R259). -/
def ewIntOp (f : Nat) (a b : Int) : Int :=
  sext (intCode 32 (match f with
    | 1 => a + b | 2 => a - b | 3 => a * b | 5 => pickInt false a b | 6 => pickInt true a b | 7 => (a.natAbs : Int) | 8 => -a | _ => a)) 32
/-- The value an element of V_EW narrows into D. -/
def VxOps.ewValue (o : VxOps) (imm : Num) (a b : Nat) : Num :=
  if o.func = 0 then decCode o.af a
  else if isIntFmt o.af then .ofInt (ewIntOp o.func (decCode o.af a).toInt (decCode o.bf b).toInt)
  else ewFloat o.func imm (decCode o.af a) (decCode o.bf b)
/-- The entry narrows into D (R228). -/
def VxOps.narrows (o : VxOps) : Bool := o.df ≠ 10 && !(isIntFmt o.af && o.df = 11)

/-- What a list of values gives when narrowed into D: codes and counts. -/
def VxOps.into (o : VxOps) (xs : List Num) : List Nat × Stats :=
  let ys := xs.map (fun x => (x, narrowTo o.df o.ieee none x))
  (ys.map (fun y => y.2.code), statsOf o.narrows 0 (ys.map (fun y => { x := y.1, zero := (decCode o.df y.2.code).isZero, sat := y.2.sat })))

/-- Row r of V_EW. -/
def Dev.ewRow (v : Dev) (c : Nat) (o : VxOps) (imm : Num) (r : Nat) : Dev × Stats :=
  let k := v.core c
  let as := k.rowCodes o.a o.aacc o.af r o.cols
  let bs := if ewBinary o.func then k.rowCodes o.b false o.bf r (if o.brow then 1 else o.cols) else []
  let (cs, st) := o.into ((List.range o.cols).map (fun i => o.ewValue imm (as.getD i 0) (bs.getD (if o.brow then 0 else i) 0)))
  (v.modCore c (fun q => q.putRow o.d o.dacc o.df r cs), st)

/-! ### V_RED, V_ROWEXP, V_TOPK (R262 to R264) -/

/-- Combine two of FUNC 0 SUM, 1 SUMSQ, 2 MAX, 3 MIN, 4 AMAX. -/
def redPair (f : Nat) (a b : Num) : Num := if f ≤ 1 then rnd32 (a.add b) else pickNum (f = 3) a b
/-- Combine neighbouring pairs; a partial of no element leaves the other (log entry 19). -/
def redLevel (f : Nat) : List (Option Num) → List (Option Num)
  | some a :: some b :: r => some (redPair f a b) :: redLevel f r
  | some a :: none :: r => some a :: redLevel f r
  | none :: x :: r => x :: redLevel f r
  | r => r
/-- The 256 partials in ascending column order, then the tree (R262). -/
def reduceRow (f : Nat) (xs : List Num) : Num :=
  let part (l : Nat) : Option Num :=
    match ((List.range xs.length).filter (fun c => c % 256 = l)).map (fun c => xs.getD c .zero) with
    | [] => none
    | y :: ys => some (ys.foldl (redPair f) y)
  match iter (redLevel f) 8 ((List.range 256).map part) with
  | some y :: _ => y
  | _ => .zero
/-- What SUMSQ and AMAX take of an element. -/
def redPrep (f : Nat) (x : Num) : Num := if f = 1 then rnd32 (x.mul x) else if f = 4 then (if x.isNan then qnan else x.abs) else x

/-- The value is an FP32 value. -/
def Num.isFp32 (x : Num) : Bool := !x.isFin || (rnd32 x).eqv x

/-- Row r of V_RED. An integer element FP32 cannot hold leaves the row's result open: a free value of the row's inputs (R216; log entry 3). -/
def Dev.redRow (v : Dev) (c : Nat) (o : VxOps) (r : Nat) : Dev × Stats :=
  let xs := ((v.core c).rowCodes o.a o.aacc o.af r o.cols).map (decCode o.af)
  if xs.all Num.isFp32 then
    let (cs, st) := o.into [rnd32 (reduceRow o.func (xs.map (redPrep o.func)))]
    (v.modCore c (fun q => q.putRow o.d o.dacc o.df r cs), st)
  else
    let codes := (v.core c).rowCodes o.a o.aacc o.af r o.cols
    let code := (Config.freeResult (0x11 :: o.func :: o.af :: o.df :: codes)).toNat % 2 ^ vBits o.df
    let x := decCode o.df code
    (v.modCore c (fun q => q.putRow o.d o.dacc o.df r [code]), statsOf o.narrows 0 [{ x := x, zero := x.isZero }])

/-- Row r of V_ROWEXP. A maximum FP32 cannot hold is written as a free value of the row's inputs (R216; log entry 3). -/
def Dev.rowexpRow (v : Dev) (c : Nat) (o : VxOps) (r : Nat) : Dev × Stats :=
  let xs := ((v.core c).rowCodes o.a o.aacc o.af r o.cols).map (decCode o.af)
  let m := match xs with | [] => .zero | x :: t => t.foldl (pickNum false) x
  let es := if m = .inf true then xs.map (fun _ => Num.zero) else xs.map (fun x => expNum (rnd32 (x.sub m)))
  let s := if m = .inf true then .zero else reduceRow 0 es
  let w := if m.isFp32 then w64 (enc32 m) else Config.freeResult (0x12 :: o.af :: (v.core c).rowCodes o.a o.aacc o.af r o.cols)
  let (cs, st) := o.into es
  (v.modCore c (fun q => (q.putRow o.d o.dacc o.df r cs).putRow o.b false 10 r [w.toNat % 2 ^ 32, enc32 s]), st)

/-- Element x stands before y in descending order, NaN last (R264). -/
def rankBefore (x y : Num) : Bool := !x.isNan && (y.isNan || y.lt x)
/-- Insert after the elements of equal rank. -/
def insRank (p : Nat × Num) : List (Nat × Num) → List (Nat × Num)
  | [] => [p]
  | q :: r => if rankBefore p.2 q.2 then p :: q :: r else q :: insRank p r
/-- Columns and values in descending order, equal values by ascending column. -/
def rankRow (xs : List Num) : List (Nat × Num) := ((List.range xs.length).map (fun c => (c, xs.getD c .zero))).foldl (fun a p => insRank p a) []

/-- Row r of V_TOPK. Its report counts every place it writes, those beyond COLS, which hold −∞, among them (R228 does not say; DESIGN CHOICE,
log entry 94). -/
def Dev.topkRow (v : Dev) (c : Nat) (o : VxOps) (r : Nat) : Dev × Stats :=
  let top := (rankRow (((v.core c).rowCodes o.a o.aacc o.af r o.cols).map (decCode o.af))).take o.func
  let pad := top ++ List.replicate (o.func - top.length) (max32, Num.inf true)
  let (cs, st) := o.into (pad.map (fun p => p.2))
  (v.modCore c (fun q => (q.putRow o.d o.dacc o.df r cs).putRow o.b false 11 r (pad.map (fun p => p.1))), st)

/-! ### V_QUANT and V_STAT (R265 to R269) -/

/-- Lanes of a packed group: G of R268. -/
def VxOps.group (o : VxOps) : Nat := if o.df = 5 then 2 else 4
/-- The draws of one row, one for each group (R268). -/
def Dev.rowDraws (v : Dev) (c n : Nat) : List W64 × Dev :=
  (List.range n).foldl (fun s g => let (w, u) := s.2.coreUse c (g % 256); (s.1 ++ [w], u)) ([], v)
/-- The random slices of a row's elements. -/
def Dev.rowRand (v : Dev) (c : Nat) (o : VxOps) : List (Option Nat) × Dev :=
  if o.sr && !(o.op = 0x15) then
    let (ws, u) := v.rowDraws c (ceilDiv o.padCols o.group)
    ((List.range o.cols).map (fun i => some (slice16 (ws.getD (i / o.group) 0#64) (i % o.group))), u)
  else (List.replicate o.cols none, v)

/-- Row r, its blocks along the row. -/
def Dev.quantRow (v : Dev) (c : Nat) (o : VxOps) (t : Num) (r : Nat) : Dev × Stats :=
  let xs := ((v.core c).rowCodes o.a o.aacc o.af r o.cols).map (decCode o.af)
  let (rs, v1) := v.rowRand c o
  let l := if o.scl = 0 then o.cols else scaleLen o.scl
  let nb := ceilDiv o.cols l
  let bs := (List.range nb).map (fun i => quantBlock o.df o.scl o.ieee t ((xs.drop (i * l)).take l) ((rs.drop (i * l)).take l))
  let st := bs.foldl (fun a b => joinStats a (blockStats b)) {}
  if o.op = 0x15 then (v1, st)
  else
    let cs := (bs.map (fun b => b.codes)).flatten
    let v2 := v1.modCore c (fun q => q.putRow o.d o.dacc o.df r (cs ++ List.replicate (o.padCols - o.cols) 0))
    (if o.scl = 0 then v2 else v2.modCore c (fun q => q.spadWrite (o.d.saddr + r * nb) (bs.map (fun b => byteOf b.scale))), st)

/-- Offset of scale byte (β, c) of blocks that run down columns (R265). -/
def VxOps.colScaleAt (o : VxOps) (b c : Nat) : Nat := if o.pord then c * ceilDiv o.rows (scaleLen o.scl) + b else b * o.cols + c

/-- Row group g of L rows, its blocks down the columns. -/
def Dev.quantGroup (v : Dev) (c : Nat) (o : VxOps) (t : Num) (g : Nat) : Dev × Stats :=
  let l := scaleLen o.scl
  let rows := ((List.range l).map (fun i => g * l + i)).filter (fun r => decide (r < o.rows))
  let xs := rows.map (fun r => ((v.core c).rowCodes o.a o.aacc o.af r o.cols).map (decCode o.af))
  let (rs, v1) := (List.range l).foldl (fun s _ => let (x, u) := Dev.rowRand s.2 c o; (s.1 ++ [x], u)) (([] : List (List (Option Nat))), v)
  let bs := (List.range o.cols).map (fun i => quantBlock o.df o.scl o.ieee t (xs.map (fun x => x.getD i .zero)) ((rs.take rows.length).map (fun x => x.getD i none)))
  let st := bs.foldl (fun a b => joinStats a (blockStats b)) {}
  if o.op = 0x15 then (v1, st)
  else
    let v2 := v1.forAll (List.range l) (fun u i => u.modCore c (fun q => q.putRow o.d o.dacc o.df (g * l + i) (bs.map (fun b => b.codes.getD i 0))))
    (v2.forAll (List.range o.cols) (fun u i => u.modCore c (fun q => q.spadWrite (o.d.saddr + o.colScaleAt g i) [byteOf ((bs.map (fun b => b.scale)).getD i 0)])), st)

/-- Scratchpad offset of the scale of element (r, c) of A in DEQUANT. -/
def VxOps.aScaleAt (o : VxOps) (r c : Nat) : Nat :=
  o.a.saddr + (if o.along then o.colScaleAt (r / scaleLen o.scl) c else r * ceilDiv o.cols (scaleLen o.scl) + c / scaleLen o.scl)

/-- Row r of DEQUANT (R266). -/
def Dev.dequantRow (v : Dev) (c : Nat) (o : VxOps) (t : Num) (r : Nat) : Dev × Stats :=
  let k := v.core c
  let cs := k.rowCodes o.a o.aacc o.af r o.cols
  let xs := (List.range o.cols).map (fun i =>
    let e := mxElem o.af o.scl (cs.getD i 0)
    let e := if o.af = 10 ∨ o.af = 11 then decCode o.af (cs.getD i 0) else e
    let s := if o.scl = 0 then mxScale 0 0 else mxScale o.scl (k.bitsAt (8 * o.aScaleAt r i) 8)
    (t.mul s).mul e)
  let (ds, st) := o.into xs
  (v.modCore c (fun q => q.putRow o.d o.dacc o.df r ds), st)

/-- hi and lo of an FP32 value (06, three-pass FP32). -/
def splitHi (x : Num) : Num := match x with | .nan _ => qnan | .inf n => .inf n | y => bf16.decode (bf16.narrow false y).code
def splitLo (x : Num) : Num := if x.isFin then x.sub (splitHi x) else .zero
/-- Row r of SPLIT3. -/
def Dev.splitRow (v : Dev) (c : Nat) (o : VxOps) (r : Nat) : Dev × Stats :=
  let xs := ((v.core c).rowCodes o.a o.aacc o.af r o.cols).map dec32
  let hs := xs.map (fun x => bf16.enc (splitHi x))
  let ls := xs.map (fun x => bf16.enc (splitLo x))
  let seen := (xs.zip hs).map (fun p => { x := p.1, zero := (bf16.decode p.2).isZero, sat := p.1.isFin && (bf16.narrow false p.1).sat : Seen })
  (v.modCore c (fun q => (q.putRow o.d o.dacc 5 r hs).putRow o.b false 5 r ls), statsOf true 0 seen)

/-! ### The entry as a whole -/

/-- What reads of row r (or row group r) meet. -/
def VxOps.rowBad (o : VxOps) (k : Core) (r : Nat) : Option (Bool × Nat) :=
  let a (r : Nat) : Option (Bool × Nat) := k.rowBad o.a o.aacc o.af r o.cols
  if o.quant ∧ o.along ∧ o.scl ≠ 0 then
    (((List.range (scaleLen o.scl)).map (fun i => r * scaleLen o.scl + i)).filter (fun x => decide (x < o.rows))).findSome? a
  else match a r with
  | some e => some e
  | none =>
    if o.op = 0x10 ∧ ewBinary o.func then k.rowBad o.b false o.bf r (if o.brow then 1 else o.cols)
    else if o.dequant ∧ o.scl ≠ 0 then ((List.range o.cols).findSome? (fun c => k.spadBadIn (o.aScaleAt r c) 1)).map (fun x => (false, x))
    else none

/-- What one row does, by opcode and function. -/
def Dev.vxRow (v : Dev) (c : Nat) (o : VxOps) (t : Num) (r : Nat) : Dev × Stats :=
  match o.op with
  | 0x10 => v.ewRow c o t r
  | 0x11 => v.redRow c o r
  | 0x12 => v.rowexpRow c o r
  | 0x13 => v.topkRow c o r
  | _ =>
    if o.op = 0x14 ∧ o.func = 1 then v.dequantRow c o t r
    else if o.op = 0x14 ∧ o.func = 3 then v.splitRow c o r
    else if o.along ∧ o.scl ≠ 0 then v.quantGroup c o t r
    else v.quantRow c o t r

/-- Rows, or row groups, the entry processes. -/
def VxOps.units (o : VxOps) : Nat := if o.quant ∧ o.along ∧ o.scl ≠ 0 then ceilDiv o.rows (scaleLen o.scl) else o.rows
/-- Rows of D wholly written when n of them are done (Table 16.9). -/
def VxOps.progress (o : VxOps) (n : Nat) : Nat :=
  if o.op = 0x15 then 0 else if o.quant ∧ o.along ∧ o.scl ≠ 0 then min o.rows (n * scaleLen o.scl) else n

/-- Records the entry reads at its start (R237): their addresses. -/
def Dev.vxRecords (v : Dev) (c : Nat) (o : VxOps) : List Nat :=
  if o.op = 0x10 then (if o.func = 0x0A then [v.recSlot c o.s0, v.recSlot c o.s1] else [])
  else if o.quant || o.dequant then [v.recSlot c o.s0] else []
/-- IMM of V_EW, the product of two tensor scales, or the tensor scale (R237, R267). -/
def Dev.vxScalar (v : Dev) (c : Nat) (o : VxOps) : Num :=
  let t (s : Nat) : Num := dec32 (v.scaleRec (v.recSlot c s)).tUsed
  if o.op = 0x10 then (if o.func = 0x0A then rnd32 ((t o.s0).mul (t o.s1)) else dec32 o.imm) else t o.s0

/-- A vector entry of Table 8.2's layout but for V_SCUPD starts. -/
def Dev.vxStart (v : Dev) (k op : Nat) : Dev :=
  match v.startable k op with
  | none => v
  | some ws =>
    let o := decVx ws
    let c := strmUnit k
    let idx := (v.strm k).next
    if o.empty then (v.started k { idx := idx, words := ws } true).nextHead k
    else match (v.vxRecords c o).findSome? (fun a => v.pathAt a 64) with
    | some x => v.pathFail k ws x 0
    | none =>
      let t := v.vxScalar c o
      let (v1, st, e) := (v.overlapAt k c ws).vRows c o.rowBad (fun u r => u.vxRow c o t r) (List.range o.units) {}
      match e with
      | some (n, acc, a) => v1.parityFail k ws c acc a (o.progress n)
      | none =>
        let rcd := v1.recSlot c o.stat
        match (if o.statEn then v1.pathAt rcd 64 else none) with
        | some x => v1.pathFail k ws x (o.progress o.units)
        | none =>
          let v2 := if o.statEn then v1.submit (.merge rcd st) c (some (.entry k idx)) else v1
          (v2.started k { idx := idx, words := ws, srcDone := true, prog := o.progress o.units } false).nextHead k

/-- V_EW (R258 to R261, R267). -/
def execVEw (c : CoreId) (s : State) : Host.Outcome State Fault Refusal := s.onDev (fun v => v.vxStart (3 * c.val + 1) 0x10)
/-- V_RED (R262). -/
def execVRed (c : CoreId) (s : State) : Host.Outcome State Fault Refusal := s.onDev (fun v => v.vxStart (3 * c.val + 1) 0x11)
/-- V_ROWEXP (R263). -/
def execVRowexp (c : CoreId) (s : State) : Host.Outcome State Fault Refusal := s.onDev (fun v => v.vxStart (3 * c.val + 1) 0x12)
/-- V_TOPK (R264). -/
def execVTopk (c : CoreId) (s : State) : Host.Outcome State Fault Refusal := s.onDev (fun v => v.vxStart (3 * c.val + 1) 0x13)
/-- V_QUANT (R265, R266, R268). -/
def execVQuant (c : CoreId) (s : State) : Host.Outcome State Fault Refusal := s.onDev (fun v => v.vxStart (3 * c.val + 1) 0x14)
/-- V_STAT (R269). -/
def execVStat (c : CoreId) (s : State) : Host.Outcome State Fault Refusal := s.onDev (fun v => v.vxStart (3 * c.val + 1) 0x15)

/-- V_SCUPD (R234, R269): it starts once no write is held for the pages of its records. -/
def Dev.vScupd (v : Dev) (k : Nat) : Dev :=
  match v.startable k 0x16 with
  | none => v
  | some ws =>
    let o := decVx ws
    let c := strmUnit k
    let idx := (v.strm k).next
    let st := v.recSlot c o.stat
    let rcd := v.recSlot c o.s0
    if v.heldIn st 64 || v.heldIn rcd 128 then v
    else match [v.pathAt st 64, v.pathAt rcd 128].findSome? id with
    | some x => v.pathFail k ws x 0
    | none => ((v.scaleUpdate st rcd c (some (.entry k idx))).started k { idx := idx, words := ws, srcDone := true } false).nextHead k
def execVScupd (c : CoreId) (s : State) : Host.Outcome State Fault Refusal := s.onDev (fun v => v.vScupd (3 * c.val + 1))

/-! ### Gathers and scatters (R271, R272) -/

/-- Where a gather or scatter stopped: a parity error of the scratchpad of its core, of another window, or a stack path error. -/
inductive GatErr where
  | own (a : Nat)
  | window (a : Nat)
  | path (x : Nat)
  deriving DecidableEq, Repr

/-- Read window bytes through the L2, line by line; `fuel` bounds the lines. Bytes an error answer gives are open: free
values of their addresses (R216; log entry 3). -/
def Dev.gatherBytes (v : Dev) (c a n : Nat) (keep : Bool) : Nat → (List Byte × Option GatErr) × Dev
  | 0 => (([], none), v)
  | fuel + 1 =>
    if n = 0 then (([], none), v)
    else
      let m := min n (64 - a % 64)
      let (r, v1) := if keep then v.l2Read c (a / 64) (a % 64) m true c else v.rdModule (coreDie c) a m c
      match r with
      | .ok bs =>
        let got := if keep then (bs.drop (a % 64)).take m else bs
        let (x, v2) := v1.gatherBytes c (a + m) (n - m) keep fuel
        ((got ++ x.1, x.2), v2)
      | .err 4 => (([], some (.path (match v.pathAt (if keep then a / 64 * 64 else a) (if keep then 64 else m) with | some x => x | none => a))), v1)
      | .err 2 => (([], some (.window a)), v1)
      | .err _ =>
        let got := (List.range m).map (fun i => byteOf (Config.freeResult [0x17, a + i]).toNat)
        let (x, v2) := v1.gatherBytes c (a + m) (n - m) keep fuel
        ((got ++ x.1, x.2), v2)

/-- Write window bytes through the L2, line by line. -/
def Dev.scatterBytes (v : Dev) (c a : Nat) (bs : List Byte) (owner : Option Owner) : Nat → Option GatErr × Dev
  | 0 => (none, v)
  | fuel + 1 =>
    if bs.isEmpty then (none, v)
    else
      let m := 64 - a % 64
      let x := v.pathAt a (min m bs.length)
      match v.l2Through c a (bs.take m) owner with
      | (some 4, v1) => (some (.path (x.getD a)), v1)
      | (_, v1) => v1.scatterBytes c (a + m) (bs.drop m) owner fuel

/-- Count an index outside the window, or a target outside the range (R110, R273). -/
def Dev.countOob (v : Dev) (k : Nat) : Dev := v.modStrm k (fun s => { s with oob := satAdd s.oob 1 max32 })

/-- Index i of a gather or scatter. -/
def GatOps.index (g : GatOps) (k : Core) (i : Nat) : Nat := k.bitsAt (8 * (g.idx + 4 * i)) 32

/-- Rows of a gather in order. -/
def Dev.gatherRows (v : Dev) (k c : Nat) (g : GatOps) (keep : Bool) : List Nat → Dev × Option (Nat × GatErr)
  | [] => (v, none)
  | i :: is =>
    match (v.core c).spadBadIn (g.idx + 4 * i) 4 with
    | some a => (v, some (i, .own a))
    | none =>
      let ix := g.index (v.core c) i
      if ix < g.wcount then
        let ((bs, e), v1) := v.gatherBytes c (g.wbase.toNat + ix * g.stride) g.esize keep (g.esize / 64 + 2)
        match e with
        | some e => (v1, some (i, e))
        | none => (v1.modCore c (fun q => q.spadWrite (g.data + i * g.pitch) bs)).gatherRows k c g keep is
      else ((v.countOob k).modCore c (fun q => q.spadWrite (g.data + i * g.pitch) (List.replicate g.esize 0#8))).gatherRows k c g keep is

/-- Rows of a scatter in ascending order (R272). -/
def Dev.scatterRows (v : Dev) (k c idx : Nat) (g : GatOps) : List Nat → Dev × Option (Nat × GatErr)
  | [] => (v, none)
  | i :: is =>
    match (v.core c).badIn [(g.idx + 4 * i, 4), (g.data + i * g.pitch, g.esize)] with
    | some a => (v, some (i, .own a))
    | none =>
      let ix := g.index (v.core c) i
      if ix < g.wcount then
        match v.scatterBytes c (g.wbase.toNat + ix * g.stride) ((v.core c).spadRead (g.data + i * g.pitch) g.esize) (some (.entry k idx)) (g.esize / 64 + 2) with
        | (some e, v1) => (v1, some (i, e))
        | (none, v1) => v1.scatterRows k c idx g is
      else (v.countOob k).scatterRows k c idx g is

/-- The stream fault of a gather or scatter (Tables 9.2, 12.5). -/
def Dev.gatFail (v : Dev) (k : Nat) (ws : List W64) (c n : Nat) : GatErr → Dev
  | .own a => v.parityFail k ws c false a n
  | .window a => (v.modCore ((a - spadBase) / 0x2000000) (fun q => { q with testDue := true })).startFail k ws n 0x40 (w64 (a / 64 * 64))
  | .path x => v.startFail k ws n 0x45 (w64 x)

/-- V_GATHER or V_SCATTER starts (R109, R271, R276). -/
def Dev.gatStart (v : Dev) (k op : Nat) : Dev :=
  match v.startable k op with
  | none => v
  | some ws =>
    let g := decGat ws
    let c := strmUnit k
    let idx := (v.strm k).next
    if !v.windowOk (coreDie c) g (op = 0x18) then v.faultStream k stWindow idx 0#64
    else if g.rows = 0 then (v.started k { idx := idx, words := ws } true).nextHead k
    else
      let keep := match v.rgnFind (coreDie c) g.wbase.toNat g.span with | some r => r.cache | none => false
      let (v1, e) := if op = 0x17 then v.gatherRows k c g keep (List.range g.rows) else v.scatterRows k c idx g (List.range g.rows)
      match e with
      | some (n, e) => v1.gatFail k ws c n e
      | none => (v1.started k { idx := idx, words := ws, srcDone := true, prog := g.rows } false).nextHead k

/-- V_GATHER (R272). -/
def execVGather (c : CoreId) (s : State) : Host.Outcome State Fault Refusal := s.onDev (fun v => v.gatStart (3 * c.val + 1) 0x17)
/-- V_SCATTER (R272). -/
def execVScatter (c : CoreId) (s : State) : Host.Outcome State Fault Refusal := s.onDev (fun v => v.gatStart (3 * c.val + 1) 0x18)

/-! ### Dispatch (R111, R112, R273) -/

/-- The plan of a dispatch: choices routed to each target so far, slot numbers in token and choice order, tokens placed by slot, drops, bad targets. -/
structure DisPlan where
  routed : Tab Nat := []
  slots : List Nat := []
  placed : List (Nat × Nat) := []
  drop : Nat := 0
  oob : Nat := 0
  deriving DecidableEq, Repr

/-- One choice of one token. -/
def DisPlan.choose (p : DisPlan) (cap ntgt tok e : Nat) : DisPlan :=
  if ntgt ≤ e then { p with slots := p.slots ++ [max32], oob := p.oob + 1 }
  else
    let n := tget 0 p.routed e
    let q := { p with routed := tset 0 p.routed e (n + 1) }
    if n < cap then { q with slots := p.slots ++ [e * cap + n], placed := p.placed ++ [(e * cap + n, tok)] }
    else { q with slots := p.slots ++ [max32], drop := p.drop + 1 }

/-- The plan of all tokens. -/
def DisOps.plan (g : DisOps) (k : Core) : DisPlan :=
  forN g.rows {} (fun t p => forN g.k p (fun j q => q.choose g.cap g.ntgt t (k.bitsAt (8 * (g.tgt + 64 * t + 4 * j)) 32)))

/-- Write the slots, the mask plane, the counts and the slot numbers. -/
def DisOps.put (g : DisOps) (p : DisPlan) (k : Core) : Core :=
  let n := g.ntgt * g.cap
  let tok (s : Nat) : Option Nat := (p.placed.find? (fun x => x.1 = s)).map (fun x => x.2)
  let k1 := if g.cols = 0 then k else forN n k (fun s q => q.spadWrite (g.d + s * g.dp)
    (match tok s with | some t => q.spadRead (g.a + t * g.ap) g.cols | none => List.replicate g.cols 0#8))
  let k2 := k1.putBits g.mask 1 ((List.range n).map (fun s => b2n (tok s).isSome))
  let k3 := k2.putBits g.cnt 32 ((List.range g.ntgt).map (fun e => min g.cap (tget 0 p.routed e)))
  forN g.rows k3 (fun t q => q.putBits (g.slot + 64 * t) 32 ((p.slots.drop (t * g.k)).take g.k))

/-- V_DISPATCH starts. -/
def Dev.disStart (v : Dev) (k : Nat) : Dev :=
  match v.startable k 0x19 with
  | none => v
  | some ws =>
    let g := decDis ws
    let c := strmUnit k
    let rds := ((List.range g.rows).map (fun t => [(g.tgt + 64 * t, 4 * g.k), (g.a + t * g.ap, g.cols)])).flatten
    match (v.core c).badIn (rds.filter (fun e => decide (e.2 ≠ 0))) with
    | some a => v.parityFail k ws c false a 0
    | none =>
      let p := g.plan (v.core c)
      let v1 := (v.modCore c (g.put p)).modStrm k (fun s => { s with oob := satAdd s.oob p.oob max32, drop := satAdd s.drop p.drop max32 })
      (v1.started k { idx := (v.strm k).next, words := ws, srcDone := true, prog := g.ntgt * g.cap } (g.rows = 0)).nextHead k
/-- V_DISPATCH (R273). -/
def execVDispatch (c : CoreId) (s : State) : Host.Outcome State Fault Refusal := s.onDev (fun v => v.disStart (3 * c.val + 1))

/-! ### Merges and acquires -/

/-- STAT_MERGE: a channel engine merges one report into a record, whole (R227, R229, R230, R417). -/
def Dev.statMerge (v : Dev) (die rcd : Nat) (st : Stats) : Dev :=
  if !v.recordOk die rcd 64 then v
  else match v.pathAt rcd 64 with
  | some x => v.pathError x (74 + die)
  | none => v.submit (.merge rcd st) (74 + die) none
def execStatMerge (d : DieId) (record : Nat) (st : Stats) (s : State) : Host.Outcome State Fault Refusal := s.onDev (fun v => v.statMerge d.val record st)

/-- Source bytes of row r of a descriptor, in two parts where the row wraps (R376). -/
def dmaRowRanges (o : DmaOps) (r : Nat) : List (Nat × Nat) :=
  let a := (o.srcAt (r * o.len)).toNat
  let b := 2 ^ o.swrap
  if o.swrap = 0 ∨ a % b + o.len ≤ b then [(a, o.len)] else [(a, b - a % b), (a / b * b, o.len - (b - a % b))]
/-- Source ranges of a descriptor: its source bytes, in compatibility mode whole granules, and the seal word (Table 9.9, R390). -/
def dmaSrcRanges (o : DmaOps) : List (Nat × Nat) :=
  if o.total = 0 then []
  else
    let rows := ((List.range o.rows).map (dmaRowRanges o)).flatten
    (if o.compat then rows.map (fun e => (e.1 / 64 * 64, ceilDiv (e.1 + e.2) 64 * 64 - e.1 / 64 * 64)) else rows) ++ (if o.seald then [(o.sealAddr.toNat, 8)] else [])

/-- The acquire ends once none of its write-backs is held (R573). -/
def Dev.endAcquire (v : Dev) (k : Nat) (rs : List (Nat × Nat)) : Dev := v.modStrm k (fun q => { q with acquiring := rs.any (fun r => v.heldIn r.1 r.2) })

/-- ACQUIRE_DONE: the head's acquire writes back and invalidates its source ranges, and the entry may start (R86, R330). -/
def Dev.acquireDone (v : Dev) (k : Nat) : Dev :=
  let s := v.strm k
  match s.headEntry with
  | none => v
  | some e =>
    if s.granted && s.acquiring && strmKind k ≤ 2 then
      let rs := if strmKind k = 2 then dmaSrcRanges (decDma e.words) else acqRanges k e.words
      (v.forAll rs (fun u r => (u.flushInval (strmUnit k) r.1 r.2 none).1)).endAcquire k rs
    else v
def execAcquireDone (k : StreamId) (s : State) : Host.Outcome State Fault Refusal := s.onDev (fun v => v.acquireDone k.val)

end Sys2Proof.Machine
end

