-- ==== Sys2Proof/Machine/Dispatch.lean ====
section
/-! DEFINITION. exec: one arm for each command of the table, each one call of its meaning. -/

namespace Sys2Proof.Machine

/-- The effect of a command on everything but the queue. -/
def exec (i : Instr) (s : State) : Host.Outcome State Fault Refusal :=
  match i with
  | .tick => Sys2Proof.Machine.execTick s
  | .samplePoint => Sys2Proof.Machine.execSamplePoint s
  | .masterCutOff => Sys2Proof.Machine.execMasterCutOff s
  | .epochBoundary => Sys2Proof.Machine.execEpochBoundary s
  | .doldrumsEnd => Sys2Proof.Machine.execDoldrumsEnd s
  | .time m => Sys2Proof.Machine.execTime m s
  | .freqReq m => Sys2Proof.Machine.execFreqReq m s
  | .late m => Sys2Proof.Machine.execLate m s
  | .state m => Sys2Proof.Machine.execState m s
  | .lull m => Sys2Proof.Machine.execLull m s
  | .doldrums m => Sys2Proof.Machine.execDoldrums m s
  | .freeze m => Sys2Proof.Machine.execFreeze m s
  | .thaw m => Sys2Proof.Machine.execThaw m s
  | .masterThaw => Sys2Proof.Machine.execMasterThaw s
  | .frozenMessageTimer => Sys2Proof.Machine.execFrozenMessageTimer s
  | .timeHoldover => Sys2Proof.Machine.execTimeHoldover s
  | .memberAbsent chip => Sys2Proof.Machine.execMemberAbsent chip s
  | .masterTakeover => Sys2Proof.Machine.execMasterTakeover s
  | .fabTimeCfgWrite d v => Sys2Proof.Machine.execFabTimeCfgWrite d v s
  | .streamFetch k => Sys2Proof.Machine.execStreamFetch k s
  | .nop k => Sys2Proof.Machine.execNop k s
  | .mark k => Sys2Proof.Machine.execMark k s
  | .entryRetire k => Sys2Proof.Machine.execEntryRetire k s
  | .sourceFree k => Sys2Proof.Machine.execSourceFree k s
  | .waitStall k => Sys2Proof.Machine.execWaitStall k s
  | .faultCaptureEnd d timed => Sys2Proof.Machine.execFaultCaptureEnd d timed s
  | .mmFwd c => Sys2Proof.Machine.execMmFwd c s
  | .mmRev c => Sys2Proof.Machine.execMmRev c s
  | .mmWgt c => Sys2Proof.Machine.execMmWgt c s
  | .mmDist c => Sys2Proof.Machine.execMmDist c s
  | .vEw c => Sys2Proof.Machine.execVEw c s
  | .vRed c => Sys2Proof.Machine.execVRed c s
  | .vRowexp c => Sys2Proof.Machine.execVRowexp c s
  | .vTopk c => Sys2Proof.Machine.execVTopk c s
  | .vQuant c => Sys2Proof.Machine.execVQuant c s
  | .vStat c => Sys2Proof.Machine.execVStat c s
  | .vScupd c => Sys2Proof.Machine.execVScupd c s
  | .vGather c => Sys2Proof.Machine.execVGather c s
  | .vScatter c => Sys2Proof.Machine.execVScatter c s
  | .vDispatch c => Sys2Proof.Machine.execVDispatch c s
  | .statMerge d record st => Sys2Proof.Machine.execStatMerge d record st s
  | .dmaCopy c => Sys2Proof.Machine.execDmaCopy c s
  | .burstIssue c n => Sys2Proof.Machine.execBurstIssue c n s
  | .burstReturn c n b => Sys2Proof.Machine.execBurstReturn c n b s
  | .sealS0Return c n => Sys2Proof.Machine.execSealS0Return c n s
  | .sealS1Return c n => Sys2Proof.Machine.execSealS1Return c n s
  | .dmaEngClear c v => Sys2Proof.Machine.execDmaEngClear c v s
  | .dmaRestart c n v => Sys2Proof.Machine.execDmaRestart c n v s
  | .dmaDrop c n v => Sys2Proof.Machine.execDmaDrop c n v s
  | .dmaReqWrite c n v => Sys2Proof.Machine.execDmaReqWrite c n v s
  | .counterSignal id => Sys2Proof.Machine.execCounterSignal id s
  | .synCtrWrite d n v => Sys2Proof.Machine.execSynCtrWrite d n v s
  | .counterWindowAccess d off len write => Sys2Proof.Machine.execCounterWindowAccess d off len write s
  | .synBarMaskWrite d u v => Sys2Proof.Machine.execSynBarMaskWrite d u v s
  | .scalarRun c v => Sys2Proof.Machine.execScalarRun c v s
  | .scalarStop c v => Sys2Proof.Machine.execScalarStop c v s
  | .scalarLoad c x rd rs1 imm size uns short => Sys2Proof.Machine.execScalarLoad c x rd rs1 imm size uns short s
  | .scalarStore c x rs2 rs1 imm size short => Sys2Proof.Machine.execScalarStore c x rs2 rs1 imm size short s
  | .scalarAmo c x op rd rs1 rs2 dbl => Sys2Proof.Machine.execScalarAmo c x op rd rs1 rs2 dbl s
  | .csrRead c x rd csr => Sys2Proof.Machine.execCsrRead c x rd csr s
  | .fence c x => Sys2Proof.Machine.execFence c x s
  | .ecall c x word => Sys2Proof.Machine.execEcall c x word s
  | .scalarAccessReturn c x => Sys2Proof.Machine.execScalarAccessReturn c x s
  | .twSig c x rs1 => Sys2Proof.Machine.execTwSig c x rs1 s
  | .twWait c x rs1 rs2 => Sys2Proof.Machine.execTwWait c x rs1 rs2 s
  | .twCtr c x rd rs1 => Sys2Proof.Machine.execTwCtr c x rd rs1 s
  | .twBara c x rd rs1 => Sys2Proof.Machine.execTwBara c x rd rs1 s
  | .twBarw c x rs1 rs2 => Sys2Proof.Machine.execTwBarw c x rs1 rs2 s
  | .twHalt c x => Sys2Proof.Machine.execTwHalt c x s
  | .twFlush c x rs1 rs2 => Sys2Proof.Machine.execTwFlush c x rs1 rs2 s
  | .twInv c x rs1 rs2 => Sys2Proof.Machine.execTwInv c x rs1 rs2 s
  | .rgnAttrWrite d n v => Sys2Proof.Machine.execRgnAttrWrite d n v s
  | .bridgeTransfer d unit bad => Sys2Proof.Machine.execBridgeTransfer d unit bad s
  | .atomicWrite d req a data => Sys2Proof.Machine.execAtomicWrite d req a data s
  | .engineTask ch t => Sys2Proof.Machine.execEngineTask ch t s
  | .seFill k => Sys2Proof.Machine.execSeFill k s
  | .seCopy k => Sys2Proof.Machine.execSeCopy k s
  | .seReduce k => Sys2Proof.Machine.execSeReduce k s
  | .seDigest k => Sys2Proof.Machine.execSeDigest k s
  | .seStat k => Sys2Proof.Machine.execSeStat k s
  | .seScupd k => Sys2Proof.Machine.execSeScupd k s
  | .updAdamw k => Sys2Proof.Machine.execUpdAdamw k s
  | .updLion k => Sys2Proof.Machine.execUpdLion k s
  | .updSgdm k => Sys2Proof.Machine.execUpdSgdm k s
  | .updMicro k => Sys2Proof.Machine.execUpdMicro k s
  | .updRednorm k => Sys2Proof.Machine.execUpdRednorm k s
  | .updWcopy k => Sys2Proof.Machine.execUpdWcopy k s
  | .versionAcq d a data => Sys2Proof.Machine.execVersionAcq d a data s
  | .versionRel d a data => Sys2Proof.Machine.execVersionRel d a data s
  | .refreshWindow d => Sys2Proof.Machine.execRefreshWindow d s
  | .retrainWindow d => Sys2Proof.Machine.execRetrainWindow d s
  | .unscheduledRetrain ch cause => Sys2Proof.Machine.execUnscheduledRetrain ch cause s
  | .retrainEnd ch trained => Sys2Proof.Machine.execRetrainEnd ch trained s
  | .hbmMapCfgWrite v => Sys2Proof.Machine.execHbmMapCfgWrite v s
  | .mapRebuildDone => Sys2Proof.Machine.execMapRebuildDone s
  | .hbmMaintWrite v => Sys2Proof.Machine.execHbmMaintWrite v s
  | .write d port p => Sys2Proof.Machine.execWrite d port p s
  | .read d port p => Sys2Proof.Machine.execRead d port p s
  | .readData d port p => Sys2Proof.Machine.execReadData d port p s
  | .wack d port p => Sys2Proof.Machine.execWack d port p s
  | .error d port p => Sys2Proof.Machine.execError d port p s
  | .chunkData d port p => Sys2Proof.Machine.execChunkData d port p s
  | .chunkDone d port p => Sys2Proof.Machine.execChunkDone d port p s
  | .ackTimeout d q => Sys2Proof.Machine.execAckTimeout d q s
  | .ceSend d => Sys2Proof.Machine.execCeSend d s
  | .ceRecv d => Sys2Proof.Machine.execCeRecv d s
  | .ceTolerated d => Sys2Proof.Machine.execCeTolerated d s
  | .ceNorm d => Sys2Proof.Machine.execCeNorm d s
  | .ceFence d => Sys2Proof.Machine.execCeFence d s
  | .laneFail l lane => Sys2Proof.Machine.execLaneFail l lane s
  | .linkReplay l uncorrected good => Sys2Proof.Machine.execLinkReplay l uncorrected good s
  | .lnkCtlRetrain l v => Sys2Proof.Machine.execLnkCtlRetrain l v s
  | .lnkRxbufWrite l v => Sys2Proof.Machine.execLnkRxbufWrite l v s
  | .landClr d v => Sys2Proof.Machine.execLandClr d v s
  | .gust d => Sys2Proof.Machine.execGust d s
  | .pwrwarn d => Sys2Proof.Machine.execPwrwarn d s
  | .pwrwarnDeassert d => Sys2Proof.Machine.execPwrwarnDeassert d s
  | .pwrwarnHeld => Sys2Proof.Machine.execPwrwarnHeld s
  | .squall vin => Sys2Proof.Machine.execSquall vin s
  | .squallExit => Sys2Proof.Machine.execSquallExit s
  | .chrysalisEntry vin => Sys2Proof.Machine.execChrysalisEntry vin s
  | .powerDip vin => Sys2Proof.Machine.execPowerDip vin s
  | .inputTakesLoad vin => Sys2Proof.Machine.execInputTakesLoad vin s
  | .chrysalisExit vin => Sys2Proof.Machine.execChrysalisExit vin s
  | .issueResume => Sys2Proof.Machine.execIssueResume s
  | .rideThroughLost duration => Sys2Proof.Machine.execRideThroughLost duration s
  | .bankUpdate energy => Sys2Proof.Machine.execBankUpdate energy s
  | .powerSample watts => Sys2Proof.Machine.execPowerSample watts s
  | .fastLimiterExpiry => Sys2Proof.Machine.execFastLimiterExpiry s
  | .capControlInstant projected pin pavg headroom quietWindow => Sys2Proof.Machine.execCapControlInstant projected pin pavg headroom quietWindow s
  | .thermalSample tj0 tj1 ts => Sys2Proof.Machine.execThermalSample tj0 tj1 ts s
  | .energyInterval measured => Sys2Proof.Machine.execEnergyInterval measured s
  | .pwrCapWrite v => Sys2Proof.Machine.execPwrCapWrite v s
  | .pwrCfgWrite v => Sys2Proof.Machine.execPwrCfgWrite v s
  | .pwrEnergyClear v => Sys2Proof.Machine.execPwrEnergyClear v s
  | .release d v => Sys2Proof.Machine.execRelease d v s
  | .coreTested c result => Sys2Proof.Machine.execCoreTested c result s
  | .moultPoint => Sys2Proof.Machine.execMoultPoint s
  | .pageStaged p => Sys2Proof.Machine.execPageStaged p s
  | .tUpdate => Sys2Proof.Machine.execTUpdate s
  | .saveDrainExpiry d => Sys2Proof.Machine.execSaveDrainExpiry d s
  | .doorbell d ring off len v => Sys2Proof.Machine.execDoorbell d ring off len v s
  | .workNop d ring => Sys2Proof.Machine.execWorkNop d ring s
  | .load d ring => Sys2Proof.Machine.execLoad d ring s
  | .start d ring => Sys2Proof.Machine.execStart d ring s
  | .resume d ring => Sys2Proof.Machine.execResume d ring s
  | .abort d ring => Sys2Proof.Machine.execAbort d ring s
  | .unload d ring => Sys2Proof.Machine.execUnload d ring s
  | .copy d ring => Sys2Proof.Machine.execCopy d ring s
  | .moult d ring => Sys2Proof.Machine.execMoult d ring s
  | .moultAbort d ring => Sys2Proof.Machine.execMoultAbort d ring s
  | .restore d ring => Sys2Proof.Machine.execRestore d ring s
  | .save d ring => Sys2Proof.Machine.execSave d ring s
  | .restoreCtx d ring => Sys2Proof.Machine.execRestoreCtx d ring s
  | .ringError d ring addr => Sys2Proof.Machine.execRingError d ring addr s
  | .hifRingCfgWrite d n v => Sys2Proof.Machine.execHifRingCfgWrite d n v s
  | .hifMmioWrite d n v => Sys2Proof.Machine.execHifMmioWrite d n v s
  | .bar4Access d off len wr => Sys2Proof.Machine.execBar4Access d off len wr s
  | .strmMarkClr k v => Sys2Proof.Machine.execStrmMarkClr k v s
  | .clrCount c v => Sys2Proof.Machine.execClrCount c v s
  | .registerWrite d off len v => Sys2Proof.Machine.execRegisterWrite d off len v s
  | .functionReset d => Sys2Proof.Machine.execFunctionReset d s
  | .getIdent b => Sys2Proof.Machine.execGetIdent b s
  | .getPubkey b => Sys2Proof.Machine.execGetPubkey b s
  | .attest b nonce recordOk => Sys2Proof.Machine.execAttest b nonce recordOk s
  | .getLog b first count => Sys2Proof.Machine.execGetLog b first count s
  | .setRackCap b v => Sys2Proof.Machine.execSetRackCap b v s
  | .setStartOverride b v => Sys2Proof.Machine.execSetStartOverride b v s
  | .setChip b v => Sys2Proof.Machine.execSetChip b v s
  | .retireChannel b ch => Sys2Proof.Machine.execRetireChannel b ch s
  | .moduleReset b => Sys2Proof.Machine.execModuleReset b s
  | .mgmtReset b slot => Sys2Proof.Machine.execMgmtReset b slot s
  | .commitSvn b => Sys2Proof.Machine.execCommitSvn b s
  | .firmwareUpdate b img => Sys2Proof.Machine.execFirmwareUpdate b img s
  | .sensorRead b id => Sys2Proof.Machine.execSensorRead b id s
  | .sensorUpdate => Sys2Proof.Machine.execSensorUpdate s
  | .treeBuildDone => Sys2Proof.Machine.execTreeBuildDone s
  | .auxUp slot => Sys2Proof.Machine.execAuxUp slot s
  | .auxLoss => Sys2Proof.Machine.execAuxLoss s
  | .vinApplied vin => Sys2Proof.Machine.execVinApplied vin s
  | .inputQualified vin => Sys2Proof.Machine.execInputQualified vin s
  | .bankCharge => Sys2Proof.Machine.execBankCharge s
  | .fuseLoad ok => Sys2Proof.Machine.execFuseLoad ok s
  | .sramClear => Sys2Proof.Machine.execSramClear s
  | .stackTraining found => Sys2Proof.Machine.execStackTraining found s
  | .linkTraining lanes stamps => Sys2Proof.Machine.execLinkTraining lanes stamps s
  | .timeLockTimeout => Sys2Proof.Machine.execTimeLockTimeout s
  | .hostDiscovery ok => Sys2Proof.Machine.execHostDiscovery ok s
  | .startupSupplyLoss vin => Sys2Proof.Machine.execStartupSupplyLoss vin s
  | .coldReset => Sys2Proof.Machine.execColdReset s
  | .resetN => Sys2Proof.Machine.execResetN s
  | .resetNHeld slot => Sys2Proof.Machine.execResetNHeld slot s
  | .acquireDone k => Sys2Proof.Machine.execAcquireDone k s
  | .flushDone c x => Sys2Proof.Machine.execFlushDone c x s
  | .refreshDue ch => Sys2Proof.Machine.execRefreshDue ch s
  | .thermalCut125c => Sys2Proof.Machine.execThermalCut125c s
  | .linkRetrainDone l lanes stamps => Sys2Proof.Machine.execLinkRetrainDone l lanes stamps s
  | .restorePageDone p => Sys2Proof.Machine.execRestorePageDone p s
  | .saveCopyDone d => Sys2Proof.Machine.execSaveCopyDone d s
  | .restoreCtxCopyDone d => Sys2Proof.Machine.execRestoreCtxCopyDone d s
  | .resetNRelease => Sys2Proof.Machine.execResetNRelease s

end Sys2Proof.Machine
end

