-- ==== Sys2Proof/Safety.lean ====
section
/-! DEFINITION. The parts a device is made of, what it means that only some of them may have changed, and the canonical form of every
memory of the device: the terms in which frames and invariants are stated. -/

namespace Sys2Proof.Machine

/-- A part of the device, for the frames. -/
inductive Part where
  | time | timeRegs | master | schedules | streams
  /-- Of every core: scratchpad; accumulator; array tile; caches; random generators; scalar contexts; DMA engine; the other registers. -/
  | spads | accs | tiles | caches | coreGens | contexts | dmas | coreRegs
  | counters | barriers | syncStatus | regions | regionStatus
  /-- Of the stacks: their bytes; channels; stack registers; map and maintenance registers. -/
  | stackMem | channels | stackRegs | map
  | hostMem | hostErr
  /-- The Moult and the restore; the writes held, and the pages they ask for. -/
  | moult | heldWrites
  | faults | contextSwitch | chip | fabric | links | power | hif | free | out
  deriving DecidableEq, Repr

/-- A part of a core reads the same in both. -/
def Core.same (p : Part) (a b : Core) : Prop :=
  match p with
  | .spads => b.spad = a.spad ∧ b.spadBad = a.spadBad
  | .accs => b.acc = a.acc ∧ b.accBad = a.accBad
  | .tiles => b.tile = a.tile
  | .caches => b.l1 = a.l1 ∧ b.l2 = a.l2
  | .coreGens => b.rngMode = a.rngMode ∧ b.rngFree = a.rngFree ∧ b.seeded = a.seeded ∧ b.rngSeed = a.rngSeed ∧ b.gens = a.gens
  | .contexts => b.ctxs = a.ctxs
  | .dmas => b.dma = a.dma
  | .coreRegs => b.retired = a.retired ∧ b.marked = a.marked ∧ b.softRepair = a.softRepair ∧ b.accOverlap = a.accOverlap ∧
      b.colParity = a.colParity ∧ b.lastCol = a.lastCol ∧ b.recBase = a.recBase ∧ b.sclCode = a.sclCode ∧ b.spadParity = a.spadParity ∧
      b.accParity = a.accParity ∧ b.l1Lost = a.l1Lost ∧ b.corr = a.corr ∧ b.corrCount = a.corrCount ∧ b.errAcc = a.errAcc ∧
      b.errAddr = a.errAddr ∧ b.banks = a.banks ∧ b.colBad = a.colBad ∧ b.testDue = a.testDue
  | _ => True

/-- A part of the stacks reads the same in both. -/
def Hbm.same (p : Part) (a b : Hbm) : Prop :=
  match p with
  | .stackMem => b.mem = a.mem ∧ b.stkBad = a.stkBad ∧ b.stkSoft = a.stkSoft
  | .channels => b.chans = a.chans
  | .stackRegs => b.stackRegs = a.stackRegs
  | .map => b.mode = a.mode ∧ b.busy = a.busy ∧ b.refused = a.refused ∧ b.belowGuarantee = a.belowGuarantee ∧ b.retired = a.retired ∧
      b.maint = a.maint ∧ b.maintWritten = a.maintWritten ∧ b.waiting = a.waiting
  | _ => True

/-- A part of the device reads the same in both. -/
def Dev.same (p : Part) (v w : Dev) : Prop :=
  match p with
  | .time => w.ft = v.ft
  | .timeRegs => w.ftRegs = v.ftRegs
  | .master => w.mst = v.mst
  | .schedules => w.scheds = v.scheds
  | .streams => w.strms = v.strms
  | .spads | .accs | .tiles | .caches | .coreGens | .contexts | .dmas | .coreRegs => ∀ c, Core.same p (v.core c) (w.core c)
  | .counters => w.ctrs = v.ctrs
  | .barriers => w.bars = v.bars
  | .syncStatus => w.syn = v.syn
  | .regions => w.rgn = v.rgn
  | .regionStatus => w.rgnStat = v.rgnStat
  | .stackMem | .channels | .stackRegs | .map => Hbm.same p v.hbm w.hbm
  | .hostMem => w.hostMem = v.hostMem
  | .hostErr => w.hostErr = v.hostErr
  | .moult => { w.moult with held := [], urgent := [] } = { v.moult with held := [], urgent := [] }
  | .heldWrites => (w.moult.held, w.moult.urgent) = (v.moult.held, v.moult.urgent)
  | .faults => w.fault = v.fault
  | .contextSwitch => w.ctxSw = v.ctxSw
  | .chip => w.chip = v.chip
  | .fabric => w.fab = v.fab
  | .links => w.links = v.links
  | .power => w.pwr = v.pwr
  | .hif => w.hif = v.hif
  | .free => w.freeCtr = v.freeCtr
  | .out => w.out = v.out

/-- Every memory of the device is in its canonical form: stacks, host memory, every scratchpad. -/
def Dev.memWf (v : Dev) : Prop :=
  Memory.wf v.hbm.mem = true ∧ Memory.wf v.hostMem = true ∧ ∀ c, Memory.wf (v.core c).spad = true

/-- From v to w at most the parts of F have changed, and the memories have stayed canonical. -/
def Dev.Within (F : List Part) (v w : Dev) : Prop := (∀ p, p ∉ F → Dev.same p v w) ∧ (v.memWf → w.memWf)

/-- No update entry is held for its version record (R464). -/
def Dev.noneHeld (v : Dev) : Prop := ∀ k, ∀ f ∈ (v.strm k).flights, f.wait ≠ .version

/-- No attestation index has been released twice, NEXT lies above every released one, and the active sector holds a good record above it
(R632 to R634). -/
def Mgmt.keysFresh (m : Mgmt) : Prop :=
  m.released.Nodup ∧ ∀ n ∈ m.released, n < m.attNext ∧ ∃ r ∈ (if m.attOnB then m.attB else m.attA), r.valid = true ∧ n < r.next

end Sys2Proof.Machine
end

