-- ==== Sys2Proof/Machine/Parts.lean ====
section
/-! DEFINITION. The parts of the device each command may change, and the commands that reach Forzoevo: what its frame is stated over. -/

namespace Sys2Proof

/-- The parts of the device a command may change, whatever its operands and the state. Where a step of a command grants a head or posts
an event, faults a stream or signals a counter, those parts are in its list too. -/
def Instr.parts (c : Instr) : List Machine.Part :=
  match c with
  | .mmFwd _ | .mmRev _ | .mmWgt _ | .mmDist _ =>
    [.schedules, .streams, .spads, .accs, .tiles, .caches, .contexts, .dmas, .coreRegs, .counters, .syncStatus, .stackMem, .channels,
     .stackRegs, .hostMem, .heldWrites, .faults, .contextSwitch, .fabric, .hif, .out]
  | .updRednorm _ | .sealS0Return _ _ | .dmaCopy _ | .ceRecv _ | .ceTolerated _ | .ceNorm _ | .ceFence _ | .seFill _ | .seCopy _ |
  .seReduce _ | .seDigest _ | .seStat _ | .seScupd _ | .resume _ _ | .abort _ _ | .copy _ _ | .bridgeTransfer _ _ _ | .streamFetch _ |
  .nop _ | .mark _ | .entryRetire _ | .waitStall _ | .vScupd _ | .vDispatch _ =>
    [.schedules, .streams, .spads, .caches, .contexts, .dmas, .coreRegs, .counters, .syncStatus, .stackMem, .channels, .stackRegs,
     .hostMem, .heldWrites, .faults, .contextSwitch, .fabric, .hif, .out]
  | .updAdamw _ | .updLion _ | .updSgdm _ | .updMicro _ | .updWcopy _ | .versionAcq _ _ _ | .versionRel _ _ _ | .burstIssue _ _ |
  .burstReturn _ _ _ | .sealS1Return _ _ | .dmaEngClear _ _ | .dmaRestart _ _ _ | .dmaDrop _ _ _ | .scalarAccessReturn _ _ |
  .readData _ _ _ | .wack _ _ _ | .error _ _ _ | .ackTimeout _ _ | .engineTask _ _ | .vGather _ | .vScatter _ =>
    [.schedules, .streams, .spads, .caches, .contexts, .dmas, .coreRegs, .counters, .syncStatus, .stackMem, .channels, .stackRegs,
     .hostMem, .heldWrites, .faults, .contextSwitch, .fabric, .hif, .free, .out]
  | .dmaReqWrite _ _ _ =>
    [.dmas]
  | .counterSignal _ | .synCtrWrite _ _ _ =>
    [.streams, .contexts, .counters, .syncStatus, .hostMem, .hif, .out]
  | .counterWindowAccess _ _ _ _ =>
    [.counters, .syncStatus, .hostMem, .hif, .out]
  | .synBarMaskWrite _ _ _ =>
    [.barriers]
  | .scalarRun _ _ | .scalarStop _ _ =>
    [.caches, .contexts]
  | .scalarLoad _ _ _ _ _ _ _ _ =>
    [.caches, .contexts, .coreRegs, .syncStatus, .stackMem, .channels, .hostMem, .fabric, .hif, .free, .out]
  | .scalarStore _ _ _ _ _ _ _ | .scalarAmo _ _ _ _ _ _ _ =>
    [.spads, .caches, .contexts, .coreRegs, .counters, .syncStatus, .stackMem, .channels, .stackRegs, .hostMem, .heldWrites,
     .contextSwitch, .fabric, .hif, .free, .out]
  | .csrRead _ _ _ _ | .fence _ _ | .twCtr _ _ _ _ | .twBarw _ _ _ _ | .twHalt _ _ =>
    [.caches, .contexts, .coreRegs, .syncStatus, .stackMem, .channels, .hostMem, .hif, .free, .out]
  | .twSig _ _ _ =>
    [.caches, .contexts, .coreRegs, .counters, .syncStatus, .stackMem, .channels, .hostMem, .hif, .free, .out]
  | .twWait _ _ _ _ =>
    [.streams, .caches, .contexts, .coreRegs, .counters, .syncStatus, .stackMem, .channels, .hostMem, .hif, .free, .out]
  | .twBara _ _ _ _ =>
    [.caches, .contexts, .coreRegs, .counters, .barriers, .syncStatus, .stackMem, .channels, .hostMem, .hif, .free, .out]
  | .twFlush _ _ _ _ | .twInv _ _ _ _ =>
    [.spads, .caches, .contexts, .coreRegs, .counters, .syncStatus, .stackMem, .channels, .stackRegs, .hostMem, .heldWrites,
     .contextSwitch, .hif, .free, .out]
  | .flushDone _ _ =>
    [.contexts]
  | .clrCount _ _ =>
    [.coreRegs]
  | .write _ _ _ | .chunkData _ _ _ | .ceSend _ =>
    [.schedules, .streams, .spads, .caches, .contexts, .dmas, .coreRegs, .counters, .syncStatus, .stackMem, .channels, .stackRegs,
     .hostMem, .heldWrites, .faults, .contextSwitch, .fabric, .links, .hif, .free, .out]
  | .read _ _ _ =>
    [.coreRegs, .syncStatus, .stackMem, .channels, .map, .hostMem, .fabric, .hif, .out]
  | .chunkDone _ _ _ =>
    [.hostMem, .fabric, .hif, .out]
  | .laneFail _ _ | .linkReplay _ _ _ | .linkRetrainDone _ _ _ =>
    [.hostMem, .fabric, .links, .hif, .out]
  | .lnkCtlRetrain _ _ =>
    [.fabric, .links]
  | .lnkRxbufWrite _ _ =>
    [.links]
  | .landClr _ _ =>
    [.fabric]
  | .atomicWrite _ _ _ _ =>
    [.spads, .counters, .syncStatus, .stackMem, .channels, .stackRegs, .hostMem, .heldWrites, .contextSwitch, .hif, .out]
  | .refreshWindow _ | .refreshDue _ | .retrainWindow _ =>
    [.channels]
  | .unscheduledRetrain _ _ =>
    [.channels, .hostMem, .hif, .out]
  | .retrainEnd _ _ =>
    [.channels, .stackRegs]
  | .hbmMapCfgWrite _ =>
    [.stackMem, .map]
  | .hbmMaintWrite _ =>
    [.map]
  | .tick =>
    [.time, .schedules, .streams, .contexts, .dmas, .counters, .syncStatus, .hostMem, .hif, .out]
  | .samplePoint | .frozenMessageTimer =>
    [.time, .master, .out]
  | .masterCutOff | .masterTakeover =>
    [.time, .master, .hostMem, .hif, .out]
  | .epochBoundary =>
    [.time, .schedules, .streams, .contexts, .counters, .syncStatus, .map, .hostMem, .hif, .out]
  | .doldrumsEnd =>
    [.time, .schedules, .streams, .contexts, .counters, .syncStatus, .hostMem, .hif, .out]
  | .time _ =>
    [.time, .timeRegs, .master, .schedules, .streams, .contexts, .counters, .syncStatus, .map, .hostMem, .hif, .out]
  | .freqReq _ | .late _ =>
    [.timeRegs, .master]
  | .state _ =>
    [.time, .timeRegs, .master, .out]
  | .lull _ | .doldrums _ | .freeze _ =>
    [.time, .timeRegs]
  | .thaw _ =>
    [.time, .timeRegs, .schedules, .streams, .contexts, .counters, .syncStatus, .map, .hostMem, .hif, .out]
  | .masterThaw =>
    [.time, .master, .schedules, .streams, .contexts, .counters, .syncStatus, .map, .hostMem, .hif, .out]
  | .timeHoldover =>
    [.time, .hostMem, .hif, .out]
  | .memberAbsent _ =>
    [.master]
  | .fabTimeCfgWrite _ _ =>
    [.time, .timeRegs, .master, .hostMem, .hif, .out]
  | .gust _ | .pwrwarnDeassert _ | .inputTakesLoad _ | .powerSample _ | .fastLimiterExpiry | .pwrCapWrite _ | .pwrCfgWrite _ |
  .pwrEnergyClear _ | .vinApplied _ =>
    [.power]
  | .pwrwarn _ =>
    [.hostMem, .power, .hif, .out]
  | .squall _ | .pwrwarnHeld | .squallExit =>
    [.time, .master, .hostMem, .power, .hif, .out]
  | .chrysalisEntry _ =>
    [.time, .master, .counters, .syncStatus, .stackRegs, .hostMem, .power, .hif, .out]
  | .powerDip _ | .bankUpdate _ =>
    [.hostMem, .power, .hif, .out]
  | .chrysalisExit _ =>
    [.channels, .stackRegs, .power]
  | .issueResume =>
    [.time, .master, .schedules, .streams, .spads, .caches, .contexts, .dmas, .coreRegs, .counters, .syncStatus, .stackMem, .channels,
     .stackRegs, .hostMem, .heldWrites, .faults, .contextSwitch, .fabric, .power, .hif, .free, .out]
  | .capControlInstant _ _ _ _ _ =>
    [.time, .master, .hostMem, .power, .hif, .out]
  | .energyInterval _ =>
    [.power, .free]
  | .workNop _ _ | .ringError _ _ _ | .doorbell _ _ _ _ _ | .hifRingCfgWrite _ _ _ | .hifMmioWrite _ _ _ =>
    [.hostMem, .hif, .out]
  | .load _ _ =>
    [.schedules, .streams, .tiles, .coreRegs, .syncStatus, .stackMem, .channels, .hostMem, .contextSwitch, .hif, .out]
  | .start _ _ =>
    [.schedules, .streams, .spads, .tiles, .caches, .coreGens, .contexts, .dmas, .coreRegs, .counters, .syncStatus, .stackMem, .channels,
     .stackRegs, .hostMem, .heldWrites, .faults, .contextSwitch, .fabric, .hif, .out]
  | .unload _ _ =>
    [.schedules, .streams, .hostMem, .contextSwitch, .hif, .out]
  | .save _ _ =>
    [.streams, .spads, .caches, .contexts, .dmas, .coreRegs, .counters, .syncStatus, .stackMem, .channels, .stackRegs, .hostMem,
     .heldWrites, .contextSwitch, .fabric, .hif, .out]
  | .saveDrainExpiry _ =>
    [.streams, .dmas, .hostMem, .faults, .contextSwitch, .hif, .out]
  | .saveCopyDone _ =>
    [.schedules, .streams, .spads, .caches, .contexts, .dmas, .coreRegs, .counters, .syncStatus, .stackMem, .channels, .stackRegs,
     .hostMem, .heldWrites, .contextSwitch, .fabric, .hif, .free, .out]
  | .restoreCtx _ _ =>
    [.schedules, .streams, .contexts, .counters, .syncStatus, .hostMem, .contextSwitch, .hif, .out]
  | .restoreCtxCopyDone _ =>
    [.schedules, .streams, .spads, .accs, .tiles, .caches, .coreGens, .contexts, .dmas, .coreRegs, .counters, .syncStatus, .stackMem,
     .channels, .stackRegs, .hostMem, .heldWrites, .faults, .contextSwitch, .fabric, .hif, .out]
  | .release _ _ | .faultCaptureEnd _ _ =>
    [.schedules, .streams, .dmas, .stackMem, .channels, .stackRegs, .hostMem, .heldWrites, .faults, .hif, .out]
  | .coreTested _ _ =>
    [.schedules, .spads, .contexts, .coreRegs, .counters, .barriers, .syncStatus, .hostMem, .contextSwitch, .hif, .free, .out]
  | .thermalSample _ _ _ | .rideThroughLost _ | .resetN | .retireChannel _ _ | .moduleReset _ =>
    [.time, .timeRegs, .master, .schedules, .streams, .spads, .accs, .tiles, .caches, .coreGens, .contexts, .dmas, .coreRegs, .counters,
     .barriers, .syncStatus, .regions, .regionStatus, .stackMem, .channels, .stackRegs, .map, .hostMem, .moult, .heldWrites, .faults,
     .contextSwitch, .chip, .fabric, .links, .power, .hif, .free, .out]
  | .auxUp _ | .resetNHeld _ =>
    [.free]
  | .auxLoss | .timeLockTimeout | .resetNRelease | .sensorUpdate | .treeBuildDone =>
    []
  | .inputQualified _ | .bankCharge =>
    [.power]
  | .fuseLoad _ =>
    [.time, .master, .coreRegs, .channels, .hostMem, .chip, .fabric, .power, .hif, .free, .out]
  | .sramClear =>
    [.streams, .spads, .accs, .caches, .counters, .faults]
  | .stackTraining _ =>
    [.stackMem, .channels, .stackRegs, .map, .hostMem, .hif, .free, .out]
  | .linkTraining _ _ =>
    [.hostMem, .links, .hif, .out]
  | .hostDiscovery _ =>
    [.time, .master, .hostMem, .power, .hif, .free, .out]
  | .startupSupplyLoss _ | .coldReset | .thermalCut125c =>
    [.time, .timeRegs, .master, .schedules, .streams, .spads, .accs, .tiles, .caches, .coreGens, .contexts, .dmas, .coreRegs, .counters,
     .barriers, .syncStatus, .regions, .regionStatus, .stackMem, .channels, .stackRegs, .map, .hostMem, .moult, .heldWrites, .faults,
     .contextSwitch, .chip, .fabric, .links, .power, .hif, .out]
  | .getIdent _ | .getPubkey _ | .getLog _ _ _ | .setStartOverride _ _ | .sensorRead _ _ =>
    [.out]
  | .setRackCap _ _ =>
    [.power, .out]
  | .setChip _ _ =>
    [.time, .master, .hostMem, .chip, .fabric, .hif, .free, .out]
  | .mgmtReset _ _ | .commitSvn _ | .firmwareUpdate _ _ | .attest _ _ _ =>
    [.free, .out]
  | .tUpdate | .moultPoint | .moult _ _ | .moultAbort _ _ | .pageStaged _ =>
    [.schedules, .streams, .spads, .caches, .contexts, .dmas, .coreRegs, .counters, .syncStatus, .stackMem, .channels, .stackRegs,
     .hostMem, .moult, .heldWrites, .faults, .contextSwitch, .fabric, .links, .hif, .free, .out]
  | .restore _ _ =>
    [.hostMem, .moult, .heldWrites, .hif, .out]
  | .restorePageDone _ =>
    [.stackMem, .channels, .hostMem, .moult, .heldWrites, .hif, .out]
  | .bar4Access _ _ _ _ =>
    [.schedules, .streams, .spads, .caches, .contexts, .dmas, .coreRegs, .counters, .syncStatus, .stackMem, .channels, .stackRegs, .map,
     .hostMem, .heldWrites, .faults, .contextSwitch, .fabric, .hif, .free, .out]
  | .mapRebuildDone =>
    [.schedules, .streams, .spads, .caches, .contexts, .dmas, .coreRegs, .counters, .syncStatus, .stackMem, .channels, .stackRegs, .map,
     .hostMem, .heldWrites, .faults, .contextSwitch, .fabric, .links, .hif, .free, .out]
  | .functionReset _ =>
    [.schedules, .streams, .spads, .accs, .tiles, .caches, .coreGens, .contexts, .dmas, .coreRegs, .counters, .syncStatus, .regions,
     .regionStatus, .stackMem, .channels, .stackRegs, .hostMem, .moult, .heldWrites, .faults, .contextSwitch, .fabric, .links, .hif,
     .free, .out]
  | .ecall _ _ _ =>
    [.streams, .spads, .caches, .contexts, .coreRegs, .counters, .barriers, .syncStatus, .stackMem, .channels, .stackRegs, .hostMem,
     .heldWrites, .contextSwitch, .fabric, .hif, .free, .out]
  | .rgnAttrWrite _ _ _ =>
    [.regions, .regionStatus, .moult, .heldWrites]
  | .strmMarkClr _ _ =>
    [.streams]
  | .registerWrite _ _ _ _ =>
    [.time, .timeRegs, .master, .schedules, .streams, .spads, .caches, .coreGens, .contexts, .dmas, .coreRegs, .counters, .barriers,
     .syncStatus, .regions, .regionStatus, .stackMem, .channels, .stackRegs, .map, .hostMem, .moult, .heldWrites, .faults,
     .contextSwitch, .fabric, .links, .power, .hif, .free, .out]
  | .sourceFree _ =>
    [.streams, .counters]
  | .vEw _ | .vRed _ | .vRowexp _ | .vTopk _ | .vQuant _ | .vStat _ =>
    [.schedules, .streams, .spads, .accs, .caches, .coreGens, .contexts, .dmas, .coreRegs, .counters, .syncStatus, .stackMem, .channels,
     .stackRegs, .hostMem, .heldWrites, .faults, .contextSwitch, .fabric, .hif, .free, .out]
  | .statMerge _ _ _ =>
    [.stackMem, .channels, .stackRegs, .hostMem, .heldWrites, .hif, .out]
  | .acquireDone _ =>
    [.streams, .spads, .caches, .contexts, .coreRegs, .counters, .syncStatus, .stackMem, .channels, .stackRegs, .hostMem, .heldWrites,
     .contextSwitch, .hif, .out]

/-- Commands that may change what Forzoevo holds: management requests, start-up and reset, and the events it records or acts on. -/
def Instr.reachesMgmt (c : Instr) : Bool :=
  match c with
  | .unscheduledRetrain _ _ | .pwrwarn _ | .issueResume | .capControlInstant _ _ _ _ _ | .coreTested _ _ | .thermalSample _ _ _ |
  .rideThroughLost _ | .resetN | .retireChannel _ _ | .moduleReset _ | .auxUp _ | .resetNHeld _ | .auxLoss | .timeLockTimeout |
  .resetNRelease | .sensorUpdate | .treeBuildDone | .inputQualified _ | .bankCharge | .fuseLoad _ | .sramClear | .stackTraining _ |
  .linkTraining _ _ | .hostDiscovery _ | .startupSupplyLoss _ | .coldReset | .thermalCut125c | .getIdent _ | .getPubkey _ |
  .getLog _ _ _ | .setStartOverride _ _ | .sensorRead _ _ | .setRackCap _ _ | .setChip _ _ | .mgmtReset _ _ | .commitSvn _ |
  .firmwareUpdate _ _ | .attest _ _ _ => true
  | .tick | .samplePoint | .masterCutOff | .epochBoundary | .doldrumsEnd | .time _ | .freqReq _ | .late _ | .state _ | .lull _ |
  .doldrums _ | .freeze _ | .thaw _ | .masterThaw | .frozenMessageTimer | .timeHoldover | .memberAbsent _ | .masterTakeover |
  .fabTimeCfgWrite _ _ | .streamFetch _ | .nop _ | .mark _ | .entryRetire _ | .sourceFree _ | .waitStall _ | .faultCaptureEnd _ _ |
  .mmFwd _ | .mmRev _ | .mmWgt _ | .mmDist _ | .vEw _ | .vRed _ | .vRowexp _ | .vTopk _ | .vQuant _ | .vStat _ | .vScupd _ |
  .vGather _ | .vScatter _ | .vDispatch _ | .statMerge _ _ _ | .dmaCopy _ | .burstIssue _ _ | .burstReturn _ _ _ | .sealS0Return _ _ |
  .sealS1Return _ _ | .dmaEngClear _ _ | .dmaRestart _ _ _ | .dmaDrop _ _ _ | .dmaReqWrite _ _ _ | .counterSignal _ |
  .synCtrWrite _ _ _ | .counterWindowAccess _ _ _ _ | .synBarMaskWrite _ _ _ | .scalarRun _ _ | .scalarStop _ _ |
  .scalarLoad _ _ _ _ _ _ _ _ | .scalarStore _ _ _ _ _ _ _ | .scalarAmo _ _ _ _ _ _ _ | .csrRead _ _ _ _ | .fence _ _ | .ecall _ _ _ |
  .scalarAccessReturn _ _ | .twSig _ _ _ | .twWait _ _ _ _ | .twCtr _ _ _ _ | .twBara _ _ _ _ | .twBarw _ _ _ _ | .twHalt _ _ |
  .twFlush _ _ _ _ | .twInv _ _ _ _ | .rgnAttrWrite _ _ _ | .bridgeTransfer _ _ _ | .atomicWrite _ _ _ _ | .engineTask _ _ |
  .seFill _ | .seCopy _ | .seReduce _ | .seDigest _ | .seStat _ | .seScupd _ | .updAdamw _ | .updLion _ | .updSgdm _ | .updMicro _ |
  .updRednorm _ | .updWcopy _ | .versionAcq _ _ _ | .versionRel _ _ _ | .refreshWindow _ | .retrainWindow _ | .retrainEnd _ _ |
  .hbmMapCfgWrite _ | .mapRebuildDone | .hbmMaintWrite _ | .write _ _ _ | .read _ _ _ | .readData _ _ _ | .wack _ _ _ | .error _ _ _ |
  .chunkData _ _ _ | .chunkDone _ _ _ | .ackTimeout _ _ | .ceSend _ | .ceRecv _ | .ceTolerated _ | .ceNorm _ | .ceFence _ |
  .laneFail _ _ | .linkReplay _ _ _ | .lnkCtlRetrain _ _ | .lnkRxbufWrite _ _ | .landClr _ _ | .gust _ | .pwrwarnDeassert _ |
  .pwrwarnHeld | .squall _ | .squallExit | .chrysalisEntry _ | .powerDip _ | .inputTakesLoad _ | .chrysalisExit _ | .bankUpdate _ |
  .powerSample _ | .fastLimiterExpiry | .energyInterval _ | .pwrCapWrite _ | .pwrCfgWrite _ | .pwrEnergyClear _ | .release _ _ |
  .moultPoint | .pageStaged _ | .tUpdate | .saveDrainExpiry _ | .doorbell _ _ _ _ _ | .workNop _ _ | .load _ _ | .start _ _ |
  .resume _ _ | .abort _ _ | .unload _ _ | .copy _ _ | .moult _ _ | .moultAbort _ _ | .restore _ _ | .save _ _ | .restoreCtx _ _ |
  .ringError _ _ _ | .hifRingCfgWrite _ _ _ | .hifMmioWrite _ _ _ | .bar4Access _ _ _ _ | .strmMarkClr _ _ | .clrCount _ _ |
  .registerWrite _ _ _ _ | .functionReset _ | .vinApplied _ | .acquireDone _ | .flushDone _ _ | .refreshDue _ |
  .linkRetrainDone _ _ _ | .restorePageDone _ | .saveCopyDone _ | .restoreCtxCopyDone _ => false

end Sys2Proof
end

