-- ==== Sys2Proof/Certificates/Slice0/Obligations.lean ====
section
/-! DEFINITION. The statements for the provers. Each docstring says which rule of the spec it formalises. -/

open Sys2Proof Sys2Proof.Machine

/-! ### The block and its queue -/

/-- A step takes the front command of the queue; on an empty queue it changes nothing, the model's choice of log entry 12. -/
def Obligations.StepRunsFrontCommand : Prop :=
  (∀ (c : Instr) (rest : List Instr) (s : State), step { s with pending := c :: rest } = exec c { s with pending := rest }) ∧
  ∀ s : State, s.pending = [] → step s = .next s

/-- No command of the table faults or is refused, and none touches the queue. -/
def Obligations.EveryCommandAnswers : Prop :=
  ∀ (c : Instr) (s : State), ∃ t : State, exec c s = .next t ∧ t.pending = s.pending

/-- The memories stay in their canonical form, so equal contents stay equal data. -/
def Obligations.MemoriesStayCanonical : Prop :=
  ∀ s t : State, s.dev.memWf → step s = .next t → t.dev.memWf

/-- The machine right after reset; the invariants of MemoriesStayCanonical and AttestationIndexReleasedOnce hold there. -/
def Obligations.ResetState : Prop :=
  let v := State.reset.dev
  State.reset.pending = [] ∧ v.memWf ∧ State.reset.mgmt.keysFresh ∧ (∀ a, mget v.hbm.mem a = 0#8) ∧ (∀ c a, mget (v.core c).spad a = 0#8) ∧
    v.pwr.starting = true ∧ v.pwr.rails = false ∧ v.ft.locked = false ∧ (∀ id, (v.sched id).phase = .none) ∧ (∀ d n, (v.ring d n).en = false) ∧
    (∀ id, (v.ctr id).value = 0 ∧ (v.ctr id).kind = 0) ∧ (∀ d, (v.ftReg d).cfg = 0x14001010#32) ∧ v.hbm.maint = 0x500020014#64 ∧ v.pwr.cfg = 0x91E#32 ∧
    v.pwr.hostCap = 56 ∧ v.pwr.rackCap = 56 ∧ v.pwr.win = 3 ∧ (∀ c, (v.core c).dma.ringChans = 0xC000) ∧ (∀ k, (v.stk k).engWeight = 4) ∧
    v.moult.rate = 32 ∧ (∀ d, (v.ctxSwD d).drain = 10) ∧ (∀ d, (v.fabD d).ackTimeout = 10) ∧ ∀ l, (v.linkN l).rxSize = 12 ∧ (v.linkN l).rxBlk = 12

/-- The frame of every command, part by part. -/
def Obligations.CommandsChangeOnlyTheirParts : Prop :=
  ∀ (c : Instr) (s t : State), exec c s = .next t → ∀ p : Part, p ∉ c.parts → Dev.same p s.dev t.dev

/-- The data plane cannot change Forzoevo's state. -/
def Obligations.DataPlaneLeavesForzoevo : Prop :=
  ∀ (c : Instr) (s t : State), c.reachesMgmt = false → exec c s = .next t → t.mgmt = s.mgmt


/-! ### Fabric time and weather (02) -/

/-- TICK advances a locked, unfrozen count by 1 and does nothing otherwise (R28, R31). -/
def Obligations.TickCounts : Prop :=
  ∀ s : State,
    (s.dev.ft.locked = true → s.dev.ft.frozen = false →
      ∃ w : Dev, exec .tick s = .next (s.ends w) ∧ w.ft.now = s.dev.ft.now + 1) ∧
    (s.dev.ft.locked = false ∨ s.dev.ft.frozen = true → exec .tick s = .next s)

/-- Release (R41), and that it stays. -/
def Obligations.TickReleases : Prop :=
  ∀ (s : State) (id : Nat) (ws : List W64), s.dev.ft.locked = true → s.dev.ft.frozen = false → (s.dev.sched id).phase = .running →
    ∃ w : Dev, exec .tick s = .next (s.ends w) ∧
      ((w.sched id).released ws = true ↔
        (s.dev.sched id).released ws = true ∨ (s.dev.sched id).base + eRelease ws ≤ s.dev.ft.now + 1)

/-- SAMPLE_POINT (R47, R48). -/
def Obligations.SamplePointReports : Prop :=
  ∀ s : State, s.dev.ft.locked = true → s.dev.ft.frozen = false → s.dev.pwr.tripped = false → s.dev.ft.now % 4096 = 4096 - 128 →
    s.dev.ft.sampledAt ≠ some s.dev.ft.now →
    ∃ w : Dev, exec .samplePoint s = .next (s.ends w) ∧ w.ft.sampledAt = some s.dev.ft.now ∧
      .weather (mkW 4 s.dev.chip (s.dev.pstate + b2n s.dev.ready * 32 + b2n (decide (0 < s.dev.ft.freshLeft)) * 64) s.dev.ft.now) s.dev.refLink ∈ w.out ∧
      (∀ slip k, s.dev.worstLate = some (slip, k) →
        .weather (mkW 3 s.dev.chip slip (strmKind k * 8192 + strmUnit k * 128)) s.dev.refLink ∈ w.out)

/-- MASTER_CUT_OFF (R55 to R57, Table 2.3). -/
def Obligations.CutOffMerges : Prop :=
  ∀ s : State, s.dev.ft.masterActive = true → s.dev.ft.locked = true → s.dev.ft.frozen = false → s.dev.ft.now % 4096 = 4096 - 64 →
    s.dev.ft.cutAt ≠ some s.dev.ft.now →
    let e := s.dev.ft.now + 64
    let lvl := ((s.dev.mst.members.filter (fun x => x.2.known && !x.2.absent)).map (fun x => x.2.level)).foldl max 0
    let held := s.dev.mst.lates.filter (fun l => decide (l.boundary ≤ e))
    let n := min (ceilDiv ((held.map (fun l => l.slip)).foldl max 0) 4096) s.dev.doldMax
    ∃ w : Dev, exec .masterCutOff s = .next (s.ends w) ∧ w.ft.cutAt = some s.dev.ft.now ∧ w.ft.now = s.dev.ft.now ∧
      w.mst.levelAnn = lvl ∧
      (lvl ≠ s.dev.mst.levelAnn → w.ft.annLull = some (lvl, e) ∧
        (s.dev.pwr.tripped = false → .weather (mkW 5 s.dev.chip lvl e) s.dev.refLink ∈ w.out)) ∧
      (lvl = s.dev.mst.levelAnn → w.ft.annLull = s.dev.ft.annLull) ∧
      w.mst.lates = s.dev.mst.lates.filter (fun l => decide (e < l.boundary)) ∧
      (held ≠ [] → (∀ a b, s.dev.mst.pause = some (a, b) → e ≤ a ∨ b ≤ e) →
        w.ft.annDold = some (n, e) ∧ (s.dev.pwr.tripped = false → .weather (mkW 6 s.dev.chip n e) s.dev.refLink ∈ w.out)) ∧
      (held = [] → w.ft.annDold = s.dev.ft.annDold)

/-- EPOCH_BOUNDARY (R59, R62, R441). -/
def Obligations.BoundaryApplies : Prop :=
  ∀ s : State, s.dev.ft.locked = true → s.dev.ft.frozen = false → s.dev.ft.now % 4096 = 0 → s.dev.ft.boundaryAt ≠ some s.dev.ft.now →
    ∃ w : Dev, exec .epochBoundary s = .next (s.ends w) ∧ w.ft.boundaryAt = some s.dev.ft.now ∧ w.ft.now = s.dev.ft.now ∧
      w.hbm.maint = s.dev.hbm.maintWritten ∧
      (∀ n, s.dev.ft.annDold = some (n, s.dev.ft.now) →
        w.ft.shift = s.dev.ft.shift + n * 4096 ∧ w.ft.dold = true ∧ w.ft.doldLeft = n ∧
        ∀ id, (s.dev.sched id).phase = .running → (w.sched id).base = (s.dev.sched id).base + n * 4096) ∧
      (∀ l, s.dev.ft.annLull = some (l, s.dev.ft.now) → w.ft.level = l) ∧
      (s.dev.ft.masterActive = true → s.dev.pwr.tripped = false → .weather w.timeMsg w.refLink ∈ w.out)

/-- R53 for each of the eight commands that deliver a message. -/
def Obligations.BadWeatherDropped : Prop :=
  ∀ (s : State) (l : LinkId) (m : WMsg), wBad m = true →
    ∀ c ∈ [Instr.time ⟨l, m⟩, .freqReq ⟨l, m⟩, .late ⟨l, m⟩, .state ⟨l, m⟩, .lull ⟨l, m⟩, .doldrums ⟨l, m⟩, .freeze ⟨l, m⟩, .thaw ⟨l, m⟩],
      exec c s = .next { s with dev := s.dev.modFtReg (linkDie l) (fun r => { r with msgDrop := true }) }

/-- The eight messages, in their own effects (R31, R32, R36, R38, R55 to R72); pathTicks is the reading of log entry 22. -/
def Obligations.WeatherMessagesTaken : Prop :=
  ∀ (s : State) (l : LinkId) (m : WMsg), wBad m = false →
    let v := s.dev
    let a := wArg m
    let c := wChip m
    (linkDie l = 0 →
      (wTypeN m = 1 → v.fromMaster c = true →
        (v.ft.locked = false →
          ∃ w : Dev, exec (.time ⟨l, m⟩) s = .next (s.ends w) ∧ w.ft.locked = true ∧ w.ft.shift = 0 ∧
            w.ft.now = wVal m + (if bit a 4 then 0 else v.pathTicks l (bits a 2 0)) ∧
            w.ft.level = bits a 2 0 ∧ w.ft.frozen = bit a 4 ∧ w.ft.dold = bit a 3 ∧ (bit a 3 = true → w.ft.doldLeft = bits a 15 8)) ∧
        (v.ft.locked = true → v.ft.frozen = false → bit a 4 = false →
          ∃ w : Dev, exec (.time ⟨l, m⟩) s = .next (s.ends w) ∧ w.ft.now = wVal m + v.pathTicks l (bits a 2 0) ∧
            (v.ft.now ≠ w.ft.now → (w.ftReg 0).step = true ∧ (w.ftReg 1).step = true))) ∧
      (wTypeN m = 2 → v.listens = true → (v.member c).absent = false →
        ∃ w : Dev, exec (.freqReq ⟨l, m⟩) s = .next (s.ends w) ∧ (w.member c).level = bits a 2 0 ∧ (w.member c).reason = bits a 6 4) ∧
      (wTypeN m = 3 → v.ft.masterActive = true → (v.member c).absent = false →
        ∃ w : Dev, exec (.late ⟨l, m⟩) s = .next (s.ends w) ∧
          w.mst.lates = v.mst.lates ++ [{ boundary := v.reportFor, slip := a, chip := c }]) ∧
      (wTypeN m = 4 → v.listens = true → (v.member c).absent = false →
        ∃ w : Dev, exec (.state ⟨l, m⟩) s = .next (s.ends w) ∧ (w.member c).known = true ∧
          (v.ft.masterActive = true → (v.member c).chrysalis = false → bits a 3 0 = 3 → c ≠ v.chip →
            w.mst.freezing = some (firstTf v.mst.freezing (v.ft.now + 4)) ∧
            (v.pwr.tripped = false → .weather (mkW 7 v.chip 0 (v.ft.now + 4)) v.refLink ∈ w.out))) ∧
      (wTypeN m = 5 → v.fromMaster c = true →
        ∃ w : Dev, exec (.lull ⟨l, m⟩) s = .next (s.ends w) ∧ w.ft.annLull = some (bits a 2 0, wVal m)) ∧
      (wTypeN m = 6 → v.fromMaster c = true →
        ∃ w : Dev, exec (.doldrums ⟨l, m⟩) s = .next (s.ends w) ∧ w.ft.annDold = some (bits a 7 0, wVal m)) ∧
      (wTypeN m = 7 → v.fromMaster c = true →
        ∃ w : Dev, exec (.freeze ⟨l, m⟩) s = .next (s.ends w) ∧ w.ft.tf = some (firstTf v.ft.tf (wVal m)) ∧ w.ft.now = v.ft.now ∧
          (wVal m ≤ v.ft.now → w.ft.frozen = true) ∧
          (v.ft.now < wVal m → v.ft.frozen = false → w.ft.frozen = false ∧ w.ft.freezeAt = some (firstTf v.ft.freezeAt (wVal m)))) ∧
      (wTypeN m = 8 → v.fromMaster c = true →
        (v.ft.locked = true → ∃ w : Dev, exec (.thaw ⟨l, m⟩) s = .next (s.ends w) ∧
          w.ft.now = wVal m + v.pathTicks l ((v.ft.annLull.map (fun x => x.1)).getD v.ft.level) ∧ w.ft.frozen = false ∧ w.ft.holdover = false ∧
          w.ft.doldLeft = bits a 15 8 ∧ (w.ft.dold = true ↔ 0 < bits a 15 8)) ∧
        (v.ft.locked = false → ∃ w : Dev, exec (.thaw ⟨l, m⟩) s = .next (s.ends w) ∧ w.ft.now = v.ft.now ∧ w.ft.locked = false))) ∧
    (linkDie l ≠ 0 → ∀ i ∈ [Instr.time ⟨l, m⟩, .freqReq ⟨l, m⟩, .late ⟨l, m⟩, .state ⟨l, m⟩, .lull ⟨l, m⟩, .doldrums ⟨l, m⟩, .freeze ⟨l, m⟩, .thaw ⟨l, m⟩],
      exec i s = .next s)

/-- The other time commands. -/
def Obligations.TimeCommandsComplete : Prop :=
  ∀ s : State,
    (s.dev.ft.dold = true → s.dev.ft.doldLeft = 0 → s.dev.ft.annDold = none →
      exec .doldrumsEnd s = .next { s with dev := s.dev.modFt (fun f => { f with dold := false }) }) ∧
    (∀ tf, s.dev.mst.freezing = some tf → s.dev.ft.masterActive = true → s.dev.ft.frozen = true → s.dev.allReady = true →
      ∃ w : Dev, exec .masterThaw s = .next (s.ends w) ∧ w.ft.frozen = false ∧ w.mst.freezing = none ∧
        w.ft.now = ((s.dev.ft.now :: somes ((s.dev.present.filter (fun e => decide (e.1 ≠ s.dev.chip))).map (fun e => e.2.frozenCount))).foldl max 0 / 4096 + 1) * 4096) ∧
    (s.dev.ft.frozen = true → s.dev.pwr.tripped = false → s.dev.pwr.chrysalis = false →
      ∃ w : Dev, exec .frozenMessageTimer s = .next (s.ends w) ∧
        (s.dev.ft.masterActive = true → w.out = s.dev.out ++ [.weather s.dev.timeMsg s.dev.refLink]) ∧
        (s.dev.ft.masterActive = false → w.out = s.dev.out ++ [.weather (mkW 4 s.dev.chip
          (s.dev.pstate + 16 + b2n s.dev.ready * 32 + b2n (s.dev.ft.locked && decide (0 < s.dev.ft.freshLeft)) * 64) s.dev.ft.now) s.dev.refLink])) ∧
    (s.dev.ft.locked = true → s.dev.ft.masterActive = false → s.dev.ft.holdover = false →
      ∃ w : Dev, exec .timeHoldover s = .next (s.ends w) ∧ w.ft.frozen = true ∧ w.ft.holdover = true ∧ w.ft.now = s.dev.ft.now) ∧
    (∀ chip : BitVec 14, s.dev.ft.masterActive = true → (s.dev.member chip.toNat).known = true → chip.toNat ≠ s.dev.chip →
      ∃ w : Dev, exec (.memberAbsent chip) s = .next (s.ends w) ∧ (w.member chip.toNat).absent = true ∧
        w.mst.lates = s.dev.mst.lates.filter (fun l => decide (l.chip ≠ chip.toNat))) ∧
    (s.dev.role = 2 → s.dev.ft.locked = true → s.dev.ft.masterActive = false →
      ∃ w : Dev, exec .masterTakeover s = .next (s.ends w) ∧ w.ft.masterActive = true ∧ w.ft.frozen = true ∧
        w.ft.now = s.dev.ft.now ∧ w.mst.freezing = some (firstTf s.dev.mst.freezing s.dev.ft.now) ∧
        (w.member s.dev.masterChip).absent = decide (s.dev.masterChip ≠ s.dev.chip) ∧ (w.member s.dev.chip).level = s.dev.standing.1) ∧
    (∀ (d : DieId) (x : W32), s.dev.ft.locked = false →
      ∃ w : Dev, exec (.fabTimeCfgWrite d x) s = .next (s.ends w) ∧ (w.ftReg d).cfg = x ∧
        (d = 0 → bits x.toNat 1 0 = 1 → w.ft.locked = true ∧ w.ft.now = 0 ∧ w.ft.masterActive = true)) ∧
    (∀ (d : DieId) (x : W32), s.dev.ft.locked = true →
      ∃ w : Dev, exec (.fabTimeCfgWrite d x) s = .next (s.ends w) ∧ w.ftRegs = s.dev.ftRegs)


/-! ### Streams and schedules (03) -/

/-- STREAM_FETCH (R95). -/
def Obligations.FetchFillsBuffer : Prop :=
  ∀ (k : StreamId) (s : State), let q := s.dev.strm k
    let a := q.base.toNat + 64 * q.fetchNext
    q.loaded = true → (s.dev.schedOf k).phase = .running → q.stopped = false → q.finished = false → s.dev.issueOk = true →
    2 * q.buf.length ≤ bufSize (strmKind k) →
    ∃ w : Dev, exec (.streamFetch k) s = .next (s.ends (w.nextHead k)) ∧
      ∃ es : List Fetched, (w.strm k).buf = q.buf ++ es ∧ (w.strm k).fetchNext = q.fetchNext + es.length ∧
        es.length = min (bufSize (strmKind k) - q.buf.length) (q.count - q.fetchNext) ∧
        es.map (fun e => e.idx) = (List.range es.length).map (fun i => q.fetchNext + i) ∧
        (s.dev.permits (strmDie k) a 64 false false = true → a < stackEnd → s.dev.pathAt a 64 = none → s.dev.moult.held = [] →
          ∀ e, es.head? = some e → e.bad = 0 ∧ e.words = bytesToWords 8 (s.dev.stk8 a 64))

/-- ENTRY_RETIRE (R77, R88, R102). -/
def Obligations.OldestEntryRetires : Prop :=
  ∀ (k : StreamId) (s : State),
    (∀ f : Flight, s.dev.retirable k = some f →
      ∃ w : Dev, exec (.entryRetire k) s = .next (s.ends (w.nextHead k)) ∧
        (w.strm k).lastRetired = f.idx ∧ (w.strm k).noneRetired = false ∧
        (w.strm k).flights.length + 1 = (s.dev.strm k).flights.length ∧
        (eOp f.words = 1 → (w.strm k).lastMark = w32 (fld (wd f.words 2) 31 0)) ∧
        ((s.dev.schedOf k).halted = false → (f.idx + 1 = (s.dev.strm k).count ∨ eHalt f.words = true) → (w.strm k).finished = true)) ∧
    (s.dev.retirable k = none → exec (.entryRetire k) s = .next s)

/-- NOP, MARK and SOURCE_FREE (R87, R88, R114, R342). -/
def Obligations.SourceFreeSignals : Prop :=
  ∀ (k : StreamId) (s : State),
    (∀ (ws : List W64), ∀ c ∈ [(Instr.nop k, 0), (Instr.mark k, 1)], s.dev.startable k c.2 = some ws →
      ∃ w : Dev, exec c.1 s = .next (s.ends (w.nextHead k)) ∧ (w.strm k).buf = (s.dev.strm k).buf.drop 1 ∧
        (∃ f ∈ (w.strm k).flights, f.idx = (s.dev.strm k).next ∧ f.words = ws ∧ f.wait = .none ∧ f.srcDone = true ∧ f.sfSent = true) ∧
        (∀ id, (w.ctr id).transit = (s.dev.ctr id).transit + (eSigs ws 2).count id)) ∧
    ∀ f : Flight, (s.dev.strm k).flights.find? (fun f => f.srcDone && !f.sfSent && !f.withdrawn && !f.part) = some f →
      ∃ w : Dev, exec (.sourceFree k) s = .next (s.ends w) ∧
        (∀ id, (w.ctr id).transit = (s.dev.ctr id).transit + (eSigs f.words 2).count id ∧ (w.ctr id).value = (s.dev.ctr id).value) ∧
        (∀ g ∈ (w.strm k).flights, g.idx = f.idx → g.withdrawn = false → g.sfSent = true)

/-- The grant of a stream head (R85). -/
def Obligations.WaitsSatisfiedTogether : Prop :=
  ∀ (v : Dev) (k : StreamId) (ws : List W64) (e : Fetched), v.tests k = some ws → (v.strm k).headEntry = some e → e.noWait = false →
    (v.strm k).tested = true →
    let need : Nat → Nat := fun id =>
      (if waitCtr k (eWait ws 0).1 = id then (eWait ws 0).2.1 else 0) + (if waitCtr k (eWait ws 1).1 = id then (eWait ws 1).2.1 else 0)
    let sat : Nat → Prop := fun id =>
      need id = 0 ∨ ((v.ctr id).kind = 1 ∧ need id ≤ (v.ctr id).value) ∨ ((v.ctr id).kind = 2 ∧ (v.ctr id).value = 1 ∧ need id = 1)
    let w := v.grantOne (.stream k)
    ((∀ id, sat id) → (w.strm k).granted = true ∧ ∀ id, (w.ctr id).value = (v.ctr id).value - need id) ∧
    ((∃ id, ¬sat id) → w = v)

/-- WAIT_STALL (R104, R105, R559). -/
def Obligations.StalledWaitFaults : Prop :=
  ∀ (k : StreamId) (s : State),
    (∀ idx, s.dev.stalled k = some idx → (s.dev.flt (strmDie k)).capturing = false → (s.dev.flt (strmDie k)).valid = false →
      ∃ w : Dev, exec (.waitStall k) s = .next (s.ends w) ∧
        (w.flt (strmDie k)).capturing = true ∧ (w.flt (strmDie k)).cause = 0x23 ∧ (w.flt (strmDie k)).tick = s.dev.ft.now ∧
        (w.flt (strmDie k)).hasStream = true ∧ (w.flt (strmDie k)).kind = strmKind k ∧ (w.flt (strmDie k)).unit = strmUnit k ∧
        (w.flt (strmDie k)).entry = idx ∧
        (w.sched (strmDie k * 256 + (s.dev.strm k).sched)).halted = true ∧ (w.sched (strmDie k * 256 + (s.dev.strm k).sched)).status = 0x23) ∧
    (s.dev.stalled k = none → exec (.waitStall k) s = .next s)

/-- FAULT_CAPTURE_END (R105, R561). -/
def Obligations.CaptureEnds : Prop :=
  ∀ (d : DieId) (timed : Bool) (s : State), (s.dev.flt d).capturing = true →
    (s.dev.captureDone (s.dev.flt d).capScheds = true ∨ timed = true) →
    ∃ w : Dev, exec (.faultCaptureEnd d timed) s = .next (s.ends w) ∧ (w.flt d).valid = true ∧ (w.flt d).capturing = false ∧
      (w.flt d).cause = (s.dev.flt d).cause ∧ (w.flt d).tick = (s.dev.flt d).tick ∧
      ∀ id ∈ (s.dev.flt d).capScheds, (s.dev.sched id).phase ≠ .saved → (w.sched id).phase = .stopped ∧ (w.sched id).run = none


/-! ### The matrix engine (04 to 06) -/

/-- MM_FWD, MM_REV, MM_WGT, MM_DIST on entries that work (R119, R135, R139, R173 to R176). -/
def Obligations.MatrixEntriesComplete : Prop :=
  ∀ (c : CoreId) (s : State) (ws : List W64) (p q : Nat), ∀ x ∈ [(Instr.mmFwd c, 0x10), (.mmRev c, 0x11), (.mmWgt c, 0x12), (.mmDist c, 0x13)],
    s.dev.startable (3 * c.val) x.2 = some ws → shapeOf (decMx ws).shape = some (p, q) →
    let o := decMx ws
    let started : Dev → Nat → Prop := fun w prog =>
      ∃ f ∈ (w.strm (3 * c.val)).flights, f.idx = (s.dev.strm (3 * c.val)).next ∧ f.words = ws ∧ f.wait = .none ∧ f.srcDone = true ∧ f.prog = prog
    let tile : Nat → Nat → Tile := fun r g =>
      if o.k = 0 ∨ o.reuse then (s.dev.core (gangCore c.val r g)).tile else o.loadTile ws r g (s.dev.core (gangCore c.val r g))
    (o.empty = false → (o.k = 0 → o.acc = false) →
      (∀ g, (s.dev.core g).colBad = [] ∧ (s.dev.core g).spadBad = [] ∧ (s.dev.core g).accBad = []) →
      ∃ u w : Dev, exec x.1 s = .next (s.ends (w.nextHead (3 * c.val))) ∧
        (∀ g, (u.core g).spad = (s.dev.core g).spad) ∧ (∀ r < p, ∀ g < q, (u.core (gangCore c.val r g)).tile = tile r g) ∧
        (∀ g, (w.core g).spad = (s.dev.core g).spad ∧ (w.core g).tile = (u.core g).tile) ∧
        (∀ m < o.m, ∀ y ∈ u.mxRow o c.val p q m, (w.core y.1).accGet y.2.1 = o.combine ((s.dev.core y.1).accGet y.2.1) y.2.2 % 2 ^ 32) ∧
        (∀ g a, (∀ m < o.m, ∀ y ∈ u.mxRow o c.val p q m, ¬(y.1 = g ∧ y.2.1 = a)) → (w.core g).accGet a = (s.dev.core g).accGet a) ∧
        started w o.m) ∧
    (o.empty = true ∨ (o.k = 0 ∧ o.acc = true) →
      ∃ w : Dev, exec x.1 s = .next (s.ends (w.nextHead (3 * c.val))) ∧ w.cores = s.dev.cores ∧ ∃ n, started w n)

/-- The integer step (R210). -/
def Obligations.IntegerStepWraps : Prop :=
  ∀ (p : Nat) (xs : List (Int × Int)), p < 2 ^ 32 →
    intStep p (xs.map (fun x => x.1 * x.2)) < 2 ^ 32 ∧
    ((intStep p (xs.map (fun x => x.1 * x.2)) : Nat) : Int) % 2 ^ 32 = ((p : Int) + (xs.map (fun x => x.1 * x.2)).sum) % 2 ^ 32

/-- NaN results of a step (R206). -/
def Obligations.StepNaN : Prop :=
  ∀ (p : Nat) (prods : List Machine.Num) (scale : Machine.Num),
    ((dec32 p).isNan = true ∨ scale.isNan = true ∨ (∃ x ∈ prods, x.isNan = true) ∨ (Machine.Num.inf true ∈ prods ∧ Machine.Num.inf false ∈ prods) ∨
      (∃ b, dec32 p = .inf b ∧ .inf (!b) ∈ prods)) →
    fpStep p prods scale = 0x7FC00000


/-! ### The vector engine (08) -/

/-- V_EW to V_STAT (R252, R276, R229). -/
def Obligations.VectorEntriesComplete : Prop :=
  ∀ (c : CoreId) (s : State) (ws : List W64),
    ∀ x ∈ [(Instr.vEw c, 0x10), (.vRed c, 0x11), (.vRowexp c, 0x12), (.vTopk c, 0x13), (.vQuant c, 0x14), (.vStat c, 0x15)],
    s.dev.startable (3 * c.val + 1) x.2 = some ws →
    let o := decVx ws
    let k := 3 * c.val + 1
    (o.empty = true →
      ∃ w : Dev, exec x.1 s = .next (s.ends (w.nextHead k)) ∧ w.cores = s.dev.cores ∧ w.hbm = s.dev.hbm ∧
        ∃ f ∈ (w.strm k).flights, f.idx = (s.dev.strm k).next ∧ f.words = ws ∧ f.wait = .none ∧ f.srcDone = true) ∧
    (o.empty = false → (∀ a ∈ s.dev.vxRecords c o, s.dev.pathAt a 64 = none) → (s.dev.core c).spadBad = [] → (s.dev.core c).accBad = [] →
      (o.statEn = true → s.dev.pathAt (s.dev.recSlot c o.stat) 64 = none) →
      ∃ (u : Dev) (st : Stats) (w : Dev),
        (s.dev.overlapAt k c ws).vRows c o.rowBad (fun u r => u.vxRow c o (s.dev.vxScalar c o) r) (List.range o.units) {} = (u, st, none) ∧
        exec x.1 s = .next (s.ends (w.nextHead k)) ∧ w.core c = u.core c ∧
        (o.statEn = true → s.dev.hbm.busy = false → s.dev.moult.stale (s.dev.recSlot c o.stat / 65536) = false →
          w.recWords (s.dev.recSlot c o.stat) 8 = mergeStats (s.dev.recWords (s.dev.recSlot c o.stat) 8) st) ∧
        ∃ f ∈ (w.strm k).flights, f.idx = (s.dev.strm k).next ∧ f.words = ws ∧ f.wait = .none ∧ f.srcDone = true)

/-- The rows of four vector opcodes. -/
def Obligations.VectorRowResults : Prop :=
  ∀ (v : Dev) (c : Nat) (o : VxOps) (t : Machine.Num) (r : Nat),
    let k := v.core c
    let codes := k.rowCodes o.a o.aacc o.af r o.cols
    let cut : List Nat → List Nat := fun cs => cs.map (fun x => x % 2 ^ vBits o.df)
    ((o.dacc = true → vBits o.df = 32) → ((v.ewRow c o t r).1.core c).rowCodes o.d o.dacc o.df r o.cols =
      cut (o.into ((List.range o.cols).map (fun i => o.ewValue t (codes.getD i 0)
        ((if ewBinary o.func then k.rowCodes o.b false o.bf r (if o.brow then 1 else o.cols) else []).getD (if o.brow then 0 else i) 0)))).1) ∧
    ((codes.map (decCode o.af)).all Machine.Num.isFp32 = true → (o.dacc = true → vBits o.df = 32) →
      ((v.redRow c o r).1.core c).rowCodes o.d o.dacc o.df r 1 =
        cut (o.into [rnd32 (reduceRow o.func ((codes.map (decCode o.af)).map (redPrep o.func)))]).1) ∧
    (((v.topkRow c o r).1.core c).rowCodes o.b false 11 r o.func =
      ((((rankRow (codes.map (decCode o.af))).take o.func).map (fun y => y.1)) ++
        List.replicate (o.func - ((rankRow (codes.map (decCode o.af))).take o.func).length) max32).map (fun x => x % 2 ^ 32)) ∧
    (o.op = 0x14 → o.scl = 0 → o.sr = false → o.cols ≠ 0 → (o.dacc = true → vBits o.df = 32) →
      ((v.quantRow c o t r).1.core c).rowCodes o.d o.dacc o.df r o.cols =
        cut (quantBlock o.df 0 o.ieee t (codes.map (decCode o.af)) (List.replicate o.cols none)).codes) ∧
    (∀ g, g ≠ c → (v.ewRow c o t r).1.core g = v.core g ∧ (v.redRow c o r).1.core g = v.core g ∧
      (v.topkRow c o r).1.core g = v.core g ∧ (v.quantRow c o t r).1.core g = v.core g)

/-- V_SCUPD and SE_SCUPD (R234). -/
def Obligations.ScaleUpdatesComplete : Prop :=
  ∀ (s : State) (ws : List W64) (k st rcd : Nat) (i : Instr),
    ((∃ c : CoreId, i = .vScupd c ∧ k = 3 * c.val + 1 ∧ s.dev.startable k 0x16 = some ws ∧ st = s.dev.recSlot c (decVx ws).stat ∧ rcd = s.dev.recSlot c (decVx ws).s0) ∨
     (∃ j : StackId, i = .seScupd j ∧ k = 146 + j.val ∧ s.dev.startable k 0x15 = some ws ∧ st = (decSe ws).statrec.toNat ∧ rcd = (decSe ws).aux.toNat)) →
    s.dev.moult.active = false → s.dev.moult.held = [] → s.dev.hbm.busy = false → s.dev.queueFull st 64 = false → s.dev.queueFull rcd 128 = false →
    s.dev.pathAt st 64 = none → s.dev.pathAt rcd 128 = none → st + 64 ≤ rcd ∨ rcd + 128 ≤ st →
    ∃ w : Dev, exec i s = .next (s.ends (w.nextHead k)) ∧ w.recWords st 8 = List.replicate 8 0#64 ∧
      w.recWords rcd 16 = foldScale (s.dev.recWords st 8) (s.dev.recWords rcd 16) ∧
      (∀ a, (a < st ∨ st + 64 ≤ a) → (a < rcd ∨ rcd + 128 ≤ a) → mget w.hbm.mem a = mget s.dev.hbm.mem a) ∧
      ∃ f ∈ (w.strm k).flights, f.idx = (s.dev.strm k).next ∧ f.words = ws ∧ f.wait = .none ∧ f.srcDone = true

/-- V_GATHER, V_SCATTER, V_DISPATCH (R110, R271 to R273). -/
def Obligations.GatherScatterDispatchComplete : Prop :=
  ∀ (c : CoreId) (s : State) (ws : List W64), let k := 3 * c.val + 1
    (∀ u : Dev, s.dev.startable k 0x17 = some ws → let g := decGat ws
      s.dev.windowOk (coreDie c) g false = true → g.rows ≠ 0 →
      s.dev.gatherRows k c g (match s.dev.rgnFind (coreDie c) g.wbase.toNat g.span with | some r => r.cache | none => false) (List.range g.rows) = (u, none) →
      ∃ w : Dev, exec (.vGather c) s = .next (s.ends (w.nextHead k)) ∧ w.core c = u.core c ∧ (w.strm k).oob = (u.strm k).oob ∧
        ∃ f ∈ (w.strm k).flights, f.idx = (s.dev.strm k).next ∧ f.words = ws ∧ f.srcDone = true) ∧
    (∀ u : Dev, s.dev.startable k 0x18 = some ws → let g := decGat ws
      s.dev.windowOk (coreDie c) g true = true → g.rows ≠ 0 → s.dev.scatterRows k c (s.dev.strm k).next g (List.range g.rows) = (u, none) →
      ∃ w : Dev, exec (.vScatter c) s = .next (s.ends (w.nextHead k)) ∧ w.hbm.mem = u.hbm.mem ∧ (w.strm k).oob = (u.strm k).oob ∧
        ∃ f ∈ (w.strm k).flights, f.idx = (s.dev.strm k).next ∧ f.words = ws ∧ f.srcDone = true) ∧
    (s.dev.startable k 0x19 = some ws → (s.dev.core c).spadBad = [] → let g := decDis ws
      ∃ w : Dev, exec (.vDispatch c) s = .next (s.ends (w.nextHead k)) ∧ w.core c = g.put (g.plan (s.dev.core c)) (s.dev.core c) ∧
        (w.strm k).oob = satAdd (s.dev.strm k).oob (g.plan (s.dev.core c)).oob max32 ∧
        (w.strm k).drop = satAdd (s.dev.strm k).drop (g.plan (s.dev.core c)).drop max32 ∧
        ∃ f ∈ (w.strm k).flights, f.idx = (s.dev.strm k).next ∧ f.words = ws ∧ f.srcDone = true) ∧
    (∀ (g : GatOps) (i : Nat), (s.dev.core c).spadBad = [] → s.dev.moult.held = [] →
      let ix := g.index (s.dev.core c) i
      let u := (s.dev.gatherRows k c g false [i]).1
      (g.wcount ≤ ix → (u.core c).spadRead (g.data + i * g.pitch) g.esize = List.replicate g.esize 0#8 ∧
        (u.strm k).oob = satAdd (s.dev.strm k).oob 1 max32) ∧
      (ix < g.wcount → let a := g.wbase.toNat + ix * g.stride
        a + g.esize ≤ stackEnd → (∀ b n, a ≤ b → b + n ≤ a + g.esize → s.dev.pathAt b n = none) →
        (u.core c).spadRead (g.data + i * g.pitch) g.esize = s.dev.stk8 a g.esize))

/-- STAT_MERGE (R229, R230) and ACQUIRE_DONE (R86, R330). -/
def Obligations.MergeAndAcquireComplete : Prop :=
  (∀ (d : DieId) (rcd : Nat) (st : Stats) (s : State), s.dev.recordOk d rcd 64 = true → s.dev.pathAt rcd 64 = none →
    s.dev.moult.stale (rcd / 65536) = false → s.dev.hbm.busy = false →
    ∃ w : Dev, exec (.statMerge d rcd st) s = .next (s.ends w) ∧ w.recWords rcd 8 = mergeStats (s.dev.recWords rcd 8) st ∧
      ∀ a, (a < rcd ∨ rcd + 64 ≤ a) → mget w.hbm.mem a = mget s.dev.hbm.mem a) ∧
  (∀ (k : StreamId) (s : State) (e : Fetched), (s.dev.strm k).headEntry = some e → (s.dev.strm k).granted = true → (s.dev.strm k).acquiring = true →
    strmKind k ≤ 2 →
    let rs := if strmKind k = 2 then dmaSrcRanges (decDma e.words) else acqRanges k e.words
    ∃ w : Dev, exec (.acquireDone k) s = .next (s.ends w) ∧ (w.strm k).acquiring = rs.any (fun r => w.heldIn r.1 r.2) ∧
      ∀ r, rs.getLast? = some r → 0 < r.2 → ∀ n, r.1 / 64 ≤ n → n ≤ (r.1 + r.2 - 1) / 64 →
        ((w.core (strmUnit k)).l1Line n).here = false ∧ ((w.core (strmUnit k)).l2Line n).here = false)


/-! ### The DMA engines (11) -/

/-- DMA_COPY (R371, R389, R394). -/
def Obligations.DmaCopyStarts : Prop :=
  ∀ (c : CoreId) (s : State) (ws : List W64), s.dev.startable (3 * c.val + 2) 0x10 = some ws →
    let o := decDma ws
    let k := 3 * c.val + 2
    let d : DmaDesc := { words := ws, entry := some (s.dev.strm k).next }
    let idle := (s.dev.dmaCh c o.chan).phase = .idle ∧ (s.dev.dmaCh c o.chan).queue = [] ∧ (s.dev.core c).dma.stopped = false
    let sealOk := o.seald = false ∨ (s.dev.otherModule o.sealAddr = false ∧ s.dev.permits (coreDie c) o.sealAddr.toNat 8 false false = true)
    let busy := (s.dev.dmaCh c o.chan).phase ≠ .idle ∨ (s.dev.core c).dma.stopped = true
    ∃ w : Dev, exec (.dmaCopy c) s = .next (s.ends (w.nextHead k)) ∧
      (idle → o.total = 0 → (w.dmaCh c o.chan).lastStatus = 1 ∧ (w.dmaCh c o.chan).phase = .idle ∧
        ∃ f ∈ (w.strm k).flights, f.idx = (s.dev.strm k).next ∧ f.words = ws ∧ f.wait = .none) ∧
      (idle → o.total ≠ 0 → sealOk → (w.dmaCh c o.chan).cur = d ∧ (w.dmaCh c o.chan).phase = (if o.seald then .seal0 else .moving) ∧
        (w.dmaCh c o.chan).sealAsked = o.seald ∧ ∃ f ∈ (w.strm k).flights, f.idx = (s.dev.strm k).next ∧ f.words = ws ∧ f.wait = .dma) ∧
      (busy → (w.dmaCh c o.chan).queue = (s.dev.dmaCh c o.chan).queue ++ [d] ∧
        ∃ f ∈ (w.strm k).flights, f.idx = (s.dev.strm k).next ∧ f.words = ws ∧ f.wait = .dma)

/-- BURST_ISSUE and BURST_RETURN (R372, R373, R376). -/
def Obligations.BurstsMove : Prop :=
  ∀ (c : CoreId) (n : DmaId) (s : State), let ch := s.dev.dmaCh c n
    let o := decDma ch.cur.words
    (s.dev.burstTurn c n = true → let a := (o.srcAt ch.next).toNat
      let span := o.readSpan ch.next (o.burstLen ch.next)
      s.dev.otherModule (w64 a) = false → (ch.demands = false ∨ s.dev.permits (coreDie c) span.1 span.2 false false = true) →
      ∃ w : Dev, exec (.burstIssue c n) s = .next (s.ends w.releaseHeld) ∧ (w.dmaCh c n).next = ch.next + o.burstLen ch.next ∧
        (w.dmaCh c n).bursts = ch.bursts ++ [{ off := ch.next, len := o.burstLen ch.next }] ∧ (w.dmaCh c n).done = ch.done) ∧
    (s.dev.burstTurn c n = false → exec (.burstIssue c n) s = .next (s.ends s.dev.releaseHeld)) ∧
    (∀ (i : Nat) (b : Burst), ch.bursts[i]? = some b → s.dev.pwr.tripped = false → b.got = none → b.bad = 0 → b.remote = false →
      let a := (o.srcAt b.off).toNat
      let lo := (o.readSpan b.off b.len).1
      let m := (o.readSpan b.off b.len).2
      0 < b.len → lo + m ≤ stackEnd → s.dev.hbm.busy = false → s.dev.pathAt lo m = none →
      ∃ u : Dev, exec (.burstReturn c n i) s = .next (s.ends (u.dmaPush c n).releaseHeld) ∧ u.hbm.mem = s.dev.hbm.mem ∧
        ∀ x ∈ (u.dmaCh c n).bursts, x.off = b.off → x.got = some (s.dev.stkSeen a b.len))

/-- SEAL_S0_RETURN and SEAL_S1_RETURN (R386, R387). -/
def Obligations.SealsChecked : Prop :=
  ∀ (c : CoreId) (n : DmaId) (s : State), let ch := s.dev.dmaCh c n
    let o := decDma ch.cur.words
    ∀ (bs : List Byte) (u : Dev), s.dev.pwr.tripped = false → s.dev.sealRead c n = (some (.ok bs), u) →
      (ch.phase = .seal0 → ∃ w : Dev, exec (.sealS0Return c n) s = .next (s.ends w) ∧
        (w.dmaCh c n).phase = .moving ∧ (w.dmaCh c n).sealWord = some (w64 (ofBytes bs))) ∧
      (∀ s0, ch.phase = .seal1 → ch.seal1 = none → ch.sealWord = some s0 → ch.allLanded o = true → ch.draining = false → ch.marked = false →
        (s0 ≠ w64 (ofBytes bs) → ∃ w : Dev, exec (.sealS1Return c n) s = .next (s.ends ((w.dmaAdvance c n).dmaSealGo c n).releaseHeld) ∧
          (w.dmaCh c n).lastStatus = 2) ∧
        (s0 = w64 (ofBytes bs) → s.dev.issueOk = true → s.dev.otherModule o.markAddr = false → s.dev.moult.active = false → s.dev.moult.held = [] →
          s.dev.hbm.busy = false → o.markAddr.toNat + 8 ≤ stackEnd → s.dev.permits (coreDie c) o.markAddr.toNat 8 true false = true →
          u.pathAt o.markAddr.toNat 8 = none →
          ∃ w : Dev, exec (.sealS1Return c n) s = .next (s.ends ((w.dmaAdvance c n).dmaSealGo c n).releaseHeld) ∧ (w.dmaCh c n).lastStatus = 0 ∧
            w.stk8 o.markAddr.toNat 8 = toBytes s0.toNat 8))

/-- DMA_ENG_CLEAR, DMA_RESTART, DMA_DROP, DMA_REQ_WRITE (R385, R394, R395). -/
def Obligations.DmaRegistersTakeEffect : Prop :=
  ∀ (c : CoreId) (n : DmaId) (x : W32) (s : State), let ch := s.dev.dmaCh c n
    let clears := bit x.toNat 16 && (s.dev.core c).dma.stopped
    let restart := bit x.toNat 2 && !bit x.toNat 3
    let drop := bit x.toNat 3 && !bit x.toNat 2
    let ready := ch.phase = .stopped ∧ (s.dev.core c).dma.stopped = false
    (∃ w : Dev, exec (.dmaEngClear c x) s = .next (s.ends (if clears then w.dmaWakeAll c else w).releaseHeld) ∧
      (w.core c).dma.ringChans = (if s.dev.coreClaimed c then (s.dev.core c).dma.ringChans else bits x.toNat 15 0) ∧
      (w.core c).dma.stopped = ((s.dev.core c).dma.stopped && !bit x.toNat 16) ∧ ∀ m, w.dmaCh c m = s.dev.dmaCh c m) ∧
    (∀ i ∈ [Instr.dmaRestart c n x, .dmaDrop c n x],
      (ready → s.dev.dmaQuiet c n = true → restart = true →
        ∃ w : Dev, exec i s = .next (s.ends ((w.dmaSettle c n).dmaSealGo c n).releaseHeld) ∧ (w.dmaCh c n).next = ch.doneBytes ∧
          (w.dmaCh c n).done = ch.doneBytes ∧ (w.dmaCh c n).sealWord = ch.sealWord ∧ (w.dmaCh c n).cur = ch.cur) ∧
      (ready → s.dev.dmaQuiet c n = true → drop = true →
        ∃ w : Dev, exec i s = .next (s.ends ((w.dmaAdvance c n).dmaSealGo c n).releaseHeld) ∧ (w.dmaCh c n).lastStatus = 3 ∧
          (w.dmaCh c n).bytes = ch.doneBytes) ∧
      (ready → s.dev.dmaQuiet c n = false → ch.draining = false → (restart = true ∨ drop = true) →
        ∃ w : Dev, exec i s = .next (s.ends w.releaseHeld) ∧ w.dmaCh c n = { ch with resume := if restart then 1 else 2 }) ∧
      ((¬ready ∨ bit x.toNat 2 = bit x.toNat 3) → exec i s = .next (s.ends s.dev.releaseHeld) ∧ (s.dev.noneHeld → exec i s = .next s))) ∧
    (∀ m : Fin 64, let l := tget ({} : ReqLine) (s.dev.core c).dma.lines m
      ∃ w : Dev, exec (.dmaReqWrite c m x) s = .next (s.ends w) ∧
        (bits x.toNat 2 0 = l.kind → bits x.toNat 13 8 = l.arg →
          tget ({} : ReqLine) (w.core c).dma.lines m = { l with ovf := l.ovf && !bit x.toNat 14 }) ∧
        (bits x.toNat 2 0 ≠ l.kind ∨ bits x.toNat 13 8 ≠ l.arg →
          tget ({} : ReqLine) (w.core c).dma.lines m = { kind := bits x.toNat 2 0, arg := bits x.toNat 13 8, ovf := false, pending := 0 }))

/-! ### Sync counters and barriers (10) -/

/-- COUNTER_SIGNAL (R87, R341, R346, R352, Table 10.1; which signals share a cycle is log entry 92). -/
def Obligations.SignalArrives : Prop :=
  ∀ (id : Fin 14336) (s : State), let q := s.dev.ctr id
    (s.dev.arrivable id ≠ 0 → s.dev.pwr.tripped = false →
      ∃ w : Dev, exec (.counterSignal id) s = .next (s.ends (if sameCycle false s.pending then w else w.grantPass)) ∧
        (w.ctr id).transit + 1 = q.transit ∧ (w.ctr id).kind = q.kind ∧
        (q.kind = 1 → q.value < max32 → (w.ctr id).value = q.value + 1 ∧ (w.ctr id).overflow = q.overflow) ∧
        (q.kind = 1 → q.value = max32 → (w.ctr id).value = max32 ∧ (w.ctr id).overflow = true) ∧
        (q.kind = 2 → q.value ≠ 1 → (w.ctr id).value = 1 ∧ (w.ctr id).overflow = q.overflow) ∧
        (q.kind = 2 → q.value = 1 → (w.ctr id).value = 1 ∧ (w.ctr id).overflow = true) ∧
        (q.kind ≠ 1 → q.kind ≠ 2 → (w.ctr id).value = q.value ∧ (w.ctr id).misuse = true) ∧
        (∀ j, j ≠ id.val → w.ctr j = { s.dev.ctr j with after := (w.ctr j).after })) ∧
    (s.dev.arrivable id = 0 ∨ s.dev.pwr.tripped = true → exec (.counterSignal id) s = .next s)

/-- SYN_CTR_WRITE and COUNTER_WINDOW_ACCESS (R315, R342, R346, R352 to R357). -/
def Obligations.CounterWritten : Prop :=
  ∀ (d : DieId) (s : State),
    (∀ (n : Fin 7168) (v : W64), let id := localCtr d n
      ∃ w : Dev, exec (.synCtrWrite d n v) s = .next (s.ends (if sameCycle true s.pending then w else w.grantPass)) ∧ (w.ctr id).kind = fld v 33 32 ∧
        (¬(fld v 33 32 = 2 ∧ 1 < fld v 31 0) → (w.ctr id).value = fld v 31 0 ∧
          (w.ctr id).overflow = ((s.dev.ctr id).overflow && !fbit v 34) ∧ (w.ctr id).misuse = ((s.dev.ctr id).misuse && !fbit v 35)) ∧
        (fld v 33 32 = 2 → 1 < fld v 31 0 → (w.ctr id).value = 1 ∧ (w.ctr id).misuse = true) ∧
        (∀ j, j ≠ id → w.ctr j = s.dev.ctr j)) ∧
    (∀ i : Fin 14336,
      (s.dev.permits d (syncBase + 8 * i.val) 8 true false = true → exec (.counterWindowAccess d (8 * i.val) 8 true) s =
        .next { s with dev := s.dev.modCtr i (fun c => { c with transit := c.transit + 1 }) }) ∧
      exec (.counterWindowAccess d (8 * i.val) 8 false) s = .next s) ∧
    (∀ (off len : Nat) (wr : Bool), off < 131072 →
      (s.dev.permits d (syncBase + off) len wr false = false → exec (.counterWindowAccess d off len wr) s = .next s) ∧
      (s.dev.permits d (syncBase + off) len wr false = true → (off % 8 ≠ 0 ∨ len ≠ 8 ∨ 14336 ≤ off / 8) →
        ∃ w : Dev, exec (.counterWindowAccess d off len wr) s = .next (s.ends w) ∧ (w.synSt d).badId = true ∧ w.ctrs = s.dev.ctrs))

/-- SYN_BAR_MASK_WRITE (R364) and the completion of a barrier unit (R360, R361). -/
def Obligations.BarrierCompletes : Prop :=
  (∀ (d : DieId) (u : Fin 16) (v : W64) (s : State),
    ∃ w : Dev, exec (.synBarMaskWrite d u v) s = .next (s.ends w) ∧ (w.bar u).mask = v.setWidth 48 ∧ (w.bar u).arrived = 0#48 ∧
      (w.bar u).gen = (s.dev.bar u).gen ∧ (∀ j, j ≠ u.val → w.bar j = s.dev.bar j) ∧ (∀ p, p ≠ .barriers → Dev.same p s.dev w)) ∧
  ∀ (v : Dev) (u c : Nat), c < 48 → let b := v.bar u
    let arr := b.arrived ||| BitVec.ofNat 48 (2 ^ c)
    let w := v.barArrive u c
    (arr = b.mask → b.mask ≠ 0#48 → (w.bar u).gen = (b.gen + 1) % 65536 ∧ (w.bar u).arrived = 0#48 ∧
      (b.sigEn = true → b.sigId ≤ 14335 → ∀ id, (w.ctr id).transit = (v.ctr id).transit + (if id = b.sigId then 1 else 0)) ∧
      (b.sigEn = false → w.ctrs = v.ctrs)) ∧
    (arr ≠ b.mask ∨ b.mask = 0#48 → (w.bar u).gen = b.gen ∧ (w.bar u).arrived = arr ∧ w.ctrs = v.ctrs)


/-! ### The scalar unit (08, 09) -/

/-- SCALAR_RUN and SCALAR_STOP (R281, R282, R284, R290, R293). -/
def Obligations.ContextsLaunchAndStop : Prop :=
  ∀ (c : CoreId) (x : CtxId) (v : W32) (s : State), let q := s.dev.ctx c x
    ∀ i ∈ [Instr.scalarRun c v, .scalarStop c v],
    ∃ w : Dev, exec i s = .next (s.ends w) ∧
      (q.busy = false → bit v.toNat x = true → (w.ctx c x).state = .running ∧ (w.ctx c x).pc = q.pc ∧ (w.ctx c x).launch = q.pc ∧
        (w.ctx c x).reg 10 = w64 x ∧ (w.ctx c x).reg 11 = w64 c ∧ (∀ r, r ≠ 10 → r ≠ 11 → (w.ctx c x).reg r = 0#64)) ∧
      (q.busy = false → bit v.toNat x = false → { w.ctx c x with wait := q.wait } = q) ∧
      (q.busy = true → bit v.toNat (8 + x.val) = false → { w.ctx c x with wait := q.wait } = q) ∧
      (q.busy = true → bit v.toNat (8 + x.val) = true → (q.state = .running ∨ (∃ a b p, q.wait = .counter a b p) ∨ (∃ a b p, q.wait = .barrier a b p)) →
        (w.ctx c x).state = .stopped ∧ (q.state ≠ .running → (w.ctx c x).wait = .none))

/-- SCALAR_LOAD and SCALAR_STORE (R277, R278, R300, R303). -/
def Obligations.LoadsAndStoresComplete : Prop :=
  ∀ (c : CoreId) (x : CtxId) (s u : Dev) (pend : List Instr) (m : Mgmt) (short : Bool) (rs1 : RegNo) (imm : BitVec 12) (size : Fin 4),
    let st : State := { pending := pend, mgmt := m, dev := s }
    let q := s.ctx c x
    let k := s.core c
    let len : W64 := if short then 2#64 else 4#64
    let a := (q.reg rs1 + imm.signExtend 64).toNat
    let n := 2 ^ size.val
    q.state = .running → s.issueOk = true → s.sclFetch c q.pc.toNat (if short then 2 else 4) = (false, u) → a % n = 0 →
    (∀ (rd : RegNo) (uns : Bool), s.permits (coreDie c) a n false false = true →
      (s.cacheable c a n = true → (k.l1Line (a / 64)).here = true → (k.l1Line (a / 64)).badIn (a % 64) n = false →
        ∃ w : Dev, exec (.scalarLoad c x rd rs1 imm size uns short) st = .next { st with dev := w } ∧
          w.ctx c x = (q.setReg rd (extLoad (k.l1Read a n) size uns)).go (q.pc + len)) ∧
      (s.cacheable c a n = true → (k.l1Line (a / 64)).here = false →
        ∃ w : Dev, exec (.scalarLoad c x rd rs1 imm size uns short) st = .next { st with dev := w } ∧
          w.ctx c x = { q with state := .waiting, wait := .load a size uns rd false (q.pc + len) }) ∧
      (s.cacheable c a n = false → s.otherModule (w64 a) = false →
        ∃ w : Dev, exec (.scalarLoad c x rd rs1 imm size uns short) st = .next { st with dev := w } ∧
          w.ctx c x = { q with state := .waiting, wait := .load a size uns rd true (q.pc + len) })) ∧
    (∀ rs2 : RegNo, s.permits (coreDie c) a n true false = true → let bs := toBytes (q.reg rs2).toNat n
      (s.cacheable c a n = true → (k.l1Line (a / 64)).data.length = 64 →
        ∃ w : Dev, exec (.scalarStore c x rs2 rs1 imm size short) st = .next { st with dev := w } ∧ w.ctx c x = q.go (q.pc + len) ∧
          (w.core c).l1Read a n = bs ∧ ((w.core c).l1Line (a / 64)).dirty = true ∧ w.hbm.mem = s.hbm.mem) ∧
      (s.cacheable c a n = true → (k.l1Line (a / 64)).here = false →
        ∃ w : Dev, exec (.scalarStore c x rs2 rs1 imm size short) st = .next { st with dev := w } ∧
          w.ctx c x = { q with state := .waiting, wait := .store a bs false (q.pc + len) } ∧ w.hbm.mem = s.hbm.mem) ∧
      (s.cacheable c a n = false → s.otherModule (w64 a) = false → u.amoBusy c x a = false →
        ∃ w : Dev, exec (.scalarStore c x rs2 rs1 imm size short) st = .next { st with dev := w } ∧
          w.ctx c x = { q with state := .waiting, wait := .put a bs 0 0#64 (q.pc + len) } ∧ w.hbm.mem = s.hbm.mem))

/-- SCALAR_AMO (R280). -/
def Obligations.AtomicsComplete : Prop :=
  ∀ (c : CoreId) (x : CtxId) (s : State) (u : Dev) (op : AmoOp) (rd rs1 rs2 : RegNo) (dbl : Bool),
    let q := s.dev.ctx c x
    let k := s.dev.core c
    let a := (q.reg rs1).toNat
    let n := if dbl then 8 else 4
    q.state = .running → s.dev.issueOk = true → s.dev.sclFetch c q.pc.toNat 4 = (false, u) → a % n = 0 →
    s.dev.permits (coreDie c) a n false false = true → s.dev.permits (coreDie c) a n true false = true →
    ((op = .sc → q.reservation = some (a / 64)) → s.dev.cacheable c a n = true → (k.l1Line (a / 64)).data.length = 64 →
      (k.l1Line (a / 64)).badIn (a % 64) n = false →
      let old := k.l1Read a n
      ∃ w : Dev, exec (.scalarAmo c x op rd rs1 rs2 dbl) s = .next (s.ends w) ∧
        w.ctx c x = (q.amoDone op rd (8 * n) (ofBytes old) (a / 64)).go (q.pc + 4#64) ∧
        (w.core c).l1Read a n = if op = .lr then old else toBytes (amoNew op (8 * n) (ofBytes old) ((q.reg rs2).toNat % 2 ^ (8 * n))) n) ∧
    (op = .sc → q.reservation ≠ some (a / 64) →
      ∃ w : Dev, exec (.scalarAmo c x op rd rs1 rs2 dbl) s = .next (s.ends w) ∧ (w.core c).l1 = k.l1 ∧ w.hbm.mem = s.dev.hbm.mem ∧
        w.ctx c x = ({ q.setReg rd 1#64 with reservation := none } : Ctx).go (q.pc + 4#64))

/-- SCALAR_ACCESS_RETURN and the causes that stop a context (R283, R290, R291). -/
def Obligations.ReturnsAndTraps : Prop :=
  ∀ (c : CoreId) (x : CtxId) (s : State), let q := s.dev.ctx c x
    let k := s.dev.core c
    let back : (Dev → Prop) → Prop := fun p => ∃ w : Dev, exec (.scalarAccessReturn c x) s = .next (s.ends w.releaseHeld) ∧ p w
    (q.state = .waiting → s.dev.pwr.tripped = false → s.dev.hbm.busy = false →
      (∀ a size uns rd p bs u, q.wait = .load a size uns rd true p → s.dev.otherModule (w64 a) = false →
        s.dev.rdAt (coreDie c) (w64 a) (2 ^ size) c = (.ok bs, u) → back (fun w => w.ctx c x = (q.setReg rd (extLoad bs size uns)).go p)) ∧
      (∀ a bs rd val p, q.wait = .put a bs rd val p → 0 < bs.length → a + bs.length ≤ stackEnd → s.dev.pathAt a bs.length = none →
        s.dev.moult.active = false → s.dev.moult.held = [] →
        back (fun w => w.ctx c x = (q.setReg rd val).go p ∧ w.stk8 a bs.length = bs ∧
          ∀ b, (b < a ∨ a + bs.length ≤ b) → mget w.hbm.mem b = mget s.dev.hbm.mem b)) ∧
      (∀ a, s.dev.otherModule (w64 a) = false → (k.l1Line (a / 64)).data.length = 64 → (k.l1Line (a / 64)).bad = [] →
        (∀ size uns rd p, q.wait = .load a size uns rd false p →
          back (fun w => w.ctx c x = (q.setReg rd (extLoad (k.l1Read a (2 ^ size)) size uns)).go p)) ∧
        (∀ bs p, q.wait = .store a bs false p → a % 64 + bs.length ≤ 64 →
          back (fun w => w.ctx c x = q.go p ∧ (w.core c).l1Read a bs.length = bs)) ∧
        (∀ op rd rs2 dbl p, let n := if dbl then 8 else 4
          q.wait = .amo a op rd rs2 dbl false p → s.dev.cacheable c a n = true → a % 64 + n ≤ 64 → let old := k.l1Read a n
          back (fun w => w.ctx c x = (q.amoDone op rd (8 * n) (ofBytes old) (a / 64)).go p ∧
            (w.core c).l1Read a n = if q.amoStores op (a / 64) then q.amoBytes op rs2 n old else old)))) ∧
    (q.state = .running → s.dev.issueOk = true →
      let stops : Instr → Nat → Prop := fun i cause => ∃ w : Dev, exec i s = .next (s.ends w) ∧
        (w.ctx c x).state = .faulted ∧ (w.ctx c x).cause = cause ∧ (w.ctx c x).pc = q.pc
      (∀ u rd rs1 imm size uns rs2, s.dev.sclFetch c q.pc.toNat 4 = (false, u) → let a := (q.reg (Fin.val rs1) + BitVec.signExtend 64 imm).toNat
        (a % 2 ^ Fin.val size ≠ 0 → stops (.scalarLoad c x rd rs1 imm size uns false) 4 ∧ stops (.scalarStore c x rs2 rs1 imm size false) 6) ∧
        (a % 2 ^ Fin.val size = 0 → s.dev.permits (coreDie c) a (2 ^ Fin.val size) false false = false → stops (.scalarLoad c x rd rs1 imm size uns false) 5) ∧
        (a % 2 ^ Fin.val size = 0 → s.dev.permits (coreDie c) a (2 ^ Fin.val size) true false = false → stops (.scalarStore c x rs2 rs1 imm size false) 7) ∧
        (∀ op dbl, (q.reg (Fin.val rs1)).toNat % (if dbl then 8 else 4) ≠ 0 →
          stops (.scalarAmo c x op rd rs1 rs2 dbl) (if op = AmoOp.lr then 4 else 6))) ∧
      (∀ u rs1, s.dev.sclFetch c q.pc.toNat 4 = (true, u) → stops (.twSig c x rs1) 1 ∧ stops (.fence c x) 1 ∧ stops (.twHalt c x) 1) ∧
      (∀ u, s.dev.sclFetch c q.pc.toNat 4 = (false, u) → stops (.ecall c x 0x00000073#32) 11 ∧ stops (.ecall c x 0x00100073#32) 3 ∧
        stops (.ecall c x 0xFE00000B#32) 2))

/-- CSR_READ, FENCE, ECALL, the TW instructions, FLUSH_DONE, CLR_COUNT. cycle and instret are free values (log entry 3), and that the ECALL
row stands for every word without a row is log entry 49. -/
def Obligations.ExtensionsComplete : Prop :=
  ∀ (c : CoreId) (x : CtxId) (s : State), let q := s.dev.ctx c x
    let four : W64 := 4#64
    let gives : Instr → Ctx → Prop := fun i z => ∃ w : Dev, exec i s = .next (s.ends w) ∧ w.ctx c x = z
    let stops : Instr → Nat → Prop := fun i cause => ∃ w : Dev, exec i s = .next (s.ends w) ∧
      (w.ctx c x).state = .faulted ∧ (w.ctx c x).cause = cause ∧ (w.ctx c x).pc = q.pc
    (∀ u : Dev, q.state = .running → s.dev.issueOk = true → s.dev.sclFetch c q.pc.toNat 4 = (false, u) →
      (∀ rd : RegNo, gives (.csrRead c x rd 0xF14#12) ((q.setReg rd (w64 (c.val * 8 + x.val))).go (q.pc + four)) ∧
        gives (.csrRead c x rd 0xC01#12) ((q.setReg rd (w64 s.dev.ft.now)).go (q.pc + four)) ∧
        gives (.csrRead c x rd 0xC00#12) ((q.setReg rd (Config.freeWord u.freeCtr)).go (q.pc + four)) ∧
        gives (.csrRead c x rd 0xC02#12) ((q.setReg rd (Config.freeWord u.freeCtr)).go (q.pc + four)) ∧
        ∀ csr : BitVec 12, csr ≠ 0xF14#12 → csr ≠ 0xC00#12 → csr ≠ 0xC01#12 → csr ≠ 0xC02#12 → stops (.csrRead c x rd csr) 2) ∧
      (q.posted = 0 → gives (.fence c x) (q.go (q.pc + four))) ∧
      (q.posted ≠ 0 → gives (.fence c x) { q with state := .waiting, wait := .fence (q.pc + four) }) ∧
      (∀ rs1 : RegNo, (q.reg rs1).toNat ≤ 14335 → ∃ w : Dev, exec (.twSig c x rs1) s = .next (s.ends w) ∧ w.ctx c x = q.go (q.pc + four) ∧
        ∀ id, (w.ctr id).transit = (s.dev.ctr id).transit + (if id = (q.reg rs1).toNat then 1 else 0)) ∧
      (∀ rs1 rs2 : RegNo, waitable c (q.reg rs1).toNat = true →
        (fld (q.reg rs2) 31 0 = 0 → gives (.twWait c x rs1 rs2) (q.go (q.pc + four))) ∧
        (fld (q.reg rs2) 31 0 ≠ 0 → ∃ w : Dev, exec (.twWait c x rs1 rs2) s = .next (s.ends (w.grantPass)) ∧
          w.ctx c x = { q with state := .waiting, wait := .counter (q.reg rs1).toNat (fld (q.reg rs2) 31 0) (q.pc + four) })) ∧
      (∀ rd rs1 : RegNo, (q.reg rs1).toNat ≤ 14335 →
        gives (.twCtr c x rd rs1) ((q.setReg rd (w64 (s.dev.ctr (q.reg rs1).toNat).value)).go (q.pc + four))) ∧
      (∀ rd rs1 : RegNo, s.dev.barOk c (q.reg rs1).toNat = true →
        ∃ w : Dev, exec (.twBara c x rd rs1) s = .next (s.ends (w.barArrive (q.reg rs1).toNat c)) ∧
          w.ctx c x = (q.setReg rd (w64 (s.dev.bar (q.reg rs1).toNat).gen)).go (q.pc + four)) ∧
      (∀ rs1 rs2 : RegNo, s.dev.barOk c (q.reg rs1).toNat = true →
        ((s.dev.bar (q.reg rs1).toNat).gen ≠ fld (q.reg rs2) 15 0 → gives (.twBarw c x rs1 rs2) (q.go (q.pc + four))) ∧
        ((s.dev.bar (q.reg rs1).toNat).gen = fld (q.reg rs2) 15 0 → gives (.twBarw c x rs1 rs2)
          { q with state := .waiting, wait := .barrier (q.reg rs1).toNat (fld (q.reg rs2) 15 0) (q.pc + four) })) ∧
      gives (.twHalt c x) { q with state := .halted, wait := .none } ∧
      (∀ rs1 rs2 : RegNo, let a := (q.reg rs1).toNat
        let n := min (q.reg rs2).toNat (2 ^ 64 - a)
        (n = 0 → gives (.twFlush c x rs1 rs2) (q.go (q.pc + four)) ∧ gives (.twInv c x rs1 rs2) (q.go (q.pc + four))) ∧
        (n ≠ 0 → (u.flushRange c a n (some (.ctx c x))).2 = false →
          (∃ w : Dev, exec (.twFlush c x rs1 rs2) s = .next (s.ends w) ∧ (w.ctx c x).state = .waiting ∧ (w.ctx c x).wait = .flush (q.pc + four)) ∧
          (∃ w : Dev, exec (.twInv c x rs1 rs2) s = .next (s.ends w) ∧ (w.ctx c x).state = .waiting ∧ (w.ctx c x).wait = .flush (q.pc + four) ∧
            ∀ l, a / 64 ≤ l → l ≤ (a + n - 1) / 64 → ((w.core c).l1Line l).here = false ∧ ((w.core c).l2Line l).here = false)))) ∧
    (∀ (word : W32) (u : Dev), q.state = .running → s.dev.issueOk = true → s.dev.sclFetch c q.pc.toNat (insnLen word.toNat) = (false, u) →
      let p := q.pc + w64 (insnLen word.toNat)
      let i := Instr.ecall c x word
      (∀ op nw rd rs1 rs2, decodeInsn word.toNat = .alu op nw rd rs1 rs2 → gives i ((q.setReg rd (op.result nw (q.reg rs1) (q.reg rs2))).go p)) ∧
      (∀ op nw rd rs1 imm, decodeInsn word.toNat = .alui op nw rd rs1 imm → gives i ((q.setReg rd (op.result nw (q.reg rs1) imm)).go p)) ∧
      (∀ rd imm, decodeInsn word.toNat = .lui rd imm → gives i ((q.setReg rd imm).go p)) ∧
      (∀ rd imm, decodeInsn word.toNat = .auipc rd imm → gives i ((q.setReg rd (q.pc + imm)).go p)) ∧
      (∀ rd off, decodeInsn word.toNat = .jal rd off → gives i ((q.setReg rd p).go (q.pc + off))) ∧
      (∀ rd rs1 off, decodeInsn word.toNat = .jalr rd rs1 off → gives i ((q.setReg rd p).go ((q.reg rs1 + off) &&& ~~~1#64))) ∧
      (∀ k rs1 rs2 off, decodeInsn word.toNat = .branch k rs1 rs2 off → gives i (q.go (if k.holds (q.reg rs1) (q.reg rs2) then q.pc + off else p))) ∧
      (decodeInsn word.toNat = .wfi → gives i (q.go p)) ∧
      (∀ cause, sclTrap word.toNat = some cause → stops i cause)) ∧
    (∀ p, q.wait = .flush p → s.dev.ctxHeld c x = 0 → s.dev.pwr.tripped = false →
      ∃ w : Dev, exec (.flushDone c x) s = .next (s.ends w) ∧ w.ctx c x = q.go p) ∧
    (∀ v : W32, ∃ w : Dev, exec (.clrCount c v) s = .next (s.ends w) ∧ (bit v.toNat 16 = true → (w.core c).corrCount = 0) ∧
      (w.core c).spadParity = ((s.dev.core c).spadParity && !bit v.toNat 0) ∧ (w.core c).accParity = ((s.dev.core c).accParity && !bit v.toNat 1) ∧
      (w.core c).l1Lost = ((s.dev.core c).l1Lost && !bit v.toNat 2) ∧ (w.core c).corr = ((s.dev.core c).corr && !bit v.toNat 3))


/-! ### The stacks, their maps and the regions (09, 12, 13) -/

/-- SE_FILL, SE_COPY, SE_REDUCE, SE_DIGEST, SE_STAT (Table 12.8; R434 to R436, R438). -/
def Obligations.SeOperationsComplete : Prop :=
  ∀ (j : StackId) (s : State) (ws : List W64), let k := 146 + j.val
    let o := decSe ws
    let len := o.n * elBytes o.ty
    let fine : List (Nat × Nat) → Prop := fun es => s.dev.moult.active = false ∧ s.dev.moult.held = [] ∧ s.dev.hbm.busy = false ∧
      ∀ e ∈ es, 0 < e.2 → s.dev.pathAt e.1 e.2 = none ∧ s.dev.queueFull e.1 e.2 = false
    let inFlight : Dev → Prop := fun w => ∃ f ∈ (w.strm k).flights, f.idx = (s.dev.strm k).next ∧ f.words = ws ∧ f.wait = .none ∧ f.srcDone = true
    (∀ x ∈ [(Instr.seFill j, 0x10), (.seCopy j, 0x11), (.seReduce j, 0x12), (.seDigest j, 0x13), (.seStat j, 0x14)],
      s.dev.startable k x.2 = some ws → o.n = 0 →
      ∃ w : Dev, exec x.1 s = .next (s.ends (w.nextHead k)) ∧ w.hbm = s.dev.hbm ∧ inFlight w) ∧
    (∀ x ∈ [(Instr.seFill j, 0x10, o.dst.toNat, fillBytes o.aux o.dst.toNat o.n, [(o.dst.toNat, o.n)]),
        (.seCopy j, 0x11, o.dst.toNat, s.dev.stk8 o.src.toNat o.n, [(o.src.toNat, o.n), (o.dst.toNat, o.n)]),
        (.seDigest j, 0x13, o.aux.toNat, digestBytes o (s.dev.stk8 o.src.toNat o.n), [(o.src.toNat, o.n), (o.aux.toNat, 32 * o.chunks + 32 * b2n o.flag)])],
      s.dev.startable k x.2.1 = some ws → o.n ≠ 0 → fine x.2.2.2.2 → let a := x.2.2.1
      let bs := x.2.2.2.1
      ∃ w : Dev, exec x.1 s = .next (s.ends (w.nextHead k)) ∧ w.stk8 a bs.length = bs ∧
        (∀ b, (b < a ∨ a + bs.length ≤ b) → mget w.hbm.mem b = mget s.dev.hbm.mem b) ∧ inFlight w) ∧
    (s.dev.startable k 0x12 = some ws → o.n ≠ 0 → fine (redTouch false ws) → let a := o.dst.toNat
      let r := o.statrec.toNat
      (o.statEn = true → r + 64 ≤ a ∨ a + len ≤ r) →
      ∃ w : Dev, exec (.seReduce j) s = .next (s.ends (w.nextHead k)) ∧ w.stk8 a len = s.dev.reduced o ∧
        (o.statEn = true → w.recWords r 8 = mergeStats (s.dev.recWords r 8) (plainStats (elNums o.ty o.n (s.dev.reduced o)))) ∧
        (∀ b, (b < a ∨ a + len ≤ b) → (o.statEn = true → b < r ∨ r + 64 ≤ b) → mget w.hbm.mem b = mget s.dev.hbm.mem b) ∧ inFlight w) ∧
    (s.dev.startable k 0x14 = some ws → o.n ≠ 0 → let r := o.statrec.toNat
      fine [(o.src.toNat, len), (r, 64), (o.aux.toNat, 128)] →
      ∃ w : Dev, exec (.seStat j) s = .next (s.ends (w.nextHead k)) ∧
        w.recWords r 8 = mergeStats (s.dev.recWords r 8) (seStats (s.dev.scaleRec o.aux.toNat) (elNums o.ty o.n (s.dev.stk8 o.src.toNat len))) ∧
        (∀ b, (b < r ∨ r + 64 ≤ b) → mget w.hbm.mem b = mget s.dev.hbm.mem b) ∧ inFlight w)

/-- UPD_ADAMW, UPD_LION, UPD_SGDM, UPD_MICRO, UPD_WCOPY and UPD_REDNORM (R446 to R460, R464). -/
def Obligations.UpdateEntriesComplete : Prop :=
  ∀ (j : StackId) (s : State) (ws : List W64), let v := s.dev
    let k := 146 + j.val
    let o := decUpd ws
    let idx := (v.strm k).next
    let rs := v.recWords o.wcrec 8
    let hw := v.recWords o.hyper 8
    let f0 : Flight := { idx := idx, words := ws, step := fld (wd hw 5) 31 0, recs := hw ++ rs }
    let fw : Flight := { idx := idx, words := ws, step := v.draw.1.toNat % 2 ^ 32, recs := List.replicate 8 0#64 ++ rs }
    let inFlight : Dev → Prop := fun w => ∃ f ∈ (w.strm k).flights, f.idx = idx ∧ f.words = ws ∧ f.wait = .none ∧ f.srcDone = true
    v.moult.active = false → v.moult.held = [] → v.hbm.busy = false → (∀ a n, v.queueFull a n = false) →
    (∀ x ∈ [(Instr.updAdamw j, 0x20), (.updLion j, 0x21), (.updSgdm j, 0x22), (.updMicro j, 0x23), (.updWcopy j, 0x25)],
      v.startable k x.2 = some ws → o.ngrp = 0 → ∃ w : Dev, exec x.1 s = .next (s.ends (w.nextHead k)) ∧ w.hbm = v.hbm ∧ inFlight w) ∧
    (∀ (code : List Byte), ∀ x ∈ [(Instr.updAdamw j, 0x20, v, f0), (.updLion j, 0x21, v, f0), (.updSgdm j, 0x22, v, f0),
        (.updMicro j, 0x23, (v.updCode k (decHyper hw)).2, { f0 with recs := f0.recs ++ bytesToWords 32 code }), (.updWcopy j, 0x25, v.draw.2, fw)],
      let op := x.2.1
      let u := x.2.2.1
      let f := x.2.2.2
      let q := v.vslot o.vrec o.vslot
      v.startable k op = some ws → o.ngrp ≠ 0 → (∀ e ∈ updRecs op o, v.pathAt e.1 e.2 = none) →
      (op = 0x23 → (v.updCode k (decHyper hw)).1 = .ok code ∧ ucodeBad (ucodeOf (bytesToWords 32 code)) = false) →
      (op ≠ 0x25 → o.clip = true → isPosNormal (decHyper hw).maxnorm = true) →
      (op ≠ 0x25 → o.clip = true → clipFactor (decHyper hw) = none →
        ∃ w : Dev, exec x.1 s = .next (s.ends (w.nextHead k)) ∧ w.hbm.mem = v.hbm.mem ∧ (w.stk j).skipSeen = true ∧
          (w.stk j).skipped = satAdd (v.stk j).skipped 1 65535 ∧ inFlight w) ∧
      ((op ≠ 0x25 → o.clip = true → clipFactor (decHyper hw) ≠ none) →
        (o.vfEn = false → (∀ e ∈ updTouch op o (decScaleRec rs), e.2 ≠ 0 → v.pathAt e.1 e.2 = none) →
          ∃ w : Dev, exec x.1 s = .next (s.ends (w.nextHead k)) ∧
            w.hbm.mem = ((u.forAll (updTouch op o (decScaleRec rs)) (fun y e => y.softErrs e.1 e.2)).updTasks k f).hbm.mem ∧ inFlight w) ∧
        (o.vfEn = true → q.state ≠ 2 → q.state ≠ 3 → (∀ i < 8, ∀ g ∈ (v.strm (146 + i)).flights, g.wait ≠ .version) →
          (q.readers ≠ 0 → ∃ w : Dev, exec x.1 s = .next (s.ends (w.nextHead k)) ∧ w.vslot o.vrec o.vslot = { q with state := 2 } ∧
            (w.stk j).holds = satAdd (v.stk j).holds 1 65535 ∧
            (∀ b, (b < o.vrec + 8 * o.vslot ∨ o.vrec + 8 * o.vslot + 8 ≤ b) → mget w.hbm.mem b = mget v.hbm.mem b) ∧
            ∃ g ∈ (w.strm k).flights, g.idx = idx ∧ g.words = ws ∧ g.wait = .version) ∧
          (q.readers = 0 → (∀ e ∈ updTouch op o (decScaleRec rs), e.2 ≠ 0 → v.pathAt e.1 e.2 = none) →
            ∃ w : Dev, exec x.1 s = .next (s.ends (w.nextHead k)) ∧ inFlight w)))) ∧
    (v.startable k 0x24 = some ws → let p := decSe ws
      let len := p.n * 4
      let a := p.dst.toNat
      let x := p.aux.toNat
      let r := p.statrec.toNat
      (p.n = 0 → v.pathAt x 8 = none → ∃ w : Dev, exec (.updRednorm j) s = .next (s.ends (w.nextHead k)) ∧ w.stk8 x 8 = List.replicate 8 0#8 ∧
        (∀ b, (b < x ∨ x + 8 ≤ b) → mget w.hbm.mem b = mget v.hbm.mem b) ∧ inFlight w) ∧
      (p.n ≠ 0 → p.ty = 0 → (∀ e ∈ redTouch true ws, 0 < e.2 → v.pathAt e.1 e.2 = none) → (x + 8 ≤ a ∨ a + len ≤ x) →
        (p.statEn = true → (r + 64 ≤ a ∨ a + len ≤ r) ∧ (r + 64 ≤ x ∨ x + 8 ≤ r)) →
        ∃ w : Dev, exec (.updRednorm j) s = .next (s.ends (w.nextHead k)) ∧ w.stk8 a len = v.reduced p ∧
          w.stk8 x 8 = toBytes (fp64.enc (normPartial (elNums 0 p.n (v.reduced p)))) 8 ∧
          (p.statEn = true → w.recWords r 8 = mergeStats (v.recWords r 8) (plainStats (elNums 0 p.n (v.reduced p)))) ∧ inFlight w))

/-- The group of 64 elements of an update entry (R444, R450, R451, R455, R458). -/
def Obligations.UpdateGroupResults : Prop :=
  ∀ (v : Dev) (st idx op : Nat) (o : UpdOps) (h : Hyper) (c : Machine.Num) (prog : List Nat) (r : ScaleRec) (g : Nat),
    let w := (v.updGroup st idx op o h c prog r g).1
    let pa := o.master + 256 * g
    let ma := o.mom1 + 256 * g
    let va := o.mom2 + 256 * g
    let two : Prop := op = 0x20 ∨ op = 0x23
    let e : Nat → Elem := fun i => updElem op prog h c (dec32 ((v.grp (o.grad + 256 * g) 32).getD i 0))
      { p := dec32 ((v.grp pa 32).getD i 0), m := dec32 ((v.grp ma 32).getD i 0), v := if op = 0x20 ∨ op = 0x23 then dec32 ((v.grp va 32).getD i 0) else .zero }
    let cut : List Nat → List Nat := fun xs => xs.map (fun x => x % 2 ^ 32)
    v.moult.active = false → v.hbm.busy = false → o.compact = false →
    (op ≠ 0x25 → o.wcEn = false → (pa + 256 ≤ ma ∨ ma + 256 ≤ pa) →
      (two → (pa + 256 ≤ va ∨ va + 256 ≤ pa) ∧ (ma + 256 ≤ va ∨ va + 256 ≤ ma)) →
      w.grp pa 32 = cut ((List.range 64).map (fun i => enc32 (e i).p)) ∧ w.grp ma 32 = cut ((List.range 64).map (fun i => enc32 (e i).m)) ∧
      (two → w.grp va 32 = cut ((List.range 64).map (fun i => enc32 (e i).v))) ∧
      ∀ b, (b < pa ∨ pa + 256 ≤ b) → (b < ma ∨ ma + 256 ≤ b) → (two → b < va ∨ va + 256 ≤ b) → mget w.hbm.mem b = mget v.hbm.mem b) ∧
    (op = 0x25 → o.wcEn = true → o.wcSr = false → r.scheme = 0 → fmtBits r.fmt ≠ 0 → let n := fmtBits r.fmt
      let a := o.wcopy + 8 * n * g
      w.grp a n = (quantBlock r.fmt 0 false (dec32 r.tUsed) ((List.range 64).map (fun i => fp32.decode (fp32.enc (dec32 ((v.grp pa 32).getD i 0)))))
        (List.replicate 64 none)).codes.map (fun x => x % 2 ^ n) ∧
      ∀ b, (b < a ∨ a + 8 * n ≤ b) → mget w.hbm.mem b = mget v.hbm.mem b)

/-- VERSION_ACQ, VERSION_REL (R462, R463), ATOMIC_WRITE (R427 to R430), ENGINE_TASK (R426), RGN_ATTR_WRITE (R314), BRIDGE_TRANSFER (R157). -/
def Obligations.TasksAndRegionsComplete : Prop :=
  ∀ (d : DieId) (s : State), let v := s.dev
    (∀ (a : W64) (data : List Byte) (x : Nat), let n := ofBytes data
      let q := v.vslot x (n % 4)
      let bad := decide (q.tag ≠ n / 2 ^ 32) || decide (q.state ≠ 1)
      ∀ y ∈ [(Instr.versionAcq d a data, 1, satAdd q.readers 1 65535, decide (q.readers = 65535)), (.versionRel d a data, 2, q.readers - 1, decide (q.readers = 0))],
      placeOf a.toNat = .version x → x % 64 = 0 → data.length = 8 → bits n 3 2 = y.2.1 → bits n 31 4 = 0 →
      v.permits d a.toNat 8 true false = true → v.pathAt x 64 = none → v.moult.active = false → v.hbm.busy = false → v.queueFull x 64 = false →
      ∃ u : Dev, exec y.1 s = .next (s.ends (u.releaseHeld)) ∧
        u.vslot x (n % 4) = { q with readers := y.2.2.1, mismatch := q.mismatch || bad, misuse := q.misuse || y.2.2.2 } ∧
        ∀ b, (b < x ∨ x + 64 ≤ b) → mget u.hbm.mem b = mget v.hbm.mem b) ∧
    (∀ (req : Requester) (a : W64) (data : List Byte) (op off ty o : Nat), placeOf a.toNat = .atomic op off → ownRequester req = true →
      v.permits d a.toNat data.length true false = true → atomicGood op off data.length = true → atomicKind op = some (ty, o) →
      v.pathAt off data.length = none → v.moult.stale (off / 65536) = false → v.hbm.busy = false → v.queueFull off data.length = false →
      ∃ w : Dev, exec (.atomicWrite d req a data) s = .next (s.ends w) ∧
        w.stk8 off data.length = elZip ty o (data.length / elBytes ty) (v.stk8 off data.length) data ∧
        ∀ b, (b < off ∨ off + data.length ≤ b) → mget w.hbm.mem b = mget v.hbm.mem b) ∧
    (∀ (ch : ChanId) (t : EngTask), taskGood t = true → taskDst t < stackEnd → v.hbm.chanOf (taskDst t) = ch.val →
      (v.slots ch < 64 → (∀ e ∈ taskSpans t, v.pathAt e.1 e.2 = none) →
        (v.mustHold t = false → ∃ u : Dev, exec (.engineTask ch t) s = .next (s.ends (u.releaseHeld)) ∧ u.hbm.mem = (v.applyTask t).hbm.mem ∧
          u.moult.held = v.moult.held ∧ (u.chan ch).queue = (v.chan ch).queue ++ (if (v.chan ch).retraining then [t] else [])) ∧
        (v.mustHold t = true → ∃ u : Dev, exec (.engineTask ch t) s = .next (s.ends (u.releaseHeld)) ∧ u.hbm.mem = v.hbm.mem ∧
          u.moult.held = v.moult.held ++ [{ task := t, req := 48 + ch.val / 32, owner := none }])) ∧
      (64 ≤ v.slots ch → exec (.engineTask ch t) s = .next s)) ∧
    (∀ (n : Fin 256) (x : W32), let k := d.val * 256 + n.val
      let old := v.rgnE k
      let new : Rgn := { old with attr := w32 (bits x.toNat 12 0) }
      ∃ w : Dev, exec (.rgnAttrWrite d n x) s = .next (s.ends w) ∧ (∀ i, i ≠ k → w.rgnE i = v.rgnE i) ∧ (w.rgnE k).base = old.base ∧
        (old.en = true → new.size ≠ old.size ∨ new.track ≠ old.track → w.rgnE k = old ∧ w.rgnSt d = { err := 5, errEntry := n, errValid := true }) ∧
        (old.en = false → new.en = true →
          (∀ c, v.rgnCheck d n old.base new.attr = some c → (w.rgnE k).en = false ∧ w.rgnSt d = { err := c, errEntry := n, errValid := true }) ∧
          (v.rgnCheck d n old.base new.attr = none → w.rgnE k = new ∧ w.rgnSt d = v.rgnSt d)) ∧
        ((old.en = true → new.size = old.size ∧ new.track = old.track) → (old.en = true ∨ new.en = false) → w.rgnE k = new ∧ w.rgnSt d = v.rgnSt d)) ∧
    (∀ (unit : Option StreamId), let j := bridgeKey (unit.map (fun k => k.val))
      let fails : Dev → Nat → Nat := fun w i => tget 0 (w.fabD d).bridgeFails i
      (∃ w : Dev, exec (.bridgeTransfer d unit false) s = .next (s.ends w) ∧ fails w j = 0 ∧ ∀ i, i ≠ j → fails w i = fails v i) ∧
      (∃ w : Dev, exec (.bridgeTransfer d unit true) s = .next (s.ends w) ∧ (∀ i, i ≠ j → fails w i = fails v i) ∧
        (fails v j < 8 → fails w j = fails v j + 1 ∧ w.flt d = v.flt d) ∧
        (8 ≤ fails v j → fails w j = 0 ∧ ((v.flt d).valid = false → (v.flt d).capturing = false →
          (w.flt d).capturing = true ∧ (w.flt d).cause = 0x43 ∧ (w.flt d).hasStream = false))))

/-- Maintenance and the map (R409 to R415, R440, R441). -/
def Obligations.MaintenanceComplete : Prop :=
  ∀ (s : State), let v := s.dev
    (∀ d : DieId, ∃ w : Dev, exec (.refreshWindow d) s = .next (s.ends w) ∧
      (v.windowed = true → v.inRefresh = true → ∀ c : ChanId, c.val / 128 = d.val → (w.chan c).deferred = 0) ∧
      (v.windowed = false ∨ v.inRefresh = false → w = v)) ∧
    (∀ ch : ChanId, ∃ w : Dev, exec (.refreshDue ch) s = .next (s.ends w) ∧
      (v.windowed = true → v.inRefresh = false → (v.chan ch).deferred = 0 → (w.chan ch).deferred = 1) ∧
      (v.windowed = false ∨ v.inRefresh = true → w = v)) ∧
    (∀ d : DieId, ∃ w : Dev, exec (.retrainWindow d) s = .next (s.ends w) ∧
      (v.windowed = true → v.inRetrain = true → v.ft.now % 4096 = v.hbm.trnOffset →
        ∀ c : ChanId, c.val / 128 = d.val → v.chanLive c = true → (w.chan c).retraining = true) ∧
      (v.windowed = false ∨ v.inRetrain = false ∨ v.ft.now % 4096 ≠ v.hbm.trnOffset → w = v)) ∧
    (∀ (ch : ChanId) (cause : RetrainCause), v.chanLive ch = true → ∃ t : State, exec (.unscheduledRetrain ch cause) s = .next t ∧ t.pending = s.pending ∧
      (cause = .drift ∨ (cause = .due ∧ (v.windowed = false ∨ v.inRetrain = false)) ∨
        (∃ isCa g l why, cause = .lane isCa g l why ∧ laneFailing why = true ∧ ((v.chan ch).spare isCa g).isSome = true) →
        (t.dev.chan ch).retraining = true ∧ (t.dev.chan ch).retrains = satAdd (v.chan ch).retrains 1 255) ∧
      (cause = .due → v.windowed = true → v.inRetrain = true → t = s) ∧
      (∀ isCa g l why, cause = .lane isCa g l why → laneFailing why = false → t = s) ∧
      (∀ isCa g l why, cause = .lane isCa g l why → laneFailing why = true → (v.chan ch).spare isCa g = none →
        (t.dev.chan ch).retirePending = true ∧ t.mgmt = s.mgmt)) ∧
    (∀ (ch : ChanId) (ok : Bool), (v.chan ch).retraining = true → ∃ w : Dev, exec (.retrainEnd ch ok) s = .next (s.ends w) ∧
      (w.chan ch).retraining = false ∧ (w.chan ch).queue = [] ∧ (w.chan ch).trained = ok ∧ (w.chan ch).failed = ((v.chan ch).failed || !ok)) ∧
    (∀ x : W32, let m := bits x.toNat 0 0
      ∃ w : Dev, exec (.hbmMapCfgWrite x) s = .next (s.ends w) ∧
        (v.mapQuiet = false → w.hbm.refused = true ∧ w.hbm.mode = v.hbm.mode ∧ w.hbm.mem = v.hbm.mem) ∧
        (v.mapQuiet = true → m ≠ v.hbm.mode → w.hbm.mode = m ∧ w.hbm.busy = true ∧ ∀ a, mget w.hbm.mem a = 0#8) ∧
        (v.mapQuiet = true → m = v.hbm.mode → w = v)) ∧
    (exec .mapRebuildDone s = .next (s.ends
      (((v.modHbm (fun h => { h with busy := false, waiting := [] })).releaseWrites).forAll v.hbm.waiting Dev.readNow))) ∧
    (v.noneHeld → v.moult.held = [] → v.hbm.waiting = [] →
      exec .mapRebuildDone s = .next (s.ends (v.modHbm (fun h => { h with busy := false, waiting := [] })))) ∧
    (∀ x : W64, ∃ w : Dev, exec (.hbmMaintWrite x) s = .next (s.ends w) ∧ w.hbm.maint = v.hbm.maint ∧
      (maintBad x = true → w = v) ∧ (maintBad x = false → w.hbm.maintWritten = x &&& 0xFFFFFFFFFF#64))

/-! ### The fabric and the collective engines (14) -/

/-- WRITE, READ, CHUNK_DATA, CHUNK_DONE (R483, R490, R498). -/
def Obligations.FabricRequestsComplete : Prop :=
  ∀ (d : DieId) (port : Port) (p : Packet) (s : State), let v := s.dev
    let a := pOff p
    let e := pSdie p
    let i := pLid p % 1024
    let l := v.land e i
    let res := (v.routeFor d (pSchip p) (pSunit p) (pOff p)).1
    v.portOpen d port p = true →
    (∀ x ∈ [(Instr.write d port p, 0), (.read d port p, 1), (.chunkData d port p, 5), (.chunkDone d port p, 6)], packetGood x.2 p = true →
      v.inbound d port p ≠ .ok → ∃ w : Dev, exec x.1 s = .next (s.ends w) ∧ w.hbm = v.hbm ∧ w.cores = v.cores ∧
        (v.inbound d port p = .misrouted → (w.fabD d).misrouted = true) ∧ (v.inbound d port p = .denied → (w.fabD d).inboundDenied = true)) ∧
    (v.inbound d port p = .ok →
      (packetGood 0 p = true → placeOf a = .stack a → v.permits d a p.data.length true true = true → p.data ≠ [] → v.pathAt a p.data.length = none →
        v.moult.active = false → v.moult.held = [] → v.hbm.busy = false →
        ∃ u : Dev, exec (.write d port p) s = .next (s.ends (u.releaseHeld)) ∧ u.stk8 a p.data.length = p.data ∧
          (∀ b, (b < a ∨ a + p.data.length ≤ b) → mget u.hbm.mem b = mget v.hbm.mem b) ∧
          (∀ n, pSchip p ≠ v.chip → res = .link n → u.out = v.out ++ [.packet (linkPort n) (mkPacket 3 (pSchip p) v.chip d 0 (pSunit p) (pId p) (pOff p) 0 [])])) ∧
      (packetGood 1 p = true → placeOf a = .stack a → v.permits d a (pLen p) false true = true → 0 < pLen p → v.pathAt a (pLen p) = none →
        v.hbm.busy = false → ∃ w : Dev, exec (.read d port p) s = .next (s.ends w) ∧ w.hbm.mem = v.hbm.mem ∧
          (∀ n, res = .link n → w.out = v.out ++ [.packet (linkPort n)
            (mkPacket 2 (pSchip p) v.chip d (pLen p) (pSunit p) (pId p) (pOff p) 0 (v.stkSeen a (pLen p)))])) ∧
      (packetGood 5 p = true → l.judge (pCtag p) = .mine → placeOf a = .stack a → v.permits d a p.data.length true true = true → p.data ≠ [] →
        v.pathAt a p.data.length = none → v.moult.active = false → v.moult.held = [] → v.hbm.busy = false →
        ∃ u : Dev, exec (.chunkData d port p) s = .next (s.ends (u.releaseHeld)) ∧ u.stk8 a p.data.length = p.data ∧
          (∀ b, (b < a ∨ a + p.data.length ≤ b) → mget u.hbm.mem b = mget v.hbm.mem b) ∧
          (u.land e i).used = true ∧ (u.land e i).ctag = pCtag p ∧ (u.land e i).got = (l.adopt (pCtag p)).got + p.data.length) ∧
      (packetGood 5 p = true → l.judge (pCtag p) = .stray →
        ∃ w : Dev, exec (.chunkData d port p) s = .next (s.ends w) ∧ w.hbm = v.hbm ∧ w.land e i = l ∧
          (w.fabD e).lateDiscards = satAdd (v.fabD e).lateDiscards 1 4095) ∧
      (packetGood 6 p = true → l.judge (pCtag p) = .mine → let n := ofBytes p.data
        ∃ w : Dev, exec (.chunkDone d port p) s = .next (s.ends w) ∧ w.hbm = v.hbm ∧
          (w.land e i).ctag = pCtag p ∧ (w.land e i).announced = some (bits n 39 0) ∧ (w.land e i).cc = bits n 55 40 ∧
          (w.land e i).cfmt = bits n 66 64 ∧ (w.land e i).sat = bits n 95 80 ∧ (w.land e i).got = (l.adopt (pCtag p)).got ∧
          (w.land e i).complete = decide (bits n 39 0 = (l.adopt (pCtag p)).got)))

/-- READ_DATA, WACK, ERROR, ACK_TIMEOUT (R483, R484, R508, R532). -/
def Obligations.FabricResponsesComplete : Prop :=
  ∀ (d : DieId) (port : Port) (p : Packet) (s : State), let v := s.dev
    let gone : Dev → Nat → Req → Prop := fun w e r => (w.fabD e).reqs = (v.fabD e).reqs.erase r
    (v.portOpen d port p = true → v.inbound d port p = .ok →
      (∀ (e : Nat) (r : Req), packetGood 2 p = true → v.match? d p (fun r => !r.write && decide (r.len = p.data.length)) = some (e, r) →
        exec (.readData d port p) s = .next (s.ends ((v.dropReq e r).answered r p.data).releaseHeld) ∧
        ((v.fabD e).relink = false →
        (∀ c n off piece, r.purpose = .dmaRead c n off piece → ∃ w : Dev, exec (.readData d port p) s = .next (s.ends w.releaseHeld) ∧ gone w e r ∧
          ∀ b ∈ (v.dmaCh c n).bursts, b.off = off → b.remote = true → b.got = none → 0 < b.waiting →
            { b with waiting := b.waiting - 1, pieces := b.pieces ++ [(piece, p.data)] } ∈ (w.dmaCh c n).bursts) ∧
        (∀ c n k, r.purpose = .sealRead c n k → (v.dmaCh c n).sealAsked = true → ∃ w : Dev, exec (.readData d port p) s = .next (s.ends w.releaseHeld) ∧
          gone w e r ∧ (w.dmaCh c n).sealAns = some p.data ∧ (w.dmaCh c n).sealAsked = false) ∧
        (∀ c x a size uns rd by_ nx, r.purpose = .sclLoad c x → (v.ctx c x).wait = .load a size uns rd by_ nx →
          ∃ w : Dev, exec (.readData d port p) s = .next (s.ends w.releaseHeld) ∧ gone w e r ∧
            w.ctx c x = ((v.ctx c x).setReg rd (extLoad p.data size uns)).go nx))) ∧
      (∀ (e : Nat) (r : Req), packetGood 3 p = true → v.match? d p (fun r => r.write) = some (e, r) →
        exec (.wack d port p) s = .next (s.ends ((v.dropReq e r).acked r).releaseHeld) ∧
        ((v.fabD e).relink = false →
        (∀ c n off len, r.purpose = .dmaWrite c n off len → ∃ u : Dev, exec (.wack d port p) s = .next (s.ends (u.dmaPush c n).releaseHeld) ∧ gone u e r ∧
          (u.dmaCh c n).acks = (v.dmaCh c n).acks.erase (off, len)) ∧
        (∀ c x pc, r.purpose = .sclStore c x pc → ∃ w : Dev, exec (.wack d port p) s = .next (s.ends w.releaseHeld) ∧ gone w e r ∧
          (w.ctx c x).posted = (v.ctx c x).posted - 1) ∧
        (∀ c n, r.purpose = .chunk c n → ∃ w : Dev, exec (.wack d port p) s = .next (s.ends w.releaseHeld) ∧ gone w e r ∧
          (w.fabD e).ceLost = (v.fabD e).ceLost))) ∧
      (∀ (e : Nat) (r : Req), packetGood 4 p = true → v.match? d p (fun _ => true) = some (e, r) →
        exec (.error d port p) s = .next (s.ends ((v.dropReq e r).refusedReq r).releaseHeld) ∧
        ((v.fabD e).relink = false →
        (∀ c x a size uns rd by_ nx, r.purpose = .sclLoad c x → (v.ctx c x).wait = .load a size uns rd by_ nx →
          ∃ w : Dev, exec (.error d port p) s = .next (s.ends w.releaseHeld) ∧ gone w e r ∧ (w.ctx c x).state = .faulted ∧ (w.ctx c x).cause = 5) ∧
        (∀ c x pc, r.purpose = .sclStore c x pc → (v.ctx c x).busy = true →
          ∃ w : Dev, exec (.error d port p) s = .next (s.ends w.releaseHeld) ∧ gone w e r ∧ (w.ctx c x).state = .faulted ∧ (w.ctx c x).cause = 7 ∧
            (w.ctx c x).pc = pc) ∧
        (∀ c n off piece, r.purpose = .dmaRead c n off piece → (v.core c).dma.stopped = false →
          (∃ b ∈ (v.dmaCh c n).bursts, b.off = off ∧ b.bad = 0 ∧ b.got = none) →
          ∃ u : Dev, exec (.error d port p) s = .next (s.ends ((u.dmaError c n 3 (w64 (2 ^ 62 + r.chip * 2 ^ 48 + r.off))).dmaPush c n).releaseHeld) ∧
            gone u e r ∧ (u.core c).dma.stopped = false) ∧
        (∀ c n, r.purpose = .chunk c n → ∃ w : Dev, exec (.error d port p) s = .next (s.ends w.releaseHeld) ∧ gone w e r)))) ∧
    (∀ (i : Nat) (r : Req), v.ft.frozen = false → (v.fabD d).reqs[i]? = some r →
      (∃ u : Dev, exec (.ackTimeout d i) s = .next (s.ends (u.refusedReq r).releaseHeld) ∧ (u.fabD d).timeout = true ∧
        ((v.fabD d).relink = false → gone u d r ∧ (∀ c n, r.purpose = .chunk c n → (u.fabD d).ceLost = (v.fabD d).ceLost ++ [(n, r.chip)]))) ∧
      (∀ c x a size uns rd by_ nx, r.purpose = .sclLoad c x → (v.ctx c x).wait = .load a size uns rd by_ nx → (v.fabD d).relink = false →
        ∃ w : Dev, exec (.ackTimeout d i) s = .next (s.ends w.releaseHeld) ∧ gone w d r ∧ (w.fabD d).timeout = true ∧
          (w.ctx c x).state = .faulted ∧ (w.ctx c x).cause = 5)) ∧
    (v.ft.frozen = true → ∀ i, exec (.ackTimeout d i) s = .next s)

/-- CE_SEND, CE_RECV, CE_TOLERATED, CE_NORM, CE_FENCE (R500 to R508). -/
def Obligations.CollectivesComplete : Prop :=
  ∀ (d : DieId) (s : State) (ws : List W64) (f : Flight), let v := s.dev
    let k := 144 + d.val
    let idx := (v.strm k).next
    let inFlight : Dev → Prop := fun w => ∃ g ∈ (w.strm k).flights, g.idx = idx ∧ g.words = ws ∧ g.wait = .none ∧ g.srcDone = true
    let ended : Dev → Prop := fun w => ∃ g ∈ (w.strm k).flights, g.idx = f.idx ∧ g.wait = .none
    let same : Dev → List (Nat × Nat) → Prop := fun w es => ∀ b, (∀ e ∈ es, b < e.1 ∨ e.1 + e.2 ≤ b) → mget w.hbm.mem b = mget v.hbm.mem b
    (v.startable k 0x10 = some ws → let o := decCe ws
      let chip := fld o.b 61 48
      let es := [(o.a, o.count * ceBytes o.ty, false)] ++ (if o.ccFrom then [(w64 o.ccaddr, 8, false)] else [])
      let c := compress o (v.ceRead d o.a (o.count * ceBytes o.ty))
      let ps := cePackets o (if o.ccFrom then ofBytes (v.ceRead d (w64 o.ccaddr) 8) % 65536 else o.ccImm) c.1 c.2.1 c.2.2
      v.ceHeld es = false → v.ceMeets d es = none → (chip ≠ v.chip → (v.fabD d).relink = false) →
      (∀ u : Dev, v.ceSendAll d chip o.lid o.tag ps = (none, u) →
        ∃ w : Dev, exec (.ceSend d) s = .next (s.ends (w.nextHead k)) ∧ w.fab = u.fab ∧ w.out = u.out ∧ w.hbm = u.hbm ∧ inFlight w) ∧
      (chip ≠ v.chip → bit (v.route d chip).toNat 0 = true → bit (v.route d chip).toNat 1 = true →
        ∃ w : Dev, exec (.ceSend d) s = .next (s.ends (w.nextHead k)) ∧ w.hbm = v.hbm ∧ (w.fabD d).ceSent = (v.fabD d).ceSent + ps.length ∧
          w.out = v.out ++ ps.map (fun y => .packet .gateway (mkPacket y.1 chip v.chip d y.2.2.length 128 o.lid y.2.1 o.tag y.2.2)) ∧ inFlight w)) ∧
    (v.ceWaiting d = none → v.startable k 0x11 = some ws → v.slotReady d ws = false →
      ∃ w : Dev, exec (.ceRecv d) s = .next (s.ends (w.nextHead k)) ∧ w.hbm = v.hbm ∧
        ∃ g ∈ (w.strm k).flights, g.idx = idx ∧ g.words = ws ∧ g.wait = .recv) ∧
    (v.ceWaiting d = some f → let o := decCe f.words
      let l := v.land d o.lid
      let n := o.count * ceBytes o.ty
      let a := o.a.toNat
      v.moult.active = false → v.hbm.busy = false → o.statEn = false → o.ccaddr + 8 ≤ stackEnd →
      (v.slotReady d f.words = true → l.cfmt = o.cfmt → l.announced = some (ceSent o) → v.ceHeld (recvTouch o true) = false →
        v.ceMeets d (recvTouch o true) = none → a + n ≤ stackEnd → (a + n ≤ o.ccaddr ∨ o.ccaddr + 8 ≤ a) →
        let cc := satAdd (v.ccLoc d o) l.cc 65535
        let rs := (List.range o.count).map (fun i =>
          ceResult o cc (ceCombine o ((if o.useSrc then v.ceSource d o else []).getD i 0) ((v.ceLanded d o).getD i 0)))
        ∃ w : Dev, exec (.ceRecv d) s = .next (s.ends w) ∧ w.stk8 a n = bytesOf (ceBytes o.ty) rs ∧ w.stk8 o.ccaddr 8 = toBytes cc 8 ∧
          same w [(a, n), (o.ccaddr, 8)] ∧ w.land d o.lid = l.free ∧ ended w) ∧
      (o.tol = true → v.slotReady d f.words = false → o.tolwait * 4096 ≤ f.tol → v.ceHeld (recvTouch o false) = false →
        v.ceMeets d (recvTouch o false) = none →
        ∃ w : Dev, exec (.ceTolerated d) s = .next (s.ends w) ∧ (w.land d o.lid).abandoned = true ∧ (w.land d o.lid).atag = o.tag ∧ (w.land d o.lid).atagValid = true ∧
          (w.fabD d).tolerated = satAdd (v.fabD d).tolerated 1 4095 ∧ ended w ∧
          (o.useSrc = false → same w [(o.ccaddr, 8)] ∧ w.stk8 o.ccaddr 8 = toBytes (v.ccLoc d o) 8))) ∧
    (v.startable k 0x12 = some ws → let o := decCe ws
      let n := o.count % 65536
      let a := o.a.toNat
      v.ceHeld [(o.b, 8 * n, false), (o.a, 8, true)] = false → v.ceMeets d [(o.b, 8 * n, false), (o.a, 8, true)] = none → v.moult.active = false → v.hbm.busy = false →
      a + 8 ≤ stackEnd → ∃ w : Dev, exec (.ceNorm d) s = .next (s.ends (w.nextHead k)) ∧
        w.stk8 a 8 = toBytes (fp64.enc (sum64 ((codesOf 8 n (v.ceRead d o.b (8 * n))).map fp64.decode))) 8 ∧ same w [(a, 8)] ∧ inFlight w) ∧
    ((v.strm k).flights.find? (fun g => decide (g.wait = .fence) && !g.withdrawn && !g.part) = none → v.startable k 0x13 = some ws →
      let n := (v.fabD d).ceSent
      (v.ceUnacked d n = true → ∃ w : Dev, exec (.ceFence d) s = .next (s.ends (w.nextHead k)) ∧
        ∃ g ∈ (w.strm k).flights, g.idx = idx ∧ g.words = ws ∧ g.wait = .fence ∧ g.step = n) ∧
      (v.ceUnacked d n = false → (v.fabD d).ceLost = [] → ∃ w : Dev, exec (.ceFence d) s = .next (s.ends (w.nextHead k)) ∧ inFlight w)) ∧
    ((v.strm k).flights.find? (fun g => decide (g.wait = .fence) && !g.withdrawn && !g.part) = some f → v.ceUnacked d f.step = false →
      (v.fabD d).ceLost = [] → ∃ w : Dev, exec (.ceFence d) s = .next (s.ends w) ∧ w.hbm = v.hbm ∧ ended w)

/-- LANE_FAIL, LINK_REPLAY, LNK_CTL_RETRAIN, LINK_RETRAIN_DONE, LNK_RXBUF_WRITE, LAND_CLR (R476 to R480, R499). -/
def Obligations.LinksComplete : Prop :=
  ∀ (l : LinkId) (s : State), let v := s.dev
    let k := v.linkN l
    (∀ lane : Fin 4, bit k.laneFailed lane = false → k.state = 2 → ∃ w : Dev, exec (.laneFail l lane) s = .next (s.ends w) ∧
      (w.linkN l).laneFailed = k.laneFailed + 2 ^ lane.val ∧ (2 < k.lanes → (w.linkN l).state = 2 ∧ (w.linkN l).lanes = k.lanes - 1) ∧
      (k.lanes ≤ 2 → (w.linkN l).state = 0 ∧ (w.linkN l).lanes = 0)) ∧
    (∀ bad good : Bool, k.state = 2 → ∃ w : Dev, exec (.linkReplay l bad good) s = .next (s.ends w) ∧
      (w.linkN l).retries = satAdd k.retries 1 max32 ∧ (w.linkN l).fecUncorr = satAdd k.fecUncorr (b2n bad) 65535 ∧
      (good = true → (w.linkN l).state = 2 ∧ (w.linkN l).replays = 0) ∧
      (good = false → k.replays < 31 → (w.linkN l).state = 2 ∧ (w.linkN l).replays = k.replays + 1) ∧
      (good = false → 31 ≤ k.replays → (w.linkN l).state = 0)) ∧
    (∀ x : W32, ∃ w : Dev, exec (.lnkCtlRetrain l x) s = .next (s.ends w) ∧ (w.linkN l).disable = bit x.toNat 1 ∧
      (bit x.toNat 1 = true → (w.linkN l).state = 0) ∧ (bit x.toNat 1 = false → bit x.toNat 0 = true → (w.linkN l).state = 1) ∧
      (bit x.toNat 1 = false → bit x.toNat 0 = false → (w.linkN l).state = k.state)) ∧
    (∀ (lanes : Fin 5) (t : Stamps), k.state = 1 → ∃ w : Dev, exec (.linkRetrainDone l lanes t) s = .next (s.ends w) ∧
      (2 ≤ lanes.val → (w.linkN l).state = 2 ∧ (w.linkN l).lanes = lanes ∧ (w.linkN l).delay = stampDelay t % 65536) ∧
      (lanes.val < 2 → (w.linkN l).state = 0)) ∧
    (∀ x : W64, ∃ w : Dev, exec (.lnkRxbufWrite l x) s = .next (s.ends w) ∧
      w.linkN l = { k with rxEn := fbit x 0, rxSize := fld x 5 1, rxBlk := fld x 10 6, rxBase := fld x 47 12 * 4096, bytes := 0 }) ∧
    (∀ (d : DieId) (x : W32), ∃ w : Dev, exec (.landClr d x) s = .next (s.ends w) ∧
      (bit x.toNat 0 = true → (v.strm (144 + d.val)).loaded = false → ∀ i, (w.land d i).used = false ∧ (w.land d i).complete = false ∧ (w.land d i).atagValid = false ∧
        (w.land d i).atag = (v.land d i).atag) ∧
      (bit x.toNat 0 = false ∨ (v.strm (144 + d.val)).loaded = true → w = v))

/-! ### Power (15) -/

/-- The power states' commands (R519 to R536, R551). -/
def Obligations.PowerStatesComplete : Prop :=
  ∀ (s : State), let v := s.dev
    (∀ d : DieId,
      (v.clocksRun = true →
        (∃ w : Dev, exec (.gust d) s = .next (s.ends w) ∧ tget 0 w.pwr.countGust d = satAdd (tget 0 v.pwr.countGust d) 1 max32) ∧
        (∃ w : Dev, exec (.pwrwarnDeassert d) s = .next (s.ends w) ∧ tget false w.pwr.warn d = false) ∧
        (s.mgmt.resetHold = false → ∃ t : State, exec (.pwrwarn d) s = .next t ∧ t.pending = s.pending ∧ t.mgmt = s.mgmt ∧ tget false t.dev.pwr.warn d = true)) ∧
      (v.clocksRun = false → exec (.gust d) s = .next s)) ∧
    (v.pwr.warned = true → v.clocksRun = true → v.pwr.starting = false →
      ∃ w : Dev, exec .pwrwarnHeld s = .next (s.ends w) ∧ w.pwr.squall = true ∧ w.pwr.warnHeld = true) ∧
    (∀ vin : Nat, v.squallable = true → vin < 4400 → ∃ w : Dev, exec (.squall vin) s = .next (s.ends w) ∧ w.pwr.squall = true ∧
      w.pwr.squallReq = v.pwr.squallLevel ∧ w.pwr.charging = false ∧ w.pwr.countSquall = satAdd v.pwr.countSquall 1 65535 ∧ w.pwr.vin = vin) ∧
    (v.pwr.squall = true → v.clocksRun = true →
      ((v.pwr.warnHeld && v.pwr.warned) = false → ∃ w : Dev, exec .squallExit s = .next (s.ends w) ∧ w.pwr.squall = false ∧ w.pwr.squallReq = 0) ∧
      ((v.pwr.warnHeld && v.pwr.warned) = true → exec .squallExit s = .next s)) ∧
    (∀ vin : Nat, lostInput vin = true → v.pwr.rails = true → v.pwr.starting = false → v.pwr.tripped = false →
      (v.pwr.exiting = false → v.pwr.chrysalis = false → ∃ w : Dev, exec (.chrysalisEntry vin) s = .next (s.ends w) ∧
        w.pwr.chrysalis = true ∧ w.pwr.onBank = true ∧ w.pwr.charging = false ∧ (∀ id, (w.ctr id).transit = 0) ∧
        (∀ k : StackId, (w.stk k).selfRefresh = true) ∧
        (v.ft.locked = true → v.ft.frozen = false → w.ft.frozen = true ∧ w.ft.now = v.ft.now ∧ (v.ft.tf = none → w.ft.tf = some v.ft.now) ∧
          (v.ft.masterActive = false → ∀ t, v.ft.tf = some t → w.ft.tf = some t))) ∧
      (v.pwr.exiting = true → ∃ w : Dev, exec (.chrysalisEntry vin) s = .next (s.ends w) ∧ w.pwr.exiting = false ∧ w.pwr.onBank = true ∧
        ∀ k : StackId, (w.stk k).selfRefresh = true)) ∧
    (∀ vin : Nat, (∃ w : Dev, exec (.powerDip vin) s = .next (s.ends w) ∧ w.pwr = { v.pwr with vin := vin % 65536 }) ∧
      (v.pwr.chrysalis = true → ∃ w : Dev, exec (.inputTakesLoad vin) s = .next (s.ends w) ∧ w.pwr.onBank = !goodInput vin) ∧
      (v.pwr.chrysalis = true → v.pwr.exiting = false → v.pwr.tripped = false → goodInput vin = true →
        ∃ w : Dev, exec (.chrysalisExit vin) s = .next (s.ends w) ∧ w.pwr.exiting = true ∧ w.pwr.onBank = false ∧
          ∀ k : StackId, (w.stk k).selfRefresh = false)) ∧
    (v.pwr.chrysalis = true → v.pwr.exiting = true → v.pwr.tripped = false →
      (v.pwr.tripSamples < 2 → ∃ w : Dev, exec .issueResume s = .next (s.ends w) ∧ w.pwr.chrysalis = false ∧ w.pwr.exiting = false ∧
        w.pwr.squall = false ∧ w.pwr.squallReq = 0 ∧ w.pwr.tripped = false) ∧
      (2 ≤ v.pwr.tripSamples → ∃ t : State, exec .issueResume s = .next t ∧ t.pending = s.pending ∧ t.dev.pwr.tripped = true)) ∧
    (∀ dur : Nat, v.pwr.energy = 0 → v.pwr.onBank = true → (v.pwr.chrysalis = true ∨ v.pwr.tripped = true) →
      ∃ t : State, exec (.rideThroughLost dur) s = .next t ∧ t.pending = s.pending ∧ t.dev.pwr.rails = false ∧ (∀ a, mget t.dev.hbm.mem a = 0#8) ∧
        (∃ e ∈ t.mgmt.log, e.code = 1 ∧ e.a0 = dur) ∧ (s.mgmt.aux = false → t.mgmt.running = false)) ∧
    (v.pwr.rails = true → ∃ t : State, exec .thermalCut125c s = .next t ∧ t.pending = s.pending ∧ t.dev.pwr.rails = false ∧ t.mgmt.bootStep = 0 ∧
      ∀ a, mget t.dev.hbm.mem a = 0#8)

/-- The power controls (R537 to R554). -/
def Obligations.PowerControlsComplete : Prop :=
  ∀ (s : State), let v := s.dev
    (∀ e : Nat, ∃ w : Dev, exec (.bankUpdate e) s = .next (s.ends w) ∧ w.pwr.energy = min e 30000 ∧ w.pwr.bankLow = decide (e < 24000)) ∧
    (∀ n : Nat, ∃ w : Dev, exec (.powerSample n) s = .next (s.ends w) ∧
      (3200 < n → v.pwr.rails = true → w.pwr = { v.pwr with fast := true }) ∧ (n ≤ 3200 → w = v)) ∧
    (∃ w : Dev, exec .fastLimiterExpiry s = .next (s.ends w) ∧ w.pwr = { v.pwr with fast := false }) ∧
    (∀ (proj pin pavg : Nat) (room quiet : Bool),
      (s.mgmt.running = false → exec (.capControlInstant proj pin pavg room quiet) s = .next s) ∧
      (s.mgmt.running = true → v.capRuns = true → let p := v.pwr.takeWrites
        ∃ w : Dev, exec (.capControlInstant proj pin pavg room quiet) s = .next (s.ends w) ∧
          w.pwr.hostCap = p.hostCap ∧ w.pwr.rackCap = p.rackCap ∧ w.pwr.win = p.win ∧ w.pwr.cfgInForce = v.pwr.cfg ∧ w.pwr.hostCapNext = none ∧
          w.pwr.rackCapNext = none ∧ w.pwr.pin = pin % 65536 ∧ w.pwr.pavg = pavg % 65536 ∧
          (p.capWatts < proj → ∀ d, p.nextCut = some d → w.pwr.share d = p.share d - 1 ∧ w.pwr.cuts = d :: p.cuts) ∧
          (p.capWatts < proj → p.nextCut = none → w.pwr.unmet = true ∧ w.pwr.cuts = p.cuts) ∧
          (proj ≤ p.capWatts → room = true → ∀ d r, p.cuts = d :: r → w.pwr.share d = p.share d + 1 ∧ w.pwr.cuts = r) ∧
          (proj ≤ p.capWatts → room = false ∨ p.cuts = [] → w.pwr.cuts = p.cuts ∧ ∀ d, w.pwr.share d = p.share d) ∧
          w.pwr.capReq = capReqNext v.pwr.capReq (decide (w.pwr.kc < 16) && v.anySlip) quiet)) ∧
    (∀ x : W32,
      (∃ w : Dev, exec (.pwrCapWrite x) s = .next (s.ends w) ∧
        w.pwr = { v.pwr with hostCapNext := some (min 56 (bits x.toNat 6 0), bits x.toNat 26 24), unmet := v.pwr.unmet && !bit x.toNat 27 }) ∧
      (cutsGood x = true → ∃ w : Dev, exec (.pwrCfgWrite x) s = .next (s.ends w) ∧ w.pwr = { v.pwr with cfg := x &&& 0xFFF#32 }) ∧
      (cutsGood x = false → exec (.pwrCfgWrite x) s = .next s) ∧
      (bit x.toNat 0 = true → ∃ w : Dev, exec (.pwrEnergyClear x) s = .next (s.ends w) ∧ ∀ i, tget 0 w.pwr.energyTab i = 0) ∧
      (bit x.toNat 0 = false → exec (.pwrEnergyClear x) s = .next s)) ∧
    (∀ e : Nat, v.pwr.rails = true → ∃ w : Dev, exec (.energyInterval e) s = .next (s.ends w) ∧
      ∀ i < 17, tget 0 w.pwr.energyTab i = (tget 0 v.pwr.energyTab i + energyShare v.drawCounts.1 e i) % 2 ^ 64) ∧
    (∀ (a b : Nat) (ts : Vector Nat 8), v.pwr.rails = true → s.mgmt.resetDue = false →
      ∃ t : State, exec (.thermalSample a b ts) s = .next t ∧ t.pending = s.pending ∧ tget 0 t.dev.pwr.tj 0 = a ∧ tget 0 t.dev.pwr.tj 1 = b ∧
        (∀ k : StackId, tget 0 t.dev.pwr.ts k = ts.toList.getD k 0 ∧ (t.dev.stk k).temp = ts.toList.getD k 0 % 256 ∧
          (t.dev.stk k).hot = (decide (85 < ts.toList.getD k 0) || ((v.stk k).hot && decide (83 < ts.toList.getD k 0)))) ∧
        (v.pwr.tripped = false → s.mgmt.running = true → t.dev.pwr.thermReq = Pwr.thermNext { t.dev.pwr with thermReq := v.pwr.thermReq }) ∧
        (v.pwr.tripped = false → v.pwr.chrysalis = false → 1 ≤ v.pwr.tripSamples →
          (115 ≤ max a b ∨ ∃ k : StackId, 105 ≤ ts.toList.getD k 0) → t.dev.pwr.tripped = true))

/-! ### Faults, Moult and context switches (16) -/

/-- RELEASE (R566) and CORE_TESTED (R567). -/
def Obligations.FaultCommandsComplete : Prop :=
  ∀ (s : State), let v := s.dev
    (∀ (d : DieId) (x : W32), bit x.toNat 0 = true → (v.flt d).valid = true →
      (v.lateScheds d = [] → ∃ w : Dev, exec (.release d x) s = .next (s.ends w) ∧ (w.flt d).valid = false ∧ (w.flt d).pending = false ∧
        w.scheds = v.scheds) ∧
      (∀ e r, v.lateScheds d = e :: r → ∃ w : Dev, exec (.release d x) s = .next (s.ends w) ∧ (w.flt d).valid = true ∧ (w.flt d).late = true ∧
        (w.flt d).cause = e.2.cause)) ∧
    (∀ (c : CoreId), s.mgmt.running = true → (v.core c).testDue = true → v.coreClaimed c = false →
      (∃ t : State, exec (.coreTested c .passed) s = .next t ∧ t.pending = s.pending ∧ t.mgmt = s.mgmt ∧ (t.dev.core c).testDue = false ∧
        (t.dev.core c).retired = (v.core c).retired) ∧
      (∀ col, col < 260 → (v.core c).marked.contains col = false → ∃ t : State, exec (.coreTested c (.column col)) s = .next t ∧ t.pending = s.pending ∧
        (t.dev.core c).testDue = false ∧
        ((v.core c).marked.length < 4 → col ∈ (t.dev.core c).marked ∧ (t.dev.core c).softRepair = true ∧ t.mgmt.softCols = s.mgmt.softCols ++ [(c.val, col)]) ∧
        (4 ≤ (v.core c).marked.length → (t.dev.core c).retired = true ∧ c.val ∈ t.mgmt.retiredCores)) ∧
      (∀ (b : Fin 64) (col : Fin 580), let had := (tget ({} : BankSt) (v.core c).banks b).marked
        (had.contains col.val = true → exec (.coreTested c (.bank b col)) s = .next s) ∧
        (had.contains col.val = false → ∃ t : State, exec (.coreTested c (.bank b col)) s = .next t ∧ t.pending = s.pending ∧
          (t.dev.core c).testDue = false ∧
          (had.length < 4 → col.val ∈ (tget ({} : BankSt) (t.dev.core c).banks b).marked ∧
            t.mgmt.softBanks = s.mgmt.softBanks ++ [(c.val, b.val, col.val)] ∧ ∀ a, a / 64 % 64 = b.val → mget (t.dev.core c).spad a = 0#8) ∧
          (4 ≤ had.length → (t.dev.core c).retired = true ∧ c.val ∈ t.mgmt.retiredCores))))

/-- MOULT, MOULT_POINT, PAGE_STAGED, MOULT_ABORT, T_UPDATE, RESTORE, RESTORE_PAGE_DONE (R571 to R582). -/
def Obligations.MoultAndRestoreComplete : Prop :=
  ∀ (s : State), let v := s.dev
    let begun : Dev → Dev → Prop := fun u w => w.moult.active = true ∧ w.moult.g = (u.moult.g + 1) % 65536 ∧ w.moult.tick = u.ft.now ∧ w.moult.chip = u.chip
    let may : Dev → W64 → Prop := fun u b => fld b 61 48 = 0 ∧ u.hostErr = [] ∧ ∃ p, u.moult.isTracked p = true ∧ tget 0 u.moult.pgen p ≠ (u.moult.g + 1) % 65536
    (∀ (d : DieId) (n : RingId) (t : Taken) (u : Dev),
      (v.takeOrder d n (fun x => x = 0x10) = some (t, u) → u.moult.active = false → u.moult.restoring = false → u.moult.order = none → u.moult.tBusy = false →
        imageBad (wd t.ws 2) = false →
        (wd t.ws 3 = 0#64 → may u (wd t.ws 2) → ∃ w : Dev, exec (.moult d n) s = .next (s.ends w) ∧ begun u w ∧ w.moult.order = some t.o) ∧
        (wd t.ws 3 ≠ 0#64 → u.ft.locked = true → ∃ w : Dev, exec (.moult d n) s = .next (s.ends w) ∧ w.moult.active = false ∧
          w.moult.point = some (wd t.ws 3).toNat ∧ w.moult.image = wd t.ws 2 ∧ w.moult.order = some t.o)) ∧
      (v.takeOrder d n (fun x => x = 0x11) = some (t, u) → ∃ w : Dev, exec (.moultAbort d n) s = .next (s.ends w) ∧
        (u.moult.order.isSome = true → w.moult.active = false ∧ w.moult.order = none) ∧ (u.moult.order = none → w.moult = u.moult)) ∧
      (v.takeOrder d n (fun x => x = 0x12) = some (t, u) →
        (u.quiet = false → ∃ w : Dev, exec (.restore d n) s = .next (s.ends w) ∧ w.moult = u.moult ∧ w.hbm = u.hbm) ∧
        (∀ ps, u.quiet = true → u.imageCheck (wd t.ws 2) = .ok ps → ∃ w : Dev, exec (.restore d n) s = .next (s.ends w) ∧
          (ps ≠ [] → w.moult.restoring = true ∧ w.moult.rPages = ps ∧ w.moult.rOrder = some t.o) ∧ (ps = [] → w.moult.restoring = false)))) ∧
    (∀ t : Nat, v.moult.point = some t → v.ft.locked = true → v.ft.frozen = false → t ≤ v.ft.now → may v v.moult.image →
      ∃ w : Dev, exec .moultPoint s = .next (s.ends w) ∧ begun v w ∧ w.moult.point = none) ∧
    (∀ p : Nat, v.moult.mayStage p = true → v.issueOk = true → v.hbm.busy = false →
      (v.pathAt (p * 65536) 65536 = none → v.hostErr = [] → fld v.moult.image 61 48 = 0 →
        ∃ w : Dev, exec (.pageStaged p) s = .next (s.ends w) ∧ tget 0 w.moult.pgen p = v.moult.g ∧
          tget [] w.moult.digests p = sha256 (v.stk8 (p * 65536) 65536)) ∧
      (∀ x, v.pathAt (p * 65536) 65536 = some x → ∃ w : Dev, exec (.pageStaged p) s = .next (s.ends w) ∧
        tget 0 w.moult.pgen p = v.moult.g ∧ w.moult.pageErr = true ∧ w.moult.failed = v.moult.failed + 1)) ∧
    (v.moult.tBusy = true → ∃ w : Dev, exec .tUpdate s = .next (s.ends w) ∧ w.moult.tBusy = false ∧ w.moult.tracked = v.trackRanges) ∧
    (∀ p : Nat, let a := p * 65536
      let o := offOf (wd v.moult.rWords 2)
      let bs := v.hostRead (o + 0x40000000 + a) 65536
      v.moult.restoring = true → p ∈ v.moult.rPages → v.issueOk = true → v.hbm.busy = false → v.hostErr = [] →
      (sha256 bs = v.imageDigest o p → v.pathAt a 65536 = none → ∃ w : Dev, exec (.restorePageDone p) s = .next (s.ends w) ∧
        w.stk8 a 65536 = bs ∧ (∀ b, (b < a ∨ a + 65536 ≤ b) → mget w.hbm.mem b = mget v.hbm.mem b) ∧ tget 0 w.moult.pgen p = v.moult.g) ∧
      (sha256 bs ≠ v.imageDigest o p → fld (wd v.moult.rWords 3) 61 48 = 0 → ∃ w : Dev, exec (.restorePageDone p) s = .next (s.ends w) ∧
        w.hbm = v.hbm ∧ w.moult.rFailed = v.moult.rFailed ++ [p]))

/-- SAVE, SAVE_DRAIN_EXPIRY, SAVE_COPY_DONE, RESTORE_CTX, RESTORE_CTX_COPY_DONE (R584 to R587). -/
def Obligations.ContextSwitchComplete : Prop :=
  ∀ (d : DieId) (s : State), let v := s.dev
    let q := v.ctxSwD d
    (∀ (n : RingId) (t : Taken) (u : Dev), let x := fld (wd t.ws 1) 3 0
      (v.takeOrder d n (fun y => y = 0x14) = some (t, u) → u.ctxScheds d x ≠ [] → u.areaBad d x = false →
        ∃ w : Dev, exec (.save d n) s = .next (s.ends w) ∧ (w.ctxSwD d).busy = .draining ∧ (w.ctxSwD d).ctx = x ∧
          (w.ctxSwD d).order = some t.o ∧ (w.ctxSwD d).scheds = u.ctxScheds d x) ∧
      (v.hbm.busy = false → v.takeOrder d n (fun y => y = 0x15) = some (t, u) → let ids := (tget ({} : SavedCtx) (u.ctxSwD d).images x).scheds
        ids ≠ [] → ids.Nodup → u.areaBad d x = false → u.ctxUnitsBusy ids = false → u.ft.locked = true →
        u.baseBad (wd t.ws 2) (wd t.ws 3) Config.staleShiftCode.toNat Config.startPastCode.toNat = none →
        ∃ w : Dev, exec (.restoreCtx d n) s = .next (s.ends w) ∧ (w.ctxSwD d).busy = .restoring ∧ (w.ctxSwD d).ctx = x ∧
          (w.ctxSwD d).scheds = ids ∧ ∀ id ∈ ids, (w.sched id).phase = (u.sched id).was ∧
            ((u.sched id).was = .running → (u.sched id).halted = false → (w.sched id).base = u.baseOf (wd t.ws 2) (wd t.ws 3)))) ∧
    (q.busy = .draining → ∃ w : Dev, exec (.saveDrainExpiry d) s = .next (s.ends w) ∧ (w.ctxSwD d).busy = .saving ∧ (w.ctxSwD d).scheds = q.scheds) ∧
    (q.busy = .draining ∨ q.busy = .saving → v.drained d q.scheds = true → v.issueOk = true →
      ∃ w : Dev, exec (.saveCopyDone d) s = .next (s.ends w) ∧ (w.ctxSwD d).busy = .none ∧ (w.ctxSwD d).order = none ∧
        (tget ({} : SavedCtx) (w.ctxSwD d).images q.ctx).scheds = q.scheds ∧ (∀ id ∈ q.scheds, (w.sched id).phase = .saved) ∧
        ∀ id ∈ q.scheds, ∀ k ∈ (v.sched id).streams, (w.strm k).loaded = false) ∧
    (q.busy = .restoring → v.issueOk = true →
      ∃ w : Dev, exec (.restoreCtxCopyDone d) s = .next (s.ends w) ∧ (w.ctxSwD d).busy = .none ∧
        tget ({} : SavedCtx) (w.ctxSwD d).images q.ctx = {} ∧
        (∀ id, (w.sched id).base = (v.sched id).base) ∧
        ∀ c ∈ v.coresOf q.scheds, warmFor q.warm c q.ctx = false → v.errGrains (v.area d q.ctx + coreArea c) spadBytes = [] → ∀ a < spadBytes,
          mget (w.core c).spad a = mget v.hbm.mem (v.area d q.ctx + coreArea c + a))


/-! ### The host interface (17, 19) -/

/-- WORK_NOP, LOAD, START, RESUME, ABORT, UNLOAD, COPY (R91 to R102, R569, R611 to R615). -/
def Obligations.HostOrdersComplete : Prop :=
  ∀ (d : DieId) (n : RingId) (s : State) (t : Taken) (u : Dev), let v := s.dev
    let id := t.sid d
    let q := u.sched id
    let runs : Dev → List Nat → Prop := fun w firsts =>
      (w.sched id).base = u.baseOf (wd t.ws 2) (wd t.ws 3) ∧
      (q.streams.Nodup → (∃ p ∈ q.streams.zip firsts, p.2 < (u.strm p.1).count) → (w.sched id).phase = .running ∧ (w.sched id).run = some t.o) ∧
      (q.streams.Nodup → ∀ p ∈ q.streams.zip firsts, (w.strm p.1).next = p.2)
    (∀ ok, v.takeOrder d n ok = some (t, u) → v.turn d = some n.val ∧ t.ws = bytesToWords 8 (v.hostRead (v.ring d n).orderAt 64) ∧
      ok (fld (wd t.ws 0) 7 0) = true ∧ (u.ring d n).index = ((v.ring d n).index + 1) % 2 ^ 32 ∧ (u.hifD d).nextTurn = n.val + 1) ∧
    (v.takeOrder d n (fun x => !orderOps.contains x) = some (t, u) →
      let r := u.ring d t.o.done
      let a := offOf (w64 (r.base.toNat + r.index % 2 ^ r.size * 32))
      let sh := offOf r.shadow
      ∃ w : Dev, exec (.workNop d n) s = .next (s.ends w) ∧ (w.ring d n).busy = false ∧ w.scheds = v.scheds ∧
        (r.owed = [] → r.en = true → r.kind = 1 → r.held < 2 ^ r.size → u.hostBad a 32 = false → u.hostBad sh 8 = false → (a + 32 ≤ sh ∨ sh + 8 ≤ a) →
          w.hostRead a 32 = toBytes (phaseOf r.size r.index + t.o.op * 256 + (if t.o.op = 0 then 0 else 2 ^ 24) + t.o.tag * 2 ^ 32) 8 ++
            toBytes (n.val + t.o.index % 2 ^ 32 * 2 ^ 32) 8 ++ toBytes 0 8 ++ toBytes 0 8 ∧
          (w.ring d t.o.done).index = (r.index + 1) % 2 ^ 32)) ∧
    (v.hbm.busy = true → exec (.load d n) s = .next s) ∧
    (v.hbm.busy = false → v.takeOrder d n (fun x => x = 1) = some (t, u) →
      (q.phase ≠ .none → ∃ w : Dev, exec (.load d n) s = .next (s.ends w) ∧ w.scheds = v.scheds) ∧
      (∀ (bs : List Byte) (ds : List StrmDesc) (w1 w2 : Dev), q.phase = .none → u.imageRead d (wd t.ws 2) 64 = (.ok bs, w1) →
        let ws := bytesToWords 8 bs
        fld (wd ws 0) 7 0 = 1 → 1 ≤ fld (wd ws 0) 15 8 → fld (wd ws 0) 15 8 ≤ 77 →
        w1.descOutside d ((wd t.ws 2).toNat + 64) (fld (wd ws 0) 15 8) = false →
        w1.descRead d ((wd t.ws 2).toNat + 64) (fld (wd ws 0) 15 8) = (.ok ds, w2) →
        (w2.loadBad d ((wd ws 1).setWidth 48) ds = none → ∃ w : Dev, exec (.load d n) s = .next (s.ends w) ∧
          (w.sched id).phase = .loaded ∧ (w.sched id).tag = fld (wd ws 0) 63 32 ∧ (w.sched id).context = fld (wd ws 0) 19 16 ∧
          (w.sched id).coreMask = (wd ws 1).setWidth 48 ∧ (w.sched id).streams = ds.map StrmDesc.strm ∧
          ∀ x ∈ ds, (w.strm x.strm).loaded = true ∧ (w.strm x.strm).sched = fld (wd t.ws 1) 7 0 ∧ (w.strm x.strm).base = x.base ∧
            (w.strm x.strm).count = x.count) ∧
        (∀ c, w2.loadBad d ((wd ws 1).setWidth 48) ds = some c → ∃ w : Dev, exec (.load d n) s = .next (s.ends w) ∧ w.scheds = v.scheds))) ∧
    (v.takeOrder d n (fun x => x = 2) = some (t, u) →
      (u.startBad t id = none → ∃ w : Dev, exec (.start d n) s = .next (s.ends w) ∧ runs w (q.streams.map (fun _ => 0))) ∧
      (∀ c, u.startBad t id = some c → ∃ w : Dev, exec (.start d n) s = .next (s.ends w) ∧ w.scheds = v.scheds ∧ w.strms = v.strms)) ∧
    (v.takeOrder d n (fun x => x = 3) = some (t, u) → let firsts := u.resumeTable id (wd t.ws 4)
      let tableBad := fld (wd t.ws 4) 61 48 ≠ 0 ∨ u.hostBad (offOf (wd t.ws 4)) (8 * q.streams.length) = true
      let valueBad := ∃ p ∈ q.streams.zip firsts, (u.strm p.1).count < p.2
      (u.startBad t id = none → ¬tableBad → ¬valueBad → ∃ w : Dev, exec (.resume d n) s = .next (s.ends w) ∧ runs w firsts) ∧
      (u.startBad t id ≠ none ∨ tableBad ∨ valueBad → ∃ w : Dev, exec (.resume d n) s = .next (s.ends w) ∧ w.scheds = v.scheds ∧
        w.strms = v.strms)) ∧
    (v.takeOrder d n (fun x => x = 4) = some (t, u) →
      (q.phase = .running → ∃ w : Dev, exec (.abort d n) s = .next (s.ends w) ∧ (w.sched id).halted = true ∧
        (w.sched id).aborts = q.aborts ++ [t.o] ∧ (w.sched id).run = q.run ∧ (q.halted = false → (w.sched id).status = 0x0F)) ∧
      (q.phase ≠ .running → ∃ w : Dev, exec (.abort d n) s = .next (s.ends w) ∧ w.scheds = v.scheds)) ∧
    (v.takeOrder d n (fun x => x = 5) = some (t, u) →
      (q.phase ≠ .none → q.phase ≠ .running → ∃ w : Dev, exec (.unload d n) s = .next (s.ends w) ∧ w.sched id = {} ∧
        ∀ k ∈ q.streams, strmDie k * 256 + (u.strm k).sched = id → (w.strm k).loaded = false) ∧
      (q.phase = .none ∨ q.phase = .running → ∃ w : Dev, exec (.unload d n) s = .next (s.ends w) ∧ w.scheds = v.scheds ∧ w.strms = v.strms)) ∧
    (v.takeOrder d n (fun x => x = 8) = some (t, u) → let c := fld (wd t.ws 1) 5 0
      let o := decDma t.ws
      let desc : DmaDesc := { words := t.ws, order := some t.o }
      (c < 48 → coreDie c = d.val → u.dmaBad c true o = false →
        ∃ w : Dev, exec (.copy d n) s = .next (s.ends w) ∧ let ch := u.dmaCh c o.chan
          let ch1 := w.dmaCh c o.chan
          let free := ch.phase = .idle ∧ ch.queue = [] ∧ (u.core c).dma.stopped = false ∧ u.issueOk = true
          (free → o.total = 0 → ch1.lastStatus = 1 ∧ ch1.queue = [] ∧ ch1.phase = .idle) ∧
          (ch.phase ≠ .idle → ch1 = { ch with queue := ch.queue ++ [desc] }) ∧
          (free → o.total ≠ 0 →
            (o.seald = true → u.otherModule o.sealAddr = false ∧ u.permits (coreDie c) o.sealAddr.toNat 8 false false = true) →
            ch1.cur = desc ∧ ch1.phase = (if o.seald then .seal0 else .moving))) ∧
      (48 ≤ c ∨ coreDie c ≠ d.val ∨ u.dmaBad c true o = true → ∃ w : Dev, exec (.copy d n) s = .next (s.ends w) ∧ w.cores = v.cores))

/-- DOORBELL, RING_ERROR, HIF_RING_CFG_WRITE, HIF_MMIO_WRITE, BAR4_ACCESS, STRM_MARK_CLR, REGISTER_WRITE, FUNCTION_RESET. -/
def Obligations.HostRegistersComplete : Prop :=
  ∀ (d : DieId) (s : State), let v := s.dev
    let same : Instr → Nat → Nat → W64 → Prop := fun c off len x => exec (.registerWrite d off len x) s = exec c s
    (∀ (n : RingId) (off len : Nat) (x : W64), let good := off = 0 ∧ len = 8 ∧ fld x 63 32 = 0 ∧ (v.ring d n).en = true ∧ (v.ring d n).bellOk (fld x 31 0) = true
      (good → ∃ w : Dev, exec (.doorbell d n off len x) s = .next (s.ends w) ∧ (w.ring d n).bell = fld x 31 0) ∧
      (¬good → ∃ w : Dev, exec (.doorbell d n off len x) s = .next { s with dev := w } ∧ (∀ m, (w.ring d m).bell = (v.ring d m).bell) ∧
        (v.eventRing d = none → (v.hifD d).arriving = [] → (w.hifD d).evtLost = satAdd (v.hifD d).evtLost 1 max32))) ∧
    (∀ (n : RingId) (a : W64), let r := v.ring d n
      (r.en = true → r.kind = 0 → r.index ≠ r.bell → ∃ w : Dev, exec (.ringError d n a) s = .next (s.ends w) ∧ w.ring d n = r.stop) ∧
      ((r.en = false ∨ r.kind ≠ 0 ∨ r.index = r.bell) → exec (.ringError d n a) s = .next s)) ∧
    (∀ (n : RingId) (x : W64), let r := v.ring d n
      let new := x &&& cfgBits
      let refused : Dev → Nat → Prop := fun w c => (w.hifD d).err = c ∧ (w.hifD d).errValid = true ∧ (w.hifD d).errRing = n.val
      ∃ w : Dev, exec (.hifRingCfgWrite d n x) s = .next (s.ends w) ∧
        (r.en = false → fbit new 0 = true → v.ringCheck d n { r with cfg := new } = none → r.owed = [] → (v.hifD d).evtLost = 0 →
          w.ring d n = { r with cfg := new, index := 0, bell := 0 }) ∧
        (∀ c, r.en = false → fbit new 0 = true → v.ringCheck d n { r with cfg := new } = some c → refused w c ∧ (w.ring d n).en = false) ∧
        (r.en = false → fbit new 0 = false → w.ring d n = { r with cfg := new }) ∧
        (r.en = true → new ≠ r.cfg → new ≠ r.stop.cfg → refused w 7 ∧ w.ring d n = r) ∧
        (r.en = true → new = r.stop.cfg → v.ringInUse d n = true → refused w 8 ∧ w.ring d n = r) ∧
        (r.en = true → new = r.stop.cfg → v.ringInUse d n = false → w.ring d n = r.stop)) ∧
    (∀ (n : Fin 8) (x : W64), ∃ w : Dev, exec (.hifMmioWrite d n x) s = .next (s.ends w) ∧
      tget 0#64 (w.hifD d).mmio n = x &&& 0xFFFFFFFFF07F#64 ∧ ∀ m, m ≠ n.val → tget 0#64 (w.hifD d).mmio m = tget 0#64 (v.hifD d).mmio m) ∧
    (∀ (off len : Nat) (bs : List Byte),
      (bs ≠ [] → off + bs.length ≤ stackEnd → v.pathAt off bs.length = none → v.moult.active = false → v.hbm.busy = false →
        ∃ u : Dev, exec (.bar4Access d off bs.length (some bs)) s = .next (s.ends (u.releaseHeld)) ∧ u.stk8 off bs.length = bs ∧
          ∀ b, (b < off ∨ off + bs.length ≤ b) → mget u.hbm.mem b = mget v.hbm.mem b) ∧
      (0 < len → off + len ≤ stackEnd → v.pathAt off len = none → v.hbm.busy = false →
        exec (.bar4Access d off len none) s = .next (s.ends ((v.softErrs off len).send (.hostRead d (some (v.stkSeen off len)))))) ∧
      (off + len ≤ stackEnd → v.hbm.busy = true →
        exec (.bar4Access d off len none) s = .next (s.ends (v.modHbm (fun h => { h with waiting := h.waiting ++ [.host d off len] })))) ∧
      (bar4Map off bs.length = none → ∃ w : Dev, exec (.bar4Access d off bs.length (some bs)) s = .next (s.ends w) ∧ w.hbm = v.hbm ∧ w.cores = v.cores) ∧
      (bar4Map off len = none → ∃ w : Dev, exec (.bar4Access d off len none) s = .next (s.ends w) ∧ w.hbm = v.hbm ∧ w.cores = v.cores ∧
        ∃ l, w.out = l ++ [.hostRead d none])) ∧
    (∀ (k : StreamId) (x : W64),
      (fbit x 32 = true → ∃ w : Dev, exec (.strmMarkClr k x) s = .next (s.ends w) ∧
        w.strm k = { v.strm k with slipMax := 0, oob := 0, drop := 0 } ∧ ∀ j, j ≠ k.val → w.strm j = v.strm j) ∧
      (fbit x 32 = false → exec (.strmMarkClr k x) s = .next s)) ∧
    (∀ x : W64, let lo : W32 := x.setWidth 32
      same (.release d lo) 0x104 4 x ∧ same (.fabTimeCfgWrite d lo) 0x100000 4 x ∧ same (.landClr d lo) 0x100110 4 x ∧
      same (.pwrCfgWrite lo) 0x200008 4 x ∧ same (.pwrCapWrite lo) 0x200010 4 x ∧ same (.pwrEnergyClear lo) 0x200300 4 x ∧
      same (.hbmMapCfgWrite lo) 0x340000 4 x ∧ same (.hbmMaintWrite x) 0x340010 8 x ∧
      (∀ n : RingId, same (.hifRingCfgWrite d n x) (0x20008 + 32 * n.val) 8 x) ∧ (∀ n : Fin 8, same (.hifMmioWrite d n x) (0x10100 + 8 * n.val) 8 x) ∧
      (sameCycle true s.pending = false → ∀ n : Fin 7168, same (.synCtrWrite d n x) (0xC00000 + 8 * n.val) 8 x) ∧ (∀ u : Fin 16, same (.synBarMaskWrite d u x) (0xC10100 + 16 * u.val) 8 x) ∧
      (∀ n : Fin 256, same (.rgnAttrWrite d n lo) (0xE00008 + 16 * n.val) 4 x) ∧
      (∀ l : LinkId, linkDie l = d.val → let a := 0x400000 + l.val % 9 * 0x4000
        same (.lnkCtlRetrain l lo) a 4 x ∧ same (.lnkRxbufWrite l x) (a + 0x10) 8 x) ∧
      (∀ c : CoreId, coreDie c = d.val → let a := 0x800000 + c.val % 24 * 0x10000
        same (.scalarRun c lo) (a + 0x140) 4 x ∧ same (.scalarStop c lo) (a + 0x140) 4 x ∧ same (.clrCount c lo) (a + 0x200) 4 x ∧
        same (.dmaEngClear c lo) (a + 0x800) 4 x ∧ (∀ n : DmaId, same (.dmaRestart c n lo) (a + 0x908 + 16 * n.val) 4 x ∧ same (.dmaDrop c n lo) (a + 0x908 + 16 * n.val) 4 x) ∧
        (∀ m : Fin 64, same (.dmaReqWrite c m lo) (a + 0xA00 + 4 * m.val) 4 x) ∧
        ∀ k : StreamId, k.val / 3 = c.val → same (.strmMarkClr k x) (a + 0x18 + 0x20 * (k.val % 3)) 8 x) ∧
      (∀ off, off < 0x1000000 → off % 8 = 0 → regWidth off = 8 →
        exec (.registerWrite d (off + 4) 4 x) s =
          exec (.registerWrite d off 8 (w64 ((tget 0#32 (v.hifD d).lowHalf off).toNat + fld x 31 0 * 2 ^ 32))) s ∧
        ∃ w : Dev, exec (.registerWrite d off 4 x) s = .next (s.ends w) ∧ tget 0#32 (w.hifD d).lowHalf off = lo ∧ w.cores = v.cores ∧
          w.ctrs = v.ctrs ∧ w.hbm = v.hbm) ∧
      ∀ off len, ¬(len = 4 ∧ off % 4 = 0) → ¬(len = 8 ∧ off % 8 = 0) → exec (.registerWrite d off len x) s = .next s) ∧
    (∃ w : Dev, exec (.functionReset d) s = .next (s.ends w) ∧ w.hifD d = {} ∧ (∀ n < 256, w.rgnE (d.val * 256 + n) = {}) ∧
      (∀ n, (w.land d n).used = false) ∧ (∀ c : CoreId, (w.core c).retired = (v.core c).retired) ∧
      (v.moult.order = none ∨ v.moult.die ≠ d.val → (∀ id, id / 256 = d.val → w.sched id = {}) ∧ (∀ id, id / 256 ≠ d.val → w.sched id = v.sched id) ∧
        (∀ k : StreamId, strmDie k = d.val → w.strm k = {}) ∧ ∀ c : CoreId, (w.core c).spad = (v.core c).spad ∧ (w.core c).acc = (v.core c).acc))


/-! ### Forzoevo (18) -/

/-- Forzoevo's messages (R621 to R638). -/
def Obligations.MgmtCommandsComplete : Prop :=
  ∀ (s : State), let v := s.dev
    let m := s.mgmt
    let gives : Instr → (State → Prop) → Prop := fun c p => ∃ t : State, exec c s = .next t ∧ t.pending = s.pending ∧ p t
    let said : State → Binding → Nat → List Nat → Prop := fun t b cmd body => ∃ l, t.dev.out = v.out ++ .mgmt b cmd body :: l
    (∀ b : Binding, m.running = true ∨ m.recovery = true →
      gives (.getIdent b) (fun t => t.mgmt = m ∧ said t b 0x01 [0, glbIdent, m.chip, m.slot, Config.serial.toNat, (m.active .mgmt).version, (m.active .mgmt).svn,
        (m.active .train).version, (m.active .train).svn, m.fusedSvn]) ∧
      ∀ img : Image, let i := m.idleBank img.component
        let ok := Image.valid img m.fusedSvn
        gives (.firmwareUpdate b img) (fun t => tget none t.mgmt.banks i = some img ∧ (∀ j, j ≠ i → tget none t.mgmt.banks j = tget none m.banks j) ∧
          t.mgmt.activeMgmt = m.activeMgmt ∧ t.mgmt.activeTrain = m.activeTrain ∧ (img.component = .mgmt → t.mgmt.pendMgmt = ok) ∧
          (img.component = .train → t.mgmt.pendTrain = ok) ∧ ∃ l, t.dev.out = l ++ [.pldm b 5 [b2n !ok]])) ∧
    (m.running = true →
      (∀ b : Binding,
        gives (.getPubkey b) (fun t => t.mgmt = m ∧ said t b 0x02 (0 :: Config.pubKey.map (fun x => x.toNat))) ∧
        (∀ first count, 0 < count → count ≤ 32 → gives (.getLog b first count) (fun t => t.mgmt = m ∧
          said t b 0x04 (0 :: ((m.log.filter (fun e => decide (first ≤ e.index) && decide (e.index < first + count))).map LogEnt.fields).flatten))) ∧
        (∀ ch, ch < 256 → (v.noSched = true → v.noRing = true → gives (.retireChannel b ch) (fun t => ch ∈ t.mgmt.retiredChans ∧ t.dev.pwr.rails = false ∧
            t.mgmt.bootStep = 1 ∧ said t b 0x13 [0])) ∧
          (v.noSched = false ∨ v.noRing = false → gives (.retireChannel b ch) (fun t => t.mgmt = m ∧ said t b 0x13 [4]))) ∧
        (v.pwr.tripped = false ∨ v.pwr.tjMax ≤ 90 → gives (.moduleReset b) (fun t => t.dev.pwr.rails = false ∧ t.mgmt.bootStep = 1 ∧
          (∀ a, mget t.dev.hbm.mem a = 0#8) ∧ (m.pendTrain = true → t.mgmt.activeTrain = 1 - m.activeTrain))) ∧
        (v.pwr.tripped = true → 90 < v.pwr.tjMax → gives (.moduleReset b) (fun t => t.mgmt.resetDue = true ∧ t.dev.pwr = v.pwr)) ∧
        (∀ id, 1 ≤ id → id ≤ 12 → gives (.sensorRead b id) (fun t => t.mgmt = m ∧ t.dev.out = v.out ++ [.pldm b 2 [0, tget 0 m.sensors id]])) ∧
        (∀ (nonce : List Byte) (ok : Bool), nonce.length = 32 →
          (m.attNext < 2 ^ 40 → m.stateLogFailed = false → m.attNext / 2 ^ 20 ≤ m.treeUpTo → m.sigThisSecond < 16 →
            gives (.attest b nonce ok) (fun t =>
              (ok = true → t.mgmt.attNext = m.attNext + 1 ∧ t.mgmt.released = m.released ++ [m.attNext] ∧
                said t b 0x03 (0 :: (m.report nonce m.attNext ++ Config.signature m.attNext (m.report nonce m.attNext)).map (fun x => x.toNat))) ∧
              (ok = false → t.mgmt.attNext = m.attNext ∧ t.mgmt.released = m.released ∧ t.mgmt.stateLogFailed = true ∧ said t b 0x03 [7]))) ∧
          (2 ^ 40 ≤ m.attNext ∨ m.stateLogFailed = true → gives (.attest b nonce ok) (fun t => t.mgmt = m ∧ said t b 0x03 [7])) ∧
          (m.attNext < 2 ^ 40 → m.stateLogFailed = false → m.treeUpTo < m.attNext / 2 ^ 20 →
            gives (.attest b nonce ok) (fun t => t.mgmt = m ∧ said t b 0x03 [5])))) ∧
      gives (.commitSvn .rack) (fun t => t.mgmt.fusedSvn = max m.fusedSvn (min (m.active .mgmt).svn (m.active .train).svn) ∧ said t .rack 0x16 [0]) ∧
      (∀ x, (x ≤ 56 → gives (.setRackCap .rack x) (fun t => t.mgmt = { m with rackCap := x } ∧ t.dev.pwr.rackCapNext = some x ∧ said t .rack 0x10 [0])) ∧
        (56 < x → gives (.setRackCap .rack x) (fun t => t.mgmt = m ∧ said t .rack 0x10 [3])) ∧
        (x ≤ 1 → gives (.setStartOverride .rack x) (fun t => t.mgmt = { m with startOverride := decide (x = 1) } ∧ said t .rack 0x11 [0])) ∧
        (x < 16384 → v.noSched = true → gives (.setChip .rack x) (fun t => t.mgmt.chip = x ∧ said t .rack 0x12 [0] ∧
          (v.pwr.rails = true → t.dev.chip = x ∧ t.dev.ft.locked = false ∧ ∀ (d : DieId) n, (t.dev.land d n).used = false))) ∧
        (x < 16384 → x = m.chip → v.noSched = false → gives (.setChip .rack x) (fun t => t.mgmt = m ∧ t.dev = v.send (.mgmt .rack 0x12 [0]))) ∧
        (x < 16384 → x ≠ m.chip → v.noSched = false → gives (.setChip .rack x) (fun t => t.mgmt = m ∧ said t .rack 0x12 [6])) ∧
        ∀ c ∈ [(Instr.setRackCap .host x, 0x10), (.setStartOverride .host x, 0x11), (.setChip .host x, 0x12), (.mgmtReset .host x, 0x15),
          (.commitSvn .host, 0x16)],
          gives c.1 (fun t => t.mgmt = m ∧ said t .host c.2 [2])) ∧
      (∀ slot : BitVec 7, let a := if m.pendMgmt then 1 - m.activeMgmt else m.activeMgmt
        m.bankOk a = true → gives (.mgmtReset .rack slot) (fun t => t.mgmt.running = true ∧ t.mgmt.activeMgmt = a ∧ t.mgmt.slot = slot.toNat ∧
          t.mgmt.attNext = m.nextOfRecords ∧ t.dev.pwr = v.pwr ∧ t.dev.scheds = v.scheds ∧ t.dev.hbm = v.hbm)) ∧
      gives .sensorUpdate (fun t => ∀ i, 1 ≤ i → i ≤ 12 → tget 0 t.mgmt.sensors i = v.sensor i) ∧
      gives .treeBuildDone (fun t => t.dev = v ∧ (m.treeUpTo < m.attNext / 2 ^ 20 → t.mgmt = { m with treeUpTo := m.attNext / 2 ^ 20 }) ∧
        (m.treeUpTo = m.attNext / 2 ^ 20 → 2 ^ 19 ≤ m.attNext % 2 ^ 20 → t.mgmt = { m with treeUpTo := m.attNext / 2 ^ 20 + 1 }))) ∧
    (m.running = false → ∀ (b : Binding) (x : Nat) (nonce : List Byte) (ok : Bool),
      ∀ c ∈ [Instr.getPubkey b, .getLog b x x, .setRackCap b x, .setStartOverride b x, .setChip b x, .retireChannel b x, .moduleReset b, .commitSvn b,
        .sensorRead b x, .attest b nonce ok], exec c s = .next s)

/-- Start-up and resets (R630, R639 to R642, R663, R667). -/
def Obligations.StartupAndResetsComplete : Prop :=
  ∀ (s : State), let v := s.dev
    let m := s.mgmt
    let gives : Instr → (State → Prop) → Prop := fun c p => ∃ t : State, exec c s = .next t ∧ t.pending = s.pending ∧ p t
    let at' : Nat → Prop := fun n => m.bootStep = n ∧ m.running = true
    let dark : State → Prop := fun t => t.dev.pwr.rails = false ∧ (∀ a, mget t.dev.hbm.mem a = 0#8) ∧ t.dev.scheds = [] ∧ t.dev.strms = [] ∧
      t.mgmt.retiredChans = m.retiredChans ∧ t.mgmt.fusedSvn = m.fusedSvn ∧ t.mgmt.banks = m.banks ∧ t.mgmt.chip = m.chip
    (∀ slot : BitVec 7,
      (m.running = false → m.recovery = false → gives (.auxUp slot) (fun t => t.mgmt.aux = true ∧ t.mgmt.bootCount = m.bootCount + 1 ∧ t.mgmt.slot = slot.toNat ∧
        t.mgmt.attNext = m.nextOfRecords ∧ t.dev.pwr = v.pwr ∧
        (m.bankOk m.activeMgmt = true → t.mgmt.running = true ∧ t.mgmt.bootStep = 1 ∧ t.mgmt.activeMgmt = m.activeMgmt) ∧
        (m.bankOk m.activeMgmt = false → m.bankOk (1 - m.activeMgmt) = true → t.mgmt.running = true ∧ t.mgmt.activeMgmt = 1 - m.activeMgmt) ∧
        (m.bankOk m.activeMgmt = false → m.bankOk (1 - m.activeMgmt) = false → t.mgmt.running = false ∧ t.mgmt.recovery = true ∧ t.mgmt.bootStep = 0))) ∧
      (m.running = true ∨ m.recovery = true → gives (.auxUp slot) (fun t => t.mgmt = { m with aux := true } ∧ t.dev = v)) ∧
      (m.resetHold = true → m.running = true → m.pendMgmt = false → m.bankOk m.activeMgmt = true →
        gives (.resetNHeld slot) (fun t => t.mgmt.running = true ∧ t.mgmt.slot = slot.toNat ∧ t.mgmt.attNext = m.nextOfRecords ∧ t.dev = v)) ∧
      (m.resetHold = false → exec (.resetNHeld slot) s = .next s)) ∧
    gives .auxLoss (fun t => t.dev = v ∧ (v.pwr.rails = true → t.mgmt = { m with aux := false }) ∧ (v.pwr.rails = false → t.mgmt.running = false ∧ t.mgmt.aux = false)) ∧
    (∀ vin, gives (.vinApplied vin) (fun t => t.mgmt = m ∧ t.dev = { v with pwr := { v.pwr with vin := vin % 65536 } }) ∧
      gives (.inputQualified vin) (fun t =>
        (goodInput vin = true → m.aux = true → m.resetHold = false → at' 1 → t.mgmt = { m with bootStep := 2 } ∧ t.dev.pwr.rails = true ∧
          t.dev.pwr.starting = true ∧ t.dev.pwr.vin = vin % 65536) ∧
        (goodInput vin = false ∨ m.aux = false ∨ m.resetHold = true ∨ ¬at' 1 → t.mgmt = m ∧ t.dev.pwr.rails = v.pwr.rails)) ∧
      gives (.startupSupplyLoss vin) (fun t => (lostInput vin = true → 2 ≤ m.bootStep → m.bootStep ≤ 8 → dark t ∧ t.mgmt = { m with bootStep := 1 }) ∧
        (lostInput vin = false ∨ m.bootStep < 2 ∨ 8 < m.bootStep → t.mgmt = m ∧ t.dev = { v with pwr := { v.pwr with vin := vin % 65536 } }))) ∧
    (at' 2 → (27000 ≤ v.pwr.energy ∨ m.startOverride = true → gives .bankCharge (fun t => t.mgmt = { m with bootStep := 3 } ∧
        t.dev = { v with pwr := { v.pwr with startOverride := decide (v.pwr.energy < 27000) } })) ∧
      (v.pwr.energy < 27000 → m.startOverride = false → exec .bankCharge s = .next s)) ∧
    (at' 3 → gives (.fuseLoad true) (fun t => t.mgmt = { m with bootStep := 4 } ∧ t.dev.chip = m.chip ∧ t.dev.pwr.rackCapNext = some m.rackCap ∧
        ∀ c : CoreId, (t.dev.core c).retired = m.retiredCores.contains c.val ∧ (t.dev.core c).marked = sortBy id (m.columnsOf c)) ∧
      gives (.fuseLoad false) (fun t => t.mgmt.bootStep = 3 ∧ ∃ e ∈ t.mgmt.log, e.code = 9 ∧ e.a0 = 4)) ∧
    (at' 4 → gives .sramClear (fun t => t.mgmt = { m with bootStep := 5 } ∧ (∀ c : CoreId, (t.dev.core c).spad = [] ∧ (t.dev.core c).acc = [] ∧ (t.dev.core c).l1 = []) ∧
      t.dev.ctrs = [] ∧ t.dev.fault = [])) ∧
    (∀ (failed : List ChanId) (weak : List WeakLane), at' 5 → gives (.stackTraining ⟨failed, weak⟩) (fun t => t.mgmt.bootStep = 6 ∧ (∀ ch ∈ failed, ch.val ∈ t.mgmt.retiredChans) ∧
      (∀ ch ∈ m.retiredChans, ch ∈ t.mgmt.retiredChans) ∧ (∀ ch : ChanId, (t.dev.chan ch).trained = !t.mgmt.retiredChans.contains ch.val) ∧
      (∀ k : StackId, (t.dev.stk k).trained = true) ∧ ∀ a, mget t.dev.hbm.mem a = 0#8)) ∧
    (∀ (lanes : Vector (BitVec 4) 18) (stamps : Vector Stamps 18), at' 6 → gives (.linkTraining lanes stamps) (fun t => t.mgmt = { m with bootStep := 7 } ∧
      ∀ l : LinkId, let n := laneCount lanes[l].toNat
        (t.dev.linkN l).state = (if 2 ≤ n then 2 else 0) ∧ (t.dev.linkN l).lanes = (if 2 ≤ n then n else 0) ∧
        (2 ≤ n → (t.dev.linkN l).delay = stampDelay stamps[l] % 65536))) ∧
    (at' 7 → gives .timeLockTimeout (fun t => t.mgmt = { m with bootStep := 8 } ∧ t.dev = v)) ∧
    (at' 8 → gives (.hostDiscovery true) (fun t => t.mgmt = { m with bootStep := 9 } ∧ t.dev.pwr.starting = false) ∧
      gives (.hostDiscovery false) (fun t => t.mgmt.bootStep = 8 ∧ t.dev.pwr = v.pwr ∧ ∃ e ∈ t.mgmt.log, e.code = 9 ∧ e.a0 = 9)) ∧
    (¬at' 4 → exec .sramClear s = .next s) ∧ (¬at' 7 → exec .timeLockTimeout s = .next s) ∧
    gives .coldReset (fun t => dark t ∧ t.mgmt.running = false ∧ t.mgmt.aux = false ∧ t.mgmt.bootStep = 0) ∧
    gives .resetN (fun t => dark t ∧ t.mgmt.resetHold = true ∧ (m.running = true → t.mgmt.bootStep = 1)) ∧
    gives .resetNRelease (fun t => t.mgmt = { m with resetHold := false } ∧ t.dev = v)

/-- The release invariant of the attestation key (R632 to R634). -/
def Obligations.AttestationIndexReleasedOnce : Prop :=
  ∀ s t : State, s.mgmt.keysFresh → step s = .next t → t.mgmt.keysFresh

/-- The fused SVN over one command (R629). -/
def Obligations.FusedSvnNeverFalls : Prop :=
  ∀ (c : Instr) (s t : State), exec c s = .next t → s.mgmt.fusedSvn ≤ t.mgmt.fusedSvn
end

