-- ==== Sys2Proof/Laws/Table.lean ====
section
/-! SUPPORT. Tables and memories: a read after a write, and the canonical form, which every operation keeps. -/

namespace Sys2Proof.Machine

variable {α : Type}

/-! ### Reads after writes -/

theorem terase_absent (t : Tab α) (k : Nat) : ∀ e ∈ terase t k, e.1 ≠ k := by
  induction t with
  | nil => simp [terase]
  | cons e r ih =>
    by_cases h : e.1 = k
    · simpa [terase, h] using ih
    · simp only [terase, h, if_false, List.mem_cons]
      rintro x (rfl | hx)
      · exact h
      · exact ih x hx

@[simp] theorem tget_terase_ne (d : α) (t : Tab α) {k j : Nat} (h : j ≠ k) : tget d (terase t k) j = tget d t j := by
  induction t with
  | nil => rfl
  | cons e r ih =>
    by_cases hk : e.1 = k
    · have hj : ¬ k = j := fun q => h q.symm
      simp [terase, hk, tget, ih, hj]
    · simp [terase, hk, tget, ih]

theorem tget_of_absent (d : α) {t : Tab α} {k : Nat} (h : ∀ e ∈ t, e.1 ≠ k) : tget d t k = d := by
  induction t with
  | nil => rfl
  | cons e r ih =>
    have he : e.1 ≠ k := h e (by simp)
    simp only [tget, he, if_false]
    exact ih fun x hx => h x (by simp [hx])

theorem tget_tins_same (d : α) {t : Tab α} {k : Nat} (v : α) (h : ∀ e ∈ t, e.1 ≠ k) : tget d (tins t k v) k = v := by
  induction t with
  | nil => simp [tins, tget]
  | cons e r ih =>
    have he : e.1 ≠ k := h e (by simp)
    by_cases hl : k < e.1
    · simp [tins, hl, tget]
    · simp only [tins, hl, if_false, tget, he]
      exact ih fun x hx => h x (by simp [hx])

theorem tget_tins_ne (d : α) (t : Tab α) {k j : Nat} (v : α) (h : j ≠ k) : tget d (tins t k v) j = tget d t j := by
  have hk : ¬ k = j := fun q => h q.symm
  induction t with
  | nil => simp [tins, tget, hk]
  | cons e r ih =>
    by_cases hl : k < e.1
    · simp [tins, hl, tget, hk]
    · simp [tins, hl, tget, ih]

/-- A read of the entry just set gives the value set. -/
@[simp] theorem tget_tset_same [DecidableEq α] (d : α) (t : Tab α) (k : Nat) (v : α) : tget d (tset d t k v) k = v := by
  by_cases h : v = d
  · simp [tset, h, tget_of_absent d (terase_absent t k)]
  · simp [tset, h, tget_tins_same d v (terase_absent t k)]

/-- Setting one entry leaves every other as it was. -/
theorem tget_tset_ne [DecidableEq α] (d : α) (t : Tab α) {k j : Nat} (v : α) (h : j ≠ k) : tget d (tset d t k v) j = tget d t j := by
  by_cases hv : v = d
  · simp [tset, hv, h]
  · simp [tset, hv, tget_tins_ne d _ v h, h]

@[simp] theorem tget_tmod_same [DecidableEq α] (d : α) (t : Tab α) (k : Nat) (f : α → α) : tget d (tmod d t k f) k = f (tget d t k) := by
  simp [tmod]

theorem tget_tmod_ne [DecidableEq α] (d : α) (t : Tab α) {k j : Nat} (f : α → α) (h : j ≠ k) : tget d (tmod d t k f) j = tget d t j := by
  simp [tmod, tget_tset_ne d t _ h]

@[simp] theorem mget_mset_same (m : Mem) (a : Nat) (b : Byte) : mget (mset m a b) a = b := by simp [mget, mset]

theorem mget_mset_ne (m : Mem) {a x : Nat} (b : Byte) (h : x ≠ a) : mget (mset m a b) x = mget m x := by
  simp [mget, mset, tget_tset_ne _ _ _ h]

/-- Writing bytes changes no byte outside them. -/
theorem mget_mwrite_outside (m : Mem) (a : Nat) (bs : List Byte) {x : Nat} (h : x < a ∨ a + bs.length ≤ x) :
    mget (mwrite m a bs) x = mget m x := by
  induction bs generalizing m a with
  | nil => rfl
  | cons b bs ih =>
    simp only [List.length_cons] at h
    rw [mwrite, ih (mset m a b) (a + 1) (by omega), mget_mset_ne m b (by omega)]

/-- Writing bytes gives each of them. -/
theorem mget_mwrite_inside (m : Mem) (a : Nat) (bs : List Byte) {i : Nat} (h : i < bs.length) :
    mget (mwrite m a bs) (a + i) = bs[i] := by
  induction bs generalizing m a i with
  | nil => simp at h
  | cons b bs ih =>
    cases i with
    | zero => rw [mwrite, mget_mwrite_outside _ _ _ (.inl (by omega))]; simp
    | succ i => rw [mwrite, show a + (i + 1) = (a + 1) + i by omega, ih _ _ (by simpa using h)]; simp

/-- The bytes written are the bytes read back. -/
theorem mread_mwrite (m : Mem) (a : Nat) (bs : List Byte) : mread (mwrite m a bs) a bs.length = bs := by
  induction bs generalizing m a with
  | nil => rfl
  | cons b bs ih =>
    rw [mwrite, List.length_cons, mread, mget_mwrite_outside _ _ _ (.inl (by omega)), mget_mset_same, ih]

theorem mread_length (m : Mem) (a n : Nat) : (mread m a n).length = n := by
  induction n generalizing a with
  | zero => rfl
  | succ n ih => simp [mread, ih]

theorem mget_filter_keep (m : Mem) (p : Nat → Bool) {x : Nat} (h : p x = true) : mget (m.filter fun e => p e.1) x = mget m x := by
  induction m with
  | nil => rfl
  | cons e r ih =>
    simp only [mget] at ih ⊢
    by_cases hp : p e.1 = true
    · simp [hp, tget, ih]
    · have hx : e.1 ≠ x := fun q => hp (q ▸ h)
      simp [hp, tget, hx, ih]

/-- Clearing a range leaves every byte outside it. -/
theorem mget_mclear_outside (m : Mem) (lo n : Nat) {x : Nat} (h : x < lo ∨ lo + n ≤ x) : mget (mclear m lo n) x = mget m x :=
  mget_filter_keep m (fun a => decide (a < lo) || decide (lo + n ≤ a)) (by simpa using h)

/-- A cleared byte reads 0. -/
theorem mget_mclear_inside (m : Mem) (lo n : Nat) {x : Nat} (h : lo ≤ x ∧ x < lo + n) : mget (mclear m lo n) x = 0#8 := by
  apply tget_of_absent
  intro e he
  simp only [mclear, List.mem_filter, Bool.or_eq_true, decide_eq_true_eq] at he
  omega

/-! ### The canonical form -/

variable [DecidableEq α]

theorem tabWfFrom_weaken (d : α) {t : Tab α} {lo lo' : Nat} (h : tabWfFrom d (some lo) t = true) (hl : lo' ≤ lo) :
    tabWfFrom d (some lo') t = true := by
  cases t with
  | nil => rfl
  | cons e r =>
    simp only [tabWfFrom, Bool.and_eq_true, decide_eq_true_eq] at h ⊢
    exact ⟨⟨by omega, h.1.2⟩, h.2⟩

theorem tabWfFrom_none (d : α) {t : Tab α} {lo : Option Nat} (h : tabWfFrom d lo t = true) : tabWfFrom d none t = true := by
  cases t with
  | nil => rfl
  | cons e r =>
    simp only [tabWfFrom, Bool.and_eq_true] at h ⊢
    exact ⟨⟨trivial, h.1.2⟩, h.2⟩

/-- The bound `lo` lies below the key `k`. -/
def belowKey (lo : Option Nat) (k : Nat) : Prop := ∀ j ∈ lo, j < k

theorem terase_wfFrom (d : α) {t : Tab α} {lo : Option Nat} (k : Nat) (h : tabWfFrom d lo t = true) : tabWfFrom d lo (terase t k) = true := by
  induction t generalizing lo with
  | nil => rfl
  | cons e r ih =>
    simp only [tabWfFrom, Bool.and_eq_true] at h
    by_cases hk : e.1 = k
    · simp only [terase, hk, if_true]
      apply ih
      cases lo with
      | none => exact tabWfFrom_none d h.2
      | some j => exact tabWfFrom_weaken d h.2 (by have := h.1.1; simp at this; omega)
    · simp only [terase, hk, if_false, tabWfFrom, Bool.and_eq_true]
      exact ⟨h.1, ih h.2⟩

theorem tins_wfFrom (d : α) {t : Tab α} {lo : Option Nat} {k : Nat} {v : α} (h : tabWfFrom d lo t = true) (hv : v ≠ d)
    (ha : ∀ e ∈ t, e.1 ≠ k) (hlo : belowKey lo k) : tabWfFrom d lo (tins t k v) = true := by
  induction t generalizing lo with
  | nil => cases lo <;> simp_all [tins, tabWfFrom, belowKey]
  | cons e r ih =>
    have he : e.1 ≠ k := ha e (by simp)
    simp only [tabWfFrom, Bool.and_eq_true] at h
    by_cases hl : k < e.1
    · cases lo <;> simp_all [tins, tabWfFrom, belowKey]
    · have hk : e.1 < k := by omega
      simp only [tins, hl, if_false, tabWfFrom, Bool.and_eq_true]
      exact ⟨h.1, ih h.2 (fun x hx => ha x (by simp [hx])) (by simp [belowKey, hk])⟩

/-- Setting an entry keeps the canonical form. -/
theorem tset_wf (d : α) {t : Tab α} (k : Nat) (v : α) (h : tabWf d t = true) : tabWf d (tset d t k v) = true := by
  unfold tset
  split
  · exact terase_wfFrom d k h
  · exact tins_wfFrom d (terase_wfFrom d k h) ‹_› (terase_absent t k) (by simp [belowKey])

theorem tmod_wf (d : α) {t : Tab α} (k : Nat) (f : α → α) (h : tabWf d t = true) : tabWf d (tmod d t k f) = true := tset_wf d k _ h

theorem filter_wfFrom (d : α) {t : Tab α} {lo : Option Nat} (p : Nat × α → Bool) (h : tabWfFrom d lo t = true) :
    tabWfFrom d lo (t.filter p) = true := by
  induction t generalizing lo with
  | nil => rfl
  | cons e r ih =>
    simp only [tabWfFrom, Bool.and_eq_true] at h
    by_cases hp : p e = true
    · simp only [List.filter_cons, hp, if_true, tabWfFrom, Bool.and_eq_true]
      exact ⟨h.1, ih h.2⟩
    · simp only [List.filter_cons, hp]
      apply ih
      cases lo with
      | none => exact tabWfFrom_none d h.2
      | some j => exact tabWfFrom_weaken d h.2 (by have := h.1.1; simp at this; omega)

/-- Writing a byte keeps a memory canonical. -/
theorem mset_wf {m : Mem} (a : Nat) (b : Byte) (h : Memory.wf m = true) : Memory.wf (mset m a b) = true := tset_wf _ a b h

/-- Writing bytes keeps a memory canonical. -/
theorem mwrite_wf {m : Mem} (a : Nat) (bs : List Byte) (h : Memory.wf m = true) : Memory.wf (mwrite m a bs) = true := by
  induction bs generalizing m a with
  | nil => exact h
  | cons b bs ih => exact ih (a + 1) (mset_wf a b h)

/-- Clearing a range keeps a memory canonical. -/
theorem mclear_wf {m : Mem} (lo n : Nat) (h : Memory.wf m = true) : Memory.wf (mclear m lo n) = true := filter_wfFrom _ _ h

/-- Every operation on a memory keeps its canonical form. -/
theorem memory_operations_keep_wf {m : Mem} (h : Memory.wf m = true) (a n : Nat) (b : Byte) (bs : List Byte) :
    Memory.wf (mset m a b) = true ∧ Memory.wf (mwrite m a bs) = true ∧ Memory.wf (mclear m a n) = true :=
  ⟨mset_wf a b h, mwrite_wf a bs h, mclear_wf a n h⟩

end Sys2Proof.Machine
end

