-- ==== Sys2Proof/Laws/Frame.lean ====
section
/-! SUPPORT. How frames compose: each shared operation has one lemma, under Laws, that says which parts of the device it may change. -/

namespace Sys2Proof.Machine

theorem Core.same_refl (p : Part) (a : Core) : Core.same p a a := by cases p <;> simp [Core.same]
theorem Core.same_trans {p : Part} {a b c : Core} (h : Core.same p a b) (g : Core.same p b c) : Core.same p a c := by
  cases p <;> simp_all [Core.same]
theorem Hbm.same_refl (p : Part) (a : Hbm) : Hbm.same p a a := by cases p <;> simp [Hbm.same]
theorem Hbm.same_trans {p : Part} {a b c : Hbm} (h : Hbm.same p a b) (g : Hbm.same p b c) : Hbm.same p a c := by
  cases p <;> simp_all [Hbm.same]
theorem Dev.same_refl (p : Part) (v : Dev) : Dev.same p v v := by
  cases p <;> simp [Dev.same, Core.same_refl, Hbm.same_refl]
theorem Dev.same_trans {p : Part} {u v w : Dev} (h : Dev.same p u v) (g : Dev.same p v w) : Dev.same p u w := by
  cases p <;> first
    | exact fun c => Core.same_trans (h c) (g c)
    | exact Eq.trans g h
    | simp_all [Dev.same, Hbm.same]

theorem Dev.Within.refl (F : List Part) (v : Dev) : Dev.Within F v v := ⟨fun p _ => Dev.same_refl p v, id⟩
theorem Dev.Within.trans {F : List Part} {u v w : Dev} (h : Dev.Within F u v) (g : Dev.Within F v w) : Dev.Within F u w :=
  ⟨fun p hp => Dev.same_trans (h.1 p hp) (g.1 p hp), fun hw => g.2 (h.2 hw)⟩
theorem Dev.Within.after {F : List Part} {u v w : Dev} (g : Dev.Within F v w) (h : Dev.Within F u v) : Dev.Within F u w := h.trans g
theorem Dev.Within.mono {F G : List Part} {v w : Dev} (h : Dev.Within G v w) (s : ∀ p ∈ G, p ∈ F) : Dev.Within F v w :=
  ⟨fun p hp => h.1 p (fun q => hp (s p q)), h.2⟩
/-- One more operation after others, its footprint inside the whole one. -/
theorem Dev.Within.step {F G : List Part} {u v w : Dev} (g : Dev.Within G v w) (s : (G.all fun p => F.contains p) = true)
    (h : Dev.Within F u v) : Dev.Within F u w :=
  h.trans (g.mono fun p hp => by simpa using (List.all_eq_true.mp s) p hp)
theorem Dev.Within.sub {F G H : List Part} (s : (G.all fun p => H.contains p) = true) (t : (H.all fun p => F.contains p) = true) :
    (G.all fun p => F.contains p) = true := by
  simp only [List.all_eq_true, List.contains_eq_mem, decide_eq_true_eq] at *
  exact fun p hp => t p (s p hp)
theorem Dev.Within.forAll {α : Type} {F : List Part} {u v : Dev} {xs : List α} {f : Dev → α → Dev} (g : ∀ w x, Dev.Within F w (f w x))
    (h : Dev.Within F u v) : Dev.Within F u (v.forAll xs f) := by
  unfold Dev.forAll
  induction xs generalizing v with
  | nil => exact h
  | cons x xs ih => exact ih (h.trans (g v x))
theorem Dev.Within.forN {F : List Part} {u v : Dev} {n : Nat} {f : Nat → Dev → Dev} (g : ∀ i w, Dev.Within F w (f i w))
    (h : Dev.Within F u v) : Dev.Within F u (Sys2Proof.Machine.forN n v f) := by
  unfold Sys2Proof.Machine.forN
  generalize List.range n = xs
  induction xs generalizing v with
  | nil => exact h
  | cons x xs ih => exact ih (h.trans (g x v))
theorem Dev.Within.iter {F : List Part} {u v : Dev} {n : Nat} {f : Dev → Dev} (g : ∀ w, Dev.Within F w (f w))
    (h : Dev.Within F u v) : Dev.Within F u (Sys2Proof.Machine.iter f n v) := by
  induction n generalizing v with
  | zero => exact h
  | succ n ih => exact ih (h.trans (g v))
theorem Dev.Within.ite {F : List Part} {u v w : Dev} {c : Prop} [Decidable c] (h : Dev.Within F u v) (g : Dev.Within F u w) :
    Dev.Within F u (if c then v else w) := by split <;> assumption
theorem Dev.Within.foldl {α : Type} {F : List Part} {u v : Dev} {xs : List α} {f : Dev → α → Dev} (g : ∀ w x, Dev.Within F w (f w x))
    (h : Dev.Within F u v) : Dev.Within F u (xs.foldl f v) := Dev.Within.forAll g h
theorem Dev.Within.foldlFst {α β : Type} {F : List Part} {u : Dev} {xs : List α} {f : Dev × β → α → Dev × β} {s : Dev × β}
    (g : ∀ s x, Dev.Within F s.1 (f s x).1) (h : Dev.Within F u s.1) : Dev.Within F u (xs.foldl f s).1 := by
  induction xs generalizing s with
  | nil => exact h
  | cons x xs ih => exact ih (h.trans (g s x))
theorem Dev.Within.foldlSnd {α β : Type} {F : List Part} {u : Dev} {xs : List α} {f : β × Dev → α → β × Dev} {s : β × Dev}
    (g : ∀ s x, Dev.Within F s.2 (f s x).2) (h : Dev.Within F u s.2) : Dev.Within F u (xs.foldl f s).2 := by
  induction xs generalizing s with
  | nil => exact h
  | cons x xs ih => exact ih (h.trans (g s x))
theorem Dev.Within.iteFst {α : Type} {F : List Part} {u : Dev} {d e : Dev × α} {c : Prop} [Decidable c] (h : Dev.Within F u d.1)
    (g : Dev.Within F u e.1) : Dev.Within F u (if c then d else e).1 := by split <;> assumption
theorem Dev.Within.iteSnd {α : Type} {F : List Part} {u : Dev} {d e : α × Dev} {c : Prop} [Decidable c] (h : Dev.Within F u d.2)
    (g : Dev.Within F u e.2) : Dev.Within F u (if c then d else e).2 := by split <;> assumption
/-- A device taken out of a pair. -/
theorem Dev.Within.ofSnd {α : Type} {F : List Part} {u w : Dev} {e : α × Dev} {a : α} (q : e = (a, w)) (h : Dev.Within F u e.2) :
    Dev.Within F u w := by rw [q] at h; exact h
theorem Dev.Within.ofThird {α β : Type} {F : List Part} {u w : Dev} {e : α × β × Dev} {a : α} {b : β} (q : e = (a, b, w))
    (h : Dev.Within F u e.2.2) : Dev.Within F u w := by rw [q] at h; exact h
theorem Dev.Within.ofFst {α : Type} {F : List Part} {u w : Dev} {e : Dev × α} {a : α} (q : e = (w, a)) (h : Dev.Within F u e.1) :
    Dev.Within F u w := by rw [q] at h; exact h
theorem Dev.Within.part {q : Part} {v w : Dev} (h : ∀ p, p ≠ q → Dev.same p v w) (m : v.memWf → w.memWf) : Dev.Within [q] v w :=
  ⟨fun p hp => h p (by simpa using hp), m⟩

/-! ### Changes of a core and of the stacks -/

/-- A change of a core stays in the parts F and keeps its scratchpad canonical. -/
def Core.Within (F : List Part) (a b : Core) : Prop := (∀ p, p ∉ F → Core.same p a b) ∧ (Memory.wf a.spad = true → Memory.wf b.spad = true)
/-- A change of the stacks stays in the parts F and keeps their memory canonical. -/
def Hbm.Within (F : List Part) (a b : Hbm) : Prop := (∀ p, p ∉ F → Hbm.same p a b) ∧ (Memory.wf a.mem = true → Memory.wf b.mem = true)

theorem Core.Within.refl (F : List Part) (a : Core) : Core.Within F a a := ⟨fun p _ => Core.same_refl p a, id⟩
theorem Hbm.Within.refl (F : List Part) (a : Hbm) : Hbm.Within F a a := ⟨fun p _ => Hbm.same_refl p a, id⟩
theorem Core.Within.trans {F : List Part} {a b c : Core} (h : Core.Within F a b) (g : Core.Within F b c) : Core.Within F a c :=
  ⟨fun p hp => Core.same_trans (h.1 p hp) (g.1 p hp), fun q => g.2 (h.2 q)⟩
theorem Core.Within.step {F G : List Part} {u v w : Core} (g : Core.Within G v w) (s : (G.all fun p => F.contains p) = true)
    (h : Core.Within F u v) : Core.Within F u w :=
  h.trans ⟨fun p hp => g.1 p fun q => hp (by simpa using (List.all_eq_true.mp s) p q), g.2⟩
theorem Core.Within.foldl {α : Type} {F : List Part} {u k : Core} {xs : List α} {f : Core → α → Core} (g : ∀ k x, Core.Within F k (f k x))
    (h : Core.Within F u k) : Core.Within F u (xs.foldl f k) := by
  induction xs generalizing k with
  | nil => exact h
  | cons x xs ih => exact ih (h.trans (g k x))
theorem Core.Within.of {F : List Part} {a b : Core} (h : ∀ p, p ∉ F → Core.same p a b) (w : .spads ∉ F) : Core.Within F a b :=
  ⟨h, fun q => by rw [(h .spads w).1]; exact q⟩

@[simp] theorem Dev.core_modCore_same (v : Dev) (c : Nat) (g : Core → Core) : (v.modCore c g).core c = g (v.core c) := by
  simp [Dev.core, Dev.modCore]
theorem Dev.core_modCore_ne (v : Dev) {c x : Nat} (g : Core → Core) (h : x ≠ c) : (v.modCore c g).core x = v.core x := by
  simp [Dev.core, Dev.modCore, tget_tmod_ne _ _ _ h]

theorem Dev.modCore_within {F : List Part} {v : Dev} {c : Nat} {g : Core → Core} (h : ∀ a, Core.Within F a (g a)) : Dev.Within F v (v.modCore c g) := by
  have key : ∀ p, p ∉ F → ∀ x, Core.same p (v.core x) ((v.modCore c g).core x) := by
    intro p hp x
    by_cases hx : x = c
    · subst hx; simpa using (h _).1 p hp
    · rw [Dev.core_modCore_ne v g hx]; exact Core.same_refl _ _
  refine ⟨fun p hp => ?_, fun hw => ⟨hw.1, hw.2.1, fun x => ?_⟩⟩
  · cases p <;> first
      | exact key _ hp
      | exact rfl
      | exact Hbm.same_refl .stackMem _
      | exact Hbm.same_refl .map _
  · by_cases hx : x = c
    · subst hx; simpa using (h _).2 (hw.2.2 x)
    · rw [Dev.core_modCore_ne v g hx]; exact hw.2.2 x

theorem Dev.modHbm_within {F : List Part} {v : Dev} {g : Hbm → Hbm} (h : ∀ a, Hbm.Within F a (g a)) : Dev.Within F v (v.modHbm g) := by
  refine ⟨fun p hp => ?_, fun hw => ⟨(h _).2 hw.1, hw.2.1, hw.2.2⟩⟩
  cases p <;> first
    | exact (h v.hbm).1 _ hp
    | exact rfl
    | exact fun c => Core.same_refl _ _

theorem Hbm.Within.of {F : List Part} {a b : Hbm} (h : ∀ p, p ∉ F → Hbm.same p a b) (w : .stackMem ∉ F) : Hbm.Within F a b :=
  ⟨h, fun q => by rw [(h .stackMem w).1]; exact q⟩

theorem Dev.Within.core {F : List Part} {u v : Dev} {c : Nat} {g : Core → Core} (h : ∀ a, Core.Within F a (g a)) (k : Dev.Within F u v) :
    Dev.Within F u (v.modCore c g) := k.trans (Dev.modCore_within h)
theorem Dev.Within.hbm {F : List Part} {u v : Dev} {g : Hbm → Hbm} (h : ∀ a, Hbm.Within F a (g a)) (k : Dev.Within F u v) :
    Dev.Within F u (v.modHbm g) := k.trans (Dev.modHbm_within h)

end Sys2Proof.Machine
end

