-- ==== Sys2Proof/Laws/Elementary.lean ====
section
/-! SUPPORT. The frame of each elementary update of the device: the one part it changes. -/

namespace Sys2Proof.Machine

theorem Dev.modFtReg_within (v : Dev) (k : Nat) (g : FtRegs → FtRegs) : Dev.Within [.timeRegs] v (v.modFtReg k g) :=
  Dev.Within.part (fun p h => by cases p <;> first | exact absurd rfl h | exact rfl | exact fun c => Core.same_refl _ _ | exact Hbm.same_refl .stackMem _ | exact Hbm.same_refl .map _) id
theorem Dev.modSched_within (v : Dev) (k : Nat) (g : Sched → Sched) : Dev.Within [.schedules] v (v.modSched k g) :=
  Dev.Within.part (fun p h => by cases p <;> first | exact absurd rfl h | exact rfl | exact fun c => Core.same_refl _ _ | exact Hbm.same_refl .stackMem _ | exact Hbm.same_refl .map _) id
theorem Dev.modStrm_within (v : Dev) (k : Nat) (g : Strm → Strm) : Dev.Within [.streams] v (v.modStrm k g) :=
  Dev.Within.part (fun p h => by cases p <;> first | exact absurd rfl h | exact rfl | exact fun c => Core.same_refl _ _ | exact Hbm.same_refl .stackMem _ | exact Hbm.same_refl .map _) id
theorem Dev.modCtr_within (v : Dev) (k : Nat) (g : Ctr → Ctr) : Dev.Within [.counters] v (v.modCtr k g) :=
  Dev.Within.part (fun p h => by cases p <;> first | exact absurd rfl h | exact rfl | exact fun c => Core.same_refl _ _ | exact Hbm.same_refl .stackMem _ | exact Hbm.same_refl .map _) id
theorem Dev.modBar_within (v : Dev) (k : Nat) (g : Bar → Bar) : Dev.Within [.barriers] v (v.modBar k g) :=
  Dev.Within.part (fun p h => by cases p <;> first | exact absurd rfl h | exact rfl | exact fun c => Core.same_refl _ _ | exact Hbm.same_refl .stackMem _ | exact Hbm.same_refl .map _) id
theorem Dev.modSynSt_within (v : Dev) (k : Nat) (g : SynStat → SynStat) : Dev.Within [.syncStatus] v (v.modSynSt k g) :=
  Dev.Within.part (fun p h => by cases p <;> first | exact absurd rfl h | exact rfl | exact fun c => Core.same_refl _ _ | exact Hbm.same_refl .stackMem _ | exact Hbm.same_refl .map _) id
theorem Dev.modRgnE_within (v : Dev) (k : Nat) (g : Rgn → Rgn) : Dev.Within [.regions] v (v.modRgnE k g) :=
  Dev.Within.part (fun p h => by cases p <;> first | exact absurd rfl h | exact rfl | exact fun c => Core.same_refl _ _ | exact Hbm.same_refl .stackMem _ | exact Hbm.same_refl .map _) id
theorem Dev.modRgnSt_within (v : Dev) (k : Nat) (g : RgnStat → RgnStat) : Dev.Within [.regionStatus] v (v.modRgnSt k g) :=
  Dev.Within.part (fun p h => by cases p <;> first | exact absurd rfl h | exact rfl | exact fun c => Core.same_refl _ _ | exact Hbm.same_refl .stackMem _ | exact Hbm.same_refl .map _) id
theorem Dev.modFlt_within (v : Dev) (k : Nat) (g : FaultRec → FaultRec) : Dev.Within [.faults] v (v.modFlt k g) :=
  Dev.Within.part (fun p h => by cases p <;> first | exact absurd rfl h | exact rfl | exact fun c => Core.same_refl _ _ | exact Hbm.same_refl .stackMem _ | exact Hbm.same_refl .map _) id
theorem Dev.modCtxSwD_within (v : Dev) (k : Nat) (g : CtxSw → CtxSw) : Dev.Within [.contextSwitch] v (v.modCtxSwD k g) :=
  Dev.Within.part (fun p h => by cases p <;> first | exact absurd rfl h | exact rfl | exact fun c => Core.same_refl _ _ | exact Hbm.same_refl .stackMem _ | exact Hbm.same_refl .map _) id
theorem Dev.modFabD_within (v : Dev) (k : Nat) (g : Fab → Fab) : Dev.Within [.fabric] v (v.modFabD k g) :=
  Dev.Within.part (fun p h => by cases p <;> first | exact absurd rfl h | exact rfl | exact fun c => Core.same_refl _ _ | exact Hbm.same_refl .stackMem _ | exact Hbm.same_refl .map _) id
theorem Dev.modLinkN_within (v : Dev) (k : Nat) (g : Link → Link) : Dev.Within [.links] v (v.modLinkN k g) :=
  Dev.Within.part (fun p h => by cases p <;> first | exact absurd rfl h | exact rfl | exact fun c => Core.same_refl _ _ | exact Hbm.same_refl .stackMem _ | exact Hbm.same_refl .map _) id
theorem Dev.modHifD_within (v : Dev) (k : Nat) (g : Hif → Hif) : Dev.Within [.hif] v (v.modHifD k g) :=
  Dev.Within.part (fun p h => by cases p <;> first | exact absurd rfl h | exact rfl | exact fun c => Core.same_refl _ _ | exact Hbm.same_refl .stackMem _ | exact Hbm.same_refl .map _) id
theorem Dev.modRing_within (v : Dev) (d n : Nat) (g : Ring → Ring) : Dev.Within [.hif] v (v.modRing d n g) :=
  Dev.Within.part (fun p h => by cases p <;> first | exact absurd rfl h | exact rfl | exact fun c => Core.same_refl _ _ | exact Hbm.same_refl .stackMem _ | exact Hbm.same_refl .map _) id
theorem Dev.modLand_within (v : Dev) (d n : Nat) (g : Land → Land) : Dev.Within [.fabric] v (v.modLand d n g) :=
  Dev.Within.part (fun p h => by cases p <;> first | exact absurd rfl h | exact rfl | exact fun c => Core.same_refl _ _ | exact Hbm.same_refl .stackMem _ | exact Hbm.same_refl .map _) id
theorem Dev.modFt_within (v : Dev) (g : FabTime → FabTime) : Dev.Within [.time] v (v.modFt g) :=
  Dev.Within.part (fun p h => by cases p <;> first | exact absurd rfl h | exact rfl | exact fun c => Core.same_refl _ _ | exact Hbm.same_refl .stackMem _ | exact Hbm.same_refl .map _) id
theorem Dev.modMst_within (v : Dev) (g : Master → Master) : Dev.Within [.master] v (v.modMst g) :=
  Dev.Within.part (fun p h => by cases p <;> first | exact absurd rfl h | exact rfl | exact fun c => Core.same_refl _ _ | exact Hbm.same_refl .stackMem _ | exact Hbm.same_refl .map _) id
theorem Dev.modPwr_within (v : Dev) (g : Pwr → Pwr) : Dev.Within [.power] v (v.modPwr g) :=
  Dev.Within.part (fun p h => by cases p <;> first | exact absurd rfl h | exact rfl | exact fun c => Core.same_refl _ _ | exact Hbm.same_refl .stackMem _ | exact Hbm.same_refl .map _) id
theorem Dev.modMoult_within (v : Dev) (g : Moult → Moult) : Dev.Within [.moult, .heldWrites] v (v.modMoult g) :=
  ⟨fun p h => by cases p <;> first | exact absurd (by decide) h | exact rfl | exact fun c => Core.same_refl _ _ | exact Hbm.same_refl .stackMem _ | exact Hbm.same_refl .map _, id⟩
theorem Dev.modHeld_within (v : Dev) (g : List HeldWrite → List HeldWrite) (p : List Nat → List Nat) : Dev.Within [.heldWrites] v (v.modHeld g p) :=
  Dev.Within.part (fun p h => by cases p <;> first | exact absurd rfl h | exact rfl | exact fun c => Core.same_refl _ _ | exact Hbm.same_refl .stackMem _ | exact Hbm.same_refl .map _) id
theorem Dev.send_within (v : Dev) (m : OutMsg) : Dev.Within [.out] v (v.send m) :=
  Dev.Within.part (fun p h => by cases p <;> first | exact absurd rfl h | exact rfl | exact fun c => Core.same_refl _ _ | exact Hbm.same_refl .stackMem _ | exact Hbm.same_refl .map _) id
theorem Dev.draw_within (v : Dev) : Dev.Within [.free] v v.draw.2 :=
  Dev.Within.part (fun p h => by cases p <;> first | exact absurd rfl h | exact rfl | exact fun c => Core.same_refl _ _ | exact Hbm.same_refl .stackMem _ | exact Hbm.same_refl .map _) id
theorem Dev.modCtx_within (v : Dev) (c x : Nat) (g : Ctx → Ctx) : Dev.Within [.contexts] v (v.modCtx c x g) :=
  Dev.modCore_within fun a => Core.Within.of (fun p hp => by cases p <;> first | exact absurd (by decide) hp | simp [Core.same]) (by decide)
theorem Dev.modDmaCh_within (v : Dev) (c n : Nat) (g : DmaChan → DmaChan) : Dev.Within [.dmas] v (v.modDmaCh c n g) :=
  Dev.modCore_within fun a => Core.Within.of (fun p hp => by cases p <;> first | exact absurd (by decide) hp | simp [Core.same]) (by decide)
theorem Dev.modDma_within (v : Dev) (c : Nat) (g : DmaEng → DmaEng) : Dev.Within [.dmas] v (v.modDma c g) :=
  Dev.modCore_within fun a => Core.Within.of (fun p hp => by cases p <;> first | exact absurd (by decide) hp | simp [Core.same]) (by decide)
theorem Dev.modChan_within (v : Dev) (k : Nat) (g : Chan → Chan) : Dev.Within [.channels] v (v.modChan k g) :=
  Dev.modHbm_within (v := v) (g := fun h => { h with chans := tmod {} h.chans k g })
    fun a => ⟨fun p hp => by cases p <;> first | exact absurd (by decide) hp | simp [Hbm.same], id⟩
theorem Dev.modStk_within (v : Dev) (k : Nat) (g : Stack → Stack) : Dev.Within [.stackRegs] v (v.modStk k g) :=
  Dev.modHbm_within (v := v) (g := fun h => { h with stackRegs := tmod {} h.stackRegs k g })
    fun a => ⟨fun p hp => by cases p <;> first | exact absurd (by decide) hp | simp [Hbm.same], id⟩

theorem Dev.skipFree_within (v : Dev) (n : Nat) : Dev.Within [.free] v (v.skipFree n) :=
  Dev.Within.part (fun p h => by cases p <;> first | exact absurd rfl h | exact rfl | exact fun c => Core.same_refl _ _ | exact Hbm.same_refl .stackMem _ | exact Hbm.same_refl .map _) id

end Sys2Proof.Machine
end

