-- ==== Sys2Proof/Laws/Rings.lean ====
section
/-! SUPPORT. What each operation of Machine/Rings may change. -/

namespace Sys2Proof.Machine

/-- A command that posts no event leaves the rings to what it wrote itself. -/
theorem Dev.merged_quiet (old v : Dev) (h : ∀ d, (v.hifD d).arriving = (old.hifD d).arriving) : Dev.merged old v = v :=
  if_pos ⟨h 0, h 1⟩
theorem State.ends_quiet (s : State) (w : Dev) (h : ∀ d, (w.hifD d).arriving = (s.dev.hifD d).arriving) : s.ends w = { s with dev := w } := by
  simp [State.ends, Dev.merged_quiet _ _ h]
theorem Dev.hostWrite_within (v : Dev) (a : Nat) (bs : List Byte) : Dev.Within [.hostMem] v (v.hostWrite a bs) :=
  Dev.Within.part (fun p h => by cases p <;> first | exact absurd rfl h | exact rfl | exact fun c => Core.same_refl _ _ | exact Hbm.same_refl .stackMem _ | exact Hbm.same_refl .map _)
    (fun h => ⟨h.1, mwrite_wf _ _ h.2.1, h.2.2⟩)
theorem Dev.hostClear_within (v : Dev) (a n : Nat) : Dev.Within [.hostMem] v (v.hostClear a n) :=
  Dev.Within.part (fun p h => by cases p <;> first | exact absurd rfl h | exact rfl | exact fun c => Core.same_refl _ _ | exact Hbm.same_refl .stackMem _ | exact Hbm.same_refl .map _)
    (fun h => ⟨h.1, mclear_wf _ _ h.2.1, h.2.2⟩)
theorem Dev.putShadow_within (v : Dev) (die : Nat) (n : Nat) : Dev.Within [.hostMem, .hif] v (Dev.putShadow v die n).1 := by
  unfold Dev.putShadow
  try dsimp only
  repeat' first
    | with_reducible exact Dev.Within.refl _ _
    | with_reducible assumption
    | (with_reducible apply Dev.Within.step (Dev.modRing_within _ _ _ _)); · decide
    | (with_reducible apply Dev.Within.step (Dev.hostWrite_within _ _ _)); · decide
    | (with_reducible apply Dev.Within.ite)
    | (with_reducible apply Dev.Within.iteFst <;> try dsimp only)
    | (with_reducible apply Dev.Within.iteSnd <;> try dsimp only)
    | (intro _; try dsimp only)
    | (with_reducible apply Dev.Within.ofSnd; · with_reducible assumption)
    | (with_reducible apply Dev.Within.ofThird; · with_reducible assumption)
    | (with_reducible apply Dev.Within.ofFst; · with_reducible assumption)
    | (split <;> try dsimp only)
theorem Dev.msi_within (v : Dev) (die : Nat) (vec : Nat) : Dev.Within [.hif, .out] v (Dev.msi v die vec) := by
  unfold Dev.msi
  try dsimp only
  repeat' first
    | with_reducible exact Dev.Within.refl _ _
    | with_reducible assumption
    | (with_reducible apply Dev.Within.step (Dev.modHifD_within _ _ _)); · decide
    | (with_reducible apply Dev.Within.step (Dev.send_within _ _)); · decide
    | (with_reducible apply Dev.Within.ite)
    | (with_reducible apply Dev.Within.iteFst <;> try dsimp only)
    | (with_reducible apply Dev.Within.iteSnd <;> try dsimp only)
    | (intro _; try dsimp only)
    | (with_reducible apply Dev.Within.ofSnd; · with_reducible assumption)
    | (with_reducible apply Dev.Within.ofThird; · with_reducible assumption)
    | (with_reducible apply Dev.Within.ofFst; · with_reducible assumption)
    | (split <;> try dsimp only)
theorem Dev.putEntry_within (v : Dev) (die : Nat) (n : Nat) (o : Owed) : Dev.Within [.hostMem, .hif, .out] v (Dev.putEntry v die n o).1 := by
  unfold Dev.putEntry
  try dsimp only
  repeat' first
    | with_reducible exact Dev.Within.refl _ _
    | with_reducible assumption
    | (with_reducible apply Dev.Within.step (Dev.msi_within _ _ _)); · decide
    | (with_reducible apply Dev.Within.step (Dev.putShadow_within _ _ _)); · decide
    | (with_reducible apply Dev.Within.step (Dev.modRing_within _ _ _ _)); · decide
    | (with_reducible apply Dev.Within.step (Dev.hostWrite_within _ _ _)); · decide
    | (with_reducible apply Dev.Within.ite)
    | (with_reducible apply Dev.Within.iteFst <;> try dsimp only)
    | (with_reducible apply Dev.Within.iteSnd <;> try dsimp only)
    | (intro _; try dsimp only)
    | (with_reducible apply Dev.Within.ofSnd; · with_reducible assumption)
    | (with_reducible apply Dev.Within.ofThird; · with_reducible assumption)
    | (with_reducible apply Dev.Within.ofFst; · with_reducible assumption)
    | (split <;> try dsimp only)
theorem Dev.loseEvent_within (v : Dev) (die : Nat) : Dev.Within [.hif] v (Dev.loseEvent v die) := by
  unfold Dev.loseEvent
  try dsimp only
  repeat' first
    | with_reducible exact Dev.Within.refl _ _
    | with_reducible assumption
    | (with_reducible apply Dev.Within.step (Dev.modHifD_within _ _ _)); · decide
    | (with_reducible apply Dev.Within.ite)
    | (with_reducible apply Dev.Within.iteFst <;> try dsimp only)
    | (with_reducible apply Dev.Within.iteSnd <;> try dsimp only)
    | (intro _; try dsimp only)
    | (with_reducible apply Dev.Within.ofSnd; · with_reducible assumption)
    | (with_reducible apply Dev.Within.ofThird; · with_reducible assumption)
    | (with_reducible apply Dev.Within.ofFst; · with_reducible assumption)
    | (split <;> try dsimp only)
theorem Dev.bumpSeq_within (v : Dev) (die : Nat) : Dev.Within [.hif] v (Dev.bumpSeq v die) := by
  unfold Dev.bumpSeq
  try dsimp only
  repeat' first
    | with_reducible exact Dev.Within.refl _ _
    | with_reducible assumption
    | (with_reducible apply Dev.Within.step (Dev.modHifD_within _ _ _)); · decide
    | (with_reducible apply Dev.Within.ite)
    | (with_reducible apply Dev.Within.iteFst <;> try dsimp only)
    | (with_reducible apply Dev.Within.iteSnd <;> try dsimp only)
    | (intro _; try dsimp only)
    | (with_reducible apply Dev.Within.ofSnd; · with_reducible assumption)
    | (with_reducible apply Dev.Within.ofThird; · with_reducible assumption)
    | (with_reducible apply Dev.Within.ofFst; · with_reducible assumption)
    | (split <;> try dsimp only)
theorem Dev.eventPutDone_within (v : Dev) (die : Nat) (lostHere : Bool) (z0 : PutRes) : Dev.Within [.hif] v (Dev.eventPutDone v die lostHere z0) := by
  unfold Dev.eventPutDone
  try dsimp only
  repeat' first
    | with_reducible exact Dev.Within.refl _ _
    | with_reducible assumption
    | (with_reducible apply Dev.Within.step (Dev.bumpSeq_within _ _)); · decide
    | (with_reducible apply Dev.Within.step (Dev.loseEvent_within _ _)); · decide
    | (with_reducible apply Dev.Within.ite)
    | (with_reducible apply Dev.Within.iteFst <;> try dsimp only)
    | (with_reducible apply Dev.Within.iteSnd <;> try dsimp only)
    | (intro _; try dsimp only)
    | (with_reducible apply Dev.Within.ofSnd; · with_reducible assumption)
    | (with_reducible apply Dev.Within.ofThird; · with_reducible assumption)
    | (with_reducible apply Dev.Within.ofFst; · with_reducible assumption)
    | (split <;> try dsimp only)
theorem Dev.writeEvent_within (v : Dev) (die : Nat) (a : Arrival) : Dev.Within [.hostMem, .hif, .out] v (Dev.writeEvent v die a) := by
  unfold Dev.writeEvent
  try dsimp only
  repeat' first
    | with_reducible exact Dev.Within.refl _ _
    | with_reducible assumption
    | (with_reducible apply Dev.Within.step (Dev.bumpSeq_within _ _)); · decide
    | (with_reducible apply Dev.Within.step (Dev.eventPutDone_within _ _ _ _)); · decide
    | (with_reducible apply Dev.Within.step (Dev.loseEvent_within _ _)); · decide
    | (with_reducible apply Dev.Within.step (Dev.putEntry_within _ _ _ _)); · decide
    | (with_reducible apply Dev.Within.ite)
    | (with_reducible apply Dev.Within.iteFst <;> try dsimp only)
    | (with_reducible apply Dev.Within.iteSnd <;> try dsimp only)
    | (intro _; try dsimp only)
    | (with_reducible apply Dev.Within.ofSnd; · with_reducible assumption)
    | (with_reducible apply Dev.Within.ofThird; · with_reducible assumption)
    | (with_reducible apply Dev.Within.ofFst; · with_reducible assumption)
    | (split <;> try dsimp only)
theorem Dev.post_within (v : Dev) (die : Nat) (mgmt : Bool) (src : Nat) (code : Nat) (a0 : Nat) (a1 : Nat) : Dev.Within [.hif] v (Dev.post v die mgmt src code a0 a1) := by
  unfold Dev.post
  try dsimp only
  repeat' first
    | with_reducible exact Dev.Within.refl _ _
    | with_reducible assumption
    | (with_reducible apply Dev.Within.step (Dev.modHifD_within _ _ _)); · decide
    | (with_reducible apply Dev.Within.ite)
    | (with_reducible apply Dev.Within.iteFst <;> try dsimp only)
    | (with_reducible apply Dev.Within.iteSnd <;> try dsimp only)
    | (intro _; try dsimp only)
    | (with_reducible apply Dev.Within.ofSnd; · with_reducible assumption)
    | (with_reducible apply Dev.Within.ofThird; · with_reducible assumption)
    | (with_reducible apply Dev.Within.ofFst; · with_reducible assumption)
    | (split <;> try dsimp only)
theorem Dev.mergeDie_within (v : Dev) (die : Nat) : Dev.Within [.hostMem, .hif, .out] v (Dev.mergeDie v die) := by
  unfold Dev.mergeDie
  try dsimp only
  repeat' first
    | with_reducible exact Dev.Within.refl _ _
    | with_reducible assumption
    | (with_reducible apply Dev.Within.step (Dev.writeEvent_within _ _ _)); · decide
    | (with_reducible apply Dev.Within.step (Dev.modHifD_within _ _ _)); · decide
    | (with_reducible apply Dev.Within.ite)
    | (with_reducible apply Dev.Within.iteFst <;> try dsimp only)
    | (with_reducible apply Dev.Within.iteSnd <;> try dsimp only)
    | with_reducible apply Dev.Within.forAll
    | (intro _; try dsimp only)
    | (with_reducible apply Dev.Within.ofSnd; · with_reducible assumption)
    | (with_reducible apply Dev.Within.ofThird; · with_reducible assumption)
    | (with_reducible apply Dev.Within.ofFst; · with_reducible assumption)
    | (split <;> try dsimp only)
theorem Dev.mergeAll_within (v : Dev) : Dev.Within [.hostMem, .hif, .out] v (Dev.mergeAll v) := by
  unfold Dev.mergeAll
  try dsimp only
  repeat' first
    | with_reducible exact Dev.Within.refl _ _
    | with_reducible assumption
    | (with_reducible apply Dev.Within.step (Dev.mergeDie_within _ _)); · decide
    | (with_reducible apply Dev.Within.ite)
    | (with_reducible apply Dev.Within.iteFst <;> try dsimp only)
    | (with_reducible apply Dev.Within.iteSnd <;> try dsimp only)
    | (intro _; try dsimp only)
    | (with_reducible apply Dev.Within.ofSnd; · with_reducible assumption)
    | (with_reducible apply Dev.Within.ofThird; · with_reducible assumption)
    | (with_reducible apply Dev.Within.ofFst; · with_reducible assumption)
    | (split <;> try dsimp only)
theorem Dev.merged_within (old : Dev) (v : Dev) : Dev.Within [.hostMem, .hif, .out] v (Dev.merged old v) := by
  unfold Dev.merged
  try dsimp only
  repeat' first
    | with_reducible exact Dev.Within.refl _ _
    | with_reducible assumption
    | (with_reducible apply Dev.Within.step (Dev.mergeAll_within _)); · decide
    | (with_reducible apply Dev.Within.ite)
    | (with_reducible apply Dev.Within.iteFst <;> try dsimp only)
    | (with_reducible apply Dev.Within.iteSnd <;> try dsimp only)
    | (intro _; try dsimp only)
    | (with_reducible apply Dev.Within.ofSnd; · with_reducible assumption)
    | (with_reducible apply Dev.Within.ofThird; · with_reducible assumption)
    | (with_reducible apply Dev.Within.ofFst; · with_reducible assumption)
    | (split <;> try dsimp only)
theorem Dev.ev_within (v : Dev) (die : Nat) (src : Nat) (code : Nat) (a0 : Nat) (a1 : Nat) : Dev.Within [.hif] v (Dev.ev v die src code a0 a1) := by
  unfold Dev.ev
  try dsimp only
  repeat' first
    | with_reducible exact Dev.Within.refl _ _
    | with_reducible assumption
    | (with_reducible apply Dev.Within.step (Dev.post_within _ _ _ _ _ _ _)); · decide
    | (with_reducible apply Dev.Within.ite)
    | (with_reducible apply Dev.Within.iteFst <;> try dsimp only)
    | (with_reducible apply Dev.Within.iteSnd <;> try dsimp only)
    | (intro _; try dsimp only)
    | (with_reducible apply Dev.Within.ofSnd; · with_reducible assumption)
    | (with_reducible apply Dev.Within.ofThird; · with_reducible assumption)
    | (with_reducible apply Dev.Within.ofFst; · with_reducible assumption)
    | (split <;> try dsimp only)
theorem Dev.evMgmt_within (v : Dev) (code : Nat) (a0 : Nat) (a1 : Nat) : Dev.Within [.hif] v (Dev.evMgmt v code a0 a1) := by
  unfold Dev.evMgmt
  try dsimp only
  repeat' first
    | with_reducible exact Dev.Within.refl _ _
    | with_reducible assumption
    | (with_reducible apply Dev.Within.step (Dev.post_within _ _ _ _ _ _ _)); · decide
    | (with_reducible apply Dev.Within.ite)
    | (with_reducible apply Dev.Within.iteFst <;> try dsimp only)
    | (with_reducible apply Dev.Within.iteSnd <;> try dsimp only)
    | (intro _; try dsimp only)
    | (with_reducible apply Dev.Within.ofSnd; · with_reducible assumption)
    | (with_reducible apply Dev.Within.ofThird; · with_reducible assumption)
    | (with_reducible apply Dev.Within.ofFst; · with_reducible assumption)
    | (split <;> try dsimp only)
theorem Dev.evBoth_within (v : Dev) (code : Nat) (a0 : Nat) (a1 : Nat) : Dev.Within [.hif] v (Dev.evBoth v code a0 a1) := by
  unfold Dev.evBoth
  try dsimp only
  repeat' first
    | with_reducible exact Dev.Within.refl _ _
    | with_reducible assumption
    | (with_reducible apply Dev.Within.step (Dev.ev_within _ _ _ _ _ _)); · decide
    | (with_reducible apply Dev.Within.ite)
    | (with_reducible apply Dev.Within.iteFst <;> try dsimp only)
    | (with_reducible apply Dev.Within.iteSnd <;> try dsimp only)
    | (intro _; try dsimp only)
    | (with_reducible apply Dev.Within.ofSnd; · with_reducible assumption)
    | (with_reducible apply Dev.Within.ofThird; · with_reducible assumption)
    | (with_reducible apply Dev.Within.ofFst; · with_reducible assumption)
    | (split <;> try dsimp only)
theorem Dev.drainLost_within (v : Dev) (die : Nat) : Dev.Within [.hostMem, .hif, .out] v (Dev.drainLost v die) := by
  unfold Dev.drainLost
  try dsimp only
  repeat' first
    | with_reducible exact Dev.Within.refl _ _
    | with_reducible assumption
    | (with_reducible apply Dev.Within.step (Dev.bumpSeq_within _ _)); · decide
    | (with_reducible apply Dev.Within.step (Dev.eventPutDone_within _ _ _ _)); · decide
    | (with_reducible apply Dev.Within.step (Dev.loseEvent_within _ _)); · decide
    | (with_reducible apply Dev.Within.step (Dev.putEntry_within _ _ _ _)); · decide
    | (with_reducible apply Dev.Within.step (Dev.modHifD_within _ _ _)); · decide
    | (with_reducible apply Dev.Within.ite)
    | (with_reducible apply Dev.Within.iteFst <;> try dsimp only)
    | (with_reducible apply Dev.Within.iteSnd <;> try dsimp only)
    | (intro _; try dsimp only)
    | (with_reducible apply Dev.Within.ofSnd; · with_reducible assumption)
    | (with_reducible apply Dev.Within.ofThird; · with_reducible assumption)
    | (with_reducible apply Dev.Within.ofFst; · with_reducible assumption)
    | (split <;> try dsimp only)
theorem Dev.owe_within (v : Dev) (die : Nat) (o : OrderRef) (e : Owed) : Dev.Within [.hif] v (Dev.owe v die o e) := by
  unfold Dev.owe
  try dsimp only
  repeat' first
    | with_reducible exact Dev.Within.refl _ _
    | with_reducible assumption
    | (with_reducible apply Dev.Within.step (Dev.modRing_within _ _ _ _)); · decide
    | (with_reducible apply Dev.Within.ite)
    | (with_reducible apply Dev.Within.iteFst <;> try dsimp only)
    | (with_reducible apply Dev.Within.iteSnd <;> try dsimp only)
    | (intro _; try dsimp only)
    | (with_reducible apply Dev.Within.ofSnd; · with_reducible assumption)
    | (with_reducible apply Dev.Within.ofThird; · with_reducible assumption)
    | (with_reducible apply Dev.Within.ofFst; · with_reducible assumption)
    | (split <;> try dsimp only)
theorem Dev.accept_within (v : Dev) (die : Nat) (n : Nat) : Dev.Within [.hif] v (Dev.accept v die n) := by
  unfold Dev.accept
  try dsimp only
  repeat' first
    | with_reducible exact Dev.Within.refl _ _
    | with_reducible assumption
    | (with_reducible apply Dev.Within.step (Dev.modRing_within _ _ _ _)); · decide
    | (with_reducible apply Dev.Within.ite)
    | (with_reducible apply Dev.Within.iteFst <;> try dsimp only)
    | (with_reducible apply Dev.Within.iteSnd <;> try dsimp only)
    | (intro _; try dsimp only)
    | (with_reducible apply Dev.Within.ofSnd; · with_reducible assumption)
    | (with_reducible apply Dev.Within.ofThird; · with_reducible assumption)
    | (with_reducible apply Dev.Within.ofFst; · with_reducible assumption)
    | (split <;> try dsimp only)
theorem Dev.paid_within (v : Dev) (die : Nat) (n : Nat) (o : Owed) : Dev.Within [.hif] v (Dev.paid v die n o) := by
  unfold Dev.paid
  try dsimp only
  repeat' first
    | with_reducible exact Dev.Within.refl _ _
    | with_reducible assumption
    | (with_reducible apply Dev.Within.step (Dev.accept_within _ _ _)); · decide
    | (with_reducible apply Dev.Within.step (Dev.owe_within _ _ _ _)); · decide
    | (with_reducible apply Dev.Within.step (Dev.modRing_within _ _ _ _)); · decide
    | (with_reducible apply Dev.Within.ite)
    | (with_reducible apply Dev.Within.iteFst <;> try dsimp only)
    | (with_reducible apply Dev.Within.iteSnd <;> try dsimp only)
    | with_reducible apply Dev.Within.forAll
    | (intro _; try dsimp only)
    | (with_reducible apply Dev.Within.ofSnd; · with_reducible assumption)
    | (with_reducible apply Dev.Within.ofThird; · with_reducible assumption)
    | (with_reducible apply Dev.Within.ofFst; · with_reducible assumption)
    | (split <;> try dsimp only)
theorem Dev.drainDoneN_within (v : Dev) (die : Nat) (n : Nat) (z0 : Nat) : Dev.Within [.hostMem, .hif, .out] v (Dev.drainDoneN v die n z0) := by
  induction z0 generalizing v die n with
  | zero => unfold Dev.drainDoneN; exact Dev.Within.refl _ _
  | succ fuel ih =>
    unfold Dev.drainDoneN
    try dsimp only
    repeat' first
      | with_reducible exact Dev.Within.refl _ _
      | with_reducible assumption
      | (with_reducible apply Dev.Within.step (ih _ _ _)); · decide
      | (with_reducible apply Dev.Within.step (Dev.ev_within _ _ _ _ _ _)); · decide
      | (with_reducible apply Dev.Within.step (Dev.paid_within _ _ _ _)); · decide
      | (with_reducible apply Dev.Within.step (Dev.putEntry_within _ _ _ _)); · decide
      | (with_reducible apply Dev.Within.ite)
      | (with_reducible apply Dev.Within.iteFst <;> try dsimp only)
      | (with_reducible apply Dev.Within.iteSnd <;> try dsimp only)
      | (intro _; try dsimp only)
      | (with_reducible apply Dev.Within.ofSnd; · with_reducible assumption)
      | (with_reducible apply Dev.Within.ofThird; · with_reducible assumption)
      | (with_reducible apply Dev.Within.ofFst; · with_reducible assumption)
      | (split <;> try dsimp only)
theorem Dev.drainDone_within (v : Dev) (die : Nat) (n : Nat) : Dev.Within [.hostMem, .hif, .out] v (Dev.drainDone v die n) := by
  unfold Dev.drainDone
  try dsimp only
  repeat' first
    | with_reducible exact Dev.Within.refl _ _
    | with_reducible assumption
    | (with_reducible apply Dev.Within.step (Dev.drainDoneN_within _ _ _ _)); · decide
    | (with_reducible apply Dev.Within.ite)
    | (with_reducible apply Dev.Within.iteFst <;> try dsimp only)
    | (with_reducible apply Dev.Within.iteSnd <;> try dsimp only)
    | with_reducible apply Dev.Within.forAll
    | (intro _; try dsimp only)
    | (with_reducible apply Dev.Within.ofSnd; · with_reducible assumption)
    | (with_reducible apply Dev.Within.ofThird; · with_reducible assumption)
    | (with_reducible apply Dev.Within.ofFst; · with_reducible assumption)
    | (split <;> try dsimp only)
theorem Dev.completeThen_within (v : Dev) (die : Nat) (o : OrderRef) (status : Nat) (hst : Nat) (w2 : Nat) (w3 : Nat) (after : List (OrderRef × Nat)) : Dev.Within [.hostMem, .hif, .out] v (Dev.completeThen v die o status hst w2 w3 after) := by
  unfold Dev.completeThen
  try dsimp only
  repeat' first
    | with_reducible exact Dev.Within.refl _ _
    | with_reducible assumption
    | (with_reducible apply Dev.Within.step (Dev.drainDone_within _ _ _)); · decide
    | (with_reducible apply Dev.Within.step (Dev.owe_within _ _ _ _)); · decide
    | (with_reducible apply Dev.Within.ite)
    | (with_reducible apply Dev.Within.iteFst <;> try dsimp only)
    | (with_reducible apply Dev.Within.iteSnd <;> try dsimp only)
    | (intro _; try dsimp only)
    | (with_reducible apply Dev.Within.ofSnd; · with_reducible assumption)
    | (with_reducible apply Dev.Within.ofThird; · with_reducible assumption)
    | (with_reducible apply Dev.Within.ofFst; · with_reducible assumption)
    | (split <;> try dsimp only)
theorem Dev.complete_within (v : Dev) (die : Nat) (o : OrderRef) (status : Nat) (hst : Nat) (w2 : Nat) (w3 : Nat) : Dev.Within [.hostMem, .hif, .out] v (Dev.complete v die o status hst w2 w3) := by
  unfold Dev.complete
  try dsimp only
  repeat' first
    | with_reducible exact Dev.Within.refl _ _
    | with_reducible assumption
    | (with_reducible apply Dev.Within.step (Dev.completeThen_within _ _ _ _ _ _ _ _)); · decide
    | (with_reducible apply Dev.Within.ite)
    | (with_reducible apply Dev.Within.iteFst <;> try dsimp only)
    | (with_reducible apply Dev.Within.iteSnd <;> try dsimp only)
    | (intro _; try dsimp only)
    | (with_reducible apply Dev.Within.ofSnd; · with_reducible assumption)
    | (with_reducible apply Dev.Within.ofThird; · with_reducible assumption)
    | (with_reducible apply Dev.Within.ofFst; · with_reducible assumption)
    | (split <;> try dsimp only)

end Sys2Proof.Machine
end

