-- ==== Sys2Proof/Laws/Memory.lean ====
section
/-! SUPPORT. What each operation of Machine/Memory may change. -/

namespace Sys2Proof.Machine

theorem Dev.pathError_within (v : Dev) (x : Nat) (req : Nat) : Dev.Within [.stackMem, .channels, .hif] v (Dev.pathError v x req) := by
  unfold Dev.pathError
  try dsimp only
  repeat' first
    | with_reducible exact Dev.Within.refl _ _
    | with_reducible assumption
    | (with_reducible apply Dev.Within.step (Dev.ev_within _ _ _ _ _ _)); · decide
    | (with_reducible apply Dev.Within.step (Dev.modChan_within _ _ _)); · decide
    | with_reducible apply Dev.Within.hbm
    | (with_reducible apply Dev.Within.ite)
    | (with_reducible apply Dev.Within.iteFst <;> try dsimp only)
    | (with_reducible apply Dev.Within.iteSnd <;> try dsimp only)
    | (intro _; try dsimp only)
    | with_reducible exact Hbm.Within.refl _ _
    | exact ⟨fun p hp => by cases p <;> first | exact absurd (by decide) hp | simp [Hbm.same], fun h => by first | exact h | exact mwrite_wf _ _ h | exact mclear_wf _ _ h | exact filter_wfFrom _ _ h | rfl⟩
    | (with_reducible apply Dev.Within.ofSnd; · with_reducible assumption)
    | (with_reducible apply Dev.Within.ofThird; · with_reducible assumption)
    | (with_reducible apply Dev.Within.ofFst; · with_reducible assumption)
    | (split <;> try dsimp only)
theorem Dev.softErrs_within (v : Dev) (a : Nat) (n : Nat) : Dev.Within [.stackMem, .channels] v (Dev.softErrs v a n) := by
  unfold Dev.softErrs
  try dsimp only
  repeat' first
    | with_reducible exact Dev.Within.refl _ _
    | with_reducible assumption
    | (with_reducible apply Dev.Within.step (Dev.modChan_within _ _ _)); · decide
    | with_reducible apply Dev.Within.hbm
    | (with_reducible apply Dev.Within.ite)
    | (with_reducible apply Dev.Within.iteFst <;> try dsimp only)
    | (with_reducible apply Dev.Within.iteSnd <;> try dsimp only)
    | with_reducible apply Dev.Within.forAll
    | (intro _; try dsimp only)
    | with_reducible exact Hbm.Within.refl _ _
    | exact ⟨fun p hp => by cases p <;> first | exact absurd (by decide) hp | simp [Hbm.same], fun h => by first | exact h | exact mwrite_wf _ _ h | exact mclear_wf _ _ h | exact filter_wfFrom _ _ h | rfl⟩
    | (with_reducible apply Dev.Within.ofSnd; · with_reducible assumption)
    | (with_reducible apply Dev.Within.ofThird; · with_reducible assumption)
    | (with_reducible apply Dev.Within.ofFst; · with_reducible assumption)
    | (split <;> try dsimp only)
theorem Dev.memParity_within (v : Dev) (c : Nat) (acc : Bool) (addr : Nat) : Dev.Within [.coreRegs, .hif] v (Dev.memParity v c acc addr) := by
  unfold Dev.memParity
  try dsimp only
  repeat' first
    | with_reducible exact Dev.Within.refl _ _
    | with_reducible assumption
    | (with_reducible apply Dev.Within.step (Dev.ev_within _ _ _ _ _ _)); · decide
    | with_reducible apply Dev.Within.core
    | (with_reducible apply Dev.Within.ite)
    | (with_reducible apply Dev.Within.iteFst <;> try dsimp only)
    | (with_reducible apply Dev.Within.iteSnd <;> try dsimp only)
    | (intro _; try dsimp only)
    | with_reducible exact Core.Within.refl _ _
    | exact ⟨fun p hp => by cases p <;> first | exact absurd (by decide) hp | simp [Core.same], fun h => by first | exact h | exact mwrite_wf _ _ h | exact mclear_wf _ _ h | exact filter_wfFrom _ _ h | rfl⟩
    | (with_reducible apply Dev.Within.ofSnd; · with_reducible assumption)
    | (with_reducible apply Dev.Within.ofThird; · with_reducible assumption)
    | (with_reducible apply Dev.Within.ofFst; · with_reducible assumption)
    | (split <;> try dsimp only)
theorem Dev.coolWing_within (v : Dev) (c : Nat) : Dev.Within [.contextSwitch] v (Dev.coolWing v c) := by
  unfold Dev.coolWing
  try dsimp only
  repeat' first
    | with_reducible exact Dev.Within.refl _ _
    | with_reducible assumption
    | (with_reducible apply Dev.Within.step (Dev.modCtxSwD_within _ _ _)); · decide
    | (with_reducible apply Dev.Within.ite)
    | (with_reducible apply Dev.Within.iteFst <;> try dsimp only)
    | (with_reducible apply Dev.Within.iteSnd <;> try dsimp only)
    | (intro _; try dsimp only)
    | (with_reducible apply Dev.Within.ofSnd; · with_reducible assumption)
    | (with_reducible apply Dev.Within.ofThird; · with_reducible assumption)
    | (with_reducible apply Dev.Within.ofFst; · with_reducible assumption)
    | (split <;> try dsimp only)
theorem Dev.sendSignal_within (v : Dev) (id : Nat) : Dev.Within [.counters] v (Dev.sendSignal v id) := by
  unfold Dev.sendSignal
  try dsimp only
  repeat' first
    | with_reducible exact Dev.Within.refl _ _
    | with_reducible assumption
    | (with_reducible apply Dev.Within.step (Dev.modCtr_within _ _ _)); · decide
    | (with_reducible apply Dev.Within.ite)
    | (with_reducible apply Dev.Within.iteFst <;> try dsimp only)
    | (with_reducible apply Dev.Within.iteSnd <;> try dsimp only)
    | (intro _; try dsimp only)
    | (with_reducible apply Dev.Within.ofSnd; · with_reducible assumption)
    | (with_reducible apply Dev.Within.ofThird; · with_reducible assumption)
    | (with_reducible apply Dev.Within.ofFst; · with_reducible assumption)
    | (split <;> try dsimp only)
theorem Dev.sendSignals_within (v : Dev) (ids : List Nat) : Dev.Within [.counters] v (Dev.sendSignals v ids) := by
  unfold Dev.sendSignals
  try dsimp only
  repeat' first
    | with_reducible exact Dev.Within.refl _ _
    | with_reducible assumption
    | (with_reducible apply Dev.Within.step (Dev.sendSignal_within _ _)); · decide
    | (with_reducible apply Dev.Within.step (Dev.modCtr_within _ _ _)); · decide
    | (with_reducible apply Dev.Within.ite)
    | (with_reducible apply Dev.Within.iteFst <;> try dsimp only)
    | (with_reducible apply Dev.Within.iteSnd <;> try dsimp only)
    | with_reducible apply Dev.Within.forAll
    | (intro _; try dsimp only)
    | (with_reducible apply Dev.Within.ofSnd; · with_reducible assumption)
    | (with_reducible apply Dev.Within.ofThird; · with_reducible assumption)
    | (with_reducible apply Dev.Within.ofFst; · with_reducible assumption)
    | (split <;> try dsimp only)
theorem Dev.setMisuse_within (v : Dev) (id : Nat) : Dev.Within [.counters, .syncStatus, .hif] v (Dev.setMisuse v id) := by
  unfold Dev.setMisuse
  try dsimp only
  repeat' first
    | with_reducible exact Dev.Within.refl _ _
    | with_reducible assumption
    | (with_reducible apply Dev.Within.step (Dev.ev_within _ _ _ _ _ _)); · decide
    | (with_reducible apply Dev.Within.step (Dev.modCtr_within _ _ _)); · decide
    | (with_reducible apply Dev.Within.step (Dev.modSynSt_within _ _ _)); · decide
    | (with_reducible apply Dev.Within.ite)
    | (with_reducible apply Dev.Within.iteFst <;> try dsimp only)
    | (with_reducible apply Dev.Within.iteSnd <;> try dsimp only)
    | (intro _; try dsimp only)
    | (with_reducible apply Dev.Within.ofSnd; · with_reducible assumption)
    | (with_reducible apply Dev.Within.ofThird; · with_reducible assumption)
    | (with_reducible apply Dev.Within.ofFst; · with_reducible assumption)
    | (split <;> try dsimp only)
theorem Dev.setOverflow_within (v : Dev) (id : Nat) : Dev.Within [.counters, .syncStatus, .hif] v (Dev.setOverflow v id) := by
  unfold Dev.setOverflow
  try dsimp only
  repeat' first
    | with_reducible exact Dev.Within.refl _ _
    | with_reducible assumption
    | (with_reducible apply Dev.Within.step (Dev.ev_within _ _ _ _ _ _)); · decide
    | (with_reducible apply Dev.Within.step (Dev.modCtr_within _ _ _)); · decide
    | (with_reducible apply Dev.Within.step (Dev.modSynSt_within _ _ _)); · decide
    | (with_reducible apply Dev.Within.ite)
    | (with_reducible apply Dev.Within.iteFst <;> try dsimp only)
    | (with_reducible apply Dev.Within.iteSnd <;> try dsimp only)
    | (intro _; try dsimp only)
    | (with_reducible apply Dev.Within.ofSnd; · with_reducible assumption)
    | (with_reducible apply Dev.Within.ofThird; · with_reducible assumption)
    | (with_reducible apply Dev.Within.ofFst; · with_reducible assumption)
    | (split <;> try dsimp only)
theorem Dev.syncBad_within (v : Dev) (die : Nat) (off : Nat) : Dev.Within [.syncStatus, .hif] v (Dev.syncBad v die off) := by
  unfold Dev.syncBad
  try dsimp only
  repeat' first
    | with_reducible exact Dev.Within.refl _ _
    | with_reducible assumption
    | (with_reducible apply Dev.Within.step (Dev.ev_within _ _ _ _ _ _)); · decide
    | (with_reducible apply Dev.Within.step (Dev.modSynSt_within _ _ _)); · decide
    | (with_reducible apply Dev.Within.ite)
    | (with_reducible apply Dev.Within.iteFst <;> try dsimp only)
    | (with_reducible apply Dev.Within.iteSnd <;> try dsimp only)
    | (intro _; try dsimp only)
    | (with_reducible apply Dev.Within.ofSnd; · with_reducible assumption)
    | (with_reducible apply Dev.Within.ofThird; · with_reducible assumption)
    | (with_reducible apply Dev.Within.ofFst; · with_reducible assumption)
    | (split <;> try dsimp only)
theorem Dev.stkPut_within (v : Dev) (a : Nat) (bs : List Byte) : Dev.Within [.stackMem] v (Dev.stkPut v a bs) := by
  unfold Dev.stkPut
  try dsimp only
  repeat' first
    | with_reducible exact Dev.Within.refl _ _
    | with_reducible assumption
    | with_reducible apply Dev.Within.hbm
    | (with_reducible apply Dev.Within.ite)
    | (with_reducible apply Dev.Within.iteFst <;> try dsimp only)
    | (with_reducible apply Dev.Within.iteSnd <;> try dsimp only)
    | (intro _; try dsimp only)
    | with_reducible exact Hbm.Within.refl _ _
    | exact ⟨fun p hp => by cases p <;> first | exact absurd (by decide) hp | simp [Hbm.same], fun h => by first | exact h | exact mwrite_wf _ _ h | exact mclear_wf _ _ h | exact filter_wfFrom _ _ h | rfl⟩
    | (with_reducible apply Dev.Within.ofSnd; · with_reducible assumption)
    | (with_reducible apply Dev.Within.ofThird; · with_reducible assumption)
    | (with_reducible apply Dev.Within.ofFst; · with_reducible assumption)
    | (split <;> try dsimp only)
theorem Dev.setVslot_within (v : Dev) (a : Nat) (w : Nat) (s : VSlot) : Dev.Within [.stackMem] v (Dev.setVslot v a w s) := by
  unfold Dev.setVslot
  try dsimp only
  repeat' first
    | with_reducible exact Dev.Within.refl _ _
    | with_reducible assumption
    | (with_reducible apply Dev.Within.step (Dev.stkPut_within _ _ _)); · decide
    | (with_reducible apply Dev.Within.ite)
    | (with_reducible apply Dev.Within.iteFst <;> try dsimp only)
    | (with_reducible apply Dev.Within.iteSnd <;> try dsimp only)
    | (intro _; try dsimp only)
    | (with_reducible apply Dev.Within.ofSnd; · with_reducible assumption)
    | (with_reducible apply Dev.Within.ofThird; · with_reducible assumption)
    | (with_reducible apply Dev.Within.ofFst; · with_reducible assumption)
    | (split <;> try dsimp only)
theorem Dev.versionOp_within (v : Dev) (a : Nat) (data : Nat) : Dev.Within [.stackMem, .stackRegs, .hif] v (Dev.versionOp v a data) := by
  unfold Dev.versionOp
  try dsimp only
  repeat' first
    | with_reducible exact Dev.Within.refl _ _
    | with_reducible assumption
    | (with_reducible apply Dev.Within.step (Dev.ev_within _ _ _ _ _ _)); · decide
    | (with_reducible apply Dev.Within.step (Dev.setVslot_within _ _ _ _)); · decide
    | (with_reducible apply Dev.Within.step (Dev.stkPut_within _ _ _)); · decide
    | (with_reducible apply Dev.Within.step (Dev.modStk_within _ _ _)); · decide
    | (with_reducible apply Dev.Within.ite)
    | (with_reducible apply Dev.Within.iteFst <;> try dsimp only)
    | (with_reducible apply Dev.Within.iteSnd <;> try dsimp only)
    | (intro _; try dsimp only)
    | (with_reducible apply Dev.Within.ofSnd; · with_reducible assumption)
    | (with_reducible apply Dev.Within.ofThird; · with_reducible assumption)
    | (with_reducible apply Dev.Within.ofFst; · with_reducible assumption)
    | (split <;> try dsimp only)
theorem Dev.applyTask_within (v : Dev) (z0 : EngTask) : Dev.Within [.stackMem, .stackRegs, .hif] v (Dev.applyTask v z0) := by
  unfold Dev.applyTask
  try dsimp only
  repeat' first
    | with_reducible exact Dev.Within.refl _ _
    | with_reducible assumption
    | (with_reducible apply Dev.Within.step (Dev.stkPut_within _ _ _)); · decide
    | (with_reducible apply Dev.Within.step (Dev.versionOp_within _ _ _)); · decide
    | (with_reducible apply Dev.Within.ite)
    | (with_reducible apply Dev.Within.iteFst <;> try dsimp only)
    | (with_reducible apply Dev.Within.iteSnd <;> try dsimp only)
    | (intro _; try dsimp only)
    | (with_reducible apply Dev.Within.ofSnd; · with_reducible assumption)
    | (with_reducible apply Dev.Within.ofThird; · with_reducible assumption)
    | (with_reducible apply Dev.Within.ofFst; · with_reducible assumption)
    | (split <;> try dsimp only)
theorem Dev.tookSlot_within (v : Dev) (ch : Nat) : Dev.Within [.stackRegs] v (Dev.tookSlot v ch) := by
  unfold Dev.tookSlot
  try dsimp only
  repeat' first
    | with_reducible exact Dev.Within.refl _ _
    | with_reducible assumption
    | (with_reducible apply Dev.Within.step (Dev.modStk_within _ _ _)); · decide
    | (with_reducible apply Dev.Within.ite)
    | (with_reducible apply Dev.Within.iteFst <;> try dsimp only)
    | (with_reducible apply Dev.Within.iteSnd <;> try dsimp only)
    | (intro _; try dsimp only)
    | (with_reducible apply Dev.Within.ofSnd; · with_reducible assumption)
    | (with_reducible apply Dev.Within.ofThird; · with_reducible assumption)
    | (with_reducible apply Dev.Within.ofFst; · with_reducible assumption)
    | (split <;> try dsimp only)
theorem Dev.submit_within (v : Dev) (t : EngTask) (req : Nat) (owner : Option Owner) : Dev.Within [.stackMem, .channels, .stackRegs, .heldWrites, .hif] v (Dev.submit v t req owner) := by
  unfold Dev.submit
  try dsimp only
  repeat' first
    | with_reducible exact Dev.Within.refl _ _
    | with_reducible assumption
    | (with_reducible apply Dev.Within.step (Dev.applyTask_within _ _)); · decide
    | (with_reducible apply Dev.Within.step (Dev.tookSlot_within _ _)); · decide
    | (with_reducible apply Dev.Within.step (Dev.modHeld_within _ _ _)); · decide
    | (with_reducible apply Dev.Within.step (Dev.modChan_within _ _ _)); · decide
    | (with_reducible apply Dev.Within.ite)
    | (with_reducible apply Dev.Within.iteFst <;> try dsimp only)
    | (with_reducible apply Dev.Within.iteSnd <;> try dsimp only)
    | (intro _; try dsimp only)
    | (with_reducible apply Dev.Within.ofSnd; · with_reducible assumption)
    | (with_reducible apply Dev.Within.ofThird; · with_reducible assumption)
    | (with_reducible apply Dev.Within.ofFst; · with_reducible assumption)
    | (split <;> try dsimp only)
theorem Dev.stackWriteN_within (v : Dev) (a : Nat) (bs : List Byte) (req : Nat) (owner : Option Owner) (z0 : Nat) : Dev.Within [.stackMem, .channels, .stackRegs, .heldWrites, .hif] v (Dev.stackWriteN v a bs req owner z0) := by
  induction z0 generalizing v a bs req owner with
  | zero => unfold Dev.stackWriteN; exact Dev.Within.refl _ _
  | succ fuel ih =>
    unfold Dev.stackWriteN
    try dsimp only
    repeat' first
      | with_reducible exact Dev.Within.refl _ _
      | with_reducible assumption
      | (with_reducible apply Dev.Within.step (ih _ _ _ _ _)); · decide
      | (with_reducible apply Dev.Within.step (Dev.submit_within _ _ _ _)); · decide
      | (with_reducible apply Dev.Within.ite)
      | (with_reducible apply Dev.Within.iteFst <;> try dsimp only)
      | (with_reducible apply Dev.Within.iteSnd <;> try dsimp only)
      | (intro _; try dsimp only)
      | (with_reducible apply Dev.Within.ofSnd; · with_reducible assumption)
      | (with_reducible apply Dev.Within.ofThird; · with_reducible assumption)
      | (with_reducible apply Dev.Within.ofFst; · with_reducible assumption)
      | (split <;> try dsimp only)
theorem Dev.stackWrite_within (v : Dev) (a : Nat) (bs : List Byte) (req : Nat) (owner : Option Owner) : Dev.Within [.stackMem, .channels, .stackRegs, .heldWrites, .hif] v (Dev.stackWrite v a bs req owner) := by
  unfold Dev.stackWrite
  try dsimp only
  repeat' first
    | with_reducible exact Dev.Within.refl _ _
    | with_reducible assumption
    | (with_reducible apply Dev.Within.step (Dev.stackWriteN_within _ _ _ _ _ _)); · decide
    | (with_reducible apply Dev.Within.step (Dev.stkPut_within _ _ _)); · decide
    | (with_reducible apply Dev.Within.ite)
    | (with_reducible apply Dev.Within.iteFst <;> try dsimp only)
    | (with_reducible apply Dev.Within.iteSnd <;> try dsimp only)
    | (intro _; try dsimp only)
    | (with_reducible apply Dev.Within.ofSnd; · with_reducible assumption)
    | (with_reducible apply Dev.Within.ofThird; · with_reducible assumption)
    | (with_reducible apply Dev.Within.ofFst; · with_reducible assumption)
    | (split <;> try dsimp only)
theorem Dev.rdModule_within (v : Dev) (die : Nat) (off : Nat) (n : Nat) (req : Nat) : Dev.Within [.coreRegs, .syncStatus, .stackMem, .channels, .hif] v (Dev.rdModule v die off n req).2 := by
  unfold Dev.rdModule
  try dsimp only
  repeat' first
    | with_reducible exact Dev.Within.refl _ _
    | with_reducible assumption
    | (with_reducible apply Dev.Within.step (Dev.ev_within _ _ _ _ _ _)); · decide
    | (with_reducible apply Dev.Within.step (Dev.memParity_within _ _ _ _)); · decide
    | (with_reducible apply Dev.Within.step (Dev.pathError_within _ _ _)); · decide
    | (with_reducible apply Dev.Within.step (Dev.softErrs_within _ _ _)); · decide
    | (with_reducible apply Dev.Within.step (Dev.syncBad_within _ _ _)); · decide
    | (with_reducible apply Dev.Within.ite)
    | (with_reducible apply Dev.Within.iteFst <;> try dsimp only)
    | (with_reducible apply Dev.Within.iteSnd <;> try dsimp only)
    | (intro _; try dsimp only)
    | (with_reducible apply Dev.Within.ofSnd; · with_reducible assumption)
    | (with_reducible apply Dev.Within.ofThird; · with_reducible assumption)
    | (with_reducible apply Dev.Within.ofFst; · with_reducible assumption)
    | (split <;> try dsimp only)
theorem Dev.wrModule_within (v : Dev) (die : Nat) (off : Nat) (bs : List Byte) (req : Nat) (chip : Option Nat) (owner : Option Owner) : Dev.Within [.spads, .counters, .syncStatus, .stackMem, .channels, .stackRegs, .heldWrites, .contextSwitch, .hif] v (Dev.wrModule v die off bs req chip owner).2 := by
  unfold Dev.wrModule
  try dsimp only
  repeat' first
    | with_reducible exact Dev.Within.refl _ _
    | with_reducible assumption
    | (with_reducible apply Dev.Within.step (Dev.coolWing_within _ _)); · decide
    | (with_reducible apply Dev.Within.step (Dev.ev_within _ _ _ _ _ _)); · decide
    | (with_reducible apply Dev.Within.step (Dev.pathError_within _ _ _)); · decide
    | (with_reducible apply Dev.Within.step (Dev.sendSignal_within _ _)); · decide
    | (with_reducible apply Dev.Within.step (Dev.softErrs_within _ _ _)); · decide
    | (with_reducible apply Dev.Within.step (Dev.stackWrite_within _ _ _ _ _)); · decide
    | (with_reducible apply Dev.Within.step (Dev.submit_within _ _ _ _)); · decide
    | (with_reducible apply Dev.Within.step (Dev.syncBad_within _ _ _)); · decide
    | with_reducible apply Dev.Within.core
    | (with_reducible apply Dev.Within.ite)
    | (with_reducible apply Dev.Within.iteFst <;> try dsimp only)
    | (with_reducible apply Dev.Within.iteSnd <;> try dsimp only)
    | (intro _; try dsimp only)
    | with_reducible exact Core.Within.refl _ _
    | (with_reducible unfold Core.spadWrite; try dsimp only)
    | exact ⟨fun p hp => by cases p <;> first | exact absurd (by decide) hp | simp [Core.same, Core.spadWrite], fun h => by (try simp only [Core.spadWrite]); first | exact h | exact mwrite_wf _ _ h | exact mclear_wf _ _ h | exact filter_wfFrom _ _ h | rfl⟩
    | (with_reducible apply Dev.Within.ofSnd; · with_reducible assumption)
    | (with_reducible apply Dev.Within.ofThird; · with_reducible assumption)
    | (with_reducible apply Dev.Within.ofFst; · with_reducible assumption)
    | (split <;> try dsimp only)
theorem Dev.rdIssued_within (v : Dev) (die : Nat) (a : W64) (n : Nat) (req : Nat) : Dev.Within [.coreRegs, .syncStatus, .stackMem, .channels, .hif] v (Dev.rdIssued v die a n req).2 := by
  unfold Dev.rdIssued
  try dsimp only
  repeat' first
    | with_reducible exact Dev.Within.refl _ _
    | with_reducible assumption
    | (with_reducible apply Dev.Within.step (Dev.rdModule_within _ _ _ _ _)); · decide
    | (with_reducible apply Dev.Within.ite)
    | (with_reducible apply Dev.Within.iteFst <;> try dsimp only)
    | (with_reducible apply Dev.Within.iteSnd <;> try dsimp only)
    | (intro _; try dsimp only)
    | (with_reducible apply Dev.Within.ofSnd; · with_reducible assumption)
    | (with_reducible apply Dev.Within.ofThird; · with_reducible assumption)
    | (with_reducible apply Dev.Within.ofFst; · with_reducible assumption)
    | (split <;> try dsimp only)
theorem Dev.rdGlobal_within (v : Dev) (die : Nat) (a : W64) (n : Nat) (req : Nat) : Dev.Within [.coreRegs, .syncStatus, .stackMem, .channels, .hif] v (Dev.rdGlobal v die a n req).2 := by
  unfold Dev.rdGlobal
  try dsimp only
  repeat' first
    | with_reducible exact Dev.Within.refl _ _
    | with_reducible assumption
    | (with_reducible apply Dev.Within.step (Dev.rdIssued_within _ _ _ _ _)); · decide
    | (with_reducible apply Dev.Within.ite)
    | (with_reducible apply Dev.Within.iteFst <;> try dsimp only)
    | (with_reducible apply Dev.Within.iteSnd <;> try dsimp only)
    | (intro _; try dsimp only)
    | (with_reducible apply Dev.Within.ofSnd; · with_reducible assumption)
    | (with_reducible apply Dev.Within.ofThird; · with_reducible assumption)
    | (with_reducible apply Dev.Within.ofFst; · with_reducible assumption)
    | (split <;> try dsimp only)
theorem Dev.wrIssued_within (v : Dev) (die : Nat) (a : W64) (bs : List Byte) (req : Nat) (owner : Option Owner) : Dev.Within [.spads, .counters, .syncStatus, .stackMem, .channels, .stackRegs, .hostMem, .heldWrites, .contextSwitch, .hif] v (Dev.wrIssued v die a bs req owner).2 := by
  unfold Dev.wrIssued
  try dsimp only
  repeat' first
    | with_reducible exact Dev.Within.refl _ _
    | with_reducible assumption
    | (with_reducible apply Dev.Within.step (Dev.wrModule_within _ _ _ _ _ _ _)); · decide
    | (with_reducible apply Dev.Within.step (Dev.hostWrite_within _ _ _)); · decide
    | (with_reducible apply Dev.Within.ite)
    | (with_reducible apply Dev.Within.iteFst <;> try dsimp only)
    | (with_reducible apply Dev.Within.iteSnd <;> try dsimp only)
    | (intro _; try dsimp only)
    | (with_reducible apply Dev.Within.ofSnd; · with_reducible assumption)
    | (with_reducible apply Dev.Within.ofThird; · with_reducible assumption)
    | (with_reducible apply Dev.Within.ofFst; · with_reducible assumption)
    | (split <;> try dsimp only)
theorem Dev.wrGlobal_within (v : Dev) (die : Nat) (a : W64) (bs : List Byte) (req : Nat) (owner : Option Owner) : Dev.Within [.spads, .counters, .syncStatus, .stackMem, .channels, .stackRegs, .hostMem, .heldWrites, .contextSwitch, .hif] v (Dev.wrGlobal v die a bs req owner).2 := by
  unfold Dev.wrGlobal
  try dsimp only
  repeat' first
    | with_reducible exact Dev.Within.refl _ _
    | with_reducible assumption
    | (with_reducible apply Dev.Within.step (Dev.wrIssued_within _ _ _ _ _ _)); · decide
    | (with_reducible apply Dev.Within.ite)
    | (with_reducible apply Dev.Within.iteFst <;> try dsimp only)
    | (with_reducible apply Dev.Within.iteSnd <;> try dsimp only)
    | (intro _; try dsimp only)
    | (with_reducible apply Dev.Within.ofSnd; · with_reducible assumption)
    | (with_reducible apply Dev.Within.ofThird; · with_reducible assumption)
    | (with_reducible apply Dev.Within.ofFst; · with_reducible assumption)
    | (split <;> try dsimp only)

end Sys2Proof.Machine
end

