-- ==== Sys2Proof/Laws/Cache.lean ====
section
/-! SUPPORT. What each operation of Machine/Cache may change. -/

namespace Sys2Proof.Machine

theorem Dev.l2Fill_within (v : Dev) (c : Nat) (n : Nat) (bs : List Byte) : Dev.Within [.caches, .free] v (Dev.l2Fill v c n bs) := by
  unfold Dev.l2Fill
  try dsimp only
  repeat' first
    | with_reducible exact Dev.Within.refl _ _
    | with_reducible assumption
    | (with_reducible apply Dev.Within.step (Dev.draw_within _)); · decide
    | with_reducible apply Dev.Within.core
    | (with_reducible apply Dev.Within.ite)
    | (with_reducible apply Dev.Within.iteFst <;> try dsimp only)
    | (with_reducible apply Dev.Within.iteSnd <;> try dsimp only)
    | (intro _; try dsimp only)
    | with_reducible exact Core.Within.refl _ _
    | exact ⟨fun p hp => by cases p <;> first | exact absurd (by decide) hp | simp [Core.same], fun h => by first | exact h | exact mwrite_wf _ _ h | exact mclear_wf _ _ h | exact filter_wfFrom _ _ h | rfl⟩
    | (with_reducible apply Dev.Within.ofSnd; · with_reducible assumption)
    | (with_reducible apply Dev.Within.ofThird; · with_reducible assumption)
    | (with_reducible apply Dev.Within.ofFst; · with_reducible assumption)
    | (split <;> try dsimp only)
theorem Dev.l2Scrub_within (v : Dev) (c : Nat) (n : Nat) (off : Nat) (len : Nat) : Dev.Within [.caches, .coreRegs] v (Dev.l2Scrub v c n off len) := by
  unfold Dev.l2Scrub
  try dsimp only
  repeat' first
    | with_reducible exact Dev.Within.refl _ _
    | with_reducible assumption
    | with_reducible apply Dev.Within.core
    | (with_reducible apply Dev.Within.ite)
    | (with_reducible apply Dev.Within.iteFst <;> try dsimp only)
    | (with_reducible apply Dev.Within.iteSnd <;> try dsimp only)
    | (intro _; try dsimp only)
    | with_reducible exact Core.Within.refl _ _
    | (with_reducible unfold Core.corrected; try dsimp only)
    | exact ⟨fun p hp => by cases p <;> first | exact absurd (by decide) hp | simp [Core.same, Core.corrected], fun h => by (try simp only [Core.corrected]); first | exact h | exact mwrite_wf _ _ h | exact mclear_wf _ _ h | exact filter_wfFrom _ _ h | rfl⟩
    | (with_reducible apply Dev.Within.ofSnd; · with_reducible assumption)
    | (with_reducible apply Dev.Within.ofThird; · with_reducible assumption)
    | (with_reducible apply Dev.Within.ofFst; · with_reducible assumption)
    | (split <;> try dsimp only)
theorem Dev.l2Read_within (v : Dev) (c : Nat) (n : Nat) (off : Nat) (len : Nat) (keep : Bool) (req : Nat) : Dev.Within [.caches, .coreRegs, .syncStatus, .stackMem, .channels, .hif, .free] v (Dev.l2Read v c n off len keep req).2 := by
  unfold Dev.l2Read
  try dsimp only
  repeat' first
    | with_reducible exact Dev.Within.refl _ _
    | with_reducible assumption
    | (with_reducible apply Dev.Within.step (Dev.l2Fill_within _ _ _ _)); · decide
    | (with_reducible apply Dev.Within.step (Dev.l2Scrub_within _ _ _ _ _)); · decide
    | (with_reducible apply Dev.Within.step (Dev.rdModule_within _ _ _ _ _)); · decide
    | (with_reducible apply Dev.Within.ite)
    | (with_reducible apply Dev.Within.iteFst <;> try dsimp only)
    | (with_reducible apply Dev.Within.iteSnd <;> try dsimp only)
    | (intro _; try dsimp only)
    | (with_reducible apply Dev.Within.ofSnd; · with_reducible assumption)
    | (with_reducible apply Dev.Within.ofThird; · with_reducible assumption)
    | (with_reducible apply Dev.Within.ofFst; · with_reducible assumption)
    | (split <;> try dsimp only)
theorem Dev.l2Through_within (v : Dev) (c : Nat) (a : Nat) (bs : List Byte) (owner : Option Owner) : Dev.Within [.spads, .caches, .counters, .syncStatus, .stackMem, .channels, .stackRegs, .heldWrites, .contextSwitch, .hif] v (Dev.l2Through v c a bs owner).2 := by
  unfold Dev.l2Through
  try dsimp only
  repeat' first
    | with_reducible exact Dev.Within.refl _ _
    | with_reducible assumption
    | (with_reducible apply Dev.Within.step (Dev.wrModule_within _ _ _ _ _ _ _)); · decide
    | with_reducible apply Dev.Within.core
    | (with_reducible apply Dev.Within.ite)
    | (with_reducible apply Dev.Within.iteFst <;> try dsimp only)
    | (with_reducible apply Dev.Within.iteSnd <;> try dsimp only)
    | (intro _; try dsimp only)
    | with_reducible exact Core.Within.refl _ _
    | (with_reducible unfold Core.l2Write; try dsimp only)
    | exact ⟨fun p hp => by cases p <;> first | exact absurd (by decide) hp | simp [Core.same, Core.l2Write], fun h => by (try simp only [Core.l2Write]); first | exact h | exact mwrite_wf _ _ h | exact mclear_wf _ _ h | exact filter_wfFrom _ _ h | rfl⟩
    | (with_reducible apply Dev.Within.ofSnd; · with_reducible assumption)
    | (with_reducible apply Dev.Within.ofThird; · with_reducible assumption)
    | (with_reducible apply Dev.Within.ofFst; · with_reducible assumption)
    | (split <;> try dsimp only)
theorem Dev.l1Drop_within (v : Dev) (c : Nat) (n : Nat) : Dev.Within [.caches, .coreRegs, .hif] v (Dev.l1Drop v c n) := by
  unfold Dev.l1Drop
  try dsimp only
  repeat' first
    | with_reducible exact Dev.Within.refl _ _
    | with_reducible assumption
    | (with_reducible apply Dev.Within.step (Dev.ev_within _ _ _ _ _ _)); · decide
    | with_reducible apply Dev.Within.core
    | (with_reducible apply Dev.Within.ite)
    | (with_reducible apply Dev.Within.iteFst <;> try dsimp only)
    | (with_reducible apply Dev.Within.iteSnd <;> try dsimp only)
    | (intro _; try dsimp only)
    | with_reducible exact Core.Within.refl _ _
    | exact ⟨fun p hp => by cases p <;> first | exact absurd (by decide) hp | simp [Core.same], fun h => by first | exact h | exact mwrite_wf _ _ h | exact mclear_wf _ _ h | exact filter_wfFrom _ _ h | rfl⟩
    | (with_reducible apply Dev.Within.ofSnd; · with_reducible assumption)
    | (with_reducible apply Dev.Within.ofThird; · with_reducible assumption)
    | (with_reducible apply Dev.Within.ofFst; · with_reducible assumption)
    | (split <;> try dsimp only)
theorem Dev.writeBack_within (v : Dev) (c : Nat) (n : Nat) (owner : Option Owner) : Dev.Within [.spads, .caches, .coreRegs, .counters, .syncStatus, .stackMem, .channels, .stackRegs, .heldWrites, .contextSwitch, .hif] v (Dev.writeBack v c n owner).1 := by
  unfold Dev.writeBack
  try dsimp only
  repeat' first
    | with_reducible exact Dev.Within.refl _ _
    | with_reducible assumption
    | (with_reducible apply Dev.Within.step (Dev.l1Drop_within _ _ _)); · decide
    | (with_reducible apply Dev.Within.step (Dev.l2Through_within _ _ _ _ _)); · decide
    | with_reducible apply Dev.Within.core
    | (with_reducible apply Dev.Within.ite)
    | (with_reducible apply Dev.Within.iteFst <;> try dsimp only)
    | (with_reducible apply Dev.Within.iteSnd <;> try dsimp only)
    | (intro _; try dsimp only)
    | with_reducible exact Core.Within.refl _ _
    | exact ⟨fun p hp => by cases p <;> first | exact absurd (by decide) hp | simp [Core.same], fun h => by first | exact h | exact mwrite_wf _ _ h | exact mclear_wf _ _ h | exact filter_wfFrom _ _ h | rfl⟩
    | (with_reducible apply Dev.Within.ofSnd; · with_reducible assumption)
    | (with_reducible apply Dev.Within.ofThird; · with_reducible assumption)
    | (with_reducible apply Dev.Within.ofFst; · with_reducible assumption)
    | (split <;> try dsimp only)
theorem Dev.flushRange_within (v : Dev) (c : Nat) (a : Nat) (n : Nat) (owner : Option Owner) : Dev.Within [.spads, .caches, .coreRegs, .counters, .syncStatus, .stackMem, .channels, .stackRegs, .heldWrites, .contextSwitch, .hif] v (Dev.flushRange v c a n owner).1 := by
  unfold Dev.flushRange
  try dsimp only
  repeat' first
    | with_reducible exact Dev.Within.refl _ _
    | with_reducible assumption
    | (with_reducible apply Dev.Within.step (Dev.writeBack_within _ _ _ _)); · decide
    | (with_reducible apply Dev.Within.ite)
    | (with_reducible apply Dev.Within.iteFst <;> try dsimp only)
    | (with_reducible apply Dev.Within.iteSnd <;> try dsimp only)
    | with_reducible apply Dev.Within.foldlFst
    | with_reducible apply Dev.Within.foldlSnd
    | with_reducible apply Dev.Within.foldl
    | (intro _; try dsimp only)
    | (with_reducible apply Dev.Within.ofSnd; · with_reducible assumption)
    | (with_reducible apply Dev.Within.ofThird; · with_reducible assumption)
    | (with_reducible apply Dev.Within.ofFst; · with_reducible assumption)
    | (split <;> try dsimp only)
theorem Dev.flushInval_within (v : Dev) (c : Nat) (a : Nat) (n : Nat) (owner : Option Owner) : Dev.Within [.spads, .caches, .contexts, .coreRegs, .counters, .syncStatus, .stackMem, .channels, .stackRegs, .heldWrites, .contextSwitch, .hif] v (Dev.flushInval v c a n owner).1 := by
  unfold Dev.flushInval
  try dsimp only
  repeat' first
    | with_reducible exact Dev.Within.refl _ _
    | with_reducible assumption
    | (with_reducible apply Dev.Within.step (Dev.flushRange_within _ _ _ _ _)); · decide
    | with_reducible apply Dev.Within.core
    | (with_reducible apply Dev.Within.ite)
    | (with_reducible apply Dev.Within.iteFst <;> try dsimp only)
    | (with_reducible apply Dev.Within.iteSnd <;> try dsimp only)
    | (intro _; try dsimp only)
    | with_reducible exact Core.Within.refl _ _
    | (with_reducible unfold Core.invalRange; try dsimp only)
    | (with_reducible unfold Core.invalLines; try dsimp only)
    | exact ⟨fun p hp => by cases p <;> first | exact absurd (by decide) hp | simp [Core.same, Core.invalRange, Core.invalLines], fun h => by (try simp only [Core.invalRange, Core.invalLines]); first | exact h | exact mwrite_wf _ _ h | exact mclear_wf _ _ h | exact filter_wfFrom _ _ h | rfl⟩
    | (with_reducible apply Dev.Within.ofSnd; · with_reducible assumption)
    | (with_reducible apply Dev.Within.ofThird; · with_reducible assumption)
    | (with_reducible apply Dev.Within.ofFst; · with_reducible assumption)
    | (split <;> try dsimp only)
theorem Dev.l1Fill_within (v : Dev) (c : Nat) (n : Nat) (bs : List Byte) : Dev.Within [.spads, .caches, .coreRegs, .counters, .syncStatus, .stackMem, .channels, .stackRegs, .heldWrites, .contextSwitch, .hif, .free] v (Dev.l1Fill v c n bs) := by
  unfold Dev.l1Fill
  try dsimp only
  repeat' first
    | with_reducible exact Dev.Within.refl _ _
    | with_reducible assumption
    | (with_reducible apply Dev.Within.step (Dev.writeBack_within _ _ _ _)); · decide
    | (with_reducible apply Dev.Within.step (Dev.draw_within _)); · decide
    | with_reducible apply Dev.Within.core
    | (with_reducible apply Dev.Within.ite)
    | (with_reducible apply Dev.Within.iteFst <;> try dsimp only)
    | (with_reducible apply Dev.Within.iteSnd <;> try dsimp only)
    | (intro _; try dsimp only)
    | with_reducible exact Core.Within.refl _ _
    | exact ⟨fun p hp => by cases p <;> first | exact absurd (by decide) hp | simp [Core.same], fun h => by first | exact h | exact mwrite_wf _ _ h | exact mclear_wf _ _ h | exact filter_wfFrom _ _ h | rfl⟩
    | (with_reducible apply Dev.Within.ofSnd; · with_reducible assumption)
    | (with_reducible apply Dev.Within.ofThird; · with_reducible assumption)
    | (with_reducible apply Dev.Within.ofFst; · with_reducible assumption)
    | (split <;> try dsimp only)

end Sys2Proof.Machine
end

