-- ==== Sys2Proof/Laws/Sync.lean ====
section
/-! SUPPORT. What each operation of Machine/Sync may change. -/

namespace Sys2Proof.Machine

theorem Dev.applySignal_within (v : Dev) (id : Nat) : Dev.Within [.counters, .syncStatus, .hif] v (Dev.applySignal v id) := by
  unfold Dev.applySignal
  try dsimp only
  repeat' first
    | with_reducible exact Dev.Within.refl _ _
    | with_reducible assumption
    | (with_reducible apply Dev.Within.step (Dev.setMisuse_within _ _)); · decide
    | (with_reducible apply Dev.Within.step (Dev.setOverflow_within _ _)); · decide
    | (with_reducible apply Dev.Within.step (Dev.modCtr_within _ _ _)); · decide
    | (with_reducible apply Dev.Within.ite)
    | (with_reducible apply Dev.Within.iteFst <;> try dsimp only)
    | (with_reducible apply Dev.Within.iteSnd <;> try dsimp only)
    | (intro _; try dsimp only)
    | (with_reducible apply Dev.Within.ofSnd; · with_reducible assumption)
    | (with_reducible apply Dev.Within.ofThird; · with_reducible assumption)
    | (with_reducible apply Dev.Within.ofFst; · with_reducible assumption)
    | (split <;> try dsimp only)
theorem Dev.markMisused_within (v : Dev) (ws : List (Nat × Nat)) : Dev.Within [.counters, .syncStatus, .hif] v (Dev.markMisused v ws) := by
  unfold Dev.markMisused
  try dsimp only
  repeat' first
    | with_reducible exact Dev.Within.refl _ _
    | with_reducible assumption
    | (with_reducible apply Dev.Within.step (Dev.setMisuse_within _ _)); · decide
    | (with_reducible apply Dev.Within.ite)
    | (with_reducible apply Dev.Within.iteFst <;> try dsimp only)
    | (with_reducible apply Dev.Within.iteSnd <;> try dsimp only)
    | with_reducible apply Dev.Within.forAll
    | (intro _; try dsimp only)
    | (with_reducible apply Dev.Within.ofSnd; · with_reducible assumption)
    | (with_reducible apply Dev.Within.ofThird; · with_reducible assumption)
    | (with_reducible apply Dev.Within.ofFst; · with_reducible assumption)
    | (split <;> try dsimp only)
theorem Dev.grantOne_within (v : Dev) (z0 : Waiter) : Dev.Within [.streams, .contexts, .counters, .syncStatus, .hif] v (Dev.grantOne v z0) := by
  unfold Dev.grantOne
  try dsimp only
  repeat' first
    | with_reducible exact Dev.Within.refl _ _
    | with_reducible assumption
    | (with_reducible apply Dev.Within.step (Dev.markMisused_within _ _)); · decide
    | (with_reducible apply Dev.Within.step (Dev.modStrm_within _ _ _)); · decide
    | (with_reducible apply Dev.Within.step (Dev.modCtr_within _ _ _)); · decide
    | (with_reducible apply Dev.Within.step (Dev.modCtx_within _ _ _ _)); · decide
    | (with_reducible apply Dev.Within.ite)
    | (with_reducible apply Dev.Within.iteFst <;> try dsimp only)
    | (with_reducible apply Dev.Within.iteSnd <;> try dsimp only)
    | with_reducible apply Dev.Within.forAll
    | (intro _; try dsimp only)
    | (with_reducible apply Dev.Within.ofSnd; · with_reducible assumption)
    | (with_reducible apply Dev.Within.ofThird; · with_reducible assumption)
    | (with_reducible apply Dev.Within.ofFst; · with_reducible assumption)
    | (split <;> try dsimp only)
theorem Dev.grantPass_within (v : Dev) : Dev.Within [.streams, .contexts, .counters, .syncStatus, .hif] v (Dev.grantPass v) := by
  unfold Dev.grantPass
  try dsimp only
  repeat' first
    | with_reducible exact Dev.Within.refl _ _
    | with_reducible assumption
    | (with_reducible apply Dev.Within.step (Dev.grantOne_within _ _)); · decide
    | (with_reducible apply Dev.Within.ite)
    | (with_reducible apply Dev.Within.iteFst <;> try dsimp only)
    | (with_reducible apply Dev.Within.iteSnd <;> try dsimp only)
    | with_reducible apply Dev.Within.forAll
    | (intro _; try dsimp only)
    | (with_reducible apply Dev.Within.ofSnd; · with_reducible assumption)
    | (with_reducible apply Dev.Within.ofThird; · with_reducible assumption)
    | (with_reducible apply Dev.Within.ofFst; · with_reducible assumption)
    | (split <;> try dsimp only)

end Sys2Proof.Machine
end

