-- ==== Sys2Proof/Laws/Streams.lean ====
section
/-! SUPPORT. What each operation of Machine/Streams may change. -/

namespace Sys2Proof.Machine

theorem Dev.reslip_within (v : Dev) (k : Nat) : Dev.Within [.streams, .hif] v (Dev.reslip v k) := by
  unfold Dev.reslip
  try dsimp only
  repeat' first
    | with_reducible exact Dev.Within.refl _ _
    | with_reducible assumption
    | (with_reducible apply Dev.Within.step (Dev.ev_within _ _ _ _ _ _)); · decide
    | (with_reducible apply Dev.Within.step (Dev.modStrm_within _ _ _)); · decide
    | (with_reducible apply Dev.Within.ite)
    | (with_reducible apply Dev.Within.iteFst <;> try dsimp only)
    | (with_reducible apply Dev.Within.iteSnd <;> try dsimp only)
    | (intro _; try dsimp only)
    | (with_reducible apply Dev.Within.ofSnd; · with_reducible assumption)
    | (with_reducible apply Dev.Within.ofThird; · with_reducible assumption)
    | (with_reducible apply Dev.Within.ofFst; · with_reducible assumption)
    | (split <;> try dsimp only)
theorem Dev.reslipAll_within (v : Dev) : Dev.Within [.streams, .hif] v (Dev.reslipAll v) := by
  unfold Dev.reslipAll
  try dsimp only
  repeat' first
    | with_reducible exact Dev.Within.refl _ _
    | with_reducible assumption
    | (with_reducible apply Dev.Within.step (Dev.reslip_within _ _)); · decide
    | (with_reducible apply Dev.Within.ite)
    | (with_reducible apply Dev.Within.iteFst <;> try dsimp only)
    | (with_reducible apply Dev.Within.iteSnd <;> try dsimp only)
    | with_reducible apply Dev.Within.forAll
    | (intro _; try dsimp only)
    | (with_reducible apply Dev.Within.ofSnd; · with_reducible assumption)
    | (with_reducible apply Dev.Within.ofThird; · with_reducible assumption)
    | (with_reducible apply Dev.Within.ofFst; · with_reducible assumption)
    | (split <;> try dsimp only)
theorem Dev.putVslot_within (v : Dev) (k : Nat) (a : Nat) (w : Nat) (s : VSlot) : Dev.Within [.stackMem, .channels, .stackRegs, .heldWrites, .hif] v (Dev.putVslot v k a w s) := by
  unfold Dev.putVslot
  try dsimp only
  repeat' first
    | with_reducible exact Dev.Within.refl _ _
    | with_reducible assumption
    | (with_reducible apply Dev.Within.step (Dev.submit_within _ _ _ _)); · decide
    | (with_reducible apply Dev.Within.ite)
    | (with_reducible apply Dev.Within.iteFst <;> try dsimp only)
    | (with_reducible apply Dev.Within.iteSnd <;> try dsimp only)
    | (intro _; try dsimp only)
    | (with_reducible apply Dev.Within.ofSnd; · with_reducible assumption)
    | (with_reducible apply Dev.Within.ofThird; · with_reducible assumption)
    | (with_reducible apply Dev.Within.ofFst; · with_reducible assumption)
    | (split <;> try dsimp only)
theorem Dev.versionAbort_within (v : Dev) (k : Nat) (f : Flight) : Dev.Within [.stackMem, .channels, .stackRegs, .heldWrites, .hif] v (Dev.versionAbort v k f) := by
  unfold Dev.versionAbort
  try dsimp only
  repeat' first
    | with_reducible exact Dev.Within.refl _ _
    | with_reducible assumption
    | (with_reducible apply Dev.Within.step (Dev.putVslot_within _ _ _ _ _)); · decide
    | (with_reducible apply Dev.Within.ite)
    | (with_reducible apply Dev.Within.iteFst <;> try dsimp only)
    | (with_reducible apply Dev.Within.iteSnd <;> try dsimp only)
    | (intro _; try dsimp only)
    | (with_reducible apply Dev.Within.ofSnd; · with_reducible assumption)
    | (with_reducible apply Dev.Within.ofThird; · with_reducible assumption)
    | (with_reducible apply Dev.Within.ofFst; · with_reducible assumption)
    | (split <;> try dsimp only)
theorem Dev.modFlight_within (v : Dev) (k : Nat) (idx : Nat) (g : Flight → Flight) : Dev.Within [.streams] v (Dev.modFlight v k idx g) := by
  unfold Dev.modFlight
  try dsimp only
  repeat' first
    | with_reducible exact Dev.Within.refl _ _
    | with_reducible assumption
    | (with_reducible apply Dev.Within.step (Dev.modStrm_within _ _ _)); · decide
    | (with_reducible apply Dev.Within.ite)
    | (with_reducible apply Dev.Within.iteFst <;> try dsimp only)
    | (with_reducible apply Dev.Within.iteSnd <;> try dsimp only)
    | (intro _; try dsimp only)
    | (with_reducible apply Dev.Within.ofSnd; · with_reducible assumption)
    | (with_reducible apply Dev.Within.ofThird; · with_reducible assumption)
    | (with_reducible apply Dev.Within.ofFst; · with_reducible assumption)
    | (split <;> try dsimp only)
theorem Dev.dmaEnd_within (v : Dev) (c : Nat) (n : Nat) (status : Nat) : Dev.Within [.streams, .dmas, .hostMem, .hif, .out] v (Dev.dmaEnd v c n status) := by
  unfold Dev.dmaEnd
  try dsimp only
  repeat' first
    | with_reducible exact Dev.Within.refl _ _
    | with_reducible assumption
    | (with_reducible apply Dev.Within.step (Dev.complete_within _ _ _ _ _ _ _)); · decide
    | (with_reducible apply Dev.Within.step (Dev.modFlight_within _ _ _ _)); · decide
    | (with_reducible apply Dev.order_within; · decide)
    | (with_reducible apply Dev.Within.step (Dev.modDmaCh_within _ _ _ _)); · decide
    | (with_reducible apply Dev.Within.ite)
    | (with_reducible apply Dev.Within.iteFst <;> try dsimp only)
    | (with_reducible apply Dev.Within.iteSnd <;> try dsimp only)
    | (intro _; try dsimp only)
    | (with_reducible apply Dev.Within.ofSnd; · with_reducible assumption)
    | (with_reducible apply Dev.Within.ofThird; · with_reducible assumption)
    | (with_reducible apply Dev.Within.ofFst; · with_reducible assumption)
    | (split <;> try dsimp only)
theorem Dev.dmaTake_within (v : Dev) (c : Nat) (n : Nat) (z0 : Nat) : Dev.Within [.streams, .dmas, .hostMem, .hif, .out] v (Dev.dmaTake v c n z0) := by
  induction z0 generalizing v c n with
  | zero => unfold Dev.dmaTake; exact Dev.Within.refl _ _
  | succ fuel ih =>
    unfold Dev.dmaTake
    try dsimp only
    repeat' first
      | with_reducible exact Dev.Within.refl _ _
      | with_reducible assumption
      | (with_reducible apply Dev.Within.step (ih _ _ _)); · decide
      | (with_reducible apply Dev.Within.step (Dev.dmaEnd_within _ _ _ _)); · decide
      | (with_reducible apply Dev.Within.step (Dev.modDmaCh_within _ _ _ _)); · decide
      | (with_reducible apply Dev.Within.ite)
      | (with_reducible apply Dev.Within.iteFst <;> try dsimp only)
      | (with_reducible apply Dev.Within.iteSnd <;> try dsimp only)
      | (intro _; try dsimp only)
      | (with_reducible apply Dev.Within.ofSnd; · with_reducible assumption)
      | (with_reducible apply Dev.Within.ofThird; · with_reducible assumption)
      | (with_reducible apply Dev.Within.ofFst; · with_reducible assumption)
      | (split <;> try dsimp only)
theorem Dev.dmaAdvance_within (v : Dev) (c : Nat) (n : Nat) : Dev.Within [.streams, .dmas, .hostMem, .hif, .out] v (Dev.dmaAdvance v c n) := by
  unfold Dev.dmaAdvance
  try dsimp only
  repeat' first
    | with_reducible exact Dev.Within.refl _ _
    | with_reducible assumption
    | (with_reducible apply Dev.Within.step (Dev.dmaTake_within _ _ _ _)); · decide
    | (with_reducible apply Dev.Within.step (Dev.modDmaCh_within _ _ _ _)); · decide
    | (with_reducible apply Dev.Within.ite)
    | (with_reducible apply Dev.Within.iteFst <;> try dsimp only)
    | (with_reducible apply Dev.Within.iteSnd <;> try dsimp only)
    | (intro _; try dsimp only)
    | (with_reducible apply Dev.Within.ofSnd; · with_reducible assumption)
    | (with_reducible apply Dev.Within.ofThird; · with_reducible assumption)
    | (with_reducible apply Dev.Within.ofFst; · with_reducible assumption)
    | (split <;> try dsimp only)
theorem Dev.dmaDrain_within (v : Dev) (c : Nat) (n : Nat) : Dev.Within [.streams, .dmas, .hostMem, .hif, .out] v (Dev.dmaDrain v c n) := by
  unfold Dev.dmaDrain
  try dsimp only
  repeat' first
    | with_reducible exact Dev.Within.refl _ _
    | with_reducible assumption
    | (with_reducible apply Dev.Within.step (Dev.dmaAdvance_within _ _ _)); · decide
    | (with_reducible apply Dev.Within.step (Dev.modDmaCh_within _ _ _ _)); · decide
    | (with_reducible apply Dev.Within.ite)
    | (with_reducible apply Dev.Within.iteFst <;> try dsimp only)
    | (with_reducible apply Dev.Within.iteSnd <;> try dsimp only)
    | (intro _; try dsimp only)
    | (with_reducible apply Dev.Within.ofSnd; · with_reducible assumption)
    | (with_reducible apply Dev.Within.ofThird; · with_reducible assumption)
    | (with_reducible apply Dev.Within.ofFst; · with_reducible assumption)
    | (split <;> try dsimp only)
theorem Dev.dmaForget_within (v : Dev) (c : Nat) (n : Nat) : Dev.Within [.spads, .caches, .contexts, .coreRegs, .counters, .syncStatus, .stackMem, .channels, .stackRegs, .hostMem, .heldWrites, .contextSwitch, .fabric, .hif, .out] v (Dev.dmaForget v c n) := by
  unfold Dev.dmaForget
  try dsimp only
  repeat' first
    | with_reducible exact Dev.Within.refl _ _
    | with_reducible assumption
    | (with_reducible apply Dev.Within.step (Dev.dmaRead_within _ _ _ _ _)); · decide
    | (with_reducible apply Dev.Within.step (Dev.dmaWrite_within _ _ _ _ _ _)); · decide
    | (with_reducible apply Dev.Within.step (Dev.sclLoad_within _ _ _ _ _ _ _ _ _)); · decide
    | (with_reducible apply Dev.Within.step (Dev.sclStore_within _ _ _ _ _ _ _)); · decide
    | (with_reducible apply Dev.Within.step (Dev.sealRead_within _ _ _)); · decide
    | (with_reducible apply Dev.Within.step (Dev.modFabD_within _ _ _)); · decide
    | (with_reducible apply Dev.Within.ite)
    | (with_reducible apply Dev.Within.iteFst <;> try dsimp only)
    | (with_reducible apply Dev.Within.iteSnd <;> try dsimp only)
    | (intro _; try dsimp only)
    | (with_reducible apply Dev.Within.ofSnd; · with_reducible assumption)
    | (with_reducible apply Dev.Within.ofThird; · with_reducible assumption)
    | (with_reducible apply Dev.Within.ofFst; · with_reducible assumption)
    | (split <;> try dsimp only)
theorem Dev.withdrawOne_within (v : Dev) (k : Nat) (f : Flight) : Dev.Within [.streams, .spads, .caches, .contexts, .dmas, .coreRegs, .counters, .syncStatus, .stackMem, .channels, .stackRegs, .hostMem, .heldWrites, .contextSwitch, .fabric, .hif, .out] v (Dev.withdrawOne v k f) := by
  unfold Dev.withdrawOne
  try dsimp only
  repeat' first
    | with_reducible exact Dev.Within.refl _ _
    | with_reducible assumption
    | (with_reducible apply Dev.Within.step (Dev.dmaDrain_within _ _ _)); · decide
    | (with_reducible apply Dev.Within.step (Dev.dmaForget_within _ _ _)); · decide
    | (with_reducible apply Dev.Within.step (Dev.versionAbort_within _ _ _)); · decide
    | (with_reducible apply Dev.Within.step (Dev.modStrm_within _ _ _)); · decide
    | (with_reducible apply Dev.Within.step (Dev.modDmaCh_within _ _ _ _)); · decide
    | (with_reducible apply Dev.Within.ite)
    | (with_reducible apply Dev.Within.iteFst <;> try dsimp only)
    | (with_reducible apply Dev.Within.iteSnd <;> try dsimp only)
    | (intro _; try dsimp only)
    | (with_reducible apply Dev.Within.ofSnd; · with_reducible assumption)
    | (with_reducible apply Dev.Within.ofThird; · with_reducible assumption)
    | (with_reducible apply Dev.Within.ofFst; · with_reducible assumption)
    | (split <;> try dsimp only)
theorem Dev.withdrawWaiting_within (v : Dev) (k : Nat) : Dev.Within [.streams, .spads, .caches, .contexts, .dmas, .coreRegs, .counters, .syncStatus, .stackMem, .channels, .stackRegs, .hostMem, .heldWrites, .contextSwitch, .fabric, .hif, .out] v (Dev.withdrawWaiting v k) := by
  unfold Dev.withdrawWaiting
  try dsimp only
  repeat' first
    | with_reducible exact Dev.Within.refl _ _
    | with_reducible assumption
    | (with_reducible apply Dev.Within.step (Dev.withdrawOne_within _ _ _)); · decide
    | (with_reducible apply Dev.Within.ite)
    | (with_reducible apply Dev.Within.iteFst <;> try dsimp only)
    | (with_reducible apply Dev.Within.iteSnd <;> try dsimp only)
    | with_reducible apply Dev.Within.forAll
    | (intro _; try dsimp only)
    | (with_reducible apply Dev.Within.ofSnd; · with_reducible assumption)
    | (with_reducible apply Dev.Within.ofThird; · with_reducible assumption)
    | (with_reducible apply Dev.Within.ofFst; · with_reducible assumption)
    | (split <;> try dsimp only)
theorem Dev.stopSched_within (v : Dev) (id : Nat) : Dev.Within [.schedules, .streams, .spads, .caches, .contexts, .dmas, .coreRegs, .counters, .syncStatus, .stackMem, .channels, .stackRegs, .hostMem, .heldWrites, .contextSwitch, .fabric, .hif, .out] v (Dev.stopSched v id) := by
  unfold Dev.stopSched
  try dsimp only
  repeat' first
    | with_reducible exact Dev.Within.refl _ _
    | with_reducible assumption
    | (with_reducible apply Dev.Within.step (Dev.withdrawWaiting_within _ _)); · decide
    | (with_reducible apply Dev.Within.step (Dev.modSched_within _ _ _)); · decide
    | (with_reducible apply Dev.Within.step (Dev.modStrm_within _ _ _)); · decide
    | (with_reducible apply Dev.Within.ite)
    | (with_reducible apply Dev.Within.iteFst <;> try dsimp only)
    | (with_reducible apply Dev.Within.iteSnd <;> try dsimp only)
    | with_reducible apply Dev.Within.forAll
    | (intro _; try dsimp only)
    | (with_reducible apply Dev.Within.ofSnd; · with_reducible assumption)
    | (with_reducible apply Dev.Within.ofThird; · with_reducible assumption)
    | (with_reducible apply Dev.Within.ofFst; · with_reducible assumption)
    | (split <;> try dsimp only)
theorem Dev.capHeader_within (v : Dev) (die : Nat) (cause : Nat) (at? : Option (Nat × Nat)) (detail : W64) (ids : List Nat) : Dev.Within [.faults] v (Dev.capHeader v die cause at? detail ids) := by
  unfold Dev.capHeader
  try dsimp only
  repeat' first
    | with_reducible exact Dev.Within.refl _ _
    | with_reducible assumption
    | (with_reducible apply Dev.Within.step (Dev.modFlt_within _ _ _)); · decide
    | (with_reducible apply Dev.Within.ite)
    | (with_reducible apply Dev.Within.iteFst <;> try dsimp only)
    | (with_reducible apply Dev.Within.iteSnd <;> try dsimp only)
    | (intro _; try dsimp only)
    | (with_reducible apply Dev.Within.ofSnd; · with_reducible assumption)
    | (with_reducible apply Dev.Within.ofThird; · with_reducible assumption)
    | (with_reducible apply Dev.Within.ofFst; · with_reducible assumption)
    | (split <;> try dsimp only)
theorem Dev.beginCapture_within (v : Dev) (die : Nat) (cause : Nat) (at? : Option (Nat × Nat)) (detail : W64) (ids : List Nat) : Dev.Within [.schedules, .streams, .spads, .caches, .contexts, .dmas, .coreRegs, .counters, .syncStatus, .stackMem, .channels, .stackRegs, .hostMem, .heldWrites, .faults, .contextSwitch, .fabric, .hif, .out] v (Dev.beginCapture v die cause at? detail ids) := by
  unfold Dev.beginCapture
  try dsimp only
  repeat' first
    | with_reducible exact Dev.Within.refl _ _
    | with_reducible assumption
    | (with_reducible apply Dev.Within.step (Dev.capHeader_within _ _ _ _ _ _)); · decide
    | (with_reducible apply Dev.Within.step (Dev.stopSched_within _ _)); · decide
    | (with_reducible apply Dev.Within.step (Dev.modSched_within _ _ _)); · decide
    | (with_reducible apply Dev.Within.step (Dev.modFlt_within _ _ _)); · decide
    | (with_reducible apply Dev.Within.ite)
    | (with_reducible apply Dev.Within.iteFst <;> try dsimp only)
    | (with_reducible apply Dev.Within.iteSnd <;> try dsimp only)
    | with_reducible apply Dev.Within.forAll
    | (intro _; try dsimp only)
    | (with_reducible apply Dev.Within.ofSnd; · with_reducible assumption)
    | (with_reducible apply Dev.Within.ofThird; · with_reducible assumption)
    | (with_reducible apply Dev.Within.ofFst; · with_reducible assumption)
    | (split <;> try dsimp only)
theorem Dev.dieFault_within (v : Dev) (die : Nat) (cause : Nat) (at? : Option (Nat × Nat)) (detail : W64) (ids : List Nat) : Dev.Within [.schedules, .streams, .spads, .caches, .contexts, .dmas, .coreRegs, .counters, .syncStatus, .stackMem, .channels, .stackRegs, .hostMem, .heldWrites, .faults, .contextSwitch, .fabric, .hif, .out] v (Dev.dieFault v die cause at? detail ids) := by
  unfold Dev.dieFault
  try dsimp only
  repeat' first
    | with_reducible exact Dev.Within.refl _ _
    | with_reducible assumption
    | (with_reducible apply Dev.Within.step (Dev.beginCapture_within _ _ _ _ _ _)); · decide
    | (with_reducible apply Dev.Within.step (Dev.ev_within _ _ _ _ _ _)); · decide
    | (with_reducible apply Dev.Within.step (Dev.stopSched_within _ _)); · decide
    | (with_reducible apply Dev.Within.step (Dev.modSched_within _ _ _)); · decide
    | (with_reducible apply Dev.Within.step (Dev.modFlt_within _ _ _)); · decide
    | (with_reducible apply Dev.Within.ite)
    | (with_reducible apply Dev.Within.iteFst <;> try dsimp only)
    | (with_reducible apply Dev.Within.iteSnd <;> try dsimp only)
    | with_reducible apply Dev.Within.forAll
    | (intro _; try dsimp only)
    | (with_reducible apply Dev.Within.ofSnd; · with_reducible assumption)
    | (with_reducible apply Dev.Within.ofThird; · with_reducible assumption)
    | (with_reducible apply Dev.Within.ofFst; · with_reducible assumption)
    | (split <;> try dsimp only)
theorem Dev.faultStream_within (v : Dev) (k : Nat) (cause : Nat) (idx : Nat) (detail : W64) : Dev.Within [.schedules, .streams, .spads, .caches, .contexts, .dmas, .coreRegs, .counters, .syncStatus, .stackMem, .channels, .stackRegs, .hostMem, .heldWrites, .faults, .contextSwitch, .fabric, .hif, .out] v (Dev.faultStream v k cause idx detail) := by
  unfold Dev.faultStream
  try dsimp only
  repeat' first
    | with_reducible exact Dev.Within.refl _ _
    | with_reducible assumption
    | (with_reducible apply Dev.Within.step (Dev.dieFault_within _ _ _ _ _ _)); · decide
    | (with_reducible apply Dev.Within.ite)
    | (with_reducible apply Dev.Within.iteFst <;> try dsimp only)
    | (with_reducible apply Dev.Within.iteSnd <;> try dsimp only)
    | (intro _; try dsimp only)
    | (with_reducible apply Dev.Within.ofSnd; · with_reducible assumption)
    | (with_reducible apply Dev.Within.ofThird; · with_reducible assumption)
    | (with_reducible apply Dev.Within.ofFst; · with_reducible assumption)
    | (split <;> try dsimp only)
theorem Dev.bufParity_within (v : Dev) (k : Nat) (idx : Nat) : Dev.Within [.coreRegs, .hif] v (Dev.bufParity v k idx) := by
  unfold Dev.bufParity
  try dsimp only
  repeat' first
    | with_reducible exact Dev.Within.refl _ _
    | with_reducible assumption
    | (with_reducible apply Dev.Within.step (Dev.ev_within _ _ _ _ _ _)); · decide
    | with_reducible apply Dev.Within.core
    | (with_reducible apply Dev.Within.ite)
    | (with_reducible apply Dev.Within.iteFst <;> try dsimp only)
    | (with_reducible apply Dev.Within.iteSnd <;> try dsimp only)
    | (intro _; try dsimp only)
    | with_reducible exact Core.Within.refl _ _
    | exact ⟨fun p hp => by cases p <;> first | exact absurd (by decide) hp | simp [Core.same], fun h => by first | exact h | exact mwrite_wf _ _ h | exact mclear_wf _ _ h | exact filter_wfFrom _ _ h | rfl⟩
    | (with_reducible apply Dev.Within.ofSnd; · with_reducible assumption)
    | (with_reducible apply Dev.Within.ofThird; · with_reducible assumption)
    | (with_reducible apply Dev.Within.ofFst; · with_reducible assumption)
    | (split <;> try dsimp only)
theorem Dev.checkHead_within (v : Dev) (k : Nat) : Dev.Within [.schedules, .streams, .spads, .caches, .contexts, .dmas, .coreRegs, .counters, .syncStatus, .stackMem, .channels, .stackRegs, .hostMem, .heldWrites, .faults, .contextSwitch, .fabric, .hif, .out] v (Dev.checkHead v k) := by
  unfold Dev.checkHead
  try dsimp only
  repeat' first
    | with_reducible exact Dev.Within.refl _ _
    | with_reducible assumption
    | (with_reducible apply Dev.Within.step (Dev.bufParity_within _ _ _)); · decide
    | (with_reducible apply Dev.Within.step (Dev.faultStream_within _ _ _ _ _)); · decide
    | (with_reducible apply Dev.Within.step (Dev.modStrm_within _ _ _)); · decide
    | (with_reducible apply Dev.Within.ite)
    | (with_reducible apply Dev.Within.iteFst <;> try dsimp only)
    | (with_reducible apply Dev.Within.iteSnd <;> try dsimp only)
    | (intro _; try dsimp only)
    | (with_reducible apply Dev.Within.ofSnd; · with_reducible assumption)
    | (with_reducible apply Dev.Within.ofThird; · with_reducible assumption)
    | (with_reducible apply Dev.Within.ofFst; · with_reducible assumption)
    | (split <;> try dsimp only)
theorem Dev.started_within (v : Dev) (k : Nat) (f : Flight) (empty : Bool) : Dev.Within [.streams, .counters] v (Dev.started v k f empty) := by
  unfold Dev.started
  try dsimp only
  repeat' first
    | with_reducible exact Dev.Within.refl _ _
    | with_reducible assumption
    | (with_reducible apply Dev.Within.step (Dev.sendSignals_within _ _)); · decide
    | (with_reducible apply Dev.Within.step (Dev.modStrm_within _ _ _)); · decide
    | (with_reducible apply Dev.Within.ite)
    | (with_reducible apply Dev.Within.iteFst <;> try dsimp only)
    | (with_reducible apply Dev.Within.iteSnd <;> try dsimp only)
    | (intro _; try dsimp only)
    | (with_reducible apply Dev.Within.ofSnd; · with_reducible assumption)
    | (with_reducible apply Dev.Within.ofThird; · with_reducible assumption)
    | (with_reducible apply Dev.Within.ofFst; · with_reducible assumption)
    | (split <;> try dsimp only)
theorem Dev.startFail_within (v : Dev) (k : Nat) (ws : List W64) (prog : Nat) (cause : Nat) (detail : W64) : Dev.Within [.schedules, .streams, .spads, .caches, .contexts, .dmas, .coreRegs, .counters, .syncStatus, .stackMem, .channels, .stackRegs, .hostMem, .heldWrites, .faults, .contextSwitch, .fabric, .hif, .out] v (Dev.startFail v k ws prog cause detail) := by
  unfold Dev.startFail
  try dsimp only
  repeat' first
    | with_reducible exact Dev.Within.refl _ _
    | with_reducible assumption
    | (with_reducible apply Dev.Within.step (Dev.faultStream_within _ _ _ _ _)); · decide
    | (with_reducible apply Dev.Within.step (Dev.started_within _ _ _ _)); · decide
    | (with_reducible apply Dev.Within.ite)
    | (with_reducible apply Dev.Within.iteFst <;> try dsimp only)
    | (with_reducible apply Dev.Within.iteSnd <;> try dsimp only)
    | (intro _; try dsimp only)
    | (with_reducible apply Dev.Within.ofSnd; · with_reducible assumption)
    | (with_reducible apply Dev.Within.ofThird; · with_reducible assumption)
    | (with_reducible apply Dev.Within.ofFst; · with_reducible assumption)
    | (split <;> try dsimp only)
theorem Dev.pathFail_within (v : Dev) (k : Nat) (ws : List W64) (x : Nat) (prog : Nat) : Dev.Within [.schedules, .streams, .spads, .caches, .contexts, .dmas, .coreRegs, .counters, .syncStatus, .stackMem, .channels, .stackRegs, .hostMem, .heldWrites, .faults, .contextSwitch, .fabric, .hif, .out] v (Dev.pathFail v k ws x prog) := by
  unfold Dev.pathFail
  try dsimp only
  repeat' first
    | with_reducible exact Dev.Within.refl _ _
    | with_reducible assumption
    | (with_reducible apply Dev.Within.step (Dev.pathError_within _ _ _)); · decide
    | (with_reducible apply Dev.Within.step (Dev.startFail_within _ _ _ _ _ _)); · decide
    | (with_reducible apply Dev.Within.ite)
    | (with_reducible apply Dev.Within.iteFst <;> try dsimp only)
    | (with_reducible apply Dev.Within.iteSnd <;> try dsimp only)
    | (intro _; try dsimp only)
    | (with_reducible apply Dev.Within.ofSnd; · with_reducible assumption)
    | (with_reducible apply Dev.Within.ofThird; · with_reducible assumption)
    | (with_reducible apply Dev.Within.ofFst; · with_reducible assumption)
    | (split <;> try dsimp only)
theorem Dev.parityFail_within (v : Dev) (k : Nat) (ws : List W64) (c : Nat) (acc : Bool) (addr : Nat) (prog : Nat) : Dev.Within [.schedules, .streams, .spads, .caches, .contexts, .dmas, .coreRegs, .counters, .syncStatus, .stackMem, .channels, .stackRegs, .hostMem, .heldWrites, .faults, .contextSwitch, .fabric, .hif, .out] v (Dev.parityFail v k ws c acc addr prog) := by
  unfold Dev.parityFail
  try dsimp only
  repeat' first
    | with_reducible exact Dev.Within.refl _ _
    | with_reducible assumption
    | (with_reducible apply Dev.Within.step (Dev.memParity_within _ _ _ _)); · decide
    | (with_reducible apply Dev.Within.step (Dev.startFail_within _ _ _ _ _ _)); · decide
    | with_reducible apply Dev.Within.core
    | (with_reducible apply Dev.Within.ite)
    | (with_reducible apply Dev.Within.iteFst <;> try dsimp only)
    | (with_reducible apply Dev.Within.iteSnd <;> try dsimp only)
    | (intro _; try dsimp only)
    | with_reducible exact Core.Within.refl _ _
    | exact ⟨fun p hp => by cases p <;> first | exact absurd (by decide) hp | simp [Core.same], fun h => by first | exact h | exact mwrite_wf _ _ h | exact mclear_wf _ _ h | exact filter_wfFrom _ _ h | rfl⟩
    | (with_reducible apply Dev.Within.ofSnd; · with_reducible assumption)
    | (with_reducible apply Dev.Within.ofThird; · with_reducible assumption)
    | (with_reducible apply Dev.Within.ofFst; · with_reducible assumption)
    | (split <;> try dsimp only)
theorem Dev.overlapAt_within (v : Dev) (k : Nat) (c : Nat) (ws : List W64) : Dev.Within [.coreRegs, .hif] v (Dev.overlapAt v k c ws) := by
  unfold Dev.overlapAt
  try dsimp only
  repeat' first
    | with_reducible exact Dev.Within.refl _ _
    | with_reducible assumption
    | (with_reducible apply Dev.Within.step (Dev.ev_within _ _ _ _ _ _)); · decide
    | with_reducible apply Dev.Within.core
    | (with_reducible apply Dev.Within.ite)
    | (with_reducible apply Dev.Within.iteFst <;> try dsimp only)
    | (with_reducible apply Dev.Within.iteSnd <;> try dsimp only)
    | (intro _; try dsimp only)
    | with_reducible exact Core.Within.refl _ _
    | exact ⟨fun p hp => by cases p <;> first | exact absurd (by decide) hp | simp [Core.same], fun h => by first | exact h | exact mwrite_wf _ _ h | exact mclear_wf _ _ h | exact filter_wfFrom _ _ h | rfl⟩
    | (with_reducible apply Dev.Within.ofSnd; · with_reducible assumption)
    | (with_reducible apply Dev.Within.ofThird; · with_reducible assumption)
    | (with_reducible apply Dev.Within.ofFst; · with_reducible assumption)
    | (split <;> try dsimp only)
theorem Dev.nextHead_within (v : Dev) (k : Nat) : Dev.Within [.schedules, .streams, .spads, .caches, .contexts, .dmas, .coreRegs, .counters, .syncStatus, .stackMem, .channels, .stackRegs, .hostMem, .heldWrites, .faults, .contextSwitch, .fabric, .hif, .out] v (Dev.nextHead v k) := by
  unfold Dev.nextHead
  try dsimp only
  repeat' first
    | with_reducible exact Dev.Within.refl _ _
    | with_reducible assumption
    | (with_reducible apply Dev.Within.step (Dev.checkHead_within _ _)); · decide
    | (with_reducible apply Dev.Within.step (Dev.grantPass_within _)); · decide
    | (with_reducible apply Dev.Within.ite)
    | (with_reducible apply Dev.Within.iteFst <;> try dsimp only)
    | (with_reducible apply Dev.Within.iteSnd <;> try dsimp only)
    | (intro _; try dsimp only)
    | (with_reducible apply Dev.Within.ofSnd; · with_reducible assumption)
    | (with_reducible apply Dev.Within.ofThird; · with_reducible assumption)
    | (with_reducible apply Dev.Within.ofFst; · with_reducible assumption)
    | (split <;> try dsimp only)
theorem Dev.sendSf_within (v : Dev) (k : Nat) (f : Flight) : Dev.Within [.streams, .counters] v (Dev.sendSf v k f) := by
  unfold Dev.sendSf
  try dsimp only
  repeat' first
    | with_reducible exact Dev.Within.refl _ _
    | with_reducible assumption
    | (with_reducible apply Dev.Within.step (Dev.modFlight_within _ _ _ _)); · decide
    | (with_reducible apply Dev.Within.step (Dev.sendSignals_within _ _)); · decide
    | (with_reducible apply Dev.Within.ite)
    | (with_reducible apply Dev.Within.iteFst <;> try dsimp only)
    | (with_reducible apply Dev.Within.iteSnd <;> try dsimp only)
    | (intro _; try dsimp only)
    | (with_reducible apply Dev.Within.ofSnd; · with_reducible assumption)
    | (with_reducible apply Dev.Within.ofThird; · with_reducible assumption)
    | (with_reducible apply Dev.Within.ofFst; · with_reducible assumption)
    | (split <;> try dsimp only)
theorem Dev.endRun_within (v : Dev) (id : Nat) (status : Nat) : Dev.Within [.schedules, .hostMem, .hif, .out] v (Dev.endRun v id status) := by
  unfold Dev.endRun
  try dsimp only
  repeat' first
    | with_reducible exact Dev.Within.refl _ _
    | with_reducible assumption
    | (with_reducible apply Dev.Within.step (Dev.complete_within _ _ _ _ _ _ _)); · decide
    | (with_reducible apply Dev.Within.step (Dev.modSched_within _ _ _)); · decide
    | (with_reducible apply Dev.Within.ite)
    | (with_reducible apply Dev.Within.iteFst <;> try dsimp only)
    | (with_reducible apply Dev.Within.iteSnd <;> try dsimp only)
    | (intro _; try dsimp only)
    | (with_reducible apply Dev.Within.ofSnd; · with_reducible assumption)
    | (with_reducible apply Dev.Within.ofThird; · with_reducible assumption)
    | (with_reducible apply Dev.Within.ofFst; · with_reducible assumption)
    | (split <;> try dsimp only)
theorem Dev.finishSched_within (v : Dev) (id : Nat) : Dev.Within [.schedules, .hostMem, .hif, .out] v (Dev.finishSched v id) := by
  unfold Dev.finishSched
  try dsimp only
  repeat' first
    | with_reducible exact Dev.Within.refl _ _
    | with_reducible assumption
    | (with_reducible apply Dev.Within.step (Dev.endRun_within _ _ _)); · decide
    | (with_reducible apply Dev.Within.step (Dev.modSched_within _ _ _)); · decide
    | (with_reducible apply Dev.Within.ite)
    | (with_reducible apply Dev.Within.iteFst <;> try dsimp only)
    | (with_reducible apply Dev.Within.iteSnd <;> try dsimp only)
    | (intro _; try dsimp only)
    | (with_reducible apply Dev.Within.ofSnd; · with_reducible assumption)
    | (with_reducible apply Dev.Within.ofThird; · with_reducible assumption)
    | (with_reducible apply Dev.Within.ofFst; · with_reducible assumption)
    | (split <;> try dsimp only)
theorem Dev.reqEvent_within (v : Dev) (die : Nat) (kind : Nat) (argOk : Nat → Bool) : Dev.Within [.dmas] v (Dev.reqEvent v die kind argOk) := by
  unfold Dev.reqEvent
  try dsimp only
  repeat' first
    | with_reducible exact Dev.Within.refl _ _
    | with_reducible assumption
    | (with_reducible apply Dev.Within.step (Dev.modDma_within _ _ _)); · decide
    | (with_reducible apply Dev.Within.ite)
    | (with_reducible apply Dev.Within.iteFst <;> try dsimp only)
    | (with_reducible apply Dev.Within.iteSnd <;> try dsimp only)
    | with_reducible apply Dev.Within.foldlFst
    | with_reducible apply Dev.Within.foldlSnd
    | with_reducible apply Dev.Within.foldl
    | with_reducible apply Dev.Within.forAll
    | (intro _; try dsimp only)
    | (with_reducible apply Dev.Within.ofSnd; · with_reducible assumption)
    | (with_reducible apply Dev.Within.ofThird; · with_reducible assumption)
    | (with_reducible apply Dev.Within.ofFst; · with_reducible assumption)
    | (split <;> try dsimp only)
theorem Dev.retireEffect_within (v : Dev) (k : Nat) (f : Flight) : Dev.Within [.streams, .dmas, .stackMem, .channels, .stackRegs, .heldWrites, .hif] v (Dev.retireEffect v k f) := by
  unfold Dev.retireEffect
  try dsimp only
  repeat' first
    | with_reducible exact Dev.Within.refl _ _
    | with_reducible assumption
    | (with_reducible apply Dev.Within.step (Dev.putVslot_within _ _ _ _ _)); · decide
    | (with_reducible apply Dev.Within.step (Dev.reqEvent_within _ _ _ _)); · decide
    | (with_reducible apply Dev.Within.step (Dev.modStrm_within _ _ _)); · decide
    | (with_reducible apply Dev.Within.ite)
    | (with_reducible apply Dev.Within.iteFst <;> try dsimp only)
    | (with_reducible apply Dev.Within.iteSnd <;> try dsimp only)
    | (intro _; try dsimp only)
    | (with_reducible apply Dev.Within.ofSnd; · with_reducible assumption)
    | (with_reducible apply Dev.Within.ofThird; · with_reducible assumption)
    | (with_reducible apply Dev.Within.ofFst; · with_reducible assumption)
    | (split <;> try dsimp only)
theorem Dev.retireLines_within (v : Dev) (k : Nat) (f : Flight) : Dev.Within [.dmas] v (Dev.retireLines v k f) := by
  unfold Dev.retireLines
  try dsimp only
  repeat' first
    | with_reducible exact Dev.Within.refl _ _
    | with_reducible assumption
    | (with_reducible apply Dev.Within.step (Dev.reqEvent_within _ _ _ _)); · decide
    | (with_reducible apply Dev.Within.ite)
    | (with_reducible apply Dev.Within.iteFst <;> try dsimp only)
    | (with_reducible apply Dev.Within.iteSnd <;> try dsimp only)
    | (intro _; try dsimp only)
    | (with_reducible apply Dev.Within.ofSnd; · with_reducible assumption)
    | (with_reducible apply Dev.Within.ofThird; · with_reducible assumption)
    | (with_reducible apply Dev.Within.ofFst; · with_reducible assumption)
    | (split <;> try dsimp only)
theorem Dev.retire_within (v : Dev) (k : Nat) : Dev.Within [.schedules, .streams, .dmas, .counters, .stackMem, .channels, .stackRegs, .hostMem, .heldWrites, .hif, .out] v (Dev.retire v k) := by
  unfold Dev.retire
  try dsimp only
  repeat' first
    | with_reducible exact Dev.Within.refl _ _
    | with_reducible assumption
    | (with_reducible apply Dev.Within.step (Dev.ev_within _ _ _ _ _ _)); · decide
    | (with_reducible apply Dev.Within.step (Dev.finishSched_within _ _)); · decide
    | (with_reducible apply Dev.Within.step (Dev.reslip_within _ _)); · decide
    | (with_reducible apply Dev.Within.step (Dev.retireEffect_within _ _ _)); · decide
    | (with_reducible apply Dev.Within.step (Dev.retireLines_within _ _ _)); · decide
    | (with_reducible apply Dev.Within.step (Dev.sendSignals_within _ _)); · decide
    | (with_reducible apply Dev.Within.step (Dev.modStrm_within _ _ _)); · decide
    | (with_reducible apply Dev.Within.ite)
    | (with_reducible apply Dev.Within.iteFst <;> try dsimp only)
    | (with_reducible apply Dev.Within.iteSnd <;> try dsimp only)
    | (intro _; try dsimp only)
    | (with_reducible apply Dev.Within.ofSnd; · with_reducible assumption)
    | (with_reducible apply Dev.Within.ofThird; · with_reducible assumption)
    | (with_reducible apply Dev.Within.ofFst; · with_reducible assumption)
    | (split <;> try dsimp only)
theorem Dev.fetchOne_within (v : Dev) (k : Nat) : Dev.Within [.streams, .coreRegs, .syncStatus, .stackMem, .channels, .hif] v (Dev.fetchOne v k) := by
  unfold Dev.fetchOne
  try dsimp only
  repeat' first
    | with_reducible exact Dev.Within.refl _ _
    | with_reducible assumption
    | (with_reducible apply Dev.Within.step (Dev.rdModule_within _ _ _ _ _)); · decide
    | (with_reducible apply Dev.Within.step (Dev.modStrm_within _ _ _)); · decide
    | (with_reducible apply Dev.Within.ite)
    | (with_reducible apply Dev.Within.iteFst <;> try dsimp only)
    | (with_reducible apply Dev.Within.iteSnd <;> try dsimp only)
    | (intro _; try dsimp only)
    | (with_reducible apply Dev.Within.ofSnd; · with_reducible assumption)
    | (with_reducible apply Dev.Within.ofThird; · with_reducible assumption)
    | (with_reducible apply Dev.Within.ofFst; · with_reducible assumption)
    | (split <;> try dsimp only)
theorem Dev.refill_within (v : Dev) (k : Nat) : Dev.Within [.streams, .coreRegs, .syncStatus, .stackMem, .channels, .hif] v (Dev.refill v k) := by
  unfold Dev.refill
  try dsimp only
  repeat' first
    | with_reducible exact Dev.Within.refl _ _
    | with_reducible assumption
    | (with_reducible apply Dev.Within.step (Dev.fetchOne_within _ _)); · decide
    | (with_reducible apply Dev.Within.ite)
    | (with_reducible apply Dev.Within.iteFst <;> try dsimp only)
    | (with_reducible apply Dev.Within.iteSnd <;> try dsimp only)
    | with_reducible apply Dev.Within.forN
    | (intro _; try dsimp only)
    | (with_reducible apply Dev.Within.ofSnd; · with_reducible assumption)
    | (with_reducible apply Dev.Within.ofThird; · with_reducible assumption)
    | (with_reducible apply Dev.Within.ofFst; · with_reducible assumption)
    | (split <;> try dsimp only)
theorem Dev.clearFlights_within (v : Dev) (id : Nat) : Dev.Within [.streams, .stackMem, .channels, .stackRegs, .heldWrites, .hif] v (Dev.clearFlights v id) := by
  unfold Dev.clearFlights
  try dsimp only
  repeat' first
    | with_reducible exact Dev.Within.refl _ _
    | with_reducible assumption
    | (with_reducible apply Dev.Within.step (Dev.reslip_within _ _)); · decide
    | (with_reducible apply Dev.Within.step (Dev.versionAbort_within _ _ _)); · decide
    | (with_reducible apply Dev.Within.step (Dev.modStrm_within _ _ _)); · decide
    | (with_reducible apply Dev.Within.ite)
    | (with_reducible apply Dev.Within.iteFst <;> try dsimp only)
    | (with_reducible apply Dev.Within.iteSnd <;> try dsimp only)
    | with_reducible apply Dev.Within.forAll
    | (intro _; try dsimp only)
    | (with_reducible apply Dev.Within.ofSnd; · with_reducible assumption)
    | (with_reducible apply Dev.Within.ofThird; · with_reducible assumption)
    | (with_reducible apply Dev.Within.ofFst; · with_reducible assumption)
    | (split <;> try dsimp only)
theorem Dev.endStopped_within (v : Dev) (id : Nat) : Dev.Within [.schedules, .streams, .stackMem, .channels, .stackRegs, .hostMem, .heldWrites, .hif, .out] v (Dev.endStopped v id) := by
  unfold Dev.endStopped
  try dsimp only
  repeat' first
    | with_reducible exact Dev.Within.refl _ _
    | with_reducible assumption
    | (with_reducible apply Dev.Within.step (Dev.clearFlights_within _ _)); · decide
    | (with_reducible apply Dev.Within.step (Dev.completeThen_within _ _ _ _ _ _ _ _)); · decide
    | (with_reducible apply Dev.Within.step (Dev.modSched_within _ _ _)); · decide
    | (with_reducible apply Dev.Within.ite)
    | (with_reducible apply Dev.Within.iteFst <;> try dsimp only)
    | (with_reducible apply Dev.Within.iteSnd <;> try dsimp only)
    | (intro _; try dsimp only)
    | (with_reducible apply Dev.Within.ofSnd; · with_reducible assumption)
    | (with_reducible apply Dev.Within.ofThird; · with_reducible assumption)
    | (with_reducible apply Dev.Within.ofFst; · with_reducible assumption)
    | (split <;> try dsimp only)
theorem Dev.writeRecord_within (v : Dev) (die : Nat) (timed : Bool) : Dev.Within [.faults] v (Dev.writeRecord v die timed) := by
  unfold Dev.writeRecord
  try dsimp only
  repeat' first
    | with_reducible exact Dev.Within.refl _ _
    | with_reducible assumption
    | (with_reducible apply Dev.Within.step (Dev.modFlt_within _ _ _)); · decide
    | (with_reducible apply Dev.Within.ite)
    | (with_reducible apply Dev.Within.iteFst <;> try dsimp only)
    | (with_reducible apply Dev.Within.iteSnd <;> try dsimp only)
    | (intro _; try dsimp only)
    | (with_reducible apply Dev.Within.ofSnd; · with_reducible assumption)
    | (with_reducible apply Dev.Within.ofThird; · with_reducible assumption)
    | (with_reducible apply Dev.Within.ofFst; · with_reducible assumption)
    | (split <;> try dsimp only)
theorem Dev.cutShort_within (v : Dev) (ids : List Nat) : Dev.Within [.streams, .dmas, .hostMem, .hif, .out] v (Dev.cutShort v ids) := by
  unfold Dev.cutShort
  try dsimp only
  repeat' first
    | with_reducible exact Dev.Within.refl _ _
    | with_reducible assumption
    | (with_reducible apply Dev.Within.step (Dev.dmaDrain_within _ _ _)); · decide
    | (with_reducible apply Dev.Within.step (Dev.modFlight_within _ _ _ _)); · decide
    | (with_reducible apply Dev.Within.step (Dev.modDmaCh_within _ _ _ _)); · decide
    | (with_reducible apply Dev.Within.ite)
    | (with_reducible apply Dev.Within.iteFst <;> try dsimp only)
    | (with_reducible apply Dev.Within.iteSnd <;> try dsimp only)
    | with_reducible apply Dev.Within.forAll
    | (intro _; try dsimp only)
    | (with_reducible apply Dev.Within.ofSnd; · with_reducible assumption)
    | (with_reducible apply Dev.Within.ofThird; · with_reducible assumption)
    | (with_reducible apply Dev.Within.ofFst; · with_reducible assumption)
    | (split <;> try dsimp only)
theorem Dev.closeRecord_within (v : Dev) (die : Nat) (timed : Bool) (late : Bool) : Dev.Within [.schedules, .streams, .stackMem, .channels, .stackRegs, .hostMem, .heldWrites, .faults, .hif, .out] v (Dev.closeRecord v die timed late) := by
  unfold Dev.closeRecord
  try dsimp only
  repeat' first
    | with_reducible exact Dev.Within.refl _ _
    | with_reducible assumption
    | (with_reducible apply Dev.Within.step (Dev.endStopped_within _ _)); · decide
    | (with_reducible apply Dev.Within.step (Dev.ev_within _ _ _ _ _ _)); · decide
    | (with_reducible apply Dev.Within.step (Dev.writeRecord_within _ _ _)); · decide
    | (with_reducible apply Dev.Within.step (Dev.modFlt_within _ _ _)); · decide
    | (with_reducible apply Dev.Within.ite)
    | (with_reducible apply Dev.Within.iteFst <;> try dsimp only)
    | (with_reducible apply Dev.Within.iteSnd <;> try dsimp only)
    | with_reducible apply Dev.Within.forAll
    | (intro _; try dsimp only)
    | (with_reducible apply Dev.Within.ofSnd; · with_reducible assumption)
    | (with_reducible apply Dev.Within.ofThird; · with_reducible assumption)
    | (with_reducible apply Dev.Within.ofFst; · with_reducible assumption)
    | (split <;> try dsimp only)
theorem Dev.endCapture_within (v : Dev) (die : Nat) (timed : Bool) : Dev.Within [.schedules, .streams, .dmas, .stackMem, .channels, .stackRegs, .hostMem, .heldWrites, .faults, .hif, .out] v (Dev.endCapture v die timed) := by
  unfold Dev.endCapture
  try dsimp only
  repeat' first
    | with_reducible exact Dev.Within.refl _ _
    | with_reducible assumption
    | (with_reducible apply Dev.Within.step (Dev.closeRecord_within _ _ _ _)); · decide
    | (with_reducible apply Dev.Within.step (Dev.cutShort_within _ _)); · decide
    | (with_reducible apply Dev.Within.ite)
    | (with_reducible apply Dev.Within.iteFst <;> try dsimp only)
    | (with_reducible apply Dev.Within.iteSnd <;> try dsimp only)
    | (intro _; try dsimp only)
    | (with_reducible apply Dev.Within.ofSnd; · with_reducible assumption)
    | (with_reducible apply Dev.Within.ofThird; · with_reducible assumption)
    | (with_reducible apply Dev.Within.ofFst; · with_reducible assumption)
    | (split <;> try dsimp only)

end Sys2Proof.Machine
end

