-- ==== Sys2Proof/Laws/Fabric.lean ====
section
/-! SUPPORT. What each operation of Machine/Fabric may change. -/

namespace Sys2Proof.Machine

theorem Dev.flagFab_within (v : Dev) (die : Nat) (g : Fab → Fab) (code : Nat) (chip : Nat) : Dev.Within [.fabric, .hif] v (Dev.flagFab v die g code chip) := by
  unfold Dev.flagFab
  try dsimp only
  repeat' first
    | with_reducible exact Dev.Within.refl _ _
    | with_reducible assumption
    | (with_reducible apply Dev.Within.step (Dev.ev_within _ _ _ _ _ _)); · decide
    | (with_reducible apply Dev.Within.step (Dev.modFabD_within _ _ _)); · decide
    | (with_reducible apply Dev.Within.ite)
    | (with_reducible apply Dev.Within.iteFst <;> try dsimp only)
    | (with_reducible apply Dev.Within.iteSnd <;> try dsimp only)
    | (intro _; try dsimp only)
    | (with_reducible apply Dev.Within.ofSnd; · with_reducible assumption)
    | (with_reducible apply Dev.Within.ofThird; · with_reducible assumption)
    | (with_reducible apply Dev.Within.ofFst; · with_reducible assumption)
    | (split <;> try dsimp only)
theorem Dev.sendPacket_within (v : Dev) (die : Nat) (p : Packet) : Dev.Within [.fabric, .hif, .out] v (Dev.sendPacket v die p).2 := by
  unfold Dev.sendPacket
  try dsimp only
  repeat' first
    | with_reducible exact Dev.Within.refl _ _
    | with_reducible assumption
    | (with_reducible apply Dev.Within.step (Dev.flagFab_within _ _ _ _ _)); · decide
    | (with_reducible apply Dev.Within.step (Dev.send_within _ _)); · decide
    | (with_reducible apply Dev.Within.ite)
    | (with_reducible apply Dev.Within.iteFst <;> try dsimp only)
    | (with_reducible apply Dev.Within.iteSnd <;> try dsimp only)
    | (intro _; try dsimp only)
    | (with_reducible apply Dev.Within.ofSnd; · with_reducible assumption)
    | (with_reducible apply Dev.Within.ofThird; · with_reducible assumption)
    | (with_reducible apply Dev.Within.ofFst; · with_reducible assumption)
    | (split <;> try dsimp only)
theorem Dev.sendReq_within (v : Dev) (die : Nat) (kind : Nat) (chip : Nat) (len : Nat) (sunit : Nat) (id : Nat) (off : Nat) (ctag : Nat) (data : List Byte) (purpose : ReqPurpose) : Dev.Within [.fabric, .hif, .out] v (Dev.sendReq v die kind chip len sunit id off ctag data purpose).2 := by
  unfold Dev.sendReq
  try dsimp only
  repeat' first
    | with_reducible exact Dev.Within.refl _ _
    | with_reducible assumption
    | (with_reducible apply Dev.Within.step (Dev.sendPacket_within _ _ _)); · decide
    | (with_reducible apply Dev.Within.step (Dev.modFabD_within _ _ _)); · decide
    | (with_reducible apply Dev.Within.ite)
    | (with_reducible apply Dev.Within.iteFst <;> try dsimp only)
    | (with_reducible apply Dev.Within.iteSnd <;> try dsimp only)
    | (intro _; try dsimp only)
    | (with_reducible apply Dev.Within.ofSnd; · with_reducible assumption)
    | (with_reducible apply Dev.Within.ofThird; · with_reducible assumption)
    | (with_reducible apply Dev.Within.ofFst; · with_reducible assumption)
    | (split <;> try dsimp only)
theorem Dev.newId_within (v : Dev) (die : Nat) : Dev.Within [.fabric] v (Dev.newId v die).2 := by
  unfold Dev.newId
  try dsimp only
  repeat' first
    | with_reducible exact Dev.Within.refl _ _
    | with_reducible assumption
    | (with_reducible apply Dev.Within.step (Dev.modFabD_within _ _ _)); · decide
    | (with_reducible apply Dev.Within.ite)
    | (with_reducible apply Dev.Within.iteFst <;> try dsimp only)
    | (with_reducible apply Dev.Within.iteSnd <;> try dsimp only)
    | (intro _; try dsimp only)
    | (with_reducible apply Dev.Within.ofSnd; · with_reducible assumption)
    | (with_reducible apply Dev.Within.ofThird; · with_reducible assumption)
    | (with_reducible apply Dev.Within.ofFst; · with_reducible assumption)
    | (split <;> try dsimp only)
theorem Dev.settleLinks_within (v : Dev) (die : Nat) : Dev.Within [.fabric] v (Dev.settleLinks v die) := by
  unfold Dev.settleLinks
  try dsimp only
  repeat' first
    | with_reducible exact Dev.Within.refl _ _
    | with_reducible assumption
    | (with_reducible apply Dev.Within.step (Dev.modFabD_within _ _ _)); · decide
    | (with_reducible apply Dev.Within.ite)
    | (with_reducible apply Dev.Within.iteFst <;> try dsimp only)
    | (with_reducible apply Dev.Within.iteSnd <;> try dsimp only)
    | (intro _; try dsimp only)
    | (with_reducible apply Dev.Within.ofSnd; · with_reducible assumption)
    | (with_reducible apply Dev.Within.ofThird; · with_reducible assumption)
    | (with_reducible apply Dev.Within.ofFst; · with_reducible assumption)
    | (split <;> try dsimp only)
theorem Dev.linksChanged_within (v : Dev) (die : Nat) : Dev.Within [.fabric] v (Dev.linksChanged v die) := by
  unfold Dev.linksChanged
  try dsimp only
  repeat' first
    | with_reducible exact Dev.Within.refl _ _
    | with_reducible assumption
    | (with_reducible apply Dev.Within.step (Dev.settleLinks_within _ _)); · decide
    | (with_reducible apply Dev.Within.step (Dev.modFabD_within _ _ _)); · decide
    | (with_reducible apply Dev.Within.ite)
    | (with_reducible apply Dev.Within.iteFst <;> try dsimp only)
    | (with_reducible apply Dev.Within.iteSnd <;> try dsimp only)
    | (intro _; try dsimp only)
    | (with_reducible apply Dev.Within.ofSnd; · with_reducible assumption)
    | (with_reducible apply Dev.Within.ofThird; · with_reducible assumption)
    | (with_reducible apply Dev.Within.ofFst; · with_reducible assumption)
    | (split <;> try dsimp only)
theorem Dev.regionInbound_within (v : Dev) (die : Nat) (chip : Nat) (off : Nat) : Dev.Within [.hif] v (Dev.regionInbound v die chip off) := by
  unfold Dev.regionInbound
  try dsimp only
  repeat' first
    | with_reducible exact Dev.Within.refl _ _
    | with_reducible assumption
    | (with_reducible apply Dev.Within.step (Dev.ev_within _ _ _ _ _ _)); · decide
    | (with_reducible apply Dev.Within.ite)
    | (with_reducible apply Dev.Within.iteFst <;> try dsimp only)
    | (with_reducible apply Dev.Within.iteSnd <;> try dsimp only)
    | (intro _; try dsimp only)
    | (with_reducible apply Dev.Within.ofSnd; · with_reducible assumption)
    | (with_reducible apply Dev.Within.ofThird; · with_reducible assumption)
    | (with_reducible apply Dev.Within.ofFst; · with_reducible assumption)
    | (split <;> try dsimp only)
theorem Dev.arriveRead_within (v : Dev) (die : Nat) (off : Nat) (n : Nat) (chip : Nat) (req : Nat) (away : Bool) : Dev.Within [.coreRegs, .syncStatus, .stackMem, .channels, .hif] v (Dev.arriveRead v die off n chip req away).2 := by
  unfold Dev.arriveRead
  try dsimp only
  repeat' first
    | with_reducible exact Dev.Within.refl _ _
    | with_reducible assumption
    | (with_reducible apply Dev.Within.step (Dev.ev_within _ _ _ _ _ _)); · decide
    | (with_reducible apply Dev.Within.step (Dev.rdModule_within _ _ _ _ _)); · decide
    | (with_reducible apply Dev.Within.step (Dev.regionInbound_within _ _ _ _)); · decide
    | (with_reducible apply Dev.Within.ite)
    | (with_reducible apply Dev.Within.iteFst <;> try dsimp only)
    | (with_reducible apply Dev.Within.iteSnd <;> try dsimp only)
    | (intro _; try dsimp only)
    | (with_reducible apply Dev.Within.ofSnd; · with_reducible assumption)
    | (with_reducible apply Dev.Within.ofThird; · with_reducible assumption)
    | (with_reducible apply Dev.Within.ofFst; · with_reducible assumption)
    | (split <;> try dsimp only)
theorem Dev.arriveWrite_within (v : Dev) (die : Nat) (off : Nat) (bs : List Byte) (chip : Nat) (req : Nat) (away : Bool) (owner : Option Owner) : Dev.Within [.spads, .counters, .syncStatus, .stackMem, .channels, .stackRegs, .heldWrites, .contextSwitch, .hif] v (Dev.arriveWrite v die off bs chip req away owner).2 := by
  unfold Dev.arriveWrite
  try dsimp only
  repeat' first
    | with_reducible exact Dev.Within.refl _ _
    | with_reducible assumption
    | (with_reducible apply Dev.Within.step (Dev.regionInbound_within _ _ _ _)); · decide
    | (with_reducible apply Dev.Within.step (Dev.wrModule_within _ _ _ _ _ _ _)); · decide
    | (with_reducible apply Dev.Within.ite)
    | (with_reducible apply Dev.Within.iteFst <;> try dsimp only)
    | (with_reducible apply Dev.Within.iteSnd <;> try dsimp only)
    | (intro _; try dsimp only)
    | (with_reducible apply Dev.Within.ofSnd; · with_reducible assumption)
    | (with_reducible apply Dev.Within.ofThird; · with_reducible assumption)
    | (with_reducible apply Dev.Within.ofFst; · with_reducible assumption)
    | (split <;> try dsimp only)
theorem Dev.rdAt_within (v : Dev) (die : Nat) (a : W64) (n : Nat) (req : Nat) : Dev.Within [.coreRegs, .syncStatus, .stackMem, .channels, .hif] v (Dev.rdAt v die a n req).2 := by
  unfold Dev.rdAt
  try dsimp only
  repeat' first
    | with_reducible exact Dev.Within.refl _ _
    | with_reducible assumption
    | (with_reducible apply Dev.Within.step (Dev.arriveRead_within _ _ _ _ _ _ _)); · decide
    | (with_reducible apply Dev.Within.step (Dev.rdIssued_within _ _ _ _ _)); · decide
    | (with_reducible apply Dev.Within.ite)
    | (with_reducible apply Dev.Within.iteFst <;> try dsimp only)
    | (with_reducible apply Dev.Within.iteSnd <;> try dsimp only)
    | (intro _; try dsimp only)
    | (with_reducible apply Dev.Within.ofSnd; · with_reducible assumption)
    | (with_reducible apply Dev.Within.ofThird; · with_reducible assumption)
    | (with_reducible apply Dev.Within.ofFst; · with_reducible assumption)
    | (split <;> try dsimp only)
theorem Dev.rdHere_within (v : Dev) (die : Nat) (a : W64) (n : Nat) (req : Nat) : Dev.Within [.coreRegs, .syncStatus, .stackMem, .channels, .hif] v (Dev.rdHere v die a n req).2 := by
  unfold Dev.rdHere
  try dsimp only
  repeat' first
    | with_reducible exact Dev.Within.refl _ _
    | with_reducible assumption
    | (with_reducible apply Dev.Within.step (Dev.rdAt_within _ _ _ _ _)); · decide
    | (with_reducible apply Dev.Within.ite)
    | (with_reducible apply Dev.Within.iteFst <;> try dsimp only)
    | (with_reducible apply Dev.Within.iteSnd <;> try dsimp only)
    | (intro _; try dsimp only)
    | (with_reducible apply Dev.Within.ofSnd; · with_reducible assumption)
    | (with_reducible apply Dev.Within.ofThird; · with_reducible assumption)
    | (with_reducible apply Dev.Within.ofFst; · with_reducible assumption)
    | (split <;> try dsimp only)
theorem Dev.wrAt_within (v : Dev) (die : Nat) (a : W64) (bs : List Byte) (req : Nat) (owner : Option Owner) : Dev.Within [.spads, .counters, .syncStatus, .stackMem, .channels, .stackRegs, .hostMem, .heldWrites, .contextSwitch, .hif] v (Dev.wrAt v die a bs req owner).2 := by
  unfold Dev.wrAt
  try dsimp only
  repeat' first
    | with_reducible exact Dev.Within.refl _ _
    | with_reducible assumption
    | (with_reducible apply Dev.Within.step (Dev.arriveWrite_within _ _ _ _ _ _ _ _)); · decide
    | (with_reducible apply Dev.Within.step (Dev.wrIssued_within _ _ _ _ _ _)); · decide
    | (with_reducible apply Dev.Within.ite)
    | (with_reducible apply Dev.Within.iteFst <;> try dsimp only)
    | (with_reducible apply Dev.Within.iteSnd <;> try dsimp only)
    | (intro _; try dsimp only)
    | (with_reducible apply Dev.Within.ofSnd; · with_reducible assumption)
    | (with_reducible apply Dev.Within.ofThird; · with_reducible assumption)
    | (with_reducible apply Dev.Within.ofFst; · with_reducible assumption)
    | (split <;> try dsimp only)
theorem Dev.wrHere_within (v : Dev) (die : Nat) (a : W64) (bs : List Byte) (req : Nat) (owner : Option Owner) : Dev.Within [.spads, .counters, .syncStatus, .stackMem, .channels, .stackRegs, .hostMem, .heldWrites, .contextSwitch, .hif] v (Dev.wrHere v die a bs req owner).2 := by
  unfold Dev.wrHere
  try dsimp only
  repeat' first
    | with_reducible exact Dev.Within.refl _ _
    | with_reducible assumption
    | (with_reducible apply Dev.Within.step (Dev.wrAt_within _ _ _ _ _ _)); · decide
    | (with_reducible apply Dev.Within.ite)
    | (with_reducible apply Dev.Within.iteFst <;> try dsimp only)
    | (with_reducible apply Dev.Within.iteSnd <;> try dsimp only)
    | (intro _; try dsimp only)
    | (with_reducible apply Dev.Within.ofSnd; · with_reducible assumption)
    | (with_reducible apply Dev.Within.ofThird; · with_reducible assumption)
    | (with_reducible apply Dev.Within.ofFst; · with_reducible assumption)
    | (split <;> try dsimp only)
theorem Dev.lateDiscard_within (v : Dev) (die : Nat) : Dev.Within [.fabric] v (Dev.lateDiscard v die) := by
  unfold Dev.lateDiscard
  try dsimp only
  repeat' first
    | with_reducible exact Dev.Within.refl _ _
    | with_reducible assumption
    | (with_reducible apply Dev.Within.step (Dev.modFabD_within _ _ _)); · decide
    | (with_reducible apply Dev.Within.ite)
    | (with_reducible apply Dev.Within.iteFst <;> try dsimp only)
    | (with_reducible apply Dev.Within.iteSnd <;> try dsimp only)
    | (intro _; try dsimp only)
    | (with_reducible apply Dev.Within.ofSnd; · with_reducible assumption)
    | (with_reducible apply Dev.Within.ofThird; · with_reducible assumption)
    | (with_reducible apply Dev.Within.ofFst; · with_reducible assumption)
    | (split <;> try dsimp only)
theorem Dev.landOverrun_within (v : Dev) (die : Nat) (lid : Nat) (ctag : Nat) : Dev.Within [.fabric, .hif] v (Dev.landOverrun v die lid ctag) := by
  unfold Dev.landOverrun
  try dsimp only
  repeat' first
    | with_reducible exact Dev.Within.refl _ _
    | with_reducible assumption
    | (with_reducible apply Dev.Within.step (Dev.ev_within _ _ _ _ _ _)); · decide
    | (with_reducible apply Dev.Within.step (Dev.modFabD_within _ _ _)); · decide
    | (with_reducible apply Dev.Within.step (Dev.modLand_within _ _ _ _)); · decide
    | (with_reducible apply Dev.Within.ite)
    | (with_reducible apply Dev.Within.iteFst <;> try dsimp only)
    | (with_reducible apply Dev.Within.iteSnd <;> try dsimp only)
    | (intro _; try dsimp only)
    | (with_reducible apply Dev.Within.ofSnd; · with_reducible assumption)
    | (with_reducible apply Dev.Within.ofThird; · with_reducible assumption)
    | (with_reducible apply Dev.Within.ofFst; · with_reducible assumption)
    | (split <;> try dsimp only)
theorem Dev.landData_within (v : Dev) (die : Nat) (lid : Nat) (ctag : Nat) (len : Nat) : Dev.Within [.fabric, .hif] v (Dev.landData v die lid ctag len) := by
  unfold Dev.landData
  try dsimp only
  repeat' first
    | with_reducible exact Dev.Within.refl _ _
    | with_reducible assumption
    | (with_reducible apply Dev.Within.step (Dev.landOverrun_within _ _ _ _)); · decide
    | (with_reducible apply Dev.Within.step (Dev.lateDiscard_within _ _)); · decide
    | (with_reducible apply Dev.Within.step (Dev.modLand_within _ _ _ _)); · decide
    | (with_reducible apply Dev.Within.ite)
    | (with_reducible apply Dev.Within.iteFst <;> try dsimp only)
    | (with_reducible apply Dev.Within.iteSnd <;> try dsimp only)
    | (intro _; try dsimp only)
    | (with_reducible apply Dev.Within.ofSnd; · with_reducible assumption)
    | (with_reducible apply Dev.Within.ofThird; · with_reducible assumption)
    | (with_reducible apply Dev.Within.ofFst; · with_reducible assumption)
    | (split <;> try dsimp only)
theorem Dev.landDone_within (v : Dev) (die : Nat) (lid : Nat) (ctag : Nat) (data : List Byte) : Dev.Within [.fabric, .hif] v (Dev.landDone v die lid ctag data).2 := by
  unfold Dev.landDone
  try dsimp only
  repeat' first
    | with_reducible exact Dev.Within.refl _ _
    | with_reducible assumption
    | (with_reducible apply Dev.Within.step (Dev.landOverrun_within _ _ _ _)); · decide
    | (with_reducible apply Dev.Within.step (Dev.lateDiscard_within _ _)); · decide
    | (with_reducible apply Dev.Within.step (Dev.modLand_within _ _ _ _)); · decide
    | (with_reducible apply Dev.Within.ite)
    | (with_reducible apply Dev.Within.iteFst <;> try dsimp only)
    | (with_reducible apply Dev.Within.iteSnd <;> try dsimp only)
    | (intro _; try dsimp only)
    | (with_reducible apply Dev.Within.ofSnd; · with_reducible assumption)
    | (with_reducible apply Dev.Within.ofThird; · with_reducible assumption)
    | (with_reducible apply Dev.Within.ofFst; · with_reducible assumption)
    | (split <;> try dsimp only)

end Sys2Proof.Machine
end

