-- ==== Sys2Proof/Laws/Matrix.lean ====
section
/-! SUPPORT. What each operation of Machine/Matrix may change. -/

namespace Sys2Proof.Machine

/-- Port B's last write of a word is what an accumulator word holds after the cycle, whatever port A wrote to it (R299). -/
theorem Core.accCycle_portB (k : Core) (r : List Nat) (a b : List (Nat × Nat)) (w x : Nat) :
    (k.accCycle r a (b ++ [(w, x)])).2.accGet w = (w32 x).toNat := by
  simp [Core.accCycle, Core.accGet, Core.accPut, ← List.append_assoc]
/-- What port B reads is what stood before the cycle's writes (R299). -/
theorem Core.accCycle_reads (k : Core) (r : List Nat) (a b : List (Nat × Nat)) : (k.accCycle r a b).1 = r.map k.accGet := rfl
theorem Core.accPut_within (k : Core) (w n : Nat) : Core.Within [.accs] k (k.accPut w n) :=
  Core.Within.of (fun p hp => by cases p <;> first | exact absurd (by decide) hp | simp [Core.same, Core.accPut]) (by decide)
theorem Core.accCycle_within (k : Core) (r : List Nat) (a b : List (Nat × Nat)) : Core.Within [.accs] k (k.accCycle r a b).2 :=
  Core.Within.foldl (fun q c => Core.accPut_within q c.1 c.2) (Core.Within.refl _ _)
theorem Dev.mxRows_within (v : Dev) (o : MxOps) (core : Nat) (p : Nat) (q : Nat) (z0 : List Nat) : Dev.Within [.accs] v (Dev.mxRows v o core p q z0).1 := by
  induction z0 generalizing v o core p q with
  | nil => unfold Dev.mxRows; exact Dev.Within.refl _ _
  | cons x xs ih =>
    unfold Dev.mxRows
    try dsimp only
    repeat' first
      | with_reducible exact Dev.Within.refl _ _
      | with_reducible assumption
      | (with_reducible apply Dev.Within.step (ih _ _ _ _ _)); · decide
      | with_reducible apply Dev.Within.core
      | (with_reducible apply Dev.Within.ite)
      | (with_reducible apply Dev.Within.iteFst <;> try dsimp only)
      | (with_reducible apply Dev.Within.iteSnd <;> try dsimp only)
      | with_reducible apply Dev.Within.forAll
      | (intro _; try dsimp only)
      | (with_reducible apply Core.Within.step (Core.accCycle_within _ _ _ _)); · decide
      | with_reducible exact Core.Within.refl _ _
      | exact ⟨fun p hp => by cases p <;> first | exact absurd (by decide) hp | simp [Core.same], fun h => by first | exact h | exact mwrite_wf _ _ h | exact mclear_wf _ _ h | exact filter_wfFrom _ _ h | rfl⟩
      | (with_reducible apply Dev.Within.ofSnd; · with_reducible assumption)
      | (with_reducible apply Dev.Within.ofThird; · with_reducible assumption)
      | (with_reducible apply Dev.Within.ofFst; · with_reducible assumption)
      | (split <;> try dsimp only)
theorem Dev.mxLoad_within (v : Dev) (o : MxOps) (ws : List W64) (core : Nat) (p : Nat) (q : Nat) : Dev.Within [.accs, .tiles] v (Dev.mxLoad v o ws core p q).1 := by
  unfold Dev.mxLoad
  try dsimp only
  repeat' first
    | with_reducible exact Dev.Within.refl _ _
    | with_reducible assumption
    | with_reducible apply Dev.Within.core
    | (with_reducible apply Dev.Within.ite)
    | (with_reducible apply Dev.Within.iteFst <;> try dsimp only)
    | (with_reducible apply Dev.Within.iteSnd <;> try dsimp only)
    | with_reducible apply Dev.Within.forAll
    | (intro _; try dsimp only)
    | with_reducible exact Core.Within.refl _ _
    | exact ⟨fun p hp => by cases p <;> first | exact absurd (by decide) hp | simp [Core.same], fun h => by first | exact h | exact mwrite_wf _ _ h | exact mclear_wf _ _ h | exact filter_wfFrom _ _ h | rfl⟩
    | (with_reducible apply Dev.Within.ofSnd; · with_reducible assumption)
    | (with_reducible apply Dev.Within.ofThird; · with_reducible assumption)
    | (with_reducible apply Dev.Within.ofFst; · with_reducible assumption)
    | (split <;> try dsimp only)
theorem Dev.colFail_within (v : Dev) (k : Nat) (ws : List W64) (c : Nat) (col : Nat) : Dev.Within [.schedules, .streams, .spads, .caches, .contexts, .dmas, .coreRegs, .counters, .syncStatus, .stackMem, .channels, .stackRegs, .hostMem, .heldWrites, .faults, .contextSwitch, .fabric, .hif, .out] v (Dev.colFail v k ws c col) := by
  unfold Dev.colFail
  try dsimp only
  repeat' first
    | with_reducible exact Dev.Within.refl _ _
    | with_reducible assumption
    | (with_reducible apply Dev.Within.step (Dev.ev_within _ _ _ _ _ _)); · decide
    | (with_reducible apply Dev.Within.step (Dev.startFail_within _ _ _ _ _ _)); · decide
    | with_reducible apply Dev.Within.core
    | (with_reducible apply Dev.Within.ite)
    | (with_reducible apply Dev.Within.iteFst <;> try dsimp only)
    | (with_reducible apply Dev.Within.iteSnd <;> try dsimp only)
    | (intro _; try dsimp only)
    | with_reducible exact Core.Within.refl _ _
    | exact ⟨fun p hp => by cases p <;> first | exact absurd (by decide) hp | simp [Core.same], fun h => by first | exact h | exact mwrite_wf _ _ h | exact mclear_wf _ _ h | exact filter_wfFrom _ _ h | rfl⟩
    | (with_reducible apply Dev.Within.ofSnd; · with_reducible assumption)
    | (with_reducible apply Dev.Within.ofThird; · with_reducible assumption)
    | (with_reducible apply Dev.Within.ofFst; · with_reducible assumption)
    | (split <;> try dsimp only)
theorem Dev.mxStart_within (v : Dev) (k : Nat) (op : Nat) : Dev.Within [.schedules, .streams, .spads, .accs, .tiles, .caches, .contexts, .dmas, .coreRegs, .counters, .syncStatus, .stackMem, .channels, .stackRegs, .hostMem, .heldWrites, .faults, .contextSwitch, .fabric, .hif, .out] v (Dev.mxStart v k op) := by
  unfold Dev.mxStart
  try dsimp only
  repeat' first
    | with_reducible exact Dev.Within.refl _ _
    | with_reducible assumption
    | (with_reducible apply Dev.Within.step (Dev.colFail_within _ _ _ _ _)); · decide
    | (with_reducible apply Dev.Within.step (Dev.mxLoad_within _ _ _ _ _ _)); · decide
    | (with_reducible apply Dev.Within.step (Dev.mxRows_within _ _ _ _ _ _)); · decide
    | (with_reducible apply Dev.Within.step (Dev.nextHead_within _ _)); · decide
    | (with_reducible apply Dev.Within.step (Dev.overlapAt_within _ _ _ _)); · decide
    | (with_reducible apply Dev.Within.step (Dev.parityFail_within _ _ _ _ _ _ _)); · decide
    | (with_reducible apply Dev.Within.step (Dev.started_within _ _ _ _)); · decide
    | (with_reducible apply Dev.Within.ite)
    | (with_reducible apply Dev.Within.iteFst <;> try dsimp only)
    | (with_reducible apply Dev.Within.iteSnd <;> try dsimp only)
    | with_reducible apply Dev.Within.forAll
    | (intro _; try dsimp only)
    | (with_reducible apply Dev.Within.ofSnd; · with_reducible assumption)
    | (with_reducible apply Dev.Within.ofThird; · with_reducible assumption)
    | (with_reducible apply Dev.Within.ofFst; · with_reducible assumption)
    | (split <;> try dsimp only)

end Sys2Proof.Machine
end

