-- ==== Sys2Proof/Laws/Scaling.lean ====
section
/-! SUPPORT. What each operation of Machine/Scaling may change. -/

namespace Sys2Proof.Machine

theorem Dev.coreUse_within (v : Dev) (c : Nat) (lane : Nat) : Dev.Within [.coreGens, .free] v (Dev.coreUse v c lane).2 := by
  unfold Dev.coreUse
  try dsimp only
  repeat' first
    | with_reducible exact Dev.Within.refl _ _
    | with_reducible assumption
    | (with_reducible apply Dev.Within.step (Dev.draw_within _)); · decide
    | with_reducible apply Dev.Within.core
    | (with_reducible apply Dev.Within.ite)
    | (with_reducible apply Dev.Within.iteFst <;> try dsimp only)
    | (with_reducible apply Dev.Within.iteSnd <;> try dsimp only)
    | (intro _; try dsimp only)
    | with_reducible exact Core.Within.refl _ _
    | exact ⟨fun p hp => by cases p <;> first | exact absurd (by decide) hp | simp [Core.same], fun h => by first | exact h | exact mwrite_wf _ _ h | exact mclear_wf _ _ h | exact filter_wfFrom _ _ h | rfl⟩
    | (with_reducible apply Dev.Within.ofSnd; · with_reducible assumption)
    | (with_reducible apply Dev.Within.ofThird; · with_reducible assumption)
    | (with_reducible apply Dev.Within.ofFst; · with_reducible assumption)
    | (split <;> try dsimp only)
theorem Dev.stackUse_within (v : Dev) (s : Nat) (chan : Nat) (lane : Nat) : Dev.Within [.stackRegs, .free] v (Dev.stackUse v s chan lane).2 := by
  unfold Dev.stackUse
  try dsimp only
  repeat' first
    | with_reducible exact Dev.Within.refl _ _
    | with_reducible assumption
    | (with_reducible apply Dev.Within.step (Dev.draw_within _)); · decide
    | (with_reducible apply Dev.Within.step (Dev.modStk_within _ _ _)); · decide
    | (with_reducible apply Dev.Within.ite)
    | (with_reducible apply Dev.Within.iteFst <;> try dsimp only)
    | (with_reducible apply Dev.Within.iteSnd <;> try dsimp only)
    | (intro _; try dsimp only)
    | (with_reducible apply Dev.Within.ofSnd; · with_reducible assumption)
    | (with_reducible apply Dev.Within.ofThird; · with_reducible assumption)
    | (with_reducible apply Dev.Within.ofFst; · with_reducible assumption)
    | (split <;> try dsimp only)
theorem Dev.scaleUpdate_within (v : Dev) (stat : Nat) (rec : Nat) (req : Nat) (owner : Option Owner) : Dev.Within [.stackMem, .channels, .stackRegs, .heldWrites, .hif] v (Dev.scaleUpdate v stat rec req owner) := by
  unfold Dev.scaleUpdate
  try dsimp only
  repeat' first
    | with_reducible exact Dev.Within.refl _ _
    | with_reducible assumption
    | (with_reducible apply Dev.Within.step (Dev.stackWrite_within _ _ _ _ _)); · decide
    | (with_reducible apply Dev.Within.ite)
    | (with_reducible apply Dev.Within.iteFst <;> try dsimp only)
    | (with_reducible apply Dev.Within.iteSnd <;> try dsimp only)
    | (intro _; try dsimp only)
    | (with_reducible apply Dev.Within.ofSnd; · with_reducible assumption)
    | (with_reducible apply Dev.Within.ofThird; · with_reducible assumption)
    | (with_reducible apply Dev.Within.ofFst; · with_reducible assumption)
    | (split <;> try dsimp only)

end Sys2Proof.Machine
end

