-- ==== Sys2Proof/Laws/UpdateEntries.lean ====
section
/-! SUPPORT. What each operation of Machine/Updates may change. -/

namespace Sys2Proof.Machine

theorem Dev.seRun_within {F : List Part} {u₀ : Dev} {v : Dev} {k : Nat} {op : Nat} {empty : List W64 → Bool} {noSource : List W64 → Bool} {touch : List W64 → List (Nat × Nat)} {act : Dev → Nat → List W64 → Dev}  (hb : ([.schedules, .streams, .spads, .caches, .contexts, .dmas, .coreRegs, .counters, .syncStatus, .stackMem, .channels, .stackRegs, .hostMem, .heldWrites, .faults, .contextSwitch, .fabric, .hif, .out].all fun p => F.contains p) = true) (h_act : ∀ (w : Dev) (q0 : Nat) (q1 : List W64), Dev.Within F w (act w q0 q1)) (h : Dev.Within F u₀ v) : Dev.Within F u₀ (Dev.seRun v k op empty noSource touch act) := by
  unfold Dev.seRun
  try dsimp only
  repeat' first
    | with_reducible exact Dev.Within.refl _ _
    | with_reducible assumption
    | (with_reducible apply Dev.Within.after (h_act _ _ _))
    | (with_reducible apply Dev.Within.step (Dev.nextHead_within _ _)); · first | decide | exact Dev.Within.sub (by decide) hb
    | (with_reducible apply Dev.Within.step (Dev.pathFail_within _ _ _ _ _)); · first | decide | exact Dev.Within.sub (by decide) hb
    | (with_reducible apply Dev.Within.step (Dev.softErrs_within _ _ _)); · first | decide | exact Dev.Within.sub (by decide) hb
    | (with_reducible apply Dev.Within.step (Dev.started_within _ _ _ _)); · first | decide | exact Dev.Within.sub (by decide) hb
    | (with_reducible apply Dev.Within.ite)
    | (with_reducible apply Dev.Within.iteFst <;> try dsimp only)
    | (with_reducible apply Dev.Within.iteSnd <;> try dsimp only)
    | with_reducible apply Dev.Within.forAll
    | (intro _; try dsimp only)
    | (with_reducible apply Dev.Within.ofSnd; · with_reducible assumption)
    | (with_reducible apply Dev.Within.ofThird; · with_reducible assumption)
    | (with_reducible apply Dev.Within.ofFst; · with_reducible assumption)
    | (split <;> try dsimp only)
theorem Dev.seReduce_within (v : Dev) (norm : Bool) (k : Nat) (idx : Nat) (ws : List W64) : Dev.Within [.stackMem, .channels, .stackRegs, .heldWrites, .hif] v (Dev.seReduce v norm k idx ws) := by
  unfold Dev.seReduce
  try dsimp only
  repeat' first
    | with_reducible exact Dev.Within.refl _ _
    | with_reducible assumption
    | (with_reducible apply Dev.Within.step (Dev.stackWrite_within _ _ _ _ _)); · decide
    | (with_reducible apply Dev.Within.step (Dev.submit_within _ _ _ _)); · decide
    | (with_reducible apply Dev.Within.ite)
    | (with_reducible apply Dev.Within.iteFst <;> try dsimp only)
    | (with_reducible apply Dev.Within.iteSnd <;> try dsimp only)
    | (intro _; try dsimp only)
    | (with_reducible apply Dev.Within.ofSnd; · with_reducible assumption)
    | (with_reducible apply Dev.Within.ofThird; · with_reducible assumption)
    | (with_reducible apply Dev.Within.ofFst; · with_reducible assumption)
    | (split <;> try dsimp only)
theorem Dev.rednorm_within (v : Dev) (k : Nat) : Dev.Within [.schedules, .streams, .spads, .caches, .contexts, .dmas, .coreRegs, .counters, .syncStatus, .stackMem, .channels, .stackRegs, .hostMem, .heldWrites, .faults, .contextSwitch, .fabric, .hif, .out] v (Dev.rednorm v k) := by
  unfold Dev.rednorm
  try dsimp only
  repeat' first
    | with_reducible exact Dev.Within.refl _ _
    | with_reducible assumption
    | (with_reducible apply Dev.Within.step (Dev.seReduce_within _ _ _ _ _)); · decide
    | (with_reducible apply Dev.seRun_within; · decide)
    | (with_reducible apply Dev.Within.step (Dev.stackWrite_within _ _ _ _ _)); · decide
    | (with_reducible apply Dev.Within.ite)
    | (with_reducible apply Dev.Within.iteFst <;> try dsimp only)
    | (with_reducible apply Dev.Within.iteSnd <;> try dsimp only)
    | (intro _; try dsimp only)
    | (with_reducible apply Dev.Within.ofSnd; · with_reducible assumption)
    | (with_reducible apply Dev.Within.ofThird; · with_reducible assumption)
    | (with_reducible apply Dev.Within.ofFst; · with_reducible assumption)
    | (split <;> try dsimp only)
theorem Dev.groupDraw_within (v : Dev) (s : Nat) (chan : Nat) : Dev.Within [.stackRegs, .free] v (Dev.groupDraw v s chan).2 := by
  unfold Dev.groupDraw
  try dsimp only
  repeat' first
    | with_reducible exact Dev.Within.refl _ _
    | with_reducible assumption
    | (with_reducible apply Dev.Within.step (Dev.stackUse_within _ _ _ _)); · decide
    | (with_reducible apply Dev.Within.ite)
    | (with_reducible apply Dev.Within.iteFst <;> try dsimp only)
    | (with_reducible apply Dev.Within.iteSnd <;> try dsimp only)
    | with_reducible apply Dev.Within.foldlFst
    | with_reducible apply Dev.Within.foldlSnd
    | with_reducible apply Dev.Within.foldl
    | (intro _; try dsimp only)
    | (with_reducible apply Dev.Within.ofSnd; · with_reducible assumption)
    | (with_reducible apply Dev.Within.ofThird; · with_reducible assumption)
    | (with_reducible apply Dev.Within.ofFst; · with_reducible assumption)
    | (split <;> try dsimp only)
theorem Dev.updGroup_within (v : Dev) (st : Nat) (idx : Nat) (op : Nat) (o : UpdOps) (h : Hyper) (c : Num) (prog : List Nat) (r : ScaleRec) (k : Nat) : Dev.Within [.stackMem, .channels, .stackRegs, .heldWrites, .hif, .free] v (Dev.updGroup v st idx op o h c prog r k).1 := by
  unfold Dev.updGroup
  try dsimp only
  repeat' first
    | with_reducible exact Dev.Within.refl _ _
    | with_reducible assumption
    | (with_reducible apply Dev.Within.step (Dev.groupDraw_within _ _ _)); · decide
    | (with_reducible apply Dev.Within.step (Dev.stackWrite_within _ _ _ _ _)); · decide
    | (with_reducible apply Dev.Within.ite)
    | (with_reducible apply Dev.Within.iteFst <;> try dsimp only)
    | (with_reducible apply Dev.Within.iteSnd <;> try dsimp only)
    | with_reducible apply Dev.Within.foldlFst
    | with_reducible apply Dev.Within.foldlSnd
    | with_reducible apply Dev.Within.foldl
    | (intro _; try dsimp only)
    | (with_reducible apply Dev.Within.ofSnd; · with_reducible assumption)
    | (with_reducible apply Dev.Within.ofThird; · with_reducible assumption)
    | (with_reducible apply Dev.Within.ofFst; · with_reducible assumption)
    | (split <;> try dsimp only)
theorem Dev.updTasks_within (v : Dev) (k : Nat) (f : Flight) : Dev.Within [.stackMem, .channels, .stackRegs, .heldWrites, .hif, .free] v (Dev.updTasks v k f) := by
  unfold Dev.updTasks
  try dsimp only
  repeat' first
    | with_reducible exact Dev.Within.refl _ _
    | with_reducible assumption
    | (with_reducible apply Dev.Within.step (Dev.submit_within _ _ _ _)); · decide
    | (with_reducible apply Dev.Within.step (Dev.updGroup_within _ _ _ _ _ _ _ _ _ _)); · decide
    | (with_reducible apply Dev.Within.ite)
    | (with_reducible apply Dev.Within.iteFst <;> try dsimp only)
    | (with_reducible apply Dev.Within.iteSnd <;> try dsimp only)
    | with_reducible apply Dev.Within.foldlFst
    | with_reducible apply Dev.Within.foldlSnd
    | with_reducible apply Dev.Within.foldl
    | (intro _; try dsimp only)
    | (with_reducible apply Dev.Within.ofSnd; · with_reducible assumption)
    | (with_reducible apply Dev.Within.ofThird; · with_reducible assumption)
    | (with_reducible apply Dev.Within.ofFst; · with_reducible assumption)
    | (split <;> try dsimp only)
theorem Dev.releaseOne_within (v : Dev) (k : Nat) (f : Flight) : Dev.Within [.schedules, .streams, .spads, .caches, .contexts, .dmas, .coreRegs, .counters, .syncStatus, .stackMem, .channels, .stackRegs, .hostMem, .heldWrites, .faults, .contextSwitch, .fabric, .hif, .free, .out] v (Dev.releaseOne v k f) := by
  unfold Dev.releaseOne
  try dsimp only
  repeat' first
    | with_reducible exact Dev.Within.refl _ _
    | with_reducible assumption
    | (with_reducible apply Dev.Within.step (Dev.faultStream_within _ _ _ _ _)); · decide
    | (with_reducible apply Dev.Within.step (Dev.modFlight_within _ _ _ _)); · decide
    | (with_reducible apply Dev.Within.step (Dev.pathError_within _ _ _)); · decide
    | (with_reducible apply Dev.Within.step (Dev.setVslot_within _ _ _ _)); · decide
    | (with_reducible apply Dev.Within.step (Dev.softErrs_within _ _ _)); · decide
    | (with_reducible apply Dev.Within.step (Dev.updTasks_within _ _ _)); · decide
    | (with_reducible apply Dev.Within.ite)
    | (with_reducible apply Dev.Within.iteFst <;> try dsimp only)
    | (with_reducible apply Dev.Within.iteSnd <;> try dsimp only)
    | with_reducible apply Dev.Within.forAll
    | (intro _; try dsimp only)
    | (with_reducible apply Dev.Within.ofSnd; · with_reducible assumption)
    | (with_reducible apply Dev.Within.ofThird; · with_reducible assumption)
    | (with_reducible apply Dev.Within.ofFst; · with_reducible assumption)
    | (split <;> try dsimp only)
theorem Dev.releaseHeld_within (v : Dev) : Dev.Within [.schedules, .streams, .spads, .caches, .contexts, .dmas, .coreRegs, .counters, .syncStatus, .stackMem, .channels, .stackRegs, .hostMem, .heldWrites, .faults, .contextSwitch, .fabric, .hif, .free, .out] v (Dev.releaseHeld v) := by
  unfold Dev.releaseHeld
  try dsimp only
  repeat' first
    | with_reducible exact Dev.Within.refl _ _
    | with_reducible assumption
    | (with_reducible apply Dev.Within.step (Dev.releaseOne_within _ _ _)); · decide
    | (with_reducible apply Dev.Within.ite)
    | (with_reducible apply Dev.Within.iteFst <;> try dsimp only)
    | (with_reducible apply Dev.Within.iteSnd <;> try dsimp only)
    | with_reducible apply Dev.Within.forAll
    | (intro _; try dsimp only)
    | (with_reducible apply Dev.Within.ofSnd; · with_reducible assumption)
    | (with_reducible apply Dev.Within.ofThird; · with_reducible assumption)
    | (with_reducible apply Dev.Within.ofFst; · with_reducible assumption)
    | (split <;> try dsimp only)
theorem Dev.updSkip_within (v : Dev) (k : Nat) (idx : Nat) (ws : List W64) : Dev.Within [.schedules, .streams, .spads, .caches, .contexts, .dmas, .coreRegs, .counters, .syncStatus, .stackMem, .channels, .stackRegs, .hostMem, .heldWrites, .faults, .contextSwitch, .fabric, .hif, .out] v (Dev.updSkip v k idx ws) := by
  unfold Dev.updSkip
  try dsimp only
  repeat' first
    | with_reducible exact Dev.Within.refl _ _
    | with_reducible assumption
    | (with_reducible apply Dev.Within.step (Dev.ev_within _ _ _ _ _ _)); · decide
    | (with_reducible apply Dev.Within.step (Dev.nextHead_within _ _)); · decide
    | (with_reducible apply Dev.Within.step (Dev.started_within _ _ _ _)); · decide
    | (with_reducible apply Dev.Within.step (Dev.modStk_within _ _ _)); · decide
    | (with_reducible apply Dev.Within.ite)
    | (with_reducible apply Dev.Within.iteFst <;> try dsimp only)
    | (with_reducible apply Dev.Within.iteSnd <;> try dsimp only)
    | (intro _; try dsimp only)
    | (with_reducible apply Dev.Within.ofSnd; · with_reducible assumption)
    | (with_reducible apply Dev.Within.ofThird; · with_reducible assumption)
    | (with_reducible apply Dev.Within.ofFst; · with_reducible assumption)
    | (split <;> try dsimp only)
theorem Dev.updCode_within (v : Dev) (k : Nat) (h : Hyper) : Dev.Within [.coreRegs, .syncStatus, .stackMem, .channels, .hif] v (Dev.updCode v k h).2 := by
  unfold Dev.updCode
  try dsimp only
  repeat' first
    | with_reducible exact Dev.Within.refl _ _
    | with_reducible assumption
    | (with_reducible apply Dev.Within.step (Dev.rdGlobal_within _ _ _ _ _)); · decide
    | (with_reducible apply Dev.Within.ite)
    | (with_reducible apply Dev.Within.iteFst <;> try dsimp only)
    | (with_reducible apply Dev.Within.iteSnd <;> try dsimp only)
    | (intro _; try dsimp only)
    | (with_reducible apply Dev.Within.ofSnd; · with_reducible assumption)
    | (with_reducible apply Dev.Within.ofThird; · with_reducible assumption)
    | (with_reducible apply Dev.Within.ofFst; · with_reducible assumption)
    | (split <;> try dsimp only)
theorem Dev.updGo_within (v : Dev) (k : Nat) (f : Flight) : Dev.Within [.schedules, .streams, .spads, .caches, .contexts, .dmas, .coreRegs, .counters, .syncStatus, .stackMem, .channels, .stackRegs, .hostMem, .heldWrites, .faults, .contextSwitch, .fabric, .hif, .free, .out] v (Dev.updGo v k f) := by
  unfold Dev.updGo
  try dsimp only
  repeat' first
    | with_reducible exact Dev.Within.refl _ _
    | with_reducible assumption
    | (with_reducible apply Dev.Within.step (Dev.faultStream_within _ _ _ _ _)); · decide
    | (with_reducible apply Dev.Within.step (Dev.nextHead_within _ _)); · decide
    | (with_reducible apply Dev.Within.step (Dev.pathFail_within _ _ _ _ _)); · decide
    | (with_reducible apply Dev.Within.step (Dev.releaseHeld_within _)); · decide
    | (with_reducible apply Dev.Within.step (Dev.setVslot_within _ _ _ _)); · decide
    | (with_reducible apply Dev.Within.step (Dev.softErrs_within _ _ _)); · decide
    | (with_reducible apply Dev.Within.step (Dev.started_within _ _ _ _)); · decide
    | (with_reducible apply Dev.Within.step (Dev.updSkip_within _ _ _ _)); · decide
    | (with_reducible apply Dev.Within.step (Dev.updTasks_within _ _ _)); · decide
    | (with_reducible apply Dev.Within.step (Dev.modStk_within _ _ _)); · decide
    | (with_reducible apply Dev.Within.ite)
    | (with_reducible apply Dev.Within.iteFst <;> try dsimp only)
    | (with_reducible apply Dev.Within.iteSnd <;> try dsimp only)
    | with_reducible apply Dev.Within.forAll
    | (intro _; try dsimp only)
    | (with_reducible apply Dev.Within.ofSnd; · with_reducible assumption)
    | (with_reducible apply Dev.Within.ofThird; · with_reducible assumption)
    | (with_reducible apply Dev.Within.ofFst; · with_reducible assumption)
    | (split <;> try dsimp only)
theorem Dev.updStart_within (v : Dev) (k : Nat) (op : Nat) : Dev.Within [.schedules, .streams, .spads, .caches, .contexts, .dmas, .coreRegs, .counters, .syncStatus, .stackMem, .channels, .stackRegs, .hostMem, .heldWrites, .faults, .contextSwitch, .fabric, .hif, .free, .out] v (Dev.updStart v k op) := by
  unfold Dev.updStart
  try dsimp only
  repeat' first
    | with_reducible exact Dev.Within.refl _ _
    | with_reducible assumption
    | (with_reducible apply Dev.Within.step (Dev.faultStream_within _ _ _ _ _)); · decide
    | (with_reducible apply Dev.Within.step (Dev.nextHead_within _ _)); · decide
    | (with_reducible apply Dev.Within.step (Dev.pathFail_within _ _ _ _ _)); · decide
    | (with_reducible apply Dev.Within.step (Dev.releaseHeld_within _)); · decide
    | (with_reducible apply Dev.Within.step (Dev.startFail_within _ _ _ _ _ _)); · decide
    | (with_reducible apply Dev.Within.step (Dev.started_within _ _ _ _)); · decide
    | (with_reducible apply Dev.Within.step (Dev.updCode_within _ _ _)); · decide
    | (with_reducible apply Dev.Within.step (Dev.updGo_within _ _ _)); · decide
    | (with_reducible apply Dev.Within.step (Dev.modHeld_within _ _ _)); · decide
    | (with_reducible apply Dev.Within.step (Dev.draw_within _)); · decide
    | (with_reducible apply Dev.Within.ite)
    | (with_reducible apply Dev.Within.iteFst <;> try dsimp only)
    | (with_reducible apply Dev.Within.iteSnd <;> try dsimp only)
    | (intro _; try dsimp only)
    | (with_reducible apply Dev.Within.ofSnd; · with_reducible assumption)
    | (with_reducible apply Dev.Within.ofThird; · with_reducible assumption)
    | (with_reducible apply Dev.Within.ofFst; · with_reducible assumption)
    | (split <;> try dsimp only)
theorem Dev.versionWrite_within (v : Dev) (die : Nat) (a : W64) (data : List Byte) (op : Nat) : Dev.Within [.schedules, .streams, .spads, .caches, .contexts, .dmas, .coreRegs, .counters, .syncStatus, .stackMem, .channels, .stackRegs, .hostMem, .heldWrites, .faults, .contextSwitch, .fabric, .hif, .free, .out] v (Dev.versionWrite v die a data op) := by
  unfold Dev.versionWrite
  try dsimp only
  repeat' first
    | with_reducible exact Dev.Within.refl _ _
    | with_reducible assumption
    | (with_reducible apply Dev.Within.step (Dev.releaseHeld_within _)); · decide
    | (with_reducible apply Dev.Within.step (Dev.wrModule_within _ _ _ _ _ _ _)); · decide
    | (with_reducible apply Dev.Within.ite)
    | (with_reducible apply Dev.Within.iteFst <;> try dsimp only)
    | (with_reducible apply Dev.Within.iteSnd <;> try dsimp only)
    | (intro _; try dsimp only)
    | (with_reducible apply Dev.Within.ofSnd; · with_reducible assumption)
    | (with_reducible apply Dev.Within.ofThird; · with_reducible assumption)
    | (with_reducible apply Dev.Within.ofFst; · with_reducible assumption)
    | (split <;> try dsimp only)

end Sys2Proof.Machine
end

