-- ==== Sys2Proof/Laws/Dma.lean ====
section
/-! SUPPORT. What each operation of Machine/Dma may change. -/

namespace Sys2Proof.Machine

theorem Dev.dmaError_within (v : Dev) (c : Nat) (n : Nat) (kind : Nat) (a : W64) : Dev.Within [.schedules, .streams, .spads, .caches, .contexts, .dmas, .coreRegs, .counters, .syncStatus, .stackMem, .channels, .stackRegs, .hostMem, .heldWrites, .faults, .contextSwitch, .fabric, .hif, .out] v (Dev.dmaError v c n kind a) := by
  unfold Dev.dmaError
  try dsimp only
  repeat' first
    | with_reducible exact Dev.Within.refl _ _
    | with_reducible assumption
    | (with_reducible apply Dev.Within.step (Dev.ev_within _ _ _ _ _ _)); · decide
    | (with_reducible apply Dev.Within.step (Dev.faultStream_within _ _ _ _ _)); · decide
    | (with_reducible apply Dev.Within.step (Dev.modFlight_within _ _ _ _)); · decide
    | (with_reducible apply Dev.Within.step (Dev.modDma_within _ _ _)); · decide
    | (with_reducible apply Dev.Within.ite)
    | (with_reducible apply Dev.Within.iteFst <;> try dsimp only)
    | (with_reducible apply Dev.Within.iteSnd <;> try dsimp only)
    | (intro _; try dsimp only)
    | (with_reducible apply Dev.Within.ofSnd; · with_reducible assumption)
    | (with_reducible apply Dev.Within.ofThird; · with_reducible assumption)
    | (with_reducible apply Dev.Within.ofFst; · with_reducible assumption)
    | (split <;> try dsimp only)
theorem Dev.dmaSealGo_within (v : Dev) (c : Nat) (n : Nat) : Dev.Within [.schedules, .streams, .spads, .caches, .contexts, .dmas, .coreRegs, .counters, .syncStatus, .stackMem, .channels, .stackRegs, .hostMem, .heldWrites, .faults, .contextSwitch, .fabric, .hif, .out] v (Dev.dmaSealGo v c n) := by
  unfold Dev.dmaSealGo
  try dsimp only
  repeat' first
    | with_reducible exact Dev.Within.refl _ _
    | with_reducible assumption
    | (with_reducible apply Dev.Within.step (Dev.dmaError_within _ _ _ _ _)); · decide
    | (with_reducible apply Dev.Within.step (Dev.newId_within _ _)); · decide
    | (with_reducible apply Dev.Within.step (Dev.sealRead_within _ _ _)); · decide
    | (with_reducible apply Dev.Within.step (Dev.sendReq_within _ _ _ _ _ _ _ _ _ _ _)); · decide
    | (with_reducible apply Dev.Within.step (Dev.modDmaCh_within _ _ _ _)); · decide
    | (with_reducible apply Dev.Within.ite)
    | (with_reducible apply Dev.Within.iteFst <;> try dsimp only)
    | (with_reducible apply Dev.Within.iteSnd <;> try dsimp only)
    | (intro _; try dsimp only)
    | (with_reducible apply Dev.Within.ofSnd; · with_reducible assumption)
    | (with_reducible apply Dev.Within.ofThird; · with_reducible assumption)
    | (with_reducible apply Dev.Within.ofFst; · with_reducible assumption)
    | (split <;> try dsimp only)
theorem Dev.dmaFinish_within (v : Dev) (c : Nat) (n : Nat) (status : Nat) : Dev.Within [.schedules, .streams, .spads, .caches, .contexts, .dmas, .coreRegs, .counters, .syncStatus, .stackMem, .channels, .stackRegs, .hostMem, .heldWrites, .faults, .contextSwitch, .fabric, .hif, .out] v (Dev.dmaFinish v c n status) := by
  unfold Dev.dmaFinish
  try dsimp only
  repeat' first
    | with_reducible exact Dev.Within.refl _ _
    | with_reducible assumption
    | (with_reducible apply Dev.Within.step (Dev.dmaAdvance_within _ _ _)); · decide
    | (with_reducible apply Dev.Within.step (Dev.dmaEnd_within _ _ _ _)); · decide
    | (with_reducible apply Dev.Within.step (Dev.dmaForget_within _ _ _)); · decide
    | (with_reducible apply Dev.Within.step (Dev.dmaSealGo_within _ _ _)); · decide
    | (with_reducible apply Dev.Within.ite)
    | (with_reducible apply Dev.Within.iteFst <;> try dsimp only)
    | (with_reducible apply Dev.Within.iteSnd <;> try dsimp only)
    | (intro _; try dsimp only)
    | (with_reducible apply Dev.Within.ofSnd; · with_reducible assumption)
    | (with_reducible apply Dev.Within.ofThird; · with_reducible assumption)
    | (with_reducible apply Dev.Within.ofFst; · with_reducible assumption)
    | (split <;> try dsimp only)
theorem Dev.dmaWrite_within (v : Dev) (c : Nat) (n : Nat) (off : Nat) (a : W64) (bs : List Byte) : Dev.Within [.spads, .counters, .syncStatus, .stackMem, .channels, .stackRegs, .hostMem, .heldWrites, .contextSwitch, .fabric, .hif, .out] v (Dev.dmaWrite v c n off a bs).2 := by
  unfold Dev.dmaWrite
  try dsimp only
  repeat' first
    | with_reducible exact Dev.Within.refl _ _
    | with_reducible assumption
    | (with_reducible apply Dev.Within.step (Dev.sendReq_within _ _ _ _ _ _ _ _ _ _ _)); · decide
    | (with_reducible apply Dev.Within.step (Dev.wrHere_within _ _ _ _ _ _)); · decide
    | (with_reducible apply Dev.Within.ite)
    | (with_reducible apply Dev.Within.iteFst <;> try dsimp only)
    | (with_reducible apply Dev.Within.iteSnd <;> try dsimp only)
    | (intro _; try dsimp only)
    | (with_reducible apply Dev.Within.ofSnd; · with_reducible assumption)
    | (with_reducible apply Dev.Within.ofThird; · with_reducible assumption)
    | (with_reducible apply Dev.Within.ofFst; · with_reducible assumption)
    | (split <;> try dsimp only)
theorem Dev.dmaMark_within (v : Dev) (c : Nat) (n : Nat) (o : DmaOps) (w : W64) : Dev.Within [.schedules, .streams, .spads, .caches, .contexts, .dmas, .coreRegs, .counters, .syncStatus, .stackMem, .channels, .stackRegs, .hostMem, .heldWrites, .faults, .contextSwitch, .fabric, .hif, .out] v (Dev.dmaMark v c n o w) := by
  unfold Dev.dmaMark
  try dsimp only
  repeat' first
    | with_reducible exact Dev.Within.refl _ _
    | with_reducible assumption
    | (with_reducible apply Dev.Within.step (Dev.dmaError_within _ _ _ _ _)); · decide
    | (with_reducible apply Dev.Within.step (Dev.dmaWrite_within _ _ _ _ _ _)); · decide
    | (with_reducible apply Dev.Within.step (Dev.modDmaCh_within _ _ _ _)); · decide
    | (with_reducible apply Dev.Within.ite)
    | (with_reducible apply Dev.Within.iteFst <;> try dsimp only)
    | (with_reducible apply Dev.Within.iteSnd <;> try dsimp only)
    | (intro _; try dsimp only)
    | (with_reducible apply Dev.Within.ofSnd; · with_reducible assumption)
    | (with_reducible apply Dev.Within.ofThird; · with_reducible assumption)
    | (with_reducible apply Dev.Within.ofFst; · with_reducible assumption)
    | (split <;> try dsimp only)
theorem Dev.dmaSettle_within (v : Dev) (c : Nat) (n : Nat) : Dev.Within [.schedules, .streams, .spads, .caches, .contexts, .dmas, .coreRegs, .counters, .syncStatus, .stackMem, .channels, .stackRegs, .hostMem, .heldWrites, .faults, .contextSwitch, .fabric, .hif, .out] v (Dev.dmaSettle v c n) := by
  unfold Dev.dmaSettle
  try dsimp only
  repeat' first
    | with_reducible exact Dev.Within.refl _ _
    | with_reducible assumption
    | (with_reducible apply Dev.Within.step (Dev.dmaAdvance_within _ _ _)); · decide
    | (with_reducible apply Dev.Within.step (Dev.dmaFinish_within _ _ _ _)); · decide
    | (with_reducible apply Dev.Within.step (Dev.dmaForget_within _ _ _)); · decide
    | (with_reducible apply Dev.Within.step (Dev.dmaMark_within _ _ _ _ _)); · decide
    | (with_reducible apply Dev.Within.step (Dev.dmaSealGo_within _ _ _)); · decide
    | (with_reducible apply Dev.Within.step (Dev.modFlight_within _ _ _ _)); · decide
    | (with_reducible apply Dev.Within.step (Dev.modDmaCh_within _ _ _ _)); · decide
    | (with_reducible apply Dev.Within.ite)
    | (with_reducible apply Dev.Within.iteFst <;> try dsimp only)
    | (with_reducible apply Dev.Within.iteSnd <;> try dsimp only)
    | (intro _; try dsimp only)
    | (with_reducible apply Dev.Within.ofSnd; · with_reducible assumption)
    | (with_reducible apply Dev.Within.ofThird; · with_reducible assumption)
    | (with_reducible apply Dev.Within.ofFst; · with_reducible assumption)
    | (split <;> try dsimp only)
theorem Dev.dmaResumed_within (v : Dev) (c : Nat) (n : Nat) : Dev.Within [.schedules, .streams, .spads, .caches, .contexts, .dmas, .coreRegs, .counters, .syncStatus, .stackMem, .channels, .stackRegs, .hostMem, .heldWrites, .faults, .contextSwitch, .fabric, .hif, .out] v (Dev.dmaResumed v c n) := by
  unfold Dev.dmaResumed
  try dsimp only
  repeat' first
    | with_reducible exact Dev.Within.refl _ _
    | with_reducible assumption
    | (with_reducible apply Dev.Within.step (Dev.dmaFinish_within _ _ _ _)); · decide
    | (with_reducible apply Dev.Within.step (Dev.dmaForget_within _ _ _)); · decide
    | (with_reducible apply Dev.Within.step (Dev.dmaSealGo_within _ _ _)); · decide
    | (with_reducible apply Dev.Within.step (Dev.dmaSettle_within _ _ _)); · decide
    | (with_reducible apply Dev.Within.step (Dev.modDmaCh_within _ _ _ _)); · decide
    | (with_reducible apply Dev.Within.ite)
    | (with_reducible apply Dev.Within.iteFst <;> try dsimp only)
    | (with_reducible apply Dev.Within.iteSnd <;> try dsimp only)
    | (intro _; try dsimp only)
    | (with_reducible apply Dev.Within.ofSnd; · with_reducible assumption)
    | (with_reducible apply Dev.Within.ofThird; · with_reducible assumption)
    | (with_reducible apply Dev.Within.ofFst; · with_reducible assumption)
    | (split <;> try dsimp only)
theorem Dev.dmaPiece_within (v : Dev) (c : Nat) (n : Nat) {w : Dev} (h : Dev.dmaPiece v c n = some w) : Dev.Within [.schedules, .streams, .spads, .caches, .contexts, .dmas, .coreRegs, .counters, .syncStatus, .stackMem, .channels, .stackRegs, .hostMem, .heldWrites, .faults, .contextSwitch, .fabric, .hif, .out] v w := by
  unfold Dev.dmaPiece at h
  try dsimp only at h
  repeat' first
    | (cases h; done)
    | (obtain rfl := Option.some.inj h; clear h; try dsimp only)
    | (split at h <;> try dsimp only at h)
    | with_reducible exact Dev.Within.refl _ _
    | with_reducible assumption
    | (with_reducible apply Dev.Within.step (Dev.dmaError_within _ _ _ _ _)); · decide
    | (with_reducible apply Dev.Within.step (Dev.dmaWrite_within _ _ _ _ _ _)); · decide
    | (with_reducible apply Dev.Within.step (Dev.modDmaCh_within _ _ _ _)); · decide
    | (with_reducible apply Dev.Within.ite)
    | (with_reducible apply Dev.Within.iteFst <;> try dsimp only)
    | (with_reducible apply Dev.Within.iteSnd <;> try dsimp only)
    | (intro _; try dsimp only)
    | (with_reducible apply Dev.Within.ofSnd; · with_reducible assumption)
    | (with_reducible apply Dev.Within.ofThird; · with_reducible assumption)
    | (with_reducible apply Dev.Within.ofFst; · with_reducible assumption)
    | (split <;> try dsimp only)
theorem Dev.dmaFlush_within (v : Dev) (c : Nat) (n : Nat) (z0 : Nat) : Dev.Within [.schedules, .streams, .spads, .caches, .contexts, .dmas, .coreRegs, .counters, .syncStatus, .stackMem, .channels, .stackRegs, .hostMem, .heldWrites, .faults, .contextSwitch, .fabric, .hif, .out] v (Dev.dmaFlush v c n z0) := by
  induction z0 generalizing v c n with
  | zero => unfold Dev.dmaFlush; exact Dev.Within.refl _ _
  | succ fuel ih =>
    unfold Dev.dmaFlush
    try dsimp only
    repeat' first
      | with_reducible exact Dev.Within.refl _ _
      | with_reducible assumption
      | (with_reducible apply Dev.Within.step (ih _ _ _)); · decide
      | (with_reducible apply Dev.Within.step (Dev.dmaPiece_within _ _ _ ‹_›)); · decide
      | (with_reducible apply Dev.Within.ite)
      | (with_reducible apply Dev.Within.iteFst <;> try dsimp only)
      | (with_reducible apply Dev.Within.iteSnd <;> try dsimp only)
      | (intro _; try dsimp only)
      | (with_reducible apply Dev.Within.ofSnd; · with_reducible assumption)
      | (with_reducible apply Dev.Within.ofThird; · with_reducible assumption)
      | (with_reducible apply Dev.Within.ofFst; · with_reducible assumption)
      | (split <;> try dsimp only)
theorem Dev.dmaPush_within (v : Dev) (c : Nat) (n : Nat) : Dev.Within [.schedules, .streams, .spads, .caches, .contexts, .dmas, .coreRegs, .counters, .syncStatus, .stackMem, .channels, .stackRegs, .hostMem, .heldWrites, .faults, .contextSwitch, .fabric, .hif, .out] v (Dev.dmaPush v c n) := by
  unfold Dev.dmaPush
  try dsimp only
  repeat' first
    | with_reducible exact Dev.Within.refl _ _
    | with_reducible assumption
    | (with_reducible apply Dev.Within.step (Dev.dmaFlush_within _ _ _ _)); · decide
    | (with_reducible apply Dev.Within.step (Dev.dmaResumed_within _ _ _)); · decide
    | (with_reducible apply Dev.Within.ite)
    | (with_reducible apply Dev.Within.iteFst <;> try dsimp only)
    | (with_reducible apply Dev.Within.iteSnd <;> try dsimp only)
    | with_reducible apply Dev.Within.foldlFst
    | with_reducible apply Dev.Within.foldlSnd
    | with_reducible apply Dev.Within.foldl
    | (intro _; try dsimp only)
    | (with_reducible apply Dev.Within.ofSnd; · with_reducible assumption)
    | (with_reducible apply Dev.Within.ofThird; · with_reducible assumption)
    | (with_reducible apply Dev.Within.ofFst; · with_reducible assumption)
    | (split <;> try dsimp only)
theorem Dev.dmaWake_within (v : Dev) (c : Nat) (n : Nat) : Dev.Within [.schedules, .streams, .spads, .caches, .contexts, .dmas, .coreRegs, .counters, .syncStatus, .stackMem, .channels, .stackRegs, .hostMem, .heldWrites, .faults, .contextSwitch, .fabric, .hif, .out] v (Dev.dmaWake v c n) := by
  unfold Dev.dmaWake
  try dsimp only
  repeat' first
    | with_reducible exact Dev.Within.refl _ _
    | with_reducible assumption
    | (with_reducible apply Dev.Within.step (Dev.dmaAdvance_within _ _ _)); · decide
    | (with_reducible apply Dev.Within.step (Dev.dmaPush_within _ _ _)); · decide
    | (with_reducible apply Dev.Within.step (Dev.dmaSealGo_within _ _ _)); · decide
    | (with_reducible apply Dev.Within.ite)
    | (with_reducible apply Dev.Within.iteFst <;> try dsimp only)
    | (with_reducible apply Dev.Within.iteSnd <;> try dsimp only)
    | (intro _; try dsimp only)
    | (with_reducible apply Dev.Within.ofSnd; · with_reducible assumption)
    | (with_reducible apply Dev.Within.ofThird; · with_reducible assumption)
    | (with_reducible apply Dev.Within.ofFst; · with_reducible assumption)
    | (split <;> try dsimp only)
theorem Dev.dmaWakeAll_within (v : Dev) (c : Nat) : Dev.Within [.schedules, .streams, .spads, .caches, .contexts, .dmas, .coreRegs, .counters, .syncStatus, .stackMem, .channels, .stackRegs, .hostMem, .heldWrites, .faults, .contextSwitch, .fabric, .hif, .out] v (Dev.dmaWakeAll v c) := by
  unfold Dev.dmaWakeAll
  try dsimp only
  repeat' first
    | with_reducible exact Dev.Within.refl _ _
    | with_reducible assumption
    | (with_reducible apply Dev.Within.step (Dev.dmaWake_within _ _ _)); · decide
    | (with_reducible apply Dev.Within.ite)
    | (with_reducible apply Dev.Within.iteFst <;> try dsimp only)
    | (with_reducible apply Dev.Within.iteSnd <;> try dsimp only)
    | with_reducible apply Dev.Within.forAll
    | (intro _; try dsimp only)
    | (with_reducible apply Dev.Within.ofSnd; · with_reducible assumption)
    | (with_reducible apply Dev.Within.ofThird; · with_reducible assumption)
    | (with_reducible apply Dev.Within.ofFst; · with_reducible assumption)
    | (split <;> try dsimp only)
theorem Dev.dmaReadAll_within (v : Dev) (c : Nat) (z0 : List (Nat × Nat)) : Dev.Within [.coreRegs, .syncStatus, .stackMem, .channels, .hif] v (Dev.dmaReadAll v c z0).2.2 := by
  induction z0 generalizing v c with
  | nil => unfold Dev.dmaReadAll; exact Dev.Within.refl _ _
  | cons x xs ih =>
    unfold Dev.dmaReadAll
    try dsimp only
    repeat' first
      | with_reducible exact Dev.Within.refl _ _
      | with_reducible assumption
      | (with_reducible apply Dev.Within.step (ih _ _)); · decide
      | (with_reducible apply Dev.Within.step (Dev.rdAt_within _ _ _ _ _)); · decide
      | (with_reducible apply Dev.Within.ite)
      | (with_reducible apply Dev.Within.iteFst <;> try dsimp only)
      | (with_reducible apply Dev.Within.iteSnd <;> try dsimp only)
      | (intro _; try dsimp only)
      | (with_reducible apply Dev.Within.ofSnd; · with_reducible assumption)
      | (with_reducible apply Dev.Within.ofThird; · with_reducible assumption)
      | (with_reducible apply Dev.Within.ofFst; · with_reducible assumption)
      | (split <;> try dsimp only)
theorem Dev.dmaRead_within (v : Dev) (c : Nat) (o : DmaOps) (a : Nat) (n : Nat) : Dev.Within [.coreRegs, .syncStatus, .stackMem, .channels, .hif] v (Dev.dmaRead v c o a n).2.2 := by
  unfold Dev.dmaRead
  try dsimp only
  repeat' first
    | with_reducible exact Dev.Within.refl _ _
    | with_reducible assumption
    | (with_reducible apply Dev.Within.step (Dev.dmaReadAll_within _ _ _)); · decide
    | (with_reducible apply Dev.Within.step (Dev.rdAt_within _ _ _ _ _)); · decide
    | (with_reducible apply Dev.Within.ite)
    | (with_reducible apply Dev.Within.iteFst <;> try dsimp only)
    | (with_reducible apply Dev.Within.iteSnd <;> try dsimp only)
    | (intro _; try dsimp only)
    | (with_reducible apply Dev.Within.ofSnd; · with_reducible assumption)
    | (with_reducible apply Dev.Within.ofThird; · with_reducible assumption)
    | (with_reducible apply Dev.Within.ofFst; · with_reducible assumption)
    | (split <;> try dsimp only)
theorem Dev.dmaAsk_within (v : Dev) (c : Nat) (n : Nat) (t : Nat) (a0 : Nat) (z0 : List (Nat × Nat)) : Dev.Within [.coreRegs, .syncStatus, .stackMem, .channels, .fabric, .hif, .out] v (Dev.dmaAsk v c n t a0 z0).2 := by
  induction z0 generalizing v c n t a0 with
  | nil => unfold Dev.dmaAsk; exact Dev.Within.refl _ _
  | cons x xs ih =>
    unfold Dev.dmaAsk
    try dsimp only
    repeat' first
      | with_reducible exact Dev.Within.refl _ _
      | with_reducible assumption
      | (with_reducible apply Dev.Within.step (ih _ _ _ _ _)); · decide
      | (with_reducible apply Dev.Within.step (Dev.dmaRead_within _ _ _ _ _)); · decide
      | (with_reducible apply Dev.Within.step (Dev.newId_within _ _)); · decide
      | (with_reducible apply Dev.Within.step (Dev.sendReq_within _ _ _ _ _ _ _ _ _ _ _)); · decide
      | (with_reducible apply Dev.Within.ite)
      | (with_reducible apply Dev.Within.iteFst <;> try dsimp only)
      | (with_reducible apply Dev.Within.iteSnd <;> try dsimp only)
      | (intro _; try dsimp only)
      | (with_reducible apply Dev.Within.ofSnd; · with_reducible assumption)
      | (with_reducible apply Dev.Within.ofThird; · with_reducible assumption)
      | (with_reducible apply Dev.Within.ofFst; · with_reducible assumption)
      | (split <;> try dsimp only)
theorem Dev.burstIssue_within (v : Dev) (c : Nat) (n : Nat) : Dev.Within [.schedules, .streams, .spads, .caches, .contexts, .dmas, .coreRegs, .counters, .syncStatus, .stackMem, .channels, .stackRegs, .hostMem, .heldWrites, .faults, .contextSwitch, .fabric, .hif, .out] v (Dev.burstIssue v c n) := by
  unfold Dev.burstIssue
  try dsimp only
  repeat' first
    | with_reducible exact Dev.Within.refl _ _
    | with_reducible assumption
    | (with_reducible apply Dev.Within.step (Dev.dmaAsk_within _ _ _ _ _ _)); · decide
    | (with_reducible apply Dev.Within.step (Dev.dmaError_within _ _ _ _ _)); · decide
    | (with_reducible apply Dev.Within.step (Dev.dmaPush_within _ _ _)); · decide
    | (with_reducible apply Dev.Within.step (Dev.modDmaCh_within _ _ _ _)); · decide
    | (with_reducible apply Dev.Within.step (Dev.modDma_within _ _ _)); · decide
    | (with_reducible apply Dev.Within.ite)
    | (with_reducible apply Dev.Within.iteFst <;> try dsimp only)
    | (with_reducible apply Dev.Within.iteSnd <;> try dsimp only)
    | (intro _; try dsimp only)
    | (with_reducible apply Dev.Within.ofSnd; · with_reducible assumption)
    | (with_reducible apply Dev.Within.ofThird; · with_reducible assumption)
    | (with_reducible apply Dev.Within.ofFst; · with_reducible assumption)
    | (split <;> try dsimp only)
theorem Dev.burstReturn_within (v : Dev) (c : Nat) (n : Nat) (i : Nat) : Dev.Within [.schedules, .streams, .spads, .caches, .contexts, .dmas, .coreRegs, .counters, .syncStatus, .stackMem, .channels, .stackRegs, .hostMem, .heldWrites, .faults, .contextSwitch, .fabric, .hif, .out] v (Dev.burstReturn v c n i) := by
  unfold Dev.burstReturn
  try dsimp only
  repeat' first
    | with_reducible exact Dev.Within.refl _ _
    | with_reducible assumption
    | (with_reducible apply Dev.Within.step (Dev.dmaError_within _ _ _ _ _)); · decide
    | (with_reducible apply Dev.Within.step (Dev.dmaPush_within _ _ _)); · decide
    | (with_reducible apply Dev.Within.step (Dev.dmaRead_within _ _ _ _ _)); · decide
    | (with_reducible apply Dev.Within.step (Dev.modDmaCh_within _ _ _ _)); · decide
    | (with_reducible apply Dev.Within.ite)
    | (with_reducible apply Dev.Within.iteFst <;> try dsimp only)
    | (with_reducible apply Dev.Within.iteSnd <;> try dsimp only)
    | (intro _; try dsimp only)
    | (with_reducible apply Dev.Within.ofSnd; · with_reducible assumption)
    | (with_reducible apply Dev.Within.ofThird; · with_reducible assumption)
    | (with_reducible apply Dev.Within.ofFst; · with_reducible assumption)
    | (split <;> try dsimp only)
theorem Dev.dmaAnswer_within (v : Dev) (c : Nat) (n : Nat) (t : Nat) (piece : Nat) (bs : List Byte) : Dev.Within [.dmas] v (Dev.dmaAnswer v c n t piece bs) := by
  unfold Dev.dmaAnswer
  try dsimp only
  repeat' first
    | with_reducible exact Dev.Within.refl _ _
    | with_reducible assumption
    | (with_reducible apply Dev.Within.step (Dev.modDmaCh_within _ _ _ _)); · decide
    | (with_reducible apply Dev.Within.ite)
    | (with_reducible apply Dev.Within.iteFst <;> try dsimp only)
    | (with_reducible apply Dev.Within.iteSnd <;> try dsimp only)
    | (intro _; try dsimp only)
    | (with_reducible apply Dev.Within.ofSnd; · with_reducible assumption)
    | (with_reducible apply Dev.Within.ofThird; · with_reducible assumption)
    | (with_reducible apply Dev.Within.ofFst; · with_reducible assumption)
    | (split <;> try dsimp only)
theorem Dev.dmaAnswerBad_within (v : Dev) (c : Nat) (n : Nat) (t : Nat) (a : W64) : Dev.Within [.schedules, .streams, .spads, .caches, .contexts, .dmas, .coreRegs, .counters, .syncStatus, .stackMem, .channels, .stackRegs, .hostMem, .heldWrites, .faults, .contextSwitch, .fabric, .hif, .out] v (Dev.dmaAnswerBad v c n t a) := by
  unfold Dev.dmaAnswerBad
  try dsimp only
  repeat' first
    | with_reducible exact Dev.Within.refl _ _
    | with_reducible assumption
    | (with_reducible apply Dev.Within.step (Dev.dmaError_within _ _ _ _ _)); · decide
    | (with_reducible apply Dev.Within.step (Dev.dmaPush_within _ _ _)); · decide
    | (with_reducible apply Dev.Within.step (Dev.modDmaCh_within _ _ _ _)); · decide
    | (with_reducible apply Dev.Within.ite)
    | (with_reducible apply Dev.Within.iteFst <;> try dsimp only)
    | (with_reducible apply Dev.Within.iteSnd <;> try dsimp only)
    | (intro _; try dsimp only)
    | (with_reducible apply Dev.Within.ofSnd; · with_reducible assumption)
    | (with_reducible apply Dev.Within.ofThird; · with_reducible assumption)
    | (with_reducible apply Dev.Within.ofFst; · with_reducible assumption)
    | (split <;> try dsimp only)
theorem Dev.dmaLanded_within (v : Dev) (c : Nat) (n : Nat) (off : Nat) (len : Nat) : Dev.Within [.schedules, .streams, .spads, .caches, .contexts, .dmas, .coreRegs, .counters, .syncStatus, .stackMem, .channels, .stackRegs, .hostMem, .heldWrites, .faults, .contextSwitch, .fabric, .hif, .out] v (Dev.dmaLanded v c n off len) := by
  unfold Dev.dmaLanded
  try dsimp only
  repeat' first
    | with_reducible exact Dev.Within.refl _ _
    | with_reducible assumption
    | (with_reducible apply Dev.Within.step (Dev.dmaPush_within _ _ _)); · decide
    | (with_reducible apply Dev.Within.step (Dev.modDmaCh_within _ _ _ _)); · decide
    | (with_reducible apply Dev.Within.ite)
    | (with_reducible apply Dev.Within.iteFst <;> try dsimp only)
    | (with_reducible apply Dev.Within.iteSnd <;> try dsimp only)
    | (intro _; try dsimp only)
    | (with_reducible apply Dev.Within.ofSnd; · with_reducible assumption)
    | (with_reducible apply Dev.Within.ofThird; · with_reducible assumption)
    | (with_reducible apply Dev.Within.ofFst; · with_reducible assumption)
    | (split <;> try dsimp only)
theorem Dev.dmaWriteBad_within (v : Dev) (c : Nat) (n : Nat) (off : Nat) (len : Nat) (a : W64) : Dev.Within [.schedules, .streams, .spads, .caches, .contexts, .dmas, .coreRegs, .counters, .syncStatus, .stackMem, .channels, .stackRegs, .hostMem, .heldWrites, .faults, .contextSwitch, .fabric, .hif, .out] v (Dev.dmaWriteBad v c n off len a) := by
  unfold Dev.dmaWriteBad
  try dsimp only
  repeat' first
    | with_reducible exact Dev.Within.refl _ _
    | with_reducible assumption
    | (with_reducible apply Dev.Within.step (Dev.dmaError_within _ _ _ _ _)); · decide
    | (with_reducible apply Dev.Within.step (Dev.dmaPush_within _ _ _)); · decide
    | (with_reducible apply Dev.Within.step (Dev.modDmaCh_within _ _ _ _)); · decide
    | (with_reducible apply Dev.Within.ite)
    | (with_reducible apply Dev.Within.iteFst <;> try dsimp only)
    | (with_reducible apply Dev.Within.iteSnd <;> try dsimp only)
    | (intro _; try dsimp only)
    | (with_reducible apply Dev.Within.ofSnd; · with_reducible assumption)
    | (with_reducible apply Dev.Within.ofThird; · with_reducible assumption)
    | (with_reducible apply Dev.Within.ofFst; · with_reducible assumption)
    | (split <;> try dsimp only)
theorem Dev.sealRead_within (v : Dev) (c : Nat) (n : Nat) : Dev.Within [.coreRegs, .syncStatus, .stackMem, .channels, .hif] v (Dev.sealRead v c n).2 := by
  unfold Dev.sealRead
  try dsimp only
  repeat' first
    | with_reducible exact Dev.Within.refl _ _
    | with_reducible assumption
    | (with_reducible apply Dev.Within.step (Dev.rdAt_within _ _ _ _ _)); · decide
    | (with_reducible apply Dev.Within.ite)
    | (with_reducible apply Dev.Within.iteFst <;> try dsimp only)
    | (with_reducible apply Dev.Within.iteSnd <;> try dsimp only)
    | (intro _; try dsimp only)
    | (with_reducible apply Dev.Within.ofSnd; · with_reducible assumption)
    | (with_reducible apply Dev.Within.ofThird; · with_reducible assumption)
    | (with_reducible apply Dev.Within.ofFst; · with_reducible assumption)
    | (split <;> try dsimp only)
theorem Dev.sealS0_within (v : Dev) (c : Nat) (n : Nat) : Dev.Within [.schedules, .streams, .spads, .caches, .contexts, .dmas, .coreRegs, .counters, .syncStatus, .stackMem, .channels, .stackRegs, .hostMem, .heldWrites, .faults, .contextSwitch, .fabric, .hif, .out] v (Dev.sealS0 v c n) := by
  unfold Dev.sealS0
  try dsimp only
  repeat' first
    | with_reducible exact Dev.Within.refl _ _
    | with_reducible assumption
    | (with_reducible apply Dev.Within.step (Dev.dmaError_within _ _ _ _ _)); · decide
    | (with_reducible apply Dev.Within.step (Dev.dmaSealGo_within _ _ _)); · decide
    | (with_reducible apply Dev.Within.step (Dev.sealRead_within _ _ _)); · decide
    | (with_reducible apply Dev.Within.step (Dev.modDmaCh_within _ _ _ _)); · decide
    | (with_reducible apply Dev.Within.ite)
    | (with_reducible apply Dev.Within.iteFst <;> try dsimp only)
    | (with_reducible apply Dev.Within.iteSnd <;> try dsimp only)
    | (intro _; try dsimp only)
    | (with_reducible apply Dev.Within.ofSnd; · with_reducible assumption)
    | (with_reducible apply Dev.Within.ofThird; · with_reducible assumption)
    | (with_reducible apply Dev.Within.ofFst; · with_reducible assumption)
    | (split <;> try dsimp only)
theorem Dev.sourceChanged_within (v : Dev) (c : Nat) (n : Nat) : Dev.Within [.hostMem, .hif] v (Dev.sourceChanged v c n) := by
  unfold Dev.sourceChanged
  try dsimp only
  repeat' first
    | with_reducible exact Dev.Within.refl _ _
    | with_reducible assumption
    | (with_reducible apply Dev.Within.step (Dev.ev_within _ _ _ _ _ _)); · decide
    | (with_reducible apply Dev.order_within; · decide)
    | (with_reducible apply Dev.Within.ite)
    | (with_reducible apply Dev.Within.iteFst <;> try dsimp only)
    | (with_reducible apply Dev.Within.iteSnd <;> try dsimp only)
    | (intro _; try dsimp only)
    | (with_reducible apply Dev.Within.ofSnd; · with_reducible assumption)
    | (with_reducible apply Dev.Within.ofThird; · with_reducible assumption)
    | (with_reducible apply Dev.Within.ofFst; · with_reducible assumption)
    | (split <;> try dsimp only)
theorem Dev.sealS1_within (v : Dev) (c : Nat) (n : Nat) : Dev.Within [.schedules, .streams, .spads, .caches, .contexts, .dmas, .coreRegs, .counters, .syncStatus, .stackMem, .channels, .stackRegs, .hostMem, .heldWrites, .faults, .contextSwitch, .fabric, .hif, .out] v (Dev.sealS1 v c n) := by
  unfold Dev.sealS1
  try dsimp only
  repeat' first
    | with_reducible exact Dev.Within.refl _ _
    | with_reducible assumption
    | (with_reducible apply Dev.Within.step (Dev.dmaError_within _ _ _ _ _)); · decide
    | (with_reducible apply Dev.Within.step (Dev.dmaSealGo_within _ _ _)); · decide
    | (with_reducible apply Dev.Within.step (Dev.dmaSettle_within _ _ _)); · decide
    | (with_reducible apply Dev.Within.step (Dev.modFlight_within _ _ _ _)); · decide
    | (with_reducible apply Dev.Within.step (Dev.sealRead_within _ _ _)); · decide
    | (with_reducible apply Dev.Within.step (Dev.sourceChanged_within _ _ _)); · decide
    | (with_reducible apply Dev.Within.step (Dev.modDmaCh_within _ _ _ _)); · decide
    | (with_reducible apply Dev.Within.ite)
    | (with_reducible apply Dev.Within.iteFst <;> try dsimp only)
    | (with_reducible apply Dev.Within.iteSnd <;> try dsimp only)
    | (intro _; try dsimp only)
    | (with_reducible apply Dev.Within.ofSnd; · with_reducible assumption)
    | (with_reducible apply Dev.Within.ofThird; · with_reducible assumption)
    | (with_reducible apply Dev.Within.ofFst; · with_reducible assumption)
    | (split <;> try dsimp only)
theorem Dev.dmaJoin_within (v : Dev) (c : Nat) (n : Nat) (d : DmaDesc) : Dev.Within [.schedules, .streams, .spads, .caches, .contexts, .dmas, .coreRegs, .counters, .syncStatus, .stackMem, .channels, .stackRegs, .hostMem, .heldWrites, .faults, .contextSwitch, .fabric, .hif, .out] v (Dev.dmaJoin v c n d) := by
  unfold Dev.dmaJoin
  try dsimp only
  repeat' first
    | with_reducible exact Dev.Within.refl _ _
    | with_reducible assumption
    | (with_reducible apply Dev.Within.step (Dev.dmaAdvance_within _ _ _)); · decide
    | (with_reducible apply Dev.Within.step (Dev.dmaSealGo_within _ _ _)); · decide
    | (with_reducible apply Dev.Within.step (Dev.modDmaCh_within _ _ _ _)); · decide
    | (with_reducible apply Dev.Within.ite)
    | (with_reducible apply Dev.Within.iteFst <;> try dsimp only)
    | (with_reducible apply Dev.Within.iteSnd <;> try dsimp only)
    | (intro _; try dsimp only)
    | (with_reducible apply Dev.Within.ofSnd; · with_reducible assumption)
    | (with_reducible apply Dev.Within.ofThird; · with_reducible assumption)
    | (with_reducible apply Dev.Within.ofFst; · with_reducible assumption)
    | (split <;> try dsimp only)
theorem Dev.dmaStart_within (v : Dev) (c : Nat) : Dev.Within [.schedules, .streams, .spads, .caches, .contexts, .dmas, .coreRegs, .counters, .syncStatus, .stackMem, .channels, .stackRegs, .hostMem, .heldWrites, .faults, .contextSwitch, .fabric, .hif, .out] v (Dev.dmaStart v c) := by
  unfold Dev.dmaStart
  try dsimp only
  repeat' first
    | with_reducible exact Dev.Within.refl _ _
    | with_reducible assumption
    | (with_reducible apply Dev.Within.step (Dev.dmaJoin_within _ _ _ _)); · decide
    | (with_reducible apply Dev.Within.step (Dev.nextHead_within _ _)); · decide
    | (with_reducible apply Dev.Within.step (Dev.started_within _ _ _ _)); · decide
    | (with_reducible apply Dev.Within.ite)
    | (with_reducible apply Dev.Within.iteFst <;> try dsimp only)
    | (with_reducible apply Dev.Within.iteSnd <;> try dsimp only)
    | (intro _; try dsimp only)
    | (with_reducible apply Dev.Within.ofSnd; · with_reducible assumption)
    | (with_reducible apply Dev.Within.ofThird; · with_reducible assumption)
    | (with_reducible apply Dev.Within.ofFst; · with_reducible assumption)
    | (split <;> try dsimp only)
theorem Dev.dmaCtlWrite_within (v : Dev) (c : Nat) (x : W32) : Dev.Within [.schedules, .streams, .spads, .caches, .contexts, .dmas, .coreRegs, .counters, .syncStatus, .stackMem, .channels, .stackRegs, .hostMem, .heldWrites, .faults, .contextSwitch, .fabric, .hif, .out] v (Dev.dmaCtlWrite v c x) := by
  unfold Dev.dmaCtlWrite
  try dsimp only
  repeat' first
    | with_reducible exact Dev.Within.refl _ _
    | with_reducible assumption
    | (with_reducible apply Dev.Within.step (Dev.dmaWakeAll_within _ _)); · decide
    | (with_reducible apply Dev.Within.step (Dev.modDma_within _ _ _)); · decide
    | (with_reducible apply Dev.Within.ite)
    | (with_reducible apply Dev.Within.iteFst <;> try dsimp only)
    | (with_reducible apply Dev.Within.iteSnd <;> try dsimp only)
    | (intro _; try dsimp only)
    | (with_reducible apply Dev.Within.ofSnd; · with_reducible assumption)
    | (with_reducible apply Dev.Within.ofThird; · with_reducible assumption)
    | (with_reducible apply Dev.Within.ofFst; · with_reducible assumption)
    | (split <;> try dsimp only)
theorem Dev.dmaChanWrite_within (v : Dev) (c : Nat) (n : Nat) (x : W32) : Dev.Within [.schedules, .streams, .spads, .caches, .contexts, .dmas, .coreRegs, .counters, .syncStatus, .stackMem, .channels, .stackRegs, .hostMem, .heldWrites, .faults, .contextSwitch, .fabric, .hif, .out] v (Dev.dmaChanWrite v c n x) := by
  unfold Dev.dmaChanWrite
  try dsimp only
  repeat' first
    | with_reducible exact Dev.Within.refl _ _
    | with_reducible assumption
    | (with_reducible apply Dev.Within.step (Dev.dmaResumed_within _ _ _)); · decide
    | (with_reducible apply Dev.Within.step (Dev.modDmaCh_within _ _ _ _)); · decide
    | (with_reducible apply Dev.Within.ite)
    | (with_reducible apply Dev.Within.iteFst <;> try dsimp only)
    | (with_reducible apply Dev.Within.iteSnd <;> try dsimp only)
    | (intro _; try dsimp only)
    | (with_reducible apply Dev.Within.ofSnd; · with_reducible assumption)
    | (with_reducible apply Dev.Within.ofThird; · with_reducible assumption)
    | (with_reducible apply Dev.Within.ofFst; · with_reducible assumption)
    | (split <;> try dsimp only)

end Sys2Proof.Machine
end

