-- ==== Sys2Proof/Laws/SyncCmd.lean ====
section
/-! SUPPORT. What each operation of Machine/SyncCmd may change. -/

namespace Sys2Proof.Machine

theorem Dev.landed_within (v : Dev) (id : Nat) : Dev.Within [.counters] v (Dev.landed v id) := by
  unfold Dev.landed
  try dsimp only
  repeat' first
    | with_reducible exact Dev.Within.refl _ _
    | with_reducible assumption
    | (with_reducible apply Dev.Within.step (Dev.modCtr_within _ _ _)); · decide
    | (with_reducible apply Dev.Within.ite)
    | (with_reducible apply Dev.Within.iteFst <;> try dsimp only)
    | (with_reducible apply Dev.Within.iteSnd <;> try dsimp only)
    | with_reducible apply Dev.Within.forAll
    | (intro _; try dsimp only)
    | (with_reducible apply Dev.Within.ofSnd; · with_reducible assumption)
    | (with_reducible apply Dev.Within.ofThird; · with_reducible assumption)
    | (with_reducible apply Dev.Within.ofFst; · with_reducible assumption)
    | (split <;> try dsimp only)
theorem Dev.counterSignal_within (v : Dev) (id : Nat) (more : Bool) : Dev.Within [.streams, .contexts, .counters, .syncStatus, .hif] v (Dev.counterSignal v id more) := by
  unfold Dev.counterSignal
  try dsimp only
  repeat' first
    | with_reducible exact Dev.Within.refl _ _
    | with_reducible assumption
    | (with_reducible apply Dev.Within.step (Dev.applySignal_within _ _)); · decide
    | (with_reducible apply Dev.Within.step (Dev.grantPass_within _)); · decide
    | (with_reducible apply Dev.Within.step (Dev.landed_within _ _)); · decide
    | (with_reducible apply Dev.Within.step (Dev.modCtr_within _ _ _)); · decide
    | (with_reducible apply Dev.Within.ite)
    | (with_reducible apply Dev.Within.iteFst <;> try dsimp only)
    | (with_reducible apply Dev.Within.iteSnd <;> try dsimp only)
    | (intro _; try dsimp only)
    | (with_reducible apply Dev.Within.ofSnd; · with_reducible assumption)
    | (with_reducible apply Dev.Within.ofThird; · with_reducible assumption)
    | (with_reducible apply Dev.Within.ofFst; · with_reducible assumption)
    | (split <;> try dsimp only)
theorem Dev.synCtrWrite_within (v : Dev) (die : Nat) (i : Nat) (w : W64) (more : Bool) : Dev.Within [.streams, .contexts, .counters, .syncStatus, .hif] v (Dev.synCtrWrite v die i w more) := by
  unfold Dev.synCtrWrite
  try dsimp only
  repeat' first
    | with_reducible exact Dev.Within.refl _ _
    | with_reducible assumption
    | (with_reducible apply Dev.Within.step (Dev.grantPass_within _)); · decide
    | (with_reducible apply Dev.Within.step (Dev.setMisuse_within _ _)); · decide
    | (with_reducible apply Dev.Within.step (Dev.modCtr_within _ _ _)); · decide
    | (with_reducible apply Dev.Within.ite)
    | (with_reducible apply Dev.Within.iteFst <;> try dsimp only)
    | (with_reducible apply Dev.Within.iteSnd <;> try dsimp only)
    | (intro _; try dsimp only)
    | (with_reducible apply Dev.Within.ofSnd; · with_reducible assumption)
    | (with_reducible apply Dev.Within.ofThird; · with_reducible assumption)
    | (with_reducible apply Dev.Within.ofFst; · with_reducible assumption)
    | (split <;> try dsimp only)
theorem Dev.windowAccess_within (v : Dev) (die : Nat) (off : Nat) (len : Nat) (write : Bool) : Dev.Within [.counters, .syncStatus, .hif] v (Dev.windowAccess v die off len write) := by
  unfold Dev.windowAccess
  try dsimp only
  repeat' first
    | with_reducible exact Dev.Within.refl _ _
    | with_reducible assumption
    | (with_reducible apply Dev.Within.step (Dev.sendSignal_within _ _)); · decide
    | (with_reducible apply Dev.Within.step (Dev.syncBad_within _ _ _)); · decide
    | (with_reducible apply Dev.Within.ite)
    | (with_reducible apply Dev.Within.iteFst <;> try dsimp only)
    | (with_reducible apply Dev.Within.iteSnd <;> try dsimp only)
    | (intro _; try dsimp only)
    | (with_reducible apply Dev.Within.ofSnd; · with_reducible assumption)
    | (with_reducible apply Dev.Within.ofThird; · with_reducible assumption)
    | (with_reducible apply Dev.Within.ofFst; · with_reducible assumption)
    | (split <;> try dsimp only)
theorem Dev.wakeBar_within (v : Dev) (u : Nat) : Dev.Within [.contexts] v (Dev.wakeBar v u) := by
  unfold Dev.wakeBar
  try dsimp only
  repeat' first
    | with_reducible exact Dev.Within.refl _ _
    | with_reducible assumption
    | (with_reducible apply Dev.Within.step (Dev.modCtx_within _ _ _ _)); · decide
    | (with_reducible apply Dev.Within.ite)
    | (with_reducible apply Dev.Within.iteFst <;> try dsimp only)
    | (with_reducible apply Dev.Within.iteSnd <;> try dsimp only)
    | with_reducible apply Dev.Within.forAll
    | (intro _; try dsimp only)
    | (with_reducible apply Dev.Within.ofSnd; · with_reducible assumption)
    | (with_reducible apply Dev.Within.ofThird; · with_reducible assumption)
    | (with_reducible apply Dev.Within.ofFst; · with_reducible assumption)
    | (split <;> try dsimp only)
theorem Dev.barComplete_within (v : Dev) (u : Nat) : Dev.Within [.contexts, .counters, .barriers, .syncStatus] v (Dev.barComplete v u) := by
  unfold Dev.barComplete
  try dsimp only
  repeat' first
    | with_reducible exact Dev.Within.refl _ _
    | with_reducible assumption
    | (with_reducible apply Dev.Within.step (Dev.sendSignal_within _ _)); · decide
    | (with_reducible apply Dev.Within.step (Dev.wakeBar_within _ _)); · decide
    | (with_reducible apply Dev.Within.step (Dev.modBar_within _ _ _)); · decide
    | (with_reducible apply Dev.Within.step (Dev.modSynSt_within _ _ _)); · decide
    | (with_reducible apply Dev.Within.ite)
    | (with_reducible apply Dev.Within.iteFst <;> try dsimp only)
    | (with_reducible apply Dev.Within.iteSnd <;> try dsimp only)
    | (intro _; try dsimp only)
    | (with_reducible apply Dev.Within.ofSnd; · with_reducible assumption)
    | (with_reducible apply Dev.Within.ofThird; · with_reducible assumption)
    | (with_reducible apply Dev.Within.ofFst; · with_reducible assumption)
    | (split <;> try dsimp only)
theorem Dev.barArrive_within (v : Dev) (u : Nat) (c : Nat) : Dev.Within [.contexts, .counters, .barriers, .syncStatus] v (Dev.barArrive v u c) := by
  unfold Dev.barArrive
  try dsimp only
  repeat' first
    | with_reducible exact Dev.Within.refl _ _
    | with_reducible assumption
    | (with_reducible apply Dev.Within.step (Dev.barComplete_within _ _)); · decide
    | (with_reducible apply Dev.Within.step (Dev.modBar_within _ _ _)); · decide
    | (with_reducible apply Dev.Within.ite)
    | (with_reducible apply Dev.Within.iteFst <;> try dsimp only)
    | (with_reducible apply Dev.Within.iteSnd <;> try dsimp only)
    | (intro _; try dsimp only)
    | (with_reducible apply Dev.Within.ofSnd; · with_reducible assumption)
    | (with_reducible apply Dev.Within.ofThird; · with_reducible assumption)
    | (with_reducible apply Dev.Within.ofFst; · with_reducible assumption)
    | (split <;> try dsimp only)
theorem Dev.barRetire_within (v : Dev) (c : Nat) : Dev.Within [.contexts, .counters, .barriers, .syncStatus] v (Dev.barRetire v c) := by
  unfold Dev.barRetire
  try dsimp only
  repeat' first
    | with_reducible exact Dev.Within.refl _ _
    | with_reducible assumption
    | (with_reducible apply Dev.Within.step (Dev.barComplete_within _ _)); · decide
    | (with_reducible apply Dev.Within.step (Dev.modBar_within _ _ _)); · decide
    | (with_reducible apply Dev.Within.ite)
    | (with_reducible apply Dev.Within.iteFst <;> try dsimp only)
    | (with_reducible apply Dev.Within.iteSnd <;> try dsimp only)
    | with_reducible apply Dev.Within.forAll
    | (intro _; try dsimp only)
    | (with_reducible apply Dev.Within.ofSnd; · with_reducible assumption)
    | (with_reducible apply Dev.Within.ofThird; · with_reducible assumption)
    | (with_reducible apply Dev.Within.ofFst; · with_reducible assumption)
    | (split <;> try dsimp only)

end Sys2Proof.Machine
end

