-- ==== Sys2Proof/Laws/Scalar.lean ====
section
/-! SUPPORT. What each operation of Machine/Scalar may change. -/

namespace Sys2Proof.Machine

theorem Dev.sclFault_within (v : Dev) (c : Nat) (x : Nat) (cause : Nat) (at? : W64) : Dev.Within [.contexts, .hif] v (Dev.sclFault v c x cause at?) := by
  unfold Dev.sclFault
  try dsimp only
  repeat' first
    | with_reducible exact Dev.Within.refl _ _
    | with_reducible assumption
    | (with_reducible apply Dev.Within.step (Dev.ev_within _ _ _ _ _ _)); · decide
    | (with_reducible apply Dev.Within.step (Dev.modCtx_within _ _ _ _)); · decide
    | (with_reducible apply Dev.Within.ite)
    | (with_reducible apply Dev.Within.iteFst <;> try dsimp only)
    | (with_reducible apply Dev.Within.iteSnd <;> try dsimp only)
    | (intro _; try dsimp only)
    | (with_reducible apply Dev.Within.ofSnd; · with_reducible assumption)
    | (with_reducible apply Dev.Within.ofThird; · with_reducible assumption)
    | (with_reducible apply Dev.Within.ofFst; · with_reducible assumption)
    | (split <;> try dsimp only)
theorem Dev.sclGo_within (v : Dev) (c : Nat) (x : Nat) (p : W64) : Dev.Within [.contexts] v (Dev.sclGo v c x p) := by
  unfold Dev.sclGo
  try dsimp only
  repeat' first
    | with_reducible exact Dev.Within.refl _ _
    | with_reducible assumption
    | (with_reducible apply Dev.Within.step (Dev.modCtx_within _ _ _ _)); · decide
    | (with_reducible apply Dev.Within.ite)
    | (with_reducible apply Dev.Within.iteFst <;> try dsimp only)
    | (with_reducible apply Dev.Within.iteSnd <;> try dsimp only)
    | (intro _; try dsimp only)
    | (with_reducible apply Dev.Within.ofSnd; · with_reducible assumption)
    | (with_reducible apply Dev.Within.ofThird; · with_reducible assumption)
    | (with_reducible apply Dev.Within.ofFst; · with_reducible assumption)
    | (split <;> try dsimp only)
theorem Dev.sclFetch_within (v : Dev) (c : Nat) (a : Nat) (n : Nat) : Dev.Within [.caches, .coreRegs, .syncStatus, .stackMem, .channels, .hif, .free] v (Dev.sclFetch v c a n).2 := by
  unfold Dev.sclFetch
  try dsimp only
  repeat' first
    | with_reducible exact Dev.Within.refl _ _
    | with_reducible assumption
    | (with_reducible apply Dev.Within.step (Dev.l2Read_within _ _ _ _ _ _ _)); · decide
    | (with_reducible apply Dev.Within.step (Dev.rdModule_within _ _ _ _ _)); · decide
    | (with_reducible apply Dev.Within.ite)
    | (with_reducible apply Dev.Within.iteFst <;> try dsimp only)
    | (with_reducible apply Dev.Within.iteSnd <;> try dsimp only)
    | (intro _; try dsimp only)
    | (with_reducible apply Dev.Within.ofSnd; · with_reducible assumption)
    | (with_reducible apply Dev.Within.ofThird; · with_reducible assumption)
    | (with_reducible apply Dev.Within.ofFst; · with_reducible assumption)
    | (split <;> try dsimp only)
theorem Dev.sclRun_within {F : List Part} {u₀ : Dev} {v : Dev} {c : Nat} {x : Nat} {n : Nat} {f : Dev → W64 → Dev}  (hb : ([.caches, .contexts, .coreRegs, .syncStatus, .stackMem, .channels, .hif, .free].all fun p => F.contains p) = true) (h_f : ∀ (w : Dev) (q0 : W64), Dev.Within F w (f w q0)) (h : Dev.Within F u₀ v) : Dev.Within F u₀ (Dev.sclRun v c x n f) := by
  unfold Dev.sclRun
  try dsimp only
  repeat' first
    | with_reducible exact Dev.Within.refl _ _
    | with_reducible assumption
    | (with_reducible apply Dev.Within.after (h_f _ _))
    | (with_reducible apply Dev.Within.step (Dev.sclFault_within _ _ _ _ _)); · first | decide | exact Dev.Within.sub (by decide) hb
    | (with_reducible apply Dev.Within.step (Dev.sclFetch_within _ _ _ _)); · first | decide | exact Dev.Within.sub (by decide) hb
    | (with_reducible apply Dev.Within.ite)
    | (with_reducible apply Dev.Within.iteFst <;> try dsimp only)
    | (with_reducible apply Dev.Within.iteSnd <;> try dsimp only)
    | (intro _; try dsimp only)
    | (with_reducible apply Dev.Within.ofSnd; · with_reducible assumption)
    | (with_reducible apply Dev.Within.ofThird; · with_reducible assumption)
    | (with_reducible apply Dev.Within.ofFst; · with_reducible assumption)
    | (split <;> try dsimp only)
theorem Dev.sclLaunch_within (v : Dev) (c : Nat) (x : Nat) : Dev.Within [.caches, .contexts] v (Dev.sclLaunch v c x) := by
  unfold Dev.sclLaunch
  try dsimp only
  repeat' first
    | with_reducible exact Dev.Within.refl _ _
    | with_reducible assumption
    | (with_reducible apply Dev.Within.step (Dev.modCtx_within _ _ _ _)); · decide
    | with_reducible apply Dev.Within.core
    | (with_reducible apply Dev.Within.ite)
    | (with_reducible apply Dev.Within.iteFst <;> try dsimp only)
    | (with_reducible apply Dev.Within.iteSnd <;> try dsimp only)
    | (intro _; try dsimp only)
    | with_reducible exact Core.Within.refl _ _
    | (with_reducible unfold Core.invalLines; try dsimp only)
    | exact ⟨fun p hp => by cases p <;> first | exact absurd (by decide) hp | simp [Core.same, Core.invalLines], fun h => by (try simp only [Core.invalLines]); first | exact h | exact mwrite_wf _ _ h | exact mclear_wf _ _ h | exact filter_wfFrom _ _ h | rfl⟩
    | (with_reducible apply Dev.Within.ofSnd; · with_reducible assumption)
    | (with_reducible apply Dev.Within.ofThird; · with_reducible assumption)
    | (with_reducible apply Dev.Within.ofFst; · with_reducible assumption)
    | (split <;> try dsimp only)
theorem Dev.sclCtlWrite_within (v : Dev) (c : Nat) (x : W32) : Dev.Within [.caches, .contexts] v (Dev.sclCtlWrite v c x) := by
  unfold Dev.sclCtlWrite
  try dsimp only
  repeat' first
    | with_reducible exact Dev.Within.refl _ _
    | with_reducible assumption
    | (with_reducible apply Dev.Within.step (Dev.sclLaunch_within _ _ _)); · decide
    | (with_reducible apply Dev.Within.step (Dev.modCtx_within _ _ _ _)); · decide
    | (with_reducible apply Dev.Within.ite)
    | (with_reducible apply Dev.Within.iteFst <;> try dsimp only)
    | (with_reducible apply Dev.Within.iteSnd <;> try dsimp only)
    | with_reducible apply Dev.Within.forAll
    | (intro _; try dsimp only)
    | (with_reducible apply Dev.Within.ofSnd; · with_reducible assumption)
    | (with_reducible apply Dev.Within.ofThird; · with_reducible assumption)
    | (with_reducible apply Dev.Within.ofFst; · with_reducible assumption)
    | (split <;> try dsimp only)
theorem Dev.l1Look_within (v : Dev) (c : Nat) (a : Nat) (n : Nat) (reads : Bool) : Dev.Within [.caches, .coreRegs, .hif] v (Dev.l1Look v c a n reads).2 := by
  unfold Dev.l1Look
  try dsimp only
  repeat' first
    | with_reducible exact Dev.Within.refl _ _
    | with_reducible assumption
    | (with_reducible apply Dev.Within.step (Dev.l1Drop_within _ _ _)); · decide
    | with_reducible apply Dev.Within.core
    | (with_reducible apply Dev.Within.ite)
    | (with_reducible apply Dev.Within.iteFst <;> try dsimp only)
    | (with_reducible apply Dev.Within.iteSnd <;> try dsimp only)
    | (intro _; try dsimp only)
    | with_reducible exact Core.Within.refl _ _
    | (with_reducible unfold Core.corrected; try dsimp only)
    | exact ⟨fun p hp => by cases p <;> first | exact absurd (by decide) hp | simp [Core.same, Core.corrected], fun h => by (try simp only [Core.corrected]); first | exact h | exact mwrite_wf _ _ h | exact mclear_wf _ _ h | exact filter_wfFrom _ _ h | rfl⟩
    | (with_reducible apply Dev.Within.ofSnd; · with_reducible assumption)
    | (with_reducible apply Dev.Within.ofThird; · with_reducible assumption)
    | (with_reducible apply Dev.Within.ofFst; · with_reducible assumption)
    | (split <;> try dsimp only)
theorem Dev.clearRes_within (v : Dev) (c : Nat) (x : Nat) (line : Nat) : Dev.Within [.contexts] v (Dev.clearRes v c x line) := by
  unfold Dev.clearRes
  try dsimp only
  repeat' first
    | with_reducible exact Dev.Within.refl _ _
    | with_reducible assumption
    | with_reducible apply Dev.Within.core
    | (with_reducible apply Dev.Within.ite)
    | (with_reducible apply Dev.Within.iteFst <;> try dsimp only)
    | (with_reducible apply Dev.Within.iteSnd <;> try dsimp only)
    | (intro _; try dsimp only)
    | with_reducible exact Core.Within.refl _ _
    | exact ⟨fun p hp => by cases p <;> first | exact absurd (by decide) hp | simp [Core.same], fun h => by first | exact h | exact mwrite_wf _ _ h | exact mclear_wf _ _ h | exact filter_wfFrom _ _ h | rfl⟩
    | (with_reducible apply Dev.Within.ofSnd; · with_reducible assumption)
    | (with_reducible apply Dev.Within.ofThird; · with_reducible assumption)
    | (with_reducible apply Dev.Within.ofFst; · with_reducible assumption)
    | (split <;> try dsimp only)
theorem Dev.l1Bring_within (v : Dev) (c : Nat) (a : Nat) (n : Nat) (reads : Bool) (cause : Nat) : Dev.Within [.spads, .caches, .coreRegs, .counters, .syncStatus, .stackMem, .channels, .stackRegs, .heldWrites, .contextSwitch, .hif, .free] v (Dev.l1Bring v c a n reads cause).2 := by
  unfold Dev.l1Bring
  try dsimp only
  repeat' first
    | with_reducible exact Dev.Within.refl _ _
    | with_reducible assumption
    | (with_reducible apply Dev.Within.step (Dev.l1Fill_within _ _ _ _)); · decide
    | (with_reducible apply Dev.Within.step (Dev.l1Look_within _ _ _ _ _)); · decide
    | (with_reducible apply Dev.Within.step (Dev.l2Read_within _ _ _ _ _ _ _)); · decide
    | (with_reducible apply Dev.Within.ite)
    | (with_reducible apply Dev.Within.iteFst <;> try dsimp only)
    | (with_reducible apply Dev.Within.iteSnd <;> try dsimp only)
    | (intro _; try dsimp only)
    | (with_reducible apply Dev.Within.ofSnd; · with_reducible assumption)
    | (with_reducible apply Dev.Within.ofThird; · with_reducible assumption)
    | (with_reducible apply Dev.Within.ofFst; · with_reducible assumption)
    | (split <;> try dsimp only)
theorem Dev.sclLoaded_within (v : Dev) (c : Nat) (x : Nat) (rd : Nat) (size : Nat) (uns : Bool) (bs : List Byte) (p : W64) : Dev.Within [.contexts] v (Dev.sclLoaded v c x rd size uns bs p) := by
  unfold Dev.sclLoaded
  try dsimp only
  repeat' first
    | with_reducible exact Dev.Within.refl _ _
    | with_reducible assumption
    | (with_reducible apply Dev.Within.step (Dev.modCtx_within _ _ _ _)); · decide
    | (with_reducible apply Dev.Within.ite)
    | (with_reducible apply Dev.Within.iteFst <;> try dsimp only)
    | (with_reducible apply Dev.Within.iteSnd <;> try dsimp only)
    | (intro _; try dsimp only)
    | (with_reducible apply Dev.Within.ofSnd; · with_reducible assumption)
    | (with_reducible apply Dev.Within.ofThird; · with_reducible assumption)
    | (with_reducible apply Dev.Within.ofFst; · with_reducible assumption)
    | (split <;> try dsimp only)
theorem Dev.sclWait_within (v : Dev) (c : Nat) (x : Nat) (w : CtxWait) : Dev.Within [.contexts] v (Dev.sclWait v c x w) := by
  unfold Dev.sclWait
  try dsimp only
  repeat' first
    | with_reducible exact Dev.Within.refl _ _
    | with_reducible assumption
    | (with_reducible apply Dev.Within.step (Dev.modCtx_within _ _ _ _)); · decide
    | (with_reducible apply Dev.Within.ite)
    | (with_reducible apply Dev.Within.iteFst <;> try dsimp only)
    | (with_reducible apply Dev.Within.iteSnd <;> try dsimp only)
    | (intro _; try dsimp only)
    | (with_reducible apply Dev.Within.ofSnd; · with_reducible assumption)
    | (with_reducible apply Dev.Within.ofThird; · with_reducible assumption)
    | (with_reducible apply Dev.Within.ofFst; · with_reducible assumption)
    | (split <;> try dsimp only)
theorem Dev.sclAsk_within (v : Dev) (c : Nat) (x : Nat) (a : Nat) (n : Nat) (cause : Nat) (w : CtxWait) (pc : W64) : Dev.Within [.caches, .contexts, .coreRegs, .fabric, .hif, .out] v (Dev.sclAsk v c x a n cause w pc) := by
  unfold Dev.sclAsk
  try dsimp only
  repeat' first
    | with_reducible exact Dev.Within.refl _ _
    | with_reducible assumption
    | (with_reducible apply Dev.Within.step (Dev.newId_within _ _)); · decide
    | (with_reducible apply Dev.Within.step (Dev.sclFault_within _ _ _ _ _)); · decide
    | (with_reducible apply Dev.Within.step (Dev.sclLoad_within _ _ _ _ _ _ _ _ _)); · decide
    | (with_reducible apply Dev.Within.step (Dev.sclWait_within _ _ _ _)); · decide
    | (with_reducible apply Dev.Within.step (Dev.sendReq_within _ _ _ _ _ _ _ _ _ _ _)); · decide
    | (with_reducible apply Dev.Within.ite)
    | (with_reducible apply Dev.Within.iteFst <;> try dsimp only)
    | (with_reducible apply Dev.Within.iteSnd <;> try dsimp only)
    | (intro _; try dsimp only)
    | (with_reducible apply Dev.Within.ofSnd; · with_reducible assumption)
    | (with_reducible apply Dev.Within.ofThird; · with_reducible assumption)
    | (with_reducible apply Dev.Within.ofFst; · with_reducible assumption)
    | (split <;> try dsimp only)
theorem Dev.sclLoad_within (v : Dev) (c : Nat) (x : Nat) (a : Nat) (size : Nat) (uns : Bool) (rd : Nat) (pc : W64) (p : W64) : Dev.Within [.caches, .contexts, .coreRegs, .fabric, .hif, .out] v (Dev.sclLoad v c x a size uns rd pc p) := by
  unfold Dev.sclLoad
  try dsimp only
  repeat' first
    | with_reducible exact Dev.Within.refl _ _
    | with_reducible assumption
    | (with_reducible apply Dev.Within.step (Dev.l1Look_within _ _ _ _ _)); · decide
    | (with_reducible apply Dev.Within.step (Dev.sclAsk_within _ _ _ _ _ _ _ _)); · decide
    | (with_reducible apply Dev.Within.step (Dev.sclFault_within _ _ _ _ _)); · decide
    | (with_reducible apply Dev.Within.step (Dev.sclLoaded_within _ _ _ _ _ _ _ _)); · decide
    | (with_reducible apply Dev.Within.step (Dev.sclWait_within _ _ _ _)); · decide
    | (with_reducible apply Dev.Within.ite)
    | (with_reducible apply Dev.Within.iteFst <;> try dsimp only)
    | (with_reducible apply Dev.Within.iteSnd <;> try dsimp only)
    | (intro _; try dsimp only)
    | (with_reducible apply Dev.Within.ofSnd; · with_reducible assumption)
    | (with_reducible apply Dev.Within.ofThird; · with_reducible assumption)
    | (with_reducible apply Dev.Within.ofFst; · with_reducible assumption)
    | (split <;> try dsimp only)
theorem Dev.postHeld_within (v : Dev) (old : Dev) (c : Nat) (x : Nat) : Dev.Within [.contexts] v (Dev.postHeld v old c x) := by
  unfold Dev.postHeld
  try dsimp only
  repeat' first
    | with_reducible exact Dev.Within.refl _ _
    | with_reducible assumption
    | (with_reducible apply Dev.Within.step (Dev.modCtx_within _ _ _ _)); · decide
    | (with_reducible apply Dev.Within.ite)
    | (with_reducible apply Dev.Within.iteFst <;> try dsimp only)
    | (with_reducible apply Dev.Within.iteSnd <;> try dsimp only)
    | (intro _; try dsimp only)
    | (with_reducible apply Dev.Within.ofSnd; · with_reducible assumption)
    | (with_reducible apply Dev.Within.ofThird; · with_reducible assumption)
    | (with_reducible apply Dev.Within.ofFst; · with_reducible assumption)
    | (split <;> try dsimp only)
theorem Dev.sclPut_within (v : Dev) (c : Nat) (x : Nat) (a : Nat) (bs : List Byte) (rd : Nat) (val : W64) (pc : W64) (p : W64) : Dev.Within [.spads, .caches, .contexts, .coreRegs, .counters, .syncStatus, .stackMem, .channels, .stackRegs, .hostMem, .heldWrites, .contextSwitch, .fabric, .hif, .out] v (Dev.sclPut v c x a bs rd val pc p) := by
  unfold Dev.sclPut
  try dsimp only
  repeat' first
    | with_reducible exact Dev.Within.refl _ _
    | with_reducible assumption
    | (with_reducible apply Dev.Within.step (Dev.clearRes_within _ _ _ _)); · decide
    | (with_reducible apply Dev.Within.step (Dev.postHeld_within _ _ _ _)); · decide
    | (with_reducible apply Dev.Within.step (Dev.sclFault_within _ _ _ _ _)); · decide
    | (with_reducible apply Dev.Within.step (Dev.sclStore_within _ _ _ _ _ _ _)); · decide
    | (with_reducible apply Dev.Within.step (Dev.sclWait_within _ _ _ _)); · decide
    | (with_reducible apply Dev.Within.step (Dev.sendReq_within _ _ _ _ _ _ _ _ _ _ _)); · decide
    | (with_reducible apply Dev.Within.step (Dev.wrAt_within _ _ _ _ _ _)); · decide
    | (with_reducible apply Dev.Within.step (Dev.modCtx_within _ _ _ _)); · decide
    | (with_reducible apply Dev.Within.ite)
    | (with_reducible apply Dev.Within.iteFst <;> try dsimp only)
    | (with_reducible apply Dev.Within.iteSnd <;> try dsimp only)
    | (intro _; try dsimp only)
    | (with_reducible apply Dev.Within.ofSnd; · with_reducible assumption)
    | (with_reducible apply Dev.Within.ofThird; · with_reducible assumption)
    | (with_reducible apply Dev.Within.ofFst; · with_reducible assumption)
    | (split <;> try dsimp only)
theorem Dev.sclBypass_within (v : Dev) (c : Nat) (x : Nat) (a : Nat) (bs : List Byte) (rd : Nat) (val : W64) (pc : W64) (p : W64) : Dev.Within [.spads, .caches, .contexts, .coreRegs, .counters, .syncStatus, .stackMem, .channels, .stackRegs, .hostMem, .heldWrites, .contextSwitch, .fabric, .hif, .out] v (Dev.sclBypass v c x a bs rd val pc p) := by
  unfold Dev.sclBypass
  try dsimp only
  repeat' first
    | with_reducible exact Dev.Within.refl _ _
    | with_reducible assumption
    | (with_reducible apply Dev.Within.step (Dev.sclPut_within _ _ _ _ _ _ _ _ _)); · decide
    | (with_reducible apply Dev.Within.step (Dev.sclWait_within _ _ _ _)); · decide
    | (with_reducible apply Dev.Within.ite)
    | (with_reducible apply Dev.Within.iteFst <;> try dsimp only)
    | (with_reducible apply Dev.Within.iteSnd <;> try dsimp only)
    | (intro _; try dsimp only)
    | (with_reducible apply Dev.Within.ofSnd; · with_reducible assumption)
    | (with_reducible apply Dev.Within.ofThird; · with_reducible assumption)
    | (with_reducible apply Dev.Within.ofFst; · with_reducible assumption)
    | (split <;> try dsimp only)
theorem Dev.sclStore_within (v : Dev) (c : Nat) (x : Nat) (a : Nat) (bs : List Byte) (pc : W64) (p : W64) : Dev.Within [.spads, .caches, .contexts, .coreRegs, .counters, .syncStatus, .stackMem, .channels, .stackRegs, .hostMem, .heldWrites, .contextSwitch, .fabric, .hif, .out] v (Dev.sclStore v c x a bs pc p) := by
  unfold Dev.sclStore
  try dsimp only
  repeat' first
    | with_reducible exact Dev.Within.refl _ _
    | with_reducible assumption
    | (with_reducible apply Dev.Within.step (Dev.clearRes_within _ _ _ _)); · decide
    | (with_reducible apply Dev.Within.step (Dev.l1Look_within _ _ _ _ _)); · decide
    | (with_reducible apply Dev.Within.step (Dev.sclBypass_within _ _ _ _ _ _ _ _ _)); · decide
    | (with_reducible apply Dev.Within.step (Dev.sclFault_within _ _ _ _ _)); · decide
    | (with_reducible apply Dev.Within.step (Dev.sclGo_within _ _ _ _)); · decide
    | (with_reducible apply Dev.Within.step (Dev.sclWait_within _ _ _ _)); · decide
    | with_reducible apply Dev.Within.core
    | (with_reducible apply Dev.Within.ite)
    | (with_reducible apply Dev.Within.iteFst <;> try dsimp only)
    | (with_reducible apply Dev.Within.iteSnd <;> try dsimp only)
    | (intro _; try dsimp only)
    | with_reducible exact Core.Within.refl _ _
    | (with_reducible unfold Core.l1Write; try dsimp only)
    | exact ⟨fun p hp => by cases p <;> first | exact absurd (by decide) hp | simp [Core.same, Core.l1Write], fun h => by (try simp only [Core.l1Write]); first | exact h | exact mwrite_wf _ _ h | exact mclear_wf _ _ h | exact filter_wfFrom _ _ h | rfl⟩
    | (with_reducible apply Dev.Within.ofSnd; · with_reducible assumption)
    | (with_reducible apply Dev.Within.ofThird; · with_reducible assumption)
    | (with_reducible apply Dev.Within.ofFst; · with_reducible assumption)
    | (split <;> try dsimp only)
theorem Dev.amoHit_within (v : Dev) (c : Nat) (x : Nat) (a : Nat) (op : AmoOp) (rd : Nat) (rs2 : Nat) (n : Nat) (p : W64) : Dev.Within [.spads, .caches, .contexts] v (Dev.amoHit v c x a op rd rs2 n p) := by
  unfold Dev.amoHit
  try dsimp only
  repeat' first
    | with_reducible exact Dev.Within.refl _ _
    | with_reducible assumption
    | (with_reducible apply Dev.Within.step (Dev.clearRes_within _ _ _ _)); · decide
    | (with_reducible apply Dev.Within.step (Dev.modCtx_within _ _ _ _)); · decide
    | with_reducible apply Dev.Within.core
    | (with_reducible apply Dev.Within.ite)
    | (with_reducible apply Dev.Within.iteFst <;> try dsimp only)
    | (with_reducible apply Dev.Within.iteSnd <;> try dsimp only)
    | (intro _; try dsimp only)
    | with_reducible exact Core.Within.refl _ _
    | (with_reducible unfold Core.l1Write; try dsimp only)
    | exact ⟨fun p hp => by cases p <;> first | exact absurd (by decide) hp | simp [Core.same, Core.l1Write], fun h => by (try simp only [Core.l1Write]); first | exact h | exact mwrite_wf _ _ h | exact mclear_wf _ _ h | exact filter_wfFrom _ _ h | rfl⟩
    | (with_reducible apply Dev.Within.ofSnd; · with_reducible assumption)
    | (with_reducible apply Dev.Within.ofThird; · with_reducible assumption)
    | (with_reducible apply Dev.Within.ofFst; · with_reducible assumption)
    | (split <;> try dsimp only)
theorem Dev.amoPast_within (v : Dev) (c : Nat) (x : Nat) (a : Nat) (op : AmoOp) (rd : Nat) (rs2 : Nat) (n : Nat) (old : List Byte) (pc : W64) (p : W64) : Dev.Within [.spads, .caches, .contexts, .coreRegs, .counters, .syncStatus, .stackMem, .channels, .stackRegs, .hostMem, .heldWrites, .contextSwitch, .fabric, .hif, .out] v (Dev.amoPast v c x a op rd rs2 n old pc p) := by
  unfold Dev.amoPast
  try dsimp only
  repeat' first
    | with_reducible exact Dev.Within.refl _ _
    | with_reducible assumption
    | (with_reducible apply Dev.Within.step (Dev.sclPut_within _ _ _ _ _ _ _ _ _)); · decide
    | (with_reducible apply Dev.Within.step (Dev.modCtx_within _ _ _ _)); · decide
    | (with_reducible apply Dev.Within.ite)
    | (with_reducible apply Dev.Within.iteFst <;> try dsimp only)
    | (with_reducible apply Dev.Within.iteSnd <;> try dsimp only)
    | (intro _; try dsimp only)
    | (with_reducible apply Dev.Within.ofSnd; · with_reducible assumption)
    | (with_reducible apply Dev.Within.ofThird; · with_reducible assumption)
    | (with_reducible apply Dev.Within.ofFst; · with_reducible assumption)
    | (split <;> try dsimp only)
theorem Dev.sclAmo_within (v : Dev) (c : Nat) (x : Nat) (a : Nat) (op : AmoOp) (rd : Nat) (rs2 : Nat) (dbl : Bool) (pc : W64) (p : W64) : Dev.Within [.spads, .caches, .contexts, .coreRegs, .counters, .syncStatus, .stackMem, .channels, .stackRegs, .hostMem, .heldWrites, .contextSwitch, .fabric, .hif, .out] v (Dev.sclAmo v c x a op rd rs2 dbl pc p) := by
  unfold Dev.sclAmo
  try dsimp only
  repeat' first
    | with_reducible exact Dev.Within.refl _ _
    | with_reducible assumption
    | (with_reducible apply Dev.Within.step (Dev.amoHit_within _ _ _ _ _ _ _ _ _)); · decide
    | (with_reducible apply Dev.Within.step (Dev.amoPast_within _ _ _ _ _ _ _ _ _ _ _)); · decide
    | (with_reducible apply Dev.Within.step (Dev.l1Look_within _ _ _ _ _)); · decide
    | (with_reducible apply Dev.Within.step (Dev.sclAsk_within _ _ _ _ _ _ _ _)); · decide
    | (with_reducible apply Dev.Within.step (Dev.sclFault_within _ _ _ _ _)); · decide
    | (with_reducible apply Dev.Within.step (Dev.sclWait_within _ _ _ _)); · decide
    | (with_reducible apply Dev.Within.step (Dev.modCtx_within _ _ _ _)); · decide
    | (with_reducible apply Dev.Within.ite)
    | (with_reducible apply Dev.Within.iteFst <;> try dsimp only)
    | (with_reducible apply Dev.Within.iteSnd <;> try dsimp only)
    | (intro _; try dsimp only)
    | (with_reducible apply Dev.Within.ofSnd; · with_reducible assumption)
    | (with_reducible apply Dev.Within.ofThird; · with_reducible assumption)
    | (with_reducible apply Dev.Within.ofFst; · with_reducible assumption)
    | (split <;> try dsimp only)
theorem Dev.storeUnkept_within {F : List Part} {u₀ : Dev} {v : Dev} {c : Nat} {x : Nat} {a : Nat} {bs : List Byte} {pc : W64} {fin : Dev → Dev}  (hb : ([.spads, .caches, .contexts, .counters, .syncStatus, .stackMem, .channels, .stackRegs, .heldWrites, .contextSwitch, .hif].all fun p => F.contains p) = true) (h_fin : ∀ (w : Dev), Dev.Within F w (fin w)) (h : Dev.Within F u₀ v) : Dev.Within F u₀ (Dev.storeUnkept v c x a bs pc fin) := by
  unfold Dev.storeUnkept
  try dsimp only
  repeat' first
    | with_reducible exact Dev.Within.refl _ _
    | with_reducible assumption
    | (with_reducible apply Dev.Within.after (h_fin _))
    | (with_reducible apply Dev.Within.step (Dev.clearRes_within _ _ _ _)); · first | decide | exact Dev.Within.sub (by decide) hb
    | (with_reducible apply Dev.Within.step (Dev.l2Through_within _ _ _ _ _)); · first | decide | exact Dev.Within.sub (by decide) hb
    | (with_reducible apply Dev.Within.step (Dev.postHeld_within _ _ _ _)); · first | decide | exact Dev.Within.sub (by decide) hb
    | (with_reducible apply Dev.Within.step (Dev.sclFault_within _ _ _ _ _)); · first | decide | exact Dev.Within.sub (by decide) hb
    | (with_reducible apply Dev.Within.ite)
    | (with_reducible apply Dev.Within.iteFst <;> try dsimp only)
    | (with_reducible apply Dev.Within.iteSnd <;> try dsimp only)
    | (intro _; try dsimp only)
    | (with_reducible apply Dev.Within.ofSnd; · with_reducible assumption)
    | (with_reducible apply Dev.Within.ofThird; · with_reducible assumption)
    | (with_reducible apply Dev.Within.ofFst; · with_reducible assumption)
    | (split <;> try dsimp only)
theorem Dev.accessReturn_within (v : Dev) (c : Nat) (x : Nat) : Dev.Within [.spads, .caches, .contexts, .coreRegs, .counters, .syncStatus, .stackMem, .channels, .stackRegs, .hostMem, .heldWrites, .contextSwitch, .fabric, .hif, .free, .out] v (Dev.accessReturn v c x) := by
  unfold Dev.accessReturn
  try dsimp only
  repeat' first
    | with_reducible exact Dev.Within.refl _ _
    | with_reducible assumption
    | (with_reducible apply Dev.Within.step (Dev.amoHit_within _ _ _ _ _ _ _ _ _)); · decide
    | (with_reducible apply Dev.Within.step (Dev.amoPast_within _ _ _ _ _ _ _ _ _ _ _)); · decide
    | (with_reducible apply Dev.Within.step (Dev.clearRes_within _ _ _ _)); · decide
    | (with_reducible apply Dev.Within.step (Dev.l1Bring_within _ _ _ _ _ _)); · decide
    | (with_reducible apply Dev.Within.step (Dev.l2Read_within _ _ _ _ _ _ _)); · decide
    | (with_reducible apply Dev.Within.step (Dev.rdAt_within _ _ _ _ _)); · decide
    | (with_reducible apply Dev.Within.step (Dev.sclFault_within _ _ _ _ _)); · decide
    | (with_reducible apply Dev.Within.step (Dev.sclGo_within _ _ _ _)); · decide
    | (with_reducible apply Dev.Within.step (Dev.sclLoaded_within _ _ _ _ _ _ _ _)); · decide
    | (with_reducible apply Dev.Within.step (Dev.sclPut_within _ _ _ _ _ _ _ _ _)); · decide
    | (with_reducible apply Dev.storeUnkept_within; · decide)
    | (with_reducible apply Dev.Within.step (Dev.modCtx_within _ _ _ _)); · decide
    | with_reducible apply Dev.Within.core
    | (with_reducible apply Dev.Within.ite)
    | (with_reducible apply Dev.Within.iteFst <;> try dsimp only)
    | (with_reducible apply Dev.Within.iteSnd <;> try dsimp only)
    | (intro _; try dsimp only)
    | with_reducible exact Core.Within.refl _ _
    | (with_reducible unfold Core.l1Write; try dsimp only)
    | exact ⟨fun p hp => by cases p <;> first | exact absurd (by decide) hp | simp [Core.same, Core.l1Write], fun h => by (try simp only [Core.l1Write]); first | exact h | exact mwrite_wf _ _ h | exact mclear_wf _ _ h | exact filter_wfFrom _ _ h | rfl⟩
    | (with_reducible apply Dev.Within.ofSnd; · with_reducible assumption)
    | (with_reducible apply Dev.Within.ofThird; · with_reducible assumption)
    | (with_reducible apply Dev.Within.ofFst; · with_reducible assumption)
    | (split <;> try dsimp only)
theorem Dev.sclAnswer_within (v : Dev) (c : Nat) (x : Nat) (bs : List Byte) : Dev.Within [.spads, .caches, .contexts, .coreRegs, .counters, .syncStatus, .stackMem, .channels, .stackRegs, .hostMem, .heldWrites, .contextSwitch, .fabric, .hif, .out] v (Dev.sclAnswer v c x bs) := by
  unfold Dev.sclAnswer
  try dsimp only
  repeat' first
    | with_reducible exact Dev.Within.refl _ _
    | with_reducible assumption
    | (with_reducible apply Dev.Within.step (Dev.amoPast_within _ _ _ _ _ _ _ _ _ _ _)); · decide
    | (with_reducible apply Dev.Within.step (Dev.sclLoaded_within _ _ _ _ _ _ _ _)); · decide
    | (with_reducible apply Dev.Within.ite)
    | (with_reducible apply Dev.Within.iteFst <;> try dsimp only)
    | (with_reducible apply Dev.Within.iteSnd <;> try dsimp only)
    | (intro _; try dsimp only)
    | (with_reducible apply Dev.Within.ofSnd; · with_reducible assumption)
    | (with_reducible apply Dev.Within.ofThird; · with_reducible assumption)
    | (with_reducible apply Dev.Within.ofFst; · with_reducible assumption)
    | (split <;> try dsimp only)
theorem Dev.sclAnswerBad_within (v : Dev) (c : Nat) (x : Nat) : Dev.Within [.contexts, .hif] v (Dev.sclAnswerBad v c x) := by
  unfold Dev.sclAnswerBad
  try dsimp only
  repeat' first
    | with_reducible exact Dev.Within.refl _ _
    | with_reducible assumption
    | (with_reducible apply Dev.Within.step (Dev.sclFault_within _ _ _ _ _)); · decide
    | (with_reducible apply Dev.Within.ite)
    | (with_reducible apply Dev.Within.iteFst <;> try dsimp only)
    | (with_reducible apply Dev.Within.iteSnd <;> try dsimp only)
    | (intro _; try dsimp only)
    | (with_reducible apply Dev.Within.ofSnd; · with_reducible assumption)
    | (with_reducible apply Dev.Within.ofThird; · with_reducible assumption)
    | (with_reducible apply Dev.Within.ofFst; · with_reducible assumption)
    | (split <;> try dsimp only)
theorem Dev.sclLanded_within (v : Dev) (c : Nat) (x : Nat) : Dev.Within [.contexts] v (Dev.sclLanded v c x) := by
  unfold Dev.sclLanded
  try dsimp only
  repeat' first
    | with_reducible exact Dev.Within.refl _ _
    | with_reducible assumption
    | (with_reducible apply Dev.Within.step (Dev.modCtx_within _ _ _ _)); · decide
    | (with_reducible apply Dev.Within.ite)
    | (with_reducible apply Dev.Within.iteFst <;> try dsimp only)
    | (with_reducible apply Dev.Within.iteSnd <;> try dsimp only)
    | (intro _; try dsimp only)
    | (with_reducible apply Dev.Within.ofSnd; · with_reducible assumption)
    | (with_reducible apply Dev.Within.ofThird; · with_reducible assumption)
    | (with_reducible apply Dev.Within.ofFst; · with_reducible assumption)
    | (split <;> try dsimp only)
theorem Dev.sclStoreBad_within (v : Dev) (c : Nat) (x : Nat) (pc : W64) : Dev.Within [.contexts, .hif] v (Dev.sclStoreBad v c x pc) := by
  unfold Dev.sclStoreBad
  try dsimp only
  repeat' first
    | with_reducible exact Dev.Within.refl _ _
    | with_reducible assumption
    | (with_reducible apply Dev.Within.step (Dev.sclFault_within _ _ _ _ _)); · decide
    | (with_reducible apply Dev.Within.step (Dev.modCtx_within _ _ _ _)); · decide
    | (with_reducible apply Dev.Within.ite)
    | (with_reducible apply Dev.Within.iteFst <;> try dsimp only)
    | (with_reducible apply Dev.Within.iteSnd <;> try dsimp only)
    | (intro _; try dsimp only)
    | (with_reducible apply Dev.Within.ofSnd; · with_reducible assumption)
    | (with_reducible apply Dev.Within.ofThird; · with_reducible assumption)
    | (with_reducible apply Dev.Within.ofFst; · with_reducible assumption)
    | (split <;> try dsimp only)
theorem Dev.csrRead_within (v : Dev) (c : Nat) (x : Nat) (rd : Nat) (csr : Nat) (pc : W64) : Dev.Within [.contexts, .hif, .free] v (Dev.csrRead v c x rd csr pc) := by
  unfold Dev.csrRead
  try dsimp only
  repeat' first
    | with_reducible exact Dev.Within.refl _ _
    | with_reducible assumption
    | (with_reducible apply Dev.Within.step (Dev.sclFault_within _ _ _ _ _)); · decide
    | (with_reducible apply Dev.Within.step (Dev.draw_within _)); · decide
    | (with_reducible apply Dev.Within.step (Dev.modCtx_within _ _ _ _)); · decide
    | (with_reducible apply Dev.Within.ite)
    | (with_reducible apply Dev.Within.iteFst <;> try dsimp only)
    | (with_reducible apply Dev.Within.iteSnd <;> try dsimp only)
    | (intro _; try dsimp only)
    | (with_reducible apply Dev.Within.ofSnd; · with_reducible assumption)
    | (with_reducible apply Dev.Within.ofThird; · with_reducible assumption)
    | (with_reducible apply Dev.Within.ofFst; · with_reducible assumption)
    | (split <;> try dsimp only)
theorem Dev.sclFence_within (v : Dev) (c : Nat) (x : Nat) (pc : W64) : Dev.Within [.contexts] v (Dev.sclFence v c x pc) := by
  unfold Dev.sclFence
  try dsimp only
  repeat' first
    | with_reducible exact Dev.Within.refl _ _
    | with_reducible assumption
    | (with_reducible apply Dev.Within.step (Dev.sclGo_within _ _ _ _)); · decide
    | (with_reducible apply Dev.Within.step (Dev.sclWait_within _ _ _ _)); · decide
    | (with_reducible apply Dev.Within.ite)
    | (with_reducible apply Dev.Within.iteFst <;> try dsimp only)
    | (with_reducible apply Dev.Within.iteSnd <;> try dsimp only)
    | (intro _; try dsimp only)
    | (with_reducible apply Dev.Within.ofSnd; · with_reducible assumption)
    | (with_reducible apply Dev.Within.ofThird; · with_reducible assumption)
    | (with_reducible apply Dev.Within.ofFst; · with_reducible assumption)
    | (split <;> try dsimp only)
theorem Dev.twSig_within (v : Dev) (c : Nat) (x : Nat) (rs1 : Nat) (pc : W64) : Dev.Within [.contexts, .counters, .hif] v (Dev.twSig v c x rs1 pc) := by
  unfold Dev.twSig
  try dsimp only
  repeat' first
    | with_reducible exact Dev.Within.refl _ _
    | with_reducible assumption
    | (with_reducible apply Dev.Within.step (Dev.sclFault_within _ _ _ _ _)); · decide
    | (with_reducible apply Dev.Within.step (Dev.sclGo_within _ _ _ _)); · decide
    | (with_reducible apply Dev.Within.step (Dev.sendSignal_within _ _)); · decide
    | (with_reducible apply Dev.Within.ite)
    | (with_reducible apply Dev.Within.iteFst <;> try dsimp only)
    | (with_reducible apply Dev.Within.iteSnd <;> try dsimp only)
    | (intro _; try dsimp only)
    | (with_reducible apply Dev.Within.ofSnd; · with_reducible assumption)
    | (with_reducible apply Dev.Within.ofThird; · with_reducible assumption)
    | (with_reducible apply Dev.Within.ofFst; · with_reducible assumption)
    | (split <;> try dsimp only)
theorem Dev.twWait_within (v : Dev) (c : Nat) (x : Nat) (rs1 : Nat) (rs2 : Nat) (pc : W64) : Dev.Within [.streams, .contexts, .counters, .syncStatus, .hif] v (Dev.twWait v c x rs1 rs2 pc) := by
  unfold Dev.twWait
  try dsimp only
  repeat' first
    | with_reducible exact Dev.Within.refl _ _
    | with_reducible assumption
    | (with_reducible apply Dev.Within.step (Dev.grantPass_within _)); · decide
    | (with_reducible apply Dev.Within.step (Dev.markMisused_within _ _)); · decide
    | (with_reducible apply Dev.Within.step (Dev.sclFault_within _ _ _ _ _)); · decide
    | (with_reducible apply Dev.Within.step (Dev.sclGo_within _ _ _ _)); · decide
    | (with_reducible apply Dev.Within.step (Dev.sclWait_within _ _ _ _)); · decide
    | (with_reducible apply Dev.Within.ite)
    | (with_reducible apply Dev.Within.iteFst <;> try dsimp only)
    | (with_reducible apply Dev.Within.iteSnd <;> try dsimp only)
    | (intro _; try dsimp only)
    | (with_reducible apply Dev.Within.ofSnd; · with_reducible assumption)
    | (with_reducible apply Dev.Within.ofThird; · with_reducible assumption)
    | (with_reducible apply Dev.Within.ofFst; · with_reducible assumption)
    | (split <;> try dsimp only)
theorem Dev.twCtr_within (v : Dev) (c : Nat) (x : Nat) (rd : Nat) (rs1 : Nat) (pc : W64) : Dev.Within [.contexts, .hif] v (Dev.twCtr v c x rd rs1 pc) := by
  unfold Dev.twCtr
  try dsimp only
  repeat' first
    | with_reducible exact Dev.Within.refl _ _
    | with_reducible assumption
    | (with_reducible apply Dev.Within.step (Dev.sclFault_within _ _ _ _ _)); · decide
    | (with_reducible apply Dev.Within.step (Dev.modCtx_within _ _ _ _)); · decide
    | (with_reducible apply Dev.Within.ite)
    | (with_reducible apply Dev.Within.iteFst <;> try dsimp only)
    | (with_reducible apply Dev.Within.iteSnd <;> try dsimp only)
    | (intro _; try dsimp only)
    | (with_reducible apply Dev.Within.ofSnd; · with_reducible assumption)
    | (with_reducible apply Dev.Within.ofThird; · with_reducible assumption)
    | (with_reducible apply Dev.Within.ofFst; · with_reducible assumption)
    | (split <;> try dsimp only)
theorem Dev.twBara_within (v : Dev) (c : Nat) (x : Nat) (rd : Nat) (rs1 : Nat) (pc : W64) : Dev.Within [.contexts, .counters, .barriers, .syncStatus, .hif] v (Dev.twBara v c x rd rs1 pc) := by
  unfold Dev.twBara
  try dsimp only
  repeat' first
    | with_reducible exact Dev.Within.refl _ _
    | with_reducible assumption
    | (with_reducible apply Dev.Within.step (Dev.barArrive_within _ _ _)); · decide
    | (with_reducible apply Dev.Within.step (Dev.sclFault_within _ _ _ _ _)); · decide
    | (with_reducible apply Dev.Within.step (Dev.modCtx_within _ _ _ _)); · decide
    | (with_reducible apply Dev.Within.ite)
    | (with_reducible apply Dev.Within.iteFst <;> try dsimp only)
    | (with_reducible apply Dev.Within.iteSnd <;> try dsimp only)
    | (intro _; try dsimp only)
    | (with_reducible apply Dev.Within.ofSnd; · with_reducible assumption)
    | (with_reducible apply Dev.Within.ofThird; · with_reducible assumption)
    | (with_reducible apply Dev.Within.ofFst; · with_reducible assumption)
    | (split <;> try dsimp only)
theorem Dev.twBarw_within (v : Dev) (c : Nat) (x : Nat) (rs1 : Nat) (rs2 : Nat) (pc : W64) : Dev.Within [.contexts, .hif] v (Dev.twBarw v c x rs1 rs2 pc) := by
  unfold Dev.twBarw
  try dsimp only
  repeat' first
    | with_reducible exact Dev.Within.refl _ _
    | with_reducible assumption
    | (with_reducible apply Dev.Within.step (Dev.sclFault_within _ _ _ _ _)); · decide
    | (with_reducible apply Dev.Within.step (Dev.sclGo_within _ _ _ _)); · decide
    | (with_reducible apply Dev.Within.step (Dev.sclWait_within _ _ _ _)); · decide
    | (with_reducible apply Dev.Within.ite)
    | (with_reducible apply Dev.Within.iteFst <;> try dsimp only)
    | (with_reducible apply Dev.Within.iteSnd <;> try dsimp only)
    | (intro _; try dsimp only)
    | (with_reducible apply Dev.Within.ofSnd; · with_reducible assumption)
    | (with_reducible apply Dev.Within.ofThird; · with_reducible assumption)
    | (with_reducible apply Dev.Within.ofFst; · with_reducible assumption)
    | (split <;> try dsimp only)
theorem Dev.twHalt_within (v : Dev) (c : Nat) (x : Nat) : Dev.Within [.contexts] v (Dev.twHalt v c x) := by
  unfold Dev.twHalt
  try dsimp only
  repeat' first
    | with_reducible exact Dev.Within.refl _ _
    | with_reducible assumption
    | (with_reducible apply Dev.Within.step (Dev.modCtx_within _ _ _ _)); · decide
    | (with_reducible apply Dev.Within.ite)
    | (with_reducible apply Dev.Within.iteFst <;> try dsimp only)
    | (with_reducible apply Dev.Within.iteSnd <;> try dsimp only)
    | (intro _; try dsimp only)
    | (with_reducible apply Dev.Within.ofSnd; · with_reducible assumption)
    | (with_reducible apply Dev.Within.ofThird; · with_reducible assumption)
    | (with_reducible apply Dev.Within.ofFst; · with_reducible assumption)
    | (split <;> try dsimp only)
theorem Dev.twRange_within (v : Dev) (inv : Bool) (c : Nat) (x : Nat) (rs1 : Nat) (rs2 : Nat) (pc : W64) : Dev.Within [.spads, .caches, .contexts, .coreRegs, .counters, .syncStatus, .stackMem, .channels, .stackRegs, .heldWrites, .contextSwitch, .hif] v (Dev.twRange v inv c x rs1 rs2 pc) := by
  unfold Dev.twRange
  try dsimp only
  repeat' first
    | with_reducible exact Dev.Within.refl _ _
    | with_reducible assumption
    | (with_reducible apply Dev.Within.step (Dev.flushInval_within _ _ _ _ _)); · decide
    | (with_reducible apply Dev.Within.step (Dev.flushRange_within _ _ _ _ _)); · decide
    | (with_reducible apply Dev.Within.step (Dev.postHeld_within _ _ _ _)); · decide
    | (with_reducible apply Dev.Within.step (Dev.sclFault_within _ _ _ _ _)); · decide
    | (with_reducible apply Dev.Within.step (Dev.sclGo_within _ _ _ _)); · decide
    | (with_reducible apply Dev.Within.step (Dev.sclWait_within _ _ _ _)); · decide
    | (with_reducible apply Dev.Within.ite)
    | (with_reducible apply Dev.Within.iteFst <;> try dsimp only)
    | (with_reducible apply Dev.Within.iteSnd <;> try dsimp only)
    | (intro _; try dsimp only)
    | (with_reducible apply Dev.Within.ofSnd; · with_reducible assumption)
    | (with_reducible apply Dev.Within.ofThird; · with_reducible assumption)
    | (with_reducible apply Dev.Within.ofFst; · with_reducible assumption)
    | (split <;> try dsimp only)
theorem Dev.flushDone_within (v : Dev) (c : Nat) (x : Nat) : Dev.Within [.contexts] v (Dev.flushDone v c x) := by
  unfold Dev.flushDone
  try dsimp only
  repeat' first
    | with_reducible exact Dev.Within.refl _ _
    | with_reducible assumption
    | (with_reducible apply Dev.Within.step (Dev.sclGo_within _ _ _ _)); · decide
    | (with_reducible apply Dev.Within.ite)
    | (with_reducible apply Dev.Within.iteFst <;> try dsimp only)
    | (with_reducible apply Dev.Within.iteSnd <;> try dsimp only)
    | (intro _; try dsimp only)
    | (with_reducible apply Dev.Within.ofSnd; · with_reducible assumption)
    | (with_reducible apply Dev.Within.ofThird; · with_reducible assumption)
    | (with_reducible apply Dev.Within.ofFst; · with_reducible assumption)
    | (split <;> try dsimp only)

end Sys2Proof.Machine
end

