-- ==== Sys2Proof/Laws/Packets.lean ====
section
/-! SUPPORT. What each operation of Machine/Packets may change. -/

namespace Sys2Proof.Machine

theorem Dev.reply_within (v : Dev) (die : Nat) (kind : Nat) (p : Packet) (data : List Byte) : Dev.Within [.fabric, .hif, .out] v (Dev.reply v die kind p data) := by
  unfold Dev.reply
  try dsimp only
  repeat' first
    | with_reducible exact Dev.Within.refl _ _
    | with_reducible assumption
    | (with_reducible apply Dev.Within.step (Dev.sendPacket_within _ _ _)); · decide
    | (with_reducible apply Dev.Within.ite)
    | (with_reducible apply Dev.Within.iteFst <;> try dsimp only)
    | (with_reducible apply Dev.Within.iteSnd <;> try dsimp only)
    | (intro _; try dsimp only)
    | (with_reducible apply Dev.Within.ofSnd; · with_reducible assumption)
    | (with_reducible apply Dev.Within.ofThird; · with_reducible assumption)
    | (with_reducible apply Dev.Within.ofFst; · with_reducible assumption)
    | (split <;> try dsimp only)
theorem Dev.arrive_within {F : List Part} {u₀ : Dev} {v : Dev} {kind : Nat} {die : Nat} {port : Port} {p : Packet} {request : Bool} {act : Dev → Dev}  (hb : ([.fabric, .hif, .out].all fun p => F.contains p) = true) (h_act : ∀ (w : Dev), Dev.Within F w (act w)) (h : Dev.Within F u₀ v) : Dev.Within F u₀ (Dev.arrive v kind die port p request act) := by
  unfold Dev.arrive
  try dsimp only
  repeat' first
    | with_reducible exact Dev.Within.refl _ _
    | with_reducible assumption
    | (with_reducible apply Dev.Within.after (h_act _))
    | (with_reducible apply Dev.Within.step (Dev.ev_within _ _ _ _ _ _)); · first | decide | exact Dev.Within.sub (by decide) hb
    | (with_reducible apply Dev.Within.step (Dev.reply_within _ _ _ _ _)); · first | decide | exact Dev.Within.sub (by decide) hb
    | (with_reducible apply Dev.Within.step (answer_within _ _ _ _ _)); · first | decide | exact Dev.Within.sub (by decide) hb
    | (with_reducible apply Dev.Within.step (Dev.modFabD_within _ _ _)); · first | decide | exact Dev.Within.sub (by decide) hb
    | (with_reducible apply Dev.Within.ite)
    | (with_reducible apply Dev.Within.iteFst <;> try dsimp only)
    | (with_reducible apply Dev.Within.iteSnd <;> try dsimp only)
    | (intro _; try dsimp only)
    | (with_reducible apply Dev.Within.ofSnd; · with_reducible assumption)
    | (with_reducible apply Dev.Within.ofThird; · with_reducible assumption)
    | (with_reducible apply Dev.Within.ofFst; · with_reducible assumption)
    | (split <;> try dsimp only)
theorem Dev.rxCount_within (v : Dev) (port : Port) (a : Nat) (n : Nat) : Dev.Within [.dmas, .links] v (Dev.rxCount v port a n) := by
  unfold Dev.rxCount
  try dsimp only
  repeat' first
    | with_reducible exact Dev.Within.refl _ _
    | with_reducible assumption
    | (with_reducible apply Dev.Within.step (Dev.reqEvent_within _ _ _ _)); · decide
    | (with_reducible apply Dev.Within.step (Dev.modLinkN_within _ _ _)); · decide
    | (with_reducible apply Dev.Within.ite)
    | (with_reducible apply Dev.Within.iteFst <;> try dsimp only)
    | (with_reducible apply Dev.Within.iteSnd <;> try dsimp only)
    | with_reducible apply Dev.Within.iter
    | (intro _; try dsimp only)
    | (with_reducible apply Dev.Within.ofSnd; · with_reducible assumption)
    | (with_reducible apply Dev.Within.ofThird; · with_reducible assumption)
    | (with_reducible apply Dev.Within.ofFst; · with_reducible assumption)
    | (split <;> try dsimp only)
theorem Dev.packetLanded_within (v : Dev) (die : Nat) (port : Port) (p : Packet) : Dev.Within [.schedules, .streams, .spads, .caches, .contexts, .dmas, .coreRegs, .counters, .syncStatus, .stackMem, .channels, .stackRegs, .hostMem, .heldWrites, .faults, .contextSwitch, .fabric, .links, .hif, .free, .out] v (Dev.packetLanded v die port p) := by
  unfold Dev.packetLanded
  try dsimp only
  repeat' first
    | with_reducible exact Dev.Within.refl _ _
    | with_reducible assumption
    | (with_reducible apply Dev.Within.step (Dev.landData_within _ _ _ _ _)); · decide
    | (with_reducible apply Dev.Within.step (Dev.releaseHeld_within _)); · decide
    | (with_reducible apply Dev.Within.step (Dev.reply_within _ _ _ _ _)); · decide
    | (with_reducible apply Dev.Within.step (Dev.rxCount_within _ _ _ _)); · decide
    | (with_reducible apply Dev.Within.ite)
    | (with_reducible apply Dev.Within.iteFst <;> try dsimp only)
    | (with_reducible apply Dev.Within.iteSnd <;> try dsimp only)
    | (intro _; try dsimp only)
    | (with_reducible apply Dev.Within.ofSnd; · with_reducible assumption)
    | (with_reducible apply Dev.Within.ofThird; · with_reducible assumption)
    | (with_reducible apply Dev.Within.ofFst; · with_reducible assumption)
    | (split <;> try dsimp only)
theorem Dev.packetWrite_within (v : Dev) (die : Nat) (port : Port) (p : Packet) : Dev.Within [.schedules, .streams, .spads, .caches, .contexts, .dmas, .coreRegs, .counters, .syncStatus, .stackMem, .channels, .stackRegs, .hostMem, .heldWrites, .faults, .contextSwitch, .fabric, .links, .hif, .free, .out] v (Dev.packetWrite v die port p) := by
  unfold Dev.packetWrite
  try dsimp only
  repeat' first
    | with_reducible exact Dev.Within.refl _ _
    | with_reducible assumption
    | (with_reducible apply Dev.Within.step (Dev.arriveWrite_within _ _ _ _ _ _ _ _)); · decide
    | (with_reducible apply Dev.Within.step (Dev.packetLanded_within _ _ _ _)); · decide
    | (with_reducible apply Dev.Within.step (Dev.reply_within _ _ _ _ _)); · decide
    | (with_reducible apply Dev.Within.step (Dev.modFabD_within _ _ _)); · decide
    | (with_reducible apply Dev.Within.ite)
    | (with_reducible apply Dev.Within.iteFst <;> try dsimp only)
    | (with_reducible apply Dev.Within.iteSnd <;> try dsimp only)
    | (intro _; try dsimp only)
    | (with_reducible apply Dev.Within.ofSnd; · with_reducible assumption)
    | (with_reducible apply Dev.Within.ofThird; · with_reducible assumption)
    | (with_reducible apply Dev.Within.ofFst; · with_reducible assumption)
    | (split <;> try dsimp only)
theorem Dev.packetRead_within (v : Dev) (die : Nat) (port : Port) (p : Packet) : Dev.Within [.coreRegs, .syncStatus, .stackMem, .channels, .map, .fabric, .hif, .out] v (Dev.packetRead v die port p) := by
  unfold Dev.packetRead
  try dsimp only
  repeat' first
    | with_reducible exact Dev.Within.refl _ _
    | with_reducible assumption
    | (with_reducible apply Dev.Within.step (Dev.arriveRead_within _ _ _ _ _ _ _)); · decide
    | (with_reducible apply Dev.Within.step (Dev.reply_within _ _ _ _ _)); · decide
    | with_reducible apply Dev.Within.hbm
    | (with_reducible apply Dev.Within.ite)
    | (with_reducible apply Dev.Within.iteFst <;> try dsimp only)
    | (with_reducible apply Dev.Within.iteSnd <;> try dsimp only)
    | (intro _; try dsimp only)
    | with_reducible exact Hbm.Within.refl _ _
    | exact ⟨fun p hp => by cases p <;> first | exact absurd (by decide) hp | simp [Hbm.same], fun h => by first | exact h | exact mwrite_wf _ _ h | exact mclear_wf _ _ h | exact filter_wfFrom _ _ h | rfl⟩
    | (with_reducible apply Dev.Within.ofSnd; · with_reducible assumption)
    | (with_reducible apply Dev.Within.ofThird; · with_reducible assumption)
    | (with_reducible apply Dev.Within.ofFst; · with_reducible assumption)
    | (split <;> try dsimp only)
theorem Dev.chunkData_within (v : Dev) (die : Nat) (port : Port) (p : Packet) : Dev.Within [.schedules, .streams, .spads, .caches, .contexts, .dmas, .coreRegs, .counters, .syncStatus, .stackMem, .channels, .stackRegs, .hostMem, .heldWrites, .faults, .contextSwitch, .fabric, .links, .hif, .free, .out] v (Dev.chunkData v die port p) := by
  unfold Dev.chunkData
  try dsimp only
  repeat' first
    | with_reducible exact Dev.Within.refl _ _
    | with_reducible assumption
    | (with_reducible apply Dev.Within.step (Dev.lateDiscard_within _ _)); · decide
    | (with_reducible apply Dev.Within.step (Dev.packetWrite_within _ _ _ _)); · decide
    | (with_reducible apply Dev.Within.ite)
    | (with_reducible apply Dev.Within.iteFst <;> try dsimp only)
    | (with_reducible apply Dev.Within.iteSnd <;> try dsimp only)
    | (intro _; try dsimp only)
    | (with_reducible apply Dev.Within.ofSnd; · with_reducible assumption)
    | (with_reducible apply Dev.Within.ofThird; · with_reducible assumption)
    | (with_reducible apply Dev.Within.ofFst; · with_reducible assumption)
    | (split <;> try dsimp only)
theorem Dev.chunkDone_within (v : Dev) (die : Nat) (p : Packet) : Dev.Within [.fabric, .hif, .out] v (Dev.chunkDone v die p) := by
  unfold Dev.chunkDone
  try dsimp only
  repeat' first
    | with_reducible exact Dev.Within.refl _ _
    | with_reducible assumption
    | (with_reducible apply Dev.Within.step (Dev.landDone_within _ _ _ _ _)); · decide
    | (with_reducible apply Dev.Within.step (Dev.reply_within _ _ _ _ _)); · decide
    | (with_reducible apply Dev.Within.ite)
    | (with_reducible apply Dev.Within.iteFst <;> try dsimp only)
    | (with_reducible apply Dev.Within.iteSnd <;> try dsimp only)
    | (intro _; try dsimp only)
    | (with_reducible apply Dev.Within.ofSnd; · with_reducible assumption)
    | (with_reducible apply Dev.Within.ofThird; · with_reducible assumption)
    | (with_reducible apply Dev.Within.ofFst; · with_reducible assumption)
    | (split <;> try dsimp only)
theorem Dev.linksSettled_within (v : Dev) (die : Nat) : Dev.Within [.schedules, .streams, .spads, .caches, .contexts, .dmas, .coreRegs, .counters, .syncStatus, .stackMem, .channels, .stackRegs, .hostMem, .heldWrites, .faults, .contextSwitch, .fabric, .hif, .free, .out] v (Dev.linksSettled v die) := by
  unfold Dev.linksSettled
  try dsimp only
  repeat' first
    | with_reducible exact Dev.Within.refl _ _
    | with_reducible assumption
    | (with_reducible apply Dev.Within.step (Dev.accessReturn_within _ _ _)); · decide
    | (with_reducible apply Dev.Within.step (Dev.dmaWakeAll_within _ _)); · decide
    | (with_reducible apply Dev.Within.ite)
    | (with_reducible apply Dev.Within.iteFst <;> try dsimp only)
    | (with_reducible apply Dev.Within.iteSnd <;> try dsimp only)
    | with_reducible apply Dev.Within.forAll
    | (intro _; try dsimp only)
    | (with_reducible apply Dev.Within.ofSnd; · with_reducible assumption)
    | (with_reducible apply Dev.Within.ofThird; · with_reducible assumption)
    | (with_reducible apply Dev.Within.ofFst; · with_reducible assumption)
    | (split <;> try dsimp only)
theorem Dev.dropReq_within (v : Dev) (die : Nat) (r : Req) : Dev.Within [.schedules, .streams, .spads, .caches, .contexts, .dmas, .coreRegs, .counters, .syncStatus, .stackMem, .channels, .stackRegs, .hostMem, .heldWrites, .faults, .contextSwitch, .fabric, .hif, .free, .out] v (Dev.dropReq v die r) := by
  unfold Dev.dropReq
  try dsimp only
  repeat' first
    | with_reducible exact Dev.Within.refl _ _
    | with_reducible assumption
    | (with_reducible apply Dev.Within.step (Dev.linksSettled_within _ _)); · decide
    | (with_reducible apply Dev.Within.step (Dev.settleLinks_within _ _)); · decide
    | (with_reducible apply Dev.Within.step (Dev.modFabD_within _ _ _)); · decide
    | (with_reducible apply Dev.Within.ite)
    | (with_reducible apply Dev.Within.iteFst <;> try dsimp only)
    | (with_reducible apply Dev.Within.iteSnd <;> try dsimp only)
    | (intro _; try dsimp only)
    | (with_reducible apply Dev.Within.ofSnd; · with_reducible assumption)
    | (with_reducible apply Dev.Within.ofThird; · with_reducible assumption)
    | (with_reducible apply Dev.Within.ofFst; · with_reducible assumption)
    | (split <;> try dsimp only)
theorem Dev.answered_within (v : Dev) (r : Req) (bs : List Byte) : Dev.Within [.spads, .caches, .contexts, .dmas, .coreRegs, .counters, .syncStatus, .stackMem, .channels, .stackRegs, .hostMem, .heldWrites, .contextSwitch, .fabric, .hif, .out] v (Dev.answered v r bs) := by
  unfold Dev.answered
  try dsimp only
  repeat' first
    | with_reducible exact Dev.Within.refl _ _
    | with_reducible assumption
    | (with_reducible apply Dev.Within.step (Dev.dmaAnswer_within _ _ _ _ _ _)); · decide
    | (with_reducible apply Dev.Within.step (Dev.dmaRead_within _ _ _ _ _)); · decide
    | (with_reducible apply Dev.Within.step (Dev.dmaWrite_within _ _ _ _ _ _)); · decide
    | (with_reducible apply Dev.Within.step (Dev.sclAnswer_within _ _ _ _)); · decide
    | (with_reducible apply Dev.Within.step (Dev.sclLoad_within _ _ _ _ _ _ _ _ _)); · decide
    | (with_reducible apply Dev.Within.step (Dev.sclStore_within _ _ _ _ _ _ _)); · decide
    | (with_reducible apply Dev.Within.step (Dev.sealRead_within _ _ _)); · decide
    | (with_reducible apply Dev.Within.step (Dev.modDmaCh_within _ _ _ _)); · decide
    | (with_reducible apply Dev.Within.ite)
    | (with_reducible apply Dev.Within.iteFst <;> try dsimp only)
    | (with_reducible apply Dev.Within.iteSnd <;> try dsimp only)
    | (intro _; try dsimp only)
    | (with_reducible apply Dev.Within.ofSnd; · with_reducible assumption)
    | (with_reducible apply Dev.Within.ofThird; · with_reducible assumption)
    | (with_reducible apply Dev.Within.ofFst; · with_reducible assumption)
    | (split <;> try dsimp only)
theorem Dev.acked_within (v : Dev) (r : Req) : Dev.Within [.schedules, .streams, .spads, .caches, .contexts, .dmas, .coreRegs, .counters, .syncStatus, .stackMem, .channels, .stackRegs, .hostMem, .heldWrites, .faults, .contextSwitch, .fabric, .hif, .out] v (Dev.acked v r) := by
  unfold Dev.acked
  try dsimp only
  repeat' first
    | with_reducible exact Dev.Within.refl _ _
    | with_reducible assumption
    | (with_reducible apply Dev.Within.step (Dev.dmaLanded_within _ _ _ _ _)); · decide
    | (with_reducible apply Dev.Within.step (Dev.dmaRead_within _ _ _ _ _)); · decide
    | (with_reducible apply Dev.Within.step (Dev.dmaWrite_within _ _ _ _ _ _)); · decide
    | (with_reducible apply Dev.Within.step (Dev.sclLanded_within _ _ _)); · decide
    | (with_reducible apply Dev.Within.step (Dev.sclLoad_within _ _ _ _ _ _ _ _ _)); · decide
    | (with_reducible apply Dev.Within.step (Dev.sclStore_within _ _ _ _ _ _ _)); · decide
    | (with_reducible apply Dev.Within.step (Dev.sealRead_within _ _ _)); · decide
    | (with_reducible apply Dev.Within.ite)
    | (with_reducible apply Dev.Within.iteFst <;> try dsimp only)
    | (with_reducible apply Dev.Within.iteSnd <;> try dsimp only)
    | (intro _; try dsimp only)
    | (with_reducible apply Dev.Within.ofSnd; · with_reducible assumption)
    | (with_reducible apply Dev.Within.ofThird; · with_reducible assumption)
    | (with_reducible apply Dev.Within.ofFst; · with_reducible assumption)
    | (split <;> try dsimp only)
theorem Dev.refusedReq_within (v : Dev) (r : Req) : Dev.Within [.schedules, .streams, .spads, .caches, .contexts, .dmas, .coreRegs, .counters, .syncStatus, .stackMem, .channels, .stackRegs, .hostMem, .heldWrites, .faults, .contextSwitch, .fabric, .hif, .out] v (Dev.refusedReq v r) := by
  unfold Dev.refusedReq
  try dsimp only
  repeat' first
    | with_reducible exact Dev.Within.refl _ _
    | with_reducible assumption
    | (with_reducible apply Dev.Within.step (Dev.dmaAnswerBad_within _ _ _ _ _)); · decide
    | (with_reducible apply Dev.Within.step (Dev.dmaError_within _ _ _ _ _)); · decide
    | (with_reducible apply Dev.Within.step (Dev.dmaRead_within _ _ _ _ _)); · decide
    | (with_reducible apply Dev.Within.step (Dev.dmaWrite_within _ _ _ _ _ _)); · decide
    | (with_reducible apply Dev.Within.step (Dev.dmaWriteBad_within _ _ _ _ _ _)); · decide
    | (with_reducible apply Dev.Within.step (Dev.sclAnswerBad_within _ _ _)); · decide
    | (with_reducible apply Dev.Within.step (Dev.sclLoad_within _ _ _ _ _ _ _ _ _)); · decide
    | (with_reducible apply Dev.Within.step (Dev.sclStore_within _ _ _ _ _ _ _)); · decide
    | (with_reducible apply Dev.Within.step (Dev.sclStoreBad_within _ _ _ _)); · decide
    | (with_reducible apply Dev.Within.step (Dev.sealRead_within _ _ _)); · decide
    | (with_reducible apply Dev.Within.step (Dev.modDmaCh_within _ _ _ _)); · decide
    | (with_reducible apply Dev.Within.ite)
    | (with_reducible apply Dev.Within.iteFst <;> try dsimp only)
    | (with_reducible apply Dev.Within.iteSnd <;> try dsimp only)
    | (intro _; try dsimp only)
    | (with_reducible apply Dev.Within.ofSnd; · with_reducible assumption)
    | (with_reducible apply Dev.Within.ofThird; · with_reducible assumption)
    | (with_reducible apply Dev.Within.ofFst; · with_reducible assumption)
    | (split <;> try dsimp only)
theorem Dev.respond_within {F : List Part} {u₀ : Dev} {v : Dev} {die : Nat} {p : Packet} {ok : Req → Bool} {act : Dev → Req → Dev}  (hb : ([.schedules, .streams, .spads, .caches, .contexts, .dmas, .coreRegs, .counters, .syncStatus, .stackMem, .channels, .stackRegs, .hostMem, .heldWrites, .faults, .contextSwitch, .fabric, .hif, .free, .out].all fun p => F.contains p) = true) (h_act : ∀ (w : Dev) (q0 : Req), Dev.Within F w (act w q0)) (h : Dev.Within F u₀ v) : Dev.Within F u₀ (Dev.respond v die p ok act) := by
  unfold Dev.respond
  try dsimp only
  repeat' first
    | with_reducible exact Dev.Within.refl _ _
    | with_reducible assumption
    | (with_reducible apply Dev.Within.after (h_act _ _))
    | (with_reducible apply Dev.Within.step (Dev.dropReq_within _ _ _)); · first | decide | exact Dev.Within.sub (by decide) hb
    | (with_reducible apply Dev.Within.step (Dev.releaseHeld_within _)); · first | decide | exact Dev.Within.sub (by decide) hb
    | (with_reducible apply Dev.Within.ite)
    | (with_reducible apply Dev.Within.iteFst <;> try dsimp only)
    | (with_reducible apply Dev.Within.iteSnd <;> try dsimp only)
    | (intro _; try dsimp only)
    | (with_reducible apply Dev.Within.ofSnd; · with_reducible assumption)
    | (with_reducible apply Dev.Within.ofThird; · with_reducible assumption)
    | (with_reducible apply Dev.Within.ofFst; · with_reducible assumption)
    | (split <;> try dsimp only)
theorem Dev.ackTimeout_within (v : Dev) (die : Nat) (i : Nat) : Dev.Within [.schedules, .streams, .spads, .caches, .contexts, .dmas, .coreRegs, .counters, .syncStatus, .stackMem, .channels, .stackRegs, .hostMem, .heldWrites, .faults, .contextSwitch, .fabric, .hif, .free, .out] v (Dev.ackTimeout v die i) := by
  unfold Dev.ackTimeout
  try dsimp only
  repeat' first
    | with_reducible exact Dev.Within.refl _ _
    | with_reducible assumption
    | (with_reducible apply Dev.Within.step (Dev.dmaRead_within _ _ _ _ _)); · decide
    | (with_reducible apply Dev.Within.step (Dev.dmaWrite_within _ _ _ _ _ _)); · decide
    | (with_reducible apply Dev.Within.step (Dev.dropReq_within _ _ _)); · decide
    | (with_reducible apply Dev.Within.step (Dev.ev_within _ _ _ _ _ _)); · decide
    | (with_reducible apply Dev.Within.step (Dev.refusedReq_within _ _)); · decide
    | (with_reducible apply Dev.Within.step (Dev.releaseHeld_within _)); · decide
    | (with_reducible apply Dev.Within.step (Dev.sclLoad_within _ _ _ _ _ _ _ _ _)); · decide
    | (with_reducible apply Dev.Within.step (Dev.sclStore_within _ _ _ _ _ _ _)); · decide
    | (with_reducible apply Dev.Within.step (Dev.sealRead_within _ _ _)); · decide
    | (with_reducible apply Dev.Within.step (Dev.modFabD_within _ _ _)); · decide
    | (with_reducible apply Dev.Within.ite)
    | (with_reducible apply Dev.Within.iteFst <;> try dsimp only)
    | (with_reducible apply Dev.Within.iteSnd <;> try dsimp only)
    | (intro _; try dsimp only)
    | (with_reducible apply Dev.Within.ofSnd; · with_reducible assumption)
    | (with_reducible apply Dev.Within.ofThird; · with_reducible assumption)
    | (with_reducible apply Dev.Within.ofFst; · with_reducible assumption)
    | (split <;> try dsimp only)
theorem Dev.linkDown_within (v : Dev) (l : Nat) : Dev.Within [.fabric, .links, .hif] v (Dev.linkDown v l) := by
  unfold Dev.linkDown
  try dsimp only
  repeat' first
    | with_reducible exact Dev.Within.refl _ _
    | with_reducible assumption
    | (with_reducible apply Dev.Within.step (Dev.ev_within _ _ _ _ _ _)); · decide
    | (with_reducible apply Dev.Within.step (Dev.linksChanged_within _ _)); · decide
    | (with_reducible apply Dev.Within.step (Dev.modLinkN_within _ _ _)); · decide
    | (with_reducible apply Dev.Within.ite)
    | (with_reducible apply Dev.Within.iteFst <;> try dsimp only)
    | (with_reducible apply Dev.Within.iteSnd <;> try dsimp only)
    | (intro _; try dsimp only)
    | (with_reducible apply Dev.Within.ofSnd; · with_reducible assumption)
    | (with_reducible apply Dev.Within.ofThird; · with_reducible assumption)
    | (with_reducible apply Dev.Within.ofFst; · with_reducible assumption)
    | (split <;> try dsimp only)
theorem Dev.laneFail_within (v : Dev) (l : Nat) (lane : Nat) : Dev.Within [.fabric, .links, .hif] v (Dev.laneFail v l lane) := by
  unfold Dev.laneFail
  try dsimp only
  repeat' first
    | with_reducible exact Dev.Within.refl _ _
    | with_reducible assumption
    | (with_reducible apply Dev.Within.step (Dev.ev_within _ _ _ _ _ _)); · decide
    | (with_reducible apply Dev.Within.step (Dev.linkDown_within _ _)); · decide
    | (with_reducible apply Dev.Within.step (Dev.modLinkN_within _ _ _)); · decide
    | (with_reducible apply Dev.Within.ite)
    | (with_reducible apply Dev.Within.iteFst <;> try dsimp only)
    | (with_reducible apply Dev.Within.iteSnd <;> try dsimp only)
    | (intro _; try dsimp only)
    | (with_reducible apply Dev.Within.ofSnd; · with_reducible assumption)
    | (with_reducible apply Dev.Within.ofThird; · with_reducible assumption)
    | (with_reducible apply Dev.Within.ofFst; · with_reducible assumption)
    | (split <;> try dsimp only)
theorem Dev.linkReplay_within (v : Dev) (l : Nat) (uncorrected : Bool) (good : Bool) : Dev.Within [.fabric, .links, .hif] v (Dev.linkReplay v l uncorrected good) := by
  unfold Dev.linkReplay
  try dsimp only
  repeat' first
    | with_reducible exact Dev.Within.refl _ _
    | with_reducible assumption
    | (with_reducible apply Dev.Within.step (Dev.linkDown_within _ _)); · decide
    | (with_reducible apply Dev.Within.step (Dev.modLinkN_within _ _ _)); · decide
    | (with_reducible apply Dev.Within.ite)
    | (with_reducible apply Dev.Within.iteFst <;> try dsimp only)
    | (with_reducible apply Dev.Within.iteSnd <;> try dsimp only)
    | (intro _; try dsimp only)
    | (with_reducible apply Dev.Within.ofSnd; · with_reducible assumption)
    | (with_reducible apply Dev.Within.ofThird; · with_reducible assumption)
    | (with_reducible apply Dev.Within.ofFst; · with_reducible assumption)
    | (split <;> try dsimp only)
theorem Dev.lnkCtlWrite_within (v : Dev) (l : Nat) (x : W32) : Dev.Within [.fabric, .links] v (Dev.lnkCtlWrite v l x) := by
  unfold Dev.lnkCtlWrite
  try dsimp only
  repeat' first
    | with_reducible exact Dev.Within.refl _ _
    | with_reducible assumption
    | (with_reducible apply Dev.Within.step (Dev.linksChanged_within _ _)); · decide
    | (with_reducible apply Dev.Within.step (Dev.modLinkN_within _ _ _)); · decide
    | (with_reducible apply Dev.Within.ite)
    | (with_reducible apply Dev.Within.iteFst <;> try dsimp only)
    | (with_reducible apply Dev.Within.iteSnd <;> try dsimp only)
    | (intro _; try dsimp only)
    | (with_reducible apply Dev.Within.ofSnd; · with_reducible assumption)
    | (with_reducible apply Dev.Within.ofThird; · with_reducible assumption)
    | (with_reducible apply Dev.Within.ofFst; · with_reducible assumption)
    | (split <;> try dsimp only)
theorem Dev.retrainDone_within (v : Dev) (l : Nat) (lanes : Nat) (delay : Nat) : Dev.Within [.fabric, .links, .hif] v (Dev.retrainDone v l lanes delay) := by
  unfold Dev.retrainDone
  try dsimp only
  repeat' first
    | with_reducible exact Dev.Within.refl _ _
    | with_reducible assumption
    | (with_reducible apply Dev.Within.step (Dev.linkDown_within _ _)); · decide
    | (with_reducible apply Dev.Within.step (Dev.linksChanged_within _ _)); · decide
    | (with_reducible apply Dev.Within.step (Dev.modLinkN_within _ _ _)); · decide
    | (with_reducible apply Dev.Within.ite)
    | (with_reducible apply Dev.Within.iteFst <;> try dsimp only)
    | (with_reducible apply Dev.Within.iteSnd <;> try dsimp only)
    | (intro _; try dsimp only)
    | (with_reducible apply Dev.Within.ofSnd; · with_reducible assumption)
    | (with_reducible apply Dev.Within.ofThird; · with_reducible assumption)
    | (with_reducible apply Dev.Within.ofFst; · with_reducible assumption)
    | (split <;> try dsimp only)
theorem Dev.rxbufWrite_within (v : Dev) (l : Nat) (x : W64) : Dev.Within [.links] v (Dev.rxbufWrite v l x) := by
  unfold Dev.rxbufWrite
  try dsimp only
  repeat' first
    | with_reducible exact Dev.Within.refl _ _
    | with_reducible assumption
    | (with_reducible apply Dev.Within.step (Dev.modLinkN_within _ _ _)); · decide
    | (with_reducible apply Dev.Within.ite)
    | (with_reducible apply Dev.Within.iteFst <;> try dsimp only)
    | (with_reducible apply Dev.Within.iteSnd <;> try dsimp only)
    | (intro _; try dsimp only)
    | (with_reducible apply Dev.Within.ofSnd; · with_reducible assumption)
    | (with_reducible apply Dev.Within.ofThird; · with_reducible assumption)
    | (with_reducible apply Dev.Within.ofFst; · with_reducible assumption)
    | (split <;> try dsimp only)
theorem Dev.landClr_within (v : Dev) (die : Nat) (x : W32) : Dev.Within [.fabric] v (Dev.landClr v die x) := by
  unfold Dev.landClr
  try dsimp only
  repeat' first
    | with_reducible exact Dev.Within.refl _ _
    | with_reducible assumption
    | (with_reducible apply Dev.Within.step (Dev.modFabD_within _ _ _)); · decide
    | (with_reducible apply Dev.Within.ite)
    | (with_reducible apply Dev.Within.iteFst <;> try dsimp only)
    | (with_reducible apply Dev.Within.iteSnd <;> try dsimp only)
    | with_reducible apply Dev.Within.foldlFst
    | with_reducible apply Dev.Within.foldlSnd
    | with_reducible apply Dev.Within.foldl
    | (intro _; try dsimp only)
    | (with_reducible apply Dev.Within.ofSnd; · with_reducible assumption)
    | (with_reducible apply Dev.Within.ofThird; · with_reducible assumption)
    | (with_reducible apply Dev.Within.ofFst; · with_reducible assumption)
    | (split <;> try dsimp only)

end Sys2Proof.Machine
end

