-- ==== Sys2Proof/Laws/Collective.lean ====
section
/-! SUPPORT. What each operation of Machine/Collective may change. -/

namespace Sys2Proof.Machine

theorem Dev.ceSpadBad_within (v : Dev) (c : Nat) (a : Nat) : Dev.Within [.coreRegs, .hif] v (Dev.ceSpadBad v c a) := by
  unfold Dev.ceSpadBad
  try dsimp only
  repeat' first
    | with_reducible exact Dev.Within.refl _ _
    | with_reducible assumption
    | (with_reducible apply Dev.Within.step (Dev.memParity_within _ _ _ _)); · decide
    | (with_reducible apply Dev.Within.ite)
    | (with_reducible apply Dev.Within.iteFst <;> try dsimp only)
    | (with_reducible apply Dev.Within.iteSnd <;> try dsimp only)
    | (intro _; try dsimp only)
    | (with_reducible apply Dev.Within.ofSnd; · with_reducible assumption)
    | (with_reducible apply Dev.Within.ofThird; · with_reducible assumption)
    | (with_reducible apply Dev.Within.ofFst; · with_reducible assumption)
    | (split <;> try dsimp only)
theorem Dev.ceStartBad_within (v : Dev) (k : Nat) (ws : List W64) (z0 : CeBad) : Dev.Within [.schedules, .streams, .spads, .caches, .contexts, .dmas, .coreRegs, .counters, .syncStatus, .stackMem, .channels, .stackRegs, .hostMem, .heldWrites, .faults, .contextSwitch, .fabric, .hif, .out] v (Dev.ceStartBad v k ws z0) := by
  unfold Dev.ceStartBad
  try dsimp only
  repeat' first
    | with_reducible exact Dev.Within.refl _ _
    | with_reducible assumption
    | (with_reducible apply Dev.Within.step (Dev.ceSpadBad_within _ _ _)); · decide
    | (with_reducible apply Dev.Within.step (Dev.faultStream_within _ _ _ _ _)); · decide
    | (with_reducible apply Dev.Within.step (Dev.pathFail_within _ _ _ _ _)); · decide
    | (with_reducible apply Dev.Within.step (Dev.startFail_within _ _ _ _ _ _)); · decide
    | (with_reducible apply Dev.Within.ite)
    | (with_reducible apply Dev.Within.iteFst <;> try dsimp only)
    | (with_reducible apply Dev.Within.iteSnd <;> try dsimp only)
    | (intro _; try dsimp only)
    | (with_reducible apply Dev.Within.ofSnd; · with_reducible assumption)
    | (with_reducible apply Dev.Within.ofThird; · with_reducible assumption)
    | (with_reducible apply Dev.Within.ofFst; · with_reducible assumption)
    | (split <;> try dsimp only)
theorem Dev.ceFlightBad_within (v : Dev) (k : Nat) (idx : Nat) (b : CeBad) : Dev.Within [.schedules, .streams, .spads, .caches, .contexts, .dmas, .coreRegs, .counters, .syncStatus, .stackMem, .channels, .stackRegs, .hostMem, .heldWrites, .faults, .contextSwitch, .fabric, .hif, .out] v (Dev.ceFlightBad v k idx b) := by
  unfold Dev.ceFlightBad
  try dsimp only
  repeat' first
    | with_reducible exact Dev.Within.refl _ _
    | with_reducible assumption
    | (with_reducible apply Dev.Within.step (Dev.ceSpadBad_within _ _ _)); · decide
    | (with_reducible apply Dev.Within.step (Dev.faultStream_within _ _ _ _ _)); · decide
    | (with_reducible apply Dev.Within.step (Dev.modFlight_within _ _ _ _)); · decide
    | (with_reducible apply Dev.Within.step (Dev.pathError_within _ _ _)); · decide
    | (with_reducible apply Dev.Within.ite)
    | (with_reducible apply Dev.Within.iteFst <;> try dsimp only)
    | (with_reducible apply Dev.Within.iteSnd <;> try dsimp only)
    | (intro _; try dsimp only)
    | (with_reducible apply Dev.Within.ofSnd; · with_reducible assumption)
    | (with_reducible apply Dev.Within.ofThird; · with_reducible assumption)
    | (with_reducible apply Dev.Within.ofFst; · with_reducible assumption)
    | (split <;> try dsimp only)
theorem Dev.deliver_within (v : Dev) (die : Nat) (p : Packet) : Dev.Within [.schedules, .streams, .spads, .caches, .contexts, .dmas, .coreRegs, .counters, .syncStatus, .stackMem, .channels, .stackRegs, .hostMem, .heldWrites, .faults, .contextSwitch, .fabric, .links, .hif, .free, .out] v (Dev.deliver v die p) := by
  unfold Dev.deliver
  try dsimp only
  repeat' first
    | with_reducible exact Dev.Within.refl _ _
    | with_reducible assumption
    | (with_reducible apply Dev.Within.step (Dev.arriveWrite_within _ _ _ _ _ _ _ _)); · decide
    | (with_reducible apply Dev.Within.step (Dev.landDone_within _ _ _ _ _)); · decide
    | (with_reducible apply Dev.Within.step (Dev.lateDiscard_within _ _)); · decide
    | (with_reducible apply Dev.Within.step (Dev.packetLanded_within _ _ _ _)); · decide
    | (with_reducible apply Dev.Within.ite)
    | (with_reducible apply Dev.Within.iteFst <;> try dsimp only)
    | (with_reducible apply Dev.Within.iteSnd <;> try dsimp only)
    | (intro _; try dsimp only)
    | (with_reducible apply Dev.Within.ofSnd; · with_reducible assumption)
    | (with_reducible apply Dev.Within.ofThird; · with_reducible assumption)
    | (with_reducible apply Dev.Within.ofFst; · with_reducible assumption)
    | (split <;> try dsimp only)
theorem Dev.ceSendAll_within (v : Dev) (die : Nat) (chip : Nat) (lid : Nat) (tag : Nat) (z0 : List (Nat × Nat × List Byte)) : Dev.Within [.schedules, .streams, .spads, .caches, .contexts, .dmas, .coreRegs, .counters, .syncStatus, .stackMem, .channels, .stackRegs, .hostMem, .heldWrites, .faults, .contextSwitch, .fabric, .links, .hif, .free, .out] v (Dev.ceSendAll v die chip lid tag z0).2 := by
  induction z0 generalizing v die chip lid tag with
  | nil => unfold Dev.ceSendAll; exact Dev.Within.refl _ _
  | cons x xs ih =>
    unfold Dev.ceSendAll
    try dsimp only
    repeat' first
      | with_reducible exact Dev.Within.refl _ _
      | with_reducible assumption
      | (with_reducible apply Dev.Within.step (ih _ _ _ _ _)); · decide
      | (with_reducible apply Dev.Within.step (Dev.deliver_within _ _ _)); · decide
      | (with_reducible apply Dev.Within.step (Dev.sendReq_within _ _ _ _ _ _ _ _ _ _ _)); · decide
      | (with_reducible apply Dev.Within.step (Dev.modFabD_within _ _ _)); · decide
      | (with_reducible apply Dev.Within.ite)
      | (with_reducible apply Dev.Within.iteFst <;> try dsimp only)
      | (with_reducible apply Dev.Within.iteSnd <;> try dsimp only)
      | (intro _; try dsimp only)
      | (with_reducible apply Dev.Within.ofSnd; · with_reducible assumption)
      | (with_reducible apply Dev.Within.ofThird; · with_reducible assumption)
      | (with_reducible apply Dev.Within.ofFst; · with_reducible assumption)
      | (split <;> try dsimp only)
theorem Dev.ceSend_within (v : Dev) (die : Nat) : Dev.Within [.schedules, .streams, .spads, .caches, .contexts, .dmas, .coreRegs, .counters, .syncStatus, .stackMem, .channels, .stackRegs, .hostMem, .heldWrites, .faults, .contextSwitch, .fabric, .links, .hif, .free, .out] v (Dev.ceSend v die) := by
  unfold Dev.ceSend
  try dsimp only
  repeat' first
    | with_reducible exact Dev.Within.refl _ _
    | with_reducible assumption
    | (with_reducible apply Dev.Within.step (Dev.ceSendAll_within _ _ _ _ _ _)); · decide
    | (with_reducible apply Dev.Within.step (Dev.ceStartBad_within _ _ _ _)); · decide
    | (with_reducible apply Dev.Within.step (Dev.nextHead_within _ _)); · decide
    | (with_reducible apply Dev.Within.step (Dev.startFail_within _ _ _ _ _ _)); · decide
    | (with_reducible apply Dev.Within.step (Dev.started_within _ _ _ _)); · decide
    | (with_reducible apply Dev.Within.ite)
    | (with_reducible apply Dev.Within.iteFst <;> try dsimp only)
    | (with_reducible apply Dev.Within.iteSnd <;> try dsimp only)
    | (intro _; try dsimp only)
    | (with_reducible apply Dev.Within.ofSnd; · with_reducible assumption)
    | (with_reducible apply Dev.Within.ofThird; · with_reducible assumption)
    | (with_reducible apply Dev.Within.ofFst; · with_reducible assumption)
    | (split <;> try dsimp only)
theorem Dev.ceFinish_within (v : Dev) (die : Nat) (f : Flight) (rs : Option (List Nat)) (cc : Nat) (sat : Nat) : Dev.Within [.streams, .spads, .counters, .syncStatus, .stackMem, .channels, .stackRegs, .hostMem, .heldWrites, .contextSwitch, .hif] v (Dev.ceFinish v die f rs cc sat) := by
  unfold Dev.ceFinish
  try dsimp only
  repeat' first
    | with_reducible exact Dev.Within.refl _ _
    | with_reducible assumption
    | (with_reducible apply Dev.Within.step (Dev.modFlight_within _ _ _ _)); · decide
    | (with_reducible apply Dev.Within.step (Dev.submit_within _ _ _ _)); · decide
    | (with_reducible apply Dev.Within.step (Dev.wrGlobal_within _ _ _ _ _ _)); · decide
    | (with_reducible apply Dev.Within.ite)
    | (with_reducible apply Dev.Within.iteFst <;> try dsimp only)
    | (with_reducible apply Dev.Within.iteSnd <;> try dsimp only)
    | (intro _; try dsimp only)
    | (with_reducible apply Dev.Within.ofSnd; · with_reducible assumption)
    | (with_reducible apply Dev.Within.ofThird; · with_reducible assumption)
    | (with_reducible apply Dev.Within.ofFst; · with_reducible assumption)
    | (split <;> try dsimp only)
theorem Dev.ceCombineNow_within (v : Dev) (die : Nat) (f : Flight) : Dev.Within [.schedules, .streams, .spads, .caches, .contexts, .dmas, .coreRegs, .counters, .syncStatus, .stackMem, .channels, .stackRegs, .hostMem, .heldWrites, .faults, .contextSwitch, .fabric, .hif, .out] v (Dev.ceCombineNow v die f) := by
  unfold Dev.ceCombineNow
  try dsimp only
  repeat' first
    | with_reducible exact Dev.Within.refl _ _
    | with_reducible assumption
    | (with_reducible apply Dev.Within.step (Dev.ceFinish_within _ _ _ _ _ _)); · decide
    | (with_reducible apply Dev.Within.step (Dev.ceFlightBad_within _ _ _ _)); · decide
    | (with_reducible apply Dev.Within.step (Dev.faultStream_within _ _ _ _ _)); · decide
    | (with_reducible apply Dev.Within.step (Dev.modFlight_within _ _ _ _)); · decide
    | (with_reducible apply Dev.Within.step (Dev.modLand_within _ _ _ _)); · decide
    | (with_reducible apply Dev.Within.ite)
    | (with_reducible apply Dev.Within.iteFst <;> try dsimp only)
    | (with_reducible apply Dev.Within.iteSnd <;> try dsimp only)
    | (intro _; try dsimp only)
    | (with_reducible apply Dev.Within.ofSnd; · with_reducible assumption)
    | (with_reducible apply Dev.Within.ofThird; · with_reducible assumption)
    | (with_reducible apply Dev.Within.ofFst; · with_reducible assumption)
    | (split <;> try dsimp only)
theorem Dev.ceRecv_within (v : Dev) (die : Nat) : Dev.Within [.schedules, .streams, .spads, .caches, .contexts, .dmas, .coreRegs, .counters, .syncStatus, .stackMem, .channels, .stackRegs, .hostMem, .heldWrites, .faults, .contextSwitch, .fabric, .hif, .out] v (Dev.ceRecv v die) := by
  unfold Dev.ceRecv
  try dsimp only
  repeat' first
    | with_reducible exact Dev.Within.refl _ _
    | with_reducible assumption
    | (with_reducible apply Dev.Within.step (Dev.ceCombineNow_within _ _ _)); · decide
    | (with_reducible apply Dev.Within.step (Dev.nextHead_within _ _)); · decide
    | (with_reducible apply Dev.Within.step (Dev.started_within _ _ _ _)); · decide
    | (with_reducible apply Dev.Within.ite)
    | (with_reducible apply Dev.Within.iteFst <;> try dsimp only)
    | (with_reducible apply Dev.Within.iteSnd <;> try dsimp only)
    | (intro _; try dsimp only)
    | (with_reducible apply Dev.Within.ofSnd; · with_reducible assumption)
    | (with_reducible apply Dev.Within.ofThird; · with_reducible assumption)
    | (with_reducible apply Dev.Within.ofFst; · with_reducible assumption)
    | (split <;> try dsimp only)
theorem Dev.ceTolerated_within (v : Dev) (die : Nat) : Dev.Within [.schedules, .streams, .spads, .caches, .contexts, .dmas, .coreRegs, .counters, .syncStatus, .stackMem, .channels, .stackRegs, .hostMem, .heldWrites, .faults, .contextSwitch, .fabric, .hif, .out] v (Dev.ceTolerated v die) := by
  unfold Dev.ceTolerated
  try dsimp only
  repeat' first
    | with_reducible exact Dev.Within.refl _ _
    | with_reducible assumption
    | (with_reducible apply Dev.Within.step (Dev.ceFinish_within _ _ _ _ _ _)); · decide
    | (with_reducible apply Dev.Within.step (Dev.ceFlightBad_within _ _ _ _)); · decide
    | (with_reducible apply Dev.Within.step (Dev.ev_within _ _ _ _ _ _)); · decide
    | (with_reducible apply Dev.Within.step (Dev.modFabD_within _ _ _)); · decide
    | (with_reducible apply Dev.Within.step (Dev.modLand_within _ _ _ _)); · decide
    | (with_reducible apply Dev.Within.ite)
    | (with_reducible apply Dev.Within.iteFst <;> try dsimp only)
    | (with_reducible apply Dev.Within.iteSnd <;> try dsimp only)
    | (intro _; try dsimp only)
    | (with_reducible apply Dev.Within.ofSnd; · with_reducible assumption)
    | (with_reducible apply Dev.Within.ofThird; · with_reducible assumption)
    | (with_reducible apply Dev.Within.ofFst; · with_reducible assumption)
    | (split <;> try dsimp only)
theorem Dev.ceNorm_within (v : Dev) (die : Nat) : Dev.Within [.schedules, .streams, .spads, .caches, .contexts, .dmas, .coreRegs, .counters, .syncStatus, .stackMem, .channels, .stackRegs, .hostMem, .heldWrites, .faults, .contextSwitch, .fabric, .hif, .out] v (Dev.ceNorm v die) := by
  unfold Dev.ceNorm
  try dsimp only
  repeat' first
    | with_reducible exact Dev.Within.refl _ _
    | with_reducible assumption
    | (with_reducible apply Dev.Within.step (Dev.ceStartBad_within _ _ _ _)); · decide
    | (with_reducible apply Dev.Within.step (Dev.nextHead_within _ _)); · decide
    | (with_reducible apply Dev.Within.step (Dev.started_within _ _ _ _)); · decide
    | (with_reducible apply Dev.Within.step (Dev.wrGlobal_within _ _ _ _ _ _)); · decide
    | (with_reducible apply Dev.Within.ite)
    | (with_reducible apply Dev.Within.iteFst <;> try dsimp only)
    | (with_reducible apply Dev.Within.iteSnd <;> try dsimp only)
    | (intro _; try dsimp only)
    | (with_reducible apply Dev.Within.ofSnd; · with_reducible assumption)
    | (with_reducible apply Dev.Within.ofThird; · with_reducible assumption)
    | (with_reducible apply Dev.Within.ofFst; · with_reducible assumption)
    | (split <;> try dsimp only)
theorem Dev.fenceEnd_within (v : Dev) (die : Nat) (f : Flight) : Dev.Within [.schedules, .streams, .spads, .caches, .contexts, .dmas, .coreRegs, .counters, .syncStatus, .stackMem, .channels, .stackRegs, .hostMem, .heldWrites, .faults, .contextSwitch, .fabric, .hif, .out] v (Dev.fenceEnd v die f) := by
  unfold Dev.fenceEnd
  try dsimp only
  repeat' first
    | with_reducible exact Dev.Within.refl _ _
    | with_reducible assumption
    | (with_reducible apply Dev.Within.step (Dev.ev_within _ _ _ _ _ _)); · decide
    | (with_reducible apply Dev.Within.step (Dev.faultStream_within _ _ _ _ _)); · decide
    | (with_reducible apply Dev.Within.step (Dev.modFlight_within _ _ _ _)); · decide
    | (with_reducible apply Dev.Within.step (Dev.modFabD_within _ _ _)); · decide
    | (with_reducible apply Dev.Within.ite)
    | (with_reducible apply Dev.Within.iteFst <;> try dsimp only)
    | (with_reducible apply Dev.Within.iteSnd <;> try dsimp only)
    | (intro _; try dsimp only)
    | (with_reducible apply Dev.Within.ofSnd; · with_reducible assumption)
    | (with_reducible apply Dev.Within.ofThird; · with_reducible assumption)
    | (with_reducible apply Dev.Within.ofFst; · with_reducible assumption)
    | (split <;> try dsimp only)
theorem Dev.ceFence_within (v : Dev) (die : Nat) : Dev.Within [.schedules, .streams, .spads, .caches, .contexts, .dmas, .coreRegs, .counters, .syncStatus, .stackMem, .channels, .stackRegs, .hostMem, .heldWrites, .faults, .contextSwitch, .fabric, .hif, .out] v (Dev.ceFence v die) := by
  unfold Dev.ceFence
  try dsimp only
  repeat' first
    | with_reducible exact Dev.Within.refl _ _
    | with_reducible assumption
    | (with_reducible apply Dev.Within.step (Dev.fenceEnd_within _ _ _)); · decide
    | (with_reducible apply Dev.Within.step (Dev.nextHead_within _ _)); · decide
    | (with_reducible apply Dev.Within.step (Dev.started_within _ _ _ _)); · decide
    | (with_reducible apply Dev.Within.ite)
    | (with_reducible apply Dev.Within.iteFst <;> try dsimp only)
    | (with_reducible apply Dev.Within.iteSnd <;> try dsimp only)
    | (intro _; try dsimp only)
    | (with_reducible apply Dev.Within.ofSnd; · with_reducible assumption)
    | (with_reducible apply Dev.Within.ofThird; · with_reducible assumption)
    | (with_reducible apply Dev.Within.ofFst; · with_reducible assumption)
    | (split <;> try dsimp only)

end Sys2Proof.Machine
end

