-- ==== Sys2Proof/Laws/Weather.lean ====
section
/-! SUPPORT. What each operation of Machine/Weather may change. -/

namespace Sys2Proof.Machine

theorem Dev.powerEdge_within (old : Dev) (v : Dev) : Dev.Within [.hif] v (Dev.powerEdge old v) := by
  unfold Dev.powerEdge
  try dsimp only
  repeat' first
    | with_reducible exact Dev.Within.refl _ _
    | with_reducible assumption
    | (with_reducible apply Dev.Within.step (Dev.evMgmt_within _ _ _ _)); · decide
    | (with_reducible apply Dev.Within.ite)
    | (with_reducible apply Dev.Within.iteFst <;> try dsimp only)
    | (with_reducible apply Dev.Within.iteSnd <;> try dsimp only)
    | (intro _; try dsimp only)
    | (with_reducible apply Dev.Within.ofSnd; · with_reducible assumption)
    | (with_reducible apply Dev.Within.ofThird; · with_reducible assumption)
    | (with_reducible apply Dev.Within.ofFst; · with_reducible assumption)
    | (split <;> try dsimp only)
theorem Dev.sendW_within (v : Dev) (m : WMsg) : Dev.Within [.out] v (Dev.sendW v m) := by
  unfold Dev.sendW
  try dsimp only
  repeat' first
    | with_reducible exact Dev.Within.refl _ _
    | with_reducible assumption
    | (with_reducible apply Dev.Within.step (Dev.send_within _ _)); · decide
    | (with_reducible apply Dev.Within.ite)
    | (with_reducible apply Dev.Within.iteFst <;> try dsimp only)
    | (with_reducible apply Dev.Within.iteSnd <;> try dsimp only)
    | (intro _; try dsimp only)
    | (with_reducible apply Dev.Within.ofSnd; · with_reducible assumption)
    | (with_reducible apply Dev.Within.ofThird; · with_reducible assumption)
    | (with_reducible apply Dev.Within.ofFst; · with_reducible assumption)
    | (split <;> try dsimp only)
theorem Dev.modMember_within (v : Dev) (chip : Nat) (g : Member → Member) : Dev.Within [.master] v (Dev.modMember v chip g) := by
  unfold Dev.modMember
  try dsimp only
  repeat' first
    | with_reducible exact Dev.Within.refl _ _
    | with_reducible assumption
    | (with_reducible apply Dev.Within.step (Dev.modMst_within _ _)); · decide
    | (with_reducible apply Dev.Within.ite)
    | (with_reducible apply Dev.Within.iteFst <;> try dsimp only)
    | (with_reducible apply Dev.Within.iteSnd <;> try dsimp only)
    | (intro _; try dsimp only)
    | (with_reducible apply Dev.Within.ofSnd; · with_reducible assumption)
    | (with_reducible apply Dev.Within.ofThird; · with_reducible assumption)
    | (with_reducible apply Dev.Within.ofFst; · with_reducible assumption)
    | (split <;> try dsimp only)
theorem Dev.freezeNow_within (v : Dev) : Dev.Within [.time] v (Dev.freezeNow v) := by
  unfold Dev.freezeNow
  try dsimp only
  repeat' first
    | with_reducible exact Dev.Within.refl _ _
    | with_reducible assumption
    | (with_reducible apply Dev.Within.step (Dev.modFt_within _ _)); · decide
    | (with_reducible apply Dev.Within.ite)
    | (with_reducible apply Dev.Within.iteFst <;> try dsimp only)
    | (with_reducible apply Dev.Within.iteSnd <;> try dsimp only)
    | (intro _; try dsimp only)
    | (with_reducible apply Dev.Within.ofSnd; · with_reducible assumption)
    | (with_reducible apply Dev.Within.ofThird; · with_reducible assumption)
    | (with_reducible apply Dev.Within.ofFst; · with_reducible assumption)
    | (split <;> try dsimp only)
theorem Dev.freezeTo_within (v : Dev) (tf : Nat) : Dev.Within [.time] v (Dev.freezeTo v tf) := by
  unfold Dev.freezeTo
  try dsimp only
  repeat' first
    | with_reducible exact Dev.Within.refl _ _
    | with_reducible assumption
    | (with_reducible apply Dev.Within.step (Dev.freezeNow_within _)); · decide
    | (with_reducible apply Dev.Within.step (Dev.modFt_within _ _)); · decide
    | (with_reducible apply Dev.Within.ite)
    | (with_reducible apply Dev.Within.iteFst <;> try dsimp only)
    | (with_reducible apply Dev.Within.iteSnd <;> try dsimp only)
    | (intro _; try dsimp only)
    | (with_reducible apply Dev.Within.ofSnd; · with_reducible assumption)
    | (with_reducible apply Dev.Within.ofThird; · with_reducible assumption)
    | (with_reducible apply Dev.Within.ofFst; · with_reducible assumption)
    | (split <;> try dsimp only)
theorem Dev.masterFreeze_within (v : Dev) (tf : Nat) : Dev.Within [.time, .master, .out] v (Dev.masterFreeze v tf) := by
  unfold Dev.masterFreeze
  try dsimp only
  repeat' first
    | with_reducible exact Dev.Within.refl _ _
    | with_reducible assumption
    | (with_reducible apply Dev.Within.step (Dev.freezeTo_within _ _)); · decide
    | (with_reducible apply Dev.Within.step (Dev.sendW_within _ _)); · decide
    | (with_reducible apply Dev.Within.step (Dev.modMst_within _ _)); · decide
    | (with_reducible apply Dev.Within.ite)
    | (with_reducible apply Dev.Within.iteFst <;> try dsimp only)
    | (with_reducible apply Dev.Within.iteSnd <;> try dsimp only)
    | (intro _; try dsimp only)
    | (with_reducible apply Dev.Within.ofSnd; · with_reducible assumption)
    | (with_reducible apply Dev.Within.ofThird; · with_reducible assumption)
    | (with_reducible apply Dev.Within.ofFst; · with_reducible assumption)
    | (split <;> try dsimp only)
theorem Dev.takeFreqReq_within (v : Dev) (chip : Nat) (arg : Nat) : Dev.Within [.master] v (Dev.takeFreqReq v chip arg) := by
  unfold Dev.takeFreqReq
  try dsimp only
  repeat' first
    | with_reducible exact Dev.Within.refl _ _
    | with_reducible assumption
    | (with_reducible apply Dev.Within.step (Dev.modMember_within _ _ _)); · decide
    | (with_reducible apply Dev.Within.ite)
    | (with_reducible apply Dev.Within.iteFst <;> try dsimp only)
    | (with_reducible apply Dev.Within.iteSnd <;> try dsimp only)
    | (intro _; try dsimp only)
    | (with_reducible apply Dev.Within.ofSnd; · with_reducible assumption)
    | (with_reducible apply Dev.Within.ofThird; · with_reducible assumption)
    | (with_reducible apply Dev.Within.ofFst; · with_reducible assumption)
    | (split <;> try dsimp only)
theorem Dev.takeLate_within (v : Dev) (chip : Nat) (arg : Nat) : Dev.Within [.master] v (Dev.takeLate v chip arg) := by
  unfold Dev.takeLate
  try dsimp only
  repeat' first
    | with_reducible exact Dev.Within.refl _ _
    | with_reducible assumption
    | (with_reducible apply Dev.Within.step (Dev.modMember_within _ _ _)); · decide
    | (with_reducible apply Dev.Within.step (Dev.modMst_within _ _)); · decide
    | (with_reducible apply Dev.Within.ite)
    | (with_reducible apply Dev.Within.iteFst <;> try dsimp only)
    | (with_reducible apply Dev.Within.iteSnd <;> try dsimp only)
    | (intro _; try dsimp only)
    | (with_reducible apply Dev.Within.ofSnd; · with_reducible assumption)
    | (with_reducible apply Dev.Within.ofThird; · with_reducible assumption)
    | (with_reducible apply Dev.Within.ofFst; · with_reducible assumption)
    | (split <;> try dsimp only)
theorem Dev.takeState_within (v : Dev) (chip : Nat) (arg : Nat) (value : Nat) : Dev.Within [.time, .master, .out] v (Dev.takeState v chip arg value) := by
  unfold Dev.takeState
  try dsimp only
  repeat' first
    | with_reducible exact Dev.Within.refl _ _
    | with_reducible assumption
    | (with_reducible apply Dev.Within.step (Dev.masterFreeze_within _ _)); · decide
    | (with_reducible apply Dev.Within.step (Dev.modMember_within _ _ _)); · decide
    | (with_reducible apply Dev.Within.ite)
    | (with_reducible apply Dev.Within.iteFst <;> try dsimp only)
    | (with_reducible apply Dev.Within.iteSnd <;> try dsimp only)
    | (intro _; try dsimp only)
    | (with_reducible apply Dev.Within.ofSnd; · with_reducible assumption)
    | (with_reducible apply Dev.Within.ofThird; · with_reducible assumption)
    | (with_reducible apply Dev.Within.ofFst; · with_reducible assumption)
    | (split <;> try dsimp only)
theorem Dev.sendLate_within (v : Dev) (slip : Nat) (k : Nat) : Dev.Within [.master, .out] v (Dev.sendLate v slip k) := by
  unfold Dev.sendLate
  try dsimp only
  repeat' first
    | with_reducible exact Dev.Within.refl _ _
    | with_reducible assumption
    | (with_reducible apply Dev.Within.step (Dev.sendW_within _ _)); · decide
    | (with_reducible apply Dev.Within.step (Dev.takeLate_within _ _ _)); · decide
    | (with_reducible apply Dev.Within.ite)
    | (with_reducible apply Dev.Within.iteFst <;> try dsimp only)
    | (with_reducible apply Dev.Within.iteSnd <;> try dsimp only)
    | (intro _; try dsimp only)
    | (with_reducible apply Dev.Within.ofSnd; · with_reducible assumption)
    | (with_reducible apply Dev.Within.ofThird; · with_reducible assumption)
    | (with_reducible apply Dev.Within.ofFst; · with_reducible assumption)
    | (split <;> try dsimp only)
theorem Dev.sendState_within (v : Dev) : Dev.Within [.time, .master, .out] v (Dev.sendState v) := by
  unfold Dev.sendState
  try dsimp only
  repeat' first
    | with_reducible exact Dev.Within.refl _ _
    | with_reducible assumption
    | (with_reducible apply Dev.Within.step (Dev.sendW_within _ _)); · decide
    | (with_reducible apply Dev.Within.step (Dev.takeState_within _ _ _ _)); · decide
    | (with_reducible apply Dev.Within.step (Dev.modFt_within _ _)); · decide
    | (with_reducible apply Dev.Within.ite)
    | (with_reducible apply Dev.Within.iteFst <;> try dsimp only)
    | (with_reducible apply Dev.Within.iteSnd <;> try dsimp only)
    | (intro _; try dsimp only)
    | (with_reducible apply Dev.Within.ofSnd; · with_reducible assumption)
    | (with_reducible apply Dev.Within.ofThird; · with_reducible assumption)
    | (with_reducible apply Dev.Within.ofFst; · with_reducible assumption)
    | (split <;> try dsimp only)
theorem Dev.sendFreqReq_within (v : Dev) : Dev.Within [.time, .master, .out] v (Dev.sendFreqReq v) := by
  unfold Dev.sendFreqReq
  try dsimp only
  repeat' first
    | with_reducible exact Dev.Within.refl _ _
    | with_reducible assumption
    | (with_reducible apply Dev.Within.step (Dev.sendW_within _ _)); · decide
    | (with_reducible apply Dev.Within.step (Dev.takeFreqReq_within _ _ _)); · decide
    | (with_reducible apply Dev.Within.step (Dev.modFt_within _ _)); · decide
    | (with_reducible apply Dev.Within.ite)
    | (with_reducible apply Dev.Within.iteFst <;> try dsimp only)
    | (with_reducible apply Dev.Within.iteSnd <;> try dsimp only)
    | (intro _; try dsimp only)
    | (with_reducible apply Dev.Within.ofSnd; · with_reducible assumption)
    | (with_reducible apply Dev.Within.ofThird; · with_reducible assumption)
    | (with_reducible apply Dev.Within.ofFst; · with_reducible assumption)
    | (split <;> try dsimp only)
theorem Dev.updateReq_within (v : Dev) : Dev.Within [.time, .master, .out] v (Dev.updateReq v) := by
  unfold Dev.updateReq
  try dsimp only
  repeat' first
    | with_reducible exact Dev.Within.refl _ _
    | with_reducible assumption
    | (with_reducible apply Dev.Within.step (Dev.sendFreqReq_within _)); · decide
    | (with_reducible apply Dev.Within.ite)
    | (with_reducible apply Dev.Within.iteFst <;> try dsimp only)
    | (with_reducible apply Dev.Within.iteSnd <;> try dsimp only)
    | (intro _; try dsimp only)
    | (with_reducible apply Dev.Within.ofSnd; · with_reducible assumption)
    | (with_reducible apply Dev.Within.ofThird; · with_reducible assumption)
    | (with_reducible apply Dev.Within.ofFst; · with_reducible assumption)
    | (split <;> try dsimp only)
theorem Dev.shiftBases_within (v : Dev) (add : Nat) (sub : Nat) : Dev.Within [.time, .schedules] v (Dev.shiftBases v add sub) := by
  unfold Dev.shiftBases
  try dsimp only
  repeat' first
    | with_reducible exact Dev.Within.refl _ _
    | with_reducible assumption
    | (with_reducible apply Dev.Within.step (Dev.modSched_within _ _ _)); · decide
    | (with_reducible apply Dev.Within.step (Dev.modFt_within _ _)); · decide
    | (with_reducible apply Dev.Within.ite)
    | (with_reducible apply Dev.Within.iteFst <;> try dsimp only)
    | (with_reducible apply Dev.Within.iteSnd <;> try dsimp only)
    | with_reducible apply Dev.Within.forAll
    | (intro _; try dsimp only)
    | (with_reducible apply Dev.Within.ofSnd; · with_reducible assumption)
    | (with_reducible apply Dev.Within.ofThird; · with_reducible assumption)
    | (with_reducible apply Dev.Within.ofFst; · with_reducible assumption)
    | (split <;> try dsimp only)
theorem Dev.release_within (v : Dev) : Dev.Within [.schedules] v (Dev.release v) := by
  unfold Dev.release
  try dsimp only
  repeat' first
    | with_reducible exact Dev.Within.refl _ _
    | with_reducible assumption
    | (with_reducible apply Dev.Within.step (Dev.modSched_within _ _ _)); · decide
    | (with_reducible apply Dev.Within.ite)
    | (with_reducible apply Dev.Within.iteFst <;> try dsimp only)
    | (with_reducible apply Dev.Within.iteSnd <;> try dsimp only)
    | with_reducible apply Dev.Within.forAll
    | (intro _; try dsimp only)
    | (with_reducible apply Dev.Within.ofSnd; · with_reducible assumption)
    | (with_reducible apply Dev.Within.ofThird; · with_reducible assumption)
    | (with_reducible apply Dev.Within.ofFst; · with_reducible assumption)
    | (split <;> try dsimp only)
theorem Dev.settleTime_within (v : Dev) : Dev.Within [.streams, .contexts, .counters, .syncStatus, .hif] v (Dev.settleTime v) := by
  unfold Dev.settleTime
  try dsimp only
  repeat' first
    | with_reducible exact Dev.Within.refl _ _
    | with_reducible assumption
    | (with_reducible apply Dev.Within.step (Dev.grantPass_within _)); · decide
    | (with_reducible apply Dev.Within.step (Dev.reslipAll_within _)); · decide
    | (with_reducible apply Dev.Within.ite)
    | (with_reducible apply Dev.Within.iteFst <;> try dsimp only)
    | (with_reducible apply Dev.Within.iteSnd <;> try dsimp only)
    | (intro _; try dsimp only)
    | (with_reducible apply Dev.Within.ofSnd; · with_reducible assumption)
    | (with_reducible apply Dev.Within.ofThird; · with_reducible assumption)
    | (with_reducible apply Dev.Within.ofFst; · with_reducible assumption)
    | (split <;> try dsimp only)
theorem Dev.startDold_within (v : Dev) (n : Nat) (e : Nat) : Dev.Within [.time, .schedules, .hif] v (Dev.startDold v n e) := by
  unfold Dev.startDold
  try dsimp only
  repeat' first
    | with_reducible exact Dev.Within.refl _ _
    | with_reducible assumption
    | (with_reducible apply Dev.Within.step (Dev.evBoth_within _ _ _ _)); · decide
    | (with_reducible apply Dev.Within.step (Dev.shiftBases_within _ _ _)); · decide
    | (with_reducible apply Dev.Within.step (Dev.modFt_within _ _)); · decide
    | (with_reducible apply Dev.Within.ite)
    | (with_reducible apply Dev.Within.iteFst <;> try dsimp only)
    | (with_reducible apply Dev.Within.iteSnd <;> try dsimp only)
    | (intro _; try dsimp only)
    | (with_reducible apply Dev.Within.ofSnd; · with_reducible assumption)
    | (with_reducible apply Dev.Within.ofThird; · with_reducible assumption)
    | (with_reducible apply Dev.Within.ofFst; · with_reducible assumption)
    | (split <;> try dsimp only)
theorem Dev.applyLevel_within (v : Dev) (l : Nat) (e : Nat) : Dev.Within [.time, .hif] v (Dev.applyLevel v l e) := by
  unfold Dev.applyLevel
  try dsimp only
  repeat' first
    | with_reducible exact Dev.Within.refl _ _
    | with_reducible assumption
    | (with_reducible apply Dev.Within.step (Dev.evBoth_within _ _ _ _)); · decide
    | (with_reducible apply Dev.Within.step (Dev.powerEdge_within _ _)); · decide
    | (with_reducible apply Dev.Within.step (Dev.modFt_within _ _)); · decide
    | (with_reducible apply Dev.Within.ite)
    | (with_reducible apply Dev.Within.iteFst <;> try dsimp only)
    | (with_reducible apply Dev.Within.iteSnd <;> try dsimp only)
    | (intro _; try dsimp only)
    | (with_reducible apply Dev.Within.ofSnd; · with_reducible assumption)
    | (with_reducible apply Dev.Within.ofThird; · with_reducible assumption)
    | (with_reducible apply Dev.Within.ofFst; · with_reducible assumption)
    | (split <;> try dsimp only)
theorem Dev.applyAnnounced_within (v : Dev) (b : Nat) : Dev.Within [.time, .schedules, .hif] v (Dev.applyAnnounced v b) := by
  unfold Dev.applyAnnounced
  try dsimp only
  repeat' first
    | with_reducible exact Dev.Within.refl _ _
    | with_reducible assumption
    | (with_reducible apply Dev.Within.step (Dev.applyLevel_within _ _ _)); · decide
    | (with_reducible apply Dev.Within.step (Dev.startDold_within _ _ _)); · decide
    | (with_reducible apply Dev.Within.ite)
    | (with_reducible apply Dev.Within.iteFst <;> try dsimp only)
    | (with_reducible apply Dev.Within.iteSnd <;> try dsimp only)
    | (intro _; try dsimp only)
    | (with_reducible apply Dev.Within.ofSnd; · with_reducible assumption)
    | (with_reducible apply Dev.Within.ofThird; · with_reducible assumption)
    | (with_reducible apply Dev.Within.ofFst; · with_reducible assumption)
    | (split <;> try dsimp only)
theorem Dev.unitBoundary_within (v : Dev) (b : Nat) : Dev.Within [.time, .schedules, .map, .hif] v (Dev.unitBoundary v b) := by
  unfold Dev.unitBoundary
  try dsimp only
  repeat' first
    | with_reducible exact Dev.Within.refl _ _
    | with_reducible assumption
    | (with_reducible apply Dev.Within.step (Dev.applyAnnounced_within _ _)); · decide
    | (with_reducible apply Dev.Within.step (Dev.modFt_within _ _)); · decide
    | with_reducible apply Dev.Within.hbm
    | (with_reducible apply Dev.Within.ite)
    | (with_reducible apply Dev.Within.iteFst <;> try dsimp only)
    | (with_reducible apply Dev.Within.iteSnd <;> try dsimp only)
    | (intro _; try dsimp only)
    | with_reducible exact Hbm.Within.refl _ _
    | exact ⟨fun p hp => by cases p <;> first | exact absurd (by decide) hp | simp [Hbm.same], fun h => by first | exact h | exact mwrite_wf _ _ h | exact mclear_wf _ _ h | exact filter_wfFrom _ _ h | rfl⟩
    | (with_reducible apply Dev.Within.ofSnd; · with_reducible assumption)
    | (with_reducible apply Dev.Within.ofThird; · with_reducible assumption)
    | (with_reducible apply Dev.Within.ofFst; · with_reducible assumption)
    | (split <;> try dsimp only)
theorem Dev.thaw_within (v : Dev) (tr : Nat) (shift : Nat) (pause : Nat) (path : Nat) : Dev.Within [.time, .schedules, .streams, .contexts, .counters, .syncStatus, .map, .hif] v (Dev.thaw v tr shift pause path) := by
  unfold Dev.thaw
  try dsimp only
  repeat' first
    | with_reducible exact Dev.Within.refl _ _
    | with_reducible assumption
    | (with_reducible apply Dev.Within.step (Dev.applyLevel_within _ _ _)); · decide
    | (with_reducible apply Dev.Within.step (Dev.evBoth_within _ _ _ _)); · decide
    | (with_reducible apply Dev.Within.step (Dev.release_within _)); · decide
    | (with_reducible apply Dev.Within.step (Dev.settleTime_within _)); · decide
    | (with_reducible apply Dev.Within.step (Dev.shiftBases_within _ _ _)); · decide
    | (with_reducible apply Dev.Within.step (Dev.modFt_within _ _)); · decide
    | with_reducible apply Dev.Within.hbm
    | (with_reducible apply Dev.Within.ite)
    | (with_reducible apply Dev.Within.iteFst <;> try dsimp only)
    | (with_reducible apply Dev.Within.iteSnd <;> try dsimp only)
    | (intro _; try dsimp only)
    | with_reducible exact Hbm.Within.refl _ _
    | exact ⟨fun p hp => by cases p <;> first | exact absurd (by decide) hp | simp [Hbm.same], fun h => by first | exact h | exact mwrite_wf _ _ h | exact mclear_wf _ _ h | exact filter_wfFrom _ _ h | rfl⟩
    | (with_reducible apply Dev.Within.ofSnd; · with_reducible assumption)
    | (with_reducible apply Dev.Within.ofThird; · with_reducible assumption)
    | (with_reducible apply Dev.Within.ofFst; · with_reducible assumption)
    | (split <;> try dsimp only)
theorem Dev.lockAt_within (v : Dev) (n : Nat) (master : Bool) (frozen : Bool) : Dev.Within [.time, .hif] v (Dev.lockAt v n master frozen) := by
  unfold Dev.lockAt
  try dsimp only
  repeat' first
    | with_reducible exact Dev.Within.refl _ _
    | with_reducible assumption
    | (with_reducible apply Dev.Within.step (Dev.evBoth_within _ _ _ _)); · decide
    | (with_reducible apply Dev.Within.step (Dev.modFt_within _ _)); · decide
    | (with_reducible apply Dev.Within.ite)
    | (with_reducible apply Dev.Within.iteFst <;> try dsimp only)
    | (with_reducible apply Dev.Within.iteSnd <;> try dsimp only)
    | (intro _; try dsimp only)
    | (with_reducible apply Dev.Within.ofSnd; · with_reducible assumption)
    | (with_reducible apply Dev.Within.ofThird; · with_reducible assumption)
    | (with_reducible apply Dev.Within.ofFst; · with_reducible assumption)
    | (split <;> try dsimp only)
theorem Dev.dropMsg_within (v : Dev) (die : Nat) : Dev.Within [.timeRegs] v (Dev.dropMsg v die) := by
  unfold Dev.dropMsg
  try dsimp only
  repeat' first
    | with_reducible exact Dev.Within.refl _ _
    | with_reducible assumption
    | (with_reducible apply Dev.Within.step (Dev.modFtReg_within _ _ _)); · decide
    | (with_reducible apply Dev.Within.ite)
    | (with_reducible apply Dev.Within.iteFst <;> try dsimp only)
    | (with_reducible apply Dev.Within.iteSnd <;> try dsimp only)
    | (intro _; try dsimp only)
    | (with_reducible apply Dev.Within.ofSnd; · with_reducible assumption)
    | (with_reducible apply Dev.Within.ofThird; · with_reducible assumption)
    | (with_reducible apply Dev.Within.ofFst; · with_reducible assumption)
    | (split <;> try dsimp only)
theorem Dev.receive_within {F : List Part} {u₀ : Dev} {v : Dev} {l : Nat} {t : Nat} {m : WMsg} {act : Dev → Dev}  (hb : ([.timeRegs].all fun p => F.contains p) = true) (h_act : ∀ (w : Dev), Dev.Within F w (act w)) (h : Dev.Within F u₀ v) : Dev.Within F u₀ (Dev.receive v l t m act) := by
  unfold Dev.receive
  try dsimp only
  repeat' first
    | with_reducible exact Dev.Within.refl _ _
    | with_reducible assumption
    | (with_reducible apply Dev.Within.after (h_act _))
    | (with_reducible apply Dev.Within.step (Dev.dropMsg_within _ _)); · first | decide | exact Dev.Within.sub (by decide) hb
    | (with_reducible apply Dev.Within.ite)
    | (with_reducible apply Dev.Within.iteFst <;> try dsimp only)
    | (with_reducible apply Dev.Within.iteSnd <;> try dsimp only)
    | (intro _; try dsimp only)
    | (with_reducible apply Dev.Within.ofSnd; · with_reducible assumption)
    | (with_reducible apply Dev.Within.ofThird; · with_reducible assumption)
    | (with_reducible apply Dev.Within.ofFst; · with_reducible assumption)
    | (split <;> try dsimp only)
theorem Dev.heard_within (v : Dev) (l : Nat) : Dev.Within [.time] v (Dev.heard v l) := by
  unfold Dev.heard
  try dsimp only
  repeat' first
    | with_reducible exact Dev.Within.refl _ _
    | with_reducible assumption
    | (with_reducible apply Dev.Within.step (Dev.modFt_within _ _)); · decide
    | (with_reducible apply Dev.Within.ite)
    | (with_reducible apply Dev.Within.iteFst <;> try dsimp only)
    | (with_reducible apply Dev.Within.iteSnd <;> try dsimp only)
    | (intro _; try dsimp only)
    | (with_reducible apply Dev.Within.ofSnd; · with_reducible assumption)
    | (with_reducible apply Dev.Within.ofThird; · with_reducible assumption)
    | (with_reducible apply Dev.Within.ofFst; · with_reducible assumption)
    | (split <;> try dsimp only)
theorem Dev.receiveMaster_within {F : List Part} {u₀ : Dev} {v : Dev} {l : Nat} {t : Nat} {m : WMsg} {act : Dev → Dev}  (hb : ([.time, .timeRegs].all fun p => F.contains p) = true) (h_act : ∀ (w : Dev), Dev.Within F w (act w)) (h : Dev.Within F u₀ v) : Dev.Within F u₀ (Dev.receiveMaster v l t m act) := by
  unfold Dev.receiveMaster
  try dsimp only
  repeat' first
    | with_reducible exact Dev.Within.refl _ _
    | with_reducible assumption
    | (with_reducible apply Dev.Within.after (h_act _))
    | (with_reducible apply Dev.Within.step (Dev.heard_within _ _)); · first | decide | exact Dev.Within.sub (by decide) hb
    | (with_reducible apply Dev.receive_within; · first | decide | exact Dev.Within.sub (by decide) hb)
    | (with_reducible apply Dev.Within.ite)
    | (with_reducible apply Dev.Within.iteFst <;> try dsimp only)
    | (with_reducible apply Dev.Within.iteSnd <;> try dsimp only)
    | (intro _; try dsimp only)
    | (with_reducible apply Dev.Within.ofSnd; · with_reducible assumption)
    | (with_reducible apply Dev.Within.ofThird; · with_reducible assumption)
    | (with_reducible apply Dev.Within.ofFst; · with_reducible assumption)
    | (split <;> try dsimp only)
theorem Dev.lockFrom_within (v : Dev) (link : Nat) (m : WMsg) : Dev.Within [.time, .master, .schedules, .streams, .contexts, .counters, .syncStatus, .map, .hif, .out] v (Dev.lockFrom v link m) := by
  unfold Dev.lockFrom
  try dsimp only
  repeat' first
    | with_reducible exact Dev.Within.refl _ _
    | with_reducible assumption
    | (with_reducible apply Dev.Within.step (Dev.evBoth_within _ _ _ _)); · decide
    | (with_reducible apply Dev.Within.step (Dev.lockAt_within _ _ _ _)); · decide
    | (with_reducible apply Dev.Within.step (Dev.powerEdge_within _ _)); · decide
    | (with_reducible apply Dev.Within.step (Dev.release_within _)); · decide
    | (with_reducible apply Dev.Within.step (Dev.settleTime_within _)); · decide
    | (with_reducible apply Dev.Within.step (Dev.updateReq_within _)); · decide
    | (with_reducible apply Dev.Within.step (Dev.modFt_within _ _)); · decide
    | with_reducible apply Dev.Within.hbm
    | (with_reducible apply Dev.Within.ite)
    | (with_reducible apply Dev.Within.iteFst <;> try dsimp only)
    | (with_reducible apply Dev.Within.iteSnd <;> try dsimp only)
    | (intro _; try dsimp only)
    | with_reducible exact Hbm.Within.refl _ _
    | exact ⟨fun p hp => by cases p <;> first | exact absurd (by decide) hp | simp [Hbm.same], fun h => by first | exact h | exact mwrite_wf _ _ h | exact mclear_wf _ _ h | exact filter_wfFrom _ _ h | rfl⟩
    | (with_reducible apply Dev.Within.ofSnd; · with_reducible assumption)
    | (with_reducible apply Dev.Within.ofThird; · with_reducible assumption)
    | (with_reducible apply Dev.Within.ofFst; · with_reducible assumption)
    | (split <;> try dsimp only)
theorem Dev.timeStep_within (v : Dev) (n : Nat) : Dev.Within [.time, .timeRegs, .schedules, .streams, .contexts, .counters, .syncStatus, .hif] v (Dev.timeStep v n) := by
  unfold Dev.timeStep
  try dsimp only
  repeat' first
    | with_reducible exact Dev.Within.refl _ _
    | with_reducible assumption
    | (with_reducible apply Dev.Within.step (Dev.evBoth_within _ _ _ _)); · decide
    | (with_reducible apply Dev.Within.step (Dev.release_within _)); · decide
    | (with_reducible apply Dev.Within.step (Dev.settleTime_within _)); · decide
    | (with_reducible apply Dev.Within.step (Dev.modFtReg_within _ _ _)); · decide
    | (with_reducible apply Dev.Within.step (Dev.modFt_within _ _)); · decide
    | (with_reducible apply Dev.Within.ite)
    | (with_reducible apply Dev.Within.iteFst <;> try dsimp only)
    | (with_reducible apply Dev.Within.iteSnd <;> try dsimp only)
    | (intro _; try dsimp only)
    | (with_reducible apply Dev.Within.ofSnd; · with_reducible assumption)
    | (with_reducible apply Dev.Within.ofThird; · with_reducible assumption)
    | (with_reducible apply Dev.Within.ofFst; · with_reducible assumption)
    | (split <;> try dsimp only)
theorem Dev.lateApply_within (v : Dev) (m : WMsg) : Dev.Within [.time, .schedules, .streams, .contexts, .counters, .syncStatus, .hif] v (Dev.lateApply v m) := by
  unfold Dev.lateApply
  try dsimp only
  repeat' first
    | with_reducible exact Dev.Within.refl _ _
    | with_reducible assumption
    | (with_reducible apply Dev.Within.step (Dev.applyLevel_within _ _ _)); · decide
    | (with_reducible apply Dev.Within.step (Dev.evBoth_within _ _ _ _)); · decide
    | (with_reducible apply Dev.Within.step (Dev.settleTime_within _)); · decide
    | (with_reducible apply Dev.Within.step (Dev.startDold_within _ _ _)); · decide
    | (with_reducible apply Dev.Within.ite)
    | (with_reducible apply Dev.Within.iteFst <;> try dsimp only)
    | (with_reducible apply Dev.Within.iteSnd <;> try dsimp only)
    | (intro _; try dsimp only)
    | (with_reducible apply Dev.Within.ofSnd; · with_reducible assumption)
    | (with_reducible apply Dev.Within.ofThird; · with_reducible assumption)
    | (with_reducible apply Dev.Within.ofFst; · with_reducible assumption)
    | (split <;> try dsimp only)
theorem Dev.timeLocked_within (v : Dev) (link : Nat) (m : WMsg) : Dev.Within [.time, .timeRegs, .master, .schedules, .streams, .contexts, .counters, .syncStatus, .map, .hif, .out] v (Dev.timeLocked v link m) := by
  unfold Dev.timeLocked
  try dsimp only
  repeat' first
    | with_reducible exact Dev.Within.refl _ _
    | with_reducible assumption
    | (with_reducible apply Dev.Within.step (Dev.freezeTo_within _ _)); · decide
    | (with_reducible apply Dev.Within.step (Dev.lateApply_within _ _)); · decide
    | (with_reducible apply Dev.Within.step (Dev.sendFreqReq_within _)); · decide
    | (with_reducible apply Dev.Within.step (Dev.settleTime_within _)); · decide
    | (with_reducible apply Dev.Within.step (Dev.timeStep_within _ _)); · decide
    | (with_reducible apply Dev.Within.step (Dev.unitBoundary_within _ _)); · decide
    | (with_reducible apply Dev.Within.step (Dev.modFt_within _ _)); · decide
    | (with_reducible apply Dev.Within.ite)
    | (with_reducible apply Dev.Within.iteFst <;> try dsimp only)
    | (with_reducible apply Dev.Within.iteSnd <;> try dsimp only)
    | (intro _; try dsimp only)
    | (with_reducible apply Dev.Within.ofSnd; · with_reducible assumption)
    | (with_reducible apply Dev.Within.ofThird; · with_reducible assumption)
    | (with_reducible apply Dev.Within.ofFst; · with_reducible assumption)
    | (split <;> try dsimp only)
theorem Dev.actFreeze_within (v : Dev) (m : WMsg) : Dev.Within [.time] v (Dev.actFreeze v m) := by
  unfold Dev.actFreeze
  try dsimp only
  repeat' first
    | with_reducible exact Dev.Within.refl _ _
    | with_reducible assumption
    | (with_reducible apply Dev.Within.step (Dev.freezeTo_within _ _)); · decide
    | (with_reducible apply Dev.Within.ite)
    | (with_reducible apply Dev.Within.iteFst <;> try dsimp only)
    | (with_reducible apply Dev.Within.iteSnd <;> try dsimp only)
    | (intro _; try dsimp only)
    | (with_reducible apply Dev.Within.ofSnd; · with_reducible assumption)
    | (with_reducible apply Dev.Within.ofThird; · with_reducible assumption)
    | (with_reducible apply Dev.Within.ofFst; · with_reducible assumption)
    | (split <;> try dsimp only)
theorem Dev.actThaw_within (v : Dev) (link : Nat) (m : WMsg) : Dev.Within [.time, .schedules, .streams, .contexts, .counters, .syncStatus, .map, .hif] v (Dev.actThaw v link m) := by
  unfold Dev.actThaw
  try dsimp only
  repeat' first
    | with_reducible exact Dev.Within.refl _ _
    | with_reducible assumption
    | (with_reducible apply Dev.Within.step (Dev.thaw_within _ _ _ _ _)); · decide
    | (with_reducible apply Dev.Within.ite)
    | (with_reducible apply Dev.Within.iteFst <;> try dsimp only)
    | (with_reducible apply Dev.Within.iteSnd <;> try dsimp only)
    | (intro _; try dsimp only)
    | (with_reducible apply Dev.Within.ofSnd; · with_reducible assumption)
    | (with_reducible apply Dev.Within.ofThird; · with_reducible assumption)
    | (with_reducible apply Dev.Within.ofFst; · with_reducible assumption)
    | (split <;> try dsimp only)
theorem Dev.countStalls_within (v : Dev) : Dev.Within [.streams] v (Dev.countStalls v) := by
  unfold Dev.countStalls
  try dsimp only
  repeat' first
    | with_reducible exact Dev.Within.refl _ _
    | with_reducible assumption
    | (with_reducible apply Dev.Within.step (Dev.modStrm_within _ _ _)); · decide
    | (with_reducible apply Dev.Within.ite)
    | (with_reducible apply Dev.Within.iteFst <;> try dsimp only)
    | (with_reducible apply Dev.Within.iteSnd <;> try dsimp only)
    | with_reducible apply Dev.Within.forAll
    | (intro _; try dsimp only)
    | (with_reducible apply Dev.Within.ofSnd; · with_reducible assumption)
    | (with_reducible apply Dev.Within.ofThird; · with_reducible assumption)
    | (with_reducible apply Dev.Within.ofFst; · with_reducible assumption)
    | (split <;> try dsimp only)
theorem Dev.tick_within (v : Dev) : Dev.Within [.time, .schedules, .streams, .contexts, .dmas, .counters, .syncStatus, .hif] v (Dev.tick v) := by
  unfold Dev.tick
  try dsimp only
  repeat' first
    | with_reducible exact Dev.Within.refl _ _
    | with_reducible assumption
    | (with_reducible apply Dev.Within.step (Dev.countStalls_within _)); · decide
    | (with_reducible apply Dev.Within.step (Dev.freezeNow_within _)); · decide
    | (with_reducible apply Dev.Within.step (Dev.release_within _)); · decide
    | (with_reducible apply Dev.Within.step (Dev.reqEvent_within _ _ _ _)); · decide
    | (with_reducible apply Dev.Within.step (Dev.settleTime_within _)); · decide
    | (with_reducible apply Dev.Within.step (Dev.modFt_within _ _)); · decide
    | (with_reducible apply Dev.Within.ite)
    | (with_reducible apply Dev.Within.iteFst <;> try dsimp only)
    | (with_reducible apply Dev.Within.iteSnd <;> try dsimp only)
    | (intro _; try dsimp only)
    | (with_reducible apply Dev.Within.ofSnd; · with_reducible assumption)
    | (with_reducible apply Dev.Within.ofThird; · with_reducible assumption)
    | (with_reducible apply Dev.Within.ofFst; · with_reducible assumption)
    | (split <;> try dsimp only)
theorem Dev.samplePoint_within (v : Dev) : Dev.Within [.time, .master, .out] v (Dev.samplePoint v) := by
  unfold Dev.samplePoint
  try dsimp only
  repeat' first
    | with_reducible exact Dev.Within.refl _ _
    | with_reducible assumption
    | (with_reducible apply Dev.Within.step (Dev.sendLate_within _ _ _)); · decide
    | (with_reducible apply Dev.Within.step (Dev.sendState_within _)); · decide
    | (with_reducible apply Dev.Within.step (Dev.modFt_within _ _)); · decide
    | (with_reducible apply Dev.Within.ite)
    | (with_reducible apply Dev.Within.iteFst <;> try dsimp only)
    | (with_reducible apply Dev.Within.iteSnd <;> try dsimp only)
    | (intro _; try dsimp only)
    | (with_reducible apply Dev.Within.ofSnd; · with_reducible assumption)
    | (with_reducible apply Dev.Within.ofThird; · with_reducible assumption)
    | (with_reducible apply Dev.Within.ofFst; · with_reducible assumption)
    | (split <;> try dsimp only)
theorem Dev.cutOff_within (v : Dev) : Dev.Within [.time, .master, .hif, .out] v (Dev.cutOff v) := by
  unfold Dev.cutOff
  try dsimp only
  repeat' first
    | with_reducible exact Dev.Within.refl _ _
    | with_reducible assumption
    | (with_reducible apply Dev.Within.step (Dev.ev_within _ _ _ _ _ _)); · decide
    | (with_reducible apply Dev.Within.step (Dev.sendW_within _ _)); · decide
    | (with_reducible apply Dev.Within.step (Dev.modFt_within _ _)); · decide
    | (with_reducible apply Dev.Within.step (Dev.modMst_within _ _)); · decide
    | (with_reducible apply Dev.Within.ite)
    | (with_reducible apply Dev.Within.iteFst <;> try dsimp only)
    | (with_reducible apply Dev.Within.iteSnd <;> try dsimp only)
    | with_reducible apply Dev.Within.foldlFst
    | with_reducible apply Dev.Within.foldlSnd
    | with_reducible apply Dev.Within.foldl
    | (intro _; try dsimp only)
    | (with_reducible apply Dev.Within.ofSnd; · with_reducible assumption)
    | (with_reducible apply Dev.Within.ofThird; · with_reducible assumption)
    | (with_reducible apply Dev.Within.ofFst; · with_reducible assumption)
    | (split <;> try dsimp only)
theorem Dev.epochBoundary_within (v : Dev) : Dev.Within [.time, .schedules, .streams, .contexts, .counters, .syncStatus, .map, .hif, .out] v (Dev.epochBoundary v) := by
  unfold Dev.epochBoundary
  try dsimp only
  repeat' first
    | with_reducible exact Dev.Within.refl _ _
    | with_reducible assumption
    | (with_reducible apply Dev.Within.step (Dev.sendW_within _ _)); · decide
    | (with_reducible apply Dev.Within.step (Dev.settleTime_within _)); · decide
    | (with_reducible apply Dev.Within.step (Dev.unitBoundary_within _ _)); · decide
    | (with_reducible apply Dev.Within.ite)
    | (with_reducible apply Dev.Within.iteFst <;> try dsimp only)
    | (with_reducible apply Dev.Within.iteSnd <;> try dsimp only)
    | (intro _; try dsimp only)
    | (with_reducible apply Dev.Within.ofSnd; · with_reducible assumption)
    | (with_reducible apply Dev.Within.ofThird; · with_reducible assumption)
    | (with_reducible apply Dev.Within.ofFst; · with_reducible assumption)
    | (split <;> try dsimp only)
theorem Dev.doldEnd_within (v : Dev) : Dev.Within [.time, .schedules, .streams, .contexts, .counters, .syncStatus, .hif] v (Dev.doldEnd v) := by
  unfold Dev.doldEnd
  try dsimp only
  repeat' first
    | with_reducible exact Dev.Within.refl _ _
    | with_reducible assumption
    | (with_reducible apply Dev.Within.step (Dev.settleTime_within _)); · decide
    | (with_reducible apply Dev.Within.step (Dev.startDold_within _ _ _)); · decide
    | (with_reducible apply Dev.Within.step (Dev.modFt_within _ _)); · decide
    | (with_reducible apply Dev.Within.ite)
    | (with_reducible apply Dev.Within.iteFst <;> try dsimp only)
    | (with_reducible apply Dev.Within.iteSnd <;> try dsimp only)
    | (intro _; try dsimp only)
    | (with_reducible apply Dev.Within.ofSnd; · with_reducible assumption)
    | (with_reducible apply Dev.Within.ofThird; · with_reducible assumption)
    | (with_reducible apply Dev.Within.ofFst; · with_reducible assumption)
    | (split <;> try dsimp only)
theorem Dev.masterThaw_within (v : Dev) : Dev.Within [.time, .master, .schedules, .streams, .contexts, .counters, .syncStatus, .map, .hif, .out] v (Dev.masterThaw v) := by
  unfold Dev.masterThaw
  try dsimp only
  repeat' first
    | with_reducible exact Dev.Within.refl _ _
    | with_reducible assumption
    | (with_reducible apply Dev.Within.step (Dev.sendW_within _ _)); · decide
    | (with_reducible apply Dev.Within.step (Dev.thaw_within _ _ _ _ _)); · decide
    | (with_reducible apply Dev.Within.step (Dev.modMst_within _ _)); · decide
    | (with_reducible apply Dev.Within.ite)
    | (with_reducible apply Dev.Within.iteFst <;> try dsimp only)
    | (with_reducible apply Dev.Within.iteSnd <;> try dsimp only)
    | with_reducible apply Dev.Within.foldlFst
    | with_reducible apply Dev.Within.foldlSnd
    | with_reducible apply Dev.Within.foldl
    | (intro _; try dsimp only)
    | (with_reducible apply Dev.Within.ofSnd; · with_reducible assumption)
    | (with_reducible apply Dev.Within.ofThird; · with_reducible assumption)
    | (with_reducible apply Dev.Within.ofFst; · with_reducible assumption)
    | (split <;> try dsimp only)
theorem Dev.frozenTimer_within (v : Dev) : Dev.Within [.time, .master, .out] v (Dev.frozenTimer v) := by
  unfold Dev.frozenTimer
  try dsimp only
  repeat' first
    | with_reducible exact Dev.Within.refl _ _
    | with_reducible assumption
    | (with_reducible apply Dev.Within.step (Dev.sendState_within _)); · decide
    | (with_reducible apply Dev.Within.step (Dev.sendW_within _ _)); · decide
    | (with_reducible apply Dev.Within.ite)
    | (with_reducible apply Dev.Within.iteFst <;> try dsimp only)
    | (with_reducible apply Dev.Within.iteSnd <;> try dsimp only)
    | (intro _; try dsimp only)
    | (with_reducible apply Dev.Within.ofSnd; · with_reducible assumption)
    | (with_reducible apply Dev.Within.ofThird; · with_reducible assumption)
    | (with_reducible apply Dev.Within.ofFst; · with_reducible assumption)
    | (split <;> try dsimp only)
theorem Dev.timeHoldover_within (v : Dev) : Dev.Within [.time, .hif] v (Dev.timeHoldover v) := by
  unfold Dev.timeHoldover
  try dsimp only
  repeat' first
    | with_reducible exact Dev.Within.refl _ _
    | with_reducible assumption
    | (with_reducible apply Dev.Within.step (Dev.evBoth_within _ _ _ _)); · decide
    | (with_reducible apply Dev.Within.step (Dev.freezeNow_within _)); · decide
    | (with_reducible apply Dev.Within.step (Dev.modFt_within _ _)); · decide
    | (with_reducible apply Dev.Within.ite)
    | (with_reducible apply Dev.Within.iteFst <;> try dsimp only)
    | (with_reducible apply Dev.Within.iteSnd <;> try dsimp only)
    | (intro _; try dsimp only)
    | (with_reducible apply Dev.Within.ofSnd; · with_reducible assumption)
    | (with_reducible apply Dev.Within.ofThird; · with_reducible assumption)
    | (with_reducible apply Dev.Within.ofFst; · with_reducible assumption)
    | (split <;> try dsimp only)
theorem Dev.memberAbsent_within (v : Dev) (chip : Nat) : Dev.Within [.master] v (Dev.memberAbsent v chip) := by
  unfold Dev.memberAbsent
  try dsimp only
  repeat' first
    | with_reducible exact Dev.Within.refl _ _
    | with_reducible assumption
    | (with_reducible apply Dev.Within.step (Dev.modMember_within _ _ _)); · decide
    | (with_reducible apply Dev.Within.step (Dev.modMst_within _ _)); · decide
    | (with_reducible apply Dev.Within.ite)
    | (with_reducible apply Dev.Within.iteFst <;> try dsimp only)
    | (with_reducible apply Dev.Within.iteSnd <;> try dsimp only)
    | (intro _; try dsimp only)
    | (with_reducible apply Dev.Within.ofSnd; · with_reducible assumption)
    | (with_reducible apply Dev.Within.ofThird; · with_reducible assumption)
    | (with_reducible apply Dev.Within.ofFst; · with_reducible assumption)
    | (split <;> try dsimp only)
theorem Dev.takeover_within (v : Dev) : Dev.Within [.time, .master, .hif, .out] v (Dev.takeover v) := by
  unfold Dev.takeover
  try dsimp only
  repeat' first
    | with_reducible exact Dev.Within.refl _ _
    | with_reducible assumption
    | (with_reducible apply Dev.Within.step (Dev.evBoth_within _ _ _ _)); · decide
    | (with_reducible apply Dev.Within.step (Dev.masterFreeze_within _ _)); · decide
    | (with_reducible apply Dev.Within.step (Dev.modMember_within _ _ _)); · decide
    | (with_reducible apply Dev.Within.step (Dev.modFt_within _ _)); · decide
    | (with_reducible apply Dev.Within.step (Dev.modMst_within _ _)); · decide
    | (with_reducible apply Dev.Within.ite)
    | (with_reducible apply Dev.Within.iteFst <;> try dsimp only)
    | (with_reducible apply Dev.Within.iteSnd <;> try dsimp only)
    | (intro _; try dsimp only)
    | (with_reducible apply Dev.Within.ofSnd; · with_reducible assumption)
    | (with_reducible apply Dev.Within.ofThird; · with_reducible assumption)
    | (with_reducible apply Dev.Within.ofFst; · with_reducible assumption)
    | (split <;> try dsimp only)
theorem Dev.timeCfgWrite_within (v : Dev) (die : Nat) (x : W32) : Dev.Within [.time, .timeRegs, .master, .hif, .out] v (Dev.timeCfgWrite v die x) := by
  unfold Dev.timeCfgWrite
  try dsimp only
  repeat' first
    | with_reducible exact Dev.Within.refl _ _
    | with_reducible assumption
    | (with_reducible apply Dev.Within.step (Dev.ev_within _ _ _ _ _ _)); · decide
    | (with_reducible apply Dev.Within.step (Dev.lockAt_within _ _ _ _)); · decide
    | (with_reducible apply Dev.Within.step (Dev.modMember_within _ _ _)); · decide
    | (with_reducible apply Dev.Within.step (Dev.updateReq_within _)); · decide
    | (with_reducible apply Dev.Within.step (Dev.modFtReg_within _ _ _)); · decide
    | (with_reducible apply Dev.Within.ite)
    | (with_reducible apply Dev.Within.iteFst <;> try dsimp only)
    | (with_reducible apply Dev.Within.iteSnd <;> try dsimp only)
    | (intro _; try dsimp only)
    | (with_reducible apply Dev.Within.ofSnd; · with_reducible assumption)
    | (with_reducible apply Dev.Within.ofThird; · with_reducible assumption)
    | (with_reducible apply Dev.Within.ofFst; · with_reducible assumption)
    | (split <;> try dsimp only)

end Sys2Proof.Machine
end

