-- ==== Sys2Proof/Laws/Orders.lean ====
section
/-! SUPPORT. What each operation of Machine/Orders may change. -/

namespace Sys2Proof.Machine

theorem Dev.takeOrder_within {v w : Dev} {die n : Nat} {ok : Nat → Bool} {t : Taken} (h : v.takeOrder die n ok = some (t, w)) :
    Dev.Within [.hostMem, .hif, .out] v w := by
  unfold Dev.takeOrder at h
  dsimp only at h
  split at h
  · obtain rfl := congrArg Prod.snd (Option.some.inj h)
    dsimp only
    have step : ∀ u : Dev, Dev.Within [.hostMem, .hif, .out] v u → Dev.Within [.hostMem, .hif, .out] v (u.putShadow die n).1 :=
      fun u k => Dev.Within.step (Dev.putShadow_within u die n) (by decide) k
    split <;> first
      | (apply Dev.Within.step (Dev.ev_within _ _ _ _ _ _) (by decide)
         exact step _ (Dev.Within.step (Dev.modHifD_within _ _ _) (by decide) (Dev.Within.step (Dev.modRing_within _ _ _ _) (by decide) (Dev.Within.step (Dev.modRing_within _ _ _ _) (by decide) (Dev.Within.refl _ _)))))
      | exact step _ (Dev.Within.step (Dev.modHifD_within _ _ _) (by decide) (Dev.Within.step (Dev.modRing_within _ _ _ _) (by decide) (Dev.Within.step (Dev.modRing_within _ _ _ _) (by decide) (Dev.Within.refl _ _))))
  · cases h
theorem Dev.order_within {F : List Part} {u₀ v : Dev} {die n op : Nat} {act : Dev → Taken → Dev} (hb : ([Part.hostMem, .hif, .out].all fun p => F.contains p) = true)
    (h_act : ∀ (w : Dev) (t : Taken), Dev.Within F w (act w t)) (h : Dev.Within F u₀ v) : Dev.Within F u₀ (v.order die n op act) := by
  unfold Dev.order
  split
  · exact h
  · rename_i p hp
    exact (Dev.Within.step (Dev.takeOrder_within (t := p.1) (w := p.2) hp) hb h).trans (h_act p.2 p.1)
theorem Dev.finish_within (v : Dev) (die : Nat) (o : OrderRef) (status : Nat) (hst : Nat) (w2 : Nat) (w3 : Nat) : Dev.Within [.hostMem, .hif, .out] v (Dev.finish v die o status hst w2 w3) := by
  unfold Dev.finish
  try dsimp only
  repeat' first
    | with_reducible exact Dev.Within.refl _ _
    | with_reducible assumption
    | (with_reducible apply Dev.Within.step (Dev.accept_within _ _ _)); · decide
    | (with_reducible apply Dev.Within.step (Dev.complete_within _ _ _ _ _ _ _)); · decide
    | (with_reducible apply Dev.Within.ite)
    | (with_reducible apply Dev.Within.iteFst <;> try dsimp only)
    | (with_reducible apply Dev.Within.iteSnd <;> try dsimp only)
    | (intro _; try dsimp only)
    | (with_reducible apply Dev.Within.ofSnd; · with_reducible assumption)
    | (with_reducible apply Dev.Within.ofThird; · with_reducible assumption)
    | (with_reducible apply Dev.Within.ofFst; · with_reducible assumption)
    | (split <;> try dsimp only)
theorem Dev.workNop_within (v : Dev) (die n : Nat) : Dev.Within [.hostMem, .hif, .out] v (v.workNop die n) := by
  unfold Dev.workNop
  split
  · exact Dev.Within.refl _ _
  · rename_i p hp
    exact Dev.Within.step (Dev.finish_within _ _ _ _ _ _ _) (by decide) (Dev.takeOrder_within (t := p.1) (w := p.2) hp)
theorem Dev.ringError_within (v : Dev) (die : Nat) (n : Nat) (a : W64) : Dev.Within [.hif] v (Dev.ringError v die n a) := by
  unfold Dev.ringError
  try dsimp only
  repeat' first
    | with_reducible exact Dev.Within.refl _ _
    | with_reducible assumption
    | (with_reducible apply Dev.Within.step (Dev.ev_within _ _ _ _ _ _)); · decide
    | (with_reducible apply Dev.Within.step (Dev.modRing_within _ _ _ _)); · decide
    | (with_reducible apply Dev.Within.ite)
    | (with_reducible apply Dev.Within.iteFst <;> try dsimp only)
    | (with_reducible apply Dev.Within.iteSnd <;> try dsimp only)
    | (intro _; try dsimp only)
    | (with_reducible apply Dev.Within.ofSnd; · with_reducible assumption)
    | (with_reducible apply Dev.Within.ofThird; · with_reducible assumption)
    | (with_reducible apply Dev.Within.ofFst; · with_reducible assumption)
    | (split <;> try dsimp only)
theorem Dev.finishSid_within (v : Dev) (die : Nat) (t : Taken) (status : Nat) (hst : Nat) : Dev.Within [.hostMem, .hif, .out] v (Dev.finishSid v die t status hst) := by
  unfold Dev.finishSid
  try dsimp only
  repeat' first
    | with_reducible exact Dev.Within.refl _ _
    | with_reducible assumption
    | (with_reducible apply Dev.Within.step (Dev.finish_within _ _ _ _ _ _ _)); · decide
    | (with_reducible apply Dev.Within.ite)
    | (with_reducible apply Dev.Within.iteFst <;> try dsimp only)
    | (with_reducible apply Dev.Within.iteSnd <;> try dsimp only)
    | (intro _; try dsimp only)
    | (with_reducible apply Dev.Within.ofSnd; · with_reducible assumption)
    | (with_reducible apply Dev.Within.ofThird; · with_reducible assumption)
    | (with_reducible apply Dev.Within.ofFst; · with_reducible assumption)
    | (split <;> try dsimp only)
theorem Dev.imageRead_within (v : Dev) (die : Nat) (a : W64) (n : Nat) : Dev.Within [.coreRegs, .syncStatus, .stackMem, .channels, .hif] v (Dev.imageRead v die a n).2 := by
  unfold Dev.imageRead
  try dsimp only
  repeat' first
    | with_reducible exact Dev.Within.refl _ _
    | with_reducible assumption
    | (with_reducible apply Dev.Within.step (Dev.rdGlobal_within _ _ _ _ _)); · decide
    | (with_reducible apply Dev.Within.ite)
    | (with_reducible apply Dev.Within.iteFst <;> try dsimp only)
    | (with_reducible apply Dev.Within.iteSnd <;> try dsimp only)
    | (intro _; try dsimp only)
    | (with_reducible apply Dev.Within.ofSnd; · with_reducible assumption)
    | (with_reducible apply Dev.Within.ofThird; · with_reducible assumption)
    | (with_reducible apply Dev.Within.ofFst; · with_reducible assumption)
    | (split <;> try dsimp only)
theorem Dev.descRead_within (v : Dev) (die : Nat) (a : Nat) (z0 : Nat) : Dev.Within [.coreRegs, .syncStatus, .stackMem, .channels, .hif] v (Dev.descRead v die a z0).2 := by
  induction z0 generalizing v die a with
  | zero => unfold Dev.descRead; exact Dev.Within.refl _ _
  | succ fuel ih =>
    unfold Dev.descRead
    try dsimp only
    repeat' first
      | with_reducible exact Dev.Within.refl _ _
      | with_reducible assumption
      | (with_reducible apply Dev.Within.step (ih _ _ _)); · decide
      | (with_reducible apply Dev.Within.step (Dev.imageRead_within _ _ _ _)); · decide
      | (with_reducible apply Dev.Within.ite)
      | (with_reducible apply Dev.Within.iteFst <;> try dsimp only)
      | (with_reducible apply Dev.Within.iteSnd <;> try dsimp only)
      | (intro _; try dsimp only)
      | (with_reducible apply Dev.Within.ofSnd; · with_reducible assumption)
      | (with_reducible apply Dev.Within.ofThird; · with_reducible assumption)
      | (with_reducible apply Dev.Within.ofFst; · with_reducible assumption)
      | (split <;> try dsimp only)
theorem Dev.coolFor_within (v : Dev) (context : Nat) (mask : Mask48) : Dev.Within [.contextSwitch] v (Dev.coolFor v context mask) := by
  unfold Dev.coolFor
  try dsimp only
  repeat' first
    | with_reducible exact Dev.Within.refl _ _
    | with_reducible assumption
    | (with_reducible apply Dev.Within.step (Dev.coolWing_within _ _)); · decide
    | (with_reducible apply Dev.Within.ite)
    | (with_reducible apply Dev.Within.iteFst <;> try dsimp only)
    | (with_reducible apply Dev.Within.iteSnd <;> try dsimp only)
    | with_reducible apply Dev.Within.forAll
    | (intro _; try dsimp only)
    | (with_reducible apply Dev.Within.ofSnd; · with_reducible assumption)
    | (with_reducible apply Dev.Within.ofThird; · with_reducible assumption)
    | (with_reducible apply Dev.Within.ofFst; · with_reducible assumption)
    | (split <;> try dsimp only)
theorem Dev.claimStrm_within (v : Dev) (id : Nat) (d : StrmDesc) : Dev.Within [.streams, .coreRegs, .syncStatus, .stackMem, .channels, .hif] v (Dev.claimStrm v id d) := by
  unfold Dev.claimStrm
  try dsimp only
  repeat' first
    | with_reducible exact Dev.Within.refl _ _
    | with_reducible assumption
    | (with_reducible apply Dev.Within.step (Dev.refill_within _ _)); · decide
    | (with_reducible apply Dev.Within.step (Dev.modStrm_within _ _ _)); · decide
    | (with_reducible apply Dev.Within.ite)
    | (with_reducible apply Dev.Within.iteFst <;> try dsimp only)
    | (with_reducible apply Dev.Within.iteSnd <;> try dsimp only)
    | (intro _; try dsimp only)
    | (with_reducible apply Dev.Within.ofSnd; · with_reducible assumption)
    | (with_reducible apply Dev.Within.ofThird; · with_reducible assumption)
    | (with_reducible apply Dev.Within.ofFst; · with_reducible assumption)
    | (split <;> try dsimp only)
theorem Dev.claim_within (v : Dev) (id : Nat) (w0 : W64) (w1 : W64) (ds : List StrmDesc) : Dev.Within [.schedules, .streams, .tiles, .coreRegs, .syncStatus, .stackMem, .channels, .contextSwitch, .hif] v (Dev.claim v id w0 w1 ds) := by
  unfold Dev.claim
  try dsimp only
  repeat' first
    | with_reducible exact Dev.Within.refl _ _
    | with_reducible assumption
    | (with_reducible apply Dev.Within.step (Dev.claimStrm_within _ _ _)); · decide
    | (with_reducible apply Dev.Within.step (Dev.coolFor_within _ _ _)); · decide
    | (with_reducible apply Dev.Within.step (Dev.modSched_within _ _ _)); · decide
    | with_reducible apply Dev.Within.core
    | (with_reducible apply Dev.Within.ite)
    | (with_reducible apply Dev.Within.iteFst <;> try dsimp only)
    | (with_reducible apply Dev.Within.iteSnd <;> try dsimp only)
    | with_reducible apply Dev.Within.forAll
    | (intro _; try dsimp only)
    | with_reducible exact Core.Within.refl _ _
    | exact ⟨fun p hp => by cases p <;> first | exact absurd (by decide) hp | simp [Core.same], fun h => by first | exact h | exact mwrite_wf _ _ h | exact mclear_wf _ _ h | exact filter_wfFrom _ _ h | rfl⟩
    | (with_reducible apply Dev.Within.ofSnd; · with_reducible assumption)
    | (with_reducible apply Dev.Within.ofThird; · with_reducible assumption)
    | (with_reducible apply Dev.Within.ofFst; · with_reducible assumption)
    | (split <;> try dsimp only)
theorem Dev.loadOrder_within (v : Dev) (die : Nat) (n : Nat) : Dev.Within [.schedules, .streams, .tiles, .coreRegs, .syncStatus, .stackMem, .channels, .hostMem, .contextSwitch, .hif, .out] v (Dev.loadOrder v die n) := by
  unfold Dev.loadOrder
  try dsimp only
  repeat' first
    | with_reducible exact Dev.Within.refl _ _
    | with_reducible assumption
    | (with_reducible apply Dev.Within.step (Dev.claim_within _ _ _ _ _)); · decide
    | (with_reducible apply Dev.Within.step (Dev.descRead_within _ _ _ _)); · decide
    | (with_reducible apply Dev.Within.step (Dev.finishSid_within _ _ _ _ _)); · decide
    | (with_reducible apply Dev.Within.step (Dev.imageRead_within _ _ _ _)); · decide
    | (with_reducible apply Dev.order_within; · decide)
    | (with_reducible apply Dev.Within.ite)
    | (with_reducible apply Dev.Within.iteFst <;> try dsimp only)
    | (with_reducible apply Dev.Within.iteSnd <;> try dsimp only)
    | (intro _; try dsimp only)
    | (with_reducible apply Dev.Within.ofSnd; · with_reducible assumption)
    | (with_reducible apply Dev.Within.ofThird; · with_reducible assumption)
    | (with_reducible apply Dev.Within.ofFst; · with_reducible assumption)
    | (split <;> try dsimp only)
theorem Dev.rewind_within (v : Dev) (keep : Bool) (k : Nat) (first : Nat) : Dev.Within [.streams, .coreRegs, .syncStatus, .stackMem, .channels, .hif] v (Dev.rewind v keep k first) := by
  unfold Dev.rewind
  try dsimp only
  repeat' first
    | with_reducible exact Dev.Within.refl _ _
    | with_reducible assumption
    | (with_reducible apply Dev.Within.step (Dev.refill_within _ _)); · decide
    | (with_reducible apply Dev.Within.step (Dev.modStrm_within _ _ _)); · decide
    | (with_reducible apply Dev.Within.ite)
    | (with_reducible apply Dev.Within.iteFst <;> try dsimp only)
    | (with_reducible apply Dev.Within.iteSnd <;> try dsimp only)
    | (intro _; try dsimp only)
    | (with_reducible apply Dev.Within.ofSnd; · with_reducible assumption)
    | (with_reducible apply Dev.Within.ofThird; · with_reducible assumption)
    | (with_reducible apply Dev.Within.ofFst; · with_reducible assumption)
    | (split <;> try dsimp only)
theorem Dev.beginRun_within (v : Dev) (die : Nat) (id : Nat) (base : Nat) (o : OrderRef) (keep : Bool) (firsts : List Nat) : Dev.Within [.schedules, .streams, .coreRegs, .syncStatus, .stackMem, .channels, .hif] v (Dev.beginRun v die id base o keep firsts) := by
  unfold Dev.beginRun
  try dsimp only
  repeat' first
    | with_reducible exact Dev.Within.refl _ _
    | with_reducible assumption
    | (with_reducible apply Dev.Within.step (Dev.accept_within _ _ _)); · decide
    | (with_reducible apply Dev.Within.step (Dev.rewind_within _ _ _ _)); · decide
    | (with_reducible apply Dev.Within.step (Dev.modSched_within _ _ _)); · decide
    | (with_reducible apply Dev.Within.ite)
    | (with_reducible apply Dev.Within.iteFst <;> try dsimp only)
    | (with_reducible apply Dev.Within.iteSnd <;> try dsimp only)
    | with_reducible apply Dev.Within.forAll
    | (intro _; try dsimp only)
    | (with_reducible apply Dev.Within.ofSnd; · with_reducible assumption)
    | (with_reducible apply Dev.Within.ofThird; · with_reducible assumption)
    | (with_reducible apply Dev.Within.ofFst; · with_reducible assumption)
    | (split <;> try dsimp only)
theorem Dev.firstHeads_within (v : Dev) (id : Nat) : Dev.Within [.schedules, .streams, .spads, .caches, .contexts, .dmas, .coreRegs, .counters, .syncStatus, .stackMem, .channels, .stackRegs, .hostMem, .heldWrites, .faults, .contextSwitch, .fabric, .hif, .out] v (Dev.firstHeads v id) := by
  unfold Dev.firstHeads
  try dsimp only
  repeat' first
    | with_reducible exact Dev.Within.refl _ _
    | with_reducible assumption
    | (with_reducible apply Dev.Within.step (Dev.checkHead_within _ _)); · decide
    | (with_reducible apply Dev.Within.step (Dev.finishSched_within _ _)); · decide
    | (with_reducible apply Dev.Within.step (Dev.grantPass_within _)); · decide
    | (with_reducible apply Dev.Within.step (Dev.reslip_within _ _)); · decide
    | (with_reducible apply Dev.Within.ite)
    | (with_reducible apply Dev.Within.iteFst <;> try dsimp only)
    | (with_reducible apply Dev.Within.iteSnd <;> try dsimp only)
    | with_reducible apply Dev.Within.forAll
    | (intro _; try dsimp only)
    | (with_reducible apply Dev.Within.ofSnd; · with_reducible assumption)
    | (with_reducible apply Dev.Within.ofThird; · with_reducible assumption)
    | (with_reducible apply Dev.Within.ofFst; · with_reducible assumption)
    | (split <;> try dsimp only)
theorem Dev.freshUnits_within (v : Dev) (id : Nat) : Dev.Within [.tiles, .coreGens, .dmas, .stackRegs] v (Dev.freshUnits v id) := by
  unfold Dev.freshUnits
  try dsimp only
  repeat' first
    | with_reducible exact Dev.Within.refl _ _
    | with_reducible assumption
    | (with_reducible apply Dev.Within.step (Dev.modStk_within _ _ _)); · decide
    | with_reducible apply Dev.Within.core
    | (with_reducible apply Dev.Within.ite)
    | (with_reducible apply Dev.Within.iteFst <;> try dsimp only)
    | (with_reducible apply Dev.Within.iteSnd <;> try dsimp only)
    | with_reducible apply Dev.Within.foldlFst
    | with_reducible apply Dev.Within.foldlSnd
    | with_reducible apply Dev.Within.foldl
    | with_reducible apply Dev.Within.forAll
    | (intro _; try dsimp only)
    | with_reducible exact Core.Within.refl _ _
    | (with_reducible unfold Core.seed; try dsimp only)
    | exact ⟨fun p hp => by cases p <;> first | exact absurd (by decide) hp | simp [Core.same, Core.seed], fun h => by (try simp only [Core.seed]); first | exact h | exact mwrite_wf _ _ h | exact mclear_wf _ _ h | exact filter_wfFrom _ _ h | rfl⟩
    | (with_reducible apply Dev.Within.ofSnd; · with_reducible assumption)
    | (with_reducible apply Dev.Within.ofThird; · with_reducible assumption)
    | (with_reducible apply Dev.Within.ofFst; · with_reducible assumption)
    | (split <;> try dsimp only)
theorem Dev.startOrder_within (v : Dev) (die : Nat) (n : Nat) : Dev.Within [.schedules, .streams, .spads, .tiles, .caches, .coreGens, .contexts, .dmas, .coreRegs, .counters, .syncStatus, .stackMem, .channels, .stackRegs, .hostMem, .heldWrites, .faults, .contextSwitch, .fabric, .hif, .out] v (Dev.startOrder v die n) := by
  unfold Dev.startOrder
  try dsimp only
  repeat' first
    | with_reducible exact Dev.Within.refl _ _
    | with_reducible assumption
    | (with_reducible apply Dev.Within.step (Dev.beginRun_within _ _ _ _ _ _ _)); · decide
    | (with_reducible apply Dev.Within.step (Dev.finishSid_within _ _ _ _ _)); · decide
    | (with_reducible apply Dev.Within.step (Dev.firstHeads_within _ _)); · decide
    | (with_reducible apply Dev.Within.step (Dev.freshUnits_within _ _)); · decide
    | (with_reducible apply Dev.order_within; · decide)
    | (with_reducible apply Dev.Within.ite)
    | (with_reducible apply Dev.Within.iteFst <;> try dsimp only)
    | (with_reducible apply Dev.Within.iteSnd <;> try dsimp only)
    | (intro _; try dsimp only)
    | (with_reducible apply Dev.Within.ofSnd; · with_reducible assumption)
    | (with_reducible apply Dev.Within.ofThird; · with_reducible assumption)
    | (with_reducible apply Dev.Within.ofFst; · with_reducible assumption)
    | (split <;> try dsimp only)
theorem Dev.resumeOrder_within (v : Dev) (die : Nat) (n : Nat) : Dev.Within [.schedules, .streams, .spads, .caches, .contexts, .dmas, .coreRegs, .counters, .syncStatus, .stackMem, .channels, .stackRegs, .hostMem, .heldWrites, .faults, .contextSwitch, .fabric, .hif, .out] v (Dev.resumeOrder v die n) := by
  unfold Dev.resumeOrder
  try dsimp only
  repeat' first
    | with_reducible exact Dev.Within.refl _ _
    | with_reducible assumption
    | (with_reducible apply Dev.Within.step (Dev.beginRun_within _ _ _ _ _ _ _)); · decide
    | (with_reducible apply Dev.Within.step (Dev.finishSid_within _ _ _ _ _)); · decide
    | (with_reducible apply Dev.Within.step (Dev.firstHeads_within _ _)); · decide
    | (with_reducible apply Dev.order_within; · decide)
    | (with_reducible apply Dev.Within.ite)
    | (with_reducible apply Dev.Within.iteFst <;> try dsimp only)
    | (with_reducible apply Dev.Within.iteSnd <;> try dsimp only)
    | (intro _; try dsimp only)
    | (with_reducible apply Dev.Within.ofSnd; · with_reducible assumption)
    | (with_reducible apply Dev.Within.ofThird; · with_reducible assumption)
    | (with_reducible apply Dev.Within.ofFst; · with_reducible assumption)
    | (split <;> try dsimp only)
theorem Dev.abortOrder_within (v : Dev) (die : Nat) (n : Nat) : Dev.Within [.schedules, .streams, .spads, .caches, .contexts, .dmas, .coreRegs, .counters, .syncStatus, .stackMem, .channels, .stackRegs, .hostMem, .heldWrites, .faults, .contextSwitch, .fabric, .hif, .out] v (Dev.abortOrder v die n) := by
  unfold Dev.abortOrder
  try dsimp only
  repeat' first
    | with_reducible exact Dev.Within.refl _ _
    | with_reducible assumption
    | (with_reducible apply Dev.Within.step (Dev.dieFault_within _ _ _ _ _ _)); · decide
    | (with_reducible apply Dev.Within.step (Dev.finishSid_within _ _ _ _ _)); · decide
    | (with_reducible apply Dev.order_within; · decide)
    | (with_reducible apply Dev.Within.step (Dev.modSched_within _ _ _)); · decide
    | (with_reducible apply Dev.Within.ite)
    | (with_reducible apply Dev.Within.iteFst <;> try dsimp only)
    | (with_reducible apply Dev.Within.iteSnd <;> try dsimp only)
    | (intro _; try dsimp only)
    | (with_reducible apply Dev.Within.ofSnd; · with_reducible assumption)
    | (with_reducible apply Dev.Within.ofThird; · with_reducible assumption)
    | (with_reducible apply Dev.Within.ofFst; · with_reducible assumption)
    | (split <;> try dsimp only)
theorem Dev.dropStrms_within (v : Dev) (id : Nat) : Dev.Within [.streams] v (Dev.dropStrms v id) := by
  unfold Dev.dropStrms
  try dsimp only
  repeat' first
    | with_reducible exact Dev.Within.refl _ _
    | with_reducible assumption
    | (with_reducible apply Dev.Within.step (Dev.modStrm_within _ _ _)); · decide
    | (with_reducible apply Dev.Within.ite)
    | (with_reducible apply Dev.Within.iteFst <;> try dsimp only)
    | (with_reducible apply Dev.Within.iteSnd <;> try dsimp only)
    | with_reducible apply Dev.Within.forAll
    | (intro _; try dsimp only)
    | (with_reducible apply Dev.Within.ofSnd; · with_reducible assumption)
    | (with_reducible apply Dev.Within.ofThird; · with_reducible assumption)
    | (with_reducible apply Dev.Within.ofFst; · with_reducible assumption)
    | (split <;> try dsimp only)
theorem Dev.forget_within (v : Dev) (id : Nat) : Dev.Within [.schedules, .streams, .contextSwitch] v (Dev.forget v id) := by
  unfold Dev.forget
  try dsimp only
  repeat' first
    | with_reducible exact Dev.Within.refl _ _
    | with_reducible assumption
    | (with_reducible apply Dev.Within.step (Dev.dropStrms_within _ _)); · decide
    | (with_reducible apply Dev.Within.step (Dev.modSched_within _ _ _)); · decide
    | (with_reducible apply Dev.Within.step (Dev.modCtxSwD_within _ _ _)); · decide
    | (with_reducible apply Dev.Within.ite)
    | (with_reducible apply Dev.Within.iteFst <;> try dsimp only)
    | (with_reducible apply Dev.Within.iteSnd <;> try dsimp only)
    | (intro _; try dsimp only)
    | (with_reducible apply Dev.Within.ofSnd; · with_reducible assumption)
    | (with_reducible apply Dev.Within.ofThird; · with_reducible assumption)
    | (with_reducible apply Dev.Within.ofFst; · with_reducible assumption)
    | (split <;> try dsimp only)
theorem Dev.unloadOrder_within (v : Dev) (die : Nat) (n : Nat) : Dev.Within [.schedules, .streams, .hostMem, .contextSwitch, .hif, .out] v (Dev.unloadOrder v die n) := by
  unfold Dev.unloadOrder
  try dsimp only
  repeat' first
    | with_reducible exact Dev.Within.refl _ _
    | with_reducible assumption
    | (with_reducible apply Dev.Within.step (Dev.endRun_within _ _ _)); · decide
    | (with_reducible apply Dev.Within.step (Dev.finish_within _ _ _ _ _ _ _)); · decide
    | (with_reducible apply Dev.Within.step (Dev.finishSid_within _ _ _ _ _)); · decide
    | (with_reducible apply Dev.Within.step (Dev.forget_within _ _)); · decide
    | (with_reducible apply Dev.order_within; · decide)
    | (with_reducible apply Dev.Within.ite)
    | (with_reducible apply Dev.Within.iteFst <;> try dsimp only)
    | (with_reducible apply Dev.Within.iteSnd <;> try dsimp only)
    | (intro _; try dsimp only)
    | (with_reducible apply Dev.Within.ofSnd; · with_reducible assumption)
    | (with_reducible apply Dev.Within.ofThird; · with_reducible assumption)
    | (with_reducible apply Dev.Within.ofFst; · with_reducible assumption)
    | (split <;> try dsimp only)
theorem Dev.copyOrder_within (v : Dev) (die : Nat) (n : Nat) : Dev.Within [.schedules, .streams, .spads, .caches, .contexts, .dmas, .coreRegs, .counters, .syncStatus, .stackMem, .channels, .stackRegs, .hostMem, .heldWrites, .faults, .contextSwitch, .fabric, .hif, .out] v (Dev.copyOrder v die n) := by
  unfold Dev.copyOrder
  try dsimp only
  repeat' first
    | with_reducible exact Dev.Within.refl _ _
    | with_reducible assumption
    | (with_reducible apply Dev.Within.step (Dev.accept_within _ _ _)); · decide
    | (with_reducible apply Dev.Within.step (Dev.dmaJoin_within _ _ _ _)); · decide
    | (with_reducible apply Dev.Within.step (Dev.finish_within _ _ _ _ _ _ _)); · decide
    | (with_reducible apply Dev.order_within; · decide)
    | (with_reducible apply Dev.Within.ite)
    | (with_reducible apply Dev.Within.iteFst <;> try dsimp only)
    | (with_reducible apply Dev.Within.iteSnd <;> try dsimp only)
    | (intro _; try dsimp only)
    | (with_reducible apply Dev.Within.ofSnd; · with_reducible assumption)
    | (with_reducible apply Dev.Within.ofThird; · with_reducible assumption)
    | (with_reducible apply Dev.Within.ofFst; · with_reducible assumption)
    | (split <;> try dsimp only)

end Sys2Proof.Machine
end

