-- ==== Sys2Proof/Laws/Context.lean ====
section
/-! SUPPORT. What each operation of Machine/Context may change. -/

namespace Sys2Proof.Machine

theorem mpaste_wf {m : Mem} (lo n : Nat) (cs : List Host.Cell) (h : Memory.wf m = true) : Memory.wf (mpaste m lo n cs) = true := by
  unfold mpaste
  generalize cs.filter _ = xs
  have hc := mclear_wf lo n h
  revert hc
  generalize mclear m lo n = q
  intro hc
  induction xs generalizing q with
  | nil => exact hc
  | cons x xs ih => exact ih _ (mset_wf _ _ hc)

theorem mapKeys_wfFrom {t : Mem} {lo : Option Nat} (a dst : Nat) (h : tabWfFrom 0#8 lo t = true) (b : ∀ e ∈ t, a ≤ e.1) (l : ∀ j ∈ lo, a ≤ j) :
    tabWfFrom 0#8 (lo.map fun j => j - a + dst) (t.map fun e => (e.1 - a + dst, e.2)) = true := by
  induction t generalizing lo with
  | nil => rfl
  | cons e r ih =>
    simp only [tabWfFrom, Bool.and_eq_true, List.map_cons] at h ⊢
    have he : a ≤ e.1 := b e (by simp)
    refine ⟨⟨?_, h.1.2⟩, ih h.2 (fun x hx => b x (by simp [hx])) (by simp [he])⟩
    cases lo with
    | none => simp
    | some j =>
      have hj := h.1.1
      have := l j rfl
      simp at hj ⊢
      omega

/-- The bytes of a range of a canonical memory, moved, are canonical. -/
theorem cellsAt_wf {m : Mem} (lo n dst : Nat) (h : Memory.wf m = true) : Memory.wf (cellsAt m lo n dst) = true := by
  have hf : tabWfFrom 0#8 none (m.filter fun e => decide (lo ≤ e.1) && decide (e.1 < lo + n)) = true := filter_wfFrom _ _ h
  exact mapKeys_wfFrom lo dst hf (fun e he => by simp at he; omega) (by simp)

theorem spliced_wf {cs : Mem} (old : List Host.Cell) (gs : List Nat) (h : Memory.wf cs = true) : Memory.wf (spliced cs old gs) = true := by
  unfold spliced
  generalize old.filter _ = xs
  have hc : Memory.wf (cs.filter fun e => !gs.contains (e.1 / 64)) = true := filter_wfFrom _ _ h
  revert hc
  generalize cs.filter _ = q
  intro hc
  induction xs generalizing q with
  | nil => exact hc
  | cons x xs ih => exact ih _ (mset_wf _ _ hc)
theorem Dev.pathErrors_within (v : Dev) (gs : List Nat) (req : Nat) : Dev.Within [.stackMem, .channels, .hif] v (Dev.pathErrors v gs req) := by
  unfold Dev.pathErrors
  try dsimp only
  repeat' first
    | with_reducible exact Dev.Within.refl _ _
    | with_reducible assumption
    | (with_reducible apply Dev.Within.step (Dev.pathError_within _ _ _)); · decide
    | (with_reducible apply Dev.Within.ite)
    | (with_reducible apply Dev.Within.iteFst <;> try dsimp only)
    | (with_reducible apply Dev.Within.iteSnd <;> try dsimp only)
    | with_reducible apply Dev.Within.forAll
    | (intro _; try dsimp only)
    | (with_reducible apply Dev.Within.ofSnd; · with_reducible assumption)
    | (with_reducible apply Dev.Within.ofThird; · with_reducible assumption)
    | (with_reducible apply Dev.Within.ofFst; · with_reducible assumption)
    | (split <;> try dsimp only)
theorem Dev.areaWrite_within (v : Dev) (die : Nat) (lo : Nat) (n : Nat) (cs : List Host.Cell) : Dev.Within [.stackMem, .channels, .stackRegs, .heldWrites, .hif] v (Dev.areaWrite v die lo n cs) := by
  unfold Dev.areaWrite
  try dsimp only
  repeat' first
    | with_reducible exact Dev.Within.refl _ _
    | with_reducible assumption
    | (with_reducible apply Dev.Within.step (Dev.pathErrors_within _ _ _)); · decide
    | (with_reducible apply Dev.Within.step (Dev.stackWrite_within _ _ _ _ _)); · decide
    | with_reducible apply Dev.Within.hbm
    | (with_reducible apply Dev.Within.ite)
    | (with_reducible apply Dev.Within.iteFst <;> try dsimp only)
    | (with_reducible apply Dev.Within.iteSnd <;> try dsimp only)
    | (intro _; try dsimp only)
    | with_reducible exact Hbm.Within.refl _ _
    | exact ⟨fun p hp => by cases p <;> first | exact absurd (by decide) hp | simp [Hbm.same], fun h => by first | exact h | exact mwrite_wf _ _ h | exact mclear_wf _ _ h | exact filter_wfFrom _ _ h | rfl | exact mpaste_wf _ _ _ h⟩
    | (with_reducible apply Dev.Within.ofSnd; · with_reducible assumption)
    | (with_reducible apply Dev.Within.ofThird; · with_reducible assumption)
    | (with_reducible apply Dev.Within.ofFst; · with_reducible assumption)
    | (split <;> try dsimp only)
theorem Dev.freeCells_within (v : Dev) (lo : Nat) (n : Nat) : Dev.Within [.free] v (Dev.freeCells v lo n).2 := by
  unfold Dev.freeCells
  try dsimp only
  repeat' first
    | with_reducible exact Dev.Within.refl _ _
    | with_reducible assumption
    | (with_reducible apply Dev.Within.step (Dev.skipFree_within _ _)); · decide
    | (with_reducible apply Dev.Within.ite)
    | (with_reducible apply Dev.Within.iteFst <;> try dsimp only)
    | (with_reducible apply Dev.Within.iteSnd <;> try dsimp only)
    | (intro _; try dsimp only)
    | (with_reducible apply Dev.Within.ofSnd; · with_reducible assumption)
    | (with_reducible apply Dev.Within.ofThird; · with_reducible assumption)
    | (with_reducible apply Dev.Within.ofFst; · with_reducible assumption)
    | (split <;> try dsimp only)
theorem Dev.pauseSched_within (v : Dev) (id : Nat) : Dev.Within [.streams, .spads, .caches, .contexts, .dmas, .coreRegs, .counters, .syncStatus, .stackMem, .channels, .stackRegs, .hostMem, .heldWrites, .contextSwitch, .fabric, .hif, .out] v (Dev.pauseSched v id) := by
  unfold Dev.pauseSched
  try dsimp only
  repeat' first
    | with_reducible exact Dev.Within.refl _ _
    | with_reducible assumption
    | (with_reducible apply Dev.Within.step (Dev.withdrawWaiting_within _ _)); · decide
    | (with_reducible apply Dev.Within.step (Dev.modStrm_within _ _ _)); · decide
    | (with_reducible apply Dev.Within.ite)
    | (with_reducible apply Dev.Within.iteFst <;> try dsimp only)
    | (with_reducible apply Dev.Within.iteSnd <;> try dsimp only)
    | with_reducible apply Dev.Within.forAll
    | (intro _; try dsimp only)
    | (with_reducible apply Dev.Within.ofSnd; · with_reducible assumption)
    | (with_reducible apply Dev.Within.ofThird; · with_reducible assumption)
    | (with_reducible apply Dev.Within.ofFst; · with_reducible assumption)
    | (split <;> try dsimp only)
theorem Dev.saveOrder_within (v : Dev) (die : Nat) (n : Nat) : Dev.Within [.streams, .spads, .caches, .contexts, .dmas, .coreRegs, .counters, .syncStatus, .stackMem, .channels, .stackRegs, .hostMem, .heldWrites, .contextSwitch, .fabric, .hif, .out] v (Dev.saveOrder v die n) := by
  unfold Dev.saveOrder
  try dsimp only
  repeat' first
    | with_reducible exact Dev.Within.refl _ _
    | with_reducible assumption
    | (with_reducible apply Dev.Within.step (Dev.finish_within _ _ _ _ _ _ _)); · decide
    | (with_reducible apply Dev.order_within; · decide)
    | (with_reducible apply Dev.Within.step (Dev.pauseSched_within _ _)); · decide
    | (with_reducible apply Dev.Within.step (Dev.modCtxSwD_within _ _ _)); · decide
    | (with_reducible apply Dev.Within.ite)
    | (with_reducible apply Dev.Within.iteFst <;> try dsimp only)
    | (with_reducible apply Dev.Within.iteSnd <;> try dsimp only)
    | with_reducible apply Dev.Within.forAll
    | (intro _; try dsimp only)
    | (with_reducible apply Dev.Within.ofSnd; · with_reducible assumption)
    | (with_reducible apply Dev.Within.ofThird; · with_reducible assumption)
    | (with_reducible apply Dev.Within.ofFst; · with_reducible assumption)
    | (split <;> try dsimp only)
theorem Dev.recordCut_within (v : Dev) (die : Nat) (ids : List Nat) : Dev.Within [.faults, .hif] v (Dev.recordCut v die ids) := by
  unfold Dev.recordCut
  try dsimp only
  repeat' first
    | with_reducible exact Dev.Within.refl _ _
    | with_reducible assumption
    | (with_reducible apply Dev.Within.step (Dev.capHeader_within _ _ _ _ _ _)); · decide
    | (with_reducible apply Dev.Within.step (Dev.ev_within _ _ _ _ _ _)); · decide
    | (with_reducible apply Dev.Within.step (Dev.writeRecord_within _ _ _)); · decide
    | (with_reducible apply Dev.Within.step (Dev.modFlt_within _ _ _)); · decide
    | (with_reducible apply Dev.Within.ite)
    | (with_reducible apply Dev.Within.iteFst <;> try dsimp only)
    | (with_reducible apply Dev.Within.iteSnd <;> try dsimp only)
    | (intro _; try dsimp only)
    | (with_reducible apply Dev.Within.ofSnd; · with_reducible assumption)
    | (with_reducible apply Dev.Within.ofThird; · with_reducible assumption)
    | (with_reducible apply Dev.Within.ofFst; · with_reducible assumption)
    | (split <;> try dsimp only)
theorem Dev.drainExpiry_within (v : Dev) (die : Nat) : Dev.Within [.streams, .dmas, .hostMem, .faults, .contextSwitch, .hif, .out] v (Dev.drainExpiry v die) := by
  unfold Dev.drainExpiry
  try dsimp only
  repeat' first
    | with_reducible exact Dev.Within.refl _ _
    | with_reducible assumption
    | (with_reducible apply Dev.Within.step (Dev.cutShort_within _ _)); · decide
    | (with_reducible apply Dev.Within.step (Dev.recordCut_within _ _ _)); · decide
    | (with_reducible apply Dev.Within.step (Dev.modCtxSwD_within _ _ _)); · decide
    | (with_reducible apply Dev.Within.ite)
    | (with_reducible apply Dev.Within.iteFst <;> try dsimp only)
    | (with_reducible apply Dev.Within.iteSnd <;> try dsimp only)
    | (intro _; try dsimp only)
    | (with_reducible apply Dev.Within.ofSnd; · with_reducible assumption)
    | (with_reducible apply Dev.Within.ofThird; · with_reducible assumption)
    | (with_reducible apply Dev.Within.ofFst; · with_reducible assumption)
    | (split <;> try dsimp only)
theorem Dev.saveCore_within (v : Dev) (base : Nat) (c : Nat) : Dev.Within [.stackMem, .channels, .stackRegs, .heldWrites, .hif, .free] v (Dev.saveCore v base c) := by
  unfold Dev.saveCore
  try dsimp only
  repeat' first
    | with_reducible exact Dev.Within.refl _ _
    | with_reducible assumption
    | (with_reducible apply Dev.Within.step (Dev.areaWrite_within _ _ _ _ _)); · decide
    | (with_reducible apply Dev.Within.step (Dev.freeCells_within _ _ _)); · decide
    | (with_reducible apply Dev.Within.ite)
    | (with_reducible apply Dev.Within.iteFst <;> try dsimp only)
    | (with_reducible apply Dev.Within.iteSnd <;> try dsimp only)
    | (intro _; try dsimp only)
    | (with_reducible apply Dev.Within.ofSnd; · with_reducible assumption)
    | (with_reducible apply Dev.Within.ofThird; · with_reducible assumption)
    | (with_reducible apply Dev.Within.ofFst; · with_reducible assumption)
    | (split <;> try dsimp only)
theorem Dev.emptyCaches_within (v : Dev) (c : Nat) : Dev.Within [.spads, .caches, .coreRegs, .counters, .syncStatus, .stackMem, .channels, .stackRegs, .heldWrites, .contextSwitch, .hif] v (Dev.emptyCaches v c) := by
  unfold Dev.emptyCaches
  try dsimp only
  repeat' first
    | with_reducible exact Dev.Within.refl _ _
    | with_reducible assumption
    | (with_reducible apply Dev.Within.step (Dev.writeBack_within _ _ _ _)); · decide
    | with_reducible apply Dev.Within.core
    | (with_reducible apply Dev.Within.ite)
    | (with_reducible apply Dev.Within.iteFst <;> try dsimp only)
    | (with_reducible apply Dev.Within.iteSnd <;> try dsimp only)
    | with_reducible apply Dev.Within.forAll
    | (intro _; try dsimp only)
    | with_reducible exact Core.Within.refl _ _
    | exact ⟨fun p hp => by cases p <;> first | exact absurd (by decide) hp | simp [Core.same], fun h => by first | exact h | exact mwrite_wf _ _ h | exact mclear_wf _ _ h | exact filter_wfFrom _ _ h | rfl⟩
    | (with_reducible apply Dev.Within.ofSnd; · with_reducible assumption)
    | (with_reducible apply Dev.Within.ofThird; · with_reducible assumption)
    | (with_reducible apply Dev.Within.ofFst; · with_reducible assumption)
    | (split <;> try dsimp only)
theorem Dev.dropLoads_within (v : Dev) (die : Nat) (cs : List Nat) : Dev.Within [.spads, .caches, .contexts, .coreRegs, .counters, .syncStatus, .stackMem, .channels, .stackRegs, .hostMem, .heldWrites, .contextSwitch, .fabric, .hif, .out] v (Dev.dropLoads v die cs) := by
  unfold Dev.dropLoads
  try dsimp only
  repeat' first
    | with_reducible exact Dev.Within.refl _ _
    | with_reducible assumption
    | (with_reducible apply Dev.Within.step (Dev.dmaRead_within _ _ _ _ _)); · decide
    | (with_reducible apply Dev.Within.step (Dev.dmaWrite_within _ _ _ _ _ _)); · decide
    | (with_reducible apply Dev.Within.step (Dev.sclLoad_within _ _ _ _ _ _ _ _ _)); · decide
    | (with_reducible apply Dev.Within.step (Dev.sclStore_within _ _ _ _ _ _ _)); · decide
    | (with_reducible apply Dev.Within.step (Dev.sealRead_within _ _ _)); · decide
    | (with_reducible apply Dev.Within.step (Dev.modFabD_within _ _ _)); · decide
    | (with_reducible apply Dev.Within.ite)
    | (with_reducible apply Dev.Within.iteFst <;> try dsimp only)
    | (with_reducible apply Dev.Within.iteSnd <;> try dsimp only)
    | (intro _; try dsimp only)
    | (with_reducible apply Dev.Within.ofSnd; · with_reducible assumption)
    | (with_reducible apply Dev.Within.ofThird; · with_reducible assumption)
    | (with_reducible apply Dev.Within.ofFst; · with_reducible assumption)
    | (split <;> try dsimp only)
theorem Dev.saveCopied_within (v : Dev) (die : Nat) : Dev.Within [.schedules, .streams, .spads, .caches, .contexts, .dmas, .coreRegs, .counters, .syncStatus, .stackMem, .channels, .stackRegs, .hostMem, .heldWrites, .contextSwitch, .fabric, .hif, .free, .out] v (Dev.saveCopied v die) := by
  unfold Dev.saveCopied
  try dsimp only
  repeat' first
    | with_reducible exact Dev.Within.refl _ _
    | with_reducible assumption
    | (with_reducible apply Dev.Within.step (Dev.areaWrite_within _ _ _ _ _)); · decide
    | (with_reducible apply Dev.Within.step (Dev.dropLoads_within _ _ _)); · decide
    | (with_reducible apply Dev.Within.step (Dev.emptyCaches_within _ _)); · decide
    | (with_reducible apply Dev.Within.step (Dev.finish_within _ _ _ _ _ _ _)); · decide
    | (with_reducible apply Dev.Within.step (Dev.freeCells_within _ _ _)); · decide
    | (with_reducible apply Dev.order_within; · decide)
    | (with_reducible apply Dev.Within.step (Dev.saveCore_within _ _ _)); · decide
    | (with_reducible apply Dev.Within.step (Dev.modSched_within _ _ _)); · decide
    | (with_reducible apply Dev.Within.step (Dev.modStrm_within _ _ _)); · decide
    | (with_reducible apply Dev.Within.step (Dev.modCtxSwD_within _ _ _)); · decide
    | with_reducible apply Dev.Within.core
    | (with_reducible apply Dev.Within.ite)
    | (with_reducible apply Dev.Within.iteFst <;> try dsimp only)
    | (with_reducible apply Dev.Within.iteSnd <;> try dsimp only)
    | with_reducible apply Dev.Within.foldlFst
    | with_reducible apply Dev.Within.foldlSnd
    | with_reducible apply Dev.Within.foldl
    | with_reducible apply Dev.Within.forAll
    | (intro _; try dsimp only)
    | with_reducible exact Core.Within.refl _ _
    | (with_reducible unfold Core.vacated; try dsimp only)
    | exact ⟨fun p hp => by cases p <;> first | exact absurd (by decide) hp | simp [Core.same, Core.vacated], fun h => by (try simp only [Core.vacated]); first | exact h | exact mwrite_wf _ _ h | exact mclear_wf _ _ h | exact filter_wfFrom _ _ h | rfl⟩
    | (with_reducible apply Dev.Within.ofSnd; · with_reducible assumption)
    | (with_reducible apply Dev.Within.ofThird; · with_reducible assumption)
    | (with_reducible apply Dev.Within.ofFst; · with_reducible assumption)
    | (split <;> try dsimp only)
theorem Dev.restoreCtxOrder_within (v : Dev) (die : Nat) (n : Nat) : Dev.Within [.schedules, .streams, .contexts, .counters, .syncStatus, .hostMem, .contextSwitch, .hif, .out] v (Dev.restoreCtxOrder v die n) := by
  unfold Dev.restoreCtxOrder
  try dsimp only
  repeat' first
    | with_reducible exact Dev.Within.refl _ _
    | with_reducible assumption
    | (with_reducible apply Dev.Within.step (Dev.accept_within _ _ _)); · decide
    | (with_reducible apply Dev.Within.step (Dev.coolFor_within _ _ _)); · decide
    | (with_reducible apply Dev.Within.step (Dev.finish_within _ _ _ _ _ _ _)); · decide
    | (with_reducible apply Dev.order_within; · decide)
    | (with_reducible apply Dev.Within.step (Dev.release_within _)); · decide
    | (with_reducible apply Dev.Within.step (Dev.settleTime_within _)); · decide
    | (with_reducible apply Dev.Within.step (Dev.modSched_within _ _ _)); · decide
    | (with_reducible apply Dev.Within.step (Dev.modStrm_within _ _ _)); · decide
    | (with_reducible apply Dev.Within.step (Dev.modCtxSwD_within _ _ _)); · decide
    | (with_reducible apply Dev.Within.ite)
    | (with_reducible apply Dev.Within.iteFst <;> try dsimp only)
    | (with_reducible apply Dev.Within.iteSnd <;> try dsimp only)
    | with_reducible apply Dev.Within.forAll
    | (intro _; try dsimp only)
    | (with_reducible apply Dev.Within.ofSnd; · with_reducible assumption)
    | (with_reducible apply Dev.Within.ofThird; · with_reducible assumption)
    | (with_reducible apply Dev.Within.ofFst; · with_reducible assumption)
    | (split <;> try dsimp only)
/-- Canonical where the stacks' memory is: the scratchpad comes from there. -/
theorem Dev.fillMem_within (v : Dev) (c : Nat) (spad : Mem) (acc : Tab W32) (h : v.memWf → Memory.wf spad = true) :
    Dev.Within [.spads, .accs] v (v.modCore c (fun k => { k with spad := spad, spadBad := [], acc := acc, accBad := [] })) := by
  have key : ∀ p, p ∉ [Part.spads, .accs] → ∀ x, Core.same p (v.core x) ((v.modCore c (fun k => { k with spad := spad, spadBad := [], acc := acc, accBad := [] })).core x) := by
    intro p hp x
    by_cases hx : x = c
    · subst hx
      simp only [Dev.core_modCore_same]
      cases p <;> first | exact absurd (by decide) hp | simp [Core.same]
    · rw [Dev.core_modCore_ne _ _ hx]; exact Core.same_refl _ _
  refine ⟨fun p hp => ?_, fun hw => ⟨hw.1, hw.2.1, fun x => ?_⟩⟩
  · cases p <;> first
      | exact key _ hp
      | exact absurd (by decide) hp
      | exact rfl
      | exact Hbm.same_refl .stackMem _
      | exact Hbm.same_refl .map _
  · by_cases hx : x = c
    · subst hx
      simp only [Dev.core_modCore_same]
      exact h hw
    · rw [Dev.core_modCore_ne _ _ hx]; exact hw.2.2 x
theorem Dev.fillCore_within (v : Dev) (base c : Nat) : Dev.Within [.spads, .accs, .stackMem, .channels, .hif] v (v.fillCore base c) :=
  Dev.Within.step (Dev.pathErrors_within _ _ _) (by decide)
    ((Dev.fillMem_within v c _ _ fun hw => cellsAt_wf _ _ _ (spliced_wf _ _ (cellsAt_wf _ _ _ hw.1))).mono (by decide))
theorem Dev.refetchAt_within (v : Dev) (k : Nat) (i : Nat) (noWait : Bool) : Dev.Within [.streams, .coreRegs, .syncStatus, .stackMem, .channels, .hif] v (Dev.refetchAt v k i noWait) := by
  unfold Dev.refetchAt
  try dsimp only
  repeat' first
    | with_reducible exact Dev.Within.refl _ _
    | with_reducible assumption
    | (with_reducible apply Dev.Within.step (Dev.fetchOne_within _ _)); · decide
    | (with_reducible apply Dev.Within.step (Dev.modStrm_within _ _ _)); · decide
    | (with_reducible apply Dev.Within.ite)
    | (with_reducible apply Dev.Within.iteFst <;> try dsimp only)
    | (with_reducible apply Dev.Within.iteSnd <;> try dsimp only)
    | (intro _; try dsimp only)
    | (with_reducible apply Dev.Within.ofSnd; · with_reducible assumption)
    | (with_reducible apply Dev.Within.ofThird; · with_reducible assumption)
    | (with_reducible apply Dev.Within.ofFst; · with_reducible assumption)
    | (split <;> try dsimp only)
theorem Dev.continueStrm_within (v : Dev) (k : Nat) : Dev.Within [.streams, .coreRegs, .syncStatus, .stackMem, .channels, .hif] v (Dev.continueStrm v k) := by
  unfold Dev.continueStrm
  try dsimp only
  repeat' first
    | with_reducible exact Dev.Within.refl _ _
    | with_reducible assumption
    | (with_reducible apply Dev.Within.step (Dev.refetchAt_within _ _ _ _)); · decide
    | (with_reducible apply Dev.Within.step (Dev.refill_within _ _)); · decide
    | (with_reducible apply Dev.Within.step (Dev.modStrm_within _ _ _)); · decide
    | (with_reducible apply Dev.Within.ite)
    | (with_reducible apply Dev.Within.iteFst <;> try dsimp only)
    | (with_reducible apply Dev.Within.iteSnd <;> try dsimp only)
    | with_reducible apply Dev.Within.forAll
    | (intro _; try dsimp only)
    | (with_reducible apply Dev.Within.ofSnd; · with_reducible assumption)
    | (with_reducible apply Dev.Within.ofThird; · with_reducible assumption)
    | (with_reducible apply Dev.Within.ofFst; · with_reducible assumption)
    | (split <;> try dsimp only)
theorem Dev.continueSched_within (v : Dev) (id : Nat) : Dev.Within [.schedules, .streams, .spads, .caches, .contexts, .dmas, .coreRegs, .counters, .syncStatus, .stackMem, .channels, .stackRegs, .hostMem, .heldWrites, .faults, .contextSwitch, .fabric, .hif, .out] v (Dev.continueSched v id) := by
  unfold Dev.continueSched
  try dsimp only
  repeat' first
    | with_reducible exact Dev.Within.refl _ _
    | with_reducible assumption
    | (with_reducible apply Dev.Within.step (Dev.continueStrm_within _ _)); · decide
    | (with_reducible apply Dev.Within.step (Dev.firstHeads_within _ _)); · decide
    | (with_reducible apply Dev.Within.step (Dev.refill_within _ _)); · decide
    | (with_reducible apply Dev.Within.step (Dev.modStrm_within _ _ _)); · decide
    | (with_reducible apply Dev.Within.ite)
    | (with_reducible apply Dev.Within.iteFst <;> try dsimp only)
    | (with_reducible apply Dev.Within.iteSnd <;> try dsimp only)
    | with_reducible apply Dev.Within.forAll
    | (intro _; try dsimp only)
    | (with_reducible apply Dev.Within.ofSnd; · with_reducible assumption)
    | (with_reducible apply Dev.Within.ofThird; · with_reducible assumption)
    | (with_reducible apply Dev.Within.ofFst; · with_reducible assumption)
    | (split <;> try dsimp only)
theorem Dev.ctxCopied_within (v : Dev) (die : Nat) : Dev.Within [.schedules, .streams, .spads, .accs, .tiles, .caches, .coreGens, .contexts, .dmas, .coreRegs, .counters, .syncStatus, .stackMem, .channels, .stackRegs, .hostMem, .heldWrites, .faults, .contextSwitch, .fabric, .hif, .out] v (Dev.ctxCopied v die) := by
  unfold Dev.ctxCopied
  try dsimp only
  repeat' first
    | with_reducible exact Dev.Within.refl _ _
    | with_reducible assumption
    | (with_reducible apply Dev.Within.step (Dev.complete_within _ _ _ _ _ _ _)); · decide
    | (with_reducible apply Dev.Within.step (Dev.continueSched_within _ _)); · decide
    | (with_reducible apply Dev.Within.step (Dev.fillCore_within _ _ _)); · decide
    | (with_reducible apply Dev.order_within; · decide)
    | (with_reducible apply Dev.Within.step (Dev.pathErrors_within _ _ _)); · decide
    | (with_reducible apply Dev.Within.step (Dev.modCtr_within _ _ _)); · decide
    | (with_reducible apply Dev.Within.step (Dev.modCtxSwD_within _ _ _)); · decide
    | (with_reducible apply Dev.Within.step (Dev.modStk_within _ _ _)); · decide
    | with_reducible apply Dev.Within.core
    | (with_reducible apply Dev.Within.ite)
    | (with_reducible apply Dev.Within.iteFst <;> try dsimp only)
    | (with_reducible apply Dev.Within.iteSnd <;> try dsimp only)
    | with_reducible apply Dev.Within.forAll
    | (intro _; try dsimp only)
    | with_reducible exact Core.Within.refl _ _
    | (with_reducible unfold Core.putBack; try dsimp only)
    | exact ⟨fun p hp => by cases p <;> first | exact absurd (by decide) hp | simp [Core.same, Core.putBack], fun h => by (try simp only [Core.putBack]); first | exact h | exact mwrite_wf _ _ h | exact mclear_wf _ _ h | exact filter_wfFrom _ _ h | rfl⟩
    | (with_reducible apply Dev.Within.ofSnd; · with_reducible assumption)
    | (with_reducible apply Dev.Within.ofThird; · with_reducible assumption)
    | (with_reducible apply Dev.Within.ofFst; · with_reducible assumption)
    | (split <;> try dsimp only)

end Sys2Proof.Machine
end

