-- ==== Sys2Proof/Laws/Faults.lean ====
section
/-! SUPPORT. What each operation of Machine/Faults may change. -/

namespace Sys2Proof.Machine

theorem Dev.releaseRecord_within (v : Dev) (die : Nat) (x : W32) : Dev.Within [.schedules, .streams, .dmas, .stackMem, .channels, .stackRegs, .hostMem, .heldWrites, .faults, .hif, .out] v (Dev.releaseRecord v die x) := by
  unfold Dev.releaseRecord
  try dsimp only
  repeat' first
    | with_reducible exact Dev.Within.refl _ _
    | with_reducible assumption
    | (with_reducible apply Dev.Within.step (Dev.capHeader_within _ _ _ _ _ _)); · decide
    | (with_reducible apply Dev.Within.step (Dev.closeRecord_within _ _ _ _)); · decide
    | (with_reducible apply Dev.Within.step (Dev.cutShort_within _ _)); · decide
    | (with_reducible apply Dev.Within.step (Dev.modFlt_within _ _ _)); · decide
    | (with_reducible apply Dev.Within.ite)
    | (with_reducible apply Dev.Within.iteFst <;> try dsimp only)
    | (with_reducible apply Dev.Within.iteSnd <;> try dsimp only)
    | (intro _; try dsimp only)
    | (with_reducible apply Dev.Within.ofSnd; · with_reducible assumption)
    | (with_reducible apply Dev.Within.ofThird; · with_reducible assumption)
    | (with_reducible apply Dev.Within.ofFst; · with_reducible assumption)
    | (split <;> try dsimp only)
theorem Dev.retireCore_within (v : Dev) (c : Nat) : Dev.Within [.schedules, .contexts, .coreRegs, .counters, .barriers, .syncStatus] v (Dev.retireCore v c) := by
  unfold Dev.retireCore
  try dsimp only
  repeat' first
    | with_reducible exact Dev.Within.refl _ _
    | with_reducible assumption
    | (with_reducible apply Dev.Within.step (Dev.barRetire_within _ _)); · decide
    | (with_reducible apply Dev.Within.step (Dev.modSched_within _ _ _)); · decide
    | with_reducible apply Dev.Within.core
    | (with_reducible apply Dev.Within.ite)
    | (with_reducible apply Dev.Within.iteFst <;> try dsimp only)
    | (with_reducible apply Dev.Within.iteSnd <;> try dsimp only)
    | with_reducible apply Dev.Within.forAll
    | (intro _; try dsimp only)
    | with_reducible exact Core.Within.refl _ _
    | exact ⟨fun p hp => by cases p <;> first | exact absurd (by decide) hp | simp [Core.same], fun h => by first | exact h | exact mwrite_wf _ _ h | exact mclear_wf _ _ h | exact filter_wfFrom _ _ h | rfl⟩
    | (with_reducible apply Dev.Within.ofSnd; · with_reducible assumption)
    | (with_reducible apply Dev.Within.ofThird; · with_reducible assumption)
    | (with_reducible apply Dev.Within.ofFst; · with_reducible assumption)
    | (split <;> try dsimp only)
theorem retireCoreFor_within (c : Nat) (arg : Nat) (mv : Mgmt × Dev) : Dev.Within [.schedules, .contexts, .coreRegs, .counters, .barriers, .syncStatus, .free] mv.2 (retireCoreFor c arg mv).2 := by
  unfold retireCoreFor
  try dsimp only
  repeat' first
    | with_reducible exact Dev.Within.refl _ _
    | with_reducible assumption
    | (with_reducible apply Dev.Within.step (Dev.retireCore_within _ _)); · decide
    | (with_reducible apply Dev.Within.step (logBoth_within _ _ _ _)); · decide
    | (with_reducible apply Dev.Within.ite)
    | (with_reducible apply Dev.Within.iteFst <;> try dsimp only)
    | (with_reducible apply Dev.Within.iteSnd <;> try dsimp only)
    | (intro _; try dsimp only)
    | (with_reducible apply Dev.Within.ofSnd; · with_reducible assumption)
    | (with_reducible apply Dev.Within.ofThird; · with_reducible assumption)
    | (with_reducible apply Dev.Within.ofFst; · with_reducible assumption)
    | (split <;> try dsimp only)
theorem Dev.repairColumn_within (v : Dev) (c : Nat) (col : Nat) : Dev.Within [.coreRegs, .contextSwitch] v (Dev.repairColumn v c col) := by
  unfold Dev.repairColumn
  try dsimp only
  repeat' first
    | with_reducible exact Dev.Within.refl _ _
    | with_reducible assumption
    | (with_reducible apply Dev.Within.step (Dev.coolWing_within _ _)); · decide
    | with_reducible apply Dev.Within.core
    | (with_reducible apply Dev.Within.ite)
    | (with_reducible apply Dev.Within.iteFst <;> try dsimp only)
    | (with_reducible apply Dev.Within.iteSnd <;> try dsimp only)
    | (intro _; try dsimp only)
    | with_reducible exact Core.Within.refl _ _
    | exact ⟨fun p hp => by cases p <;> first | exact absurd (by decide) hp | simp [Core.same], fun h => by first | exact h | exact mwrite_wf _ _ h | exact mclear_wf _ _ h | exact filter_wfFrom _ _ h | rfl⟩
    | (with_reducible apply Dev.Within.ofSnd; · with_reducible assumption)
    | (with_reducible apply Dev.Within.ofThird; · with_reducible assumption)
    | (with_reducible apply Dev.Within.ofFst; · with_reducible assumption)
    | (split <;> try dsimp only)
theorem coreTested_within (c : Nat) (result : TestResult) (m : Mgmt) (v : Dev) : Dev.Within [.schedules, .spads, .contexts, .coreRegs, .counters, .barriers, .syncStatus, .contextSwitch, .hif, .free] v (coreTested c result m v).2 := by
  unfold coreTested
  try dsimp only
  repeat' first
    | with_reducible exact Dev.Within.refl _ _
    | with_reducible assumption
    | (with_reducible apply Dev.Within.step (Dev.coolWing_within _ _)); · decide
    | (with_reducible apply Dev.Within.step (Dev.evMgmt_within _ _ _ _)); · decide
    | (with_reducible apply Dev.Within.step (Dev.repairColumn_within _ _ _)); · decide
    | (with_reducible apply Dev.Within.step (logBoth_within _ _ _ _)); · decide
    | (with_reducible apply Dev.Within.step (retireCoreFor_within _ _ _)); · decide
    | with_reducible apply Dev.Within.core
    | (with_reducible apply Dev.Within.ite)
    | (with_reducible apply Dev.Within.iteFst <;> try dsimp only)
    | (with_reducible apply Dev.Within.iteSnd <;> try dsimp only)
    | (intro _; try dsimp only)
    | with_reducible exact Core.Within.refl _ _
    | (with_reducible unfold Core.repairBank; try dsimp only)
    | exact ⟨fun p hp => by cases p <;> first | exact absurd (by decide) hp | simp [Core.same, Core.repairBank], fun h => by (try simp only [Core.repairBank]); first | exact h | exact mwrite_wf _ _ h | exact mclear_wf _ _ h | exact filter_wfFrom _ _ h | rfl⟩
    | (with_reducible apply Dev.Within.ofSnd; · with_reducible assumption)
    | (with_reducible apply Dev.Within.ofThird; · with_reducible assumption)
    | (with_reducible apply Dev.Within.ofFst; · with_reducible assumption)
    | (split <;> try dsimp only)

end Sys2Proof.Machine
end

