-- ==== Sys2Proof/Laws/Startup.lean ====
section
/-! SUPPORT. What each operation of Machine/Startup may change. -/

namespace Sys2Proof.Machine

theorem Dev.railsOff_within (v : Dev) : Dev.Within [.time, .timeRegs, .master, .schedules, .streams, .spads, .accs, .tiles, .caches, .coreGens, .contexts, .dmas, .coreRegs, .counters, .barriers, .syncStatus, .regions, .regionStatus, .stackMem, .channels, .stackRegs, .map, .hostMem, .moult, .heldWrites, .faults, .contextSwitch, .chip, .fabric, .links, .power, .hif, .out] v v.railsOff :=
  ⟨fun p hp => by cases p <;> first | exact absurd (by decide) hp | exact rfl, fun h => ⟨rfl, ((Dev.mergeAll_within v).2 h).2.1, fun _ => rfl⟩⟩
theorem activateTrain_within (mv : Mgmt × Dev) : Dev.Within [.free] mv.2 (activateTrain mv).2 := by
  unfold activateTrain
  try dsimp only
  repeat' first
    | with_reducible exact Dev.Within.refl _ _
    | with_reducible assumption
    | (with_reducible apply Dev.Within.step (logBoth_within _ _ _ _)); · decide
    | (with_reducible apply Dev.Within.ite)
    | (with_reducible apply Dev.Within.iteFst <;> try dsimp only)
    | (with_reducible apply Dev.Within.iteSnd <;> try dsimp only)
    | (intro _; try dsimp only)
    | (with_reducible apply Dev.Within.ofSnd; · with_reducible assumption)
    | (with_reducible apply Dev.Within.ofThird; · with_reducible assumption)
    | (with_reducible apply Dev.Within.ofFst; · with_reducible assumption)
    | (split <;> try dsimp only)
theorem moduleReset_within (m : Mgmt) (v : Dev) : Dev.Within [.time, .timeRegs, .master, .schedules, .streams, .spads, .accs, .tiles, .caches, .coreGens, .contexts, .dmas, .coreRegs, .counters, .barriers, .syncStatus, .regions, .regionStatus, .stackMem, .channels, .stackRegs, .map, .hostMem, .moult, .heldWrites, .faults, .contextSwitch, .chip, .fabric, .links, .power, .hif, .free, .out] v (moduleReset m v).2 := by
  unfold moduleReset
  try dsimp only
  repeat' first
    | with_reducible exact Dev.Within.refl _ _
    | with_reducible assumption
    | (with_reducible apply Dev.Within.step (Dev.railsOff_within _)); · decide
    | (with_reducible apply Dev.Within.step (activateTrain_within _)); · decide
    | (with_reducible apply Dev.Within.ite)
    | (with_reducible apply Dev.Within.iteFst <;> try dsimp only)
    | (with_reducible apply Dev.Within.iteSnd <;> try dsimp only)
    | (intro _; try dsimp only)
    | (with_reducible apply Dev.Within.ofSnd; · with_reducible assumption)
    | (with_reducible apply Dev.Within.ofThird; · with_reducible assumption)
    | (with_reducible apply Dev.Within.ofFst; · with_reducible assumption)
    | (split <;> try dsimp only)
theorem thermalStep_within (tj0 : Nat) (tj1 : Nat) (ts : List Nat) (m : Mgmt) (v : Dev) : Dev.Within [.time, .timeRegs, .master, .schedules, .streams, .spads, .accs, .tiles, .caches, .coreGens, .contexts, .dmas, .coreRegs, .counters, .barriers, .syncStatus, .regions, .regionStatus, .stackMem, .channels, .stackRegs, .map, .hostMem, .moult, .heldWrites, .faults, .contextSwitch, .chip, .fabric, .links, .power, .hif, .free, .out] v (thermalStep tj0 tj1 ts m v).2 := by
  unfold thermalStep
  try dsimp only
  repeat' first
    | with_reducible exact Dev.Within.refl _ _
    | with_reducible assumption
    | (with_reducible apply Dev.Within.step (Dev.thermalSample_within _ _ _ _ _)); · decide
    | (with_reducible apply Dev.Within.step (logTrip_within _ _ _)); · decide
    | (with_reducible apply Dev.Within.step (moduleReset_within _ _)); · decide
    | (with_reducible apply Dev.Within.ite)
    | (with_reducible apply Dev.Within.iteFst <;> try dsimp only)
    | (with_reducible apply Dev.Within.iteSnd <;> try dsimp only)
    | (intro _; try dsimp only)
    | (with_reducible apply Dev.Within.ofSnd; · with_reducible assumption)
    | (with_reducible apply Dev.Within.ofThird; · with_reducible assumption)
    | (with_reducible apply Dev.Within.ofFst; · with_reducible assumption)
    | (split <;> try dsimp only)
theorem romStart_within (slot : Nat) (mv : Mgmt × Dev) : Dev.Within [.free] mv.2 (romStart slot mv).2 := by
  unfold romStart
  try dsimp only
  repeat' first
    | with_reducible exact Dev.Within.refl _ _
    | with_reducible assumption
    | (with_reducible apply Dev.Within.step (logBoth_within _ _ _ _)); · decide
    | (with_reducible apply Dev.Within.ite)
    | (with_reducible apply Dev.Within.iteFst <;> try dsimp only)
    | (with_reducible apply Dev.Within.iteSnd <;> try dsimp only)
    | (intro _; try dsimp only)
    | (with_reducible apply Dev.Within.ofSnd; · with_reducible assumption)
    | (with_reducible apply Dev.Within.ofThird; · with_reducible assumption)
    | (with_reducible apply Dev.Within.ofFst; · with_reducible assumption)
    | (split <;> try dsimp only)
theorem activateMgmt_within (mv : Mgmt × Dev) : Dev.Within [.free] mv.2 (activateMgmt mv).2 := by
  unfold activateMgmt
  try dsimp only
  repeat' first
    | with_reducible exact Dev.Within.refl _ _
    | with_reducible assumption
    | (with_reducible apply Dev.Within.step (logBoth_within _ _ _ _)); · decide
    | (with_reducible apply Dev.Within.ite)
    | (with_reducible apply Dev.Within.iteFst <;> try dsimp only)
    | (with_reducible apply Dev.Within.iteSnd <;> try dsimp only)
    | (intro _; try dsimp only)
    | (with_reducible apply Dev.Within.ofSnd; · with_reducible assumption)
    | (with_reducible apply Dev.Within.ofThird; · with_reducible assumption)
    | (with_reducible apply Dev.Within.ofFst; · with_reducible assumption)
    | (split <;> try dsimp only)
theorem mgmtRestart_within (slot : Nat) (mv : Mgmt × Dev) : Dev.Within [.free] mv.2 (mgmtRestart slot mv).2 := by
  unfold mgmtRestart
  try dsimp only
  repeat' first
    | with_reducible exact Dev.Within.refl _ _
    | with_reducible assumption
    | (with_reducible apply Dev.Within.step (activateMgmt_within _)); · decide
    | (with_reducible apply Dev.Within.step (romStart_within _ _)); · decide
    | (with_reducible apply Dev.Within.ite)
    | (with_reducible apply Dev.Within.iteFst <;> try dsimp only)
    | (with_reducible apply Dev.Within.iteSnd <;> try dsimp only)
    | (intro _; try dsimp only)
    | (with_reducible apply Dev.Within.ofSnd; · with_reducible assumption)
    | (with_reducible apply Dev.Within.ofThird; · with_reducible assumption)
    | (with_reducible apply Dev.Within.ofFst; · with_reducible assumption)
    | (split <;> try dsimp only)
theorem auxUp_within (slot : Nat) (m : Mgmt) (v : Dev) : Dev.Within [.free] v (auxUp slot m v).2 := by
  unfold auxUp
  try dsimp only
  repeat' first
    | with_reducible exact Dev.Within.refl _ _
    | with_reducible assumption
    | (with_reducible apply Dev.Within.step (romStart_within _ _)); · decide
    | (with_reducible apply Dev.Within.ite)
    | (with_reducible apply Dev.Within.iteFst <;> try dsimp only)
    | (with_reducible apply Dev.Within.iteSnd <;> try dsimp only)
    | (intro _; try dsimp only)
    | (with_reducible apply Dev.Within.ofSnd; · with_reducible assumption)
    | (with_reducible apply Dev.Within.ofThird; · with_reducible assumption)
    | (with_reducible apply Dev.Within.ofFst; · with_reducible assumption)
    | (split <;> try dsimp only)
theorem auxLoss_within (m : Mgmt) (v : Dev) : Dev.Within [] v (auxLoss m v).2 := by
  unfold auxLoss
  try dsimp only
  repeat' first
    | with_reducible exact Dev.Within.refl _ _
    | with_reducible assumption
    | (with_reducible apply Dev.Within.ite)
    | (with_reducible apply Dev.Within.iteFst <;> try dsimp only)
    | (with_reducible apply Dev.Within.iteSnd <;> try dsimp only)
    | (intro _; try dsimp only)
    | (with_reducible apply Dev.Within.ofSnd; · with_reducible assumption)
    | (with_reducible apply Dev.Within.ofThird; · with_reducible assumption)
    | (with_reducible apply Dev.Within.ofFst; · with_reducible assumption)
    | (split <;> try dsimp only)
theorem atStep_within {F : List Part} {u₀ v : Dev} {n : Nat} {m : Mgmt} {f : Mgmt → Dev → Mgmt × Dev} (h_f : ∀ q w, Dev.Within F w (f q w).2)
    (h : Dev.Within F u₀ v) : Dev.Within F u₀ (atStep n m v f).2 := by
  unfold atStep
  split
  · exact h.trans (h_f _ v)
  · exact h
theorem inputQualified_within (vin : Nat) (m : Mgmt) (v : Dev) : Dev.Within [.power] v (inputQualified vin m v).2 := by
  unfold inputQualified
  try dsimp only
  repeat' first
    | with_reducible exact Dev.Within.refl _ _
    | with_reducible assumption
    | (with_reducible apply Dev.Within.step (Dev.recharge_within _)); · decide
    | (with_reducible apply Dev.Within.step (Dev.setVin_within _ _)); · decide
    | (with_reducible apply atStep_within)
    | (with_reducible apply Dev.Within.step (Dev.modPwr_within _ _)); · decide
    | (with_reducible apply Dev.Within.ite)
    | (with_reducible apply Dev.Within.iteFst <;> try dsimp only)
    | (with_reducible apply Dev.Within.iteSnd <;> try dsimp only)
    | (intro _; try dsimp only)
    | (with_reducible apply Dev.Within.ofSnd; · with_reducible assumption)
    | (with_reducible apply Dev.Within.ofThird; · with_reducible assumption)
    | (with_reducible apply Dev.Within.ofFst; · with_reducible assumption)
    | (split <;> try dsimp only)
theorem bankCharge_within (m : Mgmt) (v : Dev) : Dev.Within [.power] v (bankCharge m v).2 := by
  unfold bankCharge
  try dsimp only
  repeat' first
    | with_reducible exact Dev.Within.refl _ _
    | with_reducible assumption
    | (with_reducible apply atStep_within)
    | (with_reducible apply Dev.Within.step (Dev.modPwr_within _ _)); · decide
    | (with_reducible apply Dev.Within.ite)
    | (with_reducible apply Dev.Within.iteFst <;> try dsimp only)
    | (with_reducible apply Dev.Within.iteSnd <;> try dsimp only)
    | (intro _; try dsimp only)
    | (with_reducible apply Dev.Within.ofSnd; · with_reducible assumption)
    | (with_reducible apply Dev.Within.ofThird; · with_reducible assumption)
    | (with_reducible apply Dev.Within.ofFst; · with_reducible assumption)
    | (split <;> try dsimp only)
theorem Dev.setChip_within (v : Dev) (n : Nat) : Dev.Within [.chip] v (Dev.setChip v n) := by
  unfold Dev.setChip
  try dsimp only
  repeat' first
    | with_reducible exact Dev.Within.refl _ _
    | with_reducible assumption
    | (with_reducible apply Dev.Within.ite)
    | (with_reducible apply Dev.Within.iteFst <;> try dsimp only)
    | (with_reducible apply Dev.Within.iteSnd <;> try dsimp only)
    | (intro _; try dsimp only)
    | (with_reducible apply Dev.Within.ofSnd; · with_reducible assumption)
    | (with_reducible apply Dev.Within.ofThird; · with_reducible assumption)
    | (with_reducible apply Dev.Within.ofFst; · with_reducible assumption)
    | exact ⟨fun p hp => by cases p <;> first | exact absurd (by decide) hp | exact rfl | exact fun c => Core.same_refl _ _ | exact Hbm.same_refl .stackMem _ | exact Hbm.same_refl .map _, id⟩
    | (split <;> try dsimp only)
theorem fuseLoad_within (ok : Bool) (m : Mgmt) (v : Dev) : Dev.Within [.time, .master, .coreRegs, .channels, .chip, .fabric, .power, .hif, .free, .out] v (fuseLoad ok m v).2 := by
  unfold fuseLoad
  try dsimp only
  repeat' first
    | with_reducible exact Dev.Within.refl _ _
    | with_reducible assumption
    | (with_reducible apply Dev.Within.step (Dev.setChip_within _ _)); · decide
    | (with_reducible apply atStep_within)
    | (with_reducible apply Dev.Within.step (logBoth_within _ _ _ _)); · decide
    | (with_reducible apply Dev.Within.step (setChip_within _ _ _ _)); · decide
    | (with_reducible apply Dev.Within.step (Dev.modPwr_within _ _)); · decide
    | (with_reducible apply Dev.Within.step (Dev.modChan_within _ _ _)); · decide
    | with_reducible apply Dev.Within.core
    | (with_reducible apply Dev.Within.ite)
    | (with_reducible apply Dev.Within.iteFst <;> try dsimp only)
    | (with_reducible apply Dev.Within.iteSnd <;> try dsimp only)
    | with_reducible apply Dev.Within.forAll
    | (intro _; try dsimp only)
    | with_reducible exact Core.Within.refl _ _
    | (with_reducible unfold Core.fused; try dsimp only)
    | exact ⟨fun p hp => by cases p <;> first | exact absurd (by decide) hp | simp [Core.same, Core.fused], fun h => by (try simp only [Core.fused]); first | exact h | exact mwrite_wf _ _ h | exact mclear_wf _ _ h | exact filter_wfFrom _ _ h | rfl⟩
    | (with_reducible apply Dev.Within.ofSnd; · with_reducible assumption)
    | (with_reducible apply Dev.Within.ofThird; · with_reducible assumption)
    | (with_reducible apply Dev.Within.ofFst; · with_reducible assumption)
    | (split <;> try dsimp only)
theorem Dev.clearRams_within (v : Dev) : Dev.Within [.streams, .counters, .faults] v (Dev.clearRams v) := by
  unfold Dev.clearRams
  try dsimp only
  repeat' first
    | with_reducible exact Dev.Within.refl _ _
    | with_reducible assumption
    | (with_reducible apply Dev.Within.ite)
    | (with_reducible apply Dev.Within.iteFst <;> try dsimp only)
    | (with_reducible apply Dev.Within.iteSnd <;> try dsimp only)
    | (intro _; try dsimp only)
    | (with_reducible apply Dev.Within.ofSnd; · with_reducible assumption)
    | (with_reducible apply Dev.Within.ofThird; · with_reducible assumption)
    | (with_reducible apply Dev.Within.ofFst; · with_reducible assumption)
    | exact ⟨fun p hp => by cases p <;> first | exact absurd (by decide) hp | exact rfl | exact fun c => Core.same_refl _ _ | exact Hbm.same_refl .stackMem _ | exact Hbm.same_refl .map _, id⟩
    | (split <;> try dsimp only)
theorem Dev.sramClear_within (v : Dev) : Dev.Within [.streams, .spads, .accs, .caches, .counters, .faults] v (Dev.sramClear v) := by
  unfold Dev.sramClear
  try dsimp only
  repeat' first
    | with_reducible exact Dev.Within.refl _ _
    | with_reducible assumption
    | (with_reducible apply Dev.Within.step (Dev.clearRams_within _)); · decide
    | with_reducible apply Dev.Within.core
    | (with_reducible apply Dev.Within.ite)
    | (with_reducible apply Dev.Within.iteFst <;> try dsimp only)
    | (with_reducible apply Dev.Within.iteSnd <;> try dsimp only)
    | with_reducible apply Dev.Within.forAll
    | (intro _; try dsimp only)
    | with_reducible exact Core.Within.refl _ _
    | exact ⟨fun p hp => by cases p <;> first | exact absurd (by decide) hp | simp [Core.same], fun h => by first | exact h | exact mwrite_wf _ _ h | exact mclear_wf _ _ h | exact filter_wfFrom _ _ h | rfl⟩
    | (with_reducible apply Dev.Within.ofSnd; · with_reducible assumption)
    | (with_reducible apply Dev.Within.ofThird; · with_reducible assumption)
    | (with_reducible apply Dev.Within.ofFst; · with_reducible assumption)
    | (split <;> try dsimp only)
theorem retireRecord_within (log : Bool) (ch : Nat) (mv : Mgmt × Dev) : Dev.Within [.free] mv.2 (retireRecord log ch mv).2 := by
  unfold retireRecord
  try dsimp only
  repeat' first
    | with_reducible exact Dev.Within.refl _ _
    | with_reducible assumption
    | (with_reducible apply Dev.Within.step (logBoth_within _ _ _ _)); · decide
    | (with_reducible apply Dev.Within.ite)
    | (with_reducible apply Dev.Within.iteFst <;> try dsimp only)
    | (with_reducible apply Dev.Within.iteSnd <;> try dsimp only)
    | (intro _; try dsimp only)
    | (with_reducible apply Dev.Within.ofSnd; · with_reducible assumption)
    | (with_reducible apply Dev.Within.ofThird; · with_reducible assumption)
    | (with_reducible apply Dev.Within.ofFst; · with_reducible assumption)
    | (split <;> try dsimp only)
theorem Dev.trainStacks_within (v : Dev) (retired : List Nat) : Dev.Within [.stackMem, .channels, .stackRegs, .map] v (Dev.trainStacks v retired) := by
  unfold Dev.trainStacks
  try dsimp only
  repeat' first
    | with_reducible exact Dev.Within.refl _ _
    | with_reducible assumption
    | (with_reducible apply Dev.Within.step (Dev.modChan_within _ _ _)); · decide
    | (with_reducible apply Dev.Within.step (Dev.modStk_within _ _ _)); · decide
    | with_reducible apply Dev.Within.hbm
    | (with_reducible apply Dev.Within.ite)
    | (with_reducible apply Dev.Within.iteFst <;> try dsimp only)
    | (with_reducible apply Dev.Within.iteSnd <;> try dsimp only)
    | with_reducible apply Dev.Within.forAll
    | (intro _; try dsimp only)
    | with_reducible exact Hbm.Within.refl _ _
    | exact ⟨fun p hp => by cases p <;> first | exact absurd (by decide) hp | simp [Hbm.same], fun h => by first | exact h | exact mwrite_wf _ _ h | exact mclear_wf _ _ h | exact filter_wfFrom _ _ h | rfl⟩
    | (with_reducible apply Dev.Within.ofSnd; · with_reducible assumption)
    | (with_reducible apply Dev.Within.ofThird; · with_reducible assumption)
    | (with_reducible apply Dev.Within.ofFst; · with_reducible assumption)
    | (split <;> try dsimp only)
theorem trainLane_within (mv : Mgmt × Dev) (w : WeakLane) : Dev.Within [.channels, .hif] mv.2 (trainLane mv w).2 := by
  unfold trainLane
  try dsimp only
  repeat' first
    | with_reducible exact Dev.Within.refl _ _
    | with_reducible assumption
    | (with_reducible apply Dev.Within.step (swapLane_within _ _ _ _ _ _)); · decide
    | (with_reducible apply Dev.Within.ite)
    | (with_reducible apply Dev.Within.iteFst <;> try dsimp only)
    | (with_reducible apply Dev.Within.iteSnd <;> try dsimp only)
    | (intro _; try dsimp only)
    | (with_reducible apply Dev.Within.ofSnd; · with_reducible assumption)
    | (with_reducible apply Dev.Within.ofThird; · with_reducible assumption)
    | (with_reducible apply Dev.Within.ofFst; · with_reducible assumption)
    | (split <;> try dsimp only)
theorem stackTraining_within (failed : List Nat) (weak : List WeakLane) (m : Mgmt) (v : Dev) : Dev.Within [.stackMem, .channels, .stackRegs, .map, .hif, .free] v (stackTraining failed weak m v).2 := by
  unfold stackTraining
  try dsimp only
  repeat' first
    | with_reducible exact Dev.Within.refl _ _
    | with_reducible assumption
    | (with_reducible apply Dev.Within.step (Dev.trainStacks_within _ _)); · decide
    | (with_reducible apply atStep_within)
    | (with_reducible apply Dev.Within.step (retireRecord_within _ _ _)); · decide
    | (with_reducible apply Dev.Within.step (trainLane_within _ _)); · decide
    | (with_reducible apply Dev.Within.ite)
    | (with_reducible apply Dev.Within.iteFst <;> try dsimp only)
    | (with_reducible apply Dev.Within.iteSnd <;> try dsimp only)
    | with_reducible apply Dev.Within.foldlFst
    | with_reducible apply Dev.Within.foldlSnd
    | with_reducible apply Dev.Within.foldl
    | (intro _; try dsimp only)
    | (with_reducible apply Dev.Within.ofSnd; · with_reducible assumption)
    | (with_reducible apply Dev.Within.ofThird; · with_reducible assumption)
    | (with_reducible apply Dev.Within.ofFst; · with_reducible assumption)
    | (split <;> try dsimp only)
theorem Dev.trainLink_within (v : Dev) (l : Nat) (mask : Nat) (delay : Nat) : Dev.Within [.links, .hif] v (Dev.trainLink v l mask delay) := by
  unfold Dev.trainLink
  try dsimp only
  repeat' first
    | with_reducible exact Dev.Within.refl _ _
    | with_reducible assumption
    | (with_reducible apply Dev.Within.step (Dev.ev_within _ _ _ _ _ _)); · decide
    | (with_reducible apply Dev.Within.step (Dev.modLinkN_within _ _ _)); · decide
    | (with_reducible apply Dev.Within.ite)
    | (with_reducible apply Dev.Within.iteFst <;> try dsimp only)
    | (with_reducible apply Dev.Within.iteSnd <;> try dsimp only)
    | (intro _; try dsimp only)
    | (with_reducible apply Dev.Within.ofSnd; · with_reducible assumption)
    | (with_reducible apply Dev.Within.ofThird; · with_reducible assumption)
    | (with_reducible apply Dev.Within.ofFst; · with_reducible assumption)
    | (split <;> try dsimp only)
theorem Dev.trainLinks_within (v : Dev) (lanes : List Nat) (stamps : List Stamps) : Dev.Within [.links, .hif] v (Dev.trainLinks v lanes stamps) := by
  unfold Dev.trainLinks
  try dsimp only
  repeat' first
    | with_reducible exact Dev.Within.refl _ _
    | with_reducible assumption
    | (with_reducible apply Dev.Within.step (Dev.trainLink_within _ _ _ _)); · decide
    | (with_reducible apply Dev.Within.ite)
    | (with_reducible apply Dev.Within.iteFst <;> try dsimp only)
    | (with_reducible apply Dev.Within.iteSnd <;> try dsimp only)
    | with_reducible apply Dev.Within.forAll
    | (intro _; try dsimp only)
    | (with_reducible apply Dev.Within.ofSnd; · with_reducible assumption)
    | (with_reducible apply Dev.Within.ofThird; · with_reducible assumption)
    | (with_reducible apply Dev.Within.ofFst; · with_reducible assumption)
    | (split <;> try dsimp only)
theorem Dev.postDownLinks_within (v : Dev) : Dev.Within [.hif] v (Dev.postDownLinks v) := by
  unfold Dev.postDownLinks
  try dsimp only
  repeat' first
    | with_reducible exact Dev.Within.refl _ _
    | with_reducible assumption
    | (with_reducible apply Dev.Within.step (Dev.ev_within _ _ _ _ _ _)); · decide
    | (with_reducible apply Dev.Within.ite)
    | (with_reducible apply Dev.Within.iteFst <;> try dsimp only)
    | (with_reducible apply Dev.Within.iteSnd <;> try dsimp only)
    | with_reducible apply Dev.Within.forAll
    | (intro _; try dsimp only)
    | (with_reducible apply Dev.Within.ofSnd; · with_reducible assumption)
    | (with_reducible apply Dev.Within.ofThird; · with_reducible assumption)
    | (with_reducible apply Dev.Within.ofFst; · with_reducible assumption)
    | (split <;> try dsimp only)
theorem hostDiscovery_within (ok : Bool) (m : Mgmt) (v : Dev) : Dev.Within [.time, .master, .power, .hif, .free, .out] v (hostDiscovery ok m v).2 := by
  unfold hostDiscovery
  try dsimp only
  repeat' first
    | with_reducible exact Dev.Within.refl _ _
    | with_reducible assumption
    | (with_reducible apply Dev.Within.step (Dev.postDownLinks_within _)); · decide
    | (with_reducible apply Dev.Within.step (Dev.powerChanged_within _ _)); · decide
    | (with_reducible apply atStep_within)
    | (with_reducible apply Dev.Within.step (logBoth_within _ _ _ _)); · decide
    | (with_reducible apply Dev.Within.step (Dev.modPwr_within _ _)); · decide
    | (with_reducible apply Dev.Within.ite)
    | (with_reducible apply Dev.Within.iteFst <;> try dsimp only)
    | (with_reducible apply Dev.Within.iteSnd <;> try dsimp only)
    | (intro _; try dsimp only)
    | (with_reducible apply Dev.Within.ofSnd; · with_reducible assumption)
    | (with_reducible apply Dev.Within.ofThird; · with_reducible assumption)
    | (with_reducible apply Dev.Within.ofFst; · with_reducible assumption)
    | (split <;> try dsimp only)
theorem startupLoss_within (vin : Nat) (m : Mgmt) (v : Dev) : Dev.Within [.time, .timeRegs, .master, .schedules, .streams, .spads, .accs, .tiles, .caches, .coreGens, .contexts, .dmas, .coreRegs, .counters, .barriers, .syncStatus, .regions, .regionStatus, .stackMem, .channels, .stackRegs, .map, .hostMem, .moult, .heldWrites, .faults, .contextSwitch, .chip, .fabric, .links, .power, .hif, .out] v (startupLoss vin m v).2 := by
  unfold startupLoss
  try dsimp only
  repeat' first
    | with_reducible exact Dev.Within.refl _ _
    | with_reducible assumption
    | (with_reducible apply Dev.Within.step (Dev.railsOff_within _)); · decide
    | (with_reducible apply Dev.Within.step (Dev.setVin_within _ _)); · decide
    | (with_reducible apply Dev.Within.ite)
    | (with_reducible apply Dev.Within.iteFst <;> try dsimp only)
    | (with_reducible apply Dev.Within.iteSnd <;> try dsimp only)
    | (intro _; try dsimp only)
    | (with_reducible apply Dev.Within.ofSnd; · with_reducible assumption)
    | (with_reducible apply Dev.Within.ofThird; · with_reducible assumption)
    | (with_reducible apply Dev.Within.ofFst; · with_reducible assumption)
    | (split <;> try dsimp only)
theorem coldReset_within (m : Mgmt) (v : Dev) : Dev.Within [.time, .timeRegs, .master, .schedules, .streams, .spads, .accs, .tiles, .caches, .coreGens, .contexts, .dmas, .coreRegs, .counters, .barriers, .syncStatus, .regions, .regionStatus, .stackMem, .channels, .stackRegs, .map, .hostMem, .moult, .heldWrites, .faults, .contextSwitch, .chip, .fabric, .links, .power, .hif, .out] v (coldReset m v).2 := by
  unfold coldReset
  try dsimp only
  repeat' first
    | with_reducible exact Dev.Within.refl _ _
    | with_reducible assumption
    | (with_reducible apply Dev.Within.step (Dev.railsOff_within _)); · decide
    | (with_reducible apply Dev.Within.ite)
    | (with_reducible apply Dev.Within.iteFst <;> try dsimp only)
    | (with_reducible apply Dev.Within.iteSnd <;> try dsimp only)
    | (intro _; try dsimp only)
    | (with_reducible apply Dev.Within.ofSnd; · with_reducible assumption)
    | (with_reducible apply Dev.Within.ofThird; · with_reducible assumption)
    | (with_reducible apply Dev.Within.ofFst; · with_reducible assumption)
    | (split <;> try dsimp only)
theorem rideThroughLost_within (duration : Nat) (m : Mgmt) (v : Dev) : Dev.Within [.time, .timeRegs, .master, .schedules, .streams, .spads, .accs, .tiles, .caches, .coreGens, .contexts, .dmas, .coreRegs, .counters, .barriers, .syncStatus, .regions, .regionStatus, .stackMem, .channels, .stackRegs, .map, .hostMem, .moult, .heldWrites, .faults, .contextSwitch, .chip, .fabric, .links, .power, .hif, .free, .out] v (rideThroughLost duration m v).2 := by
  unfold rideThroughLost
  try dsimp only
  repeat' first
    | with_reducible exact Dev.Within.refl _ _
    | with_reducible assumption
    | (with_reducible apply Dev.Within.step (coldReset_within _ _)); · decide
    | (with_reducible apply Dev.Within.step (logBoth_within _ _ _ _)); · decide
    | (with_reducible apply Dev.Within.step (moduleReset_within _ _)); · decide
    | (with_reducible apply Dev.Within.ite)
    | (with_reducible apply Dev.Within.iteFst <;> try dsimp only)
    | (with_reducible apply Dev.Within.iteSnd <;> try dsimp only)
    | (intro _; try dsimp only)
    | (with_reducible apply Dev.Within.ofSnd; · with_reducible assumption)
    | (with_reducible apply Dev.Within.ofThird; · with_reducible assumption)
    | (with_reducible apply Dev.Within.ofFst; · with_reducible assumption)
    | (split <;> try dsimp only)

end Sys2Proof.Machine
end

