-- ==== Sys2Proof/Laws/Mgmt.lean ====
section
/-! SUPPORT. What each operation of Machine/Mgmt may change. -/

namespace Sys2Proof.Machine

theorem answer_within (b : Binding) (cmd : Nat) (cc : Nat) (data : List Nat) (mv : Mgmt × Dev) : Dev.Within [.out] mv.2 (answer b cmd cc data mv).2 := by
  unfold answer
  try dsimp only
  repeat' first
    | with_reducible exact Dev.Within.refl _ _
    | with_reducible assumption
    | (with_reducible apply Dev.Within.step (Dev.send_within _ _)); · decide
    | (with_reducible apply Dev.Within.ite)
    | (with_reducible apply Dev.Within.iteFst <;> try dsimp only)
    | (with_reducible apply Dev.Within.iteSnd <;> try dsimp only)
    | (intro _; try dsimp only)
    | (with_reducible apply Dev.Within.ofSnd; · with_reducible assumption)
    | (with_reducible apply Dev.Within.ofThird; · with_reducible assumption)
    | (with_reducible apply Dev.Within.ofFst; · with_reducible assumption)
    | (split <;> try dsimp only)
theorem ask_within {F : List Part} {u₀ v : Dev} {b : Binding} {cmd : Nat} {rackOnly : Bool} {m : Mgmt} {f : Mgmt → Dev → Mgmt × Dev}
    (hb : ([Part.out].all fun p => F.contains p) = true) (h_f : ∀ q w, Dev.Within F w (f q w).2) (h : Dev.Within F u₀ v) :
    Dev.Within F u₀ (ask b cmd rackOnly m v f).2 := by
  unfold ask
  split
  · exact h
  · split
    · exact Dev.Within.step (answer_within _ _ _ _ _) hb h
    · exact h.trans (h_f m v)
theorem getIdent_within (b : Binding) (m : Mgmt) (v : Dev) : Dev.Within [.out] v (getIdent b m v).2 := by
  unfold getIdent
  try dsimp only
  repeat' first
    | with_reducible exact Dev.Within.refl _ _
    | with_reducible assumption
    | (with_reducible apply Dev.Within.step (answer_within _ _ _ _ _)); · decide
    | (with_reducible apply Dev.Within.ite)
    | (with_reducible apply Dev.Within.iteFst <;> try dsimp only)
    | (with_reducible apply Dev.Within.iteSnd <;> try dsimp only)
    | (intro _; try dsimp only)
    | (with_reducible apply Dev.Within.ofSnd; · with_reducible assumption)
    | (with_reducible apply Dev.Within.ofThird; · with_reducible assumption)
    | (with_reducible apply Dev.Within.ofFst; · with_reducible assumption)
    | (split <;> try dsimp only)
theorem getLog_within (b : Binding) (first : Nat) (count : Nat) (m : Mgmt) (v : Dev) : Dev.Within [.out] v (getLog b first count m v).2 := by
  unfold getLog
  try dsimp only
  repeat' first
    | with_reducible exact Dev.Within.refl _ _
    | with_reducible assumption
    | (with_reducible apply Dev.Within.step (answer_within _ _ _ _ _)); · decide
    | (with_reducible apply ask_within; · decide)
    | (with_reducible apply Dev.Within.ite)
    | (with_reducible apply Dev.Within.iteFst <;> try dsimp only)
    | (with_reducible apply Dev.Within.iteSnd <;> try dsimp only)
    | (intro _; try dsimp only)
    | (with_reducible apply Dev.Within.ofSnd; · with_reducible assumption)
    | (with_reducible apply Dev.Within.ofThird; · with_reducible assumption)
    | (with_reducible apply Dev.Within.ofFst; · with_reducible assumption)
    | (split <;> try dsimp only)
theorem setRackCap_within (b : Binding) (x : Nat) (m : Mgmt) (v : Dev) : Dev.Within [.power, .out] v (setRackCap b x m v).2 := by
  unfold setRackCap
  try dsimp only
  repeat' first
    | with_reducible exact Dev.Within.refl _ _
    | with_reducible assumption
    | (with_reducible apply Dev.Within.step (answer_within _ _ _ _ _)); · decide
    | (with_reducible apply ask_within; · decide)
    | (with_reducible apply Dev.Within.step (Dev.modPwr_within _ _)); · decide
    | (with_reducible apply Dev.Within.ite)
    | (with_reducible apply Dev.Within.iteFst <;> try dsimp only)
    | (with_reducible apply Dev.Within.iteSnd <;> try dsimp only)
    | (intro _; try dsimp only)
    | (with_reducible apply Dev.Within.ofSnd; · with_reducible assumption)
    | (with_reducible apply Dev.Within.ofThird; · with_reducible assumption)
    | (with_reducible apply Dev.Within.ofFst; · with_reducible assumption)
    | (split <;> try dsimp only)
theorem setStartOverride_within (b : Binding) (x : Nat) (m : Mgmt) (v : Dev) : Dev.Within [.out] v (setStartOverride b x m v).2 := by
  unfold setStartOverride
  try dsimp only
  repeat' first
    | with_reducible exact Dev.Within.refl _ _
    | with_reducible assumption
    | (with_reducible apply Dev.Within.step (answer_within _ _ _ _ _)); · decide
    | (with_reducible apply ask_within; · decide)
    | (with_reducible apply Dev.Within.ite)
    | (with_reducible apply Dev.Within.iteFst <;> try dsimp only)
    | (with_reducible apply Dev.Within.iteSnd <;> try dsimp only)
    | (intro _; try dsimp only)
    | (with_reducible apply Dev.Within.ofSnd; · with_reducible assumption)
    | (with_reducible apply Dev.Within.ofThird; · with_reducible assumption)
    | (with_reducible apply Dev.Within.ofFst; · with_reducible assumption)
    | (split <;> try dsimp only)
theorem Dev.chipWritten_within (v : Dev) (x : Nat) : Dev.Within [.time, .master, .chip, .fabric, .hif, .free, .out] v (Dev.chipWritten v x) := by
  unfold Dev.chipWritten
  try dsimp only
  repeat' first
    | with_reducible exact Dev.Within.refl _ _
    | with_reducible assumption
    | (with_reducible apply Dev.Within.step (Dev.evMgmt_within _ _ _ _)); · decide
    | (with_reducible apply Dev.Within.step (Dev.setChip_within _ _)); · decide
    | (with_reducible apply Dev.Within.step (setChip_within _ _ _ _)); · decide
    | (with_reducible apply Dev.Within.step (Dev.modFabD_within _ _ _)); · decide
    | (with_reducible apply Dev.Within.step (Dev.modFt_within _ _)); · decide
    | (with_reducible apply Dev.Within.step (Dev.modMst_within _ _)); · decide
    | (with_reducible apply Dev.Within.ite)
    | (with_reducible apply Dev.Within.iteFst <;> try dsimp only)
    | (with_reducible apply Dev.Within.iteSnd <;> try dsimp only)
    | with_reducible apply Dev.Within.foldlFst
    | with_reducible apply Dev.Within.foldlSnd
    | with_reducible apply Dev.Within.foldl
    | (intro _; try dsimp only)
    | (with_reducible apply Dev.Within.ofSnd; · with_reducible assumption)
    | (with_reducible apply Dev.Within.ofThird; · with_reducible assumption)
    | (with_reducible apply Dev.Within.ofFst; · with_reducible assumption)
    | (split <;> try dsimp only)
theorem setChip_within (b : Binding) (x : Nat) (m : Mgmt) (v : Dev) : Dev.Within [.time, .master, .chip, .fabric, .hif, .free, .out] v (setChip b x m v).2 := by
  unfold setChip
  try dsimp only
  repeat' first
    | with_reducible exact Dev.Within.refl _ _
    | with_reducible assumption
    | (with_reducible apply Dev.Within.step (Dev.chipWritten_within _ _)); · decide
    | (with_reducible apply Dev.Within.step (answer_within _ _ _ _ _)); · decide
    | (with_reducible apply ask_within; · decide)
    | (with_reducible apply Dev.Within.step (logBoth_within _ _ _ _)); · decide
    | (with_reducible apply Dev.Within.ite)
    | (with_reducible apply Dev.Within.iteFst <;> try dsimp only)
    | (with_reducible apply Dev.Within.iteSnd <;> try dsimp only)
    | (intro _; try dsimp only)
    | (with_reducible apply Dev.Within.ofSnd; · with_reducible assumption)
    | (with_reducible apply Dev.Within.ofThird; · with_reducible assumption)
    | (with_reducible apply Dev.Within.ofFst; · with_reducible assumption)
    | (split <;> try dsimp only)
theorem retireChannel_within (b : Binding) (ch : Nat) (m : Mgmt) (v : Dev) : Dev.Within [.time, .timeRegs, .master, .schedules, .streams, .spads, .accs, .tiles, .caches, .coreGens, .contexts, .dmas, .coreRegs, .counters, .barriers, .syncStatus, .regions, .regionStatus, .stackMem, .channels, .stackRegs, .map, .hostMem, .moult, .heldWrites, .faults, .contextSwitch, .chip, .fabric, .links, .power, .hif, .free, .out] v (retireChannel b ch m v).2 := by
  unfold retireChannel
  try dsimp only
  repeat' first
    | with_reducible exact Dev.Within.refl _ _
    | with_reducible assumption
    | (with_reducible apply Dev.Within.step (answer_within _ _ _ _ _)); · decide
    | (with_reducible apply ask_within; · decide)
    | (with_reducible apply Dev.Within.step (moduleReset_within _ _)); · decide
    | (with_reducible apply Dev.Within.step (retireRecord_within _ _ _)); · decide
    | (with_reducible apply Dev.Within.ite)
    | (with_reducible apply Dev.Within.iteFst <;> try dsimp only)
    | (with_reducible apply Dev.Within.iteSnd <;> try dsimp only)
    | (intro _; try dsimp only)
    | (with_reducible apply Dev.Within.ofSnd; · with_reducible assumption)
    | (with_reducible apply Dev.Within.ofThird; · with_reducible assumption)
    | (with_reducible apply Dev.Within.ofFst; · with_reducible assumption)
    | (split <;> try dsimp only)
theorem moduleResetMsg_within (b : Binding) (m : Mgmt) (v : Dev) : Dev.Within [.time, .timeRegs, .master, .schedules, .streams, .spads, .accs, .tiles, .caches, .coreGens, .contexts, .dmas, .coreRegs, .counters, .barriers, .syncStatus, .regions, .regionStatus, .stackMem, .channels, .stackRegs, .map, .hostMem, .moult, .heldWrites, .faults, .contextSwitch, .chip, .fabric, .links, .power, .hif, .free, .out] v (moduleResetMsg b m v).2 := by
  unfold moduleResetMsg
  try dsimp only
  repeat' first
    | with_reducible exact Dev.Within.refl _ _
    | with_reducible assumption
    | (with_reducible apply Dev.Within.step (answer_within _ _ _ _ _)); · decide
    | (with_reducible apply ask_within; · decide)
    | (with_reducible apply Dev.Within.step (moduleReset_within _ _)); · decide
    | (with_reducible apply Dev.Within.ite)
    | (with_reducible apply Dev.Within.iteFst <;> try dsimp only)
    | (with_reducible apply Dev.Within.iteSnd <;> try dsimp only)
    | (intro _; try dsimp only)
    | (with_reducible apply Dev.Within.ofSnd; · with_reducible assumption)
    | (with_reducible apply Dev.Within.ofThird; · with_reducible assumption)
    | (with_reducible apply Dev.Within.ofFst; · with_reducible assumption)
    | (split <;> try dsimp only)
theorem mgmtResetMsg_within (b : Binding) (slot : Nat) (m : Mgmt) (v : Dev) : Dev.Within [.free, .out] v (mgmtResetMsg b slot m v).2 := by
  unfold mgmtResetMsg
  try dsimp only
  repeat' first
    | with_reducible exact Dev.Within.refl _ _
    | with_reducible assumption
    | (with_reducible apply Dev.Within.step (answer_within _ _ _ _ _)); · decide
    | (with_reducible apply ask_within; · decide)
    | (with_reducible apply Dev.Within.step (mgmtRestart_within _ _)); · decide
    | (with_reducible apply Dev.Within.ite)
    | (with_reducible apply Dev.Within.iteFst <;> try dsimp only)
    | (with_reducible apply Dev.Within.iteSnd <;> try dsimp only)
    | (intro _; try dsimp only)
    | (with_reducible apply Dev.Within.ofSnd; · with_reducible assumption)
    | (with_reducible apply Dev.Within.ofThird; · with_reducible assumption)
    | (with_reducible apply Dev.Within.ofFst; · with_reducible assumption)
    | (split <;> try dsimp only)
theorem commitSvn_within (b : Binding) (m : Mgmt) (v : Dev) : Dev.Within [.free, .out] v (commitSvn b m v).2 := by
  unfold commitSvn
  try dsimp only
  repeat' first
    | with_reducible exact Dev.Within.refl _ _
    | with_reducible assumption
    | (with_reducible apply Dev.Within.step (answer_within _ _ _ _ _)); · decide
    | (with_reducible apply ask_within; · decide)
    | (with_reducible apply Dev.Within.step (logBoth_within _ _ _ _)); · decide
    | (with_reducible apply Dev.Within.ite)
    | (with_reducible apply Dev.Within.iteFst <;> try dsimp only)
    | (with_reducible apply Dev.Within.iteSnd <;> try dsimp only)
    | (intro _; try dsimp only)
    | (with_reducible apply Dev.Within.ofSnd; · with_reducible assumption)
    | (with_reducible apply Dev.Within.ofThird; · with_reducible assumption)
    | (with_reducible apply Dev.Within.ofFst; · with_reducible assumption)
    | (split <;> try dsimp only)
theorem firmwareUpdate_within (b : Binding) (img : Image) (m : Mgmt) (v : Dev) : Dev.Within [.free, .out] v (firmwareUpdate b img m v).2 := by
  unfold firmwareUpdate
  try dsimp only
  repeat' first
    | with_reducible exact Dev.Within.refl _ _
    | with_reducible assumption
    | (with_reducible apply Dev.Within.step (logBoth_within _ _ _ _)); · decide
    | (with_reducible apply Dev.Within.step (Dev.send_within _ _)); · decide
    | (with_reducible apply Dev.Within.ite)
    | (with_reducible apply Dev.Within.iteFst <;> try dsimp only)
    | (with_reducible apply Dev.Within.iteSnd <;> try dsimp only)
    | (intro _; try dsimp only)
    | (with_reducible apply Dev.Within.ofSnd; · with_reducible assumption)
    | (with_reducible apply Dev.Within.ofThird; · with_reducible assumption)
    | (with_reducible apply Dev.Within.ofFst; · with_reducible assumption)
    | (split <;> try dsimp only)
theorem sensorUpdate_within (m : Mgmt) (v : Dev) : Dev.Within [] v (sensorUpdate m v).2 := by
  unfold sensorUpdate
  try dsimp only
  repeat' first
    | with_reducible exact Dev.Within.refl _ _
    | with_reducible assumption
    | (with_reducible apply Dev.Within.ite)
    | (with_reducible apply Dev.Within.iteFst <;> try dsimp only)
    | (with_reducible apply Dev.Within.iteSnd <;> try dsimp only)
    | with_reducible apply Dev.Within.foldlFst
    | with_reducible apply Dev.Within.foldlSnd
    | with_reducible apply Dev.Within.foldl
    | (intro _; try dsimp only)
    | (with_reducible apply Dev.Within.ofSnd; · with_reducible assumption)
    | (with_reducible apply Dev.Within.ofThird; · with_reducible assumption)
    | (with_reducible apply Dev.Within.ofFst; · with_reducible assumption)
    | (split <;> try dsimp only)
theorem sensorRead_within (b : Binding) (id : Nat) (m : Mgmt) (v : Dev) : Dev.Within [.out] v (sensorRead b id m v).2 := by
  unfold sensorRead
  try dsimp only
  repeat' first
    | with_reducible exact Dev.Within.refl _ _
    | with_reducible assumption
    | (with_reducible apply Dev.Within.step (Dev.send_within _ _)); · decide
    | (with_reducible apply Dev.Within.ite)
    | (with_reducible apply Dev.Within.iteFst <;> try dsimp only)
    | (with_reducible apply Dev.Within.iteSnd <;> try dsimp only)
    | (intro _; try dsimp only)
    | (with_reducible apply Dev.Within.ofSnd; · with_reducible assumption)
    | (with_reducible apply Dev.Within.ofThird; · with_reducible assumption)
    | (with_reducible apply Dev.Within.ofFst; · with_reducible assumption)
    | (split <;> try dsimp only)
theorem signNext_within (b : Binding) (nonce : List Byte) (ok : Bool) (m : Mgmt) (v : Dev) : Dev.Within [.out] v (signNext b nonce ok m v).2 := by
  unfold signNext
  try dsimp only
  repeat' first
    | with_reducible exact Dev.Within.refl _ _
    | with_reducible assumption
    | (with_reducible apply Dev.Within.step (answer_within _ _ _ _ _)); · decide
    | (with_reducible apply Dev.Within.ite)
    | (with_reducible apply Dev.Within.iteFst <;> try dsimp only)
    | (with_reducible apply Dev.Within.iteSnd <;> try dsimp only)
    | (intro _; try dsimp only)
    | (with_reducible apply Dev.Within.ofSnd; · with_reducible assumption)
    | (with_reducible apply Dev.Within.ofThird; · with_reducible assumption)
    | (with_reducible apply Dev.Within.ofFst; · with_reducible assumption)
    | (split <;> try dsimp only)
theorem secondFull_within (m : Mgmt) (v : Dev) : Dev.Within [.free] v (secondFull m v).2.2 := by
  unfold secondFull
  try dsimp only
  repeat' first
    | with_reducible exact Dev.Within.refl _ _
    | with_reducible assumption
    | (with_reducible apply Dev.Within.step (Dev.draw_within _)); · decide
    | (with_reducible apply Dev.Within.ite)
    | (with_reducible apply Dev.Within.iteFst <;> try dsimp only)
    | (with_reducible apply Dev.Within.iteSnd <;> try dsimp only)
    | (intro _; try dsimp only)
    | (with_reducible apply Dev.Within.ofSnd; · with_reducible assumption)
    | (with_reducible apply Dev.Within.ofThird; · with_reducible assumption)
    | (with_reducible apply Dev.Within.ofFst; · with_reducible assumption)
    | (split <;> try dsimp only)
theorem attest_within (b : Binding) (nonce : List Byte) (ok : Bool) (m : Mgmt) (v : Dev) : Dev.Within [.free, .out] v (attest b nonce ok m v).2 := by
  unfold attest
  try dsimp only
  repeat' first
    | with_reducible exact Dev.Within.refl _ _
    | with_reducible assumption
    | (with_reducible apply Dev.Within.step (answer_within _ _ _ _ _)); · decide
    | (with_reducible apply ask_within; · decide)
    | (with_reducible apply Dev.Within.step (secondFull_within _ _)); · decide
    | (with_reducible apply Dev.Within.step (signNext_within _ _ _ _ _)); · decide
    | (with_reducible apply Dev.Within.ite)
    | (with_reducible apply Dev.Within.iteFst <;> try dsimp only)
    | (with_reducible apply Dev.Within.iteSnd <;> try dsimp only)
    | (intro _; try dsimp only)
    | (with_reducible apply Dev.Within.ofSnd; · with_reducible assumption)
    | (with_reducible apply Dev.Within.ofThird; · with_reducible assumption)
    | (with_reducible apply Dev.Within.ofFst; · with_reducible assumption)
    | (split <;> try dsimp only)
theorem treeDone_within (m : Mgmt) (v : Dev) : Dev.Within [] v (treeDone m v).2 := by
  unfold treeDone
  try dsimp only
  repeat' first
    | with_reducible exact Dev.Within.refl _ _
    | with_reducible assumption
    | (with_reducible apply Dev.Within.ite)
    | (with_reducible apply Dev.Within.iteFst <;> try dsimp only)
    | (with_reducible apply Dev.Within.iteSnd <;> try dsimp only)
    | (intro _; try dsimp only)
    | (with_reducible apply Dev.Within.ofSnd; · with_reducible assumption)
    | (with_reducible apply Dev.Within.ofThird; · with_reducible assumption)
    | (with_reducible apply Dev.Within.ofFst; · with_reducible assumption)
    | (split <;> try dsimp only)

end Sys2Proof.Machine
end

