-- ==== Sys2Proof/Laws/Moult.lean ====
section
/-! SUPPORT. What each operation of Machine/Moult may change. -/

namespace Sys2Proof.Machine

theorem Dev.letGo_within (v : Dev) (h : HeldWrite) : Dev.Within [.schedules, .streams, .spads, .caches, .contexts, .dmas, .coreRegs, .counters, .syncStatus, .stackMem, .channels, .stackRegs, .hostMem, .heldWrites, .faults, .contextSwitch, .fabric, .links, .hif, .free, .out] v (Dev.letGo v h) := by
  unfold Dev.letGo
  try dsimp only
  repeat' first
    | with_reducible exact Dev.Within.refl _ _
    | with_reducible assumption
    | (with_reducible apply Dev.Within.step (Dev.applyTask_within _ _)); · decide
    | (with_reducible apply Dev.Within.step (Dev.dmaLanded_within _ _ _ _ _)); · decide
    | (with_reducible apply Dev.Within.step (Dev.packetLanded_within _ _ _ _)); · decide
    | (with_reducible apply Dev.Within.step (Dev.sclLanded_within _ _ _)); · decide
    | (with_reducible apply Dev.Within.step (Dev.modHeld_within _ _ _)); · decide
    | (with_reducible apply Dev.Within.ite)
    | (with_reducible apply Dev.Within.iteFst <;> try dsimp only)
    | (with_reducible apply Dev.Within.iteSnd <;> try dsimp only)
    | (intro _; try dsimp only)
    | (with_reducible apply Dev.Within.ofSnd; · with_reducible assumption)
    | (with_reducible apply Dev.Within.ofThird; · with_reducible assumption)
    | (with_reducible apply Dev.Within.ofFst; · with_reducible assumption)
    | (split <;> try dsimp only)
theorem Dev.releaseWrites_within (v : Dev) : Dev.Within [.schedules, .streams, .spads, .caches, .contexts, .dmas, .coreRegs, .counters, .syncStatus, .stackMem, .channels, .stackRegs, .hostMem, .heldWrites, .faults, .contextSwitch, .fabric, .links, .hif, .free, .out] v (Dev.releaseWrites v) := by
  unfold Dev.releaseWrites
  try dsimp only
  repeat' first
    | with_reducible exact Dev.Within.refl _ _
    | with_reducible assumption
    | (with_reducible apply Dev.Within.step (Dev.letGo_within _ _)); · decide
    | (with_reducible apply Dev.Within.step (Dev.releaseHeld_within _)); · decide
    | (with_reducible apply Dev.Within.ite)
    | (with_reducible apply Dev.Within.iteFst <;> try dsimp only)
    | (with_reducible apply Dev.Within.iteSnd <;> try dsimp only)
    | with_reducible apply Dev.Within.forAll
    | (intro _; try dsimp only)
    | (with_reducible apply Dev.Within.ofSnd; · with_reducible assumption)
    | (with_reducible apply Dev.Within.ofThird; · with_reducible assumption)
    | (with_reducible apply Dev.Within.ofFst; · with_reducible assumption)
    | (split <;> try dsimp only)
theorem Dev.endMoult_within (v : Dev) (status : Nat) : Dev.Within [.schedules, .streams, .spads, .caches, .contexts, .dmas, .coreRegs, .counters, .syncStatus, .stackMem, .channels, .stackRegs, .hostMem, .moult, .heldWrites, .faults, .contextSwitch, .fabric, .links, .hif, .free, .out] v (Dev.endMoult v status) := by
  unfold Dev.endMoult
  try dsimp only
  repeat' first
    | with_reducible exact Dev.Within.refl _ _
    | with_reducible assumption
    | (with_reducible apply Dev.Within.step (Dev.accept_within _ _ _)); · decide
    | (with_reducible apply Dev.Within.step (Dev.complete_within _ _ _ _ _ _ _)); · decide
    | (with_reducible apply Dev.order_within; · decide)
    | (with_reducible apply Dev.Within.step (Dev.releaseWrites_within _)); · decide
    | (with_reducible apply Dev.Within.step (Dev.modMoult_within _ _)); · decide
    | (with_reducible apply Dev.Within.ite)
    | (with_reducible apply Dev.Within.iteFst <;> try dsimp only)
    | (with_reducible apply Dev.Within.iteSnd <;> try dsimp only)
    | (intro _; try dsimp only)
    | (with_reducible apply Dev.Within.ofSnd; · with_reducible assumption)
    | (with_reducible apply Dev.Within.ofThird; · with_reducible assumption)
    | (with_reducible apply Dev.Within.ofFst; · with_reducible assumption)
    | (split <;> try dsimp only)
theorem Dev.ageUncopied_within (v : Dev) : Dev.Within [.moult, .heldWrites] v (Dev.ageUncopied v) := by
  unfold Dev.ageUncopied
  try dsimp only
  repeat' first
    | with_reducible exact Dev.Within.refl _ _
    | with_reducible assumption
    | (with_reducible apply Dev.Within.step (Dev.modMoult_within _ _)); · decide
    | (with_reducible apply Dev.Within.ite)
    | (with_reducible apply Dev.Within.iteFst <;> try dsimp only)
    | (with_reducible apply Dev.Within.iteSnd <;> try dsimp only)
    | with_reducible apply Dev.Within.foldlFst
    | with_reducible apply Dev.Within.foldlSnd
    | with_reducible apply Dev.Within.foldl
    | (intro _; try dsimp only)
    | (with_reducible apply Dev.Within.ofSnd; · with_reducible assumption)
    | (with_reducible apply Dev.Within.ofThird; · with_reducible assumption)
    | (with_reducible apply Dev.Within.ofFst; · with_reducible assumption)
    | (split <;> try dsimp only)
theorem Dev.cutMoult_within (v : Dev) (status : Nat) : Dev.Within [.schedules, .streams, .spads, .caches, .contexts, .dmas, .coreRegs, .counters, .syncStatus, .stackMem, .channels, .stackRegs, .hostMem, .moult, .heldWrites, .faults, .contextSwitch, .fabric, .links, .hif, .free, .out] v (Dev.cutMoult v status) := by
  unfold Dev.cutMoult
  try dsimp only
  repeat' first
    | with_reducible exact Dev.Within.refl _ _
    | with_reducible assumption
    | (with_reducible apply Dev.Within.step (Dev.ageUncopied_within _)); · decide
    | (with_reducible apply Dev.Within.step (Dev.endMoult_within _ _)); · decide
    | (with_reducible apply Dev.Within.ite)
    | (with_reducible apply Dev.Within.iteFst <;> try dsimp only)
    | (with_reducible apply Dev.Within.iteSnd <;> try dsimp only)
    | (intro _; try dsimp only)
    | (with_reducible apply Dev.Within.ofSnd; · with_reducible assumption)
    | (with_reducible apply Dev.Within.ofThird; · with_reducible assumption)
    | (with_reducible apply Dev.Within.ofFst; · with_reducible assumption)
    | (split <;> try dsimp only)
theorem Dev.imageWrite_within (v : Dev) (a : Nat) (bs : List Byte) : Dev.Within [.hostMem] v (Dev.imageWrite v a bs).2 := by
  unfold Dev.imageWrite
  try dsimp only
  repeat' first
    | with_reducible exact Dev.Within.refl _ _
    | with_reducible assumption
    | (with_reducible apply Dev.Within.step (Dev.hostWrite_within _ _ _)); · decide
    | (with_reducible apply Dev.Within.ite)
    | (with_reducible apply Dev.Within.iteFst <;> try dsimp only)
    | (with_reducible apply Dev.Within.iteSnd <;> try dsimp only)
    | (intro _; try dsimp only)
    | (with_reducible apply Dev.Within.ofSnd; · with_reducible assumption)
    | (with_reducible apply Dev.Within.ofThird; · with_reducible assumption)
    | (with_reducible apply Dev.Within.ofFst; · with_reducible assumption)
    | (split <;> try dsimp only)
theorem Dev.closeMoult_within (v : Dev) : Dev.Within [.schedules, .streams, .spads, .caches, .contexts, .dmas, .coreRegs, .counters, .syncStatus, .stackMem, .channels, .stackRegs, .hostMem, .moult, .heldWrites, .faults, .contextSwitch, .fabric, .links, .hif, .free, .out] v (Dev.closeMoult v) := by
  unfold Dev.closeMoult
  try dsimp only
  repeat' first
    | with_reducible exact Dev.Within.refl _ _
    | with_reducible assumption
    | (with_reducible apply Dev.Within.step (Dev.cutMoult_within _ _)); · decide
    | (with_reducible apply Dev.Within.step (Dev.endMoult_within _ _)); · decide
    | (with_reducible apply Dev.Within.step (Dev.imageWrite_within _ _ _)); · decide
    | (with_reducible apply Dev.Within.ite)
    | (with_reducible apply Dev.Within.iteFst <;> try dsimp only)
    | (with_reducible apply Dev.Within.iteSnd <;> try dsimp only)
    | (intro _; try dsimp only)
    | (with_reducible apply Dev.Within.ofSnd; · with_reducible assumption)
    | (with_reducible apply Dev.Within.ofThird; · with_reducible assumption)
    | (with_reducible apply Dev.Within.ofFst; · with_reducible assumption)
    | (split <;> try dsimp only)
theorem Dev.tUpdate_within (v : Dev) : Dev.Within [.schedules, .streams, .spads, .caches, .contexts, .dmas, .coreRegs, .counters, .syncStatus, .stackMem, .channels, .stackRegs, .hostMem, .moult, .heldWrites, .faults, .contextSwitch, .fabric, .links, .hif, .free, .out] v (Dev.tUpdate v) := by
  unfold Dev.tUpdate
  try dsimp only
  repeat' first
    | with_reducible exact Dev.Within.refl _ _
    | with_reducible assumption
    | (with_reducible apply Dev.Within.step (Dev.closeMoult_within _)); · decide
    | (with_reducible apply Dev.Within.step (Dev.releaseWrites_within _)); · decide
    | (with_reducible apply Dev.Within.step (Dev.modMoult_within _ _)); · decide
    | (with_reducible apply Dev.Within.ite)
    | (with_reducible apply Dev.Within.iteFst <;> try dsimp only)
    | (with_reducible apply Dev.Within.iteSnd <;> try dsimp only)
    | with_reducible apply Dev.Within.foldlFst
    | with_reducible apply Dev.Within.foldlSnd
    | with_reducible apply Dev.Within.foldl
    | (intro _; try dsimp only)
    | (with_reducible apply Dev.Within.ofSnd; · with_reducible assumption)
    | (with_reducible apply Dev.Within.ofThird; · with_reducible assumption)
    | (with_reducible apply Dev.Within.ofFst; · with_reducible assumption)
    | (split <;> try dsimp only)
theorem Dev.moultStart_within (v : Dev) : Dev.Within [.schedules, .streams, .spads, .caches, .contexts, .dmas, .coreRegs, .counters, .syncStatus, .stackMem, .channels, .stackRegs, .hostMem, .moult, .heldWrites, .faults, .contextSwitch, .fabric, .links, .hif, .free, .out] v (Dev.moultStart v) := by
  unfold Dev.moultStart
  try dsimp only
  repeat' first
    | with_reducible exact Dev.Within.refl _ _
    | with_reducible assumption
    | (with_reducible apply Dev.Within.step (Dev.accept_within _ _ _)); · decide
    | (with_reducible apply Dev.Within.step (Dev.closeMoult_within _)); · decide
    | (with_reducible apply Dev.Within.step (Dev.cutMoult_within _ _)); · decide
    | (with_reducible apply Dev.order_within; · decide)
    | (with_reducible apply Dev.Within.step (Dev.modMoult_within _ _)); · decide
    | (with_reducible apply Dev.Within.step (Dev.hostClear_within _ _ _)); · decide
    | (with_reducible apply Dev.Within.ite)
    | (with_reducible apply Dev.Within.iteFst <;> try dsimp only)
    | (with_reducible apply Dev.Within.iteSnd <;> try dsimp only)
    | (intro _; try dsimp only)
    | (with_reducible apply Dev.Within.ofSnd; · with_reducible assumption)
    | (with_reducible apply Dev.Within.ofThird; · with_reducible assumption)
    | (with_reducible apply Dev.Within.ofFst; · with_reducible assumption)
    | (split <;> try dsimp only)
theorem Dev.moultPoint_within (v : Dev) : Dev.Within [.schedules, .streams, .spads, .caches, .contexts, .dmas, .coreRegs, .counters, .syncStatus, .stackMem, .channels, .stackRegs, .hostMem, .moult, .heldWrites, .faults, .contextSwitch, .fabric, .links, .hif, .free, .out] v (Dev.moultPoint v) := by
  unfold Dev.moultPoint
  try dsimp only
  repeat' first
    | with_reducible exact Dev.Within.refl _ _
    | with_reducible assumption
    | (with_reducible apply Dev.Within.step (Dev.moultStart_within _)); · decide
    | (with_reducible apply Dev.Within.ite)
    | (with_reducible apply Dev.Within.iteFst <;> try dsimp only)
    | (with_reducible apply Dev.Within.iteSnd <;> try dsimp only)
    | (intro _; try dsimp only)
    | (with_reducible apply Dev.Within.ofSnd; · with_reducible assumption)
    | (with_reducible apply Dev.Within.ofThird; · with_reducible assumption)
    | (with_reducible apply Dev.Within.ofFst; · with_reducible assumption)
    | (split <;> try dsimp only)
theorem Dev.moultOrder_within (v : Dev) (die : Nat) (n : Nat) : Dev.Within [.schedules, .streams, .spads, .caches, .contexts, .dmas, .coreRegs, .counters, .syncStatus, .stackMem, .channels, .stackRegs, .hostMem, .moult, .heldWrites, .faults, .contextSwitch, .fabric, .links, .hif, .free, .out] v (Dev.moultOrder v die n) := by
  unfold Dev.moultOrder
  try dsimp only
  repeat' first
    | with_reducible exact Dev.Within.refl _ _
    | with_reducible assumption
    | (with_reducible apply Dev.Within.step (Dev.finish_within _ _ _ _ _ _ _)); · decide
    | (with_reducible apply Dev.Within.step (Dev.moultStart_within _)); · decide
    | (with_reducible apply Dev.order_within; · decide)
    | (with_reducible apply Dev.Within.step (Dev.modMoult_within _ _)); · decide
    | (with_reducible apply Dev.Within.ite)
    | (with_reducible apply Dev.Within.iteFst <;> try dsimp only)
    | (with_reducible apply Dev.Within.iteSnd <;> try dsimp only)
    | (intro _; try dsimp only)
    | (with_reducible apply Dev.Within.ofSnd; · with_reducible assumption)
    | (with_reducible apply Dev.Within.ofThird; · with_reducible assumption)
    | (with_reducible apply Dev.Within.ofFst; · with_reducible assumption)
    | (split <;> try dsimp only)
theorem Dev.abortMoult_within (v : Dev) (die : Nat) (n : Nat) : Dev.Within [.schedules, .streams, .spads, .caches, .contexts, .dmas, .coreRegs, .counters, .syncStatus, .stackMem, .channels, .stackRegs, .hostMem, .moult, .heldWrites, .faults, .contextSwitch, .fabric, .links, .hif, .free, .out] v (Dev.abortMoult v die n) := by
  unfold Dev.abortMoult
  try dsimp only
  repeat' first
    | with_reducible exact Dev.Within.refl _ _
    | with_reducible assumption
    | (with_reducible apply Dev.Within.step (Dev.cutMoult_within _ _)); · decide
    | (with_reducible apply Dev.Within.step (Dev.finish_within _ _ _ _ _ _ _)); · decide
    | (with_reducible apply Dev.order_within; · decide)
    | (with_reducible apply Dev.Within.ite)
    | (with_reducible apply Dev.Within.iteFst <;> try dsimp only)
    | (with_reducible apply Dev.Within.iteSnd <;> try dsimp only)
    | (intro _; try dsimp only)
    | (with_reducible apply Dev.Within.ofSnd; · with_reducible assumption)
    | (with_reducible apply Dev.Within.ofThird; · with_reducible assumption)
    | (with_reducible apply Dev.Within.ofFst; · with_reducible assumption)
    | (split <;> try dsimp only)
theorem Dev.staged_within (v : Dev) (p : Nat) : Dev.Within [.schedules, .streams, .spads, .caches, .contexts, .dmas, .coreRegs, .counters, .syncStatus, .stackMem, .channels, .stackRegs, .hostMem, .moult, .heldWrites, .faults, .contextSwitch, .fabric, .links, .hif, .free, .out] v (Dev.staged v p) := by
  unfold Dev.staged
  try dsimp only
  repeat' first
    | with_reducible exact Dev.Within.refl _ _
    | with_reducible assumption
    | (with_reducible apply Dev.Within.step (Dev.releaseWrites_within _)); · decide
    | (with_reducible apply Dev.Within.step (Dev.modMoult_within _ _)); · decide
    | (with_reducible apply Dev.Within.ite)
    | (with_reducible apply Dev.Within.iteFst <;> try dsimp only)
    | (with_reducible apply Dev.Within.iteSnd <;> try dsimp only)
    | (intro _; try dsimp only)
    | (with_reducible apply Dev.Within.ofSnd; · with_reducible assumption)
    | (with_reducible apply Dev.Within.ofThird; · with_reducible assumption)
    | (with_reducible apply Dev.Within.ofFst; · with_reducible assumption)
    | (split <;> try dsimp only)
theorem Dev.imageParts_within (v : Dev) (z0 : List (Nat × List Byte)) : Dev.Within [.hostMem] v (Dev.imageParts v z0).2 := by
  induction z0 generalizing v with
  | nil => unfold Dev.imageParts; exact Dev.Within.refl _ _
  | cons x xs ih =>
    unfold Dev.imageParts
    try dsimp only
    repeat' first
      | with_reducible exact Dev.Within.refl _ _
      | with_reducible assumption
      | (with_reducible apply Dev.Within.step (ih _)); · decide
      | (with_reducible apply Dev.Within.step (Dev.imageWrite_within _ _ _)); · decide
      | (with_reducible apply Dev.Within.ite)
      | (with_reducible apply Dev.Within.iteFst <;> try dsimp only)
      | (with_reducible apply Dev.Within.iteSnd <;> try dsimp only)
      | (intro _; try dsimp only)
      | (with_reducible apply Dev.Within.ofSnd; · with_reducible assumption)
      | (with_reducible apply Dev.Within.ofThird; · with_reducible assumption)
      | (with_reducible apply Dev.Within.ofFst; · with_reducible assumption)
      | (split <;> try dsimp only)
theorem Dev.copyPage_within (v : Dev) (p : Nat) (bs : List Byte) : Dev.Within [.hostMem, .moult, .heldWrites] v (Dev.copyPage v p bs).2 := by
  unfold Dev.copyPage
  try dsimp only
  repeat' first
    | with_reducible exact Dev.Within.refl _ _
    | with_reducible assumption
    | (with_reducible apply Dev.Within.step (Dev.imageParts_within _ _)); · decide
    | (with_reducible apply Dev.Within.step (Dev.modMoult_within _ _)); · decide
    | (with_reducible apply Dev.Within.ite)
    | (with_reducible apply Dev.Within.iteFst <;> try dsimp only)
    | (with_reducible apply Dev.Within.iteSnd <;> try dsimp only)
    | (intro _; try dsimp only)
    | (with_reducible apply Dev.Within.ofSnd; · with_reducible assumption)
    | (with_reducible apply Dev.Within.ofThird; · with_reducible assumption)
    | (with_reducible apply Dev.Within.ofFst; · with_reducible assumption)
    | (split <;> try dsimp only)
theorem Dev.pageStaged_within (v : Dev) (p : Nat) : Dev.Within [.schedules, .streams, .spads, .caches, .contexts, .dmas, .coreRegs, .counters, .syncStatus, .stackMem, .channels, .stackRegs, .hostMem, .moult, .heldWrites, .faults, .contextSwitch, .fabric, .links, .hif, .free, .out] v (Dev.pageStaged v p) := by
  unfold Dev.pageStaged
  try dsimp only
  repeat' first
    | with_reducible exact Dev.Within.refl _ _
    | with_reducible assumption
    | (with_reducible apply Dev.Within.step (Dev.closeMoult_within _)); · decide
    | (with_reducible apply Dev.Within.step (Dev.copyPage_within _ _ _)); · decide
    | (with_reducible apply Dev.Within.step (Dev.cutMoult_within _ _)); · decide
    | (with_reducible apply Dev.Within.step (Dev.ev_within _ _ _ _ _ _)); · decide
    | (with_reducible apply Dev.Within.step (Dev.pathError_within _ _ _)); · decide
    | (with_reducible apply Dev.Within.step (Dev.staged_within _ _)); · decide
    | (with_reducible apply Dev.Within.step (Dev.modMoult_within _ _)); · decide
    | (with_reducible apply Dev.Within.ite)
    | (with_reducible apply Dev.Within.iteFst <;> try dsimp only)
    | (with_reducible apply Dev.Within.iteSnd <;> try dsimp only)
    | (intro _; try dsimp only)
    | (with_reducible apply Dev.Within.ofSnd; · with_reducible assumption)
    | (with_reducible apply Dev.Within.ofThird; · with_reducible assumption)
    | (with_reducible apply Dev.Within.ofFst; · with_reducible assumption)
    | (split <;> try dsimp only)
theorem Dev.endRestore_within (v : Dev) (status : Nat) : Dev.Within [.hostMem, .moult, .heldWrites, .hif, .out] v (Dev.endRestore v status) := by
  unfold Dev.endRestore
  try dsimp only
  repeat' first
    | with_reducible exact Dev.Within.refl _ _
    | with_reducible assumption
    | (with_reducible apply Dev.Within.step (Dev.finish_within _ _ _ _ _ _ _)); · decide
    | (with_reducible apply Dev.Within.step (Dev.modMoult_within _ _)); · decide
    | (with_reducible apply Dev.Within.ite)
    | (with_reducible apply Dev.Within.iteFst <;> try dsimp only)
    | (with_reducible apply Dev.Within.iteSnd <;> try dsimp only)
    | (intro _; try dsimp only)
    | (with_reducible apply Dev.Within.ofSnd; · with_reducible assumption)
    | (with_reducible apply Dev.Within.ofThird; · with_reducible assumption)
    | (with_reducible apply Dev.Within.ofFst; · with_reducible assumption)
    | (split <;> try dsimp only)
theorem Dev.closeRestore_within (v : Dev) : Dev.Within [.hostMem, .moult, .heldWrites, .hif, .out] v (Dev.closeRestore v) := by
  unfold Dev.closeRestore
  try dsimp only
  repeat' first
    | with_reducible exact Dev.Within.refl _ _
    | with_reducible assumption
    | (with_reducible apply Dev.Within.step (Dev.endRestore_within _ _)); · decide
    | (with_reducible apply Dev.Within.ite)
    | (with_reducible apply Dev.Within.iteFst <;> try dsimp only)
    | (with_reducible apply Dev.Within.iteSnd <;> try dsimp only)
    | (intro _; try dsimp only)
    | (with_reducible apply Dev.Within.ofSnd; · with_reducible assumption)
    | (with_reducible apply Dev.Within.ofThird; · with_reducible assumption)
    | (with_reducible apply Dev.Within.ofFst; · with_reducible assumption)
    | (split <;> try dsimp only)
theorem Dev.restoreOrder_within (v : Dev) (die : Nat) (n : Nat) : Dev.Within [.hostMem, .moult, .heldWrites, .hif, .out] v (Dev.restoreOrder v die n) := by
  unfold Dev.restoreOrder
  try dsimp only
  repeat' first
    | with_reducible exact Dev.Within.refl _ _
    | with_reducible assumption
    | (with_reducible apply Dev.Within.step (Dev.closeRestore_within _)); · decide
    | (with_reducible apply Dev.Within.step (Dev.finish_within _ _ _ _ _ _ _)); · decide
    | (with_reducible apply Dev.order_within; · decide)
    | (with_reducible apply Dev.Within.step (Dev.modMoult_within _ _)); · decide
    | (with_reducible apply Dev.Within.ite)
    | (with_reducible apply Dev.Within.iteFst <;> try dsimp only)
    | (with_reducible apply Dev.Within.iteSnd <;> try dsimp only)
    | (intro _; try dsimp only)
    | (with_reducible apply Dev.Within.ofSnd; · with_reducible assumption)
    | (with_reducible apply Dev.Within.ofThird; · with_reducible assumption)
    | (with_reducible apply Dev.Within.ofFst; · with_reducible assumption)
    | (split <;> try dsimp only)
theorem Dev.listPage_within (v : Dev) (p : Nat) {w : Dev} (h : Dev.listPage v p = some w) : Dev.Within [.hostMem, .moult, .heldWrites] v w := by
  unfold Dev.listPage at h
  try dsimp only at h
  repeat' first
    | (cases h; done)
    | (obtain rfl := Option.some.inj h; clear h; try dsimp only)
    | (split at h <;> try dsimp only at h)
    | with_reducible exact Dev.Within.refl _ _
    | with_reducible assumption
    | (with_reducible apply Dev.Within.step (Dev.modMoult_within _ _)); · decide
    | (with_reducible apply Dev.Within.step (Dev.hostWrite_within _ _ _)); · decide
    | (with_reducible apply Dev.Within.ite)
    | (with_reducible apply Dev.Within.iteFst <;> try dsimp only)
    | (with_reducible apply Dev.Within.iteSnd <;> try dsimp only)
    | (intro _; try dsimp only)
    | (with_reducible apply Dev.Within.ofSnd; · with_reducible assumption)
    | (with_reducible apply Dev.Within.ofThird; · with_reducible assumption)
    | (with_reducible apply Dev.Within.ofFst; · with_reducible assumption)
    | (split <;> try dsimp only)
theorem Dev.restorePage_within (v : Dev) (p : Nat) : Dev.Within [.stackMem, .channels, .hostMem, .moult, .heldWrites, .hif, .out] v (Dev.restorePage v p) := by
  unfold Dev.restorePage
  try dsimp only
  repeat' first
    | with_reducible exact Dev.Within.refl _ _
    | with_reducible assumption
    | (with_reducible apply Dev.Within.step (Dev.closeRestore_within _)); · decide
    | (with_reducible apply Dev.Within.step (Dev.endRestore_within _ _)); · decide
    | (with_reducible apply Dev.Within.step (Dev.listPage_within _ _ ‹_›)); · decide
    | (with_reducible apply Dev.Within.step (Dev.pathError_within _ _ _)); · decide
    | (with_reducible apply Dev.Within.step (Dev.stkPut_within _ _ _)); · decide
    | (with_reducible apply Dev.Within.step (Dev.modMoult_within _ _)); · decide
    | (with_reducible apply Dev.Within.ite)
    | (with_reducible apply Dev.Within.iteFst <;> try dsimp only)
    | (with_reducible apply Dev.Within.iteSnd <;> try dsimp only)
    | (intro _; try dsimp only)
    | (with_reducible apply Dev.Within.ofSnd; · with_reducible assumption)
    | (with_reducible apply Dev.Within.ofThird; · with_reducible assumption)
    | (with_reducible apply Dev.Within.ofFst; · with_reducible assumption)
    | (split <;> try dsimp only)

end Sys2Proof.Machine
end

