-- ==== Sys2Proof/Laws/HostCmd.lean ====
section
/-! SUPPORT. What each operation of Machine/HostCmd may change. -/

namespace Sys2Proof.Machine

theorem Dev.bellMsi_within (v : Dev) (die : Nat) (n : Nat) (before : Ring) : Dev.Within [.hif, .out] v (Dev.bellMsi v die n before) := by
  unfold Dev.bellMsi
  try dsimp only
  repeat' first
    | with_reducible exact Dev.Within.refl _ _
    | with_reducible assumption
    | (with_reducible apply Dev.Within.step (Dev.msi_within _ _ _)); · decide
    | (with_reducible apply Dev.Within.ite)
    | (with_reducible apply Dev.Within.iteFst <;> try dsimp only)
    | (with_reducible apply Dev.Within.iteSnd <;> try dsimp only)
    | (intro _; try dsimp only)
    | (with_reducible apply Dev.Within.ofSnd; · with_reducible assumption)
    | (with_reducible apply Dev.Within.ofThird; · with_reducible assumption)
    | (with_reducible apply Dev.Within.ofFst; · with_reducible assumption)
    | (split <;> try dsimp only)
theorem Dev.bellTaken_within (v : Dev) (die : Nat) (n : Nat) (index : Nat) : Dev.Within [.hostMem, .hif, .out] v (Dev.bellTaken v die n index) := by
  unfold Dev.bellTaken
  try dsimp only
  repeat' first
    | with_reducible exact Dev.Within.refl _ _
    | with_reducible assumption
    | (with_reducible apply Dev.Within.step (Dev.bellMsi_within _ _ _ _)); · decide
    | (with_reducible apply Dev.Within.step (Dev.drainDone_within _ _ _)); · decide
    | (with_reducible apply Dev.Within.step (Dev.drainLost_within _ _)); · decide
    | (with_reducible apply Dev.Within.step (Dev.modRing_within _ _ _ _)); · decide
    | (with_reducible apply Dev.Within.ite)
    | (with_reducible apply Dev.Within.iteFst <;> try dsimp only)
    | (with_reducible apply Dev.Within.iteSnd <;> try dsimp only)
    | (intro _; try dsimp only)
    | (with_reducible apply Dev.Within.ofSnd; · with_reducible assumption)
    | (with_reducible apply Dev.Within.ofThird; · with_reducible assumption)
    | (with_reducible apply Dev.Within.ofFst; · with_reducible assumption)
    | (split <;> try dsimp only)
theorem Dev.doorbell_within (v : Dev) (die : Nat) (n : Nat) (off : Nat) (len : Nat) (x : W64) : Dev.Within [.hostMem, .hif, .out] v (Dev.doorbell v die n off len x) := by
  unfold Dev.doorbell
  try dsimp only
  repeat' first
    | with_reducible exact Dev.Within.refl _ _
    | with_reducible assumption
    | (with_reducible apply Dev.Within.step (Dev.bellTaken_within _ _ _ _)); · decide
    | (with_reducible apply Dev.Within.step (Dev.ev_within _ _ _ _ _ _)); · decide
    | (with_reducible apply Dev.Within.ite)
    | (with_reducible apply Dev.Within.iteFst <;> try dsimp only)
    | (with_reducible apply Dev.Within.iteSnd <;> try dsimp only)
    | (intro _; try dsimp only)
    | (with_reducible apply Dev.Within.ofSnd; · with_reducible assumption)
    | (with_reducible apply Dev.Within.ofThird; · with_reducible assumption)
    | (with_reducible apply Dev.Within.ofFst; · with_reducible assumption)
    | (split <;> try dsimp only)
theorem Dev.ringRefuse_within (v : Dev) (die : Nat) (n : Nat) (code : Nat) : Dev.Within [.hif] v (Dev.ringRefuse v die n code) := by
  unfold Dev.ringRefuse
  try dsimp only
  repeat' first
    | with_reducible exact Dev.Within.refl _ _
    | with_reducible assumption
    | (with_reducible apply Dev.Within.step (Dev.modHifD_within _ _ _)); · decide
    | (with_reducible apply Dev.Within.ite)
    | (with_reducible apply Dev.Within.iteFst <;> try dsimp only)
    | (with_reducible apply Dev.Within.iteSnd <;> try dsimp only)
    | (intro _; try dsimp only)
    | (with_reducible apply Dev.Within.ofSnd; · with_reducible assumption)
    | (with_reducible apply Dev.Within.ofThird; · with_reducible assumption)
    | (with_reducible apply Dev.Within.ofFst; · with_reducible assumption)
    | (split <;> try dsimp only)
theorem Dev.ringEnable_within (v : Dev) (die : Nat) (n : Nat) (cfg : W64) : Dev.Within [.hostMem, .hif, .out] v (Dev.ringEnable v die n cfg) := by
  unfold Dev.ringEnable
  try dsimp only
  repeat' first
    | with_reducible exact Dev.Within.refl _ _
    | with_reducible assumption
    | (with_reducible apply Dev.Within.step (Dev.drainDone_within _ _ _)); · decide
    | (with_reducible apply Dev.Within.step (Dev.drainLost_within _ _)); · decide
    | (with_reducible apply Dev.Within.step (Dev.modRing_within _ _ _ _)); · decide
    | (with_reducible apply Dev.Within.ite)
    | (with_reducible apply Dev.Within.iteFst <;> try dsimp only)
    | (with_reducible apply Dev.Within.iteSnd <;> try dsimp only)
    | (intro _; try dsimp only)
    | (with_reducible apply Dev.Within.ofSnd; · with_reducible assumption)
    | (with_reducible apply Dev.Within.ofThird; · with_reducible assumption)
    | (with_reducible apply Dev.Within.ofFst; · with_reducible assumption)
    | (split <;> try dsimp only)
theorem Dev.ringCfgWrite_within (v : Dev) (die : Nat) (n : Nat) (x : W64) : Dev.Within [.hostMem, .hif, .out] v (Dev.ringCfgWrite v die n x) := by
  unfold Dev.ringCfgWrite
  try dsimp only
  repeat' first
    | with_reducible exact Dev.Within.refl _ _
    | with_reducible assumption
    | (with_reducible apply Dev.Within.step (Dev.ringEnable_within _ _ _ _)); · decide
    | (with_reducible apply Dev.Within.step (Dev.ringRefuse_within _ _ _ _)); · decide
    | (with_reducible apply Dev.Within.step (Dev.modRing_within _ _ _ _)); · decide
    | (with_reducible apply Dev.Within.ite)
    | (with_reducible apply Dev.Within.iteFst <;> try dsimp only)
    | (with_reducible apply Dev.Within.iteSnd <;> try dsimp only)
    | (intro _; try dsimp only)
    | (with_reducible apply Dev.Within.ofSnd; · with_reducible assumption)
    | (with_reducible apply Dev.Within.ofThird; · with_reducible assumption)
    | (with_reducible apply Dev.Within.ofFst; · with_reducible assumption)
    | (split <;> try dsimp only)
theorem Dev.ringBaseWrite_within (v : Dev) (die : Nat) (n : Nat) (x : W64) : Dev.Within [.hif] v (Dev.ringBaseWrite v die n x) := by
  unfold Dev.ringBaseWrite
  try dsimp only
  repeat' first
    | with_reducible exact Dev.Within.refl _ _
    | with_reducible assumption
    | (with_reducible apply Dev.Within.step (Dev.ringRefuse_within _ _ _ _)); · decide
    | (with_reducible apply Dev.Within.step (Dev.modRing_within _ _ _ _)); · decide
    | (with_reducible apply Dev.Within.ite)
    | (with_reducible apply Dev.Within.iteFst <;> try dsimp only)
    | (with_reducible apply Dev.Within.iteSnd <;> try dsimp only)
    | (intro _; try dsimp only)
    | (with_reducible apply Dev.Within.ofSnd; · with_reducible assumption)
    | (with_reducible apply Dev.Within.ofThird; · with_reducible assumption)
    | (with_reducible apply Dev.Within.ofFst; · with_reducible assumption)
    | (split <;> try dsimp only)
theorem Dev.ringShadowWrite_within (v : Dev) (die : Nat) (n : Nat) (x : W64) : Dev.Within [.hif] v (Dev.ringShadowWrite v die n x) := by
  unfold Dev.ringShadowWrite
  try dsimp only
  repeat' first
    | with_reducible exact Dev.Within.refl _ _
    | with_reducible assumption
    | (with_reducible apply Dev.Within.step (Dev.ringRefuse_within _ _ _ _)); · decide
    | (with_reducible apply Dev.Within.step (Dev.modRing_within _ _ _ _)); · decide
    | (with_reducible apply Dev.Within.ite)
    | (with_reducible apply Dev.Within.iteFst <;> try dsimp only)
    | (with_reducible apply Dev.Within.iteSnd <;> try dsimp only)
    | (intro _; try dsimp only)
    | (with_reducible apply Dev.Within.ofSnd; · with_reducible assumption)
    | (with_reducible apply Dev.Within.ofThird; · with_reducible assumption)
    | (with_reducible apply Dev.Within.ofFst; · with_reducible assumption)
    | (split <;> try dsimp only)
theorem Dev.mmioWrite_within (v : Dev) (die : Nat) (n : Nat) (x : W64) : Dev.Within [.hif] v (Dev.mmioWrite v die n x) := by
  unfold Dev.mmioWrite
  try dsimp only
  repeat' first
    | with_reducible exact Dev.Within.refl _ _
    | with_reducible assumption
    | (with_reducible apply Dev.Within.step (Dev.modHifD_within _ _ _)); · decide
    | (with_reducible apply Dev.Within.ite)
    | (with_reducible apply Dev.Within.iteFst <;> try dsimp only)
    | (with_reducible apply Dev.Within.iteSnd <;> try dsimp only)
    | (intro _; try dsimp only)
    | (with_reducible apply Dev.Within.ofSnd; · with_reducible assumption)
    | (with_reducible apply Dev.Within.ofThird; · with_reducible assumption)
    | (with_reducible apply Dev.Within.ofFst; · with_reducible assumption)
    | (split <;> try dsimp only)
theorem Dev.hostBadAccess_within (v : Dev) (die : Nat) (off : Nat) (wr : Bool) : Dev.Within [.hif, .out] v (Dev.hostBadAccess v die off wr) := by
  unfold Dev.hostBadAccess
  try dsimp only
  repeat' first
    | with_reducible exact Dev.Within.refl _ _
    | with_reducible assumption
    | (with_reducible apply Dev.Within.step (Dev.ev_within _ _ _ _ _ _)); · decide
    | (with_reducible apply Dev.Within.step (Dev.send_within _ _)); · decide
    | (with_reducible apply Dev.Within.ite)
    | (with_reducible apply Dev.Within.iteFst <;> try dsimp only)
    | (with_reducible apply Dev.Within.iteSnd <;> try dsimp only)
    | (intro _; try dsimp only)
    | (with_reducible apply Dev.Within.ofSnd; · with_reducible assumption)
    | (with_reducible apply Dev.Within.ofThird; · with_reducible assumption)
    | (with_reducible apply Dev.Within.ofFst; · with_reducible assumption)
    | (split <;> try dsimp only)
theorem Dev.bar4_within (v : Dev) (die : Nat) (off : Nat) (len : Nat) (wr : Option (List Byte)) : Dev.Within [.schedules, .streams, .spads, .caches, .contexts, .dmas, .coreRegs, .counters, .syncStatus, .stackMem, .channels, .stackRegs, .map, .hostMem, .heldWrites, .faults, .contextSwitch, .fabric, .hif, .free, .out] v (Dev.bar4 v die off len wr) := by
  unfold Dev.bar4
  try dsimp only
  repeat' first
    | with_reducible exact Dev.Within.refl _ _
    | with_reducible assumption
    | (with_reducible apply Dev.Within.step (Dev.hostBadAccess_within _ _ _ _)); · decide
    | (with_reducible apply Dev.Within.step (Dev.rdModule_within _ _ _ _ _)); · decide
    | (with_reducible apply Dev.Within.step (Dev.releaseHeld_within _)); · decide
    | (with_reducible apply Dev.Within.step (Dev.wrModule_within _ _ _ _ _ _ _)); · decide
    | (with_reducible apply Dev.Within.step (Dev.send_within _ _)); · decide
    | with_reducible apply Dev.Within.hbm
    | (with_reducible apply Dev.Within.ite)
    | (with_reducible apply Dev.Within.iteFst <;> try dsimp only)
    | (with_reducible apply Dev.Within.iteSnd <;> try dsimp only)
    | (intro _; try dsimp only)
    | with_reducible exact Hbm.Within.refl _ _
    | exact ⟨fun p hp => by cases p <;> first | exact absurd (by decide) hp | simp [Hbm.same], fun h => by first | exact h | exact mwrite_wf _ _ h | exact mclear_wf _ _ h | exact filter_wfFrom _ _ h | rfl⟩
    | (with_reducible apply Dev.Within.ofSnd; · with_reducible assumption)
    | (with_reducible apply Dev.Within.ofThird; · with_reducible assumption)
    | (with_reducible apply Dev.Within.ofFst; · with_reducible assumption)
    | (split <;> try dsimp only)
theorem Dev.readNow_within (v : Dev) (z0 : HeldRead) : Dev.Within [.schedules, .streams, .spads, .caches, .contexts, .dmas, .coreRegs, .counters, .syncStatus, .stackMem, .channels, .stackRegs, .map, .hostMem, .heldWrites, .faults, .contextSwitch, .fabric, .hif, .free, .out] v (Dev.readNow v z0) := by
  unfold Dev.readNow
  try dsimp only
  repeat' first
    | with_reducible exact Dev.Within.refl _ _
    | with_reducible assumption
    | (with_reducible apply Dev.Within.step (Dev.bar4_within _ _ _ _ _)); · decide
    | (with_reducible apply Dev.Within.step (Dev.packetRead_within _ _ _ _)); · decide
    | (with_reducible apply Dev.Within.ite)
    | (with_reducible apply Dev.Within.iteFst <;> try dsimp only)
    | (with_reducible apply Dev.Within.iteSnd <;> try dsimp only)
    | (intro _; try dsimp only)
    | (with_reducible apply Dev.Within.ofSnd; · with_reducible assumption)
    | (with_reducible apply Dev.Within.ofThird; · with_reducible assumption)
    | (with_reducible apply Dev.Within.ofFst; · with_reducible assumption)
    | (split <;> try dsimp only)
theorem Dev.rebuildDone_within (v : Dev) : Dev.Within [.schedules, .streams, .spads, .caches, .contexts, .dmas, .coreRegs, .counters, .syncStatus, .stackMem, .channels, .stackRegs, .map, .hostMem, .heldWrites, .faults, .contextSwitch, .fabric, .links, .hif, .free, .out] v (Dev.rebuildDone v) := by
  unfold Dev.rebuildDone
  try dsimp only
  repeat' first
    | with_reducible exact Dev.Within.refl _ _
    | with_reducible assumption
    | (with_reducible apply Dev.Within.step (Dev.readNow_within _ _)); · decide
    | (with_reducible apply Dev.Within.step (Dev.releaseWrites_within _)); · decide
    | with_reducible apply Dev.Within.hbm
    | (with_reducible apply Dev.Within.ite)
    | (with_reducible apply Dev.Within.iteFst <;> try dsimp only)
    | (with_reducible apply Dev.Within.iteSnd <;> try dsimp only)
    | with_reducible apply Dev.Within.forAll
    | (intro _; try dsimp only)
    | with_reducible exact Hbm.Within.refl _ _
    | exact ⟨fun p hp => by cases p <;> first | exact absurd (by decide) hp | simp [Hbm.same], fun h => by first | exact h | exact mwrite_wf _ _ h | exact mclear_wf _ _ h | exact filter_wfFrom _ _ h | rfl⟩
    | (with_reducible apply Dev.Within.ofSnd; · with_reducible assumption)
    | (with_reducible apply Dev.Within.ofThird; · with_reducible assumption)
    | (with_reducible apply Dev.Within.ofFst; · with_reducible assumption)
    | (split <;> try dsimp only)
theorem Dev.dropScheds_within (v : Dev) (die : Nat) : Dev.Within [.schedules, .streams, .spads, .caches, .contexts, .dmas, .coreRegs, .counters, .syncStatus, .stackMem, .channels, .stackRegs, .hostMem, .heldWrites, .faults, .contextSwitch, .fabric, .hif, .out] v (Dev.dropScheds v die) := by
  unfold Dev.dropScheds
  try dsimp only
  repeat' first
    | with_reducible exact Dev.Within.refl _ _
    | with_reducible assumption
    | (with_reducible apply Dev.Within.step (Dev.clearFlights_within _ _)); · decide
    | (with_reducible apply Dev.Within.step (Dev.cutShort_within _ _)); · decide
    | (with_reducible apply Dev.Within.step (Dev.forget_within _ _)); · decide
    | (with_reducible apply Dev.Within.step (Dev.stopSched_within _ _)); · decide
    | (with_reducible apply Dev.Within.step (Dev.modStrm_within _ _ _)); · decide
    | (with_reducible apply Dev.Within.step (Dev.modFlt_within _ _ _)); · decide
    | (with_reducible apply Dev.Within.ite)
    | (with_reducible apply Dev.Within.iteFst <;> try dsimp only)
    | (with_reducible apply Dev.Within.iteSnd <;> try dsimp only)
    | with_reducible apply Dev.Within.forAll
    | (intro _; try dsimp only)
    | (with_reducible apply Dev.Within.ofSnd; · with_reducible assumption)
    | (with_reducible apply Dev.Within.ofThird; · with_reducible assumption)
    | (with_reducible apply Dev.Within.ofFst; · with_reducible assumption)
    | (split <;> try dsimp only)
theorem Dev.dropImages_within (v : Dev) (die : Nat) : Dev.Within [.schedules, .streams, .spads, .caches, .contexts, .dmas, .coreRegs, .counters, .syncStatus, .stackMem, .channels, .stackRegs, .hostMem, .moult, .heldWrites, .faults, .contextSwitch, .fabric, .links, .hif, .free, .out] v (Dev.dropImages v die) := by
  unfold Dev.dropImages
  try dsimp only
  repeat' first
    | with_reducible exact Dev.Within.refl _ _
    | with_reducible assumption
    | (with_reducible apply Dev.Within.step (Dev.cutMoult_within _ _)); · decide
    | (with_reducible apply Dev.order_within; · decide)
    | (with_reducible apply Dev.Within.step (Dev.modMoult_within _ _)); · decide
    | (with_reducible apply Dev.Within.ite)
    | (with_reducible apply Dev.Within.iteFst <;> try dsimp only)
    | (with_reducible apply Dev.Within.iteSnd <;> try dsimp only)
    | (intro _; try dsimp only)
    | (with_reducible apply Dev.Within.ofSnd; · with_reducible assumption)
    | (with_reducible apply Dev.Within.ofThird; · with_reducible assumption)
    | (with_reducible apply Dev.Within.ofFst; · with_reducible assumption)
    | (split <;> try dsimp only)
theorem Dev.dropRegions_within (v : Dev) (die : Nat) : Dev.Within [.regions] v (Dev.dropRegions v die) := by
  unfold Dev.dropRegions
  try dsimp only
  repeat' first
    | with_reducible exact Dev.Within.refl _ _
    | with_reducible assumption
    | (with_reducible apply Dev.Within.ite)
    | (with_reducible apply Dev.Within.iteFst <;> try dsimp only)
    | (with_reducible apply Dev.Within.iteSnd <;> try dsimp only)
    | (intro _; try dsimp only)
    | (with_reducible apply Dev.Within.ofSnd; · with_reducible assumption)
    | (with_reducible apply Dev.Within.ofThird; · with_reducible assumption)
    | (with_reducible apply Dev.Within.ofFst; · with_reducible assumption)
    | exact ⟨fun p hp => by cases p <;> first | exact absurd (by decide) hp | exact rfl | exact fun c => Core.same_refl _ _ | exact Hbm.same_refl .stackMem _ | exact Hbm.same_refl .map _, id⟩
    | (split <;> try dsimp only)
theorem Dev.resetRegs_within (v : Dev) (die : Nat) : Dev.Within [.schedules, .streams, .spads, .accs, .tiles, .caches, .coreGens, .contexts, .dmas, .coreRegs, .counters, .syncStatus, .regions, .regionStatus, .stackMem, .channels, .stackRegs, .hostMem, .moult, .heldWrites, .faults, .contextSwitch, .fabric, .links, .hif, .free, .out] v (Dev.resetRegs v die) := by
  unfold Dev.resetRegs
  try dsimp only
  repeat' first
    | with_reducible exact Dev.Within.refl _ _
    | with_reducible assumption
    | (with_reducible apply Dev.Within.step (Dev.dropRegions_within _ _)); · decide
    | (with_reducible apply Dev.Within.step (Dev.functionReset_within _ _)); · decide
    | (with_reducible apply Dev.Within.step (Dev.modSynSt_within _ _ _)); · decide
    | (with_reducible apply Dev.Within.step (Dev.modRgnSt_within _ _ _)); · decide
    | (with_reducible apply Dev.Within.step (Dev.modCtxSwD_within _ _ _)); · decide
    | (with_reducible apply Dev.Within.step (Dev.modHifD_within _ _ _)); · decide
    | (with_reducible apply Dev.Within.step (Dev.modMoult_within _ _)); · decide
    | (with_reducible apply Dev.Within.step (Dev.modChan_within _ _ _)); · decide
    | (with_reducible apply Dev.Within.step (Dev.modStk_within _ _ _)); · decide
    | with_reducible apply Dev.Within.core
    | (with_reducible apply Dev.Within.ite)
    | (with_reducible apply Dev.Within.iteFst <;> try dsimp only)
    | (with_reducible apply Dev.Within.iteSnd <;> try dsimp only)
    | with_reducible apply Dev.Within.forAll
    | (intro _; try dsimp only)
    | with_reducible exact Core.Within.refl _ _
    | (with_reducible unfold Core.functionReset; try dsimp only)
    | exact ⟨fun p hp => by cases p <;> first | exact absurd (by decide) hp | simp [Core.same, Core.functionReset], fun h => by (try simp only [Core.functionReset]); first | exact h | exact mwrite_wf _ _ h | exact mclear_wf _ _ h | exact filter_wfFrom _ _ h | rfl⟩
    | (with_reducible apply Dev.Within.ofSnd; · with_reducible assumption)
    | (with_reducible apply Dev.Within.ofThird; · with_reducible assumption)
    | (with_reducible apply Dev.Within.ofFst; · with_reducible assumption)
    | (split <;> try dsimp only)
theorem Dev.dropAskers_within (v : Dev) (die : Nat) : Dev.Within [.spads, .caches, .contexts, .coreRegs, .counters, .syncStatus, .stackMem, .channels, .stackRegs, .hostMem, .heldWrites, .contextSwitch, .fabric, .hif, .out] v (Dev.dropAskers v die) := by
  unfold Dev.dropAskers
  try dsimp only
  repeat' first
    | with_reducible exact Dev.Within.refl _ _
    | with_reducible assumption
    | (with_reducible apply Dev.Within.step (Dev.dmaRead_within _ _ _ _ _)); · decide
    | (with_reducible apply Dev.Within.step (Dev.dmaWrite_within _ _ _ _ _ _)); · decide
    | (with_reducible apply Dev.Within.step (Dev.sclLoad_within _ _ _ _ _ _ _ _ _)); · decide
    | (with_reducible apply Dev.Within.step (Dev.sclStore_within _ _ _ _ _ _ _)); · decide
    | (with_reducible apply Dev.Within.step (Dev.sealRead_within _ _ _)); · decide
    | (with_reducible apply Dev.Within.step (Dev.modFabD_within _ _ _)); · decide
    | (with_reducible apply Dev.Within.step (Dev.modHeld_within _ _ _)); · decide
    | (with_reducible apply Dev.Within.ite)
    | (with_reducible apply Dev.Within.iteFst <;> try dsimp only)
    | (with_reducible apply Dev.Within.iteSnd <;> try dsimp only)
    | (intro _; try dsimp only)
    | (with_reducible apply Dev.Within.ofSnd; · with_reducible assumption)
    | (with_reducible apply Dev.Within.ofThird; · with_reducible assumption)
    | (with_reducible apply Dev.Within.ofFst; · with_reducible assumption)
    | (split <;> try dsimp only)
theorem Dev.functionReset_within (v : Dev) (die : Nat) : Dev.Within [.schedules, .streams, .spads, .accs, .tiles, .caches, .coreGens, .contexts, .dmas, .coreRegs, .counters, .syncStatus, .regions, .regionStatus, .stackMem, .channels, .stackRegs, .hostMem, .moult, .heldWrites, .faults, .contextSwitch, .fabric, .links, .hif, .free, .out] v (Dev.functionReset v die) := by
  unfold Dev.functionReset
  try dsimp only
  repeat' first
    | with_reducible exact Dev.Within.refl _ _
    | with_reducible assumption
    | (with_reducible apply Dev.Within.step (Dev.dropAskers_within _ _)); · decide
    | (with_reducible apply Dev.Within.step (Dev.dropImages_within _ _)); · decide
    | (with_reducible apply Dev.Within.step (Dev.dropScheds_within _ _)); · decide
    | (with_reducible apply Dev.Within.step (Dev.mergeDie_within _ _)); · decide
    | (with_reducible apply Dev.Within.step (Dev.resetRegs_within _ _)); · decide
    | (with_reducible apply Dev.Within.step (Dev.modFabD_within _ _ _)); · decide
    | (with_reducible apply Dev.Within.ite)
    | (with_reducible apply Dev.Within.iteFst <;> try dsimp only)
    | (with_reducible apply Dev.Within.iteSnd <;> try dsimp only)
    | with_reducible apply Dev.Within.foldlFst
    | with_reducible apply Dev.Within.foldlSnd
    | with_reducible apply Dev.Within.foldl
    | (intro _; try dsimp only)
    | (with_reducible apply Dev.Within.ofSnd; · with_reducible assumption)
    | (with_reducible apply Dev.Within.ofThird; · with_reducible assumption)
    | (with_reducible apply Dev.Within.ofFst; · with_reducible assumption)
    | (split <;> try dsimp only)

end Sys2Proof.Machine
end

