-- ==== Sys2Proof/Laws/Insn.lean ====
section
/-! SUPPORT. What each operation of Machine/Insn may change. -/

namespace Sys2Proof.Machine

theorem Dev.sclSet_within (v : Dev) (c : Nat) (x : Nat) (rd : Nat) (val : W64) (p : W64) : Dev.Within [.contexts] v (Dev.sclSet v c x rd val p) := by
  unfold Dev.sclSet
  try dsimp only
  repeat' first
    | with_reducible exact Dev.Within.refl _ _
    | with_reducible assumption
    | (with_reducible apply Dev.Within.step (Dev.modCtx_within _ _ _ _)); · decide
    | (with_reducible apply Dev.Within.ite)
    | (with_reducible apply Dev.Within.iteFst <;> try dsimp only)
    | (with_reducible apply Dev.Within.iteSnd <;> try dsimp only)
    | (intro _; try dsimp only)
    | (with_reducible apply Dev.Within.ofSnd; · with_reducible assumption)
    | (with_reducible apply Dev.Within.ofThird; · with_reducible assumption)
    | (with_reducible apply Dev.Within.ofFst; · with_reducible assumption)
    | (split <;> try dsimp only)
theorem Dev.sclExec_within (v : Dev) (c : Nat) (x : Nat) (i : Insn) (pc : W64) (p : W64) : Dev.Within [.streams, .spads, .caches, .contexts, .coreRegs, .counters, .barriers, .syncStatus, .stackMem, .channels, .stackRegs, .hostMem, .heldWrites, .contextSwitch, .fabric, .hif, .free, .out] v (Dev.sclExec v c x i pc p) := by
  unfold Dev.sclExec
  try dsimp only
  repeat' first
    | with_reducible exact Dev.Within.refl _ _
    | with_reducible assumption
    | (with_reducible apply Dev.Within.step (Dev.csrRead_within _ _ _ _ _ _)); · decide
    | (with_reducible apply Dev.Within.step (Dev.sclAmo_within _ _ _ _ _ _ _ _ _ _)); · decide
    | (with_reducible apply Dev.Within.step (Dev.sclFault_within _ _ _ _ _)); · decide
    | (with_reducible apply Dev.Within.step (Dev.sclFence_within _ _ _ _)); · decide
    | (with_reducible apply Dev.Within.step (Dev.sclGo_within _ _ _ _)); · decide
    | (with_reducible apply Dev.Within.step (Dev.sclLoad_within _ _ _ _ _ _ _ _ _)); · decide
    | (with_reducible apply Dev.Within.step (Dev.sclSet_within _ _ _ _ _ _)); · decide
    | (with_reducible apply Dev.Within.step (Dev.sclStore_within _ _ _ _ _ _ _)); · decide
    | (with_reducible apply Dev.Within.step (Dev.twBara_within _ _ _ _ _ _)); · decide
    | (with_reducible apply Dev.Within.step (Dev.twBarw_within _ _ _ _ _ _)); · decide
    | (with_reducible apply Dev.Within.step (Dev.twCtr_within _ _ _ _ _ _)); · decide
    | (with_reducible apply Dev.Within.step (Dev.twHalt_within _ _ _)); · decide
    | (with_reducible apply Dev.Within.step (Dev.twRange_within _ _ _ _ _ _ _)); · decide
    | (with_reducible apply Dev.Within.step (Dev.twSig_within _ _ _ _ _)); · decide
    | (with_reducible apply Dev.Within.step (Dev.twWait_within _ _ _ _ _ _)); · decide
    | (with_reducible apply Dev.Within.ite)
    | (with_reducible apply Dev.Within.iteFst <;> try dsimp only)
    | (with_reducible apply Dev.Within.iteSnd <;> try dsimp only)
    | (intro _; try dsimp only)
    | (with_reducible apply Dev.Within.ofSnd; · with_reducible assumption)
    | (with_reducible apply Dev.Within.ofThird; · with_reducible assumption)
    | (with_reducible apply Dev.Within.ofFst; · with_reducible assumption)
    | (split <;> try dsimp only)

end Sys2Proof.Machine
end

