-- ==== Sys2Proof/Machine/Reads.lean ====
section
/-! DEFINITION. What a read of each BAR0 register returns (19 R646 to R652 and the field tables of each chapter). A read changes nothing and
is no command of the table, so no meaning calls these. -/

namespace Sys2Proof.Machine

/-- Fields of a register, each its lowest bit and its value. -/
def pack (fs : List (Nat × Nat)) : Nat := fs.foldl (fun a f => a + f.2 * 2 ^ f.1) 0
/-- A bit field from a truth value. -/
def flag (i : Nat) (b : Bool) : Nat × Nat := (i, b2n b)

/-! ### Stream status words (Tables 19.6 to 19.9) -/

/-- A wait of a stream's released head that is not satisfied. -/
def Dev.blockedWaits (v : Dev) (k : Nat) : List (Nat × Nat) :=
  match (v.strm k).headEntry with
  | none => []
  | some e =>
    if v.runs k && !(v.strm k).granted && !e.noWait && (v.schedOf k).released e.words then (eWaits k e.words).filter (fun w => !(v.ctr w.1).sat w.2) else []
/-- STRM_STATUS.STATE. -/
def Dev.strmState (v : Dev) (k : Nat) : Nat :=
  let s := v.strm k
  if v.strmSaved k then 5
  else if !s.loaded then 0
  else match (v.schedOf k).phase with
  | .saved => 0
  | .none => if s.stopped then 4 else if s.finished then 3 else 1
  | .loaded => if s.stopped then 4 else if s.finished then 3 else 1
  | .running => if s.stopped then 4 else if s.finished then 3 else 2
  | .stopped => if s.stopped then 4 else if s.finished then 3 else 1
/-- STRM_STATUS.WAITING: a wait not satisfied, the version fence, or a CE_RECV. -/
def Dev.strmWaiting (v : Dev) (k : Nat) : Bool :=
  !(v.blockedWaits k).isEmpty || (v.strm k).flights.any (fun f => decide (f.wait = .version) || decide (f.wait = .recv))
/-- Every entry of the current start has started. -/
def Strm.allStarted (s : Strm) : Bool := s.haltSeen || (decide (0 < s.count) && decide (s.count ≤ s.next))
/-- Word i of a stream's status block. -/
def Dev.strmWord (v : Dev) (k i : Nat) : Nat :=
  let s := v.strm k
  match i with
  | 0 => pack [(0, v.strmState k), flag 3 s.lateFlag, flag 4 (v.strmWaiting k), flag 5 s.noneRetired, flag 6 s.allStarted, (8, s.sched),
               (16, s.lastRetired), (40, if s.allStarted then 0 else s.next)]
  | 1 => pack [(0, s.slipNow), (32, s.slipMax)]
  | 2 => pack [(0, s.oob), (32, s.drop)]
  | _ => s.lastMark.toNat

/-! ### GLB and the fault record (Tables 19.2 to 19.4, 16.3 to 16.8, 16.15 to 16.18) -/

/-- GLB_CTX_STATE(n): no schedule, loaded, saved, saved after a fault (Table 16.17). -/
def Dev.ctxState (v : Dev) (die n : Nat) : Nat :=
  let ss := v.scheds.filter (fun e => decide (e.1 / 256 = die) && decide (e.2.context = n))
  if ss.any (fun e => decide (e.2.phase = .saved) && decide (e.2.was = .stopped)) then 3
  else if ss.any (fun e => decide (e.2.phase = .saved)) then 2
  else b2n (ss.any (fun e => decide (e.2.phase ≠ .none)))
/-- Word i of a table of pairs. -/
def pairWord (t : List (W64 × W64)) (i : Nat) : Nat :=
  let p := t.getD (i / 2) (0#64, 0#64)
  if i % 2 = 0 then p.1.toNat else p.2.toNat
/-- Word i of the record header (Table 16.4). -/
def FaultRec.headerWord (r : FaultRec) (i : Nat) : Nat :=
  match i with
  | 0 => pack [flag 0 r.valid, flag 1 r.late, flag 2 r.timed, (8, r.cause), (16, r.overflow), (32, r.schedTag)]
  | 1 => r.tick
  | 2 => pack [(0, r.kind), (3, r.unit), flag 9 r.hasStream, (16, r.entry), (40, r.context)]
  | 3 => r.detail.toNat
  | 4 => pack [(0, r.nInflight), flag 16 r.inflightFull]
  | _ => 0
/-- Word i of an entry of the in-flight table (Table 16.8). -/
def InFlightRec.word (e : InFlightRec) (i : Nat) : Nat := (match i with | 0 => e.w0 | 1 => e.w1 | 2 => e.w2 | _ => e.w3).toNat
/-- The fault record's word at an offset of the GLB block (Table 16.3). -/
def FaultRec.wordAt (r : FaultRec) (off : Nat) : Nat :=
  if off < 0x8040 then r.headerWord ((off - 0x8000) / 8)
  else if off < 0x8040 + 77 * 16 then pairWord r.streams ((off - 0x8040) / 8)
  else if 0x8600 ≤ off ∧ off < 0x8600 + 384 * 16 then pairWord r.dmaTab ((off - 0x8600) / 8)
  else if 0x9E00 ≤ off ∧ off < 0x9E40 then (wd r.chunk ((off - 0x9E00) / 8)).toNat
  else if 0xA000 ≤ off then ((r.inflight[(off - 0xA000) / 32]?).map (fun e => e.word ((off - 0xA000) / 8 % 4))).getD 0
  else 0
/-- GLB_CAPACITY and GLB_CORE_LIVE (R650, R651). -/
def Dev.capacity (v : Dev) : Nat :=
  pack [(0, 256 - v.hbm.retired.length), (16, ((List.range 48).filter (fun c => !(v.core c).retired)).length)]
def Dev.coreLive (v : Dev) : Nat := pack ((List.range 48).map (fun c => flag c (!(v.core c).retired)))
/-- 64-bit words of the GLB block: `w` at an offset that is a multiple of 8, with two 32-bit registers side by side where it holds two. -/
def Dev.glbRead (v : Dev) (die off : Nat) : Nat :=
  let s := v.ctxSwD die
  if off = 0 then glbIdent
  else if off = 0x10 then v.capacity
  else if off = 0x18 then v.coreLive
  else if off = 0x100 then pack [flag 0 (v.flt die).valid, flag 1 (v.flt die).pending]
  else if 0x200 ≤ off ∧ off < 0x280 then (tget 0#64 s.area ((off - 0x200) / 8)).toNat
  else if 0x280 ≤ off ∧ off < 0x2C0 then pack [(0, v.ctxState die ((off - 0x280) / 4)), (32, v.ctxState die ((off - 0x280) / 4 + 1))]
  else if off = 0x2C0 then pack [(0, s.warm), (32, s.drain)]
  else if 0x400 ≤ off ∧ off < 0x420 then v.strmWord (144 + die) ((off - 0x400) / 8)
  else if 0x8000 ≤ off ∧ off < 0x10000 then (v.flt die).wordAt off
  else 0

/-! ### HIF and MSI-X (Tables 17.12 to 17.15) -/

/-- HIF registers and the MSI-X table and pending bits (PRESUMED, log entry 9). -/
def Dev.hifRead (v : Dev) (die off : Nat) : Nat :=
  let h := v.hifD die
  if off = 0x10000 then pack [(0, h.err), flag 4 h.errValid, (16, h.errRing), (32, h.evtLost)]
  else if 0x10100 ≤ off ∧ off < 0x10140 then (tget 0#64 h.mmio ((off - 0x10100) / 8)).toNat
  else if 0x20000 ≤ off ∧ off < 0x60000 then
    let r := v.ring die ((off - 0x20000) / 32)
    match off % 32 / 8 with
    | 0 => r.base.toNat
    | 1 => r.cfg.toNat
    | 2 => r.shadow.toNat
    | _ => r.index
  else if 0x80000 ≤ off ∧ off < 0x88000 then
    (if off % 16 = 0 then tget 0#64 h.msixAddr ((off - 0x80000) / 16) else tget (w64 (2 ^ 32)) h.msixData ((off - 0x80000) / 16)).toNat
  else if 0x88000 ≤ off ∧ off < 0x88100 then pack ((List.range 64).map (fun i => flag i (h.msixPend.contains ((off - 0x88000) * 8 + i))))
  else 0

/-! ### FAB and LNK (Tables 2.8 to 2.11, 14.9 to 14.19) -/

/-- FAB_TIME_STATUS: only the module's timing unit, die 0's, is ever the active master (R32, R33, Table 2.11). -/
def Dev.timeStatus (v : Dev) (die : Nat) : Nat :=
  let f := v.ft
  pack [flag 0 f.locked, flag 1 f.frozen, flag 2 f.dold, (3, f.level), flag 6 (f.masterActive && decide (die = 0)), flag 7 f.holdover, (8, f.doldLeft),
        flag 16 (v.ftReg die).step, flag 17 (v.ftReg die).msgDrop]
/-- FAB_STATUS (Table 14.13). -/
def Fab.status (f : Fab) : Nat :=
  pack [flag 0 f.denied, flag 1 f.inboundDenied, flag 2 f.misrouted, flag 3 f.noLink, flag 4 f.timeout, flag 5 f.overrun, (8, f.lateDiscards), (20, f.tolerated)]
/-- FAB_LAND (Table 14.16). -/
def Land.word (l : Land) : Nat :=
  pack [(0, l.ctag), (16, l.cc), flag 32 l.announced.isSome, flag 33 l.complete, flag 34 l.abandoned, flag 35 l.overrun, (36, l.atag), flag 52 l.atagValid]
/-- FAB registers of a die. -/
def Dev.fabRead (v : Dev) (die off : Nat) : Nat :=
  let f := v.fabD die
  if off = 0x100000 then pack [(0, (v.ftReg die).cfg.toNat), (32, (v.ftReg die).chips.toNat)]
  else if off = 0x100008 then v.ft.now
  else if off = 0x100010 then v.timeStatus die
  else if off = 0x100018 then v.ft.shift
  else if off = 0x100100 then pack [(0, v.chip), (32, f.ackTimeout)]
  else if off = 0x100108 then f.status
  else if 0x110000 ≤ off ∧ off < 0x120000 then
    pack [(0, (tget 0#32 f.routes ((off - 0x110000) / 4)).toNat), (32, (tget 0#32 f.routes ((off - 0x110000) / 4 + 1)).toNat)]
  else if 0x120000 ≤ off ∧ off < 0x122000 then (v.land die ((off - 0x120000) / 8)).word
  else 0
/-- LNK registers of a link. -/
def Link.read (k : Link) (off : Nat) : Nat :=
  match off with
  | 0 => pack [flag 1 k.disable, (32, pack [(0, k.state), (2, k.lanes), (16, k.delay)])]
  | 8 => pack [(0, k.retries), (32, k.fecUncorr), (48, k.laneFailed)]
  | 0x10 => pack [flag 0 k.rxEn, (1, k.rxSize), (6, k.rxBlk), (0, k.rxBase)]
  | 0x18 => k.bytes
  | _ => 0

/-! ### PWR (Tables 15.9 to 15.19) -/

/-- PWR_STATE (Table 15.10); ISSUE_K is die 0's. -/
def Dev.pwrState (v : Dev) : Nat :=
  let p := v.pwr
  pack [(0, v.pstate), (4, v.ft.level), flag 8 p.squall, flag 9 p.warned, flag 10 (decide (p.kc < 16)), flag 11 p.fast, (16, p.issueK 0), flag 24 p.bankLow,
        flag 25 p.startOverride]
/-- PWR_REQ (Table 15.11). -/
def Dev.pwrReq (v : Dev) : Nat := pack [(0, v.standing.1), (4, v.standing.2), (8, v.pwr.thermReq), (12, v.pwr.capReq), (16, v.pwr.squallReq)]
/-- PWR_CAP (Table 15.13): HOST_CAP and WIN as last written, EFF_CAP as in force (log entry 88). -/
def Pwr.capWord (p : Pwr) : Nat :=
  pack [(0, (p.hostCapNext.map (fun x => x.1)).getD p.hostCap), (8, p.rackCap), (16, p.effCap), (24, (p.hostCapNext.map (fun x => x.2)).getD p.win), flag 27 p.unmet]
/-- PWR registers. -/
def Dev.pwrRead (v : Dev) (off : Nat) : Nat :=
  let p := v.pwr
  if off = 0x200000 then pack [(0, v.pwrState), (32, v.pwrReq)]
  else if off = 0x200008 then p.cfg.toNat
  else if off = 0x200010 then p.capWord
  else if off = 0x200018 then pack [(0, p.vin), (16, p.pin), (32, p.pavg)]
  else if off = 0x200020 then pack [(0, p.energy), (16, p.pct), flag 23 p.charging, (24, p.reserveMs)]
  else if off = 0x200028 then pack [(0, tget 0 p.tj 0), (8, tget 0 p.tj 1), (16, p.tsMax), flag 24 (decide (p.thermReq ≠ 0))]
  else if off = 0x200030 then pack [(0, p.countSquall), (16, p.countChrysalis), (32, satAdd (tget 0 p.countGust 0) (tget 0 p.countGust 1) max32)]
  else if 0x200100 ≤ off ∧ off < 0x200128 then
    let e := (off - 0x200100) / 4
    pack [(0, (Config.ecoef e).toNat), (32, if e + 1 ≤ 8 then (Config.ecoef (e + 1)).toNat else 0)]
  else if 0x200140 ≤ off ∧ off < 0x200158 then
    let d := (off - 0x200140) / 4
    pack [(0, (Config.scoef d).toNat), (32, if d + 1 ≤ 4 then (Config.scoef (d + 1)).toNat else 0)]
  else if 0x200200 ≤ off ∧ off < 0x200288 then tget 0 p.energyTab ((off - 0x200200) / 8)
  else 0

/-! ### STK and HBM (Tables 7.5, 12.11 to 12.18, 13.7, 16.19, 16.20) -/

/-- A task of the stack's engines is queued or running: one that holds a slot, or the fill of a map rebuild (R420, R426, R440). -/
def Dev.stkBusy (v : Dev) (s : Nat) : Bool := v.hbm.busy || (List.range 32).any (fun ch => decide (v.slots (32 * s + ch) ≠ 0))
/-- HBM_CHAN (Table 12.15). -/
def Dev.chanWord (v : Dev) (ch : Nat) : Nat :=
  let c := v.chan ch
  pack [(0, c.dqSpares), (2, b2n (bit c.caSpares 0) + b2n (bit c.caSpares 1)), flag 4 c.retirePending, flag 5 (v.hbm.retired.contains ch), flag 6 c.failed,
        (8, c.retrains), (16, c.corr), (32, c.pathErr)]
/-- STK registers of a stack. -/
def Dev.stkRead (v : Dev) (s off : Nat) : Nat :=
  let k := v.stk s
  if off = 0 then pack [flag 0 k.trained, flag 1 k.hot, flag 2 k.selfRefresh, (8, k.temp)]
  else if off = 0x10 then k.engWeight
  else if off = 0x18 then pack [flag 0 (v.stkBusy s), flag 1 k.qfull]
  else if off = 0x20 then pack [flag 0 k.skipSeen, flag 1 k.mismatchSeen, flag 2 k.vmisuseSeen, (16, k.skipped), (32, k.holds)]
  else if 0x40 ≤ off ∧ off < 0x60 then v.strmWord (146 + s) ((off - 0x40) / 8)
  else if off = 0x110 then pack [flag 0 k.rngMode, flag 1 k.seeded]
  else if off = 0x118 then k.rngSeed.toNat
  else if 0x1000 ≤ off ∧ off < 0x1100 then v.chanWord (32 * s + (off - 0x1000) / 8)
  else 0
/-- HBM_BUCKET (Table 12.18). -/
def Hbm.bucketWord (h : Hbm) (b : Nat) : Nat := let x := h.bucket b; pack [(0, x.1), flag 8 x.2.1, (16, x.2.2)]
/-- HBM_MAP_STATUS (Table 12.16). -/
def Hbm.mapStatus (h : Hbm) : Nat :=
  pack [flag 0 h.busy, flag 1 h.refused, flag 2 h.belowGuarantee, (8, h.retired.length), (16, min 15 (h.retired.filter (fun c => decide (c < 128))).length),
        (20, min 15 (h.retired.filter (fun c => decide (128 ≤ c))).length), (32, h.capPages)]
/-- HBM registers; HBM_MAINT as last written (log entry 88). -/
def Dev.hbmRead (v : Dev) (off : Nat) : Nat :=
  let h := v.hbm
  let m := v.moult
  if off = 0x340000 then h.mode
  else if off = 0x340008 then h.mapStatus
  else if off = 0x340010 then h.maintWritten.toNat
  else if 0x341000 ≤ off ∧ off < 0x345000 then pack [(0, h.bucketWord ((off - 0x341000) / 4)), (32, h.bucketWord ((off - 0x341000) / 4 + 1))]
  else if off = 0x348000 then m.rate
  else if off = 0x348008 then pack [flag 0 m.active, flag 1 m.tBusy, flag 2 m.restoring, flag 3 m.pageErr, (16, m.g), (32, m.left)]
  else 0

/-! ### CORE (Tables 4.10, 4.11, 7.5, 8.13 to 8.17, 9.12 to 9.15, 11.7 to 11.12) -/

/-- CORE_SCL_STAT (Table 8.17). -/
def Ctx.statWord (q : Ctx) : Nat :=
  let st : Nat := match q.state with
    | .idle => 0
    | .running => 1
    | .waiting => (match q.wait with | .counter _ _ _ => 3 | .barrier _ _ _ => 3 | .none => 2 | .load _ _ _ _ _ _ => 2 | .store _ _ _ _ => 2
                                     | .amo _ _ _ _ _ _ _ => 2 | .put _ _ _ _ _ => 2 | .flush _ => 2 | .fence _ => 2)
    | .halted => 4
    | .faulted => 5
    | .stopped => 6
  pack [(0, st), (8, q.cause)]
/-- CORE_SCL_PC: the launch address while the context is busy, then where it stopped (R293). -/
def Ctx.pcWord (q : Ctx) : W64 := if q.busy then q.launch else q.pc
/-- CORE_ARRAY_STATUS and CORE_ARRAY_SPARE (Tables 4.10, 4.11, R679). -/
def Core.arrayStatus (k : Core) : Nat :=
  pack [(0, k.marked.length), flag 3 k.retired, flag 4 k.softRepair, flag 5 k.accOverlap, flag 6 k.colParity, (16, k.lastCol)]
def Core.arraySpare (k : Core) : Nat :=
  pack (((List.range 4).zip (sortBy (fun x => x) k.marked)).map (fun p => (16 * p.1, p.2 + 32768)))
/-- CORE_SPAD_BANK (Table 9.15). -/
def Core.bankWord (k : Core) (b : Nat) : Nat := let x := tget ({} : BankSt) k.banks b; pack [(0, x.marked.length), flag 3 x.soft]
/-- DMA_CHAN_STAT (Table 11.11); a tag is held by each read burst (R372). -/
def Dev.chanStat (v : Dev) (c n : Nat) : Nat := pack [(0, v.dmaState c n), (4, (v.dmaCh c n).lastStatus), (8, (v.dmaCh c n).bursts.length)]
/-- DMA_REQ (Table 11.12). -/
def ReqLine.word (l : ReqLine) : Nat := pack [(0, l.kind), (8, l.arg), flag 14 l.ovf, (16, l.pending)]
/-- CORE_MEM_STATUS and CORE_MEM_ERRADDR (Tables 9.13, 9.14). -/
def Core.memStatus (k : Core) : Nat := pack [flag 0 k.spadParity, flag 1 k.accParity, flag 2 k.l1Lost, flag 3 k.corr, (8, k.corrCount)]
def Core.errAddrWord (k : Core) : Nat := pack [flag 0 k.errAcc, (0, k.errAddr)]
/-- CORE registers of a core. -/
def Dev.coreRead (v : Dev) (c off : Nat) : Nat :=
  let k := v.core c
  let e := k.dma
  if off < 0x60 then v.strmWord (3 * c + off / 0x20) (off % 0x20 / 8)
  else if off = 0x100 then k.arrayStatus
  else if off = 0x108 then k.arraySpare
  else if off = 0x110 then pack [flag 0 k.rngMode, flag 1 k.seeded]
  else if off = 0x118 then k.rngSeed.toNat
  else if off = 0x120 then k.recBase.toNat
  else if off = 0x140 then pack ((List.range 8).map (fun x => flag (16 + x) (v.ctx c x).busy))
  else if off = 0x148 then k.sclCode.toNat
  else if 0x180 ≤ off ∧ off < 0x1C0 then (v.ctx c ((off - 0x180) / 8)).pcWord.toNat
  else if 0x1C0 ≤ off ∧ off < 0x1E0 then pack [(0, (v.ctx c ((off - 0x1C0) / 4)).statWord), (32, (v.ctx c ((off - 0x1C0) / 4 + 1)).statWord)]
  else if off = 0x200 then k.memStatus
  else if off = 0x208 then k.errAddrWord
  else if 0x400 ≤ off ∧ off < 0x500 then pack [(0, k.bankWord ((off - 0x400) / 4)), (32, k.bankWord ((off - 0x400) / 4 + 1))]
  else if off = 0x800 then pack [(0, e.ringChans), (32, pack [flag 0 e.stopped, (1, e.errChan), (8, e.errKind)])]
  else if off = 0x808 then e.errAddr.toNat
  else if 0x900 ≤ off ∧ off < 0xA00 then (if off % 16 = 0 then (v.dmaCh c ((off - 0x900) / 16)).bytes else v.chanStat c ((off - 0x900) / 16))
  else if 0xA00 ≤ off ∧ off < 0xB00 then pack [(0, (tget {} e.lines ((off - 0xA00) / 4)).word), (32, (tget {} e.lines ((off - 0xA00) / 4 + 1)).word)]
  else 0

/-! ### SYN and RGN (Tables 9.3 to 9.7, 10.5 to 10.10) -/

/-- At least one wait on a counter is blocked (Table 10.6). -/
def Dev.ctrWaiting (v : Dev) (id : Nat) : Bool :=
  allStreams.any (fun k => (v.blockedWaits k).any (fun w => decide (w.1 = id))) ||
  v.cores.any (fun e => e.2.ctxs.any (fun x => decide (x.2.state = .waiting) && (match x.2.wait with
    | .counter c _ _ => decide (c = id)
    | .none => false
    | .load _ _ _ _ _ _ => false
    | .store _ _ _ _ => false
    | .amo _ _ _ _ _ _ _ => false
    | .put _ _ _ _ _ => false
    | .barrier _ _ _ => false
    | .flush _ => false
    | .fence _ => false)))
/-- SYN registers of a die. -/
def Dev.synRead (v : Dev) (die off : Nat) : Nat :=
  if off < 0xC00000 + 8 * 7168 then
    let id := localCtr die ((off - 0xC00000) / 8)
    let c := v.ctr id
    pack [(0, c.value), (32, c.kind), flag 34 c.overflow, flag 35 c.misuse, flag 36 (v.ctrWaiting id)]
  else if off = 0xC10000 then
    let s := v.synSt die
    pack [flag 0 s.badId, flag 1 s.misuseSeen, flag 2 s.overflowSeen, (16, s.lastId)]
  else if 0xC10100 ≤ off ∧ off < 0xC10200 then
    let b := v.bar ((off - 0xC10100) / 16)
    if off % 16 = 0 then b.mask.toNat else pack [(0, b.gen), (16, b.sigId), flag 30 b.sigEn]
  else if 0xC10200 ≤ off ∧ off < 0xC10280 then (v.bar ((off - 0xC10200) / 8)).arrived.toNat
  else 0
/-- RGN registers of a die. -/
def Dev.rgnRead (v : Dev) (die off : Nat) : Nat :=
  if off < 0xE01000 then
    let r := v.rgnE (die * 256 + (off - 0xE00000) / 16)
    if off % 16 = 0 then r.base.toNat else r.attr.toNat
  else if off = 0xE01000 then
    let s := v.rgnSt die
    pack [(0, s.err), (8, s.errEntry), flag 16 s.errValid]
  else 0

/-! ### The BAR0 map (R592, R646) -/

/-- The 64 bits at a multiple of 8 of die d's BAR0: a 64-bit register, or the 32-bit registers it holds; 0 where there is none. -/
def Dev.bar0Word (v : Dev) (die off : Nat) : Nat :=
  if off < 0x10000 then v.glbRead die off
  else if off < 0x100000 then v.hifRead die off
  else if off < 0x200000 then v.fabRead die off
  else if off < 0x300000 then v.pwrRead off
  else if off < 0x340000 then v.stkRead (4 * die + (off - 0x300000) / 0x10000) ((off - 0x300000) % 0x10000)
  else if off < 0x350000 then v.hbmRead off
  else if 0x400000 ≤ off ∧ off < 0x424000 then (v.linkN (9 * die + (off - 0x400000) / 0x4000)).read ((off - 0x400000) % 0x4000)
  else if 0x800000 ≤ off ∧ off < 0x980000 then v.coreRead (24 * die + (off - 0x800000) / 0x10000) ((off - 0x800000) % 0x10000)
  else if 0xC00000 ≤ off ∧ off < 0xC20000 then v.synRead die off
  else if 0xE00000 ≤ off ∧ off < 0xE02000 then v.rgnRead die off
  else 0
/-- A BAR0 read of `len` bytes: aligned reads of 4 and 8 bytes, any other returns 0 (R592). -/
def Dev.bar0Read (v : Dev) (die off len : Nat) : W64 :=
  if len = 8 ∧ off % 8 = 0 then w64 (v.bar0Word die off)
  else if len = 4 ∧ off % 4 = 0 then w64 (if off % 8 = 0 then v.bar0Word die off % 2 ^ 32 else v.bar0Word die (off - 4) / 2 ^ 32 % 2 ^ 32)
  else 0#64

end Sys2Proof.Machine
end

