-- ==== Sys2Proof/Laws/Reads.lean ====
section
/-! SUPPORT. Reads of registers: what an access BAR0 does not accept returns, and the halves of a 64-bit register. -/

namespace Sys2Proof.Machine

/-- An access that is neither 4 nor 8 bytes returns 0 (R592). -/
theorem Dev.bar0Read_size {v : Dev} {die off len : Nat} (h4 : len ≠ 4) (h8 : len ≠ 8) : v.bar0Read die off len = 0#64 := by
  simp [Dev.bar0Read, h4, h8]

/-- An access that is not naturally aligned returns 0 (R592). -/
theorem Dev.bar0Read_misaligned {v : Dev} {die off len : Nat} (h : off % len ≠ 0) : v.bar0Read die off len = 0#64 := by
  unfold Dev.bar0Read
  by_cases h8 : len = 8
  · subst h8; simp [h]
  · by_cases h4 : len = 4
    · subst h4; simp [h]
    · simp [h4, h8]

/-- A stream that no schedule holds, loaded or saved, reads STATE 0 (Table 19.7). -/
theorem Dev.strmState_unloaded {v : Dev} {k : Nat} (h : (v.strm k).loaded = false) (g : v.strmSaved k = false) : v.strmState k = 0 := by
  simp [Dev.strmState, h, g]

end Sys2Proof.Machine
end

