-- ==== Sys2Proof/Laws/Registers.lean ====
section
/-! SUPPORT. What each operation of Machine/Registers may change. -/

namespace Sys2Proof.Machine

theorem Dev.markWrite_within (v : Dev) (k : Nat) (x : W64) : Dev.Within [.streams] v (Dev.markWrite v k x) := by
  unfold Dev.markWrite
  try dsimp only
  repeat' first
    | with_reducible exact Dev.Within.refl _ _
    | with_reducible assumption
    | (with_reducible apply Dev.Within.step (Dev.modStrm_within _ _ _)); · decide
    | (with_reducible apply Dev.Within.ite)
    | (with_reducible apply Dev.Within.iteFst <;> try dsimp only)
    | (with_reducible apply Dev.Within.iteSnd <;> try dsimp only)
    | (intro _; try dsimp only)
    | (with_reducible apply Dev.Within.ofSnd; · with_reducible assumption)
    | (with_reducible apply Dev.Within.ofThird; · with_reducible assumption)
    | (with_reducible apply Dev.Within.ofFst; · with_reducible assumption)
    | (split <;> try dsimp only)
theorem Dev.glbWrite_within (v : Dev) (die : Nat) (off : Nat) (x : Nat) : Dev.Within [.schedules, .streams, .dmas, .stackMem, .channels, .stackRegs, .hostMem, .heldWrites, .faults, .contextSwitch, .hif, .out] v (Dev.glbWrite v die off x) := by
  unfold Dev.glbWrite
  try dsimp only
  repeat' first
    | with_reducible exact Dev.Within.refl _ _
    | with_reducible assumption
    | (with_reducible apply Dev.Within.step (Dev.markWrite_within _ _ _)); · decide
    | (with_reducible apply Dev.Within.step (Dev.releaseRecord_within _ _ _)); · decide
    | (with_reducible apply Dev.Within.step (Dev.modCtxSwD_within _ _ _)); · decide
    | (with_reducible apply Dev.Within.ite)
    | (with_reducible apply Dev.Within.iteFst <;> try dsimp only)
    | (with_reducible apply Dev.Within.iteSnd <;> try dsimp only)
    | (intro _; try dsimp only)
    | (with_reducible apply Dev.Within.ofSnd; · with_reducible assumption)
    | (with_reducible apply Dev.Within.ofThird; · with_reducible assumption)
    | (with_reducible apply Dev.Within.ofFst; · with_reducible assumption)
    | (split <;> try dsimp only)
theorem Dev.hifWrite_within (v : Dev) (die : Nat) (off : Nat) (x : Nat) : Dev.Within [.hostMem, .hif, .out] v (Dev.hifWrite v die off x) := by
  unfold Dev.hifWrite
  try dsimp only
  repeat' first
    | with_reducible exact Dev.Within.refl _ _
    | with_reducible assumption
    | (with_reducible apply Dev.Within.step (Dev.mmioWrite_within _ _ _ _)); · decide
    | (with_reducible apply Dev.Within.step (Dev.ringBaseWrite_within _ _ _ _)); · decide
    | (with_reducible apply Dev.Within.step (Dev.ringCfgWrite_within _ _ _ _)); · decide
    | (with_reducible apply Dev.Within.step (Dev.ringShadowWrite_within _ _ _ _)); · decide
    | (with_reducible apply Dev.Within.step (Dev.modHifD_within _ _ _)); · decide
    | (with_reducible apply Dev.Within.ite)
    | (with_reducible apply Dev.Within.iteFst <;> try dsimp only)
    | (with_reducible apply Dev.Within.iteSnd <;> try dsimp only)
    | (intro _; try dsimp only)
    | (with_reducible apply Dev.Within.ofSnd; · with_reducible assumption)
    | (with_reducible apply Dev.Within.ofThird; · with_reducible assumption)
    | (with_reducible apply Dev.Within.ofFst; · with_reducible assumption)
    | (split <;> try dsimp only)
theorem Dev.msixWrite_within (v : Dev) (die : Nat) (off : Nat) (x : Nat) : Dev.Within [.hif, .out] v (Dev.msixWrite v die off x) := by
  unfold Dev.msixWrite
  try dsimp only
  repeat' first
    | with_reducible exact Dev.Within.refl _ _
    | with_reducible assumption
    | (with_reducible apply Dev.Within.step (Dev.msi_within _ _ _)); · decide
    | (with_reducible apply Dev.Within.step (Dev.modHifD_within _ _ _)); · decide
    | (with_reducible apply Dev.Within.ite)
    | (with_reducible apply Dev.Within.iteFst <;> try dsimp only)
    | (with_reducible apply Dev.Within.iteSnd <;> try dsimp only)
    | (intro _; try dsimp only)
    | (with_reducible apply Dev.Within.ofSnd; · with_reducible assumption)
    | (with_reducible apply Dev.Within.ofThird; · with_reducible assumption)
    | (with_reducible apply Dev.Within.ofFst; · with_reducible assumption)
    | (split <;> try dsimp only)
theorem Dev.timeChipsWrite_within (v : Dev) (die : Nat) (x : Nat) : Dev.Within [.timeRegs, .hif] v (Dev.timeChipsWrite v die x) := by
  unfold Dev.timeChipsWrite
  try dsimp only
  repeat' first
    | with_reducible exact Dev.Within.refl _ _
    | with_reducible assumption
    | (with_reducible apply Dev.Within.step (Dev.ev_within _ _ _ _ _ _)); · decide
    | (with_reducible apply Dev.Within.step (Dev.modFtReg_within _ _ _)); · decide
    | (with_reducible apply Dev.Within.ite)
    | (with_reducible apply Dev.Within.iteFst <;> try dsimp only)
    | (with_reducible apply Dev.Within.iteSnd <;> try dsimp only)
    | (intro _; try dsimp only)
    | (with_reducible apply Dev.Within.ofSnd; · with_reducible assumption)
    | (with_reducible apply Dev.Within.ofThird; · with_reducible assumption)
    | (with_reducible apply Dev.Within.ofFst; · with_reducible assumption)
    | (split <;> try dsimp only)
theorem Dev.fabWrite_within (v : Dev) (die : Nat) (off : Nat) (x : Nat) : Dev.Within [.time, .timeRegs, .master, .fabric, .hif, .out] v (Dev.fabWrite v die off x) := by
  unfold Dev.fabWrite
  try dsimp only
  repeat' first
    | with_reducible exact Dev.Within.refl _ _
    | with_reducible assumption
    | (with_reducible apply Dev.Within.step (Dev.landClr_within _ _ _)); · decide
    | (with_reducible apply Dev.Within.step (Dev.timeCfgWrite_within _ _ _)); · decide
    | (with_reducible apply Dev.Within.step (Dev.timeChipsWrite_within _ _ _)); · decide
    | (with_reducible apply Dev.Within.step (Dev.modFtReg_within _ _ _)); · decide
    | (with_reducible apply Dev.Within.step (Dev.modFabD_within _ _ _)); · decide
    | (with_reducible apply Dev.Within.step (Dev.modLand_within _ _ _ _)); · decide
    | (with_reducible apply Dev.Within.ite)
    | (with_reducible apply Dev.Within.iteFst <;> try dsimp only)
    | (with_reducible apply Dev.Within.iteSnd <;> try dsimp only)
    | (intro _; try dsimp only)
    | (with_reducible apply Dev.Within.ofSnd; · with_reducible assumption)
    | (with_reducible apply Dev.Within.ofThird; · with_reducible assumption)
    | (with_reducible apply Dev.Within.ofFst; · with_reducible assumption)
    | (split <;> try dsimp only)
theorem Dev.stkWrite_within (v : Dev) (s : Nat) (off : Nat) (x : Nat) : Dev.Within [.streams, .stackRegs] v (Dev.stkWrite v s off x) := by
  unfold Dev.stkWrite
  try dsimp only
  repeat' first
    | with_reducible exact Dev.Within.refl _ _
    | with_reducible assumption
    | (with_reducible apply Dev.Within.step (Dev.markWrite_within _ _ _)); · decide
    | (with_reducible apply Dev.Within.step (Dev.modStk_within _ _ _)); · decide
    | (with_reducible apply Dev.Within.ite)
    | (with_reducible apply Dev.Within.iteFst <;> try dsimp only)
    | (with_reducible apply Dev.Within.iteSnd <;> try dsimp only)
    | (intro _; try dsimp only)
    | (with_reducible apply Dev.Within.ofSnd; · with_reducible assumption)
    | (with_reducible apply Dev.Within.ofThird; · with_reducible assumption)
    | (with_reducible apply Dev.Within.ofFst; · with_reducible assumption)
    | (split <;> try dsimp only)
theorem Dev.hbmWrite_within (v : Dev) (off : Nat) (x : Nat) : Dev.Within [.stackMem, .map, .moult, .heldWrites] v (Dev.hbmWrite v off x) := by
  unfold Dev.hbmWrite
  try dsimp only
  repeat' first
    | with_reducible exact Dev.Within.refl _ _
    | with_reducible assumption
    | (with_reducible apply Dev.Within.step (Dev.maintWrite_within _ _)); · decide
    | (with_reducible apply Dev.Within.step (Dev.mapCfgWrite_within _ _)); · decide
    | (with_reducible apply Dev.Within.step (Dev.modMoult_within _ _)); · decide
    | with_reducible apply Dev.Within.hbm
    | (with_reducible apply Dev.Within.ite)
    | (with_reducible apply Dev.Within.iteFst <;> try dsimp only)
    | (with_reducible apply Dev.Within.iteSnd <;> try dsimp only)
    | (intro _; try dsimp only)
    | with_reducible exact Hbm.Within.refl _ _
    | exact ⟨fun p hp => by cases p <;> first | exact absurd (by decide) hp | simp [Hbm.same], fun h => by first | exact h | exact mwrite_wf _ _ h | exact mclear_wf _ _ h | exact filter_wfFrom _ _ h | rfl⟩
    | (with_reducible apply Dev.Within.ofSnd; · with_reducible assumption)
    | (with_reducible apply Dev.Within.ofThird; · with_reducible assumption)
    | (with_reducible apply Dev.Within.ofFst; · with_reducible assumption)
    | (split <;> try dsimp only)
theorem Dev.pwrWrite_within (v : Dev) (off : Nat) (x : Nat) : Dev.Within [.power] v (Dev.pwrWrite v off x) := by
  unfold Dev.pwrWrite
  try dsimp only
  repeat' first
    | with_reducible exact Dev.Within.refl _ _
    | with_reducible assumption
    | (with_reducible apply Dev.Within.step (Dev.energyClear_within _ _)); · decide
    | (with_reducible apply Dev.Within.step (Dev.pwrCapWrite_within _ _)); · decide
    | (with_reducible apply Dev.Within.step (Dev.pwrCfgWrite_within _ _)); · decide
    | (with_reducible apply Dev.Within.ite)
    | (with_reducible apply Dev.Within.iteFst <;> try dsimp only)
    | (with_reducible apply Dev.Within.iteSnd <;> try dsimp only)
    | (intro _; try dsimp only)
    | (with_reducible apply Dev.Within.ofSnd; · with_reducible assumption)
    | (with_reducible apply Dev.Within.ofThird; · with_reducible assumption)
    | (with_reducible apply Dev.Within.ofFst; · with_reducible assumption)
    | (split <;> try dsimp only)
theorem Dev.lnkWrite_within (v : Dev) (l : Nat) (off : Nat) (x : Nat) : Dev.Within [.fabric, .links] v (Dev.lnkWrite v l off x) := by
  unfold Dev.lnkWrite
  try dsimp only
  repeat' first
    | with_reducible exact Dev.Within.refl _ _
    | with_reducible assumption
    | (with_reducible apply Dev.Within.step (Dev.lnkCtlWrite_within _ _ _)); · decide
    | (with_reducible apply Dev.Within.step (Dev.rxbufWrite_within _ _ _)); · decide
    | (with_reducible apply Dev.Within.ite)
    | (with_reducible apply Dev.Within.iteFst <;> try dsimp only)
    | (with_reducible apply Dev.Within.iteSnd <;> try dsimp only)
    | (intro _; try dsimp only)
    | (with_reducible apply Dev.Within.ofSnd; · with_reducible assumption)
    | (with_reducible apply Dev.Within.ofThird; · with_reducible assumption)
    | (with_reducible apply Dev.Within.ofFst; · with_reducible assumption)
    | (split <;> try dsimp only)
theorem Dev.coreWrite_within (v : Dev) (c : Nat) (off : Nat) (x : Nat) : Dev.Within [.schedules, .streams, .spads, .caches, .coreGens, .contexts, .dmas, .coreRegs, .counters, .syncStatus, .stackMem, .channels, .stackRegs, .hostMem, .heldWrites, .faults, .contextSwitch, .fabric, .hif, .free, .out] v (Dev.coreWrite v c off x) := by
  unfold Dev.coreWrite
  try dsimp only
  repeat' first
    | with_reducible exact Dev.Within.refl _ _
    | with_reducible assumption
    | (with_reducible apply Dev.Within.step (Dev.dmaChanWrite_within _ _ _ _)); · decide
    | (with_reducible apply Dev.Within.step (Dev.dmaCtlWrite_within _ _ _)); · decide
    | (with_reducible apply Dev.Within.step (Dev.markWrite_within _ _ _)); · decide
    | (with_reducible apply Dev.Within.step (Dev.releaseHeld_within _)); · decide
    | (with_reducible apply Dev.Within.step (Dev.sclCtlWrite_within _ _ _)); · decide
    | (with_reducible apply Dev.Within.step (Dev.modCtx_within _ _ _ _)); · decide
    | (with_reducible apply Dev.Within.step (Dev.modDma_within _ _ _)); · decide
    | with_reducible apply Dev.Within.core
    | (with_reducible apply Dev.Within.ite)
    | (with_reducible apply Dev.Within.iteFst <;> try dsimp only)
    | (with_reducible apply Dev.Within.iteSnd <;> try dsimp only)
    | (intro _; try dsimp only)
    | with_reducible exact Core.Within.refl _ _
    | (with_reducible unfold Core.memStatusWrite; try dsimp only)
    | exact ⟨fun p hp => by cases p <;> first | exact absurd (by decide) hp | simp [Core.same, Core.memStatusWrite], fun h => by (try simp only [Core.memStatusWrite]); first | exact h | exact mwrite_wf _ _ h | exact mclear_wf _ _ h | exact filter_wfFrom _ _ h | rfl⟩
    | (with_reducible apply Dev.Within.ofSnd; · with_reducible assumption)
    | (with_reducible apply Dev.Within.ofThird; · with_reducible assumption)
    | (with_reducible apply Dev.Within.ofFst; · with_reducible assumption)
    | (split <;> try dsimp only)
theorem Dev.synWrite_within (v : Dev) (die : Nat) (off : Nat) (x : Nat) : Dev.Within [.streams, .contexts, .counters, .barriers, .syncStatus, .hif] v (Dev.synWrite v die off x) := by
  unfold Dev.synWrite
  try dsimp only
  repeat' first
    | with_reducible exact Dev.Within.refl _ _
    | with_reducible assumption
    | (with_reducible apply Dev.Within.step (Dev.synCtrWrite_within _ _ _ _ _)); · decide
    | (with_reducible apply Dev.Within.step (Dev.modBar_within _ _ _)); · decide
    | (with_reducible apply Dev.Within.step (Dev.modSynSt_within _ _ _)); · decide
    | (with_reducible apply Dev.Within.ite)
    | (with_reducible apply Dev.Within.iteFst <;> try dsimp only)
    | (with_reducible apply Dev.Within.iteSnd <;> try dsimp only)
    | (intro _; try dsimp only)
    | (with_reducible apply Dev.Within.ofSnd; · with_reducible assumption)
    | (with_reducible apply Dev.Within.ofThird; · with_reducible assumption)
    | (with_reducible apply Dev.Within.ofFst; · with_reducible assumption)
    | (split <;> try dsimp only)
theorem Dev.rgnWrite_within (v : Dev) (die : Nat) (off : Nat) (x : Nat) : Dev.Within [.regions, .regionStatus, .moult, .heldWrites] v (Dev.rgnWrite v die off x) := by
  unfold Dev.rgnWrite
  try dsimp only
  repeat' first
    | with_reducible exact Dev.Within.refl _ _
    | with_reducible assumption
    | (with_reducible apply Dev.Within.step (Dev.rgnAttrWrite_within _ _ _ _)); · decide
    | (with_reducible apply Dev.Within.step (Dev.rgnBaseWrite_within _ _ _ _)); · decide
    | (with_reducible apply Dev.Within.step (Dev.modRgnSt_within _ _ _)); · decide
    | (with_reducible apply Dev.Within.ite)
    | (with_reducible apply Dev.Within.iteFst <;> try dsimp only)
    | (with_reducible apply Dev.Within.iteSnd <;> try dsimp only)
    | (intro _; try dsimp only)
    | (with_reducible apply Dev.Within.ofSnd; · with_reducible assumption)
    | (with_reducible apply Dev.Within.ofThird; · with_reducible assumption)
    | (with_reducible apply Dev.Within.ofFst; · with_reducible assumption)
    | (split <;> try dsimp only)
theorem Dev.regWrite_within (v : Dev) (die : Nat) (off : Nat) (x : Nat) : Dev.Within [.time, .timeRegs, .master, .schedules, .streams, .spads, .caches, .coreGens, .contexts, .dmas, .coreRegs, .counters, .barriers, .syncStatus, .regions, .regionStatus, .stackMem, .channels, .stackRegs, .map, .hostMem, .moult, .heldWrites, .faults, .contextSwitch, .fabric, .links, .power, .hif, .free, .out] v (Dev.regWrite v die off x) := by
  unfold Dev.regWrite
  try dsimp only
  repeat' first
    | with_reducible exact Dev.Within.refl _ _
    | with_reducible assumption
    | (with_reducible apply Dev.Within.step (Dev.coreWrite_within _ _ _ _)); · decide
    | (with_reducible apply Dev.Within.step (Dev.fabWrite_within _ _ _ _)); · decide
    | (with_reducible apply Dev.Within.step (Dev.glbWrite_within _ _ _ _)); · decide
    | (with_reducible apply Dev.Within.step (Dev.hbmWrite_within _ _ _)); · decide
    | (with_reducible apply Dev.Within.step (Dev.hifWrite_within _ _ _ _)); · decide
    | (with_reducible apply Dev.Within.step (Dev.lnkWrite_within _ _ _ _)); · decide
    | (with_reducible apply Dev.Within.step (Dev.msixWrite_within _ _ _ _)); · decide
    | (with_reducible apply Dev.Within.step (Dev.pwrWrite_within _ _ _)); · decide
    | (with_reducible apply Dev.Within.step (Dev.rgnWrite_within _ _ _ _)); · decide
    | (with_reducible apply Dev.Within.step (Dev.stkWrite_within _ _ _ _)); · decide
    | (with_reducible apply Dev.Within.step (Dev.synWrite_within _ _ _ _)); · decide
    | (with_reducible apply Dev.Within.ite)
    | (with_reducible apply Dev.Within.iteFst <;> try dsimp only)
    | (with_reducible apply Dev.Within.iteSnd <;> try dsimp only)
    | (intro _; try dsimp only)
    | (with_reducible apply Dev.Within.ofSnd; · with_reducible assumption)
    | (with_reducible apply Dev.Within.ofThird; · with_reducible assumption)
    | (with_reducible apply Dev.Within.ofFst; · with_reducible assumption)
    | (split <;> try dsimp only)
theorem Dev.write4_within (v : Dev) (die : Nat) (off : Nat) (x : Nat) : Dev.Within [.time, .timeRegs, .master, .schedules, .streams, .spads, .caches, .coreGens, .contexts, .dmas, .coreRegs, .counters, .barriers, .syncStatus, .regions, .regionStatus, .stackMem, .channels, .stackRegs, .map, .hostMem, .moult, .heldWrites, .faults, .contextSwitch, .fabric, .links, .power, .hif, .free, .out] v (Dev.write4 v die off x) := by
  unfold Dev.write4
  try dsimp only
  repeat' first
    | with_reducible exact Dev.Within.refl _ _
    | with_reducible assumption
    | (with_reducible apply Dev.Within.step (Dev.regWrite_within _ _ _ _)); · decide
    | (with_reducible apply Dev.Within.step (Dev.modHifD_within _ _ _)); · decide
    | (with_reducible apply Dev.Within.ite)
    | (with_reducible apply Dev.Within.iteFst <;> try dsimp only)
    | (with_reducible apply Dev.Within.iteSnd <;> try dsimp only)
    | (intro _; try dsimp only)
    | (with_reducible apply Dev.Within.ofSnd; · with_reducible assumption)
    | (with_reducible apply Dev.Within.ofThird; · with_reducible assumption)
    | (with_reducible apply Dev.Within.ofFst; · with_reducible assumption)
    | (split <;> try dsimp only)
theorem Dev.pairWrite_within (v : Dev) (die : Nat) (off : Nat) (x : W64) : Dev.Within [.time, .timeRegs, .master, .schedules, .streams, .spads, .caches, .coreGens, .contexts, .dmas, .coreRegs, .counters, .barriers, .syncStatus, .regions, .regionStatus, .stackMem, .channels, .stackRegs, .map, .hostMem, .moult, .heldWrites, .faults, .contextSwitch, .fabric, .links, .power, .hif, .free, .out] v (Dev.pairWrite v die off x) := by
  unfold Dev.pairWrite
  try dsimp only
  repeat' first
    | with_reducible exact Dev.Within.refl _ _
    | with_reducible assumption
    | (with_reducible apply Dev.Within.step (Dev.regWrite_within _ _ _ _)); · decide
    | (with_reducible apply Dev.Within.ite)
    | (with_reducible apply Dev.Within.iteFst <;> try dsimp only)
    | (with_reducible apply Dev.Within.iteSnd <;> try dsimp only)
    | (intro _; try dsimp only)
    | (with_reducible apply Dev.Within.ofSnd; · with_reducible assumption)
    | (with_reducible apply Dev.Within.ofThird; · with_reducible assumption)
    | (with_reducible apply Dev.Within.ofFst; · with_reducible assumption)
    | (split <;> try dsimp only)
theorem Dev.bar0Write_within (v : Dev) (die : Nat) (off : Nat) (len : Nat) (x : W64) : Dev.Within [.time, .timeRegs, .master, .schedules, .streams, .spads, .caches, .coreGens, .contexts, .dmas, .coreRegs, .counters, .barriers, .syncStatus, .regions, .regionStatus, .stackMem, .channels, .stackRegs, .map, .hostMem, .moult, .heldWrites, .faults, .contextSwitch, .fabric, .links, .power, .hif, .free, .out] v (Dev.bar0Write v die off len x) := by
  unfold Dev.bar0Write
  try dsimp only
  repeat' first
    | with_reducible exact Dev.Within.refl _ _
    | with_reducible assumption
    | (with_reducible apply Dev.Within.step (Dev.pairWrite_within _ _ _ _)); · decide
    | (with_reducible apply Dev.Within.step (Dev.regWrite_within _ _ _ _)); · decide
    | (with_reducible apply Dev.Within.step (Dev.write4_within _ _ _ _)); · decide
    | (with_reducible apply Dev.Within.ite)
    | (with_reducible apply Dev.Within.iteFst <;> try dsimp only)
    | (with_reducible apply Dev.Within.iteSnd <;> try dsimp only)
    | (intro _; try dsimp only)
    | (with_reducible apply Dev.Within.ofSnd; · with_reducible assumption)
    | (with_reducible apply Dev.Within.ofThird; · with_reducible assumption)
    | (with_reducible apply Dev.Within.ofFst; · with_reducible assumption)
    | (split <;> try dsimp only)

end Sys2Proof.Machine
end

