-- ==== Sys2Proof/Laws/State.lean ====
section
/-! SUPPORT. One lemma for each field and each elementary update, and what an update leaves at its own entry and at every other. -/

namespace Sys2Proof.Machine

@[simp] theorem State.onDev_eq (s : State) (f : Dev → Dev) : s.onDev f = .next { s with dev := Dev.merged s.dev (f s.dev) } := rfl
@[simp] theorem State.onBoth_eq (s : State) (f : Mgmt → Dev → Mgmt × Dev) :
    s.onBoth f = .next { s with mgmt := (f s.mgmt s.dev).1, dev := Dev.merged s.dev (f s.mgmt s.dev).2 } := rfl

@[simp] theorem Dev.modFtReg_ft (v : Dev) (k : Nat) (g : FtRegs → FtRegs) : (v.modFtReg k g).ft = v.ft := rfl
@[simp] theorem Dev.modFtReg_mst (v : Dev) (k : Nat) (g : FtRegs → FtRegs) : (v.modFtReg k g).mst = v.mst := rfl
@[simp] theorem Dev.modFtReg_scheds (v : Dev) (k : Nat) (g : FtRegs → FtRegs) : (v.modFtReg k g).scheds = v.scheds := rfl
@[simp] theorem Dev.modFtReg_strms (v : Dev) (k : Nat) (g : FtRegs → FtRegs) : (v.modFtReg k g).strms = v.strms := rfl
@[simp] theorem Dev.modFtReg_cores (v : Dev) (k : Nat) (g : FtRegs → FtRegs) : (v.modFtReg k g).cores = v.cores := rfl
@[simp] theorem Dev.modFtReg_ctrs (v : Dev) (k : Nat) (g : FtRegs → FtRegs) : (v.modFtReg k g).ctrs = v.ctrs := rfl
@[simp] theorem Dev.modFtReg_bars (v : Dev) (k : Nat) (g : FtRegs → FtRegs) : (v.modFtReg k g).bars = v.bars := rfl
@[simp] theorem Dev.modFtReg_syn (v : Dev) (k : Nat) (g : FtRegs → FtRegs) : (v.modFtReg k g).syn = v.syn := rfl
@[simp] theorem Dev.modFtReg_rgn (v : Dev) (k : Nat) (g : FtRegs → FtRegs) : (v.modFtReg k g).rgn = v.rgn := rfl
@[simp] theorem Dev.modFtReg_rgnStat (v : Dev) (k : Nat) (g : FtRegs → FtRegs) : (v.modFtReg k g).rgnStat = v.rgnStat := rfl
@[simp] theorem Dev.modFtReg_hbm (v : Dev) (k : Nat) (g : FtRegs → FtRegs) : (v.modFtReg k g).hbm = v.hbm := rfl
@[simp] theorem Dev.modFtReg_hostMem (v : Dev) (k : Nat) (g : FtRegs → FtRegs) : (v.modFtReg k g).hostMem = v.hostMem := rfl
@[simp] theorem Dev.modFtReg_hostErr (v : Dev) (k : Nat) (g : FtRegs → FtRegs) : (v.modFtReg k g).hostErr = v.hostErr := rfl
@[simp] theorem Dev.modFtReg_moult (v : Dev) (k : Nat) (g : FtRegs → FtRegs) : (v.modFtReg k g).moult = v.moult := rfl
@[simp] theorem Dev.modFtReg_fault (v : Dev) (k : Nat) (g : FtRegs → FtRegs) : (v.modFtReg k g).fault = v.fault := rfl
@[simp] theorem Dev.modFtReg_ctxSw (v : Dev) (k : Nat) (g : FtRegs → FtRegs) : (v.modFtReg k g).ctxSw = v.ctxSw := rfl
@[simp] theorem Dev.modFtReg_chip (v : Dev) (k : Nat) (g : FtRegs → FtRegs) : (v.modFtReg k g).chip = v.chip := rfl
@[simp] theorem Dev.modFtReg_fab (v : Dev) (k : Nat) (g : FtRegs → FtRegs) : (v.modFtReg k g).fab = v.fab := rfl
@[simp] theorem Dev.modFtReg_links (v : Dev) (k : Nat) (g : FtRegs → FtRegs) : (v.modFtReg k g).links = v.links := rfl
@[simp] theorem Dev.modFtReg_pwr (v : Dev) (k : Nat) (g : FtRegs → FtRegs) : (v.modFtReg k g).pwr = v.pwr := rfl
@[simp] theorem Dev.modFtReg_hif (v : Dev) (k : Nat) (g : FtRegs → FtRegs) : (v.modFtReg k g).hif = v.hif := rfl
@[simp] theorem Dev.modFtReg_freeCtr (v : Dev) (k : Nat) (g : FtRegs → FtRegs) : (v.modFtReg k g).freeCtr = v.freeCtr := rfl
@[simp] theorem Dev.modFtReg_out (v : Dev) (k : Nat) (g : FtRegs → FtRegs) : (v.modFtReg k g).out = v.out := rfl
@[simp] theorem Dev.modSched_ft (v : Dev) (k : Nat) (g : Sched → Sched) : (v.modSched k g).ft = v.ft := rfl
@[simp] theorem Dev.modSched_ftRegs (v : Dev) (k : Nat) (g : Sched → Sched) : (v.modSched k g).ftRegs = v.ftRegs := rfl
@[simp] theorem Dev.modSched_mst (v : Dev) (k : Nat) (g : Sched → Sched) : (v.modSched k g).mst = v.mst := rfl
@[simp] theorem Dev.modSched_strms (v : Dev) (k : Nat) (g : Sched → Sched) : (v.modSched k g).strms = v.strms := rfl
@[simp] theorem Dev.modSched_cores (v : Dev) (k : Nat) (g : Sched → Sched) : (v.modSched k g).cores = v.cores := rfl
@[simp] theorem Dev.modSched_ctrs (v : Dev) (k : Nat) (g : Sched → Sched) : (v.modSched k g).ctrs = v.ctrs := rfl
@[simp] theorem Dev.modSched_bars (v : Dev) (k : Nat) (g : Sched → Sched) : (v.modSched k g).bars = v.bars := rfl
@[simp] theorem Dev.modSched_syn (v : Dev) (k : Nat) (g : Sched → Sched) : (v.modSched k g).syn = v.syn := rfl
@[simp] theorem Dev.modSched_rgn (v : Dev) (k : Nat) (g : Sched → Sched) : (v.modSched k g).rgn = v.rgn := rfl
@[simp] theorem Dev.modSched_rgnStat (v : Dev) (k : Nat) (g : Sched → Sched) : (v.modSched k g).rgnStat = v.rgnStat := rfl
@[simp] theorem Dev.modSched_hbm (v : Dev) (k : Nat) (g : Sched → Sched) : (v.modSched k g).hbm = v.hbm := rfl
@[simp] theorem Dev.modSched_hostMem (v : Dev) (k : Nat) (g : Sched → Sched) : (v.modSched k g).hostMem = v.hostMem := rfl
@[simp] theorem Dev.modSched_hostErr (v : Dev) (k : Nat) (g : Sched → Sched) : (v.modSched k g).hostErr = v.hostErr := rfl
@[simp] theorem Dev.modSched_moult (v : Dev) (k : Nat) (g : Sched → Sched) : (v.modSched k g).moult = v.moult := rfl
@[simp] theorem Dev.modSched_fault (v : Dev) (k : Nat) (g : Sched → Sched) : (v.modSched k g).fault = v.fault := rfl
@[simp] theorem Dev.modSched_ctxSw (v : Dev) (k : Nat) (g : Sched → Sched) : (v.modSched k g).ctxSw = v.ctxSw := rfl
@[simp] theorem Dev.modSched_chip (v : Dev) (k : Nat) (g : Sched → Sched) : (v.modSched k g).chip = v.chip := rfl
@[simp] theorem Dev.modSched_fab (v : Dev) (k : Nat) (g : Sched → Sched) : (v.modSched k g).fab = v.fab := rfl
@[simp] theorem Dev.modSched_links (v : Dev) (k : Nat) (g : Sched → Sched) : (v.modSched k g).links = v.links := rfl
@[simp] theorem Dev.modSched_pwr (v : Dev) (k : Nat) (g : Sched → Sched) : (v.modSched k g).pwr = v.pwr := rfl
@[simp] theorem Dev.modSched_hif (v : Dev) (k : Nat) (g : Sched → Sched) : (v.modSched k g).hif = v.hif := rfl
@[simp] theorem Dev.modSched_freeCtr (v : Dev) (k : Nat) (g : Sched → Sched) : (v.modSched k g).freeCtr = v.freeCtr := rfl
@[simp] theorem Dev.modSched_out (v : Dev) (k : Nat) (g : Sched → Sched) : (v.modSched k g).out = v.out := rfl
@[simp] theorem Dev.modStrm_ft (v : Dev) (k : Nat) (g : Strm → Strm) : (v.modStrm k g).ft = v.ft := rfl
@[simp] theorem Dev.modStrm_ftRegs (v : Dev) (k : Nat) (g : Strm → Strm) : (v.modStrm k g).ftRegs = v.ftRegs := rfl
@[simp] theorem Dev.modStrm_mst (v : Dev) (k : Nat) (g : Strm → Strm) : (v.modStrm k g).mst = v.mst := rfl
@[simp] theorem Dev.modStrm_scheds (v : Dev) (k : Nat) (g : Strm → Strm) : (v.modStrm k g).scheds = v.scheds := rfl
@[simp] theorem Dev.modStrm_cores (v : Dev) (k : Nat) (g : Strm → Strm) : (v.modStrm k g).cores = v.cores := rfl
@[simp] theorem Dev.modStrm_ctrs (v : Dev) (k : Nat) (g : Strm → Strm) : (v.modStrm k g).ctrs = v.ctrs := rfl
@[simp] theorem Dev.modStrm_bars (v : Dev) (k : Nat) (g : Strm → Strm) : (v.modStrm k g).bars = v.bars := rfl
@[simp] theorem Dev.modStrm_syn (v : Dev) (k : Nat) (g : Strm → Strm) : (v.modStrm k g).syn = v.syn := rfl
@[simp] theorem Dev.modStrm_rgn (v : Dev) (k : Nat) (g : Strm → Strm) : (v.modStrm k g).rgn = v.rgn := rfl
@[simp] theorem Dev.modStrm_rgnStat (v : Dev) (k : Nat) (g : Strm → Strm) : (v.modStrm k g).rgnStat = v.rgnStat := rfl
@[simp] theorem Dev.modStrm_hbm (v : Dev) (k : Nat) (g : Strm → Strm) : (v.modStrm k g).hbm = v.hbm := rfl
@[simp] theorem Dev.modStrm_hostMem (v : Dev) (k : Nat) (g : Strm → Strm) : (v.modStrm k g).hostMem = v.hostMem := rfl
@[simp] theorem Dev.modStrm_hostErr (v : Dev) (k : Nat) (g : Strm → Strm) : (v.modStrm k g).hostErr = v.hostErr := rfl
@[simp] theorem Dev.modStrm_moult (v : Dev) (k : Nat) (g : Strm → Strm) : (v.modStrm k g).moult = v.moult := rfl
@[simp] theorem Dev.modStrm_fault (v : Dev) (k : Nat) (g : Strm → Strm) : (v.modStrm k g).fault = v.fault := rfl
@[simp] theorem Dev.modStrm_ctxSw (v : Dev) (k : Nat) (g : Strm → Strm) : (v.modStrm k g).ctxSw = v.ctxSw := rfl
@[simp] theorem Dev.modStrm_chip (v : Dev) (k : Nat) (g : Strm → Strm) : (v.modStrm k g).chip = v.chip := rfl
@[simp] theorem Dev.modStrm_fab (v : Dev) (k : Nat) (g : Strm → Strm) : (v.modStrm k g).fab = v.fab := rfl
@[simp] theorem Dev.modStrm_links (v : Dev) (k : Nat) (g : Strm → Strm) : (v.modStrm k g).links = v.links := rfl
@[simp] theorem Dev.modStrm_pwr (v : Dev) (k : Nat) (g : Strm → Strm) : (v.modStrm k g).pwr = v.pwr := rfl
@[simp] theorem Dev.modStrm_hif (v : Dev) (k : Nat) (g : Strm → Strm) : (v.modStrm k g).hif = v.hif := rfl
@[simp] theorem Dev.modStrm_freeCtr (v : Dev) (k : Nat) (g : Strm → Strm) : (v.modStrm k g).freeCtr = v.freeCtr := rfl
@[simp] theorem Dev.modStrm_out (v : Dev) (k : Nat) (g : Strm → Strm) : (v.modStrm k g).out = v.out := rfl
@[simp] theorem Dev.modCore_ft (v : Dev) (k : Nat) (g : Core → Core) : (v.modCore k g).ft = v.ft := rfl
@[simp] theorem Dev.modCore_ftRegs (v : Dev) (k : Nat) (g : Core → Core) : (v.modCore k g).ftRegs = v.ftRegs := rfl
@[simp] theorem Dev.modCore_mst (v : Dev) (k : Nat) (g : Core → Core) : (v.modCore k g).mst = v.mst := rfl
@[simp] theorem Dev.modCore_scheds (v : Dev) (k : Nat) (g : Core → Core) : (v.modCore k g).scheds = v.scheds := rfl
@[simp] theorem Dev.modCore_strms (v : Dev) (k : Nat) (g : Core → Core) : (v.modCore k g).strms = v.strms := rfl
@[simp] theorem Dev.modCore_ctrs (v : Dev) (k : Nat) (g : Core → Core) : (v.modCore k g).ctrs = v.ctrs := rfl
@[simp] theorem Dev.modCore_bars (v : Dev) (k : Nat) (g : Core → Core) : (v.modCore k g).bars = v.bars := rfl
@[simp] theorem Dev.modCore_syn (v : Dev) (k : Nat) (g : Core → Core) : (v.modCore k g).syn = v.syn := rfl
@[simp] theorem Dev.modCore_rgn (v : Dev) (k : Nat) (g : Core → Core) : (v.modCore k g).rgn = v.rgn := rfl
@[simp] theorem Dev.modCore_rgnStat (v : Dev) (k : Nat) (g : Core → Core) : (v.modCore k g).rgnStat = v.rgnStat := rfl
@[simp] theorem Dev.modCore_hbm (v : Dev) (k : Nat) (g : Core → Core) : (v.modCore k g).hbm = v.hbm := rfl
@[simp] theorem Dev.modCore_hostMem (v : Dev) (k : Nat) (g : Core → Core) : (v.modCore k g).hostMem = v.hostMem := rfl
@[simp] theorem Dev.modCore_hostErr (v : Dev) (k : Nat) (g : Core → Core) : (v.modCore k g).hostErr = v.hostErr := rfl
@[simp] theorem Dev.modCore_moult (v : Dev) (k : Nat) (g : Core → Core) : (v.modCore k g).moult = v.moult := rfl
@[simp] theorem Dev.modCore_fault (v : Dev) (k : Nat) (g : Core → Core) : (v.modCore k g).fault = v.fault := rfl
@[simp] theorem Dev.modCore_ctxSw (v : Dev) (k : Nat) (g : Core → Core) : (v.modCore k g).ctxSw = v.ctxSw := rfl
@[simp] theorem Dev.modCore_chip (v : Dev) (k : Nat) (g : Core → Core) : (v.modCore k g).chip = v.chip := rfl
@[simp] theorem Dev.modCore_fab (v : Dev) (k : Nat) (g : Core → Core) : (v.modCore k g).fab = v.fab := rfl
@[simp] theorem Dev.modCore_links (v : Dev) (k : Nat) (g : Core → Core) : (v.modCore k g).links = v.links := rfl
@[simp] theorem Dev.modCore_pwr (v : Dev) (k : Nat) (g : Core → Core) : (v.modCore k g).pwr = v.pwr := rfl
@[simp] theorem Dev.modCore_hif (v : Dev) (k : Nat) (g : Core → Core) : (v.modCore k g).hif = v.hif := rfl
@[simp] theorem Dev.modCore_freeCtr (v : Dev) (k : Nat) (g : Core → Core) : (v.modCore k g).freeCtr = v.freeCtr := rfl
@[simp] theorem Dev.modCore_out (v : Dev) (k : Nat) (g : Core → Core) : (v.modCore k g).out = v.out := rfl
@[simp] theorem Dev.modCtr_ft (v : Dev) (k : Nat) (g : Ctr → Ctr) : (v.modCtr k g).ft = v.ft := rfl
@[simp] theorem Dev.modCtr_ftRegs (v : Dev) (k : Nat) (g : Ctr → Ctr) : (v.modCtr k g).ftRegs = v.ftRegs := rfl
@[simp] theorem Dev.modCtr_mst (v : Dev) (k : Nat) (g : Ctr → Ctr) : (v.modCtr k g).mst = v.mst := rfl
@[simp] theorem Dev.modCtr_scheds (v : Dev) (k : Nat) (g : Ctr → Ctr) : (v.modCtr k g).scheds = v.scheds := rfl
@[simp] theorem Dev.modCtr_strms (v : Dev) (k : Nat) (g : Ctr → Ctr) : (v.modCtr k g).strms = v.strms := rfl
@[simp] theorem Dev.modCtr_cores (v : Dev) (k : Nat) (g : Ctr → Ctr) : (v.modCtr k g).cores = v.cores := rfl
@[simp] theorem Dev.modCtr_bars (v : Dev) (k : Nat) (g : Ctr → Ctr) : (v.modCtr k g).bars = v.bars := rfl
@[simp] theorem Dev.modCtr_syn (v : Dev) (k : Nat) (g : Ctr → Ctr) : (v.modCtr k g).syn = v.syn := rfl
@[simp] theorem Dev.modCtr_rgn (v : Dev) (k : Nat) (g : Ctr → Ctr) : (v.modCtr k g).rgn = v.rgn := rfl
@[simp] theorem Dev.modCtr_rgnStat (v : Dev) (k : Nat) (g : Ctr → Ctr) : (v.modCtr k g).rgnStat = v.rgnStat := rfl
@[simp] theorem Dev.modCtr_hbm (v : Dev) (k : Nat) (g : Ctr → Ctr) : (v.modCtr k g).hbm = v.hbm := rfl
@[simp] theorem Dev.modCtr_hostMem (v : Dev) (k : Nat) (g : Ctr → Ctr) : (v.modCtr k g).hostMem = v.hostMem := rfl
@[simp] theorem Dev.modCtr_hostErr (v : Dev) (k : Nat) (g : Ctr → Ctr) : (v.modCtr k g).hostErr = v.hostErr := rfl
@[simp] theorem Dev.modCtr_moult (v : Dev) (k : Nat) (g : Ctr → Ctr) : (v.modCtr k g).moult = v.moult := rfl
@[simp] theorem Dev.modCtr_fault (v : Dev) (k : Nat) (g : Ctr → Ctr) : (v.modCtr k g).fault = v.fault := rfl
@[simp] theorem Dev.modCtr_ctxSw (v : Dev) (k : Nat) (g : Ctr → Ctr) : (v.modCtr k g).ctxSw = v.ctxSw := rfl
@[simp] theorem Dev.modCtr_chip (v : Dev) (k : Nat) (g : Ctr → Ctr) : (v.modCtr k g).chip = v.chip := rfl
@[simp] theorem Dev.modCtr_fab (v : Dev) (k : Nat) (g : Ctr → Ctr) : (v.modCtr k g).fab = v.fab := rfl
@[simp] theorem Dev.modCtr_links (v : Dev) (k : Nat) (g : Ctr → Ctr) : (v.modCtr k g).links = v.links := rfl
@[simp] theorem Dev.modCtr_pwr (v : Dev) (k : Nat) (g : Ctr → Ctr) : (v.modCtr k g).pwr = v.pwr := rfl
@[simp] theorem Dev.modCtr_hif (v : Dev) (k : Nat) (g : Ctr → Ctr) : (v.modCtr k g).hif = v.hif := rfl
@[simp] theorem Dev.modCtr_freeCtr (v : Dev) (k : Nat) (g : Ctr → Ctr) : (v.modCtr k g).freeCtr = v.freeCtr := rfl
@[simp] theorem Dev.modCtr_out (v : Dev) (k : Nat) (g : Ctr → Ctr) : (v.modCtr k g).out = v.out := rfl
@[simp] theorem Dev.modBar_ft (v : Dev) (k : Nat) (g : Bar → Bar) : (v.modBar k g).ft = v.ft := rfl
@[simp] theorem Dev.modBar_ftRegs (v : Dev) (k : Nat) (g : Bar → Bar) : (v.modBar k g).ftRegs = v.ftRegs := rfl
@[simp] theorem Dev.modBar_mst (v : Dev) (k : Nat) (g : Bar → Bar) : (v.modBar k g).mst = v.mst := rfl
@[simp] theorem Dev.modBar_scheds (v : Dev) (k : Nat) (g : Bar → Bar) : (v.modBar k g).scheds = v.scheds := rfl
@[simp] theorem Dev.modBar_strms (v : Dev) (k : Nat) (g : Bar → Bar) : (v.modBar k g).strms = v.strms := rfl
@[simp] theorem Dev.modBar_cores (v : Dev) (k : Nat) (g : Bar → Bar) : (v.modBar k g).cores = v.cores := rfl
@[simp] theorem Dev.modBar_ctrs (v : Dev) (k : Nat) (g : Bar → Bar) : (v.modBar k g).ctrs = v.ctrs := rfl
@[simp] theorem Dev.modBar_syn (v : Dev) (k : Nat) (g : Bar → Bar) : (v.modBar k g).syn = v.syn := rfl
@[simp] theorem Dev.modBar_rgn (v : Dev) (k : Nat) (g : Bar → Bar) : (v.modBar k g).rgn = v.rgn := rfl
@[simp] theorem Dev.modBar_rgnStat (v : Dev) (k : Nat) (g : Bar → Bar) : (v.modBar k g).rgnStat = v.rgnStat := rfl
@[simp] theorem Dev.modBar_hbm (v : Dev) (k : Nat) (g : Bar → Bar) : (v.modBar k g).hbm = v.hbm := rfl
@[simp] theorem Dev.modBar_hostMem (v : Dev) (k : Nat) (g : Bar → Bar) : (v.modBar k g).hostMem = v.hostMem := rfl
@[simp] theorem Dev.modBar_hostErr (v : Dev) (k : Nat) (g : Bar → Bar) : (v.modBar k g).hostErr = v.hostErr := rfl
@[simp] theorem Dev.modBar_moult (v : Dev) (k : Nat) (g : Bar → Bar) : (v.modBar k g).moult = v.moult := rfl
@[simp] theorem Dev.modBar_fault (v : Dev) (k : Nat) (g : Bar → Bar) : (v.modBar k g).fault = v.fault := rfl
@[simp] theorem Dev.modBar_ctxSw (v : Dev) (k : Nat) (g : Bar → Bar) : (v.modBar k g).ctxSw = v.ctxSw := rfl
@[simp] theorem Dev.modBar_chip (v : Dev) (k : Nat) (g : Bar → Bar) : (v.modBar k g).chip = v.chip := rfl
@[simp] theorem Dev.modBar_fab (v : Dev) (k : Nat) (g : Bar → Bar) : (v.modBar k g).fab = v.fab := rfl
@[simp] theorem Dev.modBar_links (v : Dev) (k : Nat) (g : Bar → Bar) : (v.modBar k g).links = v.links := rfl
@[simp] theorem Dev.modBar_pwr (v : Dev) (k : Nat) (g : Bar → Bar) : (v.modBar k g).pwr = v.pwr := rfl
@[simp] theorem Dev.modBar_hif (v : Dev) (k : Nat) (g : Bar → Bar) : (v.modBar k g).hif = v.hif := rfl
@[simp] theorem Dev.modBar_freeCtr (v : Dev) (k : Nat) (g : Bar → Bar) : (v.modBar k g).freeCtr = v.freeCtr := rfl
@[simp] theorem Dev.modBar_out (v : Dev) (k : Nat) (g : Bar → Bar) : (v.modBar k g).out = v.out := rfl
@[simp] theorem Dev.modSynSt_ft (v : Dev) (k : Nat) (g : SynStat → SynStat) : (v.modSynSt k g).ft = v.ft := rfl
@[simp] theorem Dev.modSynSt_ftRegs (v : Dev) (k : Nat) (g : SynStat → SynStat) : (v.modSynSt k g).ftRegs = v.ftRegs := rfl
@[simp] theorem Dev.modSynSt_mst (v : Dev) (k : Nat) (g : SynStat → SynStat) : (v.modSynSt k g).mst = v.mst := rfl
@[simp] theorem Dev.modSynSt_scheds (v : Dev) (k : Nat) (g : SynStat → SynStat) : (v.modSynSt k g).scheds = v.scheds := rfl
@[simp] theorem Dev.modSynSt_strms (v : Dev) (k : Nat) (g : SynStat → SynStat) : (v.modSynSt k g).strms = v.strms := rfl
@[simp] theorem Dev.modSynSt_cores (v : Dev) (k : Nat) (g : SynStat → SynStat) : (v.modSynSt k g).cores = v.cores := rfl
@[simp] theorem Dev.modSynSt_ctrs (v : Dev) (k : Nat) (g : SynStat → SynStat) : (v.modSynSt k g).ctrs = v.ctrs := rfl
@[simp] theorem Dev.modSynSt_bars (v : Dev) (k : Nat) (g : SynStat → SynStat) : (v.modSynSt k g).bars = v.bars := rfl
@[simp] theorem Dev.modSynSt_rgn (v : Dev) (k : Nat) (g : SynStat → SynStat) : (v.modSynSt k g).rgn = v.rgn := rfl
@[simp] theorem Dev.modSynSt_rgnStat (v : Dev) (k : Nat) (g : SynStat → SynStat) : (v.modSynSt k g).rgnStat = v.rgnStat := rfl
@[simp] theorem Dev.modSynSt_hbm (v : Dev) (k : Nat) (g : SynStat → SynStat) : (v.modSynSt k g).hbm = v.hbm := rfl
@[simp] theorem Dev.modSynSt_hostMem (v : Dev) (k : Nat) (g : SynStat → SynStat) : (v.modSynSt k g).hostMem = v.hostMem := rfl
@[simp] theorem Dev.modSynSt_hostErr (v : Dev) (k : Nat) (g : SynStat → SynStat) : (v.modSynSt k g).hostErr = v.hostErr := rfl
@[simp] theorem Dev.modSynSt_moult (v : Dev) (k : Nat) (g : SynStat → SynStat) : (v.modSynSt k g).moult = v.moult := rfl
@[simp] theorem Dev.modSynSt_fault (v : Dev) (k : Nat) (g : SynStat → SynStat) : (v.modSynSt k g).fault = v.fault := rfl
@[simp] theorem Dev.modSynSt_ctxSw (v : Dev) (k : Nat) (g : SynStat → SynStat) : (v.modSynSt k g).ctxSw = v.ctxSw := rfl
@[simp] theorem Dev.modSynSt_chip (v : Dev) (k : Nat) (g : SynStat → SynStat) : (v.modSynSt k g).chip = v.chip := rfl
@[simp] theorem Dev.modSynSt_fab (v : Dev) (k : Nat) (g : SynStat → SynStat) : (v.modSynSt k g).fab = v.fab := rfl
@[simp] theorem Dev.modSynSt_links (v : Dev) (k : Nat) (g : SynStat → SynStat) : (v.modSynSt k g).links = v.links := rfl
@[simp] theorem Dev.modSynSt_pwr (v : Dev) (k : Nat) (g : SynStat → SynStat) : (v.modSynSt k g).pwr = v.pwr := rfl
@[simp] theorem Dev.modSynSt_hif (v : Dev) (k : Nat) (g : SynStat → SynStat) : (v.modSynSt k g).hif = v.hif := rfl
@[simp] theorem Dev.modSynSt_freeCtr (v : Dev) (k : Nat) (g : SynStat → SynStat) : (v.modSynSt k g).freeCtr = v.freeCtr := rfl
@[simp] theorem Dev.modSynSt_out (v : Dev) (k : Nat) (g : SynStat → SynStat) : (v.modSynSt k g).out = v.out := rfl
@[simp] theorem Dev.modRgnE_ft (v : Dev) (k : Nat) (g : Rgn → Rgn) : (v.modRgnE k g).ft = v.ft := rfl
@[simp] theorem Dev.modRgnE_ftRegs (v : Dev) (k : Nat) (g : Rgn → Rgn) : (v.modRgnE k g).ftRegs = v.ftRegs := rfl
@[simp] theorem Dev.modRgnE_mst (v : Dev) (k : Nat) (g : Rgn → Rgn) : (v.modRgnE k g).mst = v.mst := rfl
@[simp] theorem Dev.modRgnE_scheds (v : Dev) (k : Nat) (g : Rgn → Rgn) : (v.modRgnE k g).scheds = v.scheds := rfl
@[simp] theorem Dev.modRgnE_strms (v : Dev) (k : Nat) (g : Rgn → Rgn) : (v.modRgnE k g).strms = v.strms := rfl
@[simp] theorem Dev.modRgnE_cores (v : Dev) (k : Nat) (g : Rgn → Rgn) : (v.modRgnE k g).cores = v.cores := rfl
@[simp] theorem Dev.modRgnE_ctrs (v : Dev) (k : Nat) (g : Rgn → Rgn) : (v.modRgnE k g).ctrs = v.ctrs := rfl
@[simp] theorem Dev.modRgnE_bars (v : Dev) (k : Nat) (g : Rgn → Rgn) : (v.modRgnE k g).bars = v.bars := rfl
@[simp] theorem Dev.modRgnE_syn (v : Dev) (k : Nat) (g : Rgn → Rgn) : (v.modRgnE k g).syn = v.syn := rfl
@[simp] theorem Dev.modRgnE_rgnStat (v : Dev) (k : Nat) (g : Rgn → Rgn) : (v.modRgnE k g).rgnStat = v.rgnStat := rfl
@[simp] theorem Dev.modRgnE_hbm (v : Dev) (k : Nat) (g : Rgn → Rgn) : (v.modRgnE k g).hbm = v.hbm := rfl
@[simp] theorem Dev.modRgnE_hostMem (v : Dev) (k : Nat) (g : Rgn → Rgn) : (v.modRgnE k g).hostMem = v.hostMem := rfl
@[simp] theorem Dev.modRgnE_hostErr (v : Dev) (k : Nat) (g : Rgn → Rgn) : (v.modRgnE k g).hostErr = v.hostErr := rfl
@[simp] theorem Dev.modRgnE_moult (v : Dev) (k : Nat) (g : Rgn → Rgn) : (v.modRgnE k g).moult = v.moult := rfl
@[simp] theorem Dev.modRgnE_fault (v : Dev) (k : Nat) (g : Rgn → Rgn) : (v.modRgnE k g).fault = v.fault := rfl
@[simp] theorem Dev.modRgnE_ctxSw (v : Dev) (k : Nat) (g : Rgn → Rgn) : (v.modRgnE k g).ctxSw = v.ctxSw := rfl
@[simp] theorem Dev.modRgnE_chip (v : Dev) (k : Nat) (g : Rgn → Rgn) : (v.modRgnE k g).chip = v.chip := rfl
@[simp] theorem Dev.modRgnE_fab (v : Dev) (k : Nat) (g : Rgn → Rgn) : (v.modRgnE k g).fab = v.fab := rfl
@[simp] theorem Dev.modRgnE_links (v : Dev) (k : Nat) (g : Rgn → Rgn) : (v.modRgnE k g).links = v.links := rfl
@[simp] theorem Dev.modRgnE_pwr (v : Dev) (k : Nat) (g : Rgn → Rgn) : (v.modRgnE k g).pwr = v.pwr := rfl
@[simp] theorem Dev.modRgnE_hif (v : Dev) (k : Nat) (g : Rgn → Rgn) : (v.modRgnE k g).hif = v.hif := rfl
@[simp] theorem Dev.modRgnE_freeCtr (v : Dev) (k : Nat) (g : Rgn → Rgn) : (v.modRgnE k g).freeCtr = v.freeCtr := rfl
@[simp] theorem Dev.modRgnE_out (v : Dev) (k : Nat) (g : Rgn → Rgn) : (v.modRgnE k g).out = v.out := rfl
@[simp] theorem Dev.modRgnSt_ft (v : Dev) (k : Nat) (g : RgnStat → RgnStat) : (v.modRgnSt k g).ft = v.ft := rfl
@[simp] theorem Dev.modRgnSt_ftRegs (v : Dev) (k : Nat) (g : RgnStat → RgnStat) : (v.modRgnSt k g).ftRegs = v.ftRegs := rfl
@[simp] theorem Dev.modRgnSt_mst (v : Dev) (k : Nat) (g : RgnStat → RgnStat) : (v.modRgnSt k g).mst = v.mst := rfl
@[simp] theorem Dev.modRgnSt_scheds (v : Dev) (k : Nat) (g : RgnStat → RgnStat) : (v.modRgnSt k g).scheds = v.scheds := rfl
@[simp] theorem Dev.modRgnSt_strms (v : Dev) (k : Nat) (g : RgnStat → RgnStat) : (v.modRgnSt k g).strms = v.strms := rfl
@[simp] theorem Dev.modRgnSt_cores (v : Dev) (k : Nat) (g : RgnStat → RgnStat) : (v.modRgnSt k g).cores = v.cores := rfl
@[simp] theorem Dev.modRgnSt_ctrs (v : Dev) (k : Nat) (g : RgnStat → RgnStat) : (v.modRgnSt k g).ctrs = v.ctrs := rfl
@[simp] theorem Dev.modRgnSt_bars (v : Dev) (k : Nat) (g : RgnStat → RgnStat) : (v.modRgnSt k g).bars = v.bars := rfl
@[simp] theorem Dev.modRgnSt_syn (v : Dev) (k : Nat) (g : RgnStat → RgnStat) : (v.modRgnSt k g).syn = v.syn := rfl
@[simp] theorem Dev.modRgnSt_rgn (v : Dev) (k : Nat) (g : RgnStat → RgnStat) : (v.modRgnSt k g).rgn = v.rgn := rfl
@[simp] theorem Dev.modRgnSt_hbm (v : Dev) (k : Nat) (g : RgnStat → RgnStat) : (v.modRgnSt k g).hbm = v.hbm := rfl
@[simp] theorem Dev.modRgnSt_hostMem (v : Dev) (k : Nat) (g : RgnStat → RgnStat) : (v.modRgnSt k g).hostMem = v.hostMem := rfl
@[simp] theorem Dev.modRgnSt_hostErr (v : Dev) (k : Nat) (g : RgnStat → RgnStat) : (v.modRgnSt k g).hostErr = v.hostErr := rfl
@[simp] theorem Dev.modRgnSt_moult (v : Dev) (k : Nat) (g : RgnStat → RgnStat) : (v.modRgnSt k g).moult = v.moult := rfl
@[simp] theorem Dev.modRgnSt_fault (v : Dev) (k : Nat) (g : RgnStat → RgnStat) : (v.modRgnSt k g).fault = v.fault := rfl
@[simp] theorem Dev.modRgnSt_ctxSw (v : Dev) (k : Nat) (g : RgnStat → RgnStat) : (v.modRgnSt k g).ctxSw = v.ctxSw := rfl
@[simp] theorem Dev.modRgnSt_chip (v : Dev) (k : Nat) (g : RgnStat → RgnStat) : (v.modRgnSt k g).chip = v.chip := rfl
@[simp] theorem Dev.modRgnSt_fab (v : Dev) (k : Nat) (g : RgnStat → RgnStat) : (v.modRgnSt k g).fab = v.fab := rfl
@[simp] theorem Dev.modRgnSt_links (v : Dev) (k : Nat) (g : RgnStat → RgnStat) : (v.modRgnSt k g).links = v.links := rfl
@[simp] theorem Dev.modRgnSt_pwr (v : Dev) (k : Nat) (g : RgnStat → RgnStat) : (v.modRgnSt k g).pwr = v.pwr := rfl
@[simp] theorem Dev.modRgnSt_hif (v : Dev) (k : Nat) (g : RgnStat → RgnStat) : (v.modRgnSt k g).hif = v.hif := rfl
@[simp] theorem Dev.modRgnSt_freeCtr (v : Dev) (k : Nat) (g : RgnStat → RgnStat) : (v.modRgnSt k g).freeCtr = v.freeCtr := rfl
@[simp] theorem Dev.modRgnSt_out (v : Dev) (k : Nat) (g : RgnStat → RgnStat) : (v.modRgnSt k g).out = v.out := rfl
@[simp] theorem Dev.modFlt_ft (v : Dev) (k : Nat) (g : FaultRec → FaultRec) : (v.modFlt k g).ft = v.ft := rfl
@[simp] theorem Dev.modFlt_ftRegs (v : Dev) (k : Nat) (g : FaultRec → FaultRec) : (v.modFlt k g).ftRegs = v.ftRegs := rfl
@[simp] theorem Dev.modFlt_mst (v : Dev) (k : Nat) (g : FaultRec → FaultRec) : (v.modFlt k g).mst = v.mst := rfl
@[simp] theorem Dev.modFlt_scheds (v : Dev) (k : Nat) (g : FaultRec → FaultRec) : (v.modFlt k g).scheds = v.scheds := rfl
@[simp] theorem Dev.modFlt_strms (v : Dev) (k : Nat) (g : FaultRec → FaultRec) : (v.modFlt k g).strms = v.strms := rfl
@[simp] theorem Dev.modFlt_cores (v : Dev) (k : Nat) (g : FaultRec → FaultRec) : (v.modFlt k g).cores = v.cores := rfl
@[simp] theorem Dev.modFlt_ctrs (v : Dev) (k : Nat) (g : FaultRec → FaultRec) : (v.modFlt k g).ctrs = v.ctrs := rfl
@[simp] theorem Dev.modFlt_bars (v : Dev) (k : Nat) (g : FaultRec → FaultRec) : (v.modFlt k g).bars = v.bars := rfl
@[simp] theorem Dev.modFlt_syn (v : Dev) (k : Nat) (g : FaultRec → FaultRec) : (v.modFlt k g).syn = v.syn := rfl
@[simp] theorem Dev.modFlt_rgn (v : Dev) (k : Nat) (g : FaultRec → FaultRec) : (v.modFlt k g).rgn = v.rgn := rfl
@[simp] theorem Dev.modFlt_rgnStat (v : Dev) (k : Nat) (g : FaultRec → FaultRec) : (v.modFlt k g).rgnStat = v.rgnStat := rfl
@[simp] theorem Dev.modFlt_hbm (v : Dev) (k : Nat) (g : FaultRec → FaultRec) : (v.modFlt k g).hbm = v.hbm := rfl
@[simp] theorem Dev.modFlt_hostMem (v : Dev) (k : Nat) (g : FaultRec → FaultRec) : (v.modFlt k g).hostMem = v.hostMem := rfl
@[simp] theorem Dev.modFlt_hostErr (v : Dev) (k : Nat) (g : FaultRec → FaultRec) : (v.modFlt k g).hostErr = v.hostErr := rfl
@[simp] theorem Dev.modFlt_moult (v : Dev) (k : Nat) (g : FaultRec → FaultRec) : (v.modFlt k g).moult = v.moult := rfl
@[simp] theorem Dev.modFlt_ctxSw (v : Dev) (k : Nat) (g : FaultRec → FaultRec) : (v.modFlt k g).ctxSw = v.ctxSw := rfl
@[simp] theorem Dev.modFlt_chip (v : Dev) (k : Nat) (g : FaultRec → FaultRec) : (v.modFlt k g).chip = v.chip := rfl
@[simp] theorem Dev.modFlt_fab (v : Dev) (k : Nat) (g : FaultRec → FaultRec) : (v.modFlt k g).fab = v.fab := rfl
@[simp] theorem Dev.modFlt_links (v : Dev) (k : Nat) (g : FaultRec → FaultRec) : (v.modFlt k g).links = v.links := rfl
@[simp] theorem Dev.modFlt_pwr (v : Dev) (k : Nat) (g : FaultRec → FaultRec) : (v.modFlt k g).pwr = v.pwr := rfl
@[simp] theorem Dev.modFlt_hif (v : Dev) (k : Nat) (g : FaultRec → FaultRec) : (v.modFlt k g).hif = v.hif := rfl
@[simp] theorem Dev.modFlt_freeCtr (v : Dev) (k : Nat) (g : FaultRec → FaultRec) : (v.modFlt k g).freeCtr = v.freeCtr := rfl
@[simp] theorem Dev.modFlt_out (v : Dev) (k : Nat) (g : FaultRec → FaultRec) : (v.modFlt k g).out = v.out := rfl
@[simp] theorem Dev.modCtxSwD_ft (v : Dev) (k : Nat) (g : CtxSw → CtxSw) : (v.modCtxSwD k g).ft = v.ft := rfl
@[simp] theorem Dev.modCtxSwD_ftRegs (v : Dev) (k : Nat) (g : CtxSw → CtxSw) : (v.modCtxSwD k g).ftRegs = v.ftRegs := rfl
@[simp] theorem Dev.modCtxSwD_mst (v : Dev) (k : Nat) (g : CtxSw → CtxSw) : (v.modCtxSwD k g).mst = v.mst := rfl
@[simp] theorem Dev.modCtxSwD_scheds (v : Dev) (k : Nat) (g : CtxSw → CtxSw) : (v.modCtxSwD k g).scheds = v.scheds := rfl
@[simp] theorem Dev.modCtxSwD_strms (v : Dev) (k : Nat) (g : CtxSw → CtxSw) : (v.modCtxSwD k g).strms = v.strms := rfl
@[simp] theorem Dev.modCtxSwD_cores (v : Dev) (k : Nat) (g : CtxSw → CtxSw) : (v.modCtxSwD k g).cores = v.cores := rfl
@[simp] theorem Dev.modCtxSwD_ctrs (v : Dev) (k : Nat) (g : CtxSw → CtxSw) : (v.modCtxSwD k g).ctrs = v.ctrs := rfl
@[simp] theorem Dev.modCtxSwD_bars (v : Dev) (k : Nat) (g : CtxSw → CtxSw) : (v.modCtxSwD k g).bars = v.bars := rfl
@[simp] theorem Dev.modCtxSwD_syn (v : Dev) (k : Nat) (g : CtxSw → CtxSw) : (v.modCtxSwD k g).syn = v.syn := rfl
@[simp] theorem Dev.modCtxSwD_rgn (v : Dev) (k : Nat) (g : CtxSw → CtxSw) : (v.modCtxSwD k g).rgn = v.rgn := rfl
@[simp] theorem Dev.modCtxSwD_rgnStat (v : Dev) (k : Nat) (g : CtxSw → CtxSw) : (v.modCtxSwD k g).rgnStat = v.rgnStat := rfl
@[simp] theorem Dev.modCtxSwD_hbm (v : Dev) (k : Nat) (g : CtxSw → CtxSw) : (v.modCtxSwD k g).hbm = v.hbm := rfl
@[simp] theorem Dev.modCtxSwD_hostMem (v : Dev) (k : Nat) (g : CtxSw → CtxSw) : (v.modCtxSwD k g).hostMem = v.hostMem := rfl
@[simp] theorem Dev.modCtxSwD_hostErr (v : Dev) (k : Nat) (g : CtxSw → CtxSw) : (v.modCtxSwD k g).hostErr = v.hostErr := rfl
@[simp] theorem Dev.modCtxSwD_moult (v : Dev) (k : Nat) (g : CtxSw → CtxSw) : (v.modCtxSwD k g).moult = v.moult := rfl
@[simp] theorem Dev.modCtxSwD_fault (v : Dev) (k : Nat) (g : CtxSw → CtxSw) : (v.modCtxSwD k g).fault = v.fault := rfl
@[simp] theorem Dev.modCtxSwD_chip (v : Dev) (k : Nat) (g : CtxSw → CtxSw) : (v.modCtxSwD k g).chip = v.chip := rfl
@[simp] theorem Dev.modCtxSwD_fab (v : Dev) (k : Nat) (g : CtxSw → CtxSw) : (v.modCtxSwD k g).fab = v.fab := rfl
@[simp] theorem Dev.modCtxSwD_links (v : Dev) (k : Nat) (g : CtxSw → CtxSw) : (v.modCtxSwD k g).links = v.links := rfl
@[simp] theorem Dev.modCtxSwD_pwr (v : Dev) (k : Nat) (g : CtxSw → CtxSw) : (v.modCtxSwD k g).pwr = v.pwr := rfl
@[simp] theorem Dev.modCtxSwD_hif (v : Dev) (k : Nat) (g : CtxSw → CtxSw) : (v.modCtxSwD k g).hif = v.hif := rfl
@[simp] theorem Dev.modCtxSwD_freeCtr (v : Dev) (k : Nat) (g : CtxSw → CtxSw) : (v.modCtxSwD k g).freeCtr = v.freeCtr := rfl
@[simp] theorem Dev.modCtxSwD_out (v : Dev) (k : Nat) (g : CtxSw → CtxSw) : (v.modCtxSwD k g).out = v.out := rfl
@[simp] theorem Dev.modFabD_ft (v : Dev) (k : Nat) (g : Fab → Fab) : (v.modFabD k g).ft = v.ft := rfl
@[simp] theorem Dev.modFabD_ftRegs (v : Dev) (k : Nat) (g : Fab → Fab) : (v.modFabD k g).ftRegs = v.ftRegs := rfl
@[simp] theorem Dev.modFabD_mst (v : Dev) (k : Nat) (g : Fab → Fab) : (v.modFabD k g).mst = v.mst := rfl
@[simp] theorem Dev.modFabD_scheds (v : Dev) (k : Nat) (g : Fab → Fab) : (v.modFabD k g).scheds = v.scheds := rfl
@[simp] theorem Dev.modFabD_strms (v : Dev) (k : Nat) (g : Fab → Fab) : (v.modFabD k g).strms = v.strms := rfl
@[simp] theorem Dev.modFabD_cores (v : Dev) (k : Nat) (g : Fab → Fab) : (v.modFabD k g).cores = v.cores := rfl
@[simp] theorem Dev.modFabD_ctrs (v : Dev) (k : Nat) (g : Fab → Fab) : (v.modFabD k g).ctrs = v.ctrs := rfl
@[simp] theorem Dev.modFabD_bars (v : Dev) (k : Nat) (g : Fab → Fab) : (v.modFabD k g).bars = v.bars := rfl
@[simp] theorem Dev.modFabD_syn (v : Dev) (k : Nat) (g : Fab → Fab) : (v.modFabD k g).syn = v.syn := rfl
@[simp] theorem Dev.modFabD_rgn (v : Dev) (k : Nat) (g : Fab → Fab) : (v.modFabD k g).rgn = v.rgn := rfl
@[simp] theorem Dev.modFabD_rgnStat (v : Dev) (k : Nat) (g : Fab → Fab) : (v.modFabD k g).rgnStat = v.rgnStat := rfl
@[simp] theorem Dev.modFabD_hbm (v : Dev) (k : Nat) (g : Fab → Fab) : (v.modFabD k g).hbm = v.hbm := rfl
@[simp] theorem Dev.modFabD_hostMem (v : Dev) (k : Nat) (g : Fab → Fab) : (v.modFabD k g).hostMem = v.hostMem := rfl
@[simp] theorem Dev.modFabD_hostErr (v : Dev) (k : Nat) (g : Fab → Fab) : (v.modFabD k g).hostErr = v.hostErr := rfl
@[simp] theorem Dev.modFabD_moult (v : Dev) (k : Nat) (g : Fab → Fab) : (v.modFabD k g).moult = v.moult := rfl
@[simp] theorem Dev.modFabD_fault (v : Dev) (k : Nat) (g : Fab → Fab) : (v.modFabD k g).fault = v.fault := rfl
@[simp] theorem Dev.modFabD_ctxSw (v : Dev) (k : Nat) (g : Fab → Fab) : (v.modFabD k g).ctxSw = v.ctxSw := rfl
@[simp] theorem Dev.modFabD_chip (v : Dev) (k : Nat) (g : Fab → Fab) : (v.modFabD k g).chip = v.chip := rfl
@[simp] theorem Dev.modFabD_links (v : Dev) (k : Nat) (g : Fab → Fab) : (v.modFabD k g).links = v.links := rfl
@[simp] theorem Dev.modFabD_pwr (v : Dev) (k : Nat) (g : Fab → Fab) : (v.modFabD k g).pwr = v.pwr := rfl
@[simp] theorem Dev.modFabD_hif (v : Dev) (k : Nat) (g : Fab → Fab) : (v.modFabD k g).hif = v.hif := rfl
@[simp] theorem Dev.modFabD_freeCtr (v : Dev) (k : Nat) (g : Fab → Fab) : (v.modFabD k g).freeCtr = v.freeCtr := rfl
@[simp] theorem Dev.modFabD_out (v : Dev) (k : Nat) (g : Fab → Fab) : (v.modFabD k g).out = v.out := rfl
@[simp] theorem Dev.modLinkN_ft (v : Dev) (k : Nat) (g : Link → Link) : (v.modLinkN k g).ft = v.ft := rfl
@[simp] theorem Dev.modLinkN_ftRegs (v : Dev) (k : Nat) (g : Link → Link) : (v.modLinkN k g).ftRegs = v.ftRegs := rfl
@[simp] theorem Dev.modLinkN_mst (v : Dev) (k : Nat) (g : Link → Link) : (v.modLinkN k g).mst = v.mst := rfl
@[simp] theorem Dev.modLinkN_scheds (v : Dev) (k : Nat) (g : Link → Link) : (v.modLinkN k g).scheds = v.scheds := rfl
@[simp] theorem Dev.modLinkN_strms (v : Dev) (k : Nat) (g : Link → Link) : (v.modLinkN k g).strms = v.strms := rfl
@[simp] theorem Dev.modLinkN_cores (v : Dev) (k : Nat) (g : Link → Link) : (v.modLinkN k g).cores = v.cores := rfl
@[simp] theorem Dev.modLinkN_ctrs (v : Dev) (k : Nat) (g : Link → Link) : (v.modLinkN k g).ctrs = v.ctrs := rfl
@[simp] theorem Dev.modLinkN_bars (v : Dev) (k : Nat) (g : Link → Link) : (v.modLinkN k g).bars = v.bars := rfl
@[simp] theorem Dev.modLinkN_syn (v : Dev) (k : Nat) (g : Link → Link) : (v.modLinkN k g).syn = v.syn := rfl
@[simp] theorem Dev.modLinkN_rgn (v : Dev) (k : Nat) (g : Link → Link) : (v.modLinkN k g).rgn = v.rgn := rfl
@[simp] theorem Dev.modLinkN_rgnStat (v : Dev) (k : Nat) (g : Link → Link) : (v.modLinkN k g).rgnStat = v.rgnStat := rfl
@[simp] theorem Dev.modLinkN_hbm (v : Dev) (k : Nat) (g : Link → Link) : (v.modLinkN k g).hbm = v.hbm := rfl
@[simp] theorem Dev.modLinkN_hostMem (v : Dev) (k : Nat) (g : Link → Link) : (v.modLinkN k g).hostMem = v.hostMem := rfl
@[simp] theorem Dev.modLinkN_hostErr (v : Dev) (k : Nat) (g : Link → Link) : (v.modLinkN k g).hostErr = v.hostErr := rfl
@[simp] theorem Dev.modLinkN_moult (v : Dev) (k : Nat) (g : Link → Link) : (v.modLinkN k g).moult = v.moult := rfl
@[simp] theorem Dev.modLinkN_fault (v : Dev) (k : Nat) (g : Link → Link) : (v.modLinkN k g).fault = v.fault := rfl
@[simp] theorem Dev.modLinkN_ctxSw (v : Dev) (k : Nat) (g : Link → Link) : (v.modLinkN k g).ctxSw = v.ctxSw := rfl
@[simp] theorem Dev.modLinkN_chip (v : Dev) (k : Nat) (g : Link → Link) : (v.modLinkN k g).chip = v.chip := rfl
@[simp] theorem Dev.modLinkN_fab (v : Dev) (k : Nat) (g : Link → Link) : (v.modLinkN k g).fab = v.fab := rfl
@[simp] theorem Dev.modLinkN_pwr (v : Dev) (k : Nat) (g : Link → Link) : (v.modLinkN k g).pwr = v.pwr := rfl
@[simp] theorem Dev.modLinkN_hif (v : Dev) (k : Nat) (g : Link → Link) : (v.modLinkN k g).hif = v.hif := rfl
@[simp] theorem Dev.modLinkN_freeCtr (v : Dev) (k : Nat) (g : Link → Link) : (v.modLinkN k g).freeCtr = v.freeCtr := rfl
@[simp] theorem Dev.modLinkN_out (v : Dev) (k : Nat) (g : Link → Link) : (v.modLinkN k g).out = v.out := rfl
@[simp] theorem Dev.modHifD_ft (v : Dev) (k : Nat) (g : Hif → Hif) : (v.modHifD k g).ft = v.ft := rfl
@[simp] theorem Dev.modHifD_ftRegs (v : Dev) (k : Nat) (g : Hif → Hif) : (v.modHifD k g).ftRegs = v.ftRegs := rfl
@[simp] theorem Dev.modHifD_mst (v : Dev) (k : Nat) (g : Hif → Hif) : (v.modHifD k g).mst = v.mst := rfl
@[simp] theorem Dev.modHifD_scheds (v : Dev) (k : Nat) (g : Hif → Hif) : (v.modHifD k g).scheds = v.scheds := rfl
@[simp] theorem Dev.modHifD_strms (v : Dev) (k : Nat) (g : Hif → Hif) : (v.modHifD k g).strms = v.strms := rfl
@[simp] theorem Dev.modHifD_cores (v : Dev) (k : Nat) (g : Hif → Hif) : (v.modHifD k g).cores = v.cores := rfl
@[simp] theorem Dev.modHifD_ctrs (v : Dev) (k : Nat) (g : Hif → Hif) : (v.modHifD k g).ctrs = v.ctrs := rfl
@[simp] theorem Dev.modHifD_bars (v : Dev) (k : Nat) (g : Hif → Hif) : (v.modHifD k g).bars = v.bars := rfl
@[simp] theorem Dev.modHifD_syn (v : Dev) (k : Nat) (g : Hif → Hif) : (v.modHifD k g).syn = v.syn := rfl
@[simp] theorem Dev.modHifD_rgn (v : Dev) (k : Nat) (g : Hif → Hif) : (v.modHifD k g).rgn = v.rgn := rfl
@[simp] theorem Dev.modHifD_rgnStat (v : Dev) (k : Nat) (g : Hif → Hif) : (v.modHifD k g).rgnStat = v.rgnStat := rfl
@[simp] theorem Dev.modHifD_hbm (v : Dev) (k : Nat) (g : Hif → Hif) : (v.modHifD k g).hbm = v.hbm := rfl
@[simp] theorem Dev.modHifD_hostMem (v : Dev) (k : Nat) (g : Hif → Hif) : (v.modHifD k g).hostMem = v.hostMem := rfl
@[simp] theorem Dev.modHifD_hostErr (v : Dev) (k : Nat) (g : Hif → Hif) : (v.modHifD k g).hostErr = v.hostErr := rfl
@[simp] theorem Dev.modHifD_moult (v : Dev) (k : Nat) (g : Hif → Hif) : (v.modHifD k g).moult = v.moult := rfl
@[simp] theorem Dev.modHifD_fault (v : Dev) (k : Nat) (g : Hif → Hif) : (v.modHifD k g).fault = v.fault := rfl
@[simp] theorem Dev.modHifD_ctxSw (v : Dev) (k : Nat) (g : Hif → Hif) : (v.modHifD k g).ctxSw = v.ctxSw := rfl
@[simp] theorem Dev.modHifD_chip (v : Dev) (k : Nat) (g : Hif → Hif) : (v.modHifD k g).chip = v.chip := rfl
@[simp] theorem Dev.modHifD_fab (v : Dev) (k : Nat) (g : Hif → Hif) : (v.modHifD k g).fab = v.fab := rfl
@[simp] theorem Dev.modHifD_links (v : Dev) (k : Nat) (g : Hif → Hif) : (v.modHifD k g).links = v.links := rfl
@[simp] theorem Dev.modHifD_pwr (v : Dev) (k : Nat) (g : Hif → Hif) : (v.modHifD k g).pwr = v.pwr := rfl
@[simp] theorem Dev.modHifD_freeCtr (v : Dev) (k : Nat) (g : Hif → Hif) : (v.modHifD k g).freeCtr = v.freeCtr := rfl
@[simp] theorem Dev.modHifD_out (v : Dev) (k : Nat) (g : Hif → Hif) : (v.modHifD k g).out = v.out := rfl
@[simp] theorem Dev.modChan_ft (v : Dev) (k : Nat) (g : Chan → Chan) : (v.modChan k g).ft = v.ft := rfl
@[simp] theorem Dev.modChan_ftRegs (v : Dev) (k : Nat) (g : Chan → Chan) : (v.modChan k g).ftRegs = v.ftRegs := rfl
@[simp] theorem Dev.modChan_mst (v : Dev) (k : Nat) (g : Chan → Chan) : (v.modChan k g).mst = v.mst := rfl
@[simp] theorem Dev.modChan_scheds (v : Dev) (k : Nat) (g : Chan → Chan) : (v.modChan k g).scheds = v.scheds := rfl
@[simp] theorem Dev.modChan_strms (v : Dev) (k : Nat) (g : Chan → Chan) : (v.modChan k g).strms = v.strms := rfl
@[simp] theorem Dev.modChan_cores (v : Dev) (k : Nat) (g : Chan → Chan) : (v.modChan k g).cores = v.cores := rfl
@[simp] theorem Dev.modChan_ctrs (v : Dev) (k : Nat) (g : Chan → Chan) : (v.modChan k g).ctrs = v.ctrs := rfl
@[simp] theorem Dev.modChan_bars (v : Dev) (k : Nat) (g : Chan → Chan) : (v.modChan k g).bars = v.bars := rfl
@[simp] theorem Dev.modChan_syn (v : Dev) (k : Nat) (g : Chan → Chan) : (v.modChan k g).syn = v.syn := rfl
@[simp] theorem Dev.modChan_rgn (v : Dev) (k : Nat) (g : Chan → Chan) : (v.modChan k g).rgn = v.rgn := rfl
@[simp] theorem Dev.modChan_rgnStat (v : Dev) (k : Nat) (g : Chan → Chan) : (v.modChan k g).rgnStat = v.rgnStat := rfl
@[simp] theorem Dev.modChan_hostMem (v : Dev) (k : Nat) (g : Chan → Chan) : (v.modChan k g).hostMem = v.hostMem := rfl
@[simp] theorem Dev.modChan_hostErr (v : Dev) (k : Nat) (g : Chan → Chan) : (v.modChan k g).hostErr = v.hostErr := rfl
@[simp] theorem Dev.modChan_moult (v : Dev) (k : Nat) (g : Chan → Chan) : (v.modChan k g).moult = v.moult := rfl
@[simp] theorem Dev.modChan_fault (v : Dev) (k : Nat) (g : Chan → Chan) : (v.modChan k g).fault = v.fault := rfl
@[simp] theorem Dev.modChan_ctxSw (v : Dev) (k : Nat) (g : Chan → Chan) : (v.modChan k g).ctxSw = v.ctxSw := rfl
@[simp] theorem Dev.modChan_chip (v : Dev) (k : Nat) (g : Chan → Chan) : (v.modChan k g).chip = v.chip := rfl
@[simp] theorem Dev.modChan_fab (v : Dev) (k : Nat) (g : Chan → Chan) : (v.modChan k g).fab = v.fab := rfl
@[simp] theorem Dev.modChan_links (v : Dev) (k : Nat) (g : Chan → Chan) : (v.modChan k g).links = v.links := rfl
@[simp] theorem Dev.modChan_pwr (v : Dev) (k : Nat) (g : Chan → Chan) : (v.modChan k g).pwr = v.pwr := rfl
@[simp] theorem Dev.modChan_hif (v : Dev) (k : Nat) (g : Chan → Chan) : (v.modChan k g).hif = v.hif := rfl
@[simp] theorem Dev.modChan_freeCtr (v : Dev) (k : Nat) (g : Chan → Chan) : (v.modChan k g).freeCtr = v.freeCtr := rfl
@[simp] theorem Dev.modChan_out (v : Dev) (k : Nat) (g : Chan → Chan) : (v.modChan k g).out = v.out := rfl
@[simp] theorem Dev.modStk_ft (v : Dev) (k : Nat) (g : Stack → Stack) : (v.modStk k g).ft = v.ft := rfl
@[simp] theorem Dev.modStk_ftRegs (v : Dev) (k : Nat) (g : Stack → Stack) : (v.modStk k g).ftRegs = v.ftRegs := rfl
@[simp] theorem Dev.modStk_mst (v : Dev) (k : Nat) (g : Stack → Stack) : (v.modStk k g).mst = v.mst := rfl
@[simp] theorem Dev.modStk_scheds (v : Dev) (k : Nat) (g : Stack → Stack) : (v.modStk k g).scheds = v.scheds := rfl
@[simp] theorem Dev.modStk_strms (v : Dev) (k : Nat) (g : Stack → Stack) : (v.modStk k g).strms = v.strms := rfl
@[simp] theorem Dev.modStk_cores (v : Dev) (k : Nat) (g : Stack → Stack) : (v.modStk k g).cores = v.cores := rfl
@[simp] theorem Dev.modStk_ctrs (v : Dev) (k : Nat) (g : Stack → Stack) : (v.modStk k g).ctrs = v.ctrs := rfl
@[simp] theorem Dev.modStk_bars (v : Dev) (k : Nat) (g : Stack → Stack) : (v.modStk k g).bars = v.bars := rfl
@[simp] theorem Dev.modStk_syn (v : Dev) (k : Nat) (g : Stack → Stack) : (v.modStk k g).syn = v.syn := rfl
@[simp] theorem Dev.modStk_rgn (v : Dev) (k : Nat) (g : Stack → Stack) : (v.modStk k g).rgn = v.rgn := rfl
@[simp] theorem Dev.modStk_rgnStat (v : Dev) (k : Nat) (g : Stack → Stack) : (v.modStk k g).rgnStat = v.rgnStat := rfl
@[simp] theorem Dev.modStk_hostMem (v : Dev) (k : Nat) (g : Stack → Stack) : (v.modStk k g).hostMem = v.hostMem := rfl
@[simp] theorem Dev.modStk_hostErr (v : Dev) (k : Nat) (g : Stack → Stack) : (v.modStk k g).hostErr = v.hostErr := rfl
@[simp] theorem Dev.modStk_moult (v : Dev) (k : Nat) (g : Stack → Stack) : (v.modStk k g).moult = v.moult := rfl
@[simp] theorem Dev.modStk_fault (v : Dev) (k : Nat) (g : Stack → Stack) : (v.modStk k g).fault = v.fault := rfl
@[simp] theorem Dev.modStk_ctxSw (v : Dev) (k : Nat) (g : Stack → Stack) : (v.modStk k g).ctxSw = v.ctxSw := rfl
@[simp] theorem Dev.modStk_chip (v : Dev) (k : Nat) (g : Stack → Stack) : (v.modStk k g).chip = v.chip := rfl
@[simp] theorem Dev.modStk_fab (v : Dev) (k : Nat) (g : Stack → Stack) : (v.modStk k g).fab = v.fab := rfl
@[simp] theorem Dev.modStk_links (v : Dev) (k : Nat) (g : Stack → Stack) : (v.modStk k g).links = v.links := rfl
@[simp] theorem Dev.modStk_pwr (v : Dev) (k : Nat) (g : Stack → Stack) : (v.modStk k g).pwr = v.pwr := rfl
@[simp] theorem Dev.modStk_hif (v : Dev) (k : Nat) (g : Stack → Stack) : (v.modStk k g).hif = v.hif := rfl
@[simp] theorem Dev.modStk_freeCtr (v : Dev) (k : Nat) (g : Stack → Stack) : (v.modStk k g).freeCtr = v.freeCtr := rfl
@[simp] theorem Dev.modStk_out (v : Dev) (k : Nat) (g : Stack → Stack) : (v.modStk k g).out = v.out := rfl
@[simp] theorem Dev.modRing_ft (v : Dev) (d n : Nat) (g : Ring → Ring) : (v.modRing d n g).ft = v.ft := rfl
@[simp] theorem Dev.modRing_ftRegs (v : Dev) (d n : Nat) (g : Ring → Ring) : (v.modRing d n g).ftRegs = v.ftRegs := rfl
@[simp] theorem Dev.modRing_mst (v : Dev) (d n : Nat) (g : Ring → Ring) : (v.modRing d n g).mst = v.mst := rfl
@[simp] theorem Dev.modRing_scheds (v : Dev) (d n : Nat) (g : Ring → Ring) : (v.modRing d n g).scheds = v.scheds := rfl
@[simp] theorem Dev.modRing_strms (v : Dev) (d n : Nat) (g : Ring → Ring) : (v.modRing d n g).strms = v.strms := rfl
@[simp] theorem Dev.modRing_cores (v : Dev) (d n : Nat) (g : Ring → Ring) : (v.modRing d n g).cores = v.cores := rfl
@[simp] theorem Dev.modRing_ctrs (v : Dev) (d n : Nat) (g : Ring → Ring) : (v.modRing d n g).ctrs = v.ctrs := rfl
@[simp] theorem Dev.modRing_bars (v : Dev) (d n : Nat) (g : Ring → Ring) : (v.modRing d n g).bars = v.bars := rfl
@[simp] theorem Dev.modRing_syn (v : Dev) (d n : Nat) (g : Ring → Ring) : (v.modRing d n g).syn = v.syn := rfl
@[simp] theorem Dev.modRing_rgn (v : Dev) (d n : Nat) (g : Ring → Ring) : (v.modRing d n g).rgn = v.rgn := rfl
@[simp] theorem Dev.modRing_rgnStat (v : Dev) (d n : Nat) (g : Ring → Ring) : (v.modRing d n g).rgnStat = v.rgnStat := rfl
@[simp] theorem Dev.modRing_hbm (v : Dev) (d n : Nat) (g : Ring → Ring) : (v.modRing d n g).hbm = v.hbm := rfl
@[simp] theorem Dev.modRing_hostMem (v : Dev) (d n : Nat) (g : Ring → Ring) : (v.modRing d n g).hostMem = v.hostMem := rfl
@[simp] theorem Dev.modRing_hostErr (v : Dev) (d n : Nat) (g : Ring → Ring) : (v.modRing d n g).hostErr = v.hostErr := rfl
@[simp] theorem Dev.modRing_moult (v : Dev) (d n : Nat) (g : Ring → Ring) : (v.modRing d n g).moult = v.moult := rfl
@[simp] theorem Dev.modRing_fault (v : Dev) (d n : Nat) (g : Ring → Ring) : (v.modRing d n g).fault = v.fault := rfl
@[simp] theorem Dev.modRing_ctxSw (v : Dev) (d n : Nat) (g : Ring → Ring) : (v.modRing d n g).ctxSw = v.ctxSw := rfl
@[simp] theorem Dev.modRing_chip (v : Dev) (d n : Nat) (g : Ring → Ring) : (v.modRing d n g).chip = v.chip := rfl
@[simp] theorem Dev.modRing_fab (v : Dev) (d n : Nat) (g : Ring → Ring) : (v.modRing d n g).fab = v.fab := rfl
@[simp] theorem Dev.modRing_links (v : Dev) (d n : Nat) (g : Ring → Ring) : (v.modRing d n g).links = v.links := rfl
@[simp] theorem Dev.modRing_pwr (v : Dev) (d n : Nat) (g : Ring → Ring) : (v.modRing d n g).pwr = v.pwr := rfl
@[simp] theorem Dev.modRing_freeCtr (v : Dev) (d n : Nat) (g : Ring → Ring) : (v.modRing d n g).freeCtr = v.freeCtr := rfl
@[simp] theorem Dev.modRing_out (v : Dev) (d n : Nat) (g : Ring → Ring) : (v.modRing d n g).out = v.out := rfl
@[simp] theorem Dev.modCtx_ft (v : Dev) (c x : Nat) (g : Ctx → Ctx) : (v.modCtx c x g).ft = v.ft := rfl
@[simp] theorem Dev.modCtx_ftRegs (v : Dev) (c x : Nat) (g : Ctx → Ctx) : (v.modCtx c x g).ftRegs = v.ftRegs := rfl
@[simp] theorem Dev.modCtx_mst (v : Dev) (c x : Nat) (g : Ctx → Ctx) : (v.modCtx c x g).mst = v.mst := rfl
@[simp] theorem Dev.modCtx_scheds (v : Dev) (c x : Nat) (g : Ctx → Ctx) : (v.modCtx c x g).scheds = v.scheds := rfl
@[simp] theorem Dev.modCtx_strms (v : Dev) (c x : Nat) (g : Ctx → Ctx) : (v.modCtx c x g).strms = v.strms := rfl
@[simp] theorem Dev.modCtx_ctrs (v : Dev) (c x : Nat) (g : Ctx → Ctx) : (v.modCtx c x g).ctrs = v.ctrs := rfl
@[simp] theorem Dev.modCtx_bars (v : Dev) (c x : Nat) (g : Ctx → Ctx) : (v.modCtx c x g).bars = v.bars := rfl
@[simp] theorem Dev.modCtx_syn (v : Dev) (c x : Nat) (g : Ctx → Ctx) : (v.modCtx c x g).syn = v.syn := rfl
@[simp] theorem Dev.modCtx_rgn (v : Dev) (c x : Nat) (g : Ctx → Ctx) : (v.modCtx c x g).rgn = v.rgn := rfl
@[simp] theorem Dev.modCtx_rgnStat (v : Dev) (c x : Nat) (g : Ctx → Ctx) : (v.modCtx c x g).rgnStat = v.rgnStat := rfl
@[simp] theorem Dev.modCtx_hbm (v : Dev) (c x : Nat) (g : Ctx → Ctx) : (v.modCtx c x g).hbm = v.hbm := rfl
@[simp] theorem Dev.modCtx_hostMem (v : Dev) (c x : Nat) (g : Ctx → Ctx) : (v.modCtx c x g).hostMem = v.hostMem := rfl
@[simp] theorem Dev.modCtx_hostErr (v : Dev) (c x : Nat) (g : Ctx → Ctx) : (v.modCtx c x g).hostErr = v.hostErr := rfl
@[simp] theorem Dev.modCtx_moult (v : Dev) (c x : Nat) (g : Ctx → Ctx) : (v.modCtx c x g).moult = v.moult := rfl
@[simp] theorem Dev.modCtx_fault (v : Dev) (c x : Nat) (g : Ctx → Ctx) : (v.modCtx c x g).fault = v.fault := rfl
@[simp] theorem Dev.modCtx_ctxSw (v : Dev) (c x : Nat) (g : Ctx → Ctx) : (v.modCtx c x g).ctxSw = v.ctxSw := rfl
@[simp] theorem Dev.modCtx_chip (v : Dev) (c x : Nat) (g : Ctx → Ctx) : (v.modCtx c x g).chip = v.chip := rfl
@[simp] theorem Dev.modCtx_fab (v : Dev) (c x : Nat) (g : Ctx → Ctx) : (v.modCtx c x g).fab = v.fab := rfl
@[simp] theorem Dev.modCtx_links (v : Dev) (c x : Nat) (g : Ctx → Ctx) : (v.modCtx c x g).links = v.links := rfl
@[simp] theorem Dev.modCtx_pwr (v : Dev) (c x : Nat) (g : Ctx → Ctx) : (v.modCtx c x g).pwr = v.pwr := rfl
@[simp] theorem Dev.modCtx_hif (v : Dev) (c x : Nat) (g : Ctx → Ctx) : (v.modCtx c x g).hif = v.hif := rfl
@[simp] theorem Dev.modCtx_freeCtr (v : Dev) (c x : Nat) (g : Ctx → Ctx) : (v.modCtx c x g).freeCtr = v.freeCtr := rfl
@[simp] theorem Dev.modCtx_out (v : Dev) (c x : Nat) (g : Ctx → Ctx) : (v.modCtx c x g).out = v.out := rfl
@[simp] theorem Dev.modDmaCh_ft (v : Dev) (c n : Nat) (g : DmaChan → DmaChan) : (v.modDmaCh c n g).ft = v.ft := rfl
@[simp] theorem Dev.modDmaCh_ftRegs (v : Dev) (c n : Nat) (g : DmaChan → DmaChan) : (v.modDmaCh c n g).ftRegs = v.ftRegs := rfl
@[simp] theorem Dev.modDmaCh_mst (v : Dev) (c n : Nat) (g : DmaChan → DmaChan) : (v.modDmaCh c n g).mst = v.mst := rfl
@[simp] theorem Dev.modDmaCh_scheds (v : Dev) (c n : Nat) (g : DmaChan → DmaChan) : (v.modDmaCh c n g).scheds = v.scheds := rfl
@[simp] theorem Dev.modDmaCh_strms (v : Dev) (c n : Nat) (g : DmaChan → DmaChan) : (v.modDmaCh c n g).strms = v.strms := rfl
@[simp] theorem Dev.modDmaCh_ctrs (v : Dev) (c n : Nat) (g : DmaChan → DmaChan) : (v.modDmaCh c n g).ctrs = v.ctrs := rfl
@[simp] theorem Dev.modDmaCh_bars (v : Dev) (c n : Nat) (g : DmaChan → DmaChan) : (v.modDmaCh c n g).bars = v.bars := rfl
@[simp] theorem Dev.modDmaCh_syn (v : Dev) (c n : Nat) (g : DmaChan → DmaChan) : (v.modDmaCh c n g).syn = v.syn := rfl
@[simp] theorem Dev.modDmaCh_rgn (v : Dev) (c n : Nat) (g : DmaChan → DmaChan) : (v.modDmaCh c n g).rgn = v.rgn := rfl
@[simp] theorem Dev.modDmaCh_rgnStat (v : Dev) (c n : Nat) (g : DmaChan → DmaChan) : (v.modDmaCh c n g).rgnStat = v.rgnStat := rfl
@[simp] theorem Dev.modDmaCh_hbm (v : Dev) (c n : Nat) (g : DmaChan → DmaChan) : (v.modDmaCh c n g).hbm = v.hbm := rfl
@[simp] theorem Dev.modDmaCh_hostMem (v : Dev) (c n : Nat) (g : DmaChan → DmaChan) : (v.modDmaCh c n g).hostMem = v.hostMem := rfl
@[simp] theorem Dev.modDmaCh_hostErr (v : Dev) (c n : Nat) (g : DmaChan → DmaChan) : (v.modDmaCh c n g).hostErr = v.hostErr := rfl
@[simp] theorem Dev.modDmaCh_moult (v : Dev) (c n : Nat) (g : DmaChan → DmaChan) : (v.modDmaCh c n g).moult = v.moult := rfl
@[simp] theorem Dev.modDmaCh_fault (v : Dev) (c n : Nat) (g : DmaChan → DmaChan) : (v.modDmaCh c n g).fault = v.fault := rfl
@[simp] theorem Dev.modDmaCh_ctxSw (v : Dev) (c n : Nat) (g : DmaChan → DmaChan) : (v.modDmaCh c n g).ctxSw = v.ctxSw := rfl
@[simp] theorem Dev.modDmaCh_chip (v : Dev) (c n : Nat) (g : DmaChan → DmaChan) : (v.modDmaCh c n g).chip = v.chip := rfl
@[simp] theorem Dev.modDmaCh_fab (v : Dev) (c n : Nat) (g : DmaChan → DmaChan) : (v.modDmaCh c n g).fab = v.fab := rfl
@[simp] theorem Dev.modDmaCh_links (v : Dev) (c n : Nat) (g : DmaChan → DmaChan) : (v.modDmaCh c n g).links = v.links := rfl
@[simp] theorem Dev.modDmaCh_pwr (v : Dev) (c n : Nat) (g : DmaChan → DmaChan) : (v.modDmaCh c n g).pwr = v.pwr := rfl
@[simp] theorem Dev.modDmaCh_hif (v : Dev) (c n : Nat) (g : DmaChan → DmaChan) : (v.modDmaCh c n g).hif = v.hif := rfl
@[simp] theorem Dev.modDmaCh_freeCtr (v : Dev) (c n : Nat) (g : DmaChan → DmaChan) : (v.modDmaCh c n g).freeCtr = v.freeCtr := rfl
@[simp] theorem Dev.modDmaCh_out (v : Dev) (c n : Nat) (g : DmaChan → DmaChan) : (v.modDmaCh c n g).out = v.out := rfl
@[simp] theorem Dev.modDma_ft (v : Dev) (c : Nat) (g : DmaEng → DmaEng) : (v.modDma c g).ft = v.ft := rfl
@[simp] theorem Dev.modDma_ftRegs (v : Dev) (c : Nat) (g : DmaEng → DmaEng) : (v.modDma c g).ftRegs = v.ftRegs := rfl
@[simp] theorem Dev.modDma_mst (v : Dev) (c : Nat) (g : DmaEng → DmaEng) : (v.modDma c g).mst = v.mst := rfl
@[simp] theorem Dev.modDma_scheds (v : Dev) (c : Nat) (g : DmaEng → DmaEng) : (v.modDma c g).scheds = v.scheds := rfl
@[simp] theorem Dev.modDma_strms (v : Dev) (c : Nat) (g : DmaEng → DmaEng) : (v.modDma c g).strms = v.strms := rfl
@[simp] theorem Dev.modDma_ctrs (v : Dev) (c : Nat) (g : DmaEng → DmaEng) : (v.modDma c g).ctrs = v.ctrs := rfl
@[simp] theorem Dev.modDma_bars (v : Dev) (c : Nat) (g : DmaEng → DmaEng) : (v.modDma c g).bars = v.bars := rfl
@[simp] theorem Dev.modDma_syn (v : Dev) (c : Nat) (g : DmaEng → DmaEng) : (v.modDma c g).syn = v.syn := rfl
@[simp] theorem Dev.modDma_rgn (v : Dev) (c : Nat) (g : DmaEng → DmaEng) : (v.modDma c g).rgn = v.rgn := rfl
@[simp] theorem Dev.modDma_rgnStat (v : Dev) (c : Nat) (g : DmaEng → DmaEng) : (v.modDma c g).rgnStat = v.rgnStat := rfl
@[simp] theorem Dev.modDma_hbm (v : Dev) (c : Nat) (g : DmaEng → DmaEng) : (v.modDma c g).hbm = v.hbm := rfl
@[simp] theorem Dev.modDma_hostMem (v : Dev) (c : Nat) (g : DmaEng → DmaEng) : (v.modDma c g).hostMem = v.hostMem := rfl
@[simp] theorem Dev.modDma_hostErr (v : Dev) (c : Nat) (g : DmaEng → DmaEng) : (v.modDma c g).hostErr = v.hostErr := rfl
@[simp] theorem Dev.modDma_moult (v : Dev) (c : Nat) (g : DmaEng → DmaEng) : (v.modDma c g).moult = v.moult := rfl
@[simp] theorem Dev.modDma_fault (v : Dev) (c : Nat) (g : DmaEng → DmaEng) : (v.modDma c g).fault = v.fault := rfl
@[simp] theorem Dev.modDma_ctxSw (v : Dev) (c : Nat) (g : DmaEng → DmaEng) : (v.modDma c g).ctxSw = v.ctxSw := rfl
@[simp] theorem Dev.modDma_chip (v : Dev) (c : Nat) (g : DmaEng → DmaEng) : (v.modDma c g).chip = v.chip := rfl
@[simp] theorem Dev.modDma_fab (v : Dev) (c : Nat) (g : DmaEng → DmaEng) : (v.modDma c g).fab = v.fab := rfl
@[simp] theorem Dev.modDma_links (v : Dev) (c : Nat) (g : DmaEng → DmaEng) : (v.modDma c g).links = v.links := rfl
@[simp] theorem Dev.modDma_pwr (v : Dev) (c : Nat) (g : DmaEng → DmaEng) : (v.modDma c g).pwr = v.pwr := rfl
@[simp] theorem Dev.modDma_hif (v : Dev) (c : Nat) (g : DmaEng → DmaEng) : (v.modDma c g).hif = v.hif := rfl
@[simp] theorem Dev.modDma_freeCtr (v : Dev) (c : Nat) (g : DmaEng → DmaEng) : (v.modDma c g).freeCtr = v.freeCtr := rfl
@[simp] theorem Dev.modDma_out (v : Dev) (c : Nat) (g : DmaEng → DmaEng) : (v.modDma c g).out = v.out := rfl
@[simp] theorem Dev.modLand_ft (v : Dev) (d n : Nat) (g : Land → Land) : (v.modLand d n g).ft = v.ft := rfl
@[simp] theorem Dev.modLand_ftRegs (v : Dev) (d n : Nat) (g : Land → Land) : (v.modLand d n g).ftRegs = v.ftRegs := rfl
@[simp] theorem Dev.modLand_mst (v : Dev) (d n : Nat) (g : Land → Land) : (v.modLand d n g).mst = v.mst := rfl
@[simp] theorem Dev.modLand_scheds (v : Dev) (d n : Nat) (g : Land → Land) : (v.modLand d n g).scheds = v.scheds := rfl
@[simp] theorem Dev.modLand_strms (v : Dev) (d n : Nat) (g : Land → Land) : (v.modLand d n g).strms = v.strms := rfl
@[simp] theorem Dev.modLand_cores (v : Dev) (d n : Nat) (g : Land → Land) : (v.modLand d n g).cores = v.cores := rfl
@[simp] theorem Dev.modLand_ctrs (v : Dev) (d n : Nat) (g : Land → Land) : (v.modLand d n g).ctrs = v.ctrs := rfl
@[simp] theorem Dev.modLand_bars (v : Dev) (d n : Nat) (g : Land → Land) : (v.modLand d n g).bars = v.bars := rfl
@[simp] theorem Dev.modLand_syn (v : Dev) (d n : Nat) (g : Land → Land) : (v.modLand d n g).syn = v.syn := rfl
@[simp] theorem Dev.modLand_rgn (v : Dev) (d n : Nat) (g : Land → Land) : (v.modLand d n g).rgn = v.rgn := rfl
@[simp] theorem Dev.modLand_rgnStat (v : Dev) (d n : Nat) (g : Land → Land) : (v.modLand d n g).rgnStat = v.rgnStat := rfl
@[simp] theorem Dev.modLand_hbm (v : Dev) (d n : Nat) (g : Land → Land) : (v.modLand d n g).hbm = v.hbm := rfl
@[simp] theorem Dev.modLand_hostMem (v : Dev) (d n : Nat) (g : Land → Land) : (v.modLand d n g).hostMem = v.hostMem := rfl
@[simp] theorem Dev.modLand_hostErr (v : Dev) (d n : Nat) (g : Land → Land) : (v.modLand d n g).hostErr = v.hostErr := rfl
@[simp] theorem Dev.modLand_moult (v : Dev) (d n : Nat) (g : Land → Land) : (v.modLand d n g).moult = v.moult := rfl
@[simp] theorem Dev.modLand_fault (v : Dev) (d n : Nat) (g : Land → Land) : (v.modLand d n g).fault = v.fault := rfl
@[simp] theorem Dev.modLand_ctxSw (v : Dev) (d n : Nat) (g : Land → Land) : (v.modLand d n g).ctxSw = v.ctxSw := rfl
@[simp] theorem Dev.modLand_chip (v : Dev) (d n : Nat) (g : Land → Land) : (v.modLand d n g).chip = v.chip := rfl
@[simp] theorem Dev.modLand_links (v : Dev) (d n : Nat) (g : Land → Land) : (v.modLand d n g).links = v.links := rfl
@[simp] theorem Dev.modLand_pwr (v : Dev) (d n : Nat) (g : Land → Land) : (v.modLand d n g).pwr = v.pwr := rfl
@[simp] theorem Dev.modLand_hif (v : Dev) (d n : Nat) (g : Land → Land) : (v.modLand d n g).hif = v.hif := rfl
@[simp] theorem Dev.modLand_freeCtr (v : Dev) (d n : Nat) (g : Land → Land) : (v.modLand d n g).freeCtr = v.freeCtr := rfl
@[simp] theorem Dev.modLand_out (v : Dev) (d n : Nat) (g : Land → Land) : (v.modLand d n g).out = v.out := rfl
@[simp] theorem Dev.modFt_ftRegs (v : Dev) (g : FabTime → FabTime) : (v.modFt g).ftRegs = v.ftRegs := rfl
@[simp] theorem Dev.modFt_mst (v : Dev) (g : FabTime → FabTime) : (v.modFt g).mst = v.mst := rfl
@[simp] theorem Dev.modFt_scheds (v : Dev) (g : FabTime → FabTime) : (v.modFt g).scheds = v.scheds := rfl
@[simp] theorem Dev.modFt_strms (v : Dev) (g : FabTime → FabTime) : (v.modFt g).strms = v.strms := rfl
@[simp] theorem Dev.modFt_cores (v : Dev) (g : FabTime → FabTime) : (v.modFt g).cores = v.cores := rfl
@[simp] theorem Dev.modFt_ctrs (v : Dev) (g : FabTime → FabTime) : (v.modFt g).ctrs = v.ctrs := rfl
@[simp] theorem Dev.modFt_bars (v : Dev) (g : FabTime → FabTime) : (v.modFt g).bars = v.bars := rfl
@[simp] theorem Dev.modFt_syn (v : Dev) (g : FabTime → FabTime) : (v.modFt g).syn = v.syn := rfl
@[simp] theorem Dev.modFt_rgn (v : Dev) (g : FabTime → FabTime) : (v.modFt g).rgn = v.rgn := rfl
@[simp] theorem Dev.modFt_rgnStat (v : Dev) (g : FabTime → FabTime) : (v.modFt g).rgnStat = v.rgnStat := rfl
@[simp] theorem Dev.modFt_hbm (v : Dev) (g : FabTime → FabTime) : (v.modFt g).hbm = v.hbm := rfl
@[simp] theorem Dev.modFt_hostMem (v : Dev) (g : FabTime → FabTime) : (v.modFt g).hostMem = v.hostMem := rfl
@[simp] theorem Dev.modFt_hostErr (v : Dev) (g : FabTime → FabTime) : (v.modFt g).hostErr = v.hostErr := rfl
@[simp] theorem Dev.modFt_moult (v : Dev) (g : FabTime → FabTime) : (v.modFt g).moult = v.moult := rfl
@[simp] theorem Dev.modFt_fault (v : Dev) (g : FabTime → FabTime) : (v.modFt g).fault = v.fault := rfl
@[simp] theorem Dev.modFt_ctxSw (v : Dev) (g : FabTime → FabTime) : (v.modFt g).ctxSw = v.ctxSw := rfl
@[simp] theorem Dev.modFt_chip (v : Dev) (g : FabTime → FabTime) : (v.modFt g).chip = v.chip := rfl
@[simp] theorem Dev.modFt_fab (v : Dev) (g : FabTime → FabTime) : (v.modFt g).fab = v.fab := rfl
@[simp] theorem Dev.modFt_links (v : Dev) (g : FabTime → FabTime) : (v.modFt g).links = v.links := rfl
@[simp] theorem Dev.modFt_pwr (v : Dev) (g : FabTime → FabTime) : (v.modFt g).pwr = v.pwr := rfl
@[simp] theorem Dev.modFt_hif (v : Dev) (g : FabTime → FabTime) : (v.modFt g).hif = v.hif := rfl
@[simp] theorem Dev.modFt_freeCtr (v : Dev) (g : FabTime → FabTime) : (v.modFt g).freeCtr = v.freeCtr := rfl
@[simp] theorem Dev.modFt_out (v : Dev) (g : FabTime → FabTime) : (v.modFt g).out = v.out := rfl
@[simp] theorem Dev.modMst_ft (v : Dev) (g : Master → Master) : (v.modMst g).ft = v.ft := rfl
@[simp] theorem Dev.modMst_ftRegs (v : Dev) (g : Master → Master) : (v.modMst g).ftRegs = v.ftRegs := rfl
@[simp] theorem Dev.modMst_scheds (v : Dev) (g : Master → Master) : (v.modMst g).scheds = v.scheds := rfl
@[simp] theorem Dev.modMst_strms (v : Dev) (g : Master → Master) : (v.modMst g).strms = v.strms := rfl
@[simp] theorem Dev.modMst_cores (v : Dev) (g : Master → Master) : (v.modMst g).cores = v.cores := rfl
@[simp] theorem Dev.modMst_ctrs (v : Dev) (g : Master → Master) : (v.modMst g).ctrs = v.ctrs := rfl
@[simp] theorem Dev.modMst_bars (v : Dev) (g : Master → Master) : (v.modMst g).bars = v.bars := rfl
@[simp] theorem Dev.modMst_syn (v : Dev) (g : Master → Master) : (v.modMst g).syn = v.syn := rfl
@[simp] theorem Dev.modMst_rgn (v : Dev) (g : Master → Master) : (v.modMst g).rgn = v.rgn := rfl
@[simp] theorem Dev.modMst_rgnStat (v : Dev) (g : Master → Master) : (v.modMst g).rgnStat = v.rgnStat := rfl
@[simp] theorem Dev.modMst_hbm (v : Dev) (g : Master → Master) : (v.modMst g).hbm = v.hbm := rfl
@[simp] theorem Dev.modMst_hostMem (v : Dev) (g : Master → Master) : (v.modMst g).hostMem = v.hostMem := rfl
@[simp] theorem Dev.modMst_hostErr (v : Dev) (g : Master → Master) : (v.modMst g).hostErr = v.hostErr := rfl
@[simp] theorem Dev.modMst_moult (v : Dev) (g : Master → Master) : (v.modMst g).moult = v.moult := rfl
@[simp] theorem Dev.modMst_fault (v : Dev) (g : Master → Master) : (v.modMst g).fault = v.fault := rfl
@[simp] theorem Dev.modMst_ctxSw (v : Dev) (g : Master → Master) : (v.modMst g).ctxSw = v.ctxSw := rfl
@[simp] theorem Dev.modMst_chip (v : Dev) (g : Master → Master) : (v.modMst g).chip = v.chip := rfl
@[simp] theorem Dev.modMst_fab (v : Dev) (g : Master → Master) : (v.modMst g).fab = v.fab := rfl
@[simp] theorem Dev.modMst_links (v : Dev) (g : Master → Master) : (v.modMst g).links = v.links := rfl
@[simp] theorem Dev.modMst_pwr (v : Dev) (g : Master → Master) : (v.modMst g).pwr = v.pwr := rfl
@[simp] theorem Dev.modMst_hif (v : Dev) (g : Master → Master) : (v.modMst g).hif = v.hif := rfl
@[simp] theorem Dev.modMst_freeCtr (v : Dev) (g : Master → Master) : (v.modMst g).freeCtr = v.freeCtr := rfl
@[simp] theorem Dev.modMst_out (v : Dev) (g : Master → Master) : (v.modMst g).out = v.out := rfl
@[simp] theorem Dev.modPwr_ft (v : Dev) (g : Pwr → Pwr) : (v.modPwr g).ft = v.ft := rfl
@[simp] theorem Dev.modPwr_ftRegs (v : Dev) (g : Pwr → Pwr) : (v.modPwr g).ftRegs = v.ftRegs := rfl
@[simp] theorem Dev.modPwr_mst (v : Dev) (g : Pwr → Pwr) : (v.modPwr g).mst = v.mst := rfl
@[simp] theorem Dev.modPwr_scheds (v : Dev) (g : Pwr → Pwr) : (v.modPwr g).scheds = v.scheds := rfl
@[simp] theorem Dev.modPwr_strms (v : Dev) (g : Pwr → Pwr) : (v.modPwr g).strms = v.strms := rfl
@[simp] theorem Dev.modPwr_cores (v : Dev) (g : Pwr → Pwr) : (v.modPwr g).cores = v.cores := rfl
@[simp] theorem Dev.modPwr_ctrs (v : Dev) (g : Pwr → Pwr) : (v.modPwr g).ctrs = v.ctrs := rfl
@[simp] theorem Dev.modPwr_bars (v : Dev) (g : Pwr → Pwr) : (v.modPwr g).bars = v.bars := rfl
@[simp] theorem Dev.modPwr_syn (v : Dev) (g : Pwr → Pwr) : (v.modPwr g).syn = v.syn := rfl
@[simp] theorem Dev.modPwr_rgn (v : Dev) (g : Pwr → Pwr) : (v.modPwr g).rgn = v.rgn := rfl
@[simp] theorem Dev.modPwr_rgnStat (v : Dev) (g : Pwr → Pwr) : (v.modPwr g).rgnStat = v.rgnStat := rfl
@[simp] theorem Dev.modPwr_hbm (v : Dev) (g : Pwr → Pwr) : (v.modPwr g).hbm = v.hbm := rfl
@[simp] theorem Dev.modPwr_hostMem (v : Dev) (g : Pwr → Pwr) : (v.modPwr g).hostMem = v.hostMem := rfl
@[simp] theorem Dev.modPwr_hostErr (v : Dev) (g : Pwr → Pwr) : (v.modPwr g).hostErr = v.hostErr := rfl
@[simp] theorem Dev.modPwr_moult (v : Dev) (g : Pwr → Pwr) : (v.modPwr g).moult = v.moult := rfl
@[simp] theorem Dev.modPwr_fault (v : Dev) (g : Pwr → Pwr) : (v.modPwr g).fault = v.fault := rfl
@[simp] theorem Dev.modPwr_ctxSw (v : Dev) (g : Pwr → Pwr) : (v.modPwr g).ctxSw = v.ctxSw := rfl
@[simp] theorem Dev.modPwr_chip (v : Dev) (g : Pwr → Pwr) : (v.modPwr g).chip = v.chip := rfl
@[simp] theorem Dev.modPwr_fab (v : Dev) (g : Pwr → Pwr) : (v.modPwr g).fab = v.fab := rfl
@[simp] theorem Dev.modPwr_links (v : Dev) (g : Pwr → Pwr) : (v.modPwr g).links = v.links := rfl
@[simp] theorem Dev.modPwr_hif (v : Dev) (g : Pwr → Pwr) : (v.modPwr g).hif = v.hif := rfl
@[simp] theorem Dev.modPwr_freeCtr (v : Dev) (g : Pwr → Pwr) : (v.modPwr g).freeCtr = v.freeCtr := rfl
@[simp] theorem Dev.modPwr_out (v : Dev) (g : Pwr → Pwr) : (v.modPwr g).out = v.out := rfl
@[simp] theorem Dev.modMoult_ft (v : Dev) (g : Moult → Moult) : (v.modMoult g).ft = v.ft := rfl
@[simp] theorem Dev.modMoult_ftRegs (v : Dev) (g : Moult → Moult) : (v.modMoult g).ftRegs = v.ftRegs := rfl
@[simp] theorem Dev.modMoult_mst (v : Dev) (g : Moult → Moult) : (v.modMoult g).mst = v.mst := rfl
@[simp] theorem Dev.modMoult_scheds (v : Dev) (g : Moult → Moult) : (v.modMoult g).scheds = v.scheds := rfl
@[simp] theorem Dev.modMoult_strms (v : Dev) (g : Moult → Moult) : (v.modMoult g).strms = v.strms := rfl
@[simp] theorem Dev.modMoult_cores (v : Dev) (g : Moult → Moult) : (v.modMoult g).cores = v.cores := rfl
@[simp] theorem Dev.modMoult_ctrs (v : Dev) (g : Moult → Moult) : (v.modMoult g).ctrs = v.ctrs := rfl
@[simp] theorem Dev.modMoult_bars (v : Dev) (g : Moult → Moult) : (v.modMoult g).bars = v.bars := rfl
@[simp] theorem Dev.modMoult_syn (v : Dev) (g : Moult → Moult) : (v.modMoult g).syn = v.syn := rfl
@[simp] theorem Dev.modMoult_rgn (v : Dev) (g : Moult → Moult) : (v.modMoult g).rgn = v.rgn := rfl
@[simp] theorem Dev.modMoult_rgnStat (v : Dev) (g : Moult → Moult) : (v.modMoult g).rgnStat = v.rgnStat := rfl
@[simp] theorem Dev.modMoult_hbm (v : Dev) (g : Moult → Moult) : (v.modMoult g).hbm = v.hbm := rfl
@[simp] theorem Dev.modMoult_hostMem (v : Dev) (g : Moult → Moult) : (v.modMoult g).hostMem = v.hostMem := rfl
@[simp] theorem Dev.modMoult_hostErr (v : Dev) (g : Moult → Moult) : (v.modMoult g).hostErr = v.hostErr := rfl
@[simp] theorem Dev.modMoult_fault (v : Dev) (g : Moult → Moult) : (v.modMoult g).fault = v.fault := rfl
@[simp] theorem Dev.modMoult_ctxSw (v : Dev) (g : Moult → Moult) : (v.modMoult g).ctxSw = v.ctxSw := rfl
@[simp] theorem Dev.modMoult_chip (v : Dev) (g : Moult → Moult) : (v.modMoult g).chip = v.chip := rfl
@[simp] theorem Dev.modMoult_fab (v : Dev) (g : Moult → Moult) : (v.modMoult g).fab = v.fab := rfl
@[simp] theorem Dev.modMoult_links (v : Dev) (g : Moult → Moult) : (v.modMoult g).links = v.links := rfl
@[simp] theorem Dev.modMoult_pwr (v : Dev) (g : Moult → Moult) : (v.modMoult g).pwr = v.pwr := rfl
@[simp] theorem Dev.modMoult_hif (v : Dev) (g : Moult → Moult) : (v.modMoult g).hif = v.hif := rfl
@[simp] theorem Dev.modMoult_freeCtr (v : Dev) (g : Moult → Moult) : (v.modMoult g).freeCtr = v.freeCtr := rfl
@[simp] theorem Dev.modMoult_out (v : Dev) (g : Moult → Moult) : (v.modMoult g).out = v.out := rfl
@[simp] theorem Dev.modHeld_ft (v : Dev) (h : List HeldWrite → List HeldWrite) (p : List Nat → List Nat) : (v.modHeld h p).ft = v.ft := rfl
@[simp] theorem Dev.modHeld_ftRegs (v : Dev) (h : List HeldWrite → List HeldWrite) (p : List Nat → List Nat) : (v.modHeld h p).ftRegs = v.ftRegs := rfl
@[simp] theorem Dev.modHeld_mst (v : Dev) (h : List HeldWrite → List HeldWrite) (p : List Nat → List Nat) : (v.modHeld h p).mst = v.mst := rfl
@[simp] theorem Dev.modHeld_scheds (v : Dev) (h : List HeldWrite → List HeldWrite) (p : List Nat → List Nat) : (v.modHeld h p).scheds = v.scheds := rfl
@[simp] theorem Dev.modHeld_strms (v : Dev) (h : List HeldWrite → List HeldWrite) (p : List Nat → List Nat) : (v.modHeld h p).strms = v.strms := rfl
@[simp] theorem Dev.modHeld_cores (v : Dev) (h : List HeldWrite → List HeldWrite) (p : List Nat → List Nat) : (v.modHeld h p).cores = v.cores := rfl
@[simp] theorem Dev.modHeld_ctrs (v : Dev) (h : List HeldWrite → List HeldWrite) (p : List Nat → List Nat) : (v.modHeld h p).ctrs = v.ctrs := rfl
@[simp] theorem Dev.modHeld_bars (v : Dev) (h : List HeldWrite → List HeldWrite) (p : List Nat → List Nat) : (v.modHeld h p).bars = v.bars := rfl
@[simp] theorem Dev.modHeld_syn (v : Dev) (h : List HeldWrite → List HeldWrite) (p : List Nat → List Nat) : (v.modHeld h p).syn = v.syn := rfl
@[simp] theorem Dev.modHeld_rgn (v : Dev) (h : List HeldWrite → List HeldWrite) (p : List Nat → List Nat) : (v.modHeld h p).rgn = v.rgn := rfl
@[simp] theorem Dev.modHeld_rgnStat (v : Dev) (h : List HeldWrite → List HeldWrite) (p : List Nat → List Nat) : (v.modHeld h p).rgnStat = v.rgnStat := rfl
@[simp] theorem Dev.modHeld_hbm (v : Dev) (h : List HeldWrite → List HeldWrite) (p : List Nat → List Nat) : (v.modHeld h p).hbm = v.hbm := rfl
@[simp] theorem Dev.modHeld_hostMem (v : Dev) (h : List HeldWrite → List HeldWrite) (p : List Nat → List Nat) : (v.modHeld h p).hostMem = v.hostMem := rfl
@[simp] theorem Dev.modHeld_hostErr (v : Dev) (h : List HeldWrite → List HeldWrite) (p : List Nat → List Nat) : (v.modHeld h p).hostErr = v.hostErr := rfl
@[simp] theorem Dev.modHeld_fault (v : Dev) (h : List HeldWrite → List HeldWrite) (p : List Nat → List Nat) : (v.modHeld h p).fault = v.fault := rfl
@[simp] theorem Dev.modHeld_ctxSw (v : Dev) (h : List HeldWrite → List HeldWrite) (p : List Nat → List Nat) : (v.modHeld h p).ctxSw = v.ctxSw := rfl
@[simp] theorem Dev.modHeld_chip (v : Dev) (h : List HeldWrite → List HeldWrite) (p : List Nat → List Nat) : (v.modHeld h p).chip = v.chip := rfl
@[simp] theorem Dev.modHeld_fab (v : Dev) (h : List HeldWrite → List HeldWrite) (p : List Nat → List Nat) : (v.modHeld h p).fab = v.fab := rfl
@[simp] theorem Dev.modHeld_links (v : Dev) (h : List HeldWrite → List HeldWrite) (p : List Nat → List Nat) : (v.modHeld h p).links = v.links := rfl
@[simp] theorem Dev.modHeld_pwr (v : Dev) (h : List HeldWrite → List HeldWrite) (p : List Nat → List Nat) : (v.modHeld h p).pwr = v.pwr := rfl
@[simp] theorem Dev.modHeld_hif (v : Dev) (h : List HeldWrite → List HeldWrite) (p : List Nat → List Nat) : (v.modHeld h p).hif = v.hif := rfl
@[simp] theorem Dev.modHeld_freeCtr (v : Dev) (h : List HeldWrite → List HeldWrite) (p : List Nat → List Nat) : (v.modHeld h p).freeCtr = v.freeCtr := rfl
@[simp] theorem Dev.modHeld_out (v : Dev) (h : List HeldWrite → List HeldWrite) (p : List Nat → List Nat) : (v.modHeld h p).out = v.out := rfl
@[simp] theorem Dev.modHbm_ft (v : Dev) (g : Hbm → Hbm) : (v.modHbm g).ft = v.ft := rfl
@[simp] theorem Dev.modHbm_ftRegs (v : Dev) (g : Hbm → Hbm) : (v.modHbm g).ftRegs = v.ftRegs := rfl
@[simp] theorem Dev.modHbm_mst (v : Dev) (g : Hbm → Hbm) : (v.modHbm g).mst = v.mst := rfl
@[simp] theorem Dev.modHbm_scheds (v : Dev) (g : Hbm → Hbm) : (v.modHbm g).scheds = v.scheds := rfl
@[simp] theorem Dev.modHbm_strms (v : Dev) (g : Hbm → Hbm) : (v.modHbm g).strms = v.strms := rfl
@[simp] theorem Dev.modHbm_cores (v : Dev) (g : Hbm → Hbm) : (v.modHbm g).cores = v.cores := rfl
@[simp] theorem Dev.modHbm_ctrs (v : Dev) (g : Hbm → Hbm) : (v.modHbm g).ctrs = v.ctrs := rfl
@[simp] theorem Dev.modHbm_bars (v : Dev) (g : Hbm → Hbm) : (v.modHbm g).bars = v.bars := rfl
@[simp] theorem Dev.modHbm_syn (v : Dev) (g : Hbm → Hbm) : (v.modHbm g).syn = v.syn := rfl
@[simp] theorem Dev.modHbm_rgn (v : Dev) (g : Hbm → Hbm) : (v.modHbm g).rgn = v.rgn := rfl
@[simp] theorem Dev.modHbm_rgnStat (v : Dev) (g : Hbm → Hbm) : (v.modHbm g).rgnStat = v.rgnStat := rfl
@[simp] theorem Dev.modHbm_hostMem (v : Dev) (g : Hbm → Hbm) : (v.modHbm g).hostMem = v.hostMem := rfl
@[simp] theorem Dev.modHbm_hostErr (v : Dev) (g : Hbm → Hbm) : (v.modHbm g).hostErr = v.hostErr := rfl
@[simp] theorem Dev.modHbm_moult (v : Dev) (g : Hbm → Hbm) : (v.modHbm g).moult = v.moult := rfl
@[simp] theorem Dev.modHbm_fault (v : Dev) (g : Hbm → Hbm) : (v.modHbm g).fault = v.fault := rfl
@[simp] theorem Dev.modHbm_ctxSw (v : Dev) (g : Hbm → Hbm) : (v.modHbm g).ctxSw = v.ctxSw := rfl
@[simp] theorem Dev.modHbm_chip (v : Dev) (g : Hbm → Hbm) : (v.modHbm g).chip = v.chip := rfl
@[simp] theorem Dev.modHbm_fab (v : Dev) (g : Hbm → Hbm) : (v.modHbm g).fab = v.fab := rfl
@[simp] theorem Dev.modHbm_links (v : Dev) (g : Hbm → Hbm) : (v.modHbm g).links = v.links := rfl
@[simp] theorem Dev.modHbm_pwr (v : Dev) (g : Hbm → Hbm) : (v.modHbm g).pwr = v.pwr := rfl
@[simp] theorem Dev.modHbm_hif (v : Dev) (g : Hbm → Hbm) : (v.modHbm g).hif = v.hif := rfl
@[simp] theorem Dev.modHbm_freeCtr (v : Dev) (g : Hbm → Hbm) : (v.modHbm g).freeCtr = v.freeCtr := rfl
@[simp] theorem Dev.modHbm_out (v : Dev) (g : Hbm → Hbm) : (v.modHbm g).out = v.out := rfl
@[simp] theorem Dev.send_ft (v : Dev) (m : OutMsg) : (v.send m).ft = v.ft := rfl
@[simp] theorem Dev.send_ftRegs (v : Dev) (m : OutMsg) : (v.send m).ftRegs = v.ftRegs := rfl
@[simp] theorem Dev.send_mst (v : Dev) (m : OutMsg) : (v.send m).mst = v.mst := rfl
@[simp] theorem Dev.send_scheds (v : Dev) (m : OutMsg) : (v.send m).scheds = v.scheds := rfl
@[simp] theorem Dev.send_strms (v : Dev) (m : OutMsg) : (v.send m).strms = v.strms := rfl
@[simp] theorem Dev.send_cores (v : Dev) (m : OutMsg) : (v.send m).cores = v.cores := rfl
@[simp] theorem Dev.send_ctrs (v : Dev) (m : OutMsg) : (v.send m).ctrs = v.ctrs := rfl
@[simp] theorem Dev.send_bars (v : Dev) (m : OutMsg) : (v.send m).bars = v.bars := rfl
@[simp] theorem Dev.send_syn (v : Dev) (m : OutMsg) : (v.send m).syn = v.syn := rfl
@[simp] theorem Dev.send_rgn (v : Dev) (m : OutMsg) : (v.send m).rgn = v.rgn := rfl
@[simp] theorem Dev.send_rgnStat (v : Dev) (m : OutMsg) : (v.send m).rgnStat = v.rgnStat := rfl
@[simp] theorem Dev.send_hbm (v : Dev) (m : OutMsg) : (v.send m).hbm = v.hbm := rfl
@[simp] theorem Dev.send_hostMem (v : Dev) (m : OutMsg) : (v.send m).hostMem = v.hostMem := rfl
@[simp] theorem Dev.send_hostErr (v : Dev) (m : OutMsg) : (v.send m).hostErr = v.hostErr := rfl
@[simp] theorem Dev.send_moult (v : Dev) (m : OutMsg) : (v.send m).moult = v.moult := rfl
@[simp] theorem Dev.send_fault (v : Dev) (m : OutMsg) : (v.send m).fault = v.fault := rfl
@[simp] theorem Dev.send_ctxSw (v : Dev) (m : OutMsg) : (v.send m).ctxSw = v.ctxSw := rfl
@[simp] theorem Dev.send_chip (v : Dev) (m : OutMsg) : (v.send m).chip = v.chip := rfl
@[simp] theorem Dev.send_fab (v : Dev) (m : OutMsg) : (v.send m).fab = v.fab := rfl
@[simp] theorem Dev.send_links (v : Dev) (m : OutMsg) : (v.send m).links = v.links := rfl
@[simp] theorem Dev.send_pwr (v : Dev) (m : OutMsg) : (v.send m).pwr = v.pwr := rfl
@[simp] theorem Dev.send_hif (v : Dev) (m : OutMsg) : (v.send m).hif = v.hif := rfl
@[simp] theorem Dev.send_freeCtr (v : Dev) (m : OutMsg) : (v.send m).freeCtr = v.freeCtr := rfl
@[simp] theorem Dev.skipFree_ft (v : Dev) (n : Nat) : (v.skipFree n).ft = v.ft := rfl
@[simp] theorem Dev.skipFree_ftRegs (v : Dev) (n : Nat) : (v.skipFree n).ftRegs = v.ftRegs := rfl
@[simp] theorem Dev.skipFree_mst (v : Dev) (n : Nat) : (v.skipFree n).mst = v.mst := rfl
@[simp] theorem Dev.skipFree_scheds (v : Dev) (n : Nat) : (v.skipFree n).scheds = v.scheds := rfl
@[simp] theorem Dev.skipFree_strms (v : Dev) (n : Nat) : (v.skipFree n).strms = v.strms := rfl
@[simp] theorem Dev.skipFree_cores (v : Dev) (n : Nat) : (v.skipFree n).cores = v.cores := rfl
@[simp] theorem Dev.skipFree_ctrs (v : Dev) (n : Nat) : (v.skipFree n).ctrs = v.ctrs := rfl
@[simp] theorem Dev.skipFree_bars (v : Dev) (n : Nat) : (v.skipFree n).bars = v.bars := rfl
@[simp] theorem Dev.skipFree_syn (v : Dev) (n : Nat) : (v.skipFree n).syn = v.syn := rfl
@[simp] theorem Dev.skipFree_rgn (v : Dev) (n : Nat) : (v.skipFree n).rgn = v.rgn := rfl
@[simp] theorem Dev.skipFree_rgnStat (v : Dev) (n : Nat) : (v.skipFree n).rgnStat = v.rgnStat := rfl
@[simp] theorem Dev.skipFree_hbm (v : Dev) (n : Nat) : (v.skipFree n).hbm = v.hbm := rfl
@[simp] theorem Dev.skipFree_hostMem (v : Dev) (n : Nat) : (v.skipFree n).hostMem = v.hostMem := rfl
@[simp] theorem Dev.skipFree_hostErr (v : Dev) (n : Nat) : (v.skipFree n).hostErr = v.hostErr := rfl
@[simp] theorem Dev.skipFree_moult (v : Dev) (n : Nat) : (v.skipFree n).moult = v.moult := rfl
@[simp] theorem Dev.skipFree_fault (v : Dev) (n : Nat) : (v.skipFree n).fault = v.fault := rfl
@[simp] theorem Dev.skipFree_ctxSw (v : Dev) (n : Nat) : (v.skipFree n).ctxSw = v.ctxSw := rfl
@[simp] theorem Dev.skipFree_chip (v : Dev) (n : Nat) : (v.skipFree n).chip = v.chip := rfl
@[simp] theorem Dev.skipFree_fab (v : Dev) (n : Nat) : (v.skipFree n).fab = v.fab := rfl
@[simp] theorem Dev.skipFree_links (v : Dev) (n : Nat) : (v.skipFree n).links = v.links := rfl
@[simp] theorem Dev.skipFree_pwr (v : Dev) (n : Nat) : (v.skipFree n).pwr = v.pwr := rfl
@[simp] theorem Dev.skipFree_hif (v : Dev) (n : Nat) : (v.skipFree n).hif = v.hif := rfl
@[simp] theorem Dev.skipFree_out (v : Dev) (n : Nat) : (v.skipFree n).out = v.out := rfl
@[simp] theorem Dev.ftReg_modFtReg_same (v : Dev) (k : Nat) (g : FtRegs → FtRegs) : (v.modFtReg k g).ftReg k = g (v.ftReg k) := by
  simp [Dev.ftReg, Dev.modFtReg]
theorem Dev.ftReg_modFtReg_ne (v : Dev) (k : Nat) (g : FtRegs → FtRegs) {j : Nat} (h : j ≠ k) : (v.modFtReg k g).ftReg j = v.ftReg j := by
  simp [Dev.ftReg, Dev.modFtReg, tget_tmod_ne _ _ _ h]
@[simp] theorem Dev.sched_modSched_same (v : Dev) (k : Nat) (g : Sched → Sched) : (v.modSched k g).sched k = g (v.sched k) := by
  simp [Dev.sched, Dev.modSched]
theorem Dev.sched_modSched_ne (v : Dev) (k : Nat) (g : Sched → Sched) {j : Nat} (h : j ≠ k) : (v.modSched k g).sched j = v.sched j := by
  simp [Dev.sched, Dev.modSched, tget_tmod_ne _ _ _ h]
@[simp] theorem Dev.strm_modStrm_same (v : Dev) (k : Nat) (g : Strm → Strm) : (v.modStrm k g).strm k = g (v.strm k) := by
  simp [Dev.strm, Dev.modStrm]
theorem Dev.strm_modStrm_ne (v : Dev) (k : Nat) (g : Strm → Strm) {j : Nat} (h : j ≠ k) : (v.modStrm k g).strm j = v.strm j := by
  simp [Dev.strm, Dev.modStrm, tget_tmod_ne _ _ _ h]
@[simp] theorem Dev.ctr_modCtr_same (v : Dev) (k : Nat) (g : Ctr → Ctr) : (v.modCtr k g).ctr k = g (v.ctr k) := by
  simp [Dev.ctr, Dev.modCtr]
theorem Dev.ctr_modCtr_ne (v : Dev) (k : Nat) (g : Ctr → Ctr) {j : Nat} (h : j ≠ k) : (v.modCtr k g).ctr j = v.ctr j := by
  simp [Dev.ctr, Dev.modCtr, tget_tmod_ne _ _ _ h]
@[simp] theorem Dev.bar_modBar_same (v : Dev) (k : Nat) (g : Bar → Bar) : (v.modBar k g).bar k = g (v.bar k) := by
  simp [Dev.bar, Dev.modBar]
theorem Dev.bar_modBar_ne (v : Dev) (k : Nat) (g : Bar → Bar) {j : Nat} (h : j ≠ k) : (v.modBar k g).bar j = v.bar j := by
  simp [Dev.bar, Dev.modBar, tget_tmod_ne _ _ _ h]
@[simp] theorem Dev.synSt_modSynSt_same (v : Dev) (k : Nat) (g : SynStat → SynStat) : (v.modSynSt k g).synSt k = g (v.synSt k) := by
  simp [Dev.synSt, Dev.modSynSt]
theorem Dev.synSt_modSynSt_ne (v : Dev) (k : Nat) (g : SynStat → SynStat) {j : Nat} (h : j ≠ k) : (v.modSynSt k g).synSt j = v.synSt j := by
  simp [Dev.synSt, Dev.modSynSt, tget_tmod_ne _ _ _ h]
@[simp] theorem Dev.rgnE_modRgnE_same (v : Dev) (k : Nat) (g : Rgn → Rgn) : (v.modRgnE k g).rgnE k = g (v.rgnE k) := by
  simp [Dev.rgnE, Dev.modRgnE]
theorem Dev.rgnE_modRgnE_ne (v : Dev) (k : Nat) (g : Rgn → Rgn) {j : Nat} (h : j ≠ k) : (v.modRgnE k g).rgnE j = v.rgnE j := by
  simp [Dev.rgnE, Dev.modRgnE, tget_tmod_ne _ _ _ h]
@[simp] theorem Dev.rgnSt_modRgnSt_same (v : Dev) (k : Nat) (g : RgnStat → RgnStat) : (v.modRgnSt k g).rgnSt k = g (v.rgnSt k) := by
  simp [Dev.rgnSt, Dev.modRgnSt]
theorem Dev.rgnSt_modRgnSt_ne (v : Dev) (k : Nat) (g : RgnStat → RgnStat) {j : Nat} (h : j ≠ k) : (v.modRgnSt k g).rgnSt j = v.rgnSt j := by
  simp [Dev.rgnSt, Dev.modRgnSt, tget_tmod_ne _ _ _ h]
@[simp] theorem Dev.flt_modFlt_same (v : Dev) (k : Nat) (g : FaultRec → FaultRec) : (v.modFlt k g).flt k = g (v.flt k) := by
  simp [Dev.flt, Dev.modFlt]
theorem Dev.flt_modFlt_ne (v : Dev) (k : Nat) (g : FaultRec → FaultRec) {j : Nat} (h : j ≠ k) : (v.modFlt k g).flt j = v.flt j := by
  simp [Dev.flt, Dev.modFlt, tget_tmod_ne _ _ _ h]
@[simp] theorem Dev.ctxSwD_modCtxSwD_same (v : Dev) (k : Nat) (g : CtxSw → CtxSw) : (v.modCtxSwD k g).ctxSwD k = g (v.ctxSwD k) := by
  simp [Dev.ctxSwD, Dev.modCtxSwD]
theorem Dev.ctxSwD_modCtxSwD_ne (v : Dev) (k : Nat) (g : CtxSw → CtxSw) {j : Nat} (h : j ≠ k) : (v.modCtxSwD k g).ctxSwD j = v.ctxSwD j := by
  simp [Dev.ctxSwD, Dev.modCtxSwD, tget_tmod_ne _ _ _ h]
@[simp] theorem Dev.fabD_modFabD_same (v : Dev) (k : Nat) (g : Fab → Fab) : (v.modFabD k g).fabD k = g (v.fabD k) := by
  simp [Dev.fabD, Dev.modFabD]
theorem Dev.fabD_modFabD_ne (v : Dev) (k : Nat) (g : Fab → Fab) {j : Nat} (h : j ≠ k) : (v.modFabD k g).fabD j = v.fabD j := by
  simp [Dev.fabD, Dev.modFabD, tget_tmod_ne _ _ _ h]
@[simp] theorem Dev.linkN_modLinkN_same (v : Dev) (k : Nat) (g : Link → Link) : (v.modLinkN k g).linkN k = g (v.linkN k) := by
  simp [Dev.linkN, Dev.modLinkN]
theorem Dev.linkN_modLinkN_ne (v : Dev) (k : Nat) (g : Link → Link) {j : Nat} (h : j ≠ k) : (v.modLinkN k g).linkN j = v.linkN j := by
  simp [Dev.linkN, Dev.modLinkN, tget_tmod_ne _ _ _ h]
@[simp] theorem Dev.hifD_modHifD_same (v : Dev) (k : Nat) (g : Hif → Hif) : (v.modHifD k g).hifD k = g (v.hifD k) := by
  simp [Dev.hifD, Dev.modHifD]
theorem Dev.hifD_modHifD_ne (v : Dev) (k : Nat) (g : Hif → Hif) {j : Nat} (h : j ≠ k) : (v.modHifD k g).hifD j = v.hifD j := by
  simp [Dev.hifD, Dev.modHifD, tget_tmod_ne _ _ _ h]
@[simp] theorem Dev.chan_modChan_same (v : Dev) (k : Nat) (g : Chan → Chan) : (v.modChan k g).chan k = g (v.chan k) := by
  simp [Dev.chan, Dev.modChan]
theorem Dev.chan_modChan_ne (v : Dev) (k : Nat) (g : Chan → Chan) {j : Nat} (h : j ≠ k) : (v.modChan k g).chan j = v.chan j := by
  simp [Dev.chan, Dev.modChan, tget_tmod_ne _ _ _ h]
@[simp] theorem Dev.stk_modStk_same (v : Dev) (k : Nat) (g : Stack → Stack) : (v.modStk k g).stk k = g (v.stk k) := by
  simp [Dev.stk, Dev.modStk]
theorem Dev.stk_modStk_ne (v : Dev) (k : Nat) (g : Stack → Stack) {j : Nat} (h : j ≠ k) : (v.modStk k g).stk j = v.stk j := by
  simp [Dev.stk, Dev.modStk, tget_tmod_ne _ _ _ h]
@[simp] theorem Dev.modFt_ft (v : Dev) (g : FabTime → FabTime) : (v.modFt g).ft = g v.ft := rfl
@[simp] theorem Dev.modMst_mst (v : Dev) (g : Master → Master) : (v.modMst g).mst = g v.mst := rfl
@[simp] theorem Dev.modPwr_pwr (v : Dev) (g : Pwr → Pwr) : (v.modPwr g).pwr = g v.pwr := rfl
@[simp] theorem Dev.modMoult_moult (v : Dev) (g : Moult → Moult) : (v.modMoult g).moult = g v.moult := rfl
@[simp] theorem Dev.modHbm_hbm (v : Dev) (g : Hbm → Hbm) : (v.modHbm g).hbm = g v.hbm := rfl
@[simp] theorem Dev.send_out (v : Dev) (m : OutMsg) : (v.send m).out = v.out ++ [m] := rfl
@[simp] theorem Ctx.reg_zero (x : Ctx) : x.reg 0 = 0#64 := rfl
@[simp] theorem Ctx.setReg_zero (x : Ctx) (w : W64) : x.setReg 0 w = x := rfl

end Sys2Proof.Machine
end

