-- ==== Sys2Proof/Laws/Vector.lean ====
section
/-! SUPPORT. What each operation of Machine/Vector may change. -/

namespace Sys2Proof.Machine

theorem Core.spadWrite_within (k : Core) (a : Nat) (bs : List Byte) : Core.Within [.spads] k (k.spadWrite a bs) :=
  ⟨fun p hp => by cases p <;> first | exact absurd (by decide) hp | simp [Core.same, Core.spadWrite], fun h => mwrite_wf _ _ h⟩
theorem Core.putRow_within (k : Core) (x : VOpd) (acc : Bool) (f r : Nat) (cs : List Nat) : Core.Within [.spads, .accs] k (k.putRow x acc f r cs) := by
  unfold Core.putRow
  split
  · exact Core.Within.step (Core.accCycle_within _ _ _ _) (by decide) (Core.Within.refl _ _)
  · split
    · exact Core.Within.refl _ _
    · exact Core.Within.step (Core.spadWrite_within _ _ _) (by decide) (Core.Within.refl _ _)
theorem Core.putBits_within (k : Core) (a w : Nat) (cs : List Nat) : Core.Within [.spads] k (k.putBits a w cs) := Core.spadWrite_within _ _ _
theorem DisOps.put_within (g : DisOps) (p : DisPlan) (k : Core) : Core.Within [.spads] k (g.put p k) := by
  unfold DisOps.put
  dsimp only
  apply Core.Within.foldl (fun q _ => Core.putBits_within q _ _ _)
  apply Core.Within.step (Core.putBits_within _ _ _ _) (by decide)
  apply Core.Within.step (Core.putBits_within _ _ _ _) (by decide)
  split
  · exact Core.Within.refl _ _
  · exact Core.Within.foldl (fun q _ => Core.spadWrite_within q _ _) (Core.Within.refl _ _)
theorem Dev.vRows_within {F : List Part} {u₀ : Dev} {v : Dev} {c : Nat} {bad : Core → Nat → Option (Bool × Nat)} {act : Dev → Nat → Dev × Stats}
    {rs : List Nat} {st : Stats} (h_act : ∀ w r, Dev.Within F w (act w r).1) (h : Dev.Within F u₀ v) : Dev.Within F u₀ (Dev.vRows v c bad act rs st).1 := by
  induction rs generalizing v st with
  | nil => exact h
  | cons r rs ih =>
    unfold Dev.vRows
    dsimp only
    split
    · exact h
    · exact ih (h.trans (h_act v r))
theorem Dev.ewRow_within (v : Dev) (c : Nat) (o : VxOps) (imm : Num) (r : Nat) : Dev.Within [.spads, .accs] v (Dev.ewRow v c o imm r).1 := by
  unfold Dev.ewRow
  try dsimp only
  repeat' first
    | with_reducible exact Dev.Within.refl _ _
    | with_reducible assumption
    | with_reducible apply Dev.Within.core
    | (with_reducible apply Dev.Within.ite)
    | (with_reducible apply Dev.Within.iteFst <;> try dsimp only)
    | (with_reducible apply Dev.Within.iteSnd <;> try dsimp only)
    | (intro _; try dsimp only)
    | (with_reducible apply Core.Within.step (Core.putRow_within _ _ _ _ _ _)); · decide
    | (with_reducible apply Core.Within.step (Core.spadWrite_within _ _ _)); · decide
    | (with_reducible apply Core.Within.step (DisOps.put_within _ _ _)); · decide
    | with_reducible exact Core.Within.refl _ _
    | exact ⟨fun p hp => by cases p <;> first | exact absurd (by decide) hp | simp [Core.same], fun h => by first | exact h | exact mwrite_wf _ _ h | exact mclear_wf _ _ h | exact filter_wfFrom _ _ h | rfl⟩
    | (with_reducible apply Dev.Within.ofSnd; · with_reducible assumption)
    | (with_reducible apply Dev.Within.ofThird; · with_reducible assumption)
    | (with_reducible apply Dev.Within.ofFst; · with_reducible assumption)
    | (split <;> try dsimp only)
theorem Dev.redRow_within (v : Dev) (c : Nat) (o : VxOps) (r : Nat) : Dev.Within [.spads, .accs] v (Dev.redRow v c o r).1 := by
  unfold Dev.redRow
  try dsimp only
  repeat' first
    | with_reducible exact Dev.Within.refl _ _
    | with_reducible assumption
    | with_reducible apply Dev.Within.core
    | (with_reducible apply Dev.Within.ite)
    | (with_reducible apply Dev.Within.iteFst <;> try dsimp only)
    | (with_reducible apply Dev.Within.iteSnd <;> try dsimp only)
    | (intro _; try dsimp only)
    | (with_reducible apply Core.Within.step (Core.putRow_within _ _ _ _ _ _)); · decide
    | (with_reducible apply Core.Within.step (Core.spadWrite_within _ _ _)); · decide
    | (with_reducible apply Core.Within.step (DisOps.put_within _ _ _)); · decide
    | with_reducible exact Core.Within.refl _ _
    | exact ⟨fun p hp => by cases p <;> first | exact absurd (by decide) hp | simp [Core.same], fun h => by first | exact h | exact mwrite_wf _ _ h | exact mclear_wf _ _ h | exact filter_wfFrom _ _ h | rfl⟩
    | (with_reducible apply Dev.Within.ofSnd; · with_reducible assumption)
    | (with_reducible apply Dev.Within.ofThird; · with_reducible assumption)
    | (with_reducible apply Dev.Within.ofFst; · with_reducible assumption)
    | (split <;> try dsimp only)
theorem Dev.rowexpRow_within (v : Dev) (c : Nat) (o : VxOps) (r : Nat) : Dev.Within [.spads, .accs] v (Dev.rowexpRow v c o r).1 := by
  unfold Dev.rowexpRow
  try dsimp only
  repeat' first
    | with_reducible exact Dev.Within.refl _ _
    | with_reducible assumption
    | with_reducible apply Dev.Within.core
    | (with_reducible apply Dev.Within.ite)
    | (with_reducible apply Dev.Within.iteFst <;> try dsimp only)
    | (with_reducible apply Dev.Within.iteSnd <;> try dsimp only)
    | with_reducible apply Dev.Within.foldlFst
    | with_reducible apply Dev.Within.foldlSnd
    | with_reducible apply Dev.Within.foldl
    | (intro _; try dsimp only)
    | (with_reducible apply Core.Within.step (Core.putRow_within _ _ _ _ _ _)); · decide
    | (with_reducible apply Core.Within.step (Core.spadWrite_within _ _ _)); · decide
    | (with_reducible apply Core.Within.step (DisOps.put_within _ _ _)); · decide
    | with_reducible exact Core.Within.refl _ _
    | exact ⟨fun p hp => by cases p <;> first | exact absurd (by decide) hp | simp [Core.same], fun h => by first | exact h | exact mwrite_wf _ _ h | exact mclear_wf _ _ h | exact filter_wfFrom _ _ h | rfl⟩
    | (with_reducible apply Dev.Within.ofSnd; · with_reducible assumption)
    | (with_reducible apply Dev.Within.ofThird; · with_reducible assumption)
    | (with_reducible apply Dev.Within.ofFst; · with_reducible assumption)
    | (split <;> try dsimp only)
theorem Dev.topkRow_within (v : Dev) (c : Nat) (o : VxOps) (r : Nat) : Dev.Within [.spads, .accs] v (Dev.topkRow v c o r).1 := by
  unfold Dev.topkRow
  try dsimp only
  repeat' first
    | with_reducible exact Dev.Within.refl _ _
    | with_reducible assumption
    | with_reducible apply Dev.Within.core
    | (with_reducible apply Dev.Within.ite)
    | (with_reducible apply Dev.Within.iteFst <;> try dsimp only)
    | (with_reducible apply Dev.Within.iteSnd <;> try dsimp only)
    | (intro _; try dsimp only)
    | (with_reducible apply Core.Within.step (Core.putRow_within _ _ _ _ _ _)); · decide
    | (with_reducible apply Core.Within.step (Core.spadWrite_within _ _ _)); · decide
    | (with_reducible apply Core.Within.step (DisOps.put_within _ _ _)); · decide
    | with_reducible exact Core.Within.refl _ _
    | exact ⟨fun p hp => by cases p <;> first | exact absurd (by decide) hp | simp [Core.same], fun h => by first | exact h | exact mwrite_wf _ _ h | exact mclear_wf _ _ h | exact filter_wfFrom _ _ h | rfl⟩
    | (with_reducible apply Dev.Within.ofSnd; · with_reducible assumption)
    | (with_reducible apply Dev.Within.ofThird; · with_reducible assumption)
    | (with_reducible apply Dev.Within.ofFst; · with_reducible assumption)
    | (split <;> try dsimp only)
theorem Dev.rowDraws_within (v : Dev) (c : Nat) (n : Nat) : Dev.Within [.coreGens, .free] v (Dev.rowDraws v c n).2 := by
  unfold Dev.rowDraws
  try dsimp only
  repeat' first
    | with_reducible exact Dev.Within.refl _ _
    | with_reducible assumption
    | (with_reducible apply Dev.Within.step (Dev.coreUse_within _ _ _)); · decide
    | (with_reducible apply Dev.Within.ite)
    | (with_reducible apply Dev.Within.iteFst <;> try dsimp only)
    | (with_reducible apply Dev.Within.iteSnd <;> try dsimp only)
    | with_reducible apply Dev.Within.foldlFst
    | with_reducible apply Dev.Within.foldlSnd
    | with_reducible apply Dev.Within.foldl
    | (intro _; try dsimp only)
    | (with_reducible apply Dev.Within.ofSnd; · with_reducible assumption)
    | (with_reducible apply Dev.Within.ofThird; · with_reducible assumption)
    | (with_reducible apply Dev.Within.ofFst; · with_reducible assumption)
    | (split <;> try dsimp only)
theorem Dev.rowRand_within (v : Dev) (c : Nat) (o : VxOps) : Dev.Within [.coreGens, .free] v (Dev.rowRand v c o).2 := by
  unfold Dev.rowRand
  try dsimp only
  repeat' first
    | with_reducible exact Dev.Within.refl _ _
    | with_reducible assumption
    | (with_reducible apply Dev.Within.step (Dev.rowDraws_within _ _ _)); · decide
    | (with_reducible apply Dev.Within.ite)
    | (with_reducible apply Dev.Within.iteFst <;> try dsimp only)
    | (with_reducible apply Dev.Within.iteSnd <;> try dsimp only)
    | (intro _; try dsimp only)
    | (with_reducible apply Dev.Within.ofSnd; · with_reducible assumption)
    | (with_reducible apply Dev.Within.ofThird; · with_reducible assumption)
    | (with_reducible apply Dev.Within.ofFst; · with_reducible assumption)
    | (split <;> try dsimp only)
theorem Dev.quantRow_within (v : Dev) (c : Nat) (o : VxOps) (t : Num) (r : Nat) : Dev.Within [.spads, .accs, .coreGens, .free] v (Dev.quantRow v c o t r).1 := by
  unfold Dev.quantRow
  try dsimp only
  repeat' first
    | with_reducible exact Dev.Within.refl _ _
    | with_reducible assumption
    | (with_reducible apply Dev.Within.step (Dev.rowRand_within _ _ _)); · decide
    | with_reducible apply Dev.Within.core
    | (with_reducible apply Dev.Within.ite)
    | (with_reducible apply Dev.Within.iteFst <;> try dsimp only)
    | (with_reducible apply Dev.Within.iteSnd <;> try dsimp only)
    | with_reducible apply Dev.Within.foldlFst
    | with_reducible apply Dev.Within.foldlSnd
    | with_reducible apply Dev.Within.foldl
    | (intro _; try dsimp only)
    | (with_reducible apply Core.Within.step (Core.putRow_within _ _ _ _ _ _)); · decide
    | (with_reducible apply Core.Within.step (Core.spadWrite_within _ _ _)); · decide
    | (with_reducible apply Core.Within.step (DisOps.put_within _ _ _)); · decide
    | with_reducible exact Core.Within.refl _ _
    | exact ⟨fun p hp => by cases p <;> first | exact absurd (by decide) hp | simp [Core.same], fun h => by first | exact h | exact mwrite_wf _ _ h | exact mclear_wf _ _ h | exact filter_wfFrom _ _ h | rfl⟩
    | (with_reducible apply Dev.Within.ofSnd; · with_reducible assumption)
    | (with_reducible apply Dev.Within.ofThird; · with_reducible assumption)
    | (with_reducible apply Dev.Within.ofFst; · with_reducible assumption)
    | (split <;> try dsimp only)
theorem Dev.quantGroup_within (v : Dev) (c : Nat) (o : VxOps) (t : Num) (g : Nat) : Dev.Within [.spads, .accs, .coreGens, .free] v (Dev.quantGroup v c o t g).1 := by
  unfold Dev.quantGroup
  try dsimp only
  repeat' first
    | with_reducible exact Dev.Within.refl _ _
    | with_reducible assumption
    | (with_reducible apply Dev.Within.step (Dev.rowRand_within _ _ _)); · decide
    | with_reducible apply Dev.Within.core
    | (with_reducible apply Dev.Within.ite)
    | (with_reducible apply Dev.Within.iteFst <;> try dsimp only)
    | (with_reducible apply Dev.Within.iteSnd <;> try dsimp only)
    | with_reducible apply Dev.Within.foldlFst
    | with_reducible apply Dev.Within.foldlSnd
    | with_reducible apply Dev.Within.foldl
    | with_reducible apply Dev.Within.forAll
    | (intro _; try dsimp only)
    | (with_reducible apply Core.Within.step (Core.putRow_within _ _ _ _ _ _)); · decide
    | (with_reducible apply Core.Within.step (Core.spadWrite_within _ _ _)); · decide
    | (with_reducible apply Core.Within.step (DisOps.put_within _ _ _)); · decide
    | with_reducible exact Core.Within.refl _ _
    | exact ⟨fun p hp => by cases p <;> first | exact absurd (by decide) hp | simp [Core.same], fun h => by first | exact h | exact mwrite_wf _ _ h | exact mclear_wf _ _ h | exact filter_wfFrom _ _ h | rfl⟩
    | (with_reducible apply Dev.Within.ofSnd; · with_reducible assumption)
    | (with_reducible apply Dev.Within.ofThird; · with_reducible assumption)
    | (with_reducible apply Dev.Within.ofFst; · with_reducible assumption)
    | (split <;> try dsimp only)
theorem Dev.dequantRow_within (v : Dev) (c : Nat) (o : VxOps) (t : Num) (r : Nat) : Dev.Within [.spads, .accs] v (Dev.dequantRow v c o t r).1 := by
  unfold Dev.dequantRow
  try dsimp only
  repeat' first
    | with_reducible exact Dev.Within.refl _ _
    | with_reducible assumption
    | with_reducible apply Dev.Within.core
    | (with_reducible apply Dev.Within.ite)
    | (with_reducible apply Dev.Within.iteFst <;> try dsimp only)
    | (with_reducible apply Dev.Within.iteSnd <;> try dsimp only)
    | (intro _; try dsimp only)
    | (with_reducible apply Core.Within.step (Core.putRow_within _ _ _ _ _ _)); · decide
    | (with_reducible apply Core.Within.step (Core.spadWrite_within _ _ _)); · decide
    | (with_reducible apply Core.Within.step (DisOps.put_within _ _ _)); · decide
    | with_reducible exact Core.Within.refl _ _
    | exact ⟨fun p hp => by cases p <;> first | exact absurd (by decide) hp | simp [Core.same], fun h => by first | exact h | exact mwrite_wf _ _ h | exact mclear_wf _ _ h | exact filter_wfFrom _ _ h | rfl⟩
    | (with_reducible apply Dev.Within.ofSnd; · with_reducible assumption)
    | (with_reducible apply Dev.Within.ofThird; · with_reducible assumption)
    | (with_reducible apply Dev.Within.ofFst; · with_reducible assumption)
    | (split <;> try dsimp only)
theorem Dev.splitRow_within (v : Dev) (c : Nat) (o : VxOps) (r : Nat) : Dev.Within [.spads, .accs] v (Dev.splitRow v c o r).1 := by
  unfold Dev.splitRow
  try dsimp only
  repeat' first
    | with_reducible exact Dev.Within.refl _ _
    | with_reducible assumption
    | with_reducible apply Dev.Within.core
    | (with_reducible apply Dev.Within.ite)
    | (with_reducible apply Dev.Within.iteFst <;> try dsimp only)
    | (with_reducible apply Dev.Within.iteSnd <;> try dsimp only)
    | (intro _; try dsimp only)
    | (with_reducible apply Core.Within.step (Core.putRow_within _ _ _ _ _ _)); · decide
    | (with_reducible apply Core.Within.step (Core.spadWrite_within _ _ _)); · decide
    | (with_reducible apply Core.Within.step (DisOps.put_within _ _ _)); · decide
    | with_reducible exact Core.Within.refl _ _
    | exact ⟨fun p hp => by cases p <;> first | exact absurd (by decide) hp | simp [Core.same], fun h => by first | exact h | exact mwrite_wf _ _ h | exact mclear_wf _ _ h | exact filter_wfFrom _ _ h | rfl⟩
    | (with_reducible apply Dev.Within.ofSnd; · with_reducible assumption)
    | (with_reducible apply Dev.Within.ofThird; · with_reducible assumption)
    | (with_reducible apply Dev.Within.ofFst; · with_reducible assumption)
    | (split <;> try dsimp only)
theorem Dev.vxRow_within (v : Dev) (c : Nat) (o : VxOps) (t : Num) (r : Nat) : Dev.Within [.spads, .accs, .coreGens, .free] v (Dev.vxRow v c o t r).1 := by
  unfold Dev.vxRow
  try dsimp only
  repeat' first
    | with_reducible exact Dev.Within.refl _ _
    | with_reducible assumption
    | (with_reducible apply Dev.Within.step (Dev.dequantRow_within _ _ _ _ _)); · decide
    | (with_reducible apply Dev.Within.step (Dev.ewRow_within _ _ _ _ _)); · decide
    | (with_reducible apply Dev.Within.step (Dev.quantGroup_within _ _ _ _ _)); · decide
    | (with_reducible apply Dev.Within.step (Dev.quantRow_within _ _ _ _ _)); · decide
    | (with_reducible apply Dev.Within.step (Dev.redRow_within _ _ _ _)); · decide
    | (with_reducible apply Dev.Within.step (Dev.rowexpRow_within _ _ _ _)); · decide
    | (with_reducible apply Dev.Within.step (Dev.splitRow_within _ _ _ _)); · decide
    | (with_reducible apply Dev.Within.step (Dev.topkRow_within _ _ _ _)); · decide
    | (with_reducible apply Dev.Within.ite)
    | (with_reducible apply Dev.Within.iteFst <;> try dsimp only)
    | (with_reducible apply Dev.Within.iteSnd <;> try dsimp only)
    | (intro _; try dsimp only)
    | (with_reducible apply Dev.Within.ofSnd; · with_reducible assumption)
    | (with_reducible apply Dev.Within.ofThird; · with_reducible assumption)
    | (with_reducible apply Dev.Within.ofFst; · with_reducible assumption)
    | (split <;> try dsimp only)
theorem Dev.vxStart_within (v : Dev) (k : Nat) (op : Nat) : Dev.Within [.schedules, .streams, .spads, .accs, .caches, .coreGens, .contexts, .dmas, .coreRegs, .counters, .syncStatus, .stackMem, .channels, .stackRegs, .hostMem, .heldWrites, .faults, .contextSwitch, .fabric, .hif, .free, .out] v (Dev.vxStart v k op) := by
  unfold Dev.vxStart
  try dsimp only
  repeat' first
    | with_reducible exact Dev.Within.refl _ _
    | with_reducible assumption
    | (with_reducible apply Dev.Within.step (Dev.nextHead_within _ _)); · decide
    | (with_reducible apply Dev.Within.step (Dev.overlapAt_within _ _ _ _)); · decide
    | (with_reducible apply Dev.Within.step (Dev.parityFail_within _ _ _ _ _ _ _)); · decide
    | (with_reducible apply Dev.Within.step (Dev.pathFail_within _ _ _ _ _)); · decide
    | (with_reducible apply Dev.Within.step (Dev.started_within _ _ _ _)); · decide
    | (with_reducible apply Dev.Within.step (Dev.submit_within _ _ _ _)); · decide
    | with_reducible apply Dev.vRows_within
    | (with_reducible apply Dev.Within.step (Dev.vxRow_within _ _ _ _ _)); · decide
    | (with_reducible apply Dev.Within.ite)
    | (with_reducible apply Dev.Within.iteFst <;> try dsimp only)
    | (with_reducible apply Dev.Within.iteSnd <;> try dsimp only)
    | (intro _; try dsimp only)
    | (with_reducible apply Dev.Within.ofSnd; · with_reducible assumption)
    | (with_reducible apply Dev.Within.ofThird; · with_reducible assumption)
    | (with_reducible apply Dev.Within.ofFst; · with_reducible assumption)
    | (split <;> try dsimp only)
theorem Dev.vScupd_within (v : Dev) (k : Nat) : Dev.Within [.schedules, .streams, .spads, .caches, .contexts, .dmas, .coreRegs, .counters, .syncStatus, .stackMem, .channels, .stackRegs, .hostMem, .heldWrites, .faults, .contextSwitch, .fabric, .hif, .out] v (Dev.vScupd v k) := by
  unfold Dev.vScupd
  try dsimp only
  repeat' first
    | with_reducible exact Dev.Within.refl _ _
    | with_reducible assumption
    | (with_reducible apply Dev.Within.step (Dev.nextHead_within _ _)); · decide
    | (with_reducible apply Dev.Within.step (Dev.pathFail_within _ _ _ _ _)); · decide
    | (with_reducible apply Dev.Within.step (Dev.scaleUpdate_within _ _ _ _ _)); · decide
    | (with_reducible apply Dev.Within.step (Dev.started_within _ _ _ _)); · decide
    | (with_reducible apply Dev.Within.ite)
    | (with_reducible apply Dev.Within.iteFst <;> try dsimp only)
    | (with_reducible apply Dev.Within.iteSnd <;> try dsimp only)
    | (intro _; try dsimp only)
    | (with_reducible apply Dev.Within.ofSnd; · with_reducible assumption)
    | (with_reducible apply Dev.Within.ofThird; · with_reducible assumption)
    | (with_reducible apply Dev.Within.ofFst; · with_reducible assumption)
    | (split <;> try dsimp only)
theorem Dev.gatherBytes_within (v : Dev) (c : Nat) (a : Nat) (n : Nat) (keep : Bool) (z0 : Nat) : Dev.Within [.caches, .coreRegs, .syncStatus, .stackMem, .channels, .hif, .free] v (Dev.gatherBytes v c a n keep z0).2 := by
  induction z0 generalizing v c a n keep with
  | zero => unfold Dev.gatherBytes; exact Dev.Within.refl _ _
  | succ fuel ih =>
    unfold Dev.gatherBytes
    try dsimp only
    repeat' first
      | with_reducible exact Dev.Within.refl _ _
      | with_reducible assumption
      | (with_reducible apply Dev.Within.step (ih _ _ _ _ _)); · decide
      | (with_reducible apply Dev.Within.step (Dev.l2Read_within _ _ _ _ _ _ _)); · decide
      | (with_reducible apply Dev.Within.step (Dev.rdModule_within _ _ _ _ _)); · decide
      | (with_reducible apply Dev.Within.ite)
      | (with_reducible apply Dev.Within.iteFst <;> try dsimp only)
      | (with_reducible apply Dev.Within.iteSnd <;> try dsimp only)
      | (intro _; try dsimp only)
      | (with_reducible apply Dev.Within.ofSnd; · with_reducible assumption)
      | (with_reducible apply Dev.Within.ofThird; · with_reducible assumption)
      | (with_reducible apply Dev.Within.ofFst; · with_reducible assumption)
      | (split <;> try dsimp only)
theorem Dev.scatterBytes_within (v : Dev) (c : Nat) (a : Nat) (bs : List Byte) (owner : Option Owner) (z0 : Nat) : Dev.Within [.spads, .caches, .counters, .syncStatus, .stackMem, .channels, .stackRegs, .heldWrites, .contextSwitch, .hif] v (Dev.scatterBytes v c a bs owner z0).2 := by
  induction z0 generalizing v c a bs owner with
  | zero => unfold Dev.scatterBytes; exact Dev.Within.refl _ _
  | succ fuel ih =>
    unfold Dev.scatterBytes
    try dsimp only
    repeat' first
      | with_reducible exact Dev.Within.refl _ _
      | with_reducible assumption
      | (with_reducible apply Dev.Within.step (ih _ _ _ _ _)); · decide
      | (with_reducible apply Dev.Within.step (Dev.l2Through_within _ _ _ _ _)); · decide
      | (with_reducible apply Dev.Within.ite)
      | (with_reducible apply Dev.Within.iteFst <;> try dsimp only)
      | (with_reducible apply Dev.Within.iteSnd <;> try dsimp only)
      | (intro _; try dsimp only)
      | (with_reducible apply Dev.Within.ofSnd; · with_reducible assumption)
      | (with_reducible apply Dev.Within.ofThird; · with_reducible assumption)
      | (with_reducible apply Dev.Within.ofFst; · with_reducible assumption)
      | (split <;> try dsimp only)
theorem Dev.countOob_within (v : Dev) (k : Nat) : Dev.Within [.streams] v (Dev.countOob v k) := by
  unfold Dev.countOob
  try dsimp only
  repeat' first
    | with_reducible exact Dev.Within.refl _ _
    | with_reducible assumption
    | (with_reducible apply Dev.Within.step (Dev.modStrm_within _ _ _)); · decide
    | (with_reducible apply Dev.Within.ite)
    | (with_reducible apply Dev.Within.iteFst <;> try dsimp only)
    | (with_reducible apply Dev.Within.iteSnd <;> try dsimp only)
    | (intro _; try dsimp only)
    | (with_reducible apply Dev.Within.ofSnd; · with_reducible assumption)
    | (with_reducible apply Dev.Within.ofThird; · with_reducible assumption)
    | (with_reducible apply Dev.Within.ofFst; · with_reducible assumption)
    | (split <;> try dsimp only)
theorem Dev.gatherRows_within (v : Dev) (k : Nat) (c : Nat) (g : GatOps) (keep : Bool) (z0 : List Nat) : Dev.Within [.streams, .spads, .caches, .coreRegs, .syncStatus, .stackMem, .channels, .hif, .free] v (Dev.gatherRows v k c g keep z0).1 := by
  induction z0 generalizing v k c g keep with
  | nil => unfold Dev.gatherRows; exact Dev.Within.refl _ _
  | cons x xs ih =>
    unfold Dev.gatherRows
    try dsimp only
    repeat' first
      | with_reducible exact Dev.Within.refl _ _
      | with_reducible assumption
      | (with_reducible apply Dev.Within.step (ih _ _ _ _ _)); · decide
      | (with_reducible apply Dev.Within.step (Dev.countOob_within _ _)); · decide
      | (with_reducible apply Dev.Within.step (Dev.gatherBytes_within _ _ _ _ _ _)); · decide
      | with_reducible apply Dev.Within.core
      | (with_reducible apply Dev.Within.ite)
      | (with_reducible apply Dev.Within.iteFst <;> try dsimp only)
      | (with_reducible apply Dev.Within.iteSnd <;> try dsimp only)
      | (intro _; try dsimp only)
      | (with_reducible apply Core.Within.step (Core.putRow_within _ _ _ _ _ _)); · decide
      | (with_reducible apply Core.Within.step (Core.spadWrite_within _ _ _)); · decide
      | (with_reducible apply Core.Within.step (DisOps.put_within _ _ _)); · decide
      | with_reducible exact Core.Within.refl _ _
      | exact ⟨fun p hp => by cases p <;> first | exact absurd (by decide) hp | simp [Core.same], fun h => by first | exact h | exact mwrite_wf _ _ h | exact mclear_wf _ _ h | exact filter_wfFrom _ _ h | rfl⟩
      | (with_reducible apply Dev.Within.ofSnd; · with_reducible assumption)
      | (with_reducible apply Dev.Within.ofThird; · with_reducible assumption)
      | (with_reducible apply Dev.Within.ofFst; · with_reducible assumption)
      | (split <;> try dsimp only)
theorem Dev.scatterRows_within (v : Dev) (k : Nat) (c : Nat) (idx : Nat) (g : GatOps) (z0 : List Nat) : Dev.Within [.streams, .spads, .caches, .counters, .syncStatus, .stackMem, .channels, .stackRegs, .heldWrites, .contextSwitch, .hif] v (Dev.scatterRows v k c idx g z0).1 := by
  induction z0 generalizing v k c idx g with
  | nil => unfold Dev.scatterRows; exact Dev.Within.refl _ _
  | cons x xs ih =>
    unfold Dev.scatterRows
    try dsimp only
    repeat' first
      | with_reducible exact Dev.Within.refl _ _
      | with_reducible assumption
      | (with_reducible apply Dev.Within.step (ih _ _ _ _ _)); · decide
      | (with_reducible apply Dev.Within.step (Dev.countOob_within _ _)); · decide
      | (with_reducible apply Dev.Within.step (Dev.scatterBytes_within _ _ _ _ _ _)); · decide
      | (with_reducible apply Dev.Within.ite)
      | (with_reducible apply Dev.Within.iteFst <;> try dsimp only)
      | (with_reducible apply Dev.Within.iteSnd <;> try dsimp only)
      | (intro _; try dsimp only)
      | (with_reducible apply Dev.Within.ofSnd; · with_reducible assumption)
      | (with_reducible apply Dev.Within.ofThird; · with_reducible assumption)
      | (with_reducible apply Dev.Within.ofFst; · with_reducible assumption)
      | (split <;> try dsimp only)
theorem Dev.gatFail_within (v : Dev) (k : Nat) (ws : List W64) (c : Nat) (n : Nat) (z0 : GatErr) : Dev.Within [.schedules, .streams, .spads, .caches, .contexts, .dmas, .coreRegs, .counters, .syncStatus, .stackMem, .channels, .stackRegs, .hostMem, .heldWrites, .faults, .contextSwitch, .fabric, .hif, .out] v (Dev.gatFail v k ws c n z0) := by
  unfold Dev.gatFail
  try dsimp only
  repeat' first
    | with_reducible exact Dev.Within.refl _ _
    | with_reducible assumption
    | (with_reducible apply Dev.Within.step (Dev.parityFail_within _ _ _ _ _ _ _)); · decide
    | (with_reducible apply Dev.Within.step (Dev.startFail_within _ _ _ _ _ _)); · decide
    | with_reducible apply Dev.Within.core
    | (with_reducible apply Dev.Within.ite)
    | (with_reducible apply Dev.Within.iteFst <;> try dsimp only)
    | (with_reducible apply Dev.Within.iteSnd <;> try dsimp only)
    | (intro _; try dsimp only)
    | (with_reducible apply Core.Within.step (Core.putRow_within _ _ _ _ _ _)); · decide
    | (with_reducible apply Core.Within.step (Core.spadWrite_within _ _ _)); · decide
    | (with_reducible apply Core.Within.step (DisOps.put_within _ _ _)); · decide
    | with_reducible exact Core.Within.refl _ _
    | exact ⟨fun p hp => by cases p <;> first | exact absurd (by decide) hp | simp [Core.same], fun h => by first | exact h | exact mwrite_wf _ _ h | exact mclear_wf _ _ h | exact filter_wfFrom _ _ h | rfl⟩
    | (with_reducible apply Dev.Within.ofSnd; · with_reducible assumption)
    | (with_reducible apply Dev.Within.ofThird; · with_reducible assumption)
    | (with_reducible apply Dev.Within.ofFst; · with_reducible assumption)
    | (split <;> try dsimp only)
theorem Dev.gatStart_within (v : Dev) (k : Nat) (op : Nat) : Dev.Within [.schedules, .streams, .spads, .caches, .contexts, .dmas, .coreRegs, .counters, .syncStatus, .stackMem, .channels, .stackRegs, .hostMem, .heldWrites, .faults, .contextSwitch, .fabric, .hif, .free, .out] v (Dev.gatStart v k op) := by
  unfold Dev.gatStart
  try dsimp only
  repeat' first
    | with_reducible exact Dev.Within.refl _ _
    | with_reducible assumption
    | (with_reducible apply Dev.Within.step (Dev.faultStream_within _ _ _ _ _)); · decide
    | (with_reducible apply Dev.Within.step (Dev.gatFail_within _ _ _ _ _ _)); · decide
    | (with_reducible apply Dev.Within.step (Dev.gatherRows_within _ _ _ _ _ _)); · decide
    | (with_reducible apply Dev.Within.step (Dev.nextHead_within _ _)); · decide
    | (with_reducible apply Dev.Within.step (Dev.scatterRows_within _ _ _ _ _ _)); · decide
    | (with_reducible apply Dev.Within.step (Dev.started_within _ _ _ _)); · decide
    | (with_reducible apply Dev.Within.ite)
    | (with_reducible apply Dev.Within.iteFst <;> try dsimp only)
    | (with_reducible apply Dev.Within.iteSnd <;> try dsimp only)
    | (intro _; try dsimp only)
    | (with_reducible apply Dev.Within.ofSnd; · with_reducible assumption)
    | (with_reducible apply Dev.Within.ofThird; · with_reducible assumption)
    | (with_reducible apply Dev.Within.ofFst; · with_reducible assumption)
    | (split <;> try dsimp only)
theorem Dev.disStart_within (v : Dev) (k : Nat) : Dev.Within [.schedules, .streams, .spads, .caches, .contexts, .dmas, .coreRegs, .counters, .syncStatus, .stackMem, .channels, .stackRegs, .hostMem, .heldWrites, .faults, .contextSwitch, .fabric, .hif, .out] v (Dev.disStart v k) := by
  unfold Dev.disStart
  try dsimp only
  repeat' first
    | with_reducible exact Dev.Within.refl _ _
    | with_reducible assumption
    | (with_reducible apply Dev.Within.step (Dev.nextHead_within _ _)); · decide
    | (with_reducible apply Dev.Within.step (Dev.parityFail_within _ _ _ _ _ _ _)); · decide
    | (with_reducible apply Dev.Within.step (Dev.started_within _ _ _ _)); · decide
    | (with_reducible apply Dev.Within.step (Dev.modStrm_within _ _ _)); · decide
    | with_reducible apply Dev.Within.core
    | (with_reducible apply Dev.Within.ite)
    | (with_reducible apply Dev.Within.iteFst <;> try dsimp only)
    | (with_reducible apply Dev.Within.iteSnd <;> try dsimp only)
    | (intro _; try dsimp only)
    | (with_reducible apply Core.Within.step (Core.putRow_within _ _ _ _ _ _)); · decide
    | (with_reducible apply Core.Within.step (Core.spadWrite_within _ _ _)); · decide
    | (with_reducible apply Core.Within.step (DisOps.put_within _ _ _)); · decide
    | with_reducible exact Core.Within.refl _ _
    | exact ⟨fun p hp => by cases p <;> first | exact absurd (by decide) hp | simp [Core.same], fun h => by first | exact h | exact mwrite_wf _ _ h | exact mclear_wf _ _ h | exact filter_wfFrom _ _ h | rfl⟩
    | (with_reducible apply Dev.Within.ofSnd; · with_reducible assumption)
    | (with_reducible apply Dev.Within.ofThird; · with_reducible assumption)
    | (with_reducible apply Dev.Within.ofFst; · with_reducible assumption)
    | (split <;> try dsimp only)
theorem Dev.statMerge_within (v : Dev) (die : Nat) (rcd : Nat) (st : Stats) : Dev.Within [.stackMem, .channels, .stackRegs, .heldWrites, .hif] v (Dev.statMerge v die rcd st) := by
  unfold Dev.statMerge
  try dsimp only
  repeat' first
    | with_reducible exact Dev.Within.refl _ _
    | with_reducible assumption
    | (with_reducible apply Dev.Within.step (Dev.pathError_within _ _ _)); · decide
    | (with_reducible apply Dev.Within.step (Dev.submit_within _ _ _ _)); · decide
    | (with_reducible apply Dev.Within.ite)
    | (with_reducible apply Dev.Within.iteFst <;> try dsimp only)
    | (with_reducible apply Dev.Within.iteSnd <;> try dsimp only)
    | (intro _; try dsimp only)
    | (with_reducible apply Dev.Within.ofSnd; · with_reducible assumption)
    | (with_reducible apply Dev.Within.ofThird; · with_reducible assumption)
    | (with_reducible apply Dev.Within.ofFst; · with_reducible assumption)
    | (split <;> try dsimp only)
theorem Dev.endAcquire_within (v : Dev) (k : Nat) (rs : List (Nat × Nat)) : Dev.Within [.streams] v (Dev.endAcquire v k rs) := by
  unfold Dev.endAcquire
  try dsimp only
  repeat' first
    | with_reducible exact Dev.Within.refl _ _
    | with_reducible assumption
    | (with_reducible apply Dev.Within.step (Dev.modStrm_within _ _ _)); · decide
    | (with_reducible apply Dev.Within.ite)
    | (with_reducible apply Dev.Within.iteFst <;> try dsimp only)
    | (with_reducible apply Dev.Within.iteSnd <;> try dsimp only)
    | (intro _; try dsimp only)
    | (with_reducible apply Dev.Within.ofSnd; · with_reducible assumption)
    | (with_reducible apply Dev.Within.ofThird; · with_reducible assumption)
    | (with_reducible apply Dev.Within.ofFst; · with_reducible assumption)
    | (split <;> try dsimp only)
theorem Dev.acquireDone_within (v : Dev) (k : Nat) : Dev.Within [.streams, .spads, .caches, .contexts, .coreRegs, .counters, .syncStatus, .stackMem, .channels, .stackRegs, .heldWrites, .contextSwitch, .hif] v (Dev.acquireDone v k) := by
  unfold Dev.acquireDone
  try dsimp only
  repeat' first
    | with_reducible exact Dev.Within.refl _ _
    | with_reducible assumption
    | (with_reducible apply Dev.Within.step (Dev.endAcquire_within _ _ _)); · decide
    | (with_reducible apply Dev.Within.step (Dev.flushInval_within _ _ _ _ _)); · decide
    | (with_reducible apply Dev.Within.ite)
    | (with_reducible apply Dev.Within.iteFst <;> try dsimp only)
    | (with_reducible apply Dev.Within.iteSnd <;> try dsimp only)
    | with_reducible apply Dev.Within.forAll
    | (intro _; try dsimp only)
    | (with_reducible apply Dev.Within.ofSnd; · with_reducible assumption)
    | (with_reducible apply Dev.Within.ofThird; · with_reducible assumption)
    | (with_reducible apply Dev.Within.ofFst; · with_reducible assumption)
    | (split <;> try dsimp only)

end Sys2Proof.Machine
end

