-- ==== Sys2Proof/Machine/Flit.lean ====
section
/-! DEFINITION. The link layer (R480 to R482): slots, flits, their CRC, and what a replay sends. The module's commands carry whole packets, which
the links deliver once and in order, so no meaning calls these (log entry 95). -/

namespace Sys2Proof.Machine

/-! ### Slots (R481, R482) -/

/-- The classes of slots: requests, responses, and control, which needs no credits. -/
inductive SlotClass where
  | request
  | response
  | control
  deriving DecidableEq, Repr
/-- The class of a packet kind of Table 14.3: WRITE, READ, CHUNK_DATA and CHUNK_DONE are requests, the other kinds responses. -/
def kindClass (kind : Nat) : SlotClass := if kind = 0 ∨ kind = 1 ∨ kind = 5 ∨ kind = 6 then .request else .response
/-- Bytes cut into slots of 16, the last padded with zeros; `n` bounds their number. -/
def cutSlots : Nat → List Byte → List (List Byte)
  | 0, _ => []
  | n + 1, bs => if bs.isEmpty then [] else (bs.take 16 ++ List.replicate (16 - bs.length) 0#8) :: cutSlots n (bs.drop 16)
/-- The slots of a packet: its header, then its payload. -/
def packetSlots (p : Packet) : List (List Byte) := wordsToBytes [p.h0, p.h1] :: cutSlots (p.data.length / 16 + 1) p.data
/-- Credits an end holds for the slots of each class of the other end's buffers. -/
structure Credits where
  request : Nat
  response : Nat
  deriving DecidableEq, Repr
/-- A slot of a class may be sent; it takes a credit of its own class, so that requests never hold back responses. -/
def Credits.spend (c : Credits) : SlotClass → Option Credits
  | .request => if c.request = 0 then none else some { c with request := c.request - 1 }
  | .response => if c.response = 0 then none else some { c with response := c.response - 1 }
  | .control => some c

/-! ### Flits (R480) -/

/-- One bit of a CRC with the ECMA-182 polynomial, most significant bit first. -/
def crcShift (c : W64) : W64 := if c.msb then (c <<< 1) ^^^ 0x42F0E1EBA9EA3693#64 else c <<< 1
/-- The CRC-64 of a byte list, started from 0 (PRESUMED, log entry 95). -/
def crc64 (bs : List Byte) : W64 :=
  bs.foldl (fun c b => (List.range 8).foldl (fun x _ => crcShift x) (c ^^^ w64 (b.toNat * 2 ^ 56))) 0#64
/-- A flit: header bytes 0 to 7 (sequence number, acknowledged sequence and credit returns) and 31 slots of 16 bytes. -/
structure Flit where
  header : List Byte
  slots : List (List Byte)
  deriving DecidableEq, Repr
def Flit.wf (f : Flit) : Bool := f.header.length = 8 && f.slots.length = 31 && f.slots.all (fun s => s.length = 16)
/-- Bytes 0 to 503. -/
def Flit.body (f : Flit) : List Byte := f.header ++ f.slots.flatten
/-- The 512 bytes of a flit as sent: its body and the CRC over it. -/
def Flit.bytes (f : Flit) : List Byte := f.body ++ toBytes (crc64 f.body).toNat 8
/-- The 31 slots of a flit's bytes. -/
def slotsAt (bs : List Byte) : List (List Byte) := (List.range 31).map (fun i => (bs.drop (8 + 16 * i)).take 16)
/-- A flit as received; none where its CRC fails, so that it is replayed. -/
def readFlit (bs : List Byte) : Option Flit :=
  if bs.length = 512 ∧ bs.drop 504 = toBytes (crc64 (bs.take 504)).toNat 8 then some ⟨bs.take 8, slotsAt bs⟩ else none
/-- The retry buffer: flits sent and not acknowledged, oldest first, at most 256. -/
structure Retry where
  flits : List Flit := []
  deriving DecidableEq, Repr
/-- A flit may be sent while the buffer has room for it. -/
def Retry.keep (r : Retry) (f : Flit) : Option Retry := if r.flits.length < 256 then some ⟨r.flits ++ [f]⟩ else none
/-- The other end acknowledges the n oldest. -/
def Retry.acknowledge (r : Retry) (n : Nat) : Retry := ⟨r.flits.drop n⟩
/-- Go-back-N: a flit that fails is replayed with all sent after it. -/
def Retry.replay (r : Retry) (i : Nat) : List Flit := r.flits.drop i

end Sys2Proof.Machine
end

