-- ==== Sys2Proof/Machine/Timing.lean ====
section
/-! DEFINITION. The cycle counts and the choices within a cycle that the spec gives (05, 08, 09, 11, 12, 13), as functions of an entry, a range or the requesters. The state counts no cycles: the end of
an entry is a command, so no meaning calls these (log entry 10). -/

namespace Sys2Proof.Machine

/-! ### Matrix entries (R183 to R185) -/

/-- Row interval ρ (R183). -/
def MxOps.rowInterval (o : MxOps) : Nat :=
  if o.op = 0x11 then (if vWide o.wf = 8 then 2 else 1) else if o.op = 0x12 then max 1 (Nat.gcd (o.sp / 64) 64 / 4) else 1
/-- Tile time λ (R184). -/
def MxOps.tileTime (o : MxOps) : Nat := if o.reuse then 0 else if o.ttr then 128 * max 1 (Nat.gcd (o.tp / 64) 64 / 4) else 128
/-- Fill F of a p × q gang (Table 5.7). -/
def gangFill (p q : Nat) : Nat := 256 * (p + q)
/-- A matrix entry on its gang: its operands, the cycle it starts on, and, for a break entry, the cycle after the last write it waits for. -/
structure MxRun where
  o : MxOps
  start : Nat
  drained : Option Nat := none
  deriving DecidableEq, Repr
/-- Cycle t0 on which row 0 enters, after the preceding entry of the gang and its t0 (R185). -/
def MxRun.firstRow (e : MxRun) (prev : Option (MxOps × Nat)) : Nat :=
  match e.drained, prev with
  | some d, _ => max e.start d + e.o.tileTime
  | none, none => e.start + e.o.tileTime
  | none, some (p, t) => max (t + p.rowInterval * p.m) (max e.start t + e.o.tileTime)
/-- Cycle W of the last write (R124, R185); the entry retires no earlier than the next. -/
def MxOps.lastWrite (o : MxOps) (t0 p q : Nat) : Nat := t0 + o.rowInterval * (o.m - 1) + gangFill p q - 1

/-- Invalid rows that enter before row m at supplier c, place i, because its reads are held back until it is demanded: the 6 cycles of a
demanded row, and for a transposing read the build time of the slice at the rate of R145 as well (R132, R321 to R323, R681, Table 4.5). -/
def Dev.rowGap (v : Dev) (o : MxOps) (c i : Nat) (page : Option Nat) (m : Nat) : Nat :=
  if m = 0 ∨ v.rowIssues o c i page (m - 1) m then 0
  else 6 + (if o.op = 0x12 then min o.sliceRows (o.m - m) * o.rowInterval else 0)
/-- The invalid rows of each row of an entry at a supplier, the page entered carried along. -/
def Dev.rowGaps (v : Dev) (o : MxOps) (c i : Nat) : List Nat :=
  ((List.range o.m).foldl (fun (a : List Nat × Option Nat) m => (a.1 ++ [v.rowGap o c i a.2 m], o.entered c (o.rowRanges i m))) ([], none)).1

/-! ### Vector entries (R253, Table 8.1) -/

/-- Elements per lane P. -/
def VxOps.packing (o : VxOps) : Nat :=
  let w := ((o.formats.map vBits) ++ (if o.aacc || o.dacc then [32] else [])).foldl max 0
  if w ≤ 8 then 4 else if w ≤ 16 then 2 else 1
/-- Issue cycles of an entry of Table 8.2's layout on the rates of Table 8.1; 32 cycles of latency follow the last. -/
def VxOps.issueCycles (o : VxOps) : Nat :=
  let row (rate : Nat) : Nat := ceilDiv o.cols rate
  if o.empty then 0
  else o.rows * (match o.op with
    | 0x10 => if 0x10 ≤ o.func then row 64 else row (256 * o.packing)
    | 0x11 => row (256 * o.packing) + 8
    | 0x12 => row (256 * o.packing) + row 64 + 16
    | 0x13 => row 256 + o.func
    | _ => row (256 * o.packing))
def VxOps.cycles (o : VxOps) : Nat := o.issueCycles + 32
/-- V_DISPATCH, by the bytes of slot data it writes. -/
def dispatchCycles (bytes : Nat) : Nat := ceilDiv bytes 2048 + 32
/-- The fewest cycles of V_GATHER and V_SCATTER over a number of L2 lines (R274). -/
def gatherCycles (lines : Nat) : Nat := ceilDiv lines 16 + 32

/-! ### Cache operations and updates -/

/-- TW.FLUSH over n lines, write-backs apart (R289). -/
def flushCycles (n : Nat) : Nat := min n 1024
/-- TW.INV, and an acquire over the lines of its ranges together (R289, R330). -/
def invCycles (n : Nat) : Nat := flushCycles n + ceilDiv (min n 32768) 16
/-- Engine cycles of a 64-element group of an update: a fixed program, or the instructions UPD_MICRO executes, END included (R454). -/
def groupCycles (executed : Option Nat) : Nat := match executed with | none => 8 | some n => 4 * n

/-! ### Choices within a cycle -/

/-- A requester of a scratchpad bank: its priority in Table 9.1, and the consecutive cycles on which it has been refused. -/
structure BankReq where
  prio : Nat
  refused : Nat
  deriving DecidableEq, Repr
/-- The requester a bank serves: the highest of those refused 16 times, else the highest (R296, R297). -/
def bankServes (rs : List BankReq) : Option BankReq :=
  let raised := rs.filter (fun r => decide (16 ≤ r.refused))
  (sortBy (fun (r : BankReq) => r.prio) (if raised.isEmpty then rs else raised)).head?
/-- The context that issues on a cycle, of those ready: the next above the one that issued last, else the lowest (R291). Which context the
machine steps next is the order of its commands (log entry 49). -/
def issuesContext (last : Nat) (ready : List Nat) : Option Nat :=
  match (sortBy id (ready.filter (fun x => decide (last < x)))).head? with
  | some x => some x
  | none => (sortBy id ready).head?
/-- Accesses of the engines and of the compute-die side in a run of 16 with both queued, for a value of ENG_WEIGHT (R425, Table 12.13). -/
def accessShare (weight : Nat) : Nat × Nat := (min weight 16, 16 - min weight 16)
/-- A level of PWRWARN_N held for this many nanoseconds passes the filter (R666). -/
def warnPasses (ns : Nat) : Bool := decide (5 ≤ ns)

end Sys2Proof.Machine
end

