-- ==== Sys2Proof/WellFormed.lean ====
section
/-! DEFINITION. Well-formed commands: the bounds on operands that their types do not carry. A command that is not well formed cannot reach
the module: its operand does not fit the field, the access or the space that carries it. -/

namespace Sys2Proof

/-- Bytes of stack memory: the first row of Tables 9.1 and 17.2. -/
def stackBytes : Nat := 0x4800000000

/-- Counts that fit their fields (Table 7.2). -/
def Stats.wf (s : Stats) : Bool :=
  [s.count, s.zeros, s.flushed, s.sat, s.nonfinite].all (fun n => decide (n < 2 ^ 64)) && decide (s.blkSat < 2 ^ 32)

/-- The answer to a control flit comes after it was sent, on both clocks, and the delay fits LNK_STATUS.DELAY (R478). -/
def Stamps.wf (s : Stamps) : Bool := decide (s.t1 ≤ s.t4) && decide (s.t2 ≤ s.t3) && decide (s.t3 - s.t2 ≤ s.t4 - s.t1) && decide ((s.t4 - s.t1 - (s.t3 - s.t2)) / 2 ≤ 65535)

/-- A task works within one granule of stack memory (R426, R433). -/
def EngTask.wf : EngTask → Bool
  | .write off data => decide (0 < data.length) && decide (off % 64 + data.length ≤ 64) && decide (off < stackBytes)
  | .copy dst src => decide (dst % 64 = 0) && decide (src % 64 = 0) && decide (dst < stackBytes) && decide (src < stackBytes)
  | .fill dst _ => decide (dst % 64 = 0) && decide (dst < stackBytes)
  | .atomic op off data => decide (op < 16) && decide (0 < data.length) && decide (off % 64 + data.length ≤ 64) && decide (off < stackBytes)
  | .merge r st => decide (r % 64 = 0) && decide (r < stackBytes) && st.wf
  | .version r d => decide (r % 64 = 0) && decide (r < stackBytes) && decide (d < 2 ^ 64)

/-- A packet of a kind: KIND as the command's name says, LEN at most 256, and a payload of LEN bytes where the kind has one, of 16 for
CHUNK_DONE (R482, Tables 14.2, 14.3). -/
def Packet.wf (kind : Nat) (p : Packet) : Bool :=
  let len := p.h0.toNat / 2 ^ 33 % 512
  decide (p.h0.toNat % 16 = kind) && decide (len ≤ 256) &&
  decide (p.data.length = if kind = 1 ∨ kind = 3 ∨ kind = 4 then 0 else len) && (kind != 6 || decide (len = 16))

/-- An input voltage in units of 10 mV fits PWR_INPUT.VIN (Table 15.14). -/
def inputWf (vin : Nat) : Bool := decide (vin ≤ 65535)

/-- A header of R627: SVN from 0 to 32, digests of 32 bytes. -/
def Image.wf (img : Image) : Bool := decide (img.svn ≤ 32) && decide (img.digest < 2 ^ 256) && decide (img.bodyDigest < 2 ^ 256)

/-- The command can reach the module. -/
def Instr.wf (c : Instr) : Bool :=
  match c with
  | .statMerge _ r st => decide (r % 64 = 0) && decide (r < stackBytes) && st.wf
  | .counterWindowAccess _ off len _ => decide (0 < len) && decide (off + len ≤ 131072)
  | .atomicWrite _ _ _ data => decide (0 < data.length)
  | .engineTask _ t => t.wf
  | .versionAcq _ _ data => decide (0 < data.length)
  | .versionRel _ _ data => decide (0 < data.length)
  | .write _ _ p => p.wf 0
  | .read _ _ p => p.wf 1
  | .readData _ _ p => p.wf 2
  | .wack _ _ p => p.wf 3
  | .error _ _ p => p.wf 4
  | .chunkData _ _ p => p.wf 5
  | .chunkDone _ _ p => p.wf 6
  | .squall vin => inputWf vin
  | .chrysalisEntry vin => inputWf vin
  | .powerDip vin => inputWf vin
  | .inputTakesLoad vin => inputWf vin
  | .chrysalisExit vin => inputWf vin
  | .bankUpdate e => decide (e ≤ 65535)
  | .pageStaged p => decide (p < stackBytes / 65536)
  | .doorbell _ _ off len _ => decide (0 < len) && decide (off + len ≤ 4096)
  | .bar4Access _ _ len wr => decide (0 < len) && (match wr with | some bs => decide (bs.length = len) | none => true)
  | .registerWrite _ off len _ => decide (0 < len) && decide (off + len ≤ 0x1000000)
  | .attest _ nonce _ => decide (nonce.length = 32)
  | .getLog _ _ count => decide (count ≤ 65535)
  | .setRackCap _ x => decide (x ≤ 255)
  | .setStartOverride _ x => decide (x ≤ 255)
  | .setChip _ x => decide (x ≤ 65535)
  | .retireChannel _ ch => decide (ch ≤ 65535)
  | .firmwareUpdate _ img => img.wf
  | .sensorRead _ x => decide (x ≤ 65535)
  | .vinApplied vin => inputWf vin
  | .inputQualified vin => inputWf vin
  | .linkTraining _ stamps => stamps.toList.all Stamps.wf
  | .startupSupplyLoss vin => inputWf vin
  | .linkRetrainDone _ _ stamps => stamps.wf
  | .restorePageDone p => decide (p < stackBytes / 65536)
  | .tick | .samplePoint | .masterCutOff | .epochBoundary | .doldrumsEnd | .time _ | .freqReq _ | .late _ | .state _ | .lull _
  | .doldrums _ | .freeze _ | .thaw _ | .masterThaw | .frozenMessageTimer | .timeHoldover | .memberAbsent _ | .masterTakeover
  | .fabTimeCfgWrite _ _ | .streamFetch _ | .nop _ | .mark _ | .entryRetire _ | .sourceFree _ | .waitStall _ | .faultCaptureEnd _ _
  | .mmFwd _ | .mmRev _ | .mmWgt _ | .mmDist _ | .vEw _ | .vRed _ | .vRowexp _ | .vTopk _ | .vQuant _ | .vStat _ | .vScupd _ | .vGather _
  | .vScatter _ | .vDispatch _ | .dmaCopy _ | .burstIssue _ _ | .burstReturn _ _ _ | .sealS0Return _ _ | .sealS1Return _ _
  | .dmaEngClear _ _ | .dmaRestart _ _ _ | .dmaDrop _ _ _ | .dmaReqWrite _ _ _ | .counterSignal _ | .synCtrWrite _ _ _
  | .synBarMaskWrite _ _ _ | .scalarRun _ _ | .scalarStop _ _ | .scalarLoad _ _ _ _ _ _ _ _ | .scalarStore _ _ _ _ _ _ _
  | .scalarAmo _ _ _ _ _ _ _ | .csrRead _ _ _ _ | .fence _ _ | .ecall _ _ _ | .scalarAccessReturn _ _ | .twSig _ _ _ | .twWait _ _ _ _
  | .twCtr _ _ _ _ | .twBara _ _ _ _ | .twBarw _ _ _ _ | .twHalt _ _ | .twFlush _ _ _ _ | .twInv _ _ _ _ | .rgnAttrWrite _ _ _
  | .bridgeTransfer _ _ _ | .seFill _ | .seCopy _ | .seReduce _ | .seDigest _ | .seStat _ | .seScupd _ | .updAdamw _ | .updLion _
  | .updSgdm _ | .updMicro _ | .updRednorm _ | .updWcopy _ | .refreshWindow _ | .retrainWindow _ | .unscheduledRetrain _ _
  | .retrainEnd _ _ | .hbmMapCfgWrite _ | .mapRebuildDone | .hbmMaintWrite _ | .ackTimeout _ _ | .ceSend _ | .ceRecv _ | .ceTolerated _
  | .ceNorm _ | .ceFence _ | .laneFail _ _ | .linkReplay _ _ _ | .lnkCtlRetrain _ _ | .lnkRxbufWrite _ _ | .landClr _ _ | .gust _
  | .pwrwarn _ | .pwrwarnDeassert _ | .pwrwarnHeld | .squallExit | .issueResume | .rideThroughLost _ | .powerSample _
  | .fastLimiterExpiry | .capControlInstant _ _ _ _ _ | .thermalSample _ _ _ | .energyInterval _ | .pwrCapWrite _ | .pwrCfgWrite _
  | .pwrEnergyClear _ | .release _ _ | .coreTested _ _ | .moultPoint | .tUpdate | .saveDrainExpiry _ | .workNop _ _ | .load _ _
  | .start _ _ | .resume _ _ | .abort _ _ | .unload _ _ | .copy _ _ | .moult _ _ | .moultAbort _ _ | .restore _ _ | .save _ _
  | .restoreCtx _ _ | .ringError _ _ _ | .hifRingCfgWrite _ _ _ | .hifMmioWrite _ _ _ | .strmMarkClr _ _ | .clrCount _ _
  | .functionReset _ | .getIdent _ | .getPubkey _ | .moduleReset _ | .mgmtReset _ _ | .commitSvn _ | .sensorUpdate | .treeBuildDone
  | .auxUp _ | .auxLoss | .bankCharge | .fuseLoad _ | .sramClear | .stackTraining _ | .timeLockTimeout | .hostDiscovery _ | .coldReset
  | .resetN | .resetNHeld _ | .acquireDone _ | .flushDone _ _ | .refreshDue _ | .thermalCut125c | .saveCopyDone _ | .restoreCtxCopyDone _
  | .resetNRelease => true

end Sys2Proof
end

