-- ==== Sys2Proof/Tests/Slice0.lean ====
section
/-! SUPPORT. The model's own tests: ill-formed commands, and for every statement a small state that meets its premises. -/

namespace Sys2Proof.Tests
open Sys2Proof Sys2Proof.Machine

set_option maxRecDepth 100000
set_option Elab.async false

/-! ### Helpers -/

/-- A state with this device. -/
def st (v : Dev) : State := { dev := v }
/-- A state with this device and a running Forzoevo. -/
def stm (m : Mgmt) (v : Dev) : State := { dev := v, mgmt := m }
/-- The state after a command. -/
def ran (c : Instr) (s : State) : State :=
  match exec c s with
  | .next t => t
  | .fault _ => s
  | .refused _ => s
/-- The device after a command. -/
def dev (c : Instr) (v : Dev) : Dev := (ran c (st v)).dev
/-- Stack memory, readable, writable and open to other modules: SIZE 38, RD, WR, REMOTE. -/
def region : Rgn := { attr := 4557#32 }
/-- A module that has started: rails up, time locked at tick 100, one region on each die. -/
def up : Dev := { ft := { locked := true, now := 100 }, pwr := { starting := false, rails := true }, rgn := [(0, region), (256, region)] }
/-- The same at a tick. -/
def upAt (n : Nat) : Dev := up.modFt (fun f => { f with now := n })
/-- An entry: opcode and kind, and words 2 to 7. -/
def entry (op kind : Nat) (ws : List W64) : List W64 := w64 (op + kind * 256) :: 0#64 :: ws
/-- Stream k of a running schedule with this granted head. -/
def withHead (v : Dev) (k : Nat) (ws : List W64) : Dev :=
  { v with
    scheds := [(strmDie k * 256 + 1, { phase := .running, coreMask := 0xFFFFFFFFFFFF#48, streams := [k], relTop := 1 })]
    strms := [(k, { loaded := true, sched := 1, count := 1, fetchNext := 1, buf := [{ idx := 0, words := ws }], checked := true, tested := true, granted := true })] }
/-- Stack bytes of the started module. -/
def withMem (v : Dev) (a : Nat) (bs : List Byte) : Dev := v.stkPut a bs

/-! ### Ill-formed commands: one for each check of WellFormed -/

theorem test_wf_good : [Instr.tick, .counterWindowAccess 0 8 8 true, .write 1 .gateway { h0 := 0x400000000#64, h1 := 0#64, data := [1#8, 2#8] },
    .attest .rack (List.replicate 32 0#8) true, .pageStaged 4718591].all Instr.wf = true := by decide +kernel
theorem test_wf_record_unaligned : Instr.wf (.statMerge 0 8 {}) = false := by decide
theorem test_wf_record_outside : Instr.wf (.statMerge 0 0x4800000000 {}) = false := by decide
theorem test_wf_count_wide : Instr.wf (.statMerge 0 64 { count := 2 ^ 64 }) = false := by decide
theorem test_wf_block_count_wide : Instr.wf (.statMerge 0 64 { blkSat := 2 ^ 32 }) = false := by decide
theorem test_wf_window_past : Instr.wf (.counterWindowAccess 0 131072 8 true) = false := by decide
theorem test_wf_window_empty : Instr.wf (.counterWindowAccess 0 0 0 true) = false := by decide
theorem test_wf_atomic_empty : Instr.wf (.atomicWrite 0 0 0#64 []) = false := by decide
theorem test_wf_version_empty : Instr.wf (.versionAcq 0 0#64 []) = false ∧ Instr.wf (.versionRel 0 0#64 []) = false := by decide
theorem test_wf_task_crosses : Instr.wf (.engineTask 0 (.write 60 (List.replicate 8 0#8))) = false := by decide
theorem test_wf_task_empty : Instr.wf (.engineTask 0 (.write 0 [])) = false := by decide
theorem test_wf_task_outside : Instr.wf (.engineTask 0 (.write 0x4800000000 [1#8])) = false := by decide
theorem test_wf_copy_unaligned : Instr.wf (.engineTask 0 (.copy 4 0)) = false ∧ Instr.wf (.engineTask 0 (.copy 0 4)) = false := by decide
theorem test_wf_fill_unaligned : Instr.wf (.engineTask 0 (.fill 4 0#64)) = false := by decide
theorem test_wf_atomic_op : Instr.wf (.engineTask 0 (.atomic 16 0 [1#8])) = false := by decide
theorem test_wf_merge_task : Instr.wf (.engineTask 0 (.merge 8 {})) = false := by decide
theorem test_wf_version_task : Instr.wf (.engineTask 0 (.version 8 0)) = false := by decide
theorem test_wf_packet_kind : Instr.wf (.write 0 .gateway { h0 := 1#64, h1 := 0#64, data := [] }) = false := by decide
theorem test_wf_packet_long : Instr.wf (.read 0 .gateway { h0 := 0x20200000001#64, h1 := 0#64, data := [] }) = false := by decide
theorem test_wf_packet_payload : Instr.wf (.write 0 .gateway { h0 := 0#64, h1 := 0#64, data := [1#8] }) = false := by decide
theorem test_wf_packet_done : Instr.wf (.chunkDone 0 .gateway { h0 := 6#64, h1 := 0#64, data := [] }) = false := by decide
theorem test_wf_input : [Instr.squall 65536, .chrysalisEntry 65536, .powerDip 65536, .inputTakesLoad 65536, .chrysalisExit 65536, .vinApplied 65536,
    .inputQualified 65536, .startupSupplyLoss 65536].any Instr.wf = false := by decide
theorem test_wf_energy : Instr.wf (.bankUpdate 65536) = false := by decide
theorem test_wf_page : Instr.wf (.pageStaged 4718592) = false ∧ Instr.wf (.restorePageDone 4718592) = false := by decide
theorem test_wf_doorbell : Instr.wf (.doorbell 0 0 4090 8 0#64) = false ∧ Instr.wf (.doorbell 0 0 0 0 0#64) = false := by decide
theorem test_wf_bar4_length : Instr.wf (.bar4Access 0 0 4 (some [1#8])) = false ∧ Instr.wf (.bar4Access 0 0 0 none) = false := by decide
theorem test_wf_bar0 : Instr.wf (.registerWrite 0 0xFFFFFC 8 0#64) = false := by decide
theorem test_wf_nonce : Instr.wf (.attest .host [] true) = false := by decide
theorem test_wf_arguments : [Instr.getLog .rack 0 65536, .setRackCap .rack 256, .setStartOverride .rack 256, .setChip .rack 65536, .retireChannel .rack 65536,
    .sensorRead .rack 65536].any Instr.wf = false := by decide
theorem test_wf_image : Instr.wf (.firmwareUpdate .rack { component := .mgmt, version := 0, svn := 33, keyOk := true, digest := 0, bodyDigest := 0, sigOk := true }) = false := by decide
theorem test_wf_delay : Instr.wf (.linkRetrainDone 0 4 ⟨0, 0, 0, 131072⟩) = false ∧ Instr.wf (.linkRetrainDone 0 4 ⟨5, 9, 8, 20⟩) = false ∧
    Instr.wf (.linkTraining (Vector.replicate 18 0#4) (Vector.replicate 18 ⟨1, 0, 0, 0⟩)) = false := by decide

/-! ### The queue, decoding and reset -/

theorem test_front_runs_first : (match step { pending := [.mapRebuildDone, .tick], dev := (up.modHbm (fun h => { h with busy := true })) } with
    | .next t => (t.pending, t.dev.hbm.busy) | .fault _ => ([], true) | .refused _ => ([], true)) = ([.tick], false) := by decide +kernel
theorem test_empty_queue_idles : (match step (st up) with | .next t => t.dev.ft.now | .fault _ => 0 | .refused _ => 0) = 100 := by decide
theorem test_no_word_decodes : decodeTableWord 32 0 = none ∧ State.reset.withFetchWord 32 0 = State.reset := by decide
/-- The premises of the invariants hold at reset. -/
theorem test_reset_memories : Memory.wf State.reset.dev.hbm.mem = true ∧ Memory.wf State.reset.dev.hostMem = true ∧ State.reset.mgmt.released = [] := by decide
/-- A state with listed bytes and a released index below a good record meets the premises too. -/
theorem test_invariants_elsewhere : Memory.wf (withMem up 64 [1#8, 0#8, 2#8]).hbm.mem = true ∧
    (let m : Mgmt := { released := [4], attNext := 5, attA := [{ next := 5, valid := true }] }
     m.released.Nodup ∧ ∀ n ∈ m.released, n < m.attNext ∧ ∃ r ∈ m.attA, r.valid = true ∧ n < r.next) := by decide
/-- A command outside a part leaves it, and a command of the data plane leaves Forzoevo: premises met. -/
theorem test_parts_witness : Part.tiles ∉ Instr.tick.parts ∧ Instr.tick.reachesMgmt = false := by decide

/-! ### Fabric time and weather: each premise met, and its effect -/

theorem test_tick_stands : exec .tick (st (up.modFt (fun f => { f with frozen := true }))) = .next (st (up.modFt (fun f => { f with frozen := true }))) := rfl
theorem test_tick_counts : up.ft.locked = true ∧ up.ft.frozen = false ∧ ({} : Dev).ft.locked = false ∧ (dev .tick up).ft.now = 101 := by decide +kernel
/-- A schedule with base 100: after tick 101 an entry with release offset 1 is released, one with 2 is not (R41). -/
theorem test_tick_releases : let v := { up with scheds := [(1, { phase := .running, base := 100 })] }
    ((dev .tick v).sched 1).released [w64 (2 ^ 32)] = true ∧ ((dev .tick v).sched 1).released [w64 (2 ^ 33)] = false := by decide +kernel
theorem test_sample_point : let w := dev .samplePoint (upAt 3968)
    w.ft.sampledAt = some 3968 ∧ w.out.length = 1 := by decide +kernel
/-- R48 with a late stream: LATE is sent too. -/
theorem test_sample_point_late : let v := { upAt 3968 with strms := [(0, { loaded := true, lateFlag := true, slipNow := 70 })] }
    v.worstLate = some (70, 0) ∧ (dev .samplePoint v).out.length = 2 := by decide +kernel
/-- R56: a report of 5,000 ticks gives a Doldrums of two epochs. -/
theorem test_cut_off : let v := { (upAt 4032).modFt (fun f => { f with masterActive := true }) with mst := { lates := [{ boundary := 4096, slip := 5000, chip := 3 }] } }
    (dev .masterCutOff v).ft.annDold = some (2, 4096) ∧ (dev .masterCutOff v).mst.lates = [] := by decide +kernel
theorem test_boundary : let v := (upAt 4096).modFt (fun f => { f with annDold := some (2, 4096), annLull := some (3, 4096) })
    v.ft.locked = true ∧ v.ft.frozen = false ∧ v.ft.now % 4096 = 0 ∧ v.ft.boundaryAt ≠ some v.ft.now ∧ v.ft.annDold = some (2, v.ft.now) ∧
    v.ft.annLull = some (3, v.ft.now) ∧ (dev .epochBoundary v).ft.shift = 8192 ∧ (dev .epochBoundary v).ft.level = 3 := by decide +kernel
/-- A message of reserved type 9 sets MSG_DROP and does nothing else (R53). -/
theorem test_bad_weather : let m := mkW 9 0 0 0
    wBad m = true ∧ (dev (.time ⟨0, m⟩) up).ftRegs = [(0, { msgDrop := true })] := by decide +kernel

/-- A member of chip 1's slice whose master is chip 0. -/
def member : Dev := { up with chip := 1 }
/-- The active master, chip 0, which knows member 1. -/
def master : Dev := (up.modFt (fun f => { f with masterActive := true })).modMst (fun m => { m with members := [(1, { known := true })] })

/-- TIME, VALUE 500, LEVEL 2, DOLD with 3 epochs left: it locks an unlocked unit (R36). -/
theorem test_time_locks : let m := mkW 1 0 0x30A 500
    let v : Dev := { pwr := { rails := true }, chip := 1 }
    let w := (dev (.time ⟨0, m⟩) v).ft
    wBad m = false ∧ wTypeN m = 1 ∧ v.fromMaster 0 = true ∧ w.locked = true ∧ w.now = 500 ∧ w.level = 2 ∧ w.dold = true ∧ w.doldLeft = 3 := by decide +kernel
theorem test_time_step_premises : let m := mkW 1 0 0 500
    wBad m = false ∧ wTypeN m = 1 ∧ member.fromMaster (wChip m) = true ∧ member.ft.locked = true ∧ bit (wArg m) 4 = false ∧ member.ft.now ≠ wVal m := by decide +kernel
/-- A standing request of level 3 for reason 2 (R49, R56). -/
theorem test_freq_req : let m := mkW 2 1 0x23 0
    wBad m = false ∧ master.listens = true ∧ ((dev (.freqReq ⟨0, m⟩) master).member 1).level = 3 ∧ ((dev (.freqReq ⟨0, m⟩) master).member 1).reason = 2 := by decide +kernel
/-- At tick 100 the next cut-off is 4,032: the report is held for boundary 4,096 (R55). -/
theorem test_late_held : let m := mkW 3 1 70 0
    (dev (.late ⟨0, m⟩) master).mst.lates = [{ boundary := 4096, slip := 70, chip := 1 }] := by decide +kernel
/-- STATE with PSTATE 3 starts a freeze at the count plus 4 (R65). -/
theorem test_state_freezes : let m := mkW 4 1 3 100
    wBad m = false ∧ master.pwr.tripped = false ∧ master.mst.freezing = none ∧ (dev (.state ⟨0, m⟩) master).mst.freezing = some 104 := by decide +kernel
theorem test_lull_held : let m := mkW 5 0 4 4096
    (dev (.lull ⟨0, m⟩) member).ft.annLull = some (4, 4096) := by decide +kernel
theorem test_doldrums_held : let m := mkW 6 0 2 4096
    (dev (.doldrums ⟨0, m⟩) member).ft.annDold = some (2, 4096) := by decide +kernel
/-- Tf reached at once, and not reached yet (R65). -/
theorem test_freeze : (dev (.freeze ⟨0, (mkW 7 0 0 100)⟩) member).ft.frozen = true ∧ (dev (.freeze ⟨0, (mkW 7 0 0 101)⟩) member).ft.freezeAt = some 101 ∧
    (dev (.freeze ⟨0, (mkW 7 0 0 101)⟩) member).ft.frozen = false := by decide +kernel
theorem test_thaw_premises : let m := mkW 8 0 0x200 4096
    wBad m = false ∧ wTypeN m = 8 ∧ member.fromMaster (wChip m) = true ∧ bits (wArg m) 15 8 = 2 := by decide +kernel
theorem test_doldrums_end : let v := up.modFt (fun f => { f with dold := true })
    v.ft.doldLeft = 0 ∧ v.ft.annDold = none ∧ (dev .doldrumsEnd v).ft.dold = false := by decide +kernel
theorem test_master_thaw_premises : let v := (up.modFt (fun f => { f with masterActive := true, frozen := true })).modMst (fun m => { m with freezing := some 100 })
    v.mst.freezing = some 100 ∧ v.ft.masterActive = true ∧ v.ft.frozen = true ∧ v.allReady = true := by decide +kernel
theorem test_frozen_timer : let v := up.modFt (fun f => { f with frozen := true })
    v.pwr.tripped = false ∧ v.pwr.chrysalis = false ∧ (dev .frozenMessageTimer v).out.length = 1 := by decide +kernel
theorem test_holdover : (dev .timeHoldover up).ft.frozen = true ∧ (dev .timeHoldover up).ft.holdover = true ∧ up.ft.masterActive = false := by decide +kernel
theorem test_member_absent : ((dev (.memberAbsent 1#14) master).member 1).absent = true ∧ (master.member 1).known = true ∧ master.chip = 0 := by decide +kernel
/-- ROLE 2 in FAB_TIME_CFG: the standby. -/
theorem test_takeover : let v := up.modFtReg 0 (fun r => { r with cfg := 0x14001012#32 })
    v.role = 2 ∧ v.ft.locked = true ∧ v.ft.masterActive = false ∧ (dev .masterTakeover v).ft.masterActive = true := by decide +kernel
/-- ROLE 1 on die 0 of an unlocked unit locks it as master at count 0 (R37); a locked unit ignores the write (R21). -/
theorem test_time_cfg : let v : Dev := { pwr := { rails := true } }
    (dev (.fabTimeCfgWrite 0 0x14001011#32) v).ft.masterActive = true ∧ (dev (.fabTimeCfgWrite 0 0x14001011#32) up).ftRegs = [] := by decide +kernel

/-! ### Streams -/

/-- A loaded SE stream of stack 0 with two entries in stack memory at 0. -/
def fetching : Dev := { withMem up 0 (entry 1 4 [5#64, 0#64, 0#64, 0#64, 0#64, 0#64] |>.flatMap fun w => toBytes w.toNat 8) with
  scheds := [(1, { phase := .running, streams := [146], relTop := 1 })]
  strms := [(146, { loaded := true, sched := 1, count := 2 })] }
/-- The first entry is fetched as memory holds it, and no more than COUNT entries are (R95). -/
theorem test_fetch : fetching.issueOk = true ∧ fetching.permits 0 0 64 false false = true ∧ fetching.pathAt 0 64 = none ∧
    ((dev (.streamFetch 146) fetching).strm 146).buf.map (fun e => (e.idx, eOp e.words)) = [(0, 1), (1, 0)] := by decide +kernel
/-- MARK starts and is in flight with its sources free; it retires with its mark (R88). -/
theorem test_mark : let v := withHead up 146 (entry 1 4 [7#64, 0#64, 0#64, 0#64, 0#64, 0#64])
    (v.startable 146 1).isSome = true ∧ ((dev (.mark 146) v).strm 146).flights.map (fun f => (f.idx, f.srcDone)) = [(0, true)] ∧
    ((dev (.entryRetire 146) (dev (.mark 146) v)).strm 146).lastMark = 7#32 := by decide +kernel
theorem test_nop_premises : let v := withHead up 0 (entry 0 0 [0#64, 0#64, 0#64, 0#64, 0#64, 0#64])
    (v.startable 0 0).isSome = true ∧ v.retirable 0 = none := by decide +kernel
/-- SOURCE_FREE sends one signal to counter 9: SIG0 with MODE 2 (Table 3.4). -/
theorem test_source_free : let v : Dev := { up with strms := [(0, { flights := [{ idx := 3, words := [0#64, w64 ((9 + 2 * 2 ^ 14) * 2 ^ 32)], srcDone := true }] })] }
    ((v.strm 0).flights.find? (fun f => f.srcDone && !f.sfSent && !f.withdrawn && !f.part)).isSome = true ∧
    ((dev (.sourceFree 0) v).ctr 9).transit = 1 := by decide +kernel
/-- A head that waits for 3 signals of counter 5 of core 0, which holds 3, and one which holds 2 (R85). -/
def waiting (have_ : Nat) : Dev :=
  { withHead up 0 [0#64, w64 (5 + 3 * 2 ^ 11)] with
    strms := [(0, { loaded := true, sched := 1, count := 1, fetchNext := 1, buf := [{ idx := 0, words := [0#64, w64 (5 + 3 * 2 ^ 11)] }], checked := true, tested := true })]
    ctrs := [(5, { value := have_, kind := 1 })] }
theorem test_wait_grants : ((waiting 3).tests 0).isSome = true ∧ (((waiting 3).grantOne (.stream 0)).strm 0).granted = true ∧
    (((waiting 3).grantOne (.stream 0)).ctr 5).value = 0 := by decide +kernel
theorem test_wait_holds : ((waiting 2).tests 0).isSome = true ∧ (((waiting 2).grantOne (.stream 0)).strm 0).granted = false ∧
    (((waiting 2).grantOne (.stream 0)).ctr 5).value = 2 := by decide +kernel
/-- STALL_LIMIT 1: after 4,096 ticks the stream faults with WAIT_STALL (R104). -/
theorem test_stall : let v := (waiting 2).modStrm 0 (fun q => { q with stallLimit := 1, stall := 4096 })
    v.stalled 0 = some 0 ∧ (v.flt 0).valid = false ∧ ((dev (.waitStall 0) v).flt 0).cause = 0x23 ∧ ((dev (.waitStall 0) v).sched 1).halted = true := by decide +kernel
theorem test_capture_ends : let v := { up with
      fault := [(0, { capturing := true, cause := 0x23, capScheds := [1] })]
      scheds := [(1, { phase := .running, halted := true, status := 0x23 })] }
    v.captureDone [1] = true ∧ ((dev (.faultCaptureEnd 0 false) v).flt 0).valid = true ∧ ((dev (.faultCaptureEnd 0 false) v).sched 1).phase = .stopped := by decide +kernel

/-! ### The matrix and vector engines -/

/-- MM_FWD, M = K = N = 1, one core, INT8 elements, no scales. -/
def mmWords (op : Nat) (m k : Nat) (acc : Bool) : List W64 :=
  entry op 0 [w64 (m + k * 2 ^ 13 + 2 ^ 26 + 9 * 2 ^ 45 + 9 * 2 ^ 49 + b2n acc * 2 ^ 57), 0#64, 0#64, 0#64, 0#64, 0#64]
theorem test_matrix_premises : ∀ op ∈ [0x10, 0x11, 0x12, 0x13], let ws := mmWords op 1 1 false
    let v := withHead up 0 ws
    v.startable 0 op = some ws ∧ shapeOf (decMx ws).shape = some (1, 1) ∧ (decMx ws).empty = false ∧ (decMx ws).k = 1 := by decide +kernel
theorem test_matrix_empty : let ws := mmWords 0x10 0 1 false
    (decMx ws).empty = true ∧ (decMx (mmWords 0x10 1 0 true)).acc = true ∧ (decMx (mmWords 0x10 1 0 true)).k = 0 ∧
    ((dev (.mmFwd 0) (withHead up 0 ws)).strm 0).flights.map (fun f => f.srcDone) = [true] := by decide +kernel
/-- R210: the sum wraps to -2^31. -/
theorem test_integer_step : intStep 0x7FFFFFFF [1] = 0x80000000 ∧ intStep 0 [3 * -4, 2] = 0xFFFFFFF6 := by decide +kernel
/-- R206: an infinity meets its opposite. -/
theorem test_step_nan : fpStep 0x7F800000 [.inf true] (.ofInt 1) = 0x7FC00000 ∧ fpStep 0 [.nan false] (.ofInt 1) = 0x7FC00000 := by decide +kernel
theorem test_vector_premises : ∀ op ∈ [0x10, 0x11, 0x12, 0x13, 0x14, 0x15], let ws := entry op 1 [w64 (2 ^ 20 + 2 ^ 36), 0#64, 0#64, 0#64, 0#64, 0#64]
    let v := withHead up 1 ws
    v.startable 1 op = some ws ∧ (decVx ws).empty = false ∧ (v.core 0).spadBad = [] ∧ ∀ a ∈ v.vxRecords 0 (decVx ws), v.pathAt a 64 = none := by decide +kernel
theorem test_vector_empty : let ws := entry 0x10 1 [w64 (2 ^ 36), 0#64, 0#64, 0#64, 0#64, 0#64]
    (decVx ws).empty = true ∧ ((dev (.vEw 0) (withHead up 1 ws)).strm 1).flights.map (fun f => f.wait) = [.none] := by decide +kernel
/-- A row of NEG on FP32 elements: 1.0 gives -1.0 (Table 8.4). -/
theorem test_ew_row : let o : VxOps := decVx (entry 0x10 1 [w64 (7 + 10 * 2 ^ 8 + 10 * 2 ^ 16 + 2 ^ 20 + 2 ^ 36), 0#64, 0#64, 1#64, 0#64, 0#64])
    let k : Core := ({} : Core).spadWrite 0 (toBytes 0x3F800000 4)
    k.rowCodes o.a o.aacc o.af 0 1 = [0x3F800000] ∧ o.dacc = false := by decide +kernel
theorem test_scale_update_premises : let ws := entry 0x15 4 [0#64, 0#64, 1#64, 0#64, 0x1000#64, 0x2000#64]
    let v := withHead up 146 ws
    v.startable 146 0x15 = some ws ∧ v.pathAt 0x2000 64 = none ∧ v.pathAt 0x1000 128 = none ∧ (decSe ws).statrec = 0x2000#64 ∧ (decSe ws).aux = 0x1000#64 := by decide +kernel
theorem test_vector_scale_update_premises : let ws := entry 0x16 1 [0#64, 0#64, 0#64, 0#64, w64 (4 + 2 ^ 24), w64 (2 ^ 24)]
    let v := withHead up 1 ws
    v.startable 1 0x16 = some ws ∧ v.recSlot 0 (decVx ws).stat = 256 ∧ v.recSlot 0 (decVx ws).s0 = 0 ∧ v.pathAt 256 64 = none ∧ v.pathAt 0 128 = none := by decide +kernel
/-- A gather of one row of 4 bytes, stride 64 and 16 window rows. -/
def gatWords (op : Nat) : List W64 := entry op 1 [w64 (2 ^ 20 + 2 ^ 36), w64 (2 ^ 20), 0x10000#64, w64 (16 + 64 * 2 ^ 32), 0#64, 0#64]
theorem test_gather : let v := withHead (withMem up 0x10000 [1#8, 2#8, 3#8, 4#8]) 1 (gatWords 0x17)
    v.startable 1 0x17 = some (gatWords 0x17) ∧ v.windowOk 0 (decGat (gatWords 0x17)) false = true ∧ (decGat (gatWords 0x17)).rows = 1 ∧
    (v.gatherRows 1 0 (decGat (gatWords 0x17)) false (List.range 1)).2 = none ∧
    ((dev (.vGather 0) v).core 0).spadRead 64 4 = [1#8, 2#8, 3#8, 4#8] := by decide +kernel
theorem test_gather_bounds : let g := decGat (gatWords 0x17)
    let at_ (ix : Nat) : Dev := up.modCore 0 (fun k => k.spadWrite 0 (toBytes ix 4))
    g.index ((at_ 15).core 0) 0 < g.wcount ∧ g.wcount ≤ g.index ((at_ 16).core 0) 0 ∧
    (((at_ 16).gatherRows 1 0 g false [0]).1.strm 1).oob = 1 := by decide +kernel
theorem test_scatter : let v := withHead (up.modCore 0 (fun k => k.spadWrite 64 [9#8, 8#8, 7#8, 6#8])) 1 (gatWords 0x18)
    v.startable 1 0x18 = some (gatWords 0x18) ∧ v.windowOk 0 (decGat (gatWords 0x18)) true = true ∧
    (v.scatterRows 1 0 0 (decGat (gatWords 0x18)) (List.range 1)).2 = none ∧ (dev (.vScatter 0) v).stk8 0x10000 4 = [9#8, 8#8, 7#8, 6#8] := by decide +kernel
theorem test_dispatch : let ws := entry 0x19 1 [w64 (1 + 2 ^ 20), 0#64, 0#64, 0#64, w64 (1 + 2 ^ 16), 0#64]
    (withHead up 1 ws).startable 1 0x19 = some ws ∧ ((dev (.vDispatch 0) (withHead up 1 ws)).strm 1).flights.map (fun f => f.srcDone) = [true] := by decide +kernel
/-- R229: a merge adds COUNT. -/
theorem test_stat_merge : up.recordOk 0 64 64 = true ∧ up.pathAt 64 64 = none ∧ (dev (.statMerge 0 64 { count := 5 }) (withMem up 64 [3#8])).stk8 64 1 = [8#8] := by decide +kernel
theorem test_acquire_premises : let v := (withHead up 0 (mmWords 0x10 1 1 false)).modStrm 0 (fun q => { q with acquiring := true })
    (v.strm 0).headEntry.isSome = true ∧ (v.strm 0).granted = true ∧ (v.strm 0).acquiring = true ∧ strmKind 0 ≤ 2 ∧
    ((dev (.acquireDone 0) v).strm 0).acquiring = false := by decide +kernel

/-! ### The DMA engines -/

/-- A descriptor: 64 bytes of stack memory at 0x1000 to the scratchpad of core 0 at 0, channel 2, width 64 bytes; sealed, with LEN. -/
def dmaWords (len : Nat) (seald : Bool) : List W64 :=
  entry 0x10 2 [0x1000#64, 0x10000000000#64, w64 (len + 2 ^ 32 + 2 * 2 ^ 48 + b2n seald * 2 ^ 53), w64 (6 + 6 * 8), 0x2000#64, 0x2008#64]
/-- Channel 2 of core 0 in this state. -/
def withChan (ch : DmaChan) : Dev := (withMem up 0x1000 (List.replicate 64 5#8)).modDmaCh 0 2 (fun _ => ch)
theorem test_dma_copy : let v := withHead up 2 (dmaWords 64 true)
    v.startable 2 0x10 = some (dmaWords 64 true) ∧ (decDma (dmaWords 64 true)).total = 64 ∧ (v.dmaCh 0 2).phase = .idle ∧
    ((dev (.dmaCopy 0) v).dmaCh 0 2).phase = .seal0 := by decide +kernel
theorem test_dma_zero : let v := withHead up 2 (dmaWords 0 false)
    v.startable 2 0x10 = some (dmaWords 0 false) ∧ ((dev (.dmaCopy 0) v).dmaCh 0 2).lastStatus = 1 := by decide +kernel
theorem test_dma_busy : let v := (withHead up 2 (dmaWords 64 false)).modDmaCh 0 2 (fun _ => { phase := .moving })
    v.startable 2 0x10 = some (dmaWords 64 false) ∧ ((dev (.dmaCopy 0) v).dmaCh 0 2).queue.length = 1 := by decide +kernel
/-- A burst of 64 bytes is issued, and returns the source's bytes (R372, R376). -/
theorem test_burst_issue : let v := withChan { phase := .moving, cur := { words := dmaWords 64 false } }
    v.burstReady 0 2 = true ∧ v.otherModule 0x1000#64 = false ∧ v.permits 0 0x1000 64 false false = true ∧
    ((dev (.burstIssue 0 2) v).dmaCh 0 2).bursts = [{ off := 0, len := 64 }] := by decide +kernel
theorem test_burst_return : let v := { withChan { phase := .moving, cur := { words := dmaWords 64 false }, next := 64, bursts := [{ off := 0, len := 64 }] } with
      rgn := [(0, region), (1, { region with base := 0x10000000000#64 })] }
    v.pathAt 0x1000 64 = none ∧ ((decDma (dmaWords 64 false)).readSpan 0 64) = (0x1000, 64) ∧
    ((dev (.burstReturn 0 2 0) v).core 0).spadRead 63 2 = [5#8, 0#8] := by decide +kernel
theorem test_seal0 : let v := withMem (withChan { phase := .seal0, cur := { words := dmaWords 64 true } }) 0x2000 [7#8]
    (v.rdHere 0 0x2000#64 8 0).1.isOk = true ∧ ((dev (.sealS0Return 0 2) v).dmaCh 0 2).sealWord = some 7#64 := by decide +kernel
/-- The second seal word: unchanged, the mark is written; changed, the status is SOURCE_CHANGED (R387). -/
def sealing (s0 : W64) : Dev :=
  withMem (withChan { phase := .seal1, cur := { words := dmaWords 64 true }, next := 64, done := 64, sealWord := some s0 }) 0x2000 [7#8]
theorem test_seal1_same : ((sealing 7#64).dmaCh 0 2).allLanded (decDma (dmaWords 64 true)) = true ∧ (sealing 7#64).pathAt 0x2008 8 = none ∧
    (sealing 7#64).permits 0 0x2008 8 true false = true ∧ ((dev (.sealS1Return 0 2) (sealing 7#64)).dmaCh 0 2).lastStatus = 0 ∧
    (dev (.sealS1Return 0 2) (sealing 7#64)).stk8 0x2008 1 = [7#8] := by decide +kernel
theorem test_seal1_changed : ((dev (.sealS1Return 0 2) (sealing 6#64)).dmaCh 0 2).lastStatus = 2 ∧
    (dev (.sealS1Return 0 2) (sealing 6#64)).stk8 0x2008 1 = [0#8] := by decide +kernel
theorem test_dma_registers : let v := (withChan { phase := .stopped, cur := { words := dmaWords 64 false } }).modDma 0 (fun e => { e with stopped := true })
    v.coreClaimed 0 = false ∧ ((dev (.dmaEngClear 0 0x1C000#32) v).core 0).dma.stopped = false := by decide +kernel
theorem test_dma_restart_drop : let v := withChan { phase := .stopped, cur := { words := dmaWords 64 false }, next := 64 }
    (v.dmaCh 0 2).phase = .stopped ∧ (v.core 0).dma.stopped = false ∧ ((dev (.dmaDrop 0 2 8#32) v).dmaCh 0 2).lastStatus = 3 ∧
    ((dev (.dmaRestart 0 2 4#32) v).dmaCh 0 2).next = 0 ∧ ((dev (.dmaRestart 0 2 12#32) v).dmaCh 0 2).phase = .stopped := by decide +kernel
theorem test_dma_req : let v := up.modDma 0 (fun e => { e with lines := [(3, { kind := 1, arg := 2, pending := 9 })] })
    (tget ({} : ReqLine) ((dev (.dmaReqWrite 0 3 0x201#32) v).core 0).dma.lines 3).pending = 9 ∧
    (tget ({} : ReqLine) ((dev (.dmaReqWrite 0 3 0x301#32) v).core 0).dma.lines 3).pending = 0 := by decide +kernel

/-! ### Sync counters and barriers -/

/-- Table 10.1 for COUNT at its top and EVENT already 1. -/
theorem test_signal : let v := { up with ctrs := [(5, { kind := 1, value := 4294967294, transit := 1 }), (6, { kind := 1, value := 4294967295, transit := 1 }), (7, { kind := 2, transit := 1, value := 1 })] }
    ((dev (.counterSignal 5) v).ctr 5).value = 4294967295 ∧ ((dev (.counterSignal 5) v).ctr 5).overflow = false ∧ ((dev (.counterSignal 6) v).ctr 6).overflow = true ∧
    ((dev (.counterSignal 7) v).ctr 7).overflow = true := by decide +kernel
theorem test_signal_misuse : let v := { up with ctrs := [(5, { transit := 1 })] }
    v.pwr.tripped = false ∧ ((dev (.counterSignal 5) v).ctr 5).misuse = true ∧ ((dev (.counterSignal 5) v).ctr 5).value = 0 := by decide +kernel
/-- Without a signal in transit the command does nothing. -/
theorem test_signal_none : exec (.counterSignal 5) (st up) = .next (st up) := rfl
theorem test_counter_written : ((dev (.synCtrWrite 1 6144 0x200000001#64) up).ctr 13312).value = 1 ∧ ((dev (.synCtrWrite 1 6144 0x200000002#64) up).ctr 13312).misuse = true := by decide +kernel
/-- The module with a region over its sync counter window (base 1.5 TiB) on each die. -/
def windowed : Dev := { up with rgn := [(0, { base := w64 syncBase, attr := 4557#32 }), (256, { base := w64 syncBase, attr := 4557#32 })] }
theorem test_counter_window : windowed.permits 0 (syncBase + 114680) 8 true false = true ∧ ((dev (.counterWindowAccess 0 114680 8 true) windowed).ctr 14335).transit = 1 ∧
    windowed.permits 0 (syncBase + 114688) 8 true false = true ∧ ((dev (.counterWindowAccess 0 114688 8 true) windowed).synSt 0).badId = true ∧
    ((dev (.counterWindowAccess 1 4 8 true) windowed).synSt 1).badId = true ∧ up.permits 0 (syncBase + 8) 8 true false = false := by decide +kernel
theorem test_barrier : let v := { up with bars := [(2, { mask := 3#48, arrived := 1#48, gen := 65535, sigEn := true, sigId := 14335 })] }
    ((v.barArrive 2 1).bar 2).gen = 0 ∧ ((v.barArrive 2 1).ctr 14335).transit = 1 ∧ ((v.barArrive 2 0).bar 2).arrived = 1#48 ∧
    ((dev (.synBarMaskWrite 0 2 7#64) v).bar 2).arrived = 0#48 := by decide +kernel

/-! ### The scalar unit -/

/-- Context 1 of core 0, running at 0, with 0x2000 in x5 and 77 in x6. -/
def ctx1 : Ctx := { state := .running, regs := [(5, 0x2000#64), (6, 77#64)] }
/-- The module with that context; with a cacheable region when asked, and a clean L1 line of 64 bytes there. -/
def scl (q : Ctx) : Dev := up.modCtx 0 1 (fun _ => q)
def sclCached (q : Ctx) : Dev := { (scl q).modCore 0 (fun k => { k with l1 := [(128, { data := List.replicate 64 0xFF#8 })] }) with rgn := [(0, { attr := 5069#32 })] }
theorem test_launch : let w := (dev (.scalarRun 0 2#32) up).ctx 0 1
    (up.ctx 0 1).busy = false ∧ w.state = .running ∧ w.reg 10 = 1#64 ∧ w.reg 11 = 0#64 := by decide +kernel
theorem test_stop : let v := scl { state := .waiting, wait := .counter 5 1 4#64 }
    (v.ctx 0 1).busy = true ∧ ((dev (.scalarStop 0 0x200#32) v).ctx 0 1).state = .stopped ∧ ((dev (.scalarStop 0 0x200#32) v).ctx 0 1).wait = .none ∧
    ((dev (.scalarStop 0 0x200#32) (scl { state := .waiting, wait := .barrier 5 1 4#64 })).ctx 0 1).state = .stopped := by decide +kernel
/-- LW of a cached line sign-extends, LWU does not. -/
theorem test_load_cached : (sclCached ctx1).cacheable 0 0x2000 4 = true ∧ ((sclCached ctx1).sclFetch 0 0 4).1 = false ∧
    (((dev (.scalarLoad 0 1 7 5 0#12 2 false false) (sclCached ctx1)).ctx 0 1).reg 7) = 0xFFFFFFFFFFFFFFFF#64 ∧
    (((dev (.scalarLoad 0 1 7 5 0#12 2 true false) (sclCached ctx1)).ctx 0 1).reg 7) = 0xFFFFFFFF#64 := by decide +kernel
theorem test_load_miss : ((sclCached { ctx1 with regs := [] }).sclFetch 0 0 4).1 = false ∧
    ((dev (.scalarLoad 0 1 7 0 0#12 3 false false) (sclCached ctx1)).ctx 0 1).wait = .load 0 3 false 7 false 4#64 := by decide +kernel
theorem test_load_bypass : (scl ctx1).permits 0 0x2000 8 false false = true ∧ (scl ctx1).cacheable 0 0x2000 8 = false ∧ (scl ctx1).otherModule 0x2000#64 = false ∧
    ((dev (.scalarLoad 0 1 7 5 0#12 3 false true) (scl ctx1)).ctx 0 1).wait = .load 0x2000 3 false 7 true 2#64 := by decide +kernel
theorem test_store_cached : let w := dev (.scalarStore 0 1 6 5 0#12 0 false) (sclCached ctx1)
    (w.core 0).l1Read 0x2000 2 = [77#8, 0xFF#8] ∧ ((w.core 0).l1Line 128).dirty = true ∧ w.hbm.mem = [] ∧ (w.ctx 0 1).pc = 4#64 := by decide +kernel
theorem test_store_bypass : let u := dev (.scalarStore 0 1 6 5 0#12 0 false) (scl ctx1)
    let w := dev (.scalarAccessReturn 0 1) u
    (u.ctx 0 1).state = .waiting ∧ u.hbm.mem = [] ∧ u.permits 0 0x2000 1 true false = true ∧ u.pathAt 0x2000 1 = none ∧ w.stk8 0x2000 2 = [77#8, 0#8] ∧
    (w.ctx 0 1).pc = 4#64 := by decide +kernel
theorem test_amo : let w := dev (.scalarAmo 0 1 .add 7 5 6 false) (sclCached ctx1)
    (w.ctx 0 1).reg 7 = 0xFFFFFFFFFFFFFFFF#64 ∧ (w.core 0).l1Read 0x2000 4 = toBytes 76 4 := by decide +kernel
theorem test_sc : let r := sclCached { ctx1 with reservation := some 128 }
    ((dev (.scalarAmo 0 1 .sc 7 5 6 false) r).ctx 0 1).reg 7 = 0#64 ∧ ((dev (.scalarAmo 0 1 .sc 7 5 6 false) (sclCached ctx1)).ctx 0 1).reg 7 = 1#64 ∧
    ((dev (.scalarAmo 0 1 .lr 7 5 0 true) (sclCached ctx1)).ctx 0 1).reservation = some 128 := by decide +kernel
theorem test_access_returns : let q : Ctx := { ctx1 with state := .waiting, wait := .load 0x2000 1 false 7 true 8#64 }
    ((scl q).rdHere 0 0x2000#64 2 0).1.isOk = true ∧ ((dev (.scalarAccessReturn 0 1) (scl q)).ctx 0 1).pc = 8#64 := by decide +kernel
theorem test_cached_returns : let go (w : CtxWait) : Ctx := (dev (.scalarAccessReturn 0 1) (sclCached { ctx1 with state := .waiting, wait := w })).ctx 0 1
    (go (.load 0x2000 0 true 7 false 8#64)).reg 7 = 255#64 ∧ (go (.store 0x2000 [1#8] false 8#64)).pc = 8#64 ∧
    (go (.amo 0x2000 .swap 7 6 false false 8#64)).reg 7 = 0xFFFFFFFFFFFFFFFF#64 ∧ (sclCached ctx1).cacheable 0 0x2000 4 = true := by decide +kernel
theorem test_traps : let cause (i : Instr) (v : Dev) : Nat := ((dev i v).ctx 0 1).cause
    let bare : Dev := { scl ctx1 with rgn := [(0, { attr := 153#32 })] }
    cause (.scalarLoad 0 1 7 5 1#12 2 false false) (scl ctx1) = 4 ∧ cause (.scalarStore 0 1 7 5 1#12 2 false) (scl ctx1) = 6 ∧
    (bare.sclFetch 0 0 4).1 = false ∧ cause (.scalarLoad 0 1 7 5 0#12 2 false false) bare = 5 ∧ cause (.scalarStore 0 1 7 5 0#12 2 false) bare = 7 ∧
    ({ scl ctx1 with rgn := [] }.sclFetch 0 0 4).1 = true ∧ cause (.twHalt 0 1) { scl ctx1 with rgn := [] } = 1 ∧ cause (.ecall 0 1 0x73#32) (scl ctx1) = 11 := by decide +kernel
theorem test_extensions : let w (i : Instr) : Ctx := (dev i (scl ctx1)).ctx 0 1
    (w (.csrRead 0 1 7 0xF14#12)).reg 7 = 1#64 ∧ (w (.csrRead 0 1 7 0xC01#12)).reg 7 = 100#64 ∧ (w (.fence 0 1)).pc = 4#64 ∧
    ((dev (.fence 0 1) (scl { ctx1 with posted := 1 })).ctx 0 1).wait = .fence 4#64 ∧ ((dev (.twSig 0 1 5) (scl ctx1)).ctr 8192).transit = 1 ∧
    (w (.twCtr 0 1 7 6)).pc = 4#64 ∧ (w (.twHalt 0 1)).state = .halted ∧ (w (.twFlush 0 1 5 0)).pc = 4#64 := by decide +kernel
theorem test_tw_wait : waitable 0 77 = true ∧ ((dev (.twWait 0 1 6 6) (scl ctx1)).ctx 0 1).wait = .counter 77 77 4#64 ∧ ((dev (.twWait 0 1 6 0) (scl ctx1)).ctx 0 1).pc = 4#64 := by decide +kernel
theorem test_tw_barrier : let v := { scl { ctx1 with regs := [(5, 2#64)] } with bars := [(2, { mask := 3#48, gen := 9 })] }
    v.barOk 0 2 = true ∧ ((dev (.twBara 0 1 7 5) v).ctx 0 1).reg 7 = 9#64 ∧ ((dev (.twBarw 0 1 5 0) v).ctx 0 1).pc = 4#64 ∧
    ((dev (.twBarw 0 1 5 5) { v with bars := [(2, { mask := 3#48, gen := 2 })] }).ctx 0 1).wait = .barrier 2 2 4#64 := by decide +kernel
theorem test_tw_range : ((sclCached ctx1).flushRange 0 0x2000 77 (some (.ctx 0 1))).2 = false ∧ ((dev (.twInv 0 1 5 6) (sclCached ctx1)).core 0).l1Line 128 = {} ∧
    ((dev (.flushDone 0 1) (scl { ctx1 with state := .waiting, wait := .flush 4#64 })).ctx 0 1).pc = 4#64 ∧ sclTrap 0x13 = none := by decide +kernel
theorem test_clr_count : ((dev (.clrCount 0 0x10001#32) (up.modCore 0 (fun k => { k with corrCount := 5, spadParity := true, corr := true }))).core 0).corrCount = 0 := by decide +kernel


/-! ### The stacks, their maps and the regions -/

/-- SE words 2 to 7. -/
def seW (op dst src n ty rest aux rc : Nat) : List W64 := entry op 4 [w64 dst, w64 src, w64 (n + ty * 2 ^ 40 + rest), 0#64, w64 aux, w64 rc]
/-- Stack bytes 1 to 64 at 0. -/
def bytes64 : Dev := withMem up 0 ((List.range 64).map (fun i => byteOf (i + 1)))
/-- The source of every flight of the stack's stream. -/
def freed (v : Dev) : List Bool := (v.strm 146).flights.map (fun f => f.srcDone && decide (f.wait = .none))
/-- The pattern repeats from its first byte (Table 12.8). -/
theorem test_se_fill : let v := withHead up 146 (seW 0x10 4096 0 64 0 0 0x0807060504030201 0)
    (v.startable 146 0x10).isSome = true ∧ v.pathAt 4096 64 = none ∧ (dev (.seFill 0) v).stk8 4096 9 = [1#8, 2#8, 3#8, 4#8, 5#8, 6#8, 7#8, 8#8, 1#8] ∧
    freed (dev (.seFill 0) v) = [true] := by decide +kernel
theorem test_se_fill_zero : let v := withHead bytes64 146 (seW 0x10 0 0 0 0 0 5 0)
    (v.startable 146 0x10).isSome = true ∧ (dev (.seFill 0) v).hbm = v.hbm ∧ freed (dev (.seFill 0) v) = [true] := by decide +kernel
theorem test_se_copy : let v := withHead bytes64 146 (seW 0x11 4096 0 64 0 0 0 0)
    (v.startable 146 0x11).isSome = true ∧ v.pathAt 0 64 = none ∧ v.pathAt 4096 64 = none ∧ (dev (.seCopy 0) v).stk8 4158 3 = [63#8, 64#8, 0#8] := by decide +kernel
/-- INT32 sum of two sources, no report: 1 + 2 (R434). -/
def reducing (stat : Nat) : Dev :=
  withHead (withMem (withMem up 0 [1#8]) 64 [2#8]) 146 (entry 0x12 4 [4096#64, 0#64, w64 (1 + 2 * 2 ^ 40 + stat * 2 ^ 46 + 2 * 2 ^ 47), 64#64, 0#64, 8192#64])
theorem test_se_reduce : ((reducing 1).startable 146 0x12).isSome = true ∧ ((dev (.seReduce 0) (reducing 1)).stk8 4096 4) = [3#8, 0#8, 0#8, 0#8] ∧
    (dev (.seReduce 0) (reducing 1)).recWords 8192 1 = [1#64] := by decide +kernel
/-- One chunk and no root: the digest of 64 zero bytes begins F5 A5 FD 42 (FIPS 180-4). -/
theorem test_se_digest : let v := withHead up 146 (seW 0x13 0 0 64 0 (12 * 2 ^ 55) 4096 0)
    (v.startable 146 0x13).isSome = true ∧ (dev (.seDigest 0) v).stk8 4096 4 = [0xF5#8, 0xA5#8, 0xFD#8, 0x42#8] := by decide +kernel
/-- FP8 format and no block scaling: two FP32 elements, one zero (R436). -/
theorem test_se_stat : let v := withHead (withMem up 4 [0#8, 0#8, 0x80#8, 0x3F#8]) 146 (seW 0x14 0 0 2 0 0 16384 8192)
    (v.startable 146 0x14).isSome = true ∧ v.pathAt 16384 128 = none ∧ ((dev (.seStat 0) v).recWords 8192 2) = [2#64, 1#64] := by decide +kernel
theorem test_se_scupd_premises : let v := withHead up 146 (seW 0x15 0 0 0 0 0 16384 8192)
    (v.startable 146 0x15).isSome = true ∧ v.pathAt 8192 64 = none ∧ v.pathAt 16384 128 = none ∧ v.moult.active = false := by decide +kernel

/-- An update of one group: master at 0x1000, gradient 0x2000, moments 0x3000 and 0x4000, records at 0x5000 on. -/
def updW (op groups flags : Nat) : List W64 :=
  entry op 4 [w64 (0x10 + 0x20 * 2 ^ 32), w64 (0x30 + 0x40 * 2 ^ 32), w64 (0x60 + 0x70 * 2 ^ 32), w64 (0x50 + 0x51 * 2 ^ 32), w64 (groups + flags * 2 ^ 32),
    w64 (0x52 + 0x53 * 2 ^ 32)]
def updating (op groups flags : Nat) : Dev := withHead (withMem up 0x2000 [0#8, 0#8, 0x80#8, 0x3F#8]) 146 (updW op groups flags)
/-- With every hyperparameter 0 the first moment of a gradient of 1.0 is 0, and no byte of the master changes. -/
theorem test_upd_programs : ∀ x ∈ [(Instr.updAdamw 0, 0x20), (.updLion 0, 0x21), (.updSgdm 0, 0x22), (.updMicro 0, 0x23), (.updWcopy 0, 0x25)],
    ((updating x.2 1 0).startable 146 x.2).isSome = true ∧ (updRecs x.2 (decUpd (updW x.2 1 0))).all (fun e => decide ((updating x.2 1 0).pathAt e.1 e.2 = none)) = true := by
  decide +kernel
theorem test_upd_sgdm : (dev (.updSgdm 0) (updating 0x22 1 0)).stk8 0x1000 4 = [0#8, 0#8, 0#8, 0#8] ∧
    (decUpd (updW 0x22 1 0)).ngrp = 1 ∧ (decUpd (updW 0x22 1 0)).vfEn = false ∧ freed (dev (.updSgdm 0) (updating 0x22 1 0)) = [true] := by decide +kernel
theorem test_upd_none : (dev (.updLion 0) (updating 0x21 0 0)).hbm = (updating 0x21 0 0).hbm ∧ freed (dev (.updLion 0) (updating 0x21 0 0)) = [true] := by decide +kernel
/-- With VF_EN and a slot that has a reader the entry is held, its slot DRAINING; with none it runs (R462, R464). -/
theorem test_upd_fence : let v := withMem (updating 0x22 1 0x20) 0x5100 (toBytes (encVSlot { tag := 0, readers := 1, state := 1, mismatch := false, misuse := false }).toNat 8)
    (v.vslot 0x5100 0).readers = 1 ∧ ((dev (.updSgdm 0) v).vslot 0x5100 0).state = 2 ∧ ((dev (.updSgdm 0) v).stk 0).holds = 1 ∧
    ((updating 0x22 1 0x20).vslot 0x5100 0).readers = 0 ∧ freed (dev (.updSgdm 0) (updating 0x22 1 0x20)) = [true] := by decide +kernel
/-- A clip whose NORM_SQ is an infinity, with MAXNORM 1.0, skips (R447). -/
theorem test_upd_skip : let v := withMem (updating 0x22 1 1) 0x5024 (toBytes 0x3F800000 4 ++ List.replicate 8 0#8 ++ toBytes 0x7FF0000000000000 8)
    isPosNormal (decHyper (v.recWords 0x5000 8)).maxnorm = true ∧ clipFactor (decHyper (v.recWords 0x5000 8)) = none ∧
    ((dev (.updSgdm 0) v).stk 0).skipped = 1 ∧ clipFactor (decHyper ((updating 0x22 1 1).recWords 0x5000 8)) ≠ none := by decide +kernel
/-- The microcode at 0 reads as END instructions (R452, R453). -/
theorem test_upd_micro : (Dev.updCode (updating 0x23 1 0) 146 (decHyper ((updating 0x23 1 0).recWords 0x5000 8))).1.isOk = true ∧
    ucodeBad (ucodeOf (bytesToWords 32 (List.replicate 256 0#8))) = false := by decide +kernel
/-- N = 0 writes +0.0 to AUX (R460); else the partial of 2.0 is 4.0. -/
theorem test_upd_rednorm : let v (n : Nat) := withHead (withMem (withMem up 0 [0#8, 0#8, 0#8, 0x40#8]) 8192 [9#8]) 146 (seW 0x24 4096 0 n 0 (2 ^ 47) 8192 0)
    ((v 0).startable 146 0x24).isSome = true ∧ (dev (.updRednorm 0) (v 0)).stk8 8192 1 = [0#8] ∧
    (dev (.updRednorm 0) (v 1)).stk8 4096 4 = [0#8, 0#8, 0#8, 0x40#8] ∧ (dev (.updRednorm 0) (v 1)).stk8 8192 8 = toBytes 0x4010000000000000 8 := by decide +kernel

/-- Version records (R463): the seventh slot boundary, an acquire of the wrong tag, a release with no reader. -/
def verAddr (x : Nat) : W64 := w64 (verBase + x)
def slot3 : Dev := { withMem up 24 (toBytes (encVSlot { tag := 5, readers := 0, state := 1, mismatch := false, misuse := false }).toNat 8) with
  rgn := [(0, region), (1, { region with base := w64 verBase })] }
theorem test_version : let d (op tag : Nat) := toBytes (3 + op * 4 + tag * 2 ^ 32) 8
    placeOf (verAddr 0).toNat = .version 0 ∧ slot3.permits 0 (verAddr 0).toNat 8 true false = true ∧ slot3.pathAt 0 64 = none ∧
    ((dev (.versionAcq 0 (verAddr 0) (d 1 5)) slot3).vslot 0 3) = { tag := 5, readers := 1, state := 1, mismatch := false, misuse := false } ∧
    ((dev (.versionAcq 0 (verAddr 0) (d 1 6)) slot3).vslot 0 3).mismatch = true ∧
    ((dev (.versionRel 0 (verAddr 0) (d 2 5)) slot3).vslot 0 3) = { tag := 5, readers := 0, state := 1, mismatch := false, misuse := true } := by decide +kernel
/-- ADD of INT32: the window of operation 8 combines 7 with the 1 held at 0. -/
theorem test_atomic : let v := { withMem up 0 [1#8] with rgn := [(0, region), (1, { region with base := w64 (atomBase + 8 * atomStep) })] }
    placeOf (atomBase + 2 * atomStep) = .atomic 2 0 ∧ atomicGood 2 0 4 = true ∧ atomicKind 2 = some (2, 0) ∧ ownRequester 0 = true ∧ ownRequester 73 = false ∧
    v.permits 0 (atomBase + 8 * atomStep) 4 true false = true ∧
    (dev (.atomicWrite 0 0 (w64 (atomBase + 8 * atomStep)) [7#8, 0#8, 0#8, 0#8]) v).stk8 0 1 = [7#8] := by decide +kernel
/-- A fill on its channel; a slot of the queue is held while the channel retrains (R426). -/
theorem test_task : let t : EngTask := .fill 64 0x1122334455667788#64
    let v := up.modChan (up.hbm.chanOf 64) (fun c => { c with retraining := true })
    taskGood t = true ∧ taskDst t = 64 ∧ (dev (.engineTask (Fin.ofNat 256 (up.hbm.chanOf 64)) t) v).stk8 64 2 = [0x88#8, 0x77#8] ∧
    ((dev (.engineTask (Fin.ofNat 256 (up.hbm.chanOf 64)) t) v).chan (up.hbm.chanOf 64)).queue = [t] ∧
    ((dev (.engineTask (Fin.ofNat 256 (up.hbm.chanOf 64)) t) up).chan (up.hbm.chanOf 64)).queue = [] := by decide +kernel
/-- A change of SIZE while enabled is refused with code 5; a disable is taken; an enable of a bad size is refused (Table 9.6). -/
theorem test_region : (dev (.rgnAttrWrite 0 0 4559#32) up).rgnSt 0 = { err := 5, errEntry := 0, errValid := true } ∧ ((dev (.rgnAttrWrite 0 0 4559#32) up).rgnE 0) = region ∧
    ((dev (.rgnAttrWrite 0 0 4556#32) up).rgnE 0).en = false ∧ (dev (.rgnAttrWrite 0 255 0x3#32) up).rgnE 255 = { attr := 2#32 } ∧
    ((dev (.rgnAttrWrite 0 255 0x3#32) up).rgnSt 0).errEntry = 255 := by decide +kernel
/-- The ninth failure in a row begins a capture (R157). -/
theorem test_bridge : let v := up.modFabD 0 (fun f => { f with bridgeFails := [(0, 8), (4, 8)] })
    ((dev (.bridgeTransfer 0 none true) up).fabD 0).bridgeFails = [(0, 1)] ∧ (v.flt 0).valid = false ∧ ((dev (.bridgeTransfer 0 none true) v).flt 0).cause = 0x43 ∧
    ((dev (.bridgeTransfer 0 none false) v).fabD 0).bridgeFails = [(4, 8)] ∧ ((dev (.bridgeTransfer 0 (some 3) true) v).fabD 0).bridgeFails = [(0, 8)] := by decide +kernel

/-- HBM_MAINT with windows: refresh every 4 ticks for 1 from tick 0, retraining of 5 ticks every epoch from tick 100. -/
def maint : W64 := w64 (1 + 8 + 4096 + 100 * 2 ^ 20 + 5 * 2 ^ 32)
def keeping (n : Nat) : Dev := ((upAt n).modHbm (fun h => { h with maint := maint })).modChan 127 (fun c => { c with trained := true, deferred := 1 })
theorem test_refresh : (keeping 100).windowed = true ∧ (keeping 100).inRefresh = true ∧ ((dev (.refreshWindow 0) (keeping 100)).chan 127).deferred = 0 ∧
    (keeping 101).inRefresh = false ∧ ((dev (.refreshWindow 0) (keeping 101)).chan 127).deferred = 1 ∧ ((keeping 101).chan 128).deferred = 0 ∧
    ((dev (.refreshDue 128) (keeping 101)).chan 128).deferred = 1 := by decide +kernel
theorem test_retrain_window : (keeping 4196).inRetrain = true ∧ (keeping 4196).chanLive 127 = true ∧ ((dev (.retrainWindow 0) (keeping 4196)).chan 127).retraining = true ∧
    ((dev (.retrainWindow 0) (keeping 4197)).chan 127).retraining = false := by decide +kernel
theorem test_retrain : ((dev (.unscheduledRetrain 127 .drift) (keeping 101)).chan 127).retrains = 1 ∧ ran (.unscheduledRetrain 127 .due) (st (keeping 4196)) = st (keeping 4196) ∧
    ((dev (.unscheduledRetrain 127 .due) (keeping 105)).chan 127).retraining = true ∧
    ((dev (.unscheduledRetrain 127 (.lane true 1 3 (.parity [0, 1, 2, 3, 4, 5, 6, 7, 8, 9, 10, 11, 12, 13, 14, 15]))) (keeping 101)).chan 127).caSpares = 2 := by decide +kernel
theorem test_retrain_no_spare : let v := (keeping 101).modChan 127 (fun c => { c with dqSpares := 2, caSpares := 1 })
    (v.chan 127).spare false 0 = none ∧ (v.chan 127).spare true 0 = none ∧ ((v.chan 127).spare true 1).isSome = true ∧
    ((dev (.unscheduledRetrain 127 (.lane true 0 0 .margin)) v).chan 127).retirePending = true := by decide +kernel
theorem test_retrain_end : let v := (keeping 101).modChan 127 (fun c => { c with retraining := true })
    (v.chan 127).retraining = true ∧ ((dev (.retrainEnd 127 false) v).chan 127).failed = true ∧ ((dev (.retrainEnd 127 true) v).chan 127).failed = false := by decide +kernel
/-- The map changes while quiet, and is refused while a schedule is loaded (R440). -/
theorem test_map : bytes64.mapQuiet = true ∧ (dev (.hbmMapCfgWrite 1#32) bytes64).hbm.mode = 1 ∧ (dev (.hbmMapCfgWrite 1#32) bytes64).stk8 0 1 = [0#8] ∧
    dev (.hbmMapCfgWrite 2#32) bytes64 = bytes64 ∧ ({ bytes64 with scheds := [(1, { phase := .loaded })] } : Dev).mapQuiet = false ∧
    (dev (.hbmMapCfgWrite 1#32) { bytes64 with scheds := [(1, { phase := .loaded })] }).hbm.refused = true ∧
    (dev .mapRebuildDone (dev (.hbmMapCfgWrite 1#32) bytes64)).hbm.busy = false := by decide +kernel
/-- A window of 5 ticks from 4,091 fits an epoch, from 4,092 it does not (R441). -/
theorem test_maint : let x (o : Nat) : W64 := w64 (1 + 8 + 4096 + o * 2 ^ 20 + 5 * 2 ^ 32)
    maintBad (x 4091) = false ∧ maintBad (x 4092) = true ∧ (dev (.hbmMaintWrite (x 4091)) up).hbm.maintWritten = x 4091 ∧ dev (.hbmMaintWrite (x 4092)) up = up := by decide +kernel

/-! ### The fabric and the collective engines -/

/-- Chip 5 is routed over link 0, which is up; chip 6 is routed to the gateway. -/
def net : Dev := (up.modLinkN 0 (fun k => { k with state := 2, lanes := 4 })).modFabD 0 (fun f => { f with routes := [(5, 17#32), (6, 3#32)] })
/-- A packet of chip 5 for this module, from unit 3 with identity 7. -/
def pk (kind len off tag : Nat) (data : List Byte) : Packet := mkPacket kind 0 5 0 len 3 7 off tag data
/-- Sent answers' kinds. -/
def sentKinds (v : Dev) : List Nat := v.out.filterMap (fun m => match m with | .packet _ p => some (pKind p) | _ => none)
theorem test_write : net.portOpen 0 (.link 0) (pk 0 2 4096 0 [1#8, 2#8]) = true ∧ packetGood 0 (pk 0 2 4096 0 [1#8, 2#8]) = true ∧
    net.inbound 0 (.link 0) (pk 0 2 4096 0 [1#8, 2#8]) = .ok ∧ net.permits 0 4096 2 true true = true ∧
    net.routeFor 0 5 3 4096 = (.link 0, 0) ∧ (dev (.write 0 (.link 0) (pk 0 2 4096 0 [1#8, 2#8])) net).stk8 4095 4 = [0#8, 1#8, 2#8, 0#8] ∧
    sentKinds (dev (.write 0 (.link 0) (pk 0 2 4096 0 [1#8, 2#8])) net) = [3] := by decide +kernel
/-- A packet for another chip is misrouted; one of a chip with no route, or of the gateway's chip on a link, is denied (R490). -/
theorem test_inbound : net.inbound 0 (.link 0) (mkPacket 0 1 5 0 0 3 7 0 0 []) = .misrouted ∧ net.inbound 0 (.link 0) (mkPacket 0 0 4 0 0 3 7 0 0 []) = .denied ∧
    net.inbound 0 (.link 0) (mkPacket 0 0 6 0 0 3 7 0 0 []) = .denied ∧
    ((dev (.write 0 (.link 0) (mkPacket 0 1 5 0 0 3 7 0 0 [])) net).fabD 0).misrouted = true := by decide +kernel
theorem test_read : let v := withMem net 8 [9#8]
    packetGood 1 (pk 1 1 8 0 []) = true ∧ v.permits 0 8 1 false true = true ∧
    ((dev (.read 0 (.link 0) (pk 1 1 8 0 [])) v).out.getLast?) = some (.packet (.link 0) (mkPacket 2 5 0 0 1 3 7 8 0 [9#8])) := by decide +kernel
/-- A landing slot takes the tag; its completion; a stray of the abandoned tag (R498). -/
theorem test_chunk : let v := net.modLand 0 7 (fun l => { l with used := true, ctag := 9, got := 2 })
    packetGood 5 (pk 5 2 64 9 [1#8, 2#8]) = true ∧ (net.land 0 7).judge 9 = .mine ∧ ((dev (.chunkData 0 (.link 0) (pk 5 2 64 9 [1#8, 2#8])) net).land 0 7).got = 2 ∧
    ((dev (.chunkData 0 (.link 0) (pk 5 2 64 9 [1#8, 2#8])) net).land 0 7).ctag = 9 ∧
    packetGood 6 (pk 6 0 0 9 (toBytes 2 16)) = true ∧ ((dev (.chunkDone 0 (.link 0) (pk 6 0 0 9 (toBytes 2 16))) v).land 0 7).complete = true ∧
    ((dev (.chunkDone 0 (.link 0) (pk 6 0 0 9 (toBytes 3 16))) v).land 0 7).complete = false := by decide +kernel
theorem test_stray : let v := net.modLand 0 7 (fun l => { l with atag := 9, atagValid := true })
    (v.land 0 7).judge 9 = .stray ∧ ((dev (.chunkData 0 (.link 0) (pk 5 2 64 9 [1#8, 2#8])) v).fabD 0).lateDiscards = 1 := by decide +kernel

/-- A request of unit 3 with identity 7 at offset 8 of chip 5, outstanding. -/
def asked (wr : Bool) (pu : ReqPurpose) : Dev := net.modFabD 0 (fun f => { f with reqs := [{ chip := 5, sunit := 3, id := 7, off := 8, len := 4, write := wr, purpose := pu }] })
def matched (v : Dev) (p : Packet) : Bool := (v.match? 0 p (fun _ => true)).isSome
/-- A context of core 0 that waits for the load. -/
def loading (pu : ReqPurpose) (wr : Bool) : Dev := (asked wr pu).modCtx 0 1 (fun _ => { state := .waiting, wait := .load 8 2 false 5 false 4#64, posted := 1 })
theorem test_read_data : let p := pk 2 4 8 0 [0#8, 0#8, 0#8, 0x80#8]
    packetGood 2 p = true ∧ matched (loading (.sclLoad 0 1) false) p = true ∧
    ((dev (.readData 0 (.link 0) p) (loading (.sclLoad 0 1) false)).ctx 0 1).reg 5 = 0xFFFFFFFF80000000#64 ∧
    ((dev (.readData 0 (.link 0) p) (loading (.sclLoad 0 1) false)).ctx 0 1).pc = 4#64 ∧
    ((dev (.readData 0 (.link 0) p) (loading (.sclLoad 0 1) false)).fabD 0).reqs = [] := by decide +kernel
/-- The channel's burst and its seal word take their answers. -/
def dmaAsked (pu : ReqPurpose) (wr : Bool) : Dev :=
  (asked wr pu).modDmaCh 0 2 (fun _ => { phase := .moving, sealAsked := true, acks := [(8, 4)], bursts := [{ off := 64, len := 64, remote := true, waiting := 2 }] })
theorem test_read_data_dma : let p := pk 2 4 8 0 [1#8, 2#8, 3#8, 4#8]
    ((dev (.readData 0 (.link 0) p) (dmaAsked (.dmaRead 0 2 64 4) false)).dmaCh 0 2).bursts.map (fun b => (b.waiting, b.pieces)) = [(1, [(4, [1#8, 2#8, 3#8, 4#8])])] ∧
    ((dev (.readData 0 (.link 0) p) (dmaAsked (.sealRead 0 2 0) false)).dmaCh 0 2).sealAns = some [1#8, 2#8, 3#8, 4#8] := by decide +kernel
theorem test_wack : let p := pk 3 0 8 0 []
    packetGood 3 p = true ∧ matched (loading (.sclStore 0 1 0#64) true) p = true ∧
    ((dev (.wack 0 (.link 0) p) (loading (.sclStore 0 1 0#64) true)).ctx 0 1).posted = 0 ∧
    ((dev (.wack 0 (.link 0) p) (dmaAsked (.dmaWrite 0 2 8 4) true)).dmaCh 0 2).acks = [] ∧
    ((dev (.wack 0 (.link 0) p) (asked true (.chunk 0 0))).fabD 0).reqs = [] := by decide +kernel
theorem test_error : let p := pk 4 0 8 0 []
    packetGood 4 p = true ∧ ((dev (.error 0 (.link 0) p) (loading (.sclLoad 0 1) false)).ctx 0 1).cause = 5 ∧
    ((loading (.sclStore 0 1 12#64) true).ctx 0 1).busy = true ∧
    ((dev (.error 0 (.link 0) p) (loading (.sclStore 0 1 12#64) true)).ctx 0 1).cause = 7 ∧
    ((dev (.error 0 (.link 0) p) (dmaAsked (.dmaRead 0 2 64 4) false)).core 0).dma.errKind = 3 ∧
    ((dev (.error 0 (.link 0) p) (asked true (.chunk 0 0))).fabD 0).reqs = [] := by decide +kernel
theorem test_ack_timeout : ((dev (.ackTimeout 0 0) (asked true (.chunk 0 9))).fabD 0).ceLost = [(9, 5)] ∧ (asked true (.chunk 0 9)).ft.frozen = false ∧
    ((dev (.ackTimeout 0 0) (loading (.sclLoad 0 1) false)).ctx 0 1).cause = 5 ∧ ((dev (.ackTimeout 0 0) (loading (.sclLoad 0 1) false)).fabD 0).timeout = true := by
  decide +kernel

/-- CE words 2 to 7: A, B, word 4's fields, CCADDR 0x100, LAND, TAG 9. -/
def ceW (op a b w4 : Nat) : List W64 := entry op 3 [w64 a, w64 b, w64 w4, w64 1, 0#64, w64 (9 * 65536)]
/-- One FP32 element of 2.0 at 0. -/
def two : Dev := withMem net 0 [0#8, 0#8, 0#8, 0x40#8]
/-- A chunk of one element to chip 6 by the gateway: its packet and CHUNK_DONE. -/
theorem test_ce_send : let ws := ceW 0x10 0 (6 * 2 ^ 48 + 4096) (1 + 7 * 2 ^ 46)
    let v := withHead two 144 ws
    (v.startable 144 0x10).isSome = true ∧ v.ceHeld [((decCe ws).a, 4, false)] = false ∧ v.ceMeets 0 [((decCe ws).a, 4, false)] = none ∧ (v.fabD 0).relink = false ∧
    fld (decCe ws).b 61 48 = 6 ∧ bit (v.route 0 6).toNat 1 = true ∧ sentKinds (dev (.ceSend 0) v) = [5, 6] ∧ ((dev (.ceSend 0) v).fabD 0).ceSent = 2 := by decide +kernel
/-- The entry waits, and combines 2.0 with the 2.0 that landed: SUM in slot 7 (R502 to R505). -/
def recvW (tol : Nat) : List W64 := ceW 0x11 4096 0 (1 + 7 * 2 ^ 46 + 1 * 2 ^ 56 + 2 ^ 59 + tol * 2 ^ 61)
def landedDev (tol waited : Nat) (done : Bool) : Dev :=
  ({ two with
    scheds := [(1, { phase := .running, streams := [144], relTop := 1 })]
    strms := [(144, { loaded := true, sched := 1, count := 1, fetchNext := 1, next := 1, flights := [{ idx := 0, words := recvW tol, wait := .recv, tol := waited }] })] } : Dev).modLand 0 7
    (fun _ => { used := true, ctag := 9, got := 4, announced := some 4, cc := 3, complete := done })
theorem test_ce_recv_waits : let v := withHead two 144 (recvW 0)
    v.ceWaiting 0 = none ∧ (v.startable 144 0x11).isSome = true ∧ v.slotReady 0 (recvW 0) = false ∧
    ((dev (.ceRecv 0) v).strm 144).flights.map (fun f => f.wait) = [.recv] := by decide +kernel
theorem test_ce_recv : let v := landedDev 0 0 true
    let o := decCe (recvW 0)
    (v.ceWaiting 0).isSome = true ∧ v.slotReady 0 (recvW 0) = true ∧ (v.land 0 o.lid).cfmt = o.cfmt ∧ (v.land 0 o.lid).announced = some (ceSent o) ∧
    v.ceHeld (recvTouch o true) = false ∧ v.ceMeets 0 (recvTouch o true) = none ∧
    (dev (.ceRecv 0) v).stk8 4096 4 = [0#8, 0#8, 0x80#8, 0x40#8] ∧ (dev (.ceRecv 0) v).stk8 o.ccaddr 1 = [3#8] := by decide +kernel
theorem test_ce_tolerated : let v := landedDev 1 0 false
    let o := decCe (recvW 1)
    o.tol = true ∧ o.tolwait = 0 ∧ v.slotReady 0 (recvW 1) = false ∧ v.ceMeets 0 (recvTouch o false) = none ∧ v.ceHeld (recvTouch o false) = false ∧
    ((dev (.ceTolerated 0) v).land 0 7).atag = 9 ∧ ((dev (.ceTolerated 0) v).land 0 7).atagValid = true ∧ ((dev (.ceTolerated 0) v).fabD 0).tolerated = 1 := by decide +kernel
/-- The sum of one FP64 of 2.0 at 8. -/
theorem test_ce_norm : let v := withHead (withMem net 8 (toBytes 0x4000000000000000 8)) 144 (ceW 0x12 4096 8 1)
    (v.startable 144 0x12).isSome = true ∧ v.ceMeets 0 [(8#64, 8, false), (4096#64, 8, true)] = none ∧
    (dev (.ceNorm 0) v).stk8 4096 8 = toBytes 0x4000000000000000 8 := by decide +kernel
/-- A fence waits for the chunk before it, and ends with none outstanding (R507). -/
theorem test_ce_fence : let v (rs : List Req) := withHead (net.modFabD 0 (fun f => { f with ceSent := 1, reqs := rs })) 144 (ceW 0x13 0 0 0)
    let r : Req := { chip := 5, sunit := 128, id := 0, off := 0, len := 4, write := true, purpose := .chunk 0 0 }
    (v [r]).ceUnacked 0 1 = true ∧ ((v [r]).startable 144 0x13).isSome = true ∧ ((dev (.ceFence 0) (v [r])).strm 144).flights.map (fun f => (f.wait, f.step)) = [(.fence, 1)] ∧
    (v []).ceUnacked 0 1 = false ∧ ((dev (.ceFence 0) (v [])).strm 144).flights.map (fun f => f.srcDone) = [true] := by decide +kernel
theorem test_ce_fence_ends : let v : Dev := { net with
      scheds := [(1, { phase := .running, streams := [144], relTop := 1 })]
      strms := [(144, { loaded := true, sched := 1, count := 1, fetchNext := 1, next := 1, flights := [{ idx := 0, words := ceW 0x13 0 0 0, wait := .fence, step := 1 }] })] }
    ((v.strm 144).flights.find? (fun g => decide (g.wait = .fence) && !g.withdrawn && !g.part)).isSome = true ∧ v.ceUnacked 0 1 = false ∧
    ((dev (.ceFence 0) v).strm 144).flights.map (fun f => f.wait) = [.none] := by decide +kernel

/-- Three lanes go on, two take the link down at the next failure (R476). -/
theorem test_lane_fail : let v (n : Nat) := net.modLinkN 0 (fun k => { k with lanes := n })
    ((dev (.laneFail 0 3) (v 3)).linkN 0).lanes = 2 ∧ ((dev (.laneFail 0 3) (v 2)).linkN 0).state = 0 ∧ ((dev (.laneFail 0 3) (v 3)).linkN 0).laneFailed = 8 := by decide +kernel
/-- The 32nd failed replay takes the link down (R480). -/
theorem test_replay : let v := net.modLinkN 0 (fun k => { k with replays := 31 })
    ((dev (.linkReplay 0 true false) v).linkN 0).state = 0 ∧ ((dev (.linkReplay 0 true true) v).linkN 0).replays = 0 ∧
    ((dev (.linkReplay 0 true false) net).linkN 0).state = 2 ∧ ((dev (.linkReplay 0 true false) net).linkN 0).fecUncorr = 1 := by decide +kernel
theorem test_link_retrain : ((dev (.lnkCtlRetrain 0 1#32) net).linkN 0).state = 1 ∧ ((dev (.lnkCtlRetrain 0 3#32) net).linkN 0).state = 0 ∧
    ((dev (.linkRetrainDone 0 2 ⟨10, 500, 510, 61⟩) (dev (.lnkCtlRetrain 0 1#32) net)).linkN 0).lanes = 2 ∧
    ((dev (.linkRetrainDone 0 1 ⟨0, 0, 0, 10⟩) (dev (.lnkCtlRetrain 0 1#32) net)).linkN 0).state = 0 := by decide +kernel
theorem test_rxbuf : ((dev (.lnkRxbufWrite 17 0x1319#64) up).linkN 17) = { rxEn := true, rxSize := 12, rxBlk := 12, rxBase := 4096 } := by decide +kernel
theorem test_land_clr : let v := net.modLand 0 1023 (fun l => { l with used := true, ctag := 9 })
    ((dev (.landClr 0 1#32) v).land 0 1023).used = false ∧ dev (.landClr 0 0#32) v = v ∧ ((landedDev 0 0 true).strm 144).loaded = true ∧
    dev (.landClr 0 1#32) (landedDev 0 0 true) = landedDev 0 0 true := by decide +kernel

/-! ### Power -/

/-- The module with these power fields. -/
def pw (g : Pwr → Pwr) : Dev := up.modPwr g
theorem test_gust : up.clocksRun = true ∧ tget 0 (dev (.gust 1) up).pwr.countGust 1 = 1 ∧ (pw (fun p => { p with tripped := true })).clocksRun = false := by decide +kernel
theorem test_pwrwarn : tget false (dev (.pwrwarn 1) up).pwr.warn 1 = true ∧ tget false (dev (.pwrwarnDeassert 1) (dev (.pwrwarn 1) up)).pwr.warn 1 = false ∧
    tget false (ran (.pwrwarn 1) (stm { resetHold := true } up)).dev.pwr.warn 1 = false := by decide +kernel
theorem test_pwrwarn_held : let v := pw (fun p => { p with warn := [(0, true)] })
    v.pwr.warned = true ∧ (dev .pwrwarnHeld v).pwr.squall = true ∧ (dev .squallExit (dev .pwrwarnHeld v)).pwr.squall = true := by decide +kernel
/-- 43.99 V enters SQUALL at the level of PWR_CFG; 44.0 V does not (R524). -/
theorem test_squall : up.squallable = true ∧ (dev (.squall 4399) up).pwr.squallReq = up.pwr.squallLevel ∧ (dev (.squall 4400) up).pwr.squall = false ∧
    (dev .squallExit (dev (.squall 4399) up)).pwr.squall = false := by decide +kernel
/-- Below 40.0 V or above 63.0 V (R527). -/
theorem test_chrysalis : lostInput 3999 = true ∧ lostInput 4000 = false ∧ lostInput 6300 = false ∧ lostInput 6301 = true ∧
    (dev (.chrysalisEntry 3999) up).ft.tf = some 100 ∧ (dev (.chrysalisEntry 3999) up).pwr.onBank = true := by decide +kernel
theorem test_chrysalis_again : let v := pw (fun p => { p with chrysalis := true, exiting := true })
    (dev (.chrysalisEntry 6301) v).pwr.exiting = false ∧ ((dev (.chrysalisEntry 6301) v).stk 7).selfRefresh = true := by decide +kernel
theorem test_dip_and_load : let v := pw (fun p => { p with chrysalis := true, onBank := true })
    (dev (.powerDip 6001) up).out.length = 0 ∧ (dev (.powerDip 6001) up).pwr.vin = 6001 ∧ (dev (.inputTakesLoad 4600) v).pwr.onBank = false ∧
    (dev (.inputTakesLoad 6001) v).pwr.onBank = true ∧ goodInput 4599 = false ∧ goodInput 4600 = true ∧ goodInput 6000 = true ∧ goodInput 6001 = false := by decide +kernel
theorem test_chrysalis_exit : let v := pw (fun p => { p with chrysalis := true })
    (dev (.chrysalisExit 4600) v).pwr.exiting = true ∧ (dev (.chrysalisExit 4599) v).pwr.exiting = false := by decide +kernel
theorem test_issue_resume : let v (n : Nat) := pw (fun p => { p with chrysalis := true, exiting := true, tripSamples := n })
    (dev .issueResume (v 1)).pwr.chrysalis = false ∧ (dev .issueResume (v 2)).pwr.tripped = true := by decide +kernel
theorem test_ride_through : let v := (pw (fun p => { p with energy := 0, onBank := true, chrysalis := true })).stkPut 0 [1#8]
    (ran (.rideThroughLost 9) (st v)).dev.pwr.rails = false ∧ (ran (.rideThroughLost 9) (st v)).dev.stk8 0 1 = [0#8] ∧
    (ran (.rideThroughLost 9) (st v)).mgmt.log.map (fun e => (e.code, e.a0)) = [(1, 9)] := by decide +kernel
theorem test_thermal_cut : (dev .thermalCut125c up).pwr.rails = false := by decide +kernel
/-- 24,000 mJ is 80% (R537). -/
theorem test_bank : (dev (.bankUpdate 24000) up).pwr.bankLow = false ∧ (dev (.bankUpdate 23999) up).pwr.bankLow = true ∧ (dev (.bankUpdate 30001) up).pwr.energy = 30000 := by
  decide +kernel
theorem test_power_sample : (dev (.powerSample 3201) up).pwr.fast = true ∧ (dev (.powerSample 3200) up).pwr.fast = false ∧
    (dev .fastLimiterExpiry (dev (.powerSample 3201) up)).pwr.fast = false := by decide +kernel
/-- Above the cap of 2,600 W the last domain of CUT1 is cut by a step; with every share at its floor UNMET is set; with room the step returns. -/
theorem test_cap : let m : Mgmt := { running := true }
    let floor := pw (fun p => { p with kc := 2, memShare := 4, linkShare := 8 })
    let cut := pw (fun p => { p with kc := 15, cuts := [0] })
    up.capRuns = true ∧ up.pwr.takeWrites.capWatts = 2600 ∧ up.pwr.takeWrites.nextCut.isSome = true ∧
    (ran (.capControlInstant 2601 0 0 false false) (stm m up)).dev.pwr.cuts.length = 1 ∧ (ran (.capControlInstant 2600 0 0 false false) (stm m up)).dev.pwr.cuts = [] ∧
    floor.pwr.takeWrites.nextCut = none ∧ (ran (.capControlInstant 2601 0 0 false false) (stm m floor)).dev.pwr.unmet = true ∧
    (ran (.capControlInstant 2600 0 0 true false) (stm m cut)).dev.pwr.kc = 16 ∧ (ran (.capControlInstant 9999 0 0 true false) (st up)).dev.pwr.cuts = [] := by decide +kernel
/-- The order 2, 1, 0 is taken; one that names domain 1 twice is ignored (R543). -/
theorem test_power_writes : cutsGood 0x140#32 = false ∧ cutsGood 0x180#32 = true ∧ (dev (.pwrCfgWrite 0xFF180#32) up).pwr.cfg = 0x180#32 ∧
    (dev (.pwrCapWrite 0x0300007F#32) up).pwr.hostCapNext = some (56, 3) ∧
    (dev (.pwrEnergyClear 1#32) (pw (fun p => { p with energyTab := [(16, 5)] }))).pwr.energyTab = [] := by decide +kernel
theorem test_energy_premise : up.pwr.rails = true ∧ energyShare [] 7 16 = 7 ∧ energyShare [3, 1] 8 0 = 6 := by decide +kernel
/-- HOT above 85 and until 83; a second sample of 115 trips the module (R408, R550). -/
theorem test_thermal : let ts (n : Nat) : Vector Nat 8 := ⟨#[n, 0, 0, 0, 0, 0, 0, 0], rfl⟩
    let v := pw (fun p => { p with tripSamples := 1 })
    ((dev (.thermalSample 0 0 (ts 86)) up).stk 0).hot = true ∧ ((dev (.thermalSample 0 0 (ts 85)) up).stk 0).hot = false ∧
    (dev (.thermalSample 115 0 (ts 0)) v).pwr.tripped = true ∧ (dev (.thermalSample 114 0 (ts 105)) v).pwr.tripped = true ∧
    (dev (.thermalSample 114 0 (ts 104)) v).pwr.tripSamples = 0 := by decide +kernel
theorem test_thermal_request : let ts : Vector Nat 8 := ⟨#[0, 0, 0, 0, 0, 0, 0, 0], rfl⟩
    (ran (.thermalSample 100 0 ts) (stm { running := true } up)).dev.pwr.thermReq = up.pwr.thermLevel ∧
    (ran (.thermalSample 99 0 ts) (stm { running := true } up)).dev.pwr.thermReq = 0 := by decide +kernel

/-! ### Faults, Moult and context switches -/

theorem test_release : let v := up.modFlt 0 (fun r => { r with valid := true, pending := true })
    let w := { v with scheds := [(3, { phase := .stopped, tag := 8, late := some { order := 2, cause := 0x10 } }), (5, { phase := .stopped, late := some { order := 1, cause := 0x11 } })] }
    (v.flt 0).valid = true ∧ v.lateScheds 0 = [] ∧ ((dev (.release 0 1#32) v).flt 0).valid = false ∧ dev (.release 0 0#32) v = v ∧
    (w.lateScheds 0).map (fun e => e.1) = [5, 3] ∧ ((dev (.release 0 1#32) w).flt 0).late = true ∧ ((dev (.release 0 1#32) w).flt 0).cause = 0x11 := by decide +kernel
/-- A core whose test is due, with this many marked array columns and marked columns of bank 63. -/
def due (cols spares : Nat) : State :=
  stm { running := true } (up.modCore 47 (fun k => { k with testDue := true, marked := List.range cols, banks := [(63, { marked := List.range spares })], spad := [(4032, 7#8)] }))
theorem test_core_passed : ((due 0 0).dev.core 47).testDue = true ∧ (due 0 0).dev.coreClaimed 47 = false ∧ ((ran (.coreTested 47 .passed) (due 0 0)).dev.core 47).testDue = false := by
  decide +kernel
/-- The fourth column is marked, a fifth retires the core (R159, R161). -/
theorem test_core_column : ((ran (.coreTested 47 (.column 259)) (due 3 0)).dev.core 47).marked = [0, 1, 2, 259] ∧
    (ran (.coreTested 47 (.column 259)) (due 4 0)).mgmt.retiredCores = [47] ∧ ((due 3 0).dev.core 47).marked.contains 259 = false := by decide +kernel
/-- A marked bank's rows are zero; a fifth column of a bank retires the core (R310, R311). -/
theorem test_core_bank : mget ((ran (.coreTested 47 (.bank 63 579)) (due 0 3)).dev.core 47).spad 4032 = 0#8 ∧
    (ran (.coreTested 47 (.bank 63 579)) (due 0 3)).mgmt.softBanks = [(47, 63, 579)] ∧ ((ran (.coreTested 47 (.bank 63 579)) (due 0 4)).dev.core 47).retired = true := by decide +kernel

/-- The order of ring 0 of die 0: eight words in host memory at 0x1000; completions go to ring 1, at 0x2000. -/
def orderWords (op w1 w2 w3 w4 : Nat) : List W64 := [w64 (op + 77 * 2 ^ 32), w64 w1, w64 w2, w64 w3, w64 w4, 0#64, 0#64, 0#64]
def ordered (v : Dev) (ws : List W64) : Dev :=
  { v with
    hostMem := mwrite v.hostMem 0x1000 (ws.flatMap (fun w => toBytes w.toNat 8))
    hif := [(0, { rings := [(0, { base := 0x8000000000001000#64, shadow := 0x8000000000003000#64, cfg := w64 (1 + 4 * 8 + 65536), bell := 1 }),
                            (1, { base := 0x8000000000002000#64, shadow := 0x8000000000003008#64, cfg := w64 (3 + 4 * 8) })] })] }
/-- The order of this OP can be taken; the device after it. -/
def takes (v : Dev) (op : Nat) : Bool := (v.takeOrder 0 0 (fun x => x = op)).isSome
def taken (v : Dev) (op : Nat) : Dev := match v.takeOrder 0 0 (fun x => x = op) with | none => v | some p => p.2
/-- STATUS and HOST_STATUS of the first completion (Table 17.7). -/
def answer (v : Dev) : Nat × Nat := let w := w64 (ofBytes (v.hostRead 0x2000 8)); (fld w 23 16, fld w 27 24)

/-- A module that tracks page 0, at generation 4, with an image at 1 GiB of host memory. -/
def tracking : Dev := { up with moult := { g := 4, tracked := [(0, 1)], pgen := [(0, 4)] } }
def image : Nat := 2 ^ 63 + 0x40000000
theorem test_moult_now : let v := ordered tracking (orderWords 0x10 0 image 0 0)
    takes v 0x10 = true ∧ (taken v 0x10).moult = v.moult ∧ imageBad (w64 image) = false ∧ imageBad (w64 (image + 1)) = true ∧ fld (w64 image) 61 48 = 0 ∧
    v.moult.isTracked 0 = true ∧ (dev (.moult 0 0) v).moult.active = true ∧ (dev (.moult 0 0) v).moult.g = 5 ∧ (dev (.moult 0 0) v).moult.order.isSome = true := by decide +kernel
theorem test_moult_later : let v := ordered tracking (orderWords 0x10 0 image 101 0)
    takes v 0x10 = true ∧ (taken v 0x10).ft.locked = true ∧ (dev (.moult 0 0) v).moult.point = some 101 ∧ (dev (.moult 0 0) v).moult.active = false := by decide +kernel
theorem test_moult_point : let v := { tracking with moult := { tracking.moult with point := some 100, image := w64 image } }
    v.ft.frozen = false ∧ (dev .moultPoint v).moult.tick = 100 ∧ (dev .moultPoint v).moult.active = true ∧
    (dev .moultPoint { v with moult := { v.moult with point := some 101 } }).moult.active = false := by decide +kernel
/-- An abort ends the Moult; with none it completes alone (R580). -/
theorem test_moult_abort : let v := ordered { tracking with moult := { tracking.moult with active := true, g := 5, order := some { ring := 0, done := 1 } } } (orderWords 0x11 0 0 0 0)
    takes v 0x11 = true ∧ (taken v 0x11).moult.order.isSome = true ∧ (dev (.moultAbort 0 0) v).moult.active = false ∧
    (dev (.moultAbort 0 0) (ordered tracking (orderWords 0x11 0 0 0 0))).moult = tracking.moult ∧ answer (dev (.moultAbort 0 0) v) = (7, 0) := by decide +kernel
/-- The copier may stage page 0; a page with a path error is staged as failed (R574, R579). -/
def copying (bad : List Nat) : Dev := { tracking with
  moult := { tracking.moult with active := true, g := 5, image := w64 image }
  hbm := { tracking.hbm with stkBad := bad } }
theorem test_page : (copying []).moult.mayStage 0 = true ∧ (copying []).issueOk = true ∧ (copying []).pathAt 0 65536 = none ∧ ((copying [0]).pathAt 0 65536).isSome = true ∧
    (dev (.pageStaged 0) (copying [0])).moult.failed = 1 ∧ (dev (.pageStaged 0) (copying [0])).moult.pageErr = true := by decide +kernel
/-- T_UPDATE follows the region table, page 0 alone: SIZE 16, RD, WR, TRACK (R571). -/
theorem test_t_update : let v := { tracking with
      moult := { tracking.moult with tBusy := true, tracked := [] }
      rgn := [(7, { attr := w64 (1 + 16 * 2 + 128 + 256 + 2048) |>.setWidth 32 })] }
    v.trackRanges = [(0, 1)] ∧ (dev .tUpdate v).moult.tracked = [(0, 1)] ∧ (dev .tUpdate v).moult.tBusy = false := by decide +kernel
/-- Digests by FIPS 180-4: of no byte, and of 32 sevens. -/
def digestNone : List Byte := [0xE3#8, 0xB0#8, 0xC4#8, 0x42#8, 0x98#8, 0xFC#8, 0x1C#8, 0x14#8, 0x9A#8, 0xFB#8, 0xF4#8, 0xC8#8, 0x99#8, 0x6F#8, 0xB9#8, 0x24#8, 0x27#8, 0xAE#8, 0x41#8, 0xE4#8, 0x64#8, 0x9B#8, 0x93#8, 0x4C#8, 0xA4#8, 0x95#8, 0x99#8, 0x1B#8, 0x78#8, 0x52#8, 0xB8#8, 0x55#8]
def digestSevens : List Byte := [0x4B#8, 0xB0#8, 0x6F#8, 0x8E#8, 0x4E#8, 0x3A#8, 0x77#8, 0x15#8, 0xD2#8, 0x01#8, 0xD5#8, 0x73#8, 0xD0#8, 0xAA#8, 0x42#8, 0x37#8, 0x62#8, 0xE5#8, 0x5D#8, 0xAB#8, 0xD6#8, 0x1A#8, 0x2C#8, 0x02#8, 0x27#8, 0x8F#8, 0xA5#8, 0x6C#8, 0xC6#8, 0xD2#8, 0x94#8, 0xE0#8]
/-- An image in host memory of version 1, complete, of page 0 alone with a digest of 32 sevens, or of no page. -/
def restorable (page : Bool) : Dev :=
  { up with
    hostMem := mwrite (mwrite (mwrite [] 0x40000000 (toBytes (0x101 + 0x7A310600 * 2 ^ 32) 8)) 0x40000020 (if page then digestSevens else digestNone))
      0x40001000 (if page then [1#8] else []) |> fun m => mwrite m 0x40100000 (if page then List.replicate 32 7#8 else []) }
/-- Every stepping of the MX6 has this IDENT above its last byte. -/
theorem test_ident : glbIdent / 256 = 0x7A3106 := by
  have := Config.stepping.isLt
  unfold glbIdent
  omega
theorem test_restore : let v := ordered (restorable true) (orderWords 0x12 0 image 0 0)
    takes v 0x12 = true ∧ (taken v 0x12).quiet = true ∧ wd (orderWords 0x12 0 image 0 0) 2 = w64 image := by decide +kernel
theorem test_restore_image : ((taken (ordered (restorable true) (orderWords 0x12 0 image 0 0)) 0x12).imageCheck (w64 image)).toOption = some [0] := by
  unfold Dev.imageCheck
  rw [test_ident]
  decide +kernel
theorem test_restore_empty : ((taken (ordered (restorable false) (orderWords 0x12 0 image 0 0)) 0x12).imageCheck (w64 image)).toOption = some [] := by
  unfold Dev.imageCheck
  rw [test_ident]
  decide +kernel
theorem test_restore_refused : let v := ordered { restorable false with scheds := [(1, { phase := .loaded })] } (orderWords 0x12 0 image 0 0)
    (taken v 0x12).quiet = false ∧ answer (dev (.restore 0 0) v) = (8, 0) := by decide +kernel
/-- A restore of page 0, its image all zeros but for these bytes of the stored digest. -/
def restoring (d : List Byte) : Dev :=
  { up with moult := { restoring := true, rPages := [0], rWords := orderWords 0x12 0 image 0 0 }, hostMem := mwrite [] 0x40100000 d }
theorem test_restoring (d : List Byte) : (restoring d).moult.restoring = true ∧ 0 ∈ (restoring d).moult.rPages ∧ (restoring d).issueOk = true ∧ (restoring d).hostErr = [] ∧
    (restoring d).pathAt 0 65536 = none ∧ fld (wd (restoring d).moult.rWords 3) 61 48 = 0 := by
  refine ⟨rfl, List.mem_cons_self, rfl, rfl, ?_, ?_⟩
  · show Dev.pathAt up 0 65536 = none
    decide +kernel
  · show fld (wd (orderWords 0x12 0 image 0 0) 3) 61 48 = 0
    decide +kernel
/-- The page reads as zeros, whatever the digest, and the digest as stored. -/
theorem test_restoring_reads (d : List Byte) (h : d.length = 32) : (restoring d).hostRead 0x80000000 65536 = mread [] 0x80000000 65536 ∧
    (restoring d).imageDigest 0x40000000 0 = d := by
  have go : ∀ n a, 0x80000000 ≤ a → mread (mwrite [] 0x40100000 d) a n = mread [] a n := by
    intro n
    induction n with
    | zero => intro a _; rfl
    | succ n ih =>
      intro a ha
      show mget _ a :: _ = mget _ a :: _
      rw [ih (a + 1) (by omega), mget_mwrite_outside _ _ _ (Or.inr (by omega))]
  refine ⟨go _ _ (Nat.le_refl _), ?_⟩
  have e := mread_mwrite ([] : Mem) 0x40100000 d
  rw [h] at e
  exact e
/-- Some digest of 32 bytes is not the page's. -/
theorem test_restore_mismatch : ∃ d, d.length = 32 ∧ sha256 ((restoring d).hostRead 0x80000000 65536) ≠ (restoring d).imageDigest 0x40000000 0 := by
  by_cases h : sha256 (mread [] 0x80000000 65536) = List.replicate 32 0#8
  · refine ⟨List.replicate 32 1#8, rfl, ?_⟩
    rw [(test_restoring_reads _ rfl).1, (test_restoring_reads _ rfl).2, h]
    decide
  · refine ⟨List.replicate 32 0#8, rfl, ?_⟩
    rw [(test_restoring_reads _ rfl).1, (test_restoring_reads _ rfl).2]
    exact h
/-- The page's own digest is stored, where a digest has 32 bytes. -/
theorem test_restore_match (h : (sha256 (mread [] 0x80000000 65536)).length = 32) :
    sha256 ((restoring (sha256 (mread [] 0x80000000 65536))).hostRead 0x80000000 65536) =
      (restoring (sha256 (mread [] 0x80000000 65536))).imageDigest 0x40000000 0 := by
  rw [(test_restoring_reads _ h).1, (test_restoring_reads _ h).2]

/-- Schedule 1 of context 3 on core 0, loaded, with a save area at 0. -/
def owning (p : SchedPhase) : Dev :=
  { up with
    scheds := [(1, { phase := p, was := .loaded, context := 3, coreMask := 1#48, streams := [0] })]
    strms := [(0, { loaded := p ≠ .saved, sched := 1, count := 1 })] }
def saved : Dev := { owning .saved with ctxSw := [(0, { images := [(3, { scheds := [1], strms := [(0, { loaded := true, sched := 1, count := 1 })] })] })] }
theorem test_save : let v := ordered (owning .loaded) (orderWords 0x14 3 0 0 0)
    takes v 0x14 = true ∧ (taken v 0x14).ctxScheds 0 3 = [1] ∧ (taken v 0x14).areaBad 0 3 = false ∧ ((dev (.save 0 0) v).ctxSwD 0).busy = .draining ∧
    ((dev (.save 0 0) v).ctxSwD 0).scheds = [1] := by decide +kernel
theorem test_save_drain : let v := { owning .loaded with ctxSw := [(0, { busy := .draining, ctx := 3, scheds := [1] })] }
    ((dev (.saveDrainExpiry 0) v).ctxSwD 0).busy = .saving ∧ v.drained 0 [1] = true ∧ v.issueOk = true := by decide +kernel
theorem test_restore_ctx : let v := ordered saved (orderWords 0x15 3 101 0 0)
    let u := taken v 0x15
    takes v 0x15 = true ∧ u.areaBad 0 3 = false ∧ u.ctxUnitsBusy [1] = false ∧ u.ft.locked = true ∧ u.baseOf 101#64 0#64 = 101 ∧
    ((dev (.restoreCtx 0 0) v).ctxSwD 0).busy = .restoring ∧ ((dev (.restoreCtx 0 0) v).sched 1).phase = .loaded := by decide +kernel
/-- START_PAST at the tick itself, and not one later (R100); the codes are open. -/
theorem test_restore_ctx_times : saved.baseBad 101#64 0#64 1 2 = none ∧ saved.baseBad 100#64 0#64 1 2 = some 2 ∧ saved.baseBad 101#64 1#64 1 2 = some 1 := by decide +kernel
theorem test_ctx_copied : let v := { owning .loaded with ctxSw := [(0, { busy := .restoring, ctx := 3, scheds := [1] })] }
    ((dev (.restoreCtxCopyDone 0) v).ctxSwD 0).busy = .none ∧ v.issueOk = true ∧ v.coresOf [1] = [0] ∧ warmFor 0 0 3 = false := by decide +kernel

/-! ### The host interface -/

/-- An order with a reserved OP completes with BAD_OP, NOP with OK (Tables 17.5, 17.6). -/
theorem test_work_nop : let v (op : Nat) := ordered up (orderWords op 0 0 0 0)
    ((v 0).takeOrder 0 0 (fun x => !orderOps.contains x)).isSome = true ∧ (v 0).turn 0 = some 0 ∧ answer (dev (.workNop 0 0) (v 0)) = (0, 0) ∧
    answer (dev (.workNop 0 0) (v 6)) = (0, 1) ∧ ((dev (.workNop 0 0) (v 0)).ring 0 0).index = 1 ∧ ((dev (.workNop 0 0) (v 0)).ring 0 1).index = 1 ∧
    ((taken (v 0) 0).ring 0 1).owed = [] ∧ ((taken (v 0) 0).ring 0 1).en = true ∧ takes (v 6) 6 = true := by decide +kernel
/-- A schedule image at 0x4000: version 1, this many streams, context 3, tag 9, and one descriptor: stack 0, one entry at 0x8000, slack 1. -/
def imageAt (n slack : Nat) : Dev :=
  withMem up 0x4000 (toBytes (1 + n * 256 + 3 * 65536 + 9 * 2 ^ 32) 8 ++ toBytes 0 56 ++ toBytes 0x8000 8 ++ toBytes (1 + 4 * 2 ^ 25 + slack * 2 ^ 40) 24)
theorem test_load : let v := ordered (imageAt 1 1) (orderWords 1 5 0x4000 0 0)
    takes v 1 = true ∧ ((taken v 1).sched 5).phase = .none ∧ ((taken v 1).imageRead 0 0x4000#64 64).1.toOption.isSome = true ∧
    ((dev (.load 0 0) v).sched 5).phase = .loaded ∧ ((dev (.load 0 0) v).sched 5).context = 3 ∧ ((dev (.load 0 0) v).sched 5).tag = 9 ∧
    ((dev (.load 0 0) v).strm 146).base = 0x8000#64 ∧ answer (dev (.load 0 0) v) = (0, 0) := by decide +kernel
/-- SLACK 0 is refused with code 5 and no stream with code 3; an identifier in use with host status 2. -/
theorem test_load_refused : answer (dev (.load 0 0) (ordered (imageAt 1 0) (orderWords 1 5 0x4000 0 0))) = (5, 0) ∧
    answer (dev (.load 0 0) (ordered (imageAt 0 1) (orderWords 1 5 0x4000 0 0))) = (3, 0) ∧
    answer (dev (.load 0 0) (ordered { imageAt 1 1 with scheds := [(5, { phase := .stopped })] } (orderWords 1 5 0x4000 0 0))) = (0, 2) := by decide +kernel
/-- Schedule 5 with stream 146 of two entries. -/
def holding (p : SchedPhase) : Dev :=
  { up with scheds := [(5, { phase := p, streams := [146] })], strms := [(146, { loaded := true, sched := 5, count := 2 })] }
/-- A base one tick on is taken, the tick itself is START_PAST (R98, R100). -/
theorem test_start : let v (b : Nat) := ordered (holding .loaded) (orderWords 2 5 b 0 0)
    takes (v 101) 2 = true ∧ ((v 101).turn 0) = some 0 ∧ ((dev (.start 0 0) (v 101)).sched 5).phase = .running ∧ ((dev (.start 0 0) (v 101)).sched 5).base = 101 ∧
    answer (dev (.start 0 0) (v 100)) = (0x0E, 0) := by decide +kernel
/-- The table at 0x5000 of host memory names entry 1; a value above COUNT is refused with code 4 (R569). -/
theorem test_resume : let v (first : Nat) := { ordered (holding .stopped) (orderWords 3 5 101 0 (2 ^ 63 + 0x5000)) with
      hostMem := mwrite (ordered up (orderWords 3 5 101 0 (2 ^ 63 + 0x5000))).hostMem 0x5000 [byteOf first] }
    takes (v 1) 3 = true ∧ (taken (v 1) 3).resumeTable 5 (w64 (2 ^ 63 + 0x5000)) = [1] ∧ ((dev (.resume 0 0) (v 1)).strm 146).next = 1 ∧
    answer (dev (.resume 0 0) (v 3)) = (4, 0) := by decide +kernel
theorem test_abort : let v (p : SchedPhase) := ordered (holding p) (orderWords 4 5 0 0 0)
    takes (v .running) 4 = true ∧ ((dev (.abort 0 0) (v .running)).sched 5).halted = true ∧ ((dev (.abort 0 0) (v .running)).sched 5).status = 0x0F ∧
    answer (dev (.abort 0 0) (v .loaded)) = (0, 3) := by decide +kernel
theorem test_unload : let v (p : SchedPhase) := ordered (holding p) (orderWords 5 5 0 0 0)
    takes (v .stopped) 5 = true ∧ (dev (.unload 0 0) (v .stopped)).sched 5 = {} ∧ ((dev (.unload 0 0) (v .stopped)).strm 146).loaded = false ∧
    answer (dev (.unload 0 0) (v .running)) = (0x0C, 0) := by decide +kernel
/-- A descriptor in an order: LEN bytes from stack memory to the scratchpad of core 0, channel 14. -/
def copyWords (core len : Nat) : List W64 :=
  [w64 (8 + 77 * 2 ^ 32), w64 core, 0x1000#64, 0x10000000000#64, w64 (len + 2 ^ 32 + 14 * 2 ^ 48), w64 (6 + 6 * 8), 0#64, 0#64]
def wide : Dev := { up with rgn := [(0, region), (1, { region with base := 0x10000000000#64 })] }
theorem test_copy : let v (c n : Nat) := ordered wide (copyWords c n)
    takes (v 0 64) 8 = true ∧ wide.dmaBad 0 true (decDma (copyWords 0 64)) = false ∧ ((dev (.copy 0 0) (v 0 64)).dmaCh 0 14).phase = .moving ∧
    answer (dev (.copy 0 0) (v 0 0)) = (1, 0) ∧ answer (dev (.copy 0 0) (v 47 64)) = (0, 4) := by decide +kernel
/-- A descriptor that moves no byte takes its turn behind a busy one (R371, R389). -/
theorem test_copy_turn : let v := (ordered wide (copyWords 0 0)).modDmaCh 0 14 (fun c => { c with phase := .moving })
    let w := dev (.copy 0 0) v
    (w.dmaCh 0 14).queue.length = 1 ∧ answer w = (0, 0) ∧ ((w.dmaFinish 0 14 0).dmaCh 0 14).lastStatus = 1 ∧
    ((w.dmaFinish 0 14 0).dmaCh 0 14).phase = .idle ∧ answer (w.dmaFinish 0 14 0) = (1, 0) := by decide +kernel
/-- With ROWS 0 the span of a wrap is LEN less one pitch (Table 11.3, check 5). -/
theorem test_copy_no_rows : let d (r : Nat) := decDma [w64 8, 0#64, 0x1000#64, 0x10000000000#64, w64 (131072 + r * 2 ^ 32 + 14 * 2 ^ 48),
      w64 (6 + 6 * 8 + 12 * 2 ^ 11 + 128000 * 2 ^ 40), 0#64, 0#64]
    wide.dmaBad 0 true (d 0) = false ∧ wide.dmaBad 0 true (d 1) = true := by decide +kernel

/-- Ring 0 of 16 entries at index 1: its tail may be 16 further, not 17 (R604). -/
theorem test_doorbell : let v := dev (.workNop 0 0) (ordered up (orderWords 0 0 0 0 0))
    ((dev (.doorbell 0 0 0 8 17#64) v).ring 0 0).bell = 17 ∧ ((dev (.doorbell 0 0 0 8 18#64) v).ring 0 0).bell = 1 ∧
    ((dev (.doorbell 0 0 0 8 18#64) v).hifD 0).evtLost = 1 ∧ ((dev (.doorbell 0 0 4 4 2#64) v).ring 0 0).bell = 1 ∧ v.eventRing 0 = none := by decide +kernel
/-- A head moved back leaves an entry at or above it again: vector 0 is sent, here held by its mask (R608). -/
theorem test_doorbell_back : let v := (ordered up []).modRing 0 1 (fun r => { r with cfg := w64 (3 + 4 * 8 + 2 ^ 32), index := 1, bell := 1 })
    (v.hifD 0).msixPend = [] ∧ ((dev (.doorbell 0 1 0 8 0#64) v).hifD 0).msixPend = [0] ∧ ((dev (.doorbell 0 1 0 8 1#64) v).hifD 0).msixPend = [] := by decide +kernel
theorem test_ring_error : let v := ordered up []
    (v.ring 0 0).kind = 0 ∧ (v.ring 0 0).index ≠ (v.ring 0 0).bell ∧ ((dev (.ringError 0 0 0x1000#64) v).ring 0 0).en = false ∧
    ran (.ringError 0 1 0x1000#64) (st v) = st v := by decide +kernel
/-- Set-up of ring 4 (R599 to R602): size 4 is enabled, size 21 refused with code 2, a change while enabled with code 7; ring 1 is in use. -/
theorem test_ring_cfg : let v := (ordered up []).modRing 0 4 (fun r => { r with base := 0x8000000000005000#64, shadow := 0x8000000000006000#64, index := 9, bell := 9 })
    let w := dev (.hifRingCfgWrite 0 4 0x23#64) v
    v.ringCheck 0 4 { v.ring 0 4 with cfg := 0x23#64 } = none ∧ (w.ring 0 4).en = true ∧ (w.ring 0 4).index = 0 ∧ (w.ring 0 4).bell = 0 ∧
    ((dev (.hifRingCfgWrite 0 4 0xAB#64) v).hifD 0).err = 2 ∧ ((dev (.hifRingCfgWrite 0 4 0xAB#64) v).ring 0 4).en = false ∧
    ((dev (.hifRingCfgWrite 0 4 0x2B#64) w).hifD 0).err = 7 ∧ ((dev (.hifRingCfgWrite 0 4 0x22#64) w).ring 0 4).en = false ∧
    ((dev (.hifRingCfgWrite 0 1 0x22#64) v).hifD 0).err = 8 ∧ v.ringInUse 0 1 = true ∧ ((dev (.hifRingCfgWrite 0 4 0x22#64) v).ring 0 4).cfg = 0x22#64 := by decide +kernel
theorem test_mmio : tget 0#64 ((dev (.hifMmioWrite 0 7 0xFFFFFFFFFFFFFFFF#64) up).hifD 0).mmio 7 = 0xFFFFFFFFF07F#64 := by decide +kernel
/-- The last byte of stack memory, one past it, and a read (Table 17.2). -/
theorem test_bar4 : (dev (.bar4Access 0 0x47FFFFFFFF 1 (some [7#8])) up).stk8 0x47FFFFFFFF 1 = [7#8] ∧ bar4Map 0x4860000000 1 = none ∧
    bar4Map 0x47FFFFFFFF 2 = none ∧ (dev (.bar4Access 0 0x4860000000 1 none) up).out = [.hostRead 0 none] ∧
    (dev (.bar4Access 0 0 2 none) (withMem up 0 [1#8])).out = [.hostRead 0 (some [1#8, 0#8])] := by decide +kernel
theorem test_mark_clr : let v := up.modStrm 153 (fun s => { s with slipMax := 5, oob := 3, drop := 2, lastMark := 7#32 })
    ((dev (.strmMarkClr 153 0x100000000#64) v).strm 153).oob = 0 ∧ ran (.strmMarkClr 153 0#64) (st v) = st v := by decide +kernel
/-- A register written through its offset is its own command; two halves make one 8-byte write. -/
theorem test_register_write : ran (.registerWrite 0 0x200008 4 0x180#64) (st up) = ran (.pwrCfgWrite 0x180#32) (st up) ∧
    ran (.registerWrite 0 0x20002 4 1#64) (st up) = st up ∧
    (dev (.registerWrite 0 0x1010C 4 0xFFFF#64) (dev (.registerWrite 0 0x10108 4 0x1001#64) up)).hifD 0 =
      { ((dev (.registerWrite 0 0x10108 8 0xFFFF00001001#64) up).hifD 0) with lowHalf := [(0x10108, 0x1001#32)] } := by decide +kernel
theorem test_function_reset : let v := ordered { holding .running with rgn := [(0, region), (256, region)] } (orderWords 0 0 0 0 0)
    v.moult.order = none ∧ (dev (.functionReset 0) v).hifD 0 = {} ∧ (dev (.functionReset 0) v).sched 5 = {} ∧ (dev (.functionReset 0) v).strm 146 = {} ∧
    (dev (.functionReset 0) v).rgn = [(256, region)] := by decide +kernel

/-! ### Forzoevo -/

/-- Forzoevo running at a step of start-up. -/
def mg (n : Nat) : Mgmt := { running := true, aux := true, bootStep := n }
/-- Forzoevo and the last message after a command. -/
def man (c : Instr) (m : Mgmt) (v : Dev) : Mgmt := (ran c (stm m v)).mgmt
def told (c : Instr) (m : Mgmt) (v : Dev) : List (Nat × List Nat) :=
  (ran c (stm m v)).dev.out.filterMap (fun x => match x with | .mgmt _ k d => some (k, d) | _ => none)
theorem test_get_ident : ((told (.getIdent .host) (mg 9) up).map (fun x => (x.1, x.2.head?))) = [(1, some 0)] ∧ told (.getIdent .host) {} up = [] ∧
    (told (.getIdent .host) { recovery := true } up).length = 1 := by decide +kernel
/-- An image for the idle bank, good, and the same with a bad signature; SVN 32 is the last (R627, R628). -/
def img (svn : Nat) (ok : Bool) : Image := { component := .mgmt, version := 2, svn := svn, keyOk := true, digest := 5, bodyDigest := 5, sigOk := ok }
theorem test_firmware : (mg 9).idleBank .mgmt = 1 ∧ (man (.firmwareUpdate .rack (img 32 true)) (mg 9) up).pendMgmt = true ∧
    (man (.firmwareUpdate .rack (img 33 true)) (mg 9) up).pendMgmt = false ∧ (man (.firmwareUpdate .rack (img 0 false)) (mg 9) up).pendMgmt = false ∧
    tget none (man (.firmwareUpdate .rack (img 0 false)) (mg 9) up).banks 1 = some (img 0 false) := by decide +kernel
theorem test_get_log : let m : Mgmt := { mg 9 with log := [{ index := 3, code := 1, boot := 0, ms := 0, a0 := 8, a1 := 9 }, { index := 4, code := 2, boot := 0, ms := 0, a0 := 0, a1 := 0 }] }
    told (.getLog .rack 3 1) m up = [(4, [0, 3, 0, 0, 1, 8, 9])] ∧ told (.getPubkey .rack) {} up = [] ∧ (told (.getPubkey .rack) m up).map (fun x => x.1) = [2] := by decide +kernel
/-- Rack-only messages are refused to the host; a cap of 56 is the last (R540, R622). -/
theorem test_set_rack_cap : (ran (.setRackCap .rack 56) (stm (mg 9) up)).dev.pwr.rackCapNext = some 56 ∧ told (.setRackCap .rack 57) (mg 9) up = [(0x10, [3])] ∧
    told (.setRackCap .host 5) (mg 9) up = [(0x10, [2])] ∧ (man (.setStartOverride .rack 1) (mg 9) up).startOverride = true := by decide +kernel
theorem test_set_chip : let busy : Dev := { up with scheds := [(1, { phase := .loaded })] }
    (man (.setChip .rack 16383) (mg 9) up).chip = 16383 ∧ (ran (.setChip .rack 16383) (stm (mg 9) up)).dev.chip = 16383 ∧ up.noSched = true ∧
    told (.setChip .rack 5) (mg 9) busy = [(0x12, [6])] ∧ busy.noSched = false := by decide +kernel
theorem test_retire_channel : let busy := ordered up []
    up.noRing = true ∧ busy.noRing = false ∧ (man (.retireChannel .rack 255) (mg 9) up).retiredChans = [255] ∧ (man (.retireChannel .rack 255) (mg 9) up).bootStep = 1 ∧
    told (.retireChannel .rack 255) (mg 9) busy = [(0x13, [4])] := by decide +kernel
/-- A tripped module at 91 °C waits to be reset (R551); a pending TRAIN image becomes active. -/
theorem test_module_reset : let hot := up.modPwr (fun p => { p with tripped := true, tj := [(0, 91)] })
    (man (.moduleReset .host) (mg 9) hot).resetDue = true ∧ (ran (.moduleReset .host) (stm (mg 9) up)).dev.pwr.rails = false ∧
    (man (.moduleReset .host) { mg 9 with pendTrain := true } up).activeTrain = 1 := by decide +kernel
theorem test_mgmt_reset : let m : Mgmt := { mg 9 with pendMgmt := true, banks := [(0, some (factoryImage .mgmt)), (1, some (img 0 true))], attA := [{ next := 7, valid := true }, { next := 8 }] }
    m.bankOk 1 = true ∧ (man (.mgmtReset .rack 127#7) m up).activeMgmt = 1 ∧ (man (.mgmtReset .rack 127#7) m up).slot = 127 ∧
    (man (.mgmtReset .rack 127#7) m up).attNext = 7 ∧ (man (.mgmtReset .rack 127#7) m up).running = true := by decide +kernel
theorem test_commit_svn : let m : Mgmt := { mg 9 with fusedSvn := 2, banks := [(0, some (img 5 true)), (2, some (img 4 true))] }
    (man (.commitSvn .rack) m up).fusedSvn = 4 ∧ (man (.commitSvn .rack) { m with fusedSvn := 6 } up).fusedSvn = 6 := by decide +kernel
theorem test_sensors : tget 0 (man .sensorUpdate (mg 9) (up.modPwr (fun p => { p with vin := 4800, energy := 30000 }))).sensors 1 = 4800 ∧
    tget 0 (man .sensorUpdate (mg 9) (up.modPwr (fun p => { p with vin := 4800, energy := 30000 }))).sensors 5 = 625 ∧
    (ran (.sensorRead .rack 12) (stm (mg 9) up)).dev.out = [.pldm .rack 2 [0, 0]] := by decide +kernel
/-- Index 0 is released once its record verifies, never otherwise; the next tree must be ready (R632 to R638). -/
theorem test_attest : let nonce := List.replicate 32 1#8
    (man (.attest .host nonce true) (mg 9) up).released = [0] ∧ (man (.attest .host nonce true) (mg 9) up).attNext = 1 ∧
    (man (.attest .host nonce false) (mg 9) up).stateLogFailed = true ∧ (man (.attest .host nonce false) (mg 9) up).released = [] ∧
    told (.attest .host nonce true) { mg 9 with stateLogFailed := true } up = [(3, [7])] ∧
    told (.attest .host nonce true) { mg 9 with attNext := 2 ^ 20 } up = [(3, [5])] ∧ told (.attest .host nonce true) { mg 9 with attNext := 2 ^ 40 } up = [(3, [7])] := by
  decide +kernel
theorem test_tree : (man .treeBuildDone { mg 9 with attNext := 2 ^ 20 } up).treeUpTo = 1 ∧ (man .treeBuildDone { mg 9 with attNext := 2 ^ 19 } up).treeUpTo = 1 ∧
    (man .treeBuildDone { mg 9 with attNext := 2 ^ 19 - 1 } up).treeUpTo = 0 := by decide +kernel
/-- An index released, its record in the active sector. -/
theorem test_keys_fresh : Mgmt.keysFresh { mg 9 with released := [0], attNext := 1, attA := [{ next := 1, valid := true }] } :=
  ⟨by decide, fun n h => by
    simp only [List.mem_singleton] at h
    subst h
    exact ⟨by decide, { next := 1, valid := true }, by decide, rfl, by decide⟩⟩

/-- The ROM takes the other bank, or recovery (R630). -/
theorem test_aux_up : let dead : Mgmt := { banks := [] }
    let second : Mgmt := { banks := [(1, some (img 0 true))] }
    (man (.auxUp 9#7) {} {}).running = true ∧ (man (.auxUp 9#7) {} {}).bootStep = 1 ∧ (man (.auxUp 9#7) {} {}).bootCount = 1 ∧ (man (.auxUp 9#7) second {}).activeMgmt = 1 ∧
    (man (.auxUp 9#7) dead {}).recovery = true ∧ (man (.auxUp 9#7) (mg 5) {}).bootCount = 0 ∧ Mgmt.bankOk {} 0 = true ∧ dead.bankOk 0 = false ∧ second.bankOk 1 = true := by decide +kernel
theorem test_resets : (man (.resetNHeld 9#7) { mg 1 with resetHold := true } {}).slot = 9 ∧ man (.resetNHeld 9#7) (mg 1) {} = mg 1 ∧ (man .auxLoss (mg 9) up).running = true ∧
    (man .auxLoss (mg 9) {}).running = false ∧ (man .resetN (mg 9) up).resetHold = true ∧ (man .resetN (mg 9) up).bootStep = 1 ∧
    (man .resetNRelease { mg 9 with resetHold := true } up).resetHold = false ∧ (man .coldReset (mg 9) up).running = false := by decide +kernel
/-- Steps 1 to 9 of start-up, each from the one before (R639). -/
theorem test_startup : (man (.inputQualified 4600) (mg 1) {}).bootStep = 2 ∧ (man (.inputQualified 4599) (mg 1) {}).bootStep = 1 ∧
    (man .bankCharge (mg 2) { pwr := { energy := 27000 } }).bootStep = 3 ∧ (man .bankCharge (mg 2) { pwr := { energy := 26999 } }).bootStep = 2 ∧
    (man .bankCharge { mg 2 with startOverride := true } {}).bootStep = 3 ∧ (man (.fuseLoad true) (mg 3) {}).bootStep = 4 ∧ (man (.fuseLoad false) (mg 3) {}).bootStep = 3 ∧
    (man .sramClear (mg 4) {}).bootStep = 5 ∧ man .sramClear (mg 5) {} = mg 5 ∧ (man .timeLockTimeout (mg 7) {}).bootStep = 8 ∧ man .timeLockTimeout (mg 8) {} = mg 8 ∧
    (man (.hostDiscovery true) (mg 8) {}).bootStep = 9 ∧ (man (.hostDiscovery false) (mg 8) {}).log.map (fun e => e.code) = [9] := by decide +kernel
theorem test_fuses : let m : Mgmt := { mg 3 with retiredCores := [47], fusedCols := [(0, 9)], softCols := [(0, 4)] }
    ((ran (.fuseLoad true) (stm m {})).dev.core 0).marked = [4, 9] ∧ ((ran (.fuseLoad true) (stm m {})).dev.core 47).retired = true := by decide +kernel
theorem test_stack_training : let t := ran (.stackTraining ⟨[255], []⟩) (stm { mg 5 with retiredChans := [0] } {})
    t.mgmt.bootStep = 6 ∧ t.mgmt.retiredChans = [0, 255] ∧ (t.dev.chan 255).trained = false := by decide +kernel
/-- Two lanes are enough, one is not (R476). -/
theorem test_link_training : let lanes : Vector (BitVec 4) 18 := ⟨#[3, 4, 15, 0, 0, 0, 0, 0, 0, 0, 0, 0, 0, 0, 0, 0, 0, 12], rfl⟩
    let v := (ran (.linkTraining lanes (Vector.replicate 18 ⟨7, 100, 120, 47⟩)) (stm (mg 6) {})).dev
    ((List.range 18).filter (fun l => decide ((v.linkN l).state = 2))) = [0, 2, 17] ∧ (v.linkN 2).lanes = 4 ∧ (v.linkN 2).delay = 10 := by decide +kernel
theorem test_supply_loss : let v : Dev := { pwr := { rails := true, starting := true } }
    (man (.startupSupplyLoss 3999) (mg 8) v).bootStep = 1 ∧ (man (.startupSupplyLoss 4000) (mg 8) v).bootStep = 8 ∧ (man (.startupSupplyLoss 3999) (mg 9) v).bootStep = 9 ∧
    (dev (.vinApplied 65536) up).pwr.vin = 0 := by decide +kernel

/-! ### Cycle counts -/

/-- Story 4.4: A streams 100 rows from cycle 0 on one core, B 300 rows on a new tile (R185). -/
theorem test_story_4_4 : let a := decMx (entry 0x10 0 [100#64, 0#64, 0#64, 0#64, 0#64, 0#64])
    let b : MxRun := { o := decMx (entry 0x10 0 [300#64, 0#64, 0#64, 0#64, 0#64, 0#64]), start := 0 }
    a.lastWrite 0 1 1 = 610 ∧ b.firstRow (some (a, 0)) = 128 ∧ b.o.lastWrite 128 1 1 = 938 := by decide +kernel
/-- Lines at the limits of R289. -/
theorem test_cache_cycles : flushCycles 1025 = 1024 ∧ invCycles 32769 = 3072 ∧ invCycles 17 = 19 := by decide +kernel
/-- A streamer refused 16 times goes before the tile loader (R297). -/
theorem test_cycle_choices : bankServes [⟨1, 0⟩, ⟨5, 16⟩] = some ⟨5, 16⟩ ∧ bankServes [⟨5, 3⟩, ⟨2, 0⟩] = some ⟨2, 0⟩ ∧
    accessShare 4 = (4, 12) := by decide

/-! ### Register reads -/

/-- Reset values of the field tables: PWR_STATE, PWR_CAP, FAB_TIME_CFG, DMA_ENG_CTL, LNK_RXBUF, STRM_STATUS (Tables 15.10, 15.13, 2.9, 11.8,
14.19, 19.7). -/
theorem test_reads_at_reset : ({} : Dev).bar0Read 0 0x200000 4 = 0x01100005#64 ∧ ({} : Dev).bar0Read 1 0x200010 4 = 0x03383838#64 ∧
    ({} : Dev).bar0Read 0 0x100000 4 = 0x14001010#64 ∧ ({} : Dev).bar0Read 1 0x800800 4 = 0xC000#64 ∧ ({} : Dev).bar0Read 0 0x400010 8 = 0x318#64 ∧
    ({} : Dev).bar0Read 0 0x850040 8 = 0x20#64 := by decide +kernel
/-- CAP_PAGES with none retired, read as the upper half of HBM_MAP_STATUS; a read that is not aligned returns 0 (Table 12.16, R592). -/
theorem test_reads_halves : ({} : Dev).bar0Read 0 0x34000C 4 = 4718592#64 ∧ ({} : Dev).bar0Read 0 0x200002 4 = 0#64 := by decide +kernel
/-- The SE stream of stack 6 reports at 0x0032_0040 of die 1; STRM_SLIP of core 5's DX stream lies at 0x0085_0048 (chapter 19's examples). -/
theorem test_reads_streams : (({} : Dev).modStrm 152 (fun s => { s with loaded := true, sched := 7 })).bar0Read 1 0x320040 8 = 0x721#64 ∧
    (({} : Dev).modStrm 17 (fun s => { s with slipMax := 3 })).bar0Read 0 0x850048 8 = 0x300000000#64 := by decide +kernel
/-! ### Premises and boundary cases not met above -/

theorem test_none_held : up.noneHeld := fun _ _ h => absurd h List.not_mem_nil
theorem test_queues_free (a n : Nat) : up.queueFull a n = false := by simp [Dev.queueFull, up]
theorem test_clean_cores (op : Nat) (ws : List W64) (g : Nat) : ((withHead up op ws).core g).colBad = [] ∧ ((withHead up op ws).core g).spadBad = [] ∧
    ((withHead up op ws).core g).accBad = [] := ⟨rfl, rfl, rfl⟩

/-- The sample point, and a cut-off whose boundary ends a pause; a member asks for level 3 and a report waits for a later boundary (R47, R56). -/
theorem test_time_points : let v := upAt 3968
    let m := ((upAt 4032).modFt (fun f => { f with masterActive := true })).modMst (fun m => { m with
      members := [(1, { known := true, level := 3 })], pause := some (100, 4096), lates := [{ boundary := 4096, slip := 1, chip := 1 }, { boundary := 8192, slip := 9, chip := 1 }] })
    v.ft.sampledAt ≠ some v.ft.now ∧ v.pwr.tripped = false ∧ m.ft.cutAt ≠ some m.ft.now ∧ m.mst.pause = some (100, 4096) ∧ m.mst.levelAnn = 0 ∧
    (dev .masterCutOff m).ft.annLull = some (3, 4096) ∧ (dev .masterCutOff m).mst.lates.map (fun l => l.boundary) = [8192] ∧
    (dev .masterCutOff m).ft.annDold = some (1, 4096) := by decide +kernel
/-- The active master sends TIME at a boundary (Table 2.2). -/
theorem test_boundary_time : let v := (upAt 4096).modFt (fun f => { f with masterActive := true })
    v.pwr.tripped = false ∧ (dev .epochBoundary v).out.length = 1 := by decide +kernel
/-- A link of die 1 carries no weather for the unit (R32). -/
theorem test_weather_links : linkDie 8 = 0 ∧ linkDie 9 ≠ 0 ∧ wBad (mkW 1 0 0 500) = false ∧ dev (.time ⟨9, mkW 1 0 0 500⟩) member = member := by decide +kernel
/-- TIME with FROZEN locks an unlocked unit frozen at VALUE; a THAW leaves an unlocked unit's count (R31, R36). -/
theorem test_time_unlocked : let v : Dev := { pwr := { rails := true }, chip := 1, ft := { now := 77 } }
    v.fromMaster 0 = true ∧ v.ft.locked = false ∧ (dev (.time ⟨0, mkW 1 0 0x10 500⟩) v).ft.now = 500 ∧ (dev (.time ⟨0, mkW 1 0 0x10 500⟩) v).ft.frozen = true ∧
    (dev (.thaw ⟨0, mkW 8 0 0 4096⟩) v).ft.now = 77 := by decide +kernel
theorem test_member_premises : master.ft.masterActive = true ∧ (master.member 1).absent = false ∧ (master.member 1).chrysalis = false ∧ master.chip ≠ 1 := by decide +kernel
/-- A takeover marks the old master absent (R74). -/
theorem test_takeover_absent : let v := { up.modFtReg 0 (fun r => { r with cfg := 0x14001012#32 }) with chip := 4097 }
    v.masterChip ≠ v.chip ∧ ((dev .masterTakeover v).member v.masterChip).absent = true ∧ (dev .masterTakeover v).ft.frozen = true := by decide +kernel

theorem test_fetch_premises : 2 * (fetching.strm 146).buf.length ≤ bufSize (strmKind 146) ∧ fetching.moult.held = [] := by decide +kernel
theorem test_grant_premises : ((waiting 3).strm 0).headEntry.isSome = true ∧ (((waiting 3).strm 0).headEntry.map (fun e => e.noWait)) = some false ∧
    ((waiting 3).strm 0).tested = true := by decide +kernel
/-- V_STAT with STAT set: its record lies in a fresh page, and counts the one element. -/
theorem test_vector_stat : let ws := entry 0x15 1 [w64 (2 ^ 20 + 2 ^ 36), w64 (2 ^ 52), 0#64, 0#64, 0#64, 0#64]
    let v := withHead up 1 ws
    (v.startable 1 0x15).isSome = true ∧ v.hbm.busy = false ∧ v.moult.stale (v.recSlot 0 (decVx ws).stat / 65536) = false ∧
    v.pathAt (v.recSlot 0 (decVx ws).stat) 64 = none ∧ (v.core 0).accBad = [] := by decide +kernel
theorem test_fresh_engines : up.moult.active = false ∧ up.moult.held = [] ∧ up.hbm.busy = false ∧ up.moult.stale 0 = false ∧ up.hbm.waiting = [] := by decide
/-- Every access within the gathered row's bytes is clean. -/
theorem test_gather_clean : let v := withHead (withMem up 0x10000 [1#8, 2#8, 3#8, 4#8]) 1 (gatWords 0x17)
    (List.range 5).all (fun i => (List.range 5).all (fun n => v.pathAt (0x10000 + i) n = none)) = true := by decide +kernel

/-- A run-ahead read, a channel with more tags than another that may issue, and one with fewer (R320, R373). -/
theorem test_burst_turns : let ch (n : Nat) : DmaChan := { phase := .moving, cur := { words := dmaWords 6400 false }, next := 64 * n, page := some 0, bursts := (List.range n).map (fun i => { off := 64 * i, len := 64 }) }
    let v := (withChan (ch 1)).modDmaCh 0 3 (fun _ => ch 0)
    (v.dmaCh 0 2).demands = false ∧ v.burstTurn 0 2 = false ∧ v.burstTurn 0 3 = true ∧ (withChan (ch 1)).burstTurn 0 2 = true ∧
    ((dev (.burstIssue 0 2) v).dmaCh 0 2).bursts.length = 1 := by decide +kernel
/-- The first seal word has been asked for. -/
theorem test_seal_asked : let v := withMem (withChan { phase := .seal0, sealAsked := true, cur := { words := dmaWords 64 true } }) 0x2000 [7#8]
    (v.sealRead 0 2).1 = some (.ok [7#8, 0#8, 0#8, 0#8, 0#8, 0#8, 0#8, 0#8]) ∧ ((dev (.sealS0Return 0 2) v).dmaCh 0 2).phase = .moving := by decide +kernel
/-- A restart waits for a burst in flight (R392). -/
theorem test_restart_waits : let v := withChan { phase := .stopped, cur := { words := dmaWords 64 false }, next := 64, bursts := [{ off := 0, len := 64 }] }
    v.dmaQuiet 0 2 = false ∧ (v.dmaCh 0 2).draining = false ∧ ((dev (.dmaRestart 0 2 4#32) v).dmaCh 0 2).resume = 1 ∧ ((dev (.dmaDrop 0 2 8#32) v).dmaCh 0 2).resume = 2 := by
  decide +kernel
/-- SIG1 of an entry does not arrive before its SIG0 (R87); signals that wait one behind the other share a cycle (R346). -/
theorem test_signal_order : let v := { up with ctrs := [(5, { kind := 1, transit := 1 }), (6, { kind := 1, transit := 1, after := [5] })] }
    v.arrivable 6 = 0 ∧ v.arrivable 5 = 1 ∧ ((dev (.counterSignal 6) v).ctr 6).value = 0 ∧ ((dev (.counterSignal 6) (dev (.counterSignal 5) v)).ctr 6).value = 1 ∧
    sameCycle false [.counterSignal 5] = true ∧ sameCycle false [.synCtrWrite 0 0 0#64] = false ∧ sameCycle true [] = false := by decide +kernel

/-- Words of the standard instruction sets, by their encodings: addi x5,x6,-1; sub x7,x5,x6; lui x5,0x80000; jal x1,-4; beq x5,x0,8; srai x5,x5,63; addw x5,x6,x7;
mulhu x5,x6,x7; ld x5,8(x6); sd x7,-8(x6); amoadd.d x5,x7,(x6); csrrs x5,0xC01,x0; wfi; TW.WAIT x10,x11. -/
theorem test_words : decodeInsn 0xFFF30293 = .alui .add false 5 6 0xFFFFFFFFFFFFFFFF#64 ∧ decodeInsn 0x406283B3 = .alu .sub false 7 5 6 ∧
    decodeInsn 0x800002B7 = .lui 5 0xFFFFFFFF80000000#64 ∧ decodeInsn 0xFFDFF0EF = .jal 1 0xFFFFFFFFFFFFFFFC#64 ∧ decodeInsn 0x00028463 = .branch .eq 5 0 8#64 ∧
    decodeInsn 0x43F2D293 = .alui .sra false 5 5 63#64 ∧ decodeInsn 0x007302BB = .alu .add true 5 6 7 ∧ decodeInsn 0x027332B3 = .alu .mulhu false 5 6 7 ∧
    decodeInsn 0x00833283 = .load 5 6 8#64 3 false ∧ decodeInsn 0xFE733C23 = .store 7 6 0xFFFFFFFFFFFFFFF8#64 3 ∧ decodeInsn 0x007332AF = .amo .add 5 6 7 true ∧
    decodeInsn 0xC01022F3 = .csr 5 0xC01 false ∧ decodeInsn 0x10500073 = .wfi ∧ decodeInsn 0x00B5100B = .twWait 10 11 := by decide +kernel
/-- Compressed words: c.li x10,-1; c.mv x10,x11; c.j -2; c.lwsp x10,4(x2); c.addi16sp 16; c.ebreak; and the all-zero word, illegal. -/
theorem test_short_words : decodeInsn 0x557D = .lui 10 0xFFFFFFFFFFFFFFFF#64 ∧ decodeInsn 0x852E = .alu .add false 10 0 11 ∧ decodeInsn 0xBFFD = .jal 0 0xFFFFFFFFFFFFFFFE#64 ∧
    decodeInsn 0x4512 = .load 10 2 4#64 2 false ∧ decodeInsn 0x6141 = .alui .add false 2 2 16#64 ∧ decodeInsn 0x9002 = .ebreak ∧ decodeInsn 0 = .illegal := by decide +kernel
/-- The instruction's result, a taken branch, a call, and WFI, which goes on (R277). -/
theorem test_instructions : let w (word : W32) : Ctx := (dev (.ecall 0 1 word) (scl ctx1)).ctx 0 1
    ((scl ctx1).sclFetch 0 0 4).1 = false ∧ (w 0xFFF30293#32).reg 5 = 76#64 ∧ (w 0xFFF30293#32).pc = 4#64 ∧ (w 0x00031463#32).pc = 8#64 ∧ (w 0x00031463#32).reg 5 = 0x2000#64 ∧
    (w 0x000280E7#32).pc = 0x2000#64 ∧ (w 0x000280E7#32).reg 1 = 4#64 ∧ (w 0x10500073#32).pc = 4#64 ∧ (w 0x0000852E#32).pc = 2#64 ∧
    (w 0xC0129073#32).cause = 2 := by decide +kernel
/-- Corners of division and of the forms on words. -/
theorem test_arithmetic : AluOp.result .div false 0x8000000000000000#64 0xFFFFFFFFFFFFFFFF#64 = 0x8000000000000000#64 ∧ AluOp.result .div false 7#64 0#64 = 0xFFFFFFFFFFFFFFFF#64 ∧
    AluOp.result .rem false 0xFFFFFFFFFFFFFFF9#64 2#64 = 0xFFFFFFFFFFFFFFFF#64 ∧ AluOp.result .remu false 7#64 0#64 = 7#64 ∧ AluOp.result .mulh false 0xFFFFFFFFFFFFFFFF#64 1#64 = 0xFFFFFFFFFFFFFFFF#64 ∧
    AluOp.result .sra true 0x80000000#64 31#64 = 0xFFFFFFFFFFFFFFFF#64 ∧ AluOp.result .srl true 0xFFFFFFFF80000000#64 31#64 = 1#64 ∧ AluOp.result .add true 0x7FFFFFFF#64 1#64 = 0xFFFFFFFF80000000#64 := by
  decide +kernel
theorem test_scalar_premises : ((sclCached ctx1).core 0 |>.l1Line 128).data.length = 64 ∧ (((sclCached ctx1).core 0).l1Line 128).badIn 0 4 = false ∧
    (((sclCached ctx1).core 0).l1Line 128).bad = [] ∧ (scl ctx1).amoBusy 0 1 0x2000 = false ∧ (scl ctx1).issueOk = true ∧ (scl ctx1).ctxHeld 0 1 = 0 := by decide +kernel

/-- Updates: no other is waiting, and every group's records are whole (R464). -/
theorem test_update_premises : (∀ i < 8, ∀ g ∈ ((updating 0x22 1 0x20).strm (146 + i)).flights, g.wait ≠ .version) ∧ ((updating 0x22 1 0x20).vslot 0x5100 0).state ≠ 2 ∧
    ((updating 0x22 1 0x20).vslot 0x5100 0).state ≠ 3 ∧ (decUpd (updW 0x22 1 0x20)).vfEn = true ∧ (decUpd (updW 0x20 1 0)).compact = false ∧
    (decUpd (updW 0x20 1 0)).wcEn = false ∧ (decScaleRec (List.replicate 8 0#64)).scheme = 0 ∧ fmtBits (decScaleRec (List.replicate 8 0#64)).fmt ≠ 0 ∧
    (updTouch 0x22 (decUpd (updW 0x22 1 0)) (decScaleRec (List.replicate 8 0#64))).all (fun e => decide ((updating 0x22 1 0).pathAt e.1 e.2 = none)) = true := by decide +kernel
/-- A task of a stale page, or while the map is rebuilt, is held; with 64 slots in use it waits outside (R426, R440, R573). -/
theorem test_task_held : let t : EngTask := .fill 64 0x1122334455667788#64
    let v := up.modHbm (fun h => { h with busy := true })
    let f := up.modChan 0 (fun c => { c with queue := List.replicate 64 t })
    v.mustHold t = true ∧ up.mustHold t = false ∧ (dev (.engineTask (Fin.ofNat 256 (up.hbm.chanOf 64)) t) v).moult.held.length = 1 ∧
    (dev (.engineTask (Fin.ofNat 256 (up.hbm.chanOf 64)) t) v).hbm.mem = [] ∧ f.slots 0 = 64 ∧ up.slots 0 = 0 ∧
    (dev .mapRebuildDone (dev (.engineTask (Fin.ofNat 256 (up.hbm.chanOf 64)) t) v)).stk8 64 1 = [0x88#8] := by decide +kernel
/-- Sixteen parity errors within a second mark a lane, over a longer time they do not (R414). -/
theorem test_lane_failing : laneFailing (.parity ((List.range 16).map (fun i => i * 66666666))) = true ∧
    laneFailing (.parity ((List.range 16).map (fun i => i * 66666667))) = false ∧ laneFailing (.parity (List.range 15)) = false := by decide +kernel
/-- A read by the host waits while the map is rebuilt and is answered after it (R440). -/
theorem test_read_waits : let v := up.modHbm (fun h => { h with busy := true })
    let w := dev (.bar4Access 0 0 2 none) v
    w.out = [] ∧ w.hbm.waiting = [.host 0 0 2] ∧ (dev .mapRebuildDone w).out = [.hostRead 0 (some [0#8, 0#8])] := by decide +kernel
/-- The check value of the ECMA-182 CRC: of the digits 1 to 9. -/
theorem test_crc64 : crc64 ((List.range 9).map (fun i => byteOf (0x31 + i))) = 0x6C40DF5F0B497347#64 := by decide +kernel

theorem test_link_set_still : (net.fabD 0).relink = false ∧ net.hbm.busy = false ∧ net.moult.held = [] ∧ ((dmaAsked (.dmaRead 0 2 64 4) false).dmaCh 0 2).bursts.map (fun b => (b.off, b.bad, b.got)) =
    [(64, 0, none)] := by decide +kernel
/-- An answer for a unit whose request was dropped is dropped too (R395). -/
theorem test_gone : let p := pk 2 4 8 0 [1#8, 2#8, 3#8, 4#8]
    let v := asked false .gone
    matched v p = true ∧ ((dev (.readData 0 (.link 0) p) v).fabD 0).reqs = [] := by decide +kernel
/-- A column of a bank that is marked already changes nothing (log entry 69). -/
theorem test_core_bank_again : ran (.coreTested 47 (.bank 63 0)) (due 0 4) = due 0 4 := by decide +kernel
/-- The module's own number with a schedule loaded: answered, and nothing written (R16, R513). -/
theorem test_set_chip_same : let busy : Dev := { up with scheds := [(1, { phase := .loaded })] }
    told (.setChip .rack 0) (mg 9) busy = [(0x12, [0])] ∧ (ran (.setChip .rack 0) (stm (mg 9) busy)).dev.ft.locked = true ∧
    (ran (.setChip .rack 0) (stm (mg 9) up)).dev.ft.locked = false := by decide +kernel
/-- Descriptors are permitted or the order is refused; a LOAD waits while the map is rebuilt. -/
theorem test_load_premises : let v := ordered (imageAt 1 1) (orderWords 1 5 0x4000 0 0)
    let w := v.modHbm (fun h => { h with busy := true })
    (taken v 1).descOutside 0 0x4040 1 = false ∧ { taken v 1 with rgn := [] }.descOutside 0 0x4040 1 = true ∧ dev (.load 0 0) w = w := by decide +kernel
theorem test_ctx_area_clean : let v := { owning .loaded with ctxSw := [(0, { busy := .restoring, ctx := 3, scheds := [1] })] }
    v.errGrains (v.area 0 3 + coreArea 0) spadBytes = [] := by decide +kernel
/-- A weak lane found by training takes a spare, and the module's report is written (R414, R423). -/
theorem test_weak_lane : let t := ran (.stackTraining ⟨[], [⟨3, false, 1, 2⟩]⟩) (stm (mg 5) {})
    (t.dev.chan 3).dqSpares = 1 ∧ t.mgmt.condition = none ∧ (t.mgmt.laneSpares.map (fun e => e.1)) = [3] := by decide +kernel
/-- The delay is half of what the round trip leaves beside the far end's turn, rounded down (R478). -/
theorem test_stamps : stampDelay ⟨10, 500, 510, 61⟩ = 20 ∧ Stamps.wf ⟨10, 500, 510, 61⟩ = true ∧ Stamps.wf ⟨10, 500, 510, 19⟩ = false := by decide

end Sys2Proof.Tests
end

/-! The time commands beside the weather messages (02): what each shared operation of Machine/Weather leaves in the fabric time unit and in the
master's merge, the effect of each command, and from them O14. -/

namespace Sys2Proof.Machine

/-! ### Parts read off a frame -/

section
variable {F : List Part} {v w : Dev}

theorem Dev.Within.ft_eq (h : Dev.Within F v w) (hp : Part.time ∉ F) : w.ft = v.ft := h.1 .time hp
theorem Dev.Within.ftRegs_eq (h : Dev.Within F v w) (hp : Part.timeRegs ∉ F) : w.ftRegs = v.ftRegs := h.1 .timeRegs hp
theorem Dev.Within.mst_eq (h : Dev.Within F v w) (hp : Part.master ∉ F) : w.mst = v.mst := h.1 .master hp
theorem Dev.Within.pwr_eq (h : Dev.Within F v w) (hp : Part.power ∉ F) : w.pwr = v.pwr := h.1 .power hp

end

/-! ### The time unit after each shared operation -/

@[simp] theorem Dev.ev_ftRegs (v : Dev) (die src code a b : Nat) : (v.ev die src code a b).ftRegs = v.ftRegs :=
  (Dev.ev_within v die src code a b).ftRegs_eq (by decide)
@[simp] theorem Dev.evBoth_ft (v : Dev) (code a b : Nat) : (v.evBoth code a b).ft = v.ft := (Dev.evBoth_within v code a b).ft_eq (by decide)
@[simp] theorem Dev.sendW_ft (v : Dev) (m : WMsg) : (v.sendW m).ft = v.ft := (Dev.sendW_within v m).ft_eq (by decide)
@[simp] theorem Dev.modMember_ft (v : Dev) (c : Nat) (g : Member → Member) : (v.modMember c g).ft = v.ft :=
  (Dev.modMember_within v c g).ft_eq (by decide)
@[simp] theorem Dev.takeFreqReq_ft (v : Dev) (c a : Nat) : (v.takeFreqReq c a).ft = v.ft := (Dev.takeFreqReq_within v c a).ft_eq (by decide)
@[simp] theorem Dev.powerEdge_ft (old v : Dev) : (Dev.powerEdge old v).ft = v.ft := (Dev.powerEdge_within old v).ft_eq (by decide)
@[simp] theorem Dev.release_ft (v : Dev) : v.release.ft = v.ft := (Dev.release_within v).ft_eq (by decide)
@[simp] theorem Dev.settleTime_ft (v : Dev) : v.settleTime.ft = v.ft := (Dev.settleTime_within v).ft_eq (by decide)

@[simp] theorem Dev.freezeNow_ft (v : Dev) : v.freezeNow.ft = { v.ft with frozen := true, freezeAt := none } := rfl

/-- A freeze tick that the count has reached freezes the unit at its own count (R65). -/
theorem Dev.freezeTo_reached_ft {v : Dev} {tf : Nat} (h : tf ≤ v.ft.now) :
    (v.freezeTo tf).ft = { v.ft with tf := some (firstTf v.ft.tf tf), frozen := true, freezeAt := none } := by
  simp [Dev.freezeTo, h]

/-- A level applies whether or not it is the one in force; the announcement is used up (R62). -/
@[simp] theorem Dev.applyLevel_ft (v : Dev) (l e : Nat) : (v.applyLevel l e).ft = { v.ft with level := l, annLull := none } := by
  unfold Dev.applyLevel
  split <;> simp

/-- A unit that thaws runs on from Tr and what the path adds (R72). -/
theorem Dev.thaw_ft (v : Dev) (tr shift pause path : Nat) :
    (v.thaw tr shift pause path).ft.frozen = false ∧ (v.thaw tr shift pause path).ft.now = tr + path := by
  unfold Dev.thaw
  extract_lets _ _ _ _ shifted levelled
  have keeps : levelled.ft.frozen = shifted.ft.frozen ∧ levelled.ft.now = shifted.ft.now := by
    unfold levelled
    split <;> simp
  rw [Dev.settleTime_ft, Dev.release_ft, Dev.evBoth_ft, Dev.modHbm_ft]
  exact keeps

/-- Sending FREQ_REQ, or keeping it, moves neither the count nor who is master (R49). -/
@[simp] theorem Dev.updateReq_ft (v : Dev) : v.updateReq.ft.locked = v.ft.locked ∧ v.updateReq.ft.now = v.ft.now ∧
    v.updateReq.ft.masterActive = v.ft.masterActive := by
  unfold Dev.updateReq
  split
  · unfold Dev.sendFreqReq
    dsimp only
    split <;> simp
  · simp

/-- A unit that locks runs from the count given, as master or as member (R36, R37). -/
theorem Dev.lockAt_ft (v : Dev) (n : Nat) (master frozen : Bool) :
    (v.lockAt n master frozen).ft.locked = true ∧ (v.lockAt n master frozen).ft.now = n ∧ (v.lockAt n master frozen).ft.masterActive = master := by
  simp [Dev.lockAt]

/-! ### The merge after each shared operation -/

@[simp] theorem Dev.evBoth_mst (v : Dev) (code a b : Nat) : (v.evBoth code a b).mst = v.mst := (Dev.evBoth_within v code a b).mst_eq (by decide)
@[simp] theorem Dev.sendW_mst (v : Dev) (m : WMsg) : (v.sendW m).mst = v.mst := (Dev.sendW_within v m).mst_eq (by decide)
@[simp] theorem Dev.freezeTo_mst (v : Dev) (tf : Nat) : (v.freezeTo tf).mst = v.mst := (Dev.freezeTo_within v tf).mst_eq (by decide)
@[simp] theorem Dev.thaw_mst (v : Dev) (tr shift pause path : Nat) : (v.thaw tr shift pause path).mst = v.mst :=
  (Dev.thaw_within v tr shift pause path).mst_eq (by decide)

@[simp] theorem Dev.member_modFt (v : Dev) (g : FabTime → FabTime) (c : Nat) : (v.modFt g).member c = v.member c := rfl
@[simp] theorem Dev.member_evBoth (v : Dev) (code a b c : Nat) : (v.evBoth code a b).member c = v.member c := by simp [Dev.member]
theorem Dev.member_modMst {v : Dev} {g : Master → Master} (h : (g v.mst).members = v.mst.members) (c : Nat) :
    (v.modMst g).member c = v.member c := by simp [Dev.member, h]
@[simp] theorem Dev.member_modMember_same (v : Dev) (c : Nat) (g : Member → Member) : (v.modMember c g).member c = g (v.member c) := by
  simp [Dev.member, Dev.modMember]
theorem Dev.member_modMember_ne (v : Dev) (g : Member → Member) {a c : Nat} (h : a ≠ c) : (v.modMember c g).member a = v.member a := by
  simp [Dev.member, Dev.modMember, tget_tmod_ne _ _ _ h]

/-- A change made to every listed entry, of a table whose default it keeps, shows in every read. -/
theorem tget_map {α : Type} {d : α} {g : α → α} (hd : g d = d) (t : Tab α) (k : Nat) :
    tget d (t.map fun e => (e.1, g e.2)) k = g (tget d t k) := by
  induction t with
  | nil => exact hd.symm
  | cons e r ih =>
    by_cases h : e.1 = k
    · simp [tget, h]
    · simpa [tget, h] using ih

/-- A freeze the master orders keeps the earliest tick ordered (log entry 91). -/
@[simp] theorem Dev.masterFreeze_freezing (v : Dev) (tf : Nat) : (v.masterFreeze tf).mst.freezing = some (firstTf v.mst.freezing tf) := by
  simp [Dev.masterFreeze]

/-- A freeze has every member report anew, or, given while one is under way, keeps the reports; presence and requests stay (R68). -/
theorem Dev.masterFreeze_member (v : Dev) (tf c : Nat) : ∃ r n, (v.masterFreeze tf).member c = { v.member c with ready := r, frozenCount := n } := by
  simp only [Dev.masterFreeze, Dev.member, Dev.freezeTo_mst, Dev.modMst_mst, Dev.sendW_mst]
  split
  · exact ⟨_, _, rfl⟩
  · exact ⟨false, none, tget_map (d := {}) (g := fun m : Member => { m with ready := false, frozenCount := none }) rfl _ _⟩

/-- A master that orders a freeze at its own count is frozen there (R65). -/
theorem Dev.masterFreeze_now_ft (v : Dev) :
    (v.masterFreeze v.ft.now).ft = { v.ft with tf := some (firstTf v.ft.tf v.ft.now), frozen := true, freezeAt := none } := by
  unfold Dev.masterFreeze
  dsimp only
  rw [Dev.freezeTo_reached_ft (by simp)]
  simp

/-! ### The messages sent -/

theorem Dev.sendW_out {v : Dev} (h : v.pwr.tripped = false) (m : WMsg) : (v.sendW m).out = v.out ++ [.weather m v.refLink] := by
  simp [Dev.sendW, h]

/-- A member that is not itself the master sends its STATE and takes none (R67). -/
theorem Dev.sendState_out {v : Dev} (ht : v.pwr.tripped = false) (hm : v.ft.masterActive = false) :
    v.sendState.out = v.out ++ [.weather (mkW 4 v.chip
      (v.pstate + b2n v.ft.frozen * 16 + b2n v.ready * 32 + b2n (v.ft.locked && decide (0 < v.ft.freshLeft)) * 64) v.ft.now) v.refLink] := by
  simp [Dev.sendState, hm, Dev.sendW_out ht]

/-! ### The commands -/

/-- DOLDRUMS_END with no new Doldrums announced. -/
theorem Dev.doldEnd_of_no_announcement {v : Dev} (hd : v.ft.dold = true) (hl : v.ft.doldLeft = 0) (ha : v.ft.annDold = none) :
    v.doldEnd = v.modFt (fun f => { f with dold := false }) := by
  simp [Dev.doldEnd, hd, hl, ha]

/-- The counts that a thaw looks at: the master's own, and those that the other members present have reported. -/
def Dev.frozenCounts (v : Dev) : List Nat :=
  v.ft.now :: somes ((v.present.filter (fun e => decide (e.1 ≠ v.chip))).map (fun e => e.2.frozenCount))

/-- MASTER_THAW: Tr is the first boundary above the highest frozen count (R71). -/
theorem Dev.masterThaw_effect {v : Dev} {tf : Nat} (hf : v.mst.freezing = some tf) (hm : v.ft.masterActive = true) (hz : v.ft.frozen = true)
    (hr : v.allReady = true) : v.masterThaw.ft.frozen = false ∧ v.masterThaw.mst.freezing = none ∧
      v.masterThaw.ft.now = (v.frozenCounts.foldl max 0 / 4096 + 1) * 4096 := by
  simp [Dev.masterThaw, hf, hm, hz, hr, Dev.thaw_ft, Dev.frozenCounts, epoch]

/-- FROZEN_MESSAGE_TIMER of a frozen master outside Chrysalis sends TIME alone (R67). -/
theorem Dev.frozenTimer_of_master {v : Dev} (hz : v.ft.frozen = true) (hc : v.pwr.chrysalis = false) (hm : v.ft.masterActive = true) :
    v.frozenTimer = v.sendW v.timeMsg := by
  have hp : (v.sendW v.timeMsg).pwr = v.pwr := (Dev.sendW_within v v.timeMsg).pwr_eq (by decide)
  simp [Dev.frozenTimer, hz, hc, hm, hp]

/-- FROZEN_MESSAGE_TIMER of a frozen member sends STATE alone (R67). -/
theorem Dev.frozenTimer_of_member {v : Dev} (hz : v.ft.frozen = true) (hm : v.ft.masterActive = false) : v.frozenTimer = v.sendState := by
  simp [Dev.frozenTimer, hz, hm]

theorem Dev.timeHoldover_effect {v : Dev} (hl : v.ft.locked = true) (hm : v.ft.masterActive = false) (hh : v.ft.holdover = false) :
    v.timeHoldover.ft.frozen = true ∧ v.timeHoldover.ft.holdover = true ∧ v.timeHoldover.ft.now = v.ft.now := by
  simp [Dev.timeHoldover, hl, hm, hh]

theorem Dev.memberAbsent_effect {v : Dev} {c : Nat} (hm : v.ft.masterActive = true) (hk : (v.member c).known = true) (hc : c ≠ v.chip) :
    ((v.memberAbsent c).member c).absent = true ∧ (v.memberAbsent c).mst.lates = v.mst.lates.filter (fun l => decide (l.chip ≠ c)) := by
  have he : v.memberAbsent c = (v.modMember c (fun _ => { known := true, absent := true })).modMst
      (fun m => { m with lates := m.lates.filter (fun l => decide (l.chip ≠ c)) }) := by simp [Dev.memberAbsent, hm, hk, hc]
  rw [he, Dev.member_modMst rfl, Dev.member_modMember_same]
  exact ⟨rfl, rfl⟩

/-- The merge a standby takes over with, at a level, before it orders the freeze: the old master absent, then its own request (R74). -/
def Dev.takenOver (v : Dev) (level : Nat) : Dev :=
  ((((v.modFt (fun f => { f with masterActive := true })).modMember v.masterChip (fun _ => { known := true, absent := true })).modMember v.chip
    (fun m => { m with known := true, absent := false, level := v.standing.1, reason := v.standing.2 })).modMst
    (fun m => { m with lates := [], doldAnn := v.ft.annDold, levelAnn := level, pause := none })).evBoth 0x006 v.ft.now 0

/-- MASTER_TAKEOVER: the merge is taken over, at the level announced or in force, and the slice freezes at the new master's count (R74). -/
theorem Dev.takeover_eq {v : Dev} (hr : v.role = 2) (hl : v.ft.locked = true) (hm : v.ft.masterActive = false) :
    ∃ level, v.takeover = (v.takenOver level).masterFreeze v.ft.now := by
  unfold Dev.takeover
  rw [if_pos (by simp [hr, hl, hm])]
  exact ⟨_, rfl⟩

@[simp] theorem Dev.takenOver_ft (v : Dev) (l : Nat) : (v.takenOver l).ft = { v.ft with masterActive := true } := by simp [Dev.takenOver]
@[simp] theorem Dev.takenOver_freezing (v : Dev) (l : Nat) : (v.takenOver l).mst.freezing = v.mst.freezing := by
  simp [Dev.takenOver, Dev.modMember]

/-- The new master itself is present, and with it its standing request (R74). -/
theorem Dev.takenOver_member_chip (v : Dev) (l : Nat) : ((v.takenOver l).member v.chip).absent = false ∧ ((v.takenOver l).member v.chip).level = v.standing.1 := by
  rw [Dev.takenOver, Dev.member_evBoth, Dev.member_modMst rfl, Dev.member_modMember_same]
  exact ⟨rfl, rfl⟩

/-- The old master is absent from the merge, unless the new master stands under the same number (R74). -/
theorem Dev.takenOver_member_masterChip (v : Dev) (l : Nat) :
    ((v.takenOver l).member v.masterChip).absent = decide (v.masterChip ≠ v.chip) := by
  by_cases h : v.masterChip = v.chip
  · simp [h, (v.takenOver_member_chip l).1]
  · rw [Dev.takenOver, Dev.member_evBoth, Dev.member_modMst rfl, Dev.member_modMember_ne _ _ h, Dev.member_modMember_same]
    simp [h]

theorem Dev.takeover_effect {v : Dev} (hr : v.role = 2) (hl : v.ft.locked = true) (hm : v.ft.masterActive = false) :
    v.takeover.ft.masterActive = true ∧ v.takeover.ft.frozen = true ∧ v.takeover.ft.now = v.ft.now ∧
      v.takeover.mst.freezing = some (firstTf v.mst.freezing v.ft.now) ∧
      (v.takeover.member v.masterChip).absent = decide (v.masterChip ≠ v.chip) ∧ (v.takeover.member v.chip).level = v.standing.1 := by
  obtain ⟨l, he⟩ := Dev.takeover_eq hr hl hm
  have hft := (v.takenOver l).masterFreeze_now_ft
  rw [Dev.takenOver_ft] at hft
  obtain ⟨_, _, hold⟩ := (v.takenOver l).masterFreeze_member v.ft.now v.masterChip
  obtain ⟨_, _, hnew⟩ := (v.takenOver l).masterFreeze_member v.ft.now v.chip
  rw [he, hft, hold, hnew, Dev.masterFreeze_freezing, Dev.takenOver_freezing]
  exact ⟨rfl, rfl, rfl, rfl, v.takenOver_member_masterChip l, (v.takenOver_member_chip l).2⟩

/-- A write of FAB_TIME_CFG while unlocked is taken; of the registers it changes nothing else (R21). -/
theorem Dev.timeCfgWrite_ftRegs_of_unlocked {v : Dev} (hl : v.ft.locked = false) (die : Nat) (x : W32) :
    (v.timeCfgWrite die x).ftRegs = (v.modFtReg die (fun r => { r with cfg := x })).ftRegs := by
  unfold Dev.timeCfgWrite
  rw [if_neg (by simp [hl])]
  dsimp only
  split
  · rw [(Dev.updateReq_within _).ftRegs_eq (by decide), (Dev.modMember_within _ _ _).ftRegs_eq (by decide),
      (Dev.lockAt_within _ _ _ _).ftRegs_eq (by decide)]
  · rfl

/-- A write that sets die 0's ROLE to MASTER locks an unlocked unit at count 0 as active master (R37). -/
theorem Dev.timeCfgWrite_ft_of_master_role {v : Dev} (hl : v.ft.locked = false) {x : W32} (hx : bits x.toNat 1 0 = 1) :
    (v.timeCfgWrite 0 x).ft.locked = true ∧ (v.timeCfgWrite 0 x).ft.now = 0 ∧ (v.timeCfgWrite 0 x).ft.masterActive = true := by
  unfold Dev.timeCfgWrite
  rw [if_neg (by simp [hl])]
  dsimp only
  rw [if_pos ⟨rfl, hx⟩]
  simp [Dev.lockAt_ft]

/-- While the unit is locked the write only posts its event (R21). -/
theorem Dev.timeCfgWrite_ftRegs_of_locked {v : Dev} (hl : v.ft.locked = true) (die : Nat) (x : W32) :
    (v.timeCfgWrite die x).ftRegs = v.ftRegs := by
  simp [Dev.timeCfgWrite, hl]

/-- Settles O14: each command runs its operation of Machine/Weather, whose effect is stated above. -/
theorem timeCommandsComplete : Obligations.TimeCommandsComplete := by
  intro s
  refine ⟨fun hd hl ha => ?_, fun tf hf hm hz hr => ⟨s.dev.masterThaw, rfl, Dev.masterThaw_effect hf hm hz hr⟩,
    fun hz ht hc => ⟨s.dev.frozenTimer, rfl, fun hm => ?_, fun hm => ?_⟩,
    fun hl hm hh => ⟨s.dev.timeHoldover, rfl, Dev.timeHoldover_effect hl hm hh⟩,
    fun chip hm hk hc => ⟨s.dev.memberAbsent chip.toNat, rfl, Dev.memberAbsent_effect hm hk hc⟩,
    fun hr hl hm => ⟨s.dev.takeover, rfl, Dev.takeover_effect hr hl hm⟩,
    fun d x hl => ⟨s.dev.timeCfgWrite d.val x, rfl, ?_, ?_⟩,
    fun d x hl => ⟨s.dev.timeCfgWrite d.val x, rfl, Dev.timeCfgWrite_ftRegs_of_locked hl d.val x⟩⟩
  · change Host.Outcome.next (s.ends s.dev.doldEnd) = _
    rw [Dev.doldEnd_of_no_announcement hd hl ha, State.ends_quiet s (s.dev.modFt _) (fun _ => rfl)]
  · rw [Dev.frozenTimer_of_master hz hc hm, Dev.sendW_out ht]
  · rw [Dev.frozenTimer_of_member hz hm, Dev.sendState_out ht hm, hz]
    rfl
  · simp [Dev.ftReg, Dev.timeCfgWrite_ftRegs_of_unlocked hl, Dev.modFtReg]
  · rintro rfl hx
    exact Dev.timeCfgWrite_ft_of_master_role hl hx

end Sys2Proof.Machine

/-! TICK, the epoch's own steps and the weather messages (02): what each shared operation of Machine/Weather leaves in the schedules, in the
time unit and among the messages sent, the effect of each command, and from them O7 to O13. -/

namespace Sys2Proof.Machine

/-! ### More parts read off a frame -/

section
variable {F : List Part} {v w : Dev}

theorem Dev.Within.scheds_eq (h : Dev.Within F v w) (hp : Part.schedules ∉ F) : w.scheds = v.scheds := h.1 .schedules hp
theorem Dev.Within.links_eq (h : Dev.Within F v w) (hp : Part.links ∉ F) : w.links = v.links := h.1 .links hp
theorem Dev.Within.chip_eq (h : Dev.Within F v w) (hp : Part.chip ∉ F) : w.chip = v.chip := h.1 .chip hp
theorem Dev.Within.out_eq (h : Dev.Within F v w) (hp : Part.out ∉ F) : w.out = v.out := h.1 .out hp
theorem Dev.Within.maint_eq (h : Dev.Within F v w) (hp : Part.map ∉ F) : w.hbm.maint = v.hbm.maint := by
  obtain ⟨_, _, _, _, _, hm, _⟩ := h.1 .map hp
  exact hm

end

/-! ### Running schedules -/

theorem Dev.sched_congr {v w : Dev} (h : w.scheds = v.scheds) (id : Nat) : w.sched id = v.sched id := by rw [Dev.sched, h, Dev.sched]

theorem mem_of_tget_ne {α : Type} {d : α} {t : Tab α} {k : Nat} (h : tget d t k ≠ d) : (k, tget d t k) ∈ t := by
  induction t with
  | nil => exact absurd rfl h
  | cons e r ih =>
    by_cases hk : e.1 = k
    · simp [tget, ← hk]
    · have ht : tget d (e :: r) k = tget d r k := by simp [tget, hk]
      rw [ht] at h ⊢
      exact List.mem_cons_of_mem _ (ih h)

/-- The schedules that a change of every running schedule goes over. -/
def Dev.runningScheds (v : Dev) : List (Nat × Sched) := v.scheds.filter (fun e => decide (e.2.phase = .running))

theorem Dev.mem_runningScheds {v : Dev} {id : Nat} (h : (v.sched id).phase = .running) : id ∈ v.runningScheds.map Prod.fst := by
  have hd : v.sched id ≠ {} := fun q => by simp [q] at h
  exact List.mem_map.mpr ⟨(id, v.sched id), List.mem_filter.mpr ⟨mem_of_tget_ne hd, by simpa using h⟩, rfl⟩

/-- A change that a second run leaves as the first left it, made for each element of a list, shows once at every schedule listed. -/
theorem Dev.sched_forAll_modSched {g : Nat → Sched → Sched} (hg : ∀ i q, g i (g i q) = g i q) (xs : List (Nat × Sched)) (v : Dev) (id : Nat) :
    (v.forAll xs (fun u e => u.modSched e.1 (g e.1))).sched id = if id ∈ xs.map Prod.fst then g id (v.sched id) else v.sched id := by
  induction xs generalizing v with
  | nil => rfl
  | cons e r ih =>
    refine (ih (v.modSched e.1 (g e.1))).trans ?_
    by_cases he : id = e.1
    · subst he
      simp [hg]
    · simp only [List.map_cons, List.mem_cons, he, false_or, Dev.sched_modSched_ne _ _ _ he]

/-- A change of every running schedule shows at each of them. -/
theorem Dev.sched_forAll_running {v : Dev} {id : Nat} (h : (v.sched id).phase = .running) {g : Nat → Sched → Sched}
    (hg : ∀ i q, g i (g i q) = g i q) :
    (v.forAll v.runningScheds (fun u e => u.modSched e.1 (g e.1))).sched id = g id (v.sched id) := by
  rw [Dev.sched_forAll_modSched hg, if_pos (Dev.mem_runningScheds h)]

/-- A pause moves the base of every running schedule (R59, R72). -/
theorem Dev.sched_shiftBases {v : Dev} {id : Nat} (h : (v.sched id).phase = .running) (add sub : Nat) :
    (v.shiftBases add sub).sched id = { v.sched id with base := (v.sched id).base + add - sub } :=
  Dev.sched_forAll_running h (g := fun i q => { q with base := (v.sched i).base + add - sub }) (fun _ _ => rfl)

/-- A locked, running unit releases what its count has reached (R41). -/
theorem Dev.sched_release {v : Dev} {id : Nat} (hl : v.ft.locked = true) (hf : v.ft.frozen = false) (h : (v.sched id).phase = .running) :
    v.release.sched id = { v.sched id with relTop := max (v.sched id).relTop (v.ft.now + 1 - (v.sched id).base) } := by
  unfold Dev.release
  rw [if_neg (by simp [hl, hf])]
  exact Dev.sched_forAll_running h (g := fun _ q => { q with relTop := max q.relTop (v.ft.now + 1 - q.base) })
    (fun _ q => by rw [Nat.max_assoc, Nat.max_self])

/-- What is released after a release: what was before, and what the count has reached (R41). -/
theorem Dev.release_released {v : Dev} {id : Nat} (hl : v.ft.locked = true) (hf : v.ft.frozen = false) (h : (v.sched id).phase = .running)
    (ws : List W64) : (v.release.sched id).released ws = true ↔
      (v.sched id).released ws = true ∨ (v.sched id).base + eRelease ws ≤ v.ft.now := by
  rw [Dev.sched_release hl hf h]
  simp only [Sched.released, decide_eq_true_eq]
  omega

/-! ### TICK -/

@[simp] theorem Dev.countStalls_ft (v : Dev) : v.countStalls.ft = v.ft := (Dev.countStalls_within v).ft_eq (by decide)
@[simp] theorem Dev.countStalls_scheds (v : Dev) : v.countStalls.scheds = v.scheds := (Dev.countStalls_within v).scheds_eq (by decide)
@[simp] theorem Dev.reqEvent_ft (v : Dev) (die kind : Nat) (p : Nat → Bool) : (v.reqEvent die kind p).ft = v.ft :=
  (Dev.reqEvent_within v die kind p).ft_eq (by decide)
@[simp] theorem Dev.reqEvent_scheds (v : Dev) (die kind : Nat) (p : Nat → Bool) : (v.reqEvent die kind p).scheds = v.scheds :=
  (Dev.reqEvent_within v die kind p).scheds_eq (by decide)
@[simp] theorem Dev.settleTime_scheds (v : Dev) : v.settleTime.scheds = v.scheds := (Dev.settleTime_within v).scheds_eq (by decide)
@[simp] theorem Dev.freezeNow_scheds (v : Dev) : v.freezeNow.scheds = v.scheds := rfl

/-- The unit as TICK has counted one up: a pause that has run out is over, and the stalls of a tick outside a pause are counted. -/
def Dev.counted (v : Dev) : Dev :=
  let v0 := if v.ft.dold && decide (v.ft.doldLeft = 0) then v.modFt (fun f => { f with dold := false }) else v
  (if v0.ft.dold then v0 else v0.countStalls).modFt (fun f => { f with now := f.now + 1 })

/-- What TICK does after the release: the requests of the count, and a freeze tick reached (R65, R383). -/
def Dev.countReached (v : Dev) : Dev :=
  let v1 := (v.reqEvent 0 1 (fun a => v.ft.now % 2 ^ a = 0)).reqEvent 1 1 (fun a => v.ft.now % 2 ^ a = 0)
  match v1.ft.freezeAt with
  | some t => if t ≤ v1.ft.now then v1.freezeNow else v1
  | none => v1

theorem Dev.tick_eq {v : Dev} (hl : v.ft.locked = true) (hf : v.ft.frozen = false) :
    v.tick = v.counted.release.countReached.settleTime := by
  unfold Dev.tick
  rw [if_pos (by simp [hl, hf])]
  rfl

/-- Counting moves the count, and neither a schedule nor the state of the unit. -/
theorem Dev.counted_effect (v : Dev) : v.counted.ft.locked = v.ft.locked ∧ v.counted.ft.frozen = v.ft.frozen ∧
    v.counted.ft.now = v.ft.now + 1 ∧ v.counted.scheds = v.scheds := by
  unfold Dev.counted
  dsimp only
  split <;> split <;> simp

theorem Dev.countReached_keeps (v : Dev) : v.countReached.ft.now = v.ft.now ∧ v.countReached.scheds = v.scheds := by
  unfold Dev.countReached
  dsimp only
  split
  · split <;> simp
  · simp

/-- An unlocked or frozen unit does not count (R28, R31). -/
theorem Dev.tick_stands {v : Dev} (h : v.ft.locked = false ∨ v.ft.frozen = true) : v.tick = v := by
  unfold Dev.tick
  rw [if_neg]
  rcases h with h | h <;> simp [h]

/-- A command that changes nothing posts nothing either. -/
theorem State.ends_self (s : State) : s.ends s.dev = s := State.ends_quiet s s.dev (fun _ => rfl)

/-- Settles O7: counting moves the count by one, and nothing after it moves it. -/
theorem tickCounts : Obligations.TickCounts := by
  intro s
  refine ⟨fun hl hf => ⟨s.dev.tick, rfl, ?_⟩, fun h => ?_⟩
  · obtain ⟨_, _, hn, _⟩ := s.dev.counted_effect
    rw [Dev.tick_eq hl hf, Dev.settleTime_ft, (Dev.countReached_keeps _).1, Dev.release_ft, hn]
  · change Host.Outcome.next (s.ends s.dev.tick) = _
    rw [Dev.tick_stands h, State.ends_self]

/-- Settles O8: TICK releases at the count it has just raised, and nothing after that moves a schedule. -/
theorem tickReleases : Obligations.TickReleases := by
  intro s id ws hl hf hr
  obtain ⟨hcl, hcf, hn, hs⟩ := s.dev.counted_effect
  have hsched : s.dev.counted.sched id = s.dev.sched id := Dev.sched_congr hs id
  have hticked : s.dev.tick.sched id = s.dev.counted.release.sched id :=
    Dev.sched_congr (by rw [Dev.tick_eq hl hf, Dev.settleTime_scheds, (Dev.countReached_keeps _).2]) id
  refine ⟨s.dev.tick, rfl, ?_⟩
  rw [hticked, Dev.release_released (hcl.trans hl) (hcf.trans hf) (hsched ▸ hr), hsched, hn]

/-! ### What a message sent is made of -/

theorem Dev.refLink_congr {v w : Dev} (hl : w.links = v.links) (hh : w.ft.heardOn = v.ft.heardOn) : w.refLink = v.refLink := by
  unfold Dev.refLink Dev.linkN
  rw [hl, hh]
theorem Dev.pstate_congr {v w : Dev} (hp : w.pwr = v.pwr) (hl : w.ft.level = v.ft.level) : w.pstate = v.pstate := by
  unfold Dev.pstate
  rw [hp, hl]
theorem Dev.ready_congr {v w : Dev} (hp : w.pwr = v.pwr) : w.ready = v.ready := by
  unfold Dev.ready
  rw [hp]
theorem Dev.timeMsg_congr {v w : Dev} (hc : w.chip = v.chip) (hf : w.ft = v.ft) : w.timeMsg = v.timeMsg := by
  unfold Dev.timeMsg
  rw [hc, hf]

/-- A frame that leaves the links and the time unit alone leaves the reference link. -/
theorem Dev.Within.refLink_eq {F : List Part} {v w : Dev} (h : Dev.Within F v w) (hl : Part.links ∉ F) (ht : Part.time ∉ F) :
    w.refLink = v.refLink :=
  Dev.refLink_congr (h.links_eq hl) (congrArg FabTime.heardOn (h.ft_eq ht))

@[simp] theorem Dev.modMember_out (v : Dev) (c : Nat) (g : Member → Member) : (v.modMember c g).out = v.out := rfl
@[simp] theorem Dev.modMember_chip (v : Dev) (c : Nat) (g : Member → Member) : (v.modMember c g).chip = v.chip := rfl
@[simp] theorem Dev.modMember_freezing (v : Dev) (c : Nat) (g : Member → Member) : (v.modMember c g).mst.freezing = v.mst.freezing := rfl

/-- Nothing sent is taken back. -/
theorem Dev.out_subset_sendW (v : Dev) (m : WMsg) : v.out ⊆ (v.sendW m).out := by
  unfold Dev.sendW
  split <;> simp

/-- A module that has not tripped sends its message on the reference link (R493, R550). -/
theorem Dev.mem_sendW_out {v : Dev} (h : v.pwr.tripped = false) (m : WMsg) : .weather m v.refLink ∈ (v.sendW m).out := by
  simp [Dev.sendW_out h]

/-! ### Freezes and the STATE messages taken -/

/-- A freeze touches the freeze ticks and FROZEN alone (R65). -/
theorem Dev.freezeTo_ft (v : Dev) (tf : Nat) : ∃ z a, (v.freezeTo tf).ft = { v.ft with tf := some (firstTf v.ft.tf tf), frozen := z, freezeAt := a } := by
  unfold Dev.freezeTo
  split
  · exact ⟨true, none, rfl⟩
  · exact ⟨v.ft.frozen, _, rfl⟩

/-- A freeze tick the count has not reached is held (R65). -/
theorem Dev.freezeTo_ahead_ft {v : Dev} {tf : Nat} (h : v.ft.now < tf) (hf : v.ft.frozen = false) :
    (v.freezeTo tf).ft = { v.ft with tf := some (firstTf v.ft.tf tf), freezeAt := some (firstTf v.ft.freezeAt tf) } := by
  simp [Dev.freezeTo, hf, Nat.not_le.mpr h]

@[simp] theorem Dev.masterFreeze_out (v : Dev) (tf : Nat) : (v.masterFreeze tf).out = (v.sendW (mkW 7 v.chip 0 tf)).out :=
  (Dev.freezeTo_within _ tf).out_eq (by decide)
@[simp] theorem Dev.masterFreeze_sampledAt (v : Dev) (tf : Nat) : (v.masterFreeze tf).ft.sampledAt = v.ft.sampledAt := by
  unfold Dev.masterFreeze
  dsimp only
  obtain ⟨_, _, h⟩ := Dev.freezeTo_ft ((v.sendW (mkW 7 v.chip 0 tf)).modMst _) tf
  rw [h]
  simp

/-- What a STATE shows of a member not absent, taken: the member is known, and the first that shows Chrysalis has the active master order a
freeze (R68). -/
def Dev.stateShown (v : Dev) (chip arg : Nat) : Dev :=
  let u := v.modMember chip (fun q => { q with known := true, chrysalis := decide (bits arg 3 0 = 3) })
  if u.ft.masterActive && decide (bits arg 3 0 = 3) && !(v.member chip).chrysalis then
    u.masterFreeze (if chip = u.chip then u.ft.now else u.ft.now + 4)
  else u

/-- A STATE of a member not absent: what it shows is taken, and during a freeze its report too (R68, R70). -/
theorem Dev.takeState_of_present {v : Dev} {chip : Nat} (h : (v.member chip).absent = false) (arg value : Nat) :
    v.takeState chip arg value = if (v.stateShown chip arg).mst.freezing.isSome then
      (v.stateShown chip arg).modMember chip (fun q => { q with ready := bit arg 5, frozenCount := if bit arg 4 then some value else q.frozenCount })
      else v.stateShown chip arg := by
  unfold Dev.takeState
  dsimp only
  rw [if_neg (by simp [h])]
  rfl

/-- A STATE of an absent member makes it known anew at most (R73). -/
theorem Dev.takeState_of_absent {v : Dev} {chip : Nat} (h : (v.member chip).absent = true) (arg value : Nat) :
    v.takeState chip arg value = if bit arg 6 then v.modMember chip (fun _ => { known := true, rejoining := true }) else v := by
  unfold Dev.takeState
  dsimp only
  rw [if_pos h]

theorem Dev.out_subset_stateShown (v : Dev) (chip arg : Nat) : v.out ⊆ (v.stateShown chip arg).out := by
  unfold Dev.stateShown
  dsimp only
  split
  · rw [Dev.masterFreeze_out]
    exact Dev.out_subset_sendW (v.modMember chip _) _
  · simp
@[simp] theorem Dev.stateShown_sampledAt (v : Dev) (chip arg : Nat) : (v.stateShown chip arg).ft.sampledAt = v.ft.sampledAt := by
  unfold Dev.stateShown
  dsimp only
  split <;> simp
theorem Dev.stateShown_known (v : Dev) (chip arg : Nat) : ((v.stateShown chip arg).member chip).known = true := by
  unfold Dev.stateShown
  dsimp only
  split
  · obtain ⟨_, _, h⟩ := Dev.masterFreeze_member (v.modMember chip (fun q => { q with known := true, chrysalis := decide (bits arg 3 0 = 3) }))
      (if chip = v.chip then v.ft.now else v.ft.now + 4) chip
    rw [Dev.modMember_chip, Dev.modMember_ft, h]
    simp
  · simp

/-- Another member's first STATE in Chrysalis has the active master order a freeze at its count plus 4 (R65, R68). -/
theorem Dev.stateShown_of_chrysalis {v : Dev} {chip arg : Nat} (hm : v.ft.masterActive = true) (hc : (v.member chip).chrysalis = false)
    (ha : bits arg 3 0 = 3) (hne : chip ≠ v.chip) : v.stateShown chip arg =
      (v.modMember chip (fun q => { q with known := true, chrysalis := decide (bits arg 3 0 = 3) })).masterFreeze (v.ft.now + 4) := by
  unfold Dev.stateShown
  dsimp only
  rw [if_pos (by simp [hm, hc, ha])]
  simp [hne]

/-- Taking a STATE sends at most, and leaves the sample point as it was. -/
theorem Dev.takeState_keeps (v : Dev) (chip arg value : Nat) :
    v.out ⊆ (v.takeState chip arg value).out ∧ (v.takeState chip arg value).ft.sampledAt = v.ft.sampledAt := by
  by_cases h : (v.member chip).absent = true
  · rw [Dev.takeState_of_absent h]
    split <;> simp
  · rw [Dev.takeState_of_present (by simpa using h)]
    have hs := Dev.out_subset_stateShown v chip arg
    split <;> simp [hs]

/-- A STATE of a member not absent makes it known (R70). -/
theorem Dev.takeState_known {v : Dev} {chip : Nat} (h : (v.member chip).absent = false) (arg value : Nat) :
    ((v.takeState chip arg value).member chip).known = true := by
  rw [Dev.takeState_of_present h]
  split <;> simp [Dev.stateShown_known]

/-- The freeze ordered on a member's first STATE in Chrysalis: held by the master, and sent (R65, R68). -/
theorem Dev.takeState_orders_freeze {v : Dev} {chip arg : Nat} (h : (v.member chip).absent = false) (hm : v.ft.masterActive = true)
    (hc : (v.member chip).chrysalis = false) (ha : bits arg 3 0 = 3) (hne : chip ≠ v.chip) (value : Nat) :
    (v.takeState chip arg value).mst.freezing = some (firstTf v.mst.freezing (v.ft.now + 4)) ∧
      (v.pwr.tripped = false → .weather (mkW 7 v.chip 0 (v.ft.now + 4)) v.refLink ∈ (v.takeState chip arg value).out) := by
  have hf : (v.stateShown chip arg).mst.freezing = some (firstTf v.mst.freezing (v.ft.now + 4)) := by
    rw [Dev.stateShown_of_chrysalis hm hc ha hne]
    simp
  have ho : v.pwr.tripped = false → .weather (mkW 7 v.chip 0 (v.ft.now + 4)) v.refLink ∈ (v.stateShown chip arg).out := fun ht => by
    rw [Dev.stateShown_of_chrysalis hm hc ha hne, Dev.masterFreeze_out]
    exact Dev.mem_sendW_out (v := v.modMember chip _) ht _
  rw [Dev.takeState_of_present h, hf]
  exact ⟨hf, ho⟩

/-! ### SAMPLE_POINT -/

/-- The module's own STATE is sent, taken itself or not (R48). -/
theorem Dev.mem_sendState_out {v : Dev} (ht : v.pwr.tripped = false) : .weather (mkW 4 v.chip
    (v.pstate + b2n v.ft.frozen * 16 + b2n v.ready * 32 + b2n (v.ft.locked && decide (0 < v.ft.freshLeft)) * 64) v.ft.now) v.refLink ∈ v.sendState.out := by
  unfold Dev.sendState
  dsimp only
  split
  · exact (Dev.takeState_keeps _ _ _ _).1 (Dev.mem_sendW_out ht _)
  · exact Dev.mem_sendW_out ht _
theorem Dev.out_subset_sendState (v : Dev) : v.out ⊆ v.sendState.out := by
  unfold Dev.sendState
  dsimp only
  split
  · refine List.Subset.trans ?_ (Dev.takeState_keeps _ _ _ _).1
    exact Dev.out_subset_sendW v _
  · exact Dev.out_subset_sendW v _
@[simp] theorem Dev.sendState_sampledAt (v : Dev) : v.sendState.ft.sampledAt = v.ft.sampledAt := by
  unfold Dev.sendState
  dsimp only
  split <;> simp [Dev.takeState_keeps]

theorem Dev.mem_sendLate_out {v : Dev} (ht : v.pwr.tripped = false) (slip k : Nat) :
    .weather (mkW 3 v.chip slip (strmKind k * 8192 + strmUnit k * 128)) v.refLink ∈ (v.sendLate slip k).out := by
  unfold Dev.sendLate
  dsimp only
  split
  · rw [(Dev.takeLate_within _ _ _).out_eq (by decide)]
    exact Dev.mem_sendW_out ht _
  · exact Dev.mem_sendW_out ht _

@[simp] theorem Dev.worstLate_modFt (v : Dev) (g : FabTime → FabTime) : (v.modFt g).worstLate = v.worstLate := rfl

/-- SAMPLE_POINT: the sample point has taken place, the LATE of the worst stream is sent, and then STATE (R47, R48). -/
theorem Dev.samplePoint_late_then_state {v : Dev} (hl : v.ft.locked = true) (hf : v.ft.frozen = false) (ht : v.pwr.tripped = false)
    (hn : v.ft.now % 4096 = 4096 - 128) (hs : v.ft.sampledAt ≠ some v.ft.now) :
    ∃ u : Dev, v.samplePoint = u.sendState ∧ Dev.Within [.master, .out] (v.modFt (fun f => { f with sampledAt := some f.now })) u ∧
      ∀ slip k, v.worstLate = some (slip, k) → .weather (mkW 3 v.chip slip (strmKind k * 8192 + strmUnit k * 128)) v.refLink ∈ u.out := by
  unfold Dev.samplePoint
  rw [if_pos (by simp [hl, hf, hn, hs, epoch])]
  dsimp only
  rw [Dev.worstLate_modFt]
  cases hw : v.worstLate with
  | none => exact ⟨_, rfl, Dev.Within.refl _ _, by simp⟩
  | some p =>
    refine ⟨_, rfl, Dev.sendLate_within _ _ _, fun slip k h => ?_⟩
    cases h
    exact Dev.mem_sendLate_out (v := v.modFt _) ht slip k

/-- Settles O9: what the LATE leaves of the device still gives the STATE of the statement, and sending it takes nothing back. -/
theorem samplePointReports : Obligations.SamplePointReports := by
  intro s hl hf ht hn hs
  obtain ⟨u, he, hu, hlate⟩ := Dev.samplePoint_late_then_state hl hf ht hn hs
  have hft := hu.ft_eq (by decide)
  have hpwr : u.pwr = s.dev.pwr := hu.pwr_eq (by decide)
  have hlink : u.refLink = s.dev.refLink := hu.refLink_eq (by decide) (by decide)
  refine ⟨s.dev.samplePoint, rfl, ?_, ?_, fun slip k h => ?_⟩
  · rw [he, Dev.sendState_sampledAt, hft]
    rfl
  · have hm := Dev.mem_sendState_out (v := u) (by rw [hpwr, ht])
    rw [hu.chip_eq (by decide), Dev.pstate_congr hpwr (by rw [hft]; rfl), Dev.ready_congr hpwr, hlink, hft] at hm
    simpa [he, hl, hf, b2n] using hm
  · rw [he]
    exact Dev.out_subset_sendState u (hlate slip k h)

/-! ### MASTER_CUT_OFF -/

/-- At the cut-off the members that have come back are present (R73). -/
def Dev.atCutOff (v : Dev) : Dev :=
  (v.modFt (fun f => { f with cutAt := some f.now })).modMst
    (fun m => { m with members := m.members.map (fun x => (x.1, { x.2 with rejoining := false })) })

/-- A level is announced for boundary e where it differs from the one announced before (R57). -/
def Dev.announceLevel (v : Dev) (lvl e : Nat) : Dev :=
  if lvl = v.mst.levelAnn then v else
    ((v.sendW (mkW 5 v.chip lvl e)).modMst (fun m => { m with levelAnn := lvl })).modFt (fun f => { f with annLull := some (lvl, e) })

/-- The reports held for boundary e (R55). -/
def Dev.heldFor (v : Dev) (e : Nat) : List LateRep := v.mst.lates.filter (fun l => decide (l.boundary ≤ e))
/-- Those are used up. -/
def Dev.useReports (v : Dev) (e : Nat) : Dev := v.modMst (fun m => { m with lates := m.lates.filter (fun l => decide (e < l.boundary)) })

/-- Boundary e lies inside the pause announced last (Table 2.3). -/
def Dev.insidePause (v : Dev) (e : Nat) : Bool := match v.mst.pause with
  | some (a, b) => decide (a < e) && decide (e < b)
  | none => false

/-- A Doldrums of n epochs is announced for boundary e, clipped to DOLD_MAX (R56). -/
def Dev.announceDold (v : Dev) (n e : Nat) : Dev :=
  let u := if v.doldMax < n then v.ev 0 74 0x009 n v.doldMax else v
  let n' := min n v.doldMax
  ((u.sendW (mkW 6 u.chip n' e)).modMst (fun m => { m with pause := some (e, e + n' * epoch), doldAnn := some (n', e) })).modFt
    (fun f => { f with annDold := some (n', e) })

/-- The cut-off once the level is announced: the reports held for e are used up, and outside a pause they give a Doldrums (R56). -/
def Dev.mergeReports (v : Dev) (e : Nat) : Dev :=
  if (v.heldFor e).isEmpty || (v.useReports e).insidePause e then v.useReports e
  else (v.useReports e).announceDold (ceilDiv ((v.heldFor e).foldl (fun a l => max a l.slip) 0) epoch) e

/-- The highest standing request of the members present (R57). -/
def Dev.highestRequest (v : Dev) : Nat := v.present.foldl (fun a x => max a x.2.level) 0

theorem Dev.cutOff_eq {v : Dev} (hm : v.ft.masterActive = true) (hl : v.ft.locked = true) (hf : v.ft.frozen = false)
    (hn : v.ft.now % 4096 = 4096 - 64) (hc : v.ft.cutAt ≠ some v.ft.now) :
    v.cutOff = (v.atCutOff.announceLevel v.atCutOff.highestRequest (v.ft.now + 64)).mergeReports (v.ft.now + 64) := by
  unfold Dev.cutOff
  rw [if_pos (by simp [hm, hl, hf, hn, hc, epoch])]
  rfl

/-- Present from the cut-off on are the members known and not absent, those that have come back among them (R57, R73). -/
theorem Dev.highestRequest_atCutOff (v : Dev) : v.atCutOff.highestRequest =
    ((v.mst.members.filter (fun x => x.2.known && !x.2.absent)).map (fun x => x.2.level)).foldl max 0 := by
  have hp : v.atCutOff.present =
      (v.mst.members.filter (fun x => x.2.known && !x.2.absent)).map (fun x => (x.1, { x.2 with rejoining := false })) := by
    simp only [Dev.present, Dev.atCutOff, Dev.modMst_mst, Dev.modFt_mst, List.filter_map]
    congr 2
    funext x
    simp
  rw [Dev.highestRequest, hp, List.foldl_map, List.foldl_map]

/-- Announcing a level: the level announced last, the announcement held, and LULL where there is one (R57, R62). -/
theorem Dev.announceLevel_ann (v : Dev) (lvl e : Nat) : (v.announceLevel lvl e).mst = { v.mst with levelAnn := lvl } ∧
    (v.announceLevel lvl e).ft = { v.ft with annLull := if lvl = v.mst.levelAnn then v.ft.annLull else some (lvl, e) } := by
  unfold Dev.announceLevel
  split
  · subst lvl
    exact ⟨rfl, rfl⟩
  · simp
theorem Dev.mem_announceLevel_out {v : Dev} {lvl : Nat} (hne : lvl ≠ v.mst.levelAnn) (ht : v.pwr.tripped = false) (e : Nat) :
    .weather (mkW 5 v.chip lvl e) v.refLink ∈ (v.announceLevel lvl e).out := by
  unfold Dev.announceLevel
  rw [if_neg hne]
  exact Dev.mem_sendW_out ht _
theorem Dev.announceLevel_within (v : Dev) (lvl e : Nat) : Dev.Within [.time, .master, .out] v (v.announceLevel lvl e) := by
  unfold Dev.announceLevel
  split
  · exact Dev.Within.refl _ _
  · exact Dev.Within.step (Dev.modFt_within _ _) (by decide) <| Dev.Within.step (Dev.modMst_within _ _) (by decide) <|
      Dev.Within.step (Dev.sendW_within _ _) (by decide) <| Dev.Within.refl _ _

theorem Dev.doldMax_congr {v w : Dev} (h : w.ftRegs = v.ftRegs) : w.doldMax = v.doldMax := by
  rw [Dev.doldMax, Dev.doldMax, Dev.ftReg, Dev.ftReg, h]

/-- Announcing a Doldrums: what is announced, DOLDRUMS, and the reports and the level left as they were (R56, R59). -/
theorem Dev.announceDold_ann (v : Dev) (n e : Nat) : (v.announceDold n e).ft = { v.ft with annDold := some (min n v.doldMax, e) } ∧
    (v.announceDold n e).mst.lates = v.mst.lates ∧ (v.announceDold n e).mst.levelAnn = v.mst.levelAnn ∧ v.out ⊆ (v.announceDold n e).out ∧
    (v.pwr.tripped = false → .weather (mkW 6 v.chip (min n v.doldMax) e) v.refLink ∈ (v.announceDold n e).out) := by
  unfold Dev.announceDold
  dsimp only
  generalize hu : (if v.doldMax < n then v.ev 0 74 0x009 n v.doldMax else v) = u
  have hw : Dev.Within [.hif] v u := hu ▸ Dev.Within.ite (Dev.ev_within _ _ _ _ _ _) (Dev.Within.refl _ _)
  have hout : u.out = v.out := hw.out_eq (by decide)
  have hmst : u.mst = v.mst := hw.mst_eq (by decide)
  refine ⟨?_, ?_, ?_, ?_, fun ht => ?_⟩
  · simp [hw.ft_eq (by decide)]
  · simp [hmst]
  · simp [hmst]
  · rw [← hout]
    exact Dev.out_subset_sendW u _
  · rw [hw.chip_eq (by decide), ← hw.refLink_eq (by decide) (by decide)]
    exact Dev.mem_sendW_out (by rw [hw.pwr_eq (by decide), ht]) _

/-- Merging touches of the time unit only the Doldrums announced; the reports for e are used up, and nothing sent is taken back. -/
theorem Dev.mergeReports_keeps (v : Dev) (e : Nat) : (∃ a, (v.mergeReports e).ft = { v.ft with annDold := a }) ∧
    (v.mergeReports e).mst.lates = v.mst.lates.filter (fun l => decide (e < l.boundary)) ∧
    (v.mergeReports e).mst.levelAnn = v.mst.levelAnn ∧ v.out ⊆ (v.mergeReports e).out := by
  unfold Dev.mergeReports
  split
  · exact ⟨⟨v.ft.annDold, rfl⟩, rfl, rfl, List.Subset.refl _⟩
  · obtain ⟨hft, hlates, hlevel, hout, _⟩ := (v.useReports e).announceDold_ann (ceilDiv ((v.heldFor e).foldl (fun a l => max a l.slip) 0) epoch) e
    exact ⟨⟨_, hft⟩, hlates, hlevel, hout⟩

/-- No report held, no Doldrums (R56). -/
theorem Dev.mergeReports_of_none {v : Dev} {e : Nat} (h : v.heldFor e = []) : v.mergeReports e = v.useReports e := by
  simp [Dev.mergeReports, h]

/-- Reports held outside a pause give the Doldrums of the largest slip, clipped to DOLD_MAX (R55, R56). -/
theorem Dev.mergeReports_of_held {v : Dev} {e : Nat} (h : v.heldFor e ≠ []) (hp : ∀ a b, v.mst.pause = some (a, b) → e ≤ a ∨ b ≤ e) :
    let n := min (ceilDiv (((v.heldFor e).map (fun l => l.slip)).foldl max 0) 4096) v.doldMax
    (v.mergeReports e).ft.annDold = some (n, e) ∧
      (v.pwr.tripped = false → .weather (mkW 6 v.chip n e) v.refLink ∈ (v.mergeReports e).out) := by
  have hi : (v.useReports e).insidePause e = false := by
    unfold Dev.insidePause
    cases hq : (v.useReports e).mst.pause with
    | none => rfl
    | some p =>
      have := hp p.1 p.2 hq
      simp
      omega
  obtain ⟨hft, _, _, _, hsent⟩ := (v.useReports e).announceDold_ann (ceilDiv ((v.heldFor e).foldl (fun a l => max a l.slip) 0) epoch) e
  unfold Dev.mergeReports
  rw [if_neg (by simp [h, hi]), List.foldl_map, hft]
  exact ⟨rfl, hsent⟩

/-- Settles O10: the level is announced first, which leaves the reports, the pause and DOLD_MAX to the merge that follows. -/
theorem cutOffMerges : Obligations.CutOffMerges := by
  intro s hm hl hf hn hc e lvl held n
  have he := Dev.cutOff_eq hm hl hf hn hc
  rw [s.dev.highestRequest_atCutOff] at he
  let u := s.dev.atCutOff.announceLevel lvl e
  obtain ⟨hmst, hft⟩ := s.dev.atCutOff.announceLevel_ann lvl e
  have hu : Dev.Within [.time, .master, .out] s.dev.atCutOff u := s.dev.atCutOff.announceLevel_within lvl e
  have hheld : u.heldFor e = held := by
    unfold Dev.heldFor u
    rw [hmst]
    rfl
  obtain ⟨⟨a, hw⟩, hlates, hlevel, hout⟩ := u.mergeReports_keeps e
  refine ⟨s.dev.cutOff, rfl, ?_⟩
  rw [he]
  refine ⟨?_, ?_, ?_, fun hne => ⟨?_, fun ht => ?_⟩, fun heq => ?_, ?_, fun hh hp => ?_, fun hh => ?_⟩
  · rw [hw, hft]
    rfl
  · rw [hw, hft]
    rfl
  · rw [hlevel, hmst]
  · rw [hw, hft]
    exact if_neg hne
  · exact hout (Dev.mem_announceLevel_out (v := s.dev.atCutOff) hne ht e)
  · rw [hw, hft]
    exact if_pos heq
  · rw [hlates, hmst]
    rfl
  · have hmax : u.doldMax = s.dev.doldMax := Dev.doldMax_congr (hu.ftRegs_eq (by decide))
    have hchip : u.chip = s.dev.chip := hu.chip_eq (by decide)
    have hlink : u.refLink = s.dev.refLink := Dev.refLink_congr (hu.links_eq (by decide)) (congrArg FabTime.heardOn hft :)
    have hpwr : u.pwr = s.dev.pwr := hu.pwr_eq (by decide)
    have hdold := Dev.mergeReports_of_held (v := u) (e := e) (by rwa [hheld]) (by rwa [hmst])
    rwa [hheld, hmax, hchip, hlink, hpwr] at hdold
  · rw [Dev.mergeReports_of_none (hheld.trans hh)]
    exact (congrArg FabTime.annDold hft :)

/-! ### EPOCH_BOUNDARY -/

/-- A shift of the bases shows in FAB_TIME_SHIFT (R59, R72). -/
@[simp] theorem Dev.shiftBases_ft (v : Dev) (add sub : Nat) : (v.shiftBases add sub).ft = { v.ft with shift := v.ft.shift + add - sub } := by
  have h : (v.forAll v.runningScheds (fun u e => u.modSched e.1 (fun q => { q with base := (v.sched e.1).base + add - sub }))).ft = v.ft :=
    (Dev.Within.forAll (F := [.schedules]) (fun _ _ => Dev.modSched_within _ _ _) (Dev.Within.refl _ v)).ft_eq (by decide)
  exact congrArg (fun f : FabTime => { f with shift := f.shift + add - sub }) h

/-- A Doldrums that starts: FAB_TIME_SHIFT, DOLD and the epochs left (R59). -/
@[simp] theorem Dev.startDold_ft (v : Dev) (n e : Nat) : (v.startDold n e).ft =
    { v.ft with shift := v.ft.shift + n * 4096, dold := true, doldLeft := n, annDold := none, lastDold := some (n, e) } := by
  simp [Dev.startDold, epoch]

/-- A Doldrums that starts moves every running schedule (R59). -/
theorem Dev.startDold_base {v : Dev} {id : Nat} (h : (v.sched id).phase = .running) (n e : Nat) :
    ((v.startDold n e).sched id).base = (v.sched id).base + n * 4096 := by
  have hs : (v.startDold n e).sched id = (v.shiftBases (n * epoch) 0).sched id :=
    Dev.sched_congr ((Dev.evBoth_within _ _ _ _).scheds_eq (by decide)) id
  rw [hs, Dev.sched_shiftBases h]
  rfl

/-- The Doldrums announced for boundary b starts (R59). -/
def Dev.applyDold (v : Dev) (b : Nat) : Dev := match v.ft.annDold with
  | some (n, e) => if e = b then v.startDold n e else v
  | none => v
/-- The lull announced for boundary b applies (R62). -/
def Dev.applyLull (v : Dev) (b : Nat) : Dev := match v.ft.annLull with
  | some (l, e) => if e = b then v.applyLevel l e else v
  | none => v


theorem Dev.applyDold_of_announced {v : Dev} {n b : Nat} (h : v.ft.annDold = some (n, b)) : v.applyDold b = v.startDold n b := by
  simp [Dev.applyDold, h]
theorem Dev.applyLull_of_announced {v : Dev} {l b : Nat} (h : v.ft.annLull = some (l, b)) : v.applyLull b = v.applyLevel l b := by
  simp [Dev.applyLull, h]

/-- A lull that applies changes the level and uses up its announcement (R62). -/
theorem Dev.applyLull_ft (v : Dev) (b : Nat) : ∃ l a, (v.applyLull b).ft = { v.ft with level := l, annLull := a } := by
  unfold Dev.applyLull
  split
  · split
    · exact ⟨_, _, Dev.applyLevel_ft _ _ _⟩
    · exact ⟨v.ft.level, v.ft.annLull, rfl⟩
  · exact ⟨v.ft.level, v.ft.annLull, rfl⟩
@[simp] theorem Dev.applyLull_scheds (v : Dev) (b : Nat) : (v.applyLull b).scheds = v.scheds := by
  unfold Dev.applyLull
  split
  · split
    · exact (Dev.applyLevel_within _ _ _).scheds_eq (by decide)
    · rfl
  · rfl

/-- A Doldrums that starts, or none, changes of the time unit the shift and the pause alone (R59). -/
theorem Dev.applyDold_ft (v : Dev) (b : Nat) : ∃ s d n a t, (v.applyDold b).ft =
    { v.ft with shift := s, dold := d, doldLeft := n, annDold := a, lastDold := t } := by
  unfold Dev.applyDold
  split
  · split
    · exact ⟨_, _, _, _, _, Dev.startDold_ft _ _ _⟩
    · exact ⟨v.ft.shift, v.ft.dold, v.ft.doldLeft, v.ft.annDold, v.ft.lastDold, rfl⟩
  · exact ⟨v.ft.shift, v.ft.dold, v.ft.doldLeft, v.ft.annDold, v.ft.lastDold, rfl⟩

/-- The unit at boundary b before what is announced applies: the pause counts down, and HBM_MAINT is taken (R59, R441). -/
def Dev.boundaryReached (v : Dev) (b : Nat) : Dev :=
  (v.modFt (fun f => { f with doldLeft := f.doldLeft - 1, boundaryAt := some b })).modHbm (fun h => { h with maint := h.maintWritten })

theorem Dev.unitBoundary_eq (v : Dev) (b : Nat) : v.unitBoundary b = ((v.boundaryReached b).applyDold b).applyLull b := rfl

/-- A unit's step at a boundary moves neither its count nor who is master, and HBM_MAINT as written is in force (R441). -/
theorem Dev.unitBoundary_keeps (v : Dev) (b : Nat) : (v.unitBoundary b).ft.boundaryAt = some b ∧ (v.unitBoundary b).ft.now = v.ft.now ∧
    (v.unitBoundary b).ft.masterActive = v.ft.masterActive ∧ (v.unitBoundary b).hbm.maint = v.hbm.maintWritten := by
  obtain ⟨_, _, hl⟩ := ((v.boundaryReached b).applyDold b).applyLull_ft b
  obtain ⟨_, _, _, _, _, hd⟩ := (v.boundaryReached b).applyDold_ft b
  refine ⟨?_, ?_, ?_, ?_⟩
  · rw [Dev.unitBoundary_eq, hl, hd]
    rfl
  · rw [Dev.unitBoundary_eq, hl, hd]
    rfl
  · rw [Dev.unitBoundary_eq, hl, hd]
    rfl
  · exact (Dev.applyAnnounced_within (v.boundaryReached b) b).maint_eq (by decide)

/-- The Doldrums announced for the boundary starts there (R59). -/
theorem Dev.unitBoundary_starts_dold {v : Dev} {n b : Nat} (h : v.ft.annDold = some (n, b)) :
    (v.unitBoundary b).ft.shift = v.ft.shift + n * 4096 ∧ (v.unitBoundary b).ft.dold = true ∧ (v.unitBoundary b).ft.doldLeft = n ∧
      ∀ id, (v.sched id).phase = .running → ((v.unitBoundary b).sched id).base = (v.sched id).base + n * 4096 := by
  have hu : v.unitBoundary b = ((v.boundaryReached b).startDold n b).applyLull b := by
    rw [Dev.unitBoundary_eq, Dev.applyDold_of_announced (v := v.boundaryReached b) h]
  obtain ⟨_, _, hl⟩ := ((v.boundaryReached b).startDold n b).applyLull_ft b
  rw [hu, hl, Dev.startDold_ft]
  refine ⟨rfl, rfl, rfl, fun id hr => ?_⟩
  rw [Dev.sched_congr (Dev.applyLull_scheds _ _) id, Dev.startDold_base (v := v.boundaryReached b) hr]
  rfl

/-- The lull announced for the boundary applies there (R62). -/
theorem Dev.unitBoundary_applies_lull {v : Dev} {l b : Nat} (h : v.ft.annLull = some (l, b)) : (v.unitBoundary b).ft.level = l := by
  obtain ⟨_, _, _, _, _, hd⟩ := (v.boundaryReached b).applyDold_ft b
  rw [Dev.unitBoundary_eq, Dev.applyLull_of_announced (by rw [hd]; exact h), Dev.applyLevel_ft]

/-- The active master sends TIME at a boundary (Table 2.2). -/
def Dev.boundaryTime (v : Dev) : Dev := if v.ft.masterActive then v.sendW v.timeMsg else v
theorem Dev.epochBoundary_eq {v : Dev} (hl : v.ft.locked = true) (hf : v.ft.frozen = false) (hn : v.ft.now % 4096 = 0)
    (hb : v.ft.boundaryAt ≠ some v.ft.now) : v.epochBoundary = (v.unitBoundary v.ft.now).boundaryTime.settleTime := by
  unfold Dev.epochBoundary
  rw [if_pos (by simp [hl, hf, hn, hb, epoch])]
  rfl

theorem Dev.boundaryTime_within (v : Dev) : Dev.Within [.out] v v.boundaryTime :=
  Dev.Within.ite (Dev.sendW_within _ _) (Dev.Within.refl _ _)
theorem Dev.mem_boundaryTime_out {v : Dev} (hm : v.ft.masterActive = true) (ht : v.pwr.tripped = false) :
    .weather v.timeMsg v.refLink ∈ v.boundaryTime.out := by
  rw [Dev.boundaryTime, if_pos hm]
  exact Dev.mem_sendW_out ht _

/-- Settles O11: the unit's own step gives every clause but the last, and neither TIME nor the settling after it undoes any of them. -/
theorem boundaryApplies : Obligations.BoundaryApplies := by
  intro s hl hf hn hb
  let u := s.dev.unitBoundary s.dev.ft.now
  have he : s.dev.epochBoundary = u.boundaryTime.settleTime := Dev.epochBoundary_eq hl hf hn hb
  have hw : Dev.Within [.streams, .contexts, .counters, .syncStatus, .hif, .out] u s.dev.epochBoundary := by
    rw [he]
    exact Dev.Within.step (Dev.settleTime_within _) (by decide) (Dev.Within.step u.boundaryTime_within (by decide) (Dev.Within.refl _ _))
  obtain ⟨hat, hnow, hmaster, hmaint⟩ := s.dev.unitBoundary_keeps s.dev.ft.now
  refine ⟨s.dev.epochBoundary, rfl, ?_⟩
  rw [hw.ft_eq (by decide), hw.maint_eq (by decide)]
  refine ⟨hat, hnow, hmaint, fun n h => ?_, fun l h => Dev.unitBoundary_applies_lull h, fun hm ht => ?_⟩
  · obtain ⟨hshift, hdold, hleft, hbase⟩ := Dev.unitBoundary_starts_dold h
    exact ⟨hshift, hdold, hleft, fun id hr => (congrArg Sched.base (Dev.sched_congr (hw.scheds_eq (by decide)) id)).trans (hbase id hr)⟩
  · rw [Dev.timeMsg_congr (hw.chip_eq (by decide)) (hw.ft_eq (by decide)), hw.refLink_eq (by decide) (by decide), he,
      (Dev.settleTime_within _).out_eq (by decide)]
    exact Dev.mem_boundaryTime_out (hmaster.trans hm) (by rw [(s.dev.unitBoundary_within _).pwr_eq (by decide), ht])

/-! ### Weather messages received -/

/-- The eight commands that deliver a message on a link. -/
def weatherCommands (l : LinkId) (m : WMsg) : List Instr :=
  [.time ⟨l, m⟩, .freqReq ⟨l, m⟩, .late ⟨l, m⟩, .state ⟨l, m⟩, .lull ⟨l, m⟩, .doldrums ⟨l, m⟩, .freeze ⟨l, m⟩, .thaw ⟨l, m⟩]

/-- Each of them receives the message, with a type and an effect of its own. -/
theorem exec_weatherCommands {l : LinkId} {m : WMsg} {c : Instr} (hc : c ∈ weatherCommands l m) (s : State) :
    ∃ t act, exec c s = .next (s.ends (s.dev.receive l.val t m act)) := by
  simp only [weatherCommands, List.mem_cons, List.not_mem_nil, or_false] at hc
  rcases hc with rfl | rfl | rfl | rfl | rfl | rfl | rfl | rfl <;> exact ⟨_, _, rfl⟩

section
variable {v : Dev} {l t : Nat} {m : WMsg} {act : Dev → Dev}

theorem Dev.receive_of_bad (hb : wBad m = true) : v.receive l t m act = v.dropMsg (linkDie l) := if_pos hb
theorem Dev.receive_on_other_die (hb : wBad m = false) (hl : linkDie l ≠ 0) : v.receive l t m act = v := by simp [Dev.receive, hb, hl]
theorem Dev.receive_acts (hb : wBad m = false) (hl : linkDie l = 0) (ht : wTypeN m = t) : v.receive l t m act = act v := by
  simp [Dev.receive, hb, hl, ht]

/-- A master type from the unit's master acts, once the link is noted as one the master's messages come on (R33, R34). -/
theorem Dev.receiveMaster_acts (hb : wBad m = false) (hl : linkDie l = 0) (ht : wTypeN m = t) (hm : v.fromMaster (wChip m) = true) :
    v.receiveMaster l t m act = act (v.heard l) := by
  rw [Dev.receiveMaster, Dev.receive_acts hb hl ht, if_pos hm]

end

/-- Hearing the master on a link is noted, and nothing else (R34). -/
theorem Dev.heard_eq (v : Dev) (l : Nat) : ∃ h, v.heard l = v.modFt (fun f => { f with heardOn := h }) := by
  unfold Dev.heard
  split
  · exact ⟨v.ft.heardOn, rfl⟩
  · exact ⟨_, rfl⟩

/-- Settles O12: whatever a command's effect, receiving drops the message first, which posts no event. -/
theorem badWeatherDropped : Obligations.BadWeatherDropped := by
  intro s l m hb c hc
  obtain ⟨t, act, he⟩ := exec_weatherCommands hc s
  rw [he, Dev.receive_of_bad hb, State.ends_quiet s (s.dev.dropMsg _) (fun _ => rfl)]
  rfl

/-! ### TIME -/

/-- Of the time unit, FREQ_REQ changes the request last sent (R49). -/
theorem Dev.sendFreqReq_ft (v : Dev) : v.sendFreqReq.ft = { v.ft with reqSent := v.standing } := by
  unfold Dev.sendFreqReq
  dsimp only
  split <;> simp
theorem Dev.updateReq_ft_eq (v : Dev) : ∃ r, v.updateReq.ft = { v.ft with reqSent := r } := by
  unfold Dev.updateReq
  split
  · exact ⟨_, v.sendFreqReq_ft⟩
  · exact ⟨v.ft.reqSent, rfl⟩

/-- The unit just locked on TIME: the state that the message shows (R36). -/
def Dev.lockedOn (v : Dev) (link : Nat) (m : WMsg) : Dev :=
  let a := wArg m
  (v.lockAt (if bit a 4 then wVal m else wVal m + v.pathTicks link (bits a 2 0)) false (bit a 4)).modFt
    (fun f => { f with dold := bit a 3, doldLeft := if bit a 3 then bits a 15 8 else 0, boundaryAt := some (wVal m), level := bits a 2 0 })

/-- What follows the lock changes of the time unit the request last sent alone. -/
theorem Dev.lockFrom_ft_eq (v : Dev) (link : Nat) (m : WMsg) : ∃ r, (v.lockFrom link m).ft = { (v.lockedOn link m).ft with reqSent := r } := by
  unfold Dev.lockFrom
  extract_lets a l v1 v2 v3 v4
  have h2 : v2 = v.lockedOn link m := rfl
  have h3 : v3.ft = v2.ft := by
    unfold v3
    split <;> rfl
  have h4 : v4.ft = v3.ft := by
    unfold v4
    rw [Dev.powerEdge_ft]
    split
    · exact Dev.evBoth_ft _ _ _ _
    · rfl
  obtain ⟨r, hr⟩ := v4.release.settleTime.updateReq_ft_eq
  exact ⟨r, by rw [hr, Dev.settleTime_ft, Dev.release_ft, h4, h3, h2]⟩

/-- An unlocked unit locks on TIME: at the message's count with the path's ticks, or at a frozen VALUE, and in the state the message shows
(R31, R36). -/
theorem Dev.lockFrom_ft (v : Dev) (link : Nat) (m : WMsg) : let a := wArg m
    let f := (v.lockFrom link m).ft
    f.locked = true ∧ f.shift = 0 ∧ f.now = wVal m + (if bit a 4 then 0 else v.pathTicks link (bits a 2 0)) ∧
      f.level = bits a 2 0 ∧ f.frozen = bit a 4 ∧ f.dold = bit a 3 ∧ (bit a 3 = true → f.doldLeft = bits a 15 8) := by
  obtain ⟨r, hr⟩ := v.lockFrom_ft_eq link m
  simp only [hr, Dev.lockedOn, Dev.lockAt, Dev.modFt_ft, Dev.evBoth_ft]
  refine ⟨trivial, trivial, ?_, trivial, trivial, trivial, fun h => if_pos h⟩
  split <;> rfl

/-- What a unit that missed an announcement applies leaves its count (R58). -/
theorem Dev.lateApply_now (v : Dev) (m : WMsg) : (v.lateApply m).ft.now = v.ft.now := by
  unfold Dev.lateApply
  extract_lets a missD missL v1 v2
  have h1 : v1.ft.now = v.ft.now := by
    unfold v1
    split <;> simp
  have h2 : v2.ft.now = v1.ft.now := by
    unfold v2
    split <;> simp
  split <;> simp [h1, h2]

theorem Dev.ftReg_congr {v w : Dev} (h : w.ftRegs = v.ftRegs) (k : Nat) : w.ftReg k = v.ftReg k := by rw [Dev.ftReg, h, Dev.ftReg]

/-- The count steps to n, and STEP sets in both dies' units (R38). -/
theorem Dev.timeStep_effect (v : Dev) (n : Nat) : (v.timeStep n).ft.now = n ∧ ((v.timeStep n).ftReg 0).step = true ∧
    ((v.timeStep n).ftReg 1).step = true := by
  let u := ((v.modFt (fun f => { f with now := n })).modFtReg 0 (fun r => { r with step := true })).modFtReg 1 (fun r => { r with step := true })
  have hw : Dev.Within [.schedules, .streams, .contexts, .counters, .syncStatus, .hif] u (v.timeStep n) :=
    Dev.Within.step (Dev.settleTime_within _) (by decide) <| Dev.Within.step (Dev.release_within _) (by decide) <|
      Dev.Within.step (Dev.evBoth_within _ _ _ _) (by decide) (Dev.Within.refl _ u)
  rw [hw.ft_eq (by decide), Dev.ftReg_congr (hw.ftRegs_eq (by decide)), Dev.ftReg_congr (hw.ftRegs_eq (by decide))]
  refine ⟨rfl, ?_, ?_⟩
  · rw [Dev.ftReg_modFtReg_ne _ _ _ (by decide), Dev.ftReg_modFtReg_same]
  · rw [Dev.ftReg_modFtReg_same]

/-- A locked, running unit brought to the count n: it steps only where it differs (R38). -/
def Dev.stepTo (v : Dev) (n : Nat) : Dev := if v.ft.now = n then v else v.timeStep n
/-- A TIME's boundary that the unit has not taken yet is taken (R58). -/
def Dev.catchUp (v : Dev) (b : Nat) : Dev := if v.ft.boundaryAt = some b then v else (v.unitBoundary b).settleTime
/-- The request is sent again to a new master (Table 2.2). -/
def Dev.greetMaster (v : Dev) : Dev := if v.ft.newMaster then (v.modFt (fun f => { f with newMaster := false })).sendFreqReq else v

theorem Dev.greetMaster_ft (v : Dev) : ∃ n r, v.greetMaster.ft = { v.ft with newMaster := n, reqSent := r } := by
  unfold Dev.greetMaster
  split
  · exact ⟨_, _, Dev.sendFreqReq_ft _⟩
  · exact ⟨v.ft.newMaster, v.ft.reqSent, rfl⟩
theorem Dev.greetMaster_within (v : Dev) : Dev.Within [.time, .master, .out] v v.greetMaster :=
  Dev.Within.ite (Dev.Within.step (Dev.sendFreqReq_within _) (by decide) (Dev.Within.step (Dev.modFt_within _ _) (by decide) (Dev.Within.refl _ _)))
    (Dev.Within.refl _ _)

theorem Dev.pathTicks_congr {v w : Dev} (h : w.links = v.links) (l level : Nat) : w.pathTicks l level = v.pathTicks l level := by
  rw [Dev.pathTicks, Dev.pathTicks, Dev.linkN, Dev.linkN, h]

/-- TIME without FROZEN at a locked, running unit: the count, the boundary, and what an announcement missed (R38, R58). -/
theorem Dev.timeLocked_of_running {v : Dev} {m : WMsg} (hf : v.ft.frozen = false) (hm : bit (wArg m) 4 = false) (link : Nat) :
    v.timeLocked link m = ((v.greetMaster.stepTo (wVal m + v.pathTicks link (bits (wArg m) 2 0))).catchUp (wVal m)).lateApply m := by
  obtain ⟨_, _, hg⟩ := v.greetMaster_ft
  rw [← Dev.pathTicks_congr (v.greetMaster_within.links_eq (by decide))]
  unfold Dev.timeLocked
  extract_lets fb v0 n v1 v2
  have hz : v0.ft.frozen = false := (congrArg FabTime.frozen hg).trans hf
  rw [if_neg (by simp [fb, hm]), if_neg (by simp [hz])]
  rfl

/-- Catching up with a boundary, and with what was announced for it, moves neither the count nor a register (R58). -/
theorem Dev.catchUp_now (v : Dev) (b : Nat) : (v.catchUp b).ft.now = v.ft.now := by
  unfold Dev.catchUp
  split
  · rfl
  · obtain ⟨_, hnow, _⟩ := v.unitBoundary_keeps b
    rw [Dev.settleTime_ft, hnow]
theorem Dev.catchUp_ftRegs (v : Dev) (b : Nat) : (v.catchUp b).ftRegs = v.ftRegs := by
  unfold Dev.catchUp
  split
  · rfl
  · rw [(Dev.settleTime_within _).ftRegs_eq (by decide), (Dev.unitBoundary_within _ _).ftRegs_eq (by decide)]

theorem Dev.stepTo_now (v : Dev) (n : Nat) : (v.stepTo n).ft.now = n := by
  unfold Dev.stepTo
  split
  · assumption
  · exact (v.timeStep_effect n).1
theorem Dev.stepTo_steps {v : Dev} {n : Nat} (h : v.ft.now ≠ n) : ((v.stepTo n).ftReg 0).step = true ∧ ((v.stepTo n).ftReg 1).step = true := by
  rw [Dev.stepTo, if_neg h]
  exact (v.timeStep_effect n).2

/-- TIME without FROZEN gives a locked, running unit its count, and sets STEP in both dies where the count differed (R38). -/
theorem Dev.timeLocked_effect {v : Dev} {m : WMsg} (hf : v.ft.frozen = false) (hm : bit (wArg m) 4 = false) (link : Nat) :
    let n := wVal m + v.pathTicks link (bits (wArg m) 2 0)
    (v.timeLocked link m).ft.now = n ∧
      (v.ft.now ≠ n → ((v.timeLocked link m).ftReg 0).step = true ∧ ((v.timeLocked link m).ftReg 1).step = true) := by
  intro n
  obtain ⟨_, _, hg⟩ := v.greetMaster_ft
  have hregs : (v.timeLocked link m).ftRegs = (v.greetMaster.stepTo n).ftRegs := by
    rw [Dev.timeLocked_of_running hf hm, (Dev.lateApply_within _ _).ftRegs_eq (by decide), Dev.catchUp_ftRegs]
  refine ⟨?_, fun hne => ?_⟩
  · rw [Dev.timeLocked_of_running hf hm, Dev.lateApply_now, Dev.catchUp_now, Dev.stepTo_now]
  · rw [Dev.ftReg_congr hregs, Dev.ftReg_congr hregs]
    exact Dev.stepTo_steps (by rw [hg]; exact hne)

/-! ### THAW -/

/-- A thaw ends a holdover and starts the pause it carries (R72). -/
theorem Dev.thaw_pause (v : Dev) (tr shift pause path : Nat) : (v.thaw tr shift pause path).ft.holdover = false ∧
    (v.thaw tr shift pause path).ft.dold = decide (0 < pause) ∧ (v.thaw tr shift pause path).ft.doldLeft = pause := by
  unfold Dev.thaw
  extract_lets _ _ _ _ thawed levelled
  have keeps : levelled.ft.holdover = thawed.ft.holdover ∧ levelled.ft.dold = thawed.ft.dold ∧ levelled.ft.doldLeft = thawed.ft.doldLeft := by
    unfold levelled
    split <;> simp
  rw [Dev.settleTime_ft, Dev.release_ft, Dev.evBoth_ft, Dev.modHbm_ft]
  exact keeps

/-- THAW at a locked unit: it runs from Tr and the path's ticks, at the level it holds announced or runs at (R72). -/
theorem Dev.actThaw_of_locked {v : Dev} (hl : v.ft.locked = true) (link : Nat) (m : WMsg) : v.actThaw link m =
    v.thaw (wVal m) (bits (wArg m) 7 0) (bits (wArg m) 15 8) (v.pathTicks link ((v.ft.annLull.map (fun x => x.1)).getD v.ft.level)) := by
  unfold Dev.actThaw
  extract_lets level
  have h : level = (v.ft.annLull.map (fun x => x.1)).getD v.ft.level := by
    unfold level
    cases v.ft.annLull <;> rfl
  rw [if_pos hl, h]
theorem Dev.actThaw_effect {v : Dev} (hl : v.ft.locked = true) (link : Nat) (m : WMsg) :
    (v.actThaw link m).ft.now = wVal m + v.pathTicks link ((v.ft.annLull.map (fun x => x.1)).getD v.ft.level) ∧
      (v.actThaw link m).ft.frozen = false ∧ (v.actThaw link m).ft.holdover = false ∧
      (v.actThaw link m).ft.doldLeft = bits (wArg m) 15 8 ∧ ((v.actThaw link m).ft.dold = true ↔ 0 < bits (wArg m) 15 8) := by
  rw [Dev.actThaw_of_locked hl]
  generalize v.pathTicks link _ = path
  obtain ⟨hz, hn⟩ := v.thaw_ft (wVal m) (bits (wArg m) 7 0) (bits (wArg m) 15 8) path
  obtain ⟨hh, hd, hp⟩ := v.thaw_pause (wVal m) (bits (wArg m) 7 0) (bits (wArg m) 15 8) path
  exact ⟨hn, hz, hh, hp, by rw [hd, decide_eq_true_eq]⟩
theorem Dev.actThaw_of_unlocked {v : Dev} (hl : v.ft.locked = false) (link : Nat) (m : WMsg) : v.actThaw link m = v := by
  simp [Dev.actThaw, hl]

/-! ### The reports of members -/

theorem Dev.takeFreqReq_member {v : Dev} {c : Nat} (h : (v.member c).absent = false) (arg : Nat) :
    ((v.takeFreqReq c arg).member c).level = bits arg 2 0 ∧ ((v.takeFreqReq c arg).member c).reason = bits arg 6 4 := by
  simp [Dev.takeFreqReq, h]
theorem Dev.takeLate_lates {v : Dev} {c : Nat} (h : (v.member c).absent = false) (arg : Nat) :
    (v.takeLate c arg).mst.lates = v.mst.lates ++ [{ boundary := v.reportFor, slip := arg, chip := c }] := by
  simp [Dev.takeLate, h, Dev.modMember]

/-- FREEZE: Tf is kept, the lower of two (R65). -/
theorem Dev.freezeTo_effect (v : Dev) (tf : Nat) : (v.freezeTo tf).ft.tf = some (firstTf v.ft.tf tf) ∧ (v.freezeTo tf).ft.now = v.ft.now ∧
    (tf ≤ v.ft.now → (v.freezeTo tf).ft.frozen = true) ∧
    (v.ft.now < tf → v.ft.frozen = false → (v.freezeTo tf).ft.frozen = false ∧ (v.freezeTo tf).ft.freezeAt = some (firstTf v.ft.freezeAt tf)) := by
  obtain ⟨_, _, h⟩ := v.freezeTo_ft tf
  refine ⟨by rw [h], by rw [h], fun hr => by rw [Dev.freezeTo_reached_ft hr], fun ha hf => ?_⟩
  rw [Dev.freezeTo_ahead_ft ha hf]
  exact ⟨hf, rfl⟩

/-- A command that delivers a master type from the unit's master runs its effect, where the links heard on alone may have changed before. -/
theorem State.ends_receiveMaster {s : State} {l t : Nat} {m : WMsg} (hb : wBad m = false) (hl : linkDie l = 0) (ht : wTypeN m = t)
    (hm : s.dev.fromMaster (wChip m) = true) : ∃ h, ∀ act, s.ends (s.dev.receiveMaster l t m act) =
      s.ends (act (s.dev.modFt (fun f => { f with heardOn := h }))) := by
  obtain ⟨h, hh⟩ := s.dev.heard_eq l
  exact ⟨h, fun act => by rw [Dev.receiveMaster_acts hb hl ht hm, hh]⟩

/-- A command that delivers a member's message runs its effect where the unit takes it. -/
theorem State.ends_receive {s : State} {l t : Nat} {m : WMsg} {takes : Dev → Bool} {act : Dev → Dev} (hb : wBad m = false)
    (hl : linkDie l = 0) (ht : wTypeN m = t) (hs : takes s.dev = true) :
    s.ends (s.dev.receive l t m (fun u => if takes u then act u else u)) = s.ends (act s.dev) := by
  rw [Dev.receive_acts hb hl ht, if_pos hs]

/-- Settles O13: each command receives its message, whose effect is stated above; noting the link heard on, before the effect of a master
type, changes nothing that the effect reads. -/
theorem weatherMessagesTaken : Obligations.WeatherMessagesTaken := by
  intro s l m hb v a c
  refine ⟨fun hl => ⟨fun ht hm => ?time, fun ht hli hab => ?freqReq, fun ht hma hab => ?late, fun ht hli hab => ?state,
    fun ht hm => ?lull, fun ht hm => ?doldrums, fun ht hm => ?freeze, fun ht hm => ?thaw⟩, fun hl i hi => ?otherDie⟩
  case time =>
    obtain ⟨h, he⟩ := State.ends_receiveMaster hb hl ht hm
    let u := v.modFt (fun f => { f with heardOn := h })
    refine ⟨fun hu => ⟨u.lockFrom l.val m, congrArg Host.Outcome.next ((he _).trans ?_), u.lockFrom_ft l.val m⟩,
      fun hk hf hz => ⟨u.timeLocked l.val m, congrArg Host.Outcome.next ((he _).trans ?_), ?_⟩⟩
    · exact congrArg s.ends (if_neg (ne_true_of_eq_false hu))
    · exact congrArg s.ends (if_pos hk)
    · obtain ⟨hn, hstep⟩ := Dev.timeLocked_effect (v := u) hf hz l.val
      exact ⟨hn, fun hne => hstep (hn ▸ hne)⟩
  case freqReq =>
    exact ⟨_, congrArg Host.Outcome.next (State.ends_receive (takes := Dev.listens) hb hl ht hli), Dev.takeFreqReq_member hab a⟩
  case late =>
    exact ⟨_, congrArg Host.Outcome.next (State.ends_receive (takes := fun u => u.ft.masterActive) hb hl ht hma), Dev.takeLate_lates hab a⟩
  case state =>
    exact ⟨_, congrArg Host.Outcome.next (State.ends_receive (takes := Dev.listens) hb hl ht hli), Dev.takeState_known hab a (wVal m),
      fun hma hc hp hne => Dev.takeState_orders_freeze hab hma hc hp hne (wVal m)⟩
  case lull =>
    obtain ⟨h, he⟩ := State.ends_receiveMaster hb hl ht hm
    exact ⟨_, congrArg Host.Outcome.next (he _), rfl⟩
  case doldrums =>
    obtain ⟨h, he⟩ := State.ends_receiveMaster hb hl ht hm
    exact ⟨_, congrArg Host.Outcome.next (he _), rfl⟩
  case freeze =>
    obtain ⟨h, he⟩ := State.ends_receiveMaster hb hl ht hm
    exact ⟨_, congrArg Host.Outcome.next (he _), Dev.freezeTo_effect (v.modFt (fun f => { f with heardOn := h })) (wVal m)⟩
  case thaw =>
    obtain ⟨h, he⟩ := State.ends_receiveMaster hb hl ht hm
    let u := v.modFt (fun f => { f with heardOn := h })
    refine ⟨fun hk => ⟨u.actThaw l.val m, congrArg Host.Outcome.next (he _), ?_⟩, fun hu => ⟨u.actThaw l.val m, congrArg Host.Outcome.next (he _), ?_⟩⟩
    · exact Dev.actThaw_effect (v := u) hk l.val m
    · rw [Dev.actThaw_of_unlocked (v := u) hu]
      exact ⟨rfl, hu⟩
  case otherDie =>
    obtain ⟨t, act, he⟩ := exec_weatherCommands hi s
    rw [he, Dev.receive_on_other_die hb hl, State.ends_self]

end Sys2Proof.Machine

/-! Streams and schedules (03): what fetching, retiring, signalling and granting leave in a stream and in the counters, and from them O15 to
O18 and O33. -/

namespace Sys2Proof.Machine

/-! ### Streams, counters and fault records read off a frame -/

section
variable {F : List Part} {v w : Dev}

theorem Dev.Within.strms_eq (h : Dev.Within F v w) (hp : Part.streams ∉ F) : w.strms = v.strms := h.1 .streams hp
theorem Dev.Within.ctrs_eq (h : Dev.Within F v w) (hp : Part.counters ∉ F) : w.ctrs = v.ctrs := h.1 .counters hp
theorem Dev.Within.fault_eq (h : Dev.Within F v w) (hp : Part.faults ∉ F) : w.fault = v.fault := h.1 .faults hp

theorem Dev.strm_congr (h : w.strms = v.strms) (k : Nat) : w.strm k = v.strm k := by rw [Dev.strm, h, Dev.strm]
theorem Dev.ctr_congr (h : w.ctrs = v.ctrs) (id : Nat) : w.ctr id = v.ctr id := by rw [Dev.ctr, h, Dev.ctr]
theorem Dev.flt_congr (h : w.fault = v.fault) (d : Nat) : w.flt d = v.flt d := by rw [Dev.flt, h, Dev.flt]

theorem Dev.Within.strm_eq (h : Dev.Within F v w) (hp : Part.streams ∉ F) (k : Nat) : w.strm k = v.strm k := Dev.strm_congr (h.strms_eq hp) k
theorem Dev.Within.ctr_eq (h : Dev.Within F v w) (hp : Part.counters ∉ F) (id : Nat) : w.ctr id = v.ctr id := Dev.ctr_congr (h.ctrs_eq hp) id
theorem Dev.Within.flt_eq (h : Dev.Within F v w) (hp : Part.faults ∉ F) (d : Nat) : w.flt d = v.flt d := Dev.flt_congr (h.fault_eq hp) d
theorem Dev.Within.sched_eq (h : Dev.Within F v w) (hp : Part.schedules ∉ F) (id : Nat) : w.sched id = v.sched id :=
  Dev.sched_congr (h.scheds_eq hp) id

end

/-! ### Fetching (R89, R95) -/

/-- The read that the fetcher makes for its next entry: permitted, or refused by the region table. -/
def Dev.fetchRead (v : Dev) (k : Nat) : Acc × Dev :=
  let a := (v.strm k).base.toNat + 64 * (v.strm k).fetchNext
  if v.permits (strmDie k) a 64 false false then v.rdModule (strmDie k) a 64 (strmSrc k) else (.err 1, v)

/-- The entry that the read puts in the buffer. -/
def Dev.nextFetched (v : Dev) (k : Nat) : Fetched := match (v.fetchRead k).1 with
  | .ok bs => { idx := (v.strm k).fetchNext, words := bytesToWords 8 bs }
  | .err n => { idx := (v.strm k).fetchNext, words := List.replicate 8 0#64, bad := n }

theorem Dev.fetchOne_eq (v : Dev) (k : Nat) :
    v.fetchOne k = (v.fetchRead k).2.modStrm k (fun q => { q with buf := q.buf ++ [v.nextFetched k], fetchNext := q.fetchNext + 1 }) := rfl

theorem Dev.fetchRead_strm (v : Dev) (k j : Nat) : (v.fetchRead k).2.strm j = v.strm j := by
  unfold Dev.fetchRead
  dsimp only
  split
  · exact (Dev.rdModule_within _ _ _ _ _).strm_eq (by decide) j
  · rfl

@[simp] theorem Dev.fetchOne_strm (v : Dev) (k : Nat) : (v.fetchOne k).strm k =
    { v.strm k with buf := (v.strm k).buf ++ [v.nextFetched k], fetchNext := (v.strm k).fetchNext + 1 } := by
  rw [Dev.fetchOne_eq, Dev.strm_modStrm_same, Dev.fetchRead_strm]

theorem Dev.fetchOne_strm_ne (v : Dev) {k j : Nat} (h : j ≠ k) : (v.fetchOne k).strm j = v.strm j := by
  rw [Dev.fetchOne_eq, Dev.strm_modStrm_ne _ _ _ h, Dev.fetchRead_strm]

@[simp] theorem Dev.nextFetched_idx (v : Dev) (k : Nat) : (v.nextFetched k).idx = (v.strm k).fetchNext := by
  unfold Dev.nextFetched
  split <;> rfl

/-- With no write held a read of stack memory sees the bytes that stand there. -/
theorem Dev.stkSeen_of_none_held {v : Dev} (h : v.moult.held = []) (a n : Nat) : v.stkSeen a n = v.stk8 a n := by
  simp [Dev.stkSeen, h, Dev.forAll]

theorem placeOf_stack {a : Nat} (h : a < stackEnd) : placeOf a = .stack a := if_pos h

/-- A read of stack memory that meets no path error. -/
theorem Dev.rdModule_stack {v : Dev} {a n : Nat} (ha : a < stackEnd) (hp : v.pathAt a n = none) (hh : v.moult.held = []) (die req : Nat) :
    v.rdModule die a n req = (.ok (v.stk8 a n), v.softErrs a n) := by
  unfold Dev.rdModule
  rw [placeOf_stack ha]
  simp [hp, Dev.stkSeen_of_none_held hh]

/-- A permitted read of stack memory that meets no path error gives the words of memory (R89). -/
theorem Dev.nextFetched_of_stack {v : Dev} {k : Nat} (hr : v.permits (strmDie k) ((v.strm k).base.toNat + 64 * (v.strm k).fetchNext) 64 false false = true)
    (ha : (v.strm k).base.toNat + 64 * (v.strm k).fetchNext < stackEnd)
    (hp : v.pathAt ((v.strm k).base.toNat + 64 * (v.strm k).fetchNext) 64 = none) (hh : v.moult.held = []) :
    (v.nextFetched k).bad = 0 ∧ (v.nextFetched k).words = bytesToWords 8 (v.stk8 ((v.strm k).base.toNat + 64 * (v.strm k).fetchNext) 64) := by
  have he : (v.fetchRead k).1 = .ok (v.stk8 ((v.strm k).base.toNat + 64 * (v.strm k).fetchNext) 64) := by
    simp [Dev.fetchRead, hr, Dev.rdModule_stack ha hp hh]
  simp [Dev.nextFetched, he]

theorem forN_succ {α : Type} (n : Nat) (a : α) (f : Nat → α → α) : forN (n + 1) a f = f n (forN n a f) := by
  simp [forN, List.range_succ]

/-- What n fetches leave in the stream: n entries more, numbered on, the first of them what the first read gave. -/
theorem Dev.fetches_strm (v : Dev) (k n : Nat) : ∃ es : List Fetched, es.length = n ∧
    (forN n v (fun _ u => u.fetchOne k)).strm k = { v.strm k with buf := (v.strm k).buf ++ es, fetchNext := (v.strm k).fetchNext + n } ∧
    es.map (fun e => e.idx) = (List.range n).map (fun i => (v.strm k).fetchNext + i) ∧ ∀ e, es.head? = some e → e = v.nextFetched k := by
  induction n with
  | zero => exact ⟨[], rfl, by simp [forN], rfl, by simp⟩
  | succ n ih =>
    obtain ⟨es, hn, hs, hi, hf⟩ := ih
    refine ⟨es ++ [(forN n v (fun _ u => u.fetchOne k)).nextFetched k], by simp [hn], ?_, ?_, fun e he => ?_⟩
    · simp [forN_succ, hs, Nat.add_assoc]
    · simp [List.range_succ, hi, hs]
    · cases es with
      | nil => simpa [← hn, forN, eq_comm] using he
      | cons x r => exact hf e (by simpa using he)

/-- A refill changes the stream's buffer and what it fetches next, and no other stream. -/
theorem Dev.refill_strm (v : Dev) (k : Nat) : ∃ b n, (v.refill k).strm k = { v.strm k with buf := b, fetchNext := n } := by
  unfold Dev.refill
  split
  · obtain ⟨es, _, hs, _⟩ := v.fetches_strm k (v.fetchRoom k)
    exact ⟨_, _, hs⟩
  · exact ⟨_, _, rfl⟩

theorem Dev.refill_strm_ne (v : Dev) {k j : Nat} (h : j ≠ k) : (v.refill k).strm j = v.strm j := by
  have fetches : ∀ n, (forN n v (fun _ u => u.fetchOne k)).strm j = v.strm j := by
    intro n
    induction n with
    | zero => rfl
    | succ n ih => rw [forN_succ, Dev.fetchOne_strm_ne _ h, ih]
  unfold Dev.refill
  split
  · exact fetches _
  · rfl

/-- Settles O15: the refill is as many fetches as there is room and COUNT leaves, and the first read finds the device as it was. -/
theorem fetchFillsBuffer : Obligations.FetchFillsBuffer := by
  intro k s q a hl hr hs hf hi hb
  obtain ⟨es, hn, hw, hidx, hfirst⟩ := s.dev.fetches_strm k (s.dev.fetchRoom k)
  have hfill : s.dev.refill k = forN (s.dev.fetchRoom k) s.dev (fun _ u => u.fetchOne k) := if_pos hb
  refine ⟨s.dev.refill k, ?_, es, ?_, ?_, hn, by rw [hidx, hn], fun hp ha hx hh e he => ?_⟩
  · have hfetch : s.dev.streamFetch k = (s.dev.refill k).nextHead k := if_pos (by simp [q] at hl hs hf; simp [hl, hr, hs, hf, hi])
    exact congrArg (fun w => Host.Outcome.next (s.ends w)) hfetch
  · rw [hfill, hw]
  · rw [hfill, hw, hn]
  · rw [hfirst e he]
    exact Dev.nextFetched_of_stack hp ha hx hh

/-! ### Signals sent (R84, R87, R349) -/

theorem Dev.sendSignal_ctr (v : Dev) (a id : Nat) :
    (v.sendSignal a).ctr id = { v.ctr id with transit := (v.ctr id).transit + if a = id then 1 else 0 } := by
  by_cases h : a = id
  · subst h
    simp [Dev.sendSignal]
  · simp [Dev.sendSignal, h, Dev.ctr_modCtr_ne v a _ (Ne.symm h)]

theorem Dev.forAll_sendSignal_ctr (ids : List Nat) (v : Dev) (id : Nat) :
    (v.forAll ids Dev.sendSignal).ctr id = { v.ctr id with transit := (v.ctr id).transit + ids.count id } := by
  induction ids generalizing v with
  | nil => rfl
  | cons a r ih =>
    refine (ih (v.sendSignal a)).trans ?_
    rw [Dev.sendSignal_ctr]
    simp [List.count_cons, Nat.add_assoc, Nat.add_comm]

/-- Sending signals puts each of them on its way and changes of a counter else only the order in which they arrive. -/
theorem Dev.sendSignals_ctr (v : Dev) (ids : List Nat) (id : Nat) :
    ∃ l, (v.sendSignals ids).ctr id = { v.ctr id with transit := (v.ctr id).transit + ids.count id, after := l } := by
  have sent := v.forAll_sendSignal_ctr ids id
  unfold Dev.sendSignals
  dsimp only
  split
  · next a b =>
    split
    · exact ⟨_, sent⟩
    · by_cases hb : id = b
      · subst hb
        exact ⟨_, by rw [Dev.ctr_modCtr_same, sent]⟩
      · exact ⟨_, by rw [Dev.ctr_modCtr_ne _ _ _ hb, sent]⟩
  · exact ⟨_, sent⟩

@[simp] theorem Dev.sendSignals_strm (v : Dev) (ids : List Nat) (k : Nat) : (v.sendSignals ids).strm k = v.strm k :=
  (Dev.sendSignals_within v ids).strm_eq (by decide) k

/-! ### Starting and source-free signals (R87, R88, R114) -/

theorem mem_insBy {α : Type} (key : α → Nat) (x : α) (l : List α) : x ∈ insBy key x l := by
  induction l with
  | nil => simp [insBy]
  | cons y r ih =>
    unfold insBy
    split
    · simp
    · exact List.mem_cons_of_mem _ ih

/-- The stream after its head has started: the entry has left the buffer and is in flight. -/
theorem Dev.started_strm (v : Dev) (k : Nat) (f : Flight) (empty : Bool) : ∃ n, (v.started k f empty).strm k = { v.strm k with
    buf := (v.strm k).buf.drop 1, next := n, checked := false, tested := false, granted := false, acquiring := false, stall := 0,
    haltSeen := (v.strm k).haltSeen || eHalt f.words,
    flights := insBy (fun g => g.idx) { f with sfSent := f.sfSent || empty, srcDone := f.srcDone || empty } (v.strm k).flights } := by
  unfold Dev.started
  dsimp only
  split
  · rw [Dev.sendSignals_strm]
    exact ⟨_, Dev.strm_modStrm_same _ _ _⟩
  · exact ⟨_, Dev.strm_modStrm_same _ _ _⟩

/-- The entry that has started is in flight. -/
theorem Dev.mem_started_flights (v : Dev) (k : Nat) (f : Flight) (empty : Bool) :
    { f with sfSent := f.sfSent || empty, srcDone := f.srcDone || empty } ∈ ((v.started k f empty).strm k).flights := by
  obtain ⟨n, h⟩ := v.started_strm k f empty
  rw [h]
  exact mem_insBy _ _ _

theorem Dev.startEmpty_of_startable {v : Dev} {k op : Nat} {ws : List W64} (h : v.startable k op = some ws) :
    v.startEmpty k op = (v.started k { idx := (v.strm k).next, words := ws } true).nextHead k := by
  simp [Dev.startEmpty, h]

/-- An entry without a source sends its source-free signals as it starts (R87). -/
theorem Dev.started_empty_ctr (v : Dev) (k : Nat) (f : Flight) (id : Nat) :
    ((v.started k f true).ctr id).transit = (v.ctr id).transit + (eSigs f.words 2).count id := by
  unfold Dev.started
  dsimp only
  rw [if_pos rfl]
  obtain ⟨l, h⟩ := Dev.sendSignals_ctr (v.modStrm k _) (eSigs f.words 2) id
  rw [h]
  rfl

/-- Once an entry's source-free signals are sent no flight of its index that is not withdrawn owes them. -/
theorem Dev.sendSf_flights {v : Dev} {k : Nat} {f g : Flight} (hf : f.sfSent = false) (hg : g ∈ ((v.sendSf k f).strm k).flights)
    (hi : g.idx = f.idx) (hw : g.withdrawn = false) : g.sfSent = true := by
  simp only [Dev.sendSf, hf, Bool.false_eq_true, if_false, Dev.sendSignals_strm, Dev.modFlight, Dev.strm_modStrm_same, List.mem_map] at hg
  obtain ⟨f0, _, rfl⟩ := hg
  split
  · rfl
  · next hne =>
    rw [if_neg hne] at hi hw
    exact absurd ⟨hi, by simp [hw]⟩ hne

theorem Dev.sendSf_ctr {v : Dev} {f : Flight} (hf : f.sfSent = false) (k id : Nat) :
    ((v.sendSf k f).ctr id).transit = (v.ctr id).transit + (eSigs f.words 2).count id ∧ ((v.sendSf k f).ctr id).value = (v.ctr id).value := by
  unfold Dev.sendSf
  rw [if_neg (by simp [hf])]
  obtain ⟨l, h⟩ := Dev.sendSignals_ctr (v.modFlight k f.idx (fun g => { g with sfSent := true, srcDone := true })) (eSigs f.words 2) id
  rw [h]
  exact ⟨rfl, rfl⟩

/-- Settles O17: an empty operation starts with its sources free, and the entry that SOURCE_FREE finds has not sent its signals. -/
theorem sourceFreeSignals : Obligations.SourceFreeSignals := by
  intro k s
  refine ⟨fun ws c hc h => ⟨s.dev.started k { idx := (s.dev.strm k).next, words := ws } true, ?_, ?_, ⟨_, Dev.mem_started_flights _ _ _ _,
    rfl, rfl, rfl, rfl, rfl⟩, fun id => Dev.started_empty_ctr _ _ _ _⟩, fun f hf => ?_⟩
  · rw [← Dev.startEmpty_of_startable h]
    simp only [List.mem_cons, List.not_mem_nil, or_false] at hc
    rcases hc with rfl | rfl <;> rfl
  · obtain ⟨n, hs⟩ := s.dev.started_strm k { idx := (s.dev.strm k).next, words := ws } true
    rw [hs]
  · have hnot : f.sfSent = false := by
      have := List.find?_some hf
      simp at this
      tauto
    refine ⟨s.dev.sendSf k f, ?_, fun id => Dev.sendSf_ctr hnot k id, fun g hg hi hw => Dev.sendSf_flights hnot hg hi hw⟩
    have he : s.dev.sourceFree k = s.dev.sendSf k f := by simp [Dev.sourceFree, hf]
    exact congrArg (fun w => Host.Outcome.next (s.ends w)) he

/-! ### Retiring (R77, R88, R102) -/

/-- Recomputing a stream's slip changes its slip and LATE alone. -/
theorem Dev.reslip_strm (v : Dev) (k : Nat) : ∃ n m l, (v.reslip k).strm k = { v.strm k with slipNow := n, slipMax := m, lateFlag := l } := by
  unfold Dev.reslip
  extract_lets q n late v1
  split
  · exact ⟨_, _, _, rfl⟩
  · refine ⟨n, max q.slipMax n, late, ?_⟩
    split
    · rw [(Dev.ev_within _ _ _ _ _ _).strm_eq (by decide), Dev.strm_modStrm_same]
    · exact Dev.strm_modStrm_same _ _ _

/-- Of the stream itself retiring an entry writes LAST_MARK, where the entry is a MARK (R88). -/
theorem Dev.retireEffect_strm (v : Dev) (k : Nat) (f : Flight) : (v.retireEffect k f).strm k =
    { v.strm k with lastMark := if eOp f.words = 1 then w32 (fld (wd f.words 2) 31 0) else (v.strm k).lastMark } := by
  unfold Dev.retireEffect
  dsimp only
  split
  · simp
  · split
    · exact (Dev.reqEvent_within _ _ _ _).strm_eq (by decide) k
    · split
      · exact (Dev.reqEvent_within _ _ _ _).strm_eq (by decide) k
      · split
        · exact (Dev.putVslot_within _ _ _ _ _).strm_eq (by decide) k
        · rfl

/-- The effects of an entry as it retires, and the entry out of the stream, before its signals. -/
def Dev.retired (v : Dev) (k : Nat) (f : Flight) : Dev :=
  ((v.retireEffect k f).retireLines k f).modStrm k (fun q => { q with flights := q.flights.drop 1, lastRetired := f.idx, noneRetired := false })
/-- The signals and the event of an entry that retires. -/
def Dev.retireSignals (v : Dev) (k : Nat) (f : Flight) (tag : Nat) : Dev :=
  let w := v.sendSignals (eSigsBy f.words (fun m => m = 1 || (!f.sfSent && m = 2)))
  if eEvt f.words then w.ev (strmDie k) (strmSrc k) 0x010 (strmArg k f.idx) tag else w
/-- The stream finishes with the entry of index COUNT − 1, or with HALT, unless its schedule has been stopped (R102). -/
def Dev.retireFinish (v : Dev) (k : Nat) (last : Prop) [Decidable last] : Dev :=
  if last then v.modStrm k (fun q => { q with finished := true }) else v

theorem Dev.retire_eq {v : Dev} {k : Nat} {f : Flight} (h : v.retirable k = some f) : v.retire k =
    ((((v.retired k f).retireSignals k f (v.schedOf k).tag).retireFinish k
      ((f.idx + 1 = (v.strm k).count ∨ eHalt f.words) ∧ ¬(v.schedOf k).halted)).reslip k).finishSched (strmDie k * 256 + (v.strm k).sched) := by
  unfold Dev.retire
  rw [h]
  rfl

theorem Dev.retired_strm (v : Dev) (k : Nat) (f : Flight) : (v.retired k f).strm k = { v.strm k with
    lastMark := if eOp f.words = 1 then w32 (fld (wd f.words 2) 31 0) else (v.strm k).lastMark,
    flights := (v.strm k).flights.drop 1, lastRetired := f.idx, noneRetired := false } := by
  rw [Dev.retired, Dev.strm_modStrm_same, (Dev.retireLines_within _ _ _).strm_eq (by decide), Dev.retireEffect_strm]

theorem Dev.retireSignals_strm (v : Dev) (k : Nat) (f : Flight) (tag : Nat) : (v.retireSignals k f tag).strm k = v.strm k := by
  unfold Dev.retireSignals
  dsimp only
  split
  · rw [(Dev.ev_within _ _ _ _ _ _).strm_eq (by decide), Dev.sendSignals_strm]
  · exact Dev.sendSignals_strm _ _ _

theorem Dev.retireFinish_strm (v : Dev) (k : Nat) (last : Prop) [Decidable last] :
    (v.retireFinish k last).strm k = { v.strm k with finished := decide last || (v.strm k).finished } := by
  unfold Dev.retireFinish
  split <;> simp_all

/-- The stream once its oldest entry has retired. -/
theorem Dev.retire_strm {v : Dev} {k : Nat} {f : Flight} (h : v.retirable k = some f) : ∃ n m l, (v.retire k).strm k = { v.strm k with
    lastMark := if eOp f.words = 1 then w32 (fld (wd f.words 2) 31 0) else (v.strm k).lastMark,
    flights := (v.strm k).flights.drop 1, lastRetired := f.idx, noneRetired := false,
    finished := decide ((f.idx + 1 = (v.strm k).count ∨ eHalt f.words) ∧ ¬(v.schedOf k).halted) || (v.strm k).finished,
    slipNow := n, slipMax := m, lateFlag := l } := by
  rw [Dev.retire_eq h, (Dev.finishSched_within _ _).strm_eq (by decide)]
  obtain ⟨n, m, l, hs⟩ := Dev.reslip_strm (((v.retired k f).retireSignals k f (v.schedOf k).tag).retireFinish k
    ((f.idx + 1 = (v.strm k).count ∨ eHalt f.words) ∧ ¬(v.schedOf k).halted)) k
  refine ⟨n, m, l, hs.trans ?_⟩
  rw [Dev.retireFinish_strm, Dev.retireSignals_strm, Dev.retired_strm]

/-- The entry that may retire is the oldest in flight. -/
theorem Dev.flights_of_retirable {v : Dev} {k : Nat} {f : Flight} (h : v.retirable k = some f) : ∃ r, (v.strm k).flights = f :: r := by
  unfold Dev.retirable at h
  split at h
  · cases h
  · next g r hs =>
    split at h
    · cases h
      exact ⟨r, hs⟩
    · cases h

/-- Settles O16: everything after the retirement itself leaves in the stream what the statement names. -/
theorem oldestEntryRetires : Obligations.OldestEntryRetires := by
  intro k s
  refine ⟨fun f h => ⟨s.dev.retire k, ?_, ?_⟩, fun h => ?_⟩
  · have he : s.dev.entryRetire k = (s.dev.retire k).nextHead k := by simp [Dev.entryRetire, h]
    exact congrArg (fun w => Host.Outcome.next (s.ends w)) he
  · obtain ⟨n, m, l, hs⟩ := Dev.retire_strm h
    obtain ⟨r, hr⟩ := Dev.flights_of_retirable h
    rw [hs]
    refine ⟨rfl, rfl, by simp [hr], fun ho => by simp [ho], fun hh hl => ?_⟩
    simp [hh, hl]
  · have he : s.dev.entryRetire k = s.dev := by simp [Dev.entryRetire, h]
    change Host.Outcome.next (s.ends (s.dev.entryRetire k)) = _
    rw [he, State.ends_self]

/-! ### Grants (R85, Table 10.1) -/

/-- What the waits of an entry ask of a counter: the sum of the amounts of the wait fields that name it (R85). -/
def waitNeed (k : Nat) (ws : List W64) (id : Nat) : Nat :=
  (if waitCtr k (eWait ws 0).1 = id then (eWait ws 0).2.1 else 0) + (if waitCtr k (eWait ws 1).1 = id then (eWait ws 1).2.1 else 0)

/-- Of the waits of an entry, each counter once, one asks what the wait fields ask together. -/
theorem mem_eWaits {k : Nat} {ws : List W64} {id a : Nat} : (id, a) ∈ eWaits k ws ↔ a = waitNeed k ws id ∧ a ≠ 0 := by
  simp only [eWaits, waitNeed]
  generalize waitCtr k (eWait ws 0).1 = c0
  generalize waitCtr k (eWait ws 1).1 = c1
  generalize (eWait ws 0).2.1 = a0
  generalize (eWait ws 1).2.1 = a1
  grind

/-- No counter stands twice among the waits of an entry. -/
theorem eWaits_nodup (k : Nat) (ws : List W64) : ((eWaits k ws).map Prod.fst).Nodup := by
  simp only [eWaits]
  grind

/-- A counter can give an amount asked of it: nothing is asked, a COUNT holds it, or an EVENT is 1 and 1 is asked (Table 10.1). -/
def Ctr.gives (c : Ctr) (n : Nat) : Prop := n = 0 ∨ (c.kind = 1 ∧ n ≤ c.value) ∨ (c.kind = 2 ∧ c.value = 1 ∧ n = 1)

theorem Ctr.gives_iff_sat {c : Ctr} {n : Nat} (h : n ≠ 0) : c.gives n ↔ c.sat n = true := by
  unfold Ctr.gives Ctr.sat
  split <;> simp_all

/-- A satisfied wait takes what it asks. -/
theorem Ctr.take_value {c : Ctr} {n : Nat} (h : c.sat n = true) : (c.take n).value = c.value - n := by
  unfold Ctr.sat at h
  unfold Ctr.take
  split at h <;> simp_all

/-- Counters that are taken from, each once, lose what is asked of them; every other stays. -/
theorem Dev.forAll_take_ctr (waits : List (Nat × Nat)) (v : Dev) (hn : (waits.map Prod.fst).Nodup) (id : Nat) :
    (v.forAll waits (fun u w => u.modCtr w.1 (fun c => c.take w.2))).ctr id =
      ((waits.find? (fun w => w.1 = id)).map (fun w => (v.ctr id).take w.2)).getD (v.ctr id) := by
  induction waits generalizing v with
  | nil => rfl
  | cons x r ih =>
    obtain ⟨hx, hr⟩ := List.nodup_cons.mp hn
    refine (ih (v.modCtr x.1 (fun c => c.take x.2)) hr).trans ?_
    by_cases h : x.1 = id
    · subst h
      have hnone : r.find? (fun w => w.1 = x.1) = none := by
        simp only [List.find?_eq_none, decide_eq_true_eq]
        exact fun w hw he => hx (he ▸ List.mem_map_of_mem hw)
      simp [hnone]
    · simp [h, Dev.ctr_modCtr_ne _ _ _ (Ne.symm h)]

/-- The counters once every wait of an entry has been taken (R85). -/
theorem Dev.taken_value {v : Dev} {k : Nat} {ws : List W64} (h : (eWaits k ws).all (fun w => (v.ctr w.1).sat w.2) = true) (id : Nat) :
    ((v.forAll (eWaits k ws) (fun u w => u.modCtr w.1 (fun c => c.take w.2))).ctr id).value = (v.ctr id).value - waitNeed k ws id := by
  rw [Dev.forAll_take_ctr _ _ (eWaits_nodup k ws)]
  cases hf : (eWaits k ws).find? (fun w => w.1 = id) with
  | none =>
    have hz : waitNeed k ws id = 0 := by
      by_contra hne
      have := List.find?_eq_none.mp hf _ (mem_eWaits.mpr ⟨rfl, hne⟩)
      simp at this
    simp [hz]
  | some w =>
    obtain ⟨i, a⟩ := w
    obtain rfl : i = id := by simpa using List.find?_some hf
    have hm := List.mem_of_find?_eq_some hf
    obtain ⟨rfl, -⟩ := mem_eWaits.mp hm
    exact Ctr.take_value (List.all_eq_true.mp h _ hm)

/-- Every counter gives what is asked of it exactly when every wait is satisfied. -/
theorem Dev.all_gives_iff (v : Dev) (k : Nat) (ws : List W64) :
    (∀ id, (v.ctr id).gives (waitNeed k ws id)) ↔ (eWaits k ws).all (fun w => (v.ctr w.1).sat w.2) = true := by
  rw [List.all_eq_true]
  constructor
  · rintro h ⟨id, a⟩ hm
    obtain ⟨rfl, hne⟩ := mem_eWaits.mp hm
    exact (Ctr.gives_iff_sat hne).mp (h id)
  · intro h id
    by_cases hz : waitNeed k ws id = 0
    · exact .inl hz
    · exact (Ctr.gives_iff_sat hz).mpr (h _ (mem_eWaits.mpr ⟨rfl, hz⟩))

/-- A head tested before, whose waits still count, as it is considered (R85, R346). -/
theorem Dev.grantOne_of_tested {v : Dev} {k : Nat} {ws : List W64} {e : Fetched} (h : v.tests k = some ws) (he : (v.strm k).headEntry = some e)
    (hw : e.noWait = false) (ht : (v.strm k).tested = true) : v.grantOne (.stream k) =
      if (eWaits k ws).all (fun w => (v.ctr w.1).sat w.2) then
        (v.forAll (eWaits k ws) (fun u w => u.modCtr w.1 (fun c => c.take w.2))).modStrm k
          (fun s => { s with granted := true, acquiring := decide (strmKind k < 3) && eAcq ws })
      else v := by
  have hn : ((v.strm k).headEntry.map (fun e => e.noWait)).getD false = false := by simp [he, hw]
  simp only [Dev.grantOne, h, hn, ht, if_true, Bool.false_eq_true, if_false]

/-- Settles O18: the head's waits, each counter once, are what its two wait fields ask together. -/
theorem waitsSatisfiedTogether : Obligations.WaitsSatisfiedTogether := by
  intro v k ws e ht he hw hd need sat w
  have hg : w = _ := Dev.grantOne_of_tested ht he hw hd
  refine ⟨fun hs => ?_, fun ⟨id, hn⟩ => ?_⟩
  · have hall : (eWaits k ws).all (fun w => (v.ctr w.1).sat w.2) = true := (v.all_gives_iff k ws).mp hs
    rw [hg, if_pos hall, Dev.strm_modStrm_same]
    exact ⟨rfl, Dev.taken_value hall⟩
  · rw [hg, if_neg fun hall => hn ((v.all_gives_iff k ws).mpr hall id)]

/-! ### Signals that arrive (R341, R346, R352, Table 10.1) -/

/-- A signal that takes effect frees those named after it, and changes of no counter anything else (R87). -/
theorem Dev.landed_ctr (v : Dev) (id j : Nat) : ∃ l, (v.landed id).ctr j = { v.ctr j with after := l } := by
  unfold Dev.landed
  generalize v.ctrs.filter (fun e => e.2.after.contains id) = xs
  induction xs generalizing v with
  | nil => exact ⟨_, rfl⟩
  | cons e r ih =>
    obtain ⟨l, h⟩ := ih (v.modCtr e.1 (fun c => { c with after := c.after.erase id }))
    by_cases he : j = e.1
    · subst he
      exact ⟨l, h.trans (by simp)⟩
    · exact ⟨l, h.trans (by rw [Dev.ctr_modCtr_ne _ _ _ he])⟩

/-- The counter after one signal (Table 10.1). -/
def Ctr.signalled (c : Ctr) : Ctr :=
  if c.kind = 1 then (if c.value = max32 then { c with overflow := true } else { c with value := c.value + 1 })
  else if c.kind = 2 then (if c.value = 1 then { c with overflow := true } else { c with value := 1 })
  else { c with misuse := true }

theorem Ctr.signalled_kind (c : Ctr) : c.signalled.kind = c.kind := by
  unfold Ctr.signalled
  split_ifs <;> rfl
theorem Ctr.signalled_transit (c : Ctr) : c.signalled.transit = c.transit := by
  unfold Ctr.signalled
  split_ifs <;> rfl

theorem Dev.setOverflow_ctr (v : Dev) (id : Nat) : (v.setOverflow id).ctr id = { v.ctr id with overflow := true } := by
  unfold Dev.setOverflow
  dsimp only
  split
  · next h => rw [← h]
  · rw [(Dev.ev_within _ _ _ _ _ _).ctr_eq (by decide), (Dev.modSynSt_within _ _ _).ctr_eq (by decide), Dev.ctr_modCtr_same]

theorem Dev.setMisuse_ctr (v : Dev) (id : Nat) : (v.setMisuse id).ctr id = { v.ctr id with misuse := true } := by
  unfold Dev.setMisuse
  dsimp only
  split
  · next h => rw [← h]
  · rw [(Dev.ev_within _ _ _ _ _ _).ctr_eq (by decide), (Dev.modSynSt_within _ _ _).ctr_eq (by decide), Dev.ctr_modCtr_same]

theorem Dev.setOverflow_ctr_ne (v : Dev) {id j : Nat} (h : j ≠ id) : (v.setOverflow id).ctr j = v.ctr j := by
  unfold Dev.setOverflow
  dsimp only
  split
  · rfl
  · rw [(Dev.ev_within _ _ _ _ _ _).ctr_eq (by decide), (Dev.modSynSt_within _ _ _).ctr_eq (by decide), Dev.ctr_modCtr_ne _ _ _ h]

theorem Dev.setMisuse_ctr_ne (v : Dev) {id j : Nat} (h : j ≠ id) : (v.setMisuse id).ctr j = v.ctr j := by
  unfold Dev.setMisuse
  dsimp only
  split
  · rfl
  · rw [(Dev.ev_within _ _ _ _ _ _).ctr_eq (by decide), (Dev.modSynSt_within _ _ _).ctr_eq (by decide), Dev.ctr_modCtr_ne _ _ _ h]

/-- A signal changes its counter as KIND says. -/
theorem Dev.applySignal_ctr (v : Dev) (id : Nat) : (v.applySignal id).ctr id = (v.ctr id).signalled := by
  unfold Dev.applySignal Ctr.signalled
  by_cases h1 : (v.ctr id).kind = 1
  · simp only [h1, if_true]
    split_ifs
    · simp [Dev.setOverflow_ctr, h1]
    · simp [h1]
  · by_cases h2 : (v.ctr id).kind = 2
    · simp only [h2, OfNat.ofNat_ne_one, if_true, if_false]
      split_ifs
      · simp [Dev.setOverflow_ctr, h2]
      · simp [h2]
    · simp only [h1, h2, if_false]
      exact Dev.setMisuse_ctr v id

theorem Dev.applySignal_ctr_ne (v : Dev) {id j : Nat} (h : j ≠ id) : (v.applySignal id).ctr j = v.ctr j := by
  unfold Dev.applySignal
  dsimp only
  split
  · split
    · exact Dev.setOverflow_ctr_ne v h
    · exact Dev.ctr_modCtr_ne _ _ _ h
  · split
    · exact Dev.setOverflow_ctr_ne v h
    · exact Dev.ctr_modCtr_ne _ _ _ h
  · exact Dev.setMisuse_ctr_ne v h

/-- The device once a signal under way to a counter has arrived, before the waiters are considered (R346). -/
def Dev.signalArrived (v : Dev) (id : Nat) : Dev := ((v.modCtr id (fun c => { c with transit := c.transit - 1 })).landed id).applySignal id

theorem Dev.counterSignal_of_arrivable {v : Dev} {id : Nat} (ha : v.arrivable id ≠ 0) (ht : v.pwr.tripped = false) (more : Bool) :
    v.counterSignal id more = if more then v.signalArrived id else (v.signalArrived id).grantPass := if_neg (by simp [ha, ht])

theorem Dev.signalArrived_ctr (v : Dev) (id : Nat) :
    ∃ l, (v.signalArrived id).ctr id = Ctr.signalled { v.ctr id with transit := (v.ctr id).transit - 1, after := l } := by
  obtain ⟨l, h⟩ := Dev.landed_ctr (v.modCtr id (fun c => { c with transit := c.transit - 1 })) id id
  exact ⟨l, by rw [Dev.signalArrived, Dev.applySignal_ctr, h, Dev.ctr_modCtr_same]⟩

theorem Dev.signalArrived_ctr_ne (v : Dev) {id j : Nat} (h : j ≠ id) : ∃ l, (v.signalArrived id).ctr j = { v.ctr j with after := l } := by
  obtain ⟨l, hl⟩ := Dev.landed_ctr (v.modCtr id (fun c => { c with transit := c.transit - 1 })) id j
  exact ⟨l, by rw [Dev.signalArrived, Dev.applySignal_ctr_ne _ h, hl, Dev.ctr_modCtr_ne _ _ _ h]⟩

theorem Dev.transit_of_arrivable {v : Dev} {id : Nat} (h : v.arrivable id ≠ 0) : (v.ctr id).transit ≠ 0 := by
  unfold Dev.arrivable at h
  omega

/-- Settles O33: the signal has left those under way when it changes its counter by KIND. -/
theorem signalArrives : Obligations.SignalArrives := by
  intro id s q
  refine ⟨fun ha ht => ⟨s.dev.signalArrived id, ?_, ?_⟩, fun h => ?_⟩
  · change Host.Outcome.next (s.ends (s.dev.counterSignal id (sameCycle false s.pending))) = _
    rw [Dev.counterSignal_of_arrivable ha ht]
  · obtain ⟨l, hw⟩ := s.dev.signalArrived_ctr id
    have hq : 0 < q.transit := Nat.pos_of_ne_zero (Dev.transit_of_arrivable ha)
    rw [hw]
    refine ⟨?_, ?_, fun hk hv => ?_, fun hk hv => ?_, fun hk hv => ?_, fun hk hv => ?_, fun h1 h2 => ?_, fun j hj => ?_⟩
    · rw [Ctr.signalled_transit]
      exact Nat.sub_add_cancel hq
    · rw [Ctr.signalled_kind]
    · simp [Ctr.signalled, show (s.dev.ctr id).kind = 1 from hk, Nat.ne_of_lt hv, q]
    · simp [Ctr.signalled, show (s.dev.ctr id).kind = 1 from hk, show (s.dev.ctr id).value = max32 from hv]
    · simp [Ctr.signalled, show (s.dev.ctr id).kind = 2 from hk, show (s.dev.ctr id).value ≠ 1 from hv, q]
    · simp [Ctr.signalled, show (s.dev.ctr id).kind = 2 from hk, show (s.dev.ctr id).value = 1 from hv]
    · simp [Ctr.signalled, show (s.dev.ctr id).kind ≠ 1 from h1, show (s.dev.ctr id).kind ≠ 2 from h2, q]
    · obtain ⟨l', h⟩ := s.dev.signalArrived_ctr_ne hj
      rw [h]
  · have he : s.dev.counterSignal id (sameCycle false s.pending) = s.dev := if_pos h
    change Host.Outcome.next (s.ends (s.dev.counterSignal id (sameCycle false s.pending))) = _
    rw [he, State.ends_self]

end Sys2Proof.Machine

/-! Faults and captures (03, 16): what stopping a schedule, beginning a capture and ending one leave in the schedules and in the record, and
from them O19 and O20. -/

namespace Sys2Proof.Machine

/-! ### Stopping a schedule (R105) -/

/-- Of the schedules stopping one marks it halted; what is withdrawn of its streams changes none. -/
theorem Dev.stopSched_scheds (v : Dev) (id : Nat) : (v.stopSched id).scheds = (v.modSched id (fun s => { s with halted := true })).scheds := by
  unfold Dev.stopSched
  dsimp only
  exact ((Dev.Within.forAll (fun w k => Dev.withdrawWaiting_within w k) (Dev.Within.refl _ _)).scheds_eq (by decide)).trans
    ((Dev.Within.forAll (fun w k => Dev.modStrm_within w k _) (Dev.Within.refl _ _)).scheds_eq (by decide))

theorem Dev.stopSched_sched (v : Dev) (id : Nat) : (v.stopSched id).sched id = { v.sched id with halted := true } := by
  rw [Dev.sched_congr (v.stopSched_scheds id), Dev.sched_modSched_same]

theorem Dev.stopSched_sched_ne (v : Dev) {id j : Nat} (h : j ≠ id) : (v.stopSched id).sched j = v.sched j := by
  rw [Dev.sched_congr (v.stopSched_scheds id), Dev.sched_modSched_ne _ _ _ h]

/-! ### Beginning a capture (R559) -/

/-- A capture begun for one schedule stops it with the cause as its status. -/
theorem Dev.beginCapture_sched (v : Dev) (die cause : Nat) (at? : Option (Nat × Nat)) (detail : W64) (id : Nat) :
    (v.beginCapture die cause at? detail [id]).sched id = { v.sched id with status := cause, halted := true } := by
  have begun : v.beginCapture die cause at? detail [id] =
      ((((v.capHeader die cause at? detail [id]).modFlt die (fun r => { r with capturing := true })).modSched id
        (fun s => { s with status := cause })).stopSched id) := rfl
  rw [begun, Dev.stopSched_sched, Dev.sched_modSched_same, (Dev.modFlt_within _ _ _).sched_eq (by decide),
    (Dev.capHeader_within _ _ _ _ _ _).sched_eq (by decide)]

/-- The record while the capture runs is the header taken at its first cycle. -/
theorem Dev.beginCapture_flt (v : Dev) (die cause : Nat) (at? : Option (Nat × Nat)) (detail : W64) (ids : List Nat) :
    (v.beginCapture die cause at? detail ids).flt die = { (v.capHeader die cause at? detail ids).flt die with capturing := true } := by
  unfold Dev.beginCapture
  dsimp only
  rw [(Dev.Within.forAll (fun w id => Dev.stopSched_within w id) (Dev.Within.refl _ _)).flt_eq (by decide),
    (Dev.Within.forAll (fun w id => Dev.modSched_within w id _) (Dev.Within.refl _ _)).flt_eq (by decide), Dev.flt_modFlt_same]

/-- A stream faults while its die neither holds a record nor takes one. -/
theorem Dev.faultStream_captures {v : Dev} {k : Nat} (hc : (v.flt (strmDie k)).capturing = false) (hv : (v.flt (strmDie k)).valid = false)
    (cause idx : Nat) (detail : W64) : v.faultStream k cause idx detail =
      v.beginCapture (strmDie k) cause (some (k, idx)) detail [strmDie k * 256 + (v.strm k).sched] := by
  simp [Dev.faultStream, Dev.dieFault, hc, hv]

/-- Settles O19: the fault of a stalled wait begins a capture, and nothing after its header changes the record. -/
theorem stalledWaitFaults : Obligations.StalledWaitFaults := by
  intro k s
  refine ⟨fun idx h hc hv => ⟨s.dev.faultStream k stWaitStall idx 0#64, ?_, ?_⟩, fun h => ?_⟩
  · have he : s.dev.waitStall k = s.dev.faultStream k stWaitStall idx 0#64 := by simp [Dev.waitStall, h]
    exact congrArg (fun w => Host.Outcome.next (s.ends w)) he
  · rw [Dev.faultStream_captures hc hv, Dev.beginCapture_flt, Dev.beginCapture_sched, Dev.capHeader, Dev.flt_modFlt_same]
    exact ⟨rfl, rfl, rfl, rfl, rfl, rfl, rfl, rfl, rfl⟩
  · have he : s.dev.waitStall k = s.dev := by simp [Dev.waitStall, h]
    change Host.Outcome.next (s.ends (s.dev.waitStall k)) = _
    rw [he, State.ends_self]

/-! ### Ending a capture (R105, R561) -/

/-- A stopped schedule whose run has ended; a saved one keeps its phase, and returns as stopped. -/
def Sched.ended (q : Sched) : Sched :=
  { q with phase := if q.phase = .saved then .saved else .stopped, was := if q.phase = .saved then .stopped else .none,
           late := none, run := none, aborts := [] }

theorem Sched.ended_ended (q : Sched) : q.ended.ended = q.ended := by
  unfold Sched.ended
  split_ifs <;> simp_all

theorem Dev.endStopped_scheds (v : Dev) (id : Nat) : (v.endStopped id).scheds = ((v.clearFlights id).modSched id Sched.ended).scheds := by
  unfold Dev.endStopped
  dsimp only
  split
  · rfl
  · exact (Dev.completeThen_within _ _ _ _ _ _ _ _).scheds_eq (by decide)

theorem Dev.endStopped_sched (v : Dev) (id j : Nat) : (v.endStopped id).sched j = if j = id then (v.sched j).ended else v.sched j := by
  rw [Dev.sched_congr (v.endStopped_scheds id)]
  split
  · next h =>
    subst h
    rw [Dev.sched_modSched_same, (Dev.clearFlights_within _ _).sched_eq (by decide)]
  · next h => rw [Dev.sched_modSched_ne _ _ _ h, (Dev.clearFlights_within _ _).sched_eq (by decide)]

theorem Dev.forAll_endStopped_sched (ids : List Nat) (v : Dev) (j : Nat) :
    (v.forAll ids Dev.endStopped).sched j = if j ∈ ids then (v.sched j).ended else v.sched j := by
  induction ids generalizing v with
  | nil => simp [Dev.forAll]
  | cons a r ih =>
    refine (ih (v.endStopped a)).trans ?_
    rw [Dev.endStopped_sched]
    by_cases ha : j = a <;> by_cases hr : j ∈ r <;> simp [ha, hr, Sched.ended_ended]

/-- Writing the record sets VALID, ends the capture, and keeps the cause and the tick of the header (R561). -/
theorem Dev.writeRecord_flt (v : Dev) (die : Nat) (timed : Bool) : ((v.writeRecord die timed).flt die).valid = true ∧
    ((v.writeRecord die timed).flt die).capturing = false ∧ ((v.writeRecord die timed).flt die).cause = (v.flt die).cause ∧
    ((v.writeRecord die timed).flt die).tick = (v.flt die).tick := by
  simp [Dev.writeRecord]

/-- The record once it is closed: what was written, its schedules' runs ended. -/
theorem Dev.closeRecord_flt (v : Dev) (die : Nat) (timed late : Bool) :
    (v.closeRecord die timed late).flt die = { (v.writeRecord die timed).flt die with late := late, capScheds := [] } := by
  unfold Dev.closeRecord
  dsimp only
  rw [Dev.flt_modFlt_same, (Dev.Within.forAll (fun w id => Dev.endStopped_within w id) (Dev.Within.refl _ _)).flt_eq (by decide),
    (Dev.ev_within _ _ _ _ _ _).flt_eq (by decide), Dev.flt_modFlt_same]

theorem Dev.closeRecord_sched (v : Dev) (die : Nat) (timed late : Bool) (j : Nat) :
    (v.closeRecord die timed late).sched j = if j ∈ (v.flt die).capScheds then (v.sched j).ended else v.sched j := by
  unfold Dev.closeRecord
  dsimp only
  rw [(Dev.modFlt_within _ _ _).sched_eq (by decide), Dev.forAll_endStopped_sched, (Dev.ev_within _ _ _ _ _ _).sched_eq (by decide),
    (Dev.modFlt_within _ _ _).sched_eq (by decide), (Dev.writeRecord_within _ _ _).sched_eq (by decide)]

/-- Settles O20: cutting entries short leaves the record and the schedules as they were, and closing the record does the rest. -/
theorem captureEnds : Obligations.CaptureEnds := by
  intro d timed s hc hd
  generalize hr : s.dev.flt d = r at hc hd
  have hends : s.dev.faultCaptureEnd d timed = s.dev.endCapture d (!s.dev.captureDone r.capScheds) := by
    unfold Dev.faultCaptureEnd
    rw [hr]
    exact if_pos (by simpa [hc] using hd)
  have hcut : Dev.Within [.streams, .dmas, .hostMem, .hif, .out] s.dev
      (if !s.dev.captureDone r.capScheds then s.dev.cutShort (s.dev.flt d).capScheds else s.dev) :=
    Dev.Within.ite (Dev.cutShort_within _ _) (Dev.Within.refl _ _)
  refine ⟨s.dev.endCapture d (!s.dev.captureDone r.capScheds), congrArg (fun w => Host.Outcome.next (s.ends w)) hends, ?_⟩
  unfold Dev.endCapture
  generalize (if !s.dev.captureDone r.capScheds then s.dev.cutShort (s.dev.flt d).capScheds else s.dev) = u at hcut
  have hu : u.flt d = r := (hcut.flt_eq (by decide) d).trans hr
  obtain ⟨hvalid, hcap, hcause, htick⟩ := u.writeRecord_flt d (!s.dev.captureDone r.capScheds)
  rw [Dev.closeRecord_flt]
  refine ⟨hvalid, hcap, hcause.trans (by rw [hu]), htick.trans (by rw [hu]), fun id hm hs => ?_⟩
  rw [Dev.closeRecord_sched, hu, if_pos hm, hcut.sched_eq (by decide)]
  exact ⟨if_neg hs, rfl⟩

end Sys2Proof.Machine

/-! Gathers, scatters, dispatches, merges and acquires (03, 07, 08): the rows of a gather over stack memory, what a merge writes and what an
acquire leaves of the caches, and from them O27 and O28. -/

namespace Sys2Proof.Machine

/-! ### Folds over the device and bytes of a memory -/

/-- What every step of a fold keeps, the fold keeps. -/
theorem Dev.forAll_keeps {α β : Type} (p : Dev → β) {f : Dev → α → Dev} (h : ∀ u x, p (f u x) = p u) (xs : List α) (v : Dev) :
    p (v.forAll xs f) = p v := by
  induction xs generalizing v with
  | nil => rfl
  | cons x r ih => exact (ih (f v x)).trans (h v x)

theorem Dev.forAll_append {α : Type} (v : Dev) (xs ys : List α) (f : Dev → α → Dev) : v.forAll (xs ++ ys) f = (v.forAll xs f).forAll ys f :=
  List.foldl_append

theorem mread_add (m : Mem) (a j n : Nat) : mread m a (j + n) = mread m a j ++ mread m (a + j) n := by
  induction j generalizing a with
  | zero => simp [mread]
  | succ j ih =>
    rw [show j + 1 + n = (j + n) + 1 by omega, mread, ih, mread, show a + 1 + j = a + (j + 1) by omega, List.cons_append]

theorem toBytes_length (n k : Nat) : (toBytes n k).length = k := by
  induction k generalizing n with
  | zero => rfl
  | succ k ih => simp [toBytes, ih]

theorem ofBytes_toBytes (n k : Nat) : ofBytes (toBytes n k) = n % 256 ^ k := by
  induction k generalizing n with
  | zero => simp [toBytes, ofBytes, Nat.mod_one]
  | succ k ih =>
    rw [toBytes, ofBytes, ih, pow_succ', Nat.mod_mul]
    simp [byteOf]

theorem wordsToBytes_length (ws : List W64) : (wordsToBytes ws).length = 8 * ws.length := by
  induction ws with
  | nil => rfl
  | cons w r ih =>
    simp only [wordsToBytes, List.length_append, toBytes_length, ih, List.length_cons]
    omega

/-- Words written as bytes are read back as they were. -/
theorem bytesToWords_wordsToBytes (ws : List W64) : bytesToWords ws.length (wordsToBytes ws) = ws := by
  induction ws with
  | nil => rfl
  | cons w r ih =>
    have h8 : (toBytes w.toNat 8).length = 8 := toBytes_length _ _
    have hw : w64 (ofBytes (toBytes w.toNat 8)) = w := by
      rw [ofBytes_toBytes, Nat.mod_eq_of_lt (show w.toNat < 256 ^ 8 from w.isLt), w64, BitVec.ofNat_toNat, BitVec.setWidth_eq]
    rw [List.length_cons, wordsToBytes, bytesToWords, List.take_left' h8, List.drop_left' h8, ih, hw]

/-! ### Entries that have started -/

theorem Dev.Within.mem_eq {F : List Part} {v w : Dev} (h : Dev.Within F v w) (hp : Part.stackMem ∉ F) : w.hbm.mem = v.hbm.mem :=
  (h.1 .stackMem hp).1
theorem Dev.Within.held_eq {F : List Part} {v w : Dev} (h : Dev.Within F v w) (hp : Part.heldWrites ∉ F) : w.moult.held = v.moult.held :=
  congrArg Prod.fst (h.1 .heldWrites hp)

theorem Dev.core_congr {v w : Dev} (h : w.cores = v.cores) (c : Nat) : w.core c = v.core c := by rw [Dev.core, h, Dev.core]

@[simp] theorem Dev.sendSignals_cores (v : Dev) (ids : List Nat) : (v.sendSignals ids).cores = v.cores := by
  have sent : (v.forAll ids Dev.sendSignal).cores = v.cores := Dev.forAll_keeps Dev.cores (f := Dev.sendSignal) (fun _ _ => rfl) ids v
  unfold Dev.sendSignals
  dsimp only
  split
  · split
    · exact sent
    · exact sent
  · exact sent

/-- Starting an entry leaves every core as it was. -/
@[simp] theorem Dev.started_core (v : Dev) (k : Nat) (f : Flight) (empty : Bool) (c : Nat) : (v.started k f empty).core c = v.core c := by
  refine Dev.core_congr ?_ c
  unfold Dev.started
  dsimp only
  split
  · exact Dev.sendSignals_cores _ _
  · rfl

theorem Dev.started_counts (v : Dev) (k : Nat) (f : Flight) (empty : Bool) :
    ((v.started k f empty).strm k).oob = (v.strm k).oob ∧ ((v.started k f empty).strm k).drop = (v.strm k).drop := by
  obtain ⟨n, h⟩ := v.started_strm k f empty
  rw [h]
  exact ⟨rfl, rfl⟩

/-! ### Gathers and scatters (R271, R272) -/

theorem strmUnit_vx (c : CoreId) : strmUnit (3 * c.val + 1) = c.val := by
  have hk : 3 * c.val + 1 < 144 := by omega
  rw [strmUnit, if_pos hk]
  omega

/-- A gather or scatter runs its rows in ascending order. -/
def Dev.gatRows (v : Dev) (k op : Nat) (g : GatOps) : Dev × Option (Nat × GatErr) :=
  let keep := match v.rgnFind (coreDie (strmUnit k)) g.wbase.toNat g.span with | some r => r.cache | none => false
  if op = 0x17 then v.gatherRows k (strmUnit k) g keep (List.range g.rows)
  else v.scatterRows k (strmUnit k) (v.strm k).next g (List.range g.rows)

/-- A gather or scatter whose window is permitted and whose rows meet no error starts, every source read. -/
theorem Dev.gatStart_completes {v u : Dev} {k op : Nat} {ws : List W64} (h : v.startable k op = some ws)
    (hw : v.windowOk (coreDie (strmUnit k)) (decGat ws) (op = 0x18) = true) (hr : (decGat ws).rows ≠ 0)
    (hrows : v.gatRows k op (decGat ws) = (u, none)) :
    v.gatStart k op = (u.started k { idx := (v.strm k).next, words := ws, srcDone := true, prog := (decGat ws).rows } false).nextHead k := by
  unfold Dev.gatRows at hrows
  unfold Dev.gatStart
  rw [h]
  dsimp only at hrows ⊢
  rw [hw, if_neg (by simp), if_neg hr]
  cases hk : v.rgnFind (coreDie (strmUnit k)) (decGat ws).wbase.toNat (decGat ws).span <;> simp only [hk] at hrows ⊢ <;> rw [hrows]

/-- A fault of the channels' paths is met by the same accesses once corrected errors have been counted (R416). -/
theorem Dev.softErrs_pathAt (v : Dev) (a n b m : Nat) : (v.softErrs a n).pathAt b m = v.pathAt b m := by
  have counted : ∀ (u : Dev) (g : Nat), (u.modChan (u.hbm.chanOf (g * 64)) (fun c => { c with corr := satAdd c.corr 1 65535 })).pathAt b m = u.pathAt b m := by
    intro u g
    unfold Dev.pathAt
    congr 1
    funext x
    have hf : ((u.modChan (u.hbm.chanOf (g * 64)) (fun c => { c with corr := satAdd c.corr 1 65535 })).chan (u.hbm.chanOf x)).failed =
        (u.chan (u.hbm.chanOf x)).failed := by
      by_cases hx : u.hbm.chanOf x = u.hbm.chanOf (g * 64)
      · rw [hx, Dev.chan_modChan_same]
      · rw [Dev.chan_modChan_ne _ _ _ hx]
    exact congrArg (fun z => !u.hbm.usable x 1 || z || u.hbm.stkBad.contains (x / 64)) hf
  unfold Dev.softErrs
  dsimp only
  generalize (if n = 0 then [] else v.hbm.stkSoft.filter _) = gs
  split
  · rfl
  · exact Dev.forAll_keeps (fun u => u.pathAt b m) counted gs _

theorem Dev.softErrs_mem (v : Dev) (a n : Nat) : (v.softErrs a n).hbm.mem = v.hbm.mem := by
  unfold Dev.softErrs
  dsimp only
  generalize (if n = 0 then [] else v.hbm.stkSoft.filter _) = gs
  split
  · rfl
  · exact Dev.forAll_keeps (fun u => u.hbm.mem) (f := fun u g => u.modChan (u.hbm.chanOf (g * 64)) _) (fun _ _ => rfl) gs _

/-- Window bytes in stack memory, read past the L2 with no write held and no path error, are the bytes of memory (R110). -/
theorem Dev.gatherBytes_stack (c fuel : Nat) : ∀ (v : Dev) (a n : Nat), n = 0 ∨ a % 64 + n ≤ 64 * fuel → a + n ≤ stackEnd →
    (∀ b m, a ≤ b → b + m ≤ a + n → v.pathAt b m = none) → v.moult.held = [] → (v.gatherBytes c a n false fuel).1 = (v.stk8 a n, none) := by
  induction fuel with
  | zero =>
    intro v a n hn _ _ _
    obtain rfl : n = 0 := by omega
    rfl
  | succ fuel ih =>
    intro v a n hn he hp hh
    unfold Dev.gatherBytes
    by_cases hz : n = 0
    · simp [hz, Dev.stk8, mread]
    · rw [if_neg hz]
      generalize hm : min n (64 - a % 64) = m
      have hr : v.rdModule (coreDie c) a m c = (.ok (v.stk8 a m), v.softErrs a m) :=
        Dev.rdModule_stack (by omega) (hp a m (by omega) (by omega)) hh _ _
      have hrest := ih (v.softErrs a m) (a + m) (n - m) (by omega) (by omega)
        (fun b j h1 h2 => (v.softErrs_pathAt a m b j).trans (hp b j (by omega) (by omega)))
        (((Dev.softErrs_within v a m).held_eq (by decide)).trans hh)
      have hsplit : v.stk8 a n = v.stk8 a m ++ (v.softErrs a m).stk8 (a + m) (n - m) := by
        rw [Dev.stk8, Dev.stk8, Dev.stk8, Dev.softErrs_mem, ← mread_add, show m + (n - m) = n by omega]
      simp [hr, hrest, hsplit]

theorem Core.spadRead_spadWrite (k : Core) (a : Nat) (bs : List Byte) : (k.spadWrite a bs).spadRead a bs.length = bs := mread_mwrite _ _ _

theorem Core.spadBadIn_of_none {k : Core} (h : k.spadBad = []) (a n : Nat) : k.spadBadIn a n = none := by simp [Core.spadBadIn, h]

/-- A row of a gather whose index lies outside the window (R110). -/
theorem Dev.gatherRow_outside {v : Dev} {k c i : Nat} {g : GatOps} (hb : (v.core c).spadBad = []) (hi : g.wcount ≤ g.index (v.core c) i) :
    v.gatherRows k c g false [i] = ((v.countOob k).modCore c (fun q => q.spadWrite (g.data + i * g.pitch) (List.replicate g.esize 0#8)), none) := by
  simp [Dev.gatherRows, Core.spadBadIn_of_none hb, Nat.not_lt.mpr hi]

/-- A row of a gather whose index lies inside an uncached window in stack memory (R110). -/
theorem Dev.gatherRow_inside {v : Dev} {k c i : Nat} {g : GatOps} (hb : (v.core c).spadBad = []) (hi : g.index (v.core c) i < g.wcount)
    (hh : v.moult.held = []) (he : g.wbase.toNat + g.index (v.core c) i * g.stride + g.esize ≤ stackEnd)
    (hp : ∀ b n, g.wbase.toNat + g.index (v.core c) i * g.stride ≤ b →
      b + n ≤ g.wbase.toNat + g.index (v.core c) i * g.stride + g.esize → v.pathAt b n = none) :
    ∃ u : Dev, v.gatherRows k c g false [i] = (u.modCore c (fun q => q.spadWrite (g.data + i * g.pitch)
      (v.stk8 (g.wbase.toNat + g.index (v.core c) i * g.stride) g.esize)), none) := by
  have hread := Dev.gatherBytes_stack c (g.esize / 64 + 2) v _ g.esize (.inr (by omega)) he hp hh
  refine ⟨(v.gatherBytes c (g.wbase.toNat + g.index (v.core c) i * g.stride) g.esize false (g.esize / 64 + 2)).2, ?_⟩
  simp [Dev.gatherRows, Core.spadBadIn_of_none hb, hi, hread]

/-! ### Dispatch (R273) -/

/-- A dispatch that meets no parity error of its core starts, every source read. -/
theorem Dev.disStart_completes {v : Dev} {k : Nat} {ws : List W64} (h : v.startable k 0x19 = some ws) (hb : (v.core (strmUnit k)).spadBad = []) :
    v.disStart k = ((((v.modCore (strmUnit k) ((decDis ws).put ((decDis ws).plan (v.core (strmUnit k))))).modStrm k (fun s => { s with
      oob := satAdd s.oob ((decDis ws).plan (v.core (strmUnit k))).oob max32,
      drop := satAdd s.drop ((decDis ws).plan (v.core (strmUnit k))).drop max32 })).started k
        { idx := (v.strm k).next, words := ws, srcDone := true, prog := (decDis ws).ntgt * (decDis ws).cap } ((decDis ws).rows = 0)).nextHead k) := by
  unfold Dev.disStart
  rw [h]
  simp [Core.badIn, hb]

/-- Settles O27: starting the entry keeps what its rows have left, and a row reads and writes as the two cases say. -/
theorem gatherScatterDispatchComplete : Obligations.GatherScatterDispatchComplete := by
  intro c s ws k
  have hc : strmUnit k = c.val := strmUnit_vx c
  refine ⟨?gather, ?scatter, ?dispatch, ?row⟩
  case gather =>
    intro u h g hw hr hrows
    have he := Dev.gatStart_completes (u := u) h (by rw [hc]; exact hw) hr (by rw [Dev.gatRows, hc, if_pos rfl]; exact hrows)
    exact ⟨_, congrArg (fun w => Host.Outcome.next (s.ends w)) he, Dev.started_core _ _ _ _ _, (Dev.started_counts _ _ _ _).1,
      _, Dev.mem_started_flights _ _ _ _, rfl, rfl, rfl⟩
  case scatter =>
    intro u h g hw hr hrows
    have he := Dev.gatStart_completes (u := u) h (by rw [hc]; exact hw) hr (by rw [Dev.gatRows, hc, if_neg (by decide)]; exact hrows)
    exact ⟨_, congrArg (fun w => Host.Outcome.next (s.ends w)) he, (Dev.started_within _ _ _ _).mem_eq (by decide), (Dev.started_counts _ _ _ _).1,
      _, Dev.mem_started_flights _ _ _ _, rfl, rfl, rfl⟩
  case dispatch =>
    intro h hb g
    have he := Dev.disStart_completes h (by rw [hc]; exact hb)
    rw [hc] at he
    refine ⟨_, congrArg (fun w => Host.Outcome.next (s.ends w)) he, ?_, ?_, ?_, _, Dev.mem_started_flights _ _ _ _, rfl, rfl, rfl⟩
    · rw [Dev.started_core, Dev.core_congr (Dev.modStrm_cores _ _ _), Dev.core_modCore_same]
    · rw [(Dev.started_counts _ _ _ _).1, Dev.strm_modStrm_same]
      rfl
    · rw [(Dev.started_counts _ _ _ _).2, Dev.strm_modStrm_same]
      rfl
  case row =>
    intro g i hb hh ix u
    refine ⟨fun hi => ?_, fun hi => ?_⟩
    · have hu : u = _ := congrArg Prod.fst (Dev.gatherRow_outside hb hi)
      rw [hu]
      constructor
      · rw [Dev.core_modCore_same]
        simpa using Core.spadRead_spadWrite ((s.dev.countOob k).core c) (g.data + i * g.pitch) (List.replicate g.esize 0#8)
      · rw [Dev.strm_congr (Dev.modCore_strms _ _ _), Dev.countOob, Dev.strm_modStrm_same]
    · intro a he hp
      obtain ⟨u', hu'⟩ := Dev.gatherRow_inside (k := k) hb hi hh he hp
      have hu : u = _ := congrArg Prod.fst hu'
      have hlen : (s.dev.stk8 a g.esize).length = g.esize := mread_length _ _ _
      rw [hu, Dev.core_modCore_same]
      have hread := Core.spadRead_spadWrite (u'.core c) (g.data + i * g.pitch) (s.dev.stk8 a g.esize)
      rw [hlen] at hread
      exact hread

/-! ### Merges (R229, R230) -/

/-- A task that need not be held takes effect, whether or not its channel retrains (R413, R426). -/
theorem Dev.submit_takes_effect {v : Dev} {t : EngTask} (h : v.mustHold t = false) (req : Nat) (owner : Option Owner) :
    ∃ u : Dev, u.hbm.mem = v.hbm.mem ∧ v.submit t req owner = u.applyTask t := by
  unfold Dev.submit
  dsimp only
  rw [if_neg (by simp [h])]
  split
  · refine ⟨_, ?_, rfl⟩
    exact (Dev.tookSlot_within _ _).mem_eq (by decide)
  · exact ⟨v, rfl, rfl⟩

theorem mergeStats_length (ws : List W64) (st : Stats) : (mergeStats ws st).length = 8 := rfl

theorem Dev.recWords_congr {v w : Dev} (h : w.hbm.mem = v.hbm.mem) (a n : Nat) : w.recWords a n = v.recWords a n := by
  rw [Dev.recWords, Dev.stk8, h, Dev.recWords, Dev.stk8]

/-- Words put into stack memory are the record's words. -/
theorem Dev.recWords_stkPut (v : Dev) (a : Nat) (ws : List W64) : (v.stkPut a (wordsToBytes ws)).recWords a ws.length = ws := by
  have hread : (v.stkPut a (wordsToBytes ws)).stk8 a (8 * ws.length) = wordsToBytes ws := by
    rw [← wordsToBytes_length]
    exact mread_mwrite _ _ _
  rw [Dev.recWords, hread, bytesToWords_wordsToBytes]

/-- A merge that takes effect gives the record its old words merged with the report, and touches no other byte (R229). -/
theorem Dev.applyTask_merge (v : Dev) (r : Nat) (st : Stats) : (v.applyTask (.merge r st)).recWords r 8 = mergeStats (v.recWords r 8) st ∧
    ∀ a, (a < r ∨ r + 64 ≤ a) → mget (v.applyTask (.merge r st)).hbm.mem a = mget v.hbm.mem a :=
  ⟨Dev.recWords_stkPut v r (mergeStats (v.recWords r 8) st), fun _ ha => mget_mwrite_outside _ _ _ (by
    rwa [wordsToBytes_length, mergeStats_length])⟩

/-! ### Acquires (R86, R330) -/

theorem tget_filter_absent {α : Type} (d : α) (t : Tab α) {p : Nat → Bool} {k : Nat} (h : p k = false) :
    tget d (t.filter fun e => p e.1) k = d :=
  tget_of_absent d fun e he q => by
    rw [List.mem_filter, q, h] at he
    exact absurd he.2 (by simp)

/-- No line of a range is in the caches once it has been flushed and invalidated (R330). -/
theorem Dev.flushInval_lines (v : Dev) (c a n : Nat) (owner : Option Owner) {line : Nat} (hn : 0 < n) (h1 : a / 64 ≤ line)
    (h2 : line ≤ (a + n - 1) / 64) :
    (((v.flushInval c a n owner).1.core c).l1Line line).here = false ∧ (((v.flushInval c a n owner).1.core c).l2Line line).here = false := by
  have hin : (!inRange a n line) = false := by simp [inRange, h1, h2, Nat.pos_iff_ne_zero.mp hn]
  have hcore : (v.flushInval c a n owner).1.core c = ((v.flushRange c a n owner).1.core c).invalLines a n true := by
    unfold Dev.flushInval
    simp [Core.invalRange, Nat.pos_iff_ne_zero.mp hn]
  rw [hcore]
  constructor
  · simp [Core.l1Line, Core.invalLines, tget_filter_absent _ _ (p := fun x => !inRange a n x) hin, CLine.here]
  · simp [Core.l2Line, Core.invalLines, tget_filter_absent _ _ (p := fun x => !inRange a n x) hin, CLine.here]

/-- The source ranges that the acquire of a head covers. -/
def acquired (k : Nat) (e : Fetched) : List (Nat × Nat) := if strmKind k = 2 then dmaSrcRanges (decDma e.words) else acqRanges k e.words

theorem Dev.acquireDone_eq {v : Dev} {k : Nat} {e : Fetched} (he : (v.strm k).headEntry = some e) (hg : (v.strm k).granted = true)
    (ha : (v.strm k).acquiring = true) (hk : strmKind k ≤ 2) : v.acquireDone k =
      (v.forAll (acquired k e) (fun u r => (u.flushInval (strmUnit k) r.1 r.2 none).1)).endAcquire k (acquired k e) := by
  unfold Dev.acquireDone
  dsimp only
  rw [he]
  exact if_pos (by simp [hg, ha, hk])

/-- Settles O28: the merge is one task that takes effect, and the acquire's last flush leaves no line of its range. -/
theorem mergeAndAcquireComplete : Obligations.MergeAndAcquireComplete := by
  refine ⟨fun d rcd st s ho hp hs hb => ?_, fun k s e he hg ha hk => ?_⟩
  · obtain ⟨u, hmem, hu⟩ := Dev.submit_takes_effect (v := s.dev) (t := .merge rcd st) (by simp [Dev.mustHold, taskDst, hs, hb]) (74 + d) none
    have hm : s.dev.statMerge d rcd st = u.applyTask (.merge rcd st) := by simp [Dev.statMerge, ho, hp, hu]
    obtain ⟨hrec, hframe⟩ := u.applyTask_merge rcd st
    exact ⟨_, congrArg (fun w => Host.Outcome.next (s.ends w)) hm, hrec.trans (by rw [Dev.recWords_congr hmem]),
      fun a h => (hframe a h).trans (by rw [hmem])⟩
  · intro rs
    refine ⟨_, congrArg (fun w => Host.Outcome.next (s.ends w)) (Dev.acquireDone_eq he hg ha hk), ?_, fun r hr hn n h1 h2 => ?_⟩
    · rw [Dev.endAcquire, Dev.strm_modStrm_same]
      rfl
    · obtain ⟨before, hrs⟩ := List.getLast?_eq_some_iff.mp hr
      have hlast : acquired k e = before ++ [r] := hrs
      rw [Dev.endAcquire, Dev.core_congr (Dev.modStrm_cores _ _ _), hlast, Dev.forAll_append]
      exact Dev.flushInval_lines _ (strmUnit k) r.1 r.2 none hn h1 h2

end Sys2Proof.Machine

/-! Work orders (03, 17): rings and completions, what leaves a run as it was, and the orders themselves, and from them O55. -/

namespace Sys2Proof.Machine

/-! ### Rings (R605, R606, R613) -/

theorem Dev.hifD_modRing (v : Dev) (d n : Nat) (g : Ring → Ring) :
    (v.modRing d n g).hifD d = { v.hifD d with rings := tmod {} (v.hifD d).rings n g } := by
  simp [Dev.modRing]

/-- A change of a ring shows at that ring alone. -/
theorem Dev.ring_modRing (v : Dev) (d n : Nat) (g : Ring → Ring) (m : Nat) :
    (v.modRing d n g).ring d m = if m = n then g (v.ring d m) else v.ring d m := by
  rw [Dev.ring, Dev.hifD_modRing]
  split
  · next h =>
    subst h
    exact tget_tmod_same _ _ _ _
  · next h => exact tget_tmod_ne _ _ _ h

/-- An event that waits for its merger changes no ring. -/
theorem Dev.ev_ring (v : Dev) (die src code a b d n : Nat) : (v.ev die src code a b).ring d n = v.ring d n := by
  unfold Dev.ev Dev.post Dev.ring
  by_cases h : d = die
  · subst h
    simp
  · rw [Dev.hifD_modHifD_ne _ _ _ h]

theorem Dev.ev_nextTurn (v : Dev) (die src code a b d : Nat) : ((v.ev die src code a b).hifD d).nextTurn = (v.hifD d).nextTurn := by
  unfold Dev.ev Dev.post
  by_cases h : d = die
  · subst h
    simp
  · rw [Dev.hifD_modHifD_ne _ _ _ h]

/-- Writing a ring's shadow, or being refused it, changes of a ring at most its configuration (R606, R680). -/
theorem Dev.putShadow_ring (v : Dev) (d n m : Nat) : ∃ c, (v.putShadow d n).1.ring d m = { v.ring d m with cfg := c } := by
  unfold Dev.putShadow
  dsimp only
  split
  · rw [Dev.ring_modRing]
    split
    · exact ⟨_, rfl⟩
    · exact ⟨_, rfl⟩
  · exact ⟨_, rfl⟩

theorem Dev.putShadow_nextTurn (v : Dev) (d n : Nat) : ((v.putShadow d n).1.hifD d).nextTurn = (v.hifD d).nextTurn := by
  unfold Dev.putShadow
  dsimp only
  split
  · rw [Dev.hifD_modRing]
  · rfl

/-- A shadow that the host takes holds the device index. -/
theorem Dev.putShadow_ok {v : Dev} {d n : Nat} (h : v.hostBad (offOf (v.ring d n).shadow) 8 = false) :
    v.putShadow d n = (v.hostWrite (offOf (v.ring d n).shadow) (toBytes (v.ring d n).index 8), .ok) := by
  simp [Dev.putShadow, h]

theorem Dev.msi_ring (v : Dev) (d vec m : Nat) : (v.msi d vec).ring d m = v.ring d m := by
  unfold Dev.msi
  split
  · simp [Dev.ring]
  · rfl

theorem Dev.msi_hostMem (v : Dev) (d vec : Nat) : (v.msi d vec).hostMem = v.hostMem := (Dev.msi_within v d vec).1 .hostMem (by decide)

/-- Host offset of the entry at a DONE or EVENT ring's device index (R605). -/
def Ring.entryAt (r : Ring) : Nat := offOf (w64 (r.base.toNat + r.index % 2 ^ r.size * 32))
/-- The bytes of an entry as it stands in its ring, PHASE included (R605). -/
def Ring.entryBytes (r : Ring) (o : Owed) : List Byte :=
  toBytes (o.w0 + phaseOf r.size r.index) 8 ++ toBytes o.w1 8 ++ toBytes o.w2 8 ++ toBytes o.w3 8

theorem Ring.entryBytes_length (r : Ring) (o : Owed) : (r.entryBytes o).length = 32 := by simp [Ring.entryBytes, toBytes_length]

/-- An entry that the host takes, and its shadow too: both are written and the ring moves on by one (R605, R606). -/
theorem Dev.putEntry_ok {v : Dev} {d n : Nat} {r : Ring} (hr : v.ring d n = r) (he : v.hostBad r.entryAt 32 = false)
    (hs : v.hostBad (offOf r.shadow) 8 = false) (o : Owed) : (v.putEntry d n o).2 = .ok ∧
      (v.putEntry d n o).1.hostMem = mwrite (mwrite v.hostMem r.entryAt (r.entryBytes o)) (offOf r.shadow) (toBytes ((r.index + 1) % 2 ^ 32) 8) ∧
      (v.putEntry d n o).1.ring d n = { r with index := (r.index + 1) % 2 ^ 32 } := by
  subst hr
  generalize hv1 : (v.hostWrite (v.ring d n).entryAt ((v.ring d n).entryBytes o)).modRing d n (fun q => { q with index := (q.index + 1) % 2 ^ 32 }) = v1
  have hring : v1.ring d n = { v.ring d n with index := ((v.ring d n).index + 1) % 2 ^ 32 } := by
    rw [← hv1, Dev.ring_modRing, if_pos rfl]
    rfl
  have hshadow := Dev.putShadow_ok (v := v1) (d := d) (n := n) (by rw [hring, ← hv1]; exact hs)
  have hput : v.putEntry d n o = (if (v.ring d n).intEn && (v.ring d n).held = 0 then (v1.putShadow d n).1.msi d (v.ring d n).vec else (v1.putShadow d n).1, .ok) := by
    unfold Dev.putEntry
    rw [if_neg (by rw [← Ring.entryAt, he]; simp)]
    dsimp only
    rw [← Ring.entryAt, ← Ring.entryBytes, hv1, hshadow]
  have hmem : (v1.putShadow d n).1.hostMem = mwrite (mwrite v.hostMem (v.ring d n).entryAt ((v.ring d n).entryBytes o)) (offOf (v.ring d n).shadow)
      (toBytes (((v.ring d n).index + 1) % 2 ^ 32) 8) := by
    rw [hshadow, hring, ← hv1]
    rfl
  have hat : (v1.putShadow d n).1.ring d n = { v.ring d n with index := ((v.ring d n).index + 1) % 2 ^ 32 } := by
    rw [hshadow, ← hring]
    rfl
  rw [hput]
  refine ⟨rfl, ?_, ?_⟩
  · dsimp only
    split
    · rw [Dev.msi_hostMem, hmem]
    · exact hmem
  · dsimp only
    split
    · rw [Dev.msi_ring, hat]
    · exact hat

/-- Writing bytes changes no range beside them. -/
theorem mread_mwrite_outside (m : Mem) (b : Nat) (bs : List Byte) {a n : Nat} (h : a + n ≤ b ∨ b + bs.length ≤ a) :
    mread (mwrite m b bs) a n = mread m a n := by
  induction n generalizing a with
  | zero => rfl
  | succ n ih => rw [mread, mread, mget_mwrite_outside _ _ _ (by omega), ih (by omega)]

/-! ### Completions (R613, R614) -/

/-- The DONE ring once a completion has joined what it is owed. -/
theorem Dev.owe_ring (v : Dev) (d : Nat) (o : OrderRef) (e : Owed) :
    ∃ x, (v.owe d o e).ring d o.done = { v.ring d o.done with outstanding := x, owed := (v.ring d o.done).owed ++ [e] } := by
  unfold Dev.owe
  rw [Dev.ring_modRing, if_pos rfl, Dev.ring_modRing]
  split <;> exact ⟨_, rfl⟩

/-- A DONE ring that is owed one completion, enabled and not full, writes it. -/
theorem Dev.drainDone_one {v : Dev} {d n : Nat} {o : Owed} (ho : (v.ring d n).owed = [o]) (ha : o.after = [])
    (hr : ((v.ring d n).en && (v.ring d n).kind = 1 && decide ((v.ring d n).held < 2 ^ (v.ring d n).size)) = true)
    (hp : (v.putEntry d n o).2 = .ok) : v.drainDone d n = (v.putEntry d n o).1.paid d n o := by
  have hall : (v.ring d n).owedAll = 1 := by simp [Ring.owedAll, ho, ha]
  have hrest : ((v.ring d n).owed.map (fun e => e.after.map (fun a => a.1.done))).flatten = [] := by simp [ho, ha]
  unfold Dev.drainDone
  dsimp only
  rw [hall, hrest]
  change v.drainDoneN d n 1 = _
  unfold Dev.drainDoneN
  dsimp only
  rw [ho]
  dsimp only
  rw [if_pos hr, hp]
  rfl

/-- Paying a completion that no ABORT waits for changes neither host memory nor the index of its ring. -/
theorem Dev.paid_keeps {o : Owed} (ha : o.after = []) (v : Dev) (d n : Nat) :
    (v.paid d n o).hostMem = v.hostMem ∧ ((v.paid d n o).ring d n).index = (v.ring d n).index := by
  have hp : v.paid d n o = v.modRing d n (fun q => { q with owed := q.owed.drop 1, due := q.due - 1 }) := by rw [Dev.paid, ha]; rfl
  rw [hp]
  exact ⟨rfl, by rw [Dev.ring_modRing, if_pos rfl]⟩

/-- A completion for a DONE ring that is owed nothing, where the host takes it: the entry stands in the ring, which moves on by one (R613). -/
theorem Dev.complete_writes {v : Dev} {d : Nat} {o : OrderRef} {r : Ring} (hr : v.ring d o.done = r) (ho : r.owed = []) (hen : r.en = true)
    (hk : r.kind = 1) (hh : r.held < 2 ^ r.size) (he : v.hostBad r.entryAt 32 = false) (hs : v.hostBad (offOf r.shadow) 8 = false)
    (hd : r.entryAt + 32 ≤ offOf r.shadow ∨ offOf r.shadow + 8 ≤ r.entryAt) (status hst w2 w3 : Nat) :
    (v.complete d o status hst w2 w3).hostRead r.entryAt 32 = r.entryBytes (completionOf o status hst w2 w3 []) ∧
      ((v.complete d o status hst w2 w3).ring d o.done).index = (r.index + 1) % 2 ^ 32 := by
  generalize hc : completionOf o status hst w2 w3 [] = e
  have hafter : e.after = [] := by rw [← hc]; rfl
  obtain ⟨x, hring⟩ := v.owe_ring d o e
  rw [hr, ho] at hring
  have hbad : (v.owe d o e).hostErr = v.hostErr := rfl
  obtain ⟨hput, hmem, hidx⟩ := Dev.putEntry_ok hring (he : (v.owe d o e).hostBad _ _ = false) (hs : (v.owe d o e).hostBad _ _ = false) e
  have hdone : v.complete d o status hst w2 w3 = ((v.owe d o e).putEntry d o.done e).1.paid d o.done e := by
    rw [Dev.complete, Dev.completeThen, hc]
    refine Dev.drainDone_one (by rw [hring]; rfl) hafter ?_ hput
    rw [hring]
    have ready : (r.en && r.kind = 1 && decide (r.held < 2 ^ r.size)) = true := by simp [hen, hk, hh]
    exact ready
  obtain ⟨hkeep, hikeep⟩ := Dev.paid_keeps hafter ((v.owe d o e).putEntry d o.done e).1 d o.done
  rw [hdone, hikeep, hidx, Dev.hostRead, hkeep, hmem]
  refine ⟨?_, rfl⟩
  rw [mread_mwrite_outside _ _ _ (by rwa [toBytes_length]), ← r.entryBytes_length e]
  exact mread_mwrite _ _ _

/-! ### The host's side of a completion leaves the cores alone -/

@[simp] theorem Dev.putShadow_cores (v : Dev) (d n : Nat) : (v.putShadow d n).1.cores = v.cores := by
  unfold Dev.putShadow
  dsimp only
  split <;> rfl

@[simp] theorem Dev.msi_cores (v : Dev) (d vec : Nat) : (v.msi d vec).cores = v.cores := by
  unfold Dev.msi
  split <;> rfl

@[simp] theorem Dev.ev_cores (v : Dev) (die src code a b : Nat) : (v.ev die src code a b).cores = v.cores := rfl

@[simp] theorem Dev.putEntry_cores (v : Dev) (d n : Nat) (o : Owed) : (v.putEntry d n o).1.cores = v.cores := by
  unfold Dev.putEntry
  extract_lets r a
  split
  · rfl
  · next bs v1 _ =>
    have written : (v1.putShadow d n).1.cores = v.cores := Dev.putShadow_cores v1 d n
    generalize v1.putShadow d n = p at written ⊢
    obtain ⟨v2, res⟩ := p
    cases res with
    | ok =>
      dsimp only
      split
      · exact (Dev.msi_cores v2 d _).trans written
      · exact written
    | entryBad x => exact written
    | shadowBad x => exact written

theorem Dev.paid_cores (v : Dev) (d n : Nat) (o : Owed) : (v.paid d n o).cores = v.cores :=
  Dev.forAll_keeps Dev.cores (f := fun u (a : OrderRef × Nat) => (u.owe d a.1 (completionOf a.1 0 0 a.2 0 [])).accept d a.1.ring) (fun _ _ => rfl) _ _

theorem Dev.drainDoneN_cores (d n fuel : Nat) (v : Dev) : (v.drainDoneN d n fuel).cores = v.cores := by
  induction fuel generalizing v with
  | zero => rfl
  | succ fuel ih =>
    unfold Dev.drainDoneN
    dsimp only
    split
    · rfl
    · next o r _ =>
      split
      · split
        · rw [ih, Dev.paid_cores, Dev.putEntry_cores]
        · exact Dev.putEntry_cores v d n o
        · rw [Dev.ev_cores, Dev.paid_cores, Dev.putEntry_cores]
      · rfl

/-- Completing an order changes no core. -/
@[simp] theorem Dev.complete_cores (v : Dev) (d : Nat) (o : OrderRef) (status hst w2 w3 : Nat) : (v.complete d o status hst w2 w3).cores = v.cores :=
  ((Dev.forAll_keeps Dev.cores (f := fun u m => u.drainDoneN d m (u.ring d m).owedAll) (fun u m => Dev.drainDoneN_cores d m _ u) _ _).trans
    (Dev.drainDoneN_cores d o.done _ _)).trans rfl

@[simp] theorem Dev.finish_cores (v : Dev) (d : Nat) (o : OrderRef) (status hst w2 w3 : Nat) : (v.finish d o status hst w2 w3).cores = v.cores :=
  v.complete_cores d o status hst w2 w3

/-! ### Taking an order (R610, R611) -/

/-- The device as an order is taken from ring n: the index moves, and with it the turn (R606, R611). -/
def Dev.orderTaken (v : Dev) (d n : Nat) : Dev :=
  let v1 := ((v.modRing d n (fun q => { q with index := (q.index + 1) % 2 ^ 32, busy := true, outstanding := q.outstanding + 1 })).modRing d
    (v.ring d n).doneRing (fun q => { q with due := q.due + 1 })).modHifD d (fun h => { h with nextTurn := n + 1 })
  match (v1.putShadow d n).2 with
  | .shadowBad a => (v1.putShadow d n).1.ev d (74 + d) 0x072 n a
  | .ok => (v1.putShadow d n).1
  | .entryBad _ => (v1.putShadow d n).1

/-- An order is taken only in its ring's turn and when its OP is asked for. -/
theorem Dev.takeOrder_some {v u : Dev} {d n : Nat} {ok : Nat → Bool} {t : Taken} (h : v.takeOrder d n ok = some (t, u)) :
    v.turn d = some n ∧ t.ws = bytesToWords 8 (v.hostRead (v.ring d n).orderAt 64) ∧ ok (fld (wd t.ws 0) 7 0) = true ∧
      t.o = { ring := n, index := (v.ring d n).index, tag := fld (wd t.ws 0) 63 32, op := fld (wd t.ws 0) 7 0, done := (v.ring d n).doneRing } ∧
      u = v.orderTaken d n := by
  unfold Dev.takeOrder at h
  dsimp only at h
  split at h
  · next hc =>
    simp only [Bool.and_eq_true, decide_eq_true_eq] at hc
    obtain ⟨⟨⟨hturn, hok⟩, _⟩, _⟩ := hc
    cases h
    exact ⟨hturn, rfl, hok, rfl, rfl⟩
  · cases h

theorem Dev.orderTaken_effect (v : Dev) (d n : Nat) : ((v.orderTaken d n).ring d n).index = ((v.ring d n).index + 1) % 2 ^ 32 ∧
    ((v.orderTaken d n).hifD d).nextTurn = n + 1 ∧ (v.orderTaken d n).cores = v.cores := by
  unfold Dev.orderTaken
  extract_lets v1
  have hring : (v1.ring d n).index = ((v.ring d n).index + 1) % 2 ^ 32 := by
    have hmod : v1.ring d n = (((v.modRing d n (fun q => { q with index := (q.index + 1) % 2 ^ 32, busy := true, outstanding := q.outstanding + 1 })).modRing d
        (v.ring d n).doneRing (fun q => { q with due := q.due + 1 })).ring d n) := by simp [v1, Dev.ring]
    rw [hmod, Dev.ring_modRing, Dev.ring_modRing, if_pos rfl]
    split <;> rfl
  have hturn : (v1.hifD d).nextTurn = n + 1 := by simp [v1]
  have hcores : (v1.putShadow d n).1.cores = v.cores := Dev.putShadow_cores v1 d n
  obtain ⟨c, hc⟩ := v1.putShadow_ring d n n
  have hput : ((v1.putShadow d n).1.ring d n).index = ((v.ring d n).index + 1) % 2 ^ 32 := by rw [hc]; exact hring
  have hnext : ((v1.putShadow d n).1.hifD d).nextTurn = n + 1 := (v1.putShadow_nextTurn d n).trans hturn
  split
  · rw [Dev.ev_ring, Dev.ev_nextTurn, Dev.ev_cores]
    exact ⟨hput, hnext, hcores⟩
  · exact ⟨hput, hnext, hcores⟩
  · exact ⟨hput, hnext, hcores⟩

/-- A command that takes orders of one OP acts on the one it takes. -/
theorem Dev.order_of_taken {v u : Dev} {d n op : Nat} {t : Taken} (h : v.takeOrder d n (fun x => x = op) = some (t, u)) (act : Dev → Taken → Dev) :
    v.order d n op act = act u t := by
  rw [Dev.order, h]

/-! ### What keeps a run (R98, R102) -/

/-- Of a schedule at most whether it is halted, its status and its late fault differ. -/
def Sched.sameRun (a b : Sched) : Prop := ∃ h c l, b = { a with halted := h, status := c, late := l }
/-- A stream stands at the same entry, and has finished or not as before. -/
def Strm.sameRun (a b : Strm) : Prop := b.next = a.next ∧ b.finished = a.finished
/-- Every run stands as it did: entries may have been checked, granted or withdrawn and schedules stopped, but none has started or ended. -/
def Dev.SameRuns (v w : Dev) : Prop := (∀ k, (v.strm k).sameRun (w.strm k)) ∧ ∀ id, (v.sched id).sameRun (w.sched id)

theorem Sched.sameRun_refl (a : Sched) : a.sameRun a := ⟨_, _, _, rfl⟩
theorem Dev.SameRuns.refl (v : Dev) : v.SameRuns v := ⟨fun _ => ⟨rfl, rfl⟩, fun _ => Sched.sameRun_refl _⟩
theorem Dev.SameRuns.trans {u v w : Dev} (h : u.SameRuns v) (g : v.SameRuns w) : u.SameRuns w := by
  refine ⟨fun k => ⟨(g.1 k).1.trans (h.1 k).1, (g.1 k).2.trans (h.1 k).2⟩, fun id => ?_⟩
  obtain ⟨_, _, _, hv⟩ := h.2 id
  obtain ⟨hh, c, l, hw⟩ := g.2 id
  exact ⟨hh, c, l, by rw [hw, hv]⟩

/-- What changes no stream and no schedule keeps every run. -/
theorem Dev.Within.sameRuns {F : List Part} {v w : Dev} (h : Dev.Within F v w) (hs : Part.streams ∉ F) (hd : Part.schedules ∉ F) : v.SameRuns w :=
  ⟨fun k => by rw [h.strm_eq hs]; exact ⟨rfl, rfl⟩, fun id => by rw [h.sched_eq hd]; exact Sched.sameRun_refl _⟩

theorem Dev.SameRuns.forAll {α : Type} {f : Dev → α → Dev} (h : ∀ (u : Dev) (x : α), u.SameRuns (f u x)) (xs : List α) (v : Dev) : v.SameRuns (v.forAll xs f) := by
  induction xs generalizing v with
  | nil => exact Dev.SameRuns.refl v
  | cons x r ih => exact (h v x).trans (ih (f v x))

theorem Dev.modStrm_sameRuns (v : Dev) (k : Nat) (g : Strm → Strm) (h : ∀ q : Strm, q.sameRun (g q)) : v.SameRuns (v.modStrm k g) := by
  refine ⟨fun j => ?_, fun _ => Sched.sameRun_refl _⟩
  by_cases hj : j = k
  · subst hj
    rw [Dev.strm_modStrm_same]
    exact h _
  · rw [Dev.strm_modStrm_ne _ _ _ hj]
    exact ⟨rfl, rfl⟩

theorem Dev.modSched_sameRuns (v : Dev) (id : Nat) (g : Sched → Sched) (h : ∀ q : Sched, q.sameRun (g q)) : v.SameRuns (v.modSched id g) := by
  refine ⟨fun _ => ⟨rfl, rfl⟩, fun j => ?_⟩
  by_cases hj : j = id
  · subst hj
    rw [Dev.sched_modSched_same]
    exact h _
  · rw [Dev.sched_modSched_ne _ _ _ hj]
    exact Sched.sameRun_refl _

theorem Dev.modFlight_sameRuns (v : Dev) (k idx : Nat) (g : Flight → Flight) : v.SameRuns (v.modFlight k idx g) :=
  Dev.modStrm_sameRuns v k _ (by exact fun _ => ⟨rfl, rfl⟩)

theorem Dev.modDmaCh_sameRuns (v : Dev) (c n : Nat) (g : DmaChan → DmaChan) : v.SameRuns (v.modDmaCh c n g) :=
  (Dev.modDmaCh_within v c n g).sameRuns (by decide) (by decide)

theorem Dev.dmaEnd_sameRuns (v : Dev) (c n status : Nat) : v.SameRuns (v.dmaEnd c n status) := by
  unfold Dev.dmaEnd
  extract_lets ch done v1 v2
  have ended : v.SameRuns v2 := by
    unfold v2
    split
    · exact (Dev.modDmaCh_sameRuns _ _ _ _).trans (Dev.modFlight_sameRuns _ _ _ _)
    · exact Dev.modDmaCh_sameRuns _ _ _ _
  split
  · exact ended.trans ((Dev.complete_within _ _ _ _ _ _ _).sameRuns (by decide) (by decide))
  · exact ended

theorem Dev.dmaTake_sameRuns (c n fuel : Nat) (v : Dev) : v.SameRuns (v.dmaTake c n fuel) := by
  induction fuel generalizing v with
  | zero => exact Dev.SameRuns.refl v
  | succ fuel ih =>
    unfold Dev.dmaTake
    dsimp only
    split
    · exact ((Dev.modDmaCh_sameRuns _ _ _ _).trans (Dev.dmaEnd_sameRuns _ _ _ _)).trans (ih _)
    · exact Dev.modDmaCh_sameRuns _ _ _ _

theorem Dev.dmaDrain_sameRuns (v : Dev) (c n : Nat) : v.SameRuns (v.dmaDrain c n) := by
  unfold Dev.dmaDrain Dev.dmaAdvance
  split
  · split
    · exact Dev.modDmaCh_sameRuns _ _ _ _
    · exact Dev.dmaTake_sameRuns _ _ _ _
  · exact Dev.modDmaCh_sameRuns _ _ _ _

/-- Withdrawing an entry ends its operation; its stream stands where it stood (R560). -/
theorem Dev.withdrawOne_sameRuns (v : Dev) (k : Nat) (f : Flight) : v.SameRuns (v.withdrawOne k f) := by
  unfold Dev.withdrawOne
  extract_lets prog v1
  have hv1 : v.SameRuns v1 := Dev.modStrm_sameRuns v k _ (by exact fun _ => ⟨rfl, rfl⟩)
  split
  · exact (hv1.trans ((Dev.versionAbort_within _ _ _).sameRuns (by decide) (by decide))).trans (Dev.modStrm_sameRuns _ _ _ (by exact fun _ => ⟨rfl, rfl⟩))
  · split
    · exact ((hv1.trans ((Dev.dmaForget_within _ _ _).sameRuns (by decide) (by decide))).trans (Dev.modDmaCh_sameRuns _ _ _ _)).trans
        (Dev.dmaDrain_sameRuns _ _ _)
    · exact hv1.trans (Dev.modDmaCh_sameRuns _ _ _ _)
  · exact hv1
  · exact hv1
  · exact hv1

theorem Dev.withdrawWaiting_sameRuns (v : Dev) (k : Nat) : v.SameRuns (v.withdrawWaiting k) :=
  Dev.SameRuns.forAll (fun u f => by
    split
    · exact Dev.withdrawOne_sameRuns u k f
    · exact Dev.SameRuns.refl u) _ _

theorem Dev.stopSched_sameRuns (v : Dev) (id : Nat) : v.SameRuns (v.stopSched id) :=
  ((Dev.modSched_sameRuns v id _ (by exact fun _ => ⟨_, _, _, rfl⟩)).trans
    (Dev.SameRuns.forAll (fun u k => Dev.modStrm_sameRuns u k _ (by exact fun _ => ⟨rfl, rfl⟩)) _ _)).trans
    (Dev.SameRuns.forAll Dev.withdrawWaiting_sameRuns _ _)

theorem Dev.beginCapture_sameRuns (v : Dev) (die cause : Nat) (at? : Option (Nat × Nat)) (detail : W64) (ids : List Nat) :
    v.SameRuns (v.beginCapture die cause at? detail ids) :=
  ((((Dev.capHeader_within v die cause at? detail ids).sameRuns (by decide) (by decide)).trans
    ((Dev.modFlt_within _ _ _).sameRuns (by decide) (by decide))).trans
    (Dev.SameRuns.forAll (fun u id => Dev.modSched_sameRuns u id _ (by exact fun _ => ⟨_, _, _, rfl⟩)) _ _)).trans
    (Dev.SameRuns.forAll Dev.stopSched_sameRuns _ _)

/-- A fault stops schedules, and starts and ends no run (R105). -/
theorem Dev.dieFault_sameRuns (v : Dev) (die cause : Nat) (at? : Option (Nat × Nat)) (detail : W64) (ids : List Nat) :
    v.SameRuns (v.dieFault die cause at? detail ids) := by
  unfold Dev.dieFault
  extract_lets r v1 live v2 v3
  split
  · have h1 : v.SameRuns v1 := (Dev.modFlt_within _ _ _).sameRuns (by decide) (by decide)
    have h2 : v1.SameRuns v2 := Dev.SameRuns.forAll (fun u id =>
      (Dev.modSched_sameRuns u id _ (by exact fun _ => ⟨_, _, _, rfl⟩)).trans (Dev.stopSched_sameRuns _ id)) _ _
    have h3 : v2.SameRuns v3 := by
      unfold v3
      split
      · exact Dev.SameRuns.refl v2
      · exact (Dev.modFlt_within _ _ _).sameRuns (by decide) (by decide)
    exact ((h1.trans h2).trans h3).trans ((Dev.ev_within _ _ _ _ _ _).sameRuns (by decide) (by decide))
  · exact Dev.beginCapture_sameRuns _ _ _ _ _ _

theorem Dev.checkHead_sameRuns (v : Dev) (k : Nat) : v.SameRuns (v.checkHead k) := by
  unfold Dev.checkHead
  dsimp only
  split
  · exact Dev.SameRuns.refl v
  · split
    · split
      · exact ((Dev.bufParity_within _ _ _).sameRuns (by decide) (by decide)).trans (Dev.dieFault_sameRuns _ _ _ _ _ _)
      · split
        · exact Dev.dieFault_sameRuns _ _ _ _ _ _
        · split
          · exact Dev.dieFault_sameRuns _ _ _ _ _ _
          · exact Dev.modStrm_sameRuns _ _ _ (by exact fun _ => ⟨rfl, rfl⟩)
    · exact Dev.SameRuns.refl v

/-- Considering a waiter grants at most its head (R346). -/
theorem Dev.grantOne_sameRuns (v : Dev) (x : Waiter) : v.SameRuns (v.grantOne x) := by
  cases x with
  | stream k =>
    rw [Dev.grantOne]
    split
    · exact Dev.SameRuns.refl v
    · extract_lets waits v1
      have tested : v.SameRuns v1 := by
        unfold v1
        split
        · exact Dev.SameRuns.refl v
        · exact ((Dev.markMisused_within _ _).sameRuns (by decide) (by decide)).trans (Dev.modStrm_sameRuns _ _ _ (by exact fun _ => ⟨rfl, rfl⟩))
      split
      · exact (tested.trans (Dev.SameRuns.forAll (fun u w => (Dev.modCtr_within _ _ _).sameRuns (by decide) (by decide)) _ _)).trans
          (Dev.modStrm_sameRuns _ _ _ (by exact fun _ => ⟨rfl, rfl⟩))
      · exact tested
  | ctx c x =>
    unfold Dev.grantOne
    dsimp only
    split
    · split
      · exact ((Dev.modCtr_within _ _ _).sameRuns (by decide) (by decide)).trans ((Dev.modCtx_within _ _ _ _).sameRuns (by decide) (by decide))
      · exact Dev.SameRuns.refl v
    all_goals exact Dev.SameRuns.refl v

theorem Dev.grantPass_sameRuns (v : Dev) : v.SameRuns v.grantPass :=
  (Dev.SameRuns.forAll Dev.grantOne_sameRuns _ _).trans (Dev.SameRuns.forAll Dev.grantOne_sameRuns _ _)

theorem Dev.reslip_sameRuns (v : Dev) (k : Nat) : v.SameRuns (v.reslip k) := by
  unfold Dev.reslip
  extract_lets q n late v1
  split
  · exact Dev.SameRuns.refl v
  · have slipped : v.SameRuns v1 := Dev.modStrm_sameRuns v k _ (by exact fun _ => ⟨rfl, rfl⟩)
    split
    · exact slipped.trans ((Dev.ev_within _ _ _ _ _ _).sameRuns (by decide) (by decide))
    · exact slipped

/-! ### Each stream of a list once -/

section
variable {α : Type} {key : α → Nat} {f : Dev → α → Dev}

/-- Steps that each change one stream leave every other stream. -/
theorem Dev.forAll_strm_ne (hne : ∀ (u : Dev) (x : α) (j : Nat), j ≠ key x → (f u x).strm j = u.strm j) {k : Nat} (xs : List α) (v : Dev)
    (h : k ∉ xs.map key) : (v.forAll xs f).strm k = v.strm k := by
  induction xs generalizing v with
  | nil => rfl
  | cons a r ih =>
    simp only [List.map_cons, List.mem_cons, not_or] at h
    exact (ih (f v a) h.2).trans (hne v a k h.1)

/-- Steps that each change a stream of their own: what one does to it stands at the end. -/
theorem Dev.forAll_strm_once {R : α → Strm → Strm → Prop} (hne : ∀ (u : Dev) (x : α) (j : Nat), j ≠ key x → (f u x).strm j = u.strm j)
    (hat : ∀ (u : Dev) (x : α), R x (u.strm (key x)) ((f u x).strm (key x))) (xs : List α) (v : Dev) (hn : (xs.map key).Nodup) :
    ∀ x ∈ xs, R x (v.strm (key x)) ((v.forAll xs f).strm (key x)) := by
  induction xs generalizing v with
  | nil => simp
  | cons a r ih =>
    rw [List.map_cons, List.nodup_cons] at hn
    intro x hx
    rcases List.mem_cons.mp hx with rfl | hr
    · have later : (v.forAll (x :: r) f).strm (key x) = (f v x).strm (key x) := Dev.forAll_strm_ne hne r (f v x) hn.1
      rw [later]
      exact hat v x
    · have apart : key x ≠ key a := fun h => hn.1 (h ▸ List.mem_map_of_mem hr)
      have step := ih (f v a) hn.2 x hr
      rwa [hne v a _ apart] at step

end

/-! ### NOP, and orders that are refused -/

/-- An order completed as it is accepted changes no schedule and no stream. -/
theorem Dev.taken_finishSid {v u w : Dev} {d n : Nat} {ok : Nat → Bool} {t : Taken} {F : List Part} (h : v.takeOrder d n ok = some (t, u))
    (hw : Dev.Within F u w) (hs : Part.schedules ∉ F) (hk : Part.streams ∉ F) (status hst : Nat) :
    (w.finishSid d t status hst).scheds = v.scheds ∧ (w.finishSid d t status hst).strms = v.strms :=
  ⟨((Dev.finishSid_within w d t status hst).scheds_eq (by decide)).trans ((hw.scheds_eq hs).trans ((Dev.takeOrder_within h).scheds_eq (by decide))),
    ((Dev.finishSid_within w d t status hst).strms_eq (by decide)).trans ((hw.strms_eq hk).trans ((Dev.takeOrder_within h).strms_eq (by decide)))⟩

theorem Dev.workNop_of_taken {v u : Dev} {d n : Nat} {t : Taken} (h : v.takeOrder d n (fun x => !orderOps.contains x) = some (t, u)) :
    v.workNop d n = u.finish d t.o 0 (if t.o.op = 0 then 0 else 1) 0 0 := by
  rw [Dev.workNop, h]

/-- A ring that has its order completed and accepted is free for the next. -/
theorem Dev.finish_busy (v : Dev) (d : Nat) (o : OrderRef) (status hst w2 w3 : Nat) : ((v.finish d o status hst w2 w3).ring d o.ring).busy = false := by
  rw [Dev.finish, Dev.accept, Dev.ring_modRing, if_pos rfl]

theorem fld_lt (w : W64) (hi lo : Nat) : fld w hi lo < 2 ^ (hi + 1 - lo) := Nat.mod_lt _ (by positivity)

/-- The completion of a NOP, and of a reserved OP, as it stands in the DONE ring (Tables 17.6, 17.7). -/
theorem nop_entryBytes (r : Ring) {o : OrderRef} (hop : o.op < 256) (htag : o.tag < 2 ^ 32) (hring : o.ring < 8192) :
    r.entryBytes (completionOf o 0 (if o.op = 0 then 0 else 1) 0 0 []) =
      toBytes (phaseOf r.size r.index + o.op * 256 + (if o.op = 0 then 0 else 2 ^ 24) + o.tag * 2 ^ 32) 8 ++
        toBytes (o.ring + o.index % 2 ^ 32 * 2 ^ 32) 8 ++ toBytes 0 8 ++ toBytes 0 8 := by
  have hhst : (if o.op = 0 then 0 else 1) % 16 * 2 ^ 24 = if o.op = 0 then 0 else 2 ^ 24 := by split <;> rfl
  have hw0 : (completionOf o 0 (if o.op = 0 then 0 else 1) 0 0 []).w0 + phaseOf r.size r.index =
      phaseOf r.size r.index + o.op * 256 + (if o.op = 0 then 0 else 2 ^ 24) + o.tag * 2 ^ 32 := by
    rw [completionOf, hhst, Nat.mod_eq_of_lt hop, Nat.mod_eq_of_lt htag]
    ring
  have hw1 : (completionOf o 0 (if o.op = 0 then 0 else 1) 0 0 []).w1 = o.ring + o.index % 2 ^ 32 * 2 ^ 32 := by
    rw [completionOf, Nat.mod_eq_of_lt hring]
  rw [Ring.entryBytes, hw0, hw1]
  rfl

/-- A NOP, or a reserved OP, where its DONE ring has nothing owed and takes the completion: the entry is written and the ring moves on. -/
theorem Dev.finish_nop_writes {v : Dev} {d : Nat} {o : OrderRef} {r : Ring} (hr : v.ring d o.done = r) (hop : o.op < 256) (htag : o.tag < 2 ^ 32)
    (hring : o.ring < 8192) (ho : r.owed = []) (hen : r.en = true) (hk : r.kind = 1) (hh : r.held < 2 ^ r.size)
    (he : v.hostBad r.entryAt 32 = false) (hs : v.hostBad (offOf r.shadow) 8 = false)
    (hd : r.entryAt + 32 ≤ offOf r.shadow ∨ offOf r.shadow + 8 ≤ r.entryAt) :
    (v.finish d o 0 (if o.op = 0 then 0 else 1) 0 0).hostRead r.entryAt 32 =
        toBytes (phaseOf r.size r.index + o.op * 256 + (if o.op = 0 then 0 else 2 ^ 24) + o.tag * 2 ^ 32) 8 ++
          toBytes (o.ring + o.index % 2 ^ 32 * 2 ^ 32) 8 ++ toBytes 0 8 ++ toBytes 0 8 ∧
      ((v.finish d o 0 (if o.op = 0 then 0 else 1) 0 0).ring d o.done).index = (r.index + 1) % 2 ^ 32 := by
  obtain ⟨hwrite, hindex⟩ := Dev.complete_writes hr ho hen hk hh he hs hd 0 (if o.op = 0 then 0 else 1) 0 0
  refine ⟨Eq.trans hwrite (nop_entryBytes r hop htag hring), ?_⟩
  rw [Dev.finish, Dev.accept, Dev.ring_modRing, ← hindex]
  split <;> rfl

/-! ### LOAD (R91 to R97) -/

section
variable {v u : Dev} {d n : Nat} {t : Taken}

/-- A LOAD of a number in use is refused with host status 2. -/
theorem Dev.loadOrder_in_use (hb : v.hbm.busy = false) (h : v.takeOrder d n (fun x => x = 1) = some (t, u)) (hp : (u.sched (t.sid d)).phase ≠ .none) :
    v.loadOrder d n = u.finishSid d t 0 2 := by
  rw [Dev.loadOrder, hb]
  simp only [Bool.false_eq_true, if_false, Dev.order_of_taken h]
  exact if_pos hp

/-- A LOAD whose image and descriptors read, and pass every check on the header, is decided by the checks on its descriptors (R678). -/
theorem Dev.loadOrder_checked (hb : v.hbm.busy = false) (h : v.takeOrder d n (fun x => x = 1) = some (t, u)) {bs : List Byte} {ds : List StrmDesc}
    {w1 w2 : Dev} (hp : (u.sched (t.sid d)).phase = .none) (hr : u.imageRead d (wd t.ws 2) 64 = (.ok bs, w1))
    (h1 : fld (wd (bytesToWords 8 bs) 0) 7 0 = 1) (h2 : 1 ≤ fld (wd (bytesToWords 8 bs) 0) 15 8) (h3 : fld (wd (bytesToWords 8 bs) 0) 15 8 ≤ 77)
    (h4 : w1.descOutside d ((wd t.ws 2).toNat + 64) (fld (wd (bytesToWords 8 bs) 0) 15 8) = false)
    (h5 : w1.descRead d ((wd t.ws 2).toNat + 64) (fld (wd (bytesToWords 8 bs) 0) 15 8) = (.ok ds, w2)) :
    v.loadOrder d n = ((w2.loadBad d ((wd (bytesToWords 8 bs) 1).setWidth 48) ds).map (fun c => w2.finishSid d t c 0)).getD
      ((w2.claim (t.sid d) (wd (bytesToWords 8 bs) 0) (wd (bytesToWords 8 bs) 1) ds).finishSid d t 0 0) := by
  rw [Dev.loadOrder, hb]
  simp only [Bool.false_eq_true, if_false, Dev.order_of_taken h]
  simp only [hp, hr, h1, h4, h5, not_true_eq_false, ne_eq, if_false, Bool.false_eq_true]
  rw [if_neg (by omega), if_neg (by omega)]
  cases w2.loadBad d ((wd (bytesToWords 8 bs) 1).setWidth 48) ds <;> rfl

end

/-- The schedule a LOAD has claimed. -/
theorem Dev.claim_sched (v : Dev) (id : Nat) (w0 w1 : W64) (ds : List StrmDesc) : (v.claim id w0 w1 ds).sched id =
    { phase := .loaded, tag := fld w0 63 32, context := fld w0 19 16, coreMask := w1.setWidth 48, streams := ds.map StrmDesc.strm, first := true } := by
  unfold Dev.claim
  dsimp only
  rw [(Dev.Within.forAll (fun u x => Dev.claimStrm_within u id x) (Dev.Within.refl _ _)).sched_eq (by decide),
    (Dev.coolFor_within _ _ _).sched_eq (by decide),
    Dev.sched_congr (Dev.forAll_keeps Dev.scheds (fun u c => Dev.modCore_scheds u c _) _ _), Dev.sched_modSched_same]

theorem Dev.claimStrm_strm (v : Dev) (id : Nat) (x : StrmDesc) : ((v.claimStrm id x).strm x.strm).loaded = true ∧
    ((v.claimStrm id x).strm x.strm).sched = id % 256 ∧ ((v.claimStrm id x).strm x.strm).base = x.base ∧
    ((v.claimStrm id x).strm x.strm).count = x.count := by
  unfold Dev.claimStrm
  extract_lets v1
  obtain ⟨b, m, hfill⟩ := v1.refill_strm x.strm
  rw [hfill, Dev.strm_modStrm_same]
  exact ⟨rfl, rfl, rfl, rfl⟩

theorem Dev.claimStrm_strm_ne (v : Dev) (id : Nat) (x : StrmDesc) (j : Nat) (h : j ≠ x.strm) : (v.claimStrm id x).strm j = v.strm j :=
  (Dev.refill_strm_ne _ h).trans (Dev.strm_modStrm_ne _ _ _ h)

/-- Every stream of a claimed schedule names it, and has its descriptor's base and count. -/
theorem Dev.claim_strm (v : Dev) (id : Nat) (w0 w1 : W64) {ds : List StrmDesc} (hn : (ds.map StrmDesc.strm).Nodup) :
    ∀ x ∈ ds, ((v.claim id w0 w1 ds).strm x.strm).loaded = true ∧ ((v.claim id w0 w1 ds).strm x.strm).sched = id % 256 ∧
      ((v.claim id w0 w1 ds).strm x.strm).base = x.base ∧ ((v.claim id w0 w1 ds).strm x.strm).count = x.count :=
  Dev.forAll_strm_once (key := StrmDesc.strm) (f := fun u x => u.claimStrm id x)
    (R := fun x _ q => q.loaded = true ∧ q.sched = id % 256 ∧ q.base = x.base ∧ q.count = x.count)
    (fun u x j h => u.claimStrm_strm_ne id x j h) (fun u x => u.claimStrm_strm id x) ds _ hn

/-- Descriptors that pass the checks name each stream once (R94). -/
theorem Dev.nodup_of_loadBad {v : Dev} {d : Nat} {mask : Mask48} {ds : List StrmDesc} (h : v.loadBad d mask ds = none) : (ds.map StrmDesc.strm).Nodup := by
  by_contra hn
  unfold Dev.loadBad at h
  cases hf : ds.findSome? (v.descBad d mask) <;> simp [hf, hn] at h

/-! ### START and RESUME (R98 to R103, R569) -/

theorem Dev.rewind_strm (v : Dev) (keep : Bool) (k first : Nat) : ((v.rewind keep k first).strm k).next = first ∧
    ((v.rewind keep k first).strm k).finished = decide ((v.strm k).count ≤ first) := by
  unfold Dev.rewind
  extract_lets v1
  have hv1 : (v1.strm k).next = first ∧ (v1.strm k).finished = decide ((v.strm k).count ≤ first) := by
    rw [Dev.strm_modStrm_same]
    exact ⟨rfl, rfl⟩
  split
  · exact hv1
  · obtain ⟨b, m, hfill⟩ := v1.refill_strm k
    rw [hfill]
    exact hv1

theorem Dev.rewind_strm_ne (v : Dev) (keep : Bool) (k first : Nat) {j : Nat} (h : j ≠ k) : (v.rewind keep k first).strm j = v.strm j := by
  unfold Dev.rewind
  extract_lets v1
  have hv1 : v1.strm j = v.strm j := Dev.strm_modStrm_ne _ _ _ h
  split
  · exact hv1
  · rw [Dev.refill_strm_ne _ h, hv1]

/-- The schedule as its run begins. -/
theorem Dev.beginRun_sched (v : Dev) (d id base : Nat) (o : OrderRef) (keep : Bool) (firsts : List Nat) : (v.beginRun d id base o keep firsts).sched id =
    { v.sched id with phase := .running, base := base, relTop := 0, first := false, halted := false, status := 0, run := some o } := by
  unfold Dev.beginRun
  dsimp only
  have rewinds : ∀ (ps : List (Nat × Nat)) (u : Dev), (u.forAll ps (fun x p => x.rewind keep p.1 p.2)).scheds = u.scheds :=
    Dev.forAll_keeps Dev.scheds (fun u p => (Dev.rewind_within u keep p.1 p.2).scheds_eq (by decide))
  rw [(Dev.accept_within _ _ _).sched_eq (by decide), Dev.sched_congr (rewinds _ _), Dev.sched_modSched_same]

/-- The first parts of a zip are a part of the first list, where the second may be the shorter. -/
theorem map_fst_zip_sublist {α β : Type} (ks : List α) (ms : List β) : ((ks.zip ms).map Prod.fst).Sublist ks := by
  induction ks generalizing ms with
  | nil => exact List.Sublist.refl []
  | cons k r ih => cases ms with
    | nil => exact List.nil_sublist _
    | cons m rest => exact (ih rest).cons_cons k

/-- Each stream of a run that begins stands at the first entry it was given, and has finished where no entry is left (R102). -/
theorem Dev.beginRun_strm (v : Dev) (d id base : Nat) (o : OrderRef) (keep : Bool) (firsts : List Nat) (hn : (v.sched id).streams.Nodup) :
    ∀ p ∈ (v.sched id).streams.zip firsts, ((v.beginRun d id base o keep firsts).strm p.1).next = p.2 ∧
      ((v.beginRun d id base o keep firsts).strm p.1).finished = decide ((v.strm p.1).count ≤ p.2) := by
  have hkeys : (((v.sched id).streams.zip firsts).map Prod.fst).Nodup := hn.sublist (map_fst_zip_sublist _ _)
  exact Dev.forAll_strm_once (R := fun p q r => r.next = p.2 ∧ r.finished = decide (q.count ≤ p.2))
    (fun u p j h => u.rewind_strm_ne keep p.1 p.2 h) (fun u p => u.rewind_strm keep p.1 p.2) _ _ hkeys

theorem Dev.endRun_scheds (v : Dev) (id status : Nat) : (v.endRun id status).scheds = (v.modSched id (fun q => { q with run := none })).scheds := by
  unfold Dev.endRun
  dsimp only
  split
  · rfl
  · exact (Dev.complete_within _ _ _ _ _ _ _).scheds_eq (by decide)

theorem Dev.finishSched_base (v : Dev) (id : Nat) : ((v.finishSched id).sched id).base = (v.sched id).base := by
  unfold Dev.finishSched
  dsimp only
  split
  · rw [Dev.sched_congr (Dev.endRun_scheds _ _ _), Dev.sched_modSched_same, Dev.sched_modSched_same]
  · rfl

theorem Dev.finishSched_strm (v : Dev) (id k : Nat) : (v.finishSched id).strm k = v.strm k := by
  unfold Dev.finishSched
  dsimp only
  split
  · rw [(Dev.endRun_within _ _ _).strm_eq (by decide), (Dev.modSched_within _ _ _).strm_eq (by decide)]
  · rfl

/-- A schedule with a stream that has not finished does not finish. -/
theorem Dev.finishSched_of_unfinished {v : Dev} {id k : Nat} (hk : k ∈ (v.sched id).streams) (hf : (v.strm k).finished = false) : v.finishSched id = v := by
  refine if_neg fun h => ?_
  have all := List.all_eq_true.mp h.2.2 k hk
  rw [hf] at all
  cases all

/-- The heads before a schedule with nothing to run finishes. -/
def Dev.headsChecked (v : Dev) (id : Nat) : Dev :=
  ((v.forAll (v.sched id).streams Dev.checkHead).grantPass).forAll (v.sched id).streams Dev.reslip

theorem Dev.firstHeads_eq (v : Dev) (id : Nat) : v.firstHeads id = (v.headsChecked id).finishSched id := rfl

theorem Dev.headsChecked_sameRuns (v : Dev) (id : Nat) : v.SameRuns (v.headsChecked id) :=
  ((Dev.SameRuns.forAll Dev.checkHead_sameRuns _ _).trans (Dev.grantPass_sameRuns _)).trans (Dev.SameRuns.forAll Dev.reslip_sameRuns _ _)

/-- What a START or RESUME leaves: the run has begun, from its base, each stream at the entry it was given; it goes on where one has an entry
left (R98, R102, R569). -/
theorem Dev.run_begins (v : Dev) (d id base : Nat) (o : OrderRef) (keep : Bool) (firsts : List Nat) :
    let w := (v.beginRun d id base o keep firsts).firstHeads id
    (w.sched id).base = base ∧
    ((v.sched id).streams.Nodup → (∃ p ∈ (v.sched id).streams.zip firsts, p.2 < (v.strm p.1).count) →
      (w.sched id).phase = .running ∧ (w.sched id).run = some o) ∧
    ((v.sched id).streams.Nodup → ∀ p ∈ (v.sched id).streams.zip firsts, (w.strm p.1).next = p.2) := by
  generalize hb : v.beginRun d id base o keep firsts = b
  have hsched := v.beginRun_sched d id base o keep firsts
  rw [hb] at hsched
  obtain ⟨hstrm, hruns⟩ := b.headsChecked_sameRuns id
  obtain ⟨x, y, z, hkeep⟩ := hruns id
  rw [hsched] at hkeep
  intro w
  have hw : w = (b.headsChecked id).finishSched id := b.firstHeads_eq id
  refine ⟨?_, fun hn ⟨p, hp, hlt⟩ => ?_, fun hn p hp => ?_⟩
  · rw [hw, Dev.finishSched_base, hkeep]
  · obtain ⟨_, hfin⟩ := v.beginRun_strm d id base o keep firsts hn p hp
    rw [hb] at hfin
    have unfinished : ((b.headsChecked id).strm p.1).finished = false := by
      rw [(hstrm p.1).2, hfin, decide_eq_false_iff_not]
      omega
    have mem : p.1 ∈ ((b.headsChecked id).sched id).streams := by
      rw [hkeep]
      exact (List.of_mem_zip hp).1
    rw [hw, Dev.finishSched_of_unfinished mem unfinished, hkeep]
    exact ⟨rfl, rfl⟩
  · obtain ⟨hnext, _⟩ := v.beginRun_strm d id base o keep firsts hn p hp
    rw [hb] at hnext
    rw [hw, Dev.finishSched_strm, (hstrm p.1).1, hnext]

theorem Dev.startOrder_of_taken {v u : Dev} {d n : Nat} {t : Taken} (h : v.takeOrder d n (fun x => x = 2) = some (t, u))
    (hs : u.startBad t (t.sid d) = none) : v.startOrder d n =
      ((u.freshUnits (t.sid d)).beginRun d (t.sid d) (u.baseOf (wd t.ws 2) (wd t.ws 3)) t.o (u.sched (t.sid d)).first
        ((u.sched (t.sid d)).streams.map (fun _ => 0))).firstHeads (t.sid d) := by
  simp only [Dev.startOrder, Dev.order_of_taken h, hs]

theorem Dev.startOrder_refused {v u : Dev} {d n c : Nat} {t : Taken} (h : v.takeOrder d n (fun x => x = 2) = some (t, u))
    (hs : u.startBad t (t.sid d) = some c) : v.startOrder d n = u.finishSid d t c 0 := by
  simp only [Dev.startOrder, Dev.order_of_taken h, hs]

section
variable {v u : Dev} {d n : Nat} {t : Taken}

theorem Dev.resumeOrder_of_taken (h : v.takeOrder d n (fun x => x = 3) = some (t, u)) (hs : u.startBad t (t.sid d) = none)
    (ht : ¬(fld (wd t.ws 4) 61 48 ≠ 0 ∨ u.hostBad (offOf (wd t.ws 4)) (8 * (u.sched (t.sid d)).streams.length) = true))
    (hv : ¬∃ p ∈ (u.sched (t.sid d)).streams.zip (u.resumeTable (t.sid d) (wd t.ws 4)), (u.strm p.1).count < p.2) :
    v.resumeOrder d n = (u.beginRun d (t.sid d) (u.baseOf (wd t.ws 2) (wd t.ws 3)) t.o false (u.resumeTable (t.sid d) (wd t.ws 4))).firstHeads (t.sid d) := by
  simp only [Dev.resumeOrder, Dev.order_of_taken h, hs]
  rw [if_neg (by simpa using ht), if_neg (by simpa using hv)]

/-- A RESUME that meets one of its refusals completes with a status, and does nothing else. -/
theorem Dev.resumeOrder_refused (h : v.takeOrder d n (fun x => x = 3) = some (t, u))
    (hr : u.startBad t (t.sid d) ≠ none ∨
      (fld (wd t.ws 4) 61 48 ≠ 0 ∨ u.hostBad (offOf (wd t.ws 4)) (8 * (u.sched (t.sid d)).streams.length) = true) ∨
      ∃ p ∈ (u.sched (t.sid d)).streams.zip (u.resumeTable (t.sid d) (wd t.ws 4)), (u.strm p.1).count < p.2) :
    ∃ status hst, v.resumeOrder d n = u.finishSid d t status hst := by
  simp only [Dev.resumeOrder, Dev.order_of_taken h]
  cases hs : u.startBad t (t.sid d) with
  | some c => exact ⟨c, 0, rfl⟩
  | none =>
    dsimp only
    split
    · exact ⟨0, 5, rfl⟩
    · next ht =>
      split
      · exact ⟨4, 0, rfl⟩
      · next hv =>
        rcases hr with hr | hr | hr
        · exact absurd hs hr
        · exact absurd (by simpa using hr) ht
        · exact absurd (by simpa using hr) hv

/-! ### ABORT (R105, R615) -/

/-- A fault of one schedule that is not halted yet stops it with the cause as its status. -/
theorem Dev.dieFault_sched (v : Dev) (die cause : Nat) (at? : Option (Nat × Nat)) (detail : W64) {id : Nat} (hh : (v.sched id).halted = false) :
    ∃ l, (v.dieFault die cause at? detail [id]).sched id = { v.sched id with status := cause, halted := true, late := l } := by
  unfold Dev.dieFault
  extract_lets r v1 live v2 v3
  split
  · have hlive : live = [id] := by simp [live, hh]
    have h1 : v1.sched id = v.sched id := (Dev.modFlt_within _ _ _).sched_eq (by decide) id
    have h2 : ∃ l, v2.sched id = { v.sched id with status := cause, halted := true, late := l } := by
      refine ⟨some { order := (v1.flt die).overflow, cause := cause, strm := at?, detail := detail }, ?_⟩
      have stopped : v2 = (v1.modSched id (fun s => { s with
          status := cause, late := some { order := (v1.flt die).overflow, cause := cause, strm := at?, detail := detail } })).stopSched id := by
        unfold v2
        rw [hlive]
        rfl
      rw [stopped, Dev.stopSched_sched, Dev.sched_modSched_same, h1]
    have h3 : v3.sched id = v2.sched id := by
      unfold v3
      split
      · rfl
      · exact (Dev.modFlt_within _ _ _).sched_eq (by decide) id
    rw [(Dev.ev_within _ _ _ _ _ _).sched_eq (by decide), h3]
    exact h2
  · exact ⟨(v.sched id).late, v.beginCapture_sched die cause at? detail id⟩

/-- ABORT of a running schedule: it is stopped, and the order waits for its run. -/
theorem Dev.abortOrder_running (h : v.takeOrder d n (fun x => x = 4) = some (t, u)) (hp : (u.sched (t.sid d)).phase = .running) :
    let q := u.sched (t.sid d)
    let r := (v.abortOrder d n).sched (t.sid d)
    r.halted = true ∧ r.aborts = q.aborts ++ [t.o] ∧ r.run = q.run ∧ (q.halted = false → r.status = 0x0F) := by
  simp only [Dev.abortOrder, Dev.order_of_taken h]
  rw [if_neg (not_not.mpr hp)]
  generalize hv1 : u.modSched (t.sid d) (fun s => { s with aborts := s.aborts ++ [t.o] }) = v1
  have h1 : v1.sched (t.sid d) = { u.sched (t.sid d) with aborts := (u.sched (t.sid d)).aborts ++ [t.o] } := by rw [← hv1, Dev.sched_modSched_same]
  cases hh : (u.sched (t.sid d)).halted with
  | true =>
    rw [if_pos rfl, h1]
    exact ⟨hh, rfl, rfl, fun hf => absurd hf (by decide)⟩
  | false =>
    obtain ⟨l, hl⟩ := v1.dieFault_sched d 0x0F none 0#64 (id := t.sid d) (by rw [h1]; exact hh)
    rw [if_neg (by decide), hl, h1]
    exact ⟨rfl, rfl, rfl, fun _ => rfl⟩

theorem Dev.abortOrder_refused (h : v.takeOrder d n (fun x => x = 4) = some (t, u)) (hp : (u.sched (t.sid d)).phase ≠ .running) :
    v.abortOrder d n = u.finishSid d t 0 3 := by
  simp only [Dev.abortOrder, Dev.order_of_taken h]
  exact if_pos hp

/-! ### UNLOAD (R97, R613) -/

end

/-- Give up one stream, where it is the schedule's. -/
def Dev.dropStrm (id : Nat) (v : Dev) (k : Nat) : Dev :=
  if (v.strm k).loaded && decide (strmDie k * 256 + (v.strm k).sched = id) then
    v.modStrm k (fun s => { s with loaded := false, lateFlag := false, slipNow := 0, buf := [], flights := [], granted := false, acquiring := false, checked := false })
  else v

theorem Dev.dropStrms_eq (v : Dev) (id : Nat) : v.dropStrms id = v.forAll (v.sched id).streams (Dev.dropStrm id) := rfl

/-- Giving up a stream unloads it where the schedule has it; no other stream changes, and none changes its schedule number. -/
theorem Dev.dropStrm_strm (v : Dev) (id k j : Nat) : ((v.dropStrm id k).strm j).sched = (v.strm j).sched ∧
    (((v.strm j).loaded = false ∨ j = k ∧ strmDie k * 256 + (v.strm k).sched = id) → ((v.dropStrm id k).strm j).loaded = false) := by
  unfold Dev.dropStrm
  by_cases hj : j = k
  · subst hj
    split
    · rw [Dev.strm_modStrm_same]
      exact ⟨rfl, fun _ => rfl⟩
    · next hc =>
      refine ⟨rfl, fun h => ?_⟩
      rcases h with h | ⟨_, h⟩
      · exact h
      · simpa [h] using hc
  · split
    · rw [Dev.strm_modStrm_ne _ _ _ hj]
      exact ⟨rfl, fun h => h.resolve_right (fun g => hj g.1)⟩
    · exact ⟨rfl, fun h => h.resolve_right (fun g => hj g.1)⟩

/-- A stream of the list that the schedule has, or one not loaded, is not loaded once the list is given up. -/
theorem Dev.dropStrms_strm (id : Nat) (ks : List Nat) (v : Dev) (j : Nat)
    (h : (v.strm j).loaded = false ∨ j ∈ ks ∧ strmDie j * 256 + (v.strm j).sched = id) : ((v.forAll ks (Dev.dropStrm id)).strm j).loaded = false := by
  induction ks generalizing v with
  | nil => exact h.resolve_right (fun g => List.not_mem_nil g.1)
  | cons k r ih =>
    obtain ⟨hsched, hloaded⟩ := v.dropStrm_strm id k j
    refine ih (v.dropStrm id k) ?_
    rcases h with h | ⟨hm, h⟩
    · exact .inl (hloaded (.inl h))
    · rcases List.mem_cons.mp hm with rfl | hr
      · exact .inl (hloaded (.inr ⟨rfl, h⟩))
      · exact .inr ⟨hr, by rw [hsched, h]⟩

/-- A number that is forgotten is free. -/
theorem Dev.forget_sched (v : Dev) (id : Nat) : (v.forget id).sched id = {} := by
  unfold Dev.forget
  dsimp only
  rw [(Dev.modCtxSwD_within _ _ _).sched_eq (by decide), Dev.sched_modSched_same]

theorem Dev.forget_strm (v : Dev) (id k : Nat) : (v.forget id).strm k = (v.dropStrms id).strm k := by
  unfold Dev.forget
  dsimp only
  rw [(Dev.modCtxSwD_within _ _ _).strm_eq (by decide), (Dev.modSched_within _ _ _).strm_eq (by decide)]

section
variable {v u : Dev} {d n : Nat} {t : Taken}

theorem Dev.unloadOrder_of_taken (h : v.takeOrder d n (fun x => x = 5) = some (t, u)) (h0 : (u.sched (t.sid d)).phase ≠ .none)
    (h1 : (u.sched (t.sid d)).phase ≠ .running) : v.unloadOrder d n =
      ((u.endRun (t.sid d) 0x0F).forget (t.sid d)).finish d t.o 0 0 (schedW2 (u.sched (t.sid d)) (t.sid d)) 0 := by
  simp only [Dev.unloadOrder, Dev.order_of_taken h]
  rw [if_neg h0, if_neg h1]

theorem Dev.unloadOrder_refused (h : v.takeOrder d n (fun x => x = 5) = some (t, u))
    (hp : (u.sched (t.sid d)).phase = .none ∨ (u.sched (t.sid d)).phase = .running) : ∃ status, v.unloadOrder d n = u.finishSid d t status 0 := by
  simp only [Dev.unloadOrder, Dev.order_of_taken h]
  split
  · exact ⟨_, rfl⟩
  · next h0 => exact ⟨_, if_pos (hp.resolve_left h0)⟩

/-- UNLOAD of a schedule that does not run frees its number and its streams. -/
theorem Dev.unloadOrder_frees (h : v.takeOrder d n (fun x => x = 5) = some (t, u)) (h0 : (u.sched (t.sid d)).phase ≠ .none)
    (h1 : (u.sched (t.sid d)).phase ≠ .running) : (v.unloadOrder d n).sched (t.sid d) = {} ∧
      ∀ k ∈ (u.sched (t.sid d)).streams, strmDie k * 256 + (u.strm k).sched = t.sid d → ((v.unloadOrder d n).strm k).loaded = false := by
  rw [Dev.unloadOrder_of_taken h h0 h1, (Dev.finish_within _ _ _ _ _ _ _).sched_eq (by decide)]
  refine ⟨Dev.forget_sched _ _, fun k hk hid => ?_⟩
  have hstreams : ((u.endRun (t.sid d) 0x0F).sched (t.sid d)).streams = (u.sched (t.sid d)).streams := by
    rw [Dev.sched_congr (Dev.endRun_scheds _ _ _), Dev.sched_modSched_same]
  rw [(Dev.finish_within _ _ _ _ _ _ _).strm_eq (by decide), Dev.forget_strm, Dev.dropStrms_eq, hstreams]
  exact Dev.dropStrms_strm _ _ _ _ (.inr ⟨hk, by rw [(Dev.endRun_within _ _ _).strm_eq (by decide), hid]⟩)

end

/-! ### COPY (R370, R371, R378, R389) -/

theorem Dev.dmaCh_congr {v w : Dev} (h : w.cores = v.cores) (c n : Nat) : w.dmaCh c n = v.dmaCh c n := by rw [Dev.dmaCh, Dev.core_congr h, Dev.dmaCh]

@[simp] theorem Dev.dmaCh_modDmaCh_same (v : Dev) (c n : Nat) (g : DmaChan → DmaChan) : (v.modDmaCh c n g).dmaCh c n = g (v.dmaCh c n) := by
  simp [Dev.modDmaCh, Dev.dmaCh]

theorem Dev.dmaStopped_modDmaCh (v : Dev) (c n : Nat) (g : DmaChan → DmaChan) : ((v.modDmaCh c n g).core c).dma.stopped = (v.core c).dma.stopped := by
  simp [Dev.modDmaCh]

/-- Ending a descriptor leaves its status and its bytes in the channel. -/
theorem Dev.dmaEnd_dmaCh (v : Dev) (c n status : Nat) :
    (v.dmaEnd c n status).dmaCh c n = { v.dmaCh c n with lastStatus := status, bytes := (v.dmaCh c n).doneBytes } := by
  unfold Dev.dmaEnd
  extract_lets ch done v1 v2
  have h1 : v1.dmaCh c n = { v.dmaCh c n with lastStatus := status, bytes := (v.dmaCh c n).doneBytes } := Dev.dmaCh_modDmaCh_same _ _ _ _
  have h2 : v2.cores = v1.cores := by
    unfold v2
    split <;> rfl
  split
  · rw [Dev.dmaCh_congr (Dev.complete_cores _ _ _ _ _ _ _), Dev.dmaCh_congr h2, h1]
  · rw [Dev.dmaCh_congr h2, h1]

/-- Taking a descriptor goes on to the next where it moves no byte (R371, R389). -/
theorem Dev.dmaTake_succ (v : Dev) (c n fuel : Nat) : v.dmaTake c n (fuel + 1) =
    if (v.dmaCh c n).advance.empty then ((v.modDmaCh c n DmaChan.advance).dmaEnd c n 1).dmaTake c n fuel else v.modDmaCh c n DmaChan.advance := by
  rw [Dev.dmaTake]
  simp only [Dev.dmaCh_modDmaCh_same]

/-- A channel takes the only descriptor it has queued. -/
theorem DmaChan.advance_one {ch : DmaChan} {x : DmaDesc} (h : ch.queue = [x]) : ch.advance =
    { lastStatus := ch.lastStatus, bytes := ch.bytes, page := ch.page, phase := if (decDma x.words).seald then .seal0 else .moving, cur := x, queue := [] } := by
  rw [DmaChan.advance, h]

theorem DmaChan.advance_none {ch : DmaChan} (h : ch.queue = []) : ch.advance = { lastStatus := ch.lastStatus, bytes := ch.bytes, page := ch.page } := by
  rw [DmaChan.advance, h]

/-- The descriptor taken moves no byte just where LEN * ROWS is 0. -/
theorem DmaChan.advance_one_empty {ch : DmaChan} {x : DmaDesc} (h : ch.queue = [x]) : ch.advance.empty = decide ((decDma x.words).total = 0) := by
  rw [DmaChan.advance_one h, DmaChan.empty, DmaOps.total]
  cases (decDma x.words).seald <;> rfl

/-- A channel that waits for no seal word issues no seal read. -/
theorem Dev.dmaSealGo_of_not_due {v : Dev} {c n : Nat} (h0 : (v.dmaCh c n).phase ≠ .seal0) (h1 : (v.dmaCh c n).phase ≠ .seal1) : v.dmaSealGo c n = v := by
  simp [Dev.dmaSealGo, h0, h1]

/-- A seal read that is permitted and stays in the module changes of its channel the page and that it is asked. -/
theorem Dev.dmaSealGo_own {v : Dev} {c n : Nat} (ho : v.otherModule (decDma (v.dmaCh c n).cur.words).sealAddr = false)
    (hp : v.permits (coreDie c) (decDma (v.dmaCh c n).cur.words).sealAddr.toNat 8 false false = true) :
    ∃ p a, (v.dmaSealGo c n).dmaCh c n = { v.dmaCh c n with page := p, sealAsked := a } := by
  unfold Dev.dmaSealGo
  extract_lets ch a die due away v1 refused
  have hpermit : v.permits die a.toNat 8 false false = true := hp
  have haway : away = false := ho
  split
  · exact ⟨_, _, rfl⟩
  · rw [if_neg (by rw [hpermit]; decide), if_neg (by rw [haway]; decide)]
    exact ⟨_, true, Dev.dmaCh_modDmaCh_same _ _ _ _⟩

section
variable {v : Dev} {c n : Nat}

/-- A descriptor for a channel at work waits in its queue. -/
theorem Dev.dmaJoin_queued (h : (v.dmaCh c n).phase ≠ .idle) (x : DmaDesc) :
    (v.dmaJoin c n x).dmaCh c n = { v.dmaCh c n with queue := (v.dmaCh c n).queue ++ [x] } := by
  unfold Dev.dmaJoin
  dsimp only
  rw [if_neg (by rw [Dev.dmaCh_modDmaCh_same]; exact h), Dev.dmaCh_modDmaCh_same]

variable (hi : (v.dmaCh c n).phase = .idle) (hq : (v.dmaCh c n).queue = []) (hs : (v.core c).dma.stopped = false) (hk : v.issueOk = true)
include hi hq hs hk

/-- A free channel takes the descriptor that joins it. -/
theorem Dev.dmaJoin_free (x : DmaDesc) : v.dmaJoin c n x = ((v.modDmaCh c n (fun ch => { ch with queue := ch.queue ++ [x] })).dmaTake c n 2).dmaSealGo c n := by
  unfold Dev.dmaJoin
  dsimp only
  generalize hj : v.modDmaCh c n (fun ch => { ch with queue := ch.queue ++ [x] }) = j
  have hch : j.dmaCh c n = { v.dmaCh c n with queue := [x] } := by rw [← hj, Dev.dmaCh_modDmaCh_same, hq]; rfl
  have hstop : (j.core c).dma.stopped = false := by rw [← hj, Dev.dmaStopped_modDmaCh, hs]
  have hissue : j.issueOk = true := by rw [← hj]; exact hk
  rw [if_pos (by rw [hch]; exact hi), Dev.dmaAdvance, hstop, hissue, hch]
  rfl

/-- A descriptor that moves no byte completes on a free channel with status ZERO (R389). -/
theorem Dev.dmaJoin_zero {x : DmaDesc} (ht : (decDma x.words).total = 0) : ((v.dmaJoin c n x).dmaCh c n).lastStatus = 1 ∧
    ((v.dmaJoin c n x).dmaCh c n).queue = [] ∧ ((v.dmaJoin c n x).dmaCh c n).phase = .idle := by
  rw [Dev.dmaJoin_free hi hq hs hk]
  generalize hj : v.modDmaCh c n (fun ch => { ch with queue := ch.queue ++ [x] }) = j
  have hqueue : (j.dmaCh c n).queue = [x] := by rw [← hj, Dev.dmaCh_modDmaCh_same, hq]; rfl
  generalize he : (j.modDmaCh c n DmaChan.advance).dmaEnd c n 1 = e
  have hend : (e.dmaCh c n).lastStatus = 1 ∧ (e.dmaCh c n).queue = [] := by
    rw [← he, Dev.dmaEnd_dmaCh, Dev.dmaCh_modDmaCh_same, DmaChan.advance_one hqueue]
    exact ⟨rfl, rfl⟩
  obtain ⟨hstatus, hnone⟩ := hend
  have hadv := DmaChan.advance_none hnone
  have hempty : (e.dmaCh c n).advance.empty = false := by rw [hadv]; rfl
  have htake : j.dmaTake c n 2 = e.modDmaCh c n DmaChan.advance := by
    rw [Dev.dmaTake_succ, if_pos (by rw [DmaChan.advance_one_empty hqueue, ht]; rfl), he, Dev.dmaTake_succ, hempty]
    rfl
  have hch : (j.dmaTake c n 2).dmaCh c n = { lastStatus := 1, bytes := (e.dmaCh c n).bytes, page := (e.dmaCh c n).page } := by
    rw [htake, Dev.dmaCh_modDmaCh_same, hadv, hstatus]
  rw [Dev.dmaSealGo_of_not_due (by simp [hch]) (by simp [hch]), hch]
  exact ⟨rfl, rfl, rfl⟩

/-- A descriptor that moves bytes starts on a free channel: with its seal read, where it is a seal copy, else with its bursts (R371, R386). -/
theorem Dev.dmaJoin_starts {x : DmaDesc} (ht : (decDma x.words).total ≠ 0)
    (hp : (decDma x.words).seald = true → v.otherModule (decDma x.words).sealAddr = false ∧
      v.permits (coreDie c) (decDma x.words).sealAddr.toNat 8 false false = true) :
    ((v.dmaJoin c n x).dmaCh c n).cur = x ∧ ((v.dmaJoin c n x).dmaCh c n).phase = if (decDma x.words).seald then .seal0 else .moving := by
  rw [Dev.dmaJoin_free hi hq hs hk]
  generalize hj : v.modDmaCh c n (fun ch => { ch with queue := ch.queue ++ [x] }) = j
  have hqueue : (j.dmaCh c n).queue = [x] := by rw [← hj, Dev.dmaCh_modDmaCh_same, hq]; rfl
  have htake : j.dmaTake c n 2 = j.modDmaCh c n DmaChan.advance := by
    rw [Dev.dmaTake_succ, if_neg (by rw [DmaChan.advance_one_empty hqueue, decide_eq_true_eq]; exact ht)]
  have hch := (congrArg (fun w => w.dmaCh c n) htake).trans ((Dev.dmaCh_modDmaCh_same _ _ _ _).trans (DmaChan.advance_one hqueue))
  cases hseal : (decDma x.words).seald with
  | false =>
    rw [hseal] at hch
    rw [Dev.dmaSealGo_of_not_due (by simp [hch]) (by simp [hch]), hch]
    exact ⟨rfl, rfl⟩
  | true =>
    obtain ⟨hown, hpermit⟩ := hp hseal
    have hown' : (j.dmaTake c n 2).otherModule (decDma ((j.dmaTake c n 2).dmaCh c n).cur.words).sealAddr = false := by
      rw [hch, htake, ← hj]
      exact hown
    have hpermit' : (j.dmaTake c n 2).permits (coreDie c) (decDma ((j.dmaTake c n 2).dmaCh c n).cur.words).sealAddr.toNat 8 false false = true := by
      rw [hch, htake, ← hj]
      exact hpermit
    obtain ⟨p, a, hgo⟩ := Dev.dmaSealGo_own hown' hpermit'
    rw [hgo, hch, hseal]
    exact ⟨rfl, rfl⟩

end

section
variable {v u : Dev} {d n : Nat} {t : Taken}

theorem Dev.copyOrder_of_taken (h : v.takeOrder d n (fun x => x = 8) = some (t, u)) (hc : fld (wd t.ws 1) 5 0 < 48)
    (hd : coreDie (fld (wd t.ws 1) 5 0) = d) (hb : u.dmaBad (fld (wd t.ws 1) 5 0) true (decDma t.ws) = false) :
    v.copyOrder d n = (u.accept d t.o.ring).dmaJoin (fld (wd t.ws 1) 5 0) (decDma t.ws).chan { words := t.ws, order := some t.o } := by
  simp only [Dev.copyOrder, Dev.order_of_taken h]
  rw [if_neg (by simp [hd, hc]), if_neg (by rw [hb]; decide)]

/-- A refused COPY changes no core. -/
theorem Dev.copyOrder_refused (h : v.takeOrder d n (fun x => x = 8) = some (t, u))
    (hr : 48 ≤ fld (wd t.ws 1) 5 0 ∨ coreDie (fld (wd t.ws 1) 5 0) ≠ d ∨ u.dmaBad (fld (wd t.ws 1) 5 0) true (decDma t.ws) = true) :
    (v.copyOrder d n).cores = v.cores := by
  have taken : u.cores = v.cores := by
    rw [(Dev.takeOrder_some h).2.2.2.2]
    exact (v.orderTaken_effect d n).2.2
  simp only [Dev.copyOrder, Dev.order_of_taken h]
  split
  · rw [Dev.finish_cores, taken]
  · next hcd =>
    split
    · rw [Dev.finish_cores, taken]
    · next hb =>
      simp only [Bool.or_eq_true, decide_eq_true_eq, not_or] at hcd
      rcases hr with hr | hr | hr
      · exact absurd hr hcd.1
      · exact absurd hr hcd.2
      · exact absurd hr hb

end

/-! ### The orders, clause by clause -/

section
variable {v u : Dev} {d n : Nat} {t : Taken}

/-- An order that is taken moves its ring's index and the turn (R606, R611). -/
theorem Dev.taken_turn {ok : Nat → Bool} (h : v.takeOrder d n ok = some (t, u)) : v.turn d = some n ∧
    t.ws = bytesToWords 8 (v.hostRead (v.ring d n).orderAt 64) ∧ ok (fld (wd t.ws 0) 7 0) = true ∧
    (u.ring d n).index = ((v.ring d n).index + 1) % 2 ^ 32 ∧ (u.hifD d).nextTurn = n + 1 := by
  obtain ⟨hturn, hws, hok, _, rfl⟩ := Dev.takeOrder_some h
  obtain ⟨hindex, hnext, _⟩ := v.orderTaken_effect d n
  exact ⟨hturn, hws, hok, hindex, hnext⟩

/-- A taken order names its ring, and its OP and TAG fit their fields. -/
theorem Taken.bounds {ok : Nat → Bool} (h : v.takeOrder d n ok = some (t, u)) : t.o.ring = n ∧ t.o.op < 256 ∧ t.o.tag < 2 ^ 32 := by
  obtain ⟨_, _, _, ho, _⟩ := Dev.takeOrder_some h
  rw [ho]
  exact ⟨rfl, fld_lt _ _ _, fld_lt _ _ _⟩

theorem Taken.sid_mod (t : Taken) (d : Nat) : t.sid d % 256 = fld (wd t.ws 1) 7 0 := by
  have := fld_lt (wd t.ws 1) 7 0
  rw [Taken.sid]
  omega

/-- What a run of the order's schedule leaves when it begins from the START (R98). -/
theorem Dev.startOrder_runs (h : v.takeOrder d n (fun x => x = 2) = some (t, u)) (hs : u.startBad t (t.sid d) = none) :
    let q := u.sched (t.sid d)
    let w := v.startOrder d n
    (w.sched (t.sid d)).base = u.baseOf (wd t.ws 2) (wd t.ws 3) ∧
    (q.streams.Nodup → (∃ p ∈ q.streams.zip (q.streams.map (fun _ => 0)), p.2 < (u.strm p.1).count) →
      (w.sched (t.sid d)).phase = .running ∧ (w.sched (t.sid d)).run = some t.o) ∧
    (q.streams.Nodup → ∀ p ∈ q.streams.zip (q.streams.map (fun _ => 0)), (w.strm p.1).next = p.2) := by
  have fresh := Dev.freshUnits_within u (t.sid d)
  have hsched : (u.freshUnits (t.sid d)).sched (t.sid d) = u.sched (t.sid d) := fresh.sched_eq (by decide) _
  have hstrm : ∀ k, (u.freshUnits (t.sid d)).strm k = u.strm k := fresh.strm_eq (by decide)
  have run := (u.freshUnits (t.sid d)).run_begins d (t.sid d) (u.baseOf (wd t.ws 2) (wd t.ws 3)) t.o (u.sched (t.sid d)).first
    ((u.sched (t.sid d)).streams.map (fun _ => 0))
  simp only [hsched, hstrm] at run
  rw [Dev.startOrder_of_taken h hs]
  exact run

end

/-- Settles O55: each order is taken, and what its OP does is read off the lemma of that order. -/
theorem hostOrdersComplete : Obligations.HostOrdersComplete := by
  intro d n s t u v id q runs
  refine ⟨fun ok h => Dev.taken_turn h, fun h => ?_, fun hb => ?_, fun hb h => ⟨fun hp => ?_, ?_⟩, fun h => ⟨fun hs => ?_, fun c hs => ?_⟩,
    fun h => ⟨fun hs ht hv => ?_, fun hr => ?_⟩, fun h => ⟨fun hp => ?_, fun hp => ?_⟩, fun h => ⟨fun h0 h1 => ?_, fun hp => ?_⟩,
    fun h => ⟨fun hc hd hb => ?_, fun hr => ?_⟩⟩
  · -- WORK_NOP
    obtain ⟨hring, hop, htag⟩ := Taken.bounds h
    refine ⟨v.workNop d n, rfl, ?_, ?_, fun ho hen hk hh he hs hd => ?_⟩
    · rw [Dev.workNop_of_taken h]
      exact hring ▸ Dev.finish_busy _ _ _ _ _ _ _
    · rw [Dev.workNop_of_taken h]
      exact ((Dev.finish_within _ _ _ _ _ _ _).scheds_eq (by decide)).trans ((Dev.takeOrder_within h).scheds_eq (by decide))
    · rw [Dev.workNop_of_taken h, ← hring]
      exact Dev.finish_nop_writes rfl hop htag (hring ▸ n.isLt) ho hen hk hh he hs hd
  · -- a LOAD while a map rebuild fills the stacks
    have waits : v.loadOrder d n = v := if_pos hb
    change Host.Outcome.next (s.ends (v.loadOrder d n)) = _
    rw [waits, State.ends_self]
  · -- a LOAD of a number in use
    refine ⟨v.loadOrder d n, rfl, ?_⟩
    rw [Dev.loadOrder_in_use hb h hp]
    exact (Dev.taken_finishSid h (Dev.Within.refl [] u) (by decide) (by decide) _ _).1
  · -- a LOAD decided by its descriptors
    intro bs ds w1 w2 hp hr ws h1 h2 h3 h4 h5
    have checked := Dev.loadOrder_checked hb h hp hr h1 h2 h3 h4 h5
    refine ⟨fun hok => ⟨v.loadOrder d n, rfl, ?_⟩, fun c hbad => ⟨v.loadOrder d n, rfl, ?_⟩⟩
    · have claimed := w2.claim_strm (t.sid d) (wd ws 0) (wd ws 1) (Dev.nodup_of_loadBad hok)
      rw [Taken.sid_mod] at claimed
      rw [checked, hok, Option.map_none, Option.getD_none, (Dev.finishSid_within _ _ _ _ _).sched_eq (by decide), Dev.claim_sched]
      refine ⟨rfl, rfl, rfl, rfl, rfl, fun x hx => ?_⟩
      rw [(Dev.finishSid_within _ _ _ _ _).strm_eq (by decide)]
      exact claimed x hx
    · have read : Dev.Within [.coreRegs, .syncStatus, .stackMem, .channels, .hif] u w2 := by
        have image := u.imageRead_within d (wd t.ws 2) 64
        have descs := w1.descRead_within d ((wd t.ws 2).toNat + 64) (fld (wd ws 0) 15 8)
        rw [hr] at image
        rw [h5] at descs
        exact image.trans descs
      rw [checked, hbad]
      exact (Dev.taken_finishSid h read (by decide) (by decide) c 0).1
  · -- START
    exact ⟨v.startOrder d n, rfl, Dev.startOrder_runs h hs⟩
  · -- START, refused
    refine ⟨v.startOrder d n, rfl, ?_⟩
    rw [Dev.startOrder_refused h hs]
    exact Dev.taken_finishSid h (Dev.Within.refl [] u) (by decide) (by decide) c 0
  · -- RESUME
    refine ⟨v.resumeOrder d n, rfl, ?_⟩
    rw [Dev.resumeOrder_of_taken h hs ht hv]
    exact u.run_begins d id (u.baseOf (wd t.ws 2) (wd t.ws 3)) t.o false (u.resumeTable id (wd t.ws 4))
  · -- RESUME, refused
    obtain ⟨status, hst, refused⟩ := Dev.resumeOrder_refused h hr
    refine ⟨v.resumeOrder d n, rfl, ?_⟩
    rw [refused]
    exact Dev.taken_finishSid h (Dev.Within.refl [] u) (by decide) (by decide) status hst
  · -- ABORT
    exact ⟨v.abortOrder d n, rfl, Dev.abortOrder_running h hp⟩
  · -- ABORT, refused
    refine ⟨v.abortOrder d n, rfl, ?_⟩
    rw [Dev.abortOrder_refused h hp]
    exact (Dev.taken_finishSid h (Dev.Within.refl [] u) (by decide) (by decide) _ _).1
  · -- UNLOAD
    exact ⟨v.unloadOrder d n, rfl, Dev.unloadOrder_frees h h0 h1⟩
  · -- UNLOAD, refused
    obtain ⟨status, refused⟩ := Dev.unloadOrder_refused h hp
    refine ⟨v.unloadOrder d n, rfl, ?_⟩
    rw [refused]
    exact Dev.taken_finishSid h (Dev.Within.refl [] u) (by decide) (by decide) status 0
  · -- COPY
    refine ⟨v.copyOrder d n, rfl, ?_⟩
    rw [Dev.copyOrder_of_taken h hc hd hb]
    exact ⟨fun ⟨hi, hq, hs, hk⟩ ht => Dev.dmaJoin_zero (v := u.accept d t.o.ring) hi hq hs hk ht,
      fun hi => Dev.dmaJoin_queued (v := u.accept d t.o.ring) hi _,
      fun ⟨hi, hq, hs, hk⟩ ht hp => Dev.dmaJoin_starts (v := u.accept d t.o.ring) hi hq hs hk ht hp⟩
  · -- COPY, refused
    exact ⟨v.copyOrder d n, rfl, Dev.copyOrder_refused h hr⟩

end Sys2Proof.Machine

/-! Matrix entries (04): what a gang's tile loads leave in its cores and what the rows of results leave in the accumulators, and from them O21. -/

namespace Sys2Proof.Machine

/-! ### Lists without repetition -/

/-- Two nested ranges whose places are all distinct give a list without repetition. -/
theorem nodup_nested {α : Type} {f : Nat → Nat → α} {n : Nat} {len : Nat → Nat}
    (hf : ∀ r r' j j', r < n → r' < n → j < len r → j' < len r' → f r j = f r' j' → r = r' ∧ j = j') :
    (((List.range n).map (fun r => (List.range (len r)).map (f r))).flatten).Nodup := by
  rw [← List.flatMap_def, List.nodup_flatMap]
  refine ⟨fun r hr => List.Nodup.map_on (fun j hj j' hj' h => ?_) List.nodup_range,
    List.Nodup.pairwise_of_forall_ne List.nodup_range fun r hr r' hr' hne a ha ha' => ?_⟩
  · exact (hf r r j j' (List.mem_range.mp hr) (List.mem_range.mp hr) (List.mem_range.mp hj) (List.mem_range.mp hj') h).2
  · obtain ⟨j, hj, rfl⟩ := List.mem_map.mp ha
    obtain ⟨j', hj', h⟩ := List.mem_map.mp ha'
    exact hne (hf r r' j j' (List.mem_range.mp hr) (List.mem_range.mp hr') (List.mem_range.mp hj) (List.mem_range.mp hj') h.symm).1

/-- A fold that changes each of several cores once leaves each as its own change does, and every other core as it was. -/
theorem Dev.forAll_modCore_once {α : Type} (key : α → Nat) (g : α → Core → Core) (xs : List α) (v : Dev) (hn : (xs.map key).Nodup) :
    (∀ x ∈ xs, (v.forAll xs (fun u y => u.modCore (key y) (g y))).core (key x) = g x (v.core (key x))) ∧
    ∀ c, c ∉ xs.map key → (v.forAll xs (fun u y => u.modCore (key y) (g y))).core c = v.core c := by
  induction xs generalizing v with
  | nil => exact ⟨fun x hx => absurd hx List.not_mem_nil, fun _ _ => rfl⟩
  | cons a r ih =>
    obtain ⟨ha, hr⟩ := List.nodup_cons.mp hn
    obtain ⟨hin, hout⟩ := ih (v.modCore (key a) (g a)) hr
    constructor
    · intro x hx
      rcases List.mem_cons.mp hx with rfl | hx
      · exact (hout _ ha).trans (Dev.core_modCore_same _ _ _)
      · have hne : key x ≠ key a := fun h => ha (h ▸ List.mem_map_of_mem hx)
        exact (hin x hx).trans (by rw [Dev.core_modCore_ne _ _ hne])
    · intro c hc
      rw [List.map_cons, List.mem_cons, not_or] at hc
      exact (hout c hc.2).trans (Dev.core_modCore_ne _ _ hc.1)

/-! ### Gangs (R147) -/

/-- Places (r, c) of a p × q gang, row by row. -/
def gangPlaces (p q : Nat) : List (Nat × Nat) := ((List.range p).map (fun r => (List.range q).map (fun c => (r, c)))).flatten

theorem mem_gangPlaces {p q r c : Nat} (hr : r < p) (hc : c < q) : (r, c) ∈ gangPlaces p q := by
  simp [gangPlaces, hr, hc]

/-- At most three core columns, so that no core stands at two places. -/
theorem gangCores_nodup (core p : Nat) {q : Nat} (hq : q ≤ 3) : ((gangPlaces p q).map (fun x => gangCore core x.1 x.2)).Nodup := by
  have hmap : (gangPlaces p q).map (fun x => gangCore core x.1 x.2) =
      ((List.range p).map (fun r => (List.range q).map (gangCore core r))).flatten := by
    simp [gangPlaces, List.map_flatten, Function.comp_def]
  rw [hmap]
  refine nodup_nested fun r r' j j' _ _ hj hj' h => ?_
  unfold gangCore at h
  omega

theorem shapeOf_columns_le {n p q : Nat} (h : shapeOf n = some (p, q)) : q ≤ 3 := by
  unfold shapeOf at h
  split at h <;> simp at h <;> omega

/-! ### Accumulator words (R135, R299) -/

theorem Core.accGet_accPut_same (k : Core) (w x : Nat) : (k.accPut w x).accGet w = x % 2 ^ 32 := by
  simp [Core.accGet, Core.accPut, w32]

theorem Core.accGet_accPut_ne (k : Core) {w a : Nat} (x : Nat) (h : a ≠ w) : (k.accPut w x).accGet a = k.accGet a := by
  simp [Core.accGet, Core.accPut, tget_tset_ne _ _ _ h]

theorem Dev.Within.accGet_eq {F : List Part} {v w : Dev} (h : Dev.Within F v w) (hp : Part.accs ∉ F) (c a : Nat) :
    (w.core c).accGet a = (v.core c).accGet a := by
  rw [Core.accGet, (h.1 .accs hp c).1, Core.accGet]
theorem Dev.Within.spad_eq {F : List Part} {v w : Dev} (h : Dev.Within F v w) (hp : Part.spads ∉ F) (c : Nat) : (w.core c).spad = (v.core c).spad :=
  (h.1 .spads hp c).1
theorem Dev.Within.tile_eq {F : List Part} {v w : Dev} (h : Dev.Within F v w) (hp : Part.tiles ∉ F) (c : Nat) : (w.core c).tile = (v.core c).tile :=
  h.1 .tiles hp c

/-- A result word is written once, combined with what its accumulator word holds. -/
def MxOps.put (o : MxOps) (v : Dev) (y : Nat × Nat × Nat) : Dev := v.modCore y.1 (fun k => k.accPut y.2.1 (o.combine (k.accGet y.2.1) y.2.2))

theorem MxOps.put_within (o : MxOps) (v : Dev) (y : Nat × Nat × Nat) : Dev.Within [.accs] v (o.put v y) :=
  Dev.modCore_within fun k => Core.accPut_within k _ _

theorem MxOps.puts_within (o : MxOps) (ys : List (Nat × Nat × Nat)) (v : Dev) : Dev.Within [.accs] v (v.forAll ys o.put) :=
  Dev.Within.forAll o.put_within (Dev.Within.refl _ _)

theorem MxOps.accGet_put_same (o : MxOps) (v : Dev) (y : Nat × Nat × Nat) :
    ((o.put v y).core y.1).accGet y.2.1 = o.combine ((v.core y.1).accGet y.2.1) y.2.2 % 2 ^ 32 := by
  rw [MxOps.put, Dev.core_modCore_same, Core.accGet_accPut_same]

theorem MxOps.accGet_put_ne (o : MxOps) (v : Dev) {y : Nat × Nat × Nat} {c a : Nat} (h : ¬(y.1 = c ∧ y.2.1 = a)) :
    ((o.put v y).core c).accGet a = (v.core c).accGet a := by
  rw [MxOps.put]
  by_cases hc : c = y.1
  · subst hc
    rw [Dev.core_modCore_same, Core.accGet_accPut_ne _ _ fun ha => h ⟨rfl, ha.symm⟩]
  · rw [Dev.core_modCore_ne _ _ hc]

/-- Words that are not among those written keep what they hold. -/
theorem MxOps.accGet_puts_ne (o : MxOps) (ys : List (Nat × Nat × Nat)) (v : Dev) {c a : Nat} (h : ∀ y ∈ ys, ¬(y.1 = c ∧ y.2.1 = a)) :
    ((v.forAll ys o.put).core c).accGet a = (v.core c).accGet a := by
  induction ys generalizing v with
  | nil => rfl
  | cons y r ih =>
    exact (ih (o.put v y) fun z hz => h z (List.mem_cons_of_mem _ hz)).trans (o.accGet_put_ne v (h y List.mem_cons_self))

/-- Where no word is written twice, each is combined with what it held before all of the writes. -/
theorem MxOps.accGet_puts (o : MxOps) (ys : List (Nat × Nat × Nat)) (v : Dev) (hn : (ys.map (fun y => (y.1, y.2.1))).Nodup)
    {y : Nat × Nat × Nat} (hy : y ∈ ys) : ((v.forAll ys o.put).core y.1).accGet y.2.1 = o.combine ((v.core y.1).accGet y.2.1) y.2.2 % 2 ^ 32 := by
  induction ys generalizing v with
  | nil => exact absurd hy List.not_mem_nil
  | cons x r ih =>
    obtain ⟨hx, hr⟩ := List.nodup_cons.mp hn
    rcases List.mem_cons.mp hy with rfl | hmem
    · refine (o.accGet_puts_ne r (o.put v y) fun z hz hk => hx ?_).trans (o.accGet_put_same v y)
      exact List.mem_map.mpr ⟨z, hz, Prod.ext hk.1 hk.2⟩
    · have hne : ¬(x.1 = y.1 ∧ x.2.1 = y.2.1) := fun hk => hx (List.mem_map.mpr ⟨y, hmem, Prod.ext hk.1.symm hk.2.symm⟩)
      exact (ih (o.put v x) hr hmem).trans (by rw [o.accGet_put_ne v hne])

/-! ### Results and where they are written (R139, R173, R174) -/

theorem Core.bitsAt_congr {a b : Core} (h : b.spad = a.spad) (pos w : Nat) : b.bitsAt pos w = a.bitsAt pos w := by
  rw [Core.bitsAt, Core.spadRead, h, Core.bitsAt, Core.spadRead]
theorem MxOps.elem_congr (o : MxOps) {a b : Core} (h : b.spad = a.spad) (m kk : Nat) : o.elem b m kk = o.elem a m kk := by
  simp only [MxOps.elem, Core.bitsAt_congr h]
theorem MxOps.elemScale_congr (o : MxOps) {a b : Core} (h : b.spad = a.spad) (m kk : Nat) : o.elemScale b m kk = o.elemScale a m kk := by
  simp only [MxOps.elemScale, Core.bitsAt_congr h]
theorem MxOps.loadTile_congr (o : MxOps) (ws : List W64) (r c : Nat) {a b : Core} (h : b.spad = a.spad) : o.loadTile ws r c b = o.loadTile ws r c a := by
  simp only [MxOps.loadTile, Core.bitsAt_congr h]

/-- The words a row writes are a function of the tiles and the scratchpads. -/
theorem Dev.mxRow_congr {v w : Dev} (ht : ∀ c, (w.core c).tile = (v.core c).tile) (hs : ∀ c, (w.core c).spad = (v.core c).spad) (o : MxOps)
    (core p q m : Nat) : w.mxRow o core p q m = v.mxRow o core p q m := by
  have fwd : ∀ c j, w.fwdResult o core p m c j = v.fwdResult o core p m c j := fun c j => by
    simp only [Dev.fwdResult, MxOps.fwdStep, ht, MxOps.elem_congr o (hs _), MxOps.elemScale_congr o (hs _)]
  have rev : ∀ r kk, w.revResult o core p m r kk = v.revResult o core p m r kk := fun r kk => by
    simp only [Dev.revResult, ht, MxOps.elem_congr o (hs _), MxOps.elemScale_congr o (hs _)]
  simp only [Dev.mxRow, fwd, rev]

/-- Accumulator words from one row of results to the next. -/
def MxOps.rowWords (o : MxOps) : Nat := 256 * if o.op = 0x11 then vWide o.wf else 1

/-- The core and word of each result of row m: no two are one. -/
theorem Dev.mxRow_keys (v : Dev) (o : MxOps) (core p q m : Nat) :
    ((v.mxRow o core p q m).map (fun y => (y.1, y.2.1))).Nodup ∧
    ∀ y ∈ v.mxRow o core p q m, o.row * 256 + m * o.rowWords ≤ y.2.1 ∧ y.2.1 < o.row * 256 + (m + 1) * o.rowWords := by
  unfold Dev.mxRow MxOps.rowWords
  split
  · simp only [List.map_flatten, List.map_map, Function.comp_def]
    refine ⟨nodup_nested fun r r' j j' _ _ _ _ h => ?_, fun y hy => ?_⟩
    · simp only [Prod.mk.injEq, gangCore] at h
      omega
    · simp only [List.mem_flatten, List.mem_map, List.mem_range, exists_exists_and_eq_and] at hy
      obtain ⟨r, -, kk, hk, rfl⟩ := hy
      have hlt : kk < 256 * vWide o.wf := lt_of_lt_of_le hk (min_le_right _ _)
      have hrow : m * (256 * vWide o.wf) = 256 * (m * vWide o.wf) := by ring
      have hnext : (m + 1) * (256 * vWide o.wf) = 256 * (m * vWide o.wf) + 256 * vWide o.wf := by ring
      simp only [hrow, hnext]
      omega
  · simp only [List.map_flatten, List.map_map, Function.comp_def]
    refine ⟨nodup_nested fun r r' j j' _ _ _ _ h => ?_, fun y hy => ?_⟩
    · simp only [Prod.mk.injEq, gangCore] at h
      omega
    · simp only [List.mem_flatten, List.mem_map, List.mem_range, exists_exists_and_eq_and] at hy
      obtain ⟨c, -, j, hj, rfl⟩ := hy
      have hlt : j < 256 := lt_of_lt_of_le hj (min_le_right _ _)
      simp only
      omega

/-- No two results of an entry are written to one word. -/
theorem Dev.mxRows_nodup (v : Dev) (o : MxOps) (core p q n : Nat) :
    (((List.range n).flatMap (v.mxRow o core p q)).map (fun y => (y.1, y.2.1))).Nodup := by
  rw [List.map_flatMap, List.nodup_flatMap]
  refine ⟨fun m _ => (v.mxRow_keys o core p q m).1, List.Nodup.pairwise_of_forall_ne List.nodup_range fun m _ m' _ hne a ha ha' => hne ?_⟩
  obtain ⟨y, hy, rfl⟩ := List.mem_map.mp ha
  obtain ⟨y', hy', h⟩ := List.mem_map.mp ha'
  obtain ⟨hlo, hhi⟩ := (v.mxRow_keys o core p q m).2 y hy
  obtain ⟨hlo', hhi'⟩ := (v.mxRow_keys o core p q m').2 y' hy'
  rw [(Prod.mk.inj h).2] at hlo' hhi'
  have h1 : m * o.rowWords < (m' + 1) * o.rowWords := by omega
  have h2 : m' * o.rowWords < (m + 1) * o.rowWords := by omega
  have := Nat.lt_of_mul_lt_mul_right h1
  have := Nat.lt_of_mul_lt_mul_right h2
  omega

/-- The device once every row has written its results. -/
def Dev.rowsWritten (v : Dev) (o : MxOps) (core p q : Nat) : Dev := v.forAll ((List.range o.m).flatMap (v.mxRow o core p q)) o.put

theorem Dev.rowsWritten_within (v : Dev) (o : MxOps) (core p q : Nat) : Dev.Within [.accs] v (v.rowsWritten o core p q) := o.puts_within _ v

theorem Dev.rowsWritten_accGet (v : Dev) (o : MxOps) (core p q : Nat) {m : Nat} (hm : m < o.m) {y : Nat × Nat × Nat} (hy : y ∈ v.mxRow o core p q m) :
    ((v.rowsWritten o core p q).core y.1).accGet y.2.1 = o.combine ((v.core y.1).accGet y.2.1) y.2.2 % 2 ^ 32 :=
  o.accGet_puts _ v (v.mxRows_nodup o core p q o.m) (List.mem_flatMap.mpr ⟨m, List.mem_range.mpr hm, hy⟩)

theorem Dev.rowsWritten_accGet_ne (v : Dev) (o : MxOps) (core p q : Nat) {c a : Nat}
    (h : ∀ m < o.m, ∀ y ∈ v.mxRow o core p q m, ¬(y.1 = c ∧ y.2.1 = a)) :
    ((v.rowsWritten o core p q).core c).accGet a = (v.core c).accGet a := by
  refine o.accGet_puts_ne _ v fun y hy => ?_
  obtain ⟨m, hm, hy⟩ := List.mem_flatMap.mp hy
  exact h m (List.mem_range.mp hm) y hy

/-! ### Entries that meet no parity error (R123 to R126, R140) -/

/-- No core holds a parity error of a column, of its scratchpad or of its accumulators. -/
def Dev.clean (v : Dev) : Prop := ∀ g, (v.core g).colBad = [] ∧ (v.core g).spadBad = [] ∧ (v.core g).accBad = []

/-- What changes no register, scratchpad or accumulator of a core brings no parity error. -/
theorem Dev.Within.clean {F : List Part} {v w : Dev} (h : Dev.Within F v w) (hr : Part.coreRegs ∉ F) (hs : Part.spads ∉ F) (ha : Part.accs ∉ F)
    (hc : v.clean) : w.clean := fun g => by
  obtain ⟨-, -, -, -, -, -, -, -, -, -, -, -, -, -, -, -, hcol, -⟩ := h.1 .coreRegs hr g
  exact ⟨hcol.trans (hc g).1, (h.1 .spads hs g).2.trans (hc g).2.1, (h.1 .accs ha g).2.trans (hc g).2.2⟩

theorem Core.badIn_of_none {k : Core} (h : k.spadBad = []) (es : List (Nat × Nat)) : k.badIn es = none := by simp [Core.badIn, h]

/-- The cores of the gang take their tiles. -/
def Dev.tilesLoaded (v : Dev) (o : MxOps) (ws : List W64) (core p q : Nat) : Dev :=
  v.forAll (gangPlaces p q) (fun u x => u.modCore (gangCore core x.1 x.2) (fun k => { k with tile := o.loadTile ws x.1 x.2 k }))

theorem Dev.mxLoad_of_clean {v : Dev} (hc : v.clean) (o : MxOps) (ws : List W64) (core p q : Nat) :
    v.mxLoad o ws core p q = (v.tilesLoaded o ws core p q, none) := by
  have hb : ∀ c es, (v.core c).badIn es = none := fun c es => Core.badIn_of_none (hc c).2.1 es
  simp only [Dev.mxLoad, hb, Option.map_none]
  have hnone : ∀ xs : List (Nat × Nat), (List.range 128).findSome? (fun _ => xs.findSome? (fun _ => (none : Option (Nat × Nat)))) = none := by
    intro xs
    simp [List.findSome?_eq_none_iff]
  rw [hnone]
  rfl

theorem Dev.tilesLoaded_within (v : Dev) (o : MxOps) (ws : List W64) (core p q : Nat) : Dev.Within [.tiles] v (v.tilesLoaded o ws core p q) :=
  Dev.Within.forAll (fun u x => Dev.modCore_within fun k =>
    Core.Within.of (fun p hp => by cases p <;> first | exact absurd (by decide) hp | simp [Core.same]) (by decide)) (Dev.Within.refl _ _)

theorem Dev.tilesLoaded_tile (v : Dev) (o : MxOps) (ws : List W64) (core p : Nat) {q r c : Nat} (hq : q ≤ 3) (hr : r < p) (hc : c < q) :
    ((v.tilesLoaded o ws core p q).core (gangCore core r c)).tile = o.loadTile ws r c (v.core (gangCore core r c)) := by
  have h := (Dev.forAll_modCore_once (fun x => gangCore core x.1 x.2) (fun x k => { k with tile := o.loadTile ws x.1 x.2 k })
    (gangPlaces p q) v (gangCores_nodup core p hq)).1 (r, c) (mem_gangPlaces hr hc)
  exact congrArg Core.tile h

theorem MxOps.put_clean (o : MxOps) {v : Dev} (h : v.clean) (y : Nat × Nat × Nat) : (o.put v y).clean := fun g => by
  rw [MxOps.put]
  by_cases hg : g = y.1
  · subst hg
    obtain ⟨hcol, hspad, hacc⟩ := h y.1
    rw [Dev.core_modCore_same]
    exact ⟨hcol, hspad, by simp [Core.accPut, hacc]⟩
  · rw [Dev.core_modCore_ne _ _ hg]
    exact h g

theorem MxOps.puts_clean (o : MxOps) (ys : List (Nat × Nat × Nat)) {v : Dev} (h : v.clean) : (v.forAll ys o.put).clean := by
  induction ys generalizing v with
  | nil => exact h
  | cons y r ih => exact ih (o.put_clean h y)

/-- Rows that meet no error write the words of each in turn, all computed from the tiles and scratchpads as they stood. -/
theorem Dev.mxRows_of_clean {v : Dev} (hc : v.clean) (o : MxOps) (core p q : Nat) (ms : List Nat) :
    v.mxRows o core p q ms = (v.forAll (ms.flatMap (v.mxRow o core p q)) o.put, none) := by
  induction ms generalizing v with
  | nil => rfl
  | cons m r ih =>
    have hb : ∀ c es, (v.core c).badIn es = none := fun c es => Core.badIn_of_none (hc c).2.1 es
    have hnone : (if o.acc then (v.mxRow o core p q m).find? (fun w => (v.core w.1).accBad.contains w.2.1) else none) = none := by
      simp [(hc _).2.2]
    have hsup : (List.range (o.suppliers core p q).length).findSome? (fun _ => (none : Option (Nat × Nat))) = none :=
      List.findSome?_eq_none_iff.mpr fun _ _ => rfl
    have hput : (fun (u : Dev) (w : Nat × Nat × Nat) => u.modCore w.1 (fun k =>
        let x := [(w.2.1, o.combine (k.accGet w.2.1) w.2.2)]
        (if o.op = 0x11 then k.accCycle [] [] x else k.accCycle [] x []).2)) = o.put := by
      funext u w
      split <;> rfl
    have hw := o.puts_within (v.mxRow o core p q m) v
    have hrow : (v.forAll (v.mxRow o core p q m) o.put).mxRow o core p q = v.mxRow o core p q :=
      funext fun i => Dev.mxRow_congr (hw.tile_eq (by decide)) (hw.spad_eq (by decide)) o core p q i
    have hrest := ih (o.puts_clean (v.mxRow o core p q m) hc)
    rw [hrow] at hrest
    rw [List.flatMap_cons, Dev.forAll_append, ← hrest, ← hput]
    rw [Dev.mxRows]
    simp only [hb, Option.map_none, hsup, hnone]

/-! ### Starting a matrix entry (R119, R135, R138) -/

/-- Two entries that write one accumulator row are noted in its core, which keeps all else. -/
theorem Dev.overlapAt_core (v : Dev) (k c : Nat) (ws : List W64) (g : Nat) : ∃ b, (v.overlapAt k c ws).core g = { v.core g with accOverlap := b } := by
  unfold Dev.overlapAt
  dsimp only
  split
  · exact ⟨_, rfl⟩
  · by_cases hg : g = c
    · subst hg
      exact ⟨true, by rw [Dev.core_congr (Dev.ev_cores _ _ _ _ _ _), Dev.core_modCore_same]⟩
    · exact ⟨(v.core g).accOverlap, by rw [Dev.core_congr (Dev.ev_cores _ _ _ _ _ _), Dev.core_modCore_ne _ _ hg]⟩

/-- The receiving cores after the check for overlaps. -/
def Dev.overlapsNoted (v : Dev) (k : Nat) (ws : List W64) : Dev :=
  v.forAll ((decMx ws).receivers (strmUnit k)) (fun u c => u.overlapAt k c ws)

theorem Dev.overlapsNoted_core (v : Dev) (k : Nat) (ws : List W64) (g : Nat) : ∃ b, (v.overlapsNoted k ws).core g = { v.core g with accOverlap := b } := by
  unfold Dev.overlapsNoted
  generalize (decMx ws).receivers (strmUnit k) = cs
  induction cs generalizing v with
  | nil => exact ⟨_, rfl⟩
  | cons c r ih =>
    obtain ⟨b, hb⟩ := ih (v.overlapAt k c ws)
    obtain ⟨b', hb'⟩ := v.overlapAt_core k c ws g
    exact ⟨b, hb.trans (by rw [hb'])⟩

theorem Dev.overlapsNoted_clean {v : Dev} (h : v.clean) (k : Nat) (ws : List W64) : (v.overlapsNoted k ws).clean := fun g => by
  obtain ⟨b, hb⟩ := v.overlapsNoted_core k ws g
  rw [hb]
  exact h g

/-- The gang as the first row enters the array: each core holds the tile it has loaded, or the one in place. -/
def Dev.mxReady (v : Dev) (k : Nat) (ws : List W64) (p q : Nat) : Dev :=
  if (decMx ws).k = 0 ∨ (decMx ws).reuse then v.overlapsNoted k ws else (v.overlapsNoted k ws).tilesLoaded (decMx ws) ws (strmUnit k) p q

theorem Dev.mxReady_within (v : Dev) (k : Nat) (ws : List W64) (p q : Nat) : Dev.Within [.tiles] (v.overlapsNoted k ws) (v.mxReady k ws p q) :=
  Dev.Within.ite (Dev.Within.refl _ _) (Dev.tilesLoaded_within _ _ _ _ _ _)

theorem Dev.mxReady_core (v : Dev) (k : Nat) (ws : List W64) (p q g : Nat) : ((v.mxReady k ws p q).core g).spad = (v.core g).spad ∧
    ∀ a, ((v.mxReady k ws p q).core g).accGet a = (v.core g).accGet a := by
  obtain ⟨b, hb⟩ := v.overlapsNoted_core k ws g
  refine ⟨((v.mxReady_within k ws p q).spad_eq (by decide) g).trans (by rw [hb]), fun a => ?_⟩
  refine ((v.mxReady_within k ws p q).accGet_eq (by decide) g a).trans ?_
  rw [hb]
  rfl

theorem Dev.mxReady_tile (v : Dev) (k : Nat) (ws : List W64) (p : Nat) {q r c : Nat} (hq : q ≤ 3) (hr : r < p) (hc : c < q) :
    ((v.mxReady k ws p q).core (gangCore (strmUnit k) r c)).tile =
      if (decMx ws).k = 0 ∨ (decMx ws).reuse then (v.core (gangCore (strmUnit k) r c)).tile
      else (decMx ws).loadTile ws r c (v.core (gangCore (strmUnit k) r c)) := by
  obtain ⟨b, hb⟩ := v.overlapsNoted_core k ws (gangCore (strmUnit k) r c)
  unfold Dev.mxReady
  split
  · rw [hb]
  · rw [Dev.tilesLoaded_tile _ _ _ _ _ hq hr hc, hb]
    exact MxOps.loadTile_congr _ _ _ _ rfl

theorem Dev.mxReady_clean {v : Dev} (h : v.clean) (k : Nat) (ws : List W64) (p q : Nat) : (v.mxReady k ws p q).clean :=
  (v.mxReady_within k ws p q).clean (by decide) (by decide) (by decide) (Dev.overlapsNoted_clean h k ws)

/-- The flight of a matrix entry that has started. -/
def mxFlight (v : Dev) (k : Nat) (ws : List W64) (prog : Nat) : Flight := { idx := (v.strm k).next, words := ws, srcDone := true, prog := prog }

section
variable {v : Dev} {k op p q : Nat} {ws : List W64}

/-- An entry that works and meets no parity error loads its tiles, writes its rows and starts with all of its rows as its progress. -/
theorem Dev.mxStart_works (h : v.startable k op = some ws) (hs : shapeOf (decMx ws).shape = some (p, q)) (he : (decMx ws).empty = false)
    (ha : (decMx ws).k = 0 → (decMx ws).acc = false) (hc : v.clean) : v.mxStart k op =
      (((v.mxReady k ws p q).rowsWritten (decMx ws) (strmUnit k) p q).started k (mxFlight v k ws (decMx ws).m) ((decMx ws).k = 0)).nextHead k := by
  have hka : ¬((decMx ws).k = 0 ∧ (decMx ws).acc = true) := fun ⟨h0, h1⟩ => absurd h1 (by simp [ha h0])
  have hhit : ∀ c, ((v.overlapsNoted k ws).core c).colHit = none := fun c => by
    simp [Core.colHit, (Dev.overlapsNoted_clean hc k ws c).1]
  have hcol : (if (decMx ws).k = 0 then none else (gangList (strmUnit k) p q).findSome? (fun c =>
      ((v.overlapsNoted k ws).core c).colHit.map (fun x => (c, x)))) = none := by
    simp [hhit]
  have hload : (if (decMx ws).k = 0 ∨ (decMx ws).reuse then (v.overlapsNoted k ws, none) else
      (v.overlapsNoted k ws).mxLoad (decMx ws) ws (strmUnit k) p q) = (v.mxReady k ws p q, none) := by
    rw [Dev.mxLoad_of_clean (Dev.overlapsNoted_clean hc k ws), Dev.mxReady]
    split <;> rfl
  have hrows := Dev.mxRows_of_clean (Dev.mxReady_clean hc k ws p q) (decMx ws) (strmUnit k) p q (List.range (decMx ws).m)
  have hnoted : (v.forAll ((decMx ws).receivers (strmUnit k)) fun u c => u.overlapAt k c ws) = v.overlapsNoted k ws := rfl
  unfold Dev.mxStart
  simp only [h, hs, he, Bool.false_eq_true, if_false, hka, hnoted, hcol, hload, hrows, mxFlight, Dev.rowsWritten]

/-- An entry that reaches no array, or whose results combine with an absent product, starts with its sources free and no core changed. -/
theorem Dev.mxStart_empty (h : v.startable k op = some ws) (hs : shapeOf (decMx ws).shape = some (p, q))
    (he : (decMx ws).empty = true ∨ ((decMx ws).k = 0 ∧ (decMx ws).acc = true)) :
    ∃ n, v.mxStart k op = (v.started k (mxFlight v k ws n) true).nextHead k := by
  unfold Dev.mxStart
  rw [h]
  dsimp only
  rw [hs]
  dsimp only
  by_cases h0 : (decMx ws).empty = true
  · exact ⟨0, if_pos h0⟩
  · have hka := he.resolve_left h0
    rw [if_neg h0, if_pos hka]
    exact ⟨_, rfl⟩

end

theorem Dev.started_cores (v : Dev) (k : Nat) (f : Flight) (empty : Bool) : (v.started k f empty).cores = v.cores := by
  unfold Dev.started
  dsimp only
  split
  · exact Dev.sendSignals_cores _ _
  · rfl

theorem strmUnit_mx (c : CoreId) : strmUnit (3 * c.val) = c.val := by
  have hk : 3 * c.val < 144 := by omega
  rw [strmUnit, if_pos hk]
  omega

theorem exec_matrix (c : CoreId) (s : State) :
    ∀ x ∈ [(Instr.mmFwd c, 0x10), (.mmRev c, 0x11), (.mmWgt c, 0x12), (.mmDist c, 0x13)],
      exec x.1 s = .next (s.ends (s.dev.mxStart (3 * c.val) x.2)) := by
  simp only [List.forall_mem_cons]
  exact ⟨rfl, rfl, rfl, rfl, fun _ h => absurd h List.not_mem_nil⟩

/-- Settles O21: an entry that works is its tile load, its rows' writes, no two to one word, and its start. -/
theorem matrixEntriesComplete : Obligations.MatrixEntriesComplete := by
  intro c s ws p q x hx h hs o started tile
  have hexec := exec_matrix c s x hx
  have hc := strmUnit_mx c
  refine ⟨fun he ha hclean => ?_, fun he => ?_⟩
  · have hready := s.dev.mxReady_core (3 * c.val) ws p q
    generalize hu : s.dev.mxReady (3 * c.val) ws p q = u at hready
    have hrows := u.rowsWritten_within o c.val p q
    have hstart := Dev.mxStart_works h hs he ha hclean
    rw [hu, hc] at hstart
    refine ⟨u, _, hexec.trans (by rw [hstart]), fun g => (hready g).1, fun r hr g hg => ?_, fun g => ?_, fun m hm y hy => ?_, fun g a hout => ?_,
      _, Dev.mem_started_flights _ _ _ _, rfl, rfl, rfl, rfl, rfl⟩
    · have ht := s.dev.mxReady_tile (3 * c.val) ws p (shapeOf_columns_le hs) hr hg
      rw [hu, hc] at ht
      exact ht
    · rw [Dev.started_core]
      exact ⟨(hrows.spad_eq (by decide) g).trans (hready g).1, hrows.tile_eq (by decide) g⟩
    · rw [Dev.started_core, u.rowsWritten_accGet o c.val p q hm hy, (hready y.1).2]
    · rw [Dev.started_core, u.rowsWritten_accGet_ne o c.val p q hout, (hready g).2]
  · obtain ⟨n, hstart⟩ := Dev.mxStart_empty h hs he
    exact ⟨_, hexec.trans (by rw [hstart]), Dev.started_cores _ _ _ _, n, _, Dev.mem_started_flights _ _ _ _, rfl, rfl, rfl, rfl, rfl⟩

end Sys2Proof.Machine

/-! Granule tasks, atomics, version operations, region writes and bridge transfers (04, 09, 12, 13), and from them O44. -/

namespace Sys2Proof.Machine

/-! ### Words of a record (Table 13.5) -/

theorem mread_take_drop (m : Mem) (a : Nat) {i j n : Nat} (h : i + j ≤ n) : ((mread m a n).drop i).take j = mread m (a + i) j := by
  obtain ⟨r, rfl⟩ := Nat.exists_eq_add_of_le h
  rw [Nat.add_assoc, mread_add, List.drop_left' (mread_length _ _ _), mread_add, List.take_left' (mread_length _ _ _)]

theorem wd_bytesToWords {n i : Nat} (h : i < n) (bs : List Byte) : wd (bytesToWords n bs) i = w64 (ofBytes ((bs.drop (8 * i)).take 8)) := by
  induction n generalizing i bs with
  | zero => omega
  | succ n ih =>
    cases i with
    | zero => rfl
    | succ i =>
      have hd : (bs.drop 8).drop (8 * i) = bs.drop (8 * (i + 1)) := by rw [List.drop_drop]; congr 1; omega
      exact (ih (Nat.lt_of_succ_lt_succ h) (bs.drop 8)).trans (by rw [hd])

/-- Word i of a record of eight words is the eight bytes at its place. -/
theorem Dev.wd_recWords (v : Dev) (a : Nat) {i : Nat} (h : i < 8) : wd (v.recWords a 8) i = w64 (ofBytes (mread v.hbm.mem (a + 8 * i) 8)) := by
  rw [Dev.recWords, wd_bytesToWords h, Dev.stk8, mread_take_drop _ _ (by omega)]

/-- The values a slot's fields can hold. -/
def VSlot.fits (q : VSlot) : Prop := q.tag < 2 ^ 32 ∧ q.readers < 65536 ∧ q.state < 4

theorem decVSlot_fits (w : W64) : (decVSlot w).fits := ⟨fld_lt w 31 0, fld_lt w 47 32, fld_lt w 49 48⟩

theorem encVSlot_toNat {q : VSlot} (h : q.fits) : (encVSlot q).toNat =
    q.tag + q.readers * 2 ^ 32 + q.state * 2 ^ 48 + b2n q.mismatch * 2 ^ 50 + b2n q.misuse * 2 ^ 51 := by
  obtain ⟨htag, hreaders, hstate⟩ := h
  have h1 : b2n q.mismatch ≤ 1 := by cases q.mismatch <;> decide
  have h2 : b2n q.misuse ≤ 1 := by cases q.misuse <;> decide
  simp only [encVSlot, w64, BitVec.toNat_ofNat]
  omega

theorem bit_of_div_mod {n i : Nat} {b : Bool} (h : n / 2 ^ i % 2 = b2n b) : bit n i = b := by
  cases b <;> simp [bit, h, b2n]

theorem decVSlot_encVSlot {q : VSlot} (h : q.fits) : decVSlot (encVSlot q) = q := by
  have hw := encVSlot_toNat h
  obtain ⟨htag, hreaders, hstate⟩ := h
  have h1 : b2n q.mismatch ≤ 1 := by cases q.mismatch <;> decide
  have h2 : b2n q.misuse ≤ 1 := by cases q.misuse <;> decide
  have hmismatch : fbit (encVSlot q) 50 = q.mismatch := bit_of_div_mod (by rw [hw]; omega)
  have hmisuse : fbit (encVSlot q) 51 = q.misuse := bit_of_div_mod (by rw [hw]; omega)
  have htag' : fld (encVSlot q) 31 0 = q.tag := by rw [fld, bits, hw]; omega
  have hreaders' : fld (encVSlot q) 47 32 = q.readers := by rw [fld, bits, hw]; omega
  have hstate' : fld (encVSlot q) 49 48 = q.state := by rw [fld, bits, hw]; omega
  simp only [decVSlot, hmismatch, hmisuse, htag', hreaders', hstate']

theorem Dev.vslot_congr {v w : Dev} (h : w.hbm.mem = v.hbm.mem) (a i : Nat) : w.vslot a i = v.vslot a i := by
  rw [Dev.vslot, Dev.recWords_congr h, Dev.vslot]

theorem Dev.vslot_setVslot (v : Dev) (a : Nat) {i : Nat} (h : i < 8) {q : VSlot} (hq : q.fits) : (v.setVslot a i q).vslot a i = q := by
  have hread : mread (v.setVslot a i q).hbm.mem (a + 8 * i) 8 = toBytes (encVSlot q).toNat 8 := by
    have := mread_mwrite v.hbm.mem (a + 8 * i) (toBytes (encVSlot q).toNat 8)
    rwa [toBytes_length] at this
  rw [Dev.vslot, Dev.wd_recWords _ _ h, hread, ofBytes_toBytes, Nat.mod_eq_of_lt (show (encVSlot q).toNat < 256 ^ 8 from (encVSlot q).isLt),
    w64, BitVec.ofNat_toNat, BitVec.setWidth_eq, decVSlot_encVSlot hq]

/-- A write beside a slot's eight bytes leaves the slot as it was. -/
theorem Dev.vslot_stkPut_beside (v : Dev) {a i b : Nat} (h : i < 8) {bs : List Byte} (hb : a + 8 * i + 8 ≤ b ∨ b + bs.length ≤ a + 8 * i) :
    (v.stkPut b bs).vslot a i = v.vslot a i := by
  have hread : mread (v.stkPut b bs).hbm.mem (a + 8 * i) 8 = mread v.hbm.mem (a + 8 * i) 8 := mread_mwrite_outside _ _ _ hb
  rw [Dev.vslot, Dev.wd_recWords _ _ h, hread, ← Dev.wd_recWords _ _ h, Dev.vslot]

/-! ### Version operations (R463) -/

/-- An operation misses its slot: another tag, or the slot is not READY. -/
def VSlot.missed (q : VSlot) (n : Nat) : Bool := decide (q.tag ≠ n / 2 ^ 32) || decide (q.state ≠ 1)
/-- The slot after an operation: ACQ counts a reader, any other REL takes one away. -/
def VSlot.operated (q : VSlot) (n : Nat) : VSlot :=
  let acq := decide (n / 4 % 4 = 1)
  { q with
    readers := if acq then satAdd q.readers 1 65535 else q.readers - 1
    mismatch := q.mismatch || q.missed n
    misuse := q.misuse || if acq then decide (q.readers = 65535) else decide (q.readers = 0) }

theorem VSlot.operated_fits {q : VSlot} (h : q.fits) (n : Nat) : (q.operated n).fits := by
  obtain ⟨htag, hreaders, hstate⟩ := h
  refine ⟨htag, ?_, hstate⟩
  simp only [VSlot.operated, satAdd]
  split <;> omega

/-- Stack memory after a version operation: its slot, and where it missed the record's count of mismatches. -/
theorem Dev.versionOp_mem (v : Dev) (a n : Nat) :
    let v1 := v.setVslot a (n % 4) ((v.vslot a (n % 4)).operated n)
    (v.versionOp a n).hbm.mem =
      (if (v.vslot a (n % 4)).missed n then v1.stkPut (a + 32) (toBytes (satAdd (wd (v1.recWords a 8) 4).toNat 1 (2 ^ 64 - 1)) 8) else v1).hbm.mem := by
  intro v1
  have hmem : ∀ (u : Dev) (i die src code x y : Nat) (g : Stack → Stack), ((u.modStk i g).ev die src code x y).hbm.mem = u.hbm.mem :=
    fun _ _ _ _ _ _ _ _ => rfl
  have hv1 : v1 = v.setVslot a (n % 4) ((v.vslot a (n % 4)).operated n) := rfl
  clear_value v1
  unfold Dev.versionOp
  extract_lets i acq tag q ch bad mis rd u1 count u2
  have hu1 : u1 = v1 := hv1.symm
  have hcounted : u2.hbm.mem = (if bad then u1.stkPut (a + 32) (toBytes count 8) else u1).hbm.mem := by
    unfold u2
    split
    · exact hmem _ _ _ _ _ _ _ _
    · rfl
  have hcount : count = satAdd (wd (v1.recWords a 8) 4).toNat 1 (2 ^ 64 - 1) := by
    unfold count
    rw [hu1]
  rw [hcount, hu1] at hcounted
  split
  · exact (hmem _ _ _ _ _ _ _ _).trans hcounted
  · exact hcounted

theorem Dev.versionOp_vslot (v : Dev) (a n : Nat) : (v.versionOp a n).vslot a (n % 4) = (v.vslot a (n % 4)).operated n := by
  have hi : n % 4 < 4 := Nat.mod_lt _ (by decide)
  have hset := v.vslot_setVslot a (i := n % 4) (by omega) (VSlot.operated_fits (decVSlot_fits (wd (v.recWords a 8) (n % 4))) n)
  rw [Dev.vslot_congr (v.versionOp_mem a n)]
  split
  · rw [Dev.vslot_stkPut_beside _ (by omega) (.inl (by omega))]
    exact hset
  · exact hset

theorem Dev.versionOp_frame (v : Dev) (a n : Nat) {b : Nat} (h : b < a ∨ a + 64 ≤ b) : mget (v.versionOp a n).hbm.mem b = mget v.hbm.mem b := by
  have hi : n % 4 < 4 := Nat.mod_lt _ (by decide)
  have hset : ∀ q, mget (v.setVslot a (n % 4) q).hbm.mem b = mget v.hbm.mem b := fun q =>
    mget_mwrite_outside _ _ _ (by rw [toBytes_length]; omega)
  rw [v.versionOp_mem a n]
  split
  · exact (mget_mwrite_outside _ _ _ (by rw [toBytes_length]; omega)).trans (hset _)
  · exact hset _

/-! ### Granule tasks (R331, R426, R430) -/

/-- A task's effect on stack memory is a function of stack memory. -/
theorem Dev.applyTask_mem_congr {v w : Dev} (h : w.hbm.mem = v.hbm.mem) (t : EngTask) : (w.applyTask t).hbm.mem = (v.applyTask t).hbm.mem := by
  have hstk : ∀ a n, w.stk8 a n = v.stk8 a n := fun a n => by rw [Dev.stk8, h, Dev.stk8]
  have hrec : ∀ a n, w.recWords a n = v.recWords a n := fun a n => Dev.recWords_congr h a n
  have hput : ∀ a bs, (w.stkPut a bs).hbm.mem = (v.stkPut a bs).hbm.mem := fun a bs => congrArg (fun m => mwrite m a bs) h
  cases t with
  | write off data => exact hput _ _
  | copy dst src => rw [Dev.applyTask, hstk]; exact hput _ _
  | fill dst pat => exact hput _ _
  | atomic op off data =>
    unfold Dev.applyTask
    dsimp only
    split
    · exact h
    · rw [hstk]; exact hput _ _
  | merge r st => rw [Dev.applyTask, hrec]; exact hput _ _
  | version r d =>
    have hset : ∀ q, (w.setVslot r (d % 4) q).hbm.mem = (v.setVslot r (d % 4) q).hbm.mem := fun q => hput _ _
    change (w.versionOp r d).hbm.mem = (v.versionOp r d).hbm.mem
    rw [w.versionOp_mem r d, v.versionOp_mem r d, Dev.vslot_congr h, Dev.recWords_congr (hset _)]
    split
    · exact congrArg (fun m => mwrite m (r + 32) _) (hset _)
    · exact hset _

/-- What the course of a task depends on reads the same in both. -/
structure Dev.SameTasks (v w : Dev) : Prop where
  mem : w.hbm.mem = v.hbm.mem
  busy : w.hbm.busy = v.hbm.busy
  chanOf : w.hbm.chanOf = v.hbm.chanOf
  queue : ∀ c, (w.chan c).queue = (v.chan c).queue
  retraining : ∀ c, (w.chan c).retraining = (v.chan c).retraining
  moult : w.moult = v.moult

theorem Dev.SameTasks.refl (v : Dev) : v.SameTasks v := ⟨rfl, rfl, rfl, fun _ => rfl, fun _ => rfl, rfl⟩
theorem Dev.SameTasks.trans {u v w : Dev} (h : u.SameTasks v) (g : v.SameTasks w) : u.SameTasks w :=
  ⟨g.mem.trans h.mem, g.busy.trans h.busy, g.chanOf.trans h.chanOf, fun c => (g.queue c).trans (h.queue c),
    fun c => (g.retraining c).trans (h.retraining c), g.moult.trans h.moult⟩
theorem Dev.SameTasks.forAll {α : Type} {f : Dev → α → Dev} (h : ∀ (u : Dev) (x : α), u.SameTasks (f u x)) (xs : List α) (v : Dev) :
    v.SameTasks (v.forAll xs f) := by
  induction xs generalizing v with
  | nil => exact Dev.SameTasks.refl v
  | cons x r ih => exact (h v x).trans (ih (f v x))

theorem Dev.SameTasks.mustHold_eq {v w : Dev} (h : v.SameTasks w) (t : EngTask) : w.mustHold t = v.mustHold t := by
  rw [Dev.mustHold, h.busy, h.moult, Dev.mustHold]

theorem Dev.modChan_corr_sameTasks (v : Dev) (c n : Nat) : v.SameTasks (v.modChan c (fun q => { q with corr := satAdd q.corr 1 n })) where
  mem := rfl
  busy := rfl
  chanOf := rfl
  queue := fun x => by
    by_cases hx : x = c
    · rw [hx, Dev.chan_modChan_same]
    · rw [Dev.chan_modChan_ne _ _ _ hx]
  retraining := fun x => by
    by_cases hx : x = c
    · rw [hx, Dev.chan_modChan_same]
    · rw [Dev.chan_modChan_ne _ _ _ hx]
  moult := rfl

/-- Corrected errors are counted, and bear on no task (R416). -/
theorem Dev.softErrs_sameTasks (v : Dev) (a n : Nat) : v.SameTasks (v.softErrs a n) := by
  unfold Dev.softErrs
  dsimp only
  generalize (if n = 0 then [] else v.hbm.stkSoft.filter _) = gs
  split
  · exact Dev.SameTasks.refl v
  · have hsoft : v.SameTasks (v.modHbm (fun h => { h with stkSoft := h.stkSoft.filter (fun g => !gs.contains g) })) :=
      ⟨rfl, rfl, rfl, fun _ => rfl, fun _ => rfl, rfl⟩
    exact hsoft.trans (Dev.SameTasks.forAll (fun u g => u.modChan_corr_sameTasks (u.hbm.chanOf (g * 64)) 65535) gs _)

theorem Dev.Within.chan_eq {F : List Part} {v w : Dev} (h : Dev.Within F v w) (hp : Part.channels ∉ F) (c : Nat) : w.chan c = v.chan c := by
  have hc : w.hbm.chans = v.hbm.chans := h.1 .channels hp
  rw [Dev.chan, hc, Dev.chan]

/-- A task that need not be held takes effect, and keeps a slot of its channel's queue while the channel retrains (R413, R426). -/
theorem Dev.submit_now {v : Dev} {t : EngTask} (h : v.mustHold t = false) (req : Nat) (owner : Option Owner) :
    (v.submit t req owner).hbm.mem = (v.applyTask t).hbm.mem ∧ (v.submit t req owner).moult.held = v.moult.held ∧
    ((v.submit t req owner).chan (v.hbm.chanOf (taskDst t))).queue = (v.chan (v.hbm.chanOf (taskDst t))).queue ++
      (if (v.chan (v.hbm.chanOf (taskDst t))).retraining then [t] else []) := by
  unfold Dev.submit
  dsimp only
  rw [if_neg (by simp [h])]
  generalize v.hbm.chanOf (taskDst t) = ch
  split
  · have hslot := Dev.tookSlot_within (v.modChan ch (fun c => { c with queue := c.queue ++ [t] })) ch
    have htask := Dev.applyTask_within ((v.modChan ch (fun c => { c with queue := c.queue ++ [t] })).tookSlot ch) t
    have hmem : ((v.modChan ch (fun c => { c with queue := c.queue ++ [t] })).tookSlot ch).hbm.mem = v.hbm.mem := hslot.mem_eq (by decide)
    refine ⟨Dev.applyTask_mem_congr hmem t, ?_, ?_⟩
    · rw [htask.held_eq (by decide), hslot.held_eq (by decide)]
      rfl
    · rw [htask.chan_eq (by decide), hslot.chan_eq (by decide), Dev.chan_modChan_same]
  · have htask := Dev.applyTask_within v t
    exact ⟨rfl, htask.held_eq (by decide), by rw [htask.chan_eq (by decide), List.append_nil]⟩

/-- A task that must be held joins the held writes, and touches no byte (R440, R573). -/
theorem Dev.submit_held {v : Dev} {t : EngTask} (h : v.mustHold t = true) (req : Nat) (owner : Option Owner) :
    (v.submit t req owner).hbm.mem = v.hbm.mem ∧
    (v.submit t req owner).moult.held = v.moult.held ++ [{ task := t, req := req, owner := owner }] := by
  unfold Dev.submit
  dsimp only
  rw [if_pos h]
  have hslot := Dev.tookSlot_within (v.modHeld (fun hs => hs ++ [{ task := t, req := req, owner := owner }])
    (fun ps => if !v.moult.stale (taskDst t / 65536) || ps.contains (taskDst t / 65536) then ps else ps ++ [taskDst t / 65536]))
    (v.hbm.chanOf (taskDst t))
  exact ⟨hslot.mem_eq (by decide), hslot.held_eq (by decide)⟩

/-- The errors its spans have corrected aside, a task that arrives is submitted. -/
theorem Dev.engineTask_submits {v : Dev} {ch : Nat} {t : EngTask} (hg : taskGood t = true) (hd : taskDst t < stackEnd)
    (hc : v.hbm.chanOf (taskDst t) = ch) (hs : v.slots ch < 64) (hp : ∀ e ∈ taskSpans t, v.pathAt e.1 e.2 = none) :
    v.engineTask ch t = ((v.forAll (taskSpans t) (fun u e => u.softErrs e.1 e.2)).submit t (48 + ch / 32) none).releaseHeld := by
  have hpath : (taskSpans t).findSome? (fun e => v.pathAt e.1 e.2) = none := List.findSome?_eq_none_iff.mpr hp
  unfold Dev.engineTask
  rw [if_neg (by simp [hg, hc, Nat.not_le.mpr hd, Nat.not_le.mpr hs]), hpath]

theorem Dev.engineTask_full {v : Dev} {ch : Nat} {t : EngTask} (hs : 64 ≤ v.slots ch) : v.engineTask ch t = v := if_pos (by simp [hs])

/-! ### Writes into the version and atomic windows (R427 to R430, R462) -/

/-- A well-formed, permitted write into the version window operates on its record, and held updates are then considered (R462). -/
theorem Dev.versionWrite_operates {v : Dev} {die op x : Nat} {a : W64} {data : List Byte} (hop : op = 1 ∨ op = 2) (hplace : placeOf a.toNat = .version x)
    (hx : x % 64 = 0) (hl : data.length = 8) (hd : bits (ofBytes data) 3 2 = op) (hz : bits (ofBytes data) 31 4 = 0)
    (hperm : v.permits die a.toNat 8 true false = true) (hpath : v.pathAt x 64 = none) (hm : v.moult.active = false) (hb : v.hbm.busy = false)
    (hq : v.queueFull x 64 = false) : ∃ u : Dev, v.versionWrite die a data op = u.releaseHeld ∧ u.hbm.mem = (v.versionOp x (ofBytes data)).hbm.mem := by
  have hform : x % 64 = 0 ∧ data.length = 8 ∧ (bits (ofBytes data) 3 2 = 1 ∨ bits (ofBytes data) 3 2 = 2) ∧ bits (ofBytes data) 31 4 = 0 :=
    ⟨hx, hl, hd ▸ hop, hz⟩
  have hwr : (v.wrModule die a.toNat data (74 + die) none none).2 = (v.softErrs x 64).submit (.version x (ofBytes data)) (74 + die) none := by
    unfold Dev.wrModule
    rw [hplace]
    dsimp only
    rw [if_pos hform, hpath]
  have hsame := v.softErrs_sameTasks x 64
  have hnow : (v.softErrs x 64).mustHold (.version x (ofBytes data)) = false := by
    rw [hsame.mustHold_eq]
    simp [Dev.mustHold, Moult.stale, hm, hb]
  refine ⟨_, ?_, (Dev.submit_now hnow (74 + die) none).1.trans (Dev.applyTask_mem_congr hsame.mem _)⟩
  unfold Dev.versionWrite
  rw [hplace]
  dsimp only
  rw [hq, hl, hperm, hd, hwr]
  simp

theorem elZip_length (ty op n : Nat) (xs ys : List Byte) : (elZip ty op n xs ys).length = n * elBytes ty := by
  induction n generalizing xs ys with
  | zero => simp [elZip]
  | succ n ih => simp only [elZip, List.length_append, toBytes_length, ih, Nat.succ_mul, Nat.add_comm]

/-- An atomic write combines whole elements. -/
theorem elements_of_atomicGood {op off n ty o : Nat} (hg : atomicGood op off n = true) (hk : atomicKind op = some (ty, o)) :
    n / elBytes ty * elBytes ty = n := by
  simp only [atomicGood, hk, Bool.and_eq_true, decide_eq_true_eq] at hg
  obtain ⟨⟨⟨-, -⟩, hn⟩, -⟩ := hg
  exact Nat.div_mul_cancel (Nat.dvd_of_mod_eq_zero hn)

theorem Dev.atomicWrite_combines {v : Dev} {die req op off ty o : Nat} {a : W64} {data : List Byte} (hplace : placeOf a.toNat = .atomic op off)
    (hreq : ownRequester req = true) (hperm : v.permits die a.toNat data.length true false = true) (hg : atomicGood op off data.length = true)
    (hk : atomicKind op = some (ty, o)) (hpath : v.pathAt off data.length = none) (hs : v.moult.stale (off / 65536) = false)
    (hb : v.hbm.busy = false) (hq : v.queueFull off data.length = false) :
    (v.atomicWrite die req a data).hbm.mem = mwrite v.hbm.mem off (elZip ty o (data.length / elBytes ty) (v.stk8 off data.length) data) := by
  have hwr : (v.wrModule die a.toNat data req none none).2 = (v.softErrs off data.length).submit (.atomic op off data) req none := by
    unfold Dev.wrModule
    rw [hplace]
    dsimp only
    rw [if_pos hg, hpath]
  have hsame := v.softErrs_sameTasks off data.length
  have hnow : (v.softErrs off data.length).mustHold (.atomic op off data) = false := by
    rw [hsame.mustHold_eq]
    simp [Dev.mustHold, taskDst, hs, hb]
  have hmem : (v.applyTask (.atomic op off data)).hbm.mem =
      mwrite v.hbm.mem off (elZip ty o (data.length / elBytes ty) (v.stk8 off data.length) data) := by
    unfold Dev.applyTask
    dsimp only
    rw [hk]
    rfl
  unfold Dev.atomicWrite
  rw [hplace]
  dsimp only
  rw [hq, hreq, hperm, hwr]
  exact (Dev.submit_now hnow req none).1.trans ((Dev.applyTask_mem_congr hsame.mem _).trans hmem)

/-! ### The region table (R313, R314, R318) -/

/-- What a refused write leaves: the table as it was, and the check in RGN_STATUS. -/
theorem Dev.rgnRefuse_effect (v : Dev) (die n code : Nat) : (∀ i, (v.rgnRefuse die n code).rgnE i = v.rgnE i) ∧
    (v.rgnRefuse die n code).rgnSt die = { err := code, errEntry := n, errValid := true } :=
  ⟨fun _ => rfl, Dev.rgnSt_modRgnSt_same _ _ _⟩

/-- A value that is taken changes its own entry; an update of the tracked bits that it starts changes none (R571). -/
theorem Dev.rgnSet_effect (v : Dev) (k : Nat) (old new : Rgn) :
    let w := (v.modRgnE k (fun _ => new)).rgnTouch old new
    (∀ i, i ≠ k → w.rgnE i = v.rgnE i) ∧ w.rgnE k = new ∧ ∀ i, w.rgnSt i = v.rgnSt i := by
  intro w
  have htouch : (∀ i, w.rgnE i = (v.modRgnE k (fun _ => new)).rgnE i) ∧ ∀ i, w.rgnSt i = v.rgnSt i := by
    unfold w Dev.rgnTouch
    split <;> exact ⟨fun _ => rfl, fun _ => rfl⟩
  obtain ⟨hentry, hstat⟩ := htouch
  exact ⟨fun i h => (hentry i).trans (Dev.rgnE_modRgnE_ne _ _ _ h), (hentry k).trans (Dev.rgnE_modRgnE_same _ _ _), hstat⟩

/-- EN is 0 in a value without bit 0. -/
theorem Rgn.en_cleared (r : Rgn) (x : W32) : ({ r with attr := x &&& ~~~1#32 } : Rgn).en = false := by
  simp [Rgn.en, bit]

/-- The value a write of x gives an entry that takes it: bits 12 to 0. -/
def Rgn.written (r : Rgn) (x : W32) : Rgn := { r with attr := w32 (bits x.toNat 12 0) }

section
variable {v : Dev} {die n : Nat} {x : W32} {old : Rgn} (ho : v.rgnE (die * 256 + n) = old)
include ho

/-- SIZE and TRACK of an enabled entry stand (R318). -/
theorem Dev.rgnAttrWrite_locked (hl : old.en = true ∧ ((old.written x).size ≠ old.size ∨ (old.written x).track ≠ old.track)) :
    v.rgnAttrWrite die n x = v.rgnRefuse die n 5 := by
  subst ho
  exact if_pos hl

/-- An enable that fails a check leaves EN 0 (R314). -/
theorem Dev.rgnAttrWrite_fails {c : Nat} (he : old.en = false) (hw : (old.written x).en = true)
    (hc : v.rgnCheck die n old.base (old.written x).attr = some c) :
    v.rgnAttrWrite die n x = (v.modRgnE (die * 256 + n) (fun r => { r with attr := (old.written x).attr &&& ~~~1#32 })).rgnRefuse die n c := by
  subst ho
  have hc' : v.rgnCheck die n (v.rgnE (die * 256 + n)).base (w32 (bits x.toNat 12 0)) = some c := hc
  unfold Dev.rgnAttrWrite
  dsimp only
  rw [if_neg (by simp [he]), if_pos ⟨hw, by simp [he]⟩, hc']
  rfl

/-- Any other value is taken, an enable once it passes the checks (R313, R314). -/
theorem Dev.rgnAttrWrite_takes (hl : ¬(old.en = true ∧ ((old.written x).size ≠ old.size ∨ (old.written x).track ≠ old.track)))
    (hc : old.en = false → (old.written x).en = true → v.rgnCheck die n old.base (old.written x).attr = none) :
    v.rgnAttrWrite die n x = (v.modRgnE (die * 256 + n) (fun _ => old.written x)).rgnTouch old (old.written x) := by
  subst ho
  unfold Dev.rgnAttrWrite
  dsimp only
  refine (if_neg hl).trans ?_
  split
  · next hnew =>
    have hnone : v.rgnCheck die n (v.rgnE (die * 256 + n)).base (w32 (bits x.toNat 12 0)) = none := hc (by simpa using hnew.2) hnew.1
    rw [hnone]
    rfl
  · rfl

end

/-! ### The die bridge (R157) -/

/-- A unit's count of failed transfers. -/
def Dev.bridgeFailed (v : Dev) (die i : Nat) : Nat := tget 0 (v.fabD die).bridgeFails i
/-- A unit's count is set. -/
def Dev.bridgeSet (v : Dev) (die i n : Nat) : Dev := v.modFabD die (fun f => { f with bridgeFails := tset 0 f.bridgeFails i n })

theorem Dev.bridgeFailed_bridgeSet_same (v : Dev) (die i n : Nat) : (v.bridgeSet die i n).bridgeFailed die i = n := by
  simp [Dev.bridgeFailed, Dev.bridgeSet]
theorem Dev.bridgeFailed_bridgeSet_ne (v : Dev) (die n : Nat) {i j : Nat} (h : j ≠ i) :
    (v.bridgeSet die i n).bridgeFailed die j = v.bridgeFailed die j := by
  simp [Dev.bridgeFailed, Dev.bridgeSet, tget_tset_ne _ _ _ h]

theorem Dev.Within.bridgeFails_eq {F : List Part} {v w : Dev} (h : Dev.Within F v w) (hp : Part.fabric ∉ F) (die : Nat) :
    (w.fabD die).bridgeFails = (v.fabD die).bridgeFails := by
  have hf : w.fab = v.fab := h.1 .fabric hp
  rw [Dev.fabD, hf, Dev.fabD]

/-- Answers that a DMA channel drops are no transfers that have failed. -/
theorem Dev.dmaForget_bridgeFails (v : Dev) (c n die : Nat) : ((v.dmaForget c n).fabD die).bridgeFails = (v.fabD die).bridgeFails := by
  unfold Dev.dmaForget
  dsimp only
  by_cases hd : die = coreDie c
  · rw [hd, Dev.fabD_modFabD_same]
  · rw [Dev.fabD_modFabD_ne _ _ _ hd]

/-- Withdrawing an entry leaves the counts of failed transfers (R560). -/
theorem Dev.withdrawOne_bridgeFails (v : Dev) (k : Nat) (f : Flight) (die : Nat) :
    ((v.withdrawOne k f).fabD die).bridgeFails = (v.fabD die).bridgeFails := by
  unfold Dev.withdrawOne
  extract_lets prog v1
  have hv1 : (v1.fabD die).bridgeFails = (v.fabD die).bridgeFails := rfl
  split
  · exact ((Dev.versionAbort_within v1 k f).bridgeFails_eq (by decide) die).trans hv1
  · split
    · rw [(Dev.dmaDrain_within _ _ _).bridgeFails_eq (by decide), (Dev.modDmaCh_within _ _ _ _).bridgeFails_eq (by decide), Dev.dmaForget_bridgeFails, hv1]
    · rw [(Dev.modDmaCh_within _ _ _ _).bridgeFails_eq (by decide), hv1]
  all_goals exact hv1

theorem Dev.stopSched_bridgeFails (v : Dev) (id die : Nat) : ((v.stopSched id).fabD die).bridgeFails = (v.fabD die).bridgeFails := by
  have hone : ∀ (u : Dev) (k : Nat), ((u.withdrawWaiting k).fabD die).bridgeFails = (u.fabD die).bridgeFails := fun u k =>
    Dev.forAll_keeps (fun w => (w.fabD die).bridgeFails) (fun w f => by
      split
      · exact Dev.withdrawOne_bridgeFails w k f die
      · rfl) _ u
  unfold Dev.stopSched
  dsimp only
  rw [Dev.forAll_keeps (fun w => (w.fabD die).bridgeFails) hone]
  exact Dev.forAll_keeps (fun w => (w.fabD die).bridgeFails) (f := fun u k => u.modStrm k _) (fun _ _ => rfl) _ _

/-- A fault on a die leaves the counts of failed transfers. -/
theorem Dev.dieFault_bridgeFails (v : Dev) (die' cause : Nat) (at? : Option (Nat × Nat)) (detail : W64) (ids : List Nat) (die : Nat) :
    ((v.dieFault die' cause at? detail ids).fabD die).bridgeFails = (v.fabD die).bridgeFails := by
  have hstop : ∀ (u : Dev) (id : Nat), ((u.stopSched id).fabD die).bridgeFails = (u.fabD die).bridgeFails := fun u id => u.stopSched_bridgeFails id die
  unfold Dev.dieFault
  extract_lets r v1 live v2 v3
  split
  · have h2 : (v2.fabD die).bridgeFails = (v1.fabD die).bridgeFails := by
      refine Dev.forAll_keeps (fun w => (w.fabD die).bridgeFails) ?_ live v1
      exact fun u id => hstop _ id
    have h3 : (v3.fabD die).bridgeFails = (v2.fabD die).bridgeFails := by
      unfold v3
      split <;> rfl
    exact ((Dev.ev_within _ _ _ _ _ _).bridgeFails_eq (by decide) die).trans (h3.trans h2)
  · unfold Dev.beginCapture
    dsimp only
    rw [Dev.forAll_keeps (fun w => (w.fabD die).bridgeFails) hstop]
    exact Dev.forAll_keeps (fun w => (w.fabD die).bridgeFails) (f := fun u id => u.modSched id _) (fun _ _ => rfl) _ _

/-- A bad transfer counts, up to the eighth in a row. -/
theorem Dev.bridgeTransfer_counts {v : Dev} {die : Nat} {unit : Option Nat} (h : v.bridgeFailed die (bridgeKey unit) < 8) :
    v.bridgeTransfer die unit true = v.bridgeSet die (bridgeKey unit) (v.bridgeFailed die (bridgeKey unit) + 1) := if_pos h

/-- The ninth bad transfer in a row is a fault of the die that names no stream. -/
theorem Dev.bridgeTransfer_faults {v : Dev} {die : Nat} {unit : Option Nat} (h : 8 ≤ v.bridgeFailed die (bridgeKey unit)) :
    ∃ ids, v.bridgeTransfer die unit true = (v.bridgeSet die (bridgeKey unit) 0).dieFault die 0x43 none 0#64 ids :=
  ⟨_, if_neg (Nat.not_lt.mpr h)⟩

theorem Dev.dieFault_captures {v : Dev} {die : Nat} (hc : (v.flt die).capturing = false) (hv : (v.flt die).valid = false) (cause : Nat)
    (at? : Option (Nat × Nat)) (detail : W64) (ids : List Nat) : v.dieFault die cause at? detail ids = v.beginCapture die cause at? detail ids := by
  simp [Dev.dieFault, hc, hv]

/-! ### The commands, clause by clause -/

/-- VERSION_ACQ and VERSION_REL are writes into the version window; what each leaves of a slot is what its operation does (R462, R463). -/
theorem versionCommand_operates (d : DieId) (s : State) (a : W64) (data : List Byte) (q : VSlot) :
    ∀ y ∈ [(Instr.versionAcq d a data, 1, satAdd q.readers 1 65535, decide (q.readers = 65535)),
        (.versionRel d a data, 2, q.readers - 1, decide (q.readers = 0))],
      (y.2.1 = 1 ∨ y.2.1 = 2) ∧ exec y.1 s = .next (s.ends (s.dev.versionWrite d a data y.2.1)) ∧
      (bits (ofBytes data) 3 2 = y.2.1 → q.operated (ofBytes data) =
        { q with readers := y.2.2.1, mismatch := q.mismatch || q.missed (ofBytes data), misuse := q.misuse || y.2.2.2 }) := by
  refine List.forall_mem_cons.mpr ⟨⟨.inl rfl, rfl, fun h => ?_⟩, List.forall_mem_singleton.mpr ⟨.inr rfl, rfl, fun h => ?_⟩⟩
  · have hacq : ofBytes data / 4 % 4 = 1 := h
    simp [VSlot.operated, hacq]
  · have hrel : ofBytes data / 4 % 4 = 2 := h
    simp [VSlot.operated, hrel]

/-- Settles O44: each command is one task, one entry of the table or one count, and what follows it leaves that. -/
theorem tasksAndRegionsComplete : Obligations.TasksAndRegionsComplete := by
  intro d s v
  refine ⟨?version, ?atomic, ?task, ?region, ?bridge⟩
  case version =>
    intro a data x n q bad y hy hplace hx hl hd hz hperm hpath hm hb hq
    obtain ⟨hop, hexec, hslot⟩ := versionCommand_operates d s a data q y hy
    obtain ⟨u, hu, hmem⟩ := Dev.versionWrite_operates hop hplace hx hl hd hz hperm hpath hm hb hq
    refine ⟨u, hexec.trans (by rw [hu]), ?_, fun b h => ?_⟩
    · rw [Dev.vslot_congr hmem, Dev.versionOp_vslot]
      exact hslot hd
    · rw [hmem]
      exact v.versionOp_frame x n h
  case atomic =>
    intro req a data op off ty o hplace hreq hperm hg hk hpath hs hb hq
    have hmem := Dev.atomicWrite_combines hplace hreq hperm hg hk hpath hs hb hq
    have hlen : (elZip ty o (data.length / elBytes ty) (v.stk8 off data.length) data).length = data.length :=
      (elZip_length _ _ _ _ _).trans (elements_of_atomicGood hg hk)
    refine ⟨_, rfl, ?_, fun b h => ?_⟩
    · have hread := mread_mwrite v.hbm.mem off (elZip ty o (data.length / elBytes ty) (v.stk8 off data.length) data)
      rw [hlen] at hread
      rw [Dev.stk8, hmem]
      exact hread
    · rw [hmem]
      exact mget_mwrite_outside _ _ _ (by rw [hlen]; exact h)
  case task =>
    intro ch t hg hd hc
    refine ⟨fun hs hp => ?_, fun hs => ?_⟩
    · have hsame : v.SameTasks (v.forAll (taskSpans t) (fun u e => u.softErrs e.1 e.2)) := 
        Dev.SameTasks.forAll (fun u (e : Nat × Nat) => u.softErrs_sameTasks e.1 e.2) _ _
      have hexec : exec (.engineTask ch t) s = .next (s.ends _) :=
        congrArg (fun w => Host.Outcome.next (s.ends w)) (Dev.engineTask_submits hg hd hc hs hp)
      generalize v.forAll (taskSpans t) (fun u e => u.softErrs e.1 e.2) = w at hsame hexec
      refine ⟨fun hh => ?_, fun hh => ?_⟩
      · obtain ⟨hmem, hheld, hqueue⟩ := Dev.submit_now ((hsame.mustHold_eq t).trans hh) (48 + ch / 32) none
        rw [hsame.chanOf, hc, hsame.queue, hsame.retraining] at hqueue
        exact ⟨_, hexec, hmem.trans (Dev.applyTask_mem_congr hsame.mem t), hheld.trans (by rw [hsame.moult]), hqueue⟩
      · obtain ⟨hmem, hheld⟩ := Dev.submit_held ((hsame.mustHold_eq t).trans hh) (48 + ch / 32) none
        exact ⟨_, hexec, hmem.trans hsame.mem, hheld.trans (by rw [hsame.moult])⟩
    · change Host.Outcome.next (s.ends (v.engineTask ch t)) = _
      rw [Dev.engineTask_full hs, State.ends_self]
  case region =>
    intro n x k old new
    refine ⟨v.rgnAttrWrite d n x, rfl, ?_⟩
    by_cases hlock : old.en = true ∧ (new.size ≠ old.size ∨ new.track ≠ old.track)
    · obtain ⟨hentry, hstat⟩ := v.rgnRefuse_effect d n 5
      rw [Dev.rgnAttrWrite_locked rfl hlock]
      exact ⟨fun i _ => hentry i, congrArg Rgn.base (hentry k), fun _ _ => ⟨hentry k, hstat⟩, fun h => absurd hlock.1 (by simp [h]),
        fun hs => absurd hlock.2 (by simp [hs hlock.1])⟩
    · by_cases hfail : old.en = false ∧ new.en = true ∧ ∃ c, v.rgnCheck d n old.base new.attr = some c
      · obtain ⟨hold, hnew, c, hc⟩ := hfail
        obtain ⟨hentry, hstat⟩ := (v.modRgnE k (fun r => { r with attr := new.attr &&& ~~~1#32 })).rgnRefuse_effect d n c
        have hsame := (hentry k).trans (Dev.rgnE_modRgnE_same _ _ _)
        rw [Dev.rgnAttrWrite_fails rfl hold hnew hc]
        refine ⟨fun i h => (hentry i).trans (Dev.rgnE_modRgnE_ne _ _ _ h), (congrArg Rgn.base hsame :), fun h => absurd h (by simp [hold]),
          fun _ _ => ⟨fun c' hc' => ?_, fun h => absurd hc (by simp [h])⟩, fun _ h => absurd h (by simp [hold, hnew])⟩
        obtain rfl : c = c' := Option.some.inj (hc.symm.trans hc')
        exact ⟨(congrArg Rgn.en hsame).trans (Rgn.en_cleared _ _), hstat⟩
      · obtain ⟨hentry, hsame, hstat⟩ := v.rgnSet_effect k old new
        have hnone : old.en = false → new.en = true → v.rgnCheck d n old.base new.attr = none := fun hold hnew =>
          Option.eq_none_iff_forall_not_mem.mpr fun c hc => hfail ⟨hold, hnew, c, hc⟩
        rw [Dev.rgnAttrWrite_takes rfl hlock hnone]
        exact ⟨hentry, (congrArg Rgn.base hsame :), fun h hne => absurd ⟨h, hne⟩ hlock,
          fun hold hnew => ⟨fun c hc => absurd hc (by simp [hnone hold hnew]), fun _ => ⟨hsame, hstat d⟩⟩, fun _ _ => ⟨hsame, hstat d⟩⟩
  case bridge =>
    intro unit j fails
    refine ⟨⟨_, rfl, v.bridgeFailed_bridgeSet_same d j 0, fun i h => v.bridgeFailed_bridgeSet_ne d 0 h⟩,
      v.bridgeTransfer d (unit.map (fun k => k.val)) true, rfl, ?_⟩
    rcases Nat.lt_or_ge (v.bridgeFailed d j) 8 with hlt | hge
    · rw [Dev.bridgeTransfer_counts hlt]
      exact ⟨fun i h => v.bridgeFailed_bridgeSet_ne d _ h, fun _ => ⟨v.bridgeFailed_bridgeSet_same d j _, rfl⟩, fun h => absurd hlt (Nat.not_lt.mpr h)⟩
    · obtain ⟨ids, hfault⟩ := Dev.bridgeTransfer_faults hge
      have hkeep : ∀ i, ((v.bridgeSet d j 0).dieFault d 0x43 none 0#64 ids).bridgeFailed d i = (v.bridgeSet d j 0).bridgeFailed d i := fun i => by
        rw [Dev.bridgeFailed, Dev.dieFault_bridgeFails, Dev.bridgeFailed]
      rw [hfault]
      refine ⟨fun i h => (hkeep i).trans (v.bridgeFailed_bridgeSet_ne d 0 h), fun h => absurd h (Nat.not_lt.mpr hge), fun _ =>
        ⟨(hkeep j).trans (v.bridgeFailed_bridgeSet_same d j 0), fun hv hc => ?_⟩⟩
      rw [Dev.dieFault_captures (v := v.bridgeSet d j 0) hc hv, Dev.beginCapture_flt, Dev.capHeader, Dev.flt_modFlt_same]
      exact ⟨rfl, rfl, rfl⟩

end Sys2Proof.Machine

/-! Released fault records and tested cores (16), and from them O52. -/

namespace Sys2Proof.Machine

/-! ### Release of a fault record (R566) -/

theorem Dev.releaseRecord_none {v : Dev} {die : Nat} {x : W32} (hx : bit x.toNat 0 = true) (hv : (v.flt die).valid = true)
    (hl : v.lateScheds die = []) : v.releaseRecord die x = v.modFlt die (fun r => { r with valid := false, pending := false }) := by
  have hl' : (v.modFlt die (fun r => { r with valid := false, pending := false })).lateScheds die = [] := hl
  simp [Dev.releaseRecord, hx, hv, hl']

/-- With faults waiting, a LATE record of the earliest takes the released one's place. -/
theorem Dev.releaseRecord_late {v : Dev} {die : Nat} {x : W32} {e : Nat × LateFault} {r : List (Nat × LateFault)} (hx : bit x.toNat 0 = true)
    (hv : (v.flt die).valid = true) (hl : v.lateScheds die = e :: r) : v.releaseRecord die x =
      ((((v.modFlt die (fun r => { r with valid := false, pending := false })).cutShort ((e :: r).map Prod.fst)).capHeader die e.2.cause e.2.strm
        e.2.detail ((e :: r).map Prod.fst)).closeRecord die false true) := by
  have hl' : (v.modFlt die (fun r => { r with valid := false, pending := false })).lateScheds die = e :: r := hl
  simp only [Dev.releaseRecord, hx, hv, hl', Bool.not_true, Bool.or_self, Bool.false_eq_true, if_false]

/-! ### Tests of a core (R159, R310, R311, R567) -/

/-- The registers of a core that its tests read and change. -/
theorem Dev.Within.testRegs {F : List Part} {v w : Dev} (h : Dev.Within F v w) (hp : Part.coreRegs ∉ F) (c : Nat) :
    (w.core c).testDue = (v.core c).testDue ∧ (w.core c).retired = (v.core c).retired ∧ (w.core c).marked = (v.core c).marked ∧
      (w.core c).softRepair = (v.core c).softRepair ∧ (w.core c).banks = (v.core c).banks := by
  obtain ⟨hretired, hmarked, hsoft, -, -, -, -, -, -, -, -, -, -, -, -, hbanks, -, hdue⟩ := h.1 .coreRegs hp c
  exact ⟨hdue, hretired, hmarked, hsoft, hbanks⟩

/-- A core whose test has ended. -/
def Dev.testEnded (v : Dev) (c : Nat) : Dev := v.modCore c (fun k => { k with testDue := false })

theorem Dev.testEnded_core (v : Dev) (c : Nat) : (v.testEnded c).core c = { v.core c with testDue := false } := Dev.core_modCore_same _ _ _

section
variable {c : Nat} {m : Mgmt} {v : Dev}

theorem coreTested_passed (hm : m.running = true) (hd : (v.core c).testDue = true) (hc : v.coreClaimed c = false) :
    coreTested c .passed m v = (m, (v.testEnded c).evMgmt 0x069 c 0) := by
  simp [coreTested, hm, hd, hc, Dev.testEnded]

theorem coreTested_column {col : Nat} (hm : m.running = true) (hd : (v.core c).testDue = true) (hc : v.coreClaimed c = false) (hcol : col < 260)
    (hn : (v.core c).marked.contains col = false) : coreTested c (.column col) m v =
      if (v.core c).marked.length < 4 then
        let t := logBoth 0x05 c col ({ m with softCols := m.softCols ++ [(c, col)] }, (v.testEnded c).repairColumn c col)
        (t.1, t.2.evMgmt 0x069 c 1)
      else
        let t := retireCoreFor c col (m, v.testEnded c)
        (t.1, t.2.evMgmt 0x069 c 2) := by
  have hk : ((v.testEnded c).core c).marked = (v.core c).marked := by rw [Dev.testEnded_core]
  have hin : ¬(260 ≤ col ∨ ((v.testEnded c).core c).marked.contains col = true) := by rw [hk, hn]; simp; omega
  unfold coreTested
  rw [if_neg (by simp [hm, hd, hc])]
  change (if 260 ≤ col ∨ ((v.testEnded c).core c).marked.contains col = true then _ else if ((v.testEnded c).core c).marked.length < 4 then _ else _) = _
  rw [if_neg hin, hk]
  rfl

theorem coreTested_bank {b : Fin 64} {col : Fin 580} (hm : m.running = true) (hd : (v.core c).testDue = true) (hc : v.coreClaimed c = false) :
    coreTested c (.bank b col) m v =
      if (tget ({} : BankSt) (v.core c).banks b).marked.contains col.val then (m, v)
      else if (tget ({} : BankSt) (v.core c).banks b).marked.length < 4 then
        let t := logBoth 0x05 c col.val ({ m with softBanks := m.softBanks ++ [(c, b.val, col.val)] },
          ((v.testEnded c).modCore c (fun k => k.repairBank b.val col.val)).coolWing c)
        (t.1, t.2.evMgmt 0x069 c 1)
      else
        let t := retireCoreFor c col.val (m, v.testEnded c)
        (t.1, t.2.evMgmt 0x069 c 2) := by
  have hk : ((v.testEnded c).core c).banks = (v.core c).banks := by rw [Dev.testEnded_core]
  unfold coreTested
  rw [if_neg (by simp [hm, hd, hc]), ← hk]
  rfl

end

/-- Telling the management event and merging the events leave every core's registers and scratchpad. -/
theorem Dev.told_within (old w : Dev) (code a b : Nat) : Dev.Within [.hostMem, .hif, .out] w (Dev.merged old (w.evMgmt code a b)) :=
  (Dev.merged_within old _).step (by decide) ((Dev.evMgmt_within w code a b).mono (by decide))

@[simp] theorem Dev.coolWing_cores (v : Dev) (c : Nat) : (v.coolWing c).cores = v.cores := rfl

theorem Dev.repairColumn_core (v : Dev) (c col : Nat) :
    (v.repairColumn c col).core c = { v.core c with marked := insBy id col (v.core c).marked, softRepair := true } := by
  rw [Dev.repairColumn, Dev.core_congr (Dev.coolWing_cores _ _), Dev.core_modCore_same]

/-- A retired core reads retired, and nothing else of what its tests read has changed. -/
theorem Dev.retireCore_core (v : Dev) (c : Nat) : ((v.retireCore c).core c).retired = true ∧
    ((v.retireCore c).core c).testDue = (v.core c).testDue := by
  have hw : Dev.Within [.schedules, .contexts, .counters, .barriers, .syncStatus] (v.modCore c (fun k => { k with retired := true })) (v.retireCore c) :=
    (Dev.barRetire_within _ c).step (by decide) (Dev.Within.forAll (fun w e => (Dev.modSched_within w e.1 _).mono (by decide)) (Dev.Within.refl _ _))
  obtain ⟨hdue, hretired, -⟩ := hw.testRegs (by decide) c
  rw [Dev.core_modCore_same] at hdue hretired
  exact ⟨hretired, hdue⟩

/-- Forzoevo lists the core it retires. -/
theorem mem_retireCoreFor (c arg : Nat) (mv : Mgmt × Dev) : c ∈ (retireCoreFor c arg mv).1.retiredCores := by
  change c ∈ (if mv.1.retiredCores.contains c then mv.1.retiredCores else mv.1.retiredCores ++ [c])
  split <;> simp_all

/-- A core that Forzoevo retires after its test (R567). -/
theorem retireCoreFor_core (c arg : Nat) (m : Mgmt) (v old : Dev) :
    let w := Dev.merged old ((retireCoreFor c arg (m, v.testEnded c)).2.evMgmt 0x069 c 2)
    (w.core c).retired = true ∧ (w.core c).testDue = false := by
  intro w
  have hw : Dev.Within [.free, .hostMem, .hif, .out] ((v.testEnded c).retireCore c) w :=
    (Dev.told_within old _ 0x069 c 2).step (by decide) ((logBoth_within 0x04 c arg _).mono (by decide))
  obtain ⟨hdue, hretired, -⟩ := hw.testRegs (by decide) c
  obtain ⟨hr, hd⟩ := (v.testEnded c).retireCore_core c
  exact ⟨hretired.trans hr, hdue.trans (hd.trans (by rw [Dev.testEnded_core]))⟩

/-- A repair's log entry, its event and the mergers keep the core as the repair left it. -/
theorem repaired_within (old u : Dev) (m : Mgmt) (c col : Nat) :
    Dev.Within [.free, .hostMem, .hif, .out] u (Dev.merged old ((logBoth 0x05 c col (m, u)).2.evMgmt 0x069 c 1)) :=
  (Dev.told_within old _ 0x069 c 1).step (by decide) ((logBoth_within 0x05 c col (m, u)).mono (by decide))

/-- A repaired bank's rows read zero (R310). -/
theorem Core.repairBank_spad (k : Core) {b a : Nat} (col : Nat) (h : a / 64 % 64 = b) : mget (k.repairBank b col).spad a = 0#8 :=
  tget_filter_absent 0#8 k.spad (p := fun a => decide (a / 64 % 64 ≠ b)) (by simpa using h)

/-- Settles O52: a release is one update of the record or a LATE record closed at once, and a test ends by its result. -/
theorem faultCommandsComplete : Obligations.FaultCommandsComplete := by
  intro s v
  refine ⟨fun d x hx hv => ⟨fun hl => ?_, fun e r hl => ?_⟩, fun c hm hd hc => ⟨?passed, fun col hcol hn => ?column, fun b col => ?bank⟩⟩
  · refine ⟨_, congrArg (fun w => Host.Outcome.next (s.ends w)) (Dev.releaseRecord_none hx hv hl), ?_⟩
    rw [Dev.flt_modFlt_same]
    exact ⟨rfl, rfl, rfl⟩
  · refine ⟨_, congrArg (fun w => Host.Outcome.next (s.ends w)) (Dev.releaseRecord_late hx hv hl), ?_⟩
    rw [Dev.closeRecord_flt]
    obtain ⟨hvalid, -, hcause, -⟩ := Dev.writeRecord_flt (((v.modFlt d (fun r => { r with valid := false, pending := false })).cutShort
      ((e :: r).map Prod.fst)).capHeader d e.2.cause e.2.strm e.2.detail ((e :: r).map Prod.fst)) d false
    refine ⟨hvalid, rfl, hcause.trans ?_⟩
    rw [Dev.capHeader, Dev.flt_modFlt_same]
  case passed =>
    refine ⟨{ s with dev := Dev.merged v ((v.testEnded c).evMgmt 0x069 c 0) }, ?_, rfl, rfl, ?_⟩
    · change s.onBoth (coreTested c .passed) = _
      rw [State.onBoth_eq, coreTested_passed hm hd hc]
    · obtain ⟨hdue, hretired, -⟩ := (Dev.told_within v (v.testEnded c) 0x069 c 0).testRegs (by decide) c
      rw [Dev.testEnded_core] at hdue hretired
      exact ⟨hdue, hretired⟩
  case column =>
    refine ⟨_, State.onBoth_eq s _, rfl, ?_⟩
    dsimp only
    rw [coreTested_column hm hd hc hcol hn]
    split
    · next hlt =>
      obtain ⟨hdue, -, hmarked, hsoft, -⟩ := (repaired_within v ((v.testEnded c).repairColumn c col)
        { s.mgmt with softCols := s.mgmt.softCols ++ [(c.val, col)] } c col).testRegs (by decide) c
      rw [Dev.repairColumn_core, Dev.testEnded_core] at hdue hmarked hsoft
      refine ⟨hdue, fun _ => ⟨hmarked ▸ mem_insBy _ _ _, hsoft, rfl⟩, fun h => absurd hlt (Nat.not_lt.mpr h)⟩
    · next hlt =>
      obtain ⟨hretired, hdue⟩ := retireCoreFor_core c col s.mgmt v v
      exact ⟨hdue, fun h => absurd h hlt, fun _ => ⟨hretired, mem_retireCoreFor c col (s.mgmt, v.testEnded c)⟩⟩
  case bank =>
    intro had
    refine ⟨fun hin => ?_, fun hout => ⟨_, State.onBoth_eq s _, rfl, ?_⟩⟩
    · change s.onBoth (coreTested c (.bank b col)) = _
      rw [State.onBoth_eq, coreTested_bank hm hd hc, if_pos hin]
      exact congrArg Host.Outcome.next (State.ends_self s)
    · dsimp only
      rw [coreTested_bank hm hd hc, if_neg (by simpa using hout)]
      split
      · next hlt =>
        have hw := repaired_within v (((v.testEnded c).modCore c (fun k => k.repairBank b.val col.val)).coolWing c)
          { s.mgmt with softBanks := s.mgmt.softBanks ++ [(c.val, b.val, col.val)] } c col.val
        have hcore : (((v.testEnded c).modCore c (fun k => k.repairBank b.val col.val)).coolWing c).core c =
            ({ v.core c with testDue := false } : Core).repairBank b.val col.val := by
          rw [Dev.core_congr (Dev.coolWing_cores _ _), Dev.core_modCore_same, Dev.testEnded_core]
        obtain ⟨hdue, -, -, -, hbanks⟩ := hw.testRegs (by decide) c
        obtain ⟨hspad, -⟩ := hw.1 .spads (by decide) c
        rw [hcore] at hdue hbanks hspad
        refine ⟨hdue, fun _ => ⟨?_, rfl, fun a ha => ?_⟩, fun h => absurd hlt (Nat.not_lt.mpr h)⟩
        · rw [hbanks]
          simp only [Core.repairBank, tget_tmod_same, BankSt.mark]
          exact mem_insBy _ _ _
        · rw [hspad]
          exact Core.repairBank_spad _ _ ha
      · next hlt =>
        obtain ⟨hretired, hdue⟩ := retireCoreFor_core c col s.mgmt v v
        exact ⟨hdue, fun h => absurd h hlt, fun _ => ⟨hretired, mem_retireCoreFor c col (s.mgmt, v.testEnded c)⟩⟩

end Sys2Proof.Machine

/-! The steps of a PE and the rows of the vector engine (06, 08): integer steps modulo 2^32, the NaN cases of a floating-point step, what a row
holds once its codes have been written, and from them O22, O23 and O25. -/

namespace Sys2Proof.Machine

/-! ### Integer steps (R210) -/

theorem intCode_lt (w : Nat) (i : Int) : intCode w i < 2 ^ w := by
  have hpos : (0 : Int) < ((2 ^ w : Nat) : Int) := by positivity
  rw [intCode, Int.toNat_lt (Int.emod_nonneg _ hpos.ne')]
  exact Int.emod_lt_of_pos _ hpos

theorem intCode_cast (w : Nat) (i : Int) : ((intCode w i : Nat) : Int) = i % ((2 ^ w : Nat) : Int) :=
  Int.toNat_of_nonneg (Int.emod_nonneg _ (by positivity))

/-- A signed reading differs from the code by a multiple of 2^n. -/
theorem sext_modEq (v n : Nat) : sext v n ≡ (v : Int) [ZMOD ((2 ^ n : Nat) : Int)] := by
  have hmod : ((v % 2 ^ n : Nat) : Int) ≡ v [ZMOD ((2 ^ n : Nat) : Int)] := by
    rw [Int.natCast_mod]
    exact Int.mod_modEq _ _
  unfold sext
  split
  · exact hmod
  · exact Int.sub_modulus_modEq_iff.mpr hmod

/-- Settles O22: the signed reading of p is congruent to p modulo 2^32, and the fold adds the sum of the products. -/
theorem integerStepWraps : Obligations.IntegerStepWraps := by
  intro p xs _
  refine ⟨intCode_lt 32 _, ?_⟩
  rw [intStep, intCode_cast, ← List.sum_eq_foldl]
  exact (Int.mod_modEq _ _).trans ((sext_modEq p 32).add_right _)

/-! ### NaN results of a floating-point step (R188, R206) -/

theorem enc32_nan (b : Bool) : enc32 (.nan b) = 0x7FC00000 := rfl

/-- Adding to an infinity leaves it, or forms a NaN. -/
theorem Num.inf_add (b : Bool) (x : Num) : (Num.inf b).add x = .inf b ∨ ((Num.inf b).add x) = qnan := by
  cases x with
  | nan _ => exact .inr rfl
  | fin _ _ _ => exact .inl rfl
  | inf a =>
    by_cases h : b = a
    · exact .inl (by simp [Num.add, h])
    · exact .inr (by simp [Num.add, h])

/-- Adding an infinity gives it, or forms a NaN. -/
theorem Num.add_inf (x : Num) (b : Bool) : x.add (.inf b) = .inf b ∨ x.add (.inf b) = qnan := by
  cases x with
  | nan _ => exact .inr rfl
  | fin _ _ _ => exact .inl rfl
  | inf a =>
    by_cases h : a = b
    · exact .inl (by simp [Num.add, h])
    · exact .inr (by simp [Num.add, h])

theorem Num.add_qnan (x : Num) : x.add qnan = qnan := by cases x <;> rfl

theorem Num.inf_add_inf_not (b : Bool) : (Num.inf b).add (.inf !b) = qnan := by simp [Num.add]

/-- A running sum that is an infinity or a NaN stays so. -/
theorem foldl_add_of_inf {b : Bool} (xs : List Num) {s : Num} (h : s = .inf b ∨ s = qnan) :
    xs.foldl Num.add s = .inf b ∨ xs.foldl Num.add s = qnan := by
  induction xs generalizing s with
  | nil => exact h
  | cons x xs ih =>
    obtain rfl | rfl := h
    · exact ih (Num.inf_add b x)
    · exact ih (.inr rfl)

/-- A sum with an infinity among its terms is that infinity or a NaN. -/
theorem foldl_add_of_inf_mem {b : Bool} {xs : List Num} (h : .inf b ∈ xs) (s : Num) :
    xs.foldl Num.add s = .inf b ∨ xs.foldl Num.add s = qnan := by
  obtain ⟨as, bs, rfl⟩ := List.append_of_mem h
  rw [List.foldl_append, List.foldl_cons]
  exact foldl_add_of_inf bs (Num.add_inf _ b)

/-- The step forms a NaN from a NaN among its inputs. -/
theorem fpStep_of_nan {p : Nat} {prods : List Num} {scale : Num}
    (h : (dec32 p).isNan = true ∨ scale.isNan = true ∨ ∃ x ∈ prods, x.isNan = true) : fpStep p prods scale = 0x7FC00000 := by
  have hc : ((dec32 p).isNan || scale.isNan || prods.any Num.isNan) = true := by simpa [or_assoc] using h
  rw [fpStep]
  exact if_pos hc

/-- The step encodes p plus the sum of the products once where that sum is not finite. -/
theorem fpStep_of_sum_nan {p : Nat} {prods : List Num} {scale : Num} (hfin : (prods.foldl Num.add .zero).isFin = false)
    (hsum : (dec32 p).add (prods.foldl Num.add .zero) = qnan) : fpStep p prods scale = 0x7FC00000 := by
  simp only [fpStep, hfin, hsum, Bool.false_eq_true, if_false]
  split
  · rfl
  · exact enc32_nan false

/-- Settles O23: a NaN input is answered at once; of infinities of both signs the sum, with p or without it, is a NaN. -/
theorem stepNaN : Obligations.StepNaN := by
  intro p prods scale h
  obtain h | h | h | ⟨ht, hf⟩ | ⟨b, hp, hb⟩ := h
  · exact fpStep_of_nan (.inl h)
  · exact fpStep_of_nan (.inr (.inl h))
  · exact fpStep_of_nan (.inr (.inr h))
  · have hsum : prods.foldl Num.add .zero = qnan := by
      obtain h | h := foldl_add_of_inf_mem ht .zero
      · simpa [h] using foldl_add_of_inf_mem hf .zero
      · exact h
    exact fpStep_of_sum_nan (by rw [hsum]; rfl) (by rw [hsum, Num.add_qnan])
  · obtain hsum | hsum := foldl_add_of_inf_mem hb .zero
    · exact fpStep_of_sum_nan (by rw [hsum]; rfl) (by rw [hsum, hp, Num.inf_add_inf_not])
    · exact fpStep_of_sum_nan (by rw [hsum]; rfl) (by rw [hsum, Num.add_qnan])

/-! ### Packed codes in a scratchpad (R191) -/

theorem ofBytes_append (as bs : List Byte) : ofBytes (as ++ bs) = ofBytes as + 2 ^ (8 * as.length) * ofBytes bs := by
  induction as with
  | nil => simp [ofBytes]
  | cons a as ih =>
    simp only [List.cons_append, ofBytes, ih, List.length_cons]
    ring

theorem ofBytes_lt (bs : List Byte) : ofBytes bs < 2 ^ (8 * bs.length) := by
  induction bs with
  | nil => simp [ofBytes]
  | cons b bs ih =>
    have hb := b.isLt
    simp only [ofBytes, List.length_cons, Nat.mul_succ, pow_add]
    omega

/-- Bits [j + w − 1 : j] do not see what stands from bit n on. -/
theorem mod_two_pow_slice (x : Nat) {j w n : Nat} (h : j + w ≤ n) : x % 2 ^ n / 2 ^ j % 2 ^ w = x / 2 ^ j % 2 ^ w := by
  obtain ⟨t, rfl⟩ := Nat.exists_eq_add_of_le h
  rw [Nat.add_assoc, pow_add, Nat.mod_mul_right_div_self, pow_add, Nat.mod_mul_right_mod]

/-- Bits that lie within some bytes of a longer run are bits of those bytes. -/
theorem ofBytes_slice (as bs cs : List Byte) {j w : Nat} (h : j + w ≤ 8 * bs.length) :
    ofBytes (as ++ (bs ++ cs)) / 2 ^ (8 * as.length + j) % 2 ^ w = ofBytes bs / 2 ^ j % 2 ^ w := by
  rw [ofBytes_append, pow_add, ← Nat.div_div_eq_div_mul, Nat.add_mul_div_left _ _ (by positivity), Nat.div_eq_of_lt (ofBytes_lt as), Nat.zero_add,
    ← mod_two_pow_slice _ h, ofBytes_append, Nat.add_mul_mod_self_left, Nat.mod_eq_of_lt (ofBytes_lt bs)]

/-- Bits beside a byte address are bits of the number any longer read from there gives. -/
theorem Core.bitsAt_add (k : Core) (a : Nat) {j w n : Nat} (h : j + w ≤ 8 * n) :
    k.bitsAt (8 * a + j) w = ofBytes (k.spadRead a n) / 2 ^ j % 2 ^ w := by
  obtain ⟨i, s, hs, rfl⟩ : ∃ i s, s < 8 ∧ j = 8 * i + s := ⟨j / 8, j % 8, by omega, by omega⟩
  obtain ⟨m, hm⟩ : ∃ m, m = (s + w + 7) / 8 := ⟨_, rfl⟩
  obtain ⟨t, rfl⟩ : ∃ t, n = i + (m + t) := ⟨n - (i + m), by omega⟩
  have hlen : ∀ b l, (k.spadRead b l).length = l := fun b l => mread_length _ _ _
  have hsplit : k.spadRead a (i + (m + t)) = k.spadRead a i ++ (k.spadRead (a + i) m ++ k.spadRead (a + i + m) t) := by
    simp only [Core.spadRead, mread_add]
  have hslice := ofBytes_slice (k.spadRead a i) (k.spadRead (a + i) m) (k.spadRead (a + i + m) t) (j := s) (w := w) (by rw [hlen]; omega)
  rw [hlen] at hslice
  rw [Core.bitsAt, show (8 * a + (8 * i + s)) / 8 = a + i by omega, show (8 * a + (8 * i + s)) % 8 = s by omega, ← hm, hsplit, hslice]

theorem packCodes_cons (w c : Nat) (cs : List Nat) : packCodes w (c :: cs) = c % 2 ^ w + 2 ^ w * packCodes w cs := rfl

theorem packCodes_lt (w : Nat) (cs : List Nat) : packCodes w cs < 2 ^ (cs.length * w) := by
  induction cs with
  | nil => simp [packCodes]
  | cons c cs ih =>
    rw [packCodes_cons, List.length_cons, Nat.succ_mul, Nat.add_comm (cs.length * w), pow_add]
    calc c % 2 ^ w + 2 ^ w * packCodes w cs < 2 ^ w * (packCodes w cs + 1) := by
          have := Nat.mod_lt c (show 0 < 2 ^ w by positivity)
          rw [Nat.mul_succ]
          omega
      _ ≤ 2 ^ w * 2 ^ (cs.length * w) := Nat.mul_le_mul_left _ ih

theorem packCodes_slice (w : Nat) (cs : List Nat) (i : Nat) : packCodes w cs / 2 ^ (i * w) % 2 ^ w = cs.getD i 0 % 2 ^ w := by
  induction cs generalizing i with
  | nil => simp [packCodes]
  | cons c cs ih =>
    rw [packCodes_cons]
    cases i with
    | zero => simp
    | succ i =>
      rw [Nat.succ_mul, Nat.add_comm (i * w), pow_add, ← Nat.div_div_eq_div_mul, Nat.add_mul_div_left _ _ (by positivity),
        Nat.div_eq_of_lt (Nat.mod_lt _ (by positivity)), Nat.zero_add, ih, List.getD_cons_succ]

theorem le_mul_ceilDiv (n : Nat) : n ≤ 8 * ceilDiv n 8 := by unfold ceilDiv; omega

theorem Core.ofBytes_spadRead_spadWrite (k : Core) (a x n : Nat) : ofBytes ((k.spadWrite a (toBytes x n)).spadRead a n) = x % 2 ^ (8 * n) := by
  have hread := k.spadRead_spadWrite a (toBytes x n)
  rw [toBytes_length] at hread
  rw [hread, ofBytes_toBytes, pow_mul, show 2 ^ 8 = 256 from rfl]

theorem Core.bitsAt_putBits (k : Core) (a w : Nat) (cs : List Nat) {i : Nat} (h : i < cs.length) :
    (k.putBits a w cs).bitsAt (8 * a + i * w) w = cs.getD i 0 % 2 ^ w := by
  have hin : i * w + w ≤ cs.length * w := by
    rw [← Nat.succ_mul]
    exact Nat.mul_le_mul_right w h
  have hn := le_mul_ceilDiv (cs.length * w)
  rw [Core.bitsAt_add _ a (hin.trans hn), Core.putBits, Core.ofBytes_spadRead_spadWrite,
    mod_two_pow_slice _ (hin.trans hn), ← mod_two_pow_slice _ hin, Nat.add_comm, Nat.add_mul_mod_self_right, Nat.mod_eq_of_lt (packCodes_lt w cs),
    packCodes_slice]

/-! ### Rows of an operand (R191, R252, R299) -/

theorem Core.accGet_accPuts_ne (ps : List (Nat × Nat)) (k : Core) {a : Nat} (h : a ∉ ps.map Prod.fst) :
    (ps.foldl (fun q x => q.accPut x.1 x.2) k).accGet a = k.accGet a := by
  induction ps generalizing k with
  | nil => rfl
  | cons y ps ih =>
    obtain ⟨hy, hps⟩ := not_or.mp (mt List.mem_cons.mpr h)
    exact (ih _ hps).trans (Core.accGet_accPut_ne _ _ hy)

/-- Of words written once each, every one holds what was written. -/
theorem Core.accGet_accPuts (ps : List (Nat × Nat)) (k : Core) (hn : (ps.map Prod.fst).Nodup) {y : Nat × Nat} (hy : y ∈ ps) :
    (ps.foldl (fun q x => q.accPut x.1 x.2) k).accGet y.1 = y.2 % 2 ^ 32 := by
  induction ps generalizing k with
  | nil => exact absurd hy List.not_mem_nil
  | cons x ps ih =>
    obtain ⟨hx, hps⟩ := List.nodup_cons.mp hn
    obtain rfl | hmem := List.mem_cons.mp hy
    · exact (Core.accGet_accPuts_ne ps _ hx).trans (Core.accGet_accPut_same _ _ _)
    · exact ih _ hps hmem

/-- The words of a row follow each other. -/
theorem VOpd.word_eq (x : VOpd) (r c : Nat) : x.word r c = (x.addr + r * x.pitch) * 256 + c := by
  unfold VOpd.word
  omega

theorem Core.accGet_putRow (k : Core) (x : VOpd) (f r : Nat) (cs : List Nat) {i : Nat} (h : i < cs.length) :
    (k.putRow x true f r cs).accGet (x.word r i) = cs.getD i 0 % 2 ^ 32 := by
  have hnodup : (((List.range cs.length).map (fun c => (x.word r c, cs.getD c 0))).map Prod.fst).Nodup := by
    rw [List.map_map]
    refine List.nodup_range.map fun a b hab => ?_
    simpa [VOpd.word_eq] using hab
  exact Core.accGet_accPuts _ k hnodup (List.mem_map.mpr ⟨i, List.mem_range.mpr h, rfl⟩)

theorem Core.bitsAt_putRow (k : Core) (x : VOpd) (f r : Nat) (cs : List Nat) {i : Nat} (h : i < cs.length) :
    (k.putRow x false f r cs).bitsAt (8 * x.byte r + i * vBits f) (vBits f) = cs.getD i 0 % 2 ^ vBits f := by
  have hne : cs.isEmpty = false := by cases cs <;> simp_all
  simpa [Core.putRow, hne] using k.bitsAt_putBits (x.byte r) (vBits f) cs h

/-- A row that has been written reads back the codes, cut to the width of the format. -/
theorem Core.rowCodes_putRow (k : Core) (x : VOpd) {acc : Bool} {f : Nat} (r : Nat) {cs : List Nat} {n : Nat} (hn : cs.length = n)
    (hacc : acc = true → vBits f = 32) : (k.putRow x acc f r cs).rowCodes x acc f r n = cs.map (fun c => c % 2 ^ vBits f) := by
  subst hn
  refine List.ext_getElem (by cases acc <;> simp [Core.rowCodes, Core.accCycle_reads]) fun i _ hi => ?_
  have hi : i < cs.length := by simpa using hi
  cases acc with
  | false => simpa [Core.rowCodes, hi] using k.bitsAt_putRow x f r cs hi
  | true => simpa [Core.rowCodes, Core.accCycle_reads, hacc rfl, hi] using k.accGet_putRow x f r cs hi

theorem Core.rowCodes_length (k : Core) (x : VOpd) (acc : Bool) (f r n : Nat) : (k.rowCodes x acc f r n).length = n := by
  cases acc <;> simp [Core.rowCodes, Core.accCycle_reads]

theorem VxOps.into_length (o : VxOps) (xs : List Num) : (o.into xs).1.length = xs.length := by simp [VxOps.into]

/-! ### The rows of V_RED, V_TOPK and V_QUANT (R262 to R266) -/

/-- Row r of V_RED where FP32 holds every element (R262). -/
theorem Dev.redRow_of_fp32 {v : Dev} {c : Nat} {o : VxOps} {r : Nat}
    (h : (((v.core c).rowCodes o.a o.aacc o.af r o.cols).map (decCode o.af)).all Num.isFp32 = true) :
    (v.redRow c o r).1 = v.modCore c (fun q => q.putRow o.d o.dacc o.df r
      (o.into [rnd32 (reduceRow o.func ((((v.core c).rowCodes o.a o.aacc o.af r o.cols).map (decCode o.af)).map (redPrep o.func)))]).1) := by
  rw [Dev.redRow]
  exact congrArg Prod.fst (if_pos h)

/-- V_RED writes one row of its own core. -/
theorem Dev.redRow_modCore (v : Dev) (c : Nat) (o : VxOps) (r : Nat) : ∃ g, (v.redRow c o r).1 = v.modCore c g := by
  rw [Dev.redRow]
  dsimp only
  split <;> exact ⟨_, rfl⟩

/-- The second destination of V_TOPK, written last, holds the columns, padded to FUNC places (R264). -/
theorem Dev.topkRow_columns (v : Dev) (c : Nat) (o : VxOps) (r : Nat) :
    let top := (rankRow (((v.core c).rowCodes o.a o.aacc o.af r o.cols).map (decCode o.af))).take o.func
    ((v.topkRow c o r).1.core c).rowCodes o.b false 11 r o.func =
      (top.map (fun y => y.1) ++ List.replicate (o.func - top.length) max32).map (fun x => x % 2 ^ 32) := by
  intro top
  have hlen : ((top ++ List.replicate (o.func - top.length) (max32, Num.inf true)).map (fun y => y.1)).length = o.func := by
    have htop : top.length ≤ o.func := List.length_take_le _ _
    simp only [List.length_map, List.length_append, List.length_replicate]
    omega
  rw [Dev.topkRow, Dev.core_modCore_same, Core.rowCodes_putRow _ _ _ hlen (by decide), List.map_append, List.map_replicate]
  rfl

/-- Draws of random numbers leave the other cores (R243). -/
theorem Dev.coreUse_core_ne (v : Dev) {c g : Nat} (lane : Nat) (h : g ≠ c) : (v.coreUse c lane).2.core g = v.core g := by
  unfold Dev.coreUse
  split
  · rfl
  · exact Dev.core_modCore_ne _ _ h

theorem Dev.rowDraws_core_ne (v : Dev) {c g : Nat} (n : Nat) (h : g ≠ c) : (v.rowDraws c n).2.core g = v.core g := by
  rw [Dev.rowDraws]
  exact List.foldlRecOn (motive := fun (s : List W64 × Dev) => s.2.core g = v.core g) (List.range n) _ rfl fun s hs _ _ =>
    (s.2.coreUse_core_ne _ h).trans hs

theorem Dev.rowRand_core_ne (v : Dev) {c g : Nat} (o : VxOps) (h : g ≠ c) : (v.rowRand c o).2.core g = v.core g := by
  unfold Dev.rowRand
  split
  · exact v.rowDraws_core_ne _ h
  · rfl

theorem Dev.rowRand_of_not_sr {v : Dev} {c : Nat} {o : VxOps} (h : o.sr = false) : v.rowRand c o = (List.replicate o.cols none, v) := by
  simp [Dev.rowRand, h]

theorem Dev.quantRow_core_ne (v : Dev) {c g : Nat} (o : VxOps) (t : Num) (r : Nat) (h : g ≠ c) : (v.quantRow c o t r).1.core g = v.core g := by
  have hrand := v.rowRand_core_ne o h
  unfold Dev.quantRow
  dsimp only
  split
  · exact hrand
  · split
    · exact (Dev.core_modCore_ne _ _ h).trans hrand
    · exact (Dev.core_modCore_ne _ _ h).trans ((Dev.core_modCore_ne _ _ h).trans hrand)

theorem ceilDiv_self {n : Nat} (h : n ≠ 0) : ceilDiv n n = 1 := by
  unfold ceilDiv
  exact Nat.div_eq_of_lt_le (by omega) (by omega)

theorem quantBlock_codes_length (f scl : Nat) (ieee : Bool) (t : Num) (xs : List Num) (rs : List (Option Nat)) :
    (quantBlock f scl ieee t xs rs).codes.length = min xs.length rs.length := by simp [quantBlock]

/-- Without block scaling and without random rounding a row of V_QUANT is one block, unpadded (R266). -/
theorem Dev.quantRow_unscaled {v : Dev} {c : Nat} {o : VxOps} (t : Num) (r : Nat) (hop : o.op = 0x14) (hscl : o.scl = 0) (hsr : o.sr = false)
    (hcols : o.cols ≠ 0) : (v.quantRow c o t r).1 = v.modCore c (fun q => q.putRow o.d o.dacc o.df r
      (quantBlock o.df 0 o.ieee t (((v.core c).rowCodes o.a o.aacc o.af r o.cols).map (decCode o.af)) (List.replicate o.cols none)).codes) := by
  have htake : (((v.core c).rowCodes o.a o.aacc o.af r o.cols).map (decCode o.af)).take o.cols =
      ((v.core c).rowCodes o.a o.aacc o.af r o.cols).map (decCode o.af) :=
    List.take_of_length_le (by simp [Core.rowCodes_length])
  simp [Dev.quantRow, Dev.rowRand_of_not_sr hsr, hop, hscl, ceilDiv_self hcols, VxOps.padCols, htake]

/-- Settles O25: each row ends with its codes written, which read back cut to the width of the format. -/
theorem vectorRowResults : Obligations.VectorRowResults := by
  intro v c o t r k codes cut
  refine ⟨fun hacc => ?ewCodes, fun hfp hacc => ?redCodes, ?topkColumns, fun hop hscl hsr hcols hacc => ?quantCodes,
    fun g hg => ⟨?ewFrame, ?redFrame, ?topkFrame, ?quantFrame⟩⟩
  case ewCodes =>
    rw [Dev.ewRow, Dev.core_modCore_same, Core.rowCodes_putRow _ _ _ (by simp [VxOps.into_length]) hacc]
  case redCodes =>
    rw [Dev.redRow_of_fp32 hfp, Dev.core_modCore_same, Core.rowCodes_putRow _ _ _ (n := 1) (VxOps.into_length _ _) hacc]
  case topkColumns => exact v.topkRow_columns c o r
  case quantCodes =>
    rw [Dev.quantRow_unscaled t r hop hscl hsr hcols, Dev.core_modCore_same,
      Core.rowCodes_putRow _ _ _ (by simp [quantBlock_codes_length, Core.rowCodes_length]) hacc]
  case ewFrame => exact Dev.core_modCore_ne v _ hg
  case redFrame =>
    obtain ⟨_, hrow⟩ := v.redRow_modCore c o r
    rw [hrow, Dev.core_modCore_ne _ _ hg]
  case topkFrame => exact Dev.core_modCore_ne v _ hg
  case quantFrame => exact v.quantRow_core_ne o t r hg

end Sys2Proof.Machine

/-! The entries of the vector engine and the scale updates (07, 08): the rows of a core without parity errors run to
their end and bring none, writes that nothing holds land whole, and from them O24 and O26. -/

namespace Sys2Proof.Machine

/-! ### The stacks and the Moult read off a frame -/

/-- What changes no part of the stacks leaves them whole. -/
theorem Dev.Within.hbm_eq {F : List Part} {v w : Dev} (h : Dev.Within F v w) (hp : ∀ p ∈ [Part.stackMem, .channels, .stackRegs, .map], p ∉ F) :
    w.hbm = v.hbm := by
  simp only [List.forall_mem_cons] at hp
  obtain ⟨pmem, pchans, pregs, pmap, -⟩ := hp
  have hmem := h.1 .stackMem pmem
  have hchans := h.1 .channels pchans
  have hregs := h.1 .stackRegs pregs
  have hmap := h.1 .map pmap
  simp only [Dev.same, Hbm.same] at hmem hchans hregs hmap
  generalize w.hbm = b at *
  cases b
  simp_all

theorem Dev.Within.moult_eq {F : List Part} {v w : Dev} (h : Dev.Within F v w) (hp : Part.moult ∉ F) :
    { w.moult with held := [], urgent := [] } = { v.moult with held := [], urgent := [] } := h.1 .moult hp

theorem Dev.Within.active_eq {F : List Part} {v w : Dev} (h : Dev.Within F v w) (hp : Part.moult ∉ F) : w.moult.active = v.moult.active := by
  have hactive := congrArg Moult.active (h.moult_eq hp)
  exact hactive

theorem Dev.Within.stale_eq {F : List Part} {v w : Dev} (h : Dev.Within F v w) (hp : Part.moult ∉ F) (p : Nat) : w.moult.stale p = v.moult.stale p := by
  have hstale := congrArg (fun m : Moult => m.stale p) (h.moult_eq hp)
  exact hstale

theorem Dev.pathAt_congr {v w : Dev} (h : w.hbm = v.hbm) (a n : Nat) : w.pathAt a n = v.pathAt a n := by
  simp only [Dev.pathAt, Dev.chan, h]

theorem Dev.overlapAt_hbm (v : Dev) (k c : Nat) (ws : List W64) : (v.overlapAt k c ws).hbm = v.hbm :=
  (v.overlapAt_within k c ws).hbm_eq (by decide)

/-! ### Parity of a core (R304, R305) -/

/-- Neither the scratchpad nor the accumulators of the core hold a parity error. -/
def Core.sound (k : Core) : Prop := k.spadBad = [] ∧ k.accBad = []

theorem Core.spadWrite_sound {k : Core} (h : k.sound) (a : Nat) (bs : List Byte) : (k.spadWrite a bs).sound :=
  ⟨by simp [Core.spadWrite, h.1], h.2⟩

theorem Core.accPut_sound {k : Core} (h : k.sound) (w x : Nat) : (k.accPut w x).sound := ⟨h.1, by simp [Core.accPut, h.2]⟩

theorem Core.putRow_sound {k : Core} (h : k.sound) (x : VOpd) (acc : Bool) (f r : Nat) (cs : List Nat) : (k.putRow x acc f r cs).sound := by
  unfold Core.putRow
  split
  · exact List.foldlRecOn (motive := Core.sound) _ _ h fun q hq y _ => Core.accPut_sound hq y.1 y.2
  · split
    · exact h
    · exact Core.spadWrite_sound h _ _

/-- A read of a row meets no error where its core holds none. -/
theorem Core.rowBad_of_sound {k : Core} (h : k.sound) (x : VOpd) (acc : Bool) (f r n : Nat) : k.rowBad x acc f r n = none := by
  cases acc with
  | false => simp [Core.rowBad, Core.spadBadIn_of_none h.1]
  | true => simp [Core.rowBad, h.2]

theorem VxOps.rowBad_of_sound (o : VxOps) {k : Core} (h : k.sound) (r : Nat) : o.rowBad k r = none := by
  have hrow := Core.rowBad_of_sound h
  have hscale : (List.range o.cols).findSome? (fun c => k.spadBadIn (o.aScaleAt r c) 1) = none :=
    List.findSome?_eq_none_iff.mpr fun _ _ => Core.spadBadIn_of_none h.1 _ _
  unfold VxOps.rowBad
  dsimp only
  split
  · exact List.findSome?_eq_none_iff.mpr fun _ _ => hrow _ _ _ _ _
  · rw [hrow]
    dsimp only
    split
    · exact hrow _ _ _ _ _
    · rw [hscale]
      split <;> rfl

section
variable {v : Dev} {c : Nat}

theorem Dev.modCore_sound {g : Core → Core} (hg : ∀ k, k.sound → (g k).sound) (h : (v.core c).sound) : ((v.modCore c g).core c).sound := by
  rw [Dev.core_modCore_same]
  exact hg _ h

/-- What changes no scratchpad and no accumulator brings no parity error. -/
theorem Dev.Within.sound {F : List Part} {w : Dev} (h : Dev.Within F v w) (hs : Part.spads ∉ F) (ha : Part.accs ∉ F) (hc : (v.core c).sound) :
    (w.core c).sound := ⟨(h.1 .spads hs c).2.trans hc.1, (h.1 .accs ha c).2.trans hc.2⟩

/-! ### Rows of a core without parity errors (R252, R258 to R269) -/

theorem Dev.ewRow_sound (h : (v.core c).sound) (o : VxOps) (t : Num) (r : Nat) : ((v.ewRow c o t r).1.core c).sound :=
  Dev.modCore_sound (fun _ hk => Core.putRow_sound hk _ _ _ _ _) h

theorem Dev.redRow_sound (h : (v.core c).sound) (o : VxOps) (r : Nat) : ((v.redRow c o r).1.core c).sound := by
  unfold Dev.redRow
  dsimp only
  split
  · exact Dev.modCore_sound (fun _ hk => Core.putRow_sound hk _ _ _ _ _) h
  · exact Dev.modCore_sound (fun _ hk => Core.putRow_sound hk _ _ _ _ _) h

theorem Dev.rowexpRow_sound (h : (v.core c).sound) (o : VxOps) (r : Nat) : ((v.rowexpRow c o r).1.core c).sound :=
  Dev.modCore_sound (fun _ hk => Core.putRow_sound (Core.putRow_sound hk _ _ _ _ _) _ _ _ _ _) h

theorem Dev.topkRow_sound (h : (v.core c).sound) (o : VxOps) (r : Nat) : ((v.topkRow c o r).1.core c).sound :=
  Dev.modCore_sound (fun _ hk => Core.putRow_sound (Core.putRow_sound hk _ _ _ _ _) _ _ _ _ _) h

theorem Dev.dequantRow_sound (h : (v.core c).sound) (o : VxOps) (t : Num) (r : Nat) : ((v.dequantRow c o t r).1.core c).sound :=
  Dev.modCore_sound (fun _ hk => Core.putRow_sound hk _ _ _ _ _) h

theorem Dev.splitRow_sound (h : (v.core c).sound) (o : VxOps) (r : Nat) : ((v.splitRow c o r).1.core c).sound :=
  Dev.modCore_sound (fun _ hk => Core.putRow_sound (Core.putRow_sound hk _ _ _ _ _) _ _ _ _ _) h

theorem Dev.rowRand_sound (h : (v.core c).sound) (o : VxOps) : ((v.rowRand c o).2.core c).sound :=
  (v.rowRand_within c o).sound (by decide) (by decide) h

theorem Dev.quantRow_sound (h : (v.core c).sound) (o : VxOps) (t : Num) (r : Nat) : ((v.quantRow c o t r).1.core c).sound := by
  have hrand := Dev.rowRand_sound h o
  unfold Dev.quantRow
  dsimp only
  split
  · exact hrand
  · split
    · exact Dev.modCore_sound (fun _ hk => Core.putRow_sound hk _ _ _ _ _) hrand
    · exact Dev.modCore_sound (fun _ hk => Core.spadWrite_sound hk _ _) (Dev.modCore_sound (fun _ hk => Core.putRow_sound hk _ _ _ _ _) hrand)

/-- A fold of changes that bring no parity error to the core brings none. -/
theorem Dev.forAll_modCore_sound {α : Type} {g : α → Core → Core} (hg : ∀ x k, k.sound → (g x k).sound) (xs : List α) (h : (v.core c).sound) :
    ((v.forAll xs (fun u x => u.modCore c (g x))).core c).sound :=
  List.foldlRecOn (motive := fun u : Dev => (u.core c).sound) xs _ h fun _ hu x _ => Dev.modCore_sound (hg x) hu

/-- Random slices drawn for one row after another bring no parity error. -/
theorem Dev.foldl_rowRand_sound {f : List (List (Option Nat)) × Dev → Nat → List (List (Option Nat)) × Dev} {o : VxOps}
    (hf : ∀ s x, (f s x).2 = (s.2.rowRand c o).2) (h : (v.core c).sound) (xs : List Nat) : ((xs.foldl f ([], v)).2.core c).sound :=
  List.foldlRecOn (motive := fun s : List (List (Option Nat)) × Dev => (s.2.core c).sound) xs f h fun s hs x _ => by
    rw [hf]
    exact Dev.rowRand_sound hs o

theorem Dev.quantGroup_sound (h : (v.core c).sound) (o : VxOps) (t : Num) (g : Nat) : ((v.quantGroup c o t g).1.core c).sound := by
  unfold Dev.quantGroup
  dsimp only
  split
  · exact Dev.foldl_rowRand_sound (fun _ _ => rfl) h _
  · exact Dev.forAll_modCore_sound (fun _ _ hk => Core.spadWrite_sound hk _ _) _
      (Dev.forAll_modCore_sound (fun _ _ hk => Core.putRow_sound hk _ _ _ _ _) _ (Dev.foldl_rowRand_sound (fun _ _ => rfl) h _))

theorem Dev.vxRow_sound (h : (v.core c).sound) (o : VxOps) (t : Num) (r : Nat) : ((v.vxRow c o t r).1.core c).sound := by
  unfold Dev.vxRow
  split
  · exact Dev.ewRow_sound h o t r
  · exact Dev.redRow_sound h o r
  · exact Dev.rowexpRow_sound h o r
  · exact Dev.topkRow_sound h o r
  · split
    · exact Dev.dequantRow_sound h o t r
    · split
      · exact Dev.splitRow_sound h o r
      · split
        · exact Dev.quantGroup_sound h o t r
        · exact Dev.quantRow_sound h o t r

/-- Rows run to the last one where a sound core meets no error and each row leaves the core sound. -/
theorem Dev.vRows_complete {bad : Core → Nat → Option (Bool × Nat)} {act : Dev → Nat → Dev × Stats} (hbad : ∀ k r, k.sound → bad k r = none)
    (hact : ∀ u r, (u.core c).sound → ((act u r).1.core c).sound) (h : (v.core c).sound) (rs : List Nat) (st : Stats) :
    ∃ u st', v.vRows c bad act rs st = (u, st', none) := by
  induction rs generalizing v st with
  | nil => exact ⟨v, st, rfl⟩
  | cons r rs ih =>
    obtain ⟨u, st', hrest⟩ := ih (hact v r h) (joinStats st (act v r).2)
    refine ⟨u, st', ?_⟩
    rw [Dev.vRows, hbad _ r h]
    exact hrest

end

/-! ### Starting a vector entry (R227, R229, R276) -/

/-- The rows of a vector entry, from the device as it starts. -/
def Dev.vxRowsRun (v : Dev) (k : Nat) (ws : List W64) : Dev × Stats × Option (Nat × Bool × Nat) :=
  (v.overlapAt k (strmUnit k) ws).vRows (strmUnit k) (decVx ws).rowBad
    (fun u r => u.vxRow (strmUnit k) (decVx ws) (v.vxScalar (strmUnit k) (decVx ws)) r) (List.range (decVx ws).units) {}

/-- The report of an entry with STAT set goes to its record. -/
def Dev.reported (v : Dev) (c : Nat) (o : VxOps) (st : Stats) (owner : Option Owner) : Dev :=
  if o.statEn then v.submit (.merge (v.recSlot c o.stat) st) c owner else v

/-- The flight of a vector entry that has processed all of its rows. -/
def vxFlight (v : Dev) (k : Nat) (ws : List W64) : Flight :=
  { idx := (v.strm k).next, words := ws, srcDone := true, prog := (decVx ws).progress (decVx ws).units }

section
variable {v u : Dev} {k op : Nat} {ws : List W64} {st : Stats}

theorem Dev.vxStart_empty (h : v.startable k op = some ws) (he : (decVx ws).empty = true) :
    v.vxStart k op = (v.started k { idx := (v.strm k).next, words := ws } true).nextHead k := by
  unfold Dev.vxStart
  rw [h]
  exact if_pos he

/-- An entry whose rows and records meet no error delivers its report and starts, every source read. -/
theorem Dev.vxStart_works (h : v.startable k op = some ws) (he : (decVx ws).empty = false)
    (hrec : ∀ a ∈ v.vxRecords (strmUnit k) (decVx ws), v.pathAt a 64 = none) (hrows : v.vxRowsRun k ws = (u, st, none))
    (hstat : (decVx ws).statEn = true → u.pathAt (u.recSlot (strmUnit k) (decVx ws).stat) 64 = none) :
    v.vxStart k op = ((u.reported (strmUnit k) (decVx ws) st (some (.entry k (v.strm k).next))).started k (vxFlight v k ws) false).nextHead k := by
  have hpaths : (v.vxRecords (strmUnit k) (decVx ws)).findSome? (fun a => v.pathAt a 64) = none := List.findSome?_eq_none_iff.mpr hrec
  have hpath : (if (decVx ws).statEn then u.pathAt (u.recSlot (strmUnit k) (decVx ws).stat) 64 else none) = none := by
    split
    · exact hstat ‹_›
    · rfl
  rw [Dev.vxRowsRun] at hrows
  unfold Dev.vxStart
  rw [h]
  simp only [he, hpaths, hrows, hpath]
  rfl

theorem Dev.vxRowsRun_complete (h : (v.core (strmUnit k)).sound) (ws : List W64) : ∃ u st, v.vxRowsRun k ws = (u, st, none) := by
  obtain ⟨b, hb⟩ := v.overlapAt_core k (strmUnit k) ws (strmUnit k)
  refine Dev.vRows_complete (fun _ r hk => (decVx ws).rowBad_of_sound hk r) (fun _ r hu => Dev.vxRow_sound hu _ _ r) ?_ _ _
  rw [hb]
  exact h

/-- The rows change the core's memories and its generators alone, so that the stacks and the place of its records stand (R255). -/
theorem Dev.vxRowsRun_keeps (hrows : v.vxRowsRun k ws = (u, st, none)) : u.hbm = v.hbm ∧ (∀ p, u.moult.stale p = v.moult.stale p) ∧
    ∀ s, u.recSlot (strmUnit k) s = v.recSlot (strmUnit k) s := by
  have hover := v.overlapAt_within k (strmUnit k) ws
  have hrun : Dev.Within [.spads, .accs, .coreGens, .free] (v.overlapAt k (strmUnit k) ws) u := by
    rw [show u = (v.vxRowsRun k ws).1 by rw [hrows]]
    exact Dev.vRows_within (fun w r => w.vxRow_within _ _ _ r) (Dev.Within.refl _ _)
  obtain ⟨b, hb⟩ := v.overlapAt_core k (strmUnit k) ws (strmUnit k)
  obtain ⟨-, -, -, -, -, -, hbase, -⟩ := hrun.1 .coreRegs (by decide) (strmUnit k)
  refine ⟨(hrun.hbm_eq (by decide)).trans (v.overlapAt_hbm k _ ws),
    fun p => (hrun.stale_eq (by decide) p).trans (hover.stale_eq (by decide) p), fun s => ?_⟩
  rw [Dev.recSlot, hbase, hb, Dev.recSlot]

end

/-- A merge changes no core, whether it takes effect or is held. -/
theorem Dev.submit_merge_cores (v : Dev) (r : Nat) (st : Stats) (req : Nat) (owner : Option Owner) :
    (v.submit (.merge r st) req owner).cores = v.cores := by
  have hslot : ∀ (u : Dev) (ch : Nat), (u.tookSlot ch).cores = u.cores := fun u ch => by
    unfold Dev.tookSlot
    split <;> rfl
  unfold Dev.submit
  dsimp only
  split
  · exact hslot _ _
  · split
    · exact hslot _ _
    · rfl

theorem Dev.reported_cores (v : Dev) (c : Nat) (o : VxOps) (st : Stats) (owner : Option Owner) : (v.reported c o st owner).cores = v.cores := by
  unfold Dev.reported
  split
  · exact v.submit_merge_cores _ _ _ _
  · rfl

/-- The record of an entry whose report nothing holds back is its old words merged with the report (R229). -/
theorem Dev.reported_record {v : Dev} {c : Nat} {o : VxOps} (hs : o.statEn = true) (hb : v.hbm.busy = false)
    (hstale : v.moult.stale (v.recSlot c o.stat / 65536) = false) (st : Stats) (owner : Option Owner) :
    (v.reported c o st owner).recWords (v.recSlot c o.stat) 8 = mergeStats (v.recWords (v.recSlot c o.stat) 8) st := by
  have hnow : v.mustHold (.merge (v.recSlot c o.stat) st) = false := by simp [Dev.mustHold, taskDst, hb, hstale]
  rw [Dev.reported, if_pos hs, Dev.recWords_congr (Dev.submit_now hnow c owner).1]
  exact (v.applyTask_merge _ st).1

theorem Dev.started_recWords (v : Dev) (k : Nat) (f : Flight) (empty : Bool) (a n : Nat) : (v.started k f empty).recWords a n = v.recWords a n :=
  Dev.recWords_congr ((v.started_within k f empty).mem_eq (by decide)) a n

theorem exec_vector (c : CoreId) (s : State) :
    ∀ x ∈ [(Instr.vEw c, 0x10), (.vRed c, 0x11), (.vRowexp c, 0x12), (.vTopk c, 0x13), (.vQuant c, 0x14), (.vStat c, 0x15)],
      exec x.1 s = .next (s.ends (s.dev.vxStart (3 * c.val + 1) x.2)) := by
  simp only [List.forall_mem_cons]
  exact ⟨rfl, rfl, rfl, rfl, rfl, rfl, fun _ h => absurd h List.not_mem_nil⟩

/-- Settles O24: the rows of a sound core run to their end and move no record, so that the report is delivered and the entry starts. -/
theorem vectorEntriesComplete : Obligations.VectorEntriesComplete := by
  intro c s ws x hx h o k
  have hexec := exec_vector c s x hx
  have hc : strmUnit k = c.val := strmUnit_vx c
  refine ⟨fun he => ?_, fun he hrec hspad hacc hstat => ?_⟩
  · have hstart := Dev.vxStart_empty h he
    exact ⟨_, hexec.trans (by rw [hstart]), Dev.started_cores _ _ _ _, (Dev.started_within _ _ _ _).hbm_eq (by decide),
      _, Dev.mem_started_flights _ _ _ _, rfl, rfl, rfl, rfl⟩
  · obtain ⟨u, st, hrows⟩ := Dev.vxRowsRun_complete (v := s.dev) (k := k) (by rw [hc]; exact ⟨hspad, hacc⟩) ws
    obtain ⟨hhbm, hstale, hslot⟩ := Dev.vxRowsRun_keeps hrows
    have hstart := Dev.vxStart_works h he (by rw [hc]; exact hrec) hrows fun hs => by
      rw [hslot, Dev.pathAt_congr hhbm, hc]
      exact hstat hs
    rw [Dev.vxRowsRun, hc] at hrows
    rw [hc] at hstart hslot
    refine ⟨u, st, _, hrows, hexec.trans (by rw [hstart]), ?_, fun hs hbusy hfresh => ?_, _, Dev.mem_started_flights _ _ _ _, rfl, rfl, rfl, rfl⟩
    · rw [Dev.started_core, Dev.core_congr (u.reported_cores _ _ _ _)]
    · have hrecord := Dev.reported_record hs (by rw [hhbm]; exact hbusy) (by rw [hstale, hslot]; exact hfresh) st
        (some (.entry k (s.dev.strm k).next))
      rw [hslot, Dev.recWords_congr (v := s.dev) (w := u) (by rw [hhbm])] at hrecord
      exact (Dev.started_recWords _ _ _ _ _ _).trans hrecord

/-! ### Writes that nothing holds (R440, R573) -/

theorem mwrite_append (m : Mem) (a : Nat) (xs ys : List Byte) : mwrite m a (xs ++ ys) = mwrite (mwrite m a xs) (a + xs.length) ys := by
  induction xs generalizing m a with
  | nil => rfl
  | cons x xs ih => simp [mwrite, ih, Nat.add_assoc, Nat.add_comm 1]

/-- No Moult is active and no map rebuild fills the stacks, so that a write that arrives takes effect. -/
def Dev.holdsNone (v : Dev) : Prop := v.moult.active = false ∧ v.hbm.busy = false

theorem Dev.holdsNone.mustHold {v : Dev} (h : v.holdsNone) (t : EngTask) : v.mustHold t = false := by
  simp [Dev.mustHold, Moult.stale, h.1, h.2]

theorem Dev.Within.holdsNone {F : List Part} {v w : Dev} (h : Dev.Within F v w) (hm : Part.moult ∉ F) (hp : Part.map ∉ F) (hv : v.holdsNone) :
    w.holdsNone := by
  obtain ⟨-, hbusy, -⟩ := h.1 .map hp
  exact ⟨(h.active_eq hm).trans hv.1, hbusy.trans hv.2⟩

/-- The granules of a write land one after the other, as one write of all its bytes. -/
theorem Dev.stackWriteN_mem (req : Nat) (owner : Option Owner) (fuel : Nat) : ∀ (v : Dev) (a : Nat) (bs : List Byte), v.holdsNone →
    bs = [] ∨ a % 64 + bs.length ≤ 64 * fuel → (v.stackWriteN a bs req owner fuel).hbm.mem = mwrite v.hbm.mem a bs := by
  induction fuel with
  | zero =>
    intro v a bs _ hfuel
    obtain rfl : bs = [] := hfuel.elim id fun h => List.length_eq_zero_iff.mp (by omega)
    rfl
  | succ fuel ih =>
    intro v a bs hv hfuel
    unfold Dev.stackWriteN
    by_cases hz : bs = []
    · simp [hz, mwrite]
    · have hlen := hfuel.resolve_left hz
      have hsub := v.submit_within (.write a (bs.take (64 - a % 64))) req owner
      have hmem : (v.submit (.write a (bs.take (64 - a % 64))) req owner).hbm.mem = mwrite v.hbm.mem a (bs.take (64 - a % 64)) :=
        (Dev.submit_now (hv.mustHold _) req owner).1
      have hrest := ih _ (a + (64 - a % 64)) (bs.drop (64 - a % 64)) (hsub.holdsNone (by decide) (by decide) hv) (by
        rw [List.length_drop]
        omega)
      rw [if_neg (by simpa using hz)]
      refine hrest.trans ?_
      rw [hmem]
      by_cases hlast : bs.length ≤ 64 - a % 64
      · rw [List.drop_of_length_le hlast, List.take_of_length_le hlast]
        rfl
      · have htake : (bs.take (64 - a % 64)).length = 64 - a % 64 := List.length_take_of_le (by omega)
        have hsplit := mwrite_append v.hbm.mem a (bs.take (64 - a % 64)) (bs.drop (64 - a % 64))
        rw [htake, List.take_append_drop] at hsplit
        exact hsplit.symm

/-- A write that nothing holds puts its bytes into stack memory, whether or not a channel retrains (R413). -/
theorem Dev.stackWrite_mem {v : Dev} (h : v.holdsNone) (a : Nat) (bs : List Byte) (req : Nat) (owner : Option Owner) :
    (v.stackWrite a bs req owner).hbm.mem = mwrite v.hbm.mem a bs := by
  unfold Dev.stackWrite
  split
  · exact Dev.stackWriteN_mem req owner _ v a bs h (.inr (by omega))
  · rfl

/-! ### Scale updates (R234, R269) -/

theorem foldScale_length (st ws : List W64) : (foldScale st ws).length = ws.length := by
  unfold foldScale
  dsimp only
  split
  · rfl
  · split <;> simp [setHist]

theorem wordsToBytes_append (xs ys : List W64) : wordsToBytes (xs ++ ys) = wordsToBytes xs ++ wordsToBytes ys := by
  induction xs with
  | nil => rfl
  | cons x xs ih => simp [wordsToBytes, ih]

theorem bytesToWords_length (n : Nat) (bs : List Byte) : (bytesToWords n bs).length = n := by
  induction n generalizing bs with
  | zero => rfl
  | succ n ih => simp [bytesToWords, ih]

/-- Two writes, the upper first, read back as one range. -/
theorem mread_mwrite_halves (m : Mem) (a : Nat) (xs ys : List Byte) :
    mread (mwrite (mwrite m (a + xs.length) ys) a xs) a (xs.length + ys.length) = xs ++ ys := by
  rw [mread_add, mread_mwrite, mread_mwrite_outside _ _ _ (.inr (Nat.le_refl _)), mread_mwrite]

/-- Stack memory once a record of eight words has been cleared. -/
def clearRecord (m : Mem) (a : Nat) : Mem := mwrite m a (List.replicate 64 0#8)

theorem recWords_clearRecord (m : Mem) (a : Nat) : bytesToWords 8 (mread (clearRecord m a) a 64) = List.replicate 8 0#64 := by
  have hread := mread_mwrite m a (List.replicate 64 0#8)
  rw [List.length_replicate] at hread
  rw [clearRecord, hread]
  decide

theorem mget_clearRecord_outside (m : Mem) {a x : Nat} (h : x < a ∨ a + 64 ≤ x) : mget (clearRecord m a) x = mget m x :=
  mget_mwrite_outside _ _ _ (by rwa [List.length_replicate])

theorem mread_clearRecord_outside (m : Mem) {a b n : Nat} (h : b + n ≤ a ∨ a + 64 ≤ b) : mread (clearRecord m a) b n = mread m b n :=
  mread_mwrite_outside _ _ _ (by rwa [List.length_replicate])

/-- Stack memory once a record of sixteen words has been written, its upper half first. -/
def putHalves (m : Mem) (a : Nat) (ws : List W64) : Mem := mwrite (mwrite m (a + 64) (wordsToBytes (ws.drop 8))) a (wordsToBytes (ws.take 8))

section
variable {ws : List W64} (hw : ws.length = 16)
include hw

theorem wordsToBytes_halves_length : (wordsToBytes (ws.take 8)).length = 64 ∧ (wordsToBytes (ws.drop 8)).length = 64 := by
  simp [wordsToBytes_length, hw]

theorem recWords_putHalves (m : Mem) (a : Nat) : bytesToWords 16 (mread (putHalves m a ws) a 128) = ws := by
  obtain ⟨hlow, hhigh⟩ := wordsToBytes_halves_length hw
  have hread := mread_mwrite_halves m a (wordsToBytes (ws.take 8)) (wordsToBytes (ws.drop 8))
  rw [hlow, hhigh, ← wordsToBytes_append, List.take_append_drop] at hread
  rw [putHalves, hread, ← hw, bytesToWords_wordsToBytes]

theorem mget_putHalves_outside (m : Mem) {a x : Nat} (h : x < a ∨ a + 128 ≤ x) : mget (putHalves m a ws) x = mget m x := by
  obtain ⟨hlow, hhigh⟩ := wordsToBytes_halves_length hw
  rw [putHalves, mget_mwrite_outside _ _ _ (by omega), mget_mwrite_outside _ _ _ (by omega)]

theorem mread_putHalves_outside (m : Mem) {a b n : Nat} (h : b + n ≤ a ∨ a + 128 ≤ b) : mread (putHalves m a ws) b n = mread m b n := by
  obtain ⟨hlow, hhigh⟩ := wordsToBytes_halves_length hw
  rw [putHalves, mread_mwrite_outside _ _ _ (by omega), mread_mwrite_outside _ _ _ (by omega)]

end

/-- The report read, the statistics record cleared, and the scale record written where folding changes it. -/
theorem Dev.scaleUpdate_mem {v : Dev} (h : v.holdsNone) (st rcd req : Nat) (owner : Option Owner) : (v.scaleUpdate st rcd req owner).hbm.mem =
    if foldScale (v.recWords st 8) (v.recWords rcd 16) = v.recWords rcd 16 then clearRecord v.hbm.mem st
    else putHalves (clearRecord v.hbm.mem st) rcd (foldScale (v.recWords st 8) (v.recWords rcd 16)) := by
  have hkeep : ∀ (u : Dev) (a : Nat) (bs : List Byte), u.holdsNone → (u.stackWrite a bs req owner).holdsNone := fun u a bs =>
    (u.stackWrite_within a bs req owner).holdsNone (by decide) (by decide)
  unfold Dev.scaleUpdate
  dsimp only
  split
  · exact Dev.stackWrite_mem h _ _ _ _
  · rw [Dev.stackWrite_mem (hkeep _ _ _ (hkeep _ _ _ h)), Dev.stackWrite_mem (hkeep _ _ _ h), Dev.stackWrite_mem h]
    rfl

/-- A scale update of two records that lie apart clears the one, folds its report into the other, and touches no other byte (R234). -/
theorem Dev.scaleUpdate_effect {v : Dev} {st rcd : Nat} (h : v.holdsNone) (hapart : st + 64 ≤ rcd ∨ rcd + 128 ≤ st) (req : Nat)
    (owner : Option Owner) : (v.scaleUpdate st rcd req owner).recWords st 8 = List.replicate 8 0#64 ∧
    (v.scaleUpdate st rcd req owner).recWords rcd 16 = foldScale (v.recWords st 8) (v.recWords rcd 16) ∧
    ∀ a, (a < st ∨ st + 64 ≤ a) → (a < rcd ∨ rcd + 128 ≤ a) → mget (v.scaleUpdate st rcd req owner).hbm.mem a = mget v.hbm.mem a := by
  have hlen : (foldScale (v.recWords st 8) (v.recWords rcd 16)).length = 16 := (foldScale_length _ _).trans (bytesToWords_length _ _)
  have hmem := Dev.scaleUpdate_mem h st rcd req owner
  generalize v.scaleUpdate st rcd req owner = w at hmem ⊢
  unfold Dev.recWords Dev.stk8 at hmem hlen ⊢
  rw [hmem]
  split
  next hsame =>
    refine ⟨recWords_clearRecord _ _, ?_, fun a ha _ => mget_clearRecord_outside _ ha⟩
    rw [mread_clearRecord_outside _ (by omega), hsame]
  next =>
    refine ⟨?_, recWords_putHalves hlen _ _, fun a ha hb => (mget_putHalves_outside hlen _ hb).trans (mget_clearRecord_outside _ ha)⟩
    rw [mread_putHalves_outside hlen _ (by omega), recWords_clearRecord]

theorem Dev.SameTasks.holdsNone {v w : Dev} (h : v.SameTasks w) (hv : v.holdsNone) : w.holdsNone :=
  ⟨(congrArg Moult.active h.moult).trans hv.1, h.busy.trans hv.2⟩

/-- The device once the head of stream k has folded the report at st into the scale record at rcd. -/
def Dev.scaleUpdated (v : Dev) (k : Nat) (ws : List W64) (st rcd req idx : Nat) : Dev :=
  (v.scaleUpdate st rcd req (some (.entry k idx))).started k { idx := idx, words := ws, srcDone := true } false

section
variable {v : Dev} {k : Nat} {ws : List W64}

theorem Dev.heldIn_of_none (h : v.moult.held = []) (a n : Nat) : v.heldIn a n = false := by simp [Dev.heldIn, h]

/-- V_SCUPD starts where no write is held and its records meet no path error. -/
theorem Dev.vScupd_starts (h : v.startable k 0x16 = some ws) (hheld : v.moult.held = [])
    (hst : v.pathAt (v.recSlot (strmUnit k) (decVx ws).stat) 64 = none) (hrcd : v.pathAt (v.recSlot (strmUnit k) (decVx ws).s0) 128 = none) :
    v.vScupd k = (v.scaleUpdated k ws (v.recSlot (strmUnit k) (decVx ws).stat) (v.recSlot (strmUnit k) (decVx ws).s0) (strmUnit k)
      (v.strm k).next).nextHead k := by
  unfold Dev.vScupd
  rw [h]
  simp [Dev.heldIn_of_none hheld, hst, hrcd, Dev.scaleUpdated]

/-- SE_SCUPD starts where nothing holds its writes, no queue of its records is full and they meet no path error; what errors of its reads have
been corrected is counted first (R416). -/
theorem Dev.seScupd_starts (h : v.startable k 0x15 = some ws) (hheld : v.moult.held = []) (hb : v.hbm.busy = false)
    (hqst : v.queueFull (decSe ws).statrec.toNat 64 = false) (hqrcd : v.queueFull (decSe ws).aux.toNat 128 = false)
    (hst : v.pathAt (decSe ws).statrec.toNat 64 = none) (hrcd : v.pathAt (decSe ws).aux.toNat 128 = none) :
    ∃ u : Dev, v.SameTasks u ∧ v.seScupd k =
      (u.scaleUpdated k ws (decSe ws).statrec.toNat (decSe ws).aux.toNat (strmSrc k) (v.strm k).next).nextHead k := by
  refine ⟨v.forAll [((decSe ws).statrec.toNat, 64), ((decSe ws).aux.toNat, 128)] (fun u e => u.softErrs e.1 e.2),
    Dev.SameTasks.forAll (fun u (e : Nat × Nat) => u.softErrs_sameTasks e.1 e.2) _ v, ?_⟩
  unfold Dev.seScupd Dev.seRun
  rw [h]
  simp [Dev.heldIn_of_none hheld, hb, hqst, hqrcd, hst, hrcd, Dev.scaleUpdated]

end

/-- Settles O26: both forms start with the same update, which lands whole because nothing holds its writes. -/
theorem scaleUpdatesComplete : Obligations.ScaleUpdatesComplete := by
  intro s ws k st rcd i hform hactive hheld hbusy hqst hqrcd hpst hprcd hapart
  have hstarts : ∃ (u : Dev) (req : Nat), s.dev.SameTasks u ∧
      exec i s = .next (s.ends ((u.scaleUpdated k ws st rcd req (s.dev.strm k).next).nextHead k)) := by
    obtain ⟨c, rfl, rfl, h, rfl, rfl⟩ | ⟨j, rfl, rfl, h, rfl, rfl⟩ := hform
    · have hc : strmUnit (3 * c.val + 1) = c.val := strmUnit_vx c
      have hstart := Dev.vScupd_starts h hheld (by rw [hc]; exact hpst) (by rw [hc]; exact hprcd)
      rw [hc] at hstart
      exact ⟨s.dev, c.val, Dev.SameTasks.refl _, congrArg (fun w => Host.Outcome.next (s.ends w)) hstart⟩
    · obtain ⟨u, hu, hstart⟩ := Dev.seScupd_starts h hheld hbusy hqst hqrcd hpst hprcd
      exact ⟨u, _, hu, congrArg (fun w => Host.Outcome.next (s.ends w)) hstart⟩
  obtain ⟨u, req, hu, hexec⟩ := hstarts
  obtain ⟨hclear, hfold, hframe⟩ := Dev.scaleUpdate_effect (hu.holdsNone ⟨hactive, hbusy⟩) hapart req (some (.entry k (s.dev.strm k).next))
  have hmem : (u.scaleUpdated k ws st rcd req (s.dev.strm k).next).hbm.mem =
      (u.scaleUpdate st rcd req (some (.entry k (s.dev.strm k).next))).hbm.mem := (Dev.started_within _ _ _ _).mem_eq (by decide)
  refine ⟨_, hexec, (Dev.recWords_congr hmem _ _).trans hclear, (Dev.recWords_congr hmem _ _).trans (hfold.trans ?_), fun a ha hb => ?_,
    _, Dev.mem_started_flights _ _ _ _, rfl, rfl, rfl, rfl⟩
  · rw [Dev.recWords_congr hu.mem, Dev.recWords_congr hu.mem]
  · rw [hmem, hframe a ha hb, hu.mem]

end Sys2Proof.Machine

/-! Scalar contexts and the lines they reach (08, 09): contexts read off a frame, what a fetch leaves as it was, what each operation of
Machine/Scalar leaves in its context, and a line of the L1 written and read. -/

namespace Sys2Proof.Machine

/-! ### Contexts, regions and lines read off a frame -/

section
variable {F : List Part} {v w : Dev}

theorem Dev.Within.ctx_eq (h : Dev.Within F v w) (hp : Part.contexts ∉ F) (c x : Nat) : w.ctx c x = v.ctx c x := by
  have hctxs : (w.core c).ctxs = (v.core c).ctxs := h.1 .contexts hp c
  rw [Dev.ctx, hctxs, Dev.ctx]

theorem Dev.Within.bar_eq (h : Dev.Within F v w) (hp : Part.barriers ∉ F) (u : Nat) : w.bar u = v.bar u := by
  have hbars : w.bars = v.bars := h.1 .barriers hp
  rw [Dev.bar, hbars, Dev.bar]

theorem Dev.Within.barOk_eq (h : Dev.Within F v w) (hp : Part.barriers ∉ F) (c u : Nat) : w.barOk c u = v.barOk c u := by
  rw [Dev.barOk, h.bar_eq hp, Dev.barOk]

theorem Dev.Within.rgnFind_eq (h : Dev.Within F v w) (hp : Part.regions ∉ F) (die a n : Nat) : w.rgnFind die a n = v.rgnFind die a n := by
  have hrgn : w.rgn = v.rgn := h.1 .regions hp
  rw [Dev.rgnFind, hrgn, Dev.rgnFind]

theorem Dev.Within.permits_eq (h : Dev.Within F v w) (hp : Part.regions ∉ F) (die a n : Nat) (wr remote : Bool) :
    w.permits die a n wr remote = v.permits die a n wr remote := by
  rw [Dev.permits, h.rgnFind_eq hp, Dev.permits]

theorem Dev.Within.cacheable_eq (h : Dev.Within F v w) (hp : Part.regions ∉ F) (c a n : Nat) : w.cacheable c a n = v.cacheable c a n := by
  rw [Dev.cacheable, h.rgnFind_eq hp, Dev.cacheable]

theorem Dev.Within.otherModule_eq (h : Dev.Within F v w) (hp : Part.chip ∉ F) (a : W64) : w.otherModule a = v.otherModule a := by
  rw [Dev.otherModule, h.chip_eq hp, Dev.otherModule]

theorem Dev.Within.l1_eq (h : Dev.Within F v w) (hp : Part.caches ∉ F) (c : Nat) : (w.core c).l1 = (v.core c).l1 := (h.1 .caches hp c).1

theorem Dev.Within.l2_eq (h : Dev.Within F v w) (hp : Part.caches ∉ F) (c : Nat) : (w.core c).l2 = (v.core c).l2 := (h.1 .caches hp c).2

end

@[simp] theorem Dev.ctx_modCtx_same (v : Dev) (c x : Nat) (g : Ctx → Ctx) : (v.modCtx c x g).ctx c x = g (v.ctx c x) := by
  simp [Dev.ctx, Dev.modCtx]

theorem Dev.ctx_modCtx_ne (v : Dev) (c : Nat) {x y : Nat} (g : Ctx → Ctx) (h : y ≠ x) : (v.modCtx c x g).ctx c y = v.ctx c y := by
  simp [Dev.ctx, Dev.modCtx, tget_tmod_ne _ _ _ h]

theorem Core.l1Line_congr {a b : Core} (h : b.l1 = a.l1) (n : Nat) : b.l1Line n = a.l1Line n := by rw [Core.l1Line, h, Core.l1Line]

theorem Core.l2Line_congr {a b : Core} (h : b.l2 = a.l2) (n : Nat) : b.l2Line n = a.l2Line n := by rw [Core.l2Line, h, Core.l2Line]

theorem Core.l1Read_congr {a b : Core} (h : b.l1 = a.l1) (x n : Nat) : b.l1Read x n = a.l1Read x n := by
  rw [Core.l1Read, Core.l1Line_congr h, Core.l1Read]

/-! ### Registers of a context -/

theorem Ctx.reg_setReg_same (q : Ctx) {r : Nat} (h : r ≠ 0) (w : W64) : (q.setReg r w).reg r = w := by simp [Ctx.setReg, Ctx.reg, h]

theorem Ctx.reg_setReg_ne (q : Ctx) {r j : Nat} (h : j ≠ r) (w : W64) : (q.setReg r w).reg j = q.reg j := by
  by_cases hr : r = 0
  · rw [hr, Ctx.setReg_zero]
  · simp [Ctx.setReg, Ctx.reg, hr, tget_tset_ne _ _ _ h]

/-! ### What a fetch leaves as it was (R282) -/

/-- Stack memory and every L1 line read the same in both. -/
def Dev.SameLines (v w : Dev) : Prop := w.hbm.mem = v.hbm.mem ∧ ∀ c, (w.core c).l1 = (v.core c).l1

theorem Dev.SameLines.refl (v : Dev) : v.SameLines v := ⟨rfl, fun _ => rfl⟩

theorem Dev.SameLines.trans {u v w : Dev} (h : u.SameLines v) (g : v.SameLines w) : u.SameLines w :=
  ⟨g.1.trans h.1, fun c => (g.2 c).trans (h.2 c)⟩

theorem Dev.Within.sameLines {F : List Part} {v w : Dev} (h : Dev.Within F v w) (hm : Part.stackMem ∉ F) (hc : Part.caches ∉ F) : v.SameLines w :=
  ⟨h.mem_eq hm, h.l1_eq hc⟩

theorem Dev.modCore_sameLines (v : Dev) (c : Nat) {g : Core → Core} (h : ∀ k, (g k).l1 = k.l1) : v.SameLines (v.modCore c g) := by
  refine ⟨rfl, fun x => ?_⟩
  by_cases hx : x = c
  · rw [hx, Dev.core_modCore_same, h]
  · rw [Dev.core_modCore_ne v g hx]

/-- A path error is counted and posted, and touches no byte. -/
theorem Dev.pathError_mem (v : Dev) (x req : Nat) : (v.pathError x req).hbm.mem = v.hbm.mem := rfl

/-- A read of the module's memories writes none of them. -/
theorem Dev.rdModule_sameLines (v : Dev) (die off n req : Nat) : v.SameLines (v.rdModule die off n req).2 := by
  refine ⟨?_, (Dev.rdModule_within v die off n req).l1_eq (by decide)⟩
  unfold Dev.rdModule
  cases placeOf off with
  | stack a =>
    dsimp only
    split
    · exact v.pathError_mem _ req
    · exact v.softErrs_mem a n
  | spad c a =>
    dsimp only
    split
    · rfl
    · split
      · exact (Dev.memParity_within _ _ _ _).mem_eq (by decide)
      · rfl
  | sync a =>
    dsimp only
    split
    · rfl
    · exact (Dev.syncBad_within _ _ _).mem_eq (by decide)
  | hole => rfl
  | atomic op a => rfl
  | version a => rfl
  | none => rfl

theorem Dev.l2Scrub_sameLines (v : Dev) (c n off len : Nat) : v.SameLines (v.l2Scrub c n off len) := by
  unfold Dev.l2Scrub
  split
  · exact v.modCore_sameLines c fun _ => rfl
  · exact Dev.SameLines.refl v

theorem Dev.l2Fill_sameLines (v : Dev) (c n : Nat) (bs : List Byte) : v.SameLines (v.l2Fill c n bs) := by
  unfold Dev.l2Fill
  dsimp only
  split
  · exact v.modCore_sameLines c fun _ => rfl
  · exact ((Dev.draw_within v).sameLines (by decide) (by decide)).trans (Dev.modCore_sameLines _ c fun _ => rfl)

theorem Dev.l2Read_sameLines (v : Dev) (c n off len : Nat) (keep : Bool) (req : Nat) : v.SameLines (v.l2Read c n off len keep req).2 := by
  have hscrub := v.l2Scrub_sameLines c n off len
  have hread := (v.l2Scrub c n off len).rdModule_sameLines (coreDie c) (64 * n) 64 req
  unfold Dev.l2Read
  dsimp only
  generalize (v.l2Scrub c n off len).rdModule (coreDie c) (64 * n) 64 req = r at hread ⊢
  obtain ⟨acc, u⟩ := r
  split
  · exact hscrub
  · cases acc with
    | err e => exact hscrub.trans hread
    | ok bs => cases keep with
      | false => exact hscrub.trans hread
      | true => exact (hscrub.trans hread).trans (u.l2Fill_sameLines c n bs)

/-- The bytes of one line that a fetch of n bytes at a reads; true where the read fails. -/
def Dev.fetchLine (v : Dev) (c a n : Nat) (keep : Bool) (l : Nat) : Bool × Dev :=
  match (if keep then v.l2Read c l (max a (64 * l) - 64 * l) (min (a + n) (64 * l + 64) - max a (64 * l)) true c
    else v.rdModule (coreDie c) (max a (64 * l)) (min (a + n) (64 * l + 64) - max a (64 * l)) c) with
  | (.ok _, w) => (false, w)
  | (.err _, w) => (true, w)

theorem Dev.fetchLine_sameLines (v : Dev) (c a n : Nat) (keep : Bool) (l : Nat) : v.SameLines (v.fetchLine c a n keep l).2 := by
  have hread : v.SameLines (if keep then v.l2Read c l (max a (64 * l) - 64 * l) (min (a + n) (64 * l + 64) - max a (64 * l)) true c
      else v.rdModule (coreDie c) (max a (64 * l)) (min (a + n) (64 * l + 64) - max a (64 * l)) c).2 := by
    cases keep with
    | true => exact v.l2Read_sameLines _ _ _ _ _ _
    | false => exact v.rdModule_sameLines _ _ _ _
  unfold Dev.fetchLine
  split <;> rename_i heq <;> rw [heq] at hread <;> exact hread

/-- A fetch reads its first line, and its last where it crosses into another. -/
theorem Dev.sclFetch_eq (v : Dev) (c a n : Nat) : v.sclFetch c a n =
    if !(v.core c).inWindow a n || !v.permits (coreDie c) a n false false || decide (fld (w64 a) 63 48 ≠ 0) then (true, v)
    else
      let r := v.fetchLine c a n (v.cacheable c a n) (a / 64)
      if r.1 || a / 64 = (a + n - 1) / 64 then r else r.2.fetchLine c a n (v.cacheable c a n) ((a + n - 1) / 64) := rfl

theorem Dev.sclFetch_sameLines (v : Dev) (c a n : Nat) : v.SameLines (v.sclFetch c a n).2 := by
  have hfirst := v.fetchLine_sameLines c a n (v.cacheable c a n) (a / 64)
  rw [Dev.sclFetch_eq]
  split
  · exact Dev.SameLines.refl v
  · dsimp only
    split
    · exact hfirst
    · exact hfirst.trans (Dev.fetchLine_sameLines _ _ _ _ _ _)

/-! ### One instruction of a running context (R283, R291) -/

/-- The parts a fetch may change. -/
def fetchParts : List Part := [.caches, .coreRegs, .syncStatus, .stackMem, .channels, .hif, .free]

theorem Dev.fetched_within {v u : Dev} {c a n : Nat} {b : Bool} (h : v.sclFetch c a n = (b, u)) : Dev.Within fetchParts v u := by
  have hfetch := Dev.sclFetch_within v c a n
  rw [h] at hfetch
  exact hfetch

theorem Dev.fetched_sameLines {v u : Dev} {c a n : Nat} {b : Bool} (h : v.sclFetch c a n = (b, u)) : v.SameLines u := by
  have hfetch := v.sclFetch_sameLines c a n
  rw [h] at hfetch
  exact hfetch

section
variable {v u : Dev} {c x n : Nat} (hrun : (v.ctx c x).state = .running) (hissue : v.issueOk = true)
include hrun hissue

/-- An instruction that is fetched takes its effect on what the fetch has left. -/
theorem Dev.sclRun_fetched (h : v.sclFetch c (v.ctx c x).pc.toNat n = (false, u)) (f : Dev → W64 → Dev) :
    v.sclRun c x n f = f u (v.ctx c x).pc := by
  unfold Dev.sclRun
  simp [hrun, hissue, h]

/-- An instruction that cannot be fetched stops its context with CAUSE 1. -/
theorem Dev.sclRun_unfetched (h : v.sclFetch c (v.ctx c x).pc.toNat n = (true, u)) (f : Dev → W64 → Dev) :
    v.sclRun c x n f = u.sclFault c x 1 (v.ctx c x).pc := by
  unfold Dev.sclRun
  simp [hrun, hissue, h, causeFetch]

end

/-! ### The context after each operation -/

@[simp] theorem Dev.sclFault_ctx (v : Dev) (c x cause : Nat) (p : W64) : (v.sclFault c x cause p).ctx c x =
    { v.ctx c x with state := .faulted, cause := cause, pc := p, wait := .none, stopping := false } := by
  unfold Dev.sclFault
  rw [(Dev.ev_within _ _ _ _ _ _).ctx_eq (by decide), Dev.ctx_modCtx_same]

@[simp] theorem Dev.sclGo_ctx (v : Dev) (c x : Nat) (p : W64) : (v.sclGo c x p).ctx c x = (v.ctx c x).go p := Dev.ctx_modCtx_same _ _ _ _

@[simp] theorem Dev.sclWait_ctx (v : Dev) (c x : Nat) (w : CtxWait) : (v.sclWait c x w).ctx c x = { v.ctx c x with state := .waiting, wait := w } :=
  Dev.ctx_modCtx_same _ _ _ _

@[simp] theorem Dev.sclLoaded_ctx (v : Dev) (c x rd size : Nat) (uns : Bool) (bs : List Byte) (p : W64) :
    (v.sclLoaded c x rd size uns bs p).ctx c x = ((v.ctx c x).setReg rd (extLoad bs size uns)).go p := Dev.ctx_modCtx_same _ _ _ _

@[simp] theorem Dev.sclSet_ctx (v : Dev) (c x rd : Nat) (val p : W64) : (v.sclSet c x rd val p).ctx c x = ((v.ctx c x).setReg rd val).go p :=
  Dev.ctx_modCtx_same _ _ _ _

theorem tget_map_fixed {α : Type} {d : α} {f : Nat × α → Nat × α} {k : Nat} (hkey : ∀ e, (f e).1 = e.1)
    (hfix : ∀ e, e.1 = k → f e = e) (t : Tab α) :
    tget d (t.map f) k = tget d t k := by
  induction t with
  | nil => rfl
  | cons e r ih =>
    by_cases h : e.1 = k
    · simp [tget, hfix e h, h]
    · simp [tget, hkey, h, ih]

/-- A write by a context leaves its own reservation (R280). -/
@[simp] theorem Dev.clearRes_ctx (v : Dev) (c x line : Nat) : (v.clearRes c x line).ctx c x = v.ctx c x := by
  have hkey : ∀ e : Nat × Ctx, (if e.1 ≠ x ∧ e.2.reservation = some line then (e.1, { e.2 with reservation := none }) else e).1 = e.1 := fun e => by
    split <;> rfl
  have hfix : ∀ e : Nat × Ctx, e.1 = x → (if e.1 ≠ x ∧ e.2.reservation = some line then (e.1, { e.2 with reservation := none }) else e) = e :=
    fun e he => if_neg fun h => h.1 he
  simp [Dev.ctx, Dev.clearRes, tget_map_fixed hkey hfix]

/-! ### A line of the L1 (R300) -/

theorem CLine.here_of_length {l : CLine} (h : l.data.length = 64) : l.here = true := by
  cases hd : l.data with
  | nil => simp [hd] at h
  | cons b bs => simp [CLine.here, hd]

theorem CLine.badIn_of_none {l : CLine} (h : l.bad = []) (off n : Nat) : l.badIn off n = false := by simp [CLine.badIn, h]

/-- A line that is present and whose bytes asked for have good parity is found. -/
theorem Dev.l1Look_hit {v : Dev} {c a n : Nat} {reads : Bool} (hh : ((v.core c).l1Line (a / 64)).here = true)
    (hb : reads = true → ((v.core c).l1Line (a / 64)).badIn (a % 64) n = false) : v.l1Look c a n reads = (.hit, v) := by
  unfold Dev.l1Look
  cases reads with
  | false => simp [hh]
  | true => simp [hh, hb rfl]

theorem Dev.l1Look_miss {v : Dev} {c a : Nat} (hh : ((v.core c).l1Line (a / 64)).here = false) (n : Nat) (reads : Bool) :
    v.l1Look c a n reads = (.miss, v) := by simp [Dev.l1Look, hh]

theorem Dev.l1Bring_hit {v : Dev} {c a n : Nat} {reads : Bool} (h : v.l1Look c a n reads = (.hit, v)) (cause : Nat) :
    v.l1Bring c a n reads cause = (none, v) := by simp [Dev.l1Bring, h]

theorem Core.l1Line_l1Write (k : Core) (a : Nat) (bs : List Byte) :
    (k.l1Write a bs).l1Line (a / 64) = { (k.l1Line (a / 64)).put (a % 64) bs with dirty := true } := tget_tset_same _ _ _ _

/-- Bytes written inside a line are the bytes read back. -/
theorem Core.l1Read_l1Write {k : Core} {a : Nat} (hl : (k.l1Line (a / 64)).data.length = 64) (bs : List Byte) :
    (k.l1Write a bs).l1Read a bs.length = bs := by
  have htake : ((k.l1Line (a / 64)).data.take (a % 64)).length = a % 64 := List.length_take_of_le (by omega)
  rw [Core.l1Read, Core.l1Line_l1Write, CLine.put]
  dsimp only
  rw [List.append_assoc, List.drop_left' htake, List.take_left]

end Sys2Proof.Machine

/-! Launching and stopping scalar contexts (08), and from it O36. -/

namespace Sys2Proof.Machine

/-! ### Marks on outstanding misses (R290) -/

/-- An invalidation marks no wait of this kind. -/
def CtxWait.markless (w : CtxWait) : Prop := ∀ a n, w.unkept a n = w

/-- A context that invalidations have passed by: it may differ in the mark on a miss outstanding, and in nothing else. -/
def Ctx.passedBy (q r : Ctx) : Prop := r = { q with wait := r.wait } ∧ (q.wait.markless → r.wait = q.wait)

theorem Ctx.passedBy_refl (q : Ctx) : q.passedBy q := ⟨rfl, fun _ => rfl⟩

theorem Ctx.passedBy.trans {q r z : Ctx} (h : q.passedBy r) (g : r.passedBy z) : q.passedBy z := by
  refine ⟨g.1.trans (by rw [h.1]), fun hq => ?_⟩
  have hr : r.wait = q.wait := h.2 hq
  exact (g.2 (hr ▸ hq)).trans hr

theorem Ctx.passedBy_unkept (q : Ctx) (a n : Nat) : q.passedBy { q with wait := q.wait.unkept a n } := ⟨rfl, fun h => h a n⟩

/-- What the obligation asks of a context that keeps everything but the mark. -/
theorem Ctx.passedBy.keeps {q r : Ctx} (h : q.passedBy r) : { r with wait := q.wait } = q := by rw [h.1]

theorem Core.invalLines_ctx (k : Core) (a n : Nat) (l1 : Bool) (x : Nat) :
    tget {} (k.invalLines a n l1).ctxs x = { tget {} k.ctxs x with wait := (tget {} k.ctxs x).wait.unkept a n } :=
  tget_map (g := fun q : Ctx => { q with wait := q.wait.unkept a n }) rfl k.ctxs x

/-! ### Launch and stop (R281, R282, R284, R290, R293) -/

/-- The lines of a core's code window leave its L2 (R282). -/
def Core.dropCode (k : Core) : Core := match k.codeWindow with
  | none => k
  | some w => k.invalLines w.1 w.2 false

/-- A context as it is launched: its number in x10, its core in x11, every other register 0. -/
def Ctx.launched (q : Ctx) (c x : Nat) : Ctx :=
  ({ pc := q.pc, launch := q.pc, state := .running, posted := q.posted : Ctx }.setReg 10 (w64 x)).setReg 11 (w64 c)

theorem Dev.sclLaunch_eq (v : Dev) (c x : Nat) : v.sclLaunch c x = (v.modCore c Core.dropCode).modCtx c x (fun q => q.launched c x) := rfl

theorem Dev.dropCode_passedBy (v : Dev) (c x : Nat) : (v.ctx c x).passedBy ((v.modCore c Core.dropCode).ctx c x) := by
  rw [Dev.ctx, Dev.ctx, Dev.core_modCore_same, Core.dropCode]
  split
  · exact Ctx.passedBy_refl _
  · rw [Core.invalLines_ctx]
    exact Ctx.passedBy_unkept _ _ _

theorem Dev.sclLaunch_ctx_ne (v : Dev) (c : Nat) {x y : Nat} (h : y ≠ x) : (v.ctx c y).passedBy ((v.sclLaunch c x).ctx c y) := by
  rw [Dev.sclLaunch_eq, Dev.ctx_modCtx_ne _ _ _ h]
  exact v.dropCode_passedBy c y

theorem Dev.sclLaunch_ctx_same (v : Dev) (c x : Nat) : ∃ r, (v.ctx c x).passedBy r ∧ (v.sclLaunch c x).ctx c x = r.launched c x :=
  ⟨_, v.dropCode_passedBy c x, Dev.ctx_modCtx_same _ _ _ _⟩

theorem Ctx.launched_effect (q : Ctx) (c x : Nat) : (q.launched c x).state = .running ∧ (q.launched c x).pc = q.pc ∧ (q.launched c x).launch = q.pc ∧
    (q.launched c x).wait = .none ∧ (q.launched c x).reg 10 = w64 x ∧ (q.launched c x).reg 11 = w64 c ∧
    ∀ r, r ≠ 10 → r ≠ 11 → (q.launched c x).reg r = 0#64 := by
  refine ⟨rfl, rfl, rfl, rfl, ?_, Ctx.reg_setReg_same _ (by decide) _, fun r h10 h11 => ?_⟩
  · rw [Ctx.launched, Ctx.reg_setReg_ne _ (by decide), Ctx.reg_setReg_same _ (by decide)]
  · rw [Ctx.launched, Ctx.reg_setReg_ne _ h11, Ctx.reg_setReg_ne _ h10]
    simp [Ctx.reg, tget]

theorem Ctx.stopNow_running {q : Ctx} (h : q.state = .running) : q.stopNow = { q with state := .stopped } := if_pos h

/-- A wait on a counter or a barrier is withdrawn (R284). -/
theorem Ctx.stopNow_sync {q : Ctx} (h : q.state ≠ .running) (hw : (∃ a b p, q.wait = .counter a b p) ∨ ∃ a b p, q.wait = .barrier a b p) :
    q.stopNow = { q with state := .stopped, wait := .none } := by
  obtain ⟨a, b, p, hw⟩ | ⟨a, b, p, hw⟩ := hw <;> simp [Ctx.stopNow, h, hw]

/-! ### A write of CORE_SCL_CTL (Table 8.15) -/

/-- What a write of CORE_SCL_CTL does at one context. -/
def Dev.sclCtlOne (v : Dev) (c : Nat) (w : W32) (u : Dev) (n : Nat) : Dev :=
  if (v.ctx c n).busy then (if bit w.toNat (8 + n) then u.modCtx c n Ctx.stopNow else u)
  else if bit w.toNat n then u.sclLaunch c n else u

theorem Dev.sclCtlWrite_eq (v : Dev) (c : Nat) (w : W32) : v.sclCtlWrite c w = v.forAll (List.range 8) (v.sclCtlOne c w) := rfl

theorem Dev.sclCtlOne_ne (v : Dev) (c : Nat) (w : W32) (u : Dev) {n x : Nat} (h : x ≠ n) : (u.ctx c x).passedBy ((v.sclCtlOne c w u n).ctx c x) := by
  unfold Dev.sclCtlOne
  split
  · split
    · rw [Dev.ctx_modCtx_ne _ _ _ h]
      exact Ctx.passedBy_refl _
    · exact Ctx.passedBy_refl _
  · split
    · exact u.sclLaunch_ctx_ne c h
    · exact Ctx.passedBy_refl _

theorem Dev.forAll_sclCtlOne_ne (v : Dev) (c : Nat) (w : W32) {x : Nat} (ns : List Nat) : ∀ u : Dev, x ∉ ns →
    (u.ctx c x).passedBy ((u.forAll ns (v.sclCtlOne c w)).ctx c x) := by
  induction ns with
  | nil => exact fun u _ => Ctx.passedBy_refl _
  | cons n ns ih =>
    intro u h
    rw [List.mem_cons, not_or] at h
    exact (v.sclCtlOne_ne c w u h.1).trans (ih _ h.2)

/-- Invalidations of earlier launches pass a context by, then it is its turn, and those of later launches pass it by. -/
theorem Dev.sclCtlWrite_ctx (v : Dev) (c : Nat) (w : W32) {x : Nat} (hx : x < 8) : ∃ u : Dev,
    (v.ctx c x).passedBy (u.ctx c x) ∧ ((v.sclCtlOne c w u x).ctx c x).passedBy ((v.sclCtlWrite c w).ctx c x) := by
  obtain ⟨before, after, hsplit⟩ := List.append_of_mem (List.mem_range.mpr hx)
  have hnodup : (x :: (before ++ after)).Nodup := List.nodup_middle.mp (hsplit ▸ List.nodup_range)
  rw [List.nodup_cons, List.mem_append, not_or] at hnodup
  obtain ⟨⟨hbefore, hafter⟩, -⟩ := hnodup
  refine ⟨v.forAll before (v.sclCtlOne c w), v.forAll_sclCtlOne_ne c w _ v hbefore, ?_⟩
  rw [Dev.sclCtlWrite_eq, hsplit, Dev.forAll_append]
  exact v.forAll_sclCtlOne_ne c w _ _ hafter

section
variable {v : Dev} {c x : Nat} {w : W32} (hx : x < 8)
include hx

theorem Dev.sclCtlWrite_launches (hb : (v.ctx c x).busy = false) (hr : bit w.toNat x = true) :
    ∃ r, (v.ctx c x).passedBy r ∧ (r.launched c x).passedBy ((v.sclCtlWrite c w).ctx c x) := by
  obtain ⟨u, hbefore, hafter⟩ := v.sclCtlWrite_ctx c w hx
  obtain ⟨r, hr', hl⟩ := u.sclLaunch_ctx_same c x
  have hone : v.sclCtlOne c w u x = u.sclLaunch c x := by simp [Dev.sclCtlOne, hb, hr]
  rw [hone, hl] at hafter
  exact ⟨r, hbefore.trans hr', hafter⟩

theorem Dev.sclCtlWrite_stops (hb : (v.ctx c x).busy = true) (hs : bit w.toNat (8 + x) = true) :
    ∃ r, (v.ctx c x).passedBy r ∧ r.stopNow.passedBy ((v.sclCtlWrite c w).ctx c x) := by
  obtain ⟨u, hbefore, hafter⟩ := v.sclCtlWrite_ctx c w hx
  have hone : v.sclCtlOne c w u x = u.modCtx c x Ctx.stopNow := by simp [Dev.sclCtlOne, hb, hs]
  rw [hone, Dev.ctx_modCtx_same] at hafter
  exact ⟨_, hbefore, hafter⟩

/-- A context that the word names for neither is passed by. -/
theorem Dev.sclCtlWrite_passes (h : if (v.ctx c x).busy then bit w.toNat (8 + x) = false else bit w.toNat x = false) :
    (v.ctx c x).passedBy ((v.sclCtlWrite c w).ctx c x) := by
  obtain ⟨u, hbefore, hafter⟩ := v.sclCtlWrite_ctx c w hx
  have hone : v.sclCtlOne c w u x = u := by
    unfold Dev.sclCtlOne
    split at h
    · rw [if_pos ‹_›, if_neg (Bool.eq_false_iff.mp h)]
    · rw [if_neg ‹_›, if_neg (Bool.eq_false_iff.mp h)]
  rw [hone] at hafter
  exact hbefore.trans hafter

end

/-- The context after it has been launched, whatever misses the later launches mark. -/
theorem Dev.launched_effect {v : Dev} {c x : Nat} {w : W32} (hx : x < 8) (hb : (v.ctx c x).busy = false) (hr : bit w.toNat x = true) :
    let q := (v.sclCtlWrite c w).ctx c x
    q.state = .running ∧ q.pc = (v.ctx c x).pc ∧ q.launch = (v.ctx c x).pc ∧ q.reg 10 = w64 x ∧ q.reg 11 = w64 c ∧
      ∀ r, r ≠ 10 → r ≠ 11 → q.reg r = 0#64 := by
  obtain ⟨r, hbefore, hafter, hwait⟩ := Dev.sclCtlWrite_launches hx hb hr
  have hpc : r.pc = (v.ctx c x).pc := by rw [hbefore.1]
  obtain ⟨hstate, hpc', hlaunch, hnone, h10, h11, hregs⟩ := r.launched_effect c x
  have hq : (v.sclCtlWrite c w).ctx c x = r.launched c x := by
    rw [hafter, hwait (by rw [hnone]; exact fun _ _ => rfl)]
  rw [hq]
  exact ⟨hstate, hpc'.trans hpc, hlaunch.trans hpc, h10, h11, hregs⟩

/-- A running context stops, and one that waits on a counter or a barrier stops with its wait withdrawn. -/
theorem Dev.stopped_effect {v : Dev} {c x : Nat} {w : W32} (hx : x < 8) (hb : (v.ctx c x).busy = true) (hs : bit w.toNat (8 + x) = true)
    (hq : (v.ctx c x).state = .running ∨ (∃ a b p, (v.ctx c x).wait = .counter a b p) ∨ ∃ a b p, (v.ctx c x).wait = .barrier a b p) :
    ((v.sclCtlWrite c w).ctx c x).state = .stopped ∧ ((v.ctx c x).state ≠ .running → ((v.sclCtlWrite c w).ctx c x).wait = .none) := by
  obtain ⟨r, ⟨hkeep, hwait⟩, hafter, hlast⟩ := Dev.sclCtlWrite_stops hx hb hs
  have hstate : r.state = (v.ctx c x).state := by rw [hkeep]
  have hsame : ((v.sclCtlWrite c w).ctx c x).state = r.stopNow.state := by rw [hafter]
  by_cases hrun : (v.ctx c x).state = .running
  · rw [hsame, Ctx.stopNow_running (hstate.trans hrun)]
    exact ⟨rfl, fun h => absurd hrun h⟩
  · have hsync := hq.resolve_left hrun
    have hmark : (v.ctx c x).wait.markless := by
      obtain ⟨a, b, p, h⟩ | ⟨a, b, p, h⟩ := hsync <;> rw [h] <;> exact fun _ _ => rfl
    rw [← hwait hmark] at hsync
    rw [Ctx.stopNow_sync (fun h => hrun (hstate.symm.trans h)) hsync] at hsame hlast
    exact ⟨hsame, fun _ => hlast fun _ _ => rfl⟩

/-- Settles O36: the launches before and after a context's turn leave it all but the mark on a miss, and its own turn does the rest. -/
theorem contextsLaunchAndStop : Obligations.ContextsLaunchAndStop := by
  intro c x v s q i hi
  have hexec : exec i s = .next (s.ends (s.dev.sclCtlWrite c.val v)) := by
    simp only [List.mem_cons, List.not_mem_nil, or_false] at hi
    obtain rfl | rfl := hi <;> rfl
  refine ⟨_, hexec, Dev.launched_effect x.isLt, fun hb hr => ?_, fun hb hs => ?_, Dev.stopped_effect x.isLt⟩
  · exact (Dev.sclCtlWrite_passes x.isLt (by rw [if_neg (Bool.eq_false_iff.mp hb)]; exact hr)).keeps
  · exact (Dev.sclCtlWrite_passes x.isLt (by rw [if_pos hb]; exact hs)).keeps

end Sys2Proof.Machine

/-! Loads and stores of a running context (08, 09), and from them O37. -/

namespace Sys2Proof.Machine

/-! ### A running context's instruction as a command -/

/-- A command that runs one instruction takes the instruction's effect on what its fetch has left. -/
theorem exec_fetched {i : Instr} {s : State} {u : Dev} {c x n : Nat} {f : Dev → W64 → Dev} (he : exec i s = s.onDev (fun v => v.sclRun c x n f))
    (hrun : (s.dev.ctx c x).state = .running) (hissue : s.dev.issueOk = true)
    (hf : s.dev.sclFetch c (s.dev.ctx c x).pc.toNat n = (false, u)) : exec i s = .next (s.ends (f u (s.dev.ctx c x).pc)) := by
  rw [he, State.onDev, Dev.sclRun_fetched hrun hissue hf]

section
variable {v u : Dev} {c b n : Nat} {e : Bool} (h : v.sclFetch c b n = (e, u))
include h

theorem Dev.fetched_ctx (y x : Nat) : u.ctx y x = v.ctx y x := (Dev.fetched_within h).ctx_eq (by decide) y x

theorem Dev.fetched_permits (die a m : Nat) (wr remote : Bool) : u.permits die a m wr remote = v.permits die a m wr remote :=
  (Dev.fetched_within h).permits_eq (by decide) die a m wr remote

theorem Dev.fetched_cacheable (y a m : Nat) : u.cacheable y a m = v.cacheable y a m := (Dev.fetched_within h).cacheable_eq (by decide) y a m

theorem Dev.fetched_otherModule (a : W64) : u.otherModule a = v.otherModule a := (Dev.fetched_within h).otherModule_eq (by decide) a

theorem Dev.fetched_l1Line (y l : Nat) : (u.core y).l1Line l = (v.core y).l1Line l := Core.l1Line_congr ((Dev.fetched_sameLines h).2 y) l

theorem Dev.fetched_l1Read (y a m : Nat) : (u.core y).l1Read a m = (v.core y).l1Read a m := Core.l1Read_congr ((Dev.fetched_sameLines h).2 y) a m

end

/-! ### Loads (R278, R291, R300) -/

section
variable {v : Dev} {c a size : Nat}

theorem Dev.sclLoad_misaligned (ha : a % 2 ^ size ≠ 0) (x : Nat) (uns : Bool) (rd : Nat) (pc p : W64) :
    v.sclLoad c x a size uns rd pc p = v.sclFault c x 4 pc := if_pos ha

theorem Dev.sclLoad_denied (ha : a % 2 ^ size = 0) (hp : v.permits (coreDie c) a (2 ^ size) false false = false) (x : Nat) (uns : Bool) (rd : Nat)
    (pc p : W64) : v.sclLoad c x a size uns rd pc p = v.sclFault c x 5 pc := by simp [Dev.sclLoad, ha, hp, causeLoad]

variable (ha : a % 2 ^ size = 0) (hp : v.permits (coreDie c) a (2 ^ size) false false = true)
include ha hp

theorem Dev.sclLoad_hit (hk : v.cacheable c a (2 ^ size) = true) (hl : v.l1Look c a (2 ^ size) true = (.hit, v)) (x : Nat) (uns : Bool) (rd : Nat)
    (pc p : W64) : v.sclLoad c x a size uns rd pc p = v.sclLoaded c x rd size uns ((v.core c).l1Read a (2 ^ size)) p := by
  simp [Dev.sclLoad, ha, hp, hk, hl]

theorem Dev.sclLoad_miss (hk : v.cacheable c a (2 ^ size) = true) (hl : v.l1Look c a (2 ^ size) true = (.miss, v)) (x : Nat) (uns : Bool) (rd : Nat)
    (pc p : W64) : v.sclLoad c x a size uns rd pc p = v.sclWait c x (.load a size uns rd false p) := by
  simp [Dev.sclLoad, ha, hp, hk, hl]

/-- A load past the caches of this module's own bytes. -/
theorem Dev.sclLoad_past (hk : v.cacheable c a (2 ^ size) = false) (ho : v.otherModule (w64 a) = false) (x : Nat) (uns : Bool) (rd : Nat)
    (pc p : W64) : v.sclLoad c x a size uns rd pc p = v.sclWait c x (.load a size uns rd true p) := by
  simp [Dev.sclLoad, ha, hp, hk, ho]

end

/-! ### Stores (R278, R300, R303) -/

/-- A line written by context x and freed of the others' reservations. -/
def Dev.lineWritten (v : Dev) (c x a : Nat) (bs : List Byte) : Dev := (v.modCore c (fun k => k.l1Write a bs)).clearRes c x (a / 64)

theorem Dev.lineWritten_ctx (v : Dev) (c x a : Nat) (bs : List Byte) : (v.lineWritten c x a bs).ctx c x = v.ctx c x := by
  rw [Dev.lineWritten, Dev.clearRes_ctx]
  simp [Dev.ctx, Core.l1Write]

theorem Dev.lineWritten_l1 (v : Dev) (c x a : Nat) (bs : List Byte) : ((v.lineWritten c x a bs).core c).l1 = ((v.core c).l1Write a bs).l1 := by
  rw [Dev.lineWritten, (Dev.clearRes_within _ _ _ _).l1_eq (by decide), Dev.core_modCore_same]

theorem Dev.lineWritten_mem (v : Dev) (c x a : Nat) (bs : List Byte) : (v.lineWritten c x a bs).hbm.mem = v.hbm.mem :=
  (Dev.clearRes_within _ _ _ _).mem_eq (by decide)

/-- A store that acts on a line of the L1 and goes on at p. -/
def Dev.storeHit (v : Dev) (c x a : Nat) (bs : List Byte) (p : W64) : Dev := (v.lineWritten c x a bs).sclGo c x p

/-- The store's bytes stand in the line, which is dirty; stack memory stands (R303). -/
theorem Dev.storeHit_effect {v : Dev} {c a : Nat} (hl : ((v.core c).l1Line (a / 64)).data.length = 64) (x : Nat) (bs : List Byte) (p : W64) :
    (v.storeHit c x a bs p).ctx c x = (v.ctx c x).go p ∧ ((v.storeHit c x a bs p).core c).l1Read a bs.length = bs ∧
    (((v.storeHit c x a bs p).core c).l1Line (a / 64)).dirty = true ∧ (v.storeHit c x a bs p).hbm.mem = v.hbm.mem := by
  have hgo := (v.lineWritten c x a bs).sclGo_within c x p
  have hline : ((v.storeHit c x a bs p).core c).l1 = ((v.core c).l1Write a bs).l1 := (hgo.l1_eq (by decide) c).trans (v.lineWritten_l1 c x a bs)
  refine ⟨?_, ?_, ?_, (hgo.mem_eq (by decide)).trans (v.lineWritten_mem c x a bs)⟩
  · rw [Dev.storeHit, Dev.sclGo_ctx, Dev.lineWritten_ctx]
  · rw [Core.l1Read_congr hline, Core.l1Read_l1Write hl]
  · rw [Core.l1Line_congr hline, Core.l1Line_l1Write]

section
variable {v : Dev} {c a : Nat} {bs : List Byte}

theorem Dev.sclStore_misaligned (ha : a % bs.length ≠ 0) (x : Nat) (pc p : W64) : v.sclStore c x a bs pc p = v.sclFault c x 6 pc := if_pos ha

theorem Dev.sclStore_denied (ha : a % bs.length = 0) (hp : v.permits (coreDie c) a bs.length true false = false) (x : Nat) (pc p : W64) :
    v.sclStore c x a bs pc p = v.sclFault c x 7 pc := by simp [Dev.sclStore, ha, hp, causeStore]

variable (ha : a % bs.length = 0) (hp : v.permits (coreDie c) a bs.length true false = true)
include ha hp

theorem Dev.sclStore_hit (hk : v.cacheable c a bs.length = true) (hl : v.l1Look c a bs.length false = (.hit, v)) (x : Nat) (pc p : W64) :
    v.sclStore c x a bs pc p = v.storeHit c x a bs p := by simp [Dev.sclStore, Dev.storeHit, Dev.lineWritten, ha, hp, hk, hl]

theorem Dev.sclStore_miss (hk : v.cacheable c a bs.length = true) (hl : v.l1Look c a bs.length false = (.miss, v)) (x : Nat) (pc p : W64) :
    v.sclStore c x a bs pc p = v.sclWait c x (.store a bs false p) := by simp [Dev.sclStore, ha, hp, hk, hl]

/-- A store past the caches to this module waits for its write (R291). -/
theorem Dev.sclStore_past {x : Nat} (hk : v.cacheable c a bs.length = false) (ho : v.otherModule (w64 a) = false) (hb : v.amoBusy c x a = false)
    (pc p : W64) : v.sclStore c x a bs pc p = v.sclWait c x (.put a bs 0 0#64 p) := by simp [Dev.sclStore, Dev.sclBypass, ha, hp, hk, ho, hb]

end

/-- The end of a command leaves contexts, lines and stack memory. -/
theorem Dev.merged_keeps (old w : Dev) (c x : Nat) : (Dev.merged old w).ctx c x = w.ctx c x ∧ ((Dev.merged old w).core c).l1 = (w.core c).l1 ∧
    (Dev.merged old w).hbm.mem = w.hbm.mem :=
  have hmerged := Dev.merged_within old w
  ⟨hmerged.ctx_eq (by decide) c x, hmerged.l1_eq (by decide) c, hmerged.mem_eq (by decide)⟩

/-- A command that ends leaves the device its events merged into it, contexts, lines and stack memory as its operation left them. -/
theorem State.ends_witness {i : Instr} {st : State} {w : Dev} {c x : Nat} (h : exec i st = .next (st.ends w)) :
    ∃ z : Dev, exec i st = .next { st with dev := z } ∧ z.ctx c x = w.ctx c x ∧ (z.core c).l1 = (w.core c).l1 ∧ z.hbm.mem = w.hbm.mem :=
  ⟨Dev.merged st.dev w, h, Dev.merged_keeps _ _ _ _⟩

/-- Settles O37: after its fetch, which leaves contexts, regions and lines, each access takes the one branch its premises leave it. -/
theorem loadsAndStoresComplete : Obligations.LoadsAndStoresComplete := by
  intro c x s u pend m short rs1 imm size st q k len a n hrun hissue hfetch ha
  have hctx : u.ctx c x = q := Dev.fetched_ctx hfetch c x
  have hline : (u.core c).l1Line (a / 64) = k.l1Line (a / 64) := Dev.fetched_l1Line hfetch c _
  refine ⟨?load, ?store⟩
  case load =>
    intro rd uns hp
    have hexec : exec (.scalarLoad c x rd rs1 imm size uns short) st = .next (st.ends (u.sclLoad c x a size uns rd q.pc (q.pc + len))) := by
      rw [exec_fetched (s := st) rfl hrun hissue hfetch, hctx]
    obtain ⟨w, hw, hwctx, -, -⟩ := State.ends_witness (c := c) (x := x) hexec
    have hp' := (Dev.fetched_permits hfetch (coreDie c) a n false false).trans hp
    refine ⟨fun hk hh hbad => ⟨w, hw, hwctx.trans ?_⟩, fun hk hh => ⟨w, hw, hwctx.trans ?_⟩, fun hk ho => ⟨w, hw, hwctx.trans ?_⟩⟩
    · rw [Dev.sclLoad_hit ha hp' ((Dev.fetched_cacheable hfetch c a n).trans hk) (Dev.l1Look_hit (hline ▸ hh) fun _ => hline ▸ hbad),
        Dev.sclLoaded_ctx, hctx, Dev.fetched_l1Read hfetch]
    · rw [Dev.sclLoad_miss ha hp' ((Dev.fetched_cacheable hfetch c a n).trans hk) (Dev.l1Look_miss (hline ▸ hh) _ _), Dev.sclWait_ctx, hctx]
    · rw [Dev.sclLoad_past ha hp' ((Dev.fetched_cacheable hfetch c a n).trans hk) ((Dev.fetched_otherModule hfetch _).trans ho), Dev.sclWait_ctx, hctx]
  case store =>
    intro rs2 hp bs
    have hlen : bs.length = n := toBytes_length _ _
    have hexec : exec (.scalarStore c x rs2 rs1 imm size short) st = .next (st.ends (u.sclStore c x a bs q.pc (q.pc + len))) := by
      rw [exec_fetched (s := st) rfl hrun hissue hfetch, hctx]
    obtain ⟨w, hw, hwctx, hwl1, hwmem⟩ := State.ends_witness (c := c) (x := x) hexec
    have hmem : u.hbm.mem = s.hbm.mem := (Dev.fetched_sameLines hfetch).1
    have hp' := (Dev.fetched_permits hfetch (coreDie c) a bs.length true false).trans (hlen ▸ hp)
    have hwaits : ∀ z : CtxWait, u.sclStore c x a bs q.pc (q.pc + len) = u.sclWait c x z →
        w.ctx c x = { q with state := .waiting, wait := z } ∧ w.hbm.mem = s.hbm.mem := fun z hz => by
      rw [hz] at hwctx hwmem
      exact ⟨hwctx.trans (by rw [Dev.sclWait_ctx, hctx]), hwmem.trans (((Dev.sclWait_within _ _ _ _).mem_eq (by decide)).trans hmem)⟩
    rw [← hlen] at ha
    refine ⟨fun hk hl => ⟨w, hw, ?_⟩, fun hk hh => ⟨w, hw, hwaits _ ?_⟩, fun hk ho hb => ⟨w, hw, hwaits _ ?_⟩⟩
    · have hk' := (Dev.fetched_cacheable hfetch c a bs.length).trans (hlen ▸ hk)
      rw [Dev.sclStore_hit ha hp' hk' (Dev.l1Look_hit (CLine.here_of_length (hline ▸ hl)) (by simp))] at hwctx hwl1 hwmem
      obtain ⟨hgo, hread, hdirty, hkeeps⟩ := Dev.storeHit_effect (hline ▸ hl) x bs (q.pc + len)
      refine ⟨hwctx.trans (by rw [hgo, hctx]), ?_, ?_, hwmem.trans (hkeeps.trans hmem)⟩
      · rw [Core.l1Read_congr hwl1, ← hlen, hread]
      · rw [Core.l1Line_congr hwl1, hdirty]
    · exact Dev.sclStore_miss ha hp' ((Dev.fetched_cacheable hfetch c a bs.length).trans (hlen ▸ hk)) (Dev.l1Look_miss (hline ▸ hh) _ _) _ _ _
    · exact Dev.sclStore_past ha hp' ((Dev.fetched_cacheable hfetch c a bs.length).trans (hlen ▸ hk)) ((Dev.fetched_otherModule hfetch _).trans ho) hb _ _

end Sys2Proof.Machine

/-! Atomics (08), and from them O38. -/

namespace Sys2Proof.Machine

/-! ### What an atomic does (R280) -/

theorem Ctx.amoStores_lr (q : Ctx) (line : Nat) : q.amoStores .lr line = false := rfl

theorem Ctx.amoStores_of_reserved {q : Ctx} {op : AmoOp} {line : Nat} (hlr : op ≠ .lr) (hsc : op = .sc → q.reservation = some line) :
    q.amoStores op line = true := by
  unfold Ctx.amoStores
  rw [if_neg hlr]
  split
  · exact decide_eq_true (hsc ‹_›)
  · rfl

theorem Ctx.amoBytes_length (q : Ctx) (op : AmoOp) (rs2 n : Nat) (old : List Byte) : (q.amoBytes op rs2 n old).length = n := toBytes_length _ _

/-- An SC without its reservation writes 1 and drops what reservation there is. -/
theorem Ctx.amoDone_unreserved {q : Ctx} {line : Nat} (h : q.reservation ≠ some line) (rd w old : Nat) :
    q.amoDone .sc rd w old line = { q.setReg rd 1#64 with reservation := none } := by simp [Ctx.amoDone, h]

/-- An atomic on a line that is present gives its context its result, and the line the bytes it stores or its old ones. -/
theorem Dev.amoHit_effect {v : Dev} {c a : Nat} (hl : ((v.core c).l1Line (a / 64)).data.length = 64) (x : Nat) (op : AmoOp) (rd rs2 n : Nat) (p : W64) :
    let q := v.ctx c x
    let old := (v.core c).l1Read a n
    (v.amoHit c x a op rd rs2 n p).ctx c x = (q.amoDone op rd (8 * n) (ofBytes old) (a / 64)).go p ∧
    ((v.amoHit c x a op rd rs2 n p).core c).l1Read a n = if q.amoStores op (a / 64) then q.amoBytes op rs2 n old else old := by
  intro q old
  have hstores : v.amoHit c x a op rd rs2 n p = (if q.amoStores op (a / 64) then v.lineWritten c x a (q.amoBytes op rs2 n old) else v).modCtx c x
      (fun z => (z.amoDone op rd (8 * n) (ofBytes old) (a / 64)).go p) := rfl
  rw [hstores, Core.l1Read_congr ((Dev.modCtx_within _ _ _ _).l1_eq (by decide) c), Dev.ctx_modCtx_same]
  split
  · have hread := Core.l1Read_l1Write hl (q.amoBytes op rs2 n old)
    rw [Ctx.amoBytes_length] at hread
    exact ⟨by rw [Dev.lineWritten_ctx], by rw [Core.l1Read_congr (v.lineWritten_l1 _ _ _ _), hread]⟩
  · exact ⟨rfl, rfl⟩

section
variable {v : Dev} {c a n : Nat} {op : AmoOp} {dbl : Bool} (hn : n = if dbl then 8 else 4)
include hn

theorem Dev.sclAmo_misaligned (ha : a % n ≠ 0) (x rd rs2 : Nat) (pc p : W64) :
    v.sclAmo c x a op rd rs2 dbl pc p = v.sclFault c x (if op = .lr then 4 else 6) pc := by
  subst hn
  simp [Dev.sclAmo, ha, causeLoadAlign, causeStoreAlign]

variable (ha : a % n = 0) (hr : v.permits (coreDie c) a n false false = true) (hw : v.permits (coreDie c) a n true false = true)
include ha hr hw

omit hr in
/-- An SC without its reservation reads nothing, and asks for no leave to read. -/
theorem Dev.sclAmo_unreserved {x : Nat} (hres : (v.ctx c x).reservation ≠ some (a / 64)) (rd rs2 : Nat) (pc p : W64) :
    v.sclAmo c x a .sc rd rs2 dbl pc p = v.modCtx c x (fun z => (z.amoDone .sc rd (8 * n) 0 (a / 64)).go p) := by
  subst hn
  simp [Dev.sclAmo, ha, hw, hres]

theorem Dev.sclAmo_hit {x : Nat} (hres : op = .sc → (v.ctx c x).reservation = some (a / 64)) (hk : v.cacheable c a n = true)
    (hl : v.l1Look c a n (decide (op ≠ .sc)) = (.hit, v)) (rd rs2 : Nat) (pc p : W64) :
    v.sclAmo c x a op rd rs2 dbl pc p = v.amoHit c x a op rd rs2 n p := by
  subst hn
  have hreserved : ¬(op = .sc ∧ (v.ctx c x).reservation ≠ some (a / 64)) := fun h => h.2 (hres h.1)
  unfold Dev.sclAmo
  dsimp only
  rw [if_neg (not_not.mpr ha), if_neg (by simp [hr, hw]), if_neg hreserved, if_pos hk, hl]

end

/-- Settles O38: a line that is present is acted on as amoHit says, and an SC without its reservation reaches no line. -/
theorem atomicsComplete : Obligations.AtomicsComplete := by
  intro c x s u op rd rs1 rs2 dbl q k a n hrun hissue hfetch ha hr hw
  have hctx : u.ctx c x = q := Dev.fetched_ctx hfetch c x
  have hline : (u.core c).l1Line (a / 64) = k.l1Line (a / 64) := Dev.fetched_l1Line hfetch c _
  have hread : (u.core c).l1Read a n = k.l1Read a n := Dev.fetched_l1Read hfetch c a n
  have hexec : exec (.scalarAmo c x op rd rs1 rs2 dbl) s = .next (s.ends (u.sclAmo c x a op rd rs2 dbl q.pc (q.pc + 4#64))) := by
    rw [exec_fetched rfl hrun hissue hfetch, hctx]
  have hr' := (Dev.fetched_permits hfetch (coreDie c) a n false false).trans hr
  have hw' := (Dev.fetched_permits hfetch (coreDie c) a n true false).trans hw
  refine ⟨?line, ?unreserved⟩
  case line =>
    intro hres hk hl hbad old
    have hlook := Dev.l1Look_hit (CLine.here_of_length (hline ▸ hl)) fun _ : decide (op ≠ .sc) = true => hline ▸ hbad
    refine ⟨_, hexec, ?_⟩
    obtain ⟨hdone, hbytes⟩ := Dev.amoHit_effect (hline ▸ hl) x op rd rs2 n (q.pc + 4#64)
    rw [hctx, hread] at hdone hbytes
    rw [Dev.sclAmo_hit rfl ha hr' hw' (by rw [hctx]; exact hres) ((Dev.fetched_cacheable hfetch c a n).trans hk) hlook]
    refine ⟨hdone, hbytes.trans ?_⟩
    by_cases hlr : op = .lr
    · simp [hlr, Ctx.amoStores_lr, old]
    · rw [if_neg hlr, if_pos (Ctx.amoStores_of_reserved hlr hres)]
      rfl
  case unreserved =>
    rintro rfl hres
    have hmod := Dev.modCtx_within u c x (fun z => (z.amoDone .sc rd (8 * n) 0 (a / 64)).go (q.pc + 4#64))
    obtain ⟨hmem, hl1⟩ := Dev.fetched_sameLines hfetch
    refine ⟨_, hexec, ?_⟩
    rw [Dev.sclAmo_unreserved rfl ha hw' (by rw [hctx]; exact hres)]
    refine ⟨(hmod.l1_eq (by decide) c).trans (hl1 c), (hmod.mem_eq (by decide)).trans hmem, ?_⟩
    rw [Dev.ctx_modCtx_same, hctx, Ctx.amoDone_unreserved hres]

end Sys2Proof.Machine

/-! Accesses that return, and the causes that stop a context (08, 09), and from them O39. -/

namespace Sys2Proof.Machine

/-! ### Accesses that return (R290, R291) -/

section
variable {v : Dev} {c x : Nat} (hstate : (v.ctx c x).state = .waiting) (htrip : v.pwr.tripped = false) (hbusy : v.hbm.busy = false)
include hstate htrip hbusy

/-- A load past the caches that gives its bytes. -/
theorem Dev.accessReturn_load_past {u : Dev} {a size rd : Nat} {uns : Bool} {p : W64} {bs : List Byte}
    (hw : (v.ctx c x).wait = .load a size uns rd true p) (ho : v.otherModule (w64 a) = false)
    (hr : v.rdAt (coreDie c) (w64 a) (2 ^ size) c = (.ok bs, u)) : v.accessReturn c x = u.sclLoaded c x rd size uns bs p := by
  unfold Dev.accessReturn
  dsimp only
  rw [if_neg (by simp [hstate, htrip, hbusy]), hw]
  simp [ho, hr]

theorem Dev.accessReturn_put {a rd : Nat} {bs : List Byte} {val p : W64} (hw : (v.ctx c x).wait = .put a bs rd val p) :
    v.accessReturn c x = v.sclPut c x a bs rd val (v.ctx c x).pc p := by
  unfold Dev.accessReturn
  dsimp only
  rw [if_neg (by simp [hstate, htrip, hbusy]), hw]

/-- A load whose line stands in the L1 meanwhile. -/
theorem Dev.accessReturn_load_hit {a size rd : Nat} {uns : Bool} {p : W64} (hw : (v.ctx c x).wait = .load a size uns rd false p)
    (ho : v.otherModule (w64 a) = false) (hl : v.l1Look c a (2 ^ size) true = (.hit, v)) :
    v.accessReturn c x = v.sclLoaded c x rd size uns ((v.core c).l1Read a (2 ^ size)) p := by
  unfold Dev.accessReturn
  dsimp only
  rw [if_neg (by simp [hstate, htrip, hbusy]), hw]
  simp [ho, Dev.l1Bring_hit hl]

/-- A store whose line stands in the L1 meanwhile. -/
theorem Dev.accessReturn_store_hit {a : Nat} {bs : List Byte} {p : W64} (hw : (v.ctx c x).wait = .store a bs false p)
    (hl : v.l1Look c a bs.length false = (.hit, v)) : v.accessReturn c x = v.storeHit c x a bs p := by
  unfold Dev.accessReturn
  dsimp only
  rw [if_neg (by simp [hstate, htrip, hbusy]), hw]
  simp [Dev.l1Bring_hit hl, Dev.storeHit, Dev.lineWritten]

/-- An atomic whose line stands in the L1 meanwhile. -/
theorem Dev.accessReturn_amo_hit {a rd rs2 n : Nat} {op : AmoOp} {dbl : Bool} {p : W64} (hn : n = if dbl then 8 else 4)
    (hw : (v.ctx c x).wait = .amo a op rd rs2 dbl false p) (ho : v.otherModule (w64 a) = false) (hk : v.cacheable c a n = true)
    (hl : v.l1Look c a n (decide (op ≠ .sc)) = (.hit, v)) : v.accessReturn c x = v.amoHit c x a op rd rs2 n p := by
  subst hn
  unfold Dev.accessReturn
  dsimp only
  rw [if_neg (by simp [hstate, htrip, hbusy]), hw]
  dsimp only
  rw [if_neg (by simp [ho]), if_neg (by simp), if_pos hk, Dev.l1Bring_hit hl]

end

/-! ### A write past the caches to stack memory (R291, R336) -/

/-- An offset of stack memory as a global address names this module's own byte there. -/
theorem stack_address {a : Nat} (h : a < stackEnd) : fld (w64 a) 63 62 = 0 ∧ fld (w64 a) 61 48 = 0 ∧ offOf (w64 a) = a := by
  have ha : (w64 a).toNat = a := by
    rw [w64, BitVec.toNat_ofNat]
    unfold stackEnd at h
    omega
  unfold stackEnd at h
  simp only [offOf, fld, bits, ha]
  omega

/-- Writes that nothing holds leave the held writes as they were. -/
theorem Dev.stackWriteN_held (req : Nat) (owner : Option Owner) (fuel : Nat) : ∀ (v : Dev) (a : Nat) (bs : List Byte), v.holdsNone →
    (v.stackWriteN a bs req owner fuel).moult.held = v.moult.held := by
  induction fuel with
  | zero => exact fun v a bs _ => rfl
  | succ fuel ih =>
    intro v a bs hv
    unfold Dev.stackWriteN
    split
    · rfl
    · have hsub := v.submit_within (.write a (bs.take (64 - a % 64))) req owner
      exact (ih _ _ _ (hsub.holdsNone (by decide) (by decide) hv)).trans (Dev.submit_now (hv.mustHold _) req owner).2.1

theorem Dev.stackWrite_held {v : Dev} (h : v.holdsNone) (a : Nat) (bs : List Byte) (req : Nat) (owner : Option Owner) :
    (v.stackWrite a bs req owner).moult.held = v.moult.held := by
  unfold Dev.stackWrite
  split
  · exact Dev.stackWriteN_held req owner _ v a bs h
  · rfl

/-- Stack memory with the bytes of a write that meets no path error, its corrected errors counted. -/
def Dev.stackPut (v : Dev) (a : Nat) (bs : List Byte) (req : Nat) (owner : Option Owner) : Dev := (v.softErrs a bs.length).stackWrite a bs req owner

theorem Dev.stackPut_within (v : Dev) (a : Nat) (bs : List Byte) (req : Nat) (owner : Option Owner) :
    Dev.Within [.stackMem, .channels, .stackRegs, .heldWrites, .hif] v (v.stackPut a bs req owner) :=
  (Dev.stackWrite_within _ _ _ _ _).step (by decide) ((Dev.softErrs_within v a bs.length).mono (by decide))

theorem Dev.stackPut_effect {v : Dev} (h : v.holdsNone) (a : Nat) (bs : List Byte) (req : Nat) (owner : Option Owner) :
    (v.stackPut a bs req owner).hbm.mem = mwrite v.hbm.mem a bs ∧ (v.stackPut a bs req owner).moult.held = v.moult.held := by
  have hsoft := v.softErrs_sameTasks a bs.length
  have hnone := hsoft.holdsNone h
  exact ⟨(Dev.stackWrite_mem hnone a bs req owner).trans (by rw [hsoft.mem]), (Dev.stackWrite_held hnone a bs req owner).trans (by rw [hsoft.moult])⟩

/-- A write of a unit to stack memory that meets no path error. -/
theorem Dev.wrAt_stack {v : Dev} {a : Nat} {bs : List Byte} (ha : a < stackEnd) (hbs : 0 < bs.length) (hp : v.pathAt a bs.length = none)
    (die req : Nat) (owner : Option Owner) : v.wrAt die (w64 a) bs req owner = (none, v.stackPut a bs req owner) := by
  obtain ⟨hspace, hchip, hoff⟩ := stack_address ha
  have hne : bs.isEmpty = false := by simpa using List.ne_nil_of_length_pos hbs
  simp [Dev.wrAt, Dev.ownFabric, Dev.wrIssued, Dev.wrModule, Dev.stackPut, hspace, hchip, hoff, placeOf_stack ha, hne, hp]

/-- No write of the context is held, so that none counts as posted. -/
theorem Dev.postHeld_ctx {v w : Dev} (h : w.moult.held = v.moult.held) (c x : Nat) : (w.postHeld v c x).ctx c x = w.ctx c x := by
  simp [Dev.postHeld, Dev.ctxHeld, h]

/-- The write a context waits to make, to stack memory, where nothing holds it. -/
theorem Dev.sclPut_stack {v : Dev} {a : Nat} {bs : List Byte} (hv : v.holdsNone) (ha : a < stackEnd) (hbs : 0 < bs.length)
    (hp : v.pathAt a bs.length = none) (c x rd : Nat) (val pc p : W64) :
    (v.sclPut c x a bs rd val pc p).ctx c x = ((v.ctx c x).setReg rd val).go p ∧ (v.sclPut c x a bs rd val pc p).hbm.mem = mwrite v.hbm.mem a bs := by
  have hplace := stack_address ha
  have hput := v.stackPut_within a bs c (some (.ctx c x))
  obtain ⟨hmem, hheld⟩ := Dev.stackPut_effect hv a bs c (some (.ctx c x))
  have heq : v.sclPut c x a bs rd val pc p = (((v.stackPut a bs c (some (.ctx c x))).postHeld v c x).clearRes c x (a / 64)).modCtx c x
      (fun q => (q.setReg rd val).go p) := by
    unfold Dev.sclPut
    simp [Dev.otherModule, hplace.1, Dev.wrAt_stack ha hbs hp]
  rw [heq]
  refine ⟨?_, ?_⟩
  · rw [Dev.ctx_modCtx_same, Dev.clearRes_ctx, Dev.postHeld_ctx hheld, hput.ctx_eq (by decide)]
  · rw [(Dev.modCtx_within _ _ _ _).mem_eq (by decide), (Dev.clearRes_within _ _ _ _).mem_eq (by decide), (Dev.postHeld_within _ _ _ _).mem_eq (by decide),
      hmem]

/-! ### What stops a context (R283) -/

/-- A command that ends by stopping its context with a cause, pc at the instruction. -/
def stopsWith (s : State) (c x : Nat) (i : Instr) (cause : Nat) : Prop :=
  ∃ w : Dev, exec i s = .next (s.ends w) ∧ (w.ctx c x).state = .faulted ∧ (w.ctx c x).cause = cause ∧ (w.ctx c x).pc = (s.dev.ctx c x).pc

theorem stopsWith_of_fault {s : State} {c x : Nat} {i : Instr} {cause : Nat} (u : Dev)
    (h : exec i s = .next (s.ends (u.sclFault c x cause (s.dev.ctx c x).pc))) : stopsWith s c x i cause :=
  ⟨_, h, by rw [Dev.sclFault_ctx], by rw [Dev.sclFault_ctx], by rw [Dev.sclFault_ctx]⟩

section
variable {s : State} {c x n : Nat} {i : Instr} {f : Dev → W64 → Dev} {u : Dev} {cause : Nat}
  (he : exec i s = s.onDev (fun v => v.sclRun c x n f)) (hrun : (s.dev.ctx c x).state = .running) (hissue : s.dev.issueOk = true)
include he hrun hissue

/-- An instruction whose effect stops its context. -/
theorem stopsWith_fetched (hf : s.dev.sclFetch c (s.dev.ctx c x).pc.toNat n = (false, u))
    (h : f u (s.dev.ctx c x).pc = u.sclFault c x cause (s.dev.ctx c x).pc) : stopsWith s c x i cause :=
  stopsWith_of_fault u (by rw [exec_fetched he hrun hissue hf, h])

theorem stopsWith_unfetched (hf : s.dev.sclFetch c (s.dev.ctx c x).pc.toNat n = (true, u)) : stopsWith s c x i 1 :=
  stopsWith_of_fault u (by rw [he, State.onDev, Dev.sclRun_unfetched hrun hissue hf])

end

/-- Settles O39: a return is the branch of its wait, and each cause is the branch of its access that its premises leave. -/
theorem returnsAndTraps : Obligations.ReturnsAndTraps := by
  intro c x s q k back
  have hback : ∀ {p : Dev → Prop} {w : Dev}, s.dev.accessReturn c x = w → p w → back p := fun h hp => ⟨_, rfl, h ▸ hp⟩
  refine ⟨fun hstate htrip hbusy => ⟨?past, ?put, ?cached⟩, fun hrun hissue => ⟨?accesses, ?fetches, ?words⟩⟩
  case past =>
    intro a size uns rd p bs u hw ho hr
    have hread := Dev.rdAt_within s.dev (coreDie c) (w64 a) (2 ^ size) c
    rw [hr] at hread
    refine hback (Dev.accessReturn_load_past hstate htrip hbusy hw ho hr) ?_
    rw [Dev.sclLoaded_ctx, hread.ctx_eq (by decide)]
  case put =>
    intro a bs rd val p hw hbs ha hp hactive hheld
    obtain ⟨hctx, hmem⟩ := Dev.sclPut_stack ⟨hactive, hbusy⟩ (by omega) hbs hp c x rd val q.pc p
    refine hback (Dev.accessReturn_put hstate htrip hbusy hw) ⟨hctx, ?_, fun b hb => ?_⟩
    · rw [Dev.stk8, hmem, mread_mwrite]
    · rw [hmem, mget_mwrite_outside _ _ _ hb]
  case cached =>
    intro a ho hl hbad
    have hlook : ∀ n reads, s.dev.l1Look c a n reads = (.hit, s.dev) := fun n reads =>
      Dev.l1Look_hit (CLine.here_of_length hl) fun _ => CLine.badIn_of_none hbad _ _
    refine ⟨fun size uns rd p hw => ?_, fun bs p hw _ => ?_, ?_⟩
    · exact hback (Dev.accessReturn_load_hit hstate htrip hbusy hw ho (hlook _ _)) (Dev.sclLoaded_ctx _ _ _ _ _ _ _ _)
    · obtain ⟨hgo, hread, -, -⟩ := Dev.storeHit_effect hl x bs p
      exact hback (Dev.accessReturn_store_hit hstate htrip hbusy hw (hlook _ _)) ⟨hgo, hread⟩
    · intro op rd rs2 dbl p n hw hk _ old
      exact hback (Dev.accessReturn_amo_hit hstate htrip hbusy rfl hw ho hk (hlook _ _)) (Dev.amoHit_effect hl x op rd rs2 n p)
  case accesses =>
    intro u rd rs1 imm size uns rs2 hf a
    have hctx : u.ctx c x = q := Dev.fetched_ctx hf c x
    have hlen : (toBytes (q.reg rs2).toNat (2 ^ size.val)).length = 2 ^ size.val := toBytes_length _ _
    have hload : ∀ cause, u.sclLoad c x a size uns rd q.pc (q.pc + 4#64) = u.sclFault c x cause q.pc →
        stopsWith s c x (.scalarLoad c x rd rs1 imm size uns false) cause := fun cause h =>
      stopsWith_fetched rfl hrun hissue hf (by rw [hctx]; exact h)
    have hstore : ∀ cause, u.sclStore c x a (toBytes (q.reg rs2).toNat (2 ^ size.val)) q.pc (q.pc + 4#64) = u.sclFault c x cause q.pc →
        stopsWith s c x (.scalarStore c x rs2 rs1 imm size false) cause := fun cause h =>
      stopsWith_fetched rfl hrun hissue hf (by rw [hctx]; exact h)
    refine ⟨fun ha => ⟨hload 4 (Dev.sclLoad_misaligned ha _ _ _ _ _), hstore 6 (Dev.sclStore_misaligned (by rw [hlen]; exact ha) _ _ _)⟩,
      fun ha hp => hload 5 (Dev.sclLoad_denied ha ((Dev.fetched_permits hf _ _ _ _ _).trans hp) _ _ _ _ _),
      fun ha hp => hstore 7 (Dev.sclStore_denied (by rw [hlen]; exact ha) (by rw [hlen, Dev.fetched_permits hf]; exact hp) _ _ _),
      fun op dbl ha => ?_⟩
    exact stopsWith_fetched rfl hrun hissue hf (by rw [hctx]; exact Dev.sclAmo_misaligned rfl ha _ _ _ _ _)
  case fetches =>
    exact fun u rs1 hf => ⟨stopsWith_unfetched rfl hrun hissue hf, stopsWith_unfetched rfl hrun hissue hf, stopsWith_unfetched rfl hrun hissue hf⟩
  case words =>
    exact fun u hf => ⟨stopsWith_fetched rfl hrun hissue hf rfl, stopsWith_fetched rfl hrun hissue hf rfl, stopsWith_fetched rfl hrun hissue hf rfl⟩

end Sys2Proof.Machine

/-! CSR reads, fences, the two extensions and every other instruction (08), and from them O40. -/

namespace Sys2Proof.Machine

/-! ### An instruction that leaves its context in a known state -/

/-- A command that ends with its context as z. -/
def leavesCtx (s : State) (c x : Nat) (i : Instr) (z : Ctx) : Prop := ∃ w : Dev, exec i s = .next (s.ends w) ∧ w.ctx c x = z

theorem leavesCtx_fetched {s : State} {c x n : Nat} {i : Instr} {f : Dev → W64 → Dev} {u : Dev} {z : Ctx}
    (he : exec i s = s.onDev (fun v => v.sclRun c x n f)) (hrun : (s.dev.ctx c x).state = .running) (hissue : s.dev.issueOk = true)
    (hf : s.dev.sclFetch c (s.dev.ctx c x).pc.toNat n = (false, u)) (h : (f u (s.dev.ctx c x).pc).ctx c x = z) : leavesCtx s c x i z :=
  ⟨_, exec_fetched he hrun hissue hf, h⟩

/-! ### CSRs and FENCE (R277, R279, R336) -/

section
variable (v : Dev) (c x rd : Nat) (pc : W64)

theorem Dev.csrRead_hartid : (v.csrRead c x rd 0xF14 pc).ctx c x = ((v.ctx c x).setReg rd (w64 (c * 8 + x))).go (pc + 4#64) :=
  Dev.ctx_modCtx_same _ _ _ _

theorem Dev.csrRead_time : (v.csrRead c x rd 0xC01 pc).ctx c x = ((v.ctx c x).setReg rd (w64 v.ft.now)).go (pc + 4#64) :=
  Dev.ctx_modCtx_same _ _ _ _

/-- cycle and instret are free values (log entry 3). -/
theorem Dev.csrRead_free {csr : Nat} (h : csr = 0xC00 ∨ csr = 0xC02) :
    (v.csrRead c x rd csr pc).ctx c x = ((v.ctx c x).setReg rd (Config.freeWord v.freeCtr)).go (pc + 4#64) := by
  have hdraw : v.draw.2.ctx c x = v.ctx c x := (Dev.draw_within v).ctx_eq (by decide) c x
  obtain rfl | rfl := h <;> exact (Dev.ctx_modCtx_same _ _ _ _).trans (by rw [hdraw]; rfl)

theorem Dev.csrRead_other {csr : Nat} (h1 : csr ≠ 0xF14) (h2 : csr ≠ 0xC00) (h3 : csr ≠ 0xC01) (h4 : csr ≠ 0xC02) :
    v.csrRead c x rd csr pc = v.sclFault c x 2 pc := by simp [Dev.csrRead, h1, h2, h3, h4, causeIllegal]

theorem Dev.sclFence_ctx : (v.sclFence c x pc).ctx c x =
    if (v.ctx c x).posted = 0 then (v.ctx c x).go (pc + 4#64) else { v.ctx c x with state := .waiting, wait := .fence (pc + 4#64) } := by
  unfold Dev.sclFence
  split
  · exact v.sclGo_ctx c x _
  · exact v.sclWait_ctx c x _

end

/-! ### Xtwsync (R286, R287, R336, R362) -/

section
variable {v : Dev} {c x rd rs1 rs2 : Nat} {pc : W64}

theorem Dev.twSig_sends (h : ((v.ctx c x).reg rs1).toNat ≤ 14335) : (v.twSig c x rs1 pc).ctx c x = (v.ctx c x).go (pc + 4#64) ∧
    ∀ id, ((v.twSig c x rs1 pc).ctr id).transit = (v.ctr id).transit + (if id = ((v.ctx c x).reg rs1).toNat then 1 else 0) := by
  have heq : v.twSig c x rs1 pc = (v.sendSignal ((v.ctx c x).reg rs1).toNat).sclGo c x (pc + 4#64) := if_neg (by omega)
  rw [heq]
  refine ⟨?_, fun id => ?_⟩
  · rw [Dev.sclGo_ctx, (Dev.sendSignal_within _ _).ctx_eq (by decide)]
  · rw [(Dev.sclGo_within _ _ _ _).ctr_eq (by decide), Dev.sendSignal_ctr]
    exact congrArg ((v.ctr id).transit + ·) (if_congr eq_comm rfl rfl)

theorem Dev.twWait_zero (hw : waitable c ((v.ctx c x).reg rs1).toNat = true) (h : fld ((v.ctx c x).reg rs2) 31 0 = 0) :
    v.twWait c x rs1 rs2 pc = v.sclGo c x (pc + 4#64) := by simp [Dev.twWait, hw, h]

/-- A context that waits on a counter, a misused wait marked; the waiters are then considered. -/
def Dev.ctrWait (v : Dev) (c x id amt : Nat) (p : W64) : Dev := (v.markMisused [(id, amt)]).sclWait c x (.counter id amt p)

theorem Dev.ctrWait_ctx (v : Dev) (c x id amt : Nat) (p : W64) :
    (v.ctrWait c x id amt p).ctx c x = { v.ctx c x with state := .waiting, wait := .counter id amt p } := by
  rw [Dev.ctrWait, Dev.sclWait_ctx, (Dev.markMisused_within _ _).ctx_eq (by decide)]

theorem Dev.twWait_waits (hw : waitable c ((v.ctx c x).reg rs1).toNat = true) (h : fld ((v.ctx c x).reg rs2) 31 0 ≠ 0) :
    v.twWait c x rs1 rs2 pc = (v.ctrWait c x ((v.ctx c x).reg rs1).toNat (fld ((v.ctx c x).reg rs2) 31 0) (pc + 4#64)).grantPass := by
  simp [Dev.twWait, Dev.ctrWait, hw, h]

theorem Dev.twCtr_reads (h : ((v.ctx c x).reg rs1).toNat ≤ 14335) : (v.twCtr c x rd rs1 pc).ctx c x =
    ((v.ctx c x).setReg rd (w64 (v.ctr ((v.ctx c x).reg rs1).toNat).value)).go (pc + 4#64) := by
  have heq : v.twCtr c x rd rs1 pc = _ := if_neg (by omega)
  rw [heq, Dev.ctx_modCtx_same]

theorem Dev.twBara_arrives (h : v.barOk c ((v.ctx c x).reg rs1).toNat = true) : v.twBara c x rd rs1 pc =
    (v.modCtx c x (fun q => (q.setReg rd (w64 (v.bar ((v.ctx c x).reg rs1).toNat).gen)).go (pc + 4#64))).barArrive ((v.ctx c x).reg rs1).toNat c := by
  simp [Dev.twBara, h]

theorem Dev.twBarw_ctx (h : v.barOk c ((v.ctx c x).reg rs1).toNat = true) : (v.twBarw c x rs1 rs2 pc).ctx c x =
    if (v.bar ((v.ctx c x).reg rs1).toNat).gen ≠ fld ((v.ctx c x).reg rs2) 15 0 then (v.ctx c x).go (pc + 4#64)
    else { v.ctx c x with state := .waiting, wait := .barrier ((v.ctx c x).reg rs1).toNat (fld ((v.ctx c x).reg rs2) 15 0) (pc + 4#64) } := by
  unfold Dev.twBarw
  dsimp only
  rw [if_neg (by simp [h])]
  split
  · exact v.sclGo_ctx c x _
  · exact v.sclWait_ctx c x _

end

/-! ### Xtwcache (R288, R289) -/

/-- The range TW.FLUSH and TW.INV name, cut at 2^64. -/
def Ctx.rangeLen (q : Ctx) (rs1 rs2 : Nat) : Nat := min (q.reg rs2).toNat (2 ^ 64 - (q.reg rs1).toNat)

section
variable {v : Dev} {c x rs1 rs2 : Nat} {pc : W64}

theorem Dev.twRange_empty (h : (v.ctx c x).rangeLen rs1 rs2 = 0) (inv : Bool) : v.twRange inv c x rs1 rs2 pc = v.sclGo c x (pc + 4#64) := if_pos h

/-- The write-backs of a range, and its invalidation where asked. -/
def Dev.rangeDone (v : Dev) (inv : Bool) (c x a n : Nat) : Dev × Bool :=
  if inv then v.flushInval c a n (some (.ctx c x)) else v.flushRange c a n (some (.ctx c x))

/-- Write-backs that succeed leave the context waiting for their end. -/
theorem Dev.twRange_waits (hn : (v.ctx c x).rangeLen rs1 rs2 ≠ 0)
    (hb : (v.flushRange c ((v.ctx c x).reg rs1).toNat ((v.ctx c x).rangeLen rs1 rs2) (some (.ctx c x))).2 = false) (inv : Bool) :
    v.twRange inv c x rs1 rs2 pc = ((v.rangeDone inv c x ((v.ctx c x).reg rs1).toNat ((v.ctx c x).rangeLen rs1 rs2)).1.postHeld v c x).sclWait c x
      (.flush (pc + 4#64)) := by
  have hbad : (v.rangeDone inv c x ((v.ctx c x).reg rs1).toNat ((v.ctx c x).rangeLen rs1 rs2)).2 = false := by cases inv <;> exact hb
  have heq : v.twRange inv c x rs1 rs2 pc = if (v.ctx c x).rangeLen rs1 rs2 = 0 then v.sclGo c x (pc + 4#64)
      else let r := v.rangeDone inv c x ((v.ctx c x).reg rs1).toNat ((v.ctx c x).rangeLen rs1 rs2)
        if r.2 then r.1.sclFault c x 7 pc else (r.1.postHeld v c x).sclWait c x (.flush (pc + 4#64)) := rfl
  rw [heq, if_neg hn]
  dsimp only
  rw [if_neg (Bool.eq_false_iff.mp hbad)]

end

/-- A flush whose write-backs have all reached memory ends (R288, R573). -/
theorem Dev.flushDone_ends {v : Dev} {c x : Nat} {p : W64} (hw : (v.ctx c x).wait = .flush p) (hh : v.ctxHeld c x = 0) (ht : v.pwr.tripped = false) :
    v.flushDone c x = v.sclGo c x p := by
  unfold Dev.flushDone
  rw [hw]
  simp [hh, ht]

/-! ### Every other instruction (R277, R283; log entry 49) -/

/-- A word that stops its context whatever the state. -/
theorem Dev.sclExec_traps {w cause : Nat} (h : sclTrap w = some cause) (v : Dev) (c x : Nat) (pc p : W64) :
    v.sclExec c x (decodeInsn w) pc p = v.sclFault c x cause pc := by
  unfold sclTrap at h
  split at h
  case h_1 hd => rw [hd, ← Option.some.inj h]; rfl
  case h_2 hd => rw [hd, ← Option.some.inj h]; rfl
  case h_3 hd => rw [hd, ← Option.some.inj h]; rfl
  case h_4 rd csr writes hd =>
    rw [hd]
    split at h
    · rename_i hbad
      rw [← Option.some.inj h]
      cases writes with
      | true => rfl
      | false =>
        simp only [Bool.false_or, Bool.not_eq_true', Bool.or_eq_false_iff, decide_eq_false_iff_not] at hbad
        obtain ⟨⟨⟨h1, h2⟩, h3⟩, h4⟩ := hbad
        exact v.csrRead_other c x rd pc h1 h2 h3 h4
    · exact absurd h (by simp)
  case h_5 => exact absurd h (by simp)

/-! ### The instructions, clause by clause -/

section
variable {s : State} {u : Dev} (c : CoreId) (x : CtxId) (hrun : (s.dev.ctx c x).state = .running) (hissue : s.dev.issueOk = true)
  (hf : s.dev.sclFetch c (s.dev.ctx c x).pc.toNat 4 = (false, u))
include hrun hissue hf

theorem csrRead_completes (rd : RegNo) : let q := s.dev.ctx c x
    leavesCtx s c x (.csrRead c x rd 0xF14#12) ((q.setReg rd (w64 (c.val * 8 + x.val))).go (q.pc + 4#64)) ∧
    leavesCtx s c x (.csrRead c x rd 0xC01#12) ((q.setReg rd (w64 s.dev.ft.now)).go (q.pc + 4#64)) ∧
    leavesCtx s c x (.csrRead c x rd 0xC00#12) ((q.setReg rd (Config.freeWord u.freeCtr)).go (q.pc + 4#64)) ∧
    leavesCtx s c x (.csrRead c x rd 0xC02#12) ((q.setReg rd (Config.freeWord u.freeCtr)).go (q.pc + 4#64)) ∧
    ∀ csr : BitVec 12, csr ≠ 0xF14#12 → csr ≠ 0xC00#12 → csr ≠ 0xC01#12 → csr ≠ 0xC02#12 → stopsWith s c x (.csrRead c x rd csr) 2 := by
  intro q
  have hctx : u.ctx c x = q := Dev.fetched_ctx hf c x
  have hft : u.ft = s.dev.ft := (Dev.fetched_within hf).ft_eq (by decide)
  refine ⟨leavesCtx_fetched rfl hrun hissue hf ?_, leavesCtx_fetched rfl hrun hissue hf ?_, leavesCtx_fetched rfl hrun hissue hf ?_,
    leavesCtx_fetched rfl hrun hissue hf ?_, fun csr h1 h2 h3 h4 => stopsWith_fetched rfl hrun hissue hf ?_⟩
  · exact (u.csrRead_hartid c x rd q.pc).trans (by rw [hctx])
  · exact (u.csrRead_time c x rd q.pc).trans (by rw [hctx, hft])
  · exact (u.csrRead_free c x rd q.pc (.inl rfl)).trans (by rw [hctx])
  · exact (u.csrRead_free c x rd q.pc (.inr rfl)).trans (by rw [hctx])
  · exact u.csrRead_other c x rd q.pc (fun h => h1 (BitVec.eq_of_toNat_eq h)) (fun h => h2 (BitVec.eq_of_toNat_eq h))
      (fun h => h3 (BitVec.eq_of_toNat_eq h)) (fun h => h4 (BitVec.eq_of_toNat_eq h))

theorem fence_completes : let q := s.dev.ctx c x
    (q.posted = 0 → leavesCtx s c x (.fence c x) (q.go (q.pc + 4#64))) ∧
    (q.posted ≠ 0 → leavesCtx s c x (.fence c x) { q with state := .waiting, wait := .fence (q.pc + 4#64) }) := by
  intro q
  have hctx := (u.sclFence_ctx c x q.pc).trans (by rw [Dev.fetched_ctx hf c x])
  exact ⟨fun h => leavesCtx_fetched rfl hrun hissue hf (hctx.trans (if_pos h)), fun h => leavesCtx_fetched rfl hrun hissue hf (hctx.trans (if_neg h))⟩

theorem twSig_completes (rs1 : RegNo) (h : ((s.dev.ctx c x).reg rs1).toNat ≤ 14335) : ∃ w : Dev, exec (.twSig c x rs1) s = .next (s.ends w) ∧
    w.ctx c x = (s.dev.ctx c x).go ((s.dev.ctx c x).pc + 4#64) ∧
    ∀ id, (w.ctr id).transit = (s.dev.ctr id).transit + (if id = ((s.dev.ctx c x).reg rs1).toNat then 1 else 0) := by
  have hctx := Dev.fetched_ctx hf c x
  obtain ⟨hgo, hsent⟩ := Dev.twSig_sends (v := u) (pc := (s.dev.ctx c x).pc) (by rw [hctx]; exact h)
  rw [hctx] at hgo hsent
  exact ⟨_, exec_fetched rfl hrun hissue hf, hgo, fun id => (hsent id).trans (by rw [(Dev.fetched_within hf).ctr_eq (by decide)])⟩

theorem twWait_completes (rs1 rs2 : RegNo) (hw : waitable c ((s.dev.ctx c x).reg rs1).toNat = true) : let q := s.dev.ctx c x
    (fld (q.reg rs2) 31 0 = 0 → leavesCtx s c x (.twWait c x rs1 rs2) (q.go (q.pc + 4#64))) ∧
    (fld (q.reg rs2) 31 0 ≠ 0 → ∃ w : Dev, exec (.twWait c x rs1 rs2) s = .next (s.ends w.grantPass) ∧
      w.ctx c x = { q with state := .waiting, wait := .counter (q.reg rs1).toNat (fld (q.reg rs2) 31 0) (q.pc + 4#64) }) := by
  intro q
  have hctx : u.ctx c x = q := Dev.fetched_ctx hf c x
  refine ⟨fun h => leavesCtx_fetched rfl hrun hissue hf ?_, fun h => ⟨u.ctrWait c x (q.reg rs1).toNat (fld (q.reg rs2) 31 0) (q.pc + 4#64), ?_, ?_⟩⟩
  · rw [Dev.twWait_zero (by rw [hctx]; exact hw) (by rw [hctx]; exact h), Dev.sclGo_ctx, hctx]
  · rw [exec_fetched rfl hrun hissue hf, Dev.twWait_waits (by rw [hctx]; exact hw) (by rw [hctx]; exact h), hctx]
  · rw [Dev.ctrWait_ctx, hctx]

theorem twCtr_completes (rd rs1 : RegNo) (h : ((s.dev.ctx c x).reg rs1).toNat ≤ 14335) : let q := s.dev.ctx c x
    leavesCtx s c x (.twCtr c x rd rs1) ((q.setReg rd (w64 (s.dev.ctr (q.reg rs1).toNat).value)).go (q.pc + 4#64)) := by
  intro q
  have hctx : u.ctx c x = q := Dev.fetched_ctx hf c x
  refine leavesCtx_fetched rfl hrun hissue hf ((Dev.twCtr_reads (by rw [hctx]; exact h)).trans ?_)
  rw [hctx, (Dev.fetched_within hf).ctr_eq (by decide)]

theorem twBara_completes (rd rs1 : RegNo) (h : s.dev.barOk c ((s.dev.ctx c x).reg rs1).toNat = true) : let q := s.dev.ctx c x
    ∃ w : Dev, exec (.twBara c x rd rs1) s = .next (s.ends (w.barArrive (q.reg rs1).toNat c)) ∧
      w.ctx c x = (q.setReg rd (w64 (s.dev.bar (q.reg rs1).toNat).gen)).go (q.pc + 4#64) := by
  intro q
  have hctx : u.ctx c x = q := Dev.fetched_ctx hf c x
  have hu := Dev.fetched_within hf
  refine ⟨u.modCtx c x (fun z => (z.setReg rd (w64 (s.dev.bar (q.reg rs1).toNat).gen)).go (q.pc + 4#64)), ?_, by rw [Dev.ctx_modCtx_same, hctx]⟩
  rw [exec_fetched rfl hrun hissue hf, Dev.twBara_arrives (by rw [hctx, hu.barOk_eq (by decide)]; exact h), hctx, hu.bar_eq (by decide)]

theorem twBarw_completes (rs1 rs2 : RegNo) (h : s.dev.barOk c ((s.dev.ctx c x).reg rs1).toNat = true) : let q := s.dev.ctx c x
    ((s.dev.bar (q.reg rs1).toNat).gen ≠ fld (q.reg rs2) 15 0 → leavesCtx s c x (.twBarw c x rs1 rs2) (q.go (q.pc + 4#64))) ∧
    ((s.dev.bar (q.reg rs1).toNat).gen = fld (q.reg rs2) 15 0 → leavesCtx s c x (.twBarw c x rs1 rs2)
      { q with state := .waiting, wait := .barrier (q.reg rs1).toNat (fld (q.reg rs2) 15 0) (q.pc + 4#64) }) := by
  intro q
  have hctx : u.ctx c x = q := Dev.fetched_ctx hf c x
  have hu := Dev.fetched_within hf
  have hleaves := Dev.twBarw_ctx (v := u) (rs1 := rs1) (rs2 := rs2) (pc := q.pc) (by rw [hctx, hu.barOk_eq (by decide)]; exact h)
  rw [hctx, hu.bar_eq (by decide)] at hleaves
  exact ⟨fun hg => leavesCtx_fetched rfl hrun hissue hf (hleaves.trans (if_pos hg)),
    fun hg => leavesCtx_fetched rfl hrun hissue hf (hleaves.trans (if_neg (not_not.mpr hg)))⟩

theorem twHalt_completes : leavesCtx s c x (.twHalt c x) { s.dev.ctx c x with state := .halted, wait := .none } :=
  leavesCtx_fetched rfl hrun hissue hf ((Dev.ctx_modCtx_same _ _ _ _).trans (by rw [Dev.fetched_ctx hf c x]))

theorem twRange_empty_completes (rs1 rs2 : RegNo) (hn : (s.dev.ctx c x).rangeLen rs1 rs2 = 0) : let q := s.dev.ctx c x
    leavesCtx s c x (.twFlush c x rs1 rs2) (q.go (q.pc + 4#64)) ∧ leavesCtx s c x (.twInv c x rs1 rs2) (q.go (q.pc + 4#64)) := by
  intro q
  have hctx : u.ctx c x = q := Dev.fetched_ctx hf c x
  have hgoes : ∀ inv, (u.twRange inv c x rs1 rs2 q.pc).ctx c x = q.go (q.pc + 4#64) := fun inv => by
    rw [Dev.twRange_empty (by rw [hctx]; exact hn), Dev.sclGo_ctx, hctx]
  exact ⟨leavesCtx_fetched rfl hrun hissue hf (hgoes false), leavesCtx_fetched rfl hrun hissue hf (hgoes true)⟩

theorem twRange_completes (rs1 rs2 : RegNo) (hn : (s.dev.ctx c x).rangeLen rs1 rs2 ≠ 0)
    (hb : (u.flushRange c ((s.dev.ctx c x).reg rs1).toNat ((s.dev.ctx c x).rangeLen rs1 rs2) (some (.ctx c x))).2 = false) : let q := s.dev.ctx c x
    (∃ w : Dev, exec (.twFlush c x rs1 rs2) s = .next (s.ends w) ∧ (w.ctx c x).state = .waiting ∧ (w.ctx c x).wait = .flush (q.pc + 4#64)) ∧
    (∃ w : Dev, exec (.twInv c x rs1 rs2) s = .next (s.ends w) ∧ (w.ctx c x).state = .waiting ∧ (w.ctx c x).wait = .flush (q.pc + 4#64) ∧
      ∀ l, (q.reg rs1).toNat / 64 ≤ l → l ≤ ((q.reg rs1).toNat + q.rangeLen rs1 rs2 - 1) / 64 →
        ((w.core c).l1Line l).here = false ∧ ((w.core c).l2Line l).here = false) := by
  intro q
  have hctx : u.ctx c x = q := Dev.fetched_ctx hf c x
  have hwaits : ∀ inv, u.twRange inv c x rs1 rs2 q.pc =
      ((u.rangeDone inv c x (q.reg rs1).toNat (q.rangeLen rs1 rs2)).1.postHeld u c x).sclWait c x (.flush (q.pc + 4#64)) := fun inv => by
    rw [Dev.twRange_waits (by rw [hctx]; exact hn) (by rw [hctx]; exact hb), hctx]
  refine ⟨⟨_, (exec_fetched rfl hrun hissue hf).trans (congrArg (fun w => Host.Outcome.next (s.ends w)) (hwaits false)), ?_⟩,
    ⟨_, (exec_fetched rfl hrun hissue hf).trans (congrArg (fun w => Host.Outcome.next (s.ends w)) (hwaits true)), ?_⟩⟩
  · rw [Dev.sclWait_ctx]
    exact ⟨rfl, rfl⟩
  · rw [Dev.sclWait_ctx]
    refine ⟨rfl, rfl, fun l h1 h2 => ?_⟩
    have hposted := (Dev.postHeld_within (u.rangeDone true c x (q.reg rs1).toNat (q.rangeLen rs1 rs2)).1 u c x).trans
      ((Dev.sclWait_within _ c x (.flush (q.pc + 4#64))))
    rw [Core.l1Line_congr (hposted.l1_eq (by decide) c), Core.l2Line_congr (hposted.l2_eq (by decide) c)]
    exact Dev.flushInval_lines u c _ _ _ (Nat.pos_of_ne_zero hn) h1 h2

end

/-- The ECALL row runs any word (log entry 49). -/
theorem ecall_runs (c : CoreId) (x : CtxId) {s : State} {word : W32} {u : Dev} (hrun : (s.dev.ctx c x).state = .running) (hissue : s.dev.issueOk = true)
    (hf : s.dev.sclFetch c (s.dev.ctx c x).pc.toNat (insnLen word.toNat) = (false, u)) {i : Insn} {z : Ctx} (hi : decodeInsn word.toNat = i)
    (h : (u.sclExec c x i (s.dev.ctx c x).pc ((s.dev.ctx c x).pc + w64 (insnLen word.toNat))).ctx c x = z) : leavesCtx s c x (.ecall c x word) z :=
  leavesCtx_fetched rfl hrun hissue hf (by rw [hi]; exact h)

/-- Settles O40: each instruction's effect on what its fetch has left, the word of the ECALL row by what it decodes to. -/
theorem extensionsComplete : Obligations.ExtensionsComplete := by
  intro c x s q four gives stops
  refine ⟨fun u hrun hissue hf => ?named, fun word u hrun hissue hf => ?word, ?flushed, fun v => ?cleared⟩
  case named =>
    refine ⟨csrRead_completes c x hrun hissue hf, (fence_completes c x hrun hissue hf).1, (fence_completes c x hrun hissue hf).2,
      twSig_completes c x hrun hissue hf, twWait_completes c x hrun hissue hf, twCtr_completes c x hrun hissue hf,
      twBara_completes c x hrun hissue hf, twBarw_completes c x hrun hissue hf, twHalt_completes c x hrun hissue hf, fun rs1 rs2 => ?_⟩
    exact ⟨twRange_empty_completes c x hrun hissue hf rs1 rs2, twRange_completes c x hrun hissue hf rs1 rs2⟩
  case word =>
    intro p i
    have hctx : u.ctx c x = q := Dev.fetched_ctx hf c x
    have hset : ∀ {n : Insn} {rd : Nat} {val p' : W64}, decodeInsn word.toNat = n → u.sclExec c x n q.pc p = u.sclSet c x rd val p' →
        gives i ((q.setReg rd val).go p') := fun hn h => ecall_runs c x hrun hissue hf hn (by rw [h, Dev.sclSet_ctx, hctx])
    have hgo : ∀ {n : Insn} {p' : W64}, decodeInsn word.toNat = n → u.sclExec c x n q.pc p = u.sclGo c x p' → gives i (q.go p') := fun hn h =>
      ecall_runs c x hrun hissue hf hn (by rw [h, Dev.sclGo_ctx, hctx])
    exact ⟨fun op nw rd rs1 rs2 h => hset h (by rw [← hctx]; rfl), fun op nw rd rs1 imm h => hset h (by rw [← hctx]; rfl),
      fun rd imm h => hset h rfl, fun rd imm h => hset h rfl, fun rd off h => hset h rfl, fun rd rs1 off h => hset h (by rw [← hctx]; rfl),
      fun k rs1 rs2 off h => hgo h (by rw [← hctx]; rfl), fun h => hgo h rfl,
      fun cause h => stopsWith_fetched rfl hrun hissue hf (Dev.sclExec_traps h u c x _ _)⟩
  case flushed =>
    exact fun p hw hh ht => ⟨_, congrArg (fun w => Host.Outcome.next (s.ends w)) (Dev.flushDone_ends hw hh ht), Dev.sclGo_ctx _ _ _ _⟩
  case cleared =>
    refine ⟨_, rfl, ?_⟩
    rw [Dev.core_modCore_same]
    exact ⟨fun h => if_pos h, rfl, rfl, rfl, rfl⟩

end Sys2Proof.Machine

/-! Writes of the sync counters and accesses to their window (10): what each leaves of the counters, and from that O34. -/

namespace Sys2Proof.Machine

/-! ### SYN_CTR_WRITE (R346, R352, R354, Table 10.6) -/

/-- The written word gives an EVENT counter a VALUE above 1. -/
def eventAboveOne (w : W64) : Bool := decide (fld w 33 32 = 2) && decide (1 < fld w 31 0)

/-- The counter with the fields of the written word, before MISUSE is set for its VALUE. -/
def Ctr.written (c : Ctr) (w : W64) : Ctr :=
  { c with kind := fld w 33 32, value := if eventAboveOne w then 1 else fld w 31 0, overflow := c.overflow && !fbit w 34,
           misuse := c.misuse && !fbit w 35 }

/-- The device with counter id written, before the waiters are considered. -/
def Dev.ctrWritten (v : Dev) (id : Nat) (w : W64) : Dev :=
  let v1 := v.modCtr id (fun c => c.written w)
  if eventAboveOne w then v1.setMisuse id else v1

theorem Dev.synCtrWrite_eq (v : Dev) (die i : Nat) (w : W64) (more : Bool) :
    v.synCtrWrite die i w more = if more then v.ctrWritten (localCtr die i) w else (v.ctrWritten (localCtr die i) w).grantPass := rfl

theorem Dev.ctrWritten_ctr_of_good {w : W64} (h : eventAboveOne w = false) (v : Dev) (id : Nat) :
    (v.ctrWritten id w).ctr id = (v.ctr id).written w := by
  simp [Dev.ctrWritten, h]

theorem Dev.ctrWritten_ctr_of_bad {w : W64} (h : eventAboveOne w = true) (v : Dev) (id : Nat) :
    (v.ctrWritten id w).ctr id = { (v.ctr id).written w with misuse := true } := by
  simp [Dev.ctrWritten, h, Dev.setMisuse_ctr]

/-- MISUSE or not, KIND is as written. -/
theorem Dev.ctrWritten_kind (v : Dev) (id : Nat) (w : W64) : ((v.ctrWritten id w).ctr id).kind = fld w 33 32 := by
  cases h : eventAboveOne w
  · rw [Dev.ctrWritten_ctr_of_good h]
    rfl
  · rw [Dev.ctrWritten_ctr_of_bad h]
    rfl

theorem Dev.ctrWritten_ctr_ne (v : Dev) (w : W64) {id j : Nat} (h : j ≠ id) : (v.ctrWritten id w).ctr j = v.ctr j := by
  unfold Dev.ctrWritten
  dsimp only
  split
  · rw [Dev.setMisuse_ctr_ne _ h, Dev.ctr_modCtr_ne _ _ _ h]
  · exact Dev.ctr_modCtr_ne _ _ _ h

/-! ### COUNTER_WINDOW_ACCESS (R315, R342, R356, R357) -/

section
variable {v : Dev} {die off len : Nat} {wr : Bool}

theorem Dev.windowAccess_of_denied (h : v.permits die (syncBase + off) len wr false = false) : v.windowAccess die off len wr = v := by
  simp [Dev.windowAccess, h]

/-- A permitted access that is not an aligned one of 8 bytes at a counter is bad. -/
theorem Dev.windowAccess_of_bad (ho : off < 131072) (hp : v.permits die (syncBase + off) len wr false = true) (hg : syncGood off len = false) :
    v.windowAccess die off len wr = v.syncBad die off := by
  simp [Dev.windowAccess, hp, hg, Nat.not_le.mpr ho]

end

theorem syncGood_counter (i : Fin 14336) : syncGood (8 * i.val) 8 = true := by
  simp [syncGood]

theorem syncGood_false {off len : Nat} (h : off % 8 ≠ 0 ∨ len ≠ 8 ∨ 14336 ≤ off / 8) : syncGood off len = false := by
  simp only [syncGood, Bool.and_eq_false_iff, decide_eq_false_iff_not, Nat.not_lt]
  tauto

theorem Dev.windowAccess_write {v : Dev} {die : Nat} {i : Fin 14336} (hp : v.permits die (syncBase + 8 * i.val) 8 true false = true) :
    v.windowAccess die (8 * i.val) 8 true = v.sendSignal i := by
  have hi : ¬131072 ≤ 8 * i.val := by omega
  simp [Dev.windowAccess, hi, hp, syncGood_counter]

/-- A read of a counter changes nothing, permitted or not. -/
theorem Dev.windowAccess_read (v : Dev) (die : Nat) (i : Fin 14336) : v.windowAccess die (8 * i.val) 8 false = v := by
  simp [Dev.windowAccess, syncGood_counter]

theorem Dev.syncBad_badId (v : Dev) (die off : Nat) : ((v.syncBad die off).synSt die).badId = true := by
  have hsyn : (v.syncBad die off).syn = (v.modSynSt die (fun q => { q with badId := true })).syn := (Dev.ev_within _ _ _ _ _ _).1 .syncStatus (by decide)
  rw [Dev.synSt, hsyn]
  exact congrArg SynStat.badId (Dev.synSt_modSynSt_same v die _)

/-- Settles O34: a write ends with the counter as written, and an access to the window is a signal, a read or a bad access. -/
theorem counterWritten : Obligations.CounterWritten := by
  intro d s
  refine ⟨fun n x => ⟨s.dev.ctrWritten (localCtr d n) x, rfl, s.dev.ctrWritten_kind _ x, fun hgood => ?_, fun hk hv => ?_,
    fun j hj => s.dev.ctrWritten_ctr_ne x hj⟩, fun i => ⟨fun hp => ?_, ?_⟩, fun off len wr ho => ⟨fun hp => ?_, fun hp hbad => ?_⟩⟩
  · have h : eventAboveOne x = false := by simpa [eventAboveOne] using hgood
    rw [Dev.ctrWritten_ctr_of_good h]
    exact ⟨by simp [Ctr.written, h], rfl, rfl⟩
  · have h : eventAboveOne x = true := by simp [eventAboveOne, hk, hv]
    rw [Dev.ctrWritten_ctr_of_bad h]
    exact ⟨by simp [Ctr.written, h], rfl⟩
  · exact congrArg Host.Outcome.next ((congrArg s.ends (Dev.windowAccess_write hp)).trans (State.ends_quiet s _ fun _ => rfl))
  · exact congrArg Host.Outcome.next ((congrArg s.ends (s.dev.windowAccess_read d i)).trans s.ends_self)
  · exact congrArg Host.Outcome.next ((congrArg s.ends (Dev.windowAccess_of_denied hp)).trans s.ends_self)
  · exact ⟨_, congrArg (fun w => Host.Outcome.next (s.ends w)) (Dev.windowAccess_of_bad ho hp (syncGood_false hbad)),
      s.dev.syncBad_badId d off, (Dev.syncBad_within _ _ _).ctrs_eq (by decide)⟩

end Sys2Proof.Machine

/-! Requests that arrive from other modules (14): how a response is routed and what it carries, what a request discarded leaves, what a write,
a read and the packets of a chunk do, and from them O46. -/

namespace Sys2Proof.Machine

/-! ### The fields of a packet built (Table 14.2) -/

section
variable {kind dchip schip sdie len sunit id off ctag : Nat} {data : List Byte}

theorem mkPacket_h0 (hk : kind < 16) : (mkPacket kind dchip schip sdie len sunit id off ctag data).h0.toNat =
    kind + dchip % 16384 * 2 ^ 4 + schip % 16384 * 2 ^ 18 + sdie % 2 * 2 ^ 32 + len % 512 * 2 ^ 33 + sunit % 256 * 2 ^ 42 + id % 4096 * 2 ^ 50 := by
  rw [mkPacket, w64, BitVec.toNat_ofNat]
  omega

theorem pDchip_mkPacket (hk : kind < 16) (h : dchip < 16384) : pDchip (mkPacket kind dchip schip sdie len sunit id off ctag data) = dchip := by
  rw [pDchip, fld, bits, mkPacket_h0 hk]
  omega

theorem pSunit_mkPacket (hk : kind < 16) (h : sunit < 256) : pSunit (mkPacket kind dchip schip sdie len sunit id off ctag data) = sunit := by
  rw [pSunit, fld, bits, mkPacket_h0 hk]
  omega

theorem pOff_mkPacket (h : off < 2 ^ 48) : pOff (mkPacket kind dchip schip sdie len sunit id off ctag data) = off := by
  change (w64 (off % 2 ^ 48 + ctag % 65536 * 2 ^ 48)).toNat / 2 ^ 0 % 2 ^ (47 + 1 - 0) = off
  rw [w64, BitVec.toNat_ofNat]
  omega

end

theorem pSchip_lt (p : Packet) : pSchip p < 16384 := Nat.mod_lt _ (by decide)
theorem pSunit_lt (p : Packet) : pSunit p < 256 := Nat.mod_lt _ (by decide)
theorem pOff_lt (p : Packet) : pOff p < 2 ^ 48 := Nat.mod_lt _ (by decide)

theorem pKind_of_packetGood {kind : Nat} {p : Packet} (h : packetGood kind p = true) : pKind p = kind := by
  simp only [packetGood, Bool.and_eq_true, decide_eq_true_eq] at h
  exact h.1.1

/-! ### Routes and responses (R483, R487, R489) -/

theorem Dev.Within.fabD_eq {F : List Part} {v w : Dev} (h : Dev.Within F v w) (hp : Part.fabric ∉ F) (k : Nat) : w.fabD k = v.fabD k := by
  have hf : w.fab = v.fab := h.1 .fabric hp
  rw [Dev.fabD, hf, Dev.fabD]

/-- A route depends on the route entries and on which links are up. -/
theorem Dev.routeFor_congr {v w : Dev} (hr : ∀ e n, w.route e n = v.route e n) (hl : ∀ l, (w.linkN l).state = (v.linkN l).state)
    (die n sunit off : Nat) : w.routeFor die n sunit off = v.routeFor die n sunit off := by
  have hup : ∀ e r, w.upLinks e r = v.upLinks e r := fun e r => by simp only [Dev.upLinks, hl]
  have hon : ∀ e, w.routeOn e n sunit off = v.routeOn e n sunit off := fun e => by simp only [Dev.routeOn, hr, hup]
  simp only [Dev.routeFor, hon]

theorem Dev.sendPacket_on_link {v : Dev} {die l : Nat} {p : Packet} (h : (v.routeFor die (pDchip p) (pSunit p) (pOff p)).1 = .link l) :
    (v.sendPacket die p).2 = v.send (.packet (linkPort l) p) := by
  unfold Dev.sendPacket
  dsimp only
  rw [h]

/-- A response leaves on the link that the route of its source gives. -/
theorem Dev.reply_on_link {v : Dev} {die kind l : Nat} {p : Packet} (hk : kind < 16)
    (h : (v.routeFor die (pSchip p) (pSunit p) (pOff p)).1 = .link l) (data : List Byte) :
    v.reply die kind p data =
      v.send (.packet (linkPort l) (mkPacket kind (pSchip p) v.chip die data.length (pSunit p) (pId p) (pOff p) 0 data)) := by
  apply Dev.sendPacket_on_link
  rwa [pDchip_mkPacket hk (pSchip_lt p), pSunit_mkPacket hk (pSunit_lt p), pOff_mkPacket (pOff_lt p)]

theorem Dev.flagFab_fabD {v : Dev} {die k : Nat} {g : Fab → Fab} (hg : ∀ f, ∃ a b, g f = { f with denied := a, noLink := b }) (code chip : Nat) :
    ∃ a b, (v.flagFab die g code chip).fabD k = { v.fabD k with denied := a, noLink := b } := by
  have hev : (v.flagFab die g code chip).fabD k = (v.modFabD die g).fabD k := (Dev.ev_within _ _ _ _ _ _).fabD_eq (by decide) k
  rw [hev]
  by_cases hk : k = die
  · rw [hk, Dev.fabD_modFabD_same]
    exact hg _
  · rw [Dev.fabD_modFabD_ne _ _ _ hk]
    exact ⟨_, _, rfl⟩

/-- Of the fabric registers a response changes at most the two flags of a route that gives no link. -/
theorem Dev.reply_fabD (v : Dev) (die kind : Nat) (p : Packet) (data : List Byte) (k : Nat) :
    ∃ a b, (v.reply die kind p data).fabD k = { v.fabD k with denied := a, noLink := b } := by
  unfold Dev.reply Dev.sendPacket
  dsimp only
  split
  · exact Dev.flagFab_fabD (fun f => ⟨_, _, rfl⟩) _ _
  · exact Dev.flagFab_fabD (fun f => ⟨_, _, rfl⟩) _ _
  · exact ⟨_, _, rfl⟩
  · exact ⟨_, _, rfl⟩

theorem Dev.reply_land (v : Dev) (die kind : Nat) (p : Packet) (data : List Byte) (k n : Nat) :
    (v.reply die kind p data).land k n = v.land k n := by
  obtain ⟨_, _, h⟩ := v.reply_fabD die kind p data k
  rw [Dev.land, h, Dev.land]

theorem Dev.reply_cores (v : Dev) (die kind : Nat) (p : Packet) (data : List Byte) : (v.reply die kind p data).cores = v.cores := by
  unfold Dev.reply Dev.sendPacket
  dsimp only
  split <;> rfl

/-! ### Admission (R490) -/

theorem exec_requests (d : DieId) (port : Port) (p : Packet) (s : State) :
    ∀ x ∈ [(Instr.write d port p, 0), (.read d port p, 1), (.chunkData d port p, 5), (.chunkDone d port p, 6)],
      ∃ act, exec x.1 s = .next (s.ends (s.dev.arrive x.2 d.val port p true act)) := by
  simp only [List.forall_mem_cons]
  exact ⟨⟨_, rfl⟩, ⟨_, rfl⟩, ⟨_, rfl⟩, ⟨_, rfl⟩, fun _ h => absurd h List.not_mem_nil⟩

section
variable {v : Dev} {kind die : Nat} {port : Port} {p : Packet} (ho : v.portOpen die port p = true) (hg : packetGood kind p = true)
include ho hg

theorem Dev.arrive_acts (hi : v.inbound die port p = .ok) (request : Bool) (act : Dev → Dev) : v.arrive kind die port p request act = act v := by
  unfold Dev.arrive
  rw [if_neg (by simp [ho, hg])]
  simp only [hi]

/-- A request discarded sets the flag that says why, is answered, and touches neither the stacks nor a core. -/
theorem Dev.arrive_discards (hi : v.inbound die port p ≠ .ok) (act : Dev → Dev) : let w := v.arrive kind die port p true act
    w.hbm = v.hbm ∧ w.cores = v.cores ∧ (v.inbound die port p = .misrouted → (w.fabD die).misrouted = true) ∧
      (v.inbound die port p = .denied → (w.fabD die).inboundDenied = true) := by
  have flagged : ∀ (g : Fab → Fab) (code a b : Nat), let w := ((v.modFabD die g).ev die (74 + die) code a b).reply die 4 p []
      w.hbm = v.hbm ∧ w.cores = v.cores ∧ ∃ x y, w.fabD die = { g (v.fabD die) with denied := x, noLink := y } := by
    intro g code a b w
    have hev := Dev.ev_within (v.modFabD die g) die (74 + die) code a b
    obtain ⟨x, y, hf⟩ := ((v.modFabD die g).ev die (74 + die) code a b).reply_fabD die 4 p [] die
    rw [hev.fabD_eq (by decide), Dev.fabD_modFabD_same] at hf
    exact ⟨((Dev.reply_within _ _ _ _ _).hbm_eq (by decide)).trans (hev.hbm_eq (by decide)), Dev.reply_cores _ _ _ _ _, x, y, hf⟩
  unfold Dev.arrive
  rw [if_neg (by simp [ho, hg])]
  cases h : v.inbound die port p with
  | ok => exact absurd h hi
  | misrouted =>
    obtain ⟨hhbm, hcores, x, y, hf⟩ := flagged (fun f => { f with misrouted := true }) 0x045 (pDchip p) (portNo port)
    exact ⟨hhbm, hcores, fun _ => congrArg Fab.misrouted hf, nofun⟩
  | denied =>
    obtain ⟨hhbm, hcores, x, y, hf⟩ := flagged (fun f => { f with inboundDenied := true }) 0x046 (pSchip p) (portNo port)
    exact ⟨hhbm, hcores, nofun, fun _ => congrArg Fab.inboundDenied hf⟩

end

/-! ### Bytes written (R316, R483, R498) -/

/-- The device with the bytes of a packet written to stack memory, before they are counted and acknowledged. -/
def Dev.packetPut (v : Dev) (die : Nat) (port : Port) (p : Packet) : Dev :=
  (v.modFabD die (fun f => { f with arrivals := f.arrivals + 1 })).stackPut (pOff p) p.data (portReq port)
    (some (.packet die port p (v.fabD die).arrivals))

/-- The device once the bytes of a packet have been counted, recorded by the landing slot and acknowledged. -/
def Dev.packetAcked (v : Dev) (die : Nat) (port : Port) (p : Packet) : Dev :=
  let v1 := v.rxCount port (pOff p) p.data.length
  let v2 := if pKind p = 5 then v1.landData (pSdie p) (pLid p % 1024) (pCtag p) p.data.length else v1
  if pSchip p = v.chip then v2 else v2.reply die 3 p []

theorem Dev.packetPut_within (v : Dev) (die : Nat) (port : Port) (p : Packet) :
    Dev.Within [.stackMem, .channels, .stackRegs, .heldWrites, .fabric, .hif] v (v.packetPut die port p) :=
  (Dev.stackPut_within _ _ _ _ _).step (by decide) ((Dev.modFabD_within _ _ _).mono (by decide))

theorem Dev.packetPut_fabD (v : Dev) (die : Nat) (port : Port) (p : Packet) (k : Nat) :
    ∃ n, (v.packetPut die port p).fabD k = { v.fabD k with arrivals := n } := by
  rw [Dev.packetPut, (Dev.stackPut_within _ _ _ _ _).fabD_eq (by decide)]
  by_cases hk : k = die
  · rw [hk, Dev.fabD_modFabD_same]
    exact ⟨_, rfl⟩
  · rw [Dev.fabD_modFabD_ne _ _ _ hk]
    exact ⟨_, rfl⟩

theorem Dev.packetPut_effect {v : Dev} (h : v.holdsNone) (die : Nat) (port : Port) (p : Packet) :
    (v.packetPut die port p).hbm.mem = mwrite v.hbm.mem (pOff p) p.data ∧ (v.packetPut die port p).moult.held = v.moult.held :=
  Dev.stackPut_effect (v := v.modFabD die _) h _ _ _ _

theorem Dev.packetAcked_within (v : Dev) (die : Nat) (port : Port) (p : Packet) :
    Dev.Within [.dmas, .links, .fabric, .hif, .out] v (v.packetAcked die port p) := by
  have hrx := (v.rxCount_within port (pOff p) p.data.length).mono (F := [.dmas, .links, .fabric, .hif, .out]) (by decide)
  have hland := Dev.Within.ite (c := pKind p = 5) ((Dev.landData_within _ (pSdie p) (pLid p % 1024) (pCtag p) p.data.length).step (by decide) hrx) hrx
  exact Dev.Within.ite hland ((Dev.reply_within _ die 3 p []).step (by decide) hland)

section
variable {v : Dev} {die : Nat} {port : Port} {p : Packet} (hplace : placeOf (pOff p) = .stack (pOff p))
  (hperm : v.permits die (pOff p) p.data.length true true = true) (hne : p.data ≠ []) (hpath : v.pathAt (pOff p) p.data.length = none)
  (hnone : v.holdsNone) (hheld : v.moult.held = [])
include hplace hperm hne hpath

/-- A write that an enabled REMOTE region permits and that meets no path error (R316). -/
theorem Dev.arriveWrite_stack (chip req : Nat) (away : Bool) (owner : Option Owner) :
    v.arriveWrite die (pOff p) p.data chip req away owner = (false, v.stackPut (pOff p) p.data req owner) := by
  have he : p.data.isEmpty = false := by simpa using hne
  simp [Dev.arriveWrite, hperm, hplace, Dev.wrModule, he, hpath, Dev.stackPut]

include hnone hheld

/-- The bytes land at once, since nothing holds them. -/
theorem Dev.packetWrite_stack : v.packetWrite die port p = ((v.packetPut die port p).packetAcked die port p).releaseHeld := by
  have hput := Dev.arriveWrite_stack (v := v.modFabD die (fun f => { f with arrivals := f.arrivals + 1 })) (die := die) hplace hperm hne hpath
    (pSchip p) (portReq port) true (some (.packet die port p (v.fabD die).arrivals))
  have hheld' : (v.packetPut die port p).moult.held = [] := (Dev.packetPut_effect hnone die port p).2.trans hheld
  unfold Dev.packetWrite
  dsimp only
  rw [hput]
  change (if (v.packetPut die port p).moult.held.any _ then _ else _) = _
  rw [hheld']
  rfl

end

/-- What such a write leaves of stack memory: its bytes, and every other as it was. -/
theorem Dev.packetAcked_memory {v : Dev} (h : v.holdsNone) (die : Nat) (port : Port) (p : Packet) :
    let u := (v.packetPut die port p).packetAcked die port p
    u.stk8 (pOff p) p.data.length = p.data ∧
      ∀ b, (b < pOff p ∨ pOff p + p.data.length ≤ b) → mget u.hbm.mem b = mget v.hbm.mem b := by
  intro u
  have hmem : u.hbm.mem = mwrite v.hbm.mem (pOff p) p.data :=
    ((Dev.packetAcked_within _ die port p).mem_eq (by decide)).trans (Dev.packetPut_effect h die port p).1
  rw [Dev.stk8, hmem]
  exact ⟨mread_mwrite _ _ _, fun b hb => mget_mwrite_outside _ _ _ hb⟩

/-- Counting landed bytes takes no link up or down (R479). -/
theorem Dev.rxCount_state (v : Dev) (port : Port) (a n l : Nat) : ((v.rxCount port a n).linkN l).state = (v.linkN l).state := by
  cases port with
  | gateway => rfl
  | link k =>
    unfold Dev.rxCount
    dsimp only
    rw [Dev.linkN, (Dev.Within.iter (F := [.dmas]) (fun w => Dev.reqEvent_within w _ _ _) (Dev.Within.refl _ _)).links_eq (by decide)]
    change ((Dev.modLinkN v k.val _).linkN l).state = _
    by_cases hl : l = k
    · rw [hl, Dev.linkN_modLinkN_same]
    · rw [Dev.linkN_modLinkN_ne _ _ _ hl]

/-- The bytes of a WRITE from another module are acknowledged on the link of its route (R483). -/
theorem Dev.packetAcked_out {v : Dev} {die n : Nat} {port : Port} {p : Packet} (hk : pKind p = 0) (hc : pSchip p ≠ v.chip)
    (hr : (v.routeFor die (pSchip p) (pSunit p) (pOff p)).1 = .link n) : ((v.packetPut die port p).packetAcked die port p).out =
      v.out ++ [.packet (linkPort n) (mkPacket 3 (pSchip p) v.chip die 0 (pSunit p) (pId p) (pOff p) 0 [])] := by
  let w := (v.packetPut die port p).rxCount port (pOff p) p.data.length
  have hput := v.packetPut_within die port p
  have hrx := (v.packetPut die port p).rxCount_within port (pOff p) p.data.length
  have hchip : w.chip = v.chip := (hrx.chip_eq (by decide)).trans (hput.chip_eq (by decide))
  have hroute : ∀ e m, w.route e m = v.route e m := fun e m => by
    obtain ⟨_, hf⟩ := v.packetPut_fabD die port p e
    rw [Dev.route, hrx.fabD_eq (by decide), hf, Dev.route]
  have hup : ∀ l, (w.linkN l).state = (v.linkN l).state := fun l => by
    rw [Dev.rxCount_state, Dev.linkN, hput.links_eq (by decide), Dev.linkN]
  have hacked : (v.packetPut die port p).packetAcked die port p = w.reply die 3 p [] := by
    simp [Dev.packetAcked, hk, hput.chip_eq (by decide), hc, w]
  rw [hacked, Dev.reply_on_link (by decide) (by rwa [Dev.routeFor_congr hroute hup]), Dev.send_out, hchip, hrx.out_eq (by decide),
    hput.out_eq (by decide)]
  rfl

/-! ### Landing slots (R498) -/

@[simp] theorem Dev.land_modLand_same (v : Dev) (die n : Nat) (g : Land → Land) : (v.modLand die n g).land die n = g (v.land die n) := by
  simp [Dev.land, Dev.modLand]

theorem Dev.land_congr {v w : Dev} {e : Nat} (h : (w.fabD e).land = (v.fabD e).land) (n : Nat) : w.land e n = v.land e n := by
  rw [Dev.land, h, Dev.land]

/-- A slot that counts a packet has its tag once it has taken the packet. -/
theorem Land.adopt_of_mine {l : Land} {t : Nat} (h : l.judge t = .mine) : (l.adopt t).used = true ∧ (l.adopt t).ctag = t := by
  unfold Land.judge at h
  unfold Land.adopt
  split_ifs at h ⊢ <;> simp_all

theorem Dev.landData_mine {v : Dev} {e i t : Nat} (h : (v.land e i).judge t = .mine) (n : Nat) :
    (v.landData e i t n).land e i = { (v.land e i).adopt t with got := ((v.land e i).adopt t).got + n }.settle := by
  unfold Dev.landData
  rw [h]
  exact Dev.land_modLand_same v e i _

/-- The slot of a chunk once the bytes of a packet of its tag have landed. -/
theorem Dev.packetAcked_land {v : Dev} {die : Nat} {port : Port} {p : Packet} (hk : pKind p = 5) {l : Land}
    (hl : v.land (pSdie p) (pLid p % 1024) = l) (hj : l.judge (pCtag p) = .mine) :
    ((v.packetPut die port p).packetAcked die port p).land (pSdie p) (pLid p % 1024) =
      { l.adopt (pCtag p) with got := (l.adopt (pCtag p)).got + p.data.length }.settle := by
  let w := (v.packetPut die port p).rxCount port (pOff p) p.data.length
  have hw : w.land (pSdie p) (pLid p % 1024) = l := by
    obtain ⟨_, hf⟩ := v.packetPut_fabD die port p (pSdie p)
    rw [← hl]
    refine Dev.land_congr ?_ _
    rw [(Dev.rxCount_within _ _ _ _).fabD_eq (by decide), hf]
  have hland := Dev.landData_mine (v := w) (by rw [hw]; exact hj) p.data.length
  rw [hw] at hland
  unfold Dev.packetAcked
  dsimp only
  rw [if_pos hk]
  split
  · exact hland
  · rw [Dev.reply_land]
    exact hland

/-- What a CHUNK_DONE records in the slot that takes it. -/
def Land.done (l : Land) (ctag n : Nat) : Land :=
  { l.adopt ctag with announced := some (bits n 39 0), cc := bits n 55 40, cfmt := bits n 66 64, sat := bits n 95 80 }.settle

theorem Dev.chunkDone_mine {v : Dev} {p : Packet} (h : (v.land (pSdie p) (pLid p % 1024)).judge (pCtag p) = .mine) (die : Nat) :
    v.chunkDone die p = (v.modLand (pSdie p) (pLid p % 1024) (fun l => l.done (pCtag p) (ofBytes p.data))).reply die 3 p [] := by
  unfold Dev.chunkDone Dev.landDone
  rw [h]
  rfl

/-! ### READ (R483) -/

theorem Dev.packetRead_stack {v : Dev} {die : Nat} {p : Packet} (hplace : placeOf (pOff p) = .stack (pOff p))
    (hperm : v.permits die (pOff p) (pLen p) false true = true) (hpath : v.pathAt (pOff p) (pLen p) = none) (hbusy : v.hbm.busy = false)
    (port : Port) : v.packetRead die port p = (v.softErrs (pOff p) (pLen p)).reply die 2 p (v.stkSeen (pOff p) (pLen p)) := by
  simp [Dev.packetRead, Dev.fillWait, hbusy, Dev.arriveRead, hperm, hplace, Place.isAtomic, Dev.rdModule, hpath]

/-- Settles O46: a request that passes the checks is the write, the read or the record of its slot, and the response follows it. -/
theorem fabricRequestsComplete : Obligations.FabricRequestsComplete := by
  intro d port p s v a e i l res ho
  refine ⟨fun x hx hg hi => ?_, fun hi => ⟨?write, ?read, ?data, ?stray, ?done⟩⟩
  · obtain ⟨act, he⟩ := exec_requests d port p s x hx
    exact ⟨_, he, Dev.arrive_discards ho hg hi act⟩
  case write =>
    intro hg hplace hperm hne hpath hm hheld hbusy
    obtain ⟨hbytes, hrest⟩ := Dev.packetAcked_memory (v := v) ⟨hm, hbusy⟩ d port p
    have hacts := (Dev.arrive_acts ho hg hi true fun u => u.packetWrite d port p).trans
      (Dev.packetWrite_stack hplace hperm hne hpath ⟨hm, hbusy⟩ hheld)
    exact ⟨_, congrArg (fun w => Host.Outcome.next (s.ends w)) hacts, hbytes, hrest,
      fun n hc hr => Dev.packetAcked_out (pKind_of_packetGood hg) hc hr⟩
  case read =>
    intro hg hplace hperm hlen hpath hbusy
    have hacts := (Dev.arrive_acts ho hg hi true fun u => u.packetRead d port p).trans
      (Dev.packetRead_stack hplace hperm hpath hbusy port)
    have hsoft := v.softErrs_within a (pLen p)
    refine ⟨_, congrArg (fun w => Host.Outcome.next (s.ends w)) hacts, ((Dev.reply_within _ _ _ _ _).mem_eq (by decide)).trans (v.softErrs_mem _ _),
      fun n hr => ?_⟩
    have hroute : (v.softErrs a (pLen p)).routeFor d (pSchip p) (pSunit p) (pOff p) = v.routeFor d (pSchip p) (pSunit p) (pOff p) :=
      Dev.routeFor_congr (fun e n => by rw [Dev.route, hsoft.fabD_eq (by decide), Dev.route])
        (fun l => by rw [Dev.linkN, hsoft.links_eq (by decide), Dev.linkN]) _ _ _ _
    rw [Dev.reply_on_link (by decide) (by rw [hroute]; exact hr), Dev.send_out, hsoft.out_eq (by decide), hsoft.chip_eq (by decide),
      Dev.stkSeen, Dev.stk8, mread_length]
  case data =>
    intro hg hj hplace hperm hne hpath hm hheld hbusy
    obtain ⟨hbytes, hrest⟩ := Dev.packetAcked_memory (v := v) ⟨hm, hbusy⟩ d port p
    have hacts := (Dev.arrive_acts ho hg hi true fun u => u.chunkData d port p).trans ((if_neg (by rw [hj]; decide)).trans
      (Dev.packetWrite_stack hplace hperm hne hpath ⟨hm, hbusy⟩ hheld))
    obtain ⟨hused, hctag⟩ := Land.adopt_of_mine hj
    refine ⟨_, congrArg (fun w => Host.Outcome.next (s.ends w)) hacts, hbytes, hrest, ?_⟩
    rw [Dev.packetAcked_land (pKind_of_packetGood hg) rfl hj]
    exact ⟨hused, hctag, rfl⟩
  case stray =>
    intro hg hj
    have hacts := (Dev.arrive_acts ho hg hi true fun u => u.chunkData d port p).trans (if_pos hj)
    have hf : (v.lateDiscard e).fabD e = { v.fabD e with lateDiscards := satAdd (v.fabD e).lateDiscards 1 4095 } := Dev.fabD_modFabD_same v e _
    exact ⟨_, congrArg (fun w => Host.Outcome.next (s.ends w)) hacts, rfl, Dev.land_congr (by rw [hf]) _, congrArg Fab.lateDiscards hf⟩
  case done =>
    intro hg hj n
    have hacts := (Dev.arrive_acts ho hg hi true fun u => u.chunkDone d p).trans (Dev.chunkDone_mine hj d)
    obtain ⟨-, hctag⟩ := Land.adopt_of_mine hj
    refine ⟨_, congrArg (fun w => Host.Outcome.next (s.ends w)) hacts,
      ((Dev.reply_within _ _ _ _ _).hbm_eq (by decide)).trans ((Dev.modLand_within _ _ _ _).hbm_eq (by decide)), ?_⟩
    rw [Dev.reply_land, Dev.land_modLand_same]
    exact ⟨hctag, rfl, rfl, rfl, rfl, rfl, decide_eq_decide.mpr Option.some_inj⟩

end Sys2Proof.Machine

/-! Start-up and the resets (18): what the ROM's start leaves of Forzoevo, what each step of Table 18.7 leaves of the module, what a loss of the
main rails leaves, and from them O58. -/

namespace Sys2Proof.Machine

/-! ### What a command on the device and Forzoevo answers -/

/-- A command that leaves the host interface as it was has no event to merge. -/
theorem Dev.merged_of_hif {v w : Dev} (h : w.hif = v.hif) : Dev.merged v w = w :=
  Dev.merged_quiet v w fun d => by rw [Dev.hifD, h, Dev.hifD]

/-- The command takes effect, leaves what is pending, and brings a state of which p holds. -/
def State.Gives (s : State) (c : Instr) (p : State → Prop) : Prop := ∃ t, exec c s = .next t ∧ t.pending = s.pending ∧ p t

section
variable {s : State} {c : Instr} {n : Mgmt} {w : Dev} {p : State → Prop} (f : Mgmt → Dev → Mgmt × Dev) (he : exec c s = s.onBoth f)
  (hf : f s.mgmt s.dev = (n, w))
include he hf

theorem exec_onBoth_gives (hp : p { s with mgmt := n, dev := Dev.merged s.dev w }) : s.Gives c p :=
  ⟨{ s with mgmt := n, dev := Dev.merged s.dev w }, by rw [he, State.onBoth, hf], rfl, hp⟩

theorem exec_onBoth_quiet (hq : w.hif = s.dev.hif) : exec c s = .next { s with mgmt := n, dev := w } := by
  rw [he, State.onBoth, hf, Dev.merged_of_hif hq]

theorem exec_onBoth_quiet_gives (hq : w.hif = s.dev.hif) (hp : p { s with mgmt := n, dev := w }) : s.Gives c p :=
  ⟨_, exec_onBoth_quiet f he hf hq, rfl, hp⟩

end

theorem atStep_of_at {n : Nat} {m : Mgmt} (h : m.bootStep = n ∧ m.running = true) (v : Dev) (f : Mgmt → Dev → Mgmt × Dev) :
    atStep n m v f = f { m with bootStep := n + 1 } v := if_pos h

theorem atStep_of_not {n : Nat} {m : Mgmt} (h : ¬(m.bootStep = n ∧ m.running = true)) (v : Dev) (f : Mgmt → Dev → Mgmt × Dev) :
    atStep n m v f = (m, v) := if_neg h

/-- A step of start-up that changes the device only. -/
def stepOn (n : Nat) (g : Dev → Dev) (m : Mgmt) (v : Dev) : Mgmt × Dev := atStep n m v (fun k u => (k, g u))

theorem stepOn_of_at {n : Nat} {m : Mgmt} (h : m.bootStep = n ∧ m.running = true) (g : Dev → Dev) (v : Dev) :
    stepOn n g m v = ({ m with bootStep := n + 1 }, g v) := atStep_of_at h v _

theorem stepOn_of_not {n : Nat} {m : Mgmt} (h : ¬(m.bootStep = n ∧ m.running = true)) (g : Dev → Dev) (v : Dev) : stepOn n g m v = (m, v) :=
  atStep_of_not h v _

theorem exec_sramClear (s : State) : exec .sramClear s = s.onBoth (stepOn 4 Dev.sramClear) := rfl
theorem exec_linkTraining (lanes : Vector (BitVec 4) 18) (stamps : Vector Stamps 18) (s : State) :
    exec (.linkTraining lanes stamps) s = s.onBoth (stepOn 6 fun u => u.trainLinks (lanes.toList.map (fun b => b.toNat)) stamps.toList) := rfl
theorem exec_timeLockTimeout (s : State) : exec .timeLockTimeout s = s.onBoth (stepOn 7 id) := rfl

/-! ### Folds that change each entry once -/

/-- A fold that changes each of several entries once leaves each as its own change does. -/
theorem Dev.forAll_once {β : Type} (p : Dev → Nat → β) {f : Dev → Nat → Dev} {g : Nat → β → β}
    (same : ∀ u x, p (f u x) x = g x (p u x))
    (other : ∀ u x y, y ≠ x → p (f u x) y = p u y) {xs : List Nat} (hn : xs.Nodup) (v : Dev) :
    (∀ x ∈ xs, p (v.forAll xs f) x = g x (p v x)) ∧ ∀ y, y ∉ xs → p (v.forAll xs f) y = p v y := by
  induction xs generalizing v with
  | nil => exact ⟨fun x hx => absurd hx List.not_mem_nil, fun _ _ => rfl⟩
  | cons a r ih =>
    obtain ⟨ha, hr⟩ := List.nodup_cons.mp hn
    obtain ⟨hin, hout⟩ := ih hr (f v a)
    refine ⟨fun x hx => ?_, fun y hy => ?_⟩
    · rcases List.mem_cons.mp hx with rfl | hx
      · exact (hout _ ha).trans (same v x)
      · exact (hin x hx).trans (by rw [other v a x fun h => ha (h ▸ hx)])
    · rw [List.mem_cons, not_or] at hy
      exact (hout y hy.2).trans (other v a y hy.1)

theorem Dev.forAll_range_once {β : Type} (p : Dev → Nat → β) {f : Dev → Nat → Dev} {g : Nat → β → β}
    (same : ∀ u x, p (f u x) x = g x (p u x))
    (other : ∀ u x y, y ≠ x → p (f u x) y = p u y) (v : Dev) {n x : Nat} (hx : x < n) :
    p (v.forAll (List.range n) f) x = g x (p v x) :=
  (Dev.forAll_once p same other List.nodup_range v).1 x (List.mem_range.mpr hx)

/-! ### Forzoevo's log (R626) -/

/-- The entry just written stands in the log, which drops its oldest entries only. -/
theorem Mgmt.logAdd_entry (m : Mgmt) (ms code a0 a1 : Nat) : ∃ e ∈ (m.logAdd ms code a0 a1).log, e.code = code ∧ e.a0 = a0 := by
  refine ⟨{ index := m.logNext, code := code, boot := m.bootCount, ms := ms % 2 ^ 32, a0 := a0, a1 := a1 }, ?_, rfl, rfl⟩
  simp only [Mgmt.logAdd]
  rw [List.drop_append_of_le_length (by simp only [List.length_append, List.length_singleton]; omega)]
  exact List.mem_append_right _ (List.mem_singleton_self _)

theorem logBoth_entry (code a0 a1 : Nat) (mv : Mgmt × Dev) : ∃ e ∈ (logBoth code a0 a1 mv).1.log, e.code = code ∧ e.a0 = a0 :=
  mv.1.logAdd_entry _ code a0 a1

theorem Mgmt.logAdd_bootStep (m : Mgmt) (ms code a0 a1 : Nat) : (m.logAdd ms code a0 a1).bootStep = m.bootStep := by rw [Mgmt.logAdd]

theorem logBoth_bootStep (code a0 a1 : Nat) (mv : Mgmt × Dev) : (logBoth code a0 a1 mv).1.bootStep = mv.1.bootStep :=
  mv.1.logAdd_bootStep _ code a0 a1

/-! ### Forzoevo's start (R630, R631) -/

/-- Forzoevo as its ROM has read SLOT_ID and the records, before it has checked a bank. -/
def Mgmt.booting (m : Mgmt) (slot : Nat) : Mgmt :=
  { m with slot := slot, attNext := m.nextOfRecords, sensors := [], running := false, recovery := false }

section
variable {m : Mgmt} (slot : Nat) (v : Dev)

theorem romStart_of_active (h : m.bankOk m.activeMgmt = true) : romStart slot (m, v) = ({ m.booting slot with running := true }, v) := if_pos h

theorem romStart_of_other (h : m.bankOk m.activeMgmt = false) (h' : m.bankOk (1 - m.activeMgmt) = true) :
    romStart slot (m, v) =
      ({ (logBoth 0x07 0 m.activeMgmt (m.booting slot, v)).1 with running := true, activeMgmt := 1 - m.activeMgmt },
        (logBoth 0x07 0 m.activeMgmt (m.booting slot, v)).2) :=
  (if_neg fun q => Bool.false_ne_true (h.symm.trans q)).trans (if_pos h')

theorem romStart_of_neither (h : m.bankOk m.activeMgmt = false) (h' : m.bankOk (1 - m.activeMgmt) = false) :
    romStart slot (m, v) =
      ({ (logBoth 0x07 0 (1 - m.activeMgmt) (logBoth 0x07 0 m.activeMgmt (m.booting slot, v))).1 with recovery := true },
        (logBoth 0x07 0 (1 - m.activeMgmt) (logBoth 0x07 0 m.activeMgmt (m.booting slot, v))).2) :=
  (if_neg fun q => Bool.false_ne_true (h.symm.trans q)).trans (if_neg fun q => Bool.false_ne_true (h'.symm.trans q))

/-- The ROM reads SLOT_ID and the records, and runs the bank last activated, else the other, else stays in recovery. -/
theorem romStart_effect (m : Mgmt) : let r := (romStart slot (m, v)).1
    (r.aux = m.aux ∧ r.bootCount = m.bootCount ∧ r.slot = slot ∧ r.attNext = m.nextOfRecords) ∧
    (m.bankOk m.activeMgmt = true → r.running = true ∧ r.activeMgmt = m.activeMgmt) ∧
    (m.bankOk m.activeMgmt = false → m.bankOk (1 - m.activeMgmt) = true → r.running = true ∧ r.activeMgmt = 1 - m.activeMgmt) ∧
    (m.bankOk m.activeMgmt = false → m.bankOk (1 - m.activeMgmt) = false → r.running = false ∧ r.recovery = true) := by
  cases hactive : m.bankOk m.activeMgmt with
  | true =>
    rw [romStart_of_active slot v hactive]
    exact ⟨⟨rfl, rfl, rfl, rfl⟩, fun _ => ⟨rfl, rfl⟩, by simp, by simp⟩
  | false =>
    cases hother : m.bankOk (1 - m.activeMgmt) with
    | true =>
      rw [romStart_of_other slot v hactive hother]
      exact ⟨⟨rfl, rfl, rfl, rfl⟩, by simp, fun _ _ => ⟨rfl, rfl⟩, by simp⟩
    | false =>
      rw [romStart_of_neither slot v hactive hother]
      exact ⟨⟨rfl, rfl, rfl, rfl⟩, by simp, by simp, fun _ _ => ⟨rfl, rfl⟩⟩

theorem auxUp_of_powered (h : m.running = true ∨ m.recovery = true) : auxUp slot m v = ({ m with aux := true }, v) := if_pos h

/-- Forzoevo as AUX reaches it while it does not run. -/
def Mgmt.woken (m : Mgmt) : Mgmt := { m with aux := true, bootCount := m.bootCount + 1 }

theorem auxUp_of_stopped (hrun : m.running = false) (hrec : m.recovery = false) :
    auxUp slot m v = ({ (romStart slot (m.woken, v)).1 with bootStep := if (romStart slot (m.woken, v)).1.running then 1 else 0 },
      (romStart slot (m.woken, v)).2) := if_neg (by simp [hrun, hrec])

/-- RESET_N's samples reset Forzoevo while it is held. -/
def heldReset (slot : Nat) (m : Mgmt) (v : Dev) : Mgmt × Dev :=
  if m.resetHold && (m.running || m.recovery) then mgmtRestart slot (m, v) else (m, v)

theorem exec_resetNHeld (slot : BitVec 7) (s : State) : exec (.resetNHeld slot) s = s.onBoth (heldReset slot.toNat) := rfl

theorem heldReset_of_held (hhold : m.resetHold = true) (hrun : m.running = true) : heldReset slot m v = mgmtRestart slot (m, v) :=
  if_pos (by simp [hhold, hrun])

theorem heldReset_of_released (hhold : m.resetHold = false) : heldReset slot m v = (m, v) := if_neg (by simp [hhold])

/-- RESET_N held on resets Forzoevo too: with its bank good and no image pending it runs again, the module untouched. -/
theorem mgmtRestart_of_active (hpend : m.pendMgmt = false) (hok : m.bankOk m.activeMgmt = true) :
    mgmtRestart slot (m, v) = ({ m.booting slot with running := true, bootStep := if m.bootStep = 0 then 1 else m.bootStep }, v) := by
  have hact : activateMgmt (m, v) = (m, v) := if_neg (by simp [hpend])
  unfold mgmtRestart
  rw [hact, romStart_of_active slot v hok]
  by_cases h : m.bootStep = 0 <;> simp [Mgmt.booting, h]

end

/-! ### The main rails (R308, R420, Table 18.9) -/

/-- The module as it stands with its main rails off. -/
def Dev.Dark (v : Dev) : Prop := v.pwr.rails = false ∧ (∀ a, mget v.hbm.mem a = 0#8) ∧ v.scheds = [] ∧ v.strms = []

theorem Dev.railsOff_dark (v : Dev) : v.railsOff.Dark := ⟨rfl, fun _ => rfl, rfl, rfl⟩

theorem Dev.Dark.within {F : List Part} {v w : Dev} (hd : v.Dark) (h : Dev.Within F v w)
    (hp : ∀ p ∈ [Part.power, .stackMem, .schedules, .streams], p ∉ F) : w.Dark := by
  simp only [List.forall_mem_cons] at hp
  obtain ⟨ppwr, pmem, pscheds, pstrms, -⟩ := hp
  rw [Dev.Dark, h.pwr_eq ppwr, h.mem_eq pmem, h.scheds_eq pscheds, h.strms_eq pstrms]
  exact hd

theorem Dev.Dark.merged {v : Dev} (hd : v.Dark) (old : Dev) : (Dev.merged old v).Dark := hd.within (Dev.merged_within old v) (by decide)

/-- What Forzoevo keeps in flash and fuses of the module: the retired channels, the fused SVN, the banks and the chip number. -/
def Mgmt.SameFlash (m n : Mgmt) : Prop :=
  n.retiredChans = m.retiredChans ∧ n.fusedSvn = m.fusedSvn ∧ n.banks = m.banks ∧ n.chip = m.chip

/-- A TRAIN image that becomes active changes the active bank and the log, and leaves start-up and RESET_N's hold alone. -/
theorem activateTrain_keeps (m : Mgmt) (v : Dev) : m.SameFlash (activateTrain (m, v)).1 ∧ (activateTrain (m, v)).1.resetHold = m.resetHold ∧
    (activateTrain (m, v)).1.bootStep = m.bootStep := by
  unfold activateTrain
  split <;> exact ⟨⟨rfl, rfl, rfl, rfl⟩, rfl, rfl⟩

theorem moduleReset_dark (m : Mgmt) (v : Dev) : (moduleReset m v).2.Dark :=
  v.railsOff_dark.within (activateTrain_within _) (by decide)

/-! ### FUSE_LOAD and SRAM_CLEAR (steps 4 and 5) -/

theorem Dev.forAll_modCore_range (v : Dev) (g : Nat → Core → Core) {n c : Nat} (hc : c < n) :
    (v.forAll (List.range n) (fun w c => w.modCore c (g c))).core c = g c (v.core c) :=
  (Dev.forAll_modCore_once id g (List.range n) v (by simpa using List.nodup_range)).1 c (List.mem_range.mpr hc)

theorem Dev.fused_core (v : Dev) (m : Mgmt) (c : CoreId) :
    (v.forAll (List.range 48) (fun w c => w.modCore c (Core.fused m c))).core c = Core.fused m c (v.core c) :=
  Dev.forAll_modCore_range v (Core.fused m) c.isLt

/-- A channel takes the spares that Forzoevo keeps for it. -/
def Dev.loadSpares (v : Dev) (e : Nat × Chan) : Dev :=
  v.modChan e.1 (fun c => { c with dqSpares := e.2.dqSpares, caSpares := e.2.caSpares })

/-- Both dies as fuses and flash give them. -/
def Dev.fuseLoaded (v : Dev) (m : Mgmt) : Dev :=
  (((v.forAll (List.range 48) (fun w c => w.modCore c (Core.fused m c))).forAll m.laneSpares Dev.loadSpares).modPwr
    (fun p => { p with rackCapNext := some m.rackCap })).setChip m.chip

theorem Dev.fuseLoaded_core (v : Dev) (m : Mgmt) (c : CoreId) : (v.fuseLoaded m).core c = Core.fused m c (v.core c) :=
  (Dev.forAll_keeps (fun u => u.core c) (f := Dev.loadSpares) (fun _ _ => rfl) m.laneSpares _).trans (v.fused_core m c)

theorem fuseLoad_of_at {m : Mgmt} (h : m.bootStep = 3 ∧ m.running = true) (v : Dev) :
    fuseLoad true m v = ({ m with bootStep := 4 }, v.fuseLoaded { m with bootStep := 4 }) :=
  atStep_of_at h v fun n u => (n, u.fuseLoaded n)

theorem fuseLoad_failed {m : Mgmt} (h : m.bootStep = 3 ∧ m.running = true) (v : Dev) : fuseLoad false m v = logBoth 0x09 4 0 (m, v) := if_pos h

/-- A core with its memories and caches cleared. -/
def Core.cleared (k : Core) : Core := { k with spad := [], acc := [], l1 := [], l2 := [], spadBad := [], accBad := [] }

theorem Dev.sramClear_eq (v : Dev) : v.sramClear = (v.forAll (List.range 48) (fun u c => u.modCore c Core.cleared)).clearRams := rfl

theorem Dev.clearRams_core (v : Dev) (c : Nat) : v.clearRams.core c = v.core c := rfl

theorem Dev.sramClear_core (v : Dev) (c : CoreId) : v.sramClear.core c = (v.core c).cleared := by
  rw [Dev.sramClear_eq, Dev.clearRams_core]
  exact Dev.forAll_modCore_range v (fun _ => Core.cleared) c.isLt

/-! ### STACK_TRAINING (step 6: R414, R421, R640) -/

theorem mem_retireRecord {ch x : Nat} (mv : Mgmt × Dev) :
    x ∈ (retireRecord true ch mv).1.retiredChans ↔ x ∈ mv.1.retiredChans ∨ x = ch := by
  unfold retireRecord
  split
  · have hch : ch ∈ mv.1.retiredChans := by simpa using ‹mv.1.retiredChans.contains ch = true›
    exact ⟨.inl, fun h => h.elim id fun e => e ▸ hch⟩
  · exact List.mem_append.trans (or_congr_right List.mem_singleton)

theorem retireRecord_bootStep (log : Bool) (ch : Nat) (mv : Mgmt × Dev) : (retireRecord log ch mv).1.bootStep = mv.1.bootStep := by
  unfold retireRecord
  split
  · rfl
  · dsimp only
    split <;> rfl

/-- The channels of a list recorded as retired, one after the other. -/
def retireAll (chs : List Nat) (mv : Mgmt × Dev) : Mgmt × Dev := chs.foldl (fun a ch => retireRecord true ch a) mv

theorem mem_retireAll {x : Nat} (chs : List Nat) (mv : Mgmt × Dev) :
    x ∈ (retireAll chs mv).1.retiredChans ↔ x ∈ mv.1.retiredChans ∨ x ∈ chs := by
  induction chs generalizing mv with
  | nil => simp [retireAll]
  | cons ch r ih =>
    refine (ih (retireRecord true ch mv)).trans ?_
    rw [mem_retireRecord, List.mem_cons, or_assoc]

theorem retireAll_bootStep (chs : List Nat) (mv : Mgmt × Dev) : (retireAll chs mv).1.bootStep = mv.1.bootStep := by
  induction chs generalizing mv with
  | nil => rfl
  | cons ch r ih => exact (ih _).trans (retireRecord_bootStep true ch mv)

/-- The stacks stand trained with the channels of a list retired, their memory zero-filled. -/
def Dev.Trained (v : Dev) (retired : List Nat) : Prop :=
  (∀ ch < 256, (v.chan ch).trained = !retired.contains ch) ∧ (∀ k < 8, (v.stk k).trained = true) ∧ v.hbm.mem = []

/-- Every channel is trained but those of a list. -/
def Dev.trainChans (v : Dev) (retired : List Nat) : Dev :=
  v.forAll (List.range 256) (fun u ch => u.modChan ch (fun c => { c with
    trained := !retired.contains ch, failed := false, retraining := false, queue := [] }))

/-- Every stack is trained. -/
def Dev.trainStks (v : Dev) : Dev := v.forAll (List.range 8) (fun u k => u.modStk k (fun s => { s with trained := true, selfRefresh := false }))

theorem Dev.trainChans_within (v : Dev) (retired : List Nat) : Dev.Within [.channels] v (v.trainChans retired) :=
  Dev.Within.forAll (fun w ch => w.modChan_within ch _) (Dev.Within.refl _ v)

theorem Dev.trainStks_within (v : Dev) : Dev.Within [.stackRegs] v v.trainStks :=
  Dev.Within.forAll (fun w k => w.modStk_within k _) (Dev.Within.refl _ v)

theorem Dev.trainChans_trained (v : Dev) (retired : List Nat) {ch : Nat} (h : ch < 256) :
    ((v.trainChans retired).chan ch).trained = !retired.contains ch := by
  unfold Dev.trainChans
  exact Dev.forAll_range_once (fun u c => (u.chan c).trained) (g := fun c _ => !retired.contains c)
    (fun u c => by rw [Dev.chan_modChan_same]) (fun u c y h => by rw [Dev.chan_modChan_ne _ _ _ h]) v h

theorem Dev.trainStks_trained (v : Dev) {k : Nat} (h : k < 8) : (v.trainStks.stk k).trained = true := by
  unfold Dev.trainStks
  exact Dev.forAll_range_once (fun u k => (u.stk k).trained) (g := fun _ _ => true)
    (fun u k => by rw [Dev.stk_modStk_same]) (fun u k y h => by rw [Dev.stk_modStk_ne _ _ _ h]) v h

theorem Dev.trainStacks_eq (v : Dev) (retired : List Nat) :
    v.trainStacks retired = ((v.modHbm (fun h => { h with
      retired := sortBy id retired, mem := [], stkBad := [], stkSoft := [], belowGuarantee := decide (5 < retired.length) })).trainChans
        retired).trainStks := rfl

theorem Dev.trainStacks_trained (v : Dev) (retired : List Nat) : (v.trainStacks retired).Trained retired := by
  rw [Dev.trainStacks_eq]
  generalize hw : v.modHbm _ = w
  refine ⟨fun ch hch => ?_, fun k hk => Dev.trainStks_trained _ hk, ?_⟩
  · rw [(Dev.trainStks_within _).chan_eq (by decide), Dev.trainChans_trained _ _ hch]
  · rw [(Dev.trainStks_within _).mem_eq (by decide), (Dev.trainChans_within _ _).mem_eq (by decide), ← hw]
    rfl

theorem Dev.Within.stk_eq {F : List Part} {v w : Dev} (h : Dev.Within F v w) (hp : Part.stackRegs ∉ F) (k : Nat) : w.stk k = v.stk k := by
  rw [Dev.stk, show w.hbm.stackRegs = v.hbm.stackRegs from h.1 .stackRegs hp, Dev.stk]

/-- A spare lane taken leaves the channel trained or not, as it was. -/
theorem Chan.spare_trained {c c' : Chan} {isCa : Bool} {group : Nat} (h : c.spare isCa group = some c') : c'.trained = c.trained := by
  unfold Chan.spare at h
  split at h <;> split at h <;> cases h <;> rfl

theorem Dev.modChan_trained {v : Dev} {ch : Nat} {g : Chan → Chan} (h : (g (v.chan ch)).trained = (v.chan ch).trained) (x : Nat) :
    ((v.modChan ch g).chan x).trained = (v.chan x).trained := by
  by_cases hx : x = ch
  · rw [hx, Dev.chan_modChan_same, h]
  · rw [Dev.chan_modChan_ne _ _ _ hx]

/-- A failing lane changes no channel's TRAINED. -/
theorem swapLane_trained (ch : Nat) (isCa : Bool) (group lane : Nat) (m : Mgmt) (v : Dev) (x : Nat) :
    ((swapLane ch isCa group lane m v).2.chan x).trained = (v.chan x).trained := by
  unfold swapLane
  split
  next c hc => exact Dev.modChan_trained (g := fun _ => c) (Chan.spare_trained hc) x
  next hc =>
    rw [(Dev.ev_within _ _ _ _ _ _).chan_eq (by decide)]
    exact Dev.modChan_trained (g := fun c => { c with retirePending := true }) rfl x

theorem swapLane_mgmt (ch : Nat) (isCa : Bool) (group lane : Nat) (m : Mgmt) (v : Dev) :
    (swapLane ch isCa group lane m v).1.retiredChans = m.retiredChans ∧ (swapLane ch isCa group lane m v).1.bootStep = m.bootStep := by
  unfold swapLane
  split <;> exact ⟨rfl, rfl⟩

/-- What a lane found failing changes, it changes of the spares only: not what training has brought, nor what Forzoevo holds retired. -/
theorem trainLane_keeps {mv : Mgmt × Dev} {retired : List Nat} (h : mv.2.Trained retired) (w : WeakLane) :
    (trainLane mv w).2.Trained retired ∧ (trainLane mv w).1.retiredChans = mv.1.retiredChans ∧ (trainLane mv w).1.bootStep = mv.1.bootStep := by
  unfold trainLane
  split
  · exact ⟨h, rfl, rfl⟩
  · obtain ⟨hchans, hstks, hmem⟩ := h
    have hw := swapLane_within w.ch.val w.isCa w.group w.lane mv.1 mv.2
    exact ⟨⟨fun ch hch => (swapLane_trained _ _ _ _ _ _ ch).trans (hchans ch hch),
      fun k hk => by rw [hw.stk_eq (by decide)]; exact hstks k hk, (hw.mem_eq (by decide)).trans hmem⟩, swapLane_mgmt _ _ _ _ _ _⟩

theorem trainLanes_keeps (weak : List WeakLane) {mv : Mgmt × Dev} {retired : List Nat} (h : mv.2.Trained retired) :
    (weak.foldl trainLane mv).2.Trained retired ∧ (weak.foldl trainLane mv).1.retiredChans = mv.1.retiredChans ∧
      (weak.foldl trainLane mv).1.bootStep = mv.1.bootStep := by
  induction weak generalizing mv with
  | nil => exact ⟨h, rfl, rfl⟩
  | cons w r ih =>
    obtain ⟨htrained, hretired, hboot⟩ := trainLane_keeps h w
    obtain ⟨htrained', hretired', hboot'⟩ := ih htrained
    exact ⟨htrained', hretired'.trans hretired, hboot'.trans hboot⟩

theorem Dev.Trained.merged {v : Dev} {retired : List Nat} (h : v.Trained retired) (old : Dev) : (Dev.merged old v).Trained retired := by
  have hw := Dev.merged_within old v
  obtain ⟨hchans, hstks, hmem⟩ := h
  exact ⟨fun ch hch => by rw [hw.chan_eq (by decide)]; exact hchans ch hch, fun k hk => by rw [hw.stk_eq (by decide)]; exact hstks k hk,
    (hw.mem_eq (by decide)).trans hmem⟩

/-- Step 6: the channels that failed join the retired ones, and the stacks stand trained with those retired. -/
theorem stackTraining_effect {m : Mgmt} (h : m.bootStep = 5 ∧ m.running = true) (failed : List Nat) (weak : List WeakLane) (v : Dev) :
    (stackTraining failed weak m v).1.bootStep = 6 ∧
    (∀ x, x ∈ (stackTraining failed weak m v).1.retiredChans ↔ x ∈ m.retiredChans ∨ x ∈ failed) ∧
    (stackTraining failed weak m v).2.Trained (stackTraining failed weak m v).1.retiredChans := by
  have he : stackTraining failed weak m v = _ := atStep_of_at h v _
  rw [he]
  obtain ⟨r, hr⟩ : ∃ r, retireAll failed ({ m with bootStep := 6 }, v) = r := ⟨_, rfl⟩
  have hmem : ∀ x, x ∈ r.1.retiredChans ↔ x ∈ m.retiredChans ∨ x ∈ failed := fun x => hr ▸ mem_retireAll failed _
  have hstep : r.1.bootStep = 6 := hr ▸ retireAll_bootStep failed _
  obtain ⟨htrained, hretired, hboot⟩ := trainLanes_keeps weak (mv := (r.1, r.2.trainStacks r.1.retiredChans)) (Dev.trainStacks_trained _ _)
  subst hr
  refine ⟨hboot.trans hstep, fun x => ?_, ?_⟩
  · exact (iff_of_eq (congrArg (x ∈ ·) hretired)).trans (hmem x)
  · exact hretired.symm ▸ htrained

/-! ### LINK_TRAINING (step 7: R476, R478) -/

theorem Dev.Within.linkN_eq {F : List Part} {v w : Dev} (h : Dev.Within F v w) (hp : Part.links ∉ F) (l : Nat) : w.linkN l = v.linkN l := by
  rw [Dev.linkN, h.links_eq hp, Dev.linkN]

/-- A link as its training leaves it. -/
def Link.trainedOn (k : Link) (mask delay : Nat) : Link :=
  let n := laneCount mask
  { k with
    state := if 2 ≤ n then 2 else 0
    lanes := if 2 ≤ n then n else 0
    delay := if 2 ≤ n then delay % 65536 else k.delay
    laneFailed := 15 - mask % 16 }

theorem Dev.trainLink_linkN (v : Dev) (l mask delay x : Nat) :
    (v.trainLink l mask delay).linkN x = (v.modLinkN l (fun k => k.trainedOn mask delay)).linkN x := by
  unfold Dev.trainLink
  dsimp only
  split
  · exact (Dev.ev_within _ _ _ _ _ _).linkN_eq (by decide) x
  · rfl

theorem Dev.trainLinks_linkN (v : Dev) (lanes : List Nat) (stamps : List Stamps) (l : LinkId) :
    (v.trainLinks lanes stamps).linkN l = (v.linkN l).trainedOn (lanes.getD l 0) (((stamps[l.val]?).map stampDelay).getD 0) :=
  Dev.forAll_range_once Dev.linkN (g := fun l k => k.trainedOn (lanes.getD l 0) (((stamps[l]?).map stampDelay).getD 0))
    (fun u l => (u.trainLink_linkN l _ _ l).trans (Dev.linkN_modLinkN_same _ _ _))
    (fun u l x h => (u.trainLink_linkN l _ _ x).trans (Dev.linkN_modLinkN_ne _ _ _ h)) v l.isLt

/-! ### HOST_DISCOVERY (step 9) -/

theorem Dev.powerChanged_starting (old v : Dev) : (Dev.powerChanged old v).pwr.starting = v.pwr.starting := by
  have hreq : (Dev.powerChanged old v).pwr = (Dev.powerEdge old v).recharge.pwr := (Dev.updateReq_within _).pwr_eq (by decide)
  have hedge : (Dev.powerEdge old v).pwr = v.pwr := (Dev.powerEdge_within old v).pwr_eq (by decide)
  rw [hreq, ← hedge]
  rfl

theorem hostDiscovery_failed {m : Mgmt} (h : m.bootStep = 8 ∧ m.running = true) (v : Dev) : hostDiscovery false m v = logBoth 0x09 9 0 (m, v) :=
  if_pos h

/-- The module once both functions answer: STATE has left STARTING. -/
def Dev.discovered (v : Dev) : Dev := (Dev.powerChanged v (v.modPwr (fun p => { p with starting := false }))).postDownLinks

theorem hostDiscovery_of_at {m : Mgmt} (h : m.bootStep = 8 ∧ m.running = true) (v : Dev) :
    hostDiscovery true m v = ({ m with bootStep := 9 }, v.discovered) := atStep_of_at h v fun n u => (n, u.discovered)

theorem Dev.discovered_starting (v : Dev) : v.discovered.pwr.starting = false := by
  rw [Dev.discovered, (Dev.postDownLinks_within _).pwr_eq (by decide), Dev.powerChanged_starting]
  rfl

/-! ### The steps and losses of input -/

theorem inputQualified_rises {vin : Nat} {m : Mgmt} (hin : goodInput vin = true) (haux : m.aux = true) (hhold : m.resetHold = false)
    (h : m.bootStep = 1 ∧ m.running = true) (v : Dev) :
    inputQualified vin m v =
      ({ m with bootStep := 2 }, ((v.setVin vin).modPwr (fun p => { p with rails := true, starting := true })).recharge) :=
  (if_pos (by simp [hin, haux, hhold])).trans (atStep_of_at h _ _)

theorem inputQualified_waits {vin : Nat} {m : Mgmt}
    (h : goodInput vin = false ∨ m.aux = false ∨ m.resetHold = true ∨ ¬(m.bootStep = 1 ∧ m.running = true)) (v : Dev) :
    inputQualified vin m v = (m, v.setVin vin) := by
  unfold inputQualified
  dsimp only
  split
  next hgo =>
    simp only [Bool.and_eq_true, Bool.not_eq_true'] at hgo
    obtain ⟨⟨hin, haux⟩, hhold⟩ := hgo
    rcases h with h | h | h | h
    · exact absurd (hin.symm.trans h) (by decide)
    · exact absurd (haux.symm.trans h) (by decide)
    · exact absurd (hhold.symm.trans h) (by decide)
    · exact atStep_of_not h _ _
  next => rfl

theorem startupLoss_falls {vin : Nat} {m : Mgmt} (hin : lostInput vin = true) (h2 : 2 ≤ m.bootStep) (h8 : m.bootStep ≤ 8) (v : Dev) :
    startupLoss vin m v = ({ m with bootStep := 1 }, (v.setVin vin).railsOff) := if_pos (by simp [hin, h2, h8])

theorem startupLoss_stands {vin : Nat} {m : Mgmt} (h : lostInput vin = false ∨ m.bootStep < 2 ∨ 8 < m.bootStep) (v : Dev) :
    startupLoss vin m v = (m, v.setVin vin) := by
  refine if_neg fun hgo => ?_
  simp only [Bool.and_eq_true, decide_eq_true_eq] at hgo
  obtain ⟨⟨hin, h2⟩, h8⟩ := hgo
  rcases h with h | h | h
  · exact absurd (hin.symm.trans h) (by decide)
  all_goals omega

theorem auxLoss_carried {v : Dev} (h : v.pwr.rails = true) (m : Mgmt) : auxLoss m v = ({ m with aux := false }, v) := if_pos h

theorem auxLoss_stops {v : Dev} (h : v.pwr.rails = false) (m : Mgmt) :
    auxLoss m v = ({ m with aux := false, running := false, recovery := false, sensors := [], bootStep := 0 }, v) := if_neg (by simp [h])

theorem bankCharge_ends {m : Mgmt} {v : Dev} (hc : 27000 ≤ v.pwr.energy ∨ m.startOverride = true) (h : m.bootStep = 2 ∧ m.running = true) :
    bankCharge m v = ({ m with bootStep := 3 }, v.modPwr (fun p => { p with startOverride := decide (p.energy < 27000) })) :=
  (if_pos hc).trans (atStep_of_at h _ _)

theorem bankCharge_waits {m : Mgmt} {v : Dev} (he : v.pwr.energy < 27000) (ho : m.startOverride = false) : bankCharge m v = (m, v) :=
  if_neg (by simp [ho]; omega)

/-! ### The states the commands bring -/

section
variable {s : State}

theorem auxUp_gives (slot : BitVec 7) (hrun : s.mgmt.running = false) (hrec : s.mgmt.recovery = false) :
    s.Gives (.auxUp slot) fun t => let m := s.mgmt
      t.mgmt.aux = true ∧ t.mgmt.bootCount = m.bootCount + 1 ∧ t.mgmt.slot = slot.toNat ∧
      t.mgmt.attNext = m.nextOfRecords ∧ t.dev.pwr = s.dev.pwr ∧
      (m.bankOk m.activeMgmt = true → t.mgmt.running = true ∧ t.mgmt.bootStep = 1 ∧ t.mgmt.activeMgmt = m.activeMgmt) ∧
      (m.bankOk m.activeMgmt = false → m.bankOk (1 - m.activeMgmt) = true → t.mgmt.running = true ∧ t.mgmt.activeMgmt = 1 - m.activeMgmt) ∧
      (m.bankOk m.activeMgmt = false → m.bankOk (1 - m.activeMgmt) = false →
        t.mgmt.running = false ∧ t.mgmt.recovery = true ∧ t.mgmt.bootStep = 0) := by
  obtain ⟨⟨haux, hcount, hslot, hnext⟩, hactive, hother, hneither⟩ := romStart_effect slot.toNat s.dev s.mgmt.woken
  refine exec_onBoth_gives (auxUp slot.toNat) rfl (auxUp_of_stopped slot.toNat s.dev hrun hrec)
    ⟨haux, hcount, hslot, hnext, ?_, fun hok => ?_, hother, fun hok hok' => ?_⟩
  · exact ((Dev.merged_within _ _).pwr_eq (by decide)).trans ((romStart_within slot.toNat (s.mgmt.woken, s.dev)).pwr_eq (by decide))
  · obtain ⟨hr, ha⟩ := hactive hok
    exact ⟨hr, if_pos hr, ha⟩
  · obtain ⟨hr, ha⟩ := hneither hok hok'
    exact ⟨hr, ha, if_neg (by rw [hr]; decide)⟩

theorem heldReset_gives (slot : BitVec 7) (hhold : s.mgmt.resetHold = true) (hrun : s.mgmt.running = true) (hpend : s.mgmt.pendMgmt = false)
    (hok : s.mgmt.bankOk s.mgmt.activeMgmt = true) : s.Gives (.resetNHeld slot) fun t =>
      t.mgmt.running = true ∧ t.mgmt.slot = slot.toNat ∧ t.mgmt.attNext = s.mgmt.nextOfRecords ∧ t.dev = s.dev :=
  exec_onBoth_quiet_gives (heldReset slot.toNat) (exec_resetNHeld slot s)
    ((heldReset_of_held slot.toNat s.dev hhold hrun).trans (mgmtRestart_of_active slot.toNat s.dev hpend hok)) rfl ⟨rfl, rfl, rfl, rfl⟩

theorem auxLoss_gives : s.Gives .auxLoss fun t => t.dev = s.dev ∧ (s.dev.pwr.rails = true → t.mgmt = { s.mgmt with aux := false }) ∧
    (s.dev.pwr.rails = false → t.mgmt.running = false ∧ t.mgmt.aux = false) := by
  cases hr : s.dev.pwr.rails with
  | true => exact exec_onBoth_quiet_gives auxLoss rfl (auxLoss_carried hr s.mgmt) rfl ⟨rfl, fun _ => rfl, fun h => absurd h (by decide)⟩
  | false => exact exec_onBoth_quiet_gives auxLoss rfl (auxLoss_stops hr s.mgmt) rfl ⟨rfl, fun h => absurd h (by decide), fun _ => ⟨rfl, rfl⟩⟩

theorem vinApplied_gives (vin : Nat) : s.Gives (.vinApplied vin) fun t => t.mgmt = s.mgmt ∧ t.dev = s.dev.setVin vin :=
  ⟨_, congrArg Host.Outcome.next (State.ends_quiet s (s.dev.setVin vin) fun _ => rfl), rfl, rfl, rfl⟩

/-- What holds INPUT_QUALIFIED up. -/
def Mgmt.heldOff (m : Mgmt) (vin : Nat) : Prop :=
  goodInput vin = false ∨ m.aux = false ∨ m.resetHold = true ∨ ¬(m.bootStep = 1 ∧ m.running = true)

theorem inputQualified_gives (vin : Nat) : s.Gives (.inputQualified vin) fun t =>
    (goodInput vin = true → s.mgmt.aux = true → s.mgmt.resetHold = false → s.mgmt.bootStep = 1 ∧ s.mgmt.running = true →
      t.mgmt = { s.mgmt with bootStep := 2 } ∧ t.dev.pwr.rails = true ∧ t.dev.pwr.starting = true ∧ t.dev.pwr.vin = vin % 65536) ∧
    (s.mgmt.heldOff vin → t.mgmt = s.mgmt ∧ t.dev.pwr.rails = s.dev.pwr.rails) := by
  by_cases h : s.mgmt.heldOff vin
  · refine exec_onBoth_quiet_gives (inputQualified vin) rfl (inputQualified_waits h s.dev) rfl ⟨fun hin haux hhold hat => ?_, fun _ => ⟨rfl, rfl⟩⟩
    simp [Mgmt.heldOff, hin, haux, hhold, hat] at h
  · have hgo := h
    simp only [Mgmt.heldOff, not_or, Bool.not_eq_false, Bool.not_eq_true, not_not] at hgo
    obtain ⟨hin, haux, hhold, hat⟩ := hgo
    exact exec_onBoth_quiet_gives (inputQualified vin) rfl (inputQualified_rises hin haux hhold hat s.dev) rfl
      ⟨fun _ _ _ _ => ⟨rfl, rfl, rfl, rfl⟩, fun h' => absurd h' h⟩

/-- From s to t the rails have gone off, and Forzoevo has kept its flash and fuses. -/
def State.Darkens (s t : State) : Prop := t.dev.Dark ∧ s.mgmt.SameFlash t.mgmt

theorem startupLoss_gives (vin : Nat) : s.Gives (.startupSupplyLoss vin) fun t =>
    (lostInput vin = true → 2 ≤ s.mgmt.bootStep → s.mgmt.bootStep ≤ 8 → s.Darkens t ∧ t.mgmt = { s.mgmt with bootStep := 1 }) ∧
    (lostInput vin = false ∨ s.mgmt.bootStep < 2 ∨ 8 < s.mgmt.bootStep → t.mgmt = s.mgmt ∧ t.dev = s.dev.setVin vin) := by
  by_cases h : lostInput vin = false ∨ s.mgmt.bootStep < 2 ∨ 8 < s.mgmt.bootStep
  · refine exec_onBoth_quiet_gives (startupLoss vin) rfl (startupLoss_stands h s.dev) rfl ⟨fun hin h2 h8 => ?_, fun _ => ⟨rfl, rfl⟩⟩
    simp only [hin, Bool.true_eq_false, false_or] at h
    omega
  · have hgo := h
    simp only [not_or, Bool.not_eq_false, Nat.not_lt] at hgo
    obtain ⟨hin, h2, h8⟩ := hgo
    exact exec_onBoth_gives (startupLoss vin) rfl (startupLoss_falls hin h2 h8 s.dev)
      ⟨fun _ _ _ => ⟨⟨(Dev.railsOff_dark _).merged _, rfl, rfl, rfl, rfl⟩, rfl⟩, fun h' => absurd h' h⟩

theorem coldReset_gives : s.Gives .coldReset fun t => s.Darkens t ∧ t.mgmt.running = false ∧ t.mgmt.aux = false ∧ t.mgmt.bootStep = 0 :=
  exec_onBoth_gives coldReset rfl rfl ⟨⟨s.dev.railsOff_dark.merged _, rfl, rfl, rfl, rfl⟩, rfl, rfl, rfl⟩

theorem resetN_gives : s.Gives .resetN fun t => s.Darkens t ∧ t.mgmt.resetHold = true ∧ (s.mgmt.running = true → t.mgmt.bootStep = 1) := by
  obtain ⟨hflash, hhold, hstep⟩ := activateTrain_keeps
    { s.mgmt with resetHold := true, bootStep := if s.mgmt.running then 1 else 0, resetDue := false } s.dev.railsOff
  exact exec_onBoth_gives (fun m v => moduleReset { m with resetHold := true } v) rfl Prod.mk.eta.symm
    ⟨⟨(moduleReset_dark _ s.dev).merged _, hflash⟩, hhold, fun hr => hstep.trans (if_pos hr)⟩

theorem bankCharge_gives (hc : 27000 ≤ s.dev.pwr.energy ∨ s.mgmt.startOverride = true) (hat : s.mgmt.bootStep = 2 ∧ s.mgmt.running = true) :
    s.Gives .bankCharge fun t => t.mgmt = { s.mgmt with bootStep := 3 } ∧
      t.dev = { s.dev with pwr := { s.dev.pwr with startOverride := decide (s.dev.pwr.energy < 27000) } } :=
  exec_onBoth_quiet_gives bankCharge rfl (bankCharge_ends hc hat) rfl ⟨rfl, rfl⟩

theorem fuseLoad_gives (hat : s.mgmt.bootStep = 3 ∧ s.mgmt.running = true) : s.Gives (.fuseLoad true) fun t =>
    t.mgmt = { s.mgmt with bootStep := 4 } ∧ t.dev.chip = s.mgmt.chip ∧ t.dev.pwr.rackCapNext = some s.mgmt.rackCap ∧
      ∀ c : CoreId, (t.dev.core c).retired = s.mgmt.retiredCores.contains c.val ∧ (t.dev.core c).marked = sortBy id (s.mgmt.columnsOf c) := by
  have hw := Dev.merged_within s.dev (s.dev.fuseLoaded { s.mgmt with bootStep := 4 })
  refine exec_onBoth_gives (fuseLoad true) rfl (fuseLoad_of_at hat s.dev) ⟨rfl, ?_, ?_, fun c => ?_⟩
  · exact hw.chip_eq (by decide)
  · exact congrArg Pwr.rackCapNext (hw.pwr_eq (by decide))
  · obtain ⟨-, hretired, hmarked, -⟩ := hw.testRegs (by decide) c
    rw [Dev.fuseLoaded_core] at hretired hmarked
    exact ⟨hretired, hmarked⟩

theorem fuseLoad_failed_gives (hat : s.mgmt.bootStep = 3 ∧ s.mgmt.running = true) : s.Gives (.fuseLoad false) fun t =>
    t.mgmt.bootStep = 3 ∧ ∃ e ∈ t.mgmt.log, e.code = 9 ∧ e.a0 = 4 :=
  exec_onBoth_gives (fuseLoad false) rfl (fuseLoad_failed hat s.dev)
    ⟨(logBoth_bootStep 0x09 4 0 (s.mgmt, s.dev)).trans hat.1, logBoth_entry 0x09 4 0 (s.mgmt, s.dev)⟩

theorem sramClear_gives (hat : s.mgmt.bootStep = 4 ∧ s.mgmt.running = true) : s.Gives .sramClear fun t =>
    t.mgmt = { s.mgmt with bootStep := 5 } ∧ (∀ c : CoreId, (t.dev.core c).spad = [] ∧ (t.dev.core c).acc = [] ∧ (t.dev.core c).l1 = []) ∧
      t.dev.ctrs = [] ∧ t.dev.fault = [] := by
  have hw := Dev.merged_within s.dev s.dev.sramClear
  refine exec_onBoth_gives _ (exec_sramClear s) (stepOn_of_at hat Dev.sramClear s.dev)
    ⟨rfl, fun c => ?_, hw.ctrs_eq (by decide), hw.fault_eq (by decide)⟩
  have hc := s.dev.sramClear_core c
  exact ⟨(hw.spad_eq (by decide) c).trans (congrArg Core.spad hc), (hw.1 .accs (by decide) c).1.trans (congrArg Core.acc hc),
    (hw.l1_eq (by decide) c).trans (congrArg Core.l1 hc)⟩

theorem stackTraining_gives (failed : List ChanId) (weak : List WeakLane) (hat : s.mgmt.bootStep = 5 ∧ s.mgmt.running = true) :
    s.Gives (.stackTraining ⟨failed, weak⟩) fun t => t.mgmt.bootStep = 6 ∧ (∀ ch ∈ failed, ch.val ∈ t.mgmt.retiredChans) ∧
      (∀ ch ∈ s.mgmt.retiredChans, ch ∈ t.mgmt.retiredChans) ∧
      (∀ ch : ChanId, (t.dev.chan ch).trained = !t.mgmt.retiredChans.contains ch.val) ∧
      (∀ k : StackId, (t.dev.stk k).trained = true) ∧ ∀ a, mget t.dev.hbm.mem a = 0#8 := by
  have heffect := stackTraining_effect hat (failed.map (fun c => c.val)) weak s.dev
  generalize hr : stackTraining (failed.map (fun c => c.val)) weak s.mgmt s.dev = r at heffect
  obtain ⟨n, w⟩ := r
  obtain ⟨hstep, hretired, htrained⟩ := heffect
  obtain ⟨hchans, hstks, hmem⟩ := htrained.merged s.dev
  exact exec_onBoth_gives (stackTraining (failed.map (fun c => c.val)) weak) rfl hr
    ⟨hstep, fun ch hch => (hretired ch.val).mpr (.inr (List.mem_map.mpr ⟨ch, hch, rfl⟩)), fun ch hch => (hretired ch).mpr (.inl hch),
      fun ch => hchans ch.val ch.isLt, fun k => hstks k.val k.isLt, fun a => congrArg (mget · a) hmem⟩

theorem linkTraining_gives (lanes : Vector (BitVec 4) 18) (stamps : Vector Stamps 18) (hat : s.mgmt.bootStep = 6 ∧ s.mgmt.running = true) :
    s.Gives (.linkTraining lanes stamps) fun t => t.mgmt = { s.mgmt with bootStep := 7 } ∧ ∀ l : LinkId, let n := laneCount lanes[l].toNat
      (t.dev.linkN l).state = (if 2 ≤ n then 2 else 0) ∧ (t.dev.linkN l).lanes = (if 2 ≤ n then n else 0) ∧
      (2 ≤ n → (t.dev.linkN l).delay = stampDelay stamps[l] % 65536) := by
  refine exec_onBoth_gives _ (exec_linkTraining lanes stamps s) (stepOn_of_at hat _ s.dev) ⟨rfl, fun l => ?_⟩
  have hl : (lanes.toList.map (fun b => b.toNat)).getD l.val 0 = lanes[l].toNat := by simp [List.getD]
  have hs : ((stamps.toList[l.val]?).map stampDelay).getD 0 = stampDelay stamps[l] := by simp
  dsimp only
  rw [(Dev.merged_within _ _).linkN_eq (by decide), Dev.trainLinks_linkN, hl, hs]
  exact ⟨rfl, rfl, fun h => if_pos h⟩

theorem timeLockTimeout_gives (hat : s.mgmt.bootStep = 7 ∧ s.mgmt.running = true) : s.Gives .timeLockTimeout fun t =>
    t.mgmt = { s.mgmt with bootStep := 8 } ∧ t.dev = s.dev :=
  exec_onBoth_quiet_gives _ (exec_timeLockTimeout s) (stepOn_of_at hat id s.dev) rfl ⟨rfl, rfl⟩

theorem hostDiscovery_gives (hat : s.mgmt.bootStep = 8 ∧ s.mgmt.running = true) : s.Gives (.hostDiscovery true) fun t =>
    t.mgmt = { s.mgmt with bootStep := 9 } ∧ t.dev.pwr.starting = false := by
  refine exec_onBoth_gives (hostDiscovery true) rfl (hostDiscovery_of_at hat s.dev) ⟨rfl, ?_⟩
  dsimp only
  rw [(Dev.merged_within s.dev s.dev.discovered).pwr_eq (by decide), Dev.discovered_starting]

theorem hostDiscovery_failed_gives (hat : s.mgmt.bootStep = 8 ∧ s.mgmt.running = true) : s.Gives (.hostDiscovery false) fun t =>
    t.mgmt.bootStep = 8 ∧ t.dev.pwr = s.dev.pwr ∧ ∃ e ∈ t.mgmt.log, e.code = 9 ∧ e.a0 = 9 := by
  have hpwr : (logBoth 0x09 9 0 (s.mgmt, s.dev)).2.pwr = s.dev.pwr := (logBoth_within _ _ _ _).pwr_eq (by decide)
  exact exec_onBoth_gives (hostDiscovery false) rfl (hostDiscovery_failed hat s.dev)
    ⟨(logBoth_bootStep 0x09 9 0 (s.mgmt, s.dev)).trans hat.1,
      ((Dev.merged_within _ _).pwr_eq (by decide)).trans hpwr, logBoth_entry 0x09 9 0 (s.mgmt, s.dev)⟩

end

/-- A state that a command darkens, in the words of O58. -/
theorem State.Darkens.parts {s t : State} (h : s.Darkens t) : t.dev.pwr.rails = false ∧ (∀ a, mget t.dev.hbm.mem a = 0#8) ∧ t.dev.scheds = [] ∧
    t.dev.strms = [] ∧ t.mgmt.retiredChans = s.mgmt.retiredChans ∧ t.mgmt.fusedSvn = s.mgmt.fusedSvn ∧ t.mgmt.banks = s.mgmt.banks ∧
    t.mgmt.chip = s.mgmt.chip := by
  obtain ⟨⟨hrails, hmem, hscheds, hstrms⟩, hflash⟩ := h
  exact ⟨hrails, hmem, hscheds, hstrms, hflash⟩

theorem State.Gives.mono {s : State} {c : Instr} {p q : State → Prop} (h : s.Gives c p) (hpq : ∀ t, p t → q t) : s.Gives c q := by
  obtain ⟨t, he, hpend, hp⟩ := h
  exact ⟨t, he, hpend, hpq t hp⟩

/-- Settles O58: each command brings the state its lemma says, or answers with the state it found. -/
theorem startupAndResetsComplete : Obligations.StartupAndResetsComplete := by
  intro s v m gives at' dark
  refine ⟨fun slot => ⟨auxUp_gives slot, ?auxOver, heldReset_gives slot, ?notHeld⟩, auxLoss_gives,
    fun vin => ⟨vinApplied_gives vin, inputQualified_gives vin, ?supplyLoss⟩, fun hat => ⟨fun hc => bankCharge_gives hc hat, ?charge⟩,
    fun hat => ⟨fuseLoad_gives hat, fuseLoad_failed_gives hat⟩, sramClear_gives, stackTraining_gives, linkTraining_gives, timeLockTimeout_gives,
    fun hat => ⟨hostDiscovery_gives hat, hostDiscovery_failed_gives hat⟩, ?sramIdle, ?timeIdle, ?cold, ?resetN, ?released⟩
  case auxOver => exact fun h => exec_onBoth_quiet_gives (auxUp slot.toNat) rfl (auxUp_of_powered slot.toNat v h) rfl ⟨rfl, rfl⟩
  case notHeld => exact fun hhold => exec_onBoth_quiet _ (exec_resetNHeld slot s) (heldReset_of_released slot.toNat v hhold) rfl
  case supplyLoss =>
    exact (startupLoss_gives vin).mono fun t ⟨hfalls, hstands⟩ => ⟨fun hin h2 h8 => (hfalls hin h2 h8).imp_left State.Darkens.parts, hstands⟩
  case charge => exact fun he ho => exec_onBoth_quiet bankCharge rfl (bankCharge_waits he ho) rfl
  case sramIdle => exact fun h => exec_onBoth_quiet _ (exec_sramClear s) (stepOn_of_not h Dev.sramClear v) rfl
  case timeIdle => exact fun h => exec_onBoth_quiet _ (exec_timeLockTimeout s) (stepOn_of_not h id v) rfl
  case cold => exact coldReset_gives.mono fun t h => h.imp_left State.Darkens.parts
  case resetN => exact resetN_gives.mono fun t h => h.imp_left State.Darkens.parts
  case released => exact exec_onBoth_quiet_gives (fun m v => ({ m with resetHold := false }, v)) rfl rfl rfl ⟨rfl, rfl⟩

end Sys2Proof.Machine

/-! Barrier units (10): what a write to MASK leaves of a unit, what the completion of a unit leaves of it and of the counters, and from them
O35. -/

namespace Sys2Proof.Machine

/-! ### A unit that completes, and one that does not (R361) -/

/-- Unit u after its completion: GEN one higher modulo 2^16, and nobody arrived. -/
def Dev.barAdvance (v : Dev) (u : Nat) : Dev := v.modBar u (fun b => { b with gen := (b.gen + 1) % 65536, arrived := 0#48 })

/-- What the completion of a unit with these registers announces: nothing, a signal, or a SIG_ID that names no counter. -/
def Dev.barAnnounce (v : Dev) (b : Bar) : Dev :=
  if !b.sigEn then v
  else if b.sigId ≤ 14335 then v.sendSignal b.sigId
  else (v.modSynSt 0 (fun s => { s with badId := true })).modSynSt 1 (fun s => { s with badId := true })

theorem Dev.barComplete_of_full {v : Dev} {u : Nat} (h : (v.bar u).mask ≠ 0#48 ∧ (v.bar u).arrived = (v.bar u).mask) :
    v.barComplete u = ((v.barAdvance u).barAnnounce (v.bar u)).wakeBar u := if_pos h

theorem Dev.barComplete_of_not_full {v : Dev} {u : Nat} (h : ¬((v.bar u).mask ≠ 0#48 ∧ (v.bar u).arrived = (v.bar u).mask)) :
    v.barComplete u = v := if_neg h

theorem Dev.barAnnounce_within (v : Dev) (b : Bar) : Dev.Within [.counters, .syncStatus] v (v.barAnnounce b) := by
  unfold Dev.barAnnounce
  split
  · exact Dev.Within.refl _ v
  · split
    · exact (v.sendSignal_within b.sigId).mono (by decide)
    · exact ((v.modSynSt_within 0 _).trans (Dev.modSynSt_within _ 1 _)).mono (by decide)

theorem Dev.barAnnounce_quiet {b : Bar} (h : b.sigEn = false) (v : Dev) : v.barAnnounce b = v := by simp [Dev.barAnnounce, h]

theorem Dev.barAnnounce_signal {b : Bar} (h : b.sigEn = true) (hid : b.sigId ≤ 14335) (v : Dev) :
    v.barAnnounce b = v.sendSignal b.sigId := by simp [Dev.barAnnounce, h, hid]

section
variable {v : Dev} {u : Nat} (h : (v.bar u).mask ≠ 0#48 ∧ (v.bar u).arrived = (v.bar u).mask)
include h

theorem Dev.barComplete_bar : (v.barComplete u).bar u = { v.bar u with gen := ((v.bar u).gen + 1) % 65536, arrived := 0#48 } := by
  rw [Dev.barComplete_of_full h, (Dev.wakeBar_within _ u).bar_eq (by decide), (Dev.barAnnounce_within _ _).bar_eq (by decide)]
  exact Dev.bar_modBar_same v u _

/-- Of the counters, a completion changes what it announces. -/
theorem Dev.barComplete_ctrs : (v.barComplete u).ctrs = ((v.barAdvance u).barAnnounce (v.bar u)).ctrs := by
  rw [Dev.barComplete_of_full h, (Dev.wakeBar_within _ u).ctrs_eq (by decide)]

theorem Dev.barComplete_ctrs_quiet (he : (v.bar u).sigEn = false) : (v.barComplete u).ctrs = v.ctrs := by
  rw [Dev.barComplete_ctrs h, Dev.barAnnounce_quiet he]
  exact Dev.modBar_ctrs v u _

theorem Dev.barComplete_transit (he : (v.bar u).sigEn = true) (hid : (v.bar u).sigId ≤ 14335) (id : Nat) :
    ((v.barComplete u).ctr id).transit = (v.ctr id).transit + if id = (v.bar u).sigId then 1 else 0 := by
  rw [Dev.ctr_congr (Dev.barComplete_ctrs h), Dev.barAnnounce_signal he hid, Dev.sendSignal_ctr,
    Dev.ctr_congr (show (v.barAdvance u).ctrs = v.ctrs from Dev.modBar_ctrs v u _)]
  simp only [eq_comm]

end

/-! ### An arrival (R360) -/

/-- Core c's bit set in ARRIVED of unit u. -/
def Dev.barMark (v : Dev) (u c : Nat) : Dev := v.modBar u (fun b => { b with arrived := b.arrived ||| BitVec.ofNat 48 (2 ^ c) })

theorem Dev.barArrive_eq (v : Dev) (u c : Nat) : v.barArrive u c = (v.barMark u c).barComplete u := rfl

theorem Dev.barMark_bar (v : Dev) (u c : Nat) :
    (v.barMark u c).bar u = { v.bar u with arrived := (v.bar u).arrived ||| BitVec.ofNat 48 (2 ^ c) } := Dev.bar_modBar_same v u _

theorem Dev.barMark_ctrs (v : Dev) (u c : Nat) : (v.barMark u c).ctrs = v.ctrs := Dev.modBar_ctrs v u _

theorem Dev.barMark_full_iff (v : Dev) (u c : Nat) :
    ((v.barMark u c).bar u).mask ≠ 0#48 ∧ ((v.barMark u c).bar u).arrived = ((v.barMark u c).bar u).mask ↔
      (v.bar u).mask ≠ 0#48 ∧ (v.bar u).arrived ||| BitVec.ofNat 48 (2 ^ c) = (v.bar u).mask := by
  rw [Dev.barMark_bar]

/-! ### O35 -/

/-- A write to MASK takes effect in its unit's registers and nowhere else (R364). -/
theorem execSynBarMaskWrite_effect (d : DieId) (u : Fin 16) (v : W64) (s : State) :
    ∃ w : Dev, exec (.synBarMaskWrite d u v) s = .next (s.ends w) ∧
      w.bar u = { s.dev.bar u with mask := v.setWidth 48, arrived := 0#48 } ∧ (∀ j, j ≠ u.val → w.bar j = s.dev.bar j) ∧
      Dev.Within [.barriers] s.dev w :=
  ⟨s.dev.modBar u.val (fun b => { b with mask := v.setWidth 48, arrived := 0#48 }), rfl, Dev.bar_modBar_same _ _ _,
    fun _ hj => Dev.bar_modBar_ne _ _ _ hj, Dev.modBar_within _ _ _⟩

/-- Settles O35: the write by its effect; an arrival marks its core and then completes the unit or leaves it. -/
theorem barrierCompletes : Obligations.BarrierCompletes := by
  refine ⟨fun d u v s => ?maskWrite, fun v u c _ => ⟨fun harr hmask => ?complete, fun hnot => ?incomplete⟩⟩
  case maskWrite =>
    obtain ⟨w, he, hbar, hother, hwithin⟩ := execSynBarMaskWrite_effect d u v s
    exact ⟨w, he, by rw [hbar], by rw [hbar], by rw [hbar], hother, fun p hp => hwithin.1 p (by simpa using hp)⟩
  case complete =>
    have hfull := (v.barMark_full_iff u c).mpr ⟨hmask, harr⟩
    have hreg := v.barMark_bar u c
    have hctrs := v.barMark_ctrs u c
    rw [Dev.barArrive_eq, Dev.barComplete_bar hfull, hreg]
    refine ⟨rfl, rfl, fun he hid id => ?signal, fun he => ?quiet⟩
    case signal => rw [Dev.barComplete_transit hfull (by rw [hreg, he]) (by rw [hreg]; exact hid), hreg, Dev.ctr_congr hctrs]
    case quiet => rw [Dev.barComplete_ctrs_quiet hfull (by rw [hreg, he]), hctrs]
  case incomplete =>
    have hopen := mt (v.barMark_full_iff u c).mp fun ⟨hmask, harr⟩ => hnot.elim (· harr) hmask
    rw [Dev.barArrive_eq, Dev.barComplete_of_not_full hopen, v.barMark_bar, v.barMark_ctrs]
    exact ⟨rfl, rfl, rfl⟩

end Sys2Proof.Machine

/-! The DMA engines (11): a channel read off a frame, what starting, reading and ending a descriptor leaves in its channel, and from them
O29, O30, O31 and O32. -/

namespace Sys2Proof.Machine

/-! ### Channels read off a frame -/

section
variable {F : List Part} {v w : Dev}

theorem Dev.Within.dma_eq (h : Dev.Within F v w) (hp : Part.dmas ∉ F) (c : Nat) : (w.core c).dma = (v.core c).dma := h.1 .dmas hp c

theorem Dev.Within.dmaCh_eq (h : Dev.Within F v w) (hp : Part.dmas ∉ F) (c n : Nat) : w.dmaCh c n = v.dmaCh c n := by
  rw [Dev.dmaCh, h.dma_eq hp, Dev.dmaCh]

theorem Dev.Within.issueOk_eq (h : Dev.Within F v w) (hp : Part.power ∉ F) : w.issueOk = v.issueOk := by
  rw [Dev.issueOk, h.pwr_eq hp, Dev.issueOk]

end

/-- A head that may start is issued by a module that issues. -/
theorem Dev.issueOk_of_startable {v : Dev} {k op : Nat} {ws : List W64} (h : v.startable k op = some ws) : v.issueOk = true := by
  unfold Dev.startable at h
  dsimp only at h
  split at h
  · cases h
  · split at h
    · next hcond =>
      simp only [Bool.and_eq_true] at hcond
      obtain ⟨⟨⟨-, hissue⟩, -⟩, -⟩ := hcond
      exact hissue
    · cases h

/-! ### Seal reads (R386) -/

section
variable {v : Dev} {c n : Nat}

/-- A channel whose seal read has been asked or answered issues none. -/
theorem Dev.dmaSealGo_of_asked (h : (v.dmaCh c n).sealAsked = true ∨ (v.dmaCh c n).sealAns ≠ none) : v.dmaSealGo c n = v := by
  refine if_pos ?_
  rcases h with h | h
  · simp [h]
  · simp [Option.isNone_eq_false_iff.mpr (Option.isSome_iff_ne_none.mpr h)]

/-- A seal read that is due, permitted and of this module is asked, and enters its page. -/
theorem Dev.dmaSealGo_asks (hphase : (v.dmaCh c n).phase = .seal0) (hasked : (v.dmaCh c n).sealAsked = false)
    (hans : (v.dmaCh c n).sealAns = none) (hdrain : (v.dmaCh c n).draining = false) (hissue : v.issueOk = true)
    (hstop : (v.core c).dma.stopped = false) (ho : v.otherModule (decDma (v.dmaCh c n).cur.words).sealAddr = false)
    (hp : v.permits (coreDie c) (decDma (v.dmaCh c n).cur.words).sealAddr.toNat 8 false false = true) :
    v.dmaSealGo c n = v.modDmaCh c n (fun q => { v.enterPage c q true (decDma (v.dmaCh c n).cur.words).sealAddr.toNat with sealAsked := true }) := by
  unfold Dev.dmaSealGo
  dsimp only
  rw [if_neg (by simp [hphase, hasked, hans, hdrain, hissue, hstop, ho]), if_neg (by simp [hp]), if_neg (by simp [ho])]

end

/-! ### A descriptor joins its channel (R371, R389, R394) -/

/-- What f becomes in its stream when an entry that is not withdrawn is changed. -/
theorem Dev.mem_modFlight {v : Dev} {k : Nat} {f : Flight} (hf : f ∈ (v.strm k).flights) (hw : f.withdrawn = false) (g : Flight → Flight) :
    g f ∈ ((v.modFlight k f.idx g).strm k).flights := by
  rw [Dev.modFlight, Dev.strm_modStrm_same]
  exact List.mem_map.mpr ⟨f, hf, if_pos ⟨rfl, by simp [hw]⟩⟩

/-- Ending the descriptor of an entry leaves the entry waiting for nothing. -/
theorem Dev.mem_dmaEnd_flights {v : Dev} {c n : Nat} {f : Flight} (hf : f ∈ (v.strm (3 * c + 2)).flights) (hw : f.withdrawn = false)
    (he : (v.dmaCh c n).cur.entry = some f.idx) (ho : (v.dmaCh c n).cur.order = none) (status : Nat) :
    ∃ g ∈ ((v.dmaEnd c n status).strm (3 * c + 2)).flights, g.idx = f.idx ∧ g.words = f.words ∧ g.wait = .none := by
  unfold Dev.dmaEnd
  dsimp only
  rw [he, ho]
  exact ⟨_, Dev.mem_modFlight (v := v.modDmaCh c n _) hf hw _, rfl, rfl, rfl⟩

section
variable {v : Dev} {c n : Nat}

/-- A descriptor for a channel at work, or of an engine that is stopped, goes to the end of the channel's queue and starts nothing (R394). -/
theorem Dev.dmaJoin_waits (h : (v.dmaCh c n).phase ≠ .idle ∨ (v.core c).dma.stopped = true) (x : DmaDesc) :
    ((v.dmaJoin c n x).dmaCh c n).queue = (v.dmaCh c n).queue ++ [x] ∧ (v.dmaJoin c n x).strms = v.strms := by
  unfold Dev.dmaJoin
  dsimp only
  generalize hj : v.modDmaCh c n (fun ch => { ch with queue := ch.queue ++ [x] }) = j
  have hch : j.dmaCh c n = { v.dmaCh c n with queue := (v.dmaCh c n).queue ++ [x] } := by rw [← hj, Dev.dmaCh_modDmaCh_same]
  have hstrms : j.strms = v.strms := by rw [← hj]; rfl
  split
  · next hidle =>
    have hstop : (j.core c).dma.stopped = true := by
      rw [← hj, Dev.dmaStopped_modDmaCh]
      exact h.resolve_left fun hbusy => hbusy (by rwa [hch] at hidle)
    rw [Dev.dmaAdvance, if_pos (by simp [hstop]), Dev.dmaSealGo_of_not_due (by simp) (by simp), Dev.dmaCh_modDmaCh_same, hch]
    exact ⟨rfl, hstrms⟩
  · rw [hch]
    exact ⟨rfl, hstrms⟩

variable (hi : (v.dmaCh c n).phase = .idle) (hq : (v.dmaCh c n).queue = []) (hs : (v.core c).dma.stopped = false) (hk : v.issueOk = true)
include hi hq hs hk

/-- The entry of a descriptor that moves no byte, joining a free channel, waits for it no longer (R389). -/
theorem Dev.dmaJoin_zero_flight {x : DmaDesc} {f : Flight} (ht : (decDma x.words).total = 0) (hx : x.entry = some f.idx) (ho : x.order = none)
    (hf : f ∈ (v.strm (3 * c + 2)).flights) (hw : f.withdrawn = false) :
    ∃ g ∈ ((v.dmaJoin c n x).strm (3 * c + 2)).flights, g.idx = f.idx ∧ g.words = f.words ∧ g.wait = .none := by
  rw [Dev.dmaJoin_free hi hq hs hk]
  generalize hj : v.modDmaCh c n (fun ch => { ch with queue := ch.queue ++ [x] }) = j
  have hqueue : (j.dmaCh c n).queue = [x] := by rw [← hj, Dev.dmaCh_modDmaCh_same, hq]; rfl
  generalize ha : j.modDmaCh c n DmaChan.advance = a
  have hcur : (a.dmaCh c n).cur = x ∧ (a.dmaCh c n).queue = [] := by
    rw [← ha, Dev.dmaCh_modDmaCh_same, DmaChan.advance_one hqueue]
    exact ⟨rfl, rfl⟩
  obtain ⟨hcur, hnone⟩ := hcur
  have hadv : ((a.dmaEnd c n 1).dmaCh c n).advance = { lastStatus := 1, bytes := (a.dmaCh c n).doneBytes, page := (a.dmaCh c n).page } := by
    rw [DmaChan.advance_none (by rw [Dev.dmaEnd_dmaCh]; exact hnone), Dev.dmaEnd_dmaCh]
  have hempty : ((a.dmaEnd c n 1).dmaCh c n).advance.empty = false := by rw [hadv]; rfl
  have htake : j.dmaTake c n 2 = (a.dmaEnd c n 1).modDmaCh c n DmaChan.advance := by
    rw [Dev.dmaTake_succ, if_pos (by rw [DmaChan.advance_one_empty hqueue, ht]; rfl), ha, Dev.dmaTake_succ, hempty]
    rfl
  rw [htake, Dev.dmaSealGo_of_not_due (by simp [hadv]) (by simp [hadv])]
  have hfa : f ∈ (a.strm (3 * c + 2)).flights := by rw [← ha, ← hj]; exact hf
  exact Dev.mem_dmaEnd_flights hfa hw (hcur ▸ hx) (hcur ▸ ho) 1

/-- A descriptor that moves bytes starts on a free channel without a change of the streams, its seal read asked where it has one (R371, R386). -/
theorem Dev.dmaJoin_starts_seal {x : DmaDesc} (ht : (decDma x.words).total ≠ 0)
    (hp : (decDma x.words).seald = true → v.otherModule (decDma x.words).sealAddr = false ∧
      v.permits (coreDie c) (decDma x.words).sealAddr.toNat 8 false false = true) :
    ((v.dmaJoin c n x).dmaCh c n).sealAsked = (decDma x.words).seald ∧ (v.dmaJoin c n x).strms = v.strms := by
  rw [Dev.dmaJoin_free hi hq hs hk]
  generalize hj : v.modDmaCh c n (fun ch => { ch with queue := ch.queue ++ [x] }) = j
  have hqueue : (j.dmaCh c n).queue = [x] := by rw [← hj, Dev.dmaCh_modDmaCh_same, hq]; rfl
  rw [Dev.dmaTake_succ, if_neg (by rw [DmaChan.advance_one_empty hqueue, decide_eq_true_eq]; exact ht)]
  generalize ha : j.modDmaCh c n DmaChan.advance = a
  have hch : a.dmaCh c n = (j.dmaCh c n).advance := by rw [← ha, Dev.dmaCh_modDmaCh_same]
  rw [DmaChan.advance_one hqueue] at hch
  have hstrms : a.strms = v.strms := by rw [← ha, ← hj]; rfl
  cases hseal : (decDma x.words).seald with
  | false =>
    rw [Dev.dmaSealGo_of_not_due (by simp [hch, hseal]) (by simp [hch, hseal]), hch]
    exact ⟨rfl, hstrms⟩
  | true =>
    obtain ⟨hown, hpermit⟩ := hp hseal
    have hstop : (a.core c).dma.stopped = false := by rw [← ha, ← hj, Dev.dmaStopped_modDmaCh, Dev.dmaStopped_modDmaCh, hs]
    have hissue : a.issueOk = true := by rw [← ha, ← hj]; exact hk
    have hown' : a.otherModule (decDma (a.dmaCh c n).cur.words).sealAddr = false := by
      rw [hch, ← ha, ← hj]
      exact hown
    have hpermit' : a.permits (coreDie c) (decDma (a.dmaCh c n).cur.words).sealAddr.toNat 8 false false = true := by
      rw [hch, ← ha, ← hj]
      exact hpermit
    rw [Dev.dmaSealGo_asks (by simp [hch, hseal]) (by simp [hch]) (by simp [hch]) (by simp [hch]) hissue hstop hown' hpermit', Dev.dmaCh_modDmaCh_same]
    exact ⟨rfl, hstrms⟩

end

theorem Dev.dmaStart_of_startable {v : Dev} {c : Nat} {ws : List W64} (h : v.startable (3 * c + 2) 0x10 = some ws) :
    v.dmaStart c = ((v.started (3 * c + 2) { idx := (v.strm (3 * c + 2)).next, words := ws, wait := .dma } ((decDma ws).total = 0)).dmaJoin c
      (decDma ws).chan { words := ws, entry := some (v.strm (3 * c + 2)).next }).nextHead (3 * c + 2) := by
  unfold Dev.dmaStart
  dsimp only
  rw [h]

/-- Settles O29: a head that starts joins the queue of its channel, and the three cases are those of a descriptor that joins. -/
theorem dmaCopyStarts : Obligations.DmaCopyStarts := by
  intro c s ws h o k d idle sealOk busy
  let f : Flight := { idx := (s.dev.strm k).next, words := ws, wait := .dma }
  generalize hu : s.dev.started k f (o.total = 0) = u
  have hstart : Dev.Within [.streams, .counters] s.dev u := hu ▸ Dev.started_within _ _ _ _
  have hch : u.dmaCh c o.chan = s.dev.dmaCh c o.chan := hstart.dmaCh_eq (by decide) _ _
  have hstop : (u.core c).dma.stopped = (s.dev.core c).dma.stopped := by rw [hstart.dma_eq (by decide)]
  have hissue : u.issueOk = true := (hstart.issueOk_eq (by decide)).trans (Dev.issueOk_of_startable h)
  have hflight := s.dev.mem_started_flights k f (o.total = 0)
  rw [hu] at hflight
  refine ⟨u.dmaJoin c o.chan d, ?_, ?zero, ?starts, ?queued⟩
  · exact congrArg (fun w => Host.Outcome.next (s.ends w)) ((Dev.dmaStart_of_startable h).trans (by rw [← hu]))
  case zero =>
    rintro ⟨hidle, hqueue, hrun⟩ ht
    rw [← hch] at hidle hqueue
    rw [← hstop] at hrun
    obtain ⟨hstatus, -, hphase⟩ := Dev.dmaJoin_zero hidle hqueue hrun hissue (x := d) ht
    exact ⟨hstatus, hphase, Dev.dmaJoin_zero_flight hidle hqueue hrun hissue (x := d) ht rfl rfl hflight rfl⟩
  case starts =>
    rintro ⟨hidle, hqueue, hrun⟩ ht hseal
    rw [← hch] at hidle hqueue
    rw [← hstop] at hrun
    have hread : o.seald = true → u.otherModule o.sealAddr = false ∧ u.permits (coreDie c) o.sealAddr.toNat 8 false false = true := fun hs => by
      rw [hstart.otherModule_eq (by decide), hstart.permits_eq (by decide)]
      exact hseal.resolve_left (by simp [hs])
    obtain ⟨hcur, hphase⟩ := Dev.dmaJoin_starts hidle hqueue hrun hissue (x := d) ht hread
    obtain ⟨hasked, hstrms⟩ := Dev.dmaJoin_starts_seal hidle hqueue hrun hissue (x := d) ht hread
    rw [Dev.strm_congr hstrms]
    exact ⟨hcur, hphase, hasked, _, hflight, rfl, rfl, rfl⟩
  case queued =>
    intro hbusy
    obtain ⟨hqueue, hstrms⟩ := Dev.dmaJoin_waits (v := u) (n := o.chan) (by rwa [hch, hstop]) d
    rw [Dev.strm_congr hstrms, hqueue, hch]
    exact ⟨rfl, _, hflight, rfl, rfl, rfl⟩

/-! ### Bursts (R372 to R376) -/

section
variable {v : Dev} {c n : Nat} {ch : DmaChan} {o : DmaOps} (hch : v.dmaCh c n = ch) (ho : decDma ch.cur.words = o)
include hch ho

/-- A read of this module that issues, permitted or run ahead: the next burst is in flight, and nothing is written (R372). -/
theorem Dev.burstIssue_here (hturn : v.burstTurn c n = true) (hown : v.otherModule (w64 (o.srcAt ch.next).toNat) = false)
    (hp : ch.demands = false ∨ v.permits (coreDie c) (o.readSpan ch.next (o.burstLen ch.next)).1
      (o.readSpan ch.next (o.burstLen ch.next)).2 false false = true) :
    ∃ p r, (v.burstIssue c n).dmaCh c n = { ch with
      page := p, rowReq := r, next := ch.next + o.burstLen ch.next
      bursts := ch.bursts ++ [{ off := ch.next, len := o.burstLen ch.next }] } := by
  subst hch ho
  unfold Dev.burstIssue
  extract_lets ch o t a m away row take v1 v2 span
  have haway : away = false := hown
  have hch : v1.dmaCh c n = ch := by
    unfold v1
    split
    · simp [ch, Dev.dmaCh, Dev.modDma]
    · rfl
  have hchecked : (ch.demands && !v.permits (coreDie c) span.1 span.2 false false) = false := by
    rcases hp with hp | hp
    · exact (congrArg (· && _) hp).trans (Bool.false_and _)
    · exact (congrArg (fun b => ch.demands && !b) hp).trans (Bool.and_false _)
  rw [hturn, if_neg (by decide), hchecked, if_neg (by decide), haway, if_neg (by decide)]
  simp only [v2, Dev.dmaCh_modDmaCh_same, hch, haway]
  exact ⟨_, _, rfl⟩

end

theorem Dev.burstIssue_of_other_turn {v : Dev} {c n : Nat} (h : v.burstTurn c n = false) : v.burstIssue c n = v := if_pos (by simp [h])

theorem DmaOps.srcWidth_pos (o : DmaOps) : 0 < o.srcWidth := by
  unfold DmaOps.srcWidth
  split
  · decide
  · positivity

theorem le_ceilDiv_mul (a : Nat) {w : Nat} (hw : 0 < w) : a ≤ ceilDiv a w * w := by
  have hmod := Nat.mod_lt (a + w - 1) hw
  have hdiv := Nat.div_add_mod (a + w - 1) w
  rw [ceilDiv, Nat.mul_comm]
  omega

/-- A read covers its bytes, whole accesses of SW bytes or of a granule (R376). -/
theorem DmaOps.readSpan_covers (o : DmaOps) (t n : Nat) : (o.readSpan t n).1 ≤ (o.srcAt t).toNat ∧
    (o.srcAt t).toNat + n ≤ (o.readSpan t n).1 + (o.readSpan t n).2 := by
  have hlo := Nat.div_mul_le_self (o.srcAt t).toNat o.srcWidth
  have hhi := le_ceilDiv_mul ((o.srcAt t).toNat + n) o.srcWidth_pos
  exact ⟨hlo, by simp only [DmaOps.readSpan]; omega⟩

/-- A read of stack memory that meets no path error gives the bytes that a read sees. -/
theorem Dev.rdAt_stack {v : Dev} {a n : Nat} (ha : a < stackEnd) (hn : 0 < n) (hp : v.pathAt a n = none) (die req : Nat) :
    v.rdAt die (w64 a) n req = (.ok (v.stkSeen a n), v.softErrs a n) := by
  obtain ⟨hspace, hchip, hoff⟩ := stack_address ha
  simp [Dev.rdAt, Dev.ownFabric, Dev.rdIssued, Dev.rdModule, hspace, hchip, hoff, placeOf_stack ha, hp, Nat.ne_of_gt hn]

theorem Dev.stkSeen_take_drop (v : Dev) (a : Nat) {i j n : Nat} (h : i + j ≤ n) : ((v.stkSeen a n).drop i).take j = v.stkSeen (a + i) j :=
  mread_take_drop _ a h

/-- The source bytes of a burst that lies whole in stack memory and meets no path error are those a read sees (R376). -/
theorem Dev.dmaRead_stack {v : Dev} {o : DmaOps} {t n : Nat} (hn : 0 < n) (hend : (o.readSpan t n).1 + (o.readSpan t n).2 ≤ stackEnd)
    (hp : v.pathAt (o.readSpan t n).1 (o.readSpan t n).2 = none) (c : Nat) :
    v.dmaRead c o (o.srcAt t).toNat n = (.ok (v.stkSeen (o.srcAt t).toNat n), 0, v.softErrs (o.readSpan t n).1 (o.readSpan t n).2) := by
  obtain ⟨hlo, hhi⟩ := o.readSpan_covers t n
  have hread : v.rdAt (coreDie c) (w64 (o.readSpan t n).1) (o.readSpan t n).2 c = _ := Dev.rdAt_stack (by omega) (by omega) hp _ _
  obtain ⟨hspace, -, hoff⟩ := stack_address (a := (o.srcAt t).toNat) (by omega)
  have hbytes : ((v.stkSeen (o.readSpan t n).1 (o.readSpan t n).2).drop ((o.srcAt t).toNat - (o.readSpan t n).1)).take n =
      v.stkSeen (o.srcAt t).toNat n := by
    rw [Dev.stkSeen_take_drop v _ (by omega), Nat.add_sub_cancel' hlo]
  simp only [DmaOps.readSpan] at hread hbytes ⊢
  simp [Dev.dmaRead, hspace, hoff, placeOf_stack (show (o.srcAt t).toNat < stackEnd by omega), Place.isPlain, hread, Acc.isOk, hbytes]

theorem Dev.fillWait_of_filled {v : Dev} (h : v.hbm.busy = false) (a : W64) : v.fillWait a = false := by simp [Dev.fillWait, h]

/-- A channel whose burst at a transfer byte has returned these bytes. -/
def DmaChan.returned (ch : DmaChan) (t : Nat) (bs : List Byte) : DmaChan :=
  { ch with bursts := ch.bursts.map (fun x => if x.off = t then { x with got := some bs } else x) }

theorem DmaChan.got_of_returned {ch : DmaChan} {t : Nat} {bs : List Byte} {x : Burst} (hx : x ∈ (ch.returned t bs).bursts) (ht : x.off = t) :
    x.got = some bs := by
  obtain ⟨y, -, rfl⟩ := List.mem_map.mp hx
  by_cases hy : y.off = t
  · rw [if_pos hy]
  · rw [if_neg hy] at ht
    exact absurd ht hy

/-- A burst of this module that has not returned, its source in stack memory without a path error, returns the bytes a read sees (R376). -/
theorem Dev.burstReturn_stack {v : Dev} {c n i : Nat} {b : Burst} {o : DmaOps} (hb : (v.dmaCh c n).bursts[i]? = some b)
    (ho : decDma (v.dmaCh c n).cur.words = o) (htrip : v.pwr.tripped = false) (hgot : b.got = none) (hbad : b.bad = 0) (hremote : b.remote = false)
    (hlen : 0 < b.len) (hend : (o.readSpan b.off b.len).1 + (o.readSpan b.off b.len).2 ≤ stackEnd) (hbusy : v.hbm.busy = false)
    (hp : v.pathAt (o.readSpan b.off b.len).1 (o.readSpan b.off b.len).2 = none) :
    v.burstReturn c n i = ((v.softErrs (o.readSpan b.off b.len).1 (o.readSpan b.off b.len).2).modDmaCh c n
      (fun ch => ch.returned b.off (v.stkSeen (o.srcAt b.off).toNat b.len))).dmaPush c n := by
  unfold Dev.burstReturn
  dsimp only
  rw [hb, ho]
  dsimp only
  rw [if_neg (by simp [htrip, Dev.fillWait_of_filled hbusy]), if_neg (by simp [hgot, hbad]), hremote, if_neg (by decide),
    Dev.dmaRead_stack hlen hend hp]
  rfl

/-- Settles O30: a burst that issues leaves the channel of `burstIssue_here`, and one that returns holds the bytes a read sees. -/
theorem burstsMove : Obligations.BurstsMove := by
  intro c n s ch o
  refine ⟨fun hturn hown hp => ?issued, fun hturn => ?notDue, fun i b hb htrip hgot hbad hremote hlen hend hbusy hpath => ?returned⟩
  case issued =>
    obtain ⟨p, r, hch⟩ := Dev.burstIssue_here rfl rfl hturn hown hp
    exact ⟨_, rfl, by rw [hch], by rw [hch], by rw [hch]⟩
  case notDue => exact congrArg (fun w : Dev => Host.Outcome.next (s.ends w.releaseHeld)) (Dev.burstIssue_of_other_turn hturn)
  case returned =>
    refine ⟨_, congrArg (fun w : Dev => Host.Outcome.next (s.ends w.releaseHeld))
      (Dev.burstReturn_stack hb rfl htrip hgot hbad hremote hlen hend hbusy hpath), s.dev.softErrs_mem _ _, fun x hx hoff => ?_⟩
    rw [Dev.dmaCh_modDmaCh_same] at hx
    exact DmaChan.got_of_returned hx hoff

/-! ### A descriptor ends (R371, R389) -/

/-- What a descriptor that completes with a status leaves, before its channel takes the next. -/
def Dev.dmaEnded (v : Dev) (c n status : Nat) : Dev := (v.dmaForget c n).dmaEnd c n status

theorem Dev.dmaFinish_eq (v : Dev) (c n status : Nat) : v.dmaFinish c n status = ((v.dmaEnded c n status).dmaAdvance c n).dmaSealGo c n := rfl

/-- Answers dropped leave every channel as it was. -/
@[simp] theorem Dev.dmaForget_dmaCh (v : Dev) (c n : Nat) : (v.dmaForget c n).dmaCh c n = v.dmaCh c n := rfl

theorem Dev.dmaEnded_dmaCh (v : Dev) (c n status : Nat) :
    (v.dmaEnded c n status).dmaCh c n = { v.dmaCh c n with lastStatus := status, bytes := (v.dmaCh c n).doneBytes } := by
  rw [Dev.dmaEnded, Dev.dmaEnd_dmaCh, Dev.dmaForget_dmaCh]

theorem Dev.dmaEnded_mem (v : Dev) (c n status : Nat) : (v.dmaEnded c n status).hbm.mem = v.hbm.mem :=
  (Dev.dmaEnd_within (v.dmaForget c n) c n status).mem_eq (by decide)

/-! ### Seal words (R386, R387) -/

section
variable {v u : Dev} {c n : Nat} {bs : List Byte} (hread : v.sealRead c n = (some (.ok bs), u))
include hread

/-- The seal read of a channel that has its word is asked for no more. -/
theorem Dev.dmaSealGo_of_sealRead : v.dmaSealGo c n = v := by
  refine Dev.dmaSealGo_of_asked ?_
  by_contra hnot
  obtain ⟨hasked, hans⟩ := not_or.mp hnot
  simp [Dev.sealRead, hasked, not_not.mp hans] at hread

theorem Dev.sealRead_some_within : Dev.Within [.coreRegs, .syncStatus, .stackMem, .channels, .hif] v u := by
  have hwithin := v.sealRead_within c n
  rwa [hread] at hwithin

variable (htrip : v.pwr.tripped = false)
include htrip

/-- The first seal word returns: the channel holds it and moves data. -/
theorem Dev.sealS0_returns (hphase : (v.dmaCh c n).phase = .seal0) :
    v.sealS0 c n = u.modDmaCh c n (fun q => { q.sealDone with phase := .moving, sealWord := some (w64 (ofBytes bs)) }) := by
  unfold Dev.sealS0
  dsimp only
  rw [Dev.dmaSealGo_of_sealRead hread, if_pos (by simp [hphase, htrip]), hread]

end

/-- The channel at work holds its second seal word, and the sources of its entry have been read. -/
def Dev.sealHeld (u : Dev) (c n : Nat) (entry : Option Nat) (w : W64) : Dev :=
  let v := u.modDmaCh c n (fun q => { q.sealDone with seal1 := some w })
  match entry with
  | some e => v.modFlight (3 * c + 2) e (fun f => { f with srcDone := true })
  | none => v

theorem Dev.sealHeld_within (u : Dev) (c n : Nat) (entry : Option Nat) (w : W64) : Dev.Within [.streams, .dmas] u (u.sealHeld c n entry w) := by
  have hword := (u.modDmaCh_within c n (fun q => { q.sealDone with seal1 := some w })).mono (F := [.streams, .dmas]) (by decide)
  cases entry with
  | some e => exact hword.trans ((Dev.modFlight_within _ _ _ _).mono (by decide))
  | none => exact hword

theorem Dev.sealHeld_dmaCh (u : Dev) (c n : Nat) (entry : Option Nat) (w : W64) :
    (u.sealHeld c n entry w).dmaCh c n = { (u.dmaCh c n).sealDone with seal1 := some w } := by
  have hword : (u.modDmaCh c n (fun q => { q.sealDone with seal1 := some w })).dmaCh c n = { (u.dmaCh c n).sealDone with seal1 := some w } :=
    Dev.dmaCh_modDmaCh_same _ _ _ _
  cases entry with
  | some e => exact ((Dev.modFlight_within _ _ _ _).dmaCh_eq (by decide) c n).trans hword
  | none => exact hword

/-- The second seal word returns: held, announced where the source has changed, and the channel settles by it. -/
theorem Dev.sealS1_returns {v u : Dev} {c n : Nat} {bs : List Byte} (hread : v.sealRead c n = (some (.ok bs), u)) (htrip : v.pwr.tripped = false)
    (hphase : (v.dmaCh c n).phase = .seal1) (hnone : (v.dmaCh c n).seal1 = none) : let h := u.sealHeld c n (v.dmaCh c n).cur.entry (w64 (ofBytes bs))
    v.sealS1 c n = (if (v.dmaCh c n).sealWord = some (w64 (ofBytes bs)) then h else h.sourceChanged c n).dmaSettle c n := by
  intro h
  unfold Dev.sealS1
  dsimp only
  rw [Dev.dmaSealGo_of_sealRead hread, if_pos ⟨hphase, hnone, by simp [htrip]⟩, hread]
  dsimp only
  unfold h Dev.sealHeld
  cases (v.dmaCh c n).cur.entry <;> rfl

/-! ### The seal decides (R386 to R388) -/

section
variable {v : Dev} {c n : Nat} {s0 s1 : W64} (hphase : (v.dmaCh c n).phase = .seal1) (hdrain : (v.dmaCh c n).draining = false)
  (hword : (v.dmaCh c n).sealWord = some s0) (hseal : (v.dmaCh c n).seal1 = some s1)
  (hlanded : (v.dmaCh c n).allLanded (decDma (v.dmaCh c n).cur.words) = true)
include hphase hdrain hword hseal hlanded

/-- A changed seal ends the descriptor with status SOURCE_CHANGED. -/
theorem Dev.dmaSettle_of_changed (hne : s0 ≠ s1) : v.dmaSettle c n = v.dmaFinish c n 2 := by
  simp [Dev.dmaSettle, hphase, hdrain, hword, hseal, hlanded, hne]

/-- An unchanged seal writes the mark, and ends the descriptor with status OK once the mark has landed. -/
theorem Dev.dmaSettle_of_unchanged (he : s0 = s1) (hmarked : (v.dmaCh c n).marked = false) (hissue : v.issueOk = true) {u : Dev}
    (hu : v.dmaMark c n (decDma (v.dmaCh c n).cur.words) s0 = u) (hwritten : (u.dmaCh c n).marked = true) (hacks : (u.dmaCh c n).acks = []) :
    v.dmaSettle c n = u.dmaFinish c n 0 := by
  simp [Dev.dmaSettle, hphase, hdrain, hword, hseal, hlanded, ← he, hmarked, hissue, hu, hwritten, hacks]

end

/-- A permitted write of a channel to stack memory that nothing holds lands at once. -/
theorem Dev.dmaWrite_stack {v : Dev} {c : Nat} {a : W64} {bs : List Byte} (ho : v.otherModule a = false)
    (hperm : v.permits (coreDie c) a.toNat bs.length true false = true) (hlen : 0 < bs.length) (ha : a.toNat < stackEnd)
    (hpath : v.pathAt a.toNat bs.length = none) (hnone : v.holdsNone) (hheld : v.moult.held = []) (n off : Nat) :
    v.dmaWrite c n off a bs = (.done, v.stackPut a.toNat bs c (some (.dma c n off bs.length))) := by
  have hwr := Dev.wrAt_stack ha hlen hpath (coreDie c) c (some (.dma c n off bs.length))
  rw [w64, BitVec.ofNat_toNat, BitVec.setWidth_eq] at hwr
  obtain ⟨-, hkept⟩ := Dev.stackPut_effect hnone a.toNat bs c (some (.dma c n off bs.length))
  simp [Dev.dmaWrite, Dev.wrHere, ho, hperm, hwr, hkept, hheld]

/-- The mark of an unchanged seal, where its write lands at once: the descriptor ends with status OK and the mark holds the seal word (R387). -/
theorem Dev.dmaSettle_marks {v : Dev} {c n : Nat} {w : W64} (hphase : (v.dmaCh c n).phase = .seal1) (hdrain : (v.dmaCh c n).draining = false)
    (hword : (v.dmaCh c n).sealWord = some w) (hseal : (v.dmaCh c n).seal1 = some w) (hmarked : (v.dmaCh c n).marked = false) {o : DmaOps}
    (ho : decDma (v.dmaCh c n).cur.words = o) (hlanded : (v.dmaCh c n).allLanded o = true) (hissue : v.issueOk = true)
    (hown : v.otherModule o.markAddr = false) (hperm : v.permits (coreDie c) o.markAddr.toNat 8 true false = true)
    (hend : o.markAddr.toNat + 8 ≤ stackEnd) (hpath : v.pathAt o.markAddr.toNat 8 = none) (hnone : v.holdsNone) (hheld : v.moult.held = []) :
    ∃ u : Dev, v.dmaSettle c n = u.dmaFinish c n 0 ∧ u.stk8 o.markAddr.toNat 8 = toBytes w.toNat 8 := by
  subst ho
  have hlen : (toBytes w.toNat 8).length = 8 := toBytes_length _ _
  have hwrite := Dev.dmaWrite_stack (c := c) (bs := toBytes w.toNat 8) hown (by rwa [hlen]) (by omega) (by omega) (by rwa [hlen]) hnone hheld n
    (decDma (v.dmaCh c n).cur.words).total
  generalize hp : v.stackPut (decDma (v.dmaCh c n).cur.words).markAddr.toNat (toBytes w.toNat 8) c _ = p at hwrite
  have hput : p.dmaCh c n = v.dmaCh c n := hp ▸ (Dev.stackPut_within _ _ _ _ _).dmaCh_eq (by decide) c n
  have hmem : p.hbm.mem = mwrite v.hbm.mem (decDma (v.dmaCh c n).cur.words).markAddr.toNat (toBytes w.toNat 8) :=
    hp ▸ (Dev.stackPut_effect hnone _ _ _ _).1
  have hmark : v.dmaMark c n (decDma (v.dmaCh c n).cur.words) w = p.modDmaCh c n (fun ch => { ch with marked := true }) := by
    rw [Dev.dmaMark, hwrite]
  have hacks : (v.dmaCh c n).acks = [] := by
    simp only [DmaChan.allLanded, Bool.and_eq_true, List.isEmpty_iff] at hlanded
    exact hlanded.2
  refine ⟨_, Dev.dmaSettle_of_unchanged hphase hdrain hword hseal hlanded rfl hmarked hissue hmark (by simp) (by simp [hput, hacks]), ?_⟩
  have hread := mread_mwrite v.hbm.mem (decDma (v.dmaCh c n).cur.words).markAddr.toNat (toBytes w.toNat 8)
  rwa [hlen, ← hmem] at hread

section
variable {v u : Dev} {c n : Nat} {bs : List Byte} {s0 : W64} {o : DmaOps} (htrip : v.pwr.tripped = false)
  (hread : v.sealRead c n = (some (.ok bs), u)) (hphase : (v.dmaCh c n).phase = .seal1) (hnone : (v.dmaCh c n).seal1 = none)
  (hword : (v.dmaCh c n).sealWord = some s0) (ho : decDma (v.dmaCh c n).cur.words = o) (hlanded : (v.dmaCh c n).allLanded o = true)
  (hdrain : (v.dmaCh c n).draining = false)
include htrip hread hphase hnone hword ho hlanded hdrain

/-- A second seal word that differs from the first ends the descriptor with status SOURCE_CHANGED (R387). -/
theorem Dev.sealS1_changed (hne : s0 ≠ w64 (ofBytes bs)) :
    ∃ w : Dev, v.sealS1 c n = (w.dmaAdvance c n).dmaSealGo c n ∧ (w.dmaCh c n).lastStatus = 2 := by
  subst ho
  have hreturns := Dev.sealS1_returns hread htrip hphase hnone
  dsimp only at hreturns
  rw [if_neg (by rw [hword]; simpa using hne)] at hreturns
  generalize hh : (u.sealHeld c n (v.dmaCh c n).cur.entry (w64 (ofBytes bs))).sourceChanged c n = h at hreturns
  have hch : h.dmaCh c n = { (v.dmaCh c n).sealDone with seal1 := some (w64 (ofBytes bs)) } := by
    rw [← hh, (Dev.sourceChanged_within _ _ _).dmaCh_eq (by decide), Dev.sealHeld_dmaCh, (Dev.sealRead_some_within hread).dmaCh_eq (by decide)]
  have hends : h.dmaSettle c n = h.dmaFinish c n 2 := Dev.dmaSettle_of_changed (by rw [hch]; exact hphase) (by rw [hch]; exact hdrain)
    (by rw [hch]; exact hword) (by rw [hch]) (by rw [hch]; exact hlanded) hne
  exact ⟨h.dmaEnded c n 2, hreturns.trans (hends.trans (h.dmaFinish_eq c n 2)), by rw [Dev.dmaEnded_dmaCh]⟩

/-- A second seal word equal to the first writes the mark, and ends the descriptor with status OK where that write lands at once (R387). -/
theorem Dev.sealS1_unchanged (he : s0 = w64 (ofBytes bs)) (hmarked : (v.dmaCh c n).marked = false) (hissue : v.issueOk = true)
    (hown : v.otherModule o.markAddr = false) (hperm : v.permits (coreDie c) o.markAddr.toNat 8 true false = true)
    (hend : o.markAddr.toNat + 8 ≤ stackEnd) (hpath : u.pathAt o.markAddr.toNat 8 = none) (hfree : v.holdsNone) (hheld : v.moult.held = []) :
    ∃ w : Dev, v.sealS1 c n = (w.dmaAdvance c n).dmaSealGo c n ∧ (w.dmaCh c n).lastStatus = 0 ∧ w.stk8 o.markAddr.toNat 8 = toBytes s0.toNat 8 := by
  subst ho
  have hreturns := Dev.sealS1_returns hread htrip hphase hnone
  dsimp only at hreturns
  rw [if_pos (hword.trans (congrArg some he)), ← he] at hreturns
  generalize hh : u.sealHeld c n (v.dmaCh c n).cur.entry s0 = h at hreturns
  have hreading := Dev.sealRead_some_within hread
  have hholding : Dev.Within [.streams, .dmas] u h := hh ▸ Dev.sealHeld_within _ _ _ _ _
  have hkept : Dev.Within [.coreRegs, .syncStatus, .stackMem, .channels, .hif, .streams, .dmas] v h :=
    (hreading.mono (by decide)).trans (hholding.mono (by decide))
  have hch : h.dmaCh c n = { (v.dmaCh c n).sealDone with seal1 := some s0 } := by
    rw [← hh, Dev.sealHeld_dmaCh, hreading.dmaCh_eq (by decide)]
  obtain ⟨w, hw, hmark⟩ := Dev.dmaSettle_marks (v := h) (c := c) (n := n) (w := s0) (by rw [hch]; exact hphase) (by rw [hch]; exact hdrain)
    (by rw [hch]; exact hword) (by rw [hch]) (by rw [hch]; exact hmarked) (by rw [hch]; rfl) (by rw [hch]; exact hlanded)
    ((hkept.issueOk_eq (by decide)).trans hissue) ((hkept.otherModule_eq (by decide) _).trans hown)
    ((hkept.permits_eq (by decide) _ _ _ _ _).trans hperm) hend ((Dev.pathAt_congr (hholding.hbm_eq (by decide)) _ _).trans hpath)
    (hkept.holdsNone (by decide) (by decide) hfree) ((hkept.held_eq (by decide)).trans hheld)
  refine ⟨w.dmaEnded c n 0, hreturns.trans (hw.trans (w.dmaFinish_eq c n 0)), by rw [Dev.dmaEnded_dmaCh], ?_⟩
  rw [Dev.stk8, Dev.dmaEnded_mem]
  exact hmark

end

/-- Settles O31: the first word starts the bursts; the second ends the descriptor as `sealS1_changed` or `sealS1_unchanged` says. -/
theorem sealsChecked : Obligations.SealsChecked := by
  intro c n s ch o bs u htrip hread
  have hexec : ∀ {w}, s.dev.sealS1 c n = w → exec (.sealS1Return c n) s = .next (s.ends w.releaseHeld) := fun hw =>
    congrArg (fun w : Dev => Host.Outcome.next (s.ends w.releaseHeld)) hw
  refine ⟨fun hphase => ?first, fun s0 hphase hnone hword hlanded hdrain hmarked => ⟨fun hne => ?changed,
    fun he hissue hown hactive hheld hbusy hend hperm hpath => ?unchanged⟩⟩
  case first =>
    refine ⟨_, congrArg (fun w => Host.Outcome.next (s.ends w)) (Dev.sealS0_returns hread htrip hphase), ?_, ?_⟩
    · rw [Dev.dmaCh_modDmaCh_same]
    · rw [Dev.dmaCh_modDmaCh_same]
  case changed =>
    obtain ⟨w, hw, hstatus⟩ := Dev.sealS1_changed htrip hread hphase hnone hword rfl hlanded hdrain hne
    exact ⟨w, hexec hw, hstatus⟩
  case unchanged =>
    obtain ⟨w, hw, hstatus, hmark⟩ := Dev.sealS1_unchanged htrip hread hphase hnone hword rfl hlanded hdrain he hmarked hissue hown hperm hend hpath
      ⟨hactive, hbusy⟩ hheld
    exact ⟨w, hexec hw, hstatus, hmark⟩

/-! ### The registers of an engine (Tables 11.8 to 11.12) -/

/-- With no update held there is none to release (R464). -/
theorem Dev.releaseHeld_of_noneHeld {v : Dev} (h : v.noneHeld) : v.releaseHeld = v := by
  refine List.foldl_fixed' (fun s => ?_) _
  rw [List.filter_eq_nil_iff.mpr fun f hf => by simp [h _ f hf]]
  rfl

theorem Dev.core_modDma_dma (v : Dev) (c : Nat) (g : DmaEng → DmaEng) : ((v.modDma c g).core c).dma = g (v.core c).dma := by simp [Dev.modDma]

/-- A change of an engine's registers leaves a channel that it does not name. -/
theorem Dev.dmaCh_modDma {v : Dev} {c : Nat} {g : DmaEng → DmaEng} (h : (g (v.core c).dma).chans = (v.core c).dma.chans) (n : Nat) :
    (v.modDma c g).dmaCh c n = v.dmaCh c n := by
  rw [Dev.dmaCh, Dev.core_modDma_dma, h, Dev.dmaCh]

/-- The engine's stop cleared, where it has one and the write of its control register asks for it (R394). -/
def Dev.ctlTaken (v : Dev) (c : Nat) (x : W32) : Dev :=
  let u := v.modDma c (fun e => { e with ringChans := if v.coreClaimed c then e.ringChans else bits x.toNat 15 0 })
  if bit x.toNat 16 && (v.core c).dma.stopped then u.modDma c (fun e => { e with stopped := false }) else u

theorem Dev.dmaCtlWrite_eq (v : Dev) (c : Nat) (x : W32) :
    v.dmaCtlWrite c x = if bit x.toNat 16 && (v.core c).dma.stopped then (v.ctlTaken c x).dmaWakeAll c else v.ctlTaken c x := by
  simp only [Dev.dmaCtlWrite, Dev.ctlTaken, Dev.core_modDma_dma]
  cases bit x.toNat 16 && (v.core c).dma.stopped with
  | true => simp only [↓reduceIte]
  | false => simp only [Bool.false_eq_true, ↓reduceIte]

/-- RING_CHANS is that written unless the core is claimed, the stop is over where the value has CLEAR, and the channels are as before (R370, R394). -/
theorem Dev.ctlTaken_effect (v : Dev) (c : Nat) (x : W32) :
    ((v.ctlTaken c x).core c).dma.ringChans = (if v.coreClaimed c then (v.core c).dma.ringChans else bits x.toNat 15 0) ∧
    ((v.ctlTaken c x).core c).dma.stopped = ((v.core c).dma.stopped && !bit x.toNat 16) ∧ ∀ m, (v.ctlTaken c x).dmaCh c m = v.dmaCh c m := by
  unfold Dev.ctlTaken
  dsimp only
  split
  · next hclear =>
    obtain ⟨hbit, hstop⟩ := Bool.and_eq_true_iff.mp hclear
    rw [Dev.core_modDma_dma, Dev.core_modDma_dma, hbit, hstop]
    exact ⟨rfl, rfl, fun m => (Dev.dmaCh_modDma rfl m).trans (Dev.dmaCh_modDma rfl m)⟩
  · next hclear =>
    rw [Dev.core_modDma_dma]
    refine ⟨rfl, ?_, fun m => Dev.dmaCh_modDma rfl m⟩
    cases hstop : (v.core c).dma.stopped with
    | true => simpa [hstop] using hclear
    | false => rfl

/-! ### RESTART and DROP (R392, R395) -/

/-- Channel n with RESTART or DROP noted, as the value says. -/
def Dev.resumeAsked (v : Dev) (c n : Nat) (x : W32) : Dev := v.modDmaCh c n (fun ch => { ch with resume := if bit x.toNat 2 then 1 else 2 })

theorem Dev.resumeAsked_dmaCh (v : Dev) (c n : Nat) (x : W32) :
    (v.resumeAsked c n x).dmaCh c n = { v.dmaCh c n with resume := if bit x.toNat 2 then 1 else 2 } := Dev.dmaCh_modDmaCh_same _ _ _ _

theorem Dev.resumeAsked_quiet (v : Dev) (c n : Nat) (x : W32) : (v.resumeAsked c n x).dmaQuiet c n = v.dmaQuiet c n := by
  rw [Dev.dmaQuiet, Dev.resumeAsked_dmaCh]
  rfl

theorem Dev.dmaChanWrite_ignored {v : Dev} {c n : Nat} {x : W32}
    (h : ¬((v.dmaCh c n).phase = .stopped ∧ (v.core c).dma.stopped = false) ∨ bit x.toNat 2 = bit x.toNat 3) : v.dmaChanWrite c n x = v := by
  refine if_neg ?_
  simp only [Bool.and_eq_true, decide_eq_true_eq, Bool.not_eq_true', bne_iff_ne, not_and_or]
  exact h.imp not_and_or.mp not_not.mpr

section
variable {v : Dev} {c n : Nat} {x : W32} (hphase : (v.dmaCh c n).phase = .stopped) (hrun : (v.core c).dma.stopped = false)
  (hone : bit x.toNat 2 ≠ bit x.toNat 3)
include hphase hrun hone

theorem Dev.dmaChanWrite_asks : v.dmaChanWrite c n x = (v.resumeAsked c n x).dmaResumed c n :=
  if_pos (by simp [hphase, hrun, hone])

/-- While something of the channel is in flight the write is kept. -/
theorem Dev.dmaChanWrite_kept (hquiet : v.dmaQuiet c n = false) (hdrain : (v.dmaCh c n).draining = false) :
    v.dmaChanWrite c n x = v.resumeAsked c n x := by
  rw [Dev.dmaChanWrite_asks hphase hrun hone]
  have hch := v.resumeAsked_dmaCh c n x
  simp [Dev.dmaResumed, Dev.dmaSettle, Dev.resumeAsked_quiet, hquiet, hch, hphase, hdrain]

variable (hquiet : v.dmaQuiet c n = true)
include hquiet

/-- RESTART of a channel with nothing in flight: its descriptor goes on from DONE_BYTES. -/
theorem Dev.dmaChanWrite_restarts (hrestart : bit x.toNat 2 = true) : v.dmaChanWrite c n x =
    ((((v.resumeAsked c n x).dmaForget c n).modDmaCh c n DmaChan.restart).dmaSettle c n).dmaSealGo c n := by
  rw [Dev.dmaChanWrite_asks hphase hrun hone]
  have hch := v.resumeAsked_dmaCh c n x
  have hstop : ((v.resumeAsked c n x).core c).dma.stopped = false := (Dev.dmaStopped_modDmaCh _ _ _ _).trans hrun
  simp [Dev.dmaResumed, Dev.resumeAsked_quiet, hquiet, hch, hphase, hstop, hrestart]

/-- DROP of a channel with nothing in flight ends its descriptor with status DROPPED. -/
theorem Dev.dmaChanWrite_drops (hdrop : bit x.toNat 2 = false) : v.dmaChanWrite c n x =
    (((v.resumeAsked c n x).dmaEnded c n 3).dmaAdvance c n).dmaSealGo c n := by
  rw [Dev.dmaChanWrite_asks hphase hrun hone]
  have hch := v.resumeAsked_dmaCh c n x
  have hstop : ((v.resumeAsked c n x).core c).dma.stopped = false := (Dev.dmaStopped_modDmaCh _ _ _ _).trans hrun
  simp [Dev.dmaResumed, Dev.resumeAsked_quiet, hquiet, hch, hphase, hstop, hdrop, Dev.dmaFinish_eq]

end

/-- Both commands that name DMA_CHAN_STAT write it. -/
theorem exec_dmaChanStat (c : CoreId) (n : DmaId) (x : W32) (s : State) :
    ∀ i ∈ [Instr.dmaRestart c n x, .dmaDrop c n x], exec i s = .next (s.ends (s.dev.dmaChanWrite c n x).releaseHeld) := by
  simp only [List.forall_mem_cons]
  exact ⟨rfl, rfl, fun _ h => absurd h List.not_mem_nil⟩

theorem ReqLine.write_same {l : ReqLine} {x : W32} (hk : bits x.toNat 2 0 = l.kind) (ha : bits x.toNat 13 8 = l.arg) :
    l.write x = { l with ovf := l.ovf && !bit x.toNat 14 } := if_pos ⟨hk, ha⟩

theorem ReqLine.write_changed {l : ReqLine} {x : W32} (h : bits x.toNat 2 0 ≠ l.kind ∨ bits x.toNat 13 8 ≠ l.arg) :
    l.write x = { kind := bits x.toNat 2 0, arg := bits x.toNat 13 8 } := if_neg (not_and_or.mpr h)

/-- Settles O32: each register's write by its own lemma. -/
theorem dmaRegistersTakeEffect : Obligations.DmaRegistersTakeEffect := by
  intro c n x s ch clears restart drop ready
  refine ⟨?control, fun i hi => ?channel, fun m => ?line⟩
  case control =>
    refine ⟨s.dev.ctlTaken c x, ?_, s.dev.ctlTaken_effect c x⟩
    exact congrArg (fun w : Dev => Host.Outcome.next (s.ends w.releaseHeld)) (s.dev.dmaCtlWrite_eq c x)
  case channel =>
    have hexec : ∀ w, s.dev.dmaChanWrite c n x = w → exec i s = .next (s.ends w.releaseHeld) := fun w hw => hw ▸ exec_dmaChanStat c n x s i hi
    have hrestarts : restart = true → bit x.toNat 2 = true ∧ bit x.toNat 3 = false := by simp [restart]
    have hdrops : drop = true → bit x.toNat 2 = false ∧ bit x.toNat 3 = true := by simp [drop, and_comm]
    have hasked := s.dev.resumeAsked_dmaCh c n x
    refine ⟨fun hready hquiet hrestart => ?restarts, fun hready hquiet hdrop => ?drops, fun hready hquiet hdrain hask => ?kept, fun hidle => ?ignored⟩
    case restarts =>
      obtain ⟨h2, h3⟩ := hrestarts hrestart
      refine ⟨_, hexec _ (Dev.dmaChanWrite_restarts hready.1 hready.2 (by simp [h2, h3]) hquiet h2), ?_⟩
      rw [Dev.dmaCh_modDmaCh_same, Dev.dmaForget_dmaCh, hasked]
      exact ⟨rfl, rfl, rfl, rfl⟩
    case drops =>
      obtain ⟨h2, h3⟩ := hdrops hdrop
      refine ⟨(s.dev.resumeAsked c n x).dmaEnded c n 3, hexec _ (Dev.dmaChanWrite_drops hready.1 hready.2 (by simp [h2, h3]) hquiet h2), ?_⟩
      rw [Dev.dmaEnded_dmaCh, hasked]
      exact ⟨rfl, rfl⟩
    case kept =>
      have hone : bit x.toNat 2 ≠ bit x.toNat 3 ∧ restart = bit x.toNat 2 := by
        rcases hask with hask | hask
        · obtain ⟨h2, h3⟩ := hrestarts hask
          simp [h2, h3, hask]
        · obtain ⟨h2, h3⟩ := hdrops hask
          simp [restart, h2, h3]
      obtain ⟨hone, hwhich⟩ := hone
      exact ⟨_, hexec _ (Dev.dmaChanWrite_kept hready.1 hready.2 hone hquiet hdrain), by rw [hasked, hwhich]⟩
    case ignored =>
      have hsame := hexec _ (Dev.dmaChanWrite_ignored hidle)
      exact ⟨hsame, fun hnone => by rw [hsame, Dev.releaseHeld_of_noneHeld hnone, State.ends_self]⟩
  case line =>
    have hline : tget ({} : ReqLine) ((s.dev.modDma c (fun e => { e with lines := tmod {} e.lines m (fun l => l.write x) })).core c).dma.lines m =
        (tget ({} : ReqLine) (s.dev.core c).dma.lines m).write x := by
      rw [Dev.core_modDma_dma, tget_tmod_same]
    exact ⟨_, rfl, fun hk ha => hline.trans (ReqLine.write_same hk ha), fun hne => hline.trans (ReqLine.write_changed hne)⟩

end Sys2Proof.Machine

/-! The responses of the fabric (14): what a request leaves behind as it is answered, refused or given up, for each unit that asks, and from
them O47. -/

namespace Sys2Proof.Machine

/-! ### A request leaves the outstanding ones (R483, R488) -/

section
variable {v : Dev} {die : Nat} (h : (v.fabD die).relink = false)
include h

/-- While the link set stands still nothing but the list of requests changes as one of them leaves it. -/
theorem Dev.dropReq_settled (r : Req) : Dev.Within [.fabric] v (v.dropReq die r) ∧
    (v.dropReq die r).fabD die = { v.fabD die with reqs := (v.fabD die).reqs.erase r } := by
  have heq : v.dropReq die r = (v.modFabD die (fun f => { f with reqs := f.reqs.erase r })).settleLinks die := if_neg (by simp [h])
  rw [heq]
  refine ⟨(Dev.settleLinks_within _ _).after (Dev.modFabD_within _ _ _), ?_⟩
  rw [Dev.settleLinks, Dev.fabD_modFabD_same, Dev.fabD_modFabD_same]
  simp [h]

/-- A request that has left is outstanding no more, whatever its sender does that is not of the fabric. -/
theorem Dev.dropReq_gone {F : List Part} {w : Dev} {r : Req} (hw : Dev.Within F (v.dropReq die r) w) (hF : Part.fabric ∉ F) :
    (w.fabD die).reqs = (v.fabD die).reqs.erase r := by
  rw [hw.fabD_eq hF, (Dev.dropReq_settled h r).2]

end

/-- A response takes the request it answers off the outstanding ones and gives its sender what it means. -/
theorem Dev.respond_answers {v : Dev} {die e : Nat} {p : Packet} {ok : Req → Bool} {r : Req} (h : v.match? die p ok = some (e, r))
    (act : Dev → Req → Dev) : v.respond die p ok act = (act (v.dropReq e r) r).releaseHeld := by
  rw [Dev.respond, h]

section
variable {d : DieId} {port : Port} {p : Packet} {s : State} {e : Nat} {r : Req} (ho : s.dev.portOpen d port p = true)
  (hi : s.dev.inbound d port p = .ok)
include ho hi

theorem exec_readData_answers (hg : packetGood 2 p = true)
    (hm : s.dev.match? d p (fun r => !r.write && decide (r.len = p.data.length)) = some (e, r)) :
    exec (.readData d port p) s = .next (s.ends ((s.dev.dropReq e r).answered r p.data).releaseHeld) :=
  congrArg (fun w => Host.Outcome.next (s.ends w)) ((Dev.arrive_acts ho hg hi false _).trans (Dev.respond_answers hm _))

theorem exec_wack_answers (hg : packetGood 3 p = true) (hm : s.dev.match? d p (fun r => r.write) = some (e, r)) :
    exec (.wack d port p) s = .next (s.ends ((s.dev.dropReq e r).acked r).releaseHeld) :=
  congrArg (fun w => Host.Outcome.next (s.ends w)) ((Dev.arrive_acts ho hg hi false _).trans (Dev.respond_answers hm _))

theorem exec_error_answers (hg : packetGood 4 p = true) (hm : s.dev.match? d p (fun _ => true) = some (e, r)) :
    exec (.error d port p) s = .next (s.ends ((s.dev.dropReq e r).refusedReq r).releaseHeld) :=
  congrArg (fun w => Host.Outcome.next (s.ends w)) ((Dev.arrive_acts ho hg hi false _).trans (Dev.respond_answers hm _))

end

/-! ### Answers to a DMA channel (R386, R391) -/

section
variable {v : Dev} {r : Req} {c n : Nat}

theorem Dev.answered_dmaRead {off piece : Nat} (h : r.purpose = .dmaRead c n off piece) (bs : List Byte) :
    v.answered r bs = v.dmaAnswer c n off piece bs := by rw [Dev.answered, h]

/-- A burst of another module takes the bytes of the READ that is answered. -/
theorem Dev.dmaAnswer_bursts {b : Burst} {off : Nat} (hb : b ∈ (v.dmaCh c n).bursts) (hoff : b.off = off) (hremote : b.remote = true)
    (hgot : b.got = none) (hwait : 0 < b.waiting) (piece : Nat) (bs : List Byte) :
    { b with waiting := b.waiting - 1, pieces := b.pieces ++ [(piece, bs)] } ∈ ((v.dmaAnswer c n off piece bs).dmaCh c n).bursts := by
  rw [Dev.dmaAnswer, Dev.dmaCh_modDmaCh_same]
  exact List.mem_map.mpr ⟨b, hb, if_pos ⟨hoff, hremote, by simp [hgot], hwait⟩⟩

theorem Dev.answered_sealRead {k : Nat} (h : r.purpose = .sealRead c n k) (bs : List Byte) :
    v.answered r bs = v.modDmaCh c n (fun q => if q.sealAsked then { q with sealAns := some bs, sealAsked := false } else q) := by rw [Dev.answered, h]

theorem Dev.acked_dmaWrite {off len : Nat} (h : r.purpose = .dmaWrite c n off len) :
    v.acked r = (v.modDmaCh c n (fun q => { q with acks := q.acks.erase (off, len) }.tidy)).dmaPush c n := by
  rw [Dev.acked, h]
  rfl

/-- A READ refused of a burst that is still wanted is a bus error of kind 3. -/
theorem Dev.refusedReq_dmaRead {off piece : Nat} (h : r.purpose = .dmaRead c n off piece)
    (hb : ∃ b ∈ (v.dmaCh c n).bursts, b.off = off ∧ b.bad = 0 ∧ b.got = none) :
    ∃ len, v.refusedReq r = ((v.modDmaCh c n (fun q => q.spoil off len 3)).dmaError c n 3 (w64 (2 ^ 62 + r.chip * 2 ^ 48 + r.off))).dmaPush c n := by
  obtain ⟨b, hmem, hoff, hbad, hgot⟩ := hb
  have hsome : ((v.dmaCh c n).bursts.find? (fun b => b.off = off && b.bad = 0 && b.got.isNone)).isSome = true :=
    List.find?_isSome.mpr ⟨b, hmem, by simp [hoff, hbad, hgot]⟩
  obtain ⟨b', hfind⟩ := Option.isSome_iff_exists.mp hsome
  refine ⟨b'.len, ?_⟩
  rw [Dev.refusedReq, h]
  dsimp only
  rw [Dev.dmaAnswerBad, hfind]

end

/-! ### Answers to a context (R280, R336, R484) -/

section
variable {v : Dev} {r : Req} {c x : Nat}

theorem Dev.answered_sclLoad {a size : Nat} {uns : Bool} {rd : Nat} {by_ : Bool} {nx : W64} (h : r.purpose = .sclLoad c x)
    (hw : (v.ctx c x).wait = .load a size uns rd by_ nx) (bs : List Byte) : v.answered r bs = v.sclLoaded c x rd size uns bs nx := by
  rw [Dev.answered, h]
  dsimp only
  rw [Dev.sclAnswer, hw]

theorem Dev.refusedReq_sclLoad {a size : Nat} {uns : Bool} {rd : Nat} {by_ : Bool} {nx : W64} (h : r.purpose = .sclLoad c x)
    (hw : (v.ctx c x).wait = .load a size uns rd by_ nx) : v.refusedReq r = v.sclFault c x causeLoad (v.ctx c x).pc := by
  rw [Dev.refusedReq, h]
  dsimp only
  rw [Dev.sclAnswerBad, hw]

theorem Dev.acked_sclStore {pc : W64} (h : r.purpose = .sclStore c x pc) : v.acked r = v.sclLanded c x := by rw [Dev.acked, h]

/-- A store that has landed is posted no more. -/
theorem Dev.sclLanded_posted (v : Dev) (c x : Nat) : ((v.sclLanded c x).ctx c x).posted = (v.ctx c x).posted - 1 := by
  rw [Dev.sclLanded, Dev.ctx_modCtx_same]
  dsimp only
  split
  · split <;> rfl
  all_goals rfl

/-- A store of a busy context that is refused stops the context at the store. -/
theorem Dev.refusedReq_sclStore {pc : W64} (h : r.purpose = .sclStore c x pc) (hbusy : (v.ctx c x).busy = true) :
    v.refusedReq r = (v.modCtx c x (fun q => { q with posted := q.posted - 1 })).sclFault c x causeStore pc := by
  rw [Dev.refusedReq, h]
  dsimp only
  rw [Dev.sclStoreBad]
  exact if_pos (by rw [Dev.ctx_modCtx_same]; exact hbusy)

end

theorem Dev.acked_chunk {v : Dev} {r : Req} {c n : Nat} (h : r.purpose = .chunk c n) : v.acked r = v := by rw [Dev.acked, h]

theorem Dev.refusedReq_chunk {v : Dev} {r : Req} {c n : Nat} (h : r.purpose = .chunk c n) : v.refusedReq r = v := by rw [Dev.refusedReq, h]

/-! ### The sender once its request is off the list -/

section
variable {v : Dev} {e : Nat} {r : Req} (hl : (v.fabD e).relink = false)
include hl

/-- A burst of another module that waits for this piece takes its bytes (R391). -/
theorem Dev.burst_answered {c n off piece : Nat} (hr : r.purpose = .dmaRead c n off piece) (bs : List Byte) :
    let w := (v.dropReq e r).answered r bs
    (w.fabD e).reqs = (v.fabD e).reqs.erase r ∧ ∀ b ∈ (v.dmaCh c n).bursts, b.off = off → b.remote = true → b.got = none → 0 < b.waiting →
      { b with waiting := b.waiting - 1, pieces := b.pieces ++ [(piece, bs)] } ∈ (w.dmaCh c n).bursts := by
  dsimp only
  rw [Dev.answered_dmaRead hr]
  refine ⟨Dev.dropReq_gone hl (Dev.modDmaCh_within _ _ _ _) (by decide), fun b hb hoff hremote hgot hwait => ?_⟩
  rw [← (Dev.dropReq_settled hl r).1.dmaCh_eq (by decide)] at hb
  exact Dev.dmaAnswer_bursts hb hoff hremote hgot hwait piece bs

theorem Dev.sealWord_answered {c n k : Nat} (hr : r.purpose = .sealRead c n k) (hasked : (v.dmaCh c n).sealAsked = true) (bs : List Byte) :
    let w := (v.dropReq e r).answered r bs
    (w.fabD e).reqs = (v.fabD e).reqs.erase r ∧ (w.dmaCh c n).sealAns = some bs ∧ (w.dmaCh c n).sealAsked = false := by
  dsimp only
  rw [Dev.answered_sealRead hr]
  refine ⟨Dev.dropReq_gone hl (Dev.modDmaCh_within _ _ _ _) (by decide), ?_⟩
  rw [Dev.dmaCh_modDmaCh_same, (Dev.dropReq_settled hl r).1.dmaCh_eq (by decide), if_pos hasked]
  exact ⟨rfl, rfl⟩

theorem Dev.load_answered {c x a size : Nat} {uns : Bool} {rd : Nat} {by_ : Bool} {nx : W64} (hr : r.purpose = .sclLoad c x)
    (hw : (v.ctx c x).wait = .load a size uns rd by_ nx) (bs : List Byte) : let w := (v.dropReq e r).answered r bs
    (w.fabD e).reqs = (v.fabD e).reqs.erase r ∧ w.ctx c x = ((v.ctx c x).setReg rd (extLoad bs size uns)).go nx := by
  have hctx := (Dev.dropReq_settled hl r).1.ctx_eq (by decide) c x
  dsimp only
  rw [Dev.answered_sclLoad hr (hctx ▸ hw)]
  exact ⟨Dev.dropReq_gone hl (Dev.sclLoaded_within _ _ _ _ _ _ _ _) (by decide), by rw [Dev.sclLoaded_ctx, hctx]⟩

/-- A write of a channel that has landed is acknowledged no more, and the channel writes on (R391). -/
theorem Dev.write_acked {c n off len : Nat} (hr : r.purpose = .dmaWrite c n off len) : ∃ u : Dev, (v.dropReq e r).acked r = u.dmaPush c n ∧
    (u.fabD e).reqs = (v.fabD e).reqs.erase r ∧ (u.dmaCh c n).acks = (v.dmaCh c n).acks.erase (off, len) := by
  refine ⟨_, Dev.acked_dmaWrite hr, Dev.dropReq_gone hl (Dev.modDmaCh_within _ _ _ _) (by decide), ?_⟩
  rw [Dev.dmaCh_modDmaCh_same, (Dev.dropReq_settled hl r).1.dmaCh_eq (by decide)]
  rfl

theorem Dev.store_acked {c x : Nat} {pc : W64} (hr : r.purpose = .sclStore c x pc) : let w := (v.dropReq e r).acked r
    (w.fabD e).reqs = (v.fabD e).reqs.erase r ∧ (w.ctx c x).posted = (v.ctx c x).posted - 1 := by
  dsimp only
  rw [Dev.acked_sclStore hr]
  exact ⟨Dev.dropReq_gone hl (Dev.modCtx_within _ _ _ _) (by decide),
    by rw [Dev.sclLanded_posted, (Dev.dropReq_settled hl r).1.ctx_eq (by decide)]⟩

theorem Dev.chunk_acked {c n : Nat} (hr : r.purpose = .chunk c n) : let w := (v.dropReq e r).acked r
    (w.fabD e).reqs = (v.fabD e).reqs.erase r ∧ (w.fabD e).ceLost = (v.fabD e).ceLost := by
  dsimp only
  rw [Dev.acked_chunk hr, (Dev.dropReq_settled hl r).2]
  exact ⟨rfl, rfl⟩

theorem Dev.load_refused {c x a size : Nat} {uns : Bool} {rd : Nat} {by_ : Bool} {nx : W64} (hr : r.purpose = .sclLoad c x)
    (hw : (v.ctx c x).wait = .load a size uns rd by_ nx) : let w := (v.dropReq e r).refusedReq r
    (w.fabD e).reqs = (v.fabD e).reqs.erase r ∧ (w.ctx c x).state = .faulted ∧ (w.ctx c x).cause = 5 := by
  have hctx := (Dev.dropReq_settled hl r).1.ctx_eq (by decide) c x
  dsimp only
  rw [Dev.refusedReq_sclLoad hr (hctx ▸ hw), Dev.sclFault_ctx]
  exact ⟨Dev.dropReq_gone hl (Dev.sclFault_within _ _ _ _ _) (by decide), rfl, rfl⟩

theorem Dev.store_refused {c x : Nat} {pc : W64} (hr : r.purpose = .sclStore c x pc) (hbusy : (v.ctx c x).busy = true) :
    let w := (v.dropReq e r).refusedReq r
    (w.fabD e).reqs = (v.fabD e).reqs.erase r ∧ (w.ctx c x).state = .faulted ∧ (w.ctx c x).cause = 7 ∧ (w.ctx c x).pc = pc := by
  have hctx := (Dev.dropReq_settled hl r).1.ctx_eq (by decide) c x
  dsimp only
  rw [Dev.refusedReq_sclStore hr (hctx ▸ hbusy), Dev.sclFault_ctx]
  exact ⟨Dev.dropReq_gone (F := [.contexts, .hif]) hl
    ((Dev.sclFault_within _ _ _ _ _).after ((Dev.modCtx_within _ _ _ _).mono (by decide))) (by decide), rfl, rfl, rfl⟩

theorem Dev.read_refused {c n off piece : Nat} (hr : r.purpose = .dmaRead c n off piece) (hrun : (v.core c).dma.stopped = false)
    (hb : ∃ b ∈ (v.dmaCh c n).bursts, b.off = off ∧ b.bad = 0 ∧ b.got = none) : ∃ u : Dev,
    (v.dropReq e r).refusedReq r = (u.dmaError c n 3 (w64 (2 ^ 62 + r.chip * 2 ^ 48 + r.off))).dmaPush c n ∧
      (u.fabD e).reqs = (v.fabD e).reqs.erase r ∧ (u.core c).dma.stopped = false := by
  obtain ⟨hdrop, -⟩ := Dev.dropReq_settled hl r
  obtain ⟨len, href⟩ := Dev.refusedReq_dmaRead (v := v.dropReq e r) hr (by rwa [hdrop.dmaCh_eq (by decide)])
  refine ⟨_, href, Dev.dropReq_gone hl (Dev.modDmaCh_within _ _ _ _) (by decide), ?_⟩
  rw [Dev.dmaStopped_modDmaCh, hdrop.dma_eq (by decide)]
  exact hrun

theorem Dev.chunk_refused {c n : Nat} (hr : r.purpose = .chunk c n) : (((v.dropReq e r).refusedReq r).fabD e).reqs = (v.fabD e).reqs.erase r := by
  rw [Dev.refusedReq_chunk hr, (Dev.dropReq_settled hl r).2]

end

/-! ### A request that is given up (R484, R508, R532) -/

/-- The registers of a die that has given a request up: a chunk's packet is noted as lost for the next CE_FENCE (R508). -/
def Fab.gaveUp (f : Fab) (r : Req) : Fab :=
  match r.purpose with
  | .chunk _ seq => { f with timeout := true, ceLost := f.ceLost ++ [(seq, r.chip)] }
  | _ => { f with timeout := true }

theorem Fab.gaveUp_keeps (f : Fab) (r : Req) : (f.gaveUp r).timeout = true ∧ (f.gaveUp r).reqs = f.reqs := by
  unfold Fab.gaveUp
  split <;> exact ⟨rfl, rfl⟩

theorem Fab.gaveUp_chunk {r : Req} {c n : Nat} (h : r.purpose = .chunk c n) (f : Fab) : (f.gaveUp r).ceLost = f.ceLost ++ [(n, r.chip)] := by
  rw [Fab.gaveUp, h]

/-- The device as a request of a die times out, before its sender learns of it. -/
def Dev.timedOut (v : Dev) (die : Nat) (r : Req) : Dev :=
  ((v.dropReq die r).modFabD die (fun f => f.gaveUp r)).ev die (74 + die) 0x042 r.chip (sunitReq die r.sunit)

theorem Dev.timedOut_fabD (v : Dev) (die : Nat) (r : Req) : (v.timedOut die r).fabD die = ((v.dropReq die r).fabD die).gaveUp r := by
  rw [Dev.timedOut, (Dev.ev_within _ _ _ _ _ _).fabD_eq (by decide), Dev.fabD_modFabD_same]

theorem Dev.timedOut_within {v : Dev} {die : Nat} (h : (v.fabD die).relink = false) (r : Req) : Dev.Within [.fabric, .hif] v (v.timedOut die r) :=
  (((Dev.dropReq_settled h r).1.mono (by decide)).trans ((Dev.modFabD_within _ _ _).mono (by decide))).trans ((Dev.ev_within _ _ _ _ _ _).mono (by decide))

theorem Dev.ackTimeout_refuses {v : Dev} {die i : Nat} {r : Req} (hf : v.ft.frozen = false) (hr : (v.fabD die).reqs[i]? = some r) :
    v.ackTimeout die i = ((v.timedOut die r).refusedReq r).releaseHeld := by
  unfold Dev.ackTimeout Dev.timedOut Fab.gaveUp
  rw [if_neg (by simp [hf]), hr]
  dsimp only
  cases r.purpose <;> rfl

theorem Dev.ackTimeout_of_frozen {v : Dev} (hf : v.ft.frozen = true) (die i : Nat) : v.ackTimeout die i = v := if_pos hf

/-- The registers of a die whose link set stands still, once it has given a request up. -/
theorem Dev.timedOut_settled {v : Dev} {die : Nat} (h : (v.fabD die).relink = false) (r : Req) :
    ((v.timedOut die r).fabD die).reqs = (v.fabD die).reqs.erase r ∧
    ∀ c n, r.purpose = .chunk c n → ((v.timedOut die r).fabD die).ceLost = (v.fabD die).ceLost ++ [(n, r.chip)] := by
  rw [Dev.timedOut_fabD, (Dev.dropReq_settled h r).2]
  exact ⟨(Fab.gaveUp_keeps _ r).2, fun c n hr => Fab.gaveUp_chunk hr _⟩

theorem Dev.timedOut_timeout (v : Dev) (die : Nat) (r : Req) : ((v.timedOut die r).fabD die).timeout = true := by
  rw [Dev.timedOut_fabD]
  exact (Fab.gaveUp_keeps _ r).1

/-- A load given up stops its context as one that is refused. -/
theorem Dev.load_timedOut {v : Dev} {die : Nat} (h : (v.fabD die).relink = false) {r : Req} {c x a size : Nat} {uns : Bool} {rd : Nat} {by_ : Bool}
    {nx : W64} (hr : r.purpose = .sclLoad c x) (hw : (v.ctx c x).wait = .load a size uns rd by_ nx) : let w := (v.timedOut die r).refusedReq r
    (w.fabD die).reqs = (v.fabD die).reqs.erase r ∧ (w.fabD die).timeout = true ∧ (w.ctx c x).state = .faulted ∧ (w.ctx c x).cause = 5 := by
  have hctx := (Dev.timedOut_within h r).ctx_eq (by decide) c x
  dsimp only
  rw [Dev.refusedReq_sclLoad hr (hctx ▸ hw), Dev.sclFault_ctx, (Dev.sclFault_within _ _ _ _ _).fabD_eq (by decide)]
  exact ⟨(Dev.timedOut_settled h r).1, v.timedOut_timeout die r, rfl, rfl⟩

/-- Settles O47: each command by its equation, and each sender by what it is left with once its request is off the list. -/
theorem fabricResponsesComplete : Obligations.FabricResponsesComplete := by
  intro d port p s v gone
  refine ⟨fun ho hi => ⟨fun e r hg hm => ?readData, fun e r hg hm => ?wack, fun e r hg hm => ?error⟩, fun i r hf hr => ?timeout,
    fun hf i => ?frozen⟩
  case readData =>
    have hexec := exec_readData_answers ho hi hg hm
    exact ⟨hexec, fun hl => ⟨fun _ _ _ _ hr => ⟨_, hexec, Dev.burst_answered hl hr _⟩,
      fun _ _ _ hr hasked => ⟨_, hexec, Dev.sealWord_answered hl hr hasked _⟩, fun _ _ _ _ _ _ _ _ hr hw => ⟨_, hexec, Dev.load_answered hl hr hw _⟩⟩⟩
  case wack =>
    have hexec := exec_wack_answers ho hi hg hm
    refine ⟨hexec, fun hl => ⟨fun c n off len hr => ?_, fun _ _ _ hr => ⟨_, hexec, Dev.store_acked hl hr⟩,
      fun _ _ hr => ⟨_, hexec, Dev.chunk_acked hl hr⟩⟩⟩
    obtain ⟨u, hu, hacked⟩ := Dev.write_acked hl hr
    exact ⟨u, hu ▸ hexec, hacked⟩
  case error =>
    have hexec := exec_error_answers ho hi hg hm
    refine ⟨hexec, fun hl => ⟨fun _ _ _ _ _ _ _ _ hr hw => ⟨_, hexec, Dev.load_refused hl hr hw⟩,
      fun _ _ _ hr hbusy => ⟨_, hexec, Dev.store_refused hl hr hbusy⟩, fun c n off piece hr hrun hb => ?_,
      fun _ _ hr => ⟨_, hexec, Dev.chunk_refused hl hr⟩⟩⟩
    obtain ⟨u, hu, hrefused⟩ := Dev.read_refused hl hr hrun hb
    exact ⟨u, hu ▸ hexec, hrefused⟩
  case timeout =>
    have hexec : exec (.ackTimeout d i) s = .next (s.ends ((v.timedOut d r).refusedReq r).releaseHeld) :=
      congrArg (fun w => Host.Outcome.next (s.ends w)) (Dev.ackTimeout_refuses hf hr)
    exact ⟨⟨_, hexec, v.timedOut_timeout d r, fun hl => Dev.timedOut_settled hl r⟩,
      fun _ _ _ _ _ _ _ _ hr hw hl => ⟨_, hexec, Dev.load_timedOut hl hr hw⟩⟩
  case frozen => exact congrArg Host.Outcome.next ((congrArg s.ends (Dev.ackTimeout_of_frozen hf d i)).trans s.ends_self)

end Sys2Proof.Machine

/-! The SE streams' operations on stack memory (12): how an entry of them starts, what a reduction and a merge write, and from them O41. -/

namespace Sys2Proof.Machine

/-! ### Entries of an SE stream (R433, R438) -/

/-- Entry idx of stream k is in flight with every source read. -/
def Dev.inFlightRead (w : Dev) (k idx : Nat) (ws : List W64) : Prop :=
  ∃ f ∈ (w.strm k).flights, f.idx = idx ∧ f.words = ws ∧ f.wait = .none ∧ f.srcDone = true

theorem Dev.started_inFlightRead (v : Dev) (k : Nat) {f : Flight} (empty : Bool) (hw : f.wait = .none) (hs : (f.srcDone || empty) = true) :
    (v.started k f empty).inFlightRead k f.idx f.words := ⟨_, v.mem_started_flights k f empty, rfl, rfl, hw, hs⟩

/-- Nothing stands in the way of an entry on these extents: no Moult is active, no write held, no map rebuild fills the stacks, no queue of
theirs is full and no byte of theirs meets a path error. -/
def Dev.clear (v : Dev) (es : List (Nat × Nat)) : Prop := v.moult.active = false ∧ v.moult.held = [] ∧ v.hbm.busy = false ∧
  ∀ e ∈ es, 0 < e.2 → v.pathAt e.1 e.2 = none ∧ v.queueFull e.1 e.2 = false

theorem Dev.clear.holdsNone {v : Dev} {es : List (Nat × Nat)} (h : v.clear es) : v.holdsNone := ⟨h.1, h.2.2.1⟩

section
variable {v : Dev} {k op : Nat} {ws : List W64} {empty noSource : List W64 → Bool} {touch : List W64 → List (Nat × Nat)}
  {act : Dev → Nat → List W64 → Dev} (h : v.startable k op = some ws)
include h

theorem Dev.seRun_empty (he : empty ws = true) : v.seRun k op empty noSource touch act =
    (v.started k { idx := (v.strm k).next, words := ws } true).nextHead k := by
  unfold Dev.seRun
  rw [h]
  exact if_pos he

/-- An entry that nothing stands in the way of does its work and starts, every source read; what errors of its reads have been corrected is
counted first, and bears on no task (R416). -/
theorem Dev.seRun_leaves (he : empty ws = false) (hc : v.clear (touch ws)) {m : Mem}
    (hact : ∀ u, v.SameTasks u → u.holdsNone → (act u (v.strm k).next ws).hbm.mem = m) : ∃ w : Dev,
      v.seRun k op empty noSource touch act = w.nextHead k ∧ w.hbm.mem = m ∧ w.inFlightRead k (v.strm k).next ws := by
  obtain ⟨-, hheld, hbusy, hes⟩ := id hc
  have hu := Dev.SameTasks.forAll (fun u (e : Nat × Nat) => u.softErrs_sameTasks e.1 e.2) ((touch ws).filter (fun e => decide (0 < e.2))) v
  have hextent : ∀ e ∈ (touch ws).filter (fun e => decide (0 < e.2)), v.pathAt e.1 e.2 = none ∧ v.queueFull e.1 e.2 = false := fun e hmem => by
    obtain ⟨hin, hpos⟩ := List.mem_filter.mp hmem
    exact hes e hin (of_decide_eq_true hpos)
  have hfree : ((touch ws).filter (fun e => decide (0 < e.2))).any (fun e => v.heldIn e.1 e.2 || v.queueFull e.1 e.2) = false :=
    List.any_eq_false.mpr fun e hmem => by simp [Dev.heldIn_of_none hheld, (hextent e hmem).2]
  have hpath : ((touch ws).filter (fun e => decide (0 < e.2))).findSome? (fun e => v.pathAt e.1 e.2) = none :=
    List.findSome?_eq_none_iff.mpr fun e hmem => (hextent e hmem).1
  refine ⟨_, ?_, ((Dev.started_within _ k { idx := (v.strm k).next, words := ws, srcDone := true } (noSource ws)).mem_eq (by decide)).trans
    (hact _ hu (hu.holdsNone hc.holdsNone)), Dev.started_inFlightRead _ k _ rfl rfl⟩
  unfold Dev.seRun
  rw [h]
  simp only [he, hbusy, hfree, hpath, Bool.or_self, Bool.false_eq_true, if_false]

end

/-- Bytes written are read back, and every other byte is as it was. -/
theorem Dev.wrote_of_mem {v w : Dev} {a : Nat} {bs : List Byte} (h : w.hbm.mem = mwrite v.hbm.mem a bs) :
    w.stk8 a bs.length = bs ∧ ∀ b, (b < a ∨ a + bs.length ≤ b) → mget w.hbm.mem b = mget v.hbm.mem b := by
  refine ⟨?_, fun b hb => ?_⟩
  · rw [Dev.stk8, h, mread_mwrite]
  · rw [h, mget_mwrite_outside _ _ _ hb]

/-! ### Statistics records (R229) -/

/-- Stack memory once a report has been merged into the record at r. -/
def mergeRecord (m : Mem) (r : Nat) (st : Stats) : Mem := mwrite m r (wordsToBytes (mergeStats (bytesToWords 8 (mread m r 64)) st))

theorem wordsToBytes_mergeStats_length (ws : List W64) (st : Stats) : (wordsToBytes (mergeStats ws st)).length = 64 := by
  rw [wordsToBytes_length, mergeStats_length]

theorem recWords_mergeRecord (m : Mem) (r : Nat) (st : Stats) :
    bytesToWords 8 (mread (mergeRecord m r st) r 64) = mergeStats (bytesToWords 8 (mread m r 64)) st := by
  have hread := mread_mwrite m r (wordsToBytes (mergeStats (bytesToWords 8 (mread m r 64)) st))
  rw [wordsToBytes_mergeStats_length] at hread
  rw [mergeRecord, hread]
  exact bytesToWords_wordsToBytes (mergeStats _ st)

theorem mget_mergeRecord_outside (m : Mem) {r b : Nat} (st : Stats) (h : b < r ∨ r + 64 ≤ b) : mget (mergeRecord m r st) b = mget m b :=
  mget_mwrite_outside _ _ _ (by rwa [wordsToBytes_mergeStats_length])

theorem mread_mergeRecord_outside (m : Mem) {r a n : Nat} (st : Stats) (h : a + n ≤ r ∨ r + 64 ≤ a) : mread (mergeRecord m r st) a n = mread m a n :=
  mread_mwrite_outside _ _ _ (by rwa [wordsToBytes_mergeStats_length])

theorem Dev.submit_merge_mem {v : Dev} (h : v.holdsNone) (r : Nat) (st : Stats) (req : Nat) (owner : Option Owner) :
    (v.submit (.merge r st) req owner).hbm.mem = mergeRecord v.hbm.mem r st := (Dev.submit_now (h.mustHold _) req owner).1

/-! ### Reductions (R434, R459, R460) -/

theorem Dev.stk8_congr {v w : Dev} (h : w.hbm.mem = v.hbm.mem) (a n : Nat) : w.stk8 a n = v.stk8 a n := by rw [Dev.stk8, h, Dev.stk8]

theorem Dev.reduceFrom_congr {v w : Dev} (h : w.hbm.mem = v.hbm.mem) (o : SeOps) (n : Nat) (is : List Nat) (acc : List Byte) :
    w.reduceFrom o n is acc = v.reduceFrom o n is acc := by
  induction is generalizing acc with
  | nil => rfl
  | cons i r ih => rw [Dev.reduceFrom, Dev.reduceFrom, ih, Dev.stk8_congr h]

theorem Dev.reduced_congr {v w : Dev} (h : w.hbm.mem = v.hbm.mem) (o : SeOps) : w.reduced o = v.reduced o := by
  simp only [Dev.reduced, Dev.reduceFrom_congr h, Dev.stk8_congr h]

theorem Dev.reduceFrom_length (v : Dev) (o : SeOps) (n : Nat) (is : List Nat) {acc : List Byte} (h : acc.length = n * elBytes o.ty) :
    (v.reduceFrom o n is acc).length = n * elBytes o.ty := by
  induction is generalizing acc with
  | nil => exact h
  | cons i r ih => exact ih (elZip_length _ _ _ _ _)

theorem canonBytes_length (ty n : Nat) (bs : List Byte) : (canonBytes ty n bs).length = n * elBytes ty := by
  simp [canonBytes, List.length_flatten, Function.comp_def, toBytes_length]

theorem Dev.reduced_length (v : Dev) (o : SeOps) : (v.reduced o).length = o.n * elBytes o.ty := by
  unfold Dev.reduced
  dsimp only
  split
  · exact canonBytes_length _ _ _
  · exact v.reduceFrom_length o o.n _ (mread_length _ _ _)

/-- Stack memory once the results of a reduction stand at its destination. -/
def Dev.reducedMem (v : Dev) (o : SeOps) : Mem := mwrite v.hbm.mem o.dst.toNat (v.reduced o)

/-- Stack memory with the partial of a reduction at AUX too, where it has one (R460). -/
def Dev.partialMem (v : Dev) (norm : Bool) (o : SeOps) : Mem :=
  if norm then mwrite (v.reducedMem o) o.aux.toNat (toBytes (fp64.enc (normPartial (elNums 0 o.n (v.reduced o)))) 8) else v.reducedMem o

theorem Dev.partialMem_congr {v w : Dev} (h : w.hbm.mem = v.hbm.mem) (norm : Bool) (o : SeOps) : w.partialMem norm o = v.partialMem norm o := by
  simp only [Dev.partialMem, Dev.reducedMem, h, Dev.reduced_congr h]

/-- A reduction that nothing holds back writes its results, its partial, and the report where it has statistics. -/
theorem Dev.seReduce_mem {v : Dev} (h : v.holdsNone) (norm : Bool) (k idx : Nat) (ws : List W64) : let o := decSe ws
    (v.seReduce norm k idx ws).hbm.mem = if o.statEn then
      mergeRecord (v.partialMem norm o) o.statrec.toNat (plainStats (elNums o.ty o.n (v.reduced o))) else v.partialMem norm o := by
  intro o
  have hkeep : ∀ (u : Dev) (a : Nat) (bs : List Byte) (req : Nat) (owner : Option Owner), u.holdsNone → (u.stackWrite a bs req owner).holdsNone :=
    fun u a bs req owner => (u.stackWrite_within a bs req owner).holdsNone (by decide) (by decide)
  have hpartial : ∀ u : Dev, u.holdsNone → u.hbm.mem = v.reducedMem o →
      let w := if norm then u.stackWrite o.aux.toNat (toBytes (fp64.enc (normPartial (elNums 0 o.n (v.reduced o)))) 8) (strmSrc k)
        (some (.entry k idx)) else u
      w.holdsNone ∧ w.hbm.mem = v.partialMem norm o := fun u hu hmem => by
    cases norm with
    | true => exact ⟨hkeep _ _ _ _ _ hu, (Dev.stackWrite_mem hu _ _ _ _).trans (by rw [hmem]; rfl)⟩
    | false => exact ⟨hu, hmem⟩
  obtain ⟨hnone, hmem⟩ := hpartial _ (hkeep v o.dst.toNat (v.reduced o) (strmSrc k) (some (.entry k idx)) h)
    (Dev.stackWrite_mem h _ _ _ _)
  unfold Dev.seReduce
  dsimp only
  split
  · rw [Dev.submit_merge_mem hnone, hmem]
  · exact hmem

section
variable (v : Dev) {o : SeOps}

theorem Dev.reducedMem_read : mread (v.reducedMem o) o.dst.toNat (o.n * elBytes o.ty) = v.reduced o := by
  rw [← v.reduced_length o]
  exact mread_mwrite _ _ _

theorem Dev.mread_reducedMem_outside {a n : Nat} (h : a + n ≤ o.dst.toNat ∨ o.dst.toNat + o.n * elBytes o.ty ≤ a) :
    mread (v.reducedMem o) a n = mread v.hbm.mem a n := mread_mwrite_outside _ _ _ (by rwa [v.reduced_length o])

theorem Dev.mget_reducedMem_outside {b : Nat} (h : b < o.dst.toNat ∨ o.dst.toNat + o.n * elBytes o.ty ≤ b) :
    mget (v.reducedMem o) b = mget v.hbm.mem b := mget_mwrite_outside _ _ _ (by rwa [v.reduced_length o])

end

/-- What a reduction without a partial leaves, its record apart from its destination. -/
theorem Dev.reduced_of_mem {v w : Dev} {o : SeOps} (hm : w.hbm.mem = if o.statEn then
      mergeRecord (v.reducedMem o) o.statrec.toNat (plainStats (elNums o.ty o.n (v.reduced o))) else v.reducedMem o)
    (hapart : o.statEn = true → o.statrec.toNat + 64 ≤ o.dst.toNat ∨ o.dst.toNat + o.n * elBytes o.ty ≤ o.statrec.toNat) :
    w.stk8 o.dst.toNat (o.n * elBytes o.ty) = v.reduced o ∧
    (o.statEn = true → w.recWords o.statrec.toNat 8 = mergeStats (v.recWords o.statrec.toNat 8) (plainStats (elNums o.ty o.n (v.reduced o)))) ∧
    ∀ b, (b < o.dst.toNat ∨ o.dst.toNat + o.n * elBytes o.ty ≤ b) → (o.statEn = true → b < o.statrec.toNat ∨ o.statrec.toNat + 64 ≤ b) →
      mget w.hbm.mem b = mget v.hbm.mem b := by
  rw [Dev.recWords, Dev.stk8, Dev.stk8, hm]
  split
  · next hs =>
    have hdisjoint := hapart hs
    refine ⟨?_, fun _ => ?_, fun b hb hr => ?_⟩
    · rw [mread_mergeRecord_outside _ _ (by omega), v.reducedMem_read]
    · rw [recWords_mergeRecord, v.mread_reducedMem_outside (by omega)]
      rfl
    · rw [mget_mergeRecord_outside _ _ (hr hs), v.mget_reducedMem_outside hb]
  · next hs => exact ⟨v.reducedMem_read, fun h => absurd h hs, fun b hb _ => v.mget_reducedMem_outside hb⟩

/-! ### The commands -/

/-- An entry of each opcode that is empty starts at once. -/
theorem exec_se_empty {j : StackId} {s : State} {ws : List W64} (hn : (decSe ws).n = 0) :
    ∀ x ∈ [(Instr.seFill j, 0x10), (.seCopy j, 0x11), (.seReduce j, 0x12), (.seDigest j, 0x13), (.seStat j, 0x14)],
      s.dev.startable (146 + j.val) x.2 = some ws →
      exec x.1 s = .next (s.ends ((s.dev.started (146 + j.val) { idx := (s.dev.strm (146 + j.val)).next, words := ws } true).nextHead (146 + j.val))) := by
  have hrun : ∀ {op : Nat} {noSource : List W64 → Bool} {touch : List W64 → List (Nat × Nat)} {act : Dev → Nat → List W64 → Dev},
      s.dev.startable (146 + j.val) op = some ws →
      Host.Outcome.next (s.ends (s.dev.seRun (146 + j.val) op (fun ws => (decSe ws).n = 0) noSource touch act)) =
        (.next (s.ends ((s.dev.started (146 + j.val) { idx := (s.dev.strm (146 + j.val)).next, words := ws } true).nextHead (146 + j.val))) :
          Host.Outcome State Fault Refusal) :=
    fun h => congrArg (fun w => Host.Outcome.next (s.ends w)) (Dev.seRun_empty h (decide_eq_true hn))
  simp only [List.forall_mem_cons]
  exact ⟨hrun, hrun, hrun, hrun, hrun, fun _ h => absurd h List.not_mem_nil⟩

section
variable {v : Dev} {k : Nat} {ws : List W64} (hn : (decSe ws).n ≠ 0)
include hn

/-- SE_FILL writes its pattern (Table 12.8). -/
theorem Dev.seFill_writes (h : v.startable k 0x10 = some ws) (hc : v.clear [((decSe ws).dst.toNat, (decSe ws).n)]) : ∃ w : Dev,
    v.seFill k = w.nextHead k ∧ w.hbm.mem = mwrite v.hbm.mem (decSe ws).dst.toNat (fillBytes (decSe ws).aux (decSe ws).dst.toNat (decSe ws).n) ∧
      w.inFlightRead k (v.strm k).next ws :=
  Dev.seRun_leaves h (decide_eq_false hn) hc fun _ hu hnone => (Dev.stackWrite_mem hnone _ _ _ _).trans (by rw [hu.mem])

/-- SE_COPY writes its source (Table 12.8). -/
theorem Dev.seCopy_writes (h : v.startable k 0x11 = some ws)
    (hc : v.clear [((decSe ws).src.toNat, (decSe ws).n), ((decSe ws).dst.toNat, (decSe ws).n)]) : ∃ w : Dev, v.seCopy k = w.nextHead k ∧
      w.hbm.mem = mwrite v.hbm.mem (decSe ws).dst.toNat (v.stk8 (decSe ws).src.toNat (decSe ws).n) ∧ w.inFlightRead k (v.strm k).next ws :=
  Dev.seRun_leaves h (decide_eq_false hn) hc fun _ hu hnone => (Dev.stackWrite_mem hnone _ _ _ _).trans (by rw [hu.mem, Dev.stk8_congr hu.mem])

/-- SE_DIGEST writes the digests of its source (R435). -/
theorem Dev.seDigest_writes (h : v.startable k 0x13 = some ws)
    (hc : v.clear [((decSe ws).src.toNat, (decSe ws).n), ((decSe ws).aux.toNat, 32 * (decSe ws).chunks + 32 * b2n (decSe ws).flag)]) :
    ∃ w : Dev, v.seDigest k = w.nextHead k ∧
      w.hbm.mem = mwrite v.hbm.mem (decSe ws).aux.toNat (digestBytes (decSe ws) (v.stk8 (decSe ws).src.toNat (decSe ws).n)) ∧
      w.inFlightRead k (v.strm k).next ws :=
  Dev.seRun_leaves h (decide_eq_false hn) hc fun _ hu hnone => (Dev.stackWrite_mem hnone _ _ _ _).trans (by rw [hu.mem, Dev.stk8_congr hu.mem])

/-- SE_STAT merges its report, read under the scale record's format, into its record (R436). -/
theorem Dev.seStat_merges (h : v.startable k 0x14 = some ws)
    (hc : v.clear [((decSe ws).src.toNat, (decSe ws).n * elBytes (decSe ws).ty), ((decSe ws).statrec.toNat, 64), ((decSe ws).aux.toNat, 128)]) :
    ∃ w : Dev, v.seStat k = w.nextHead k ∧ w.hbm.mem = mergeRecord v.hbm.mem (decSe ws).statrec.toNat (seStats (v.scaleRec (decSe ws).aux.toNat)
        (elNums (decSe ws).ty (decSe ws).n (v.stk8 (decSe ws).src.toNat ((decSe ws).n * elBytes (decSe ws).ty)))) ∧
      w.inFlightRead k (v.strm k).next ws := by
  refine Dev.seRun_leaves h (decide_eq_false hn) hc fun u hu hnone => (Dev.submit_merge_mem hnone _ _ _ _).trans ?_
  obtain ⟨-, hheld, -⟩ := hc
  have hscale : u.scaleRec (decSe ws).aux.toNat = v.scaleRec (decSe ws).aux.toNat := by
    rw [Dev.scaleRec, Dev.stkSeen_of_none_held (by rw [hu.moult, hheld]), Dev.stk8_congr hu.mem, ← Dev.stkSeen_of_none_held hheld, Dev.scaleRec]
  rw [hu.mem, hscale, Dev.stk8_congr hu.mem]

end

/-- A reduction that runs leaves the memory of its results, of its partial, and of its report (R434, R460). -/
theorem Dev.seRun_reduces {v : Dev} {k op : Nat} {ws : List W64} {empty noSource : List W64 → Bool} {touch : List W64 → List (Nat × Nat)}
    {act : Dev → Nat → List W64 → Dev} {norm : Bool} (h : v.startable k op = some ws) (he : empty ws = false) (hc : v.clear (touch ws))
    (hact : ∀ u idx, act u idx ws = u.seReduce norm k idx ws) : let o := decSe ws
    ∃ w : Dev, v.seRun k op empty noSource touch act = w.nextHead k ∧ (w.hbm.mem = if o.statEn then
        mergeRecord (v.partialMem norm o) o.statrec.toNat (plainStats (elNums o.ty o.n (v.reduced o))) else v.partialMem norm o) ∧
      w.inFlightRead k (v.strm k).next ws := by
  refine Dev.seRun_leaves h he hc fun u hu hnone => ?_
  rw [hact, Dev.seReduce_mem hnone, Dev.reduced_congr hu.mem, Dev.partialMem_congr hu.mem]

/-- Settles O41: an empty entry starts at once, and any other does the one piece of work of its opcode. -/
theorem seOperationsComplete : Obligations.SeOperationsComplete := by
  intro j s ws k o len fine inFlight
  have hexec : ∀ {c : Instr} {v w : Dev}, exec c s = .next (s.ends v) → v = w.nextHead k → exec c s = .next (s.ends (w.nextHead k)) :=
    fun he hw => he.trans (congrArg (fun w => Host.Outcome.next (s.ends w)) hw)
  refine ⟨fun x hx h hn => ⟨_, exec_se_empty hn x hx h, (Dev.started_within _ _ _ _).hbm_eq (by decide),
    Dev.started_inFlightRead _ k true rfl rfl⟩, ?writes, fun h hn hc hapart => ?reduce, fun h hn hc => ?stat⟩
  case writes =>
    have hwrites : ∀ {c : Instr} {v : Dev} {a : Nat} {bs : List Byte}, exec c s = .next (s.ends v) →
        (∃ w : Dev, v = w.nextHead k ∧ w.hbm.mem = mwrite s.dev.hbm.mem a bs ∧ w.inFlightRead k (s.dev.strm k).next ws) →
        ∃ w : Dev, exec c s = .next (s.ends (w.nextHead k)) ∧ w.stk8 a bs.length = bs ∧
          (∀ b, (b < a ∨ a + bs.length ≤ b) → mget w.hbm.mem b = mget s.dev.hbm.mem b) ∧ inFlight w := fun he hrun => by
      obtain ⟨w, hw, hmem, hflight⟩ := hrun
      obtain ⟨hread, hframe⟩ := Dev.wrote_of_mem hmem
      exact ⟨w, hexec he hw, hread, hframe, hflight⟩
    simp only [List.forall_mem_cons]
    exact ⟨fun h hn hc => hwrites rfl (Dev.seFill_writes hn h hc), fun h hn hc => hwrites rfl (Dev.seCopy_writes hn h hc),
      fun h hn hc => hwrites rfl (Dev.seDigest_writes hn h hc), fun _ h => absurd h List.not_mem_nil⟩
  case reduce =>
    obtain ⟨w, hw, hmem, hflight⟩ := Dev.seRun_reduces (norm := false) (empty := fun ws => (decSe ws).n = 0) (noSource := fun _ => false)
      (act := fun u idx ws => u.seReduce false k idx ws) h (decide_eq_false hn) hc fun _ _ => rfl
    obtain ⟨hread, hrecord, hframe⟩ := Dev.reduced_of_mem hmem hapart
    exact ⟨w, hexec rfl hw, hread, hrecord, hframe, hflight⟩
  case stat =>
    obtain ⟨w, hw, hmem, hflight⟩ := Dev.seStat_merges hn h hc
    refine ⟨w, hexec rfl hw, ?_, fun b hb => ?_, hflight⟩
    · rw [Dev.recWords, Dev.stk8, hmem]
      exact recWords_mergeRecord _ _ _
    · rw [hmem, mget_mergeRecord_outside _ _ hb]

end Sys2Proof.Machine

/-! Update entries (13): what the course of an access depends on, how an entry of them comes to its tasks, its skip or its version slot, and from
them O42. -/

namespace Sys2Proof.Machine

/-! ### What the course of an access depends on -/

/-- What decides the course of an access, the bytes of the stacks apart, reads the same in both: the map, the grains that meet errors, the
channels' queues, the held writes, and whether units issue. -/
structure Dev.SameWays (v w : Dev) : Prop where
  busy : w.hbm.busy = v.hbm.busy
  usable : w.hbm.usable = v.hbm.usable
  chanOf : w.hbm.chanOf = v.hbm.chanOf
  bad : w.hbm.stkBad = v.hbm.stkBad
  queue : ∀ c, (w.chan c).queue = (v.chan c).queue
  failed : ∀ c, (w.chan c).failed = (v.chan c).failed
  moult : w.moult = v.moult
  issue : w.issueOk = v.issueOk

theorem Dev.SameWays.refl (v : Dev) : v.SameWays v := ⟨rfl, rfl, rfl, rfl, fun _ => rfl, fun _ => rfl, rfl, rfl⟩
theorem Dev.SameWays.trans {u v w : Dev} (h : u.SameWays v) (g : v.SameWays w) : u.SameWays w :=
  ⟨g.busy.trans h.busy, g.usable.trans h.usable, g.chanOf.trans h.chanOf, g.bad.trans h.bad, fun c => (g.queue c).trans (h.queue c),
    fun c => (g.failed c).trans (h.failed c), g.moult.trans h.moult, g.issue.trans h.issue⟩
theorem Dev.SameWays.forAll {α : Type} {f : Dev → α → Dev} (h : ∀ (u : Dev) (x : α), u.SameWays (f u x)) (xs : List α) (v : Dev) :
    v.SameWays (v.forAll xs f) := by
  induction xs generalizing v with
  | nil => exact Dev.SameWays.refl v
  | cons x r ih => exact (h v x).trans (ih (f v x))

/-- What changes neither the stacks, nor the Moult, nor the power state leaves the course of every access. -/
theorem Dev.Within.sameWays {F : List Part} {v w : Dev} (h : Dev.Within F v w) (hmoult : w.moult = v.moult)
    (hp : ∀ p ∈ [Part.stackMem, .channels, .stackRegs, .map], p ∉ F) (hpower : Part.power ∉ F) : v.SameWays w := by
  have hhbm := h.hbm_eq hp
  have hchan : ∀ c, w.chan c = v.chan c := fun c => by rw [Dev.chan, hhbm, Dev.chan]
  exact ⟨by rw [hhbm], by rw [hhbm], by rw [hhbm], by rw [hhbm], fun c => by rw [hchan], fun c => by rw [hchan], hmoult, h.issueOk_eq hpower⟩

theorem Dev.modStk_sameWays (v : Dev) (k : Nat) (g : Stack → Stack) : v.SameWays (v.modStk k g) :=
  ⟨rfl, rfl, rfl, rfl, fun _ => rfl, fun _ => rfl, rfl, rfl⟩

/-- The bytes of the stacks decide no course. -/
theorem Dev.stkPut_sameWays (v : Dev) (a : Nat) (bs : List Byte) : v.SameWays (v.stkPut a bs) :=
  ⟨rfl, rfl, rfl, rfl, fun _ => rfl, fun _ => rfl, rfl, rfl⟩

theorem Dev.setVslot_sameWays (v : Dev) (a i : Nat) (q : VSlot) : v.SameWays (v.setVslot a i q) := by
  unfold Dev.setVslot
  exact v.stkPut_sameWays _ _

/-- Corrected errors are counted, and bear on no access (R416). -/
theorem Dev.softErrs_sameWays (v : Dev) (a n : Nat) : v.SameWays (v.softErrs a n) := by
  have hcorr : ∀ (u : Dev) (c : Nat), u.SameWays (u.modChan c (fun q => { q with corr := satAdd q.corr 1 65535 })) := fun u c => by
    refine ⟨rfl, rfl, rfl, rfl, fun x => (u.modChan_corr_sameTasks c 65535).queue x, fun x => ?_, rfl, rfl⟩
    by_cases hx : x = c
    · rw [hx, Dev.chan_modChan_same]
    · rw [Dev.chan_modChan_ne _ _ _ hx]
  unfold Dev.softErrs
  dsimp only
  generalize (if n = 0 then [] else v.hbm.stkSoft.filter _) = gs
  split
  · exact Dev.SameWays.refl v
  · have hsoft : v.SameWays (v.modHbm (fun h => { h with stkSoft := h.stkSoft.filter (fun g => !gs.contains g) })) :=
      ⟨rfl, rfl, rfl, rfl, fun _ => rfl, fun _ => rfl, rfl, rfl⟩
    exact hsoft.trans (Dev.SameWays.forAll (fun u g => hcorr u (u.hbm.chanOf (g * 64))) gs _)

theorem Dev.started_moult (v : Dev) (k : Nat) (f : Flight) (empty : Bool) : (v.started k f empty).moult = v.moult := by
  have hsent : ∀ (u : Dev) (ids : List Nat), (u.sendSignals ids).moult = u.moult := fun u ids => by
    have hall : (u.forAll ids Dev.sendSignal).moult = u.moult := Dev.forAll_keeps Dev.moult (f := Dev.sendSignal) (fun _ _ => rfl) ids u
    unfold Dev.sendSignals
    dsimp only
    split
    · split
      · exact hall
      · exact hall
    · exact hall
  unfold Dev.started
  dsimp only
  split
  · rw [hsent]
    rfl
  · rfl

theorem Dev.started_sameWays (v : Dev) (k : Nat) (f : Flight) (empty : Bool) : v.SameWays (v.started k f empty) :=
  (v.started_within k f empty).sameWays (v.started_moult k f empty) (by decide) (by decide)

section
variable {v w : Dev} (h : v.SameWays w)
include h

theorem Dev.SameWays.pathAt_eq (a n : Nat) : w.pathAt a n = v.pathAt a n := by
  simp only [Dev.pathAt, h.usable, h.chanOf, h.failed, h.bad]

theorem Dev.SameWays.slots_eq (c : Nat) : w.slots c = v.slots c := by rw [Dev.slots, h.queue, h.moult, h.chanOf, Dev.slots]

end

/-! ### Queues (R426) -/

/-- Every channel of a byte of the stacks has a slot left in its queue. -/
def Dev.roomy (v : Dev) : Prop := ∀ g, v.slots (v.hbm.chanOf (g * 64)) < 64

theorem Dev.SameWays.roomy {v w : Dev} (h : v.SameWays w) (hv : v.roomy) : w.roomy := fun g => by
  rw [h.slots_eq, h.chanOf]
  exact hv g

theorem Dev.queueFull_of_roomy {v : Dev} (h : v.roomy) (a n : Nat) : v.queueFull a n = false := by
  have hany : (List.range ((a + n - 1) / 64 + 1 - a / 64)).any (fun i => decide (64 ≤ v.slots (v.hbm.chanOf ((a / 64 + i) * 64)))) = false :=
    List.any_eq_false.mpr fun i _ => by simpa using h (a / 64 + i)
  rw [Dev.queueFull, hany, Bool.and_false]

theorem le_foldl_add (xs : List Nat) {x : Nat} (hx : x ∈ xs) : x ≤ xs.foldl (fun a b => a + b) 0 := by
  rw [← List.sum_eq_foldl]
  exact List.le_sum_of_mem hx

/-- An entry of a table has the default value, or stands in it. -/
theorem tget_default_or_mem {α : Type} (d : α) (t : Tab α) (k : Nat) : tget d t k = d ∨ ∃ e ∈ t, e.2 = tget d t k := by
  induction t with
  | nil => exact .inl rfl
  | cons e r ih =>
    unfold tget
    split
    · exact .inr ⟨e, List.mem_cons_self, rfl⟩
    · obtain hd | ⟨x, hx, hget⟩ := ih
      · exact .inl hd
      · exact .inr ⟨x, List.mem_cons_of_mem e hx, hget⟩

/-- The queue of a channel is no longer than all the queues together. -/
theorem Dev.queue_le (v : Dev) (c : Nat) : (v.chan c).queue.length ≤ (v.hbm.chans.map (fun e => e.2.queue.length)).foldl (fun a b => a + b) 0 := by
  obtain hd | ⟨e, he, hget⟩ := tget_default_or_mem {} v.hbm.chans c
  · rw [Dev.chan, hd]
    exact Nat.zero_le _
  · rw [Dev.chan, ← hget]
    exact le_foldl_add _ (List.mem_map.mpr ⟨e, he, rfl⟩)

/-- Where no access finds a full queue, every channel has a slot left. -/
theorem Dev.roomy_of_queueFull {v : Dev} (hheld : v.moult.held = []) (h : ∀ a n, v.queueFull a n = false) : v.roomy := fun g => by
  have hslots : v.slots (v.hbm.chanOf (g * 64)) = (v.chan (v.hbm.chanOf (g * 64))).queue.length := by simp [Dev.slots, hheld]
  have hle := v.queue_le (v.hbm.chanOf (g * 64))
  have hone := h (g * 64) 1
  simp only [Dev.queueFull, hheld, Bool.and_eq_false_iff] at hone
  obtain (hn | hsum) | hany := hone
  · cases hn
  · have hsum := of_decide_eq_false hsum
    rw [List.length_nil] at hsum
    omega
  · have hgrain : g * 64 / 64 = g := Nat.mul_div_cancel g (by decide)
    have hslot := List.any_eq_false.mp hany 0 (List.mem_range.mpr (by omega))
    rw [hgrain, Nat.add_zero, decide_eq_true_eq] at hslot
    omega

/-! ### The records of an entry (R446, R447, R452) -/

/-- A read that the region check and its place let through changes nothing that the course of an access, or its bytes, depend on. -/
theorem Dev.rdGlobal_ok {v u : Dev} {die n req : Nat} {a : W64} {bs : List Byte} (h : v.rdGlobal die a n req = (.ok bs, u)) :
    v.SameWays u ∧ u.hbm.mem = v.hbm.mem := by
  have hself : v.SameWays v ∧ v.hbm.mem = v.hbm.mem := ⟨Dev.SameWays.refl v, rfl⟩
  unfold Dev.rdGlobal Dev.rdIssued Dev.rdModule at h
  split at h
  · cases h
  split at h
  · split at h <;> cases h
    exact hself
  split at h
  · split at h
    case h_1 x _ =>
      split at h <;> cases h
      exact ⟨v.softErrs_sameWays x n, v.softErrs_mem x n⟩
    case h_2 =>
      split at h
      · cases h
      · split at h <;> cases h
        exact hself
    case h_4 x _ =>
      split at h <;> cases h
      · exact hself
      · have hbad := v.syncBad_within die x
        exact ⟨hbad.sameWays rfl (by decide) (by decide), hbad.mem_eq (by decide)⟩
    all_goals cases h
  · cases h

theorem Dev.eOp_of_startable {v : Dev} {k op : Nat} {ws : List W64} (h : v.startable k op = some ws) : eOp ws = op := by
  unfold Dev.startable at h
  dsimp only at h
  split at h
  · cases h
  · split at h
    · next hcond =>
      cases h
      simp only [Bool.and_eq_true, decide_eq_true_eq] at hcond
      exact hcond.2
    · cases h

/-- Records of eight words, one behind the other, and what stands behind them. -/
theorem records_split {a b : List W64} (ha : a.length = 8) (hb : b.length = 8) (c : List W64) :
    (a ++ b ++ c).take 8 = a ∧ ((a ++ b ++ c).drop 8).take 8 = b ∧ (a ++ b ++ c).drop 16 = c := by
  refine ⟨?_, ?_, ?_⟩
  · rw [List.append_assoc, ← ha, List.take_left']
    rfl
  · rw [List.append_assoc, List.drop_left' ha, List.take_left' hb]
  · exact List.drop_left' (by simp [ha, hb])

/-- An update entry goes on in u with its flight f, its records read: what bears on its course, and the bytes, are as they were. -/
structure Dev.GoesOn (v u : Dev) (k : Nat) (ws : List W64) (f : Flight) : Prop where
  ways : v.SameWays u
  mem : u.hbm.mem = v.hbm.mem
  strms : u.strms = v.strms
  stk : ∀ j, u.stk j = v.stk j
  words : f.words = ws
  idx : f.idx = (v.strm k).next
  wait : f.wait = .none
  withdrawn : f.withdrawn = false
  part : f.part = false
  scale : recScale f = decScaleRec (v.recWords (decUpd ws).wcrec 8)
  hyper : eOp ws ≠ 0x25 → recHyper f = decHyper (v.recWords (decUpd ws).hyper 8)
  code : ¬(eOp ws = 0x23 ∧ ucodeBad (recCode f) = true)

/-- Nothing stands in the way of an update entry's start: it has groups, no Moult is active, no write is held, no map rebuild fills the
stacks, no engine queue is full, and its records meet no path error. -/
structure Dev.UpdClear (v : Dev) (op : Nat) (o : UpdOps) : Prop where
  groups : o.ngrp ≠ 0
  active : v.moult.active = false
  held : v.moult.held = []
  busy : v.hbm.busy = false
  queues : ∀ a n, v.queueFull a n = false
  records : ∀ e ∈ updRecs op o, v.pathAt e.1 e.2 = none

theorem Dev.updHeld_of_none {v : Dev} (h : v.moult.held = []) (f : Flight) : v.updHeld f = false :=
  List.any_eq_false.mpr fun e _ => by simp [Dev.heldIn_of_none h]

theorem Dev.stale_of_inactive {v : Dev} (h : v.moult.active = false) (p : Nat) : v.moult.stale p = false := by simp [Moult.stale, h]

section
variable {v : Dev} {k op : Nat} {ws : List W64} (h : v.startable k op = some ws) (hc : v.UpdClear op (decUpd ws))
include h hc

/-- The head's records are read, UPD_MICRO's program and UPD_WCOPY's free step too, and the entry goes on with them. -/
theorem Dev.updStart_goes : let o := decUpd ws
    let rs := v.recWords o.wcrec 8
    let hw := v.recWords o.hyper 8
    let f : Flight := { idx := (v.strm k).next, words := ws, step := fld (wd hw 5) 31 0, recs := hw ++ rs }
    (op ≠ 0x23 → op ≠ 0x25 → v.updStart k op = v.updGo k f) ∧
    (∀ code, op = 0x23 → (v.updCode k (decHyper hw)).1 = .ok code →
      v.updStart k op = (v.updCode k (decHyper hw)).2.updGo k { f with recs := f.recs ++ bytesToWords 32 code }) ∧
    (op = 0x25 → v.updStart k op = v.draw.2.updGo k
      { idx := (v.strm k).next, words := ws, step := v.draw.1.toNat % 2 ^ 32, recs := List.replicate 8 0#64 ++ rs }) := by
  intro o rs hw f
  obtain ⟨hgroups, hactive, hheld, hbusy, hqueues, hrecords⟩ := hc
  have hfree : (updRecs op (decUpd ws)).any (fun e => v.heldIn e.1 e.2) = false := List.any_eq_false.mpr fun e _ => by simp [Dev.heldIn_of_none hheld]
  have hpath : (updRecs op (decUpd ws)).findSome? (fun e => v.pathAt e.1 e.2) = none := List.findSome?_eq_none_iff.mpr hrecords
  have hwait : ∀ g : Flight, (v.updHeld g || (updTouch op (decUpd ws) (recScale g)).any (fun e => v.queueFull e.1 e.2)) = false := fun g => by
    simp [Dev.updHeld_of_none hheld, hqueues]
  unfold Dev.updStart
  simp only [h, hgroups, Dev.stale_of_inactive hactive, hbusy, hfree, hpath, hwait, Bool.and_false, Bool.or_self, Bool.false_eq_true, if_false]
  refine ⟨fun hmicro hwcopy => ?_, fun code hmicro hcode => ?_, fun hwcopy => ?_⟩
  · rw [if_neg hwcopy, if_neg hmicro, if_neg hwcopy]
  · have hwcopy : op ≠ 0x25 := by omega
    rw [if_neg hwcopy, if_pos hmicro, if_neg hwcopy]
    split
    · next heq =>
      have heq : v.updCode k (decHyper hw) = _ := heq
      rw [heq] at hcode ⊢
      cases hcode
      rfl
    all_goals
      next heq =>
        have heq : v.updCode k (decHyper hw) = _ := heq
        rw [heq] at hcode
        cases hcode
  · rw [if_pos hwcopy, if_pos hwcopy]

end

theorem Dev.recWords_length (v : Dev) (a n : Nat) : (v.recWords a n).length = n := bytesToWords_length _ _

section
variable {v u : Dev} {k : Nat} {ws : List W64}

/-- A flight carries the hyperparameters, the scale record's lower half and the microcode, in this order. -/
theorem Dev.goesOn_of_records (hways : v.SameWays u) (hmem : u.hbm.mem = v.hbm.mem) (hstrms : u.strms = v.strms) (hstk : ∀ j, u.stk j = v.stk j)
    (step : Nat) {hw code : List W64} (hlen : hw.length = 8) (hhyper : eOp ws ≠ 0x25 → hw = v.recWords (decUpd ws).hyper 8)
    (hcode : ¬(eOp ws = 0x23 ∧ ucodeBad (ucodeOf code) = true)) : v.GoesOn u k ws
      { idx := (v.strm k).next, words := ws, step := step, recs := hw ++ v.recWords (decUpd ws).wcrec 8 ++ code } := by
  obtain ⟨hfirst, hsecond, hrest⟩ := records_split hlen (v.recWords_length (decUpd ws).wcrec 8) code
  refine ⟨hways, hmem, hstrms, hstk, rfl, rfl, rfl, rfl, rfl, congrArg decScaleRec hsecond, fun h => ?_, ?_⟩
  · rw [recHyper, hfirst, hhyper h]
  · rwa [recCode, hrest]

theorem Dev.goesOn_read (hop : eOp ws ≠ 0x23) (step : Nat) : v.GoesOn v k ws
    { idx := (v.strm k).next, words := ws, step := step, recs := v.recWords (decUpd ws).hyper 8 ++ v.recWords (decUpd ws).wcrec 8 } := by
  rw [← List.append_nil (_ ++ _)]
  exact Dev.goesOn_of_records (Dev.SameWays.refl v) rfl rfl (fun _ => rfl) step (v.recWords_length _ _) (fun _ => rfl) fun h => hop h.1

theorem Dev.goesOn_code {code : List Byte} {h : Hyper} (hread : (v.updCode k h).1 = .ok code) (hlegal : ucodeBad (ucodeOf (bytesToWords 32 code)) = false)
    (step : Nat) : v.GoesOn (v.updCode k h).2 k ws
      { idx := (v.strm k).next, words := ws, step := step,
        recs := v.recWords (decUpd ws).hyper 8 ++ v.recWords (decUpd ws).wcrec 8 ++ bytesToWords 32 code } := by
  obtain ⟨hways, hmem⟩ := Dev.rdGlobal_ok (Prod.ext hread rfl : v.updCode k h = (.ok code, (v.updCode k h).2))
  have hframe := v.updCode_within k h
  exact Dev.goesOn_of_records hways hmem (hframe.strms_eq (by decide)) (fun j => hframe.stk_eq (by decide) j) step (v.recWords_length _ _) (fun _ => rfl)
    fun hbad => by simp [hlegal] at hbad

theorem Dev.goesOn_draw (hop : eOp ws = 0x25) (step : Nat) : v.GoesOn v.draw.2 k ws
    { idx := (v.strm k).next, words := ws, step := step, recs := List.replicate 8 0#64 ++ v.recWords (decUpd ws).wcrec 8 } := by
  rw [← List.append_nil (_ ++ _)]
  exact Dev.goesOn_of_records (v.draw_within.sameWays rfl (by decide) (by decide)) rfl rfl (fun _ => rfl) step List.length_replicate (fun h => absurd hop h)
    fun h => by omega

end

/-- Each opcode goes on with its flight. -/
theorem exec_update_goes {j : StackId} {s : State} {ws : List W64} (code : List Byte) : let v := s.dev
    let k := 146 + j.val
    let o := decUpd ws
    let idx := (v.strm k).next
    let rs := v.recWords o.wcrec 8
    let hw := v.recWords o.hyper 8
    let f0 : Flight := { idx := idx, words := ws, step := fld (wd hw 5) 31 0, recs := hw ++ rs }
    let fw : Flight := { idx := idx, words := ws, step := v.draw.1.toNat % 2 ^ 32, recs := List.replicate 8 0#64 ++ rs }
    ∀ x ∈ [(Instr.updAdamw j, 0x20, v, f0), (.updLion j, 0x21, v, f0), (.updSgdm j, 0x22, v, f0),
        (.updMicro j, 0x23, (v.updCode k (decHyper hw)).2, { f0 with recs := f0.recs ++ bytesToWords 32 code }), (.updWcopy j, 0x25, v.draw.2, fw)],
      v.startable k x.2.1 = some ws → v.UpdClear x.2.1 o →
      (x.2.1 = 0x23 → (v.updCode k (decHyper hw)).1 = .ok code ∧ ucodeBad (ucodeOf (bytesToWords 32 code)) = false) →
      exec x.1 s = .next (s.ends (x.2.2.1.updGo k x.2.2.2)) ∧ v.GoesOn x.2.2.1 k ws x.2.2.2 := by
  intro v k o idx rs hw f0 fw
  have hexec : ∀ {c : Instr} {w w' : Dev}, exec c s = .next (s.ends w) → w = w' → exec c s = .next (s.ends w') :=
    fun he hw => he.trans (congrArg (fun w => Host.Outcome.next (s.ends w)) hw)
  have hplain : ∀ {c : Instr} {op : Nat}, exec c s = .next (s.ends (v.updStart k op)) → op ≠ 0x23 → op ≠ 0x25 → v.startable k op = some ws →
      v.UpdClear op o → exec c s = .next (s.ends (v.updGo k f0)) ∧ v.GoesOn v k ws f0 := fun he hmicro hwcopy h hc =>
    ⟨hexec he ((Dev.updStart_goes h hc).1 hmicro hwcopy), Dev.goesOn_read (by rw [Dev.eOp_of_startable h]; exact hmicro) _⟩
  simp only [List.forall_mem_cons]
  refine ⟨fun h hc _ => hplain rfl (by decide) (by decide) h hc, fun h hc _ => hplain rfl (by decide) (by decide) h hc,
    fun h hc _ => hplain rfl (by decide) (by decide) h hc, fun h hc hcode => ?_, fun h hc _ => ?_, fun _ h => absurd h List.not_mem_nil⟩
  · obtain ⟨hread, hlegal⟩ := hcode trivial
    exact ⟨hexec rfl ((Dev.updStart_goes h hc).2.1 code rfl hread), Dev.goesOn_code hread hlegal _⟩
  · exact ⟨hexec rfl ((Dev.updStart_goes h hc).2.2 rfl), Dev.goesOn_draw (Dev.eOp_of_startable h) _⟩

/-! ### Skipped, run and held (R448, R464) -/

section
variable {v u : Dev} {k : Nat} {ws : List W64} {f : Flight} (h : v.GoesOn u k ws f)
include h

theorem Dev.GoesOn.vslot_eq (a i : Nat) : u.vslot a i = v.vslot a i := Dev.vslot_congr h.mem a i

/-- No extent of the tasks meets a path error, in whatever state leaves the course of accesses. -/
theorem Dev.GoesOn.pathless (hpath : ∀ e ∈ updTouch (eOp ws) (decUpd ws) (decScaleRec (v.recWords (decUpd ws).wcrec 8)), e.2 ≠ 0 → v.pathAt e.1 e.2 = none)
    {w : Dev} (hw : v.SameWays w) :
    (updTouch (eOp ws) (decUpd ws) (recScale f)).findSome? (fun e => if e.2 = 0 then none else w.pathAt e.1 e.2) = none := by
  rw [h.scale]
  refine List.findSome?_eq_none_iff.mpr fun e he => ?_
  split
  · rfl
  · next hlen => exact (hw.pathAt_eq _ _).trans (hpath e he hlen)

variable (hclip : eOp ws ≠ 0x25 → (decUpd ws).clip = true → isPosNormal (decHyper (v.recWords (decUpd ws).hyper 8)).maxnorm = true)
include hclip

theorem Dev.GoesOn.norm_legal : (decide (eOp ws ≠ 0x25) && (decUpd ws).clip && !isPosNormal (recHyper f).maxnorm) = false := by
  by_cases hop : eOp ws = 0x25
  · simp [hop]
  · cases hc : (decUpd ws).clip with
    | false => simp
    | true => simp [h.hyper hop, hclip hop hc]

/-- CLIP that gives no factor skips the entry. -/
theorem Dev.GoesOn.skips (hop : eOp ws ≠ 0x25) (hc : (decUpd ws).clip = true)
    (hnone : clipFactor (decHyper (v.recWords (decUpd ws).hyper 8)) = none) : u.updGo k f = u.updSkip k (v.strm k).next ws := by
  have hskip : (decide (eOp ws ≠ 0x25) && (decUpd ws).clip && (clipFactor (recHyper f)).isNone) = true := by simp [hop, hc, h.hyper hop, hnone]
  unfold Dev.updGo
  simp only [h.words, h.norm_legal hclip, h.code, hskip, h.idx, Bool.false_eq_true, if_false, if_true]

variable (hfactor : eOp ws ≠ 0x25 → (decUpd ws).clip = true → clipFactor (decHyper (v.recWords (decUpd ws).hyper 8)) ≠ none)
include hfactor

theorem Dev.GoesOn.clips : (decide (eOp ws ≠ 0x25) && (decUpd ws).clip && (clipFactor (recHyper f)).isNone) = false := by
  by_cases hop : eOp ws = 0x25
  · simp [hop]
  · cases hc : (decUpd ws).clip with
    | false => simp
    | true => simpa [hop, h.hyper hop, Option.isSome_iff_ne_none] using hfactor hop hc

/-- Without VF_EN the tasks take effect and the entry starts, its sources read. -/
theorem Dev.GoesOn.runs (hvf : (decUpd ws).vfEn = false)
    (hpath : ∀ e ∈ updTouch (eOp ws) (decUpd ws) (decScaleRec (v.recWords (decUpd ws).wcrec 8)), e.2 ≠ 0 → v.pathAt e.1 e.2 = none) :
    u.updGo k f = (((u.forAll (updTouch (eOp ws) (decUpd ws) (recScale f)) (fun y e => y.softErrs e.1 e.2)).updTasks k f).started k
      { f with srcDone := true } false).nextHead k := by
  unfold Dev.updGo
  simp only [h.words, h.norm_legal hclip, h.code, h.clips hclip hfactor, hvf, h.pathless hpath h.ways, Bool.false_and, Bool.not_false, Bool.false_eq_true,
    if_false, if_true]

end

theorem Dev.modStk_mem (v : Dev) (k : Nat) (g : Stack → Stack) : (v.modStk k g).hbm.mem = v.hbm.mem := rfl
theorem Dev.stkPut_mem (v : Dev) (a : Nat) (bs : List Byte) : (v.stkPut a bs).hbm.mem = mwrite v.hbm.mem a bs := rfl

/-- What the version fence leaves before it looks for held entries to release: the slot DRAINING, the hold counted, the entry waiting. -/
def Dev.fenced (u : Dev) (k : Nat) (f : Flight) : Dev :=
  let o := decUpd f.words
  let q := u.vslot o.vrec o.vslot
  ((u.setVslot o.vrec o.vslot { q with state := 2 }).modStk (k - 146) (fun r => if q.readers = 0 then r else { r with holds := satAdd r.holds 1 65535 })).started k
    { f with wait := .version, slot := true } false

section
variable {v u : Dev} {k : Nat} {ws : List W64} {f : Flight} (h : v.GoesOn u k ws f)
include h

/-- With VF_EN and a slot neither DRAINING nor WRITING, the entry waits for the fence. -/
theorem Dev.GoesOn.waits (hclip : eOp ws ≠ 0x25 → (decUpd ws).clip = true → isPosNormal (decHyper (v.recWords (decUpd ws).hyper 8)).maxnorm = true)
    (hfactor : eOp ws ≠ 0x25 → (decUpd ws).clip = true → clipFactor (decHyper (v.recWords (decUpd ws).hyper 8)) ≠ none) (hvf : (decUpd ws).vfEn = true)
    (hdraining : (v.vslot (decUpd ws).vrec (decUpd ws).vslot).state ≠ 2) (hwriting : (v.vslot (decUpd ws).vrec (decUpd ws).vslot).state ≠ 3) :
    u.updGo k f = ((u.fenced k f).releaseHeld).nextHead k := by
  unfold Dev.updGo Dev.fenced
  simp only [h.words, h.norm_legal hclip, h.code, h.clips hclip hfactor, hvf, h.vslot_eq, hdraining, hwriting, decide_false, Bool.or_self, Bool.and_false,
    Bool.not_true, Bool.false_eq_true, if_false]

theorem Dev.GoesOn.fenced_sameWays : v.SameWays (u.fenced k f) := by
  unfold Dev.fenced
  exact h.ways.trans ((u.setVslot_sameWays _ _ _).trans ((Dev.modStk_sameWays _ _ _).trans (Dev.started_sameWays _ _ _ _)))

theorem Dev.GoesOn.fenced_mem : (u.fenced k f).hbm.mem = (u.setVslot (decUpd ws).vrec (decUpd ws).vslot
    { v.vslot (decUpd ws).vrec (decUpd ws).vslot with state := 2 }).hbm.mem := by
  unfold Dev.fenced
  dsimp only
  rw [(Dev.started_within _ _ _ _).mem_eq (by decide), Dev.modStk_mem, h.words, h.vslot_eq]

theorem Dev.GoesOn.fenced_vslot : (u.fenced k f).vslot (decUpd ws).vrec (decUpd ws).vslot =
    { v.vslot (decUpd ws).vrec (decUpd ws).vslot with state := 2 } := by
  obtain ⟨htag, hreaders, -⟩ := decVSlot_fits (wd (v.recWords (decUpd ws).vrec 8) (decUpd ws).vslot)
  have hlt : (decUpd ws).vslot < 8 := Nat.lt_of_lt_of_le (fld_lt (wd ws 6) 39 38) (by decide)
  rw [Dev.vslot_congr h.fenced_mem]
  exact u.vslot_setVslot _ hlt ⟨htag, hreaders, (by decide : 2 < 4)⟩

theorem Dev.GoesOn.mget_fenced {b : Nat} (hb : b < (decUpd ws).vrec + 8 * (decUpd ws).vslot ∨ (decUpd ws).vrec + 8 * (decUpd ws).vslot + 8 ≤ b) :
    mget (u.fenced k f).hbm.mem b = mget v.hbm.mem b := by
  rw [h.fenced_mem, ← h.mem, Dev.setVslot, Dev.stkPut_mem]
  exact mget_mwrite_outside _ _ _ (by rwa [toBytes_length])

theorem Dev.GoesOn.fenced_holds (hreaders : (v.vslot (decUpd ws).vrec (decUpd ws).vslot).readers ≠ 0) :
    ((u.fenced k f).stk (k - 146)).holds = satAdd (v.stk (k - 146)).holds 1 65535 := by
  unfold Dev.fenced
  dsimp only
  rw [(Dev.started_within _ _ _ _).stk_eq (by decide), Dev.stk_modStk_same, h.words, h.vslot_eq, if_neg hreaders, (Dev.setVslot_within _ _ _ _).stk_eq (by decide), h.stk]

end

/-! ### The release of a held entry (R464, R465) -/

theorem Dev.forAll_still {α : Type} {f : Dev → α → Dev} {v : Dev} {xs : List α} (h : ∀ x ∈ xs, f v x = v) : v.forAll xs f = v := by
  induction xs with
  | nil => rfl
  | cons a r ih =>
    have hhead := h a List.mem_cons_self
    exact (congrArg (fun w => w.forAll r f) hhead).trans (ih fun x hx => h x (List.mem_cons_of_mem a hx))

/-- Of steps that change nothing but for one, that one alone counts. -/
theorem Dev.forAll_only {α : Type} {f : Dev → α → Dev} {v : Dev} {x : α} {xs : List α} (hn : xs.Nodup) (hx : x ∈ xs)
    (h : ∀ y ∈ xs, y ≠ x → f v y = v ∧ f (f v x) y = f v x) : v.forAll xs f = f v x := by
  induction xs with
  | nil => exact absurd hx List.not_mem_nil
  | cons a r ih =>
    obtain ⟨ha, hr⟩ := List.nodup_cons.mp hn
    by_cases hax : a = x
    · subst hax
      exact Dev.forAll_still (f := f) (v := f v a) fun y hy => (h y (List.mem_cons_of_mem a hy) fun hya => ha (hya ▸ hy)).2
    · have hstill := (h a List.mem_cons_self hax).1
      have hrest := ih hr ((List.mem_cons.mp hx).resolve_left (Ne.symm hax)) fun y hy => h y (List.mem_cons_of_mem a hy)
      exact (congrArg (fun w => w.forAll r f) hstill).trans hrest

/-- The entries of stream k that wait for the version fence. -/
def Dev.fenceWaits (v : Dev) (k : Nat) : List Flight := (v.strm k).flights.filter (fun f => f.wait = .version && !f.withdrawn && !f.part)

theorem Dev.fenceWaits_of_none {v : Dev} {k : Nat} (h : ∀ g ∈ (v.strm k).flights, g.wait ≠ .version) : v.fenceWaits k = [] :=
  List.filter_eq_nil_iff.mpr fun g hg => by simp [h g hg]

/-- The release of the waiting entries of SE stream i. -/
def Dev.releaseStream (v : Dev) (i : Nat) : Dev := v.forAll (v.fenceWaits (146 + i)) (fun w f => w.releaseOne (146 + i) f)

theorem Dev.releaseStream_of_none {v : Dev} {i : Nat} (h : v.fenceWaits (146 + i) = []) : v.releaseStream i = v := by
  rw [Dev.releaseStream, h]
  rfl
theorem Dev.releaseStream_of_only {v : Dev} {i : Nat} {f : Flight} (h : v.fenceWaits (146 + i) = [f]) : v.releaseStream i = v.releaseOne (146 + i) f := by
  rw [Dev.releaseStream, h]
  rfl
theorem Dev.releaseHeld_eq (v : Dev) : v.releaseHeld = v.forAll (List.range 8) Dev.releaseStream := rfl

/-- Where one entry alone waits for the fence, the release is the one of that entry. -/
theorem Dev.releaseHeld_of_only {v : Dev} {j : Nat} {f : Flight} (hj : j < 8) (hwaits : v.fenceWaits (146 + j) = [f])
    (hothers : ∀ i < 8, i ≠ j → v.fenceWaits (146 + i) = []) (hkeeps : ∀ i, i ≠ j → (v.releaseOne (146 + j) f).strm (146 + i) = v.strm (146 + i)) :
    v.releaseHeld = v.releaseOne (146 + j) f := by
  have hone := Dev.releaseStream_of_only hwaits
  rw [Dev.releaseHeld_eq, ← hone]
  refine Dev.forAll_only List.nodup_range (List.mem_range.mpr hj) fun i hi hne => ?_
  have hnone := hothers i (List.mem_range.mp hi) hne
  refine ⟨Dev.releaseStream_of_none hnone, Dev.releaseStream_of_none ?_⟩
  rw [hone, Dev.fenceWaits, hkeeps i hne]
  exact hnone

section
variable {v : Dev} {k : Nat} {f : Flight}

/-- An entry whose slot has readers stays held. -/
theorem Dev.releaseOne_of_readers (h : (v.vslot (decUpd f.words).vrec (decUpd f.words).vslot).readers ≠ 0) : v.releaseOne k f = v := by
  unfold Dev.releaseOne
  exact if_pos (.inl h)

/-- An entry that waits alone, its slot drained, does its tasks and waits for the fence no more. -/
theorem Dev.releaseOne_of_drained (hwaits : v.fenceWaits k = [f]) (hreaders : (v.vslot (decUpd f.words).vrec (decUpd f.words).vslot).readers = 0)
    (hstate : (v.vslot (decUpd f.words).vrec (decUpd f.words).vslot).state = 2) (hheld : v.moult.held = []) (hactive : v.moult.active = false)
    (hissue : v.issueOk = true) (hbusy : v.hbm.busy = false) (hroomy : v.roomy)
    (hpath : (updTouch (eOp f.words) (decUpd f.words) (recScale f)).findSome? (fun e => if e.2 = 0 then none else v.pathAt e.1 e.2) = none) :
    ∃ w : Dev, w.strms = v.strms ∧ v.releaseOne k f = w.modFlight k f.idx (fun g => { g with wait := .none, srcDone := true }) := by
  have hbehind : ∀ p : Flight → Bool, (v.strm k).flights.any (fun g => g.wait = .version && !g.withdrawn && !g.part && decide (g.idx < f.idx) && p g) =
      false := fun p => List.any_eq_false.mpr fun g hg => by
    cases hw : (decide (g.wait = .version) && !g.withdrawn && !g.part) with
    | false => simp [hw]
    | true =>
      have hmem : g ∈ v.fenceWaits k := List.mem_filter.mpr ⟨hg, hw⟩
      rw [hwaits, List.mem_singleton] at hmem
      simp [hmem]
  have hqueues : (updTouch (eOp f.words) (decUpd f.words) (recScale f)).any (fun e => v.queueFull e.1 e.2) = false :=
    List.any_eq_false.mpr fun e _ => by simp [Dev.queueFull_of_roomy hroomy]
  refine ⟨((v.forAll (updTouch (eOp f.words) (decUpd f.words) (recScale f)) (fun u e => u.softErrs e.1 e.2)).setVslot (decUpd f.words).vrec
    (decUpd f.words).vslot { v.vslot (decUpd f.words).vrec (decUpd f.words).vslot with state := 3 }).updTasks k f, ?_, ?_⟩
  · rw [(Dev.updTasks_within _ _ _).strms_eq (by decide), (Dev.setVslot_within _ _ _ _).strms_eq (by decide)]
    exact Dev.forAll_keeps Dev.strms (f := fun u (e : Nat × Nat) => u.softErrs e.1 e.2) (fun u e => (u.softErrs_within e.1 e.2).strms_eq (by decide)) _ v
  · unfold Dev.releaseOne
    simp only [hreaders, hstate, hbehind, Dev.updHeld_of_none hheld, Dev.stale_of_inactive hactive, hissue, hbusy, hqueues, hpath, ne_eq,
      not_true_eq_false, Bool.false_eq_true, Bool.not_true, or_self, if_false]

end

/-! ### An entry behind the version fence -/

theorem insBy_perm {α : Type} (key : α → Nat) (x : α) (l : List α) : (insBy key x l).Perm (x :: l) := by
  induction l with
  | nil => exact List.Perm.refl _
  | cons y r ih =>
    unfold insBy
    split
    · exact List.Perm.refl _
    · exact (ih.cons y).trans (List.Perm.swap x y r)

/-- A fresh entry among others of which none waits for the fence waits there alone. -/
theorem Dev.fenceWaits_started {v : Dev} {k : Nat} {f : Flight} (h : ∀ g ∈ (v.strm k).flights, g.wait ≠ .version) (hwait : f.wait = .version)
    (hwithdrawn : f.withdrawn = false) (hpart : f.part = false) : (v.started k f false).fenceWaits k = [f] := by
  obtain ⟨n, hs⟩ := v.started_strm k f false
  have hflights : ((v.started k f false).strm k).flights = insBy (fun g => g.idx) f (v.strm k).flights := by
    rw [hs, Bool.or_false, Bool.or_false]
  have hperm := (insBy_perm (fun g => g.idx) f (v.strm k).flights).filter (fun f => f.wait = .version && !f.withdrawn && !f.part)
  have hold : (v.strm k).flights.filter (fun f => f.wait = .version && !f.withdrawn && !f.part) = [] := Dev.fenceWaits_of_none h
  rw [List.filter_cons_of_pos (by simp [hwait, hwithdrawn, hpart]), hold] at hperm
  rw [Dev.fenceWaits, hflights]
  exact List.perm_singleton.mp hperm

theorem Dev.modStk_strm (v : Dev) (k : Nat) (g : Stack → Stack) (i : Nat) : (v.modStk k g).strm i = v.strm i := rfl
theorem Dev.started_strm_ne (v : Dev) {k i : Nat} (hi : i ≠ k) (f : Flight) : (v.started k f false).strm i = v.strm i := v.strm_modStrm_ne k _ hi

section
variable {v u : Dev} {j : StackId} {op : Nat} {ws : List W64} {f : Flight} (h : v.GoesOn u (146 + j.val) ws f)
  (hnone : ∀ i < 8, ∀ g ∈ (v.strm (146 + i)).flights, g.wait ≠ .version)
include h hnone

theorem Dev.GoesOn.none_waits {i : Nat} (hi : i < 8) (g : Flight) (hg : g ∈ (u.strm (146 + i)).flights) : g.wait ≠ .version := by
  rw [Dev.strm, h.strms] at hg
  exact hnone i hi g hg

/-- The entry waits for the fence, and no other does. -/
theorem Dev.GoesOn.fenced_waits : (u.fenced (146 + j.val) f).fenceWaits (146 + j.val) = [{ f with wait := .version, slot := true }] ∧
    ∀ i < 8, i ≠ j.val → (u.fenced (146 + j.val) f).fenceWaits (146 + i) = [] := by
  unfold Dev.fenced
  dsimp only
  refine ⟨Dev.fenceWaits_started (fun g hg => ?_) rfl h.withdrawn h.part, fun i hi hne => Dev.fenceWaits_of_none fun g hg => ?_⟩
  · rw [Dev.modStk_strm, (Dev.setVslot_within _ _ _ _).strm_eq (by decide)] at hg
    exact h.none_waits hnone j.isLt g hg
  · rw [Dev.started_strm_ne _ (by omega), Dev.modStk_strm, (Dev.setVslot_within _ _ _ _).strm_eq (by decide)] at hg
    exact h.none_waits hnone hi g hg

/-- While the slot has readers the entry stays held. -/
theorem Dev.GoesOn.held (hreaders : (v.vslot (decUpd ws).vrec (decUpd ws).vslot).readers ≠ 0) :
    (u.fenced (146 + j.val) f).releaseHeld = u.fenced (146 + j.val) f := by
  obtain ⟨hwaits, hothers⟩ := h.fenced_waits hnone
  have hone : (u.fenced (146 + j.val) f).releaseOne (146 + j.val) { f with wait := .version, slot := true } = u.fenced (146 + j.val) f := by
    refine Dev.releaseOne_of_readers ?_
    dsimp only
    rw [h.words, h.fenced_vslot]
    exact hreaders
  exact (Dev.releaseHeld_of_only j.isLt hwaits hothers fun i _ => by rw [hone]).trans hone

/-- With no reader left it does its tasks at once. -/
theorem Dev.GoesOn.drained (hst : v.startable (146 + j.val) op = some ws) (hc : v.UpdClear op (decUpd ws))
    (hreaders : (v.vslot (decUpd ws).vrec (decUpd ws).vslot).readers = 0)
    (hpath : ∀ e ∈ updTouch (eOp ws) (decUpd ws) (decScaleRec (v.recWords (decUpd ws).wcrec 8)), e.2 ≠ 0 → v.pathAt e.1 e.2 = none) :
    (u.fenced (146 + j.val) f).releaseHeld.inFlightRead (146 + j.val) (v.strm (146 + j.val)).next ws := by
  obtain ⟨hwaits, hothers⟩ := h.fenced_waits hnone
  have hways := h.fenced_sameWays
  have hslot := h.fenced_vslot
  have hdone := Dev.releaseOne_of_drained hwaits (by rw [h.words, hslot]; exact hreaders) (by rw [h.words, hslot])
    (by rw [hways.moult]; exact hc.held) (by rw [hways.moult]; exact hc.active) (hways.issue.trans (Dev.issueOk_of_startable hst))
    (hways.busy.trans hc.busy) (hways.roomy (Dev.roomy_of_queueFull hc.held hc.queues)) (by rw [h.words]; exact h.pathless hpath hways)
  obtain ⟨w, hstrms, hone⟩ := hdone
  have hstrm : ∀ i, w.strm i = (u.fenced (146 + j.val) f).strm i := fun i => by rw [Dev.strm, hstrms, Dev.strm]
  have hmem : ({ f with wait := .version, slot := true } : Flight) ∈ (w.strm (146 + j.val)).flights := by
    rw [hstrm]
    exact List.mem_of_mem_filter (by rw [← Dev.fenceWaits, hwaits]; exact List.mem_singleton_self _)
  rw [Dev.releaseHeld_of_only j.isLt hwaits hothers fun i hi => ?_, hone]
  · exact ⟨_, Dev.mem_modFlight hmem h.withdrawn _, h.idx, h.words, rfl, rfl⟩
  · rw [hone, Dev.modFlight, Dev.strm_modStrm_ne _ _ _ (by omega), hstrm]

end

/-- A skipped entry sets SKIP_SEEN and counts in SKIPPED, and starts as an empty one (R448). -/
theorem Dev.updSkip_leaves (v : Dev) (j : Nat) (idx : Nat) (ws : List W64) : ∃ w : Dev, v.updSkip (146 + j) idx ws = w.nextHead (146 + j) ∧
    w.hbm.mem = v.hbm.mem ∧ (w.stk j).skipSeen = true ∧ (w.stk j).skipped = satAdd (v.stk j).skipped 1 65535 ∧ w.inFlightRead (146 + j) idx ws := by
  have hunit : 146 + j - 146 = j := by omega
  unfold Dev.updSkip
  dsimp only
  rw [hunit]
  refine ⟨_, rfl, ?_, ?_, ?_, Dev.started_inFlightRead _ _ true rfl rfl⟩
  · rw [(Dev.started_within _ _ _ _).mem_eq (by decide), (Dev.ev_within _ _ _ _ _ _).mem_eq (by decide), Dev.modStk_mem]
  · rw [(Dev.started_within _ _ _ _).stk_eq (by decide), (Dev.ev_within _ _ _ _ _ _).stk_eq (by decide), Dev.stk_modStk_same]
  · rw [(Dev.started_within _ _ _ _).stk_eq (by decide), (Dev.ev_within _ _ _ _ _ _).stk_eq (by decide), Dev.stk_modStk_same]

/-! ### UPD_REDNORM (R459, R460) -/

section
variable (v : Dev) {o : SeOps}

theorem Dev.partialMem_aux : mread (v.partialMem true o) o.aux.toNat 8 = toBytes (fp64.enc (normPartial (elNums 0 o.n (v.reduced o)))) 8 := by
  have hread := mread_mwrite (v.reducedMem o) o.aux.toNat (toBytes (fp64.enc (normPartial (elNums 0 o.n (v.reduced o)))) 8)
  rwa [toBytes_length] at hread

theorem Dev.mread_partialMem_outside {a n : Nat} (h : a + n ≤ o.aux.toNat ∨ o.aux.toNat + 8 ≤ a) :
    mread (v.partialMem true o) a n = mread (v.reducedMem o) a n := mread_mwrite_outside _ _ _ (by rwa [toBytes_length])

end

/-- What a reduction with its partial leaves, destination, partial and record apart. -/
theorem Dev.normed_of_mem {v w : Dev} {o : SeOps} (hm : w.hbm.mem = if o.statEn then
      mergeRecord (v.partialMem true o) o.statrec.toNat (plainStats (elNums o.ty o.n (v.reduced o))) else v.partialMem true o)
    (haux : o.aux.toNat + 8 ≤ o.dst.toNat ∨ o.dst.toNat + o.n * elBytes o.ty ≤ o.aux.toNat)
    (hrec : o.statEn = true → (o.statrec.toNat + 64 ≤ o.dst.toNat ∨ o.dst.toNat + o.n * elBytes o.ty ≤ o.statrec.toNat) ∧
      (o.statrec.toNat + 64 ≤ o.aux.toNat ∨ o.aux.toNat + 8 ≤ o.statrec.toNat)) :
    w.stk8 o.dst.toNat (o.n * elBytes o.ty) = v.reduced o ∧
    w.stk8 o.aux.toNat 8 = toBytes (fp64.enc (normPartial (elNums 0 o.n (v.reduced o)))) 8 ∧
    (o.statEn = true → w.recWords o.statrec.toNat 8 = mergeStats (v.recWords o.statrec.toNat 8) (plainStats (elNums o.ty o.n (v.reduced o)))) := by
  rw [Dev.recWords, Dev.stk8, Dev.stk8, Dev.stk8, hm]
  split
  · next hs =>
    obtain ⟨hdst, hpartial⟩ := hrec hs
    refine ⟨?_, ?_, fun _ => ?_⟩
    · rw [mread_mergeRecord_outside _ _ (by omega), v.mread_partialMem_outside (by omega), v.reducedMem_read]
    · rw [mread_mergeRecord_outside _ _ (by omega), v.partialMem_aux]
    · rw [recWords_mergeRecord, v.mread_partialMem_outside (by omega), v.mread_reducedMem_outside (by omega)]
      rfl
  · next hs =>
    refine ⟨?_, v.partialMem_aux, fun h => absurd h hs⟩
    rw [v.mread_partialMem_outside (by omega), v.reducedMem_read]

section
variable {v : Dev} {k : Nat} {ws : List W64} (h : v.startable k 0x24 = some ws) (hactive : v.moult.active = false) (hheld : v.moult.held = [])
  (hbusy : v.hbm.busy = false) (hqueues : ∀ a n, v.queueFull a n = false)
include h hactive hheld hbusy hqueues

/-- With N = 0 eight zero bytes are written at AUX. -/
theorem Dev.rednorm_empty (hn : (decSe ws).n = 0) (hpath : v.pathAt (decSe ws).aux.toNat 8 = none) : ∃ w : Dev, v.rednorm k = w.nextHead k ∧
    w.hbm.mem = mwrite v.hbm.mem (decSe ws).aux.toNat (List.replicate 8 0#8) ∧ w.inFlightRead k (v.strm k).next ws := by
  refine Dev.seRun_leaves h rfl ⟨hactive, hheld, hbusy, fun e he _ => ⟨?_, hqueues _ _⟩⟩ fun u hu hnone => ?_
  · rw [if_pos hn, List.mem_singleton] at he
    rw [he]
    exact hpath
  · rw [if_pos hn, Dev.stackWrite_mem hnone, hu.mem]

/-- Any other reduces, with its partial (R460). -/
theorem Dev.rednorm_reduces (hn : (decSe ws).n ≠ 0) (hpath : ∀ e ∈ redTouch true ws, 0 < e.2 → v.pathAt e.1 e.2 = none) : let o := decSe ws
    ∃ w : Dev, v.rednorm k = w.nextHead k ∧ (w.hbm.mem = if o.statEn then
        mergeRecord (v.partialMem true o) o.statrec.toNat (plainStats (elNums o.ty o.n (v.reduced o))) else v.partialMem true o) ∧
      w.inFlightRead k (v.strm k).next ws := by
  refine Dev.seRun_reduces h rfl ⟨hactive, hheld, hbusy, fun e he hlen => ⟨?_, hqueues _ _⟩⟩ fun u idx => if_neg hn
  rw [if_neg hn] at he
  exact hpath e he hlen

end

/-- An update entry without a group starts at once. -/
theorem exec_update_empty {j : StackId} {s : State} {ws : List W64} (hn : (decUpd ws).ngrp = 0) :
    ∀ x ∈ [(Instr.updAdamw j, 0x20), (.updLion j, 0x21), (.updSgdm j, 0x22), (.updMicro j, 0x23), (.updWcopy j, 0x25)],
      s.dev.startable (146 + j.val) x.2 = some ws →
      exec x.1 s = .next (s.ends ((s.dev.started (146 + j.val) { idx := (s.dev.strm (146 + j.val)).next, words := ws } true).nextHead (146 + j.val))) := by
  have hstart : ∀ {op : Nat}, s.dev.startable (146 + j.val) op = some ws → Host.Outcome.next (s.ends (s.dev.updStart (146 + j.val) op)) =
      (.next (s.ends ((s.dev.started (146 + j.val) { idx := (s.dev.strm (146 + j.val)).next, words := ws } true).nextHead (146 + j.val))) :
        Host.Outcome State Fault Refusal) := fun h => by
    unfold Dev.updStart
    simp only [h, hn, if_true]
  simp only [List.forall_mem_cons]
  exact ⟨hstart, hstart, hstart, hstart, hstart, fun _ h => absurd h List.not_mem_nil⟩

/-- Settles O42: every opcode goes on with the flight its records give, and the entry is then skipped, run, or held at its version slot. -/
theorem updateEntriesComplete : Obligations.UpdateEntriesComplete := by
  intro j s ws v k o idx rs hw f0 fw inFlight hactive hheld hbusy hqueues
  have hexec : ∀ {c : Instr} {u w : Dev}, exec c s = .next (s.ends u) → u = w.nextHead k → exec c s = .next (s.ends (w.nextHead k)) :=
    fun he hw => he.trans (congrArg (fun w => Host.Outcome.next (s.ends w)) hw)
  have hunit : k - 146 = j := by omega
  refine ⟨fun x hx h hn => ⟨_, exec_update_empty hn x hx h, (Dev.started_within _ _ _ _).hbm_eq (by decide),
    Dev.started_inFlightRead _ k true rfl rfl⟩, ?entry, ?rednorm⟩
  case entry =>
    intro code x hx op u f q h hn hrecords hcode hclip
    have hc : v.UpdClear op o := ⟨hn, hactive, hheld, hbusy, hqueues, hrecords⟩
    obtain ⟨he, hgo⟩ := exec_update_goes code x hx h hc hcode
    have hop : op = eOp ws := (Dev.eOp_of_startable h).symm
    rw [hop] at hclip ⊢
    refine ⟨fun hwcopy hcl hnone => ?skip, fun hfactor => ⟨fun hvf hpath => ?run, fun hvf hdraining hwriting hwaits => ?fence⟩⟩
    case skip =>
      obtain ⟨w, hw, hmem, hseen, hskipped, hflight⟩ := u.updSkip_leaves j idx ws
      exact ⟨w, hexec he ((hgo.skips hclip hwcopy hcl hnone).trans hw), hmem.trans hgo.mem, hseen, hskipped.trans (by rw [hgo.stk]), hflight⟩
    case run =>
      refine ⟨_, hexec he (hgo.runs hclip hfactor hvf hpath), ?_, _, Dev.mem_started_flights _ k _ false, hgo.idx, hgo.words, hgo.wait, rfl⟩
      rw [(Dev.started_within _ _ _ _).mem_eq (by decide), hgo.scale]
    case fence =>
      have hfence := hgo.waits hclip hfactor hvf hdraining hwriting
      refine ⟨fun hreaders => ?_, fun hreaders hpath => ⟨_, hexec he hfence, hgo.drained hwaits h hc hreaders hpath⟩⟩
      rw [hgo.held hwaits hreaders] at hfence
      have hholds := hgo.fenced_holds hreaders
      rw [hunit] at hholds
      exact ⟨_, hexec he hfence, hgo.fenced_vslot, hholds, fun b hb => hgo.mget_fenced hb, _, Dev.mem_started_flights _ k _ false, hgo.idx, hgo.words, rfl⟩
  case rednorm =>
    intro h p len a y r
    refine ⟨fun hn hpath => ?_, fun hn hty hpath haux hrec => ?_⟩
    · obtain ⟨w, hw, hmem, hflight⟩ := Dev.rednorm_empty h hactive hheld hbusy hqueues hn hpath
      obtain ⟨hread, hframe⟩ := Dev.wrote_of_mem hmem
      exact ⟨w, hexec rfl hw, hread, hframe, hflight⟩
    · obtain ⟨w, hw, hmem, hflight⟩ := Dev.rednorm_reduces h hactive hheld hbusy hqueues hn hpath
      have hlen : len = p.n * elBytes p.ty := by rw [hty]; rfl
      rw [hlen] at haux hrec ⊢
      obtain ⟨hdst, hpartial, hrecord⟩ := Dev.normed_of_mem hmem haux hrec
      rw [hty] at hrecord
      exact ⟨w, hexec rfl hw, hdst, hpartial, hrecord, hflight⟩

end Sys2Proof.Machine

/-! Maintenance of the stacks (12): what refreshes, retraining and the map's registers leave of the channels and of the map, and from them
O45. -/

namespace Sys2Proof.Machine

/-! ### The channels of a die (R409 to R411) -/

theorem dieChans_nodup (die : Nat) : (dieChans die).Nodup := List.nodup_range.map fun _ _ => Nat.add_left_cancel

theorem mem_dieChans {c : ChanId} {d : DieId} (h : c.val / 128 = d.val) : c.val ∈ dieChans d.val :=
  List.mem_map.mpr ⟨c.val % 128, List.mem_range.mpr (Nat.mod_lt _ (by decide)), by omega⟩

theorem Dev.refreshWindow_outside {v : Dev} (h : v.windowed = false ∨ v.inRefresh = false) (die : Nat) : v.refreshWindow die = v :=
  if_neg (by simpa [imp_iff_not_or] using h)

/-- A refresh-window tick refreshes every channel of the die, so that none is left deferred (R410). -/
theorem Dev.refreshWindow_deferred {v : Dev} (hw : v.windowed = true) (hr : v.inRefresh = true) {die c : Nat} (hc : c ∈ dieChans die) :
    ((v.refreshWindow die).chan c).deferred = 0 := by
  rw [Dev.refreshWindow, if_pos (by simp [hw, hr])]
  refine (Dev.forAll_once (fun u x => (u.chan x).deferred) (g := fun _ _ => 0) (fun u x => ?_) (fun u x y hy => ?_) (dieChans_nodup die) v).1 c hc
  · rw [Dev.chan_modChan_same]
  · rw [Dev.chan_modChan_ne _ _ _ hy]

theorem Dev.refreshDue_inside {v : Dev} (h : v.windowed = false ∨ v.inRefresh = true) (ch : Nat) : v.refreshDue ch = v :=
  if_neg (by simpa [imp_iff_not_or] using h)

theorem Dev.refreshDue_defers {v : Dev} (hw : v.windowed = true) (hr : v.inRefresh = false) {ch : Nat} (h : (v.chan ch).deferred = 0) :
    ((v.refreshDue ch).chan ch).deferred = 1 := by
  rw [Dev.refreshDue, if_pos (by simp [hw, hr]), Dev.chan_modChan_same]
  exact if_pos h

theorem Dev.retrainWindow_elsewhere {v : Dev} (h : v.windowed = false ∨ v.inRetrain = false ∨ v.ft.now % 4096 ≠ v.hbm.trnOffset) (die : Nat) :
    v.retrainWindow die = v :=
  if_neg (by simpa [imp_iff_not_or, or_assoc] using h)

/-- Setting one channel retraining leaves every channel as live as it was. -/
theorem Dev.chanLive_modChan_retraining (v : Dev) (x c : Nat) : (v.modChan x (fun q => { q with retraining := true })).chanLive c = v.chanLive c := by
  by_cases hc : c = x
  · rw [hc, Dev.chanLive, Dev.chan_modChan_same]
    rfl
  · rw [Dev.chanLive, Dev.chan_modChan_ne _ _ _ hc]
    rfl

/-- A channel that carries data retrains. -/
def Dev.retrainLive (v : Dev) (ch : Nat) : Dev := if v.chanLive ch then v.modChan ch (fun c => { c with retraining := true }) else v

/-- At the first tick of a retrain window every live channel of the die retrains (R411). -/
theorem Dev.retrainWindow_retrains {v : Dev} (hw : v.windowed = true) (hr : v.inRetrain = true) (hfirst : v.ft.now % 4096 = v.hbm.trnOffset)
    {die c : Nat} (hc : c ∈ dieChans die) (hl : v.chanLive c = true) : ((v.retrainWindow die).chan c).retraining = true := by
  have hsame : ∀ (u : Dev) (x : Nat), (u.retrainLive x).chanLive x = u.chanLive x ∧
      ((u.retrainLive x).chan x).retraining = (u.chanLive x || (u.chan x).retraining) := fun u x => by
    unfold Dev.retrainLive
    split
    · next hx => exact ⟨u.chanLive_modChan_retraining x x, by rw [Dev.chan_modChan_same, hx, Bool.true_or]⟩
    · next hx => exact ⟨rfl, by rw [Bool.eq_false_of_not_eq_true hx, Bool.false_or]⟩
  have hother : ∀ (u : Dev) (x y : Nat), y ≠ x → (u.retrainLive x).chanLive y = u.chanLive y ∧
      ((u.retrainLive x).chan y).retraining = (u.chan y).retraining := fun u x y hy => by
    unfold Dev.retrainLive
    split
    · exact ⟨u.chanLive_modChan_retraining x y, by rw [Dev.chan_modChan_ne _ _ _ hy]⟩
    · exact ⟨rfl, rfl⟩
  have honce := (Dev.forAll_once (fun u x => (u.chanLive x, (u.chan x).retraining)) (g := fun _ q => (q.1, q.1 || q.2)) (f := Dev.retrainLive)
    (fun u x => Prod.ext (hsame u x).1 (hsame u x).2) (fun u x y hy => Prod.ext (hother u x y hy).1 (hother u x y hy).2) (dieChans_nodup die) v).1 c hc
  have hwindow : v.retrainWindow die = v.forAll (dieChans die) Dev.retrainLive := if_pos (by simp [hw, hr, hfirst])
  have hc' := congrArg Prod.snd honce
  dsimp only at hc'
  rw [hwindow, hc', hl, Bool.true_or]

/-! ### Retrains outside a window (R412 to R415) -/

theorem Dev.retrain_chan (v : Dev) (ch cause : Nat) :
    (v.retrain ch cause).chan ch = { v.chan ch with retraining := true, retrains := satAdd (v.chan ch).retrains 1 255 } :=
  ((Dev.ev_within _ _ _ _ _ _).chan_eq (by decide) ch).trans (Dev.chan_modChan_same _ _ _)

/-- A spare in use changes neither the count of retrains nor what else the channel holds but its spares. -/
theorem Chan.spare_retrains {c d : Chan} {isCa : Bool} {group : Nat} (h : c.spare isCa group = some d) : d.retrains = c.retrains := by
  unfold Chan.spare at h
  split at h <;> split at h
  · cases h
  · exact (Option.some.inj h) ▸ rfl
  · exact (Option.some.inj h) ▸ rfl
  · cases h

section
variable {v : Dev} {ch : Nat} {isCa : Bool} {group : Nat}

theorem laneFails_of_spare {c : Chan} (h : (v.chan ch).spare isCa group = some c) (lane : Nat) (m : Mgmt) :
    (laneFails ch isCa group lane m v).2 = (v.modChan ch (fun _ => c)).retrain ch 1 := by
  simp [laneFails, swapLane, h]

theorem laneFails_without_spare (h : (v.chan ch).spare isCa group = none) (lane : Nat) (m : Mgmt) : laneFails ch isCa group lane m v =
    (m, (v.modChan ch (fun c => { c with retirePending := true })).ev (ch / 128) (48 + ch / 32) 0x034 ch lane) := by
  simp [laneFails, swapLane, h]

/-- A failing lane with a spare left gives way to it, and the channel retrains once (R412, R414). -/
theorem laneFails_retrains (h : ((v.chan ch).spare isCa group).isSome = true) (lane : Nat) (m : Mgmt) :
    ((laneFails ch isCa group lane m v).2.chan ch).retraining = true ∧
    ((laneFails ch isCa group lane m v).2.chan ch).retrains = satAdd (v.chan ch).retrains 1 255 := by
  obtain ⟨c, hc⟩ := Option.isSome_iff_exists.mp h
  rw [laneFails_of_spare hc, Dev.retrain_chan, Dev.chan_modChan_same]
  exact ⟨rfl, by rw [Chan.spare_retrains hc]⟩

end

section
variable {v : Dev} {ch : Nat} (hl : v.chanLive ch = true) (m : Mgmt)
include hl

theorem unscheduled_drift : unscheduled ch .drift m v = (m, v.retrain ch 2) := by simp [unscheduled, hl]
theorem unscheduled_due : unscheduled ch .due m v = (m, if v.windowed && v.inRetrain then v else v.retrain ch 0) := by simp [unscheduled, hl]
theorem unscheduled_lane (isCa : Bool) (group lane : Nat) (why : LaneWhy) : unscheduled ch (.lane isCa group lane why) m v =
    if laneFailing why then laneFails ch isCa group lane m v else (m, v) := by simp [unscheduled, hl]

/-- The causes that retrain a live channel, each counted once in RETRAINS (R411, R412, R414). -/
theorem unscheduled_retrains {cause : RetrainCause} (h : cause = .drift ∨ (cause = .due ∧ (v.windowed = false ∨ v.inRetrain = false)) ∨
      ∃ isCa g l why, cause = .lane isCa g l why ∧ laneFailing why = true ∧ ((v.chan ch).spare isCa g).isSome = true) :
    ((unscheduled ch cause m v).2.chan ch).retraining = true ∧
    ((unscheduled ch cause m v).2.chan ch).retrains = satAdd (v.chan ch).retrains 1 255 := by
  obtain rfl | ⟨rfl, hout⟩ | ⟨isCa, g, l, why, rfl, hwhy, hspare⟩ := h
  · rw [unscheduled_drift hl, Dev.retrain_chan]
    exact ⟨rfl, rfl⟩
  · rw [unscheduled_due hl, if_neg (by simpa [imp_iff_not_or] using hout), Dev.retrain_chan]
    exact ⟨rfl, rfl⟩
  · rw [unscheduled_lane hl, if_pos hwhy]
    exact laneFails_retrains hspare l m

end

/-- A retrain that ends frees the queue's slots; one that failed outright marks the channel FAILED (R413, R415). -/
theorem Dev.retrainEnd_chan {v : Dev} {ch : Nat} (h : (v.chan ch).retraining = true) (ok : Bool) : (v.retrainEnd ch ok).chan ch =
    { v.chan ch with retraining := false, queue := [], trained := ok, failed := (v.chan ch).failed || !ok } := by
  rw [Dev.retrainEnd, if_neg (by simp [h])]
  dsimp only
  split
  · exact Dev.chan_modChan_same _ _ _
  · exact ((Dev.modStk_within _ _ _).chan_eq (by decide) ch).trans (Dev.chan_modChan_same _ _ _)

/-! ### The map (R440) -/

theorem Dev.mapCfgWrite_refused {v : Dev} (h : v.mapQuiet = false) (x : W32) : v.mapCfgWrite x = v.modHbm (fun h => { h with refused := true }) :=
  if_pos (by simp [h])

theorem Dev.mapCfgWrite_same {v : Dev} (h : v.mapQuiet = true) {x : W32} (hx : bits x.toNat 0 0 = v.hbm.mode) : v.mapCfgWrite x = v :=
  (if_neg (by simp [h])).trans (if_pos hx)

theorem Dev.mapCfgWrite_changes {v : Dev} (h : v.mapQuiet = true) {x : W32} (hx : bits x.toNat 0 0 ≠ v.hbm.mode) :
    v.mapCfgWrite x = v.modHbm (fun h => { h with mode := bits x.toNat 0 0, mem := [], stkBad := [], stkSoft := [], busy := true }) :=
  (if_neg (by simp [h])).trans (if_neg hx)

/-- Where no write is held there is none to let take effect, and no update to release. -/
theorem Dev.releaseWrites_of_none {v : Dev} (hheld : v.moult.held = []) (hn : v.noneHeld) : v.releaseWrites = v := by
  rw [Dev.releaseWrites, hheld]
  exact Dev.releaseHeld_of_noneHeld hn

theorem Dev.rebuildDone_quiet {v : Dev} (hn : v.noneHeld) (hheld : v.moult.held = []) (hw : v.hbm.waiting = []) :
    v.rebuildDone = v.modHbm (fun h => { h with busy := false, waiting := [] }) := by
  rw [Dev.rebuildDone, hw, Dev.releaseWrites_of_none (v := v.modHbm _) hheld hn]
  rfl

/-! ### The commands, clause by clause -/

/-- UNSCHEDULED_RETRAIN of a live channel. -/
theorem unscheduledRetrain_clause (s : State) (ch : ChanId) (cause : RetrainCause) (hl : s.dev.chanLive ch = true) :
    ∃ t : State, exec (.unscheduledRetrain ch cause) s = .next t ∧ t.pending = s.pending ∧
      (cause = .drift ∨ (cause = .due ∧ (s.dev.windowed = false ∨ s.dev.inRetrain = false)) ∨
        (∃ isCa g l why, cause = .lane isCa g l why ∧ laneFailing why = true ∧ ((s.dev.chan ch).spare isCa g).isSome = true) →
        (t.dev.chan ch).retraining = true ∧ (t.dev.chan ch).retrains = satAdd (s.dev.chan ch).retrains 1 255) ∧
      (cause = .due → s.dev.windowed = true → s.dev.inRetrain = true → t = s) ∧
      (∀ isCa g l why, cause = .lane isCa g l why → laneFailing why = false → t = s) ∧
      (∀ isCa g l why, cause = .lane isCa g l why → laneFailing why = true → (s.dev.chan ch).spare isCa g = none →
        (t.dev.chan ch).retirePending = true ∧ t.mgmt = s.mgmt) := by
  have hchan : ∀ u : Dev, (Dev.merged s.dev u).chan ch = u.chan ch := fun u => (Dev.merged_within s.dev u).chan_eq (by decide) ch
  have hsame : ({ s with dev := Dev.merged s.dev s.dev } : State) = s := s.ends_self
  refine ⟨_, State.onBoth_eq s _, rfl, fun h => ?_, ?_, ?_, ?_⟩
  · dsimp only
    rw [hchan]
    exact unscheduled_retrains hl s.mgmt h
  · rintro rfl hw hr
    rw [unscheduled_due hl, if_pos (by simp [hw, hr])]
    exact hsame
  · rintro isCa g l why rfl hwhy
    rw [unscheduled_lane hl, if_neg (by simp [hwhy])]
    exact hsame
  · rintro isCa g l why rfl hwhy hspare
    dsimp only
    rw [hchan, unscheduled_lane hl, if_pos hwhy, laneFails_without_spare hspare]
    refine ⟨?_, rfl⟩
    rw [(Dev.ev_within _ _ _ _ _ _).chan_eq (by decide), Dev.chan_modChan_same]

/-- Settles O45: each command by its equation in each of its cases. -/
theorem maintenanceComplete : Obligations.MaintenanceComplete := by
  intro s v
  refine ⟨fun d => ⟨_, rfl, fun hw hr c hc => Dev.refreshWindow_deferred hw hr (mem_dieChans hc), fun h => Dev.refreshWindow_outside h d⟩,
    fun ch => ⟨_, rfl, fun hw hr h => Dev.refreshDue_defers hw hr h, fun h => Dev.refreshDue_inside h ch⟩,
    fun d => ⟨_, rfl, fun hw hr hfirst c hc hl => Dev.retrainWindow_retrains hw hr hfirst (mem_dieChans hc) hl,
      fun h => Dev.retrainWindow_elsewhere h d⟩,
    fun ch cause hl => unscheduledRetrain_clause s ch cause hl, fun ch ok h => ⟨v.retrainEnd ch ok, rfl, ?retrainEnd⟩,
    fun x => ⟨v.mapCfgWrite x, rfl, fun h => ?refused, fun h hx => ?changed, fun h hx => Dev.mapCfgWrite_same h hx⟩, rfl,
    fun hn hheld hw => congrArg (fun w => Host.Outcome.next (s.ends w)) (Dev.rebuildDone_quiet hn hheld hw),
    fun x => ⟨v.maintWrite x, rfl, ?maint, fun h => if_pos h, fun h => ?taken⟩⟩
  case retrainEnd =>
    rw [Dev.retrainEnd_chan h]
    exact ⟨rfl, rfl, rfl, rfl⟩
  case refused =>
    rw [Dev.mapCfgWrite_refused h]
    exact ⟨rfl, rfl, rfl⟩
  case changed =>
    rw [Dev.mapCfgWrite_changes h hx]
    exact ⟨rfl, rfl, fun _ => rfl⟩
  case maint =>
    unfold Dev.maintWrite
    split <;> rfl
  case taken =>
    rw [Dev.maintWrite, if_neg (by simp [h])]
    rfl

end Sys2Proof.Machine

/-! Power (15): what a thermal trip leaves of the stacks' readings, the cap's control step, the energy counters, and from them O51. -/

namespace Sys2Proof.Machine

/-! ### Tables changed entry by entry -/

/-- A fold that changes each of several entries once changes each of them as asked, and no other. -/
theorem tget_foldl_tmod {α : Type} [DecidableEq α] (d : α) (g : Nat → α → α) {xs : List Nat} (hn : xs.Nodup) (t : Tab α) (k : Nat) :
    tget d (xs.foldl (fun t i => tmod d t i (g i)) t) k = if k ∈ xs then g k (tget d t k) else tget d t k := by
  induction xs generalizing t with
  | nil => rfl
  | cons a r ih =>
    obtain ⟨ha, hr⟩ := List.nodup_cons.mp hn
    rw [List.foldl_cons, ih hr]
    by_cases hk : k = a
    · subst hk
      rw [if_neg ha, tget_tmod_same, if_pos List.mem_cons_self]
    · rw [tget_tmod_ne _ _ _ hk]
      simp [hk]

/-- An element is at most the largest met in a fold. -/
theorem le_foldl_max (f : Nat → Nat) {xs : List Nat} {x : Nat} (hx : x ∈ xs) (a : Nat) : f x ≤ xs.foldl (fun b i => max b (f i)) a := by
  have hfrom : ∀ (ys : List Nat) (b : Nat), b ≤ ys.foldl (fun b i => max b (f i)) b := fun ys => by
    induction ys with
    | nil => exact fun b => Nat.le_refl b
    | cons y r ih => exact fun b => (Nat.le_max_left b (f y)).trans (ih _)
  induction xs generalizing a with
  | nil => exact absurd hx List.not_mem_nil
  | cons y r ih =>
    rcases List.mem_cons.mp hx with rfl | hx
    · exact (Nat.le_max_right a (f x)).trans (hfrom r _)
    · exact ih hx _

/-! ### TEMP and HOT of the stacks (R408) -/

/-- TEMP and HOT of a stack. -/
def Dev.heat (v : Dev) (k : Nat) : Nat × Bool := ((v.stk k).temp, (v.stk k).hot)

theorem Dev.Within.heat_eq {F : List Part} {v w : Dev} (h : Dev.Within F v w) (hp : Part.stackRegs ∉ F) : w.heat = v.heat := by
  have hregs : w.hbm.stackRegs = v.hbm.stackRegs := h.1 .stackRegs hp
  funext k
  rw [Dev.heat, Dev.stk, hregs]
  rfl

theorem Dev.modStk_heat (v : Dev) (k : Nat) {g : Stack → Stack} (h : ∀ q, (g q).temp = q.temp ∧ (g q).hot = q.hot) :
    (v.modStk k g).heat = v.heat := by
  funext j
  by_cases hj : j = k
  · subst hj
    rw [Dev.heat, Dev.stk_modStk_same, (h _).1, (h _).2, Dev.heat]
  · rw [Dev.heat, Dev.stk_modStk_ne _ _ _ hj, Dev.heat]

theorem Dev.tookSlot_heat (v : Dev) (ch : Nat) : (v.tookSlot ch).heat = v.heat := by
  unfold Dev.tookSlot
  split
  · exact v.modStk_heat _ fun _ => ⟨rfl, rfl⟩
  · rfl

/-- A write into stack memory, held or in effect, may set QFULL of a stack, but neither TEMP nor HOT. -/
theorem Dev.submit_write_heat (v : Dev) (a : Nat) (bs : List Byte) (req : Nat) (owner : Option Owner) :
    (v.submit (.write a bs) req owner).heat = v.heat := by
  have hput : ∀ u : Dev, (u.applyTask (.write a bs)).heat = u.heat := fun _ => rfl
  unfold Dev.submit
  dsimp only
  split
  · exact Dev.tookSlot_heat _ _
  · split
    · rw [hput, Dev.tookSlot_heat]
      rfl
    · exact hput v

theorem Dev.versionAbort_heat (v : Dev) (k : Nat) (f : Flight) : (v.versionAbort k f).heat = v.heat := by
  unfold Dev.versionAbort
  dsimp only
  split
  · split
    · exact v.submit_write_heat _ _ _ _
    · split
      · exact v.submit_write_heat _ _ _ _
      · rfl
  · rfl

theorem Dev.withdrawOne_heat (v : Dev) (k : Nat) (f : Flight) : (v.withdrawOne k f).heat = v.heat := by
  unfold Dev.withdrawOne
  dsimp only
  split
  · exact (Dev.versionAbort_heat _ k f).trans rfl
  · split
    · exact (Dev.dmaDrain_within _ _ _).heat_eq (by decide)
    · rfl
  all_goals rfl

theorem Dev.stopSched_heat (v : Dev) (id : Nat) : (v.stopSched id).heat = v.heat := by
  have hone : ∀ (k : Nat) (u : Dev) (f : Flight), (if !f.withdrawn && u.waitsInside k f then u.withdrawOne k f else u).heat = u.heat :=
      fun k u f => by
    split
    · exact u.withdrawOne_heat k f
    · rfl
  have hwaiting : ∀ (u : Dev) (k : Nat), (u.withdrawWaiting k).heat = u.heat := fun u k => Dev.forAll_keeps Dev.heat (hone k) _ u
  exact (Dev.forAll_keeps Dev.heat hwaiting _ _).trans (Dev.forAll_keeps Dev.heat (f := fun u k => u.modStrm k _) (fun _ _ => rfl) _ _)

theorem Dev.beginCapture_heat (v : Dev) (die cause : Nat) (at? : Option (Nat × Nat)) (detail : W64) (ids : List Nat) :
    (v.beginCapture die cause at? detail ids).heat = v.heat :=
  (Dev.forAll_keeps Dev.heat Dev.stopSched_heat _ _).trans (Dev.forAll_keeps Dev.heat (f := fun u id => u.modSched id _) (fun _ _ => rfl) _ _)

theorem Dev.dieFault_heat (v : Dev) (die cause : Nat) (at? : Option (Nat × Nat)) (detail : W64) (ids : List Nat) :
    (v.dieFault die cause at? detail ids).heat = v.heat := by
  have hflt : ∀ (u : Dev) (d : Nat) (g : FaultRec → FaultRec), (u.modFlt d g).heat = u.heat := fun _ _ _ => rfl
  have hstop : ∀ (u : Dev) (id : Nat) (g : Sched → Sched), ((u.modSched id g).stopSched id).heat = u.heat := fun u id g =>
    ((u.modSched id g).stopSched_heat id).trans rfl
  unfold Dev.dieFault
  dsimp only
  split
  · rw [(Dev.ev_within _ _ _ _ _ _).heat_eq (by decide)]
    split
    · rw [Dev.forAll_keeps Dev.heat fun u id => hstop u id _, hflt]
    · rw [hflt, Dev.forAll_keeps Dev.heat fun u id => hstop u id _, hflt]
  · exact v.beginCapture_heat die cause at? detail ids

theorem Dev.clearFlights_heat (v : Dev) (id : Nat) : (v.clearFlights id).heat = v.heat := by
  have habort : ∀ (u : Dev) (p : Nat × Flight), (if p.2.withdrawn then u else u.versionAbort p.1 p.2).heat = u.heat := fun u p => by
    split
    · rfl
    · exact u.versionAbort_heat p.1 p.2
  have hslip : ∀ (u : Dev) (k : Nat) (g : Strm → Strm), ((u.modStrm k g).reslip k).heat = u.heat := fun u k g =>
    ((Dev.reslip_within _ k).heat_eq (by decide)).trans rfl
  unfold Dev.clearFlights
  dsimp only
  split
  · rfl
  · rw [Dev.forAll_keeps Dev.heat fun u k => hslip u k _, Dev.forAll_keeps Dev.heat habort]

theorem Dev.endStopped_heat (v : Dev) (id : Nat) : (v.endStopped id).heat = v.heat := by
  have hsched : ∀ (u : Dev) (g : Sched → Sched), (u.modSched id g).heat = u.heat := fun _ _ => rfl
  unfold Dev.endStopped
  dsimp only
  split
  · rw [hsched, Dev.clearFlights_heat]
  · rw [(Dev.completeThen_within _ _ _ _ _ _ _ _).heat_eq (by decide), hsched, Dev.clearFlights_heat]

theorem Dev.closeRecord_heat (v : Dev) (die : Nat) (timed late : Bool) : (v.closeRecord die timed late).heat = v.heat :=
  (Dev.forAll_keeps Dev.heat Dev.endStopped_heat _ _).trans (((Dev.ev_within _ _ _ _ _ _).heat_eq (by decide)).trans
    ((Dev.writeRecord_within v die timed).heat_eq (by decide)))

theorem Dev.tripDie_heat (v : Dev) (die : Nat) : (v.tripDie die).heat = v.heat := by
  unfold Dev.tripDie
  dsimp only
  split
  · exact v.dieFault_heat _ _ _ _ _
  · exact (Dev.closeRecord_heat _ _ _ _).trans (v.dieFault_heat _ _ _ _ _)

/-- A trip stops the schedules and puts the stacks into self-refresh; TEMP and HOT stand as sampled (R419, R550). -/
theorem Dev.trip_heat (v : Dev) : v.trip.heat = v.heat := by
  have hrefresh : ∀ (u : Dev) (on : Bool), (u.selfRefresh on).heat = u.heat := fun u on =>
    Dev.forAll_keeps Dev.heat (f := fun w k => w.modStk k (fun s => { s with selfRefresh := on }))
      (fun w k => w.modStk_heat k fun _ => ⟨rfl, rfl⟩) _ u
  rw [Dev.trip, (Dev.evMgmt_within _ _ _ _).heat_eq (by decide), (Dev.powerEdge_within _ _).heat_eq (by decide), hrefresh,
    (Dev.modPwr_within _ _).heat_eq (by decide), Dev.tripDie_heat, Dev.tripDie_heat]

theorem Dev.trip_pwr (v : Dev) : v.trip.pwr = { v.pwr with tripped := true, charging := false, tripSamples := 0 } := by
  rw [Dev.trip, (Dev.evMgmt_within _ _ _ _).pwr_eq (by decide), (Dev.powerEdge_within _ _).pwr_eq (by decide),
    (Dev.selfRefresh_within _ _).pwr_eq (by decide), Dev.modPwr_pwr, (Dev.tripDie_within _ 1).pwr_eq (by decide),
    (Dev.tripDie_within v 0).pwr_eq (by decide)]

/-! ### THERMAL_SAMPLE (R408, R548 to R551) -/

/-- The device with the readings of a sample taken. -/
def Dev.sampled (v : Dev) (tj0 tj1 : Nat) (ts : List Nat) : Dev :=
  (v.forAll (List.range 8) (fun u k => u.modStk k (fun s => s.warm (ts.getD k 0)))).modPwr (fun p => { p with
    tj := tset 0 (tset 0 p.tj 0 tj0) 1 tj1
    ts := (List.range 8).foldl (fun t k => tset 0 t k (ts.getD k 0)) p.ts })

/-- The power state once a sample has been judged: the hot samples in a row, and the request where Forzoevo's policy runs. -/
def Pwr.judged (p : Pwr) (policy : Bool) : Pwr :=
  { p with tripSamples := if p.hotSample then min 2 (p.tripSamples + 1) else 0, thermReq := if policy then p.thermNext else p.thermReq }

/-- The device once a sample has been judged, with the event of a request that begins (R549). -/
def Dev.judged (v : Dev) (policy : Bool) (before : Nat) : Dev :=
  let u := v.modPwr (fun p => p.judged policy)
  (if before = 0 ∧ u.pwr.thermReq ≠ 0 then u.evMgmt 0x065 u.pwr.tjMax u.pwr.tsMax else u).updateReq

theorem Dev.thermalSample_eq (v : Dev) (policy : Bool) (a b : Nat) (ts : List Nat) : v.thermalSample policy a b ts =
    if !v.pwr.rails then v
    else if (v.sampled a b ts).pwr.tripped then v.sampled a b ts
    else
      let u := (v.sampled a b ts).judged policy v.pwr.thermReq
      if 2 ≤ u.pwr.tripSamples && !u.pwr.chrysalis then u.trip else u := rfl

theorem Dev.judged_within (v : Dev) (policy : Bool) (before : Nat) :
    Dev.Within [.time, .master, .out, .hif] (v.modPwr (fun p => p.judged policy)) (v.judged policy before) :=
  (Dev.updateReq_within _).step (by decide)
    (Dev.Within.ite ((Dev.evMgmt_within _ _ _ _).step (by decide) (Dev.Within.refl _ _)) (Dev.Within.refl _ _))

section
variable (v : Dev) (a b : Nat) (ts : List Nat)

theorem Dev.sampled_pwr : (v.sampled a b ts).pwr = { v.pwr with
    tj := tset 0 (tset 0 v.pwr.tj 0 a) 1 b, ts := (List.range 8).foldl (fun t k => tset 0 t k (ts.getD k 0)) v.pwr.ts } := by
  have hwarm : (v.forAll (List.range 8) (fun u k => u.modStk k (fun s => s.warm (ts.getD k 0)))).pwr = v.pwr :=
    Dev.forAll_keeps Dev.pwr (f := fun u k => u.modStk k _) (fun _ _ => rfl) _ v
  rw [Dev.sampled, Dev.modPwr_pwr, hwarm]

theorem Dev.sampled_tj : tget 0 (v.sampled a b ts).pwr.tj 0 = a ∧ tget 0 (v.sampled a b ts).pwr.tj 1 = b := by
  rw [Dev.sampled_pwr]
  exact ⟨(tget_tset_ne _ _ _ (by decide)).trans (tget_tset_same _ _ _ _), tget_tset_same _ _ _ _⟩

theorem Dev.sampled_ts {k : Nat} (hk : k < 8) : tget 0 (v.sampled a b ts).pwr.ts k = ts.getD k 0 := by
  rw [Dev.sampled_pwr]
  exact (tget_foldl_tmod 0 (fun k _ => ts.getD k 0) List.nodup_range v.pwr.ts k).trans (if_pos (List.mem_range.mpr hk))

theorem Dev.sampled_heat {k : Nat} (hk : k < 8) : (v.sampled a b ts).heat k =
    (ts.getD k 0 % 256, decide (85 < ts.getD k 0) || ((v.stk k).hot && decide (83 < ts.getD k 0))) := by
  have hwarm := Dev.forAll_range_once Dev.stk (f := fun u k => u.modStk k (fun s => s.warm (ts.getD k 0))) (g := fun k q => q.warm (ts.getD k 0))
    (fun u x => Dev.stk_modStk_same u x _) (fun u x y hy => Dev.stk_modStk_ne u x _ hy) v hk
  rw [Dev.heat, Dev.sampled, (Dev.modPwr_within _ _).stk_eq (by decide), hwarm]
  rfl

/-- A sample of which a die or a stack is at its trip limit is hot (R550). -/
theorem Dev.sampled_hot (h : 115 ≤ max a b ∨ ∃ k : StackId, 105 ≤ ts.getD k 0) : (v.sampled a b ts).pwr.hotSample = true := by
  obtain ⟨h0, h1⟩ := v.sampled_tj a b ts
  obtain hdie | ⟨k, hstack⟩ := h
  · simp [Pwr.hotSample, Pwr.tjMax, h0, h1, hdie]
  · have hmax : ts.getD k 0 ≤ (v.sampled a b ts).pwr.tsMax := v.sampled_ts a b ts k.isLt ▸
      le_foldl_max (fun i => tget 0 (v.sampled a b ts).pwr.ts i) (List.mem_range.mpr k.isLt) 0
    simp [Pwr.hotSample, hstack.trans hmax]

end

/-- The thermal request follows from the readings, THERM_LEVEL and the request before (R549). -/
theorem Pwr.thermNext_congr {p q : Pwr} (htj : p.tj = q.tj) (hts : p.ts = q.ts) (hcfg : p.cfgInForce = q.cfgInForce)
    (hreq : p.thermReq = q.thermReq) : p.thermNext = q.thermNext := by
  unfold Pwr.thermNext Pwr.tjMax Pwr.tsMax Pwr.thermLevel
  rw [htj, hts, hcfg, hreq]

/-- What a sample leaves, whether or not it trips the module. -/
theorem Dev.thermalSample_effect {v : Dev} (hr : v.pwr.rails = true) (policy : Bool) (a b : Nat) (ts : List Nat) {u w : Dev}
    (hu : v.sampled a b ts = u) (hw : v.thermalSample policy a b ts = w) : w.heat = u.heat ∧ w.pwr.tj = u.pwr.tj ∧ w.pwr.ts = u.pwr.ts ∧
    (v.pwr.tripped = false → w.pwr.thermReq = (u.pwr.judged policy).thermReq ∧ w.pwr.cfgInForce = v.pwr.cfgInForce ∧
      (v.pwr.chrysalis = false → 1 ≤ v.pwr.tripSamples → u.pwr.hotSample = true → w.pwr.tripped = true)) := by
  have hpwr : u.pwr = _ := hu ▸ v.sampled_pwr a b ts
  have htripped : u.pwr.tripped = v.pwr.tripped := by rw [hpwr]
  have hcfg : u.pwr.cfgInForce = v.pwr.cfgInForce := by rw [hpwr]
  have hsamples : u.pwr.tripSamples = v.pwr.tripSamples := by rw [hpwr]
  have hchrysalis : u.pwr.chrysalis = v.pwr.chrysalis := by rw [hpwr]
  have hq := u.judged_within policy v.pwr.thermReq
  have hqpwr : (u.judged policy v.pwr.thermReq).pwr = u.pwr.judged policy := hq.pwr_eq (by decide)
  have hqheat : (u.judged policy v.pwr.thermReq).heat = u.heat := hq.heat_eq (by decide)
  rw [Dev.thermalSample_eq, if_neg (by simp [hr]), hu] at hw
  generalize u.judged policy v.pwr.thermReq = q at hqpwr hqheat hw
  rw [← hw]
  cases ht : v.pwr.tripped with
  | true =>
    rw [if_pos (htripped.trans ht)]
    exact ⟨rfl, rfl, rfl, fun h => absurd h (by decide)⟩
  | false =>
    rw [if_neg (by rw [htripped, ht]; decide)]
    dsimp only
    split
    · rw [Dev.trip_heat, Dev.trip_pwr, hqpwr, hqheat]
      exact ⟨rfl, rfl, rfl, fun _ => ⟨rfl, hcfg, fun _ _ _ => rfl⟩⟩
    · next hcold =>
      rw [hqpwr, hqheat]
      refine ⟨rfl, rfl, rfl, fun _ => ⟨rfl, hcfg, fun hc hs hhot => absurd ?_ hcold⟩⟩
      have htwo : (u.pwr.judged policy).tripSamples = min 2 (v.pwr.tripSamples + 1) := (if_pos hhot).trans (by rw [hsamples])
      have hawake : (u.pwr.judged policy).chrysalis = false := hchrysalis.trans hc
      rw [hqpwr, htwo, hawake, Bool.not_false, Bool.and_true, decide_eq_true_eq]
      omega

theorem Mgmt.logAdd_resetDue (m : Mgmt) (ms code a0 a1 : Nat) : (m.logAdd ms code a0 a1).resetDue = m.resetDue := by rw [Mgmt.logAdd]

/-- With no reset waiting for the module to cool, a sample ends in the trip's log entry at most (R551). -/
theorem thermalStep_of_no_reset {m : Mgmt} (h : m.resetDue = false) (a b : Nat) (ts : List Nat) (v : Dev) :
    thermalStep a b ts m v = logTrip v m (v.thermalSample m.running a b ts) := by
  have hlog : (logTrip v m (v.thermalSample m.running a b ts)).1.resetDue = m.resetDue := by
    unfold logTrip
    split
    · exact m.logAdd_resetDue _ _ _ _
    · rfl
  unfold thermalStep
  simp only [hlog, h, Bool.false_and, Bool.false_eq_true, if_false]

/-! ### The cap's control step (R543 to R547) -/

theorem Pwr.share_setShare (p : Pwr) (d n : Nat) : (p.setShare d n).share d = n := by
  rcases d with _ | _ | d <;> rfl

/-- The step of a control instant: a cut above the cap, UNMET where nothing is left to cut, a restore where there is room. -/
def Pwr.capStep (p : Pwr) (proj : Nat) (room : Bool) : Pwr :=
  if p.capWatts < proj then
    (match p.nextCut with
     | some d => p.cut d
     | none => { p with unmet := true })
  else if room then p.restore else p

/-- The power state but for what a control step moves. -/
def Pwr.steady (p : Pwr) : Pwr := { p with kc := 0, memShare := 0, linkShare := 0, cuts := [], unmet := false }

theorem Pwr.setShare_steady (p : Pwr) (d n : Nat) : (p.setShare d n).steady = p.steady := by
  rcases d with _ | _ | d <;> rfl

/-- The step moves the shares, the cuts and UNMET alone. -/
theorem Pwr.capStep_steady (p : Pwr) (proj : Nat) (room : Bool) : (p.capStep proj room).steady = p.steady := by
  unfold Pwr.capStep Pwr.restore
  split
  · split
    · exact p.setShare_steady _ _
    · rfl
  · split
    · split
      · rfl
      · exact p.setShare_steady _ _
    · rfl

section
variable {p : Pwr} {proj : Nat}

theorem Pwr.capStep_cuts (h : p.capWatts < proj) (room : Bool) {d : Nat} (hd : p.nextCut = some d) : p.capStep proj room = p.cut d := by
  rw [Pwr.capStep, if_pos h, hd]

theorem Pwr.capStep_unmet (h : p.capWatts < proj) (room : Bool) (hd : p.nextCut = none) : p.capStep proj room = { p with unmet := true } := by
  rw [Pwr.capStep, if_pos h, hd]

theorem Pwr.capStep_restores (h : proj ≤ p.capWatts) {d : Nat} {r : List Nat} (hc : p.cuts = d :: r) :
    p.capStep proj true = { p.setShare d (p.share d + 1) with cuts := r } := by
  rw [Pwr.capStep, if_neg (Nat.not_lt.mpr h), if_pos rfl, Pwr.restore, hc]

theorem Pwr.capStep_rests (h : proj ≤ p.capWatts) {room : Bool} (hr : room = false ∨ p.cuts = []) : p.capStep proj room = p := by
  rw [Pwr.capStep, if_neg (Nat.not_lt.mpr h)]
  obtain rfl | hc := hr
  · rfl
  · rw [Pwr.restore, hc, ite_self]

end

/-- The power state as a control instant finds it: what was handed over is in force, and the readings are taken. -/
def Pwr.atInstant (p : Pwr) (pin pavg : Nat) : Pwr := { p.takeWrites with pin := pin % 65536, pavg := pavg % 65536 }

/-- The control step of the device, with the event that UNMET brings. -/
def Dev.capStep (v : Dev) (proj pavg : Nat) (room : Bool) : Dev :=
  if decide (v.pwr.capWatts < proj) then
    (match v.pwr.nextCut with
     | some d => v.modPwr (fun p => p.cut d)
     | none => if v.pwr.unmet then v else (v.modPwr (fun p => { p with unmet := true })).evMgmt 0x064 v.pwr.effCap (pavg % 65536))
  else if room then v.modPwr Pwr.restore else v

theorem Dev.capStep_pwr (v : Dev) (proj pavg : Nat) (room : Bool) : (v.capStep proj pavg room).pwr = v.pwr.capStep proj room := by
  unfold Dev.capStep Pwr.capStep
  by_cases h : v.pwr.capWatts < proj
  · rw [if_pos (decide_eq_true h), if_pos h]
    cases v.pwr.nextCut with
    | some d => rfl
    | none =>
      dsimp only
      split
      · next hunmet => rw [← hunmet]
      · exact (Dev.evMgmt_within _ _ _ _).pwr_eq (by decide)
  · rw [if_neg (by simpa using h), if_neg h]
    cases room <;> rfl

theorem Dev.capStep_strms (v : Dev) (proj pavg : Nat) (room : Bool) : (v.capStep proj pavg room).strms = v.strms := by
  unfold Dev.capStep
  split
  · split
    · rfl
    · split
      · rfl
      · exact (Dev.evMgmt_within _ _ _ _).strms_eq (by decide)
  · split <;> rfl

theorem Dev.anySlip_congr {v w : Dev} (h : w.strms = v.strms) : w.anySlip = v.anySlip := by unfold Dev.anySlip Dev.strm; rw [h]

/-- A control instant takes what was handed over, makes its step, and settles the cap's request (R543 to R547). -/
theorem Dev.capInstant_pwr {v : Dev} (h : v.capRuns = true) (proj pin pavg : Nat) (room quiet : Bool) :
    let q := (v.pwr.atInstant pin pavg).capStep proj room
    (v.capInstant proj pin pavg room quiet).pwr =
      { q with capReq := capReqNext v.pwr.capReq (decide (q.kc < 16) && v.anySlip) quiet } := by
  intro q
  have hq : ((v.modPwr (fun p => p.atInstant pin pavg)).capStep proj pavg room).pwr = q := Dev.capStep_pwr _ proj pavg room
  have hslip : ((v.modPwr (fun p => p.atInstant pin pavg)).capStep proj pavg room).anySlip = v.anySlip :=
    Dev.anySlip_congr (Dev.capStep_strms _ proj pavg room)
  have hreq := congrArg Pwr.capReq ((v.pwr.atInstant pin pavg).capStep_steady proj room)
  replace hreq : q.capReq = v.pwr.capReq := hreq
  have hinstant : v.capInstant proj pin pavg room quiet = (((v.modPwr (fun p => p.atInstant pin pavg)).capStep proj pavg room).modPwr (fun p =>
      { p with capReq := capReqNext p.capReq (decide (p.kc < 16) &&
        ((v.modPwr (fun p => p.atInstant pin pavg)).capStep proj pavg room).anySlip) quiet })).updateReq := if_neg (by simp [h])
  rw [hinstant, (Dev.updateReq_within _).pwr_eq (by decide), Dev.modPwr_pwr, hq, hslip, hreq]

/-! ### The commands, clause by clause -/

/-- CAP_CONTROL_INSTANT while the controller runs. -/
theorem Dev.capInstant_clause {v : Dev} (h : v.capRuns = true) (proj pin pavg : Nat) (room quiet : Bool) : let p := v.pwr.takeWrites
    let w := v.capInstant proj pin pavg room quiet
    w.pwr.hostCap = p.hostCap ∧ w.pwr.rackCap = p.rackCap ∧ w.pwr.win = p.win ∧ w.pwr.cfgInForce = v.pwr.cfg ∧ w.pwr.hostCapNext = none ∧
      w.pwr.rackCapNext = none ∧ w.pwr.pin = pin % 65536 ∧ w.pwr.pavg = pavg % 65536 ∧
      (p.capWatts < proj → ∀ d, p.nextCut = some d → w.pwr.share d = p.share d - 1 ∧ w.pwr.cuts = d :: p.cuts) ∧
      (p.capWatts < proj → p.nextCut = none → w.pwr.unmet = true ∧ w.pwr.cuts = p.cuts) ∧
      (proj ≤ p.capWatts → room = true → ∀ d r, p.cuts = d :: r → w.pwr.share d = p.share d + 1 ∧ w.pwr.cuts = r) ∧
      (proj ≤ p.capWatts → room = false ∨ p.cuts = [] → w.pwr.cuts = p.cuts ∧ ∀ d, w.pwr.share d = p.share d) ∧
      w.pwr.capReq = capReqNext v.pwr.capReq (decide (w.pwr.kc < 16) && v.anySlip) quiet := by
  intro p w
  have hw : w.pwr = _ := Dev.capInstant_pwr h proj pin pavg room quiet
  have hreq : w.pwr.capReq = capReqNext v.pwr.capReq (decide (w.pwr.kc < 16) && v.anySlip) quiet := by rw [hw]
  have hstep : ∀ q, (v.pwr.atInstant pin pavg).capStep proj room = q →
      w.pwr.unmet = q.unmet ∧ w.pwr.cuts = q.cuts ∧ ∀ d, w.pwr.share d = q.share d := by
    rintro q rfl
    rw [hw]
    exact ⟨rfl, rfl, fun _ => rfl⟩
  have hkeeps : { w.pwr.steady with capReq := 0 } = { (v.pwr.atInstant pin pavg).steady with capReq := 0 } := by
    rw [← (v.pwr.atInstant pin pavg).capStep_steady proj room, hw]
    rfl
  have hconf : ∀ {β : Type} (f : Pwr → β), f { w.pwr.steady with capReq := 0 } = f { (v.pwr.atInstant pin pavg).steady with capReq := 0 } :=
    fun f => congrArg f hkeeps
  refine ⟨hconf Pwr.hostCap, hconf Pwr.rackCap, hconf Pwr.win, hconf Pwr.cfgInForce, hconf Pwr.hostCapNext, hconf Pwr.rackCapNext, hconf Pwr.pin,
    hconf Pwr.pavg, fun hp d hd => ?cut, fun hp hd => ?unmet,
    fun hp hr d r hc => ?restored, fun hp hr => ?rests, hreq⟩
  case cut =>
    obtain ⟨-, hcuts, hshare⟩ := hstep _ (Pwr.capStep_cuts (p := v.pwr.atInstant pin pavg) hp room hd)
    exact ⟨(hshare d).trans (Pwr.share_setShare _ d _), hcuts⟩
  case unmet =>
    obtain ⟨hunmet, hcuts, -⟩ := hstep _ (Pwr.capStep_unmet (p := v.pwr.atInstant pin pavg) hp room hd)
    exact ⟨hunmet, hcuts⟩
  case restored =>
    subst hr
    obtain ⟨-, hcuts, hshare⟩ := hstep _ (Pwr.capStep_restores (p := v.pwr.atInstant pin pavg) hp hc)
    exact ⟨(hshare d).trans (Pwr.share_setShare _ d _), hcuts⟩
  case rests =>
    obtain ⟨-, hcuts, hshare⟩ := hstep _ (Pwr.capStep_rests (p := v.pwr.atInstant pin pavg) hp hr)
    exact ⟨hcuts, hshare⟩

theorem Dev.bankUpdate_pwr (v : Dev) (e : Nat) : (v.bankUpdate e).pwr.energy = min e 30000 ∧ (v.bankUpdate e).pwr.bankLow = decide (e < 24000) := by
  have hlow : decide (min e bankFull < 24000) = decide (e < 24000) := decide_eq_decide.mpr (by simp only [bankFull]; omega)
  have hcharge : ∀ u : Dev, u.recharge.pwr.energy = u.pwr.energy ∧ u.recharge.pwr.bankLow = u.pwr.bankLow := fun _ => ⟨rfl, rfl⟩
  unfold Dev.bankUpdate
  dsimp only
  rw [(hcharge _).1, (hcharge _).2, ← hlow]
  split
  · rw [(Dev.evMgmt_within _ _ _ _).pwr_eq (by decide)]
    exact ⟨rfl, rfl⟩
  · exact ⟨rfl, rfl⟩

/-- An interval adds to each entry its counted energy and its share of the rest (R553, R554). -/
theorem Dev.energyInterval_tab {v : Dev} (h : v.pwr.rails = true) (e : Nat) {i : Nat} (hi : i < 17) : tget 0 (v.energyInterval e).pwr.energyTab i =
    (tget 0 v.pwr.energyTab i + energyShare v.drawCounts.1 e i) % 2 ^ 64 := by
  rw [Dev.energyInterval, if_neg (by simp [h])]
  exact (tget_foldl_tmod 0 (fun i x => (x + energyShare v.drawCounts.1 e i) % 2 ^ 64) List.nodup_range v.pwr.energyTab i).trans
    (if_pos (List.mem_range.mpr hi))

/-- THERMAL_SAMPLE of a module that is not waiting to cool for a reset. -/
theorem thermalSample_clause (s : State) (a b : Nat) (ts : Vector Nat 8) (hr : s.dev.pwr.rails = true) (hd : s.mgmt.resetDue = false) :
    ∃ t : State, exec (.thermalSample a b ts) s = .next t ∧ t.pending = s.pending ∧ tget 0 t.dev.pwr.tj 0 = a ∧ tget 0 t.dev.pwr.tj 1 = b ∧
      (∀ k : StackId, tget 0 t.dev.pwr.ts k = ts.toList.getD k 0 ∧ (t.dev.stk k).temp = ts.toList.getD k 0 % 256 ∧
        (t.dev.stk k).hot = (decide (85 < ts.toList.getD k 0) || ((s.dev.stk k).hot && decide (83 < ts.toList.getD k 0)))) ∧
      (s.dev.pwr.tripped = false → s.mgmt.running = true →
        t.dev.pwr.thermReq = Pwr.thermNext { t.dev.pwr with thermReq := s.dev.pwr.thermReq }) ∧
      (s.dev.pwr.tripped = false → s.dev.pwr.chrysalis = false → 1 ≤ s.dev.pwr.tripSamples →
        (115 ≤ max a b ∨ ∃ k : StackId, 105 ≤ ts.toList.getD k 0) → t.dev.pwr.tripped = true) := by
  have hw : Dev.Within [.free, .hostMem, .hif, .out] (s.dev.thermalSample s.mgmt.running a b ts.toList)
      (Dev.merged s.dev (thermalStep a b ts.toList s.mgmt s.dev).2) := by
    rw [thermalStep_of_no_reset hd]
    exact (Dev.merged_within _ _).step (by decide) ((logTrip_within _ _ _).mono (by decide))
  have hpwr := hw.pwr_eq (by decide)
  have hheat := hw.heat_eq (by decide)
  obtain ⟨hstacks, htj, hts, hlive⟩ := Dev.thermalSample_effect hr s.mgmt.running a b ts.toList rfl rfl
  obtain ⟨h0, h1⟩ := s.dev.sampled_tj a b ts.toList
  refine ⟨_, State.onBoth_eq s _, rfl, ?_⟩
  dsimp only
  rw [hpwr, htj, hts]
  refine ⟨h0, h1, fun k => ?readings, fun ht hrun => ?request, fun ht hc hs hhot => ?trips⟩
  case readings =>
    have hk := (congrFun (hheat.trans hstacks) k).trans (s.dev.sampled_heat a b ts.toList k.isLt)
    exact ⟨s.dev.sampled_ts a b ts.toList k.isLt, congrArg Prod.fst hk, congrArg Prod.snd hk⟩
  case request =>
    obtain ⟨hreq, hcfg, -⟩ := hlive ht
    have hsame : (s.dev.sampled a b ts.toList).pwr.cfgInForce = s.dev.pwr.cfgInForce ∧
        (s.dev.sampled a b ts.toList).pwr.thermReq = s.dev.pwr.thermReq := by rw [s.dev.sampled_pwr a b ts.toList]; exact ⟨rfl, rfl⟩
    rw [hreq, Pwr.judged, hrun, if_pos rfl]
    rw [hrun] at hcfg
    exact Pwr.thermNext_congr rfl rfl (hsame.1.trans hcfg.symm) hsame.2
  case trips =>
    obtain ⟨-, -, htrips⟩ := hlive ht
    exact htrips hc hs (s.dev.sampled_hot a b ts.toList hhot)

/-- Settles O51: each command by what its equation leaves in the power state. -/
theorem powerControlsComplete : Obligations.PowerControlsComplete := by
  intro s v
  have hstands : ∀ u : Dev, u = v → Host.Outcome.next (s.ends u) = (.next s : Host.Outcome State Fault Refusal) := fun u hu =>
    congrArg Host.Outcome.next ((congrArg s.ends hu).trans s.ends_self)
  refine ⟨fun e => ⟨_, rfl, v.bankUpdate_pwr e⟩, fun n => ⟨_, rfl, fun hn hr => ?sampled, fun hn => ?below⟩, ⟨_, rfl, rfl⟩,
    fun proj pin pavg room quiet => ⟨fun hrun => ?idle, fun hrun hcap => ⟨_, ?instant, Dev.capInstant_clause hcap proj pin pavg room quiet⟩⟩,
    fun x => ⟨⟨_, rfl, rfl⟩, fun hx => ⟨v.pwrCfgWrite x, rfl, ?cfg⟩, fun hx => hstands (v.pwrCfgWrite x) (if_neg (by simp [hx])),
      fun hx => ⟨v.energyClear x, rfl, ?cleared⟩, fun hx => hstands (v.energyClear x) (if_neg (by simp [hx]))⟩,
    fun e hr => ⟨_, rfl, fun i hi => Dev.energyInterval_tab hr e hi⟩, fun a b ts hr hd => thermalSample_clause s a b ts hr hd⟩
  case sampled =>
    have habove : (decide (3200 < n) && v.pwr.rails) = true := by simp [hn, hr]
    exact congrArg Dev.pwr (if_pos habove)
  case below => exact if_neg (by simp [Nat.not_lt.mpr hn])
  case idle => exact hstands _ (if_neg (by simp [hrun]))
  case instant => exact congrArg (fun u => Host.Outcome.next (s.ends u)) (if_pos hrun)
  case cfg =>
    rw [Dev.pwrCfgWrite, if_pos hx]
    rfl
  case cleared =>
    rw [Dev.energyClear, if_pos hx]
    exact fun _ => rfl

end Sys2Proof.Machine

/-! Every command at once: what Forzoevo keeps of its fused SVN and of the attestation key, and the one inversion of exec, that every command
answers a next state with the queue as it was and only the command's own parts of the device changed; and from them O1 to O6, O59 and O60. -/

namespace Sys2Proof.Machine

/-! ### The fused SVN and the attestation key (R629, R631 to R634) -/

/-- The fused SVN and the attestation state log read the same in both, and so do NEXT and the indices released. -/
def Mgmt.SameTrust (m n : Mgmt) : Prop :=
  n.fusedSvn = m.fusedSvn ∧ n.released = m.released ∧ n.attNext = m.attNext ∧ n.attA = m.attA ∧ n.attB = m.attB ∧ n.attOnB = m.attOnB

theorem Mgmt.SameTrust.refl (m : Mgmt) : m.SameTrust m := ⟨rfl, rfl, rfl, rfl, rfl, rfl⟩
theorem Mgmt.SameTrust.trans {k m n : Mgmt} (h : k.SameTrust m) (g : m.SameTrust n) : k.SameTrust n := by
  obtain ⟨h1, h2, h3, h4, h5, h6⟩ := h
  obtain ⟨g1, g2, g3, g4, g5, g6⟩ := g
  exact ⟨g1.trans h1, g2.trans h2, g3.trans h3, g4.trans h4, g5.trans h5, g6.trans h6⟩

/-- The records of the active sector (R634). -/
def Mgmt.activeSector (m : Mgmt) : List AttRec := if m.attOnB then m.attB else m.attA

/-- The records of a sector hold a good one above each index released. -/
def Mgmt.covers (m : Mgmt) (rs : List AttRec) : Prop := ∀ n ∈ m.released, ∃ r ∈ rs, r.valid = true ∧ n < r.next

theorem Mgmt.keysFresh_iff (m : Mgmt) :
    m.keysFresh ↔ m.released.Nodup ∧ (∀ n ∈ m.released, n < m.attNext) ∧ m.covers m.activeSector :=
  and_congr_right fun _ => forall₂_and

/-- From m to n the fused SVN has not fallen, and where no index of m was released twice, none of n was. -/
def Mgmt.Kept (m n : Mgmt) : Prop := m.fusedSvn ≤ n.fusedSvn ∧ (m.keysFresh → n.keysFresh)

theorem Mgmt.Kept.refl (m : Mgmt) : m.Kept m := ⟨le_refl _, id⟩
theorem Mgmt.Kept.trans {k m n : Mgmt} (h : k.Kept m) (g : m.Kept n) : k.Kept n := ⟨h.1.trans g.1, g.2 ∘ h.2⟩

theorem Mgmt.SameTrust.kept {m n : Mgmt} (h : m.SameTrust n) : m.Kept n := by
  obtain ⟨hsvn, hreleased, hnext, ha, hb, hon⟩ := h
  exact ⟨hsvn.ge, fun hm => by simpa only [Mgmt.keysFresh, hreleased, hnext, ha, hb, hon] using hm⟩

/-! ### What leaves them alone -/

theorem Mgmt.logAdd_trust (m : Mgmt) (ms code a0 a1 : Nat) : m.SameTrust (m.logAdd ms code a0 a1) := by
  rw [Mgmt.logAdd]
  exact ⟨rfl, rfl, rfl, rfl, rfl, rfl⟩

theorem logBoth_trust {m : Mgmt} {mv : Mgmt × Dev} (h : m.SameTrust mv.1) (code a0 a1 : Nat) : m.SameTrust (logBoth code a0 a1 mv).1 :=
  h.trans (mv.1.logAdd_trust ..)

theorem logTrip_trust (old : Dev) (m : Mgmt) (v : Dev) : m.SameTrust (logTrip old m v).1 := by
  unfold logTrip
  split
  · exact logBoth_trust ⟨rfl, rfl, rfl, rfl, rfl, rfl⟩ ..
  · exact ⟨rfl, rfl, rfl, rfl, rfl, rfl⟩

theorem swapLane_trust (ch : Nat) (isCa : Bool) (group lane : Nat) (m : Mgmt) (v : Dev) :
    m.SameTrust (swapLane ch isCa group lane m v).1 := by
  unfold swapLane
  split <;> exact ⟨rfl, rfl, rfl, rfl, rfl, rfl⟩

theorem unscheduled_trust (ch : Nat) (cause : RetrainCause) (m : Mgmt) (v : Dev) : m.SameTrust (unscheduled ch cause m v).1 := by
  unfold unscheduled
  split
  · exact ⟨rfl, rfl, rfl, rfl, rfl, rfl⟩
  · cases cause with
    | due => exact ⟨rfl, rfl, rfl, rfl, rfl, rfl⟩
    | drift => exact ⟨rfl, rfl, rfl, rfl, rfl, rfl⟩
    | lane isCa group lane why =>
      dsimp only
      split
      · exact swapLane_trust ch isCa group lane m v
      · exact ⟨rfl, rfl, rfl, rfl, rfl, rfl⟩

theorem retireCoreFor_trust (c arg : Nat) (m : Mgmt) (v : Dev) : m.SameTrust (retireCoreFor c arg (m, v)).1 :=
  logBoth_trust ⟨rfl, rfl, rfl, rfl, rfl, rfl⟩ ..

theorem coreTested_trust (c : Nat) (result : TestResult) (m : Mgmt) (v : Dev) : m.SameTrust (coreTested c result m v).1 := by
  unfold coreTested
  split
  · exact ⟨rfl, rfl, rfl, rfl, rfl, rfl⟩
  · cases result with
    | passed => exact ⟨rfl, rfl, rfl, rfl, rfl, rfl⟩
    | column col =>
      dsimp only
      split
      · exact ⟨rfl, rfl, rfl, rfl, rfl, rfl⟩
      · split <;> dsimp only
        · exact logBoth_trust ⟨rfl, rfl, rfl, rfl, rfl, rfl⟩ ..
        · exact retireCoreFor_trust _ _ m _
    | bank b col =>
      dsimp only
      split
      · exact ⟨rfl, rfl, rfl, rfl, rfl, rfl⟩
      · split <;> dsimp only
        · exact logBoth_trust ⟨rfl, rfl, rfl, rfl, rfl, rfl⟩ ..
        · exact retireCoreFor_trust _ _ m _

theorem activateTrain_trust (mv : Mgmt × Dev) : mv.1.SameTrust (activateTrain mv).1 := by
  unfold activateTrain
  split
  · exact logBoth_trust ⟨rfl, rfl, rfl, rfl, rfl, rfl⟩ ..
  · exact ⟨rfl, rfl, rfl, rfl, rfl, rfl⟩

theorem moduleReset_trust (m : Mgmt) (v : Dev) : m.SameTrust (moduleReset m v).1 := activateTrain_trust _

theorem thermalStep_trust (tj0 tj1 : Nat) (ts : List Nat) (m : Mgmt) (v : Dev) : m.SameTrust (thermalStep tj0 tj1 ts m v).1 := by
  have hlog := logTrip_trust v m (v.thermalSample m.running tj0 tj1 ts)
  unfold thermalStep
  dsimp only
  split
  · exact hlog.trans (moduleReset_trust _ _)
  · exact hlog

theorem coldReset_trust (m : Mgmt) (v : Dev) : m.SameTrust (coldReset m v).1 := ⟨rfl, rfl, rfl, rfl, rfl, rfl⟩

theorem rideThroughLost_trust (duration : Nat) (m : Mgmt) (v : Dev) : m.SameTrust (rideThroughLost duration m v).1 := by
  unfold rideThroughLost
  split
  · dsimp only
    split
    · exact (logBoth_trust (.refl m) ..).trans (moduleReset_trust _ _)
    · exact (logBoth_trust (.refl m) ..).trans (coldReset_trust _ _)
  · exact ⟨rfl, rfl, rfl, rfl, rfl, rfl⟩

theorem auxLoss_trust (m : Mgmt) (v : Dev) : m.SameTrust (auxLoss m v).1 := by
  unfold auxLoss
  split <;> exact ⟨rfl, rfl, rfl, rfl, rfl, rfl⟩

theorem startupLoss_trust (vin : Nat) (m : Mgmt) (v : Dev) : m.SameTrust (startupLoss vin m v).1 := by
  unfold startupLoss
  dsimp only
  split <;> exact ⟨rfl, rfl, rfl, rfl, rfl, rfl⟩

theorem sensorUpdate_trust (m : Mgmt) (v : Dev) : m.SameTrust (sensorUpdate m v).1 := by
  unfold sensorUpdate
  split <;> exact ⟨rfl, rfl, rfl, rfl, rfl, rfl⟩

theorem treeDone_trust (m : Mgmt) (v : Dev) : m.SameTrust (treeDone m v).1 := by
  unfold treeDone
  dsimp only
  split
  · exact ⟨rfl, rfl, rfl, rfl, rfl, rfl⟩
  · split
    · exact ⟨rfl, rfl, rfl, rfl, rfl, rfl⟩
    · split <;> exact ⟨rfl, rfl, rfl, rfl, rfl, rfl⟩

/-! ### The steps of start-up -/

theorem atStep_trust {f : Mgmt → Dev → Mgmt × Dev} (h : ∀ (k : Mgmt) u, k.SameTrust (f k u).1) (n : Nat) (m : Mgmt) (v : Dev) :
    m.SameTrust (atStep n m v f).1 := by
  unfold atStep
  split
  · exact h _ _
  · exact ⟨rfl, rfl, rfl, rfl, rfl, rfl⟩

theorem inputQualified_trust (vin : Nat) (m : Mgmt) (v : Dev) : m.SameTrust (inputQualified vin m v).1 := by
  unfold inputQualified
  dsimp only
  split
  · exact atStep_trust (fun _ _ => ⟨rfl, rfl, rfl, rfl, rfl, rfl⟩) _ _ _
  · exact ⟨rfl, rfl, rfl, rfl, rfl, rfl⟩

theorem bankCharge_trust (m : Mgmt) (v : Dev) : m.SameTrust (bankCharge m v).1 := by
  unfold bankCharge
  split
  · exact atStep_trust (fun _ _ => ⟨rfl, rfl, rfl, rfl, rfl, rfl⟩) _ _ _
  · exact ⟨rfl, rfl, rfl, rfl, rfl, rfl⟩

theorem fuseLoad_trust (ok : Bool) (m : Mgmt) (v : Dev) : m.SameTrust (fuseLoad ok m v).1 := by
  unfold fuseLoad
  split
  · split
    · exact logBoth_trust ⟨rfl, rfl, rfl, rfl, rfl, rfl⟩ ..
    · exact ⟨rfl, rfl, rfl, rfl, rfl, rfl⟩
  · exact atStep_trust (fun _ _ => ⟨rfl, rfl, rfl, rfl, rfl, rfl⟩) _ _ _

theorem hostDiscovery_trust (ok : Bool) (m : Mgmt) (v : Dev) : m.SameTrust (hostDiscovery ok m v).1 := by
  unfold hostDiscovery
  split
  · split
    · exact logBoth_trust ⟨rfl, rfl, rfl, rfl, rfl, rfl⟩ ..
    · exact ⟨rfl, rfl, rfl, rfl, rfl, rfl⟩
  · exact atStep_trust (fun _ _ => ⟨rfl, rfl, rfl, rfl, rfl, rfl⟩) _ _ _

theorem retireRecord_trust (log : Bool) (ch : Nat) (mv : Mgmt × Dev) : mv.1.SameTrust (retireRecord log ch mv).1 := by
  unfold retireRecord
  split
  · exact ⟨rfl, rfl, rfl, rfl, rfl, rfl⟩
  · dsimp only
    split
    · exact logBoth_trust ⟨rfl, rfl, rfl, rfl, rfl, rfl⟩ ..
    · exact ⟨rfl, rfl, rfl, rfl, rfl, rfl⟩

theorem trainLane_trust (mv : Mgmt × Dev) (w : WeakLane) : mv.1.SameTrust (trainLane mv w).1 := by
  unfold trainLane
  split
  · exact ⟨rfl, rfl, rfl, rfl, rfl, rfl⟩
  · exact swapLane_trust ..

/-- A fold of steps that each leave the fuses and the state log alone leaves them alone. -/
theorem foldl_trust {α : Type} {f : Mgmt × Dev → α → Mgmt × Dev} (h : ∀ (mv : Mgmt × Dev) x, mv.1.SameTrust (f mv x).1) (xs : List α)
    (mv : Mgmt × Dev) :
    mv.1.SameTrust (xs.foldl f mv).1 := by
  induction xs generalizing mv with
  | nil => exact ⟨rfl, rfl, rfl, rfl, rfl, rfl⟩
  | cons x xs ih => exact (h mv x).trans (ih (f mv x))

theorem stackTraining_trust (failed : List Nat) (weak : List WeakLane) (m : Mgmt) (v : Dev) : m.SameTrust (stackTraining failed weak m v).1 :=
  atStep_trust (fun k u => by
    have hretired := foldl_trust (fun mv ch => retireRecord_trust true ch mv) failed (k, u)
    have hlanes := foldl_trust trainLane_trust weak
      ((failed.foldl (fun a ch => retireRecord true ch a) (k, u)).1,
        (failed.foldl (fun a ch => retireRecord true ch a) (k, u)).2.trainStacks (failed.foldl (fun a ch => retireRecord true ch a) (k, u)).1.retiredChans)
    obtain ⟨hsvn, hreleased, hnext, ha, hb, hon⟩ := hretired.trans hlanes
    exact ⟨hsvn, hreleased, hnext, ha, hb, hon⟩) 5 m v

/-! ### Forzoevo's own start -/

/-- NEXT as the records give it is at or above every good record of either sector (R631). -/
theorem Mgmt.le_nextOfRecords (m : Mgmt) {r : AttRec} (hr : r ∈ m.attA ++ m.attB) (hv : r.valid = true) : r.next ≤ m.nextOfRecords := by
  have hbound : ∀ (rs : List AttRec) (a : Nat), a ≤ rs.foldl (fun a r => max a r.next) a ∧ ∀ r ∈ rs, r.next ≤ rs.foldl (fun a r => max a r.next) a := by
    intro rs
    induction rs with
    | nil => exact fun a => ⟨le_refl _, fun _ h => absurd h List.not_mem_nil⟩
    | cons x xs ih =>
      intro a
      obtain ⟨hacc, hall⟩ := ih (max a x.next)
      refine ⟨(le_max_left _ _).trans hacc, fun r hr => ?_⟩
      rcases List.mem_cons.mp hr with rfl | hr
      · exact (le_max_right _ _).trans hacc
      · exact hall r hr
  exact (hbound _ 0).2 r (List.mem_filter.mpr ⟨hr, hv⟩)

theorem Mgmt.mem_sectors {m : Mgmt} {r : AttRec} (h : r ∈ m.activeSector) : r ∈ m.attA ++ m.attB := by
  unfold Mgmt.activeSector at h
  split at h
  · exact List.mem_append_right _ h
  · exact List.mem_append_left _ h

/-- The record of each released index brings NEXT above it again (R631, R632). -/
theorem Mgmt.booting_kept (m : Mgmt) (slot : Nat) : m.Kept (m.booting slot) := by
  refine ⟨le_refl _, fun h => ?_⟩
  obtain ⟨hnodup, -, hcovers⟩ := m.keysFresh_iff.mp h
  refine (m.booting slot).keysFresh_iff.mpr ⟨hnodup, fun n hn => ?_, hcovers⟩
  obtain ⟨r, hr, hvalid, hlt⟩ := hcovers n hn
  exact hlt.trans_le (m.le_nextOfRecords (Mgmt.mem_sectors hr) hvalid)

theorem romStart_kept (slot : Nat) (mv : Mgmt × Dev) : mv.1.Kept (romStart slot mv).1 := by
  refine (mv.1.booting_kept slot).trans (Mgmt.SameTrust.kept ?_)
  cases hactive : mv.1.bankOk mv.1.activeMgmt with
  | true => exact romStart_of_active slot mv.2 hactive ▸ ⟨rfl, rfl, rfl, rfl, rfl, rfl⟩
  | false =>
    cases hother : mv.1.bankOk (1 - mv.1.activeMgmt) with
    | true => exact romStart_of_other slot mv.2 hactive hother ▸ ⟨rfl, rfl, rfl, rfl, rfl, rfl⟩
    | false => exact romStart_of_neither slot mv.2 hactive hother ▸ ⟨rfl, rfl, rfl, rfl, rfl, rfl⟩

theorem activateMgmt_trust (mv : Mgmt × Dev) : mv.1.SameTrust (activateMgmt mv).1 := by
  unfold activateMgmt
  split
  · exact logBoth_trust ⟨rfl, rfl, rfl, rfl, rfl, rfl⟩ ..
  · exact ⟨rfl, rfl, rfl, rfl, rfl, rfl⟩

theorem mgmtRestart_kept (slot : Nat) (mv : Mgmt × Dev) : mv.1.Kept (mgmtRestart slot mv).1 := by
  have hstart := (activateMgmt_trust mv).kept.trans (romStart_kept slot (activateMgmt mv))
  unfold mgmtRestart
  dsimp only
  split
  · exact hstart.trans (Mgmt.SameTrust.kept ⟨rfl, rfl, rfl, rfl, rfl, rfl⟩)
  · exact hstart

theorem auxUp_kept (slot : Nat) (m : Mgmt) (v : Dev) : m.Kept (auxUp slot m v).1 := by
  unfold auxUp
  split
  · exact Mgmt.SameTrust.kept ⟨rfl, rfl, rfl, rfl, rfl, rfl⟩
  · exact (Mgmt.SameTrust.kept (m := m) (n := m.woken) ⟨rfl, rfl, rfl, rfl, rfl, rfl⟩).trans
      ((romStart_kept slot (m.woken, v)).trans (Mgmt.SameTrust.kept ⟨rfl, rfl, rfl, rfl, rfl, rfl⟩))

theorem heldReset_kept (slot : Nat) (m : Mgmt) (v : Dev) : m.Kept (heldReset slot m v).1 := by
  unfold heldReset
  split
  · exact mgmtRestart_kept slot (m, v)
  · exact .refl m

/-! ### The messages -/

theorem ask_kept {f : Mgmt → Dev → Mgmt × Dev} (h : ∀ (k : Mgmt) u, k.Kept (f k u).1) (b : Binding) (cmd : Nat) (rackOnly : Bool) (m : Mgmt) (v : Dev) :
    m.Kept (ask b cmd rackOnly m v f).1 := by
  unfold ask
  split
  · exact .refl m
  · split
    · exact .refl m
    · exact h m v

theorem getIdent_kept (b : Binding) (m : Mgmt) (v : Dev) : m.Kept (getIdent b m v).1 := by
  unfold getIdent
  split <;> exact .refl m

theorem getLog_kept (b : Binding) (first count : Nat) (m : Mgmt) (v : Dev) : m.Kept (getLog b first count m v).1 :=
  ask_kept (fun k u => by split <;> exact .refl k) ..

theorem setRackCap_kept (b : Binding) (x : Nat) (m : Mgmt) (v : Dev) : m.Kept (setRackCap b x m v).1 :=
  ask_kept (fun k u => by split <;> exact Mgmt.SameTrust.kept ⟨rfl, rfl, rfl, rfl, rfl, rfl⟩) ..

theorem setStartOverride_kept (b : Binding) (x : Nat) (m : Mgmt) (v : Dev) : m.Kept (setStartOverride b x m v).1 :=
  ask_kept (fun k u => by split <;> exact Mgmt.SameTrust.kept ⟨rfl, rfl, rfl, rfl, rfl, rfl⟩) ..

theorem setChip_kept (b : Binding) (x : Nat) (m : Mgmt) (v : Dev) : m.Kept (setChip b x m v).1 :=
  ask_kept (fun k u => by
    split
    · exact .refl k
    · split
      · exact .refl k
      · split
        · exact .refl k
        · exact Mgmt.SameTrust.kept ⟨rfl, rfl, rfl, rfl, rfl, rfl⟩) ..

theorem retireChannel_kept (b : Binding) (ch : Nat) (m : Mgmt) (v : Dev) : m.Kept (retireChannel b ch m v).1 :=
  ask_kept (fun k u => by
    split
    · exact .refl k
    · split
      · exact .refl k
      · exact ((retireRecord_trust false ch (k, u)).trans (moduleReset_trust _ _)).kept) ..

theorem moduleResetMsg_kept (b : Binding) (m : Mgmt) (v : Dev) : m.Kept (moduleResetMsg b m v).1 :=
  ask_kept (fun k u => by
    dsimp only
    split
    · exact Mgmt.SameTrust.kept ⟨rfl, rfl, rfl, rfl, rfl, rfl⟩
    · exact (moduleReset_trust _ _).kept) ..

theorem mgmtResetMsg_kept (b : Binding) (slot : Nat) (m : Mgmt) (v : Dev) : m.Kept (mgmtResetMsg b slot m v).1 :=
  ask_kept (fun k u => mgmtRestart_kept slot (answer b 0x15 0 [] (k, u))) ..

/-- COMMIT_SVN takes the higher of the fused SVN and the lowest active one (R629). -/
theorem commitSvn_kept (b : Binding) (m : Mgmt) (v : Dev) : m.Kept (commitSvn b m v).1 :=
  ask_kept (fun k _ => ⟨le_max_left _ (min (k.active .mgmt).svn (k.active .train).svn), id⟩) ..

theorem Mgmt.setPending_trust (m : Mgmt) (banks : Tab (Option Image)) (c : Component) (p : Bool) :
    m.SameTrust ({ m with banks := banks }.setPending c p) := by
  cases c <;> exact ⟨rfl, rfl, rfl, rfl, rfl, rfl⟩

theorem firmwareUpdate_kept (b : Binding) (img : Image) (m : Mgmt) (v : Dev) : m.Kept (firmwareUpdate b img m v).1 := by
  unfold firmwareUpdate
  split
  · dsimp only
    split
    · exact (m.setPending_trust ..).kept
    · exact (logBoth_trust (m.setPending_trust ..) ..).kept
  · exact .refl m

theorem sensorRead_kept (b : Binding) (id : Nat) (m : Mgmt) (v : Dev) : m.Kept (sensorRead b id m v).1 := by
  unfold sensorRead
  split
  · exact .refl m
  · split <;> exact .refl m

/-! ### Signing (R632 to R636) -/

/-- Appending a record changes neither what was released nor NEXT. -/
theorem Mgmt.appendRecord_rest (m : Mgmt) (n : Nat) (ok : Bool) : (m.appendRecord n ok).fusedSvn = m.fusedSvn ∧
    (m.appendRecord n ok).released = m.released ∧ (m.appendRecord n ok).attNext = m.attNext := by
  unfold Mgmt.appendRecord
  dsimp only
  split
  · split <;> exact ⟨rfl, rfl, rfl⟩
  · split <;> split <;> exact ⟨rfl, rfl, rfl⟩

/-- After a record is appended the active sector holds what it held and the record, or, when a full sector gave way, a good record alone. -/
theorem Mgmt.appendRecord_sector (m : Mgmt) (n : Nat) (ok : Bool) :
    (m.appendRecord n ok).activeSector = m.activeSector ++ [{ next := n, valid := ok }] ∨
    (ok = true ∧ (m.appendRecord n ok).activeSector = [{ next := n, valid := ok }]) ∨
    (ok = false ∧ (m.appendRecord n ok).activeSector = m.activeSector) := by
  unfold Mgmt.appendRecord Mgmt.activeSector
  cases m.attHasRoom <;> cases m.attOnB <;> cases ok <;> simp

/-- A record above every released index, good or torn, leaves each of them below a good record of the active sector (R632, R634). -/
theorem Mgmt.appendRecord_covers {m : Mgmt} (h : m.covers m.activeSector) {n : Nat} (hn : ∀ i ∈ m.released, i < n) (ok : Bool) :
    m.covers (m.appendRecord n ok).activeSector := by
  intro i hi
  obtain ⟨r, hr, hvalid, hlt⟩ := h i hi
  rcases m.appendRecord_sector n ok with hs | ⟨rfl, hs⟩ | ⟨-, hs⟩ <;> rw [hs]
  · exact ⟨r, List.mem_append_left _ hr, hvalid, hlt⟩
  · exact ⟨_, List.mem_singleton_self _, rfl, hn i hi⟩
  · exact ⟨r, hr, hvalid, hlt⟩

/-- A good record is in the active sector once it is appended. -/
theorem Mgmt.mem_appendRecord (m : Mgmt) (n : Nat) : ({ next := n, valid := true } : AttRec) ∈ (m.appendRecord n true).activeSector := by
  rcases m.appendRecord_sector n true with hs | ⟨-, hs⟩ | ⟨hno, -⟩
  · exact hs ▸ List.mem_append_right _ (List.mem_singleton_self _)
  · exact hs ▸ List.mem_singleton_self _
  · exact absurd hno (by decide)

/-- Signing releases NEXT, which no release has used, and only under a record that reads back (R632). -/
theorem signNext_kept (b : Binding) (nonce : List Byte) (ok : Bool) (m : Mgmt) (v : Dev) : m.Kept (signNext b nonce ok m v).1 := by
  obtain ⟨hsvn, hreleased, hnext⟩ := m.appendRecord_rest (m.attNext + 1) ok
  refine ⟨?_, fun h => ?_⟩
  · cases ok <;> exact hsvn.ge
  · obtain ⟨hnodup, hbelow, hcovers⟩ := m.keysFresh_iff.mp h
    have hold := Mgmt.appendRecord_covers hcovers (fun i hi => (hbelow i hi).trans (Nat.lt_succ_self _)) ok
    cases ok with
    | false =>
      refine (Mgmt.keysFresh_iff _).mpr ⟨hreleased.symm ▸ hnodup, fun i hi => ?_, fun i hi => hold i (hreleased ▸ hi)⟩
      exact (hbelow i (hreleased ▸ hi)).trans_eq hnext.symm
    | true =>
      have hnew : ∀ i, i ∈ (m.appendRecord (m.attNext + 1) true).released ++ [m.attNext] → i ∈ m.released ∨ i = m.attNext := by
        simp [hreleased]
      refine (Mgmt.keysFresh_iff _).mpr ⟨?_, fun i hi => ?_, fun i hi => ?_⟩
      · change ((m.appendRecord (m.attNext + 1) true).released ++ [m.attNext]).Nodup
        exact hreleased.symm ▸ List.nodup_append.mpr ⟨hnodup, List.nodup_singleton _, fun i hi j hj =>
          List.mem_singleton.mp hj ▸ (hbelow i hi).ne⟩
      · rcases hnew i hi with hi | rfl
        · exact (hbelow i hi).trans (Nat.lt_succ_self _)
        · exact Nat.lt_succ_self _
      · rcases hnew i hi with hi | rfl
        · exact hold i hi
        · exact ⟨_, m.mem_appendRecord _, rfl, Nat.lt_succ_self _⟩

theorem secondFull_trust (m : Mgmt) (v : Dev) : m.SameTrust (secondFull m v).2.1 := by
  unfold secondFull
  split
  · exact .refl m
  · split
    · exact .refl m
    · exact ⟨rfl, rfl, rfl, rfl, rfl, rfl⟩

theorem attest_kept (b : Binding) (nonce : List Byte) (ok : Bool) (m : Mgmt) (v : Dev) : m.Kept (attest b nonce ok m v).1 :=
  ask_kept (fun k u => by
    split
    · exact .refl k
    · split
      · exact .refl k
      · split
        · exact .refl k
        · have hsecond : k.Kept (secondFull k u).2.1 := (secondFull_trust k u).kept
          dsimp only
          split
          · exact hsecond
          · exact hsecond.trans (signNext_kept b nonce ok _ _)) ..

/-! ### One inversion of every command -/

/-- A footprint inside a wider one. -/
theorem Dev.Within.widen {F G : List Part} {v w : Dev} (h : Dev.Within G v w) (hs : (G.all fun p => F.contains p) = true) : Dev.Within F v w :=
  h.step hs (.refl F v)

/-- A footprint that holds the host interface, where events wait, holds what the mergers write as well (R23). -/
def mergeable (F : List Part) : Bool := !F.contains .hif || ([Part.hostMem, .hif, .out].all fun p => F.contains p)

/-- The events a command posts are written within its footprint; one that cannot post any has nothing to merge. -/
theorem Dev.Within.merged {F : List Part} {v w : Dev} (h : Dev.Within F v w) (hm : mergeable F = true) : Dev.Within F v (Dev.merged v w) := by
  by_cases hhif : Part.hif ∈ F
  · exact (Dev.merged_within v w).step (by simpa [mergeable, hhif] using hm) h
  · rw [Dev.merged_of_hif (h.1 .hif hhif)]
    exact h

/-- What a command may make of a state: the queue as it was, only the command's parts of the device changed, Forzoevo changed only if the
command reaches it, and the fuses and the attestation key kept. -/
structure State.Follows (s : State) (c : Instr) (t : State) : Prop where
  queue : t.pending = s.pending
  frame : Dev.Within c.parts s.dev t.dev
  forzoevo : c.reachesMgmt = false → t.mgmt = s.mgmt
  kept : s.mgmt.Kept t.mgmt

/-- An outcome of a command: a next state, and one the command may bring. -/
def State.Answers (s : State) (c : Instr) (o : Host.Outcome State Fault Refusal) : Prop := ∃ t, o = .next t ∧ s.Follows c t

theorem answers_onDev {s : State} {c : Instr} {w : Dev} (hw : Dev.Within c.parts s.dev w) (hm : mergeable c.parts = true) :
    s.Answers c (.next (s.ends w)) :=
  ⟨s.ends w, rfl, rfl, hw.merged hm, fun _ => rfl, .refl _⟩

theorem answers_onBoth {s : State} {c : Instr} {n : Mgmt} {w : Dev} (hw : Dev.Within c.parts s.dev w) (hk : s.mgmt.Kept n)
    (hm : mergeable c.parts = true) (hr : c.reachesMgmt = true) : s.Answers c (.next { s with mgmt := n, dev := Dev.merged s.dev w }) :=
  ⟨_, rfl, rfl, hw.merged hm, fun h => absurd (hr.symm.trans h) (by decide), hk⟩

/-! ### Commands whose arm is more than one operation -/

theorem Dev.clrCount_within (v : Dev) (c : Nat) (x : W32) : Dev.Within [.coreRegs] v (v.modCore c (fun k => k.memStatusWrite x)) :=
  Dev.modCore_within fun k => .of (fun p hp => by
    unfold Core.memStatusWrite
    cases p <;> first | exact absurd (by decide) hp | simp [Core.same]) (by decide)

theorem heldReset_within (slot : Nat) (m : Mgmt) (v : Dev) : Dev.Within [.free] v (heldReset slot m v).2 := by
  unfold heldReset
  split
  · exact mgmtRestart_within slot (m, v)
  · exact .refl _ v

theorem stepOn_trust (n : Nat) (g : Dev → Dev) (m : Mgmt) (v : Dev) : m.SameTrust (stepOn n g m v).1 := atStep_trust (fun k _ => .refl k) n m v

/-- THERMAL_CUT_125C takes the rails off (R551). -/
def thermalCut (m : Mgmt) (v : Dev) : Mgmt × Dev := if v.pwr.rails then ({ m with bootStep := 0 }, v.railsOff) else (m, v)

theorem exec_thermalCut125c (s : State) : exec .thermalCut125c s = s.onBoth thermalCut := rfl

theorem thermalCut_within (m : Mgmt) (v : Dev) : Dev.Within (Instr.parts .thermalCut125c) v (thermalCut m v).2 := by
  unfold thermalCut
  split
  · exact v.railsOff_within.widen rfl
  · exact .refl _ v

theorem thermalCut_trust (m : Mgmt) (v : Dev) : m.SameTrust (thermalCut m v).1 := by
  unfold thermalCut
  split <;> exact ⟨rfl, rfl, rfl, rfl, rfl, rfl⟩

/-- RESET_N holds the rails off (R667). -/
def resetHeld (m : Mgmt) (v : Dev) : Mgmt × Dev := moduleReset { m with resetHold := true } v

theorem resetHeld_trust (m : Mgmt) (v : Dev) : m.SameTrust (resetHeld m v).1 :=
  Mgmt.SameTrust.trans (m := { m with resetHold := true }) ⟨rfl, rfl, rfl, rfl, rfl, rfl⟩ (moduleReset_trust _ v)

/-- Every command answers, each through the frame of its own operation. -/
theorem exec_answers (c : Instr) (s : State) : s.Answers c (exec c s) :=
  match c with
  | .tick => answers_onDev ((Dev.tick_within _).widen rfl) rfl
  | .samplePoint => answers_onDev ((Dev.samplePoint_within _).widen rfl) rfl
  | .masterCutOff => answers_onDev ((Dev.cutOff_within _).widen rfl) rfl
  | .epochBoundary => answers_onDev ((Dev.epochBoundary_within _).widen rfl) rfl
  | .doldrumsEnd => answers_onDev ((Dev.doldEnd_within _).widen rfl) rfl
  | .time _ => answers_onDev (Dev.receiveMaster_within rfl
      (fun u => Dev.Within.ite ((u.timeLocked_within ..).widen rfl) ((u.lockFrom_within ..).widen rfl)) (.refl _ _)) rfl
  | .freqReq _ => answers_onDev (Dev.receive_within rfl (fun u => Dev.Within.ite ((u.takeFreqReq_within ..).widen rfl) (.refl _ u)) (.refl _ _)) rfl
  | .late _ => answers_onDev (Dev.receive_within rfl (fun u => Dev.Within.ite ((u.takeLate_within ..).widen rfl) (.refl _ u)) (.refl _ _)) rfl
  | .state _ => answers_onDev (Dev.receive_within rfl (fun u => Dev.Within.ite ((u.takeState_within ..).widen rfl) (.refl _ u)) (.refl _ _)) rfl
  | .lull _ => answers_onDev (Dev.receiveMaster_within rfl (fun u => (u.modFt_within _).widen rfl) (.refl _ _)) rfl
  | .doldrums _ => answers_onDev (Dev.receiveMaster_within rfl (fun u => (u.modFt_within _).widen rfl) (.refl _ _)) rfl
  | .freeze _ => answers_onDev (Dev.receiveMaster_within rfl (fun u => (u.actFreeze_within _).widen rfl) (.refl _ _)) rfl
  | .thaw _ => answers_onDev (Dev.receiveMaster_within rfl (fun u => (u.actThaw_within ..).widen rfl) (.refl _ _)) rfl
  | .masterThaw => answers_onDev ((Dev.masterThaw_within _).widen rfl) rfl
  | .frozenMessageTimer => answers_onDev ((Dev.frozenTimer_within _).widen rfl) rfl
  | .timeHoldover => answers_onDev ((Dev.timeHoldover_within _).widen rfl) rfl
  | .memberAbsent _ => answers_onDev ((Dev.memberAbsent_within ..).widen rfl) rfl
  | .masterTakeover => answers_onDev ((Dev.takeover_within _).widen rfl) rfl
  | .fabTimeCfgWrite _ _ => answers_onDev ((Dev.timeCfgWrite_within ..).widen rfl) rfl
  | .streamFetch _ => answers_onDev ((Dev.streamFetch_within ..).widen rfl) rfl
  | .nop _ => answers_onDev ((Dev.startEmpty_within ..).widen rfl) rfl
  | .mark _ => answers_onDev ((Dev.startEmpty_within ..).widen rfl) rfl
  | .entryRetire _ => answers_onDev ((Dev.entryRetire_within ..).widen rfl) rfl
  | .sourceFree _ => answers_onDev ((Dev.sourceFree_within ..).widen rfl) rfl
  | .waitStall _ => answers_onDev ((Dev.waitStall_within ..).widen rfl) rfl
  | .faultCaptureEnd _ _ => answers_onDev ((Dev.faultCaptureEnd_within ..).widen rfl) rfl
  | .mmFwd _ => answers_onDev ((Dev.mxStart_within ..).widen rfl) rfl
  | .mmRev _ => answers_onDev ((Dev.mxStart_within ..).widen rfl) rfl
  | .mmWgt _ => answers_onDev ((Dev.mxStart_within ..).widen rfl) rfl
  | .mmDist _ => answers_onDev ((Dev.mxStart_within ..).widen rfl) rfl
  | .vEw _ => answers_onDev ((Dev.vxStart_within ..).widen rfl) rfl
  | .vRed _ => answers_onDev ((Dev.vxStart_within ..).widen rfl) rfl
  | .vRowexp _ => answers_onDev ((Dev.vxStart_within ..).widen rfl) rfl
  | .vTopk _ => answers_onDev ((Dev.vxStart_within ..).widen rfl) rfl
  | .vQuant _ => answers_onDev ((Dev.vxStart_within ..).widen rfl) rfl
  | .vStat _ => answers_onDev ((Dev.vxStart_within ..).widen rfl) rfl
  | .vScupd _ => answers_onDev ((Dev.vScupd_within ..).widen rfl) rfl
  | .vGather _ => answers_onDev ((Dev.gatStart_within ..).widen rfl) rfl
  | .vScatter _ => answers_onDev ((Dev.gatStart_within ..).widen rfl) rfl
  | .vDispatch _ => answers_onDev ((Dev.disStart_within ..).widen rfl) rfl
  | .statMerge _ _ _ => answers_onDev ((Dev.statMerge_within ..).widen rfl) rfl
  | .dmaCopy _ => answers_onDev ((Dev.dmaStart_within ..).widen rfl) rfl
  | .burstIssue _ _ => answers_onDev ((Dev.releaseHeld_within _).step rfl ((Dev.burstIssue_within ..).widen rfl)) rfl
  | .burstReturn _ _ _ => answers_onDev ((Dev.releaseHeld_within _).step rfl ((Dev.burstReturn_within ..).widen rfl)) rfl
  | .sealS0Return _ _ => answers_onDev ((Dev.sealS0_within ..).widen rfl) rfl
  | .sealS1Return _ _ => answers_onDev ((Dev.releaseHeld_within _).step rfl ((Dev.sealS1_within ..).widen rfl)) rfl
  | .dmaEngClear _ _ => answers_onDev ((Dev.releaseHeld_within _).step rfl ((Dev.dmaCtlWrite_within ..).widen rfl)) rfl
  | .dmaRestart _ _ _ => answers_onDev ((Dev.releaseHeld_within _).step rfl ((Dev.dmaChanWrite_within ..).widen rfl)) rfl
  | .dmaDrop _ _ _ => answers_onDev ((Dev.releaseHeld_within _).step rfl ((Dev.dmaChanWrite_within ..).widen rfl)) rfl
  | .dmaReqWrite _ _ _ => answers_onDev ((Dev.modDma_within ..).widen rfl) rfl
  | .counterSignal _ => answers_onDev ((Dev.counterSignal_within ..).widen rfl) rfl
  | .synCtrWrite _ _ _ => answers_onDev ((Dev.synCtrWrite_within ..).widen rfl) rfl
  | .counterWindowAccess _ _ _ _ => answers_onDev ((Dev.windowAccess_within ..).widen rfl) rfl
  | .synBarMaskWrite _ _ _ => answers_onDev ((Dev.modBar_within ..).widen rfl) rfl
  | .scalarRun _ _ => answers_onDev ((Dev.sclCtlWrite_within ..).widen rfl) rfl
  | .scalarStop _ _ => answers_onDev ((Dev.sclCtlWrite_within ..).widen rfl) rfl
  | .scalarLoad _ _ _ _ _ _ _ _ => answers_onDev (Dev.sclRun_within rfl (fun _ _ => (Dev.sclLoad_within ..).widen rfl) (.refl _ _)) rfl
  | .scalarStore _ _ _ _ _ _ _ => answers_onDev (Dev.sclRun_within rfl (fun _ _ => (Dev.sclStore_within ..).widen rfl) (.refl _ _)) rfl
  | .scalarAmo _ _ _ _ _ _ _ => answers_onDev (Dev.sclRun_within rfl (fun _ _ => (Dev.sclAmo_within ..).widen rfl) (.refl _ _)) rfl
  | .csrRead _ _ _ _ => answers_onDev (Dev.sclRun_within rfl (fun _ _ => (Dev.csrRead_within ..).widen rfl) (.refl _ _)) rfl
  | .fence _ _ => answers_onDev (Dev.sclRun_within rfl (fun _ _ => (Dev.sclFence_within ..).widen rfl) (.refl _ _)) rfl
  | .ecall _ _ _ => answers_onDev (Dev.sclRun_within rfl (fun _ _ => (Dev.sclExec_within ..).widen rfl) (.refl _ _)) rfl
  | .scalarAccessReturn _ _ => answers_onDev ((Dev.releaseHeld_within _).step rfl ((Dev.accessReturn_within ..).widen rfl)) rfl
  | .twSig _ _ _ => answers_onDev (Dev.sclRun_within rfl (fun _ _ => (Dev.twSig_within ..).widen rfl) (.refl _ _)) rfl
  | .twWait _ _ _ _ => answers_onDev (Dev.sclRun_within rfl (fun _ _ => (Dev.twWait_within ..).widen rfl) (.refl _ _)) rfl
  | .twCtr _ _ _ _ => answers_onDev (Dev.sclRun_within rfl (fun _ _ => (Dev.twCtr_within ..).widen rfl) (.refl _ _)) rfl
  | .twBara _ _ _ _ => answers_onDev (Dev.sclRun_within rfl (fun _ _ => (Dev.twBara_within ..).widen rfl) (.refl _ _)) rfl
  | .twBarw _ _ _ _ => answers_onDev (Dev.sclRun_within rfl (fun _ _ => (Dev.twBarw_within ..).widen rfl) (.refl _ _)) rfl
  | .twHalt _ _ => answers_onDev (Dev.sclRun_within rfl (fun _ _ => (Dev.twHalt_within ..).widen rfl) (.refl _ _)) rfl
  | .twFlush _ _ _ _ => answers_onDev (Dev.sclRun_within rfl (fun _ _ => (Dev.twRange_within ..).widen rfl) (.refl _ _)) rfl
  | .twInv _ _ _ _ => answers_onDev (Dev.sclRun_within rfl (fun _ _ => (Dev.twRange_within ..).widen rfl) (.refl _ _)) rfl
  | .rgnAttrWrite _ _ _ => answers_onDev ((Dev.rgnAttrWrite_within ..).widen rfl) rfl
  | .bridgeTransfer _ _ _ => answers_onDev ((Dev.bridgeTransfer_within ..).widen rfl) rfl
  | .atomicWrite _ _ _ _ => answers_onDev ((Dev.atomicWrite_within ..).widen rfl) rfl
  | .engineTask _ _ => answers_onDev ((Dev.engineTask_within ..).widen rfl) rfl
  | .seFill _ => answers_onDev ((Dev.seFill_within ..).widen rfl) rfl
  | .seCopy _ => answers_onDev ((Dev.seCopy_within ..).widen rfl) rfl
  | .seReduce _ => answers_onDev (Dev.seRun_within rfl (fun _ _ _ => (Dev.seReduce_within ..).widen rfl) (.refl _ _)) rfl
  | .seDigest _ => answers_onDev ((Dev.seDigest_within ..).widen rfl) rfl
  | .seStat _ => answers_onDev ((Dev.seStat_within ..).widen rfl) rfl
  | .seScupd _ => answers_onDev ((Dev.seScupd_within ..).widen rfl) rfl
  | .updAdamw _ => answers_onDev ((Dev.updStart_within ..).widen rfl) rfl
  | .updLion _ => answers_onDev ((Dev.updStart_within ..).widen rfl) rfl
  | .updSgdm _ => answers_onDev ((Dev.updStart_within ..).widen rfl) rfl
  | .updMicro _ => answers_onDev ((Dev.updStart_within ..).widen rfl) rfl
  | .updRednorm _ => answers_onDev ((Dev.rednorm_within ..).widen rfl) rfl
  | .updWcopy _ => answers_onDev ((Dev.updStart_within ..).widen rfl) rfl
  | .versionAcq _ _ _ => answers_onDev ((Dev.versionWrite_within ..).widen rfl) rfl
  | .versionRel _ _ _ => answers_onDev ((Dev.versionWrite_within ..).widen rfl) rfl
  | .refreshWindow _ => answers_onDev ((Dev.refreshWindow_within ..).widen rfl) rfl
  | .retrainWindow _ => answers_onDev ((Dev.retrainWindow_within ..).widen rfl) rfl
  | .unscheduledRetrain _ _ => answers_onBoth ((unscheduled_within ..).widen rfl) (unscheduled_trust ..).kept rfl rfl
  | .retrainEnd _ _ => answers_onDev ((Dev.retrainEnd_within ..).widen rfl) rfl
  | .hbmMapCfgWrite _ => answers_onDev ((Dev.mapCfgWrite_within ..).widen rfl) rfl
  | .mapRebuildDone => answers_onDev ((Dev.rebuildDone_within _).widen rfl) rfl
  | .hbmMaintWrite _ => answers_onDev ((Dev.maintWrite_within ..).widen rfl) rfl
  | .write _ _ _ => answers_onDev (Dev.arrive_within rfl (fun _ => (Dev.packetWrite_within ..).widen rfl) (.refl _ _)) rfl
  | .read _ _ _ => answers_onDev (Dev.arrive_within rfl (fun _ => (Dev.packetRead_within ..).widen rfl) (.refl _ _)) rfl
  | .readData _ _ _ => answers_onDev (Dev.arrive_within rfl
      (fun _ => Dev.respond_within rfl (fun _ _ => (Dev.answered_within ..).widen rfl) (.refl _ _)) (.refl _ _)) rfl
  | .wack _ _ _ => answers_onDev (Dev.arrive_within rfl (fun _ => Dev.respond_within rfl (fun _ _ => (Dev.acked_within ..).widen rfl) (.refl _ _)) (.refl _ _)) rfl
  | .error _ _ _ => answers_onDev (Dev.arrive_within rfl
      (fun _ => Dev.respond_within rfl (fun _ _ => (Dev.refusedReq_within ..).widen rfl) (.refl _ _)) (.refl _ _)) rfl
  | .chunkData _ _ _ => answers_onDev (Dev.arrive_within rfl (fun _ => (Dev.chunkData_within ..).widen rfl) (.refl _ _)) rfl
  | .chunkDone _ _ _ => answers_onDev (Dev.arrive_within rfl (fun _ => (Dev.chunkDone_within ..).widen rfl) (.refl _ _)) rfl
  | .ackTimeout _ _ => answers_onDev ((Dev.ackTimeout_within ..).widen rfl) rfl
  | .ceSend _ => answers_onDev ((Dev.ceSend_within ..).widen rfl) rfl
  | .ceRecv _ => answers_onDev ((Dev.ceRecv_within ..).widen rfl) rfl
  | .ceTolerated _ => answers_onDev ((Dev.ceTolerated_within ..).widen rfl) rfl
  | .ceNorm _ => answers_onDev ((Dev.ceNorm_within ..).widen rfl) rfl
  | .ceFence _ => answers_onDev ((Dev.ceFence_within ..).widen rfl) rfl
  | .laneFail _ _ => answers_onDev ((Dev.laneFail_within ..).widen rfl) rfl
  | .linkReplay _ _ _ => answers_onDev ((Dev.linkReplay_within ..).widen rfl) rfl
  | .lnkCtlRetrain _ _ => answers_onDev ((Dev.lnkCtlWrite_within ..).widen rfl) rfl
  | .lnkRxbufWrite _ _ => answers_onDev ((Dev.rxbufWrite_within ..).widen rfl) rfl
  | .landClr _ _ => answers_onDev ((Dev.landClr_within ..).widen rfl) rfl
  | .gust _ => answers_onDev ((Dev.gust_within ..).widen rfl) rfl
  | .pwrwarn _ => answers_onBoth ((pwrwarn_within ..).widen rfl) (.refl _) rfl rfl
  | .pwrwarnDeassert _ => answers_onDev ((Dev.pwrwarnOff_within ..).widen rfl) rfl
  | .pwrwarnHeld => answers_onDev ((Dev.warnHeldFor_within _).widen rfl) rfl
  | .squall _ => answers_onDev ((Dev.squallAt_within ..).widen rfl) rfl
  | .squallExit => answers_onDev ((Dev.squallExit_within _).widen rfl) rfl
  | .chrysalisEntry _ => answers_onDev ((Dev.chrysalisEntry_within ..).widen rfl) rfl
  | .powerDip _ => answers_onDev ((Dev.powerDip_within ..).widen rfl) rfl
  | .inputTakesLoad _ => answers_onDev ((Dev.inputLoad_within ..).widen rfl) rfl
  | .chrysalisExit _ => answers_onDev ((Dev.chrysalisExit_within ..).widen rfl) rfl
  | .issueResume => answers_onBoth ((logTrip_within ..).step rfl ((Dev.issueResume_within ..).widen rfl)) (logTrip_trust ..).kept rfl rfl
  | .rideThroughLost _ => answers_onBoth ((rideThroughLost_within ..).widen rfl) (rideThroughLost_trust ..).kept rfl rfl
  | .bankUpdate _ => answers_onDev ((Dev.bankUpdate_within ..).widen rfl) rfl
  | .powerSample _ => answers_onDev (.ite (Dev.modPwr_within ..) (.refl _ _)) rfl
  | .fastLimiterExpiry => answers_onDev ((Dev.modPwr_within ..).widen rfl) rfl
  | .capControlInstant _ _ _ _ _ => answers_onBoth (.ite ((Dev.capInstant_within ..).widen rfl) (.refl _ _)) (.refl _) rfl rfl
  | .thermalSample _ _ _ => answers_onBoth ((thermalStep_within ..).widen rfl) (thermalStep_trust ..).kept rfl rfl
  | .energyInterval _ => answers_onDev ((Dev.energyInterval_within ..).widen rfl) rfl
  | .pwrCapWrite _ => answers_onDev ((Dev.pwrCapWrite_within ..).widen rfl) rfl
  | .pwrCfgWrite _ => answers_onDev ((Dev.pwrCfgWrite_within ..).widen rfl) rfl
  | .pwrEnergyClear _ => answers_onDev ((Dev.energyClear_within ..).widen rfl) rfl
  | .release _ _ => answers_onDev ((Dev.releaseRecord_within ..).widen rfl) rfl
  | .coreTested _ _ => answers_onBoth ((coreTested_within ..).widen rfl) (coreTested_trust ..).kept rfl rfl
  | .moultPoint => answers_onDev ((Dev.moultPoint_within _).widen rfl) rfl
  | .pageStaged _ => answers_onDev ((Dev.pageStaged_within ..).widen rfl) rfl
  | .tUpdate => answers_onDev ((Dev.tUpdate_within _).widen rfl) rfl
  | .saveDrainExpiry _ => answers_onDev ((Dev.drainExpiry_within ..).widen rfl) rfl
  | .doorbell _ _ _ _ _ => answers_onDev ((Dev.doorbell_within ..).widen rfl) rfl
  | .workNop _ _ => answers_onDev ((Dev.workNop_within ..).widen rfl) rfl
  | .load _ _ => answers_onDev ((Dev.loadOrder_within ..).widen rfl) rfl
  | .start _ _ => answers_onDev ((Dev.startOrder_within ..).widen rfl) rfl
  | .resume _ _ => answers_onDev ((Dev.resumeOrder_within ..).widen rfl) rfl
  | .abort _ _ => answers_onDev ((Dev.abortOrder_within ..).widen rfl) rfl
  | .unload _ _ => answers_onDev ((Dev.unloadOrder_within ..).widen rfl) rfl
  | .copy _ _ => answers_onDev ((Dev.copyOrder_within ..).widen rfl) rfl
  | .moult _ _ => answers_onDev ((Dev.moultOrder_within ..).widen rfl) rfl
  | .moultAbort _ _ => answers_onDev ((Dev.abortMoult_within ..).widen rfl) rfl
  | .restore _ _ => answers_onDev ((Dev.restoreOrder_within ..).widen rfl) rfl
  | .save _ _ => answers_onDev ((Dev.saveOrder_within ..).widen rfl) rfl
  | .restoreCtx _ _ => answers_onDev ((Dev.restoreCtxOrder_within ..).widen rfl) rfl
  | .ringError _ _ _ => answers_onDev ((Dev.ringError_within ..).widen rfl) rfl
  | .hifRingCfgWrite _ _ _ => answers_onDev ((Dev.ringCfgWrite_within ..).widen rfl) rfl
  | .hifMmioWrite _ _ _ => answers_onDev ((Dev.mmioWrite_within ..).widen rfl) rfl
  | .bar4Access _ _ _ _ => answers_onDev ((Dev.bar4_within ..).widen rfl) rfl
  | .strmMarkClr _ _ => answers_onDev ((Dev.markWrite_within ..).widen rfl) rfl
  | .clrCount _ _ => answers_onDev (Dev.clrCount_within ..) rfl
  | .registerWrite _ _ _ _ => answers_onDev ((Dev.bar0Write_within ..).widen rfl) rfl
  | .functionReset _ => answers_onDev ((Dev.functionReset_within ..).widen rfl) rfl
  | .getIdent _ => answers_onBoth ((getIdent_within ..).widen rfl) (getIdent_kept ..) rfl rfl
  | .getPubkey _ => answers_onBoth (ask_within rfl (fun _ _ => answer_within ..) (.refl _ _)) (ask_kept (fun k _ => .refl k) ..) rfl rfl
  | .attest _ _ _ => answers_onBoth ((attest_within ..).widen rfl) (attest_kept ..) rfl rfl
  | .getLog _ _ _ => answers_onBoth ((getLog_within ..).widen rfl) (getLog_kept ..) rfl rfl
  | .setRackCap _ _ => answers_onBoth ((setRackCap_within ..).widen rfl) (setRackCap_kept ..) rfl rfl
  | .setStartOverride _ _ => answers_onBoth ((setStartOverride_within ..).widen rfl) (setStartOverride_kept ..) rfl rfl
  | .setChip _ _ => answers_onBoth ((setChip_within ..).widen rfl) (setChip_kept ..) rfl rfl
  | .retireChannel _ _ => answers_onBoth ((retireChannel_within ..).widen rfl) (retireChannel_kept ..) rfl rfl
  | .moduleReset _ => answers_onBoth ((moduleResetMsg_within ..).widen rfl) (moduleResetMsg_kept ..) rfl rfl
  | .mgmtReset _ _ => answers_onBoth ((mgmtResetMsg_within ..).widen rfl) (mgmtResetMsg_kept ..) rfl rfl
  | .commitSvn _ => answers_onBoth ((commitSvn_within ..).widen rfl) (commitSvn_kept ..) rfl rfl
  | .firmwareUpdate _ _ => answers_onBoth ((firmwareUpdate_within ..).widen rfl) (firmwareUpdate_kept ..) rfl rfl
  | .sensorRead _ _ => answers_onBoth ((sensorRead_within ..).widen rfl) (sensorRead_kept ..) rfl rfl
  | .sensorUpdate => answers_onBoth ((sensorUpdate_within ..).widen rfl) (sensorUpdate_trust ..).kept rfl rfl
  | .treeBuildDone => answers_onBoth ((treeDone_within ..).widen rfl) (treeDone_trust ..).kept rfl rfl
  | .auxUp _ => answers_onBoth ((auxUp_within ..).widen rfl) (auxUp_kept ..) rfl rfl
  | .auxLoss => answers_onBoth ((auxLoss_within ..).widen rfl) (auxLoss_trust ..).kept rfl rfl
  | .vinApplied _ => answers_onDev ((Dev.setVin_within ..).widen rfl) rfl
  | .inputQualified _ => answers_onBoth ((inputQualified_within ..).widen rfl) (inputQualified_trust ..).kept rfl rfl
  | .bankCharge => answers_onBoth ((bankCharge_within ..).widen rfl) (bankCharge_trust ..).kept rfl rfl
  | .fuseLoad _ => answers_onBoth ((fuseLoad_within ..).widen rfl) (fuseLoad_trust ..).kept rfl rfl
  | .sramClear => answers_onBoth (atStep_within (fun _ u => (u.sramClear_within).widen rfl) (.refl _ _)) (stepOn_trust ..).kept rfl rfl
  | .stackTraining _ => answers_onBoth ((stackTraining_within ..).widen rfl) (stackTraining_trust ..).kept rfl rfl
  | .linkTraining _ _ => answers_onBoth (atStep_within (fun _ u => (u.trainLinks_within ..).widen rfl) (.refl _ _)) (stepOn_trust ..).kept rfl rfl
  | .timeLockTimeout => answers_onBoth (atStep_within (fun _ u => .refl _ u) (.refl _ _)) (stepOn_trust ..).kept rfl rfl
  | .hostDiscovery _ => answers_onBoth ((hostDiscovery_within ..).widen rfl) (hostDiscovery_trust ..).kept rfl rfl
  | .startupSupplyLoss _ => answers_onBoth ((startupLoss_within ..).widen rfl) (startupLoss_trust ..).kept rfl rfl
  | .coldReset => answers_onBoth ((coldReset_within ..).widen rfl) (coldReset_trust ..).kept rfl rfl
  | .resetN => answers_onBoth ((moduleReset_within ..).widen rfl) (resetHeld_trust ..).kept rfl rfl
  | .resetNHeld _ => answers_onBoth ((heldReset_within ..).widen rfl) (heldReset_kept ..) rfl rfl
  | .acquireDone _ => answers_onDev ((Dev.acquireDone_within ..).widen rfl) rfl
  | .flushDone _ _ => answers_onDev ((Dev.flushDone_within ..).widen rfl) rfl
  | .refreshDue _ => answers_onDev ((Dev.refreshDue_within ..).widen rfl) rfl
  | .thermalCut125c => answers_onBoth ((thermalCut_within ..).widen rfl) (thermalCut_trust ..).kept rfl rfl
  | .linkRetrainDone _ _ _ => answers_onDev ((Dev.retrainDone_within ..).widen rfl) rfl
  | .restorePageDone _ => answers_onDev ((Dev.restorePage_within ..).widen rfl) rfl
  | .saveCopyDone _ => answers_onDev ((Dev.saveCopied_within ..).widen rfl) rfl
  | .restoreCtxCopyDone _ => answers_onDev ((Dev.ctxCopied_within ..).widen rfl) rfl
  | .resetNRelease => answers_onBoth (.refl _ _) (Mgmt.SameTrust.kept ⟨rfl, rfl, rfl, rfl, rfl, rfl⟩) rfl rfl

/-- Settles O1: both clauses are the equations of step. -/
theorem stepRunsFrontCommand : Obligations.StepRunsFrontCommand := by
  refine ⟨fun _ _ _ => rfl, fun s hs => ?_⟩
  rw [step, hs]

/-- Settles O2: every command answers, by the inversion of exec. -/
theorem everyCommandAnswers : Obligations.EveryCommandAnswers := fun c s =>
  let ⟨t, ht, hf⟩ := exec_answers c s
  ⟨t, ht, hf.queue⟩

/-- A command's answer is the one its inversion describes. -/
theorem follows_of_exec {c : Instr} {s t : State} (h : exec c s = .next t) : s.Follows c t := by
  obtain ⟨u, hu, hf⟩ := exec_answers c s
  cases hu.symm.trans h
  exact hf

/-- A property of the device and Forzoevo that every command keeps is kept by every step. -/
theorem step_keeps {P : Mgmt → Dev → Prop} (h : ∀ c s t, exec c s = .next t → P s.mgmt s.dev → P t.mgmt t.dev) {s t : State}
    (hs : step s = .next t) (hp : P s.mgmt s.dev) : P t.mgmt t.dev := by
  unfold step at hs
  split at hs
  next => cases hs; exact hp
  next c rest _ => exact h c { s with pending := rest } t hs hp

/-- Settles O3: the frame of each command keeps the memories canonical. -/
theorem memoriesStayCanonical : Obligations.MemoriesStayCanonical := fun _ _ hwf hstep =>
  step_keeps (P := fun _ v => v.memWf) (fun _ _ _ he => (follows_of_exec he).frame.2) hstep hwf

/-- Settles O59: each command keeps the released indices apart. -/
theorem attestationIndexReleasedOnce : Obligations.AttestationIndexReleasedOnce := fun _ _ hfresh hstep =>
  step_keeps (P := fun m _ => m.keysFresh) (fun _ _ _ he => (follows_of_exec he).kept.2) hstep hfresh

/-- Settles O60: only COMMIT_SVN writes the fused SVN, and it takes a maximum. -/
theorem fusedSvnNeverFalls : Obligations.FusedSvnNeverFalls := fun _ _ _ he => (follows_of_exec he).kept.1

/-- Settles O5: the frame of each command. -/
theorem commandsChangeOnlyTheirParts : Obligations.CommandsChangeOnlyTheirParts := fun _ _ _ he => (follows_of_exec he).frame.1

/-- Settles O6: every command that does not reach Forzoevo is one on the device alone. -/
theorem dataPlaneLeavesForzoevo : Obligations.DataPlaneLeavesForzoevo := fun _ _ _ hc he => (follows_of_exec he).forzoevo hc

/-- Settles O4: each part is the default of its field. -/
theorem resetState : Obligations.ResetState := by
  have hfresh : State.reset.mgmt.keysFresh := ⟨List.nodup_nil, fun _ h => absurd h List.not_mem_nil⟩
  refine ⟨rfl, ⟨rfl, rfl, fun _ => rfl⟩, hfresh, fun _ => rfl, fun _ _ => rfl, rfl, rfl, rfl, fun _ => rfl,
    fun _ _ => (by decide : ({} : Ring).en = false), fun _ => ⟨rfl, rfl⟩,
    fun _ => rfl, rfl, rfl, rfl, rfl, rfl, fun _ => rfl, fun _ => rfl, rfl, fun _ => rfl, fun _ => rfl, fun _ => ⟨rfl, rfl⟩⟩

end Sys2Proof.Machine

/-! Links and landing slots (14): what each command leaves in its link, what clearing leaves in the landing slots, and from them O49. -/

namespace Sys2Proof.Machine

/-! ### Every listed entry of a table changed -/

theorem tget_foldl_tmod_listed {α : Type} [DecidableEq α] (d : α) {g : α → α} (hg : ∀ x, g (g x) = g x) (xs t : Tab α) (k : Nat) :
    tget d (xs.foldl (fun u e => tmod d u e.1 g) t) k = if ∃ e ∈ xs, e.1 = k then g (tget d t k) else tget d t k := by
  induction xs generalizing t with
  | nil => simp
  | cons x xs ih =>
    rw [List.foldl_cons, ih]
    by_cases hx : x.1 = k
    · simp [hx, hg]
    · have hrest : (∃ e ∈ x :: xs, e.1 = k) ↔ ∃ e ∈ xs, e.1 = k := by simp [hx]
      simp only [tget_tmod_ne d t g (Ne.symm hx), hrest]

/-- A change that leaves the default and its own results alone, made to every entry listed, is made to every entry. -/
theorem tget_tmod_all {α : Type} [DecidableEq α] (d : α) {g : α → α} (hd : g d = d) (hg : ∀ x, g (g x) = g x) (t : Tab α) (k : Nat) :
    tget d (t.foldl (fun u e => tmod d u e.1 g) t) k = g (tget d t k) := by
  rw [tget_foldl_tmod_listed d hg]
  by_cases hk : ∃ e ∈ t, e.1 = k
  · rw [if_pos hk]
  · rw [if_neg hk, tget_of_absent d fun e he h => hk ⟨e, he, h⟩, hd]

/-- The landing slots of a die with every one cleared (R499). -/
def Fab.clearLand (f : Fab) : Fab := { f with land := f.land.foldl (fun t e => tmod {} t e.1 Land.clear) f.land }

theorem Fab.clearLand_land (f : Fab) (i : Nat) : tget {} f.clearLand.land i = (tget {} f.land i).clear :=
  tget_tmod_all {} (g := Land.clear) rfl (fun _ => rfl) f.land i

theorem Dev.land_modFabD_clearLand (v : Dev) (d i : Nat) : (v.modFabD d Fab.clearLand).land d i = (v.land d i).clear := by
  rw [Dev.land, Dev.fabD_modFabD_same, Fab.clearLand_land, Dev.land]

/-! ### A link that goes down or changes lanes (R476, R488) -/

/-- A link as a failure leaves it. -/
def Link.failed (k : Link) : Link := { k with state := 0, lanes := 0, replays := 0 }

theorem Dev.linkDown_linkN (v : Dev) (l : Nat) : (v.linkDown l).linkN l = (v.linkN l).failed := by
  unfold Dev.linkDown
  rw [(Dev.linksChanged_within _ _).linkN_eq (by decide), (Dev.ev_within ..).linkN_eq (by decide), Dev.linkN_modLinkN_same, Link.failed]

section
variable {v : Dev} {l : Nat}

/-- A lane that fails is marked; the link goes on with one lane fewer, or down below two (R476). -/
theorem Dev.laneFail_linkN {lane : Nat} (hb : bit (v.linkN l).laneFailed lane = false) (hup : (v.linkN l).state = 2) :
    (v.laneFail l lane).linkN l =
      if (v.linkN l).lanes ≤ 2 then ({ v.linkN l with laneFailed := (v.linkN l).laneFailed + 2 ^ lane } : Link).failed
      else { v.linkN l with laneFailed := (v.linkN l).laneFailed + 2 ^ lane, lanes := (v.linkN l).lanes - 1 } := by
  unfold Dev.laneFail
  dsimp only
  rw [if_neg (by simp [hb]), if_neg (not_not.mpr hup)]
  split
  · rw [Dev.linkDown_linkN, Dev.linkN_modLinkN_same]
  · rw [(Dev.ev_within ..).linkN_eq (by decide), Dev.linkN_modLinkN_same, Dev.linkN_modLinkN_same]

/-- A link after one replay of a flit, before the failures in a row are judged (R480). -/
def Link.replayed (k : Link) (uncorrected good : Bool) : Link :=
  { k with
    retries := satAdd k.retries 1 max32
    fecUncorr := satAdd k.fecUncorr (b2n uncorrected) 65535
    replays := if good then 0 else k.replays + 1 }

theorem Dev.linkReplay_linkN (hup : (v.linkN l).state = 2) (bad good : Bool) :
    (v.linkReplay l bad good).linkN l =
      if 32 ≤ ((v.linkN l).replayed bad good).replays then ((v.linkN l).replayed bad good).failed else (v.linkN l).replayed bad good := by
  have hv1 : (v.modLinkN l (fun k => k.replayed bad good)).linkN l = (v.linkN l).replayed bad good := Dev.linkN_modLinkN_same _ _ _
  rw [← hv1, ← Dev.linkDown_linkN, ← apply_ite (fun u : Dev => u.linkN l)]
  exact congrArg (fun u : Dev => u.linkN l) (if_neg (not_not.mpr hup))

/-- The state LNK_CTL asks of a link (R477). -/
def Link.asked (k : Link) (x : W32) : Nat := if bit x.toNat 1 then 0 else if bit x.toNat 0 then 1 else k.state

/-- A link as LNK_CTL leaves it, in the state asked. -/
def Link.controlled (k : Link) (x : W32) (st : Nat) : Link :=
  { k with disable := bit x.toNat 1, state := st, lanes := if st = 2 then k.lanes else 0, replays := if st = 2 then k.replays else 0 }

theorem Dev.lnkCtlWrite_linkN (x : W32) : (v.lnkCtlWrite l x).linkN l = (v.linkN l).controlled x ((v.linkN l).asked x) := by
  have hw : Dev.Within [.fabric] (v.modLinkN l fun k => k.controlled x ((v.linkN l).asked x)) (v.lnkCtlWrite l x) :=
    Dev.Within.ite (Dev.linksChanged_within _ _) (.refl _ _)
  rw [hw.linkN_eq (by decide), Dev.linkN_modLinkN_same]

/-- Training that ends with two lanes or more brings the link up on them with the delay measured (R478). -/
theorem Dev.retrainDone_up {lanes : Nat} (ht : (v.linkN l).state = 1) (h : 2 ≤ lanes) (delay : Nat) :
    let w := (v.retrainDone l lanes delay).linkN l
    w.state = 2 ∧ w.lanes = lanes ∧ w.delay = delay % 65536 := by
  unfold Dev.retrainDone
  rw [if_neg (not_not.mpr ht), if_neg (by omega), (Dev.linksChanged_within _ _).linkN_eq (by decide), Dev.linkN_modLinkN_same]
  exact ⟨rfl, rfl, rfl⟩

theorem Dev.retrainDone_down {lanes : Nat} (ht : (v.linkN l).state = 1) (h : lanes < 2) (delay : Nat) :
    ((v.retrainDone l lanes delay).linkN l).state = 0 := by
  unfold Dev.retrainDone
  rw [if_neg (not_not.mpr ht), if_pos h, Dev.linkDown_linkN]
  rfl

theorem Dev.landClr_clears {d : Nat} {x : W32} (hx : bit x.toNat 0 = true) (hl : (v.strm (144 + d)).loaded = false) :
    v.landClr d x = v.modFabD d Fab.clearLand := if_pos (by simp [hx, hl])

theorem Dev.landClr_stands {d : Nat} {x : W32} (h : bit x.toNat 0 = false ∨ (v.strm (144 + d)).loaded = true) : v.landClr d x = v :=
  if_neg (by rcases h with h | h <;> simp [h])

end

/-- Settles O49: each command by what it leaves in its link or in the landing slots. -/
theorem linksComplete : Obligations.LinksComplete := by
  intro l s
  dsimp only
  refine ⟨fun lane hb hup => ⟨_, rfl, ?laneFail⟩, fun bad good hup => ⟨_, rfl, ?replay⟩, fun x => ⟨_, rfl, ?control⟩,
    fun lanes t ht => ⟨_, rfl, fun h => Dev.retrainDone_up ht h _, fun h => Dev.retrainDone_down ht h _⟩,
    fun x => ⟨_, rfl, Dev.linkN_modLinkN_same _ _ _⟩, fun d x => ⟨_, rfl, fun hx hl i => ?cleared, Dev.landClr_stands⟩⟩
  case laneFail =>
    rw [Dev.laneFail_linkN hb hup]
    split
    next h => exact ⟨rfl, fun h' => absurd h (by omega), fun _ => ⟨rfl, rfl⟩⟩
    next h => exact ⟨rfl, fun _ => ⟨hup, rfl⟩, fun h' => absurd h' h⟩
  case replay =>
    rw [Dev.linkReplay_linkN hup]
    cases good with
    | true => exact ⟨rfl, rfl, fun _ => ⟨hup, rfl⟩, by simp, by simp⟩
    | false =>
      split
      next h => exact ⟨rfl, rfl, by simp, fun _ h' => absurd h (by simp [Link.replayed]; omega), fun _ _ => rfl⟩
      next h => exact ⟨rfl, rfl, by simp, fun _ _ => ⟨hup, rfl⟩, fun _ h' => absurd h (by simp [Link.replayed]; omega)⟩
  case control =>
    rw [Dev.lnkCtlWrite_linkN]
    exact ⟨rfl, fun h1 => if_pos h1, fun h1 h0 => (if_neg (by simp [h1])).trans (if_pos h0),
      fun h1 h0 => (if_neg (by simp [h1])).trans (if_neg (by simp [h0]))⟩
  case cleared =>
    change let u := (s.dev.landClr d x).land d i; u.used = false ∧ u.complete = false ∧ u.atagValid = false ∧ u.atag = (s.dev.land d i).atag
    rw [Dev.landClr_clears hx hl, Dev.land_modFabD_clearLand]
    exact ⟨rfl, rfl, rfl, rfl⟩

end Sys2Proof.Machine

/-! Forzoevo's messages (18): what each answers and changes, and from them O57. -/

namespace Sys2Proof.Machine

/-! ### Messages sent before the mergers run -/

theorem Dev.Within.out_prefix {F : List Part} {v w : Dev} (h : Dev.Within F v w) (hp : Part.out ∉ F) : v.out <+: w.out :=
  (h.out_eq hp).symm ▸ List.prefix_refl v.out

theorem Dev.msi_out (v : Dev) (die vec : Nat) : v.out <+: (v.msi die vec).out := by
  unfold Dev.msi
  split
  · exact List.prefix_refl _
  · exact List.prefix_append _ _

theorem Dev.putShadow_out (v : Dev) (die n : Nat) : (v.putShadow die n).1.out = v.out := by
  unfold Dev.putShadow
  dsimp only
  split <;> rfl

theorem Dev.putEntry_out (v : Dev) (die n : Nat) (o : Owed) : v.out <+: (v.putEntry die n o).1.out := by
  unfold Dev.putEntry
  dsimp only
  split
  · exact List.prefix_refl _
  · generalize hu : Dev.modRing _ die n _ = u
    have hsame : u.out = v.out := by rw [← hu]; rfl
    have hshadow : v.out <+: (u.putShadow die n).1.out := ((u.putShadow_out die n).trans hsame).symm ▸ List.prefix_refl v.out
    split
    · dsimp only
      split
      · exact hshadow.trans (Dev.msi_out _ _ _)
      · exact hshadow
    · exact hshadow
    · exact hshadow

theorem Dev.writeEvent_out (v : Dev) (die : Nat) (a : Arrival) : v.out <+: (v.writeEvent die a).out := by
  unfold Dev.writeEvent
  dsimp only
  split
  · exact List.prefix_refl _
  · split
    · exact ((v.bumpSeq die).putEntry_out die _ _).trans ((Dev.eventPutDone_within ..).out_prefix (by decide))
    · exact List.prefix_refl _

/-- A fold of steps that each only add messages only adds messages. -/
theorem Dev.forAll_out {α : Type} {f : Dev → α → Dev} (h : ∀ u x, u.out <+: (f u x).out) (xs : List α) (v : Dev) :
    v.out <+: (v.forAll xs f).out := by
  induction xs generalizing v with
  | nil => exact List.prefix_refl _
  | cons x xs ih => exact (h v x).trans (ih (f v x))

theorem Dev.mergeDie_out (v : Dev) (die : Nat) : v.out <+: (v.mergeDie die).out :=
  Dev.forAll_out (f := fun u a => u.writeEvent die a) (fun u a => u.writeEvent_out die a) (sortBy Arrival.rank (v.hifD die).arriving)
    (v.modHifD die fun h => { h with arriving := [] })

theorem Dev.mergeAll_out (v : Dev) : v.out <+: v.mergeAll.out := (v.mergeDie_out 0).trans ((v.mergeDie 0).mergeDie_out 1)

/-- The mergers send after what a command has sent. -/
theorem Dev.merged_out (old v : Dev) : v.out <+: (Dev.merged old v).out := by
  unfold Dev.merged
  split
  · exact List.prefix_refl _
  · exact v.mergeAll_out

/-- The messages of v, the message x, and others after it, are what w has sent. -/
theorem exists_out_of_prefix {v w : Dev} {x : OutMsg} (h : v.out ++ [x] <+: w.out) : ∃ l, w.out = v.out ++ x :: l := by
  obtain ⟨l, hl⟩ := h
  exact ⟨l, by rw [← hl, List.append_assoc, List.singleton_append]⟩

/-! ### Asking (R623, R644) -/

section
variable {m : Mgmt} {b : Binding} {cmd : Nat} {rackOnly : Bool} (v : Dev) (f : Mgmt → Dev → Mgmt × Dev)

theorem ask_stopped (h : m.running = false) : ask b cmd rackOnly m v f = (m, v) := if_pos (by simp [h])

theorem ask_heard (h : m.running = true) (hb : rackOnly = false ∨ b = .rack) : ask b cmd rackOnly m v f = f m v :=
  (if_neg (by simp [h])).trans (if_neg (by rcases hb with hb | hb <;> simp [hb]))

theorem ask_denied (h : m.running = true) : ask .host cmd true m v f = (m, v.send (.mgmt .host cmd [2])) :=
  (if_neg (by simp [h])).trans (if_pos rfl)

end

section
variable {s : State} {c : Instr} {f : Mgmt → Dev → Mgmt × Dev} (he : exec c s = s.onBoth f)
include he

/-- A message answered with nothing changed. -/
theorem exec_answers_only {n : Mgmt} {b : Binding} {cmd : Nat} {body : List Nat} {p : Mgmt → Prop}
    (hf : f s.mgmt s.dev = (n, s.dev.send (.mgmt b cmd body))) (hp : p n) :
    s.Gives c (fun t => p t.mgmt ∧ ∃ l, t.dev.out = s.dev.out ++ .mgmt b cmd body :: l) :=
  exec_onBoth_quiet_gives f he hf rfl ⟨hp, [], rfl⟩

/-- A command that finds nothing to do. -/
theorem exec_stands (hf : f s.mgmt s.dev = (s.mgmt, s.dev)) : exec c s = .next s := exec_onBoth_quiet f he hf rfl

end

/-! ### Settings and identity (Table 18.1) -/

section
variable {m : Mgmt} (v : Dev)

theorem getIdent_answer (h : m.running = true ∨ m.recovery = true) (b : Binding) :
    getIdent b m v = (m, v.send (.mgmt b 0x01 [0, glbIdent, m.chip, m.slot, Config.serial.toNat, (m.active .mgmt).version, (m.active .mgmt).svn,
      (m.active .train).version, (m.active .train).svn, m.fusedSvn])) := if_pos h

/-- GET_PUBKEY. -/
def getPubkey (b : Binding) (m : Mgmt) (v : Dev) : Mgmt × Dev :=
  ask b 0x02 false m v (fun n u => answer b 0x02 0 (Config.pubKey.map (fun x => x.toNat)) (n, u))

theorem getPubkey_answer (h : m.running = true) (b : Binding) :
    getPubkey b m v = (m, v.send (.mgmt b 0x02 (0 :: Config.pubKey.map (fun x => x.toNat)))) := ask_heard v _ h (.inl rfl)

theorem getLog_answer (h : m.running = true) (b : Binding) {first count : Nat} (h0 : 0 < count) (h32 : count ≤ 32) :
    getLog b first count m v = (m, v.send (.mgmt b 0x04
      (0 :: ((m.log.filter (fun e => decide (first ≤ e.index) && decide (e.index < first + count))).map LogEnt.fields).flatten))) :=
  (ask_heard v _ h (.inl rfl)).trans (if_neg (by omega))

theorem setRackCap_takes (h : m.running = true) {x : Nat} (hx : x ≤ 56) :
    setRackCap .rack x m v = ({ m with rackCap := x }, (v.modPwr (fun p => { p with rackCapNext := some x })).send (.mgmt .rack 0x10 [0])) :=
  (ask_heard v _ h (.inr rfl)).trans (if_neg (Nat.not_lt.mpr hx))

theorem setRackCap_refuses (h : m.running = true) {x : Nat} (hx : 56 < x) : setRackCap .rack x m v = (m, v.send (.mgmt .rack 0x10 [3])) :=
  (ask_heard v _ h (.inr rfl)).trans (if_pos hx)

theorem setStartOverride_takes (h : m.running = true) {x : Nat} (hx : x ≤ 1) :
    setStartOverride .rack x m v = ({ m with startOverride := decide (x = 1) }, v.send (.mgmt .rack 0x11 [0])) :=
  (ask_heard v _ h (.inr rfl)).trans (if_neg (Nat.not_lt.mpr hx))

end

/-! ### SET_CHIP (R499, R513) -/

/-- The chip number written where there is a module to write it to. -/
def Dev.chipTaken (v : Dev) (x : Nat) : Dev := if v.pwr.rails then v.chipWritten x else v

theorem Dev.chipTaken_out (v : Dev) (x : Nat) : (v.chipTaken x).out = v.out := by
  unfold Dev.chipTaken
  split <;> rfl

section
variable {m : Mgmt} {v : Dev} (h : m.running = true) {x : Nat} (hx : x < 16384)
include h hx

theorem setChip_same (hn : v.noSched = false) (hc : x = m.chip) : setChip .rack x m v = (m, v.send (.mgmt .rack 0x12 [0])) :=
  (ask_heard v _ h (.inr rfl)).trans ((if_neg (Nat.not_le.mpr hx)).trans ((if_neg (by simp [hc])).trans (if_pos (by simp [hn]))))

theorem setChip_refuses (hn : v.noSched = false) (hc : x ≠ m.chip) : setChip .rack x m v = (m, v.send (.mgmt .rack 0x12 [6])) :=
  (ask_heard v _ h (.inr rfl)).trans ((if_neg (Nat.not_le.mpr hx)).trans (if_pos (by simp [hn, hc])))

theorem setChip_takes (hn : v.noSched = true) :
    setChip .rack x m v = answer .rack 0x12 0 [] (logBoth 0x08 x 0 ({ m with chip := x }, v.chipTaken x)) :=
  (ask_heard v _ h (.inr rfl)).trans ((if_neg (Nat.not_le.mpr hx)).trans ((if_neg (by simp [hn])).trans (if_neg (by simp [hn]))))

end

theorem Dev.Within.land_eq {F : List Part} {v w : Dev} (h : Dev.Within F v w) (hp : Part.fabric ∉ F) (d n : Nat) : w.land d n = v.land d n := by
  rw [Dev.land, h.fabD_eq hp, Dev.land]

/-- A chip number written: the number, the lock lost and every landing slot free (R73, R499, R513). -/
theorem Dev.chipWritten_effect (v : Dev) (x : Nat) : (v.chipWritten x).chip = x ∧ (v.chipWritten x).ft.locked = false ∧
    ∀ (d : DieId) n, ((v.chipWritten x).land d n).used = false := by
  obtain ⟨v1, hv1⟩ : ∃ u, u = ((v.setChip x).modFt (fun f => { f with locked := false, masterActive := false, freshLeft := 4 })).modMst (fun _ => {}) :=
    ⟨_, rfl⟩
  have heq : v.chipWritten x = ((v1.modFabD 0 Fab.clearLand).modFabD 1 Fab.clearLand).evMgmt 0x068 v.chip x := hv1 ▸ rfl
  have hw := Dev.evMgmt_within ((v1.modFabD 0 Fab.clearLand).modFabD 1 Fab.clearLand) 0x068 v.chip x
  rw [heq]
  refine ⟨(hw.chip_eq (by decide)).trans (hv1 ▸ rfl), ?_, fun d n => ?_⟩
  · rw [hw.ft_eq (by decide), hv1]
    rfl
  · rw [Dev.land, hw.fabD_eq (by decide)]
    match d with
    | 0 =>
      rw [Dev.fabD_modFabD_ne _ _ _ (by decide)]
      exact congrArg Land.used (v1.land_modFabD_clearLand 0 n)
    | 1 => exact congrArg Land.used ((v1.modFabD 0 Fab.clearLand).land_modFabD_clearLand 1 n)

theorem setChip_clause (s : State) (h : s.mgmt.running = true) {x : Nat} (hx : x < 16384) (hn : s.dev.noSched = true) :
    s.Gives (.setChip .rack x) (fun t => t.mgmt.chip = x ∧ (∃ l, t.dev.out = s.dev.out ++ .mgmt .rack 0x12 [0] :: l) ∧
      (s.dev.pwr.rails = true → t.dev.chip = x ∧ t.dev.ft.locked = false ∧ ∀ (d : DieId) n, (t.dev.land d n).used = false)) := by
  refine exec_onBoth_gives (setChip .rack x) rfl (setChip_takes h hx hn) ⟨rfl, ?_, fun hr => ?_⟩
  · have hsent : (answer .rack 0x12 0 [] (logBoth 0x08 x 0 ({ s.mgmt with chip := x }, s.dev.chipTaken x))).2.out =
        s.dev.out ++ [.mgmt .rack 0x12 [0]] := congrArg (· ++ [OutMsg.mgmt .rack 0x12 [0]]) (s.dev.chipTaken_out x)
    exact exists_out_of_prefix (hsent ▸ Dev.merged_out _ _)
  · have hu : s.dev.chipTaken x = s.dev.chipWritten x := if_pos hr
    obtain ⟨hchip, hlock, hland⟩ := s.dev.chipWritten_effect x
    have hw : Dev.Within [.free, .hostMem, .hif, .out] (s.dev.chipTaken x) (Dev.merged s.dev (answer .rack 0x12 0 []
        (logBoth 0x08 x 0 ({ s.mgmt with chip := x }, s.dev.chipTaken x))).2) :=
      (Dev.merged_within _ _).step rfl ((answer_within ..).step rfl ((logBoth_within ..).widen rfl))
    exact ⟨(hw.chip_eq (by decide)).trans (hu ▸ hchip), (congrArg FabTime.locked (hw.ft_eq (by decide))).trans (hu ▸ hlock),
      fun d n => (congrArg Land.used (hw.land_eq (by decide) d n)).trans (hu ▸ hland d n)⟩

/-! ### Resets by message (R551, R624, R642, R644) -/

theorem Dev.railsOff_out (v : Dev) : v.out <+: v.railsOff.out := v.mergeAll_out

theorem moduleReset_out (m : Mgmt) (v : Dev) : v.out <+: (moduleReset m v).2.out :=
  v.railsOff_out.trans ((activateTrain_within ({ m with bootStep := if m.running then 1 else 0, resetDue := false }, v.railsOff)).out_prefix (by decide))

/-- A module reset takes the rails off and, with Forzoevo running, start-up resumes at step 2. -/
theorem moduleReset_effect {m : Mgmt} (h : m.running = true) (v : Dev) : (moduleReset m v).1.bootStep = 1 ∧
    (moduleReset m v).1.retiredChans = m.retiredChans ∧ (m.pendTrain = true → (moduleReset m v).1.activeTrain = 1 - m.activeTrain) := by
  obtain ⟨⟨hretired, -⟩, -, hboot⟩ := activateTrain_keeps { m with bootStep := if m.running then 1 else 0, resetDue := false } v.railsOff
  exact ⟨hboot.trans (if_pos h), hretired, fun hp => by
    unfold moduleReset activateTrain
    rw [if_pos hp]
    rfl⟩

theorem mem_retireRecord_quiet (ch : Nat) (mv : Mgmt × Dev) : ch ∈ (retireRecord false ch mv).1.retiredChans := by
  unfold retireRecord
  split
  · simpa using ‹mv.1.retiredChans.contains ch = true›
  · exact List.mem_append_right _ (List.mem_singleton_self ch)

theorem retireRecord_quiet_keeps (ch : Nat) (mv : Mgmt × Dev) :
    (retireRecord false ch mv).1.running = mv.1.running ∧ (retireRecord false ch mv).2 = mv.2 := by
  unfold retireRecord
  split <;> exact ⟨rfl, rfl⟩

section
variable {m : Mgmt} {v : Dev} (h : m.running = true)
include h

theorem retireChannel_refuses {ch : Nat} (hch : ch < 256) (hn : v.noSched = false ∨ v.noRing = false) (b : Binding) :
    retireChannel b ch m v = (m, v.send (.mgmt b 0x13 [4])) :=
  (ask_heard v _ h (.inl rfl)).trans ((if_neg (Nat.not_le.mpr hch)).trans (if_pos (by rcases hn with hn | hn <;> simp [hn])))

theorem retireChannel_resets {ch : Nat} (hch : ch < 256) (hs : v.noSched = true) (hr : v.noRing = true) (b : Binding) :
    retireChannel b ch m v = moduleReset (retireRecord false ch (m, v)).1 (v.send (.mgmt b 0x13 [0])) := by
  obtain ⟨-, hdev⟩ := retireRecord_quiet_keeps ch (m, v)
  refine (ask_heard v _ h (.inl rfl)).trans ((if_neg (Nat.not_le.mpr hch)).trans ((if_neg (by simp [hs, hr])).trans ?_))
  exact congrArg (fun u : Dev => moduleReset (retireRecord false ch (m, v)).1 (u.send (.mgmt b 0x13 [0]))) hdev

theorem moduleResetMsg_resets (hcool : v.pwr.tripped = false ∨ v.pwr.tjMax ≤ 90) (b : Binding) :
    moduleResetMsg b m v = moduleReset m (v.send (.mgmt b 0x14 [0])) :=
  (ask_heard v _ h (.inl rfl)).trans (if_neg (by rcases hcool with hc | hc <;> simp [hc]))

theorem moduleResetMsg_waits (ht : v.pwr.tripped = true) (hhot : 90 < v.pwr.tjMax) (b : Binding) :
    moduleResetMsg b m v = ({ m with resetDue := true }, v.send (.mgmt b 0x14 [0])) :=
  (ask_heard v _ h (.inl rfl)).trans (if_pos (by simp [ht, hhot]))

end

/-- The bank the ROM starts from: the other one where a verified image waits in it (R628). -/
def Mgmt.nextActive (m : Mgmt) : Nat := if m.pendMgmt then 1 - m.activeMgmt else m.activeMgmt

/-- An image that waited becomes active; the banks, the fuses and the records stay. -/
theorem activateMgmt_effect (m : Mgmt) (v : Dev) : let r := (activateMgmt (m, v)).1
    r.activeMgmt = m.nextActive ∧ (∀ a, r.bankOk a = m.bankOk a) ∧ r.nextOfRecords = m.nextOfRecords := by
  unfold activateMgmt Mgmt.nextActive
  split <;> exact ⟨rfl, fun _ => rfl, rfl⟩

/-- A management reset runs the bank that passes, reads SLOT_ID and the records, and leaves the module alone. -/
theorem mgmtRestart_effect (slot : Nat) {m : Mgmt} (v : Dev) (hok : m.bankOk m.nextActive = true) : let r := (mgmtRestart slot (m, v)).1
    r.running = true ∧ r.activeMgmt = m.nextActive ∧ r.slot = slot ∧ r.attNext = m.nextOfRecords := by
  obtain ⟨hactive, hbank, hnext⟩ := activateMgmt_effect m v
  obtain ⟨⟨-, -, hslot, hatt⟩, hrun, -⟩ := romStart_effect slot (activateMgmt (m, v)).2 (activateMgmt (m, v)).1
  obtain ⟨hrunning, hact⟩ := hrun ((hbank _).trans (hactive ▸ hok))
  unfold mgmtRestart
  dsimp only
  split <;> exact ⟨hrunning, hact.trans hactive, hslot, hatt.trans hnext⟩

/-! ### Firmware, sensors and the trees (R625, R627 to R629, R637) -/

theorem commitSvn_takes {m : Mgmt} (h : m.running = true) (v : Dev) : commitSvn .rack m v =
    answer .rack 0x16 0 [] (logBoth 0x0A (max m.fusedSvn (min (m.active .mgmt).svn (m.active .train).svn)) 0
      ({ m with fusedSvn := max m.fusedSvn (min (m.active .mgmt).svn (m.active .train).svn) }, v)) := ask_heard v _ h (.inr rfl)

/-- Forzoevo with an image in its component's inactive bank, and what its check found. -/
def Mgmt.withImage (m : Mgmt) (img : Image) : Mgmt :=
  { m with banks := tset none m.banks (m.idleBank img.component) (some img) }.setPending img.component (Image.valid img m.fusedSvn)

/-- The fields an image written changes, and the active banks, which it does not. -/
def Mgmt.HasImage (m : Mgmt) (img : Image) (n : Mgmt) : Prop :=
  n.banks = tset none m.banks (m.idleBank img.component) (some img) ∧ n.activeMgmt = m.activeMgmt ∧ n.activeTrain = m.activeTrain ∧
  (img.component = .mgmt → n.pendMgmt = Image.valid img m.fusedSvn) ∧ (img.component = .train → n.pendTrain = Image.valid img m.fusedSvn)

theorem Mgmt.withImage_has (m : Mgmt) (img : Image) : m.HasImage img (m.withImage img) := by
  unfold Mgmt.withImage Mgmt.HasImage
  generalize Image.valid img m.fusedSvn = ok
  cases img.component with
  | mgmt => exact ⟨rfl, rfl, rfl, fun _ => rfl, fun h => nomatch h⟩
  | train => exact ⟨rfl, rfl, rfl, (fun h => nomatch h), fun _ => rfl⟩

/-- A log entry is no part of what an image written changes. -/
theorem Mgmt.HasImage.logAdd {m n : Mgmt} {img : Image} (h : m.HasImage img n) (ms code a0 a1 : Nat) : m.HasImage img (n.logAdd ms code a0 a1) := by
  obtain ⟨hbanks, hmgmt, htrain, hpendMgmt, hpendTrain⟩ := h
  rw [Mgmt.logAdd]
  exact ⟨hbanks, hmgmt, htrain, hpendMgmt, hpendTrain⟩

/-- The report of an image's check is the last message sent. -/
theorem firmwareUpdate_effect {m : Mgmt} (h : m.running = true ∨ m.recovery = true) (b : Binding) (img : Image) (v : Dev) :
    m.HasImage img (firmwareUpdate b img m v).1 ∧ (firmwareUpdate b img m v).2.hif = v.hif ∧
    ∃ l, (firmwareUpdate b img m v).2.out = l ++ [.pldm b 5 [b2n !Image.valid img m.fusedSvn]] := by
  have hn := m.withImage_has img
  unfold firmwareUpdate
  rw [if_pos h]
  dsimp only
  split
  · exact ⟨hn, rfl, _, rfl⟩
  · exact ⟨hn.logAdd .., rfl, _, rfl⟩

/-- SENSOR_UPDATE takes each quantity of Table 18.3 (R625). -/
theorem sensorUpdate_sensors {m : Mgmt} (h : m.running = true) (v : Dev) {i : Nat} (h1 : 1 ≤ i) (h12 : i ≤ 12) :
    tget 0 (sensorUpdate m v).1.sensors i = v.sensor i := by
  have heq : (sensorUpdate m v).1.sensors =
      ((List.range 12).map (· + 1)).foldl (fun t k => tmod 0 t k (fun _ => v.sensor k)) m.sensors := by
    rw [List.foldl_map]
    unfold sensorUpdate
    rw [if_pos h]
    rfl
  have hmem : i ∈ (List.range 12).map (· + 1) := List.mem_map.mpr ⟨i - 1, List.mem_range.mpr (by omega), by omega⟩
  rw [heq, tget_foldl_tmod 0 (fun k _ => v.sensor k) (List.nodup_range.map (add_left_injective 1)), if_pos hmem]

theorem treeDone_behind {m : Mgmt} (h : m.running = true) (hb : m.treeUpTo < m.attNext / 2 ^ 20) (v : Dev) :
    treeDone m v = ({ m with treeUpTo := m.attNext / 2 ^ 20 }, v) := (if_neg (by simp [h])).trans (if_pos hb)

theorem treeDone_ahead {m : Mgmt} (h : m.running = true) (he : m.treeUpTo = m.attNext / 2 ^ 20) (hh : 2 ^ 19 ≤ m.attNext % 2 ^ 20) (v : Dev) :
    treeDone m v = ({ m with treeUpTo := m.attNext / 2 ^ 20 + 1 }, v) :=
  (if_neg (by simp [h])).trans ((if_neg (by omega)).trans (if_pos ⟨hh, he⟩))

theorem treeDone_eq (m : Mgmt) (v : Dev) : treeDone m v = ((treeDone m v).1, v) := by
  refine Prod.ext rfl ?_
  change (treeDone m v).2 = v
  unfold treeDone
  dsimp only
  split
  · rfl
  · split
    · rfl
    · split <;> rfl

/-! ### ATTEST (R632 to R638) -/

section
variable {m : Mgmt} (v : Dev) (h : m.running = true) {nonce : List Byte} (hlen : nonce.length = 32) (b : Binding) (ok : Bool)
include h hlen

theorem attest_exhausted (he : 2 ^ 40 ≤ m.attNext ∨ m.stateLogFailed = true) : attest b nonce ok m v = (m, v.send (.mgmt b 0x03 [7])) :=
  (ask_heard v _ h (.inl rfl)).trans ((if_neg (not_not.mpr hlen)).trans (if_pos he))

theorem attest_busy (hn : m.attNext < 2 ^ 40) (hf : m.stateLogFailed = false) (ht : m.treeUpTo < m.attNext / 2 ^ 20) :
    attest b nonce ok m v = (m, v.send (.mgmt b 0x03 [5])) :=
  (ask_heard v _ h (.inl rfl)).trans ((if_neg (not_not.mpr hlen)).trans ((if_neg (by simp [hf]; omega)).trans (if_pos ht)))

theorem attest_signs (hn : m.attNext < 2 ^ 40) (hf : m.stateLogFailed = false) (ht : m.attNext / 2 ^ 20 ≤ m.treeUpTo) (hsig : m.sigThisSecond < 16) :
    attest b nonce ok m v = signNext b nonce ok m v := by
  have hsecond : secondFull m v = (false, m, v) := if_pos hsig
  refine (ask_heard v _ h (.inl rfl)).trans ((if_neg (not_not.mpr hlen)).trans ((if_neg (by simp [hf]; omega)).trans
    ((if_neg (Nat.not_lt.mpr ht)).trans ?_)))
  rw [hsecond]
  rfl

end

theorem signNext_released (b : Binding) (nonce : List Byte) (m : Mgmt) (v : Dev) : let r := signNext b nonce true m v
    r.1.attNext = m.attNext + 1 ∧ r.1.released = m.released ++ [m.attNext] ∧ r.2 = v.send (.mgmt b 0x03
      (0 :: (m.report nonce m.attNext ++ Config.signature m.attNext (m.report nonce m.attNext)).map (fun x => x.toNat))) := by
  obtain ⟨-, hreleased, -⟩ := m.appendRecord_rest (m.attNext + 1) true
  exact ⟨rfl, congrArg (· ++ [m.attNext]) hreleased, rfl⟩

theorem signNext_withheld (b : Binding) (nonce : List Byte) (m : Mgmt) (v : Dev) : let r := signNext b nonce false m v
    r.1.attNext = m.attNext ∧ r.1.released = m.released ∧ r.1.stateLogFailed = true ∧ r.2 = v.send (.mgmt b 0x03 [7]) := by
  obtain ⟨-, hreleased, hnext⟩ := m.appendRecord_rest (m.attNext + 1) false
  exact ⟨hnext, hreleased, rfl, rfl⟩

/-! ### The messages, clause by clause -/

theorem Dev.Dark.rails {v : Dev} (h : v.Dark) : v.pwr.rails = false := h.1

/-- RETIRE_CHANNEL of a quiet module, answered before the module resets. -/
theorem retireChannel_clause {s : State} (h : s.mgmt.running = true) {ch : Nat} (hch : ch < 256) (hs : s.dev.noSched = true)
    (hr : s.dev.noRing = true) (b : Binding) : s.Gives (.retireChannel b ch) (fun t => ch ∈ t.mgmt.retiredChans ∧ t.dev.pwr.rails = false ∧
      t.mgmt.bootStep = 1 ∧ ∃ l, t.dev.out = s.dev.out ++ .mgmt b 0x13 [0] :: l) := by
  obtain ⟨hrunning, -⟩ := retireRecord_quiet_keeps ch (s.mgmt, s.dev)
  obtain ⟨hboot, hretired, -⟩ := moduleReset_effect (hrunning.trans h) (s.dev.send (.mgmt b 0x13 [0]))
  have hdark := (moduleReset_dark (retireRecord false ch (s.mgmt, s.dev)).1 (s.dev.send (.mgmt b 0x13 [0]))).merged s.dev
  exact exec_onBoth_gives (retireChannel b ch) rfl ((retireChannel_resets h hch hs hr b).trans Prod.mk.eta.symm)
    ⟨hretired ▸ mem_retireRecord_quiet ch _, hdark.rails, hboot,
      exists_out_of_prefix (v := s.dev) ((moduleReset_out _ (s.dev.send _)).trans (Dev.merged_out _ _))⟩

theorem moduleReset_clause {s : State} (h : s.mgmt.running = true) (hcool : s.dev.pwr.tripped = false ∨ s.dev.pwr.tjMax ≤ 90) (b : Binding) :
    s.Gives (.moduleReset b) (fun t => t.dev.pwr.rails = false ∧ t.mgmt.bootStep = 1 ∧ (∀ a, mget t.dev.hbm.mem a = 0#8) ∧
      (s.mgmt.pendTrain = true → t.mgmt.activeTrain = 1 - s.mgmt.activeTrain)) := by
  obtain ⟨hboot, -, htrain⟩ := moduleReset_effect h (s.dev.send (.mgmt b 0x14 [0]))
  obtain ⟨hrails, hmem, -⟩ := (moduleReset_dark s.mgmt (s.dev.send (.mgmt b 0x14 [0]))).merged s.dev
  exact exec_onBoth_gives (moduleResetMsg b) rfl ((moduleResetMsg_resets h hcool b).trans Prod.mk.eta.symm) ⟨hrails, hboot, hmem, htrain⟩

theorem attest_clause {s : State} (h : s.mgmt.running = true) {nonce : List Byte} (hlen : nonce.length = 32) (b : Binding) (ok : Bool)
    (hn : s.mgmt.attNext < 2 ^ 40) (hf : s.mgmt.stateLogFailed = false) (ht : s.mgmt.attNext / 2 ^ 20 ≤ s.mgmt.treeUpTo)
    (hsig : s.mgmt.sigThisSecond < 16) : s.Gives (.attest b nonce ok) (fun t =>
      (ok = true → t.mgmt.attNext = s.mgmt.attNext + 1 ∧ t.mgmt.released = s.mgmt.released ++ [s.mgmt.attNext] ∧
        ∃ l, t.dev.out = s.dev.out ++ .mgmt b 0x03 (0 :: (s.mgmt.report nonce s.mgmt.attNext ++
          Config.signature s.mgmt.attNext (s.mgmt.report nonce s.mgmt.attNext)).map (fun x => x.toNat)) :: l) ∧
      (ok = false → t.mgmt.attNext = s.mgmt.attNext ∧ t.mgmt.released = s.mgmt.released ∧ t.mgmt.stateLogFailed = true ∧
        ∃ l, t.dev.out = s.dev.out ++ .mgmt b 0x03 [7] :: l)) := by
  have hsigns := attest_signs s.dev h hlen b ok hn hf ht hsig
  cases ok with
  | true =>
    obtain ⟨hnext, hreleased, hdev⟩ := signNext_released b nonce s.mgmt s.dev
    exact exec_onBoth_quiet_gives (attest b nonce true) rfl (hsigns.trans (Prod.ext rfl hdev)) rfl ⟨fun _ => ⟨hnext, hreleased, [], rfl⟩, nofun⟩
  | false =>
    obtain ⟨hnext, hreleased, hfailed, hdev⟩ := signNext_withheld b nonce s.mgmt s.dev
    exact exec_onBoth_quiet_gives (attest b nonce false) rfl (hsigns.trans (Prod.ext rfl hdev)) rfl
      ⟨nofun, fun _ => ⟨hnext, hreleased, hfailed, [], rfl⟩⟩

/-- MGMT_RESET from the rack manager: Forzoevo starts again, the data plane as it was. -/
theorem mgmtReset_clause {s : State} (h : s.mgmt.running = true) (slot : BitVec 7) (hok : s.mgmt.bankOk s.mgmt.nextActive = true) :
    s.Gives (.mgmtReset .rack slot) (fun t => t.mgmt.running = true ∧ t.mgmt.activeMgmt = s.mgmt.nextActive ∧ t.mgmt.slot = slot.toNat ∧
      t.mgmt.attNext = s.mgmt.nextOfRecords ∧ t.dev.pwr = s.dev.pwr ∧ t.dev.scheds = s.dev.scheds ∧ t.dev.hbm = s.dev.hbm) := by
  obtain ⟨hrun, hactive, hslot, hatt⟩ := mgmtRestart_effect slot.toNat (s.dev.send (.mgmt .rack 0x15 [0])) hok
  have hw : Dev.Within [.free, .out] s.dev (mgmtRestart slot.toNat (answer .rack 0x15 0 [] (s.mgmt, s.dev))).2 :=
    (mgmtRestart_within ..).step rfl ((answer_within ..).widen rfl)
  have hf : mgmtResetMsg .rack slot.toNat s.mgmt s.dev = mgmtRestart slot.toNat (answer .rack 0x15 0 [] (s.mgmt, s.dev)) :=
    ask_heard s.dev _ h (.inr rfl)
  exact exec_onBoth_quiet_gives (mgmtResetMsg .rack slot.toNat) rfl (hf.trans Prod.mk.eta.symm) (hw.1 .hif (by decide))
    ⟨hrun, hactive, hslot, hatt, hw.pwr_eq (by decide), hw.scheds_eq (by decide), hw.hbm_eq (by decide)⟩

theorem firmwareUpdate_clause {s : State} (h : s.mgmt.running = true ∨ s.mgmt.recovery = true) (b : Binding) (img : Image) :
    s.Gives (.firmwareUpdate b img) (fun t => tget none t.mgmt.banks (s.mgmt.idleBank img.component) = some img ∧
      (∀ j, j ≠ s.mgmt.idleBank img.component → tget none t.mgmt.banks j = tget none s.mgmt.banks j) ∧
      t.mgmt.activeMgmt = s.mgmt.activeMgmt ∧ t.mgmt.activeTrain = s.mgmt.activeTrain ∧
      (img.component = .mgmt → t.mgmt.pendMgmt = Image.valid img s.mgmt.fusedSvn) ∧
      (img.component = .train → t.mgmt.pendTrain = Image.valid img s.mgmt.fusedSvn) ∧
      ∃ l, t.dev.out = l ++ [.pldm b 5 [b2n !Image.valid img s.mgmt.fusedSvn]]) := by
  obtain ⟨⟨hbanks, hmgmt, htrain, hpendMgmt, hpendTrain⟩, hhif, hout⟩ := firmwareUpdate_effect h b img s.dev
  refine exec_onBoth_quiet_gives (firmwareUpdate b img) rfl Prod.mk.eta.symm hhif
    ⟨?_, fun j hj => ?_, hmgmt, htrain, hpendMgmt, hpendTrain, hout⟩
  · rw [hbanks, tget_tset_same]
  · rw [hbanks, tget_tset_ne _ _ _ hj]

/-- A rack manager's command from the host is not permitted, and one to a Forzoevo that does not run is not answered. -/
theorem exec_ask_host {s : State} {c : Instr} {cmd : Nat} {f : Mgmt → Dev → Mgmt × Dev} (he : exec c s = s.onBoth (fun m v => ask .host cmd true m v f))
    (h : s.mgmt.running = true) : s.Gives c (fun t => t.mgmt = s.mgmt ∧ ∃ l, t.dev.out = s.dev.out ++ .mgmt .host cmd [2] :: l) :=
  exec_answers_only (p := fun n => n = s.mgmt) he (ask_denied s.dev f h) rfl

theorem exec_ask_stopped {s : State} {c : Instr} {b : Binding} {cmd : Nat} {rackOnly : Bool} {f : Mgmt → Dev → Mgmt × Dev}
    (he : exec c s = s.onBoth (fun m v => ask b cmd rackOnly m v f)) (h : s.mgmt.running = false) : exec c s = .next s :=
  exec_stands he (ask_stopped s.dev f h)

/-- Settles O57: each message by its answer's equation. -/
theorem mgmtCommandsComplete : Obligations.MgmtCommandsComplete := by
  intro s
  have only : ∀ {c : Instr} {f : Mgmt → Dev → Mgmt × Dev} {n : Mgmt} {b : Binding} {cmd : Nat} {body : List Nat}, exec c s = s.onBoth f →
      f s.mgmt s.dev = (n, s.dev.send (.mgmt b cmd body)) →
      s.Gives c (fun t => t.mgmt = n ∧ ∃ l, t.dev.out = s.dev.out ++ .mgmt b cmd body :: l) := fun {_ _ n _ _ _} he hf =>
    exec_answers_only (p := fun k => k = n) he hf rfl
  refine ⟨fun b h => ⟨only rfl (getIdent_answer s.dev h b), fun img => firmwareUpdate_clause h b img⟩, fun h => ?running, fun h b x nonce ok => ?stopped⟩
  case running =>
    refine ⟨fun b => ⟨only (f := getPubkey b) rfl (getPubkey_answer s.dev h b), fun first count h0 h32 => only rfl (getLog_answer s.dev h b h0 h32),
      fun ch hch => ⟨fun hs hr => retireChannel_clause h hch hs hr b, fun hn => only rfl (retireChannel_refuses h hch hn b)⟩,
      fun hcool => moduleReset_clause h hcool b,
      fun ht hhot => exec_onBoth_quiet_gives (moduleResetMsg b) rfl (moduleResetMsg_waits h ht hhot b) rfl ⟨rfl, rfl⟩,
      fun id h1 h12 => ?sensor,
      fun nonce ok hlen => ⟨fun hn hf ht hsig => attest_clause h hlen b ok hn hf ht hsig, fun he => only rfl (attest_exhausted s.dev h hlen b ok he),
        fun hn hf ht => only rfl (attest_busy s.dev h hlen b ok hn hf ht)⟩⟩,
      exec_onBoth_quiet_gives (commitSvn .rack) rfl (commitSvn_takes h s.dev) rfl ⟨rfl, [], rfl⟩,
      fun x => ⟨fun hx => ?cap, fun hx => only rfl (setRackCap_refuses s.dev h hx), fun hx => only rfl (setStartOverride_takes s.dev h hx),
        fun hx hn => setChip_clause s h hx hn, fun hx hc hn => ?sameChip, fun hx hc hn => only rfl (setChip_refuses h hx hn hc), ?host⟩,
      fun slot hok => mgmtReset_clause h slot hok, ?sensors, ?tree⟩
    case sensor =>
      exact exec_onBoth_quiet_gives (sensorRead b id) rfl ((if_neg (by simp [h])).trans (if_pos ⟨h1, h12⟩)) rfl ⟨rfl, rfl⟩
    case cap => exact exec_onBoth_quiet_gives (setRackCap .rack x) rfl (setRackCap_takes s.dev h hx) rfl ⟨rfl, rfl, [], rfl⟩
    case sameChip => exact exec_onBoth_quiet_gives (setChip .rack x) rfl (setChip_same h hx hn hc) rfl ⟨rfl, rfl⟩
    case host =>
      simp only [List.forall_mem_cons]
      exact ⟨exec_ask_host rfl h, exec_ask_host rfl h, exec_ask_host rfl h, exec_ask_host rfl h, exec_ask_host rfl h, nofun⟩
    case sensors => exact exec_onBoth_quiet_gives sensorUpdate rfl (if_pos h) rfl fun i h1 h12 =>
        (congrArg (fun r : Mgmt × Dev => tget 0 r.1.sensors i) (if_pos h)).symm.trans (sensorUpdate_sensors h s.dev h1 h12)
    case tree =>
      exact exec_onBoth_quiet_gives treeDone rfl (treeDone_eq s.mgmt s.dev) rfl
        ⟨rfl, fun hb => congrArg Prod.fst (treeDone_behind h hb s.dev), fun he hh => congrArg Prod.fst (treeDone_ahead h he hh s.dev)⟩
  case stopped =>
    simp only [List.forall_mem_cons]
    exact ⟨exec_ask_stopped rfl h, exec_ask_stopped rfl h, exec_ask_stopped rfl h, exec_ask_stopped rfl h, exec_ask_stopped rfl h,
      exec_ask_stopped rfl h, exec_ask_stopped rfl h, exec_ask_stopped rfl h, exec_stands (f := sensorRead b x) rfl (if_pos (by simp [h])),
      exec_ask_stopped rfl h, nofun⟩

end Sys2Proof.Machine


/-! The power states (15): what each of their commands leaves of the power state, of the stacks and of the count, and from them O50. -/

namespace Sys2Proof.Machine

/-! ### Charging (R538) -/

/-- Charging is all that a change of power state may alter of the power registers (R49, R518, R538). -/
theorem Dev.recharge_pwr (v : Dev) : ∃ b, v.recharge.pwr = { v.pwr with charging := b } := ⟨_, rfl⟩

/-- Outside STARTING, CALM and LULL the bank does not charge (R538). -/
theorem Dev.recharge_paused {v : Dev} (h : v.pstate = 2 ∨ v.pstate = 3) : v.recharge.pwr = { v.pwr with charging := false } := by
  have hdraw : (v.pwr.rails && decide (v.pwr.energy < bankFull) &&
      (decide (v.pstate ≤ 1) || (decide (v.pstate = 5) && decide (4400 ≤ v.pwr.vin)))) = false := by
    obtain h | h := h <;> simp [h]
  exact congrArg (fun b => { v.pwr with charging := b }) hdraw

theorem Dev.powerChanged_pwr (old v : Dev) : ∃ b, (Dev.powerChanged old v).pwr = { v.pwr with charging := b } := by
  obtain ⟨b, hb⟩ := (Dev.powerEdge old v).recharge_pwr
  exact ⟨b, by rw [Dev.powerChanged, (Dev.updateReq_within _).pwr_eq (by decide), hb, (Dev.powerEdge_within _ _).pwr_eq (by decide)]⟩

/-! ### SQUALL (R523 to R525) -/

/-- SQUALL entered with the clocks running outside start-up: the fraction, the request of SQUALL_LEVEL, no charging, one more in the count. -/
theorem Dev.enterSquall_pwr {v : Dev} (hc : v.clocksRun = true) (hs : v.pwr.starting = false) : v.enterSquall.pwr = { v.pwr with
    squall := true, squallReq := v.pwr.squallLevel, charging := false, countSquall := satAdd v.pwr.countSquall 1 65535 } := by
  have htripped : v.pwr.tripped = false := by simp_all [Dev.clocksRun]
  let u := v.modPwr (fun p => { p with squall := true, squallReq := p.squallLevel, charging := false, countSquall := satAdd p.countSquall 1 65535 })
  let e := (Dev.powerEdge v u).evMgmt 0x061 v.pwr.vin 0
  have hwithin : Dev.Within [.hif] u e := (Dev.evMgmt_within _ _ _ _).step (by decide) (Dev.powerEdge_within v u)
  have hpwr : e.pwr = u.pwr := hwithin.pwr_eq (by decide)
  have hstate : e.pstate = u.pstate := Dev.pstate_congr hpwr (congrArg FabTime.level (hwithin.ft_eq (by decide)))
  have hpaused : e.pstate = 2 ∨ e.pstate = 3 := by
    rw [hstate, Dev.pstate, if_neg (by simp [u, htripped]), if_neg (by simp [u, hs])]
    split
    · exact .inr rfl
    · exact .inl (if_pos rfl)
  calc v.enterSquall.pwr = e.recharge.pwr := (Dev.updateReq_within _).pwr_eq (by decide)
    _ = { e.pwr with charging := false } := Dev.recharge_paused hpaused
    _ = _ := by rw [hpwr]; rfl

theorem Dev.warnHeldFor_squalls {v : Dev} (hw : v.pwr.warned = true) (hc : v.clocksRun = true) (hs : v.pwr.starting = false) :
    v.warnHeldFor.pwr.squall = true ∧ v.warnHeldFor.pwr.warnHeld = true := by
  unfold Dev.warnHeldFor
  rw [if_pos (by simp [hw, hc, hs])]
  dsimp only
  split
  · rw [Dev.enterSquall_pwr (v := v.modPwr (fun p => { p with warnHeld := true })) hc hs]
    exact ⟨rfl, rfl⟩
  · next hno =>
    refine ⟨?_, rfl⟩
    have hruns : (v.modPwr (fun p => { p with warnHeld := true })).clocksRun = true := hc
    simpa [Dev.squallable, hruns, hs] using hno

theorem Dev.squallAt_pwr {v : Dev} {vin : Nat} (h : v.squallable = true) (hv : vin < 4400) : (v.squallAt vin).pwr = { v.pwr with
    vin := vin, squall := true, squallReq := v.pwr.squallLevel, charging := false, countSquall := satAdd v.pwr.countSquall 1 65535 } := by
  have hparts : (v.clocksRun = true ∧ v.pwr.starting = false) ∧ v.pwr.squall = false := by simpa [Dev.squallable] using h
  obtain ⟨⟨hc, hs⟩, -⟩ := hparts
  unfold Dev.squallAt
  dsimp only
  have hat : ((v.setVin vin).squallable && decide (vin < 4400)) = true := by
    rw [decide_eq_true hv, Bool.and_true]
    exact h
  rw [if_pos hat, Dev.enterSquall_pwr (v := v.setVin vin) hc hs, Dev.setVin, Dev.modPwr_pwr, Nat.mod_eq_of_lt (by omega)]
  rfl

theorem Dev.squallExit_ends {v : Dev} (hs : v.pwr.squall = true) (hc : v.clocksRun = true) (h : (v.pwr.warnHeld && v.pwr.warned) = false) :
    v.squallExit.pwr.squall = false ∧ v.squallExit.pwr.squallReq = 0 := by
  unfold Dev.squallExit
  rw [if_pos (by rw [hs, hc, h]; rfl)]
  obtain ⟨b, hb⟩ := Dev.powerChanged_pwr v (v.modPwr (fun p => { p with squall := false, squallReq := 0, warnHeld := false }))
  rw [hb]
  exact ⟨rfl, rfl⟩

/-! ### PWRWARN (R522) -/

theorem pwrwarn_warns {m : Mgmt} {v : Dev} (hc : v.clocksRun = true) (hm : m.resetHold = false) (die : Nat) :
    tget false (pwrwarn die m v).pwr.warn die = true := by
  unfold pwrwarn
  split
  · next h => simpa [hc, hm] using h
  · dsimp only
    have hset : tget false (v.modPwr (fun p => { p with warn := tset false p.warn die true })).pwr.warn die = true := by simp
    split
    · exact hset
    · rwa [(Dev.evMgmt_within _ _ _ _).pwr_eq (by decide)]

/-! ### The stacks' self-refresh (R419) -/

theorem Dev.selfRefresh_stk (v : Dev) (on : Bool) {k : Nat} (hk : k < 8) : ((v.selfRefresh on).stk k).selfRefresh = on := by
  rw [Dev.selfRefresh, Dev.forAll_range_once Dev.stk (f := fun u k => u.modStk k (fun s => { s with selfRefresh := on }))
    (g := fun _ s => { s with selfRefresh := on }) (fun u x => Dev.stk_modStk_same u x _) (fun u x y hy => Dev.stk_modStk_ne u x _ hy) v hk]

/-! ### The signals under way (R351) -/

/-- The signals under way to one counter arrive. -/
def Dev.landSignal (u : Dev) (e : Nat × Ctr) : Dev :=
  iter (fun w => w.applySignal e.1) e.2.transit (u.modCtr e.1 (fun c => { c with transit := 0 }))

theorem Dev.iter_applySignal_transit (id : Nat) : ∀ (n : Nat) (v : Dev), ((iter (fun w => w.applySignal id) n v).ctr id).transit = (v.ctr id).transit
  | 0, _ => rfl
  | n + 1, v => by rw [iter, Dev.iter_applySignal_transit id n, Dev.applySignal_ctr, Ctr.signalled_transit]

theorem Dev.iter_applySignal_ctr_ne {id j : Nat} (h : j ≠ id) : ∀ (n : Nat) (v : Dev), (iter (fun w => w.applySignal id) n v).ctr j = v.ctr j
  | 0, _ => rfl
  | n + 1, v => by rw [iter, Dev.iter_applySignal_ctr_ne h n, Dev.applySignal_ctr_ne v h]

theorem Dev.landSignal_same (u : Dev) (e : Nat × Ctr) : ((u.landSignal e).ctr e.1).transit = 0 := by
  rw [Dev.landSignal, Dev.iter_applySignal_transit, Dev.ctr_modCtr_same]

theorem Dev.landSignal_ne (u : Dev) (e : Nat × Ctr) {j : Nat} (h : j ≠ e.1) : (u.landSignal e).ctr j = u.ctr j := by
  rw [Dev.landSignal, Dev.iter_applySignal_ctr_ne h, Dev.ctr_modCtr_ne _ _ _ h]

theorem Dev.forAll_landSignal_transit (id : Nat) : ∀ (l : Tab Ctr) (u : Dev), (u.ctr id).transit = 0 ∨ id ∈ l.map Prod.fst →
    ((u.forAll l Dev.landSignal).ctr id).transit = 0
  | [], u, h => h.resolve_right (List.not_mem_nil)
  | e :: r, u, h => by
    refine Dev.forAll_landSignal_transit id r (u.landSignal e) ?_
    by_cases he : id = e.1
    · exact .inl (he ▸ u.landSignal_same e)
    · rw [u.landSignal_ne e he]
      exact h.imp_right (fun hm => (List.mem_cons.mp hm).resolve_left he)

/-- Once they have landed no signal is under way. -/
theorem Dev.landSignals_transit (v : Dev) (id : Nat) : (v.landSignals.ctr id).transit = 0 := by
  refine Dev.forAll_landSignal_transit id v.ctrs v ?_
  by_cases h : id ∈ v.ctrs.map Prod.fst
  · exact .inr h
  · have habsent : v.ctr id = {} := tget_of_absent _ (fun e he hid => h (List.mem_map.mpr ⟨e, he, hid⟩))
    exact .inl (by rw [habsent])

/-! ### The freeze of CHRYSALIS (R65, R67) -/

/-- A STATE of this module that it takes itself as the master freezes it, if at all, at its own count (R68). -/
theorem Dev.stateShown_own_ft (v : Dev) (arg : Nat) : (v.stateShown v.chip arg).ft = v.ft ∨
    (v.stateShown v.chip arg).ft = { v.ft with tf := some (firstTf v.ft.tf v.ft.now), frozen := true, freezeAt := none } := by
  unfold Dev.stateShown
  dsimp only
  split
  · rw [if_pos (v.modMember_chip _ _).symm, Dev.masterFreeze_now_ft, Dev.modMember_ft]
    exact .inr rfl
  · exact .inl (v.modMember_ft _ _)

theorem Dev.takeState_own_ft (v : Dev) (arg value : Nat) : (v.takeState v.chip arg value).ft = v.ft ∨
    (v.takeState v.chip arg value).ft = { v.ft with tf := some (firstTf v.ft.tf v.ft.now), frozen := true, freezeAt := none } := by
  cases h : (v.member v.chip).absent with
  | true =>
    rw [Dev.takeState_of_absent h]
    split
    · exact .inl (v.modMember_ft _ _)
    · exact .inl rfl
  | false =>
    rw [Dev.takeState_of_present h]
    split
    · rw [Dev.modMember_ft]
      exact v.stateShown_own_ft arg
    · exact v.stateShown_own_ft arg

/-- The STATE sent by a frozen unit leaves it frozen at its count; its freeze tick changes in an active master only, to an earlier count. -/
theorem Dev.sendState_frozen {v : Dev} (h : v.ft.frozen = true) : v.sendState.ft.frozen = true ∧ v.sendState.ft.now = v.ft.now ∧
    ∀ t, v.ft.tf = some t → t = v.ft.now ∨ v.ft.masterActive = false → v.sendState.ft.tf = some t := by
  unfold Dev.sendState
  dsimp only
  generalize hu : Dev.modFt _ _ = u
  have hchip : u.chip = v.chip := by rw [← hu]; exact (Dev.sendW_within v _).chip_eq (by decide)
  obtain ⟨n, hft⟩ : ∃ n, u.ft = { v.ft with freshLeft := n } := ⟨_, by rw [← hu, Dev.modFt_ft, Dev.sendW_ft]⟩
  split
  · next hmaster =>
    generalize v.pstate + _ + _ + _ = arg
    obtain hsame | hfroze := u.takeState_own_ft arg u.ft.now
    · rw [hsame, hft]
      exact ⟨h, rfl, fun t ht _ => ht⟩
    · rw [hfroze, hft]
      refine ⟨rfl, rfl, fun t ht hor => ?_⟩
      have hnow : t = v.ft.now := hor.resolve_right (by rw [hft] at hmaster; simp [show v.ft.masterActive = true from hmaster])
      simp [ht, hnow, firstTf]
  · rw [hft]
    exact ⟨h, rfl, fun t ht _ => ht⟩

/-! ### CHRYSALIS_ENTRY (R527, R535) -/

/-- The power registers and the freeze of a module entering CHRYSALIS, before its stacks and its messages (R65, R527). -/
def Dev.chrysalisFrozen (v : Dev) : Dev :=
  let u := v.landSignals.modPwr (fun p =>
    { p with chrysalis := true, onBank := true, charging := false, countChrysalis := satAdd p.countChrysalis 1 65535 })
  if u.ft.locked && !u.ft.frozen then u.modFt (fun f => { f with frozen := true, freezeAt := none, tf := some (f.tf.getD f.now) }) else u

theorem Dev.enterChrysalis_eq (v : Dev) : v.enterChrysalis = (Dev.powerEdge v (v.chrysalisFrozen.selfRefresh true)).sendState := rfl

/-- After the freeze, the stacks' registers, the events, the count and the messages alone change. -/
theorem Dev.enterChrysalis_within' (v : Dev) :
    Dev.Within [.stackRegs, .hif, .time, .master, .out] v.chrysalisFrozen v.enterChrysalis :=
  (Dev.sendState_within _).step (by decide) ((Dev.powerEdge_within _ _).step (by decide) ((Dev.selfRefresh_within _ _).mono (by decide)))

theorem Dev.chrysalisFrozen_pwr (v : Dev) : v.chrysalisFrozen.pwr = { v.pwr with
    chrysalis := true, onBank := true, charging := false, countChrysalis := satAdd v.pwr.countChrysalis 1 65535 } := by
  have hland : v.landSignals.pwr = v.pwr := v.landSignals_within.pwr_eq (by decide)
  unfold Dev.chrysalisFrozen
  dsimp only
  split
  · rw [(Dev.modFt_within _ _).pwr_eq (by decide), Dev.modPwr_pwr, hland]
  · rw [Dev.modPwr_pwr, hland]

theorem Dev.chrysalisFrozen_transit (v : Dev) (id : Nat) : (v.chrysalisFrozen.ctr id).transit = 0 := by
  unfold Dev.chrysalisFrozen
  dsimp only
  split <;> exact v.landSignals_transit id

/-- A locked running unit is frozen where it stands, its freeze tick an earlier order's where it has one (R65). -/
theorem Dev.chrysalisFrozen_ft {v : Dev} (hl : v.ft.locked = true) (hf : v.ft.frozen = false) :
    v.chrysalisFrozen.ft = { v.ft with frozen := true, freezeAt := none, tf := some (v.ft.tf.getD v.ft.now) } := by
  have hland : v.landSignals.ft = v.ft := v.landSignals_within.ft_eq (by decide)
  unfold Dev.chrysalisFrozen
  dsimp only
  rw [if_pos (by rw [Dev.modPwr_ft, hland, hl, hf]; rfl), Dev.modFt_ft, Dev.modPwr_ft, hland]

theorem Dev.enterChrysalis_stk (v : Dev) {k : Nat} (hk : k < 8) : (v.enterChrysalis.stk k).selfRefresh = true := by
  rw [v.enterChrysalis_eq, (Dev.sendState_within _).stk_eq (by decide), (Dev.powerEdge_within _ _).stk_eq (by decide)]
  exact v.chrysalisFrozen.selfRefresh_stk true hk

theorem Dev.enterChrysalis_ft {v : Dev} (hl : v.ft.locked = true) (hf : v.ft.frozen = false) :
    v.enterChrysalis.ft.frozen = true ∧ v.enterChrysalis.ft.now = v.ft.now ∧ (v.ft.tf = none → v.enterChrysalis.ft.tf = some v.ft.now) ∧
      (v.ft.masterActive = false → ∀ t, v.ft.tf = some t → v.enterChrysalis.ft.tf = some t) := by
  have hft : (Dev.powerEdge v (v.chrysalisFrozen.selfRefresh true)).ft =
      { v.ft with frozen := true, freezeAt := none, tf := some (v.ft.tf.getD v.ft.now) } := by
    rw [Dev.powerEdge_ft, (Dev.selfRefresh_within _ _).ft_eq (by decide), Dev.chrysalisFrozen_ft hl hf]
  rw [v.enterChrysalis_eq]
  generalize Dev.powerEdge v (v.chrysalisFrozen.selfRefresh true) = u at hft
  obtain ⟨hfrozen, hnow, htick⟩ := Dev.sendState_frozen (v := u) (by rw [hft])
  have htf : u.ft.tf = some (v.ft.tf.getD v.ft.now) := by rw [hft]
  have hcount : u.ft.now = v.ft.now := by rw [hft]
  refine ⟨hfrozen, hnow.trans hcount, fun hnone => ?_, fun hmaster t ht => ?_⟩
  · exact htick v.ft.now (by rw [htf, hnone]; rfl) (.inl hcount.symm)
  · exact htick t (by rw [htf, ht]; rfl) (.inr (by rw [hft]; exact hmaster))

/-- A running module whose input is lost enters CHRYSALIS. -/
theorem Dev.chrysalisEntry_enters {v : Dev} {vin : Nat} (hv : lostInput vin = true) (hr : v.pwr.rails = true) (hs : v.pwr.starting = false)
    (ht : v.pwr.tripped = false) (hx : v.pwr.exiting = false) (hc : v.pwr.chrysalis = false) :
    v.chrysalisEntry vin = (v.setVin vin).enterChrysalis := by
  unfold Dev.chrysalisEntry
  dsimp only
  rw [if_neg (by simp [Dev.setVin, hv, hr, hs]), if_neg (by simp [Dev.setVin, ht]), if_neg (by simp [Dev.setVin, hx]),
    if_neg (by simp [Dev.setVin, hc])]

theorem Dev.chrysalisEntry_stops_exit {v : Dev} {vin : Nat} (hv : lostInput vin = true) (hr : v.pwr.rails = true) (hs : v.pwr.starting = false)
    (ht : v.pwr.tripped = false) (hx : v.pwr.exiting = true) :
    v.chrysalisEntry vin = ((v.setVin vin).modPwr (fun p => { p with exiting := false, onBank := true })).selfRefresh true := by
  unfold Dev.chrysalisEntry
  dsimp only
  rw [if_neg (by simp [Dev.setVin, hv, hr, hs]), if_neg (by simp [Dev.setVin, ht]), if_pos (by simp [Dev.setVin, hx])]

/-! ### CHRYSALIS_EXIT and ISSUE_RESUME (R534) -/

theorem Dev.chrysalisExit_begins {v : Dev} {vin : Nat} (hc : v.pwr.chrysalis = true) (hx : v.pwr.exiting = false) (ht : v.pwr.tripped = false)
    (hv : goodInput vin = true) : (v.chrysalisExit vin).pwr.exiting = true ∧ (v.chrysalisExit vin).pwr.onBank = false ∧
      ∀ k : StackId, ((v.chrysalisExit vin).stk k).selfRefresh = false := by
  unfold Dev.chrysalisExit
  dsimp only
  rw [if_pos (by simp [Dev.setVin, hc, hx, ht, hv])]
  have hpwr := fun u : Dev => ((u.selfRefresh false).retrainAll_within true).pwr_eq (by decide)
  refine ⟨?_, ?_, fun k => ?_⟩
  · rw [hpwr, (Dev.selfRefresh_within _ _).pwr_eq (by decide), Dev.modPwr_pwr]
  · rw [hpwr, (Dev.selfRefresh_within _ _).pwr_eq (by decide), Dev.modPwr_pwr]
  · rw [(Dev.retrainAll_within _ _).stk_eq (by decide)]
    exact Dev.selfRefresh_stk _ false k.isLt

/-- The messages and the waiters served as issue resumes leave the power registers. -/
theorem Dev.resumed_pwr (u : Dev) : ((u.sendState.updateReq.grantPass).forAll (List.range 48) Dev.dmaWakeAll).releaseHeld.pwr = u.pwr := by
  rw [(Dev.releaseHeld_within _).pwr_eq (by decide), Dev.forAll_keeps Dev.pwr (fun u c => (Dev.dmaWakeAll_within u c).pwr_eq (by decide)),
    (Dev.grantPass_within _).pwr_eq (by decide), (Dev.updateReq_within _).pwr_eq (by decide), (Dev.sendState_within _).pwr_eq (by decide)]

/-- The device as issue resumes, before its messages and its waiters. -/
def Dev.resuming (v : Dev) : Dev :=
  let u := (v.modPwr (fun p => { p with chrysalis := false, exiting := false, squall := false, squallReq := 0, warnHeld := false })).retrainAll false
  (Dev.powerEdge v u).recharge

theorem Dev.issueResume_eq {v : Dev} (hc : v.pwr.chrysalis = true) (hx : v.pwr.exiting = true) (ht : v.pwr.tripped = false)
    (hn : v.pwr.tripSamples < 2) : v.issueResume =
      ((v.resuming.sendState.updateReq.grantPass).forAll (List.range 48) Dev.dmaWakeAll).releaseHeld := by
  unfold Dev.issueResume
  rw [if_pos (by simp [hc, hx, ht]), if_neg (by omega)]
  rfl

/-- Issue resumed with no trip found: CHRYSALIS has ended and the Squall request is withdrawn (R525, R534). -/
theorem Dev.resuming_pwr (v : Dev) : ∃ b, v.resuming.pwr =
      { v.pwr with chrysalis := false, exiting := false, squall := false, squallReq := 0, warnHeld := false, charging := b } := by
  unfold Dev.resuming
  dsimp only
  generalize hu : Dev.retrainAll _ false = u
  have hpwr : u.pwr = { v.pwr with chrysalis := false, exiting := false, squall := false, squallReq := 0, warnHeld := false } := by
    rw [← hu, (Dev.retrainAll_within _ _).pwr_eq (by decide), Dev.modPwr_pwr]
  obtain ⟨b, hb⟩ := (Dev.powerEdge v u).recharge_pwr
  refine ⟨b, ?_⟩
  rw [hb, (Dev.powerEdge_within _ _).pwr_eq (by decide), hpwr]

theorem Dev.issueResume_ends {v : Dev} (hc : v.pwr.chrysalis = true) (hx : v.pwr.exiting = true) (ht : v.pwr.tripped = false)
    (hn : v.pwr.tripSamples < 2) : ∃ b, v.issueResume.pwr =
      { v.pwr with chrysalis := false, exiting := false, squall := false, squallReq := 0, warnHeld := false, charging := b } := by
  obtain ⟨b, hb⟩ := v.resuming_pwr
  exact ⟨b, by rw [Dev.issueResume_eq hc hx ht hn, Dev.resumed_pwr, hb]⟩

theorem Dev.issueResume_trips {v : Dev} (hc : v.pwr.chrysalis = true) (hx : v.pwr.exiting = true) (ht : v.pwr.tripped = false)
    (hn : 2 ≤ v.pwr.tripSamples) : v.issueResume.pwr.tripped = true := by
  unfold Dev.issueResume
  rw [if_pos (by simp [hc, hx, ht]), if_pos hn, Dev.trip_pwr]

/-- No trip, no entry in Forzoevo's log of one. -/
theorem logTrip_of_not_tripped (old : Dev) (m : Mgmt) {v : Dev} (h : v.pwr.tripped = false) : logTrip old m v = (m, v) :=
  if_neg (by simp [h])

/-! ### POWER_DIP (R528) -/

theorem Dev.powerDip_pwr (v : Dev) (vin : Nat) : (v.powerDip vin).pwr = { v.pwr with vin := vin % 65536 } := by
  unfold Dev.powerDip
  split
  · exact (Dev.evMgmt_within _ _ _ _).pwr_eq (by decide)
  · rfl

/-! ### RIDE_THROUGH_LOST (R536) -/


/-- An entry just written ends the log, which holds at most 4,096 entries (R626). -/
theorem Mgmt.logAdd_ends (m : Mgmt) (ms code a0 a1 : Nat) :
    ∃ l e, (m.logAdd ms code a0 a1).log = l ++ [e] ∧ l.length < 4096 ∧ e.code = code ∧ e.a0 = a0 := by
  simp only [Mgmt.logAdd]
  rw [List.drop_append_of_le_length (by simp only [List.length_append, List.length_singleton]; omega)]
  exact ⟨_, _, rfl, by simp only [List.length_drop, List.length_append, List.length_singleton]; omega, rfl, rfl⟩

/-- One more entry leaves the last one in the log. -/
theorem Mgmt.logAdd_keeps_last {m : Mgmt} {l : List LogEnt} {e : LogEnt} (h : m.log = l ++ [e]) (hl : l.length < 4096) (ms code a0 a1 : Nat) :
    e ∈ (m.logAdd ms code a0 a1).log := by
  simp only [Mgmt.logAdd, h]
  rw [List.append_assoc]
  by_cases hfull : l.length + 2 ≤ 4096
  · rw [show (l ++ ([e] ++ _)).length - 4096 = 0 by simp; omega]
    simp
  · rw [List.drop_append_of_le_length (by simp only [List.length_append, List.length_singleton]; omega)]
    exact List.mem_append_right _ (by simp)

theorem activateTrain_keeps_last {mv : Mgmt × Dev} {l : List LogEnt} {e : LogEnt} (h : mv.1.log = l ++ [e]) (hl : l.length < 4096) :
    e ∈ (activateTrain mv).1.log := by
  unfold activateTrain
  split
  · exact Mgmt.logAdd_keeps_last (m := { mv.1 with activeTrain := 1 - mv.1.activeTrain, pendTrain := false }) h hl _ _ _ _
  · simp [h]

/-- A bank that runs out on the bus: the loss is logged with its duration, the module is dark, and without AUX Forzoevo is too. -/
theorem rideThroughLost_effect {v : Dev} (he : v.pwr.energy = 0) (hb : v.pwr.onBank = true) (hp : v.pwr.chrysalis = true ∨ v.pwr.tripped = true)
    (dur : Nat) (m : Mgmt) : (rideThroughLost dur m v).2.Dark ∧ (∃ e ∈ (rideThroughLost dur m v).1.log, e.code = 1 ∧ e.a0 = dur) ∧
      (m.aux = false → (rideThroughLost dur m v).1.running = false) := by
  obtain ⟨l, e, hlog, hlen, hcode, hdur⟩ := m.logAdd_ends v.draw.1.toNat 1 dur 0
  have haux : (m.logAdd v.draw.1.toNat 1 dur 0).aux = m.aux := by rw [Mgmt.logAdd]
  have hlost : rideThroughLost dur m v = if (m.logAdd v.draw.1.toNat 1 dur 0).aux then
      moduleReset (m.logAdd v.draw.1.toNat 1 dur 0) v.draw.2 else coldReset (m.logAdd v.draw.1.toNat 1 dur 0) v.draw.2 := by
    unfold rideThroughLost
    rw [if_pos (by rw [he, hb]; obtain h | h := hp <;> simp [h])]
    rfl
  generalize m.logAdd v.draw.1.toNat 1 dur 0 = n at hlog haux hlost
  rw [hlost, haux]
  cases m.aux with
  | true =>
    exact ⟨moduleReset_dark n v.draw.2, ⟨e, activateTrain_keeps_last (mv := (_, _)) hlog hlen, hcode, hdur⟩, fun h => absurd h (by decide)⟩
  | false =>
    exact ⟨v.draw.2.railsOff_dark, ⟨e, by simp [coldReset, hlog], hcode, hdur⟩, fun _ => rfl⟩

/-! ### O50 -/

theorem gust_clause {s : State} (hc : s.dev.clocksRun = true) (d : DieId) :
    ∃ w : Dev, exec (.gust d) s = .next (s.ends w) ∧ tget 0 w.pwr.countGust d = satAdd (tget 0 s.dev.pwr.countGust d) 1 max32 := by
  refine ⟨s.dev.gust d.val, rfl, ?_⟩
  unfold Dev.gust
  rw [if_pos hc, Dev.modPwr_pwr, tget_tmod_same]

theorem pwrwarnDeassert_clause {s : State} (hc : s.dev.clocksRun = true) (d : DieId) :
    ∃ w : Dev, exec (.pwrwarnDeassert d) s = .next (s.ends w) ∧ tget false w.pwr.warn d = false := by
  refine ⟨s.dev.pwrwarnOff d.val, rfl, ?_⟩
  unfold Dev.pwrwarnOff
  rw [if_pos hc, Dev.modPwr_pwr, tget_tset_same]

theorem pwrwarn_clause {s : State} (hc : s.dev.clocksRun = true) (hm : s.mgmt.resetHold = false) (d : DieId) :
    s.Gives (.pwrwarn d) (fun t => t.mgmt = s.mgmt ∧ tget false t.dev.pwr.warn d = true) :=
  exec_onBoth_gives (fun m v => (m, pwrwarn d.val m v)) rfl rfl
    ⟨rfl, by rw [(Dev.merged_within _ _).pwr_eq (by decide)]; exact pwrwarn_warns hc hm d⟩

theorem chrysalisEntry_enters_clause {s : State} {vin : Nat} (hv : lostInput vin = true) (hr : s.dev.pwr.rails = true)
    (hs : s.dev.pwr.starting = false) (ht : s.dev.pwr.tripped = false) (hx : s.dev.pwr.exiting = false) (hc : s.dev.pwr.chrysalis = false) :
    ∃ w : Dev, exec (.chrysalisEntry vin) s = .next (s.ends w) ∧ w.pwr.chrysalis = true ∧ w.pwr.onBank = true ∧ w.pwr.charging = false ∧
      (∀ id, (w.ctr id).transit = 0) ∧ (∀ k : StackId, (w.stk k).selfRefresh = true) ∧
      (s.dev.ft.locked = true → s.dev.ft.frozen = false → w.ft.frozen = true ∧ w.ft.now = s.dev.ft.now ∧
        (s.dev.ft.tf = none → w.ft.tf = some s.dev.ft.now) ∧
        (s.dev.ft.masterActive = false → ∀ t, s.dev.ft.tf = some t → w.ft.tf = some t)) := by
  refine ⟨s.dev.chrysalisEntry vin, rfl, ?_⟩
  rw [Dev.chrysalisEntry_enters hv hr hs ht hx hc]
  generalize hu : s.dev.setVin vin = u
  have hft : u.ft = s.dev.ft := hu ▸ (Dev.setVin_within _ _).ft_eq (by decide)
  have hpwr : u.enterChrysalis.pwr = u.chrysalisFrozen.pwr := u.enterChrysalis_within'.pwr_eq (by decide)
  rw [hpwr, u.chrysalisFrozen_pwr]
  refine ⟨rfl, rfl, rfl, fun id => ?_, fun k => u.enterChrysalis_stk k.isLt, fun hl hf => ?_⟩
  · rw [u.enterChrysalis_within'.ctr_eq (by decide)]
    exact u.chrysalisFrozen_transit id
  · rw [← hft] at hl hf ⊢
    exact Dev.enterChrysalis_ft hl hf

theorem chrysalisEntry_stops_exit_clause {s : State} {vin : Nat} (hv : lostInput vin = true) (hr : s.dev.pwr.rails = true)
    (hs : s.dev.pwr.starting = false) (ht : s.dev.pwr.tripped = false) (hx : s.dev.pwr.exiting = true) :
    ∃ w : Dev, exec (.chrysalisEntry vin) s = .next (s.ends w) ∧ w.pwr.exiting = false ∧ w.pwr.onBank = true ∧
      ∀ k : StackId, (w.stk k).selfRefresh = true := by
  refine ⟨s.dev.chrysalisEntry vin, rfl, ?_⟩
  rw [Dev.chrysalisEntry_stops_exit hv hr hs ht hx]
  refine ⟨?_, ?_, fun k => Dev.selfRefresh_stk _ true k.isLt⟩
  · rw [(Dev.selfRefresh_within _ _).pwr_eq (by decide), Dev.modPwr_pwr]
  · rw [(Dev.selfRefresh_within _ _).pwr_eq (by decide), Dev.modPwr_pwr]

theorem inputTakesLoad_clause {s : State} (hc : s.dev.pwr.chrysalis = true) (vin : Nat) :
    ∃ w : Dev, exec (.inputTakesLoad vin) s = .next (s.ends w) ∧ w.pwr.onBank = !goodInput vin := by
  refine ⟨s.dev.inputLoad vin, rfl, ?_⟩
  unfold Dev.inputLoad
  dsimp only
  rw [if_pos (by simp [Dev.setVin, hc]), Dev.modPwr_pwr]

theorem issueResume_ends_clause {s : State} (hc : s.dev.pwr.chrysalis = true) (hx : s.dev.pwr.exiting = true) (ht : s.dev.pwr.tripped = false)
    (hn : s.dev.pwr.tripSamples < 2) : ∃ w : Dev, exec .issueResume s = .next (s.ends w) ∧ w.pwr.chrysalis = false ∧ w.pwr.exiting = false ∧
      w.pwr.squall = false ∧ w.pwr.squallReq = 0 ∧ w.pwr.tripped = false := by
  obtain ⟨b, hb⟩ := Dev.issueResume_ends hc hx ht hn
  have hno : s.dev.issueResume.pwr.tripped = false := by rw [hb]; exact ht
  have hlog : logTrip s.dev s.mgmt s.dev.issueResume = (s.mgmt, s.dev.issueResume) := logTrip_of_not_tripped _ _ hno
  refine ⟨s.dev.issueResume, ?_, ?_⟩
  · show s.onBoth (fun m v => logTrip v m v.issueResume) = _
    rw [State.onBoth, hlog]
    rfl
  · rw [hb]
    exact ⟨rfl, rfl, rfl, rfl, ht⟩

theorem issueResume_trips_clause {s : State} (hc : s.dev.pwr.chrysalis = true) (hx : s.dev.pwr.exiting = true) (ht : s.dev.pwr.tripped = false)
    (hn : 2 ≤ s.dev.pwr.tripSamples) : s.Gives .issueResume (fun t => t.dev.pwr.tripped = true) :=
  exec_onBoth_gives (fun m v => logTrip v m v.issueResume) rfl Prod.mk.eta.symm (by
    rw [(Dev.merged_within _ _).pwr_eq (by decide), (logTrip_within _ _ _).pwr_eq (by decide)]
    exact Dev.issueResume_trips hc hx ht hn)

theorem rideThroughLost_clause {s : State} (he : s.dev.pwr.energy = 0) (hb : s.dev.pwr.onBank = true)
    (hp : s.dev.pwr.chrysalis = true ∨ s.dev.pwr.tripped = true) (dur : Nat) : s.Gives (.rideThroughLost dur) (fun t =>
      t.dev.pwr.rails = false ∧ (∀ a, mget t.dev.hbm.mem a = 0#8) ∧ (∃ e ∈ t.mgmt.log, e.code = 1 ∧ e.a0 = dur) ∧
      (s.mgmt.aux = false → t.mgmt.running = false)) := by
  obtain ⟨hdark, hlog, haux⟩ := rideThroughLost_effect he hb hp dur s.mgmt
  obtain ⟨hrails, hmem, -⟩ := hdark.merged s.dev
  exact exec_onBoth_gives (rideThroughLost dur) rfl Prod.mk.eta.symm ⟨hrails, hmem, hlog, haux⟩

theorem thermalCut125c_clause {s : State} (h : s.dev.pwr.rails = true) : s.Gives .thermalCut125c (fun t =>
    t.dev.pwr.rails = false ∧ t.mgmt.bootStep = 0 ∧ ∀ a, mget t.dev.hbm.mem a = 0#8) := by
  obtain ⟨hrails, hmem, -⟩ := s.dev.railsOff_dark.merged s.dev
  exact exec_onBoth_gives thermalCut (exec_thermalCut125c s) (if_pos h) ⟨hrails, rfl, hmem⟩

/-- Settles O50: each command of the power states by what it leaves of the power registers, the stacks and the count. -/
theorem powerStatesComplete : Obligations.PowerStatesComplete := by
  unfold Obligations.PowerStatesComplete
  intro s
  refine ⟨fun d => ⟨fun hc => ⟨gust_clause hc d, pwrwarnDeassert_clause hc d, fun hm => pwrwarn_clause hc hm d⟩, fun hc => ?_⟩,
    fun hw hc hs => ⟨_, rfl, Dev.warnHeldFor_squalls hw hc hs⟩,
    fun vin h hv => ⟨s.dev.squallAt vin, rfl, ?_⟩,
    fun hs hc => ⟨fun h => ⟨_, rfl, Dev.squallExit_ends hs hc h⟩, fun h => ?_⟩,
    fun vin hv hr hs ht => ⟨fun hx hc => chrysalisEntry_enters_clause hv hr hs ht hx hc,
      fun hx => chrysalisEntry_stops_exit_clause hv hr hs ht hx⟩,
    fun vin => ⟨⟨_, rfl, s.dev.powerDip_pwr vin⟩, fun hc => inputTakesLoad_clause hc vin,
      fun hc hx ht hv => ⟨_, rfl, Dev.chrysalisExit_begins hc hx ht hv⟩⟩,
    fun hc hx ht => ⟨issueResume_ends_clause hc hx ht, issueResume_trips_clause hc hx ht⟩,
    fun dur he hb hp => rideThroughLost_clause he hb hp dur, thermalCut125c_clause⟩
  · have hstill : s.dev.gust d.val = s.dev := if_neg (by simp [show s.dev.clocksRun = false from hc])
    show Host.Outcome.next (s.ends (s.dev.gust d.val)) = _
    rw [hstill, State.ends_self]
  · rw [Dev.squallAt_pwr h hv]
    exact ⟨rfl, rfl, rfl, rfl, rfl⟩
  · have hstays : s.dev.squallExit = s.dev := if_neg (by
      simp [show (s.dev.pwr.warnHeld && s.dev.pwr.warned) = true from h])
    show Host.Outcome.next (s.ends s.dev.squallExit) = _
    rw [hstays, State.ends_self]

end Sys2Proof.Machine


/-! Moult and restore (16): the parts of the Moult registers that the release of held writes leaves, what the start and the ends of a Moult change
of them, and from these O53. -/

namespace Sys2Proof.Machine

/-! ### The Moult registers without the writes held -/

/-- The Moult registers but for the writes held and the pages asked for. -/
def Moult.bare (m : Moult) : Moult := { m with held := [], urgent := [] }

theorem Dev.Within.bare_eq {F : List Part} {v w : Dev} (h : Dev.Within F v w) (hp : Part.moult ∉ F) : w.moult.bare = v.moult.bare := h.moult_eq hp

/-- Registers that agree but for the writes held. -/
theorem Moult.eq_of_bare {m n : Moult} (h : m.bare = n.bare) : ∃ hs ps, m = { n with held := hs, urgent := ps } := by
  refine ⟨m.held, m.urgent, ?_⟩
  cases m
  cases n
  simp only [Moult.bare, Moult.mk.injEq] at h ⊢
  simp_all

theorem Dev.Within.moult_whole {F : List Part} {v w : Dev} (h : Dev.Within F v w) (hm : Part.moult ∉ F) (hh : Part.heldWrites ∉ F) :
    w.moult = v.moult := by
  have hheld : (w.moult.held, w.moult.urgent) = (v.moult.held, v.moult.urgent) := h.1 .heldWrites hh
  have hbare := h.moult_eq hm
  generalize w.moult = m at hheld hbare
  generalize v.moult = n at hheld hbare
  cases m
  cases n
  simp only [Moult.mk.injEq, Prod.mk.injEq] at hheld hbare ⊢
  simp_all

theorem Dev.Within.hostErr_eq {F : List Part} {v w : Dev} (h : Dev.Within F v w) (hp : Part.hostErr ∉ F) : w.hostErr = v.hostErr := h.1 .hostErr hp

theorem Dev.hostBad_of_none {v : Dev} (h : v.hostErr = []) (a n : Nat) : v.hostBad a n = false := by rw [Dev.hostBad, h, List.any_nil]

/-! ### The end of a Moult (R577 to R580) -/

/-- What the end of a Moult, however it ends, leaves of its registers: the tracked pages, the count of failures, G, the digests, and the PGEN of
every page that had been copied. -/
structure Moult.EndKeeps (m n : Moult) : Prop where
  tBusy : n.tBusy = m.tBusy
  tracked : n.tracked = m.tracked
  pageErr : n.pageErr = m.pageErr
  failed : n.failed = m.failed
  g : n.g = m.g
  digests : n.digests = m.digests
  pgen : ∀ p, tget 0 m.pgen p = m.g → tget 0 n.pgen p = m.g

theorem Moult.EndKeeps.refl (m : Moult) : m.EndKeeps m := ⟨rfl, rfl, rfl, rfl, rfl, rfl, fun _ h => h⟩

theorem Dev.endMoult_bare (v : Dev) (status : Nat) :
    (v.endMoult status).moult.bare = { v.moult.bare with active := false, order := none, point := none } := by
  have hrelease : ((v.modMoult (fun q => { q with active := false, order := none, point := none, urgent := [] })).releaseWrites).moult.bare =
      { v.moult.bare with active := false, order := none, point := none } := (Dev.releaseWrites_within _).bare_eq (by decide)
  unfold Dev.endMoult
  dsimp only
  split
  · exact hrelease
  · split
    · rw [(Dev.accept_within _ _ _).bare_eq (by decide), (Dev.complete_within _ _ _ _ _ _ _).bare_eq (by decide)]
      exact hrelease
    · rw [(Dev.complete_within _ _ _ _ _ _ _).bare_eq (by decide)]
      exact hrelease

theorem tget_foldl_tset_of_not_mem {α : Type} [DecidableEq α] (d x : α) : ∀ (l : List Nat) (t : Tab α) {k : Nat}, k ∉ l →
    tget d (l.foldl (fun t p => tset d t p x) t) k = tget d t k
  | [], _, _, _ => rfl
  | p :: r, t, k, h => by
    rw [List.foldl_cons, tget_foldl_tset_of_not_mem d x r _ (fun hr => h (List.mem_cons_of_mem p hr)),
      tget_tset_ne _ _ _ (fun hk => h (List.mem_cons.mpr (.inl hk)))]

/-- An end without a header ages the pages not copied, and them alone (R580). -/
theorem Dev.ageUncopied_pgen {v : Dev} {p : Nat} (h : tget 0 v.moult.pgen p = v.moult.g) : tget 0 v.ageUncopied.moult.pgen p = v.moult.g := by
  rw [Dev.ageUncopied, Dev.modMoult_moult]
  dsimp only
  rw [tget_foldl_tset_of_not_mem]
  · exact h
  · simp [h]

theorem Dev.endMoult_keeps (v : Dev) (status : Nat) : v.moult.EndKeeps (v.endMoult status).moult := by
  have h : ∀ {β : Type} (f : Moult → β), f (v.endMoult status).moult.bare = _ := fun f => congrArg f (v.endMoult_bare status)
  exact ⟨h Moult.tBusy, h Moult.tracked, h Moult.pageErr, h Moult.failed, h Moult.g, h Moult.digests,
    fun p hp => (h (fun m => tget 0 m.pgen p)).trans hp⟩

theorem Dev.cutMoult_keeps (v : Dev) (status : Nat) : v.moult.EndKeeps (v.cutMoult status).moult := by
  have h := v.endMoult_keeps status
  unfold Dev.cutMoult
  split
  · obtain ⟨hbusy, htracked, herr, hfailed, hg, hdigests, hpgen⟩ := h
    exact ⟨hbusy, htracked, herr, hfailed, hg, hdigests, fun p hp =>
      (Dev.ageUncopied_pgen (v := v.endMoult status) ((hpgen p hp).trans hg.symm)).trans hg⟩
  · exact h

/-- A Moult cut off is neither active nor in progress. -/
theorem Dev.cutMoult_ended (v : Dev) (status : Nat) : (v.cutMoult status).moult.active = false ∧ (v.cutMoult status).moult.order = none := by
  have h := v.endMoult_bare status
  have hactive : (v.endMoult status).moult.active = false := congrArg Moult.active h
  have horder : (v.endMoult status).moult.order = none := congrArg Moult.order h
  unfold Dev.cutMoult
  split
  · exact ⟨hactive, horder⟩
  · exact ⟨hactive, horder⟩

theorem Dev.imageWrite_moult (v : Dev) (a : Nat) (bs : List Byte) : (v.imageWrite a bs).2.moult = v.moult :=
  (v.imageWrite_within a bs).moult_whole (by decide) (by decide)

theorem Dev.closeMoult_keeps (v : Dev) : v.moult.EndKeeps v.closeMoult.moult := by
  have himage := v.imageWrite_moult 0 v.moult.header
  unfold Dev.closeMoult
  split
  · exact .refl _
  · split
    · next u hu =>
      rw [hu] at himage
      exact himage ▸ u.cutMoult_keeps 6
    · next u hu =>
      rw [hu] at himage
      exact himage ▸ u.endMoult_keeps _

/-! ### The start of a Moult (R572) -/

theorem mem_pagesOf {rs : List (Nat × Nat)} {p : Nat} (h : rs.any (fun r => decide (r.1 ≤ p) && decide (p < r.2)) = true) : p ∈ pagesOf rs := by
  simp only [List.any_eq_true, Bool.and_eq_true, decide_eq_true_eq] at h
  obtain ⟨r, hr, hlo, hhi⟩ := h
  refine List.mem_flatten.mpr ⟨_, List.mem_map.mpr ⟨r, hr, rfl⟩, List.mem_map.mpr ⟨p - r.1, List.mem_range.mpr ?_, ?_⟩⟩
  · omega
  · omega

/-- While a tracked page is stale a Moult does not close. -/
theorem Dev.closeMoult_of_stale {v : Dev} {p : Nat} (h : v.moult.stale p = true) : v.closeMoult = v := by
  have htracked : v.moult.isTracked p = true := by
    simp only [Moult.stale, Bool.and_eq_true] at h
    exact h.1.2
  have hmem : p ∈ v.moult.stalePages := List.mem_filter.mpr ⟨mem_pagesOf htracked, h⟩
  refine if_pos ?_
  have hne : v.moult.stalePages.isEmpty = false := by
    rw [List.isEmpty_eq_false_iff]
    exact List.ne_nil_of_mem hmem
  rw [hne]
  simp

/-- The Moult registers at a Moult point: ACTIVE, G one higher, the tick and the chip number, no page copied yet. -/
def Dev.begunMoult (v : Dev) : Moult :=
  { v.moult with active := true, g := (v.moult.g + 1) % 65536, point := none, tick := v.ft.now, chip := v.chip, digests := [], failed := 0,
                 urgent := [], rFailed := [] }

/-- The device at a Moult point: its registers as begun, and its order accepted. -/
def Dev.pointTaken (v : Dev) : Dev :=
  match v.moult.order with
  | none => v.modMoult (fun _ => v.begunMoult)
  | some o => (v.modMoult (fun _ => v.begunMoult)).accept v.moult.die o.ring

theorem Dev.moultStart_eq (v : Dev) : v.moultStart =
    if fld v.moult.image 61 48 ≠ 0 || v.pointTaken.hostBad (offOf v.moult.image + 0x1000) bitmapLen then v.pointTaken.cutMoult 6
    else (v.pointTaken.hostClear (offOf v.moult.image + 0x1000) bitmapLen).closeMoult := rfl

theorem Dev.pointTaken_moult (v : Dev) : v.pointTaken.moult = v.begunMoult := by
  unfold Dev.pointTaken
  split <;> rfl

theorem Dev.pointTaken_hostErr (v : Dev) : v.pointTaken.hostErr = v.hostErr := by
  unfold Dev.pointTaken
  split <;> rfl

/-- A Moult whose image the host takes, with a tracked page stale at the new G, starts and goes on. -/
theorem Dev.moultStart_begins {v : Dev} {p : Nat} (hi : fld v.moult.image 61 48 = 0) (he : v.hostErr = []) (ht : v.moult.isTracked p = true)
    (hp : tget 0 v.moult.pgen p ≠ (v.moult.g + 1) % 65536) : v.moultStart.moult = v.begunMoult := by
  have hstale : v.begunMoult.stale p = true := by
    have htracked : v.begunMoult.isTracked p = true := ht
    have hold : tget 0 v.begunMoult.pgen p ≠ v.begunMoult.g := hp
    simp [Moult.stale, htracked, hold, show v.begunMoult.active = true from rfl]
  have hgood : v.pointTaken.hostBad (offOf v.moult.image + 0x1000) bitmapLen = false :=
    Dev.hostBad_of_none (v.pointTaken_hostErr.trans he) _ _
  rw [v.moultStart_eq, if_neg (by simp [hi, hgood])]
  have hcleared : (v.pointTaken.hostClear (offOf v.moult.image + 0x1000) bitmapLen).moult = v.begunMoult := v.pointTaken_moult
  rw [Dev.closeMoult_of_stale (p := p) (by rw [hcleared]; exact hstale), hcleared]

/-! ### The copiers (R574, R579) -/

/-- A page staged takes G; the rest of the Moult registers stands but for what is held and asked for. -/
theorem Dev.staged_moult (v : Dev) (p : Nat) :
    ∃ hs ps, (v.staged p).moult = { v.moult with pgen := tset 0 v.moult.pgen p v.moult.g, held := hs, urgent := ps } := by
  obtain ⟨hs, ps, h⟩ := Moult.eq_of_bare ((v.modMoult (fun m =>
    { m with pgen := tset 0 m.pgen p m.g, urgent := m.urgent.erase p })).releaseWrites_within.bare_eq (by decide))
  exact ⟨hs, ps, h⟩

theorem Dev.staged_hostErr (v : Dev) (p : Nat) : (v.staged p).hostErr = v.hostErr := (v.staged_within p).hostErr_eq (by decide)

/-- With no host error every part of the image is written. -/
theorem Dev.imageParts_written {v : Dev} (hi : fld v.moult.image 61 48 = 0) (he : v.hostErr = []) (l : List (Nat × List Byte)) :
    (v.imageParts l).1 = true := by
  induction l generalizing v with
  | nil => rfl
  | cons x r ih =>
    have hwrite : v.imageWrite x.1 x.2 = (true, v.hostWrite (offOf v.moult.image + x.1) x.2) :=
      if_neg (by simp [hi, Dev.hostBad_of_none he])
    rw [Dev.imageParts, hwrite]
    exact ih (v := v.hostWrite _ _) hi he

/-- A page copied: its digest joins the others. -/
theorem Dev.copyPage_digest {v : Dev} (hi : fld v.moult.image 61 48 = 0) (he : v.hostErr = []) (p : Nat) (bs : List Byte) :
    (v.copyPage p bs).1 = true ∧ (v.copyPage p bs).2.moult = { v.moult with digests := tset [] v.moult.digests p (sha256 bs) } := by
  unfold Dev.copyPage
  dsimp only
  generalize hl : [_, _, _] = l
  have hdone := Dev.imageParts_written hi he l
  have hmoult : (v.imageParts l).2.moult = v.moult := (v.imageParts_within l).moult_whole (by decide) (by decide)
  split
  · next u hu => simp [hu] at hdone
  · next u hu =>
    rw [hu] at hmoult
    exact ⟨rfl, by rw [Dev.modMoult_moult, show u.moult = v.moult from hmoult]⟩

/-- PAGE_STAGED of a page that meets no error: PGEN is G and the digest that of the bytes the page held. -/
theorem Dev.pageStaged_copies {v : Dev} {p : Nat} (hm : v.moult.mayStage p = true) (hi : v.issueOk = true) (hb : v.hbm.busy = false)
    (hx : v.pathAt (p * 65536) 65536 = none) (he : v.hostErr = []) (hf : fld v.moult.image 61 48 = 0) :
    tget 0 (v.pageStaged p).moult.pgen p = v.moult.g ∧ tget [] (v.pageStaged p).moult.digests p = sha256 (v.stk8 (p * 65536) 65536) := by
  obtain ⟨hs, ps, hstaged⟩ := v.staged_moult p
  have himage : (v.staged p).moult.image = v.moult.image := by rw [hstaged]
  obtain ⟨hok, hcopied⟩ := Dev.copyPage_digest (v := v.staged p) (by rw [himage]; exact hf) ((v.staged_hostErr p).trans he) p (v.stk8 (p * 65536) 65536)
  unfold Dev.pageStaged
  rw [if_neg (by simp [hm, hi, hb])]
  simp only [hx]
  split
  · next u hu => simp [hu] at hok
  · next u hu =>
    rw [hu, hstaged] at hcopied
    have hmoult : u.moult = _ := hcopied
    obtain ⟨-, -, -, -, -, hdigests, hkeeps⟩ := u.closeMoult_keeps
    rw [hmoult] at hdigests hkeeps
    refine ⟨hkeeps p (tget_tset_same _ _ _ _), ?_⟩
    rw [hdigests]
    dsimp only
    rw [tget_tset_same]

/-- PAGE_STAGED of a page that meets a path error: it counts as failed and its PGEN is G all the same (R579). -/
theorem Dev.pageStaged_fails {v : Dev} {p x : Nat} (hm : v.moult.mayStage p = true) (hi : v.issueOk = true) (hb : v.hbm.busy = false)
    (hx : v.pathAt (p * 65536) 65536 = some x) : tget 0 (v.pageStaged p).moult.pgen p = v.moult.g ∧
      (v.pageStaged p).moult.pageErr = true ∧ (v.pageStaged p).moult.failed = v.moult.failed + 1 := by
  unfold Dev.pageStaged
  rw [if_neg (by simp [hm, hi, hb])]
  simp only [hx]
  generalize hu : Dev.ev _ _ _ _ _ _ = u
  have hfailed : u.moult = { v.moult with pageErr := true, failed := v.moult.failed + 1 } := by
    have hpath : (v.pathError x (48 + p % 8)).moult = v.moult := (Dev.pathError_within _ _ _).moult_whole (by decide) (by decide)
    rw [← hu, (Dev.ev_within _ _ _ _ _ _).moult_whole (by decide) (by decide), Dev.modMoult_moult, hpath]
  obtain ⟨hs, ps, hstaged⟩ := u.staged_moult p
  obtain ⟨-, -, herr, hcount, -, -, hkeeps⟩ := (u.staged p).closeMoult_keeps
  rw [hstaged, hfailed] at herr hcount hkeeps
  exact ⟨hkeeps p (tget_tset_same _ _ _ _), herr, hcount⟩

/-! ### T_UPDATE (R571) -/

theorem Dev.tUpdate_tracks {v : Dev} (h : v.moult.tBusy = true) : v.tUpdate.moult.tBusy = false ∧ v.tUpdate.moult.tracked = v.trackRanges := by
  unfold Dev.tUpdate
  rw [if_neg (by simp [h])]
  dsimp only
  generalize hu : Dev.modMoult v _ = u
  have hbusy : u.moult.tBusy = false := by rw [← hu, Dev.modMoult_moult]
  have htracked : u.moult.tracked = v.trackRanges := by rw [← hu, Dev.modMoult_moult]
  obtain ⟨hs, ps, hrelease⟩ := Moult.eq_of_bare (u.releaseWrites_within.bare_eq (by decide))
  obtain ⟨hkbusy, hktracked, -⟩ := u.releaseWrites.closeMoult_keeps
  rw [hrelease] at hkbusy hktracked
  exact ⟨hkbusy.trans hbusy, hktracked.trans htracked⟩

/-! ### The restore (R581, R582) -/

/-- The Moult registers once a restore has completed. -/
def Moult.restored (m : Moult) : Moult := { m with restoring := false, rOrder := none, rPages := [], rWords := [] }

theorem Dev.finish_moult (v : Dev) (die : Nat) (o : OrderRef) (a b c e : Nat) : (v.finish die o a b c e).moult = v.moult :=
  (Dev.finish_within v die o a b c e).moult_whole (by decide) (by decide)

theorem Dev.endRestore_moult (v : Dev) (status : Nat) : (v.endRestore status).moult = v.moult.restored := by
  unfold Dev.endRestore
  dsimp only
  split
  · rfl
  · rw [Dev.finish_moult]
    rfl

theorem Dev.closeRestore_of_pages {v : Dev} (h : v.moult.rPages ≠ []) : v.closeRestore = v := by
  refine if_neg ?_
  simp [h]

/-- A restore that closes keeps the PGENs and the list of the pages that failed. -/
theorem Dev.closeRestore_moult (v : Dev) : v.closeRestore.moult = v.moult ∨ v.closeRestore.moult = v.moult.restored := by
  unfold Dev.closeRestore
  split
  · exact .inr (v.endRestore_moult _)
  · exact .inl rfl

theorem Dev.closeRestore_keeps (v : Dev) : v.closeRestore.moult.pgen = v.moult.pgen ∧ v.closeRestore.moult.rFailed = v.moult.rFailed := by
  obtain h | h := v.closeRestore_moult
  · rw [h]
    exact ⟨rfl, rfl⟩
  · rw [h]
    exact ⟨rfl, rfl⟩

theorem Dev.closeRestore_hbm (v : Dev) : v.closeRestore.hbm = v.hbm := v.closeRestore_within.hbm_eq (by decide)

/-- With no host error a page that failed joins the list. -/
theorem Dev.listPage_lists {v : Dev} (he : v.hostErr = []) (hl : fld (wd v.moult.rWords 3) 61 48 = 0) (p : Nat) :
    ∃ w, v.listPage p = some w ∧ w.hbm = v.hbm ∧ w.moult.rFailed = v.moult.rFailed ++ [p] := by
  unfold Dev.listPage
  dsimp only
  split
  · exact ⟨_, rfl, rfl, rfl⟩
  · rw [if_neg (by simp [hl, Dev.hostBad_of_none he])]
    exact ⟨_, rfl, rfl, rfl⟩

section
variable {v : Dev} {p : Nat} (hr : v.moult.restoring = true) (hp : p ∈ v.moult.rPages) (hi : v.issueOk = true) (hb : v.hbm.busy = false)
  (he : v.hostErr = [])
include hr hp hi hb he

/-- A page whose digest matches is put back, and its PGEN is G. -/
theorem Dev.restorePage_puts (hd : sha256 (v.hostRead (offOf (wd v.moult.rWords 2) + 0x40000000 + p * 65536) 65536) =
      v.imageDigest (offOf (wd v.moult.rWords 2)) p) (hx : v.pathAt (p * 65536) 65536 = none) :
    (v.restorePage p).hbm.mem = mwrite v.hbm.mem (p * 65536) (v.hostRead (offOf (wd v.moult.rWords 2) + 0x40000000 + p * 65536) 65536) ∧
      tget 0 (v.restorePage p).moult.pgen p = v.moult.g := by
  unfold Dev.restorePage
  dsimp only
  have hpath : (v.modMoult (fun q => { q with rPages := q.rPages.erase p })).pathAt (p * 65536) 65536 = none :=
    (Dev.pathAt_congr rfl _ _).trans hx
  rw [if_neg (by simp [hr, hp, hi, hb]), if_neg (by simp [Dev.hostBad_of_none he]), if_pos hd]
  generalize v.hostRead _ _ = bs
  simp only [hpath]
  rw [Dev.closeRestore_hbm, (Dev.closeRestore_keeps _).1]
  exact ⟨rfl, tget_tset_same _ _ _ _⟩

/-- A page whose digest does not match changes no stack byte and is listed as failed. -/
theorem Dev.restorePage_lists (hd : sha256 (v.hostRead (offOf (wd v.moult.rWords 2) + 0x40000000 + p * 65536) 65536) ≠
      v.imageDigest (offOf (wd v.moult.rWords 2)) p) (hl : fld (wd v.moult.rWords 3) 61 48 = 0) :
    (v.restorePage p).hbm = v.hbm ∧ (v.restorePage p).moult.rFailed = v.moult.rFailed ++ [p] := by
  obtain ⟨w, hw, hhbm, hlist⟩ := Dev.listPage_lists (v := v.modMoult (fun q => { q with rPages := q.rPages.erase p })) he hl p
  unfold Dev.restorePage
  dsimp only
  rw [if_neg (by simp [hr, hp, hi, hb]), if_neg (by simp [Dev.hostBad_of_none he]), if_neg hd]
  simp only [hw]
  exact ⟨w.closeRestore_hbm.trans hhbm, w.closeRestore_keeps.2.trans hlist⟩

end

/-! ### O53 -/

/-- A Moult has begun: ACTIVE, G one higher, the tick and the chip number of its point. -/
def Dev.Begun (u w : Dev) : Prop :=
  w.moult.active = true ∧ w.moult.g = (u.moult.g + 1) % 65536 ∧ w.moult.tick = u.ft.now ∧ w.moult.chip = u.chip

theorem Dev.begun_of_moult {u w : Dev} (h : w.moult = u.begunMoult) : u.Begun w := by
  unfold Dev.Begun
  rw [h]
  exact ⟨rfl, rfl, rfl, rfl⟩

section
variable {v u : Dev} {d n : Nat} {t : Taken} (h : v.takeOrder d n (fun x => x = 0x10) = some (t, u)) (ha : u.moult.active = false)
  (hr : u.moult.restoring = false) (ho : u.moult.order = none) (hb : u.moult.tBusy = false) (hi : imageBad (wd t.ws 2) = false)
include h ha hr ho hb hi

/-- A MOULT with TM 0 starts at once. -/
theorem Dev.moultOrder_starts (htm : wd t.ws 3 = 0#64) (hf : fld (wd t.ws 2) 61 48 = 0) (he : u.hostErr = []) {p : Nat}
    (hp : u.moult.isTracked p = true) (hg : tget 0 u.moult.pgen p ≠ (u.moult.g + 1) % 65536) :
    u.Begun (v.moultOrder d n) ∧ (v.moultOrder d n).moult.order = some t.o := by
  unfold Dev.moultOrder
  rw [Dev.order_of_taken h]
  dsimp only
  rw [if_neg (by simp [ha, hr, ho]), if_neg (by simp [hb]), if_neg (by simp [hi]), if_neg (by simp [htm]), if_pos (by simp [htm])]
  generalize hq : u.modMoult _ = q
  have hmoult : q.moult = { u.moult with order := some t.o, die := d, image := wd t.ws 2, point := none } := by
    rw [← hq, Dev.modMoult_moult, if_pos (by simp [htm])]
  have hbegun : q.moultStart.moult = q.begunMoult :=
    Dev.moultStart_begins (p := p) (by rw [hmoult]; exact hf) (by rw [← hq]; exact he) (by rw [hmoult]; exact hp) (by rw [hmoult]; exact hg)
  have hnow : q.ft = u.ft := by rw [← hq]; rfl
  have hchip : q.chip = u.chip := by rw [← hq]; rfl
  unfold Dev.Begun
  rw [hbegun, Dev.begunMoult, hmoult, hnow, hchip]
  exact ⟨⟨rfl, rfl, rfl, rfl⟩, rfl⟩

/-- A MOULT with a TM, time locked, waits for it. -/
theorem Dev.moultOrder_waits (htm : wd t.ws 3 ≠ 0#64) (hl : u.ft.locked = true) : (v.moultOrder d n).moult =
    { u.moult with order := some t.o, die := d, image := wd t.ws 2, point := some (wd t.ws 3).toNat } := by
  have hne : (wd t.ws 3).toNat ≠ 0 := fun hz => htm (BitVec.eq_of_toNat_eq hz)
  unfold Dev.moultOrder
  rw [Dev.order_of_taken h]
  dsimp only
  rw [if_neg (by simp [ha, hr, ho]), if_neg (by simp [hb]), if_neg (by simp [hi]), if_neg (by simp [hl]), if_neg hne, Dev.modMoult_moult, if_neg hne]

end

/-- MOULT_ABORT ends a Moult in progress, and otherwise leaves the Moult registers. -/
theorem Dev.abortMoult_effect {v u : Dev} {d n : Nat} {t : Taken} (h : v.takeOrder d n (fun x => x = 0x11) = some (t, u)) :
    (u.moult.order.isSome = true → (v.abortMoult d n).moult.active = false ∧ (v.abortMoult d n).moult.order = none) ∧
      (u.moult.order = none → (v.abortMoult d n).moult = u.moult) := by
  unfold Dev.abortMoult
  rw [Dev.order_of_taken h, Dev.finish_moult]
  refine ⟨fun ho => ?_, fun ho => ?_⟩
  · rw [if_pos ho]
    exact u.cutMoult_ended 7
  · rw [if_neg (by simp [ho])]

section
variable {v u : Dev} {d n : Nat} {t : Taken} (h : v.takeOrder d n (fun x => x = 0x12) = some (t, u))
include h

/-- RESTORE of a module that is not quiet is refused. -/
theorem Dev.restoreOrder_refused (hq : u.quiet = false) : (v.restoreOrder d n).moult = u.moult ∧ (v.restoreOrder d n).hbm = u.hbm := by
  unfold Dev.restoreOrder
  rw [Dev.order_of_taken h, if_pos (by simp [hq])]
  exact ⟨Dev.finish_moult _ _ _ _ _ _ _, (Dev.finish_within _ _ _ _ _ _ _).hbm_eq (by decide)⟩

/-- RESTORE of a quiet module starts on the pages of its image. -/
theorem Dev.restoreOrder_starts (hq : u.quiet = true) {ps : List Nat} (hc : u.imageCheck (wd t.ws 2) = .ok ps) :
    (ps ≠ [] → (v.restoreOrder d n).moult.restoring = true ∧ (v.restoreOrder d n).moult.rPages = ps ∧
      (v.restoreOrder d n).moult.rOrder = some t.o) ∧ (ps = [] → (v.restoreOrder d n).moult.restoring = false) := by
  unfold Dev.restoreOrder
  rw [Dev.order_of_taken h, if_neg (by simp [hq]), hc]
  dsimp only
  refine ⟨fun hne => ?_, fun hnil => ?_⟩
  · rw [Dev.closeRestore_of_pages (by rw [Dev.modMoult_moult]; exact hne), Dev.modMoult_moult]
    exact ⟨rfl, rfl, rfl⟩
  · unfold Dev.closeRestore
    rw [if_pos (by simp [hnil]), Dev.endRestore_moult]
    rfl

end

/-- MOULT_POINT at or after TM of a locked running unit starts the Moult that waits. -/
theorem Dev.moultPoint_begins {v : Dev} {t p : Nat} (h : v.moult.point = some t) (hl : v.ft.locked = true) (hf : v.ft.frozen = false)
    (ht : t ≤ v.ft.now) (hi : fld v.moult.image 61 48 = 0) (he : v.hostErr = []) (hp : v.moult.isTracked p = true)
    (hg : tget 0 v.moult.pgen p ≠ (v.moult.g + 1) % 65536) : v.moultPoint.moult = v.begunMoult := by
  unfold Dev.moultPoint
  simp only [h]
  rw [if_pos (by simp [hl, hf, ht])]
  exact Dev.moultStart_begins hi he hp hg

/-- Settles O53: each command of a Moult and of a restore by what it leaves of the Moult registers and of the stacks. -/
theorem moultAndRestoreComplete : Obligations.MoultAndRestoreComplete := by
  unfold Obligations.MoultAndRestoreComplete
  intro s
  refine ⟨fun d n t u => ⟨fun h ha hr ho hb hi => ⟨?_, ?_⟩, fun h => ⟨_, rfl, Dev.abortMoult_effect h⟩,
    fun h => ⟨fun hq => ⟨_, rfl, Dev.restoreOrder_refused h hq⟩, fun ps hq hc => ⟨_, rfl, Dev.restoreOrder_starts h hq hc⟩⟩⟩,
    ?_, fun p hm hi hb => ⟨fun hx he hf => ⟨_, rfl, Dev.pageStaged_copies hm hi hb hx he hf⟩,
      fun x hx => ⟨_, rfl, Dev.pageStaged_fails hm hi hb hx⟩⟩,
    fun h => ⟨_, rfl, Dev.tUpdate_tracks h⟩, fun p hr hp hi hb he => ⟨fun hd hx => ?_, fun hd hl =>
      ⟨_, rfl, Dev.restorePage_lists hr hp hi hb he hd hl⟩⟩⟩
  · rintro htm ⟨hf, he, p, hp, hg⟩
    exact ⟨_, rfl, Dev.moultOrder_starts h ha hr ho hb hi htm hf he hp hg⟩
  · intro htm hl
    refine ⟨s.dev.moultOrder d.val n.val, rfl, ?_⟩
    rw [Dev.moultOrder_waits h ha hr ho hb hi htm hl]
    exact ⟨ha, rfl, rfl, rfl⟩
  · rintro t hpoint hl hf ht ⟨hi, he, p, hp, hg⟩
    have hbegun := Dev.moultPoint_begins hpoint hl hf ht hi he hp hg
    exact ⟨s.dev.moultPoint, rfl, Dev.begun_of_moult hbegun, by rw [hbegun]; rfl⟩
  · obtain ⟨hmem, hpgen⟩ := Dev.restorePage_puts hr hp hi hb he hd hx
    refine ⟨s.dev.restorePage p, rfl, ?_, ?_, hpgen⟩
    · rw [Dev.stk8, hmem]
      have hlen : (s.dev.hostRead (offOf (wd s.dev.moult.rWords 2) + 0x40000000 + p * 65536) 65536).length = 65536 := mread_length _ _ _
      have hread := mread_mwrite s.dev.hbm.mem (p * 65536) (s.dev.hostRead (offOf (wd s.dev.moult.rWords 2) + 0x40000000 + p * 65536) 65536)
      rwa [hlen] at hread
    · intro b hb'
      rw [hmem, mget_mwrite_outside _ _ _ (by rw [Dev.hostRead, mread_length]; exact hb')]

end Sys2Proof.Machine


/-! Context switches (16): the narrow footprints of the checks of a stream's head and of what they withdraw, the bases they keep, a core's fill
from the save area, and from these O54. -/

namespace Sys2Proof.Machine

/-! ### What an entry withdrawn touches -/

/-- The parts that withdrawing the entries of a stream works on: no scratchpad, no schedule, no context switch. -/
def withdrawParts : List Part := [.streams, .dmas, .stackMem, .channels, .stackRegs, .hostMem, .heldWrites, .fabric, .hif, .out]

theorem Dev.dmaForget_fabric (v : Dev) (c n : Nat) : Dev.Within [.fabric] v (v.dmaForget c n) := by
  unfold Dev.dmaForget
  exact Dev.modFabD_within _ _ _

theorem Dev.withdrawOne_narrow (v : Dev) (k : Nat) (f : Flight) : Dev.Within withdrawParts v (v.withdrawOne k f) := by
  unfold Dev.withdrawOne
  dsimp only
  generalize hu : v.modStrm k _ = u
  have hstrm : Dev.Within withdrawParts v u := hu ▸ (Dev.modStrm_within v k _).widen rfl
  split
  · exact (Dev.modStrm_within _ _ _).step rfl ((Dev.versionAbort_within _ _ _).step rfl hstrm)
  · split
    · exact (Dev.dmaDrain_within _ _ _).step rfl ((Dev.modDmaCh_within _ _ _ _).step rfl ((Dev.dmaForget_fabric _ _ _).step rfl hstrm))
    · exact (Dev.modDmaCh_within _ _ _ _).step rfl hstrm
  · exact hstrm
  · exact hstrm
  · exact hstrm

theorem Dev.withdrawWaiting_narrow (v : Dev) (k : Nat) : Dev.Within withdrawParts v (v.withdrawWaiting k) :=
  Dev.Within.forAll (fun u f => .ite (u.withdrawOne_narrow k f) (.refl _ u)) (.refl _ v)

theorem Dev.pauseSched_narrow (v : Dev) (id : Nat) : Dev.Within withdrawParts v (v.pauseSched id) := by
  unfold Dev.pauseSched
  exact .ite (.forAll Dev.withdrawWaiting_narrow (.forAll (fun u k => (Dev.modStrm_within u k _).widen rfl) (.refl _ v))) (.refl _ v)

/-! ### What the check of a stream's head touches -/

/-- The parts that a stop of schedules works on. -/
def stopParts : List Part := .schedules :: .faults :: withdrawParts

theorem Dev.stopSched_narrow (v : Dev) (id : Nat) : Dev.Within stopParts v (v.stopSched id) := by
  unfold Dev.stopSched
  dsimp only
  exact .forAll (fun u k => (u.withdrawWaiting_narrow k).widen rfl)
    (.forAll (fun u k => (Dev.modStrm_within u k _).widen rfl) ((Dev.modSched_within v id _).widen rfl))

theorem Dev.beginCapture_narrow (v : Dev) (die cause : Nat) (at? : Option (Nat × Nat)) (detail : W64) (ids : List Nat) :
    Dev.Within stopParts v (v.beginCapture die cause at? detail ids) := by
  unfold Dev.beginCapture
  dsimp only
  exact .forAll Dev.stopSched_narrow (.forAll (fun u id => (Dev.modSched_within u id _).widen rfl)
    ((Dev.modFlt_within _ _ _).step rfl ((v.capHeader_within die cause at? detail ids).widen rfl)))

theorem Dev.dieFault_narrow (v : Dev) (die cause : Nat) (at? : Option (Nat × Nat)) (detail : W64) (ids : List Nat) :
    Dev.Within stopParts v (v.dieFault die cause at? detail ids) := by
  unfold Dev.dieFault
  dsimp only
  refine .ite ((Dev.ev_within _ _ _ _ _ _).step rfl ?_) (v.beginCapture_narrow die cause at? detail ids)
  generalize hs : Dev.forAll _ _ _ = u
  have hstop : Dev.Within stopParts v u := by
    rw [← hs]
    exact Dev.Within.forAll (f := fun u id => (u.modSched id _).stopSched id)
      (fun u id => ((Dev.modSched_within u id _).widen rfl).trans (Dev.stopSched_narrow _ id)) ((Dev.modFlt_within v die _).widen rfl)
  exact .ite hstop ((Dev.modFlt_within _ _ _).step rfl hstop)

/-- The parts that the checks of a schedule's heads work on: no scratchpad and no context switch. -/
def headParts : List Part := .contexts :: .coreRegs :: .counters :: .syncStatus :: stopParts

theorem Dev.checkHead_narrow (v : Dev) (k : Nat) : Dev.Within headParts v (v.checkHead k) := by
  have hfault (u : Dev) (cause idx : Nat) (detail : W64) : Dev.Within headParts u (u.faultStream k cause idx detail) :=
    (u.dieFault_narrow _ cause _ detail _).widen rfl
  unfold Dev.checkHead
  dsimp only
  split
  · exact .refl _ v
  · refine .ite (.ite (((v.bufParity_within k _).widen rfl).trans (hfault _ _ _ _)) ?_) (.refl _ v)
    split
    · exact hfault _ _ _ _
    · split
      · exact hfault _ _ _ _
      · exact (Dev.modStrm_within _ _ _).widen rfl

theorem Dev.firstHeads_narrow (v : Dev) (id : Nat) : Dev.Within headParts v (v.firstHeads id) := by
  unfold Dev.firstHeads
  dsimp only
  exact (Dev.finishSched_within _ _).step rfl (.forAll (fun u k => (u.reslip_within k).widen rfl)
    ((Dev.grantPass_within _).step rfl (.forAll Dev.checkHead_narrow (.refl _ v))))

theorem Dev.continueSched_narrow (v : Dev) (id : Nat) : Dev.Within headParts v (v.continueSched id) := by
  unfold Dev.continueSched
  dsimp only
  refine .ite (.trans ?_ (Dev.firstHeads_narrow _ id)) (.ite ?_ (.refl _ v))
  · exact .forAll (fun u k => (u.continueStrm_within k).widen rfl) (.refl _ v)
  · exact .forAll (fun u k => (Dev.refill_within _ k).step rfl ((Dev.modStrm_within u k _).widen rfl)) (.refl _ v)

/-! ### The bases that they keep (R99) -/

/-- The base of every schedule. -/
def Dev.bases (v : Dev) : Nat → Nat := fun id => (v.sched id).base

theorem Dev.Within.bases_eq {F : List Part} {v w : Dev} (h : Dev.Within F v w) (hp : Part.schedules ∉ F) : w.bases = v.bases :=
  funext fun id => congrArg Sched.base (h.sched_eq hp id)

theorem Dev.modSched_bases (v : Dev) (k : Nat) {g : Sched → Sched} (h : ∀ s, (g s).base = s.base) : (v.modSched k g).bases = v.bases := by
  refine funext fun id => ?_
  by_cases hid : id = k
  · rw [hid, Dev.bases, Dev.sched_modSched_same, h, Dev.bases]
  · rw [Dev.bases, Dev.sched_modSched_ne _ _ _ hid, Dev.bases]

theorem Dev.stopSched_bases (v : Dev) (id : Nat) : (v.stopSched id).bases = v.bases := by
  unfold Dev.stopSched
  dsimp only
  rw [Dev.forAll_keeps Dev.bases (fun u k => (u.withdrawWaiting_narrow k).bases_eq (by decide)),
    Dev.forAll_keeps Dev.bases (f := fun u k => u.modStrm k _) (fun u k => (Dev.modStrm_within u k _).bases_eq (by decide))]
  exact v.modSched_bases id (fun _ => rfl)

theorem Dev.beginCapture_bases (v : Dev) (die cause : Nat) (at? : Option (Nat × Nat)) (detail : W64) (ids : List Nat) :
    (v.beginCapture die cause at? detail ids).bases = v.bases := by
  unfold Dev.beginCapture
  dsimp only
  rw [Dev.forAll_keeps Dev.bases Dev.stopSched_bases]
  refine (Dev.forAll_keeps Dev.bases (f := fun u id => u.modSched id _) (fun u id => ?_) _ _).trans ?_
  · exact u.modSched_bases id (fun _ => rfl)
  · rw [(Dev.modFlt_within _ _ _).bases_eq (by decide), (Dev.capHeader_within _ _ _ _ _ _).bases_eq (by decide)]

theorem Dev.dieFault_bases (v : Dev) (die cause : Nat) (at? : Option (Nat × Nat)) (detail : W64) (ids : List Nat) :
    (v.dieFault die cause at? detail ids).bases = v.bases := by
  have hflt (u : Dev) (g : FaultRec → FaultRec) : (u.modFlt die g).bases = u.bases := (Dev.modFlt_within u die g).bases_eq (by decide)
  unfold Dev.dieFault
  dsimp only
  split
  · rw [(Dev.ev_within _ _ _ _ _ _).bases_eq (by decide)]
    generalize hs : Dev.forAll _ _ _ = u
    have hstop : u.bases = v.bases := by
      rw [← hs]
      refine (Dev.forAll_keeps Dev.bases (f := fun u id => (u.modSched id _).stopSched id) (fun u id => ?_) _ _).trans (hflt _ _)
      rw [Dev.stopSched_bases]
      exact u.modSched_bases id (fun _ => rfl)
    split
    · exact hstop
    · rw [hflt, hstop]
  · exact v.beginCapture_bases die cause at? detail ids

theorem Dev.checkHead_bases (v : Dev) (k : Nat) : (v.checkHead k).bases = v.bases := by
  have hfault (u : Dev) (cause idx : Nat) (detail : W64) : (u.faultStream k cause idx detail).bases = u.bases := u.dieFault_bases _ cause _ detail _
  unfold Dev.checkHead
  dsimp only
  split
  · rfl
  · split
    · split
      · rw [hfault, (Dev.bufParity_within _ _ _).bases_eq (by decide)]
      · split
        · exact hfault _ _ _ _
        · split
          · exact hfault _ _ _ _
          · exact (Dev.modStrm_within _ _ _).bases_eq (by decide)
    · rfl

theorem Dev.endRun_bases (v : Dev) (id status : Nat) : (v.endRun id status).bases = v.bases := by
  unfold Dev.endRun
  dsimp only
  split
  · exact v.modSched_bases id (fun _ => rfl)
  · rw [(Dev.complete_within _ _ _ _ _ _ _).bases_eq (by decide)]
    exact v.modSched_bases id (fun _ => rfl)

theorem Dev.finishSched_bases (v : Dev) (id : Nat) : (v.finishSched id).bases = v.bases := by
  unfold Dev.finishSched
  dsimp only
  split
  · rw [Dev.endRun_bases]
    exact v.modSched_bases id (fun _ => rfl)
  · rfl

theorem Dev.firstHeads_bases (v : Dev) (id : Nat) : (v.firstHeads id).bases = v.bases := by
  unfold Dev.firstHeads
  dsimp only
  rw [Dev.finishSched_bases, Dev.forAll_keeps Dev.bases (fun u k => (u.reslip_within k).bases_eq (by decide)),
    (Dev.grantPass_within _).bases_eq (by decide), Dev.forAll_keeps Dev.bases Dev.checkHead_bases]

theorem Dev.continueSched_bases (v : Dev) (id : Nat) : (v.continueSched id).bases = v.bases := by
  unfold Dev.continueSched
  dsimp only
  split
  · rw [Dev.firstHeads_bases, Dev.forAll_keeps Dev.bases (fun u k => (u.continueStrm_within k).bases_eq (by decide))]
  · split
    · exact Dev.forAll_keeps Dev.bases (f := fun u k => (u.modStrm k _).refill k)
        (fun u k => ((Dev.refill_within _ k).bases_eq (by decide)).trans ((Dev.modStrm_within u k _).bases_eq (by decide))) _ v
    · rfl

/-! ### Folds that set every entry they name -/

/-- A fold whose step sets a property of the entry named, and takes it from no other entry, leaves it set on every entry of the list. -/
theorem Dev.forAll_sets {P : Dev → Nat → Prop} {f : Dev → Nat → Dev} (sets : ∀ u x, P (f u x) x) (keeps : ∀ u x y, P u y → P (f u x) y)
    (xs : List Nat) (v : Dev) : ∀ x, x ∈ xs ∨ P v x → P (v.forAll xs f) x := by
  induction xs generalizing v with
  | nil => exact fun x h => h.resolve_left List.not_mem_nil
  | cons z r ih =>
    refine fun x h => ih (f v z) x ?_
    obtain hmem | hP := h
    · obtain rfl | hr := List.mem_cons.mp hmem
      · exact .inr (sets v x)
      · exact .inl hr
    · exact .inr (keeps v z x hP)

/-! ### SAVE (R584, R585) -/

theorem Dev.Within.ctxSwD_eq {F : List Part} {v w : Dev} (h : Dev.Within F v w) (hp : Part.contextSwitch ∉ F) (d : Nat) : w.ctxSwD d = v.ctxSwD d := by
  have hctx : w.ctxSw = v.ctxSw := h.1 .contextSwitch hp
  rw [Dev.ctxSwD, hctx, Dev.ctxSwD]

/-- A SAVE that is taken begins the drain of the schedules its context has loaded. -/
theorem Dev.saveOrder_drains {v u : Dev} {d n : Nat} {t : Taken} (h : v.takeOrder d n (fun y => y = 0x14) = some (t, u))
    (hs : u.ctxScheds d (fld (wd t.ws 1) 3 0) ≠ []) (ha : u.areaBad d (fld (wd t.ws 1) 3 0) = false) :
    (v.saveOrder d n).ctxSwD d = { u.ctxSwD d with
      busy := .draining, ctx := fld (wd t.ws 1) 3 0, order := some t.o, scheds := u.ctxScheds d (fld (wd t.ws 1) 3 0) } := by
  unfold Dev.saveOrder
  rw [Dev.order_of_taken h]
  dsimp only
  rw [if_neg (by simp [hs]), if_neg (by simp [ha])]
  rw [Dev.forAll_keeps (fun w => w.ctxSwD d) (fun w id => (w.pauseSched_narrow id).ctxSwD_eq (by decide) d), Dev.ctxSwD_modCtxSwD_same]

theorem Dev.drainExpiry_saves {v : Dev} {d : Nat} (h : (v.ctxSwD d).busy = .draining) :
    (v.drainExpiry d).ctxSwD d = { v.ctxSwD d with busy := .saving } := by
  unfold Dev.drainExpiry
  dsimp only
  rw [if_pos h, Dev.ctxSwD_modCtxSwD_same, (Dev.recordCut_within _ _ _).ctxSwD_eq (by decide), (Dev.cutShort_within _ _).ctxSwD_eq (by decide)]

/-! ### SAVE_COPY_DONE (R585, R587) -/

theorem Dev.dropLoads_fabric (v : Dev) (die : Nat) (cs : List Nat) : Dev.Within [.fabric] v (v.dropLoads die cs) := by
  unfold Dev.dropLoads
  exact Dev.modFabD_within _ _ _

/-- The device with the state of a context copied to its save area and taken from its cores. -/
def Dev.areaSaved (v : Dev) (die : Nat) : Dev :=
  let s := v.ctxSwD die
  let base := v.area die s.ctx
  let cs := v.coresOf s.scheds
  let u := (((v.forAll cs Dev.emptyCaches).forAll cs (fun u c => u.saveCore base c)).freeCells (base + 0x30000000) 0x100000)
  (((u.2.areaWrite die (base + 0x30000000) 0x100000 u.1)).forAll cs (fun u c => u.modCore c Core.vacated)).dropLoads die cs

/-- What RESTORE_CTX will put back of it. -/
def Dev.areaImage (v : Dev) (die : Nat) : SavedCtx :=
  let s := v.ctxSwD die
  let base := v.area die s.ctx
  let cs := v.coresOf s.scheds
  let u := (((v.forAll cs Dev.emptyCaches).forAll cs (fun u c => u.saveCore base c)).freeCells (base + 0x30000000) 0x100000)
  (u.2.areaWrite die (base + 0x30000000) 0x100000 u.1).imageOf die s.scheds

/-- The device once its schedules are saved and their streams unclaimed. -/
def Dev.unclaimed (v : Dev) (ids : List Nat) : Dev :=
  (v.forAll (v.strmsOf ids) (fun u k => u.modStrm k (fun q => { q with loaded := false, buf := [], flights := [] }))).forAll ids
    (fun u id => u.modSched id (fun q => { q with phase := .saved, was := q.phase }))

/-- The switch of a die once its copy to the save area is done. -/
def CtxSw.copied (q : CtxSw) (ctx : Nat) (img : SavedCtx) (cs : List Nat) : CtxSw :=
  { q with busy := .none, order := none, scheds := [], images := tset {} q.images ctx img,
           warm := cs.foldl (fun w c => warmWing w (c / 6 % 4) ctx) q.warm }

theorem Dev.saveCopied_eq (v : Dev) (die : Nat) : v.saveCopied die =
    if ((v.ctxSwD die).busy = .draining ∨ (v.ctxSwD die).busy = .saving) ∧ v.drained die (v.ctxSwD die).scheds ∧ v.issueOk then
      let u := ((v.areaSaved die).unclaimed (v.ctxSwD die).scheds).modCtxSwD die
        (fun q => q.copied (v.ctxSwD die).ctx (v.areaImage die) (v.coresOf (v.ctxSwD die).scheds))
      match (v.ctxSwD die).order with
      | none => u
      | some o => u.finish die o 0 0 (v.ctxSwD die).ctx 0
    else v := by
  unfold Dev.saveCopied Dev.areaSaved Dev.areaImage
  dsimp only
  generalize Dev.freeCells _ _ _ = r
  obtain ⟨o, u⟩ := r
  rfl

theorem Dev.areaSaved_scheds (v : Dev) (die : Nat) : (v.areaSaved die).scheds = v.scheds := by
  unfold Dev.areaSaved
  dsimp only
  rw [(Dev.dropLoads_fabric _ _ _).scheds_eq (by decide),
    Dev.forAll_keeps Dev.scheds (f := fun u c => u.modCore c Core.vacated) (fun _ _ => rfl),
    (Dev.areaWrite_within _ _ _ _ _).scheds_eq (by decide), (Dev.freeCells_within _ _ _).scheds_eq (by decide),
    Dev.forAll_keeps Dev.scheds (f := fun u c => u.saveCore _ c) (fun u c => (u.saveCore_within _ c).scheds_eq (by decide)),
    Dev.forAll_keeps Dev.scheds (fun u c => (u.emptyCaches_within c).scheds_eq (by decide))]

theorem Dev.unclaimed_saved (v : Dev) {ids : List Nat} : ∀ id ∈ ids, ((v.unclaimed ids).sched id).phase = .saved := by
  intro id hid
  refine Dev.forAll_sets (P := fun u x => (u.sched x).phase = .saved) (fun u x => ?_) (fun u x y hy => ?_) ids _ id (.inl hid)
  · rw [Dev.sched_modSched_same]
  · by_cases hxy : y = x
    · rw [hxy, Dev.sched_modSched_same]
    · rwa [Dev.sched_modSched_ne _ _ _ hxy]

theorem Dev.unclaimed_strms (v : Dev) {ids : List Nat} : ∀ k ∈ v.strmsOf ids, ((v.unclaimed ids).strm k).loaded = false := by
  intro k hk
  unfold Dev.unclaimed
  rw [Dev.forAll_keeps (fun w => w.strm k) (f := fun u id => u.modSched id _) (fun u id => (Dev.modSched_within u id _).strm_eq (by decide) k)]
  refine Dev.forAll_sets (P := fun u x => (u.strm x).loaded = false) (fun u x => ?_) (fun u x y hy => ?_) _ _ k (.inl hk)
  · rw [Dev.strm_modStrm_same]
  · by_cases hxy : y = x
    · rw [hxy, Dev.strm_modStrm_same]
    · rwa [Dev.strm_modStrm_ne _ _ _ hxy]

/-- Once drained, with issue possible, the copy leaves no switch, an image that names the schedules, the schedules saved and their streams free. -/
theorem Dev.saveCopied_effect {v : Dev} {d : Nat} (hb : (v.ctxSwD d).busy = .draining ∨ (v.ctxSwD d).busy = .saving)
    (hd : v.drained d (v.ctxSwD d).scheds = true) (hi : v.issueOk = true) : ∃ q : CtxSw, (v.saveCopied d).ctxSwD d =
        q.copied (v.ctxSwD d).ctx (v.areaImage d) (v.coresOf (v.ctxSwD d).scheds) ∧
      (∀ id ∈ (v.ctxSwD d).scheds, ((v.saveCopied d).sched id).phase = .saved) ∧
      ∀ id ∈ (v.ctxSwD d).scheds, ∀ k ∈ (v.sched id).streams, ((v.saveCopied d).strm k).loaded = false := by
  have hstrm : ∀ id ∈ (v.ctxSwD d).scheds, ∀ k ∈ (v.sched id).streams, k ∈ (v.areaSaved d).strmsOf (v.ctxSwD d).scheds := by
    intro id hid k hk
    refine List.mem_flatten.mpr ⟨_, List.mem_map.mpr ⟨id, hid, rfl⟩, ?_⟩
    rwa [Dev.sched, v.areaSaved_scheds]
  rw [v.saveCopied_eq, if_pos ⟨hb, hd, hi⟩]
  dsimp only
  generalize hu : Dev.modCtxSwD ((v.areaSaved d).unclaimed (v.ctxSwD d).scheds) d _ = u
  have hswitch : u.ctxSwD d = (((v.areaSaved d).unclaimed (v.ctxSwD d).scheds).ctxSwD d).copied (v.ctxSwD d).ctx (v.areaImage d)
      (v.coresOf (v.ctxSwD d).scheds) := by rw [← hu, Dev.ctxSwD_modCtxSwD_same]
  have hsaved : ∀ id ∈ (v.ctxSwD d).scheds, (u.sched id).phase = .saved := fun id hid => by
    rw [← hu, (Dev.modCtxSwD_within _ _ _).sched_eq (by decide)]
    exact (v.areaSaved d).unclaimed_saved id hid
  have hfree : ∀ id ∈ (v.ctxSwD d).scheds, ∀ k ∈ (v.sched id).streams, (u.strm k).loaded = false := fun id hid k hk => by
    rw [← hu, (Dev.modCtxSwD_within _ _ _).strm_eq (by decide)]
    exact (v.areaSaved d).unclaimed_strms k (hstrm id hid k hk)
  split
  · exact ⟨_, hswitch, hsaved, hfree⟩
  · next o ho =>
    have hfinish := u.finish_within d o 0 0 (v.ctxSwD d).ctx 0
    refine ⟨_, (hfinish.ctxSwD_eq (by decide) d).trans hswitch, fun id hid => ?_, fun id hid k hk => ?_⟩
    · rw [hfinish.sched_eq (by decide)]
      exact hsaved id hid
    · rw [hfinish.strm_eq (by decide)]
      exact hfree id hid k hk

/-! ### RESTORE_CTX (R586, R587) -/

/-- The phase and the base of a schedule. -/
def Dev.phaseBase (v : Dev) (id : Nat) : SchedPhase × Nat := ((v.sched id).phase, (v.sched id).base)

theorem Dev.modSched_phaseBase (v : Dev) (k id : Nat) {g : Sched → Sched} (h : ∀ s, (g s).phase = s.phase ∧ (g s).base = s.base) :
    (v.modSched k g).phaseBase id = v.phaseBase id := by
  obtain ⟨hphase, hbase⟩ := h (v.sched k)
  by_cases hid : id = k
  · rw [hid, Dev.phaseBase, Dev.sched_modSched_same, hphase, hbase, Dev.phaseBase]
  · rw [Dev.phaseBase, Dev.sched_modSched_ne _ _ _ hid, Dev.phaseBase]

/-- A release moves the release horizon of the schedules, not their phases or bases. -/
theorem Dev.release_phaseBase (v : Dev) (id : Nat) : v.release.phaseBase id = v.phaseBase id := by
  unfold Dev.release
  split
  · rfl
  · refine Dev.forAll_keeps (fun u => u.phaseBase id) (f := fun (u : Dev) (e : Nat × Sched) => u.modSched e.1 _) (fun u e => ?_) _ v
    exact u.modSched_phaseBase e.1 id (fun _ => ⟨rfl, rfl⟩)

/-- The device as a RESTORE_CTX leaves it, once every check has passed and before the order is accepted. -/
def Dev.ctxClaimed (u : Dev) (die x base : Nat) (o : OrderRef) : Dev :=
  let img : SavedCtx := tget {} (u.ctxSwD die).images x
  let v1 := u.forAll img.scheds (fun w id => w.coolFor x (w.sched id).coreMask)
  let v2 := v1.forAll (img.strms.filter (fun e => (v1.strmsOf img.scheds).contains e.1))
    (fun w e => w.modStrm e.1 (fun _ => { e.2 with stopped := true, checked := false }))
  let v3 := v2.forAll img.scheds (fun w id => w.modSched id (Sched.comeBack base))
  (v3.modCtxSwD die (fun s => { s with busy := .restoring, ctx := x, order := some o, scheds := img.scheds })).release.settleTime

section
variable (u : Dev) (die x base : Nat) (o : OrderRef)

theorem Dev.ctxClaimed_switch : ((u.ctxClaimed die x base o).ctxSwD die).busy = .restoring ∧ ((u.ctxClaimed die x base o).ctxSwD die).ctx = x ∧
    ((u.ctxClaimed die x base o).ctxSwD die).scheds = (tget ({} : SavedCtx) (u.ctxSwD die).images x).scheds := by
  unfold Dev.ctxClaimed
  dsimp only
  rw [(Dev.settleTime_within _).ctxSwD_eq (by decide), (Dev.release_within _).ctxSwD_eq (by decide), Dev.ctxSwD_modCtxSwD_same]
  exact ⟨rfl, rfl, rfl⟩

/-- Each schedule saved takes up its phase, and what ran its new base. -/
theorem Dev.ctxClaimed_phaseBase (hn : (tget ({} : SavedCtx) (u.ctxSwD die).images x).scheds.Nodup) {id : Nat}
    (hid : id ∈ (tget ({} : SavedCtx) (u.ctxSwD die).images x).scheds) :
    (u.ctxClaimed die x base o).phaseBase id = (((u.sched id).comeBack base).phase, ((u.sched id).comeBack base).base) := by
  unfold Dev.ctxClaimed
  dsimp only
  generalize hv : Dev.forAll (Dev.forAll u _ _) (List.filter _ _) _ = v
  have hsched : v.sched id = u.sched id := by
    rw [← hv, Dev.forAll_keeps (fun w => w.sched id)
      (f := fun (w : Dev) (e : Nat × Strm) => w.modStrm e.1 (fun _ => { e.2 with stopped := true, checked := false }))
        (fun w e => (Dev.modStrm_within w e.1 _).sched_eq (by decide) id),
      Dev.forAll_keeps (fun w => w.sched id) (fun w i => (w.coolFor_within _ _).sched_eq (by decide) id)]
  have hcome := (Dev.forAll_once Dev.sched (f := fun w i => w.modSched i (Sched.comeBack base)) (g := fun _ s => s.comeBack base)
    (fun w i => Dev.sched_modSched_same w i _) (fun w i y hy => Dev.sched_modSched_ne w i _ hy) hn v).1 id hid
  have hsettle (w : Dev) : w.settleTime.phaseBase id = w.phaseBase id := by
    rw [Dev.phaseBase, (Dev.settleTime_within _).sched_eq (by decide), Dev.phaseBase]
  rw [hsettle, Dev.release_phaseBase, Dev.phaseBase, (Dev.modCtxSwD_within _ _ _).sched_eq (by decide), hcome, hsched]

end

/-- A RESTORE_CTX that passes every check claims its units and begins the copy. -/
theorem Dev.restoreCtxOrder_claims {v u : Dev} {d n : Nat} {t : Taken} (hb : v.hbm.busy = false)
    (h : v.takeOrder d n (fun y => y = 0x15) = some (t, u)) (hs : (tget ({} : SavedCtx) (u.ctxSwD d).images (fld (wd t.ws 1) 3 0)).scheds ≠ [])
    (ha : u.areaBad d (fld (wd t.ws 1) 3 0) = false)
    (hu : u.ctxUnitsBusy (tget ({} : SavedCtx) (u.ctxSwD d).images (fld (wd t.ws 1) 3 0)).scheds = false) (hl : u.ft.locked = true)
    (hbase : u.baseBad (wd t.ws 2) (wd t.ws 3) Config.staleShiftCode.toNat Config.startPastCode.toNat = none) :
    v.restoreCtxOrder d n = (u.ctxClaimed d (fld (wd t.ws 1) 3 0) (u.baseOf (wd t.ws 2) (wd t.ws 3)) t.o).accept d t.o.ring := by
  unfold Dev.restoreCtxOrder
  rw [if_neg (by simp [hb]), Dev.order_of_taken h]
  dsimp only
  rw [if_neg (by simp [hs]), if_neg (by simp [ha]), if_neg (by simp [hu]), if_neg (by simp [hl]), hbase]
  rfl

/-! ### RESTORE_CTX_COPY_DONE: a core's scratchpad from the save area (R417, R583, R587) -/

theorem sortBy_eq_nil {α : Type} {key : α → Nat} {l : List α} : sortBy key l = [] ↔ l = [] := by
  cases l with
  | nil => exact ⟨fun _ => rfl, fun _ => rfl⟩
  | cons x r =>
    refine ⟨fun h => ?_, fun h => absurd h (List.cons_ne_nil _ _)⟩
    rw [sortBy] at h
    generalize sortBy key r = t at h
    cases t with
    | nil => simp [insBy] at h
    | cons y s =>
      rw [insBy] at h
      split at h <;> simp at h

/-- No granule of a range meets a path error exactly when none is bad and none lies on a channel that has failed. -/
theorem Dev.errGrains_eq_nil {v : Dev} {lo n : Nat} : v.errGrains lo n = [] ↔
    (∀ g ∈ v.hbm.stkBad, lo / 64 ≤ g → (lo + n) / 64 ≤ g) ∧ ∀ i < n / 64, (v.chan (v.hbm.chanOf (64 * (lo / 64 + i)))).failed = false := by
  have hdead : (if v.hbm.chans.any (fun e => e.2.failed) then
        ((List.range (n / 64)).map (fun i => lo / 64 + i)).filter (fun g => (v.chan (v.hbm.chanOf (64 * g))).failed) else []) = [] ↔
      ∀ i < n / 64, (v.chan (v.hbm.chanOf (64 * (lo / 64 + i)))).failed = false := by
    split
    · simp [List.filter_eq_nil_iff]
    · next h =>
      refine ⟨fun _ i _ => ?_, fun _ => rfl⟩
      by_contra hf
      have hne : v.chan (v.hbm.chanOf (64 * (lo / 64 + i))) ≠ {} := fun h0 => hf (by rw [h0])
      exact h (List.any_eq_true.mpr ⟨_, mem_of_tget_ne hne, (Bool.not_eq_false _).mp hf⟩)
  unfold Dev.errGrains
  dsimp only
  rw [sortBy_eq_nil, List.append_eq_nil_iff, hdead, and_congr_left_iff]
  intro hlive
  rw [hdead.mpr hlive]
  simp [List.filter_eq_nil_iff]

/-- What a path error counted and posted leaves of the stacks: every byte, the map, the channels that failed; no granule turns bad. -/
structure Dev.ErrorsMet (v u : Dev) : Prop where
  hbm : ∃ bad chans, u.hbm = { v.hbm with stkBad := bad, chans := chans }
  bad : ∀ g ∈ u.hbm.stkBad, g ∈ v.hbm.stkBad
  failed : ∀ ch, (u.chan ch).failed = (v.chan ch).failed

theorem Dev.ErrorsMet.refl (v : Dev) : v.ErrorsMet v := ⟨⟨_, _, rfl⟩, fun _ h => h, fun _ => rfl⟩

theorem Dev.ErrorsMet.trans {u v w : Dev} (h : u.ErrorsMet v) (g : v.ErrorsMet w) : u.ErrorsMet w := by
  obtain ⟨⟨_, _, hv⟩, hbad, hfailed⟩ := h
  obtain ⟨⟨b, c, hw⟩, gbad, gfailed⟩ := g
  exact ⟨⟨b, c, by rw [hw, hv]⟩, fun x hx => hbad x (gbad x hx), fun ch => (gfailed ch).trans (hfailed ch)⟩

theorem Dev.ErrorsMet.mem {v u : Dev} (h : v.ErrorsMet u) : u.hbm.mem = v.hbm.mem := by
  obtain ⟨⟨_, _, hu⟩, -, -⟩ := h
  rw [hu]

theorem Dev.ErrorsMet.errGrains {v u : Dev} (h : v.ErrorsMet u) {lo n : Nat} (he : v.errGrains lo n = []) : u.errGrains lo n = [] := by
  obtain ⟨⟨b, c, hu⟩, hbad, hfailed⟩ := h
  have hchan (a : Nat) : u.hbm.chanOf a = v.hbm.chanOf a := by rw [hu]; rfl
  rw [Dev.errGrains_eq_nil] at he ⊢
  exact ⟨fun g hg => he.1 g (hbad g hg), fun i hi => by rw [hchan, hfailed]; exact he.2 i hi⟩

theorem Dev.pathError_met (v : Dev) (x req : Nat) : v.ErrorsMet (v.pathError x req) := by
  refine ⟨⟨_, _, rfl⟩, fun g hg => List.mem_of_mem_erase hg, fun ch => ?_⟩
  show ((v.modChan (v.hbm.chanOf x) (fun c => { c with pathErr := satAdd c.pathErr 1 65535 })).chan ch).failed = _
  by_cases h : ch = v.hbm.chanOf x
  · rw [h, Dev.chan_modChan_same]
  · rw [Dev.chan_modChan_ne _ _ _ h]

theorem Dev.pathErrors_met (v : Dev) (gs : List Nat) (req : Nat) : v.ErrorsMet (v.pathErrors gs req) := by
  unfold Dev.pathErrors
  induction gs generalizing v with
  | nil => exact .refl v
  | cons g r ih => exact (v.pathError_met (64 * g) req).trans (ih (v.pathError (64 * g) req))

theorem tget_map_shift {α : Type} (d : α) {f : Nat → Nat} {k : Nat} (t : Tab α) (hf : ∀ e ∈ t, f e.1 = f k → e.1 = k) :
    tget d (t.map (fun e => (f e.1, e.2))) (f k) = tget d t k := by
  induction t with
  | nil => rfl
  | cons e r ih =>
    rw [List.map_cons, tget, tget, ih (fun x hx => hf x (List.mem_cons_of_mem e hx))]
    have hiff : f e.1 = f k ↔ e.1 = k := ⟨hf e List.mem_cons_self, congrArg f⟩
    simp only [hiff]

/-- A byte of a range moved. -/
theorem mget_cellsAt (m : Mem) (lo n dst : Nat) {a : Nat} (h : a < n) : mget (cellsAt m lo n dst) (dst + a) = mget m (lo + a) := by
  have hshift := tget_map_shift 0#8 (f := fun x => x - lo + dst) (k := lo + a) (m.filter (fun e => decide (lo ≤ e.1) && decide (e.1 < lo + n)))
    (fun e he q => by simp only [List.mem_filter, Bool.and_eq_true, decide_eq_true_eq] at he; omega)
  have hkey : lo + a - lo + dst = dst + a := by omega
  rw [hkey] at hshift
  refine hshift.trans (mget_filter_keep m (fun x => decide (lo ≤ x) && decide (x < lo + n)) ?_)
  simp [h]

/-- With no error met a range is spliced to what the stacks hold. -/
theorem spliced_nil (cs old : List Host.Cell) : spliced cs old [] = cs := by
  have hnone : old.filter (fun e => ([] : List Nat).contains (e.1 / 64)) = [] := List.filter_eq_nil_iff.mpr (by simp)
  rw [spliced, hnone, List.foldl_nil, List.filter_eq_self]
  simp

theorem Dev.modCore_met (v : Dev) (c : Nat) (g : Core → Core) : v.ErrorsMet (v.modCore c g) := ⟨⟨_, _, rfl⟩, fun _ h => h, fun _ => rfl⟩

theorem Dev.fillCore_met (v : Dev) (base c : Nat) : v.ErrorsMet (v.fillCore base c) := by
  unfold Dev.fillCore
  exact (v.modCore_met c _).trans (Dev.pathErrors_met _ _ _)

/-- The scratchpad filled from a save area that meets no path error. -/
theorem Dev.fillCore_spad {v : Dev} {base c : Nat} (h : v.errGrains (base + coreArea c) spadBytes = []) {a : Nat} (ha : a < spadBytes) :
    mget ((v.fillCore base c).core c).spad a = mget v.hbm.mem (base + coreArea c + a) := by
  unfold Dev.fillCore
  dsimp only
  rw [(Dev.pathErrors_within _ _ _).spad_eq (by decide), Dev.core_modCore_same]
  dsimp only
  rw [h, spliced_nil]
  have hback := mget_cellsAt (cellsAt v.hbm.mem (base + coreArea c) spadBytes (base + coreArea c)) (base + coreArea c) spadBytes 0 ha
  rw [Nat.zero_add] at hback
  rw [hback, mget_cellsAt _ _ _ _ ha]

theorem Dev.fillCore_spad_ne (v : Dev) (base : Nat) {c x : Nat} (h : x ≠ c) : ((v.fillCore base c).core x).spad = (v.core x).spad := by
  unfold Dev.fillCore
  dsimp only
  rw [(Dev.pathErrors_within _ _ _).spad_eq (by decide), Dev.core_modCore_ne _ _ h]

section
variable {v : Dev} {warm : Nat → Bool} {base c : Nat}

theorem Dev.fillCores_spad_ne (u : Dev) (cs : List Nat) (hc : c ∉ cs) :
    ((u.forAll cs (fun w x => if warm x then w else w.fillCore base x)).core c).spad = (u.core c).spad := by
  induction cs generalizing u with
  | nil => rfl
  | cons x r ih =>
    have hne : c ≠ x := fun h => hc (h ▸ List.mem_cons_self)
    refine (ih _ (fun h => hc (List.mem_cons_of_mem x h))).trans ?_
    dsimp only
    split
    · rfl
    · exact u.fillCore_spad_ne base hne

/-- Of the cores filled each gets the bytes of its part of the save area. -/
theorem Dev.fillCores_spad (hw : warm c = false) (he : v.errGrains (base + coreArea c) spadBytes = []) {a : Nat} (ha : a < spadBytes) (u : Dev)
    (hm : v.ErrorsMet u) (cs : List Nat) (hn : cs.Nodup) (hc : c ∈ cs) :
    mget ((u.forAll cs (fun w x => if warm x then w else w.fillCore base x)).core c).spad a = mget v.hbm.mem (base + coreArea c + a) := by
  induction cs generalizing u with
  | nil => exact absurd hc List.not_mem_nil
  | cons x r ih =>
    obtain ⟨hx, hr⟩ := List.nodup_cons.mp hn
    obtain rfl | hcr := List.mem_cons.mp hc
    · have htail := Dev.fillCores_spad_ne (warm := warm) (base := base) (if warm c then u else u.fillCore base c) r hx
      refine (congrArg (fun m => mget m a) htail).trans ?_
      rw [if_neg (by simp [hw]), Dev.fillCore_spad (hm.errGrains he) ha, hm.mem]
    · refine ih _ ?_ hr hcr
      dsimp only
      split
      · exact hm
      · exact hm.trans (u.fillCore_met base x)

end

/-- The device with what a restored context gets back beside its memories. -/
def Dev.ctxPutBack (v : Dev) (cs : List Nat) (img : SavedCtx) : Dev :=
  let v2 := v.forAll (img.cores.filter (fun e => cs.contains e.1)) (fun u e => u.modCore e.1 (fun k => k.putBack e.2))
  let v3 := v2.forAll img.ctrs (fun u e => u.modCtr e.1 (fun c => { e.2 with transit := c.transit }))
  v3.forAll img.stackRegs (fun u e => u.modStk e.1 (fun q => { q with gens := e.2.gens, seeded := e.2.seeded, rngFree := e.2.rngFree }))

/-- The die's registers once a restored context's copy is done. -/
def CtxSw.cleared (q : CtxSw) (ctx : Nat) : CtxSw := { q with busy := .none, order := none, scheds := [], images := tset {} q.images ctx {} }

/-- The device with a context's memories and registers back. -/
def Dev.ctxFilled (v : Dev) (die : Nat) : Dev :=
  let s := v.ctxSwD die
  let base := v.area die s.ctx
  ((v.forAll (v.coresOf s.scheds) (fun u c => if warmFor s.warm c s.ctx then u else u.fillCore base c)).ctxPutBack (v.coresOf s.scheds)
    (tget {} s.images s.ctx))

/-- The device with a context back, before its schedules go on. -/
def Dev.ctxBack (v : Dev) (die : Nat) : Dev :=
  let s := v.ctxSwD die
  let base := v.area die s.ctx
  ((v.ctxFilled die).pathErrors ((v.ctxFilled die).errGrains (base + 0x30000000) 0x100000) (74 + die)).modCtxSwD die (fun q => q.cleared s.ctx)

theorem Dev.ctxCopied_eq (v : Dev) (die : Nat) : v.ctxCopied die =
    if (v.ctxSwD die).busy = .restoring ∧ v.issueOk then
      let u := (v.ctxBack die).forAll (v.ctxSwD die).scheds (fun u id => u.continueSched id)
      match (v.ctxSwD die).order with
      | none => u
      | some o => u.complete die o 0 0 (v.ctxSwD die).ctx 0
    else v := rfl

theorem Dev.ctxPutBack_spad (v : Dev) (cs : List Nat) (img : SavedCtx) (c : Nat) : ((v.ctxPutBack cs img).core c).spad = (v.core c).spad := by
  unfold Dev.ctxPutBack
  dsimp only
  refine (Dev.forAll_keeps (fun u => (u.core c).spad) (f := fun (u : Dev) (e : Nat × Stack) => u.modStk e.1 _)
    (fun u e => (Dev.modStk_within u e.1 _).spad_eq (by decide) c) _ _).trans ?_
  refine (Dev.forAll_keeps (fun u => (u.core c).spad) (f := fun (u : Dev) (e : Nat × Ctr) => u.modCtr e.1 _)
    (fun u e => (Dev.modCtr_within u e.1 _).spad_eq (by decide) c) _ _).trans ?_
  refine Dev.forAll_keeps (fun u => (u.core c).spad) (f := fun (u : Dev) (e : Nat × Core) => u.modCore e.1 (fun k => k.putBack e.2)) (fun u e => ?_) _ _
  by_cases h : c = e.1
  · rw [h, Dev.core_modCore_same]
    rfl
  · rw [Dev.core_modCore_ne _ _ h]

theorem Dev.ctxPutBack_bases (v : Dev) (cs : List Nat) (img : SavedCtx) : (v.ctxPutBack cs img).bases = v.bases := by
  unfold Dev.ctxPutBack
  dsimp only
  refine (Dev.forAll_keeps Dev.bases (f := fun (u : Dev) (e : Nat × Stack) => u.modStk e.1 _) (fun _ _ => rfl) _ _).trans ?_
  refine (Dev.forAll_keeps Dev.bases (f := fun (u : Dev) (e : Nat × Ctr) => u.modCtr e.1 _) (fun _ _ => rfl) _ _).trans ?_
  exact Dev.forAll_keeps Dev.bases (f := fun (u : Dev) (e : Nat × Core) => u.modCore e.1 _) (fun _ _ => rfl) _ _

theorem Dev.ctxFilled_spad {v : Dev} {d c : Nat} (hc : c ∈ v.coresOf (v.ctxSwD d).scheds) (hw : warmFor (v.ctxSwD d).warm c (v.ctxSwD d).ctx = false)
    (he : v.errGrains (v.area d (v.ctxSwD d).ctx + coreArea c) spadBytes = []) {a : Nat} (ha : a < spadBytes) :
    mget ((v.ctxFilled d).core c).spad a = mget v.hbm.mem (v.area d (v.ctxSwD d).ctx + coreArea c + a) := by
  unfold Dev.ctxFilled
  dsimp only
  rw [Dev.ctxPutBack_spad]
  exact Dev.fillCores_spad (warm := fun c => warmFor (v.ctxSwD d).warm c (v.ctxSwD d).ctx) hw he ha v (.refl v) _
    (List.Nodup.filter _ List.nodup_range) hc

theorem Dev.ctxFilled_bases (v : Dev) (d : Nat) : (v.ctxFilled d).bases = v.bases := by
  unfold Dev.ctxFilled
  dsimp only
  rw [Dev.ctxPutBack_bases]
  refine Dev.forAll_keeps Dev.bases (fun u c => ?_) _ v
  split
  · rfl
  · exact (u.fillCore_within _ c).bases_eq (by decide)

theorem Dev.ctxBack_within (v : Dev) (d : Nat) : Dev.Within [.stackMem, .channels, .hif, .contextSwitch] (v.ctxFilled d) (v.ctxBack d) :=
  (Dev.modCtxSwD_within _ _ _).step rfl ((Dev.pathErrors_within _ _ _).widen rfl)

/-- What the schedules go on with touches neither scratchpads nor context switches, and the end of the order neither. -/
theorem Dev.ctxCopied_keeps {v : Dev} {d : Nat} (hb : (v.ctxSwD d).busy = .restoring) (hi : v.issueOk = true) :
    Dev.Within headParts (v.ctxBack d) (v.ctxCopied d) ∧ (v.ctxCopied d).bases = (v.ctxBack d).bases := by
  have hgo : Dev.Within headParts (v.ctxBack d) ((v.ctxBack d).forAll (v.ctxSwD d).scheds (fun u id => u.continueSched id)) :=
    .forAll Dev.continueSched_narrow (.refl _ _)
  have hbases := Dev.forAll_keeps Dev.bases Dev.continueSched_bases (v.ctxSwD d).scheds (v.ctxBack d)
  rw [v.ctxCopied_eq, if_pos ⟨hb, hi⟩]
  dsimp only
  split
  · exact ⟨hgo, hbases⟩
  · exact ⟨(Dev.complete_within _ _ _ _ _ _ _).step rfl hgo, ((Dev.complete_within _ _ _ _ _ _ _).bases_eq (by decide)).trans hbases⟩

/-! ### O54 -/

theorem saveCopyDone_clause {s : State} {d : DieId} (hb : (s.dev.ctxSwD d).busy = .draining ∨ (s.dev.ctxSwD d).busy = .saving)
    (hd : s.dev.drained d (s.dev.ctxSwD d).scheds = true) (hi : s.dev.issueOk = true) :
    ∃ w : Dev, exec (.saveCopyDone d) s = .next (s.ends w) ∧ (w.ctxSwD d).busy = .none ∧ (w.ctxSwD d).order = none ∧
      (tget ({} : SavedCtx) (w.ctxSwD d).images (s.dev.ctxSwD d).ctx).scheds = (s.dev.ctxSwD d).scheds ∧
      (∀ id ∈ (s.dev.ctxSwD d).scheds, (w.sched id).phase = .saved) ∧
      ∀ id ∈ (s.dev.ctxSwD d).scheds, ∀ k ∈ (s.dev.sched id).streams, (w.strm k).loaded = false := by
  obtain ⟨q, hswitch, hsaved, hfree⟩ := Dev.saveCopied_effect hb hd hi
  refine ⟨s.dev.saveCopied d, rfl, ?_, ?_, ?_, hsaved, hfree⟩
  · rw [hswitch]
    rfl
  · rw [hswitch]
    rfl
  · rw [hswitch, CtxSw.copied]
    dsimp only
    rw [tget_tset_same]
    rfl

theorem restoreCtxCopyDone_clause {s : State} {d : DieId} (hb : (s.dev.ctxSwD d).busy = .restoring) (hi : s.dev.issueOk = true) :
    ∃ w : Dev, exec (.restoreCtxCopyDone d) s = .next (s.ends w) ∧ (w.ctxSwD d).busy = .none ∧
      tget ({} : SavedCtx) (w.ctxSwD d).images (s.dev.ctxSwD d).ctx = {} ∧ (∀ id, (w.sched id).base = (s.dev.sched id).base) ∧
      ∀ c ∈ s.dev.coresOf (s.dev.ctxSwD d).scheds, warmFor (s.dev.ctxSwD d).warm c (s.dev.ctxSwD d).ctx = false →
        s.dev.errGrains (s.dev.area d (s.dev.ctxSwD d).ctx + coreArea c) spadBytes = [] → ∀ a < spadBytes,
          mget (w.core c).spad a = mget s.dev.hbm.mem (s.dev.area d (s.dev.ctxSwD d).ctx + coreArea c + a) := by
  obtain ⟨hwithin, hbases⟩ := Dev.ctxCopied_keeps hb hi
  have hback := s.dev.ctxBack_within d
  have hswitch : ∃ q : CtxSw, (s.dev.ctxCopied d).ctxSwD d = q.cleared (s.dev.ctxSwD d).ctx :=
    ⟨_, (hwithin.ctxSwD_eq (by decide) d).trans (Dev.ctxSwD_modCtxSwD_same _ _ _)⟩
  obtain ⟨q, hq⟩ := hswitch
  refine ⟨s.dev.ctxCopied d, rfl, ?_, ?_, fun id => ?_, fun c hc hw he a ha => ?_⟩
  · rw [hq]
    rfl
  · rw [hq, CtxSw.cleared]
    dsimp only
    rw [tget_tset_same]
  · exact congrFun (hbases.trans ((hback.bases_eq (by decide)).trans (s.dev.ctxFilled_bases d))) id
  · rw [hwithin.spad_eq (by decide), hback.spad_eq (by decide)]
    exact Dev.ctxFilled_spad hc hw he ha

/-- Settles O54: each command of a context switch by what it leaves of the die's switch, its schedules and its cores. -/
theorem contextSwitchComplete : Obligations.ContextSwitchComplete := by
  unfold Obligations.ContextSwitchComplete
  intro d s
  refine ⟨fun n t u => ⟨fun h hs ha => ?_, fun hb h hs hn ha hu hl hbase => ?_⟩, fun hb => ?_, saveCopyDone_clause, restoreCtxCopyDone_clause⟩
  · refine ⟨s.dev.saveOrder d.val n.val, rfl, ?_⟩
    rw [Dev.saveOrder_drains h hs ha]
    exact ⟨rfl, rfl, rfl, rfl⟩
  · refine ⟨s.dev.restoreCtxOrder d.val n.val, rfl, ?_⟩
    rw [Dev.restoreCtxOrder_claims hb h hs ha hu hl hbase, (Dev.accept_within _ _ _).ctxSwD_eq (by decide)]
    obtain ⟨hbusy, hctx, hscheds⟩ := u.ctxClaimed_switch d.val (fld (wd t.ws 1) 3 0) (u.baseOf (wd t.ws 2) (wd t.ws 3)) t.o
    refine ⟨hbusy, hctx, hscheds, fun id hid => ?_⟩
    rw [(Dev.accept_within _ _ _).sched_eq (by decide)]
    have hback := u.ctxClaimed_phaseBase d.val (fld (wd t.ws 1) 3 0) (u.baseOf (wd t.ws 2) (wd t.ws 3)) t.o hn hid
    obtain ⟨hphase, hrebased⟩ := Prod.mk.inj hback
    refine ⟨hphase.trans ?_, fun hrun hlive => hrebased.trans ?_⟩
    · unfold Sched.comeBack
      split <;> rfl
    · unfold Sched.comeBack
      rw [if_pos ⟨hrun, by simp [hlive]⟩]
  · refine ⟨s.dev.drainExpiry d.val, rfl, ?_⟩
    rw [Dev.drainExpiry_saves hb]
    exact ⟨rfl, rfl⟩

end Sys2Proof.Machine


/-! The host interface (17): a read of no byte just past the stacks does not wait for a map rebuild, and from it the refutation of O56. -/

namespace Sys2Proof.Machine

/-- The end of stack memory is no place of the module (Table 9.1). -/
theorem placeOf_stackEnd : placeOf stackEnd = .none := by decide

/-- A read at the end of stack memory finds no place there: it is answered at once with no data, whatever a map rebuild does. -/
theorem Dev.bar4_stackEnd (v : Dev) (die : Nat) : v.bar4 die stackEnd 0 none = v.send (.hostRead die none) := by
  have hmap : bar4Map stackEnd 0 = some stackEnd := by decide
  have hoff : offOf (w64 stackEnd) = stackEnd := by decide
  have hgo : v.fillWait (w64 stackEnd) = false := by
    unfold Dev.fillWait
    rw [hoff, placeOf_stackEnd, Bool.and_false]
  have hread : v.rdModule die stackEnd 0 (76 + die) = (.err 3, v) := by
    unfold Dev.rdModule
    rw [placeOf_stackEnd]
  unfold Dev.bar4
  dsimp only
  simp only [hmap, hread]
  rw [hgo]
  rfl

/-- The reset state with a map rebuild that fills the stacks (R440). -/
def State.rebuilding : State := { State.reset with dev := State.reset.dev.modHbm (fun h => { h with busy := true }) }

/-- Refutes O56: with a map rebuild in progress, a BAR4 read of 0 bytes at offset 0x48_0000_0000, which ends within stack memory (off + len ≤
stackEnd) but lies at no place of it, is answered at once with an abort; the statement says that it waits for the fill. -/
theorem not_hostRegistersComplete : ¬ Obligations.HostRegistersComplete := by
  unfold Obligations.HostRegistersComplete
  intro h
  obtain ⟨-, -, -, -, hbar4, -⟩ := h 0 State.rebuilding
  obtain ⟨-, -, hwaits, -⟩ := hbar4 stackEnd 0 []
  have hsays := hwaits (Nat.le_refl stackEnd) rfl
  have hdoes : exec (.bar4Access 0 stackEnd 0 none) State.rebuilding =
      .next (State.rebuilding.ends (State.rebuilding.dev.send (.hostRead 0 none))) :=
    congrArg (fun w => Host.Outcome.next (State.rebuilding.ends w)) (Dev.bar4_stackEnd State.rebuilding.dev 0)
  rw [hdoes] at hsays
  have hwaiting := congrArg (fun t : State => t.dev.hbm.waiting) (Host.Outcome.next.inj hsays)
  have hleft : ∀ w : Dev, (State.rebuilding.ends w).dev.hbm = w.hbm := fun w => (Dev.merged_within _ w).hbm_eq (by decide)
  rw [hleft, hleft] at hwaiting
  exact absurd (congrArg List.length hwaiting) (by decide)

end Sys2Proof.Machine


/-! The collective engines (14): writes of operands into the stacks, the packets of a chunk through the gateway, and from these O48. -/

namespace Sys2Proof.Machine

/-! ### Path errors do not depend on what a write leaves (R415, R417) -/

/-- What decides whether an access meets a path error reads the same in both. -/
structure Dev.SamePaths (v w : Dev) : Prop where
  usable : w.hbm.usable = v.hbm.usable
  chanOf : w.hbm.chanOf = v.hbm.chanOf
  bad : w.hbm.stkBad = v.hbm.stkBad
  failed : ∀ c, (w.chan c).failed = (v.chan c).failed

theorem Dev.SamePaths.refl (v : Dev) : v.SamePaths v := ⟨rfl, rfl, rfl, fun _ => rfl⟩
theorem Dev.SamePaths.trans {u v w : Dev} (h : u.SamePaths v) (g : v.SamePaths w) : u.SamePaths w :=
  ⟨g.usable.trans h.usable, g.chanOf.trans h.chanOf, g.bad.trans h.bad, fun c => (g.failed c).trans (h.failed c)⟩
theorem Dev.SameWays.samePaths {v w : Dev} (h : v.SameWays w) : v.SamePaths w := ⟨h.usable, h.chanOf, h.bad, h.failed⟩

theorem Dev.SamePaths.pathAt_eq {v w : Dev} (h : v.SamePaths w) (a n : Nat) : w.pathAt a n = v.pathAt a n := by
  simp only [Dev.pathAt, h.usable, h.chanOf, h.failed, h.bad]

theorem Dev.tookSlot_samePaths (v : Dev) (ch : Nat) : v.SamePaths (v.tookSlot ch) := by
  unfold Dev.tookSlot
  split
  · exact (v.modStk_sameWays _ _).samePaths
  · exact .refl v

/-- A write queued or in effect: the queue and the bytes decide no path error. -/
theorem Dev.submit_write_samePaths (v : Dev) (a : Nat) (bs : List Byte) (req : Nat) (owner : Option Owner) :
    v.SamePaths (v.submit (.write a bs) req owner) := by
  have hqueue (ch : Nat) : v.SamePaths (v.modChan ch (fun c => { c with queue := c.queue ++ [.write a bs] })) := by
    refine ⟨rfl, rfl, rfl, fun c => ?_⟩
    by_cases h : c = ch
    · rw [h, Dev.chan_modChan_same]
    · rw [Dev.chan_modChan_ne _ _ _ h]
  have hheld (hs : List HeldWrite → List HeldWrite) (ps : List Nat → List Nat) : v.SamePaths (v.modHeld hs ps) := ⟨rfl, rfl, rfl, fun _ => rfl⟩
  unfold Dev.submit
  dsimp only
  split
  · exact (hheld _ _).trans (Dev.tookSlot_samePaths _ _)
  · split
    · exact ((hqueue _).trans (Dev.tookSlot_samePaths _ _)).trans (Dev.stkPut_sameWays _ _ _).samePaths
    · exact (v.stkPut_sameWays a bs).samePaths

theorem Dev.stackWriteN_samePaths (req : Nat) (owner : Option Owner) (fuel : Nat) :
    ∀ (v : Dev) (a : Nat) (bs : List Byte), v.SamePaths (v.stackWriteN a bs req owner fuel) := by
  induction fuel with
  | zero => exact fun v _ _ => .refl v
  | succ fuel ih =>
    intro v a bs
    unfold Dev.stackWriteN
    split
    · exact .refl v
    · exact (v.submit_write_samePaths _ _ _ _).trans (ih _ _ _)

theorem Dev.stackWrite_samePaths (v : Dev) (a : Nat) (bs : List Byte) (req : Nat) (owner : Option Owner) : v.SamePaths (v.stackWrite a bs req owner) := by
  unfold Dev.stackWrite
  split
  · exact Dev.stackWriteN_samePaths req owner _ v a bs
  · exact (v.stkPut_sameWays a bs).samePaths

/-! ### A unit's write to the stacks -/

/-- A permitted write of bytes to stack memory that meets no path error. -/
theorem Dev.wrGlobal_stack {v : Dev} {die : Nat} {a : W64} {bs : List Byte} (ha : a.toNat < stackEnd) (hbs : 0 < bs.length)
    (hr : v.permits die a.toNat bs.length true false = true) (hp : v.pathAt a.toNat bs.length = none) (req : Nat) (owner : Option Owner) :
    v.wrGlobal die a bs req owner = (none, v.stackPut a.toNat bs req owner) := by
  obtain ⟨hspace, hchip, hoff⟩ := stack_address ha
  have hword : w64 a.toNat = a := BitVec.ofNat_toNat 64 a |>.trans (BitVec.setWidth_eq a)
  rw [hword] at hspace hchip hoff
  have hne : bs.isEmpty = false := by simpa using List.ne_nil_of_length_pos hbs
  simp [Dev.wrGlobal, Dev.wrIssued, Dev.wrModule, Dev.stackPut, hr, hspace, hchip, hoff, placeOf_stack ha, hne, hp]

theorem Dev.stackPut_samePaths (v : Dev) (a : Nat) (bs : List Byte) (req : Nat) (owner : Option Owner) : v.SamePaths (v.stackPut a bs req owner) :=
  (v.softErrs_sameWays a bs.length).samePaths.trans (Dev.stackWrite_samePaths _ a bs req owner)

/-! ### Operands (R511, Table 12.5) -/

theorem Dev.ceBad_stack {v : Dev} {die n : Nat} {a : W64} {wr : Bool} (h : v.ceBad die a n wr = none) (ha : a.toNat < stackEnd) (hn : n ≠ 0) :
    v.permits die a.toNat n wr false = true ∧ v.pathAt a.toNat n = none := by
  unfold Dev.ceBad at h
  rw [if_neg hn, placeOf_stack ha] at h
  split at h
  · cases h
  · next hr => exact ⟨by simpa using hr, by simpa using h⟩

theorem Dev.ceMeets_none {v : Dev} {die : Nat} {es : List (W64 × Nat × Bool)} (h : v.ceMeets die es = none) :
    ∀ e ∈ es, v.ceBad die e.1 e.2.1 e.2.2 = none := List.findSome?_eq_none_iff.mp h

/-- An operand written, in a state where nothing holds writes: its bytes land, and what follows meets the same errors. -/
theorem Dev.wrGlobal_lands {v : Dev} {die : Nat} {a : W64} {bs : List Byte} (hv : v.holdsNone) (ha : a.toNat + bs.length ≤ stackEnd)
    (hbs : 0 < bs.length) (hbad : v.ceBad die a bs.length true = none) (req : Nat) (owner : Option Owner) :
    (v.wrGlobal die a bs req owner).2.hbm.mem = mwrite v.hbm.mem a.toNat bs ∧ v.SamePaths (v.wrGlobal die a bs req owner).2 ∧
      (v.wrGlobal die a bs req owner).2.holdsNone := by
  have hlt : a.toNat < stackEnd := by omega
  obtain ⟨hr, hp⟩ := Dev.ceBad_stack hbad hlt (by omega)
  have hholds := (v.wrGlobal_within die a bs req owner).holdsNone (by decide) (by decide) hv
  rw [Dev.wrGlobal_stack hlt hbs hr hp] at hholds ⊢
  exact ⟨(Dev.stackPut_effect hv _ _ _ _).1, v.stackPut_samePaths _ _ _ _, hholds⟩

theorem Dev.ceBad_congr {v w : Dev} {die n : Nat} {a : W64} (h : v.SamePaths w) (hr : ∀ b m, w.permits die b m true false = v.permits die b m true false)
    (ha : a.toNat < stackEnd) : w.ceBad die a n true = v.ceBad die a n true := by
  unfold Dev.ceBad
  rw [hr, placeOf_stack ha]
  dsimp only
  rw [h.pathAt_eq]

/-! ### What a CE entry leaves of its results (R502 to R505) -/

/-- The parts that the writes of a CE entry's results work on. -/
def ceWriteParts : List Part :=
  [.spads, .counters, .syncStatus, .stackMem, .channels, .stackRegs, .hostMem, .heldWrites, .contextSwitch, .hif]

theorem bytesOf_length (w : Nat) (cs : List Nat) : (bytesOf w cs).length = cs.length * w := by
  induction cs with
  | nil => simp [bytesOf]
  | cons c r ih =>
    rw [bytesOf, List.map_cons, List.flatten_cons, List.length_append, toBytes_length, ← bytesOf, ih, List.length_cons]
    ring

section
variable {v : Dev} {d : Nat} {f : Flight} {rs : Option (List Nat)}

/-- The bytes written: the results at DST, then the count word. -/
theorem Dev.ceFinish_mem (hv : v.holdsNone) (hs : (decCe f.words).statEn = false) (hcc : (decCe f.words).ccaddr + 8 ≤ stackEnd)
    (hcount : v.ceBad d (w64 (decCe f.words).ccaddr) 8 true = none)
    (hdst : 0 < (bytesOf (ceBytes (decCe f.words).ty) (rs.getD [])).length →
      (decCe f.words).a.toNat + (bytesOf (ceBytes (decCe f.words).ty) (rs.getD [])).length ≤ stackEnd ∧
        v.ceBad d (decCe f.words).a (bytesOf (ceBytes (decCe f.words).ty) (rs.getD [])).length true = none) (cc sat : Nat) :
    (v.ceFinish d f rs cc sat).hbm.mem =
      mwrite (mwrite v.hbm.mem (decCe f.words).a.toNat (bytesOf (ceBytes (decCe f.words).ty) (rs.getD []))) (decCe f.words).ccaddr (toBytes cc 8) := by
  have haddr : (w64 (decCe f.words).ccaddr).toNat = (decCe f.words).ccaddr := by
    rw [w64, BitVec.toNat_ofNat, Nat.mod_eq_of_lt]
    exact lt_of_lt_of_le (Nat.lt_of_lt_of_le (by omega) hcc) (by decide)
  unfold Dev.ceFinish
  dsimp only
  generalize bytesOf (ceBytes (decCe f.words).ty) (rs.getD []) = bs at hdst
  generalize hu : (if bs.isEmpty then v else (v.wrGlobal d (decCe f.words).a bs (74 + d) (some (.entry (144 + d) f.idx))).2) = u
  have hfirst : u.hbm.mem = mwrite v.hbm.mem (decCe f.words).a.toNat bs ∧ v.SamePaths u ∧ u.holdsNone ∧
      ∀ b m, u.permits d b m true false = v.permits d b m true false := by
    rw [← hu]
    split
    · next hnil =>
      rw [List.isEmpty_iff.mp hnil]
      exact ⟨rfl, .refl v, hv, fun _ _ => rfl⟩
    · next hne =>
      have hpos : 0 < bs.length := List.length_pos_iff.mpr (by simpa using hne)
      obtain ⟨hend, hbad⟩ := hdst hpos
      obtain ⟨hmem, hpaths, hholds⟩ := Dev.wrGlobal_lands hv hend hpos hbad (74 + d) (some (.entry (144 + d) f.idx))
      exact ⟨hmem, hpaths, hholds, fun b m => (Dev.wrGlobal_within _ _ _ _ _ _).permits_eq (by decide) d b m true false⟩
  obtain ⟨hmem, hpaths, hholds, hpermits⟩ := hfirst
  have hcount' : u.ceBad d (w64 (decCe f.words).ccaddr) 8 true = none :=
    (Dev.ceBad_congr hpaths hpermits (by rw [haddr]; omega)).trans hcount
  have hsecond := (Dev.wrGlobal_lands (bs := toBytes cc 8) hholds (by rw [haddr, toBytes_length]; exact hcc) (by rw [toBytes_length]; decide)
    (by rw [toBytes_length]; exact hcount') (74 + d) (some (.entry (144 + d) f.idx))).1
  rw [if_neg (by simp [hs]), (Dev.modFlight_within _ _ _ _).mem_eq (by decide), hsecond, hmem, haddr]

/-- The entry waits for nothing more. -/
theorem Dev.ceFinish_ends (hf : f ∈ (v.strm (144 + d)).flights) (hw : f.withdrawn = false) (cc sat : Nat) :
    ∃ g ∈ ((v.ceFinish d f rs cc sat).strm (144 + d)).flights, g.idx = f.idx ∧ g.wait = .none := by
  unfold Dev.ceFinish
  dsimp only
  refine ⟨_, Dev.mem_modFlight (f := f) ?_ hw _, rfl, rfl⟩
  have hwrites (bs : List Byte) : Dev.Within ceWriteParts v
      ((if bs.isEmpty then v else (v.wrGlobal d (decCe f.words).a bs (74 + d) (some (.entry (144 + d) f.idx))).2).wrGlobal d
        (w64 (decCe f.words).ccaddr) (toBytes cc 8) (74 + d) (some (.entry (144 + d) f.idx))).2 :=
    (Dev.wrGlobal_within _ _ _ _ _ _).step rfl (.ite (.refl _ v) (v.wrGlobal_within _ _ _ _ _))
  rw [(Dev.Within.ite ((Dev.submit_within _ _ _ _).step rfl (hwrites _)) (hwrites _)).strm_eq (by decide)]
  exact hf

end

/-- Two disjoint writes read back, and every other byte is as it was. -/
theorem mread_two_writes (m : Mem) {a b n k : Nat} {xs ys : List Byte} (hx : xs.length = n) (hy : ys.length = k) (h : a + n ≤ b ∨ b + k ≤ a) :
    mread (mwrite (mwrite m a xs) b ys) a n = xs ∧ mread (mwrite (mwrite m a xs) b ys) b k = ys ∧
      ∀ i, (i < a ∨ a + n ≤ i) → (i < b ∨ b + k ≤ i) → mget (mwrite (mwrite m a xs) b ys) i = mget m i := by
  subst hx
  subst hy
  refine ⟨?_, mread_mwrite _ _ _, fun i ha hb => ?_⟩
  · rw [mread_mwrite_outside _ _ _ h, mread_mwrite]
  · rw [mget_mwrite_outside _ _ _ hb, mget_mwrite_outside _ _ _ ha]

/-! ### CE_SEND (R500, R501, R508) -/

theorem fld_lt_chips (x : W64) : fld x 61 48 < 16384 := Nat.mod_lt _ (by decide)

/-- The packets of a chunk are CHUNK_DATA and CHUNK_DONE. -/
theorem cePackets_kind {o : CeOps} {cc sat : Nat} {el pl : List Byte} : ∀ y ∈ cePackets o cc el pl sat, y.1 < 16 := by
  intro y hy
  simp only [cePackets, List.mem_append, List.mem_map, List.mem_singleton] at hy
  obtain (⟨p, -, rfl⟩ | ⟨p, -, rfl⟩) | rfl := hy
  · exact Nat.lt_of_sub_pos (by decide : 0 < 16 - 5)
  · exact Nat.lt_of_sub_pos (by decide : 0 < 16 - 5)
  · exact Nat.lt_of_sub_pos (by decide : 0 < 16 - 6)

/-- A request whose route names the gateway is sent there, and noted. -/
theorem Dev.sendReq_gateway {v : Dev} {die kind chip : Nat} (hk : kind < 16) (hc : chip < 16384) (h0 : bit (v.route die chip).toNat 0 = true)
    (h1 : bit (v.route die chip).toNat 1 = true) (len sunit id off ctag : Nat) (data : List Byte) (purpose : ReqPurpose) :
    ∃ rq, v.sendReq die kind chip len sunit id off ctag data purpose = (.sent none,
      (v.send (.packet .gateway (mkPacket kind chip v.chip die len sunit id off ctag data))).modFabD die (fun f => { f with reqs := f.reqs ++ [rq] })) := by
  have hroute (su of : Nat) : v.routeFor die chip su of = (.gateway, die) := by
    have hon : v.routeOn die chip su of = .gateway := by
      unfold Dev.routeOn
      dsimp only
      rw [if_neg (by simp [h0]), if_pos h1]
    unfold Dev.routeFor
    rw [hon]
  have hpacket : v.sendPacket die (mkPacket kind chip v.chip die len sunit id off ctag data) =
      (.sent none, v.send (.packet .gateway (mkPacket kind chip v.chip die len sunit id off ctag data))) := by
    unfold Dev.sendPacket
    simp only [pDchip_mkPacket hk hc, hroute]
  refine ⟨{ chip := chip, sunit := sunit, id := id % 4096, off := off, len := len, write := decide (kind ≠ 1), purpose := purpose, link := none }, ?_⟩
  unfold Dev.sendReq
  simp only [hpacket]

/-- A chunk whose route names the gateway: its packets are sent there in order, counted, and no byte of the stacks changes. -/
theorem Dev.ceSendAll_gateway {die chip lid tag : Nat} (hc : chip < 16384) (ps : List (Nat × Nat × List Byte)) :
    ∀ v : Dev, chip ≠ v.chip → bit (v.route die chip).toNat 0 = true → bit (v.route die chip).toNat 1 = true → (∀ y ∈ ps, y.1 < 16) →
      ∃ u, v.ceSendAll die chip lid tag ps = (none, u) ∧ u.hbm = v.hbm ∧ (u.fabD die).ceSent = (v.fabD die).ceSent + ps.length ∧
        u.out = v.out ++ ps.map (fun y => .packet .gateway (mkPacket y.1 chip v.chip die y.2.2.length 128 lid y.2.1 tag y.2.2)) := by
  induction ps with
  | nil => exact fun v _ _ _ _ => ⟨v, rfl, rfl, rfl, (List.append_nil _).symm⟩
  | cons y r ih =>
    intro v hne h0 h1 hk
    obtain ⟨kind, off, bs⟩ := y
    obtain ⟨rq, hsent⟩ := Dev.sendReq_gateway (hk (kind, off, bs) List.mem_cons_self) hc h0 h1 bs.length 128 lid off tag bs
      (.chunk die (v.fabD die).ceSent)
    generalize hw : ((v.send (.packet .gateway (mkPacket kind chip v.chip die bs.length 128 lid off tag bs))).modFabD die
      (fun f => { f with reqs := f.reqs ++ [rq] })).modFabD die (fun f => { f with ceSent := f.ceSent + 1 }) = w
    have hfab : w.fabD die = { v.fabD die with reqs := (v.fabD die).reqs ++ [rq], ceSent := (v.fabD die).ceSent + 1 } := by
      rw [← hw, Dev.fabD_modFabD_same, Dev.fabD_modFabD_same]
      rfl
    have hroute : w.route die chip = v.route die chip := by rw [Dev.route, hfab, Dev.route]
    have hchip : w.chip = v.chip := by rw [← hw]; rfl
    obtain ⟨u, hall, hhbm, hcount, hout⟩ := ih w (by rw [hchip]; exact hne) (by rw [hroute]; exact h0) (by rw [hroute]; exact h1)
      (fun z hz => hk z (List.mem_cons_of_mem _ hz))
    refine ⟨u, ?_, hhbm.trans (by rw [← hw]; rfl), ?_, ?_⟩
    · rw [Dev.ceSendAll, if_neg hne, hsent]
      dsimp only
      rw [hw]
      exact hall
    · rw [hcount, hfab, List.length_cons]
      dsimp only
      omega
    · rw [hout, hchip, show w.out = v.out ++ [.packet .gateway (mkPacket kind chip v.chip die bs.length 128 lid off tag bs)] by rw [← hw]; rfl,
        List.append_assoc]
      rfl

/-- The packets of the chunk that the head sends. -/
def Dev.headPackets (v : Dev) (die : Nat) (o : CeOps) : List (Nat × Nat × List Byte) :=
  let c := compress o (v.ceRead die o.a (o.count * ceBytes o.ty))
  cePackets o (if o.ccFrom then ofBytes (v.ceRead die (w64 o.ccaddr) 8) % 65536 else o.ccImm) c.1 c.2.1 c.2.2

/-- The operands of a CE_SEND: its source, and the count word it reads. -/
def sendTouch (o : CeOps) : List (W64 × Nat × Bool) :=
  [(o.a, o.count * ceBytes o.ty, false)] ++ (if o.ccFrom then [(w64 o.ccaddr, 8, false)] else [])

/-- A CE_SEND of a granted head whose operands meet nothing, with every packet sent. -/
theorem Dev.ceSend_sends {v u : Dev} {d : Nat} {ws : List W64} (hs : v.startable (144 + d) 0x10 = some ws) (hheld : v.ceHeld (sendTouch (decCe ws)) = false)
    (hmeets : v.ceMeets d (sendTouch (decCe ws)) = none) (hlink : fld (decCe ws).b 61 48 ≠ v.chip → (v.fabD d).relink = false)
    (hall : v.ceSendAll d (fld (decCe ws).b 61 48) (decCe ws).lid (decCe ws).tag (v.headPackets d (decCe ws)) = (none, u)) :
    v.ceSend d = (u.started (144 + d) { idx := (v.strm (144 + d)).next, words := ws, srcDone := true } ((decCe ws).count = 0)).nextHead (144 + d) := by
  have hgo : (v.ceHeld (sendTouch (decCe ws)) || (decide (fld (decCe ws).b 61 48 ≠ v.chip) && (v.fabD d).relink)) = false := by
    rw [hheld, Bool.false_or, Bool.and_eq_false_iff]
    by_cases h : fld (decCe ws).b 61 48 = v.chip
    · exact .inl (by simp [h])
    · exact .inr (hlink h)
  unfold Dev.ceSend
  simp only [hs]
  unfold sendTouch at hgo hmeets
  unfold Dev.headPackets at hall
  dsimp only at hall
  simp only [hgo, hmeets, hall]
  rfl

/-- A flight that a CE stream's head leaves: in flight, its source read. -/
def Dev.flies (w : Dev) (k idx : Nat) (ws : List W64) : Prop := ∃ g ∈ (w.strm k).flights, g.idx = idx ∧ g.words = ws ∧ g.wait = .none ∧ g.srcDone = true

theorem Dev.started_flies (v : Dev) (k idx : Nat) (ws : List W64) (empty : Bool) :
    (v.started k { idx := idx, words := ws, srcDone := true } empty).flies k idx ws :=
  ⟨_, v.mem_started_flights k _ empty, rfl, rfl, rfl, Bool.true_or empty⟩

/-! ### CE_RECV and its toleration (R502 to R506) -/

theorem Dev.ceWaiting_spec {v : Dev} {d : Nat} {f : Flight} (h : v.ceWaiting d = some f) : f ∈ (v.strm (144 + d)).flights ∧ f.withdrawn = false := by
  have hp := List.find?_some h
  simp only [Bool.and_eq_true] at hp
  exact ⟨List.mem_of_find?_eq_some h, by simpa using hp.1.2⟩

theorem Dev.slotReady_congr {v w : Dev} {d : Nat} (h : w.fabD d = v.fabD d) (ws : List W64) : w.slotReady d ws = v.slotReady d ws := by
  have hland : w.land d (decCe ws).lid = v.land d (decCe ws).lid := Dev.land_congr (by rw [h]) _
  rw [Dev.slotReady, Dev.slotReady, hland]

/-- With none waiting the head starts, and waits while its slot is not complete. -/
theorem Dev.ceRecv_starts {v : Dev} {d : Nat} {ws : List W64} (hn : v.ceWaiting d = none) (hs : v.startable (144 + d) 0x11 = some ws)
    (hr : v.slotReady d ws = false) : v.ceRecv d =
      (v.started (144 + d) { idx := (v.strm (144 + d)).next, words := ws, wait := .recv } ((decCe ws).count = 0)).nextHead (144 + d) := by
  have hstarted (f : Flight) (b : Bool) : (v.started (144 + d) f b).slotReady d ws = false :=
    (Dev.slotReady_congr ((v.started_within _ f b).fabD_eq (by decide) d) ws).trans hr
  unfold Dev.ceRecv
  simp only [hn, hs, hstarted]
  rfl

/-- The results of a CE_RECV: each landed element combined with its source element, divided by the count under AVG. -/
def Dev.ceResults (v : Dev) (d : Nat) (o : CeOps) (cc : Nat) : List Nat :=
  (List.range o.count).map (fun i => ceResult o cc (ceCombine o ((if o.useSrc then v.ceSource d o else []).getD i 0) ((v.ceLanded d o).getD i 0)))

/-- A waiting entry whose chunk has landed as expected is combined, and its slot is free. -/
theorem Dev.ceRecv_combines {v : Dev} {d : Nat} {f : Flight} (hw : v.ceWaiting d = some f) (hr : v.slotReady d f.words = true)
    (hfmt : (v.land d (decCe f.words).lid).cfmt = (decCe f.words).cfmt) (han : (v.land d (decCe f.words).lid).announced = some (ceSent (decCe f.words)))
    (hheld : v.ceHeld (recvTouch (decCe f.words) true) = false) (hmeets : v.ceMeets d (recvTouch (decCe f.words) true) = none) : v.ceRecv d =
      (v.ceFinish d f (some (v.ceResults d (decCe f.words) (satAdd (v.ccLoc d (decCe f.words)) (v.land d (decCe f.words).lid).cc 65535)))
        (satAdd (v.ccLoc d (decCe f.words)) (v.land d (decCe f.words).lid).cc 65535) (v.land d (decCe f.words).lid).sat).modLand d
          (decCe f.words).lid Land.free := by
  unfold Dev.ceRecv
  simp only [hw, hr]
  rw [if_pos trivial]
  unfold Dev.ceCombineNow
  dsimp only
  rw [if_neg (by simp [hfmt, han]), if_neg (by simp [hheld])]
  simp only [hmeets]
  rfl

/-- A waiting entry that has waited TOLWAIT epochs and may proceed goes on without its chunk. -/
theorem Dev.ceTolerated_proceeds {v : Dev} {d : Nat} {f : Flight} (hw : v.ceWaiting d = some f) (ht : (decCe f.words).tol = true)
    (hr : v.slotReady d f.words = false) (hwait : (decCe f.words).tolwait * 4096 ≤ f.tol) (hheld : v.ceHeld (recvTouch (decCe f.words) false) = false)
    (hmeets : v.ceMeets d (recvTouch (decCe f.words) false) = none) : v.ceTolerated d =
      ((((v.ceFinish d f (if (decCe f.words).useSrc then some ((v.ceSource d (decCe f.words)).map (ceResult (decCe f.words) (v.ccLoc d (decCe f.words)))) else none)
        (v.ccLoc d (decCe f.words)) (v.land d (decCe f.words).lid).sat).modLand d (decCe f.words).lid
          (fun l => { l with abandoned := true, atag := (decCe f.words).tag, atagValid := true })).modFabD d
        (fun q => { q with tolerated := satAdd q.tolerated 1 4095 })).ev d (74 + d) 0x048 (d + (decCe f.words).lid * 65536) (decCe f.words).tag) := by
  unfold Dev.ceTolerated
  simp only [hw]
  rw [if_neg (by simp [ht, hr, hheld, Nat.not_lt.mpr hwait])]
  simp only [hmeets]

/-! ### CE_NORM and CE_FENCE (R507, R508) -/

theorem Dev.ceNorm_sums {v : Dev} {d : Nat} {ws : List W64} (hs : v.startable (144 + d) 0x12 = some ws)
    (hheld : v.ceHeld [((decCe ws).b, 8 * ((decCe ws).count % 65536), false), ((decCe ws).a, 8, true)] = false)
    (hmeets : v.ceMeets d [((decCe ws).b, 8 * ((decCe ws).count % 65536), false), ((decCe ws).a, 8, true)] = none) : v.ceNorm d =
      (((v.wrGlobal d (decCe ws).a (toBytes (fp64.enc (sum64 ((codesOf 8 ((decCe ws).count % 65536)
        (v.ceRead d (decCe ws).b (8 * ((decCe ws).count % 65536)))).map fp64.decode))) 8) (74 + d) (some (.entry (144 + d) (v.strm (144 + d)).next))).2).started
        (144 + d) { idx := (v.strm (144 + d)).next, words := ws, srcDone := true } ((decCe ws).count % 65536 = 0)).nextHead (144 + d) := by
  unfold Dev.ceNorm
  simp only [hs, hheld, hmeets]
  rfl

section
variable {v : Dev} {d : Nat}

theorem Dev.started_ceUnacked (k : Nat) (f : Flight) (n : Nat) : (v.started k f true).ceUnacked d n = v.ceUnacked d n := by
  have hwithin := v.started_within k f true
  rw [Dev.ceUnacked, hwithin.fabD_eq (by decide), hwithin.held_eq (by decide), hwithin.chip_eq (by decide), Dev.ceUnacked]

/-- A fence waits while a packet sent before it is not acknowledged. -/
theorem Dev.fenceEnd_waits {f : Flight} (h : v.ceUnacked d f.step = true) : v.fenceEnd d f = v := if_pos h

/-- A fence ends once all are acknowledged and none was lost. -/
theorem Dev.fenceEnd_ends {f : Flight} (h : v.ceUnacked d f.step = false) (hl : (v.fabD d).ceLost = []) :
    v.fenceEnd d f = (v.modFabD d (fun q => { q with ceLost := q.ceLost.filter (fun x => !decide (x.1 < f.step)) })).modFlight (144 + d) f.idx
      (fun g => { g with wait := .none }) := by
  unfold Dev.fenceEnd
  dsimp only
  rw [if_neg (by simp [h]), hl]
  rfl

theorem Dev.ceFence_starts {ws : List W64}
    (hn : (v.strm (144 + d)).flights.find? (fun g => decide (g.wait = .fence) && !g.withdrawn && !g.part) = none)
    (hs : v.startable (144 + d) 0x13 = some ws) : v.ceFence d =
      ((v.started (144 + d) { idx := (v.strm (144 + d)).next, words := ws, wait := .fence, step := (v.fabD d).ceSent } true).fenceEnd d
        { idx := (v.strm (144 + d)).next, words := ws, wait := .fence, step := (v.fabD d).ceSent }).nextHead (144 + d) := by
  unfold Dev.ceFence
  simp only [hn, hs]

theorem Dev.ceFence_goes_on {f : Flight}
    (hf : (v.strm (144 + d)).flights.find? (fun g => decide (g.wait = .fence) && !g.withdrawn && !g.part) = some f) :
    v.ceFence d = v.fenceEnd d f ∧ f ∈ (v.strm (144 + d)).flights ∧ f.withdrawn = false := by
  have hp := List.find?_some hf
  simp only [Bool.and_eq_true] at hp
  refine ⟨?_, List.mem_of_find?_eq_some hf, by simpa using hp.1.2⟩
  unfold Dev.ceFence
  simp only [hf]

end

/-! ### O48 -/

/-- Every stack byte outside the extents named reads as before. -/
def Dev.keepsBut (v w : Dev) (es : List (Nat × Nat)) : Prop := ∀ b, (∀ e ∈ es, b < e.1 ∨ e.1 + e.2 ≤ b) → mget w.hbm.mem b = mget v.hbm.mem b

section
variable {s : State} {d : DieId}

theorem ceSend_clause {u : Dev} {ws : List W64} (hs : s.dev.startable (144 + d.val) 0x10 = some ws)
    (hheld : s.dev.ceHeld (sendTouch (decCe ws)) = false) (hmeets : s.dev.ceMeets d (sendTouch (decCe ws)) = none)
    (hlink : fld (decCe ws).b 61 48 ≠ s.dev.chip → (s.dev.fabD d).relink = false)
    (hall : s.dev.ceSendAll d (fld (decCe ws).b 61 48) (decCe ws).lid (decCe ws).tag (s.dev.headPackets d (decCe ws)) = (none, u)) :
    ∃ w : Dev, exec (.ceSend d) s = .next (s.ends (w.nextHead (144 + d.val))) ∧ w.fab = u.fab ∧ w.out = u.out ∧ w.hbm = u.hbm ∧
      w.flies (144 + d.val) (s.dev.strm (144 + d.val)).next ws := by
  have hexec : exec (.ceSend d) s = .next (s.ends (s.dev.ceSend d)) := rfl
  rw [hexec, Dev.ceSend_sends hs hheld hmeets hlink hall]
  have hwithin := u.started_within (144 + d.val) { idx := (s.dev.strm (144 + d.val)).next, words := ws, srcDone := true } ((decCe ws).count = 0)
  exact ⟨_, rfl, hwithin.1 .fabric (by decide), hwithin.out_eq (by decide), hwithin.hbm_eq (by decide), u.started_flies _ _ _ _⟩

theorem ceSend_gateway_clause {ws : List W64} (hs : s.dev.startable (144 + d.val) 0x10 = some ws)
    (hheld : s.dev.ceHeld (sendTouch (decCe ws)) = false) (hmeets : s.dev.ceMeets d (sendTouch (decCe ws)) = none)
    (hlink : fld (decCe ws).b 61 48 ≠ s.dev.chip → (s.dev.fabD d).relink = false) (hne : fld (decCe ws).b 61 48 ≠ s.dev.chip)
    (h0 : bit (s.dev.route d (fld (decCe ws).b 61 48)).toNat 0 = true) (h1 : bit (s.dev.route d (fld (decCe ws).b 61 48)).toNat 1 = true) :
    ∃ w : Dev, exec (.ceSend d) s = .next (s.ends (w.nextHead (144 + d.val))) ∧ w.hbm = s.dev.hbm ∧
      (w.fabD d).ceSent = (s.dev.fabD d).ceSent + (s.dev.headPackets d (decCe ws)).length ∧
      w.out = s.dev.out ++ (s.dev.headPackets d (decCe ws)).map (fun y =>
        .packet .gateway (mkPacket y.1 (fld (decCe ws).b 61 48) s.dev.chip d y.2.2.length 128 (decCe ws).lid y.2.1 (decCe ws).tag y.2.2)) ∧
      w.flies (144 + d.val) (s.dev.strm (144 + d.val)).next ws := by
  obtain ⟨u, hall, hhbm, hcount, hout⟩ := Dev.ceSendAll_gateway (lid := (decCe ws).lid) (tag := (decCe ws).tag) (fld_lt_chips (decCe ws).b)
    (s.dev.headPackets d (decCe ws)) s.dev hne h0 h1 cePackets_kind
  obtain ⟨w, hexec, hfab, hwout, hwhbm, hflies⟩ := ceSend_clause hs hheld hmeets hlink hall
  exact ⟨w, hexec, hwhbm.trans hhbm, by rw [Dev.fabD, hfab]; exact hcount, hwout.trans hout, hflies⟩

theorem ceRecv_starts_clause {ws : List W64} (hn : s.dev.ceWaiting d = none) (hs : s.dev.startable (144 + d.val) 0x11 = some ws)
    (hr : s.dev.slotReady d ws = false) : ∃ w : Dev, exec (.ceRecv d) s = .next (s.ends (w.nextHead (144 + d.val))) ∧ w.hbm = s.dev.hbm ∧
      ∃ g ∈ (w.strm (144 + d.val)).flights, g.idx = (s.dev.strm (144 + d.val)).next ∧ g.words = ws ∧ g.wait = .recv := by
  have hexec : exec (.ceRecv d) s = .next (s.ends (s.dev.ceRecv d)) := rfl
  rw [hexec, Dev.ceRecv_starts hn hs hr]
  exact ⟨_, rfl, (Dev.started_within _ _ _ _).hbm_eq (by decide), _, Dev.mem_started_flights _ _ _ _, rfl, rfl, rfl⟩

section
variable {f : Flight} (hw : s.dev.ceWaiting d = some f) (ha : s.dev.moult.active = false) (hb : s.dev.hbm.busy = false)
  (hs : (decCe f.words).statEn = false) (hcc : (decCe f.words).ccaddr + 8 ≤ stackEnd)
include hw ha hb hs hcc

theorem ceRecv_combines_clause (hr : s.dev.slotReady d f.words = true)
    (hfmt : (s.dev.land d (decCe f.words).lid).cfmt = (decCe f.words).cfmt)
    (han : (s.dev.land d (decCe f.words).lid).announced = some (ceSent (decCe f.words)))
    (hheld : s.dev.ceHeld (recvTouch (decCe f.words) true) = false) (hmeets : s.dev.ceMeets d (recvTouch (decCe f.words) true) = none)
    (hend : (decCe f.words).a.toNat + (decCe f.words).count * ceBytes (decCe f.words).ty ≤ stackEnd)
    (hapart : (decCe f.words).a.toNat + (decCe f.words).count * ceBytes (decCe f.words).ty ≤ (decCe f.words).ccaddr ∨
      (decCe f.words).ccaddr + 8 ≤ (decCe f.words).a.toNat) :
    let o := decCe f.words
    let l := s.dev.land d o.lid
    let n := o.count * ceBytes o.ty
    let cc := satAdd (s.dev.ccLoc d o) l.cc 65535
    ∃ w : Dev, exec (.ceRecv d) s = .next (s.ends w) ∧ w.stk8 o.a.toNat n = bytesOf (ceBytes o.ty) (s.dev.ceResults d o cc) ∧
      w.stk8 o.ccaddr 8 = toBytes cc 8 ∧ s.dev.keepsBut w [(o.a.toNat, n), (o.ccaddr, 8)] ∧ w.land d o.lid = l.free ∧
      ∃ g ∈ (w.strm (144 + d.val)).flights, g.idx = f.idx ∧ g.wait = .none := by
  intro o l n cc
  have hexec : exec (.ceRecv d) s = .next (s.ends (s.dev.ceRecv d)) := rfl
  obtain ⟨hf, hfw⟩ := Dev.ceWaiting_spec hw
  have hbad := Dev.ceMeets_none hmeets
  have hcount : s.dev.ceBad d (w64 o.ccaddr) 8 true = none := hbad (w64 o.ccaddr, 8, true) (by simp [recvTouch, o])
  have hdst : s.dev.ceBad d o.a n true = none := hbad (o.a, n, true) (by simp [recvTouch, o, n])
  have hlen : (bytesOf (ceBytes o.ty) (s.dev.ceResults d o cc)).length = n := by
    rw [bytesOf_length, Dev.ceResults, List.length_map, List.length_range]
  have hmem := Dev.ceFinish_mem (rs := some (s.dev.ceResults d o cc)) ⟨ha, hb⟩ hs hcc hcount
    (fun _ => by
      change o.a.toNat + (bytesOf (ceBytes o.ty) (s.dev.ceResults d o cc)).length ≤ stackEnd ∧
        s.dev.ceBad d o.a (bytesOf (ceBytes o.ty) (s.dev.ceResults d o cc)).length true = none
      rw [hlen]
      exact ⟨hend, hdst⟩) cc l.sat
  obtain ⟨g, hg, hgidx, hgwait⟩ := Dev.ceFinish_ends (rs := some (s.dev.ceResults d o cc)) hf hfw cc l.sat
  obtain ⟨hread, hword, hrest⟩ := mread_two_writes s.dev.hbm.mem hlen (toBytes_length cc 8) hapart
  rw [hexec, Dev.ceRecv_combines hw hr hfmt han hheld hmeets]
  generalize hu : s.dev.ceFinish d f _ _ _ = u
  rw [hu] at hmem hg
  have hland : u.land d o.lid = l := by
    rw [← hu]
    exact Dev.land_congr (by rw [(Dev.ceFinish_within _ _ _ _ _ _).fabD_eq (by decide)]) _
  refine ⟨_, rfl, ?_, ?_, ?_, ?_, g, ?_, hgidx, hgwait⟩
  · rw [Dev.stk8, (Dev.modLand_within _ _ _ _).mem_eq (by decide), hmem]
    exact hread
  · rw [Dev.stk8, (Dev.modLand_within _ _ _ _).mem_eq (by decide), hmem]
    exact hword
  · intro b hout
    rw [(Dev.modLand_within _ _ _ _).mem_eq (by decide), hmem]
    exact hrest b (hout (o.a.toNat, n) (by simp)) (hout (o.ccaddr, 8) (by simp))
  · rw [Dev.land_modLand_same, hland]
  · rw [(Dev.modLand_within _ _ _ _).strm_eq (by decide)]
    exact hg

theorem ceTolerated_clause (ht : (decCe f.words).tol = true) (hr : s.dev.slotReady d f.words = false)
    (hwait : (decCe f.words).tolwait * 4096 ≤ f.tol) (hheld : s.dev.ceHeld (recvTouch (decCe f.words) false) = false)
    (hmeets : s.dev.ceMeets d (recvTouch (decCe f.words) false) = none) :
    let o := decCe f.words
    ∃ w : Dev, exec (.ceTolerated d) s = .next (s.ends w) ∧ (w.land d o.lid).abandoned = true ∧ (w.land d o.lid).atag = o.tag ∧
      (w.land d o.lid).atagValid = true ∧ (w.fabD d).tolerated = satAdd (s.dev.fabD d).tolerated 1 4095 ∧
      (∃ g ∈ (w.strm (144 + d.val)).flights, g.idx = f.idx ∧ g.wait = .none) ∧
      (o.useSrc = false → s.dev.keepsBut w [(o.ccaddr, 8)] ∧ w.stk8 o.ccaddr 8 = toBytes (s.dev.ccLoc d o) 8) := by
  intro o
  have hexec : exec (.ceTolerated d) s = .next (s.ends (s.dev.ceTolerated d)) := rfl
  obtain ⟨hf, hfw⟩ := Dev.ceWaiting_spec hw
  rw [hexec, Dev.ceTolerated_proceeds hw ht hr hwait hheld hmeets]
  generalize hrs : (if (decCe f.words).useSrc then some ((s.dev.ceSource d (decCe f.words)).map
    (ceResult (decCe f.words) (s.dev.ccLoc d (decCe f.words)))) else none) = rs
  obtain ⟨g, hg, hgidx, hgwait⟩ := Dev.ceFinish_ends (rs := rs) hf hfw (s.dev.ccLoc d (decCe f.words)) (s.dev.land d (decCe f.words).lid).sat
  have hmem : (decCe f.words).useSrc = false → (s.dev.ceFinish d f rs (s.dev.ccLoc d (decCe f.words)) (s.dev.land d (decCe f.words).lid).sat).hbm.mem =
      mwrite s.dev.hbm.mem o.ccaddr (toBytes (s.dev.ccLoc d o) 8) := fun hsrc => by
    obtain rfl : none = rs := by rw [← hrs, if_neg (by simp [hsrc])]
    exact Dev.ceFinish_mem (rs := none) ⟨ha, hb⟩ hs hcc (Dev.ceMeets_none hmeets (w64 o.ccaddr, 8, true) (by simp [recvTouch, o]))
      (fun h => absurd h (by simp [bytesOf])) _ _
  generalize hu : s.dev.ceFinish d f rs _ _ = u at hg hmem
  have hfab : u.fabD d = s.dev.fabD d := by rw [← hu, (Dev.ceFinish_within _ _ _ _ _ _).fabD_eq (by decide)]
  generalize hy : Dev.ev _ _ _ _ _ _ = y
  have hyfab : y.fabD d = { (u.modLand d o.lid (fun l => { l with abandoned := true, atag := o.tag, atagValid := true })).fabD d with
      tolerated := satAdd (s.dev.fabD d).tolerated 1 4095 } := by
    rw [← hy, (Dev.ev_within _ _ _ _ _ _).fabD_eq (by decide), Dev.fabD_modFabD_same, Dev.modLand, Dev.fabD_modFabD_same, hfab]
  have hyland : y.land d o.lid = { u.land d o.lid with abandoned := true, atag := o.tag, atagValid := true } := by
    rw [Dev.land_congr (v := u.modLand d o.lid (fun l => { l with abandoned := true, atag := o.tag, atagValid := true })) (by rw [hyfab]),
      Dev.land_modLand_same]
  have hyrest : Dev.Within [.hif, .fabric] u y := hy ▸ (Dev.ev_within _ _ _ _ _ _).step rfl
    ((Dev.modFabD_within _ _ _).step rfl ((Dev.modLand_within _ _ _ _).widen rfl))
  refine ⟨y, rfl, ?_, ?_, ?_, ?_, ⟨g, ?_, hgidx, hgwait⟩, fun hsrc => ⟨fun b hout => ?_, ?_⟩⟩
  · rw [hyland]
  · rw [hyland]
  · rw [hyland]
  · rw [hyfab]
  · rw [hyrest.strm_eq (by decide)]
    exact hg
  · rw [hyrest.mem_eq (by decide), hmem hsrc, mget_mwrite_outside _ _ _ (by rw [toBytes_length]; exact hout (o.ccaddr, 8) (by simp))]
  · have hword := mread_mwrite s.dev.hbm.mem o.ccaddr (toBytes (s.dev.ccLoc d o) 8)
    rw [toBytes_length] at hword
    rw [Dev.stk8, hyrest.mem_eq (by decide), hmem hsrc]
    exact hword

end

theorem ceNorm_clause {ws : List W64} (hs : s.dev.startable (144 + d.val) 0x12 = some ws)
    (hheld : s.dev.ceHeld [((decCe ws).b, 8 * ((decCe ws).count % 65536), false), ((decCe ws).a, 8, true)] = false)
    (hmeets : s.dev.ceMeets d [((decCe ws).b, 8 * ((decCe ws).count % 65536), false), ((decCe ws).a, 8, true)] = none)
    (ha : s.dev.moult.active = false) (hb : s.dev.hbm.busy = false) (hend : (decCe ws).a.toNat + 8 ≤ stackEnd) :
    ∃ w : Dev, exec (.ceNorm d) s = .next (s.ends (w.nextHead (144 + d.val))) ∧
      w.stk8 (decCe ws).a.toNat 8 = toBytes (fp64.enc (sum64 ((codesOf 8 ((decCe ws).count % 65536)
        (s.dev.ceRead d (decCe ws).b (8 * ((decCe ws).count % 65536)))).map fp64.decode))) 8 ∧
      s.dev.keepsBut w [((decCe ws).a.toNat, 8)] ∧ w.flies (144 + d.val) (s.dev.strm (144 + d.val)).next ws := by
  have hexec : exec (.ceNorm d) s = .next (s.ends (s.dev.ceNorm d)) := rfl
  rw [hexec, Dev.ceNorm_sums hs hheld hmeets]
  generalize hbs : toBytes (fp64.enc _) 8 = bs
  have hlen : bs.length = 8 := by rw [← hbs, toBytes_length]
  have hbad : s.dev.ceBad d (decCe ws).a bs.length true = none := by
    rw [hlen]
    exact Dev.ceMeets_none hmeets ((decCe ws).a, 8, true) (by simp)
  obtain ⟨hmem, -, -⟩ := Dev.wrGlobal_lands ⟨ha, hb⟩ (by rw [hlen]; exact hend) (by omega) hbad (74 + d.val)
    (some (.entry (144 + d.val) (s.dev.strm (144 + d.val)).next))
  generalize Dev.wrGlobal _ _ _ _ _ _ = r at hmem
  refine ⟨_, rfl, ?_, fun b hout => ?_, r.2.started_flies _ _ _ _⟩
  · have hword := mread_mwrite s.dev.hbm.mem (decCe ws).a.toNat bs
    rw [hlen] at hword
    rw [Dev.stk8, (Dev.started_within _ _ _ _).mem_eq (by decide), hmem]
    exact hword
  · rw [(Dev.started_within _ _ _ _).mem_eq (by decide), hmem, mget_mwrite_outside _ _ _ (by rw [hlen]; exact hout _ (List.mem_singleton_self _))]

theorem ceFence_starts_clause {ws : List W64}
    (hn : (s.dev.strm (144 + d.val)).flights.find? (fun g => decide (g.wait = .fence) && !g.withdrawn && !g.part) = none)
    (hs : s.dev.startable (144 + d.val) 0x13 = some ws) :
    (s.dev.ceUnacked d (s.dev.fabD d).ceSent = true → ∃ w : Dev, exec (.ceFence d) s = .next (s.ends (w.nextHead (144 + d.val))) ∧
      ∃ g ∈ (w.strm (144 + d.val)).flights, g.idx = (s.dev.strm (144 + d.val)).next ∧ g.words = ws ∧ g.wait = .fence ∧
        g.step = (s.dev.fabD d).ceSent) ∧
    (s.dev.ceUnacked d (s.dev.fabD d).ceSent = false → (s.dev.fabD d).ceLost = [] →
      ∃ w : Dev, exec (.ceFence d) s = .next (s.ends (w.nextHead (144 + d.val))) ∧ w.flies (144 + d.val) (s.dev.strm (144 + d.val)).next ws) := by
  have hexec : exec (.ceFence d) s = .next (s.ends (s.dev.ceFence d)) := rfl
  rw [hexec, Dev.ceFence_starts hn hs]
  generalize hf : ({ idx := (s.dev.strm (144 + d.val)).next, words := ws, wait := .fence, step := (s.dev.fabD d).ceSent } : Flight) = f
  have hmem := s.dev.mem_started_flights (144 + d.val) f true
  have hlost : ((s.dev.started (144 + d.val) f true).fabD d).ceLost = (s.dev.fabD d).ceLost := by
    rw [(Dev.started_within _ _ _ _).fabD_eq (by decide)]
  refine ⟨fun h => ?_, fun h hl => ?_⟩
  · rw [Dev.fenceEnd_waits (by rw [Dev.started_ceUnacked, ← hf]; exact h)]
    refine ⟨_, rfl, _, hmem, ?_⟩
    rw [← hf]
    exact ⟨rfl, rfl, rfl, rfl⟩
  · rw [Dev.fenceEnd_ends (by rw [Dev.started_ceUnacked, ← hf]; exact h) (hlost.trans hl)]
    have hflight : ({ f with sfSent := f.sfSent || true, srcDone := f.srcDone || true } : Flight).withdrawn = false := by rw [← hf]
    refine ⟨_, rfl, _, Dev.mem_modFlight (f := { f with sfSent := f.sfSent || true, srcDone := f.srcDone || true }) ?_ hflight _, ?_⟩
    · rw [(Dev.modFabD_within _ _ _).strm_eq (by decide)]
      exact hmem
    · rw [← hf]
      exact ⟨rfl, rfl, rfl, rfl⟩

theorem ceFence_ends_clause {f : Flight}
    (hf : (s.dev.strm (144 + d.val)).flights.find? (fun g => decide (g.wait = .fence) && !g.withdrawn && !g.part) = some f)
    (h : s.dev.ceUnacked d f.step = false) (hl : (s.dev.fabD d).ceLost = []) : ∃ w : Dev, exec (.ceFence d) s = .next (s.ends w) ∧
      w.hbm = s.dev.hbm ∧ ∃ g ∈ (w.strm (144 + d.val)).flights, g.idx = f.idx ∧ g.wait = .none := by
  have hexec : exec (.ceFence d) s = .next (s.ends (s.dev.ceFence d)) := rfl
  obtain ⟨hgo, hmem, hfw⟩ := Dev.ceFence_goes_on hf
  rw [hexec, hgo, Dev.fenceEnd_ends h hl]
  refine ⟨_, rfl, ?_, _, Dev.mem_modFlight (f := f) ?_ hfw _, rfl, rfl⟩
  · rw [(Dev.modFlight_within _ _ _ _).hbm_eq (by decide), (Dev.modFabD_within _ _ _).hbm_eq (by decide)]
  · rw [(Dev.modFabD_within _ _ _).strm_eq (by decide)]
    exact hmem

end

/-- Settles O48: each command of a collective engine by the packets it sends, the bytes it writes, its slot and its entry in flight. -/
theorem collectivesComplete : Obligations.CollectivesComplete := by
  unfold Obligations.CollectivesComplete
  intro d s ws f
  exact ⟨fun hs hheld hmeets hlink => ⟨fun u hall => ceSend_clause hs hheld hmeets hlink hall,
      fun hne h0 h1 => ceSend_gateway_clause hs hheld hmeets hlink hne h0 h1⟩,
    fun hn hs hr => ceRecv_starts_clause hn hs hr,
    fun hw ha hb hs hcc => ⟨fun hr hfmt han hheld hmeets hend hapart => ceRecv_combines_clause hw ha hb hs hcc hr hfmt han hheld hmeets hend hapart,
      fun ht hr hwait hheld hmeets => ceTolerated_clause hw ha hb hs hcc ht hr hwait hheld hmeets⟩,
    fun hs hheld hmeets ha hb hend => ceNorm_clause hs hheld hmeets ha hb hend,
    fun hn hs => ceFence_starts_clause hn hs, fun hf h hl => ceFence_ends_clause hf h hl⟩

end Sys2Proof.Machine


/-! The groups of an optimiser update (13): what 64 packed codes read back as, the stack writes of one group, and from these O43. -/

namespace Sys2Proof.Machine

/-! ### Codes packed into bytes -/

theorem codeBytes_length (n : Nat) {cs : List Nat} (h : cs.length = 64) : (codeBytes n cs).length = 8 * n := by
  rw [codeBytes, toBytes_length, h]
  omega

/-- A group reads the codes that its bytes pack. -/
theorem Dev.grp_of_codeBytes {v : Dev} {a n : Nat} {cs : List Nat} (hn : 0 < n) (h : cs.length = 64) (hread : v.stk8 a (8 * n) = codeBytes n cs) :
    v.grp a n = cs.map (fun x => x % 2 ^ n) := by
  have hbytes : 64 * n / 8 = 8 * n := by omega
  have hnum : ofBytes (v.stk8 a (8 * n)) = packCodes n cs := by
    rw [hread, codeBytes, ofBytes_toBytes, h, hbytes]
    exact Nat.mod_eq_of_lt (calc packCodes n cs < 2 ^ (cs.length * n) := packCodes_lt n cs
      _ = 256 ^ (8 * n) := by rw [h, show 256 = 2 ^ 8 from rfl, ← pow_mul]; congr 1; omega)
  refine List.ext_getElem (by simp [Dev.grp, h]) fun i hi _ => ?_
  have hi' : i < cs.length := by simpa [Dev.grp, h] using hi
  have hwidth : n * i + n - 1 + 1 - n * i = n := by omega
  have hslice := packCodes_slice n cs i
  rw [List.getD_eq_getElem _ _ hi', Nat.mul_comm] at hslice
  simp only [Dev.grp, hnum, List.getElem_map, List.getElem_range, bits, hwidth, hslice]

theorem Dev.grp_length (v : Dev) (a n : Nat) : (v.grp a n).length = 64 := by simp [Dev.grp]

/-- Element i of a decoded group is its code decoded. -/
theorem Dev.getD_grp_map (v : Dev) (a n : Nat) (f : Nat → Num) (x : Num) {i : Nat} (hi : i < 64) :
    ((v.grp a n).map f).getD i x = f ((v.grp a n).getD i 0) := by
  have hlt : i < (v.grp a n).length := by rwa [v.grp_length]
  rw [List.getD_eq_getElem _ _ (by simpa using hlt), List.getElem_map, List.getD_eq_getElem _ _ hlt]

theorem getD_map_range {α : Type} (f : Nat → α) (x : α) {n i : Nat} (hi : i < n) : ((List.range n).map f).getD i x = f i := by
  rw [List.getD_eq_getElem _ _ (by simpa using hi), List.getElem_map, List.getElem_range]

/-- UPD_WCOPY changes no element. -/
theorem updElem_wcopy (prog : List Nat) (h : Hyper) (c x : Num) (e : Elem) : updElem 0x25 prog h c x e = e := rfl

/-! ### The writes of one group (R444, R450, R451, R455, R458) -/

/-- Element i of a group of an update on uncompacted masters, after the program of its opcode. -/
def Dev.updElemAt (v : Dev) (op : Nat) (o : UpdOps) (h : Hyper) (c : Num) (prog : List Nat) (g i : Nat) : Elem :=
  updElem op prog h c (dec32 ((v.grp (o.grad + 256 * g) 32).getD i 0))
    { p := dec32 ((v.grp (o.master + 256 * g) 32).getD i 0), m := dec32 ((v.grp (o.mom1 + 256 * g) 32).getD i 0),
      v := if op = 0x20 ∨ op = 0x23 then dec32 ((v.grp (o.mom2 + 256 * g) 32).getD i 0) else .zero }

/-- The 64 FP32 codes of one field of the elements of a group. -/
def Dev.updCodes (v : Dev) (op : Nat) (o : UpdOps) (h : Hyper) (c : Num) (prog : List Nat) (g : Nat) (field : Elem → Num) : List Nat :=
  (List.range 64).map (fun i => enc32 (field (v.updElemAt op o h c prog g i)))

theorem Dev.updCodes_length (v : Dev) (op : Nat) (o : UpdOps) (h : Hyper) (c : Num) (prog : List Nat) (g : Nat) (field : Elem → Num) :
    (v.updCodes op o h c prog g field).length = 64 := by simp [Dev.updCodes]

/-- The masters of a group in FP32, as a working copy of them reads them. -/
def Dev.updMasters (v : Dev) (o : UpdOps) (g : Nat) : List Num :=
  (List.range 64).map (fun i => fp32.decode (fp32.enc (dec32 ((v.grp (o.master + 256 * g) 32).getD i 0))))

section
variable (v : Dev) (st idx op : Nat) (o : UpdOps) (h : Hyper) (c : Num) (prog : List Nat) (r : ScaleRec) (g : Nat)

/-- The elements as the definition computes them, from decoded groups. -/
theorem Dev.map_updElem_grp :
    (List.range 64).map (fun i => updElem op prog h c (((v.grp (o.grad + 256 * g) 32).map dec32).getD i .zero)
      { p := ((v.grp (o.master + 256 * g) 32).map fp32.decode).getD i .zero, m := ((v.grp (o.mom1 + 256 * g) 32).map dec32).getD i .zero,
        v := (if op = 0x20 ∨ op = 0x23 then (v.grp (o.mom2 + 256 * g) 32).map dec32 else []).getD i .zero }) =
    (List.range 64).map (v.updElemAt op o h c prog g) := by
  refine List.map_congr_left fun i hi => ?_
  have hlt := List.mem_range.1 hi
  rw [Dev.updElemAt, v.getD_grp_map _ _ _ _ hlt, v.getD_grp_map _ _ _ _ hlt, v.getD_grp_map _ _ _ _ hlt]
  congr 2
  by_cases htwo : op = 0x20 ∨ op = 0x23
  · rw [if_pos htwo, if_pos htwo, v.getD_grp_map _ _ _ _ hlt]
  · rw [if_neg htwo, if_neg htwo]
    rfl

theorem Dev.map_enc32_updElemAt (field : Elem → Num) :
    ((List.range 64).map (v.updElemAt op o h c prog g)).map (fun e => enc32 (field e)) = v.updCodes op o h c prog g field := by
  simp [Dev.updCodes]

theorem Dev.map_enc32_getD_updElemAt :
    (List.range 64).map (fun i => enc32 ((((List.range 64).map (v.updElemAt op o h c prog g)).map (fun e => e.p)).getD i .zero)) =
      v.updCodes op o h c prog g Elem.p := by
  refine List.map_congr_left fun i hi => ?_
  rw [List.map_map, getD_map_range _ _ (List.mem_range.1 hi), Function.comp]

/-- A program without a working copy writes the masters, the first moments, and the second moments where it has them. -/
theorem Dev.updGroup_program (hcompact : o.compact = false) (hop : op ≠ 0x25) (hwc : o.wcEn = false) :
    (v.updGroup st idx op o h c prog r g).1 =
      let own := some (Owner.entry (146 + st) idx)
      let u := (v.stackWrite (o.master + 256 * g) (codeBytes 32 (v.updCodes op o h c prog g Elem.p)) (48 + st) own).stackWrite
        (o.mom1 + 256 * g) (codeBytes 32 (v.updCodes op o h c prog g Elem.m)) (48 + st) own
      if op = 0x20 ∨ op = 0x23 then u.stackWrite (o.mom2 + 256 * g) (codeBytes 32 (v.updCodes op o h c prog g Elem.v)) (48 + st) own else u := by
  simp only [Dev.updGroup, hcompact, hwc, decide_eq_true hop, Bool.false_eq_true, if_false, if_true, Bool.not_true, Bool.not_false, Bool.and_false,
    show 8 * 32 = 256 from rfl, Dev.map_updElem_grp, Dev.map_enc32_getD_updElemAt, Dev.map_enc32_updElemAt, Bool.or_eq_true, decide_eq_true_eq]

/-- A working copy in one scale, without random rounding, is one write of the masters' codes. -/
theorem Dev.updGroup_copy (hcompact : o.compact = false) (hwc : o.wcEn = true) (hsr : o.wcSr = false) (hscheme : r.scheme = 0) :
    (v.updGroup st idx 0x25 o h c prog r g).1 =
      v.stackWrite (o.wcopy + 8 * fmtBits r.fmt * g)
        (codeBytes (fmtBits r.fmt) (quantBlock r.fmt 0 false (dec32 r.tUsed) (v.updMasters o g) (List.replicate 64 none)).codes)
        (48 + st) (some (Owner.entry (146 + st) idx)) := by
  have hlen : (v.updMasters o g).length = 64 := by simp [Dev.updMasters]
  have hmasters : ((List.range 64).map (fun i => fp32.enc ((((List.range 64).map (fun i => updElem 0x25 prog h c (([] : List Num).getD i .zero)
      { p := ((v.grp (o.master + 256 * g) 32).map fp32.decode).getD i .zero, m := ([] : List Num).getD i .zero,
        v := ([] : List Num).getD i .zero })).map (fun e => e.p)).getD i .zero))).map fp32.decode = v.updMasters o g := by
    rw [List.map_map]
    refine List.map_congr_left fun i hi => ?_
    have hlt := List.mem_range.1 hi
    rw [Function.comp, List.map_map, getD_map_range _ _ hlt, Function.comp, updElem_wcopy, v.getD_grp_map _ _ _ _ hlt, dec32]
  simp only [Dev.updGroup, hcompact, hwc, hsr, hscheme, ne_eq, not_true_eq_false, decide_false, Bool.false_eq_true, if_false, if_true, Bool.not_true, Bool.not_false,
    Bool.false_and, show 8 * 32 = 256 from rfl, show decide (0x25 = 0x20) = false from rfl, show decide (0x25 = 0x23) = false from rfl, Bool.or_false]
  have htake : ((v.updMasters o g).drop (0 * 64)).take 64 = v.updMasters o g := by
    rw [Nat.zero_mul, List.drop_zero, List.take_of_length_le (Nat.le_of_eq hlen)]
  rw [hmasters, show 64 / 64 = 1 from rfl, List.range_one, List.map_singleton, List.map_singleton, List.flatten_singleton, htake,
    List.map_const', List.length_range]

end

/-! ### What the writes of a group leave behind -/

theorem Dev.grp_stackWrite {v : Dev} (hv : v.holdsNone) {n : Nat} {cs : List Nat} (hn : 0 < n) (hcs : cs.length = 64) (a req : Nat)
    (owner : Option Owner) : (v.stackWrite a (codeBytes n cs) req owner).grp a n = cs.map (fun x => x % 2 ^ n) :=
  Dev.grp_of_codeBytes hn hcs (by rw [Dev.stk8, Dev.stackWrite_mem hv, ← codeBytes_length n hcs, mread_mwrite])

theorem Dev.grp_stackWrite_apart {v : Dev} (hv : v.holdsNone) {n k a b : Nat} {cs : List Nat} (hcs : cs.length = 64)
    (hapart : b + 8 * k ≤ a ∨ a + 8 * n ≤ b) (req : Nat) (owner : Option Owner) :
    (v.stackWrite a (codeBytes n cs) req owner).grp b k = v.grp b k := by
  have hread : (v.stackWrite a (codeBytes n cs) req owner).stk8 b (8 * k) = v.stk8 b (8 * k) := by
    rw [Dev.stk8, Dev.stackWrite_mem hv, mread_mwrite_outside _ _ _ (by rwa [codeBytes_length n hcs]), Dev.stk8]
  rw [Dev.grp, hread, Dev.grp]

theorem Dev.mget_stackWrite_codes {v : Dev} (hv : v.holdsNone) {n a b : Nat} {cs : List Nat} (hcs : cs.length = 64) (hb : b < a ∨ a + 8 * n ≤ b)
    (req : Nat) (owner : Option Owner) : mget (v.stackWrite a (codeBytes n cs) req owner).hbm.mem b = mget v.hbm.mem b := by
  rw [Dev.stackWrite_mem hv, mget_mwrite_outside _ _ _ (by rwa [codeBytes_length n hcs])]

theorem Dev.holdsNone.stackWrite {v : Dev} (hv : v.holdsNone) (a : Nat) (bs : List Byte) (req : Nat) (owner : Option Owner) :
    (v.stackWrite a bs req owner).holdsNone :=
  (v.stackWrite_within a bs req owner).holdsNone (by decide) (by decide) hv

/-- Two writes of 64 codes apart from each other: what either piece and every other byte read afterwards. -/
theorem Dev.two_code_writes {v : Dev} (hv : v.holdsNone) {n a b : Nat} {xs ys : List Nat} (hn : 0 < n) (hx : xs.length = 64) (hy : ys.length = 64)
    (hapart : a + 8 * n ≤ b ∨ b + 8 * n ≤ a) (req : Nat) (owner : Option Owner) {u : Dev}
    (hu : u = (v.stackWrite a (codeBytes n xs) req owner).stackWrite b (codeBytes n ys) req owner) :
    u.holdsNone ∧ u.grp a n = xs.map (fun x => x % 2 ^ n) ∧ u.grp b n = ys.map (fun x => x % 2 ^ n) ∧
      ∀ i, (i < a ∨ a + 8 * n ≤ i) → (i < b ∨ b + 8 * n ≤ i) → mget u.hbm.mem i = mget v.hbm.mem i := by
  subst hu
  have h1 := hv.stackWrite a (codeBytes n xs) req owner
  exact ⟨h1.stackWrite _ _ _ _, (Dev.grp_stackWrite_apart h1 hy hapart _ _).trans (Dev.grp_stackWrite hv hn hx _ _ _),
    Dev.grp_stackWrite h1 hn hy _ _ _, fun i hia hib => (Dev.mget_stackWrite_codes h1 hy hib _ _).trans (Dev.mget_stackWrite_codes hv hx hia _ _)⟩

/-- Settles O43: a group of a program is two or three separate writes of packed FP32 codes, a group of a working copy one write of its codes. -/
theorem updateGroupResults : Obligations.UpdateGroupResults := by
  intro v st idx op o h c prog r g w pa ma va two e cut hactive hbusy hcompact
  have hv : v.holdsNone := ⟨hactive, hbusy⟩
  have hcodes : ∀ field : Elem → Num, (v.updCodes op o h c prog g field).length = 64 := v.updCodes_length op o h c prog g
  refine ⟨fun hop hwc hpm hva => ?_, fun hop hwc hsr hscheme hfmt => ?_⟩
  · have hw := v.updGroup_program st idx op o h c prog r g hcompact hop hwc
    dsimp only at hw
    obtain ⟨u, hu⟩ : ∃ u, u = (v.stackWrite pa (codeBytes 32 (v.updCodes op o h c prog g Elem.p)) (48 + st) (some (Owner.entry (146 + st) idx))).stackWrite
      ma (codeBytes 32 (v.updCodes op o h c prog g Elem.m)) (48 + st) (some (Owner.entry (146 + st) idx)) := ⟨_, rfl⟩
    obtain ⟨hunone, hmasters, hmoments, hrest⟩ := Dev.two_code_writes hv (by decide) (hcodes _) (hcodes _) hpm _ _ hu
    rw [← hu] at hw
    by_cases htwo : op = 0x20 ∨ op = 0x23
    · rw [if_pos htwo] at hw
      obtain ⟨hpv, hmv⟩ := hva htwo
      refine ⟨?_, ?_, fun _ => ?_, fun b hp hm hout => ?_⟩
      · exact (congrArg (Dev.grp · pa 32) hw).trans ((Dev.grp_stackWrite_apart hunone (hcodes _) hpv _ _).trans hmasters)
      · exact (congrArg (Dev.grp · ma 32) hw).trans ((Dev.grp_stackWrite_apart hunone (hcodes _) hmv _ _).trans hmoments)
      · exact (congrArg (Dev.grp · va 32) hw).trans (Dev.grp_stackWrite hunone (by decide) (hcodes _) _ _ _)
      · exact (congrArg (fun u : Dev => mget u.hbm.mem b) hw).trans ((Dev.mget_stackWrite_codes hunone (hcodes _) (hout htwo) _ _).trans (hrest b hp hm))
    · rw [if_neg htwo] at hw
      exact ⟨(congrArg (Dev.grp · pa 32) hw).trans hmasters, (congrArg (Dev.grp · ma 32) hw).trans hmoments, fun hyes => absurd hyes htwo,
        fun b hp hm _ => (congrArg (fun u : Dev => mget u.hbm.mem b) hw).trans (hrest b hp hm)⟩
  · subst hop
    have hw := v.updGroup_copy st idx o h c prog r g hcompact hwc hsr hscheme
    have hlen : (quantBlock r.fmt 0 false (dec32 r.tUsed) (v.updMasters o g) (List.replicate 64 none)).codes.length = 64 := by
      rw [quantBlock_codes_length, Dev.updMasters, List.length_map, List.length_range, List.length_replicate, Nat.min_self]
    intro n a
    exact ⟨(congrArg (Dev.grp · a n) hw).trans (Dev.grp_stackWrite hv (Nat.pos_of_ne_zero hfmt) hlen _ _ _), fun b hb =>
      (congrArg (fun u : Dev => mget u.hbm.mem b) hw).trans (Dev.mget_stackWrite_codes hv hlen hb _ _)⟩

end Sys2Proof.Machine
